-- ==== Sys2Proof/Word.lean ====
section
/-! DEFINITION. Word and byte types of the ZX4128 model and their plainest helpers (spec/00_scope.md R3: little-endian,
bits numbered from the least significant end). -/

namespace Sys2Proof

/-- One byte. -/
abbrev Byte := BitVec 8

/-- One 32-bit word: a register, a packet word, a configuration word. -/
abbrev Word := BitVec 32

/-- A series of bytes, lowest address first. -/
abbrev Bytes := List Byte

/-- A series of words, lowest offset first. -/
abbrev Words := List Word

end Sys2Proof
end

