-- ==== Sys2Proof/Syntax.lean ====
section
/-! DEFINITION. The rows of spec/opcode_table.json: one constructor of Instr per row, with the row's operands.
The table gives no row a bit, so the operands are those the rule a row cites speaks of: a packet, a register value, the
unit concerned, and WHAT COMES FROM OUTSIDE THE BLOCK in that step (a level on a pin, data of host memory, a measured
value, a physical error). Log entries 4 and 12. -/

namespace Sys2Proof

/-- A comb die, 0 to 3 (R7). -/
abbrev DieId := Fin 4
/-- A Worker core `W00` to `W31` (R7). -/
abbrev WorkerId := Fin 32
/-- A port group `G00` to `G15` (R7). -/
abbrev GroupId := Fin 16
/-- A pin of a group, 0 to 7 (R7). -/
abbrev PinId := Fin 8
/-- A test port `TP000` to `TP127` (R7). -/
abbrev PortId := Fin 128
/-- An HBM stack `HS0` to `HS3` (R7). -/
abbrev StackId := Fin 4
/-- A Laravo link `LL0` to `LL15` (R7). -/
abbrev LinkId := Fin 16
/-- A power domain `PD00` to `PD63` (R7). -/
abbrev DomainId := Fin 64
/-- A repair site `S00` to `S31` (R7). -/
abbrev SiteId := Fin 32

/-- The path a command came on (R33, R41, R326, R429). A forwarded command carries its origin, its arrival link and, when
it was source-routed, the path bytes that lead back (R324). -/
inductive Path where
  | pcie
  | i2c
  | mailbox
  | fwd (origin : Byte) (link : LinkId) (way : Option (BitVec 64))
  deriving DecidableEq, Repr, Inhabited

/-- The key of a command in progress: tag spaces are separate per path (R41). -/
structure JobKey where
  path : Path
  tag  : BitVec 16
  deriving DecidableEq, Repr, Inhabited

/-- Who makes a memory request (the requester of `E020` and `E021`); coded in DESIGN CHOICE log entry 16. -/
inductive Requester where
  | host
  | queen
  | worker (w : WorkerId)
  | failLog
  | dma
  | debug
  deriving DecidableEq, Repr, Inhabited

/-- A request that a stack's controller holds, or has on its interface, when it freezes (R261, R262). -/
structure HeldReq where
  q     : Requester
  addr  : Nat
  write : Bool
  deriving DecidableEq, Repr, Inhabited

/-- A physical error that a memory access meets (from outside): none; corrected (R260); uncorrectable data (R261), with the
requests queued in the controller; a command or address parity error (R261, R262), with the requests queued and the sector
writes on the interface; an uncorrectable error of the sector's tag, or of the node at a tree level (R275); a corrected one of
that node; a tag that does not match, of the sector (R268) or of that node (R272). -/
inductive MemErr where
  | ok
  | ce
  | ue (held : List HeldReq)
  | parity (held onWire : List HeldReq)
  | tagUe
  | nodeCe (level : Nat)
  | nodeUe (level : Nat)
  | mismatch
  | nodeMismatch (level : Nat)
  deriving DecidableEq, Repr, Inhabited

/-- A command packet as fetched: the header fields of the table in 02 ("The packet header") and the words that follow
byte 32. `host` is what host memory or the flash answers to the reads that this command makes (none: the read fails);
it comes from outside (log entry 4), as does `err`, the physical error that the command's own access to device memory meets
in the sector of the device address `errAt` (R260 to R262, R268, R275). -/
structure Pkt where
  opcode  : BitVec 16
  flags   : Byte
  version : Byte
  tag     : BitVec 16
  length  : BitVec 16
  target  : Byte
  unit    : BitVec 16
  rsv2    : Byte
  w3      : Word
  w4      : Word
  w5      : Word
  w6      : Word
  w7      : Word
  params  : Words
  host    : Option Bytes
  err     : MemErr := .ok
  errAt   : Nat := 0
  deriving DecidableEq, Repr, Inhabited

/-- An ECC error that an enabled port of a cell RAM block meets in a fabric cycle (R206): correctable, or uncorrectable with
the word as it is stored. -/
structure RamErr where
  d      : DieId
  col    : Fin 8
  row    : Fin 32
  block  : Fin 8
  port   : Bool
  stored : Option Word
  deriving DecidableEq, Repr, Inhabited

/-- What a crossing group of a die's link delivers in a fabric cycle in which a lane of it errs (R290, R292): on the leg into the hive
die or on the leg out of it, the four words and the code as they arrive. -/
structure CrossErr where
  d     : DieId
  toDie : Bool
  group : Fin 32
  words : BitVec 64
  code  : Byte
  deriving DecidableEq, Repr, Inhabited

/-- A read of the flash that its SFDP tables can advertise, the fastest first (R247). -/
inductive ReadMode where
  | octalDdr
  | octal
  | octalOut
  | single
  deriving DecidableEq, Repr, Inhabited

/-- A physical error that a Worker's bundle meets in one of its three memories (R63). -/
inductive WEcc where
  | ok
  | ce
  | ue (memory : Fin 3) (addr : BitVec 16)
  deriving DecidableEq, Repr, Inhabited

/-- An island that a handshake timed out into (R11, R289). -/
inductive Island where
  | die (d : DieId)
  | stack (n : StackId)
  | other
  deriving DecidableEq, Repr, Inhabited

/-- One telemetry sample (R404): VIN mV, input current mA, bus mV, 24 sensors in 0.5 °C, then rail mV and current mA of
each domain. -/
structure Sample where
  vin   : BitVec 16
  iin   : Word
  vbus  : BitVec 16
  temps : List (BitVec 16)
  rails : List (BitVec 16)
  amps  : List Word
  deriving DecidableEq, Repr, Inhabited

/-- What the boot ROM finds in the flash (R409): the header of the Queen firmware's image, its body and its trailer; and the
blocks of the NV store whose two copies both fail their CRC as it reads them (R419). -/
structure FwImage where
  header  : Bytes
  body    : Bytes
  trailer : Bytes
  lostNv  : List (BitVec 11)
  deriving DecidableEq, Repr, Inhabited

/-- A unit of the hive network (10, router attachments): the part of an SRAM slice at a router, the two routers of a stack's
controller, the units of a comb die behind its Ndenu endpoint (0 to 7 its Workers, 8 to 11 the fail compression of its groups,
12 its probe FIFO, and others), the two sets of Laravo links, and the units of row 1. -/
inductive NetUnit where
  | sram (r : Fin 32)
  | hbm (n : StackId) (east : Bool)
  | die (d : DieId) (unit : Fin 32)
  | laravo (east : Bool)
  | start
  | security
  | queen
  | pcie
  | brood
  | access
  deriving DecidableEq, Repr, Inhabited

/-- A fail record of a group that is entered (R168), and the physical error that its write to the log ring meets (R170, R260). -/
structure FailArrival where
  g   : GroupId
  err : MemErr
  deriving DecidableEq, Repr, Inhabited

/-- A flit that arrives (R288, R291), with its payload of 64 bytes: at the router of a unit of the hive die that sends it; at the
hive die from a unit of a comb die; at a comb die, the next that waits for its link; or one sent again on a link (R292), named by
its sequence number. `noise` holds the bits of the 72 bytes that the link has inverted on the way. -/
inductive Flit where
  | enter (src dst : NetUnit) (vc : Fin 4) (payload : Bytes)
  | fromDie (d : DieId) (unit : Fin 32) (dst : NetUnit) (vc : Fin 4) (payload : Bytes) (noise : List (Fin 576))
  | toDie (d : DieId) (noise : List (Fin 576))
  | again (d : DieId) (inbound : Bool) (seq : BitVec 12) (noise : List (Fin 576))
  deriving DecidableEq, Repr, Inhabited

/-- The link whose receiver asks for a replay: an Ndenu link and its direction, or a Laravo link (R292, R314). -/
inductive ReplayLink where
  | die (d : DieId) (inbound : Bool)
  | laravo (l : LinkId)
  deriving DecidableEq, Repr, Inhabited

/-- How training and lock of an Ndenu link went (R293, R294, R296): lanes that fail training, lanes that fail lock. -/
structure LockResult where
  trainFail : List (Nat × Bool)
  lockFail  : List (Nat × Bool)
  deriving DecidableEq, Repr, Inhabited

/-- How the training of a stack went (R258, R259): failing lanes, narrowest eye in timing units and mV. -/
structure TrainResult where
  failing : List Nat
  eyeTu   : BitVec 16
  eyeMv   : BitVec 16
  deriving DecidableEq, Repr, Inhabited

/-- How the writing of a load ended (R242, R243, R245): all frames written and checked, or a write failure after so many. -/
inductive LoadResult where
  | ok
  | readFail (written : Nat)
  | crcFail (die : DieId) (written : Nat)
  deriving DecidableEq, Repr, Inhabited

/-- What one calibrated group measured (R124, R488): corrections TX, TXE, RX, RXL of each pin in timing units, and the
die temperature in 0.5 °C. -/
structure CalResult where
  group : GroupId
  temp  : BitVec 16
  corr  : List Int
  deriving DecidableEq, Repr, Inhabited

/-- What a BIST unit measured (R449, R450): its MISR, whether its analogue checks hold, its failing entries and time; of a
stack's unit, how the recentring at its end went (R445). -/
structure BistResult where
  misr     : BitVec 64
  analogOk : Bool
  entries  : List (BitVec 128)
  more     : Bool
  timeUs   : Word
  train    : TrainResult
  deriving DecidableEq, Repr, Inhabited

/-- A received word of a lane (R141): four code groups (8b/10b) or 32 line bits (raw, PRBS). -/
inductive RxWord where
  | groups (a b c d : BitVec 10)
  | bits (w : Word)
  deriving DecidableEq, Repr, Inhabited

/-- The wiring that training of a Laravo link found (R316). -/
inductive Wiring where
  | straight
  | fixable (reversed : Bool) (inverted : BitVec 4)
  | bad
  deriving DecidableEq, Repr, Inhabited

/-- A 36-byte time packet payload (R318, R337) with its receive timestamp on this device's `TB0` in units of 2⁻³² ns, whether
its CRC holds, and what its header acknowledges and returns (R313, R314). -/
structure TimePkt where
  bytes  : Bytes
  rxTime : Int
  crcOk  : Bool
  ack    : BitVec 12
  crVc   : BitVec 3
  crN    : BitVec 5
  deriving DecidableEq, Repr, Inhabited

/-- A status register whose write-one-to-clear bits a write reaches (00, R6): `PG_STATUS`, `TP_STATUS`, `TB_STATE`,
`DBG_STATUS`. -/
inductive StatusReg where
  | group (g : GroupId)
  | port (n : PortId)
  | base (b : Fin 8)
  | debug
  deriving DecidableEq, Repr, Inhabited

/-- A register access without a row of its own (00, R6): a host write or read of a BAR0 offset (02, BAR0 register map), an I²C
write at a rescue pointer with its packet error code (R53, R54), or a write of a status register with write-one-to-clear
bits (log entry 53). -/
inductive RegAccess where
  | bar0 (off : BitVec 16) (v : Word)
  | bar0Read (off : BitVec 16)
  | rescue (ptr : Byte) (data : Bytes) (pec : Byte)
  | status (r : StatusReg) (v : Word)
  deriving DecidableEq, Repr, Inhabited

/-- Who waits for a handshake into a stopped island (R11, R289): a command, a memory requester, a BAR4 access of the host. -/
inductive Waiter where
  | command (k : JobKey)
  | memory (q : Requester)
  | bar4
  deriving DecidableEq, Repr, Inhabited

/-- How the refill of a window chunk ended (R65, R66). -/
inductive ChunkEnd where
  | ok
  | ce
  | busError
  deriving DecidableEq, Repr, Inhabited

/-- The 290 commands and events of spec/opcode_table.json, one constructor per row, in the table's order. The rows
`NOP` to `WDR` are Worker bundles: the operand names the Worker, and the bundle is the one its program memory holds at
its program counter (log entry 11). -/
inductive Instr where
  /-- `SYS_NOP` (R474): Command with no parameters that commits at once, proving the Queen core fetches, checks and replies. -/
  | sysNop (p : Pkt)
  /-- `SYS_IDENTIFY` (R476): Command that returns the identity, grade, versions, addresses and owner key identifier. -/
  | sysIdentify (p : Pkt)
  /-- `SYS_INVENTORY` (R477): Command that returns the inventory of units, elements and domains marked unusable. -/
  | sysInventory (p : Pkt)
  /-- `SYS_ABORT` (R49): Command that stops a named command on the same path at its next safe point, or replies ALREADY_DONE. -/
  | sysAbort (p : Pkt)
  /-- `SYS_RESET` (R360): Command that commits, writes its reply and arms a Queen or device reset 10 us later. -/
  | sysReset (p : Pkt)
  /-- `SYS_STATUS` (R478): Command that returns a snapshot of interface, rescue, queue, time and power status. -/
  | sysStatus (p : Pkt)
  /-- `MODE_GET` (R349): Command that returns the mode, cause, boot status, time of the last change and running test functions. -/
  | modeGet (p : Pkt)
  /-- `MODE_SET` (R346): Command that moves the device to another mode if the transition is allowed, stopping functions on entry to SAFE. -/
  | modeSet (p : Pkt)
  /-- `PWR_DOMAIN_SET` (R391): Command that turns named power domains on or off, all or none, against parents and the budget. -/
  | pwrDomainSet (p : Pkt)
  /-- `PWR_DOMAIN_GET` (R390): Command that returns state, declared maximum and rails of named domains with the budget totals. -/
  | pwrDomainGet (p : Pkt)
  /-- `PWR_BUDGET_SET` (R397): Command that sets the budget voltage and owner cap, refused if the grant would fall below reservations. -/
  | pwrBudgetSet (p : Pkt)
  /-- `PWR_LIMITS_SET` (R406): Command that sets the VIN warning level, temperature warning and start ramp step. -/
  | pwrLimitsSet (p : Pkt)
  /-- `PWR_TELEMETRY` (R404): Command that sets the averaging window and returns averaged power, temperatures, flags and last-off cause. -/
  | pwrTelemetry (p : Pkt)
  /-- `CLK_STATUS` (R372): Command that returns PLL state, mux state, coast history and output state. -/
  | clkStatus (p : Pkt)
  /-- `CLK_SELECT` (R374): Command that switches clock muxes between bypass and root divider, or relocks a coasting PLL. -/
  | clkSelect (p : Pkt)
  /-- `CLK_OUT_SET` (R380): Command that enables, disables or configures one CLKOUT output. -/
  | clkOutSet (p : Pkt)
  /-- `CLK_MEASURE` (R381): Command that opens frequency counter gates at a root tick after processing. -/
  | clkMeasure (p : Pkt)
  /-- `CFG_STAGE` (R240): Command that copies a configuration stream into a staging slot and checks it, or releases the slot with LENGTH 0. -/
  | cfgStage (p : Pkt)
  /-- `CFG_LOAD` (R241): Command that checks and begins loading a sealed full stream into the dies it names. -/
  | cfgLoad (p : Pkt)
  /-- `CFG_REGION_LOAD` (R241): Command that checks and begins loading a sealed partial stream into one region. -/
  | cfgRegionLoad (p : Pkt)
  /-- `CFG_REGION_START` (R230): Timed command that starts a held or frozen region and the held or frozen regions inside it. -/
  | cfgRegionStart (p : Pkt)
  /-- `CFG_REGION_STOP` (R230): Timed command that freezes or holds a running region and the running regions inside it. -/
  | cfgRegionStop (p : Pkt)
  /-- `CFG_READBACK` (R246): Command that copies configuration frames to memory or returns the configuration status block. -/
  | cfgReadback (p : Pkt)
  /-- `CFG_BOOT_RECORD_SET` (R248): Command that writes the boot record not in use with a sequence one higher. -/
  | cfgBootRecordSet (p : Pkt)
  /-- `CFG_PROBE_SET` (R221): Command that sets picot probe channel selection, destination and capture arming. -/
  | cfgProbeSet (p : Pkt)
  /-- `PORT_SET` (R158): Command that writes the mode, rate, spread, loopback and per-port settings of one port group. -/
  | portSet (p : Pkt)
  /-- `PORT_GET` (R158): Command that returns the port group settings, status, marker, counters and calibration temperature. -/
  | portGet (p : Pkt)
  /-- `PORT_START` (R160): Timed command that starts the lanes of named protocol ports. -/
  | portStart (p : Pkt)
  /-- `PORT_STOP` (R160): Timed command that finishes the code group or bit in progress and puts named lanes in electrical idle. -/
  | portStop (p : Pkt)
  /-- `PORT_LINK_STATUS` (R148): Command that returns lane status and error counters per port, optionally clearing them. -/
  | portLinkStatus (p : Pkt)
  /-- `PORT_DETECT` (R156): Command that starts open, short and polarity tests on named ports. -/
  | portDetect (p : Pkt)
  /-- `PORT_PRBS` (R152): Command that reads, starts, stops, clears or inserts an error into the PRBS function of named ports. -/
  | portPrbs (p : Pkt)
  /-- `TIM_TIMING_SET` (R487): Command that writes timing sets and optionally PG_CTRL of one port group. -/
  | timTimingSet (p : Pkt)
  /-- `TIM_DESKEW` (R488): Command that starts calibration of named groups or writes deskew offsets of one group. -/
  | timDeskew (p : Pkt)
  /-- `TIM_SITE_MAP` (R161): Command that assigns each pin of a group to a site and I/O number and enables its records. -/
  | timSiteMap (p : Pkt)
  /-- `WORK_LOAD` (R479): Command that writes a Worker image into a Worker's memories and records its measurement. -/
  | workLoad (p : Pkt)
  /-- `WORK_START` (R482): Timed command that starts named Workers at their entry bundles and arms their port groups. -/
  | workStart (p : Pkt)
  /-- `WORK_STOP` (R485): Timed command that stops named running or halted Workers and their groups. -/
  | workStop (p : Pkt)
  /-- `WORK_STATUS` (R486): Command that returns a result record per named Worker. -/
  | workStatus (p : Pkt)
  /-- `WORK_STREAM_SET` (R481): Command that sets the stream window of one Worker for its next start. -/
  | workStreamSet (p : Pkt)
  /-- `WORK_SIGNAL` (R485): Timed command that sets interrupt line 0 pending on named Workers. -/
  | workSignal (p : Pkt)
  /-- `FAIL_SET` (R169): Command that sets the log ring and the threshold and suppression of named groups. -/
  | failSet (p : Pkt)
  /-- `FAIL_COUNTS` (R172): Command that returns the log head, log losses, site books and group counters. -/
  | failCounts (p : Pkt)
  /-- `FAIL_CLEAR` (R174): Command that zeroes the books and flags of named sites. -/
  | failClear (p : Pkt)
  /-- `BROOD_GEOMETRY` (R176): Command that sets a site's repair geometry and address decoding. -/
  | broodGeometry (p : Pkt)
  /-- `BROOD_PARTITION` (R178): Command that sets the Brood table partitions of all 32 sites. -/
  | broodPartition (p : Pkt)
  /-- `BROOD_SOLVE` (R182): Command that starts repair solving of named sites once their records have arrived. -/
  | broodSolve (p : Pkt)
  /-- `BROOD_RESULT` (R187): Command that returns a site summary and failing block records. -/
  | broodResult (p : Pkt)
  /-- `BROOD_CLEAR` (R178): Command that empties named sites' partitions, unsets their geometry and clears their books. -/
  | broodClear (p : Pkt)
  /-- `MEM_STATUS` (R255): Command that returns key identifier, refresh instant, stack states, counters and freeze records. -/
  | memStatus (p : Pkt)
  /-- `MEM_TRAIN` (R259): Command that starts full or recentring training of named HBM stacks. -/
  | memTrain (p : Pkt)
  /-- `MEM_THAW` (R263): Command that ends a stack freeze, writes back its dirty nodes and resumes service. -/
  | memThaw (p : Pkt)
  /-- `MEM_REKEY` (R278): Command that stops new memory requests and begins installing a new key set and interleave. -/
  | memRekey (p : Pkt)
  /-- `MEM_COPY` (R280): Command that starts copying data between device and host memories. -/
  | memCopy (p : Pkt)
  /-- `MEM_FILL` (R280): Command that starts writing a repeated 64-bit pattern into a device range. -/
  | memFill (p : Pkt)
  /-- `NET_STATUS` (R297): Command that returns Ndenu link states, fence causes, counters and timeouts. -/
  | netStatus (p : Pkt)
  /-- `NET_LANE_REMAP` (R300): Command that starts retraining a die's Ndenu link with a new lane map. -/
  | netLaneRemap (p : Pkt)
  /-- `NET_CREDIT_AUDIT` (R309): Command that stops flit injection and waits for links to drain before checking credit books. -/
  | netCreditAudit (p : Pkt)
  /-- `NET_DIE_RESET` (R306): Command that fences a comb die, resets it and leaves it fenced. -/
  | netDieReset (p : Pkt)
  /-- `NET_DIE_FENCE` (R302): Command that fences a comb die. -/
  | netDieFence (p : Pkt)
  /-- `NET_LATENCY_LOCK` (R305): Command that resets a fenced die if needed and starts training and latency lock of its link. -/
  | netLatencyLock (p : Pkt)
  /-- `SWARM_NEIGHBOURS` (R319): Command that returns neighbour entries of named Laravo links and FWD_LATE. -/
  | swarmNeighbours (p : Pkt)
  /-- `SWARM_ID_SET` (R320): Command that sets the swarm ID and sends HELLO on every active link. -/
  | swarmIdSet (p : Pkt)
  /-- `SWARM_ROUTE_SET` (R321): Command that writes route table entries and the broadcast mask. -/
  | swarmRouteSet (p : Pkt)
  /-- `SWARM_LINK_SET` (R317): Command that applies settings to, disables or enables one Laravo link. -/
  | swarmLinkSet (p : Pkt)
  /-- `SWARM_FORWARD` (R327): Command that sends an inner command packet by ID, path or broadcast across the swarm. -/
  | swarmForward (p : Pkt)
  /-- `TIME_GET` (R330): Command that returns the values and state of named time bases. -/
  | timeGet (p : Pkt)
  /-- `TIME_SET` (R332): Command that sets, steps or unsets a time base under its jump limit. -/
  | timeSet (p : Pkt)
  /-- `TIME_ADJUST` (R333): Command that starts a slew or sets a rate trim on a time base. -/
  | timeAdjust (p : Pkt)
  /-- `TIME_SYNC_SET` (R336): Command that sets the TB0 sync source and links and starts or stops the servo. -/
  | timeSyncSet (p : Pkt)
  /-- `TIME_JUMP_LIMIT` (R332): Command that sets the jump limit of one time base. -/
  | timeJumpLimit (p : Pkt)
  /-- `SEC_ATTEST` (R414): Command that returns an attestation report signed by the identity key. -/
  | secAttest (p : Pkt)
  /-- `SEC_OWNER_ENROL` (R411): Command that enrols the owner once or replaces the owner stream key. -/
  | secOwnerEnrol (p : Pkt)
  /-- `SEC_COUNTER_ADVANCE` (R417): Command that raises one rollback counter and writes its NV block. -/
  | secCounterAdvance (p : Pkt)
  /-- `SEC_NV_STATUS` (R420): Command that returns NV block write counts, wear and last refresh time. -/
  | secNvStatus (p : Pkt)
  /-- `SEC_NV_REFRESH` (R421): Command that rewrites every written, unworn NV block and records the time. -/
  | secNvRefresh (p : Pkt)
  /-- `SEC_CERT_GET` (R413): Command that returns the device, intermediate or owner certificate. -/
  | secCertGet (p : Pkt)
  /-- `BIST_RUN` (R448): Command that starts self-test of named units under a power cap. -/
  | bistRun (p : Pkt)
  /-- `BIST_RESULT` (R449): Command that returns one unit's record with its failing entries. -/
  | bistResult (p : Pkt)
  /-- `BIST_COMMIT` (R455): Command that commits or erases marks, or maps or commits soft repairs, of one unit. -/
  | bistCommit (p : Pkt)
  /-- `BIST_EXPECT_SET` (R449): Command that stores or clears the expected MISR value of one unit. -/
  | bistExpectSet (p : Pkt)
  /-- `DBG_UNLOCK` (R423): Command that issues a challenge, unlocks a scope with a signature, or locks a scope. -/
  | dbgUnlock (p : Pkt)
  /-- `DBG_HALT` (R431): Command that sends halt requests to Workers, the Queen core or buzz groups. -/
  | dbgHalt (p : Pkt)
  /-- `DBG_RESUME` (R436): Command that restarts named halted Workers or the Queen core at one boundary. -/
  | dbgResume (p : Pkt)
  /-- `DBG_STEP` (R437): Command that resumes one halted Worker for a count of bundles. -/
  | dbgStep (p : Pkt)
  /-- `DBG_READ` (R441): Command that reads device memory or Worker or Queen registers. -/
  | dbgRead (p : Pkt)
  /-- `DBG_WRITE` (R441): Command that writes device memory or Worker or Queen registers. -/
  | dbgWrite (p : Pkt)
  /-- `DBG_BREAK_SET` (R438): Command that sets the address comparators of one Worker. -/
  | dbgBreakSet (p : Pkt)
  /-- `DBG_XTRIG_SET` (R440): Command that sets buzz group members and fabric event triggers. -/
  | dbgXtrigSet (p : Pkt)
  /-- `EVT_MASK_SET` (R460): Command that sets the mask bits of all events. -/
  | evtMaskSet (p : Pkt)
  /-- `EVT_ROUTE_SET` (R461): Command that sets MSI-X and IRQ_N routes of a range of events. -/
  | evtRouteSet (p : Pkt)
  /-- `EVT_STATUS` (R465): Command that returns active, mask and pending bits and event counts. -/
  | evtStatus (p : Pkt)
  /-- `EVT_ACK` (R461): Command that clears the named events' active bits. -/
  | evtAck (p : Pkt)
  /-- `SUB_RESYNC` (R36): An unusable packet length discards slots up to the doorbell and replies BAD_LENGTH. -/
  | subResync (p : Pkt)
  /-- `SCHEDULED_INSTANT` (R43): A waiting scheduled command reaches its TB0 instant and acts or begins processing. -/
  | scheduledInstant (k : JobKey)
  /-- `REPLY_WRITE` (R31): A committed reply is written to the reply ring when space exists, body first and first slot last. -/
  | replyWrite
  /-- `EVENT_WRITE` (R32): A pending event record is written to the event ring when a slot is free and the ring enabled. -/
  | eventWrite
  /-- `IRQ_HOLDOFF_EXPIRY` (R32): The holdoff gap of an MSI-X vector ends and a waiting message is signalled. -/
  | irqHoldoffExpiry (v : Fin 64)
  /-- `HIF_DOORBELL_SUB` (R28): Host write of the submission doorbell count, ignored if out of range. -/
  | hifDoorbellSub (v : Word)
  /-- `HIF_DOORBELL_REP` (R27): Host write of the reply slots consumed count, ignored if out of range. -/
  | hifDoorbellRep (v : Word)
  /-- `HIF_DOORBELL_EVT` (R27): Host write of the event records consumed count, ignored if out of range. -/
  | hifDoorbellEvt (v : Word)
  /-- `SUB_EN` (R25): Write of HIF_CTRL.SUB_EN enabling or disabling the submission ring and resetting its counters. -/
  | subEn (on : Bool)
  /-- `REP_EN` (R25): Write of HIF_CTRL.REP_EN enabling or disabling the reply ring and resetting its counters. -/
  | repEn (on : Bool)
  /-- `EVT_EN` (R25): Write of HIF_CTRL.EVT_EN enabling or disabling the event ring and resetting its counters. -/
  | evtEn (on : Bool)
  /-- `HIF_ERR` (R6): Host write-one-to-clear of sticky host-interface error bits. -/
  | hifErr (v : Word)
  /-- `REGISTER_WRITE` (R25): Write to a register without behaviour of its own, such as a ring base or size, applied or ignored by its rules. -/
  | registerWrite (a : RegAccess)
  /-- `BAR2_READ` (R22): Host read of usable HBM through BAR2, decrypted and checked. -/
  | bar2Read (a len : Nat) (e : MemErr)
  /-- `BAR2_WRITE` (R22): Host posted write to usable HBM through BAR2, discarded if it cannot complete. -/
  | bar2Write (a : Nat) (data : Bytes) (e : MemErr)
  /-- `BAR4_READ` (R24): Host read of hive SRAM, Worker memory or cell RAM through BAR4. -/
  | bar4Read (off len : Nat) (e : MemErr)
  /-- `BAR4_WRITE` (R24): Host write of hive SRAM, Worker memory or cell RAM through BAR4. -/
  | bar4Write (off : Nat) (data : Bytes)
  /-- `I2C_PACKET_WRITE` (R55): An I2C write at pointer 0x80 delivering one whole command packet. -/
  | i2cPacketWrite (data : Bytes) (pec : Byte) (host : Option Bytes)
  /-- `I2C_REPLY_READ` (R56): An I2C read at pointer 0x81 returning and consuming the oldest unread I2C reply. -/
  | i2cReplyRead (n : Nat)
  /-- `RSC_STATUS_READ` (R54): I2C read of RSC_STATUS that clears PEC_ERR. -/
  | rscStatusRead (ptr : Byte) (n : Nat)
  /-- `RSC_EVT_ACK` (R461): I2C write-one-to-clear of RSC_EVT_LO or RSC_EVT_HI acknowledging hive events. -/
  | rscEvtAck (hi : Bool) (v : Word) (pec : Byte)
  /-- `RSC_RESET_QUEEN` (R356): I2C write of RSC_RESET with scope 0b01 and the key, raising a Queen reset. -/
  | rscResetQueen (v : Word) (pec : Byte)
  /-- `RSC_RESET_DEVICE` (R356): I2C write of RSC_RESET with scope 0b10 and the key, raising a device reset. -/
  | rscResetDevice (v : Word) (pec : Byte) (bootsel : BitVec 2)
  /-- `RESET_BEGIN` (R360): The reset requested by SYS_RESET begins 10 us after its reply was written. -/
  | resetBegin (bootsel : BitVec 2)
  /-- `DEVICE_RESET` (R356): RESET_N held low at least 1 us resets the device and reruns start-up from step 3. -/
  | deviceReset
  /-- `DEFERRED_RESET` (R358): A device or power-on reset that waited for an NV block write proceeds when the write ends. -/
  | deferredReset (bootsel : BitVec 2)
  /-- `PCIE_RESET` (R26): PCIE_PERST_N or hot reset resets BAR0 and discards PCIe-path replies. -/
  | pcieReset
  /-- `POWER_ON` (R351): VIN rises above 5.8 V and start-up begins with soft-start of the bus. -/
  | powerOn (mv low : BitVec 16)
  /-- `SOFT_START_END` (R351): The 4.8 V bus reaches regulation, PD00 comes up and BOOTSEL is sampled. -/
  | softStartEnd (mv : BitVec 16) (bootsel : BitVec 2) (i2cAddr : BitVec 3)
  /-- `PLL_LOCK` (R370): The root PLL locks and the domains switch to it. -/
  | pllLock
  /-- `PLL_LOCK_TIMEOUT` (R353): The root PLL has not locked 200 us after step 4 and the device heads for SAFE on the bypass. -/
  | pllLockTimeout
  /-- `FIRMWARE_VERIFIED` (R409): The boot ROM ends verifying the Queen firmware and starts it or refuses it. -/
  | firmwareVerified (fw : FwImage)
  /-- `CRS_TIMEOUT` (R354): 50 ms after step 4 the PCIe endpoint stops answering with retry status. -/
  | crsTimeout
  /-- `VIN_WARNING` (R400): VIN falls below the warning level, raising E000 and marking running groups. -/
  | vinWarning (mv : BitVec 16)
  /-- `VIN_RECOVERED` (R400): VIN rises above the warning level plus 0.2 V, raising E001. -/
  | vinRecovered (mv : BitVec 16)
  /-- `VIN_BELOW_RESET` (R401): VIN falls below 5.0 V and the device takes a power-on reset. -/
  | vinBelowReset
  /-- `OVERVOLTAGE_WARNING` (R385): VIN rises above 42.0 V and E002 warning is raised. -/
  | overvoltageWarning (mv : BitVec 16)
  /-- `OVERVOLTAGE_SHUTDOWN` (R385): VIN rises above 45.0 V and conversion stops, cutting all domains. -/
  | overvoltageShutdown (mv : BitVec 16)
  /-- `REVERSE_VIN` (R384): A reverse-connected VIN is blocked and nothing starts. -/
  | reverseVin
  /-- `CURRENT_LIMIT` (R386): Input current reaches 60 A; ILIM is set and E006 cause 2 raised. -/
  | currentLimit
  /-- `BUS_COLLAPSE` (R386): The bus stays below 4.3 V for 10 us; conversion stops and power-on reset follows. -/
  | busCollapse
  /-- `BUDGET_VIN` (R397): VIN stays below VB for 1 ms; BUDGET_VIN set and E006 cause 1 raised. -/
  | budgetVin (mv : BitVec 16)
  /-- `TEMP_WARNING` (R402): A sensor reaches TEMP_WARN, raising E003 or die event +32 and asserting THERM_N. -/
  | tempWarning (sensor : Fin 24) (temp : BitVec 16)
  /-- `THERMAL_TRIP` (R403): A sensor reaches 115 C and the power die stops conversion. -/
  | thermalTrip (sensor : Fin 24) (temp : BitVec 16)
  /-- `STACK_HOT` (R257): An HBM stack reports over 85 C; HOT is set and E003 raised. -/
  | stackHot (n : StackId) (temp : Byte)
  /-- `DOMAIN_CUT_OFF` (R405): A regulator cuts off its domain on overcurrent or undervoltage; the domain enters FAULT. -/
  | domainCutOff (d : DomainId) (ma : Word) (mv : BitVec 16)
  /-- `TELEMETRY_SAMPLE` (R404): Every 10 us VIN, currents, rails and sensors are sampled and averaged. -/
  | telemetrySample (x : Sample)
  /-- `DOMAIN_RAMPED` (R392): A ramping domain's rails reach regulation and the domain becomes ON. -/
  | domainRamped (d : DomainId)
  /-- `REFERENCE_LOST` (R375): The reference is declared lost and the PLL coasts at half speed with E004. -/
  | referenceLost (cause : Fin 3)
  /-- `REFERENCE_RESTORED` (R377): The reference stays present and in range for 1 ms; REF_OK set and E005 raised. -/
  | referenceRestored
  /-- `RELOCK_END` (R378): The relock ramp reaches 16 GHz and locks, clearing CLK_COAST. -/
  | relockEnd
  /-- `GATE_CLOSE` (R381): Frequency counter gates close and CLK_MEASURE commits with edge counts. -/
  | gateClose (edges : List (BitVec 48))
  /-- `QUEEN_WATCHDOG` (R361): The Queen watchdog expires; the Queen core is held halted and E039 raised. -/
  | queenWatchdog (pc : Word)
  /-- `HANDSHAKE_TIMEOUT` (R11): A handshake into a stopped island times out after 1 us, erroring the requester and fencing a comb die. -/
  | handshakeTimeout (i : Island) (by_ : Waiter)
  /-- `FENCE_ORDER` (R304): A comb die's always-on logic stops its clock and puts its ports in the safe state. -/
  | fenceOrder (d : DieId)
  /-- `LANE_TRAINING_LOST` (R304): A die's inbound lanes lose training for 100 ns and the die cuts itself off. -/
  | laneTrainingLost (d : DieId)
  /-- `DIE_CLOCK_LOST` (R302): No forwarded-clock transition for 1 us; the die is fenced and die event +33 raised. -/
  | dieClockLost (d : DieId)
  /-- `FLIT` (R291): An Ndenu or mesh flit arrives whole and is accepted or discarded on CRC error with a replay request. -/
  | flit (f : Flit)
  /-- `REPLAY` (R292): A sender resends flits from the sequence number a receiver asked for. -/
  | replay (link : ReplayLink) (seq : BitVec 12)
  /-- `LINK_SILENT` (R299): An Ndenu receiver sees nothing valid for 1 us; the link goes DOWN and the die is fenced. -/
  | linkSilent (d : DieId)
  /-- `LOCK_MARGIN` (R295): An alignment FIFO comes within 1 UI of its limit and E022+n is raised. -/
  | lockMargin (d : DieId) (lane : BitVec 16)
  /-- `LOCK_LOST` (R295): Drift passes an alignment FIFO's limit and the link loses latency lock. -/
  | lockLost (d : DieId) (lane : BitVec 16)
  /-- `LATENCY_LOCK_END` (R293): Training and latency lock of an Ndenu link end, leaving it LOCKED, UP or DOWN. -/
  | latencyLockEnd (d : DieId) (r : LockResult)
  /-- `AUDIT_DRAINED` (R309): Links drain or 10 us pass and the credit audit checks books and resumes injection. -/
  | auditDrained (drained : Bool)
  /-- `REFRESH` (R255): At each grid instant all stacks perform an all-bank refresh gap. -/
  | refresh
  /-- `MEMORY_READ` (R274): A memory read request is served, decrypted and checked against its tag. -/
  | memoryRead (q : Requester) (a len : Nat) (e : MemErr)
  /-- `MEMORY_WRITE` (R267): A memory write request replaces or merges a sector and updates its counter and tag. -/
  | memoryWrite (q : Requester) (a : Nat) (data : Bytes) (e : MemErr)
  /-- `TRAINING_END` (R259): HBM stack training ends, leaving the stack READY or UNTRAINED with TRAIN_FAIL. -/
  | trainingEnd (n : StackId) (r : TrainResult)
  /-- `REKEY_END` (R278): Requests in progress complete and the new key set and interleave are installed. -/
  | rekeyEnd
  /-- `COPY_END` (R280): A copy or fill completes or ends at a failing request and commits. -/
  | copyEnd (k : JobKey) (host : Option Bytes) (e : MemErr) (at_ : Nat) (atDst : Bool)
  /-- `SLOT_SEALED` (R240): A stage's copy and checks complete, sealing the slot or releasing it on failure. `src` holds what was
  read, `sfdp` the reads that the flash's SFDP tables advertise, none without valid tables (R247). -/
  | slotSealed (slot : Fin 4) (src : Option Bytes) (sfdp : List ReadMode)
  /-- `LOAD_END` (R242): A load's frames have been written and checked; regions become HELD or start and die event +34 is raised. -/
  | loadEnd (r : LoadResult) (golden : Option Bytes) (sfdp : List ReadMode)
  /-- `CALIBRATION_END` (R124): TIM_DESKEW calibration measurements end and corrections are stored. -/
  | calibrationEnd (r : List CalResult)
  /-- `DETECT_END` (R156): PORT_DETECT tests end and results are returned. -/
  | detectEnd (g : GroupId) (r : List (BitVec 16))
  /-- `SOLVE_START` (R182): BROOD_SOLVE begins solving once IN_FLIGHT of each named site is 0. -/
  | solveStart
  /-- `SOLVE_COMPLETE` (R182): Every named site is solved, E035 raised and the solve commits. -/
  | solveComplete
  /-- `BACKGROUND_SWEEP` (R180): The Brood engine finds lines of a block forced by earlier allocations. -/
  | backgroundSweep (site : SiteId) (block : Nat)
  /-- `BIST_UNIT_START` (R448): The head BIST unit starts once its power fits under CAP. -/
  | bistUnitStart
  /-- `BIST_UNIT_END` (R451): A BIST unit ends its run with a verdict. -/
  | bistUnitEnd (u : Fin 64) (r : BistResult)
  /-- `HEALTH_TEST_FAILURE` (R422): An entropy health test fails; the DRBG stops and E042 cause 2 is raised. -/
  | healthTestFailure
  /-- `CHALLENGE_EXPIRY` (R423): A debug challenge expires 60 s after issue. -/
  | challengeExpiry
  /-- `HIBERNATE_ENTRY_END` (R363): HIBERNATE entry completes 200 us after the reply and the wake detector is armed. -/
  | hibernateEntryEnd
  /-- `WAKE_MATCH` (R365): An I2C address match wakes the device from HIBERNATE. -/
  | wakeMatch
  /-- `WAKE_END` (R365): Wake completes; running regions restart and the device enters READY. -/
  | wakeEnd
  /-- `IDCODE` (R426): JTAG instruction selecting the identification register. -/
  | idcode
  /-- `SAMPLE_PRELOAD` (R427): JTAG instruction sampling or preloading the boundary scan register. -/
  | samplePreload (sampled preload : List Bool)
  /-- `EXTEST` (R427): JTAG instruction driving pins from the boundary scan register in BOOT, SAFE or MAINTAIN. -/
  | extest (captured cells : List Bool)
  /-- `EXTEST_PULSE` (R427): IEEE 1149.6 JTAG instruction for AC pulse testing of pairs. -/
  | extestPulse (captured cells : List Bool)
  /-- `EXTEST_TRAIN` (R427): IEEE 1149.6 JTAG instruction for AC train testing of pairs. -/
  | extestTrain (captured cells : List Bool)
  /-- `CLAMP` (R427): JTAG instruction holding pins from boundary scan with bypass selected. -/
  | clamp
  /-- `HIGHZ` (R427): JTAG instruction placing outputs high-impedance. -/
  | highz
  /-- `DBGPKT` (R429): JTAG mailbox delivering one command packet directly to the debug engine. -/
  | dbgpkt (words : Words) (host : Option Bytes)
  /-- `DIE_SEL` (R426): JTAG instruction selecting die and stack wrappers for the chain. -/
  | dieSel (v : Byte)
  /-- `DIE_SCAN` (R428): JTAG instruction scanning the IEEE 1838 and 1500 wrappers in MAINTAIN. -/
  | dieScan (bits : List Bool)
  /-- `BYPASS` (R426): JTAG instruction selecting the 1-bit bypass register. -/
  | bypass (bit : Bool)
  /-- `TAP_RESET` (R426): TRST_N low or five TCK cycles with TMS high reset the TAP controller. -/
  | tapReset
  /-- `NOP` (R68): Worker bundle with no operation; its move slots still execute. -/
  | nop (w : WorkerId) (e : WEcc)
  /-- `END` (R90): Worker instruction that ends the program. -/
  | end_ (w : WorkerId) (e : WEcc)
  /-- `ADD` (R68): Worker instruction dst = a + b with flags. -/
  | add (w : WorkerId) (e : WEcc)
  /-- `SUB` (R68): Worker instruction dst = a - b with flags. -/
  | sub (w : WorkerId) (e : WEcc)
  /-- `ADC` (R68): Worker instruction add with carry. -/
  | adc (w : WorkerId) (e : WEcc)
  /-- `SBC` (R68): Worker instruction subtract with borrow. -/
  | sbc (w : WorkerId) (e : WEcc)
  /-- `AND` (R68): Worker instruction bitwise AND. -/
  | and_ (w : WorkerId) (e : WEcc)
  /-- `OR` (R68): Worker instruction bitwise OR. -/
  | or_ (w : WorkerId) (e : WEcc)
  /-- `XOR` (R68): Worker instruction bitwise XOR. -/
  | xor_ (w : WorkerId) (e : WEcc)
  /-- `ANDN` (R68): Worker instruction a AND NOT b. -/
  | andn (w : WorkerId) (e : WEcc)
  /-- `CMP` (R68): Worker instruction comparing a with b by setting flags. -/
  | cmp (w : WorkerId) (e : WEcc)
  /-- `LSL` (R68): Worker instruction logical shift left by a register. -/
  | lsl (w : WorkerId) (e : WEcc)
  /-- `LSR` (R68): Worker instruction logical shift right by a register. -/
  | lsr (w : WorkerId) (e : WEcc)
  /-- `ASR` (R68): Worker instruction arithmetic shift right by a register. -/
  | asr (w : WorkerId) (e : WEcc)
  /-- `ROR` (R68): Worker instruction rotate right by a register. -/
  | ror (w : WorkerId) (e : WEcc)
  /-- `SHI` (R68): Worker instruction shift by an immediate amount. -/
  | shi (w : WorkerId) (e : WEcc)
  /-- `ADDI` (R68): Worker instruction add signed immediate. -/
  | addi (w : WorkerId) (e : WEcc)
  /-- `CMPI` (R68): Worker instruction compare with immediate. -/
  | cmpi (w : WorkerId) (e : WEcc)
  /-- `LDI` (R69): Worker instruction loading a 32-bit immediate. -/
  | ldi (w : WorkerId) (e : WEcc)
  /-- `MAC` (R78): Worker instruction multiply-accumulate 32 x 32 into a 72-bit accumulator. -/
  | mac (w : WorkerId) (e : WEcc)
  /-- `MAC2` (R78): Worker instruction dual 16 x 16 multiply-accumulate into an accumulator pair. -/
  | mac2 (w : WorkerId) (e : WEcc)
  /-- `AOP` (R78): Worker instruction clearing, adding, subtracting or negating accumulators. -/
  | aop (w : WorkerId) (e : WEcc)
  /-- `BRA` (R73): Worker conditional branch with two delay slots. -/
  | bra (w : WorkerId) (e : WEcc)
  /-- `CALL` (R73): Worker call pushing the return address. -/
  | call (w : WorkerId) (e : WEcc)
  /-- `RET` (R73): Worker return popping the return stack. -/
  | ret (w : WorkerId) (e : WEcc)
  /-- `RTI` (R77): Worker return from interrupt restoring flags and IE. -/
  | rti (w : WorkerId) (e : WEcc)
  /-- `JMPR` (R73): Worker branch to a register address. -/
  | jmpr (w : WorkerId) (e : WEcc)
  /-- `REP` (R74): Worker block repeat of the following body. -/
  | rep (w : WorkerId) (e : WEcc)
  /-- `VEC` (R80): Worker instruction pushing a vector word entry into the group FIFO. -/
  | vec (w : WorkerId) (e : WEcc)
  /-- `VECR` (R81): Worker instruction pushing d0 to d7 as a vector word. -/
  | vecr (w : WorkerId) (e : WEcc)
  /-- `VMATCH` (R81): Worker instruction pushing a match word with a timeout. -/
  | vmatch (w : WorkerId) (e : WEcc)
  /-- `VMARK` (R83): Worker instruction attaching a marker value to the next entry pushed. -/
  | vmark (w : WorkerId) (e : WEcc)
  /-- `VWAIT` (R84): Worker instruction waiting for a start, level, drain, match, line or window condition. -/
  | vwait (w : WorkerId) (e : WEcc)
  /-- `LCK` (R86): Worker instruction acquiring a hive semaphore. -/
  | lck (w : WorkerId) (e : WEcc)
  /-- `ULK` (R86): Worker instruction releasing a hive semaphore. -/
  | ulk (w : WorkerId) (e : WEcc)
  /-- `SIG` (R87): Worker instruction raising interrupt line 7 of a target Worker. -/
  | sig (w : WorkerId) (e : WEcc)
  /-- `WDR` (R88): Worker instruction reloading the watchdog. -/
  | wdr (w : WorkerId) (e : WEcc)
  /-- `STALL_RELEASE` (R72): A Worker stalled on a full FIFO, window half, vwait or lck resumes when its condition is met. -/
  | stallRelease (w : WorkerId)
  /-- `INTERRUPT_ENTRY` (R77): A Worker takes a pending enabled interrupt at an allowed boundary. -/
  | interruptEntry (w : WorkerId)
  /-- `TIMER_REACHED_ZERO` (R88): The Worker timer reaches zero, sets line 1 pending and reloads if periodic. -/
  | timerReachedZero (w : WorkerId)
  /-- `WATCHDOG_EXPIRY` (R88): The Worker watchdog reaches zero, raising its event and reloading or halting. -/
  | watchdogExpiry (w : WorkerId)
  /-- `SIG_ARRIVAL` (R87): A sig from another Worker reaches its target and sets line 7 pending. -/
  | sigArrival (w : WorkerId)
  /-- `CHUNK_RETURN` (R65): A 4 KiB stream window refill chunk returns or fails, possibly making its half FULL. -/
  | chunkReturn (w : WorkerId) (r : ChunkEnd)
  /-- `STOP_BOUNDARY` (R91): WORK_STOP takes effect at the next bundle boundary outside a delay slot. -/
  | stopBoundary (w : WorkerId)
  /-- `HALT_POINT` (R431): A requested Worker halt takes effect at boundary H, stopping the Worker and its group. -/
  | haltPoint (w : WorkerId)
  /-- `LOCK_BROKEN` (R433): A halt waiting on a semaphore is forced after 256 cycles, releasing the semaphores and raising E041. -/
  | lockBroken (w : WorkerId)
  /-- `START_STROBE` (R115): The start unit launches the start strobe 96 ns ahead of the start instant. -/
  | startStrobe (k : JobKey)
  /-- `GROUP_START` (R115): A port group begins test cycle 0 at its t0 or underruns. -/
  | groupStart (g : GroupId)
  /-- `PLAY` (R114): A FIFO entry starts a play when the previous entry's last play ends. -/
  | play (g : GroupId)
  /-- `UNDERRUN` (R119): No entry is available; the group plays idle cycles or stops and raises its underrun event. -/
  | underrun (g : GroupId)
  /-- `TRANSITION` (R102): The formatter applies an edge transition on TX or TXE at its effective time. -/
  | transition (g : GroupId) (p : PinId) (txe : Bool)
  /-- `TAP_NEXT` (R106): The group drives the tap signals for the next play in cycle F(b) - 8. -/
  | tapNext (g : GroupId)
  /-- `TAP_SAMPLE` (R107): The group samples TAP_EV, TAP_ADDR and TAP_DATA at the end of cycle F(b) - 2. -/
  | tapSample (g : GroupId)
  /-- `STROBE` (R105): An edge or window compare samples RX and RXL at the strobe. -/
  | strobe (g : GroupId) (p : PinId) (rx rxl : Bool)
  /-- `FAIL_BIT` (R113): A compare result reaches fail compression and match logic 20 cycles after the strobe. -/
  | failBit (g : GroupId) (p : PinId)
  /-- `MATCH_DECISION` (R110): The group decides in F(b) - 10 whether a match word plays again. -/
  | matchDecision (g : GroupId)
  /-- `MATCH_RESOLVED` (R111): A match word resolves on its first passing result or its last failing one. -/
  | matchResolved (g : GroupId)
  /-- `MARKER_RECORD` (R112): The group writes PG_MARK and sets line 3 pending at F(b) + 2. -/
  | markerRecord (g : GroupId)
  /-- `RUN_DONE` (R123): The last entry of a run finishes at the pins; the group enters DONE and the Worker ENDED. -/
  | runDone (g : GroupId)
  /-- `FAIL_RECORD` (R168): A fail record reaches the fail pipeline, is logged and applied to the Brood table. -/
  | failRecord (x : FailArrival)
  /-- `TXW_TAKE` (R140): A protocol lane takes a word from the fabric or sends a fill word. -/
  | txwTake (n : PortId)
  /-- `RXW_VALID` (R141): A protocol lane presents a received word to the fabric. -/
  | rxwValid (n : PortId) (x : RxWord)
  /-- `RX_SLIP` (R147): A raw lane moves its receive word boundary by one bit. -/
  | rxSlip (n : PortId)
  /-- `CDR_LOCK` (R139): Clock recovery locks to the received signal and LINK changes. -/
  | cdrLock (n : PortId)
  /-- `CDR_LOST` (R148): Clock recovery loses lock; CDR_LOST set and the loss counted. -/
  | cdrLost (n : PortId)
  /-- `ALIGNMENT_ACQUIRED` (R145): The 8b/10b receiver acquires code-group alignment on K28.5. -/
  | alignmentAcquired (n : PortId)
  /-- `ALIGNMENT_LOST` (R145): The 8b/10b receiver loses code-group alignment. -/
  | alignmentLost (n : PortId)
  /-- `PRBS_LOCK` (R153): The PRBS checker locks after 64 matching bits, possibly detecting a swapped pair. -/
  | prbsLock (n : PortId) (swapped : Bool)
  /-- `PRBS_LOSS` (R153): The PRBS checker loses lock after 16 mismatches in 64 bits and reseeds. -/
  | prbsLoss (n : PortId)
  /-- `SHORT` (R155): An output leg carries over 30 mA for 1 us; SHORT set and die event +35 raised. -/
  | short (n : PortId) (leg : Fin 4)
  /-- `FABRIC_CYCLE` (R193): Every cell, RAM position and mesh register of the fabric computes and loads once; `sbIn` holds
the levels at the `RXL` pairs of the 128 ports. -/
  | fabricCycle (sbIn : BitVec 128) (ecc : List RamErr) (cross : List CrossErr)
  /-- `CAPTURE_COMPLETE` (R218): A picot capture writes POST samples after its trigger, stops and raises die event +39. -/
  | captureComplete (d : DieId)
  /-- `LARAVO_PACKET` (R313): A Laravo packet on channels 0 to 3 arrives and is delivered, forwarded or dropped. -/
  | laravoPacket (l : LinkId) (cols : List (List (BitVec 10)))
  /-- `SKIP_COLUMN` (R312): Every 1,024 columns a Laravo transmitter inserts a skip column. -/
  | skipColumn (l : LinkId)
  /-- `LINK_TRAINING_START` (R316): An enabled Laravo link sees a partner and starts training. -/
  | linkTrainingStart (l : LinkId)
  /-- `LINK_TRAINED` (R316): Laravo link training ends UP or FAULT. -/
  | linkTrained (l : LinkId) (wiring : Wiring)
  /-- `LARAVO_SILENT` (R317): A Laravo link receives nothing valid for 1 us and goes DOWN. -/
  | laravoSilent (l : LinkId)
  /-- `HELLO` (R318): A HELLO time packet arrives, making the link ACTIVE and updating the neighbour entry. -/
  | hello (l : LinkId) (x : TimePkt)
  /-- `HELLO_SEND` (R318): Every 1 ms a link sends a HELLO time packet. -/
  | helloSend (l : LinkId)
  /-- `PDELAY_REQ` (R338): A peer delay request arrives and is answered at once. -/
  | pdelayReq (l : LinkId) (x : TimePkt) (phase : Fin 16)
  /-- `PDELAY_REQ_SEND` (R338): Every 1 ms an active link sends a PDELAY_REQ. -/
  | pdelayReqSend (l : LinkId) (phase : Fin 16)
  /-- `PDELAY_RESP` (R338): A peer delay response arrives and a delay measurement is taken. -/
  | pdelayResp (l : LinkId) (x : TimePkt)
  /-- `SYNC` (R340): A SYNC arrives on the source link and the servo corrects TB0. -/
  | sync (l : LinkId) (x : TimePkt)
  /-- `SYNC_SEND` (R339): Each sync period a device sends SYNC on its active TX_MASK links; `phase` is the root tick within the
  cycle (R331). -/
  | syncSend (l : LinkId) (phase : Fin 16)
  /-- `SERVO_HOLD` (R341): Four sync periods pass without a usable SYNC; the servo enters HOLD with E033. -/
  | servoHold
  /-- `BUZZ` (R329): A buzz ordered set arrives, firing buzz groups and relaying it. -/
  | buzz (l : LinkId) (mask origin seq : Byte)
  /-- `FORWARDED_COMMAND` (R326): A forwarded command message arrives whole and is executed or refused. -/
  | forwardedCommand (l : LinkId) (host : Option Bytes)
  /-- `FORWARD_REPLY` (R327): An inner reply reaches the origin and SWARM_FORWARD commits when all expected arrived. -/
  | forwardReply (l : LinkId)
  /-- `FORWARD_TIMEOUT` (R327): TIMEOUT_US passes before the inner replies and SWARM_FORWARD replies TIMEOUT. -/
  | forwardTimeout (k : JobKey)
  /-- `RESET_N_RELEASE` (R357): RESET_N returns high and start-up continues from step 3. -/
  | resetNRelease (bootsel : BitVec 2)
  /-- `OVERVOLTAGE_CLEARED` (R385): VIN falls below 41.5 V, clearing OV_WARN and ending the overvoltage excursion. -/
  | overvoltageCleared
  /-- `OVERVOLTAGE_RESTART` (R385): VIN has stayed between 5.8 V and 42.0 V for 10 ms after an overvoltage shutdown and start-up runs from step 1. -/
  | overvoltageRestart (mv : BitVec 16)
  /-- `CURRENT_LIMIT_RELEASED` (R386): Input current falls below the 60 A limit, clearing PWR_FLAGS.ILIM and ending the excursion. -/
  | currentLimitReleased
  /-- `BUDGET_VIN_RECOVERED` (R397): Measured VIN returns to VB or above, clearing PWR_FLAGS.BUDGET_VIN and ending the excursion. -/
  | budgetVinRecovered
  /-- `TEMP_WARNING_CLEARED` (R402): Every sensor falls below TEMP_WARN, releasing THERM_N, and a sensor 5 C below rearms its warning event. -/
  | tempWarningCleared (sensor : Fin 24) (temp : BitVec 16)
  /-- `PTM_DIALOGUE` (R336): With SOURCE 1, a PCIe PTM requester dialogue completes once per sync period and feeds its error to the TB0 servo. -/
  | ptmDialogue (master now_ : Int)
  /-- `SLEW_ABSORBED` (R333): A time base finishes absorbing its slew offset and TB_STATE.SLEWING clears. -/
  | slewAbsorbed (b : Fin 8)
  /-- `NV_WRITE_END` (R420): An NV block write completes, advancing its write count and letting its command commit or a refresh move to the next block. -/
  | nvWriteEnd
  /-- `ERROR_WINDOW_END` (R260): A window of 2^31 hive cycles ends, restarting the correctable-error and replay counts and clearing CE_OVER and DEGRADED. -/
  | errorWindowEnd
  /-- `PCIE_LINK_UP` (R463): The PCIe link finishes training and comes up, raising E046 with new state up. -/
  | pcieLinkUp (ptm : Bool)
  /-- `START_INSTANT` (R483): A WORK_START reaches its start instant, commits, completes vwait START for Workers without an armed group and moves the device to RUN. -/
  | startInstant (k : JobKey)
  deriving DecidableEq, Repr

end Sys2Proof
end

