-- ==== Sys2Proof/Decode.lean ====
section
/-! DEFINITION. The command that a word spells by the bits of spec/opcode_table.json. No row of the table gives bits, so no
word spells a command (log entry 12). -/

namespace Sys2Proof

/-- The command of a word numbered as the table numbers its bits: the table gives none of its rows a bit. -/
def decodeTableWord (_nbits _w : Nat) : Option Instr := none

end Sys2Proof
end

