-- ==== Sys2Proof/Config.lean ====
section
/-! DEFINITION. What the spec leaves open: free values and the constants of one part, as constants without a body, so that
no proof can see a value (log entry 5); and the cryptographic functions the spec names, uninterpreted (log entry 6). -/

namespace Sys2Proof.Config

/-- The byte at a device address of a range whose contents are undefined; the tag tells one undefinition from the next
(log entry 5). -/
opaque freeByte : Nat → Nat → Byte

/-- The n-th free value drawn, 32 bits (log entry 5). -/
opaque freeWord : Nat → Word

/-- The n-th random value that the DRBG gives, 32 bytes (15, R422; log entry 6). -/
opaque random : Nat → BitVec 256

/-- AES-256 on one block, its first byte the most significant (09, R264, R265; log entry 6). -/
opaque aes256 : BitVec 256 → BitVec 128 → BitVec 128

/-- The one router of the four at its die's endpoint through which a unit of a die sends (10, R284; log entry 62). -/
opaque dieRouter : Nat → Nat → Fin 4

/-- SHA-512 (15; log entry 6). -/
opaque sha512 : Bytes → BitVec 512

/-- SHA-256 over a key, as key hashes use it (15; log entry 6). -/
opaque sha256 : Bytes → BitVec 256

/-- Does an ECDSA signature (third argument) of a message verify under a public key (first argument)? (15; log entry 6) -/
opaque verify : Bytes → Bytes → Bytes → Bool

/-- The signature that the identity key makes of a message; its 132 bytes are r and s (15, R410, R414; log entry 6). -/
opaque sign : Bytes → Bytes

/-- The plain stream that an encrypted stream's payload decrypts to, none when its tag does not match (08, R238; log
entry 6): key, header, payload. -/
opaque decrypt : Bytes → Bytes → Bytes → Option Bytes

/-- The owner's stream key as unwrapped from a wrapped key, none when it does not unwrap (15, R411; log entry 6). -/
opaque unwrap : Bytes → Option Bytes

/-- The SHA-512 hash of the vendor root public key, in fuses (15, R408). -/
opaque rootHash : BitVec 512

/-- Is a public key the vendor root: its SHA-512 hash is the fused one (15, R408)? -/
def isRoot (pub : Bytes) : Bool := sha512 pub = rootHash

/-- The device-unique wrapping key, in fuses, which only the security controller reads (15, R408). -/
opaque wrappingKey : BitVec 256

/-- A key wrapped under another for storage, in a form the spec does not give (15, R412; log entry 75). -/
opaque wrapUnder : BitVec 256 → Bytes → Bytes

/-- A stored key unwrapped again, none where it does not unwrap (15, R412; log entry 75). -/
opaque openUnder : BitVec 256 → Bytes → Option Bytes

/-- What an enrolment bundle holds: the owner certificate, the root public key at which its chain ends, the owner's public key, its
`KEY_ID`, the identity number named or 0, and the wrapped stream key if any (15, R411). -/
structure Enrolment where
  cert     : Bytes
  root     : Bytes
  pub      : Bytes
  keyId    : Word
  identity : BitVec 64
  wrapped  : Option Bytes
  deriving DecidableEq, Repr, Inhabited

/-- The enrolment that a bundle holds, none where its chain of certificates does not hold up to its root or its extension fails (15,
R411; log entry 6). -/
opaque enrol : Bytes → Option Enrolment

/-- The public key of a vendor debug certificate and the root public key at which its chain ends, none where the chain does not hold
(15, R423; log entry 6). -/
opaque debugKey : Bytes → Option (Bytes × Bytes)

/-- The public key of a vendor firmware-signing certificate and the root public key at which its chain ends, none where the chain does
not hold (15, R409; log entry 6). -/
opaque fwKey : Bytes → Option (Bytes × Bytes)

/-- Does a block of the NV store from 1,920 up hold a part of the device certificate (0), the vendor intermediate (1) or the wrapped
identity key (2) (15, R418; log entry 75)? -/
opaque nvHolds : Nat → Nat → Bool

/-- The code of a requester in an event's detail or a freeze record: the spec gives none (09, R268; log entry 16). -/
opaque requesterCode : Nat → Byte

/-- The kind of an entry of a freeze record: the spec gives no codes (09, `MEM_STATUS`; log entry 5). -/
opaque freezeKind : Nat → Byte

/-- The identity number of the part (15, R408). -/
opaque identity : BitVec 64

/-- I grade (01, ordering codes). -/
opaque gradeI : Bool

/-- Engineering sample (15, R408). -/
opaque sample : Bool

/-- The device and intermediate certificates fused into the part (15, R413). -/
opaque certDevice : Bytes
/-- The intermediate certificate. -/
opaque certInter : Bytes

/-- The code of a cause of a Laravo link change: the spec names the causes and gives no codes (11, `E031`; log entry 5). -/
opaque linkCause : Nat → Byte

/-- Core rail of a domain as set at manufacture, in mV above 650: from 0.65 V to 1.20 V (14, R388). -/
opaque coreRail : Nat → Fin 551

/-- The root-tick phase, within its cycle, of an occurrence that no row tells it of: by the hive cycle, the source and its count
(11, R331; log entry 70). -/
opaque phase : Nat → Nat → Nat → Fin 16

/-- The CRC-8 that a crossing group carries over its four words (10, R290), whose polynomial the spec does not give: a free value (log
entry 73). -/
opaque crossCrc : BitVec 64 → Byte

end Sys2Proof.Config
end

