-- ==== Sys2Proof/Machine/State.lean ====
section
/-! DEFINITION. The state of the ZX4128: every register, buffer, counter, mode and pin level the spec gives the block, as
plain data, its value at reset, and the reasons a step can stop. INVENTORY.md lists each field with the rule that names
it and its reset value. -/

namespace Sys2Proof.Machine


/-- Operating modes (12, R344). -/
inductive Mode where
  | boot | safe | ready | run | maintain | hibernate
  deriving DecidableEq, Repr, Inhabited

/-- Resets of a scope that `RSC_CAUSE` records or that R358 and R360 hold back (12, R356). -/
inductive ResetKind where
  | queen | device | powerOn
  deriving DecidableEq, Repr, Inhabited

/-- State of the power die: no supply; soft-start of the bus (start-up step 1); bus in regulation; stopped after an
overvoltage shutdown (R385); stopped after a thermal trip (R403). -/
inductive Supply where
  | off | soft | on | ovStop | tripStop
  deriving DecidableEq, Repr, Inhabited

/-- A loss of power (12, R356; 14, R385 to R387, R403, R405): the state it leaves the power die in, `LAST_OFF_CAUSE`, and what is
kept for the event after the restart. -/
structure PowerLoss where
  supply : Supply
  cause  : BitVec 8
  detail : BitVec 128
  sensor : BitVec 8
  deriving DecidableEq, Repr, Inhabited

/-- HIBERNATE: awake, entry in progress, entered, wake in progress (12, R363 to R366). -/
inductive HibPhase where
  | awake | entering | asleep | waking
  deriving DecidableEq, Repr, Inhabited

/-- Where a command that holds its tag stands (02, R34, R41, R45, R48): fetched and waiting for its turn or behind a
FENCE; waiting for its `TB0` instant (in units of 2⁻³² ns); running; a `SYS_ABORT` waiting for the commit of the
command it names (19, R472); a request of it waits for the handshake into a comb die whose clock has stopped (01, R11); or its
memory requests wait for the end of a rekey (09, R278). -/
inductive Phase where
  | waiting
  | scheduled (at_ : Nat)
  | running
  | awaiting (tag : BitVec 16)
  | stuck (die : Fin 4)
  | memory
  deriving DecidableEq, Repr, Inhabited

/-- What follows the writing of a reply: the reset of `SYS_RESET` is armed (12, R360), HIBERNATE entry begins (12, R363), or
the Queen core's clock mux switches (13, R374). -/
inductive After where
  | nothing
  | reset (k : ResetKind)
  | hibernate
  | queenMux (divider : Bool)
  deriving DecidableEq, Repr, Inhabited

/-- A command that holds its tag (02, R41): its packet, where it stands, and, once its checks have passed, the parameter
block as applied, the clamp mask and the LATE flag (R38, R40, R44). `discard`: a PCIe reset discards its reply (R26). -/
structure Job where
  key     : JobKey
  p       : Pkt
  phase   : Phase
  args    : Words
  mask    : BitVec 64
  late    : Bool
  discard : Bool
  after   : After
  deriving DecidableEq, Repr, Inhabited

/-- A committed reply (02, R40): eight header words with the phase bit clear, then the body. `holds`: the reply holds its
tag until it is written (R41); a `TAG_IN_USE` reply does not (R37). -/
structure Reply where
  key   : JobKey
  words : Words
  holds : Bool
  after : After
  deriving DecidableEq, Repr, Inhabited

/-- A record in the pending latch (02, R32; 18, R458). -/
structure EvRec where
  event  : Fin 256
  sev    : BitVec 3
  unit   : BitVec 12
  valid  : Bool
  ns     : BitVec 30
  sec    : BitVec 32
  detail : BitVec 128
  count  : BitVec 8
  cycle  : Nat
  deriving DecidableEq, Repr, Inhabited

/-- State of a power domain (14, `PWR_DOMAIN_STATE`). -/
inductive DomSt where
  | off | ramping | on | retention | fault
  deriving DecidableEq, Repr, Inhabited

/-- `PWR_DOMAIN_SET` in progress (14, R392): its job, the named domains that still ramp, and those that it turned on itself. -/
structure PwrJob where
  key  : JobKey
  left : List (Fin 64)
  own  : List (Fin 64)
  deriving DecidableEq, Repr, Inhabited

/-- State of the root PLL (13, `CLK_PLL_STATE`). -/
inductive Pll where
  | off | locking | locked | coasting | ramping
  deriving DecidableEq, Repr, Inhabited

/-- `CLK_MEASURE` in progress (13, R381): its job (none after a Queen reset, through which it goes on, R382); the root tick at
which its gates close; a coast during the gate; dies fenced or reset during it. -/
structure Measure where
  key    : Option JobKey
  closes : Nat
  coast  : Bool
  dies   : List (Fin 4)
  deriving DecidableEq, Repr, Inhabited

/-- The waveform of a clock output (13, R379): divisor, spread depth and rate in force, the root tick at which it was
enabled, the positions of the last rising edge and of the next edge in 1/128 root tick, its level, and whether the PLL has locked
anew since it was placed (R370). -/
structure OutRun where
  div   : Nat
  depth : Nat
  rate  : Nat
  from_ : Nat
  rise  : Nat
  next  : Nat
  high  : Bool
  old   : Bool
  deriving DecidableEq, Repr, Inhabited

/-- State of the TB0 servo (11, `TB_STATE.SERVO`). -/
inductive ServoSt where
  | off | acquiring | locked | hold
  deriving DecidableEq, Repr, Inhabited

/-- State of an HBM stack (09, `MEM_STACK_STATE`). -/
inductive StackSt where
  | off | untrained | training | ready | frozen | selfRefresh
  deriving DecidableEq, Repr, Inhabited

/-- A range of device addresses and what an unlisted byte in it reads as: with a tag, the free value of that tag, since its
contents are undefined until written (02 R23; 03 R92; 07 R222); without one, zero. -/
structure Undef where
  base : Nat
  size : Nat
  tag  : Option Nat
  deriving DecidableEq, Repr, Inhabited

/-- `MEM_REKEY` in progress (09, R278): its job, the interleave to install, and whether its step 2 has begun. -/
structure RekeyJob where
  key        : Option JobKey
  interleave : Bool
  begun      : Bool
  deriving DecidableEq, Repr, Inhabited

/-- A memory request that waits for the end of a rekey (09, R278): of the host through BAR2, or of another requester; or a fail record
that waits to be written to the log ring (06, R170). -/
inductive MemReq where
  | barRead (a len : Nat) (e : MemErr)
  | barWrite (a : Nat) (data : Bytes) (e : MemErr)
  | read (q : Requester) (a len : Nat) (e : MemErr)
  | write (q : Requester) (a : Nat) (data : Bytes) (e : MemErr)
  | logRecord (r : BitVec 128) (e : MemErr)
  deriving DecidableEq, Repr, Inhabited

/-- The SPI flash since the last reset (08, R247): not accessed, without valid SFDP tables, or read in a mode. -/
inductive FlashSt where
  | unread
  | bad
  | open_ (m : ReadMode)
  deriving DecidableEq, Repr, Inhabited

/-- Where a flit of the mesh is (10, R284, R288): at the endpoint of a die's link, in the input buffer of a router on the side
of a port (4: the attached units), on the wire of a router's output, or waiting for the link to a die. -/
inductive FlitAt where
  | endpoint (d : Fin 4)
  | router (r : Fin 32) (port : Fin 5)
  | wire (r : Fin 32) (port : Fin 5)
  | toDie (d : Fin 4)
  deriving DecidableEq, Repr, Inhabited

/-- A flit of the mesh: its source and destination unit, its channel, its payload, and where it is (10, R284, R285). -/
structure MeshFlit where
  src : NetUnit
  dst : NetUnit
  vc  : Fin 4
  payload : Bytes
  at_ : FlitAt
  deriving DecidableEq, Repr, Inhabited

/-- A flit that the sender of an Ndenu link keeps (10, R291, R292): its sequence number, its source and destination unit, and its
72 bytes. -/
structure LinkFlit where
  seq   : BitVec 12
  src   : NetUnit
  dst   : NetUnit
  bytes : Bytes
  deriving DecidableEq, Repr, Inhabited

/-- A packet that waits to leave a Laravo link (11, R314, R315): its channel, its header and payload, and the link in whose
receive buffer it lies, if it is forwarded. -/
structure TxPacket where
  vc    : Nat
  data  : Bytes
  from_ : Option (Fin 16)
  deriving DecidableEq, Repr, Inhabited

/-- Training in progress (09, R258, R259): the command (none at start-up or wake), the stacks still training, the scope,
and what it found so far (stack, failing lanes, eye). -/
structure TrainJob where
  key    : Option JobKey
  left   : List (Fin 4)
  scope  : Bool
  repair : Bool
  found  : List (Fin 4 × TrainResult)
  deriving DecidableEq, Repr, Inhabited

/-- State of an Ndenu link (10, `NET_LINK_STATE`). -/
inductive LinkSt where
  | down | training | up | locked
  deriving DecidableEq, Repr, Inhabited

/-- A credit book (10, R307): the sender's credits, the slots filled at the receiver, the flits on the wire, and the credits on
the way back. -/
structure Book where
  free   : Nat
  filled : Nat
  flight : Nat
  back   : Nat
  deriving DecidableEq, Repr, Inhabited

/-- Training and latency lock of one die's Ndenu link in progress (10, R300, R305; start-up step 7 and wake have no job):
the lanes to avoid and half width; a remap, and whether to record its map; whether the fence ends; whether the lanes are
trained first; and whether no fence or die reset has met it since. -/
structure LockJob where
  key    : Option JobKey
  bad    : List (Nat × Bool)
  half   : Bool
  remap  : Bool
  record : Bool
  rejoin : Bool
  train  : Bool
  live   : Bool
  deriving DecidableEq, Repr, Inhabited

/-- State of a Laravo link (11, R317). -/
inductive LlSt where
  | off | down | training | up | active | fault
  deriving DecidableEq, Repr, Inhabited

/-- `SWARM_FORWARD` waiting for inner replies (11, R327, R328): its job, its mode and destination or path, the tag and
target word of the inner command, the replies expected, what arrived, and whether an abort was sent after it. -/
structure Forward where
  key      : JobKey
  mode     : BitVec 2
  dest     : Byte
  way      : BitVec 64
  tag      : BitVec 16
  target   : Word
  expected : Nat
  got      : List (Byte × Words)
  aborting : Bool
  deriving DecidableEq, Repr, Inhabited

/-- State of a staging slot (08, R239). -/
inductive SlotSt where
  | released | staging | sealed_
  deriving DecidableEq, Repr, Inhabited

/-- What staging found in a stream (08, R233 to R240). -/
structure StreamFacts where
  partial_  : Bool
  mask      : BitVec 4
  die       : Fin 4
  region    : Fin 16
  release   : Bool
  baseId    : Word
  version   : Word
  counter   : BitVec 6
  encrypted : Bool
  meas      : Bytes
  dataLen   : Nat
  deriving DecidableEq, Repr, Inhabited

/-- State of a region or of a static part (08, R229). -/
inductive RegSt where
  | unconfigured | loading | held | frozen | running
  deriving DecidableEq, Repr, Inhabited

/-- State of a picot capture (07, R218). -/
inductive CapSt where
  | idle | armed | triggered | done
  deriving DecidableEq, Repr, Inhabited

/-- Configuration state of a die (08, R251). -/
inductive DieCfg where
  | unconfigured | loading | configured
  deriving DecidableEq, Repr, Inhabited

/-- A load in progress (08, R242 to R244): its job (none: start-up, or its reply is settled), its slot, start-up's load,
whether it releases what it configures, a fence or a die reset met by a die it writes, and an abort that waits for it. -/
structure Load where
  key     : Option JobKey
  slot    : Fin 4
  boot    : Bool
  release : Bool
  fenced  : Bool
  deriving DecidableEq, Repr, Inhabited

/-- A readback in progress (08, R246; 19, R489): the frames copied, and their bytes as the CRC-32 takes them. -/
structure Readback where
  key    : JobKey
  frames : Nat
  bytes  : Bytes
  deriving DecidableEq, Repr, Inhabited

/-- State of a Worker core (03, R59). -/
inductive WSt where
  | empty | idle | running | halted | ended | faulted | stopped
  deriving DecidableEq, Repr, Inhabited

/-- A register write of a Worker that is not yet visible everywhere (03, R71): register number, value, bundles until
operations and stores see it, bundles until addresses and branches see it. -/
structure PendWrite where
  reg  : Nat
  val  : BitVec 72
  late : Nat
  addr : Nat
  deriving DecidableEq, Repr, Inhabited

/-- A store of a Worker that its loads do not yet see (03, R71): device address, word, bundles left. -/
structure PendStore where
  addr : Nat
  val  : Word
  left : Nat
  deriving DecidableEq, Repr, Inhabited

/-- One active level of block repeat (03, R74). -/
structure RepLevel where
  first : BitVec 15
  last  : BitVec 15
  count : Nat
  ib    : Bool
  depth : Nat
  inh   : Bool
  deriving DecidableEq, Repr, Inhabited

/-- What the second delay slot of a taken control instruction does to the return stack (03, R73): nothing, the push of
`call`, or the pop of `ret`. -/
inductive StackTurn where
  | keep | push | pop
  deriving DecidableEq, Repr, Inhabited

/-- Delay slots open after a control instruction (03, R73): bundles left, the target of one that is taken, and what becomes
of the return stack behind them. -/
structure Delay where
  left   : Nat
  target : Option (BitVec 15)
  turn   : StackTurn
  deriving DecidableEq, Repr, Inhabited

/-- State of a half of the stream window (03, R65). -/
inductive HalfSt where
  | empty | filling | full | draining
  deriving DecidableEq, Repr, Inhabited

/-- What a port drives on an output pair (05, R131, R133, R140): logical 0 or 1, electrical idle, high impedance, or the
serial stream of a lane. -/
inductive Level where
  | low | high | idle | hiz | serial
  deriving DecidableEq, Repr, Inhabited

/-- Code-group alignment of an 8b/10b receiver (05, R145): the states of the synchronisation machine of IEEE 802.3 Clause 36.
LOSS_OF_SYNC; COMMA_DETECT_n; ACQUIRE_SYNC_n with `rx_even`; SYNC_ACQUIRED_n with n - 1 bad groups held against it, the good
groups since, and `rx_even`. -/
inductive Sync where
  | loss
  | comma (n : Nat)
  | acquire (n : Nat) (even : Bool)
  | synced (bad good : Nat) (even : Bool)
  deriving DecidableEq, Repr, Inhabited

/-- A transition of TX or TXE (04, R102, R103): effective time in timing units of the root count, the level driven, the test
cycle of the run it belongs to, and whether it is a return transition. -/
structure Trans where
  time  : Int
  value : Bool
  cycle : Nat
  ret   : Bool
  deriving DecidableEq, Repr, Inhabited

/-- Mode of a port group (05, R128). -/
inductive GMode where
  | waveform | coded | raw
  deriving DecidableEq, Repr, Inhabited

/-- State of a port group (04, `PG_STATUS.STATE`). -/
inductive GSt where
  | idle | armed | playing | underrun | halted | done
  deriving DecidableEq, Repr, Inhabited

/-- A FIFO entry (03, R80 to R83): the vector word, the timing set, the number of plays (for a match word its timeout), the
number of the match word if it is one, its marker, and the instant from which it may play in timing units of the root
count (04, R114). -/
structure Entry where
  word   : BitVec 256
  set    : Fin 32
  plays  : Nat
  match_ : Option Nat
  mark   : Option (BitVec 8)
  ready  : Int
  deriving DecidableEq, Repr, Inhabited

/-- What fail compression compares between records of one site (06, R165). -/
structure FailKey where
  pins  : BitVec 8
  addr  : BitVec 32
  data  : BitVec 16
  deriving DecidableEq, Repr, Inhabited

/-- A fail record (06, R166), 128 bits. -/
abbrev FailRec := BitVec 128

/-- State of a protocol lane (05, R148). -/
inductive Link where
  | safe | waveform | stopped | noSignal | cdrLock | aligned
  deriving DecidableEq, Repr, Inhabited

/-- An entry of the Brood table (06, R179): block, row, column. -/
structure Cell3 where
  block : Nat
  row   : Nat
  col   : Nat
  deriving DecidableEq, Repr, Inhabited

/-- A recorded lane map of an Ndenu link (10, R301): the lanes to avoid (lane, inbound), and half width. -/
structure LaneMap where
  bad  : List (Nat × Bool)
  half : Bool
  deriving DecidableEq, Repr, Inhabited

/-- An open debug challenge (15, R423): its scope and the 88 bytes that a signature covers. -/
structure Challenge where
  scope : BitVec 2
  msg   : Bytes
  deriving DecidableEq, Repr, Inhabited

/-- An element that a BIST run marks (17, R453), by its number in `SYS_INVENTORY`. -/
inductive Elem where
  | tile (i : Nat)
  | ram (i : Nat)
  | worker (i : Nat)
  | port (i : Nat)
  | link (i : Nat)
  deriving DecidableEq, Repr, Inhabited

/-- A Laravo message (11, R313, R324, R325): its channel, source, broadcast number or path bytes if any, and its bytes. -/
structure Message where
  vc    : Nat
  src   : Byte
  way   : Option (BitVec 64)
  bcast : Option (BitVec 16)
  data  : Bytes
  deriving DecidableEq, Repr, Inhabited

/-- The cause of a bus error (03, R66; 10, R283, R289; 09, R261, R268, R275): a handshake timed out, a frozen stack, a fenced die, a
route or a unit that is off, or an error of the memory itself. -/
inductive BusCause where
  | timeout | frozen | fenced | notReady | memory
  deriving DecidableEq, Repr, Inhabited

/-- A symbol of a lane of a Laravo link (11, R312): a data byte, or a control symbol by its byte. -/
inductive Sym where
  | data (b : Byte)
  | ctrl (b : Byte)
  deriving DecidableEq, Repr, Inhabited

/-- What the block puts out (log entry 3): a reply or event record in its ring (02, R29, R30), an MSI-X message, data or
the failure of a BAR access, bytes or a missing acknowledge on I²C, data written to host memory, a Laravo packet and the columns of code groups that a link sends (11, R312), bits
at TDO, what boundary scan drives at the pins under an instruction and its release, a level at a test port, a word of a protocol lane, a buzz, a request for a replay, an edge of a clock output with its position in 1/128 root tick (13, R379), the
bus error that answers a memory requester, with its cause (01, R11; 10, R289). -/
inductive Output where
  | columns (link : Fin 16) (groups : List (List (BitVec 10)))
  | replyRing (slot : BitVec 32) (words : Words)
  | eventRing (slot : BitVec 32) (words : Words)
  | msix (v : Fin 64)
  | barData (data : Bytes)
  | barAbort
  | barUnsupported
  | i2c (data : Bytes)
  | i2cNack
  | hostMem (addr : Nat) (data : Bytes)
  | laravo (link : Fin 16) (kind : Byte) (data : Bytes)
  | skip (link : Fin 16)
  | replayAsk (link : Fin 16) (seq : BitVec 12)
  | flitReplayAsk (die : Fin 4) (seq : BitVec 12)
  | flit (die : Fin 4) (data : Bytes)
  | buzz (link : Fin 16) (mask origin seq : Byte)
  | tdo (bits : List Bool)
  | scanDrive (code : Byte) (cells : List Bool)
  | scanRelease
  | pin (port : Fin 128) (txe : Bool) (level : Level)
  | lineGroups (port : Fin 128) (groups : List (BitVec 10))
  | lineBits (port : Fin 128) (word : Word)
  | clkEdge (out : Fin 4) (rising : Bool) (at_ : Nat)
  | busError (q : Requester) (cause : BusCause)
  | notReady (u : NetUnit)
  | unitFenced (u : NetUnit)
  deriving DecidableEq, Repr, Inhabited

/-- What a stalled Worker waits for (03, R72): a slot in the full FIFO, a window half that is not
FULL, a `vwait` condition with its argument, a hive
semaphore; or `vwait` condition 2 that its run has met (04, R123). -/
inductive Stall where
  | fifo
  | window
  | vwait (cond : BitVec 4) (arg : BitVec 14)
  | lock (sem : Fin 256)
  | drained
  deriving DecidableEq, Repr, Inhabited

/-- A compare of one pin (04, R101, R105): its event code, the effective times of the next sample of `RX` and of `RXL` where
one is to come, that of a window's last sample, whether a sample has failed, the test cycle of the run, the match word and
the first cycle of the play it belongs to, and, once every sample is taken, whether it failed. -/
structure Compare where
  code   : BitVec 4
  rxAt   : Option Int
  rxlAt  : Option Int
  last   : Int
  failed : Bool
  cycle  : Nat
  word   : Option (Nat × Nat)
  fail   : Option Bool
  deriving DecidableEq, Repr, Inhabited

/-- A play of a match word whose result has not arrived whole: its first cycle, the compares still to arrive, whether one
failed, and the failing pins of its cycles 0 to 7 (04, R109, R111). -/
structure MPlay where
  cycle  : Nat
  left   : Nat
  failed : Bool
  masks  : BitVec 64
  deriving DecidableEq, Repr, Inhabited

/-- A match word pushed (04, R109 to R111): its number, its timeout, the plays decided so far, whether the decision to end
it has fallen, whether a pass has arrived, whether it has resolved, and its plays. -/
structure MatchSt where
  id       : Nat
  timeout  : Nat
  decided  : Nat
  ended    : Bool
  passed   : Bool
  resolved : Bool
  plays    : List MPlay
  deriving DecidableEq, Repr, Inhabited

/-- A test cycle whose fail bits have not all arrived (06, R164; 04, R113): its number in the run, the compares still to
arrive, the pins that failed, those of them in a window compare, the tap samples, and whether taps were active. -/
structure OpenCycle where
  cycle  : Nat
  left   : Nat
  pins   : BitVec 8
  window : BitVec 8
  addr   : BitVec 32
  data   : BitVec 16
  tap    : Bool
  deriving DecidableEq, Repr, Inhabited

/-- A sample of the tap (04, R106). -/
structure TapSample where
  ev   : BitVec 256
  addr : BitVec 32
  data : BitVec 16
  deriving DecidableEq, Repr, Inhabited

/-- Repair geometry and address decoding of a site (06, R176). -/
structure Geom where
  blocks : Nat
  rows   : Nat
  cols   : Nat
  sRows  : Nat
  sCols  : Nat
  blkPos : Nat
  blkW   : Nat
  rowPos : Nat
  rowW   : Nat
  colSrc : Bool
  colPos : Nat
  colW   : Nat
  ioW    : Nat
  deriving DecidableEq, Repr, Inhabited

/-- State of a failing block (06, R179 to R183, block record): its number, the rows and columns allocated by the must-repair
rule, and those that the last solve chose beside them, with their `MUST` bits in ascending order, unrepairable, verdict,
solved by the greedy order, a cell lost, and the cells that what the last solve found has covered and that hold no entry (log entry
59). -/
structure Block where
  num     : Nat
  rows    : List (Nat × Bool)
  cols    : List (Nat × Bool)
  xRows   : List (Nat × Bool)
  xCols   : List (Nat × Bool)
  unrep   : Bool
  verdict : BitVec 2
  greedy  : Bool
  lost    : Bool
  absorbed : List Cell3
  deriving DecidableEq, Repr, Inhabited

/-- `BROOD_SOLVE` in progress (06, R182): its job, the sites it names, solving begun, and how far it has come: a block is
numbered 4,096 times its site plus its own number, and those below `upTo` are done. -/
structure Solve where
  key     : JobKey
  mask    : BitVec 32
  started : Bool
  upTo : Nat
  deriving DecidableEq, Repr, Inhabited

/-- The owner record (15, R411, R412): key identifier, certificate, public key, stream key and its sequence number. -/
structure Owner where
  keyId     : Word
  cert      : Bytes
  pub       : Bytes
  streamKey : Option Bytes
  seq       : Word
  deriving DecidableEq, Repr, Inhabited

/-- A boot record (08, R248): its sequence, `GOLDEN_ON_FAIL`, and flash offset and length of the primary and the golden
image. -/
structure BootRec where
  seq     : Nat
  onFail  : Bool
  addr    : Nat
  len     : Nat
  gAddr   : Nat
  gLen    : Nat
  deriving DecidableEq, Repr, Inhabited

/-- What an NV write puts into its blocks (15, R418): a rollback counter, the owner record, a boot record, a recorded lane
map, recorded lane repairs, marks of a unit or their erasure, soft repairs of a unit, or contents unchanged (a refresh). -/
inductive NvWrite where
  | counter (i : Fin 64) (v : Word)
  | owner (o : Owner)
  | bootRec (i : Fin 2) (r : BootRec)
  | lanes (d : Fin 4) (m : Option LaneMap)
  | repairs (l : List (Fin 4 × List Nat))
  | marks (u : Fin 64) (erase : Bool)
  | soft (u : Fin 64)
  | refresh
  deriving DecidableEq, Repr, Inhabited

/-- An NV write in progress (15, R420): its command, what it writes, the blocks still to write, and the results of the
command. -/
structure NvJob where
  key    : Option JobKey
  what   : NvWrite
  blocks : List Nat
  done   : Nat
  skip   : List Nat
  result : Words
  deriving DecidableEq, Repr, Inhabited

/-- `BIST_RUN` in progress (17, R446 to R452): its job (none after a Queen reset), the units named, `MODE`, `CAP`, the
expected values supplied, the units waiting in ascending order, and those running. -/
structure BistRun where
  key     : Option JobKey
  named   : BitVec 64
  diag    : Bool
  cap     : Nat
  expect  : List (Nat × BitVec 64)
  waiting : List (Fin 64)
  running : List (Fin 64)
  deriving DecidableEq, Repr, Inhabited

/-- A `WORK_START` whose start instant has not come (04, R115; 19, R483): its job, the Workers it began, the groups it armed
in ascending order, its execute-at time, the root tick of its start instant once that tick has come or is fixed, the ramp
step in force, whether the strobe was launched, and the count of `TB0` at that root tick once it has come (11, R331). -/
structure Start where
  key     : JobKey
  workers : BitVec 32
  groups  : List (Fin 16)
  at_     : Option Nat
  tick    : Option Nat
  ramp    : Nat
  strobed : Bool
  stamp   : Option Nat
  deriving DecidableEq, Repr, Inhabited

/-- Host interface registers of BAR0 and the MSI-X structures (02, R21 to R32). -/
structure Hif where
  /-- submission ring enabled (02 HIF_CTRL R25). -/
  subEn : Bool
  /-- reply ring enabled (02 HIF_CTRL R25). -/
  repEn : Bool
  /-- event ring enabled (02 HIF_CTRL R25). -/
  evtEn : Bool
  /-- sticky errors BAR_DROP 4, BAR_BUSY 3, DB_RANGE 2, CFG_WHILE_EN 1, PKT_FETCH 0 (02 HIF_ERR). -/
  err : BitVec 32
  /-- base of the submission ring; DESIGN CHOICE 0, log 8 (02 HIF_SUB_BASE). -/
  subBase : BitVec 64
  /-- base of the reply ring; DESIGN CHOICE 0, log 8 (02 HIF_REP_BASE). -/
  repBase : BitVec 64
  /-- base of the event ring; DESIGN CHOICE 0, log 8 (02 HIF_EVT_BASE). -/
  evtBase : BitVec 64
  /-- log2 of the slot count (02 HIF_SUB_SIZE R25). -/
  subSize : BitVec 5
  /-- log2 of the slot count (02 HIF_REP_SIZE R25). -/
  repSize : BitVec 5
  /-- log2 of the slot count (02 HIF_EVT_SIZE R25). -/
  evtSize : BitVec 5
  /-- submission slots consumed (02 HIF_SUB_HEAD R25). -/
  subHead : BitVec 32
  /-- submission slots written by the host (02 HIF_DOORBELL_SUB R27). -/
  subBell : BitVec 32
  /-- reply slots written (02 HIF_REP_TAIL R25). -/
  repTail : BitVec 32
  /-- reply slots consumed by the host (02 HIF_DOORBELL_REP R27). -/
  repBell : BitVec 32
  /-- event records written (02 HIF_EVT_TAIL R25). -/
  evtTail : BitVec 32
  /-- event records consumed by the host (02 HIF_DOORBELL_EVT R27). -/
  evtBell : BitVec 32
  /-- submissions were discarded to regain framing (02 HIF_STATUS.SUB_RESYNC R36). -/
  subResync : Bool
  /-- minimum gap between messages of a vector, 100 ns (02 HIF_IRQ_HOLDOFF). -/
  irqHoldoff : BitVec 16
  /-- MSI-X table words; DESIGN CHOICE 0, log 8 (02 BAR0 map 0x1000). -/
  msixTable : Vector (BitVec 32) 256
  /-- MSI-X pending bits: messages waiting for the holdoff; DESIGN CHOICE 0, log 8 (02 BAR0 map 0x1800). -/
  msixPba : BitVec 64
  /-- vectors whose holdoff gap runs (02 R32). -/
  msixGap : BitVec 64
  /-- SUB_EN kept at zero until no PCIe tag is in use (02 R26). -/
  subHold : Bool
  /-- the PCIe link is up (18 E046). -/
  pcieUp : Bool
  /-- the endpoint answers with Configuration Request Retry Status (12 R354). -/
  crs : Bool
  /-- PTM is enabled on the PCIe link; DESIGN CHOICE false, log 8 (11 R336). -/
  ptmOn : Bool
  deriving DecidableEq, Repr

/-- Hif at reset. -/
def Hif.reset : Hif where
  subEn := false
  repEn := false
  evtEn := false
  err := 0
  subBase := 0
  repBase := 0
  evtBase := 0
  subSize := 7
  repSize := 7
  evtSize := 7
  subHead := 0
  subBell := 0
  repTail := 0
  repBell := 0
  evtTail := 0
  evtBell := 0
  subResync := false
  irqHoldoff := 0
  msixTable := Vector.replicate 256 0
  msixPba := 0
  msixGap := 0
  subHold := false
  pcieUp := false
  crs := false
  ptmOn := false


/-- Rescue registers, mode and pins in PD00 (02, 12). -/
structure Rescue where
  /-- operating mode (12 R344). -/
  mode : Mode
  /-- cause of the last SAFE entry or ERROR_N assertion; DESIGN CHOICE 0, log 8 (02 RSC_CAUSE R350). -/
  cause : BitVec 16
  /-- 0 power-on, 1 device, 2 Queen (02 RSC_CAUSE R359). -/
  lastReset : BitVec 4
  /-- an I2C write had a wrong packet error code (02 RSC_STATUS R54). -/
  pecErr : Bool
  /-- a dip below the warning level was seen (14 R400). -/
  droopSeen : Bool
  /-- ERROR_N asserted (12 R350). -/
  errorN : Bool
  /-- BOOTSEL as sampled in step 3; DESIGN CHOICE 0, log 8 (12 R352). -/
  bootsel : BitVec 2
  /-- boot record used; DESIGN CHOICE 0, log 8 (02 RSC_BOOT). -/
  bootRecord : Bool
  /-- golden fallback taken (08 R243). -/
  golden : Bool
  /-- last start-up step begun; DESIGN CHOICE 0 before step 1, log 9 (12 R351). -/
  bootStep : BitVec 8
  /-- TB0 nanoseconds of the last mode change (12 MODE_GET). -/
  enteredNs : BitVec 32
  /-- TB0 seconds of the last mode change (12 MODE_GET). -/
  enteredS : BitVec 32
  /-- start-up has ended (READY, SAFE or waiting in BOOT) (12 R356). -/
  startupDone : Bool
  /-- RESET_N is held low (12 R357). -/
  resetLow : Bool
  /-- a device or power-on reset waiting for an NV block write (12 R358). -/
  deferred : Option ResetKind
  /-- the reset armed by SYS_RESET (12 R360). -/
  armedReset : Option ResetKind
  /-- awake, entering, asleep or waking (12 R363 to R366). -/
  hib : HibPhase
  /-- a wake match recorded during entry (12 R366). -/
  hibMatch : Bool
  /-- I2C_ADDR pins; DESIGN CHOICE 0, log 8 (02 R53). -/
  i2cAddr : BitVec 3
  /-- a PCIe reset that arrived in HIBERNATE and takes effect when the wake completes (12 R367). -/
  pcieHeld : Bool
  deriving DecidableEq, Repr

/-- Rescue at reset. -/
def Rescue.reset : Rescue where
  mode := .boot
  cause := 0
  lastReset := 0
  pecErr := false
  droopSeen := false
  errorN := false
  bootsel := 0
  bootRecord := false
  golden := false
  bootStep := 0
  enteredNs := 0
  enteredS := 0
  startupDone := false
  resetLow := false
  deferred := none
  armedReset := none
  hib := .awake
  hibMatch := false
  i2cAddr := 0
  pcieHeld := false


/-- Queen core: commands in progress, replies, semaphores (02, 12, 16). -/
structure Queen where
  /-- firmware running (02 HIF_STATUS.QUEEN_UP). -/
  up : Bool
  /-- held after its watchdog (12 R361). -/
  halted : Bool
  /-- halted by debug (16 DBG_STATUS). -/
  dbgHalt : Bool
  /-- the boot ROM refused the firmware (12 R353). -/
  refused : Bool
  /-- running firmware version (19 R476). -/
  fwVersion : BitVec 32
  /-- commands that hold a tag: waiting, scheduled or running (02 R41, R45; 11 R326). -/
  jobs : List Job
  /-- committed PCIe-path replies waiting to be written, oldest first (02 R31). -/
  replies : List Reply
  /-- I2C-path replies not yet read, oldest first (02 R56). -/
  i2cReplies : List Reply
  /-- WORK_STOP commands waiting: key, Workers still to stop, Workers acted on (19 R485). -/
  stopJobs : List (JobKey × BitVec 32 × BitVec 32)
  /-- calibrations in progress, with the dies fenced or reset meanwhile (19 R488). -/
  cal : List (JobKey × BitVec 4)
  /-- what follows replies already delivered on a path other than PCIe (12 R360, R363; 13 R374). -/
  due : List After
  /-- Queen registers written by DBG_WRITE; others read a free value, log 15 (16 DBG_READ SPACE 2). -/
  regs : List (Nat × BitVec 32)
  /-- owner of each hive semaphore (0 to 31 a Worker, 32 the Queen core) (03 R86). -/
  sems : Vector (Option (Fin 33)) 256
  deriving DecidableEq, Repr

/-- Queen at reset. -/
def Queen.reset : Queen where
  up := false
  halted := false
  dbgHalt := false
  refused := false
  fwVersion := 0
  jobs := []
  replies := []
  i2cReplies := []
  stopJobs := []
  cal := []
  due := []
  regs := []
  sems := Vector.replicate 256 none


/-- One event source (18, R460, R461). -/
structure EvState where
  /-- masked (18 R460, R462). -/
  mask : Bool
  /-- active bit (18 R460). -/
  active : Bool
  /-- occurrences since power-on, saturating (18 R465). -/
  count : BitVec 32
  /-- MSI-X vector of the route (18 R461, R462). -/
  vector : BitVec 6
  /-- MSI-X enable of the route (18 R461, R462). -/
  msi : Bool
  /-- IRQ_N enable of the route (18 R461, R462). -/
  irq : Bool
  deriving DecidableEq, Repr

/-- EvState at reset. -/
def EvState.reset : EvState where
  mask := false
  active := false
  count := 0
  vector := 1
  msi := true
  irq := false


/-- The events whose table gives severity 3 or 4 for any occurrence (18, R462 to R464): `IRQ_N` is enabled for them. -/
def Events.irqAtReset (e : Nat) : Bool :=
  if e < 64 then
    [2, 3, 4, 6, 7, 8, 9, 10, 11, 12, 13, 14, 15, 20, 21, 26, 27, 28, 29, 30, 33, 34, 38, 39, 42, 43, 44, 45].contains e
  else
    let o := (e - 64) % 48
    o < 8 || (20 ≤ o && o < 24) || o == 33 || (35 ≤ o && o < 39)

/-- The event sources at power-on (18, R462): unmasked, vector 1. -/
def Events.resetSrc : Vector EvState 256 :=
  Vector.ofFn fun e => { EvState.reset with irq := Events.irqAtReset e.val }

/-- Event unit in PD00 (18). -/
structure Events where
  /-- per event: mask, active, count, route (18 R462). -/
  src : Vector EvState 256
  /-- pending records, in the order in which they are written (18, R459) (02 R32). -/
  latch : List EvRec
  /-- the model's own count that tells which events occur in one hive cycle, log 65 (18 R459). -/
  cycle : Nat
  deriving DecidableEq, Repr

/-- Events at reset. -/
def Events.reset : Events where
  src := Events.resetSrc
  latch := []
  cycle := 0


/-- One power domain (14, R390 to R405). -/
structure Domain where
  /-- OFF, RAMPING, ON, RETENTION, FAULT (14 PWR_DOMAIN_STATE). -/
  st : DomSt
  /-- reservation in 0.1 W (14 R395). -/
  reserved : Nat
  /-- supply lost with a parent in FAULT (14 R405). -/
  lost : Bool
  /-- rail as measured, mV (14 PWR_TELEMETRY). -/
  rail : BitVec 16
  /-- current as measured, mA (14 PWR_TELEMETRY). -/
  current : BitVec 32
  deriving DecidableEq, Repr

/-- Domain at reset. -/
def Domain.reset : Domain where
  st := .off
  reserved := 0
  lost := false
  rail := 0
  current := 0


/-- Power die, budget and telemetry (14). -/
structure Power where
  /-- state of the power die (14 R383 to R387). -/
  supply : Supply
  /-- the power domains (14 R390). -/
  domains : Vector Domain 64
  /-- budget voltage, mV; set from VIN at the end of step 1; before it DESIGN CHOICE 6000, log 8 (14 R394). -/
  vb : Nat
  /-- owner cap, 0.1 W (14 R394). -/
  cap : Nat
  /-- VIN warning level, mV (14 R383, R407). -/
  vinWarn : BitVec 16
  /-- temperature warning, degrees C (14 R403, R407). -/
  tempWarn : BitVec 8
  /-- start ramp step, root ticks (14 R406, R407). -/
  rampStep : BitVec 8
  /-- averaging window; DESIGN CHOICE 0, log 8 (14 R404). -/
  avgLog : BitVec 5
  /-- domains reported by PWR_TELEMETRY; DESIGN CHOICE 0, log 8 (14 R404). -/
  telMask : BitVec 64
  /-- average VIN, mV; DESIGN CHOICE 0, log 8 (14 R404). -/
  vin : BitVec 16
  /-- average input current, mA; DESIGN CHOICE 0, log 8 (14 R404). -/
  iin : BitVec 32
  /-- average bus voltage, mV; DESIGN CHOICE 0, log 8 (14 R404). -/
  vbus : BitVec 16
  /-- average input power, 0.1 W; DESIGN CHOICE 0, log 8 (14 R404). -/
  pin : BitVec 32
  /-- VIN as the last row that tells it gave it, mV; DESIGN CHOICE 0, log 8 (14 R401, R406). -/
  vinNow : BitVec 16
  /-- lowest VIN sample since the last clear; DESIGN CHOICE 65535 (no sample yet), log 8 (14 PWR_TELEMETRY). -/
  vinMin : BitVec 16
  /-- highest input current sample since the last clear; DESIGN CHOICE 0, log 8 (14 PWR_TELEMETRY). -/
  iinMax : BitVec 32
  /-- average sensor temperatures, 0.5 C; DESIGN CHOICE 0, log 8 (14 PWR_TELEMETRY). -/
  temps : Vector (BitVec 16) 24
  /-- samples in the window in progress (14 R404). -/
  sumN : Nat
  /-- sums of the window in progress: VIN, IIN, VBUS, input power, the sensors, the rails, the currents (14 R404). -/
  sums : List Nat
  /-- lowest VIN of the excursion in progress (14 R400). -/
  vinLow : BitVec 16
  /-- VIN below its warning level (14 PWR_FLAGS.VIN_WARN). -/
  flagVin : Bool
  /-- VIN above 42.0 V (14 PWR_FLAGS.OV_WARN). -/
  flagOv : Bool
  /-- VIN below VB (14 PWR_FLAGS.BUDGET_VIN). -/
  flagBudget : Bool
  /-- input current at its limit (14 PWR_FLAGS.ILIM). -/
  flagIlim : Bool
  /-- sensor at or above TEMP_WARN (14 R402). -/
  sensorHot : Vector Bool 24
  /-- sensor may raise its warning event again (14 R402). -/
  sensorArmed : Vector Bool 24
  /-- THERM_N asserted (14 R402, R403). -/
  thermN : Bool
  /-- LAST_OFF_CAUSE (14 R387). -/
  lastOff : BitVec 8
  /-- detail kept with LAST_OFF_CAUSE for the event after restart (14 R387). -/
  offDetail : BitVec 128
  /-- sensor of the last thermal trip (14 R387). -/
  offSensor : BitVec 8
  /-- a power-on reset that waits for the NV block being written (12 R358). -/
  loss : Option PowerLoss
  /-- PWR_DOMAIN_SET commands waiting for named domains to end RAMPING (14 R392). -/
  jobs : List PwrJob
  deriving DecidableEq, Repr

/-- Power at reset. -/
def Power.reset : Power where
  supply := .off
  domains := Vector.replicate 64 Domain.reset
  vb := 6000
  cap := 4500
  vinWarn := 5600
  tempWarn := 100
  rampStep := 0
  avgLog := 0
  telMask := 0
  vin := 0
  iin := 0
  vbus := 0
  pin := 0
  vinNow := 0
  vinMin := 65535
  iinMax := 0
  temps := Vector.replicate 24 0
  sumN := 0
  sums := []
  vinLow := 65535
  flagVin := false
  flagOv := false
  flagBudget := false
  flagIlim := false
  sensorHot := Vector.replicate 24 false
  sensorArmed := Vector.replicate 24 true
  thermN := false
  lastOff := 0
  offDetail := 0
  offSensor := 0
  loss := none
  jobs := []


/-- One clock output (13, R379, R380). -/
structure ClkOut where
  /-- enabled (13 R382). -/
  en : Bool
  /-- divisor (13 R382). -/
  div : BitVec 13
  /-- down-spread, 50 ppm (13 R382). -/
  depth : BitVec 8
  /-- spread frequency, kHz (13 R382). -/
  rate : BitVec 8
  /-- the waveform at the ball; none: logical 0, or high-impedance (13 R379, R380). -/
  run : Option OutRun
  deriving DecidableEq, Repr

/-- ClkOut at reset. -/
def ClkOut.reset : ClkOut where
  en := false
  div := 0
  depth := 0
  rate := 0
  run := none


/-- Root PLL, muxes, outputs and counters (13). -/
structure Clock where
  /-- OFF, LOCKING, LOCKED, COASTING, RAMPING (13 CLK_PLL_STATE R382). -/
  pll : Pll
  /-- reference present (13 CLK_PLL_STATE). -/
  refOk : Bool
  /-- coasting (13 CLK_PLL_STATE). -/
  coast : Bool
  /-- bit m: mux m on its divider (13 R372, R382). -/
  mux : BitVec 6
  /-- coasts since power-on, saturating (13 CLK_STATUS). -/
  coastCount : BitVec 32
  /-- TB0 ns of the last coast entry; DESIGN CHOICE 0, log 8 (13 CLK_STATUS). -/
  lastCoastNs : BitVec 32
  /-- TB0 s of the last coast entry; DESIGN CHOICE 0, log 8 (13 CLK_STATUS). -/
  lastCoastS : BitVec 32
  /-- clock outputs (13 R379). -/
  outs : Vector ClkOut 4
  /-- root ticks since power-on, the axis on which the model places what happens at the pins, log 55 (13 R370). -/
  ticks : Nat
  /-- root ticks counted since the last lock (13 R370). -/
  count : BitVec 64
  /-- frequency measurements in progress, oldest first (13 R381). -/
  measures : List Measure
  /-- CLK_SELECT RELOCK in progress (13 R378). -/
  relock : Option JobKey
  deriving DecidableEq, Repr

/-- Clock at reset. -/
def Clock.reset : Clock where
  pll := .off
  refOk := false
  coast := false
  mux := 0
  coastCount := 0
  lastCoastNs := 0
  lastCoastS := 0
  outs := Vector.replicate 4 ClkOut.reset
  ticks := 0
  count := 0
  measures := []
  relock := none


/-- One time base (11, R330 to R333). -/
structure TimeBase where
  /-- seconds; DESIGN CHOICE 0, log 8 (11 R330). -/
  sec : BitVec 48
  /-- nanoseconds; DESIGN CHOICE 0, log 8 (11 R330). -/
  ns : BitVec 30
  /-- fraction, 2^-32 ns; DESIGN CHOICE 0, log 8 (11 R330). -/
  frac : BitVec 32
  /-- SET (11 R332). -/
  set : Bool
  /-- rate trim, 2^-32 ns per ns (11 R330, R343). -/
  trim : Int
  /-- slew still to absorb, 2^-32 ns; DESIGN CHOICE 0, log 8 (11 R333). -/
  slew : Int
  /-- slew rate, ppm; DESIGN CHOICE 0, log 8 (11 R333). -/
  slewPpm : Nat
  /-- part of a slew step below 2^-32 ns not yet applied, in millionths (11 R333). -/
  slewAcc : Nat
  /-- a slew is in progress (11 TB_STATE.SLEWING). -/
  slewing : Bool
  /-- jump limit, ns (11 R343). -/
  jump : BitVec 32
  /-- the servo has entered HOLD (11 TB_STATE.SYNC_LOST). -/
  syncLost : Bool
  deriving DecidableEq, Repr

/-- TimeBase at reset. -/
def TimeBase.reset : TimeBase where
  sec := 0
  ns := 0
  frac := 0
  set := false
  trim := 0
  slew := 0
  slewPpm := 0
  slewAcc := 0
  slewing := false
  jump := 1000
  syncLost := false


/-- TB0 servo (11, R336 to R341). -/
structure Servo where
  /-- 0 none, 1 PTM, 2 link (11 R343). -/
  source : BitVec 2
  /-- link the servo follows (11 TB_STATE.SRC_LINK). -/
  link : Fin 16
  /-- links that send SYNC (11 R343). -/
  txMask : BitVec 16
  /-- sync period 125 us x 2^k (11 R343). -/
  periodLog : BitVec 4
  /-- PTM offset, ns; DESIGN CHOICE 0, log 8 (11 R336). -/
  ptmOffset : Int
  /-- OFF, ACQUIRING, LOCKED, HOLD (11 TB_STATE.SERVO R343). -/
  st : ServoSt
  /-- stratum (11 TB_STATE.STRATUM). -/
  stratum : BitVec 8
  /-- corrections refused in a row (11 R340). -/
  refused : Nat
  /-- good corrections in a row (11 R340). -/
  good : Nat
  /-- `TB0` second in which the servo last raised E032 (11 R340). -/
  jumpSec : Option (BitVec 48)
  deriving DecidableEq, Repr

/-- Servo at reset. -/
def Servo.reset : Servo where
  source := 0
  link := 0
  txMask := 0
  periodLog := 3
  ptmOffset := 0
  st := .off
  stratum := 255
  refused := 0
  good := 0
  jumpSec := none


/-- One HBM stack and its controller (09). -/
structure Stack where
  /-- OFF, UNTRAINED, TRAINING, READY, FROZEN, SELF_REFRESH (09 MEM_STACK_STATE). -/
  st : StackSt
  /-- frozen while in training: it stays frozen (09 R259). -/
  wasFrozen : Bool
  /-- temperature, C (09 MEM_STACK_STATE.TEMP). -/
  temp : BitVec 8
  /-- above 85 C (09 R257). -/
  hot : Bool
  /-- 256 correctable errors reached in this window (09 R260). -/
  ceOver : Bool
  /-- poison list overflowed on this stack (09 R276). -/
  poisonFull : Bool
  /-- last training failed (09 R258). -/
  trainFail : Bool
  /-- FREEZE_CAUSE (09 R261). -/
  cause : BitVec 2
  /-- correctable errors in the current window (09 R260). -/
  ceWin : Nat
  /-- CE, UE, tag mismatches, unverifiable, hits, misses; DESIGN CHOICE 0, log 8 (09 MEM_STATUS). -/
  counters : Vector (BitVec 64) 6
  /-- freeze record (09 R261, R262). -/
  freezeRec : List (BitVec 128)
  /-- lanes repaired in force (09 R259). -/
  repairs : List Nat
  /-- the stack is present; DESIGN CHOICE true, log 8 (09 R258). -/
  present : Bool
  deriving DecidableEq, Repr

/-- Stack at reset. -/
def Stack.reset : Stack where
  st := .off
  wasFrozen := false
  temp := 0
  hot := false
  ceOver := false
  poisonFull := false
  trainFail := false
  cause := 0
  ceWin := 0
  counters := Vector.replicate 6 0
  freezeRec := []
  repairs := []
  present := true


/-- The undefined ranges after a power-on reset: hive SRAM slices 0 to 2 (02, R23); Worker memories (03, R92); cell RAM
(07, R222). The tag of a range numbers it. -/
def Mem.resetUndef : List Undef :=
  { base := 0x100000000000, size := 0x6000000, tag := some 0 } ::
    ((List.range 4).flatMap fun d =>
      { base := 0x200001000000 + d * 0x10000000000, size := 0x800000, tag := some (1 + d) } ::
        ((List.range 8).map fun k =>
          { base := 0x200000000000 + d * 0x10000000000 + k * 0x100000, size := 0x60000, tag := some (5 + 8 * d + k) }))

/-- Vector memory, hive SRAM, comb-die memories and the encryption engine (09, 02 R23). -/
structure Mem where
  /-- bytes by device address, canonical: rising, no zero entry outside the undefined ranges (09 R252; 02 R23). -/
  cells : List Host.Cell
  /-- ranges whose unlisted bytes read a free value, newest first (02 R23; 03 R92; 07 R222). -/
  undef : List Undef
  /-- 0 global, 1 affine (09 R254). -/
  interleave : Bool
  /-- memory key identifier; DESIGN CHOICE 0 before the first set is drawn, log 8 (09 R277). -/
  keyId : BitVec 16
  /-- a key set is installed (15 R422). -/
  keysOk : Bool
  /-- XTS key; DESIGN CHOICE 0 before the first set is drawn, log 8 (09 R277). -/
  xtsKey : BitVec 512
  /-- MAC key; DESIGN CHOICE 0 before the first set is drawn, log 8 (09 R277). -/
  macKey : BitVec 256
  /-- tags of the sectors written (09 R265). -/
  tags : List (Nat × BitVec 64)
  /-- tags of the nodes written (09 R270). -/
  nodeTags : List (Nat × BitVec 64)
  /-- write counters of sectors, by stack-local code, canonical nonzero (09 R265, R266). -/
  secCtr : List (Nat × Nat)
  /-- counters of the tree above level 1 and root slots, canonical nonzero (09 R270, R271). -/
  nodeCtr : List (Nat × Nat)
  /-- cached nodes with their dirty flag (09 R272). -/
  cache : List (Nat × Bool)
  /-- poisoned nodes and sectors (09 R275). -/
  poison : List Nat
  /-- TB0 ns of the latest refresh instant; DESIGN CHOICE 0, log 8 (09 R255). -/
  refreshNs : BitVec 32
  /-- TB0 s of the latest refresh instant; DESIGN CHOICE 0, log 8 (09 R255). -/
  refreshS : BitVec 32
  /-- the refresh grid runs (09 R255; 13 R376). -/
  gridOn : Bool
  /-- the four stacks (09). -/
  hbm : Vector Stack 4
  /-- MEM_COPY and MEM_FILL in progress (09 R280). -/
  copies : List JobKey
  /-- MEM_REKEY in progress (09 R278). -/
  rekey : Option RekeyJob
  /-- requests that wait for the rekey, oldest first (09 R278). -/
  waiting : List MemReq
  /-- MEM_TRAIN in progress (09 R259). -/
  training : Option TrainJob
  deriving DecidableEq, Repr

/-- Mem at reset. -/
def Mem.reset : Mem where
  cells := []
  undef := Mem.resetUndef
  interleave := false
  keyId := 0
  keysOk := false
  xtsKey := 0
  macKey := 0
  tags := []
  nodeTags := []
  secCtr := []
  nodeCtr := []
  cache := []
  poison := []
  refreshNs := 0
  refreshS := 0
  gridOn := false
  hbm := Vector.replicate 4 Stack.reset
  copies := []
  rekey := none
  waiting := []
  training := none


/-- Ndenu link and fence state of one comb die (10). -/
structure DieLink where
  /-- DOWN, TRAINING, UP, LOCKED (10 NET_LINK_STATE). -/
  st : LinkSt
  /-- the die is fenced (10 R302). -/
  fenced : Bool
  /-- its fence has ended, and no full load has completed since (01 R18). -/
  rejoining : Bool
  /-- FENCE_CAUSE (10 NET_STATUS). -/
  fenceCause : BitVec 4
  /-- TB0 seconds of the fence; DESIGN CHOICE 0, log 8 (10 NET_STATUS). -/
  fenceS : BitVec 32
  /-- half width (10 R290, R300). -/
  half : Bool
  /-- degradation reached in this window (10 R298). -/
  degraded : Bool
  /-- lanes the map in force avoids (lane, inbound) (10 R300). -/
  badLanes : List (Nat × Bool)
  /-- outbound then inbound: CRC errors, replays, links down, margin warnings (10 R297, R311). -/
  counters : Vector (BitVec 32) 8
  /-- crossing-group CRC-8 errors (10 R297, R311). -/
  crossErr : Vector (BitVec 32) 32
  /-- replays in the current window (10 R298). -/
  winReplays : Nat
  /-- crossing errors in the current window (10 R298). -/
  winCross : Nat
  /-- sums of the books set aside (10 R308). -/
  setAside : Vector (BitVec 32) 8
  /-- next sequence number towards the die (10 R291). -/
  txSeq : BitVec 12
  /-- next sequence number expected from the die (10 R291). -/
  rxSeq : BitVec 12
  /-- flits sent to the die and not acknowledged, oldest first (10 R292). -/
  replayBuf : List LinkFlit
  /-- the hive discards until the replay arrives (10 R292). -/
  rejecting : Bool
  /-- next sequence number the die sends (10 R291). -/
  dieTx : BitVec 12
  /-- next sequence number the die expects (10 R291). -/
  dieRx : BitVec 12
  /-- flits the die has sent and the hive has not acknowledged, oldest first (10 R292). -/
  dieBuf : List LinkFlit
  /-- the die discards until the replay arrives (10 R292). -/
  dieRejecting : Bool
  /-- successive failed transmissions of the flit that the die expects (10 R299). -/
  failsOut : Nat
  /-- successive failed transmissions of the flit that the hive expects (10 R299). -/
  failsIn : Nat
  /-- the die's island clock runs (10 R304). -/
  clockOn : Bool
  /-- the die's always-on logic has stopped it and holds its ports safe (10 R304). -/
  cutOff : Bool
  /-- the die is present; DESIGN CHOICE true, log 8 (10 R296). -/
  present : Bool
  deriving DecidableEq, Repr

/-- DieLink at reset. -/
def DieLink.reset : DieLink where
  st := .down
  fenced := false
  rejoining := false
  fenceCause := 0
  fenceS := 0
  half := false
  degraded := false
  badLanes := []
  counters := Vector.replicate 8 0
  crossErr := Vector.replicate 32 0
  winReplays := 0
  winCross := 0
  setAside := Vector.replicate 8 0
  txSeq := 0
  rxSeq := 0
  replayBuf := []
  rejecting := false
  dieTx := 0
  dieRx := 0
  dieBuf := []
  dieRejecting := false
  failsOut := 0
  failsIn := 0
  clockOn := false
  cutOff := false
  present := true


/-- Hive network and Ndenu links (10). -/
structure Net where
  /-- links (10). -/
  dies : Vector DieLink 4
  /-- handshake timeouts into islands other than comb dies (10 NET_STATUS). -/
  timeouts : BitVec 32
  /-- credit books that differ from their initial values (10 R307, R310). -/
  books : List (BitVec 16 × Fin 4 × Book)
  /-- flits of the mesh, oldest first (10 R284, R285). -/
  mesh : List MeshFlit
  /-- flits that a router output has sent while a channel waited, by output and channel (10 R287). -/
  waits : List (Nat × Nat)
  /-- NET_CREDIT_AUDIT commands waiting for the links to drain, oldest first (10 R309). -/
  audit : List JobKey
  /-- training and latency lock in progress (10 R300, R305). -/
  locking : Vector (Option LockJob) 4
  deriving DecidableEq, Repr

/-- Net at reset. -/
def Net.reset : Net where
  dies := Vector.replicate 4 DieLink.reset
  timeouts := 0
  books := []
  mesh := []
  waits := []
  audit := []
  locking := Vector.replicate 4 none


/-- One Laravo link (11). -/
structure Laravo where
  /-- OFF, DOWN, TRAINING, UP, ACTIVE, FAULT (11 R317). -/
  st : LlSt
  /-- enabled by power-on and SWARM_LINK_SET (11 R343). -/
  enabled : Bool
  /-- enabled and not trained since (11 R317). -/
  mayTrain : Bool
  /-- RETRAIN (11 R343). -/
  retrain : Bool
  /-- FIX_WIRING (11 R343). -/
  fixWiring : Bool
  /-- BUZZ_TX (11 R343). -/
  buzzTx : Bool
  /-- BUZZ_RX (11 R343). -/
  buzzRx : Bool
  /-- pre-cursor; DESIGN CHOICE 0, log 8 (11 SWARM_LINK_SET). -/
  pre : BitVec 4
  /-- post-cursor; DESIGN CHOICE 0, log 8 (11 SWARM_LINK_SET). -/
  post : BitVec 5
  /-- swing; DESIGN CHOICE 0, log 8 (11 SWARM_LINK_SET). -/
  swing : BitVec 4
  /-- peaking; DESIGN CHOICE 0, log 8 (11 SWARM_LINK_SET). -/
  ctle : BitVec 4
  /-- wiring correction applied (11 R319). -/
  fixApplied : Bool
  /-- lane order reversed (11 R319). -/
  reversed : Bool
  /-- lanes inverted (11 R319). -/
  inverted : BitVec 4
  /-- DUP (11 R319). -/
  dup : Bool
  /-- LOOP (11 R319). -/
  loop : Bool
  /-- neighbour's swarm ID; DESIGN CHOICE 0, log 8 (11 R319). -/
  peerId : BitVec 8
  /-- neighbour's link number; DESIGN CHOICE 0, log 8 (11 R319). -/
  peerLink : BitVec 4
  /-- neighbour's identity number; DESIGN CHOICE 0, log 8 (11 R319). -/
  peerIdentity : BitVec 64
  /-- neighbour's servo state; DESIGN CHOICE 0, log 8 (11 R318). -/
  peerServo : BitVec 8
  /-- a HELLO has been received since training (11 R318). -/
  helloSeen : Bool
  /-- last delay measurements, newest first (11 R338). -/
  delays : List Int
  /-- CRC errors, replays, drops, time packets discarded (11 R319). -/
  cnts : Vector (BitVec 16) 4
  /-- next sequence number sent (11 R314). -/
  txSeq : BitVec 12
  /-- next sequence number expected (11 R314). -/
  rxSeq : BitVec 12
  /-- packets sent and not acknowledged, oldest first (11 R314). -/
  replayBuf : List (BitVec 12 × Bytes)
  /-- packets waiting for a credit or for replay-buffer room, oldest first (11 R314, R315). -/
  txq : List TxPacket
  /-- packets sent while each channel waited (11 R315). -/
  waits : Vector Nat 4
  /-- credits to return to the partner (11 R314). -/
  owed : Vector Nat 4
  /-- packets sent whose credits have not come back (11 R314; 10 R307). -/
  spent : Vector Nat 4
  /-- packets in the receive buffers (11 R314; 10 R288). -/
  held : Vector Nat 4
  /-- successive replays asked from one packet (11 R317). -/
  failsOut : Nat
  /-- the packet that the last replay was asked from (11 R317). -/
  failsAt : BitVec 12
  /-- successive failed transmissions of the packet expected (11 R317). -/
  failsIn : Nat
  /-- discarding until the replay arrives (11 R314). -/
  rejecting : Bool
  /-- sequence numbers per time-packet type; DESIGN CHOICE 0, log 8 (11 R337). -/
  timeSeq : Vector (BitVec 8) 4
  /-- transmit timestamp of the open PDELAY_REQ (11 R338). -/
  reqT1 : Option Int
  /-- messages being reassembled, by channel (11 R313). -/
  partial_ : List Message
  /-- messages arrived whole and not yet executed or matched, oldest first (11 R313, R326, R327). -/
  whole : List Message
  /-- packet buffers free at the partner, channels 0 to 3 (11 R314). -/
  credits : Vector Nat 4
  /-- columns of packets and buzzes that the lanes still have to send, the first to go first (11 R312). -/
  wire : List (List Sym)
  /-- running disparity of each lane sent; DESIGN CHOICE negative, log 74 (11 R312). -/
  txDisp : Vector Bool 4
  deriving DecidableEq, Repr

/-- Laravo at reset. -/
def Laravo.reset : Laravo where
  st := .off
  enabled := true
  mayTrain := true
  retrain := false
  fixWiring := false
  buzzTx := false
  buzzRx := false
  pre := 0
  post := 0
  swing := 0
  ctle := 0
  fixApplied := false
  reversed := false
  inverted := 0
  dup := false
  loop := false
  peerId := 0
  peerLink := 0
  peerIdentity := 0
  peerServo := 0
  helloSeen := false
  delays := []
  cnts := Vector.replicate 4 0
  txSeq := 0
  rxSeq := 0
  replayBuf := []
  txq := []
  waits := Vector.replicate 4 0
  owed := Vector.replicate 4 0
  spent := Vector.replicate 4 0
  held := Vector.replicate 4 0
  failsOut := 0
  failsAt := 0
  failsIn := 0
  rejecting := false
  timeSeq := Vector.replicate 4 0
  reqT1 := none
  partial_ := []
  whole := []
  credits := Vector.replicate 4 32
  wire := []
  txDisp := Vector.replicate 4 false


/-- Swarm state (11). -/
structure Swarm where
  /-- swarm ID (11 R343). -/
  id : BitVec 8
  /-- route table (11 R321, R343). -/
  routes : Vector (BitVec 32) 255
  /-- BCAST_MASK (11 R343). -/
  bcastMask : BitVec 16
  /-- next broadcast number; DESIGN CHOICE 0, log 8 (11 R325). -/
  bcastNum : BitVec 16
  /-- broadcasts executed, newest first (11 R325). -/
  bcastSeen : List (BitVec 8 × BitVec 16)
  /-- FWD_LATE; DESIGN CHOICE 0, log 8 (11 R327). -/
  fwdLate : BitVec 32
  /-- SWARM_FORWARD commands waiting for replies (11 R327). -/
  forwards : List Forward
  /-- buzzes relayed, by origin and sequence number (11 R329). -/
  buzzSeen : List (BitVec 8 × BitVec 8)
  /-- next buzz sequence number; DESIGN CHOICE 0, log 8 (11 R329). -/
  buzzSeq : BitVec 8
  /-- Laravo links (11). -/
  links : Vector Laravo 16
  deriving DecidableEq, Repr

/-- Swarm at reset. -/
def Swarm.reset : Swarm where
  id := 255
  routes := Vector.replicate 255 0
  bcastMask := 0
  bcastNum := 0
  bcastSeen := []
  fwdLate := 0
  forwards := []
  buzzSeen := []
  buzzSeq := 0
  links := Vector.replicate 16 Laravo.reset


/-- One staging slot (08, R239, R240). -/
structure Slot where
  /-- released, staging, sealed (08 R251). -/
  st : SlotSt
  /-- the slot holds a decrypted stream (08 R239). -/
  decrypted : Bool
  /-- slot area; DESIGN CHOICE 0 while released, log 8 (08 CFG_STAGE). -/
  base : BitVec 48
  /-- length of the slot area (08 CFG_STAGE). -/
  len : Nat
  /-- CFG_STAGE in progress (08 R240). -/
  owner : Option JobKey
  /-- what staging found in the stream (08 R240). -/
  facts : StreamFacts
  deriving DecidableEq, Repr

/-- Slot at reset. -/
def Slot.reset : Slot where
  st := .released
  decrypted := false
  base := 0
  len := 0
  owner := none
  facts := default


/-- One region of a die (08, R228, R229). -/
structure Region where
  /-- the region exists (08 R228). -/
  valid : Bool
  /-- first tile column (08 R228). -/
  start : BitVec 6
  /-- number of tile columns (08 R228). -/
  width : BitVec 6
  /-- region state (08 R229). -/
  st : RegSt
  /-- measurement of the last partial stream (08 R245). -/
  meas : Option (List (BitVec 8))
  /-- was RUNNING at HIBERNATE entry (12 R365). -/
  resume : Bool
  deriving DecidableEq, Repr

/-- Region at reset. -/
def Region.reset : Region where
  valid := false
  start := 0
  width := 0
  st := .unconfigured
  meas := none
  resume := false


/-- One picot probe channel (07, R217, R221). -/
structure Probe where
  /-- column (07 R222). -/
  column : BitVec 6
  /-- row (07 R222). -/
  row : BitVec 5
  /-- cell or read half (07 R222). -/
  index : BitVec 6
  /-- enabled (07 R222). -/
  en : Bool
  /-- 0 capture, 1 port (07 R222). -/
  dest : Bool
  /-- port of the die (07 R222). -/
  port : BitVec 5
  deriving DecidableEq, Repr

/-- Probe at reset. -/
def Probe.reset : Probe where
  column := 0
  row := 0
  index := 0
  en := false
  dest := false
  port := 0


/-- Picot capture of one die (07, R218). -/
structure Capture where
  /-- idle, armed, triggered, done (07 R222). -/
  st : CapSt
  /-- TRIGGER (07 R222). -/
  trigger : Bool
  /-- TRIG_EVENT (07 R222). -/
  trigEvent : BitVec 3
  /-- ring base (07 R222). -/
  base : BitVec 48
  /-- LOG_LEN (07 R222). -/
  logLen : BitVec 5
  /-- POST (07 R222). -/
  post : BitVec 32
  /-- ring index of the next sample (07 R218). -/
  index : Nat
  /-- samples still to write after the trigger (07 R218). -/
  left : Nat
  /-- samples lost (07 R218). -/
  lost : BitVec 32
  /-- samples on their way to the ring, oldest first: slot and 16 bytes (07 R219). -/
  fifo : List (Nat × Bytes)
  /-- ring index of the trigger sample (07 R218). -/
  trigIndex : BitVec 32
  /-- TB0 ns of the trigger sample (07 R218). -/
  trigNs : BitVec 32
  /-- TB0 s of the trigger sample (07 R218). -/
  trigS : BitVec 32
  deriving DecidableEq, Repr

/-- Capture at reset. -/
def Capture.reset : Capture where
  st := .idle
  trigger := false
  trigEvent := 0
  base := 0
  logLen := 0
  post := 0
  index := 0
  left := 0
  lost := 0
  fifo := []
  trigIndex := 0
  trigNs := 0
  trigS := 0


/-- Fabric of one comb die (07, 08). -/
structure DieFab where
  /-- unconfigured, loading, configured (08 R251). -/
  cfgSt : DieCfg
  /-- configured from an encrypted stream (08 CFG_READBACK). -/
  encrypted : Bool
  /-- BASE_ID (08 R251). -/
  baseId : BitVec 32
  /-- measurement of the last full stream (08 R245). -/
  meas : Option (List (BitVec 8))
  /-- configuration words by frame and word, canonical nonzero (08 R223 to R227). -/
  cfg : List (Nat × BitVec 32)
  /-- fabric registers by position, canonical nonzero (07 R193, R201, R204). -/
  regs : List (Nat × BitVec 32)
  /-- FAB_CYCLE; DESIGN CHOICE 0, log 8 (07 R209). -/
  fabCycle : BitVec 64
  /-- region table (08 R228). -/
  regions : Vector Region 16
  /-- state of the static part (08 R229). -/
  static_ : RegSt
  /-- static part was RUNNING at HIBERNATE entry (12 R365). -/
  staticResume : Bool
  /-- words of the outbound channels on their way, newest first (07 R210). -/
  cross : List (List (Nat × BitVec 16))
  /-- words of inbound channels that the link delivers with an error in the present cycle (10 R292). -/
  crossBad : List (Nat × BitVec 16)
  /-- tile columns that have lost their configuration since their die was loaded (07 R214, R216). -/
  bare : BitVec 48
  /-- fabric interrupts, triggers and event values of the four groups in the cycle before (07 R209). -/
  edgeSeen : List (Nat × Nat × Nat)
  /-- last value each hoop word delivered, canonical nonzero (08 R231). -/
  hoop : List (Nat × BitVec 16)
  /-- south inbound edge words, canonical nonzero (07 R207). -/
  edgeIn : List (Nat × BitVec 16)
  /-- probe channels (07 R217). -/
  probes : Vector Probe 8
  /-- capture (07 R218). -/
  capture : Capture
  /-- fabric interrupt lines seen to rise in the last cycle, by Worker and line (07 R209). -/
  fabIrq : BitVec 64
  /-- correctable cell RAM errors; DESIGN CHOICE 0, log 8 (07 R206). -/
  ceRam : BitVec 32
  deriving DecidableEq, Repr

/-- DieFab at reset. -/
def DieFab.reset : DieFab where
  cfgSt := .unconfigured
  encrypted := false
  baseId := 0
  meas := none
  cfg := []
  regs := []
  fabCycle := 0
  regions := Vector.replicate 16 Region.reset
  static_ := .unconfigured
  staticResume := false
  cross := []
  crossBad := []
  bare := 0
  edgeSeen := []
  hoop := []
  edgeIn := []
  probes := Vector.replicate 8 Probe.reset
  capture := Capture.reset
  fabIrq := 0
  ceRam := 0


/-- Configuration controller (08). -/
structure Config_ where
  /-- staging slots (08 R239). -/
  slots : Vector Slot 4
  /-- LAST_STATUS; DESIGN CHOICE 0, log 8 (08 CFG_READBACK). -/
  lastStatus : BitVec 32
  /-- LAST_OFFSET; DESIGN CHOICE none, log 8 (08 CFG_READBACK). -/
  lastOffset : BitVec 32
  /-- loads in progress, oldest first (08 R242). -/
  loads : List Load
  /-- readbacks in progress, oldest first (19 R489). -/
  readbacks : List Readback
  /-- the SPI flash: not accessed since the reset, without valid SFDP tables, or its read mode (08 R247). -/
  flash : FlashSt
  /-- the configuration was loaded with BOOTSEL 01 (15 R414 flag 5). -/
  hostBoot : Bool
  deriving DecidableEq, Repr

/-- Config_ at reset. -/
def Config_.reset : Config_ where
  slots := Vector.replicate 4 Slot.reset
  lastStatus := 0
  lastOffset := 0xFFFFFFFF
  loads := []
  readbacks := []
  flash := .unread
  hostBoot := false


/-- Stream window (03, R64 to R66; 19, R481). -/
structure Window where
  /-- EN as set for the next start; DESIGN CHOICE 0, log 8 (19 R481). -/
  setEn : Bool
  /-- BASE as set; DESIGN CHOICE 0, log 8 (19 R481). -/
  setBase : BitVec 48
  /-- LENGTH as set; DESIGN CHOICE 0, log 8 (19 R481). -/
  setLen : BitVec 32
  /-- window enabled in this run (03 R64). -/
  en : Bool
  /-- device address of word 0 (03 R65). -/
  base : BitVec 48
  /-- stream length in words (03 R65). -/
  len : BitVec 32
  /-- groups of 512 words whose half failed (03 R66). -/
  failed : List Nat
  /-- chunks returned and not yet left by the reader (03 R65). -/
  returned : List Nat
  /-- next word the reader takes (03 R66). -/
  pos : Nat
  deriving DecidableEq, Repr

/-- Window at reset. -/
def Window.reset : Window where
  setEn := false
  setBase := 0
  setLen := 0
  en := false
  base := 0
  len := 0
  failed := []
  returned := []
  pos := 0


/-- One address comparator (16, R438). -/
structure Comparator where
  /-- EN (16 R444). -/
  en : Bool
  /-- SPACE (16 R444). -/
  space : BitVec 2
  /-- ACCESS (16 R444). -/
  access : BitVec 2
  /-- BUZZ (16 R444). -/
  buzz : BitVec 8
  /-- ADDR (16 R444). -/
  addr : BitVec 16
  /-- MASK (16 R444). -/
  mask : BitVec 16
  deriving DecidableEq, Repr

/-- Comparator at reset. -/
def Comparator.reset : Comparator where
  en := false
  space := 0
  access := 0
  buzz := 0
  addr := 0
  mask := 0


/-- Debug state of one Worker (16). -/
structure WDebug where
  /-- a halt is requested (16 R431). -/
  haltReq : Bool
  /-- HPC (16 DBG_WSTATE). -/
  hpc : BitVec 15
  /-- HALT_PENDING (16 DBG_WSTATE). -/
  pending : Bool
  /-- COMP (16 DBG_WSTATE). -/
  comp : BitVec 3
  /-- causes CMD, COMP_HIT, BUZZ, WDOG, STEP (16 DBG_WSTATE). -/
  causes : BitVec 5
  /-- Worker cycles waited for a semaphore (16 R433). -/
  lockWait : Nat
  /-- bundles left of a DBG_STEP (16 R437). -/
  stepLeft : Option Nat
  /-- bundles stepped (16 R437). -/
  stepDone : Nat
  /-- the DBG_STEP in progress (16 R437). -/
  stepJob : Option JobKey
  /-- address comparators (16 R438). -/
  comps : Vector Comparator 8
  deriving DecidableEq, Repr

/-- WDebug at reset. -/
def WDebug.reset : WDebug where
  haltReq := false
  hpc := 0
  pending := false
  comp := 0
  causes := 0
  lockWait := 0
  stepLeft := none
  stepDone := 0
  stepJob := none
  comps := Vector.replicate 8 Comparator.reset


/-- Worker registers 0 to 63 (03, register numbers; R61, R92). -/
structure Regs where
  /-- data registers (03 numbers 0 to 15 R92). -/
  d : Vector (BitVec 32) 16
  /-- accumulators (03 numbers 16 to 27 R62, R78). -/
  acc : Vector (BitVec 72) 4
  /-- X pointers (03 numbers 28 to 31). -/
  x : Vector (BitVec 16) 4
  /-- Y pointers (03 numbers 32 to 35). -/
  y : Vector (BitVec 16) 4
  /-- stride registers (03 numbers 36 to 43). -/
  s : Vector (BitVec 16) 8
  /-- V C N Z (03 WSTAT 3:0). -/
  flags : BitVec 4
  /-- sticky overflow (03 WSTAT.OVS). -/
  ovs : Bool
  /-- a lock operation failed (03 WSTAT.LKF). -/
  lkf : Bool
  /-- the last resolved vmatch ended by timeout (03 WSTAT.MF). -/
  mf : Bool
  /-- interrupts enabled (03 WSTAT.IE). -/
  ie : Bool
  /-- an interrupt handler is running (03 WSTAT.INH). -/
  inh : Bool
  /-- the watchdog was reloaded to 1,024 on resume (03 WSTAT.WDG_GRACE). -/
  grace : Bool
  /-- a window read stalled (03 WSTAT.WIN_WAITED). -/
  winWaited : Bool
  /-- accumulator read scaling (03 WMODE.SHIFT). -/
  shift : BitVec 4
  /-- FIFO level of interrupt line 2 (03 WMODE.LOWAT). -/
  lowat : BitVec 6
  /-- bundle address saved on interrupt entry (03 number 47). -/
  ipc : BitVec 32
  /-- WSTAT saved on interrupt entry (03 number 48). -/
  ist : BitVec 32
  /-- latched upper cycle count (03 number 50). -/
  cych : BitVec 32
  /-- fault code of the last fault (03 number 51). -/
  wfault : BitVec 8
  /-- timer count (03 number 52). -/
  wtimer : BitVec 32
  /-- timer reload value (03 number 53). -/
  wtimerRld : BitVec 32
  /-- PERIODIC, EN (03 WTIMER_CTRL). -/
  wtimerCtrl : BitVec 2
  /-- watchdog count (03 number 55). -/
  wdog : BitVec 32
  /-- watchdog reload value (03 number 56). -/
  wdogRld : BitVec 32
  /-- ACTION, EN (03 WDOG_CTRL). -/
  wdogCtrl : BitVec 2
  /-- interrupt line enables (03 WIEN). -/
  wien : BitVec 16
  /-- pending interrupt lines (03 WIPEND). -/
  wipend : BitVec 16
  /-- word presented to the fabric (03 WFOUT). -/
  wfout : BitVec 32
  deriving DecidableEq, Repr

/-- Regs at reset. -/
def Regs.reset : Regs where
  d := Vector.replicate 16 0
  acc := Vector.replicate 4 0
  x := Vector.replicate 4 0
  y := Vector.replicate 4 0
  s := Vector.replicate 8 0
  flags := 0
  ovs := false
  lkf := false
  mf := false
  ie := false
  inh := false
  grace := false
  winWaited := false
  shift := 0
  lowat := 0
  ipc := 0
  ist := 0
  cych := 0
  wfault := 0
  wtimer := 0
  wtimerRld := 0
  wtimerCtrl := 0
  wdog := 0
  wdogRld := 0
  wdogCtrl := 0
  wien := 0
  wipend := 0
  wfout := 0


/-- One Worker core (03). -/
structure Worker where
  /-- EMPTY, IDLE, RUNNING, HALTED, ENDED, FAULTED, STOPPED (03 states, R92). -/
  st : WSt
  /-- next bundle (03 R61). -/
  pc : BitVec 15
  /-- values every reader sees (03 R61, R92). -/
  regs : Regs
  /-- writes that some readers do not see yet, in program order (03 R71). -/
  pend : List PendWrite
  /-- word the fabric presents (03 number 61, R85). -/
  wfin : BitVec 32
  /-- stores not yet visible to loads (03 R71). -/
  stores : List PendStore
  /-- active repeat levels, innermost first (03 R74). -/
  reps : List RepLevel
  /-- return stack (03 R73). -/
  stack : List (BitVec 15)
  /-- delay slots open and the target after them (03 R73). -/
  delay : Option Delay
  /-- code and bundle of a fault met in the read stage, while the bundle behind it completes (03 R89). -/
  dying : Option (Nat × BitVec 15)
  /-- the last bundle lies in the range of a control instruction (03 R75). -/
  slotPrev : Bool
  /-- the last bundle ended an iteration of levels that all carry IB (03 R76). -/
  iterEnd : Bool
  /-- what the Worker stalls on (03 R72). -/
  stall : Option Stall
  /-- `end` has executed; waiting for the group (03 R90). -/
  ended : Bool
  /-- the start instant of its WORK_START has occurred (03 R59). -/
  started : Bool
  /-- its WORK_START armed its group (03 R59). -/
  armed : Bool
  /-- vmark value for the next entry (03 R83). -/
  mark : Option (BitVec 8)
  /-- Worker cycles since WORK_START (03 CYCL). -/
  cycl : BitVec 64
  /-- stop reason (19 R486). -/
  stop : BitVec 4
  /-- bundle of the fault or `end` (19 R486). -/
  endPc : BitVec 15
  /-- supply disturbed during the run (19 R486, 14 R400). -/
  supply : Bool
  /-- halted during the run (19 R486). -/
  wasHalted : Bool
  /-- TB0 ns of the start instant (19 R486). -/
  startNs : BitVec 32
  /-- TB0 s of the start instant (19 R486). -/
  startS : BitVec 32
  /-- correctable memory errors; DESIGN CHOICE 0, log 8 (03 R63). -/
  memCe : BitVec 32
  /-- measurement, none when not valid (15 R415). -/
  meas : Option (List (BitVec 8))
  /-- stream window (03 R64 to R66). -/
  window : Window
  /-- a stop waits for the next boundary (03 R91). -/
  stopJob : Bool
  /-- signals from other Workers on their way (03 R87). -/
  sigIn : Nat
  /-- debug state (16). -/
  dbg : WDebug
  deriving DecidableEq, Repr

/-- Worker at reset. -/
def Worker.reset : Worker where
  st := .empty
  pc := 0
  regs := Regs.reset
  pend := []
  wfin := 0
  stores := []
  reps := []
  stack := []
  delay := none
  dying := none
  slotPrev := false
  iterEnd := false
  stall := none
  ended := false
  started := false
  armed := false
  mark := none
  cycl := 0
  stop := 0
  endPc := 0
  supply := false
  wasHalted := false
  startNs := 0
  startS := 0
  memCe := 0
  meas := none
  window := Window.reset
  stopJob := false
  sigIn := 0
  dbg := WDebug.reset


/-- One timing set (04, R97). -/
structure TimingSet where
  /-- period, timing units, 0 stands for 2^32 (04 R127). -/
  period : BitVec 32
  /-- fast format (04 R127). -/
  fast : Bool
  /-- edge e of pin p at 4p + e (04 R127). -/
  edges : Vector (BitVec 24) 32
  deriving DecidableEq, Repr

/-- TimingSet at reset. -/
def TimingSet.reset : TimingSet where
  period := 0
  fast := false
  edges := Vector.replicate 32 0


/-- Formatter and compare state of one pin (04, R102 to R105). -/
structure PinFmt where
  /-- transitions of TX not yet applied, by effective time (04 R102). -/
  txq : List Trans
  /-- transitions of TXE not yet applied (04 R102). -/
  txeq : List Trans
  /-- effective time of the last TX transition applied (04 R103). -/
  lastTx : Option Int
  /-- effective time of the last TXE transition applied (04 R103). -/
  lastTxe : Option Int
  /-- compares not yet sampled (04 R105). -/
  strobes : List Compare
  deriving DecidableEq, Repr

/-- PinFmt at reset. -/
def PinFmt.reset : PinFmt where
  txq := []
  txeq := []
  lastTx := none
  lastTxe := none
  strobes := []


/-- Site mapping and counters of one pin of a group (06). -/
structure Pin where
  /-- SITE (06 R161). -/
  site : Fin 32
  /-- IO (06 R161). -/
  io : BitVec 5
  /-- EN (06 R161). -/
  en : Bool
  /-- failing compares, saturating (06 R174). -/
  fails : BitVec 32
  /-- deskew offsets TX, TXE, RX, RXL (04 R125, R127). -/
  offsets : Vector Int 4
  /-- calibration corrections (04 R124, R127). -/
  corr : Vector Int 4
  /-- formatter (04 R102). -/
  fmt : PinFmt
  deriving DecidableEq, Repr

/-- Pin at reset. -/
def Pin.reset : Pin where
  site := 0
  io := 0
  en := false
  fails := 0
  offsets := Vector.replicate 4 0
  corr := Vector.replicate 4 0
  fmt := PinFmt.reset


/-- Run state of one port group (04). -/
structure Run where
  /-- entries pushed and not yet playing (03 R80). -/
  fifo : List Entry
  /-- start of test cycle 0, timing units of the root count (04 R93, R115). -/
  t0 : Int
  /-- the start strobe has been launched (04 R115). -/
  strobed : Bool
  /-- the strobe came while the Worker was halted (04 R116). -/
  heldStrobe : Bool
  /-- start of the next play or idle cycle, timing units (04 R96). -/
  nextAt : Int
  /-- number of the next test cycle, counted without wrap (04 R93). -/
  nextCycle : Nat
  /-- entry being played (04 R114). -/
  cur : Option Entry
  /-- plays of it started (04 R81, R110). -/
  plays : Nat
  /-- start of the play or idle cycle in progress, timing units (04 R96). -/
  playAt : Int
  /-- its first test cycle (04 R93). -/
  playCycle : Nat
  /-- its test cycles (04 R99, R100). -/
  playLen : Nat
  /-- its period, timing units (04 R95). -/
  period : Nat
  /-- timing set of the last play (04 R119). -/
  lastSet : Fin 32
  /-- plays announced to the tap and not started (04 R106). -/
  tapAhead : Nat
  /-- tap samples of announced plays, oldest first (04 R106). -/
  tapGot : List TapSample
  /-- match words pushed, oldest first (04 R109 to R111). -/
  matches_ : List MatchSt
  /-- number of the next match word (03 R81). -/
  matchNo : Nat
  /-- markers of entries begun, with their first cycle, not yet recorded (04 R112). -/
  marks : List (BitVec 8 × BitVec 48)
  /-- first idle cycle of the run (06 FLAGS.UNDERRUN). -/
  underAt : Option Nat
  /-- test cycle of the first halt of the run (06 FLAGS.HALTED). -/
  haltCycle : Option Nat
  /-- cycles of plays begun that hold a reserved or unusable code and may still be to come (04 PG_STATUS.BAD_CODE). -/
  badAt : List Nat
  /-- test cycle of the first transition dropped in the run (06 FLAGS.CLASH). -/
  clashAt : Option Nat
  /-- test cycle in which SUPPLY_DIST was set (06 FLAGS.SUPPLY). -/
  supplyAt : Option Nat
  /-- boundary H of the halt in force, timing units (04 R121). -/
  haltAt : Option Int
  /-- the cycle in progress is an idle cycle (04 R119). -/
  idleNow : Bool
  /-- a stop completes with the test cycle in progress (04 R122). -/
  stopping : Bool
  /-- the last entry of the run has ended its last play (04 R123). -/
  ending : Bool
  deriving DecidableEq, Repr

/-- Run at reset. -/
def Run.reset : Run where
  fifo := []
  t0 := 0
  strobed := false
  heldStrobe := false
  nextAt := 0
  nextCycle := 0
  cur := none
  plays := 0
  playAt := 0
  playCycle := 0
  playLen := 0
  period := 0
  lastSet := 0
  tapAhead := 0
  tapGot := []
  matches_ := []
  matchNo := 0
  marks := []
  underAt := none
  haltCycle := none
  badAt := []
  clashAt := none
  supplyAt := none
  haltAt := none
  idleNow := false
  stopping := false
  ending := false


/-- Fail compression of one port group (06). -/
structure GFail where
  /-- THRESHOLD (06 R175). -/
  threshold : BitVec 32
  /-- SUPPRESS (06 R165). -/
  suppress : Bool
  /-- threshold reported in this run (06 R175). -/
  fired : Bool
  /-- records produced in this run (06 R174). -/
  produced : Nat
  /-- first failing cycle (06 R174). -/
  first : Option (BitVec 48)
  /-- last failing cycle (06 R174). -/
  last : Option (BitVec 48)
  /-- a record was dropped since the last produced one (06 R167). -/
  gap : Bool
  /-- last record produced per site (06 R165). -/
  lastRec : Vector (Option FailKey) 32
  /-- test cycles whose compares are still arriving (06 R164). -/
  open_ : List OpenCycle
  /-- fail FIFO (06 R167). -/
  fifo : List FailRec
  deriving DecidableEq, Repr

/-- GFail at reset. -/
def GFail.reset : GFail where
  threshold := 0
  suppress := false
  fired := false
  produced := 0
  first := none
  last := none
  gap := false
  lastRec := Vector.replicate 32 none
  open_ := []
  fifo := []


/-- One port group (04, 05, 06). -/
structure Group where
  /-- waveform, 8b/10b or raw (05 R128, R135). -/
  mode : GMode
  /-- RATE_N (05 R135). -/
  rateN : BitVec 6
  /-- OFFSET, 0.01 ppm (05 R135). -/
  offset : Int
  /-- SSC_DEPTH (05 R135). -/
  sscDepth : BitVec 8
  /-- SSC_RATE (05 R135). -/
  sscRate : BitVec 8
  /-- LOOPBACK (05 R135). -/
  loopback : Bool
  /-- TAP_MASK (04 PG_CTRL R127). -/
  tapMask : BitVec 8
  /-- UNDERRUN 1 (04 PG_CTRL R127). -/
  underrunStop : Bool
  /-- TAP_EN (04 PG_CTRL R127). -/
  tapEn : Bool
  /-- timing sets (04 R127). -/
  sets : Vector TimingSet 32
  /-- pins (04, 06). -/
  pins : Vector Pin 8
  /-- IDLE, ARMED, PLAYING, UNDERRUN, HALTED, DONE (04 PG_STATUS.STATE). -/
  st : GSt
  /-- CAL_VALID (04 PG_STATUS). -/
  calValid : Bool
  /-- SUPPLY_DIST (04 PG_STATUS). -/
  supplyDist : Bool
  /-- LATE_START (04 PG_STATUS). -/
  lateStart : Bool
  /-- BAD_CODE (04 PG_STATUS). -/
  badCode : Bool
  /-- EDGE_CLASH (04 PG_STATUS). -/
  edgeClash : Bool
  /-- UNDERRUN_SEEN (04 PG_STATUS). -/
  underrunSeen : Bool
  /-- calibration temperature, 0.5 C (04 R124). -/
  calTemp : BitVec 16
  /-- VALUE (04 PG_MARK). -/
  markValue : BitVec 8
  /-- COUNT (04 PG_MARK). -/
  markCount : BitVec 8
  /-- CYCLE (04 PG_MARK). -/
  markCycle : BitVec 48
  /-- number of the last test cycle of the play begun last (04 PG_CYCLE R127). -/
  cycle : BitVec 48
  /-- idle cycles played (04 PG_IDLE R127). -/
  idle : BitVec 48
  /-- dropped transitions (04 PG_CLASH R127). -/
  clash : BitVec 48
  /-- run in progress (04 R114 to R123). -/
  run : Run
  /-- fail compression (06 R164 to R175). -/
  fail : GFail
  deriving DecidableEq, Repr

/-- Group at reset. -/
def Group.reset : Group where
  mode := .waveform
  rateN := 0
  offset := 0
  sscDepth := 0
  sscRate := 0
  loopback := false
  tapMask := 0
  underrunStop := false
  tapEn := false
  sets := Vector.replicate 32 TimingSet.reset
  pins := Vector.replicate 8 Pin.reset
  st := .idle
  calValid := false
  supplyDist := false
  lateStart := false
  badCode := false
  edgeClash := false
  underrunSeen := false
  calTemp := 0
  markValue := 0
  markCount := 0
  markCycle := 0
  cycle := 0
  idle := 0
  clash := 0
  run := Run.reset
  fail := GFail.reset


/-- PRBS function of one port (05, R151 to R154). -/
structure Prbs where
  /-- runs (05 TP_STATUS.PRBS_ON). -/
  on : Bool
  /-- generator in use (05 R152). -/
  gen : Bool
  /-- checker in use (05 R152). -/
  chk : Bool
  /-- POLY; DESIGN CHOICE 0, log 8 (05 R151). -/
  poly : BitVec 2
  /-- INVERT; DESIGN CHOICE 0, log 8 (05 R151). -/
  invert : Bool
  /-- generator register; DESIGN CHOICE, log 8 (05 R151). -/
  genReg : BitVec 31
  /-- checker register; DESIGN CHOICE 0, log 8 (05 R153). -/
  chkReg : BitVec 31
  /-- locked (05 TP_STATUS.PRBS_LOCK). -/
  locked : Bool
  /-- consecutive bits that met the prediction, while not locked (05 R153). -/
  same : Nat
  /-- consecutive bits opposite to the prediction, while not locked (05 R157). -/
  opp : Nat
  /-- the swapped pair has been reported (05 R157). -/
  swapSeen : Bool
  /-- mismatches among the last 64 bits, while locked (05 R153). -/
  recent : BitVec 64
  /-- received bits behind a lock or a loss that has yet to take effect (05 R153). -/
  todo : List Bool
  /-- an inversion waits for the next word boundary (05 R154). -/
  insert_ : Bool
  /-- PRBS_BITS (05 R153). -/
  bits : BitVec 48
  /-- PRBS_ERR (05 R153). -/
  errs : BitVec 48
  /-- PRBS_LOSS (05 R153). -/
  losses : BitVec 32
  deriving DecidableEq, Repr

/-- Prbs at reset. -/
def Prbs.reset : Prbs where
  on := false
  gen := false
  chk := false
  poly := 0
  invert := false
  genReg := 0
  chkReg := 0
  locked := false
  same := 0
  opp := 0
  swapSeen := false
  recent := 0
  todo := []
  insert_ := false
  bits := 0
  errs := 0
  losses := 0


/-- PORT_DETECT in progress on one port (05, R156). -/
structure PortTest where
  /-- what TX goes back to (05 R156). -/
  tx : Level
  /-- what TXE goes back to (05 R156). -/
  txe : Level
  /-- checker of the polarity test, where it was asked for (05 R156). -/
  chk : Option Prbs
  deriving DecidableEq, Repr

/-- PortTest at reset. -/
def PortTest.reset : PortTest where
  tx := .hiz
  txe := .hiz
  chk := none


/-- One test port (05). -/
structure PortSt where
  /-- INV_TX, INV_TXE, INV_RX, INV_RXL (05 R130, R135). -/
  inv : BitVec 4
  /-- POLARITY_AUTO (05 R135). -/
  auto_ : Bool
  /-- START_TX (05 R135). -/
  startTx : Bool
  /-- START_TXE (05 R135). -/
  startTxe : Bool
  /-- PRE (05 R135). -/
  pre : BitVec 4
  /-- POST (05 R135). -/
  post : BitVec 5
  /-- SWING (05 R135). -/
  swing : BitVec 4
  /-- CTLE (05 R135). -/
  ctle : BitVec 4
  /-- TX pair: logical 0 or 1, electrical idle or high-impedance (05 R131, R133). -/
  tx : Level
  /-- TXE pair (05 R131, R133). -/
  txe : Level
  /-- SHORT (05 TP_STATUS). -/
  short : BitVec 4
  /-- POL_APPLIED (05 TP_STATUS). -/
  polApplied : Bool
  /-- POL_SWAP (05 TP_STATUS). -/
  polSwap : Bool
  /-- TX_FILL (05 TP_STATUS). -/
  txFill : Bool
  /-- CDR_LOST (05 TP_STATUS). -/
  cdrLost : Bool
  /-- lane state (05 TP_STATUS.LINK). -/
  link : Link
  /-- lane started by PORT_START (05 R160). -/
  started : Bool
  /-- CODE_ERR, DISP_ERR, TX_BADK, TX_FILL_COUNT, CDR_LOSS, ALIGN_LOSS (05 R135). -/
  counts : Vector (BitVec 32) 6
  /-- transmit running disparity, true positive (05 R143). -/
  txDisp : Bool
  /-- receive running disparity; DESIGN CHOICE negative, log 8 (05 R146). -/
  rxDisp : Bool
  /-- RX_SLIP pulses of the fabric that the receiver has not taken yet (05 R147). -/
  slipAsk : Nat
  /-- slips asked for and not yet taken out of the received bits (05 R147). -/
  slips : Nat
  /-- received bits of a raw lane that do not yet fill a word (05 R147). -/
  rxHave : Nat
  /-- those bits, the first received lowest; DESIGN CHOICE 0, log 8 (05 R147). -/
  rxBits : BitVec 32
  /-- code-group alignment of the receiver (05 R145). -/
  sync : Sync
  /-- received bits of an 8b/10b lane that do not yet fill a code group, the first received first (05 R145). -/
  rxLine : List Bool
  /-- bytes of the word being received: byte, K flag, error flag (05 R145). -/
  rxChars : List (Nat × Bool × Bool)
  /-- the lane has lost its clock to a coast and has not been started again (13 R375, R378). -/
  stale : Bool
  /-- bits of the serialiser on their way to the receiver in loopback (05 R159). -/
  loop : List Bool
  /-- PORT_DETECT in progress on the port (05 R156). -/
  test : Option PortTest
  /-- PRBS function (05 R151 to R154). -/
  prbs : Prbs
  deriving DecidableEq, Repr

/-- PortSt at reset. -/
def PortSt.reset : PortSt where
  inv := 0
  auto_ := false
  startTx := false
  startTxe := false
  pre := 0
  post := 0
  swing := 0
  ctle := 0
  tx := .hiz
  txe := .hiz
  short := 0
  polApplied := false
  polSwap := false
  txFill := false
  cdrLost := false
  link := .safe
  started := false
  counts := Vector.replicate 6 0
  txDisp := false
  rxDisp := false
  slipAsk := 0
  slips := 0
  rxHave := 0
  rxBits := 0
  sync := .loss
  rxLine := []
  rxChars := []
  stale := false
  loop := []
  test := none
  prbs := Prbs.reset


/-- Books and Brood state of one site (06). -/
structure Site where
  /-- per die: FAIL_CYCLES, SUPPRESSED, PRODUCED, DROP_SOURCE (06 site book). -/
  dieBook : Vector (Vector Nat 4) 4
  /-- STORED, MERGED, DROP_NOPART, DROP_GEOM, DROP_FULL, CELL_NEW, CELL_REPEAT, CELL_COVERED, CELL_LOST (06 site book). -/
  book : Vector Nat 9
  /-- UNBALANCED (06 R173). -/
  unbalanced : Bool
  /-- SOLVED (06 site flags). -/
  solved : Bool
  /-- LOST_NEW_BLOCK (06 site flags). -/
  lostNew : Bool
  /-- LOST_NO_BLOCK (06 site summary). -/
  lostNoBlock : Nat
  /-- E034 was raised since the site was cleared (06 R186). -/
  overflow : Bool
  /-- repair geometry (06 R176). -/
  geom : Option Geom
  /-- first unit of the partition (06 BROOD_PARTITION). -/
  base : BitVec 7
  /-- units of the partition (06 BROOD_PARTITION). -/
  size : BitVec 8
  /-- entries (06 R179). -/
  cells : List Cell3
  /-- states of failing blocks, ascending (06 R179 to R183). -/
  blocks : List Block
  deriving DecidableEq, Repr

/-- Site at reset. -/
def Site.reset : Site where
  dieBook := Vector.replicate 4 (Vector.replicate 4 0)
  book := Vector.replicate 9 0
  unbalanced := false
  solved := false
  lostNew := false
  lostNoBlock := 0
  overflow := false
  geom := none
  base := 0
  size := 0
  cells := []
  blocks := []


/-- Fail pipeline and Brood engine on the hive die (06). -/
structure Brood where
  /-- sites (06). -/
  sites : Vector Site 32
  /-- LOG_MODE (06 R169, R188). -/
  logMode : BitVec 2
  /-- LOG_SIZE (06 R169). -/
  logSize : BitVec 5
  /-- LOG_BASE (06 R169). -/
  logBase : BitVec 48
  /-- FAIL_LOG_HEAD (06 R169). -/
  logHead : BitVec 48
  /-- records lost to the log (06 R169, R170). -/
  logLost : BitVec 48
  /-- fail records that have reached the pipeline, with their group, oldest first (06 R168; 10 R286). -/
  inbox : List (Fin 16 × BitVec 128)
  /-- BROOD_SOLVE commands in progress, oldest first (06 R182). -/
  solves : List Solve
  deriving DecidableEq, Repr

/-- Brood at reset. -/
def Brood.reset : Brood where
  sites := Vector.replicate 32 Site.reset
  logMode := 0
  logSize := 0
  logBase := 0
  logHead := 0
  logLost := 0
  inbox := []
  solves := []


/-- One block of the NV store (15, R419, R420). -/
structure NvBlock where
  /-- write count; DESIGN CHOICE 0, log 8 (15 R420). -/
  count : Nat
  /-- the block has been written; DESIGN CHOICE as made, log 8 (15 R420). -/
  written : Bool
  /-- the CRC-32 of copy A holds; DESIGN CHOICE as made, log 8 (15 R419). -/
  goodA : Bool
  /-- the CRC-32 of copy B holds; DESIGN CHOICE as made, log 8 (15 R419). -/
  goodB : Bool
  /-- both copies have failed: the block reads as empty until a command writes it anew (15 R419). -/
  emptied : Bool
  /-- sequence of copy A; DESIGN CHOICE 0, log 8 (15 R419). -/
  seqA : Nat
  /-- sequence of copy B; DESIGN CHOICE 0, log 8 (15 R419). -/
  seqB : Nat
  deriving DecidableEq, Repr

/-- NvBlock at reset. -/
def NvBlock.reset : NvBlock where
  count := 0
  written := false
  goodA := true
  goodB := true
  emptied := false
  seqA := 0
  seqB := 0


/-- Security controller, NV store contents and fuses (15). -/
structure Security where
  /-- owner record; DESIGN CHOICE none enrolled, log 8 (15 R411). -/
  owner : Option Owner
  /-- rollback counters (15 R416). -/
  counters : Vector (BitVec 32) 64
  /-- boot records, none when not valid; DESIGN CHOICE none, log 8 (08 R248). -/
  bootRecs : Vector (Option BootRec) 2
  /-- NV blocks that differ from NvBlock.reset (15 R418). -/
  nv : List (Nat × NvBlock)
  /-- NV writes in progress, the first in the list writing (15 R420). -/
  nvJobs : List NvJob
  /-- TB0 seconds of the last NV refresh; DESIGN CHOICE 0, log 8 (15 R418 block 3). -/
  refreshS : BitVec 64
  /-- refresh count; DESIGN CHOICE 0, log 8 (15 R418 block 3). -/
  refreshN : Nat
  /-- recorded lane maps; DESIGN CHOICE none, log 8 (10 R301). -/
  laneMaps : Vector (Option LaneMap) 4
  /-- recorded lane repairs; DESIGN CHOICE none, log 8 (09 R259). -/
  hbmRepairs : Vector (List Nat) 4
  /-- the DRBG runs; DESIGN CHOICE true, log 8 (15 R422). -/
  drbgOk : Bool
  /-- values drawn (the index of the next free value, the model's own) (15 R422). -/
  draws : Nat
  /-- scope 1 unlocked (15 R425). -/
  scope1 : Bool
  /-- scope 2 unlocked (15 R425). -/
  scope2 : Bool
  /-- open challenge (15 R423). -/
  challenge : Option Challenge
  /-- report flags 1 to 4 (15 R414). -/
  flags : BitVec 8
  /-- firmware measurement (15 R409). -/
  fwMeas : Option (List (BitVec 8))
  deriving DecidableEq, Repr

/-- Security at reset. -/
def Security.reset : Security where
  owner := none
  counters := Vector.replicate 64 0
  bootRecs := Vector.replicate 2 none
  nv := []
  nvJobs := []
  refreshS := 0
  refreshN := 0
  laneMaps := Vector.replicate 4 none
  hbmRepairs := Vector.replicate 4 []
  drbgOk := true
  draws := 0
  scope1 := false
  scope2 := false
  challenge := none
  flags := 0
  fwMeas := none


/-- One BIST test unit (17). -/
structure BistUnit where
  /-- VERDICT (17 R452). -/
  verdict : BitVec 4
  /-- MODE of the latest run (17 R452). -/
  diag : Bool
  /-- CAUSE (17 R452). -/
  cause : BitVec 4
  /-- MORE (17 R450). -/
  more : Bool
  /-- failing entries (17 R450). -/
  entries : List (BitVec 128)
  /-- entries of the latest DIAGNOSE run, from which spare rows are mapped (17 R455). -/
  found : List (BitVec 128)
  /-- MISR (17 R449). -/
  misr : BitVec 64
  /-- EXPECTED of the latest run (17 R449). -/
  expected : BitVec 64
  /-- TIME_US (17 R452). -/
  timeUs : BitVec 32
  /-- value of BIST_EXPECT_SET, in PD00 (17 R449). -/
  stored : Option (BitVec 64)
  /-- latest verdict marks the whole unit (17 R454). -/
  marked : Bool
  /-- committed mark of the whole unit (17 R454). -/
  committed : Bool
  /-- elements marked by the latest run (17 R453). -/
  elems : List Elem
  /-- committed element marks (17 R454). -/
  elemsC : List Elem
  /-- soft repairs mapped (17 R455). -/
  repairs : List (BitVec 128)
  /-- soft repairs committed (17 R456). -/
  repairsC : List (BitVec 128)
  deriving DecidableEq, Repr

/-- BistUnit at reset. -/
def BistUnit.reset : BistUnit where
  verdict := 0
  diag := false
  cause := 0
  more := false
  entries := []
  found := []
  misr := 0
  expected := 0
  timeUs := 0
  stored := none
  marked := false
  committed := false
  elems := []
  elemsC := []
  repairs := []
  repairsC := []


/-- Built-in self-test (17). -/
structure Bist where
  /-- test units (codes 13 to 15 and 52 to 63 unused) (17 R445). -/
  units : Vector BistUnit 64
  /-- run in progress (17 R446). -/
  run : Option BistRun
  deriving DecidableEq, Repr

/-- Bist at reset. -/
def Bist.reset : Bist where
  units := Vector.replicate 64 BistUnit.reset
  run := none


/-- Debug engine and JTAG (16). -/
structure Debug where
  /-- LB_WORKER (16 DBG_STATUS). -/
  lbWorker : BitVec 5
  /-- LOCK_BROKEN (16 DBG_STATUS). -/
  lockBroken : Bool
  /-- SE_SUPPRESSED (16 DBG_STATUS). -/
  seSupp : Bool
  /-- MEMBERS of the buzz groups (16 R444). -/
  members : Vector (BitVec 32) 8
  /-- FABRIC_EV of the buzz groups (16 R444). -/
  fabricEv : Vector (BitVec 32) 8
  /-- reply waiting in the mailbox (16 R429). -/
  mailbox : List (BitVec 32)
  /-- words of a packet shifted into the mailbox so far (16 R429). -/
  mailIn : List (BitVec 32)
  /-- MAILBOX_BUSY (16 DBG_STATUS). -/
  mailBusy : Bool
  /-- DBG_HALT commands waiting: key, Workers still asked, Workers halted (16 R431). -/
  haltJobs : List (JobKey × BitVec 32 × BitVec 32)
  /-- JTAG instruction; PRESUMED IDCODE (IEEE 1149.1), log 13 (16 R426). -/
  ir : BitVec 8
  /-- DIE_SEL; DESIGN CHOICE 0, log 8 (16 DIE_SEL). -/
  dieSel : BitVec 8
  /-- boundary-scan cells preloaded; DESIGN CHOICE empty, log 8 (16 R427). -/
  bsr : List Bool
  /-- internal register space words written; others read a free value, log 15 (16 R430). -/
  internal : List (Nat × BitVec 32)
  deriving DecidableEq, Repr

/-- Debug at reset. -/
def Debug.reset : Debug where
  lbWorker := 0
  lockBroken := false
  seSupp := false
  members := Vector.replicate 8 0
  fabricEv := Vector.replicate 8 0
  mailbox := []
  mailIn := []
  mailBusy := false
  haltJobs := []
  ir := 1
  dieSel := 0
  bsr := []
  internal := []


/-- The ZX4128 block. -/
structure State where
  /-- host interface (02). -/
  hif : Hif
  /-- rescue registers, mode and pins (02, 12). -/
  rsc : Rescue
  /-- Queen core (02). -/
  queen : Queen
  /-- event unit (18). -/
  ev : Events
  /-- power (14). -/
  pwr : Power
  /-- clocks (13). -/
  clk : Clock
  /-- time bases (11). -/
  tb : Vector TimeBase 8
  /-- TB0 servo (11). -/
  servo : Servo
  /-- memory (09). -/
  mem : Mem
  /-- network (10). -/
  net : Net
  /-- swarm (11). -/
  swarm : Swarm
  /-- configuration controller (08). -/
  cfg : Config_
  /-- fabric (07). -/
  fab : Vector DieFab 4
  /-- Worker cores (03). -/
  workers : Vector Worker 32
  /-- port groups (04). -/
  groups : Vector Group 16
  /-- test ports (05). -/
  ports : Vector PortSt 128
  /-- fail pipeline and Brood engine (06). -/
  brood : Brood
  /-- security (15). -/
  sec : Security
  /-- self-test (17). -/
  bist : Bist
  /-- debug (16). -/
  dbg : Debug
  /-- WORK_STARTs waiting for their instant (04 R115; 19 R483). -/
  starts : List Start
  /-- what the block has put out, newest first (the model's own) (log 3). -/
  out : List Output
  /-- index of the next free value (the model's own); DESIGN CHOICE 64 (log 5). -/
  free : Nat
  /-- rows waiting, first in first out (-). -/
  pending : List Instr
  deriving DecidableEq, Repr

/-- State at reset. -/
def State.reset : State where
  hif := Hif.reset
  rsc := Rescue.reset
  queen := Queen.reset
  ev := Events.reset
  pwr := Power.reset
  clk := Clock.reset
  tb := Vector.replicate 8 TimeBase.reset
  servo := Servo.reset
  mem := Mem.reset
  net := Net.reset
  swarm := Swarm.reset
  cfg := Config_.reset
  fab := Vector.replicate 4 DieFab.reset
  workers := Vector.replicate 32 Worker.reset
  groups := Vector.replicate 16 Group.reset
  ports := Vector.replicate 128 PortSt.reset
  brood := Brood.reset
  sec := Security.reset
  bist := Bist.reset
  dbg := Debug.reset
  starts := []
  out := []
  free := 64
  pending := []


/-- Why a step stops with a fault. No meaning of this model ends in one: every operation of the spec has an effect, and a
row whose condition does not hold leaves the state as it is (log entry 1). The one reason names an address that no
operation reaches; it is safe, since it only stops. -/
inductive Fault where
  /-- An access to a device address that the spec gives no memory; raised by nothing. Safe. -/
  | noSuchAddress (addr : Nat)
  deriving DecidableEq, Repr

/-- Why a step is refused. Safe: a refusal only stops. -/
inductive Refusal where
  /-- A row that has no meaning in this model yet; raised by the arms of `exec` that say so. Safe. -/
  | notModelled (mnemonic : String)
  deriving DecidableEq, Repr

end Sys2Proof.Machine
end

