-- ==== Sys2Proof/Machine/Bits.lean ====
section
/-! DEFINITION. Bit fields, bytes, words, checksums and vectors: the plain operations the meanings are written with. All
numbers are little-endian (spec/00_scope.md R3). -/

namespace Sys2Proof.Machine

/-- Words as one number, the lowest offset least significant (R3). -/
def wordsNum : Words → Nat
  | [] => 0
  | w :: ws => w.toNat + 0x100000000 * wordsNum ws

/-- The low `k` words of a number. -/
def numWords : Nat → Nat → Words
  | 0, _ => []
  | k + 1, n => BitVec.ofNat 32 n :: numWords k (n / 0x100000000)

/-- Bytes as one number (R3). -/
def bytesNum : Bytes → Nat
  | [] => 0
  | b :: bs => b.toNat + 0x100 * bytesNum bs

/-- The low `k` bytes of a number. -/
def numBytes : Nat → Nat → Bytes
  | 0, _ => []
  | k + 1, n => BitVec.ofNat 8 n :: numBytes k (n / 0x100)

/-- The words of a list of bytes; a last part word is filled with zeros. -/
def wordsOfBytes (bs : Bytes) : Words := numWords ((bs.length + 3) / 4) (bytesNum bs)

/-- The bytes of a list of words. -/
def bytesOfWords (ws : Words) : Bytes := ws.flatMap fun w => numBytes 4 w.toNat

/-- The field of `w` bits from bit `lo` of a number. -/
def bitsOf (n lo w : Nat) : Nat := (n >>> lo) % 2 ^ w

/-- Bit `i` of a number. -/
def bitOf (n i : Nat) : Bool := n.testBit i

/-- A truth value as a number. -/
def b2n (b : Bool) : Nat := if b then 1 else 0

/-- A truth value as a word with that bit at `i`. -/
def bitAt (b : Bool) (i : Nat) : Nat := b2n b <<< i

/-- A number of `w` bits read as two's complement. -/
def signedOf (w n : Nat) : Int := if n < 2 ^ (w - 1) then n else (n : Int) - 2 ^ w

/-- The low `w` bits of an integer, as two's complement. -/
def unsignedOf (w : Nat) (i : Int) : Nat := (i % 2 ^ w).toNat

/-- The list of positions below `n` of the bits that are 1. -/
def onesOf (n : Nat) (w : Nat) : List Nat := (List.range n).filter fun i => w.testBit i

/-- A saturating count of `w` bits, raised by `k`. -/
def satAdd {w : Nat} (n : BitVec w) (k : Nat) : BitVec w :=
  if n.toNat + k < 2 ^ w then BitVec.ofNat w (n.toNat + k) else BitVec.ofNat w (2 ^ w - 1)

/-- A value held between two limits (02, R38). -/
def clampNat (lo hi v : Nat) : Nat := if v < lo then lo else if hi < v then hi else v

/-- The same of integers. -/
def clampInt (lo hi v : Int) : Int := if v < lo then lo else if hi < v then hi else v

/-- `⌈a / b⌉`. -/
def ceilDiv (a b : Nat) : Nat := (a + b - 1) / b

/-- One element of a vector changed. -/
def upd {α : Type} {n : Nat} (v : Vector α n) (i : Fin n) (f : α → α) : Vector α n :=
  v.set i.val (f v[i.val]) i.isLt

/-- Element `i` of a vector, by a number that may be out of range. -/
def at? {α : Type} {n : Nat} (v : Vector α n) (i : Nat) : Option α := if h : i < n then some v[i] else none

/-- The packed bits of a list of truth values, the first as bit 0. -/
def packBools : List Bool → Nat
  | [] => 0
  | b :: bs => b2n b + 2 * packBools bs

/-- Is a list free of repeats? -/
def noRepeats {α : Type} [DecidableEq α] : List α → Bool
  | [] => true
  | a :: l => !l.contains a && noRepeats l

/-- The least of a list. -/
def leastOf : List Nat → Option Nat
  | [] => none
  | a :: l => match leastOf l with
    | none => some a
    | some b => some (min a b)

/-- An integer put into a rising list. -/
def insertInt (a : Int) : List Int → List Int
  | [] => [a]
  | b :: l => if a ≤ b then a :: b :: l else b :: insertInt a l

/-- A list of integers in rising order. -/
def sortInts : List Int → List Int
  | [] => []
  | a :: l => insertInt a (sortInts l)

/-- Sparse words by position, in canonical form: rising positions, no zero entry. -/
def sparseGet {w : Nat} (l : List (Nat × BitVec w)) (k : Nat) : BitVec w :=
  match l with
  | [] => 0
  | (i, v) :: l => if i = k then v else if k < i then 0 else sparseGet l k

/-- A sparse word written; writing zero removes the entry. -/
def sparseSet {w : Nat} (l : List (Nat × BitVec w)) (k : Nat) (v : BitVec w) : List (Nat × BitVec w) :=
  match l with
  | [] => if v = 0 then [] else [(k, v)]
  | (i, x) :: l =>
    if k < i then (if v = 0 then (i, x) :: l else (k, v) :: (i, x) :: l)
    else if k = i then (if v = 0 then l else (k, v) :: l)
    else (i, x) :: sparseSet l k v

/-- Sparse numbers by position, in canonical form: rising positions, no zero entry. -/
def countGet (l : List (Nat × Nat)) (k : Nat) : Nat :=
  match l with
  | [] => 0
  | (i, v) :: l => if i = k then v else if k < i then 0 else countGet l k

/-- A sparse number written; writing zero removes the entry. -/
def countSet (l : List (Nat × Nat)) (k v : Nat) : List (Nat × Nat) :=
  match l with
  | [] => if v = 0 then [] else [(k, v)]
  | (i, x) :: l =>
    if k < i then (if v = 0 then (i, x) :: l else (k, v) :: (i, x) :: l)
    else if k = i then (if v = 0 then l else (k, v) :: l)
    else (i, x) :: countSet l k v

/-- One bit of a CRC shifted left (most significant bit first) of width `w` with polynomial `poly`. -/
def crcShift (w poly : Nat) (c : Nat) : Nat :=
  if c.testBit (w - 1) then ((c <<< 1) % 2 ^ w) ^^^ poly else (c <<< 1) % 2 ^ w

/-- `k` applications of a function. -/
def iter {α : Type} (f : α → α) : Nat → α → α
  | 0, a => a
  | k + 1, a => iter f k (f a)

/-- The packet error code of SMBus (02, R54): CRC-8, polynomial x⁸ + x² + x + 1, from zero, bits most significant first. -/
def crc8 (bs : Bytes) : Byte :=
  BitVec.ofNat 8 (bs.foldl (fun c b => iter (crcShift 8 0x07) 8 (c ^^^ b.toNat)) 0)

/-- One bit of the reflected CRC-32 of IEEE 802.3. -/
def crc32Shift (c : Nat) : Nat := if c % 2 = 1 then (c >>> 1) ^^^ 0xEDB88320 else c >>> 1

/-- CRC-32 of IEEE 802.3 (08, R234), carried from a running remainder. -/
def crc32From (c : Nat) (bs : Bytes) : Nat :=
  bs.foldl (fun c b => iter crc32Shift 8 (c ^^^ b.toNat)) c

/-- CRC-32 of IEEE 802.3: initial and final inversion (08, R234). -/
def crc32 (bs : Bytes) : Word := BitVec.ofNat 32 (crc32From 0xFFFFFFFF bs ^^^ 0xFFFFFFFF)

/-- The sixteen words of a 512-bit digest. -/
def digestBytes (d : BitVec 512) : Bytes := numBytes 64 d.toNat

/-- Bits taken from the front of a list as a number, the first least significant. -/
def bitsNum (l : List Bool) : Nat := packBools l

end Sys2Proof.Machine
end

