-- ==== Sys2Proof/Machine/Ops.lean ====
section
/-! DEFINITION. The shared operations of the machine: updates of one unit, the numbering of units, time stamps, raising an
event and signalling a vector, the bytes of the device memories, the state of power domains, inventory marks, and
running functions. -/

namespace Sys2Proof.Machine

/-! Updates of one unit. -/

/-- One Worker changed. -/
def State.modWorker (s : State) (w : Fin 32) (f : Worker → Worker) : State := { s with workers := upd s.workers w f }
/-- One port group changed. -/
def State.modGroup (s : State) (g : Fin 16) (f : Group → Group) : State := { s with groups := upd s.groups g f }
/-- One test port changed. -/
def State.modPort (s : State) (n : Fin 128) (f : PortSt → PortSt) : State := { s with ports := upd s.ports n f }
/-- The link and fence state of one die changed. -/
def State.modDie (s : State) (d : Fin 4) (f : DieLink → DieLink) : State :=
  { s with net := { s.net with dies := upd s.net.dies d f } }
/-- The fabric of one die changed. -/
def State.modFab (s : State) (d : Fin 4) (f : DieFab → DieFab) : State := { s with fab := upd s.fab d f }
/-- One HBM stack changed. -/
def State.modStack (s : State) (n : Fin 4) (f : Stack → Stack) : State :=
  { s with mem := { s.mem with hbm := upd s.mem.hbm n f } }
/-- One Laravo link changed. -/
def State.modLink (s : State) (l : Fin 16) (f : Laravo → Laravo) : State :=
  { s with swarm := { s.swarm with links := upd s.swarm.links l f } }
/-- One power domain changed. -/
def State.modDomain (s : State) (n : Fin 64) (f : Domain → Domain) : State :=
  { s with pwr := { s.pwr with domains := upd s.pwr.domains n f } }
/-- One site changed. -/
def State.modSite (s : State) (n : Fin 32) (f : Site → Site) : State :=
  { s with brood := { s.brood with sites := upd s.brood.sites n f } }
/-- One staging slot changed. -/
def State.modSlot (s : State) (n : Fin 4) (f : Slot → Slot) : State :=
  { s with cfg := { s.cfg with slots := upd s.cfg.slots n f } }
/-- One time base changed. -/
def State.modTb (s : State) (b : Fin 8) (f : TimeBase → TimeBase) : State := { s with tb := upd s.tb b f }
/-- One BIST unit changed. -/
def State.modBist (s : State) (u : Fin 64) (f : BistUnit → BistUnit) : State :=
  { s with bist := { s.bist with units := upd s.bist.units u f } }
/-- One event source changed. -/
def State.modEv (s : State) (e : Fin 256) (f : EvState → EvState) : State :=
  { s with ev := { s.ev with src := upd s.ev.src e f } }

/-- The same change of every element of a list of units, in order. -/
def forAll {ι : Type} (l : List ι) (f : ι → State → State) (s : State) : State := l.foldl (fun s i => f i s) s

/-- Something put out (log entry 3). -/
def State.emit (s : State) (o : Output) : State := { s with out := o :: s.out }

/-! Columns of a Laravo link (11, R312). -/

/-- K28.5, which fills a column. -/
def symFill : Sym := .ctrl 0xBC

/-- Symbols laid out in columns of four lanes, symbol i on lane i mod 4, the last column filled up with K28.5 (11, R312). -/
def symColumns (l : List Sym) : List (List Sym) :=
  (List.range (ceilDiv l.length 4)).map fun i => (((l.drop (4 * i)).take 4) ++ List.replicate 3 symFill).take 4

/-- The columns in which a link sends what it puts out: a packet between K27.7 and K29.7, a buzz behind K28.3 (11, R312, R329). -/
def linkColumns : Output → List (List Sym)
  | .laravo _ _ bs => symColumns (.ctrl 0xFB :: (bs.map .data ++ [.ctrl 0xFD]))
  | .buzz _ mask origin seq => [[.ctrl 0x7C, .data mask, .data origin, .data seq]]
  | _ => []

/-- A packet or a buzz put out on a link: its columns wait for the lanes (11, R312). -/
def State.emitLink (s : State) (l : Fin 16) (o : Output) : State :=
  (s.modLink l fun k => { k with wire := k.wire ++ linkColumns o }).emit o

/-- The next free value of 32 bits, and the state that has drawn it (log entry 5). -/
def State.drawFree (s : State) : Word × State := (Config.freeWord s.free, { s with free := s.free + 1 })

/-! Numbers of units (00, R7). -/

/-- All numbers below `n`. -/
abbrev allFin (n : Nat) : List (Fin n) := List.finRange n

/-- The die of a Worker. -/
def workerDie (w : Fin 32) : Fin 4 := ⟨w.val / 8, by omega⟩
/-- The group that a Worker drives: k from 0 to 3. -/
def workerGroup (w : Fin 32) : Option (Fin 16) :=
  if h : w.val % 8 < 4 then some ⟨w.val / 8 * 4 + w.val % 8, by omega⟩ else none
/-- The die of a group. -/
def groupDie (g : Fin 16) : Fin 4 := ⟨g.val / 4, by omega⟩
/-- The Worker that drives a group. -/
def groupWorker (g : Fin 16) : Fin 32 := ⟨g.val / 4 * 8 + g.val % 4, by omega⟩
/-- The die of a port. -/
def portDie (n : Fin 128) : Fin 4 := ⟨n.val / 32, by omega⟩
/-- The group of a port. -/
def portGroup (n : Fin 128) : Fin 16 := ⟨n.val / 8, by omega⟩
/-- The pin of a port within its group. -/
def portPin (n : Fin 128) : Fin 8 := ⟨n.val % 8, by omega⟩
/-- The port of a group's pin. -/
def groupPort (g : Fin 16) (p : Fin 8) : Fin 128 := ⟨g.val * 8 + p.val, by omega⟩
/-- The domain of die `d` at an offset. -/
def dieDomain (d : Fin 4) (o : Fin 12) : Fin 64 := ⟨16 + 12 * d.val + o.val, by omega⟩
/-- The domain of a group's ports: offset +9 for groups 0 and 1 of the die, +10 for 2 and 3 (14, R390). -/
def groupDomain (g : Fin 16) : Fin 64 := dieDomain (groupDie g) (if g.val % 4 < 2 then 9 else 10)
/-- The number of a die event (00, R7). -/
def dieEvent (d : Fin 4) (o : Fin 48) : Fin 256 := ⟨64 + 48 * d.val + o.val, by omega⟩
/-- The Workers of a die. -/
def dieWorkers (d : Fin 4) : List (Fin 32) := (allFin 32).filter fun w => workerDie w = d
/-- The groups of a die. -/
def dieGroups (d : Fin 4) : List (Fin 16) := (allFin 16).filter fun g => groupDie g = d
/-- The ports of a die. -/
def diePorts (d : Fin 4) : List (Fin 128) := (allFin 128).filter fun n => portDie n = d
/-- The eight ports of a group. -/
def groupPorts (g : Fin 16) : List (Fin 128) := (allFin 8).map (groupPort g)

/-! Time (11, R330 to R335). -/

/-- Units of 2⁻³² ns in a second. -/
def secondUnits : Nat := 1000000000 * 4294967296

/-- The count of a time base in units of 2⁻³² ns. -/
def TimeBase.value (b : TimeBase) : Nat := (b.sec.toNat * 1000000000 + b.ns.toNat) * 4294967296 + b.frac.toNat

/-- A time base holding a count; seconds wrap at 48 bits. -/
def TimeBase.withValue (b : TimeBase) (v : Nat) : TimeBase :=
  { b with
    sec := BitVec.ofNat 48 (v / secondUnits)
    ns := BitVec.ofNat 30 (v / 4294967296 % 1000000000)
    frac := BitVec.ofNat 32 v }

/-- The count of a time base moved by a signed amount; it does not fall below zero. -/
def TimeBase.advance (b : TimeBase) (k : Int) : TimeBase := b.withValue ((b.value : Int) + k).toNat

/-- `TB0`. -/
def State.tb0 (s : State) : TimeBase := s.tb[0]

/-- The time stamp of an event in a cycle: `TB0`'s value, and 2⁻⁴ ns for each root tick of its phase (R331). -/
def State.stampAt (s : State) (phase : Fin 16) : Nat := s.tb0.value + phase.val * 0x10000000

/-- Nanoseconds of a count, as a stamp gives them. -/
def stampNsOf (v : Nat) : BitVec 32 := BitVec.ofNat 32 (v / 4294967296 % 1000000000)
/-- Seconds of a count, bits [31:0]. -/
def stampSOf (v : Nat) : BitVec 32 := BitVec.ofNat 32 (v / secondUnits)

/-- The stamp of an occurrence to the root tick (R331; 18, R459): its phase in the cycle is a free value (log entry 70). It is 0
while `TB0` is UNSET. -/
def State.occurred (s : State) (source count : Nat) : Nat :=
  if s.tb0.set then s.stampAt (Config.phase s.ev.cycle source count) else 0

/-- Nanoseconds of `TB0` for a stamp: 0 while it is UNSET. -/
def State.stampNs (s : State) : BitVec 32 := if s.tb0.set then s.tb0.ns.setWidth 32 else 0
/-- Seconds of `TB0` for a stamp, bits [31:0]: 0 while it is UNSET. -/
def State.stampS (s : State) : BitVec 32 := if s.tb0.set then s.tb0.sec.setWidth 32 else 0

/-! Events (18) and message-signalled vectors (02, R32). -/

/-- A vector signalled: a message goes out unless the vector's holdoff gap runs; then it waits, shown in the pending bits. -/
def State.signal (s : State) (v : BitVec 6) : State :=
  if s.hif.msixGap.getLsbD v.toNat then
    { s with hif := { s.hif with msixPba := s.hif.msixPba ||| (1#64 <<< v.toNat) } }
  else
    ({ s with hif := { s.hif with
        msixGap := if s.hif.irqHoldoff = 0 then s.hif.msixGap else s.hif.msixGap ||| (1#64 <<< v.toNat) } }).emit
      (.msix ⟨v.toNat, v.isLt⟩)

/-- A record of a source not yet pending enters last, but before those of its hive cycle with a higher event number (18,
R459). -/
def latchNew (l : List EvRec) (r : EvRec) : List EvRec :=
  match l with
  | [] => [r]
  | q :: l => if q.cycle = r.cycle ∧ r.event < q.event then r :: q :: l else q :: latchNew l r

/-- A record counted into the latch (02, R32): a source already pending is counted in its record. -/
def latchRec (l : List EvRec) (r : EvRec) : List EvRec :=
  if l.any (·.event = r.event) then l.map fun q => if q.event = r.event then { q with count := satAdd q.count 1 } else q
  else latchNew l r

/-- What follows happens in a later hive cycle than what was before (18, R459). -/
def State.nextCycle (s : State) : State := { s with ev := { s.ev with cycle := s.ev.cycle + 1 } }

/-- An event occurs (18, R459, R460): its active bit is set and it is counted; unmasked, it enters the pending latch, stamped to
the root tick (11, R331). -/
def State.raise (s : State) (e : Fin 256) (sev unit : Nat) (detail : Nat) : State :=
  let st := s.ev.src[e.val]
  let src := upd s.ev.src e fun x => { x with active := true, count := satAdd x.count 1 }
  if st.mask then { s with ev := { s.ev with src := src } }
  else
    let v := s.occurred e.val st.count.toNat
    let r : EvRec :=
      { event := e, sev := BitVec.ofNat 3 sev, unit := BitVec.ofNat 12 unit, valid := s.tb0.set
        ns := (stampNsOf v).setWidth 30, sec := stampSOf v, detail := BitVec.ofNat 128 detail, count := 1
        cycle := s.ev.cycle }
    { s with ev := { s.ev with src := src, latch := latchRec s.ev.latch r } }

/-- A die event occurs. -/
def State.raiseDie (s : State) (d : Fin 4) (o : Fin 48) (sev unit detail : Nat) : State :=
  s.raise (dieEvent d o) sev unit detail

/-- `IRQ_N` is asserted: an unmasked event whose route enables it is active (18, R461). -/
def State.irqN (s : State) : Bool := s.ev.src.toList.any fun x => x.active && !x.mask && x.irq

/-- Detail bytes of an event: each entry is an offset, a size in bytes and a value. -/
def detail (l : List (Nat × Nat × Nat)) : Nat :=
  l.foldl (fun a e => a + (e.2.2 % 2 ^ (8 * e.2.1)) * 2 ^ (8 * e.1)) 0

/-! Device memories (02, R23; 09). -/

/-- The byte listed at an address. -/
def cellGet : List Host.Cell → Nat → Option Byte
  | [], _ => none
  | (a, b) :: l, k => if a = k then some b else if k < a then none else cellGet l k

/-- A byte listed. -/
def cellPut : List Host.Cell → Nat → Byte → List Host.Cell
  | [], k, v => [(k, v)]
  | (a, b) :: l, k, v =>
    if k < a then (k, v) :: (a, b) :: l else if k = a then (k, v) :: l else (a, b) :: cellPut l k v

/-- A byte no longer listed. -/
def cellDel : List Host.Cell → Nat → List Host.Cell
  | [], _ => []
  | (a, b) :: l, k => if k < a then (a, b) :: l else if k = a then l else (a, b) :: cellDel l k

/-- The tag of the free value that an unlisted byte reads as, none where it reads as zero. -/
def undefTag (l : List Undef) (a : Nat) : Option Nat :=
  match l with
  | [] => none
  | u :: l => if u.base ≤ a ∧ a < u.base + u.size then u.tag else undefTag l a

/-- The byte of device memory at an address (log entry 14). -/
def Mem.byte (m : Mem) (a : Nat) : Byte :=
  match cellGet m.cells a with
  | some b => b
  | none => match undefTag m.undef a with
    | none => 0
    | some t => Config.freeByte t a

/-- One byte written, keeping the canonical form. -/
def Mem.put (m : Mem) (a : Nat) (b : Byte) : Mem :=
  { m with cells := if b = 0 ∧ undefTag m.undef a = none then cellDel m.cells a else cellPut m.cells a b }

/-- Bytes read from an address upwards. -/
def Mem.read (m : Mem) (a : Nat) : Nat → Bytes
  | 0 => []
  | k + 1 => m.byte a :: m.read (a + 1) k

/-- Bytes written from an address upwards. -/
def Mem.write (m : Mem) (a : Nat) : Bytes → Mem
  | [] => m
  | b :: bs => (m.put a b).write (a + 1) bs

/-- The word at an address. -/
def Mem.word (m : Mem) (a : Nat) : Word := BitVec.ofNat 32 (bytesNum (m.read a 4))

/-- A word written. -/
def Mem.putWord (m : Mem) (a : Nat) (w : Word) : Mem := m.write a (numBytes 4 w.toNat)

/-- A range loses its contents: its bytes read the free value of a tag, or zero without one. -/
def Mem.lose (m : Mem) (base size : Nat) (tag : Option Nat) : Mem :=
  { m with
    cells := m.cells.filter fun c => ! decide (base ≤ c.1 ∧ c.1 < base + size)
    undef := { base := base, size := size, tag := tag } ::
      m.undef.filter fun u => ! decide (base ≤ u.base ∧ u.base + u.size ≤ base + size) }

/-- The form in which memory is held: addresses strictly rising, and no zero byte listed where an unlisted byte is zero. -/
def cellsWf (u : List Undef) : List Host.Cell → Bool
  | [] => true
  | [(a, b)] => b != 0 || (undefTag u a).isSome
  | (a, b) :: (a', b') :: l => decide (a < a') && (b != 0 || (undefTag u a).isSome) && cellsWf u ((a', b') :: l)

/-- The canonical form of the device memories. -/
def Mem.wf (m : Mem) : Bool := cellsWf m.undef m.cells

/-- The state with its device memory changed. -/
def State.modMem (s : State) (f : Mem → Mem) : State := { s with mem := f s.mem }

/-- A range becomes undefined anew (log entry 5). -/
def State.undefine (s : State) (base size : Nat) : State :=
  { s with mem := s.mem.lose base size (some s.free), free := s.free + 1 }

/-- Device address of slice `q` of hive SRAM (02, R23). -/
def sramBase (q : Nat) : Nat := 0x100000000000 + q * 0x2000000
/-- Device address of a die's window (02, R23). -/
def dieBase (d : Fin 4) : Nat := 0x200000000000 + d.val * 0x10000000000
/-- Device address of a Worker's program memory (02, R23). -/
def progBase (w : Fin 32) : Nat := dieBase (workerDie w) + (w.val % 8) * 0x100000
/-- Device address of a Worker's X memory. -/
def xBase (w : Fin 32) : Nat := progBase w + 0x40000
/-- Device address of a Worker's Y memory. -/
def yBase (w : Fin 32) : Nat := progBase w + 0x50000
/-- Device address of a die's cell RAM. -/
def cellRamBase (d : Fin 4) : Nat := dieBase d + 0x1000000
/-- Bytes of usable HBM: 92 GiB (02, R22). -/
def hbmBytes : Nat := 0x1700000000

/-! Power domains (14). -/

/-- Is a domain ON with its supply? (R405) -/
def State.pdOn (s : State) (n : Fin 64) : Bool := s.pwr.domains[n.val].st = .on && !s.pwr.domains[n.val].lost
/-- Is die offset `o` on? -/
def State.dieOn (s : State) (d : Fin 4) (o : Fin 12) : Bool := s.pdOn (dieDomain d o)

/-! Clocks (13, R372). -/

/-- Does the root PLL run, and with it every root divider (13, R372, R373)? -/
def Clock.runs (c : Clock) : Bool := c.pll = .locked || c.pll = .coasting || c.pll = .ramping

/-- The Queen core has its supply, `PD01` (01, R19; 14, R390), and its clock: its divider, or the bypass while the reference is
present (13, R372, R376). -/
def State.queenClocked (s : State) : Bool := s.pdOn 1 && (s.clk.mux.getLsbD 5 || !s.clk.coast || s.clk.refOk)

/-- The clock of the hive network, the hive SRAM, the Brood engine and the fail pipeline: their divider, or the bypass, which a lost
reference stops (13, R372, R376). -/
def State.hiveClocked (s : State) : Bool := if s.clk.mux.getLsbD 4 then s.clk.runs else !s.clk.coast || s.clk.refOk

/-! Inventory marks (17, R453, R454; 19, R477). -/

/-- Is a test unit marked whole? -/
def State.unitMarked (s : State) (u : Fin 64) : Bool := s.bist.units[u.val].marked || s.bist.units[u.val].committed
/-- Is an element marked by a unit? -/
def State.elemMarked (s : State) (u : Fin 64) (e : Elem) : Bool :=
  s.bist.units[u.val].elems.contains e || s.bist.units[u.val].elemsC.contains e
/-- The test unit of die `d` at offset `o` (17, R445). -/
def dieUnit (d : Fin 4) (o : Fin 9) : Fin 64 := ⟨16 + 9 * d.val + o.val, by omega⟩
/-- Is a Worker marked unusable? -/
def State.workerMarked (s : State) (w : Fin 32) : Bool :=
  s.unitMarked (dieUnit (workerDie w) 6) || s.elemMarked (dieUnit (workerDie w) 6) (.worker w.val)
/-- Is a port group marked unusable? -/
def State.groupMarked (s : State) (g : Fin 16) : Bool := s.unitMarked (dieUnit (groupDie g) 7)
/-- Is a test port marked unusable? -/
def State.portMarked (s : State) (n : Fin 128) : Bool :=
  s.unitMarked (dieUnit (portDie n) 7) || s.elemMarked (dieUnit (portDie n) 7) (.port n.val)
/-- Is an HBM stack marked unusable? -/
def State.stackMarked (s : State) (n : Fin 4) : Bool := s.unitMarked ⟨7 + n.val, by omega⟩
/-- Is a Laravo link marked unusable? -/
def State.linkMarked (s : State) (l : Fin 16) : Bool :=
  let u : Fin 64 := if l.val < 8 then 11 else 12
  s.unitMarked u || s.elemMarked u (.link l.val)
/-- Is a die marked unusable: the unit of its Ndenu link (log entry 19)? -/
def State.dieMarked (s : State) (d : Fin 4) : Bool := s.unitMarked (dieUnit d 8)
/-- The test unit a power domain belongs to, if any (14, R390; 17, R445; log entry 19). -/
def domainUnit (n : Fin 64) : Option (Fin 64) :=
  if n.val < 16 then
    match n.val with
    | 4 => some 11 | 5 => some 12
    | 6 => some 7 | 7 => some 8 | 8 => some 9 | 9 => some 10
    | 10 => some 0 | 11 => some 1 | 12 => some 2 | 13 => some 3
    | 14 => some 4 | 15 => some 5 | _ => none
  else
    let d := (n.val - 16) / 12
    let o := (n.val - 16) % 12
    let u := if o = 0 then 99 else if o = 1 then 8 else if o < 8 then o - 2 else if o = 8 then 6 else 7
    if h : 16 + 9 * d + u < 64 then some ⟨16 + 9 * d + u, h⟩ else none
/-- Is a domain's unit marked unusable? -/
def State.domainMarked (s : State) (n : Fin 64) : Bool :=
  match domainUnit n with
  | none => false
  | some u => s.unitMarked u

/-- The record of a unit whose run gave no signature and no entries: verdict, cause, and the mode of the run (17, R451, R452). -/
def BistUnit.ended (x : BistUnit) (verdict cause : BitVec 4) (diag : Bool) : BistUnit :=
  { x with verdict := verdict, cause := cause, entries := [], more := false, misr := 0, expected := 0, timeUs := 0, diag := diag }

/-- Is a test unit under test (17, R446)? -/
def State.underTest (s : State) (u : Fin 64) : Bool :=
  match s.bist.run with
  | none => false
  | some r => r.running.contains u

/-! Running functions (12, R345) and the mode. -/

/-- Is a Worker RUNNING or HALTED? -/
def Worker.active (w : Worker) : Bool := w.st = .running || w.st = .halted
/-- Is a Worker RUNNING or HALTED: not on a fenced die, whose Workers run nothing and are in state 7 (10, R304; 19, R486)? -/
def State.workerActive (s : State) (w : Fin 32) : Bool :=
  s.workers[w.val].active && !s.net.dies[(workerDie w).val].fenced
/-- Is a group armed, playing, in underrun or halted: not on a fenced die, whose groups are stopped (10, R304)? -/
def State.groupInRun (s : State) (g : Fin 16) : Bool :=
  let x := s.groups[g.val]
  (x.st = .armed || x.st = .playing || x.st = .underrun || x.st = .halted) && !s.net.dies[(groupDie g).val].fenced
/-- Is a port group armed, playing or in underrun? -/
def Group.active (g : Group) : Bool := g.st = .armed || g.st = .playing || g.st = .underrun
/-- Does a port's lane or PRBS function run? -/
def PortSt.active (p : PortSt) : Bool := p.started || p.prbs.on
/-- Does a test function live on die `d`? A fenced die runs nothing, whatever its units had been doing (10, R304). -/
def State.dieFunctions (s : State) (d : Fin 4) : Bool :=
  !s.net.dies[d.val].fenced &&
    ((dieWorkers d).any (fun w => s.workers[w.val].active) || (dieGroups d).any (fun g => s.groups[g.val].active) ||
      (diePorts d).any (fun n => s.ports[n.val].active))
/-- The number of test functions that run (R345), those of fenced dies left out (10, R304). -/
def State.functions (s : State) : Nat :=
  let on (d : Fin 4) : Bool := !s.net.dies[d.val].fenced
  ((allFin 32).filter fun w => on (workerDie w) && s.workers[w.val].active).length +
    ((allFin 16).filter fun g => on (groupDie g) && s.groups[g.val].active).length +
    ((allFin 128).filter fun n => on (portDie n) && s.ports[n.val].started).length +
    ((allFin 128).filter fun n => on (portDie n) && s.ports[n.val].prbs.on).length
/-- Is a region or the static part of die `d` RUNNING? -/
def State.dieRegionRuns (s : State) (d : Fin 4) : Bool :=
  s.fab[d.val].static_ = .running || s.fab[d.val].regions.toList.any fun r => r.valid && r.st = .running

/-- The code of a mode (02, `HIF_STATUS.MODE`). -/
def Mode.code : Mode → Nat
  | .boot => 0 | .safe => 1 | .ready => 2 | .run => 3 | .maintain => 4 | .hibernate => 5

end Sys2Proof.Machine
end

