-- ==== Sys2Proof/Machine/PortOps.lean ====
section
/-! DEFINITION. The test ports as other units see them (spec/05_test_ports.md): the safe state, the levels at the output
pairs, the lane state and its event, and the change of mode, which every port follows. -/

namespace Sys2Proof.Machine

/-- Does a mode hold the ports in their safe state (R132)? -/
def Mode.holdsPorts (m : Mode) : Bool := m != .ready && m != .run

/-- Is a die in service for tests: not fenced nor still to rejoin, its clock running, and holding a full configuration (01, R18;
R132)? -/
def State.dieServes (s : State) (d : Fin 4) : Bool :=
  let x := s.net.dies[d.val]
  !x.fenced && !x.rejoining && x.clockOn && !x.cutOff && s.fab[d.val].cfgSt = .configured

/-- Is a port in its safe state (R132)? -/
def State.portSafe (s : State) (n : Fin 128) : Bool :=
  s.rsc.mode.holdsPorts || !s.dieServes (portDie n) || s.groups[(portGroup n).val].loopback

/-- Is the domain of a port on (R133)? -/
def State.portOn (s : State) (n : Fin 128) : Bool := s.dieOn (portDie n) 0 && s.pdOn (groupDomain (portGroup n))

/-- Does a port work at its balls: powered and outside its safe state? -/
def State.portLive (s : State) (n : Fin 128) : Bool := s.portOn n && !s.portSafe n

/-- A level inverted where a polarity bit says so (R130). -/
def Level.inverted (l : Level) (inv : Bool) : Level :=
  match l with
  | .low => if inv then .high else .low
  | .high => if inv then .low else .high
  | l => l

/-- The level of a logical value. -/
def levelOf (b : Bool) : Level := if b then .high else .low

/-- An output pair takes a logical level; a change shows at the balls, after polarity. -/
def State.drive (s : State) (n : Fin 128) (txe : Bool) (l : Level) : State :=
  let p := s.ports[n.val]
  if (if txe then p.txe else p.tx) = l then s
  else
    (s.modPort n fun p => if txe then { p with txe := l } else { p with tx := l }).emit
      (.pin n txe (l.inverted (p.inv.getLsbD (if txe then 1 else 0))))

/-- A level that a port's function gives an output pair: it shows at once, or, while `PORT_DETECT` holds the pair, it is what the
pair goes back to after the last test (R134, R156). -/
def State.driveOut (s : State) (n : Fin 128) (txe : Bool) (l : Level) : State :=
  match s.ports[n.val].test with
  | none => s.drive n txe l
  | some x => s.modPort n fun p => { p with test := some (if txe then { x with txe := l } else { x with tx := l }) }

/-- A change of a port's output polarity from `old` shows at the balls (R130). -/
def State.showPolarity (s : State) (n : Fin 128) (old : BitVec 4) : State :=
  let p := s.ports[n.val]
  let show_ (s : State) (txe : Bool) (i : Nat) (l : Level) : State :=
    if l.inverted (old.getLsbD i) = l.inverted (p.inv.getLsbD i) then s else s.emit (.pin n txe (l.inverted (p.inv.getLsbD i)))
  show_ (show_ s false 0 p.tx) true 1 p.txe

/-- A port at its reset values (R135): its levels and lane state follow its circumstances. -/
def State.resetPort (s : State) (n : Fin 128) : State :=
  let old := s.ports[n.val].inv
  (s.modPort n fun p => { PortSt.reset with tx := p.tx, txe := p.txe, link := p.link }).showPolarity n old

/-- The code of a lane state (R148). -/
def Link.code : Link → Nat
  | .safe => 0 | .waveform => 1 | .stopped => 2 | .noSignal => 3 | .cdrLock => 4 | .aligned => 5

/-- A port's lane state changes; on a protocol port the change raises the group's event (R148). -/
def State.setLink (s : State) (n : Fin 128) (l : Link) : State :=
  let p := s.ports[n.val]
  if p.link = l then s
  else
    let g := portGroup n
    let s' := s.modPort n fun p => { p with link := l }
    if s.groups[g.val].mode = .waveform then s'
    else s'.raiseDie (portDie n) ⟨28 + g.val % 4, by omega⟩ 1 n.val (detail [(1, 1, p.link.code), (2, 1, l.code)])

/-- Does a port's receiver run: a started lane or a PRBS function? -/
def PortSt.runs (p : PortSt) : Bool := p.started || p.prbs.on

/-- The lane state that a port's circumstances give (R148): a lane that runs keeps what its receiver has found. DESIGN CHOICE:
R148 does not give the `LINK` of a port whose domain is off; it reads SAFE (log entry 68). -/
def State.linkFor (s : State) (n : Fin 128) : Link :=
  let p := s.ports[n.val]
  if !s.portLive n then .safe
  else if s.groups[(portGroup n).val].mode = .waveform then .waveform
  else if !p.runs then .stopped
  else if p.link = .cdrLock || p.link = .aligned then p.link
  else .noSignal

/-- Does a probe channel send its samples out of a port (07, R220)? -/
def State.probeDrives (s : State) (n : Fin 128) : Bool :=
  s.fab[(portDie n).val].probes.toList.any fun x => x.en && x.dest && x.port.toNat = n.val % 32

/-- What a protocol port drives on TX outside its safe state (R134, R140, R152; 07, R220). -/
def State.txLevel (s : State) (n : Fin 128) : Level :=
  let p := s.ports[n.val]
  if p.started || (p.prbs.on && p.prbs.gen) || s.probeDrives n then .serial else .idle

/-- A port follows its circumstances (R131 to R134): high-impedance without power and while `PORT_DETECT` tests it (R156); the
safe levels in the safe state, which ends a test; on leaving either, its start levels, or electrical idle until its lane
runs. -/
def State.refreshPort (s : State) (n : Fin 128) : State :=
  let s := if s.portOn n && s.portSafe n then s.modPort n fun p => { p with test := none } else s
  let p := s.ports[n.val]
  let wave := s.groups[(portGroup n).val].mode = .waveform
  let s := if !s.portOn n || p.test.isSome then (s.drive n false .hiz).drive n true .hiz
    else if s.portSafe n then (s.drive n false (if wave then .low else .idle)).drive n true .low
    else if p.link = .safe then
      if wave then (s.drive n false (levelOf p.startTx)).drive n true (levelOf p.startTxe)
      else (s.drive n false (s.txLevel n)).drive n true .low
    else if wave && p.link != .waveform then (s.drive n false (levelOf p.startTx)).drive n true (levelOf p.startTxe)
    else if wave then s
    else if p.link = .waveform then (s.drive n false (s.txLevel n)).drive n true .low
    else s.drive n false (s.txLevel n)
  s.setLink n (s.linkFor n)

/-- `PORT_DETECT` takes hold of a port (R156): its outputs are high-impedance, to go back after the last test to what they were
before the first; a polarity test seeds a checker. -/
def State.beginTest (s : State) (n : Fin 128) (chk : Option Prbs) : State :=
  (s.modPort n fun p =>
    let x := p.test.getD { tx := p.tx, txe := p.txe, chk := none }
    { p with test := some { x with chk := chk } }).refreshPort n

/-- The test of a port is over: its outputs go back to what they were, and follow its circumstances. -/
def State.endTest (s : State) (n : Fin 128) : State :=
  match s.ports[n.val].test with
  | none => s
  | some x =>
    let s := s.modPort n fun p => { p with test := none }
    (if s.portLive n then (s.drive n false x.tx).drive n true x.txe else s).refreshPort n

/-- All ports follow their circumstances. -/
def State.refreshPorts (s : State) : State := forAll (allFin 128) (fun n s => s.refreshPort n) s

/-- The ports of a die follow their circumstances. -/
def State.refreshDie (s : State) (d : Fin 4) : State := forAll (diePorts d) (fun n s => s.refreshPort n) s

/-- The JTAG instructions that act on pins: `EXTEST`, `EXTEST_PULSE`, `EXTEST_TRAIN`, `CLAMP`, `HIGHZ` (16, R426). -/
def scansPins (ir : BitVec 8) : Bool := 3 ≤ ir.toNat && ir.toNat ≤ 7

/-- Do they act in a mode (16, R427)? -/
def Mode.scansPins (m : Mode) : Bool := m = .boot || m = .safe || m = .maintain

/-- Pins that boundary scan held return to the state of the mode in force where the mode entered takes such an instruction as
`BYPASS` (16, R427). -/
def State.endScan (s : State) (old m : Mode) : State :=
  if scansPins s.dbg.ir && old.scansPins && !m.scansPins then s.emit .scanRelease else s

/-- The device enters another mode (12, R350, MODE_GET; 18, `E044`): the time is kept and `E044` raised; `ERROR_N` is
released on leaving SAFE; the ports follow. `err`: this entry asserts `ERROR_N`. -/
def State.enterMode (s : State) (m : Mode) (err : Bool) : State :=
  if s.rsc.mode = m then s
  else
    let old := s.rsc.mode
    let s := { s with rsc := { s.rsc with
      mode := m, enteredNs := s.stampNs, enteredS := s.stampS
      errorN := if m = Mode.safe then err else false } }
    (s.raise 44 (if err then 3 else 1) 0
      (detail [(0, 1, old.code), (1, 1, m.code), (2, 2, s.rsc.cause.toNat)])).refreshPorts.endScan old m

/-- A test function has started: READY becomes RUN (12, R347). -/
def State.startedFunction (s : State) : State := if s.rsc.mode = .ready then s.enterMode .run false else s

end Sys2Proof.Machine
end

