-- ==== Sys2Proof/Machine/FabricOps.lean ====
section
/-! DEFINITION. The word-cell fabric (spec/07_fabric.md) and its hoop cells and regions (spec/08_configuration.md, R223 to
R232): configuration words, registers, the value a word crossing a border delivers, the result of a cell, and one cycle
of a die. -/

namespace Sys2Proof.Machine

/-! Configuration words and registers. A register's key is `(x × 32 + y) × 512 + k`: in a tile, k is 0 to 63 for the cell
outputs, 64 + 4n + i for local register i of cell n, 320 + n for its carry, and 384 + 4 × dir + w for the outbound mesh
registers; in a RAM position, 2b + p for the read registers and 384 + 4 × dir + w. -/

/-- A configuration word of a frame (R223, R224). -/
def DieFab.cfgWord (f : DieFab) (col minor word : Nat) : Nat :=
  (sparseGet f.cfg ((col * 256 + minor) * 1024 + word)).toNat

/-- The key of a register. -/
def regKey (x y k : Nat) : Nat := (x * 32 + y) * 512 + k

/-- A register of the fabric. -/
def DieFab.reg (f : DieFab) (x y k : Nat) : Nat := (sparseGet f.regs (regKey x y k)).toNat

/-- The mesh position of a tile column (R192). -/
def tileX (t : Nat) : Nat := t + (t + 3) / 6
/-- Is a mesh position a cell RAM column's (R192)? -/
def isRamX (x : Nat) : Bool := x % 7 = 3
/-- The tile column of a mesh position that is no cell RAM column's. -/
def xTile (x : Nat) : Nat := x - (x + 3) / 7
/-- The tile column whose region and sector a mesh position shares (R190). -/
def xCol (x : Nat) : Nat := if isRamX x then 6 * (x / 7) + 2 else xTile x
/-- The fabric sector of a tile column (R191). -/
def colSector (t : Nat) : Fin 12 := ⟨2 + t / 8 % 6, by omega⟩

/-! Regions (R228, R229). -/

/-- Does a region hold a tile column? -/
def Region.holds (r : Region) (t : Nat) : Bool := r.valid && r.start.toNat ≤ t && t < r.start.toNat + r.width.toNat

/-- The innermost region that holds a tile column: of the regions that hold it, the narrowest. -/
def DieFab.regionOf (f : DieFab) (t : Nat) : Option (Fin 16) :=
  (allFin 16).foldl (fun best i =>
    if f.regions[i.val].holds t then
      match best with
      | none => some i
      | some b => if f.regions[i.val].width < f.regions[b.val].width then some i else best
    else best) none

/-- The state of the region or static part that holds a tile column. -/
def DieFab.stateOf (f : DieFab) (t : Nat) : RegSt :=
  match f.regionOf t with
  | some i => f.regions[i.val].st
  | none => f.static_

/-- The state under an index of `CFG_REGION_START`: 16 is the static part. -/
def DieFab.stateAt (f : DieFab) (i : Nat) : RegSt := if h : i < 16 then f.regions[i].st else f.static_

/-- Does region `i` lie inside region `j`, or equal it (index 16: only itself)? -/
def DieFab.inside (f : DieFab) (i j : Nat) : Bool :=
  if i = j then true
  else match at? f.regions i, at? f.regions j with
    | some a, some b => a.valid && b.valid && b.start ≤ a.start && a.start.toNat + a.width.toNat ≤ b.start.toNat + b.width.toNat
    | _, _ => false

/-- The tile columns that a region or the static part holds as its own or inside it. -/
def DieFab.columnsOf (f : DieFab) (i : Nat) : List Nat :=
  (List.range 48).filter fun t => if h : i < 16 then f.regions[i].holds t else (f.regionOf t).isNone

/-- A region or the static part enters a state. -/
def DieFab.setState (f : DieFab) (i : Nat) (st : RegSt) : DieFab :=
  if h : i < 16 then { f with regions := upd f.regions ⟨i, h⟩ fun r => { r with st := st } } else { f with static_ := st }

/-! Set-reset (R215). -/

/-- The tile column of a register's key. -/
def keyCol (k : Nat) : Nat := xCol (k / 512 / 32)

/-- The values that set-reset gives the registers of tile columns that a test selects, from the initial values of their
cells (R215, R225). -/
def DieFab.initRegs (f : DieFab) (own : Nat → Bool) : List (Nat × Nat) :=
  f.cfg.flatMap fun e =>
    let word := e.1 % 1024
    let minor := e.1 / 1024 % 256
    let col := e.1 / 1024 / 256
    let y := word / 10
    let v := e.2.toNat
    if col < 48 ∧ minor < 64 ∧ own col then
      let key (k : Nat) := regKey (tileX col) y k
      if word % 10 = 8 then
        [(key minor, v % 65536), (key (64 + 4 * minor), v % 65536), (key (64 + 4 * minor + 1), v / 65536)]
      else if word % 10 = 9 then [(key (64 + 4 * minor + 2), v % 65536), (key (64 + 4 * minor + 3), v / 65536)]
      else []
    else []

/-- Set-reset over the tile columns that a test selects. -/
def DieFab.setReset (f : DieFab) (own : Nat → Bool) : DieFab :=
  let kept := f.regs.filter fun e => !own (keyCol e.1)
  { f with regs := (f.initRegs own).foldl (fun l e => sparseSet l e.1 (BitVec.ofNat 32 e.2)) kept }

/-- The registers of tile columns that a test selects are lost. -/
def DieFab.dropRegs (f : DieFab) (own : Nat → Bool) : DieFab := { f with regs := f.regs.filter fun e => !own (keyCol e.1) }

/-! Hoop cells (R231). Their keys: `4t + w` for the south outbound word w of the edge tile in column t; 256 + i for inbound
crossing channel i; 512 + (32k + y) × 8 + i for word i of the boundary on the west face of tile column 4k. -/

/-- A closed hoop word: its constant, or the last value it delivered, with the masked bits 0. -/
def DieFab.closed (f : DieFab) (key : Nat) (mode : Bool) (cm : Nat) : Nat :=
  (if mode then cm % 65536 else (sparseGet f.hoop key).toNat) &&& (65535 - cm / 65536)

/-- A hoop word of the south edge. -/
def DieFab.hoopEdge (f : DieFab) (t w : Nat) (isClosed : Bool) (raw : Nat) : Nat :=
  if !isClosed then raw
  else
    let i := 4 * (t % 12) + w
    f.closed (4 * t + w) (bitOf (f.cfgWord (56 + t / 12) 0 (48 + i / 32)) (i % 32)) (f.cfgWord (56 + t / 12) 0 i)

/-- A hoop word of an inbound crossing channel. -/
def DieFab.hoopCross (f : DieFab) (i : Nat) (isClosed : Bool) (raw : Nat) : Nat :=
  if !isClosed then raw else f.closed (256 + i) (bitOf (f.cfgWord 60 0 i) 17) (f.cfgWord 60 1 i)

/-- A hoop word of a boundary between two regions. -/
def DieFab.hoopFace (f : DieFab) (k y i : Nat) (isClosed : Bool) (raw : Nat) : Nat :=
  if !isClosed then raw
  else f.closed (512 + (32 * k + y) * 8 + i) (bitOf (f.cfgWord 61 k (10 * y + 8)) i) (f.cfgWord 61 k (10 * y + i))

/-- The raw south outbound word of an edge tile. -/
def DieFab.edgeRaw (f : DieFab) (t w : Nat) : Nat := f.reg (tileX t) 0 (384 + 8 + w)

/-- Is the fabric sector of a tile column off, so that the column delivers 0x0000 everywhere (R214)? -/
def State.sectorOff (s : State) (d : Fin 4) (t : Nat) : Bool := !s.dieOn d (colSector t)

/-- Does a tile column deliver 0x0000 everywhere: its sector is off (R214), or it has lost its configuration, whatever state the region
that holds it is in (R216)? -/
def State.columnDark (s : State) (d : Fin 4) (t : Nat) : Bool := s.sectorOff d t || s.fab[d.val].bare.getLsbD t

/-- The south outbound word that a group or Worker samples (R207, R231): zero from a die that loads, from a column whose sector
is off (R214), and from one that is unconfigured (R216). -/
def State.edgeOut (s : State) (d : Fin 4) (t w : Nat) : Nat :=
  let f := s.fab[d.val]
  if f.cfgSt = .loading || f.stateOf t = .unconfigured || s.columnDark d t then 0
  else f.hoopEdge t w (f.stateOf t != .running) (f.edgeRaw t w)

/-- The word that the registers of an outbound crossing channel loaded 12 cycles before it is held (R210). -/
def DieFab.crossed (f : DieFab) (ch : Nat) : Nat :=
  match f.cross[11]? with
  | none => 0
  | some l => (sparseGet l ch).toNat

/-- The word in the inbound register of channel `i` of die `d`, before its hoop cell (R210): what the link delivered with a failed check
in this cycle (10, R292), else the word that the source die sent 12 cycles before. -/
def State.crossRaw (s : State) (d : Fin 4) (i : Nat) (sd : Fin 4) (ch : Nat) : Nat :=
  match s.fab[d.val].crossBad.find? fun e => e.1 = i with
  | some e => e.2.toNat
  | none => s.fab[sd.val].crossed ch

/-- The word of inbound crossing channel `i` of die `d` (R210 to R213): the hoop cell's while the source die is fenced or not
latency-locked; zero from a sector that is off or a column without configuration (R214, R216). -/
def State.crossIn (s : State) (d : Fin 4) (i : Nat) : Nat :=
  let f := s.fab[d.val]
  let c := f.cfgWord 60 0 i
  let sd : Fin 4 := ⟨bitsOf c 0 2 % 4, by omega⟩
  let ch := bitsOf c 8 7
  let l := s.net.dies[sd.val]
  let cut : Bool := l.fenced || l.st != .locked
  if !bitOf c 16 then 0
  else if (s.net.dies[d.val].half && decide (64 ≤ i)) || (s.net.dies[sd.val].half && decide (64 ≤ ch)) then 0
  else if !cut && s.columnDark sd (8 + ch / 4) then 0
  else f.hoopCross i (cut || s.fab[sd.val].stateOf (8 + ch / 4) != .running) (s.crossRaw d i sd ch)

/-- The south inbound word of an edge tile (R207): group words as driven, side-band inputs, and the Workers' `WFOUT`. -/
def State.edgeInWord (s : State) (d : Fin 4) (sbIn : BitVec 128) (t w : Nat) : Nat :=
  let g := t / 12
  let e := t % 12
  let wfout (k : Nat) : Nat := ((at? s.workers (d.val * 8 + k)).map (·.regs.wfout.toNat)).getD 0
  if e = 9 && (w = 1 || w = 2) then bitsOf (wfout g) (16 * (w - 1)) 16
  else if e = 10 && (w = 1 || w = 2) then bitsOf (wfout (g + 4)) (16 * (w - 1)) 16
  else if e = 0 && w = 3 then
    packBools ((allFin 8).map fun p =>
      match at? s.groups (4 * d.val + g) with
      | none => false
      | some x =>
        let n : Fin 128 := ⟨(32 * d.val + 8 * g + p.val) % 128, by omega⟩
        x.mode != .waveform && s.portLive n && (sbIn.getLsbD n.val != (s.ports[n.val].inv.getLsbD 3)))
  else (sparseGet s.fab[d.val].edgeIn (4 * t + w)).toNat

/-- Word `i` of the boundary at tile column `4k` in row `y`, driven by tile column `t`: closed while that column's region does not
run (R231), and zero while its sector is off or it holds no configuration (R214, R216). -/
def State.face (s : State) (d : Fin 4) (k y i t raw : Nat) : Nat :=
  let f := s.fab[d.val]
  if s.columnDark d t then 0 else f.hoopFace k y i (f.stateOf t != .running) raw

/-- The inbound mesh word `w` from direction `dir` at a mesh position (R201): the neighbour's outbound register, an edge
word, a crossing channel, or zero; through a hoop cell where it crosses a region's border. -/
def State.inbound (s : State) (d : Fin 4) (sbIn : BitVec 128) (x y dir w : Nat) : Nat :=
  let f := s.fab[d.val]
  match dir with
  | 0 =>
    if y = 31 then
      (if !isRamX x && 8 ≤ xTile x && xTile x < 40 then s.crossIn d (4 * (xTile x - 8) + w) else 0)
    else f.reg x (y + 1) (384 + 8 + w)
  | 1 =>
    if x = 55 then 0
    else
      let raw := f.reg (x + 1) y (384 + 12 + w)
      if !isRamX x && (xTile x + 1) % 4 = 0 && f.regionOf (xTile x) != f.regionOf (xTile x + 1) then
        s.face d ((xTile x + 1) / 4) y (4 + w) (xTile x + 1) raw
      else raw
  | 2 =>
    if y = 0 then (if isRamX x then 0 else s.edgeInWord d sbIn (xTile x) w) else f.reg x (y - 1) (384 + w)
  | _ =>
    if x = 0 then 0
    else
      let raw := f.reg (x - 1) y (384 + 4 + w)
      if !isRamX x && xTile x % 4 = 0 && f.regionOf (xTile x) != f.regionOf (xTile x - 1) then
        s.face d (xTile x / 4) y w (xTile x - 1) raw
      else raw

/-! The word cell (R193 to R199). -/

/-- What a cell computes from: its inputs, local registers, the carry of the cell below in this cycle (none at the bottom of
a column), its carry register, and whether it multiplies. -/
structure CellIn where
  a     : Nat
  b     : Nat
  c     : Nat
  l     : Nat → Nat
  below : Option Bool
  carry : Bool
  mult  : Bool

/-- A 16-bit value as two's complement. -/
def s16 (n : Nat) : Int := signedOf 16 (n % 65536)

/-- The result and the carry out of an instruction entry (R195 to R198). Reserved operations give zero; the reserved carry
source gives no carry (log entry 24). -/
def cellResult (e : Nat) (i : CellIn) : Nat × Bool :=
  let op := bitsOf e 26 6
  let imm := bitsOf e 0 16
  let y := match bitsOf e 24 2 with
    | 0 => i.b
    | 1 => imm
    | 2 => i.l (bitsOf e 22 2)
    | _ => i.c
  let cin (none_ : Bool) : Bool := match bitsOf e 17 2 with
    | 1 => i.below.getD none_
    | 2 => i.carry
    | _ => none_
  let sum := i.a + y + b2n (cin false)
  let dif := i.a + (65535 - y) + b2n (cin true)
  let n := y % 16
  let cmp (b : Bool) : Nat × Bool := (if b then 65535 else 0, false)
  let sdif : Int := s16 i.a - s16 y - (1 - (b2n (cin true) : Int))
  let plain (v : Nat) : Nat × Bool := (v % 65536, false)
  match op with
  | 0x00 => plain y
  | 0x01 => (sum % 65536, decide (65536 ≤ sum))
  | 0x02 => (dif % 65536, decide (65536 ≤ dif))
  | 0x03 => plain (i.a &&& y)
  | 0x04 => plain (i.a ||| y)
  | 0x05 => plain (i.a ^^^ y)
  | 0x06 => plain (i.a &&& (65535 - y))
  | 0x07 => plain (packBools ((List.range 16).map fun k =>
      bitOf imm (8 * b2n (bitOf (i.l (bitsOf e 22 2)) k) + 4 * b2n (bitOf i.c k) + 2 * b2n (bitOf i.b k) + b2n (bitOf i.a k))))
  | 0x08 => plain ((i.a &&& i.c) ||| (y &&& (65535 - i.c)))
  | 0x09 => plain (i.a <<< n)
  | 0x0A => plain (i.a >>> n)
  | 0x0B => plain (unsignedOf 16 (s16 i.a / 2 ^ n))
  | 0x0C => plain ((i.a <<< n) ||| (i.a >>> (16 - n)))
  | 0x0D => plain (((i.a * 65536 + i.c) <<< n) / 65536)
  | 0x0E => plain ((i.c * 65536 + i.a) >>> n)
  | 0x10 => cmp (i.a = y)
  | 0x11 => cmp (i.a != y)
  | 0x12 => cmp (dif < 65536)
  | 0x13 => cmp (decide (65536 ≤ dif))
  | 0x14 => cmp (decide (sdif < 0))
  | 0x15 => cmp (decide (0 ≤ sdif))
  | 0x18 => plain (if i.mult then i.a * y else 0)
  | 0x19 => plain (if i.mult then i.a * y / 65536 else 0)
  | 0x1A => plain (if i.mult then unsignedOf 16 (s16 i.a * s16 y / 65536) else 0)
  | _ => (0, false)

/-- What a source code of a tile selects (R200). -/
def State.source (s : State) (d : Fin 4) (sbIn : BitVec 128) (x y code : Nat) : Nat :=
  if code < 64 then s.fab[d.val].reg x y code
  else if code < 80 then s.inbound d sbIn x y ((code - 64) / 4) (code % 4)
  else 0

/-- The inputs of cell `n` of a tile, its context and the entry it selects (R194, R225). -/
def State.cellStep (s : State) (d : Fin 4) (sbIn : BitVec 128) (t y n : Nat) (below : Option Bool) :
    Nat × Nat × Bool :=
  let f := s.fab[d.val]
  let x := tileX t
  let src := f.cfgWord t (64 + n / 8) (10 * y + n % 8)
  let a := s.source d sbIn x y (bitsOf src 0 7)
  let b := s.source d sbIn x y (bitsOf src 8 7)
  let c := s.source d sbIn x y (bitsOf src 16 7)
  let ctx := if bitOf src 31 then bitsOf c (bitsOf src 27 4) 3 else bitsOf src 24 3
  let e := f.cfgWord t n (10 * y + ctx)
  let i : CellIn := { a := a, b := b, c := c, l := fun k => f.reg x y (64 + 4 * n + k), below := below
                      carry := f.reg x y (320 + n) = 1, mult := 48 ≤ n }
  (e, cellResult e i)

/-- The cells of one internal column from position `j` upwards: entry, result and carry of each (R199). -/
def State.columnStep (s : State) (d : Fin 4) (sbIn : BitVec 128) (t y q : Nat) : Nat → Nat → Option Bool → List (Nat × Nat × Bool)
  | 0, _, _ => []
  | k + 1, j, below =>
    let r := s.cellStep d sbIn t y (16 * q + j) below
    r :: s.columnStep d sbIn t y q k (j + 1) (some r.2.2)

/-- The registers of a tile after a cycle (R193, R201). -/
def State.tileStep (s : State) (d : Fin 4) (sbIn : BitVec 128) (t y : Nat) : List (Nat × Nat) :=
  let f := s.fab[d.val]
  let x := tileX t
  let cells := (List.range 4).flatMap fun q => s.columnStep d sbIn t y q 16 0 none
  let at_ (n : Nat) : Nat × Nat × Bool := cells.getD n (0, 0, false)
  let outs := (List.range 64).map fun n =>
    let r := at_ n
    (regKey x y n, if bitOf r.1 16 then f.reg x y n else r.2.1)
  let locals := (List.range 256).map fun k =>
    let r := at_ (k / 4)
    (regKey x y (64 + k), if bitOf r.1 21 && bitsOf r.1 19 2 = k % 4 then r.2.1 else f.reg x y (64 + k))
  let carries := (List.range 64).map fun n => (regKey x y (320 + n), b2n (at_ n).2.2)
  let mesh := (List.range 16).map fun k =>
    (regKey x y (384 + k), s.source d sbIn x y (bitsOf (f.cfgWord t 72 (10 * y + k / 4)) (8 * (k % 4)) 7))
  outs ++ locals ++ carries ++ mesh

/-! Cell RAM (R204, R205). -/

/-- Device address of a word of a cell RAM block (02, R23). -/
def ramWordAddr (d : Fin 4) (r y b a : Nat) : Nat := cellRamBase d + (256 * r + 8 * y + b) * 4096 + 4 * a

/-- What a port source of a RAM position selects: code `j` of minor 8 (R226). -/
def State.ramSource (s : State) (d : Fin 4) (sbIn : BitVec 128) (r y j : Nat) : Nat :=
  let f := s.fab[d.val]
  let x := 7 * r + 3
  let lo := f.cfgWord (48 + r) 8 (10 * y + 5 * j / 32)
  let hi := f.cfgWord (48 + r) 8 (10 * y + 5 * j / 32 + 1)
  let code := bitsOf (lo + hi * 4294967296) (5 * j % 32) 5
  if code < 16 then s.inbound d sbIn x y (code / 4) (code % 4) else 0

/-- A port of a block: enabled, writing, address and data. -/
def State.ramPort (s : State) (d : Fin 4) (sbIn : BitVec 128) (r y b p : Nat) : Bool × Bool × Nat × Nat :=
  let v (k : Nat) : Nat := s.ramSource d sbIn r y (8 * b + 4 * p + k)
  (bitOf (v 0) 0, bitOf (v 0) 1, v 1 % 1024, v 2 + v 3 * 65536)

/-- The registers of a RAM position after a cycle, and the words written: port B first, so that port A's data stands. -/
def State.ramStep (s : State) (d : Fin 4) (sbIn : BitVec 128) (r y : Nat) : List (Nat × Nat) × List (Nat × Nat) :=
  let f := s.fab[d.val]
  let x := 7 * r + 3
  let reads := (List.range 16).map fun k =>
    let (en, _, a, _) := s.ramPort d sbIn r y (k / 2) (k % 2)
    (regKey x y k, if en then (s.mem.word (ramWordAddr d r y (k / 2) a)).toNat else f.reg x y k)
  let mesh := (List.range 16).map fun k =>
    let code := bitsOf (f.cfgWord (48 + r) 9 (10 * y + k / 4)) (8 * (k % 4)) 7
    (regKey x y (384 + k),
      if code < 32 then bitsOf (f.reg x y (code / 2)) (16 * (code % 2)) 16
      else if code < 48 then s.inbound d sbIn x y ((code - 32) / 4) (code % 4)
      else 0)
  let writes := (List.range 8).flatMap fun b => [1, 0].filterMap fun p =>
    let (en, we, a, v) := s.ramPort d sbIn r y b p
    if en && we then some (ramWordAddr d r y b a, v) else none
  (reads ++ mesh, writes)

/-- The device address of the word that an enabled port of a block reads in this cycle (R204, R206). -/
def State.ramTarget (s : State) (d : Fin 4) (sbIn : BitVec 128) (e : RamErr) : Option Nat :=
  let (en, _, a, _) := s.ramPort d sbIn e.col.val e.row.val e.block.val (b2n e.port)
  if en then some (ramWordAddr d e.col.val e.row.val e.block.val a) else none

/-! One cycle of a die (R193, R201, R210). -/

/-- Does the fabric of a die run: powered, clocked and awake? -/
def State.fabricRuns (s : State) (d : Fin 4) : Bool :=
  s.dieOn d 0 && s.net.dies[d.val].clockOn && !s.net.dies[d.val].cutOff && s.rsc.hib = .awake

/-- Does a mesh position compute: its region runs and its sector is on? -/
def State.columnRuns (s : State) (d : Fin 4) (x : Nat) : Bool :=
  s.fab[d.val].stateOf (xCol x) = .running && s.dieOn d (colSector (xCol x))

/-- The mesh positions of a die. -/
def positions : List (Nat × Nat) := (List.range 56).flatMap fun x => (List.range 32).map fun y => (x, y)

/-- The registers and the written RAM words of a die after a cycle. -/
def State.dieStep (s : State) (d : Fin 4) (sbIn : BitVec 128) : List (Nat × BitVec 32) × List (Nat × Nat) :=
  let f := s.fab[d.val]
  let one (p : Nat × Nat) : List (Nat × Nat) × List (Nat × Nat) :=
    let (x, y) := p
    if !s.columnRuns d x then
      ((f.regs.filter fun e => e.1 / 512 = 32 * x + y).map fun e => (e.1, e.2.toNat), [])
    else if isRamX x then s.ramStep d sbIn (x / 7) y
    else (s.tileStep d sbIn (xTile x) y, [])
  let l := positions.map one
  ((l.flatMap (·.1)).filterMap fun e => if e.2 = 0 then none else some (e.1, BitVec.ofNat 32 e.2), l.flatMap (·.2))

/-- The words that a die's hoop cells deliver in this cycle, kept for those that close (R231, R232). -/
def State.hoopNow (s : State) (d : Fin 4) : List (Nat × BitVec 16) :=
  let f := s.fab[d.val]
  let keep (l : List (Nat × Nat)) : List (Nat × BitVec 16) :=
    l.filterMap fun e => if e.2 = 0 then none else some (e.1, BitVec.ofNat 16 e.2)
  let edges := (List.range 192).map fun k => (k, s.edgeOut d (k / 4) (k % 4))
  let cross := (List.range 128).map fun i => (256 + i, s.crossIn d i)
  let faces := (List.range 352).flatMap fun j =>
    let k := j / 32
    let y := j % 32
    if k = 0 then []
    else (List.range 8).map fun i =>
      let east : Bool := decide (i < 4)
      let driver : Nat := if east then 4 * k - 1 else 4 * k
      let raw := f.reg (tileX driver) y (384 + (if east then 4 else 12) + i % 4)
      (512 + (32 * k + y) * 8 + i, s.face d k y i driver raw)
  keep (edges ++ cross ++ faces)

/-- The words loaded into a die's outbound crossing channels (R210). -/
def crossSnapshot (f : DieFab) : List (Nat × BitVec 16) :=
  (List.range 128).filterMap fun i =>
    let v := f.reg (tileX (8 + i / 4)) 31 (384 + i % 4)
    if v = 0 then none else some (i, BitVec.ofNat 16 v)

/-- Is group `g` of a die in waveform mode? -/
def State.waveOn (s : State) (d : Fin 4) (g : Nat) : Bool :=
  match at? s.groups (4 * d.val + g) with
  | some x => x.mode = .waveform
  | none => false

/-- The edge words that last one cycle: `TAP_NEXT`, and `TXW_TAKE` and `RXW_VALID` of a protocol group (R106, R140, R141). -/
def State.clearPulses (s : State) (d : Fin 4) : State :=
  let keep (e : Nat × BitVec 16) : Option (Nat × BitVec 16) :=
    if e.1 % 4 != 0 then some e
    else
      let v : BitVec 16 := cond (s.waveOn d (e.1 / 4 / 12)) (e.2 &&& 0xFFFE) 0
      if v = 0 then none else some (e.1, v)
  s.modFab d fun f => { f with edgeIn := f.edgeIn.filterMap keep }

/-- An inbound edge word driven by a group. -/
def State.setEdge (s : State) (d : Fin 4) (t w : Nat) (v : Nat) : State :=
  s.modFab d fun f => { f with edgeIn := sparseSet f.edgeIn (4 * t + w) (BitVec.ofNat 16 v) }

/-- The die and the first edge column of a group. -/
def groupEdge (g : Fin 16) : Fin 4 × Nat := (groupDie g, 12 * (g.val % 4))

end Sys2Proof.Machine
end

