-- ==== Sys2Proof/Machine/Flags.lean ====
section
/-! DEFINITION. Results and flags of the Worker's data operations (spec/03_worker_cores.md): 32-bit arithmetic and shifts,
accumulator arithmetic at 72 bits, and scaled accumulator reads. The flags are four bits: Z 0, N 1, C 2, V 3. -/

namespace Sys2Proof.Machine

/-- Z and N of a result, with C and V given (`WSTAT` fields). -/
def flagsOf (r : Word) (c v : Bool) : BitVec 4 := BitVec.ofNat 4 (b2n (r = 0) + bitAt r.msb 1 + bitAt c 2 + bitAt v 3)

/-- a + b + carry: result, and Z N C V. -/
def addWith (a b : Word) (cin : Bool) : Word × BitVec 4 :=
  let sum := a.toNat + b.toNat + b2n cin
  let r : Word := BitVec.ofNat 32 sum
  (r, flagsOf r (decide (2 ^ 32 ≤ sum)) (a.msb = b.msb && r.msb != a.msb))

/-- a − b − (1 − carry): C is 1 when no borrow occurred. -/
def subWith (a b : Word) (cin : Bool) : Word × BitVec 4 := addWith a (~~~b) cin

/-- The kinds of shift (SHIFT format). -/
inductive ShiftKind where
  | lsl | lsr | asr | ror
  deriving DecidableEq, Repr

/-- A shift by 0 to 31: result, and Z N with C the last bit shifted out; an amount of 0 leaves C as it was. -/
def shiftBy (k : ShiftKind) (a : Word) (n : Nat) (c : Bool) : Word × Bool :=
  if n = 0 then (a, c)
  else match k with
    | .lsl => (a <<< n, a.getLsbD (32 - n))
    | .lsr => (a >>> n, a.getLsbD (n - 1))
    | .asr => (a.sshiftRight n, a.getLsbD (n - 1))
    | .ror => (a.rotateRight n, a.getLsbD (n - 1))

/-- An exact integer wrapped at 72 bits, and whether it did not fit (R78). -/
def wrap72 (i : Int) : BitVec 72 × Bool := (BitVec.ofInt 72 i, decide ¬(-(2 ^ 71) ≤ i ∧ i < 2 ^ 71))

/-- A factor of `w` bits, signed or not. -/
def factor (w n : Nat) (signed : Bool) : Int := if signed then signedOf w n else n

/-- The product with the signedness of the sign field: 0 s×s, 1 u×u, 2 s×u (MAC format). -/
def product (w a b sign : Nat) : Int := factor w a (sign != 1) * factor w b (sign = 0)

/-- Accumulate: acc ± product, or ± product alone with the clear field (R78). -/
def accumulate (acc : BitVec 72) (p : Int) (sub clear : Bool) : BitVec 72 × Bool :=
  wrap72 ((if clear then 0 else acc.toInt) + if sub then -p else p)

/-- The accumulator scaled by `WMODE.SHIFT` (R79), as an exact integer: left, or arithmetically right. DESIGN CHOICE: R79 does
not say whether a positive shift wraps the scaled value at 72 bits; it stays exact, so bits moved past bit 71 set `OVS` too
(log entry 67). -/
def scaled (acc : BitVec 72) (shift : BitVec 4) : Int :=
  let k := shift.toInt
  if 0 ≤ k then acc.toInt * 2 ^ k.toNat else acc.toInt / 2 ^ (-k).toNat

/-- A read of `acc_n.h` or `acc_n.l`: the word of the scaled value, and whether the bits above it are not all equal to its
bit 31 (R79). -/
def accRead (acc : BitVec 72) (shift : BitVec 4) (high : Bool) : Word × Bool :=
  let v := scaled acc shift
  let u := if high then v / 2 ^ 32 else v
  let r : Word := BitVec.ofInt 32 u
  (r, decide (u ≠ r.toInt))

/-- Is a branch condition met (branch conditions)? -/
def condMet (cond : Nat) (flags : BitVec 4) (mf lkf : Bool) : Bool :=
  match cond with
  | 0 => true
  | 1 => flags.getLsbD 0
  | 2 => !flags.getLsbD 0
  | 3 => flags.getLsbD 1 != flags.getLsbD 3
  | 4 => flags.getLsbD 1 = flags.getLsbD 3
  | 5 => flags.getLsbD 2
  | 6 => mf
  | _ => lkf

end Sys2Proof.Machine
end

