-- ==== Sys2Proof/Machine/SwarmOps.lean ====
section
/-! DEFINITION. Sending on the Laravo links (spec/11_swarm_and_time.md): packets with their header, sequence numbers and
CRC, credits and priorities, routes, messages cut into fragments, and time packets. -/

namespace Sys2Proof.Machine

/-- A number of an origin remembered: the last 64 of each origin (R325, R329; log entry 39). -/
def remember {n : Nat} (l : List (Byte × BitVec n)) (origin : Byte) (k : BitVec n) : List (Byte × BitVec n) :=
  (origin, k) :: (l.filter (·.1 = origin)).take 63 ++ l.filter (·.1 != origin)

/-- The twelve header bytes of a packet (R313). -/
def packetHeader (dest src : Byte) (vc : Nat) (first last sr : Bool) (hops : Nat) (seq ack : BitVec 12)
    (crVc crN len : Nat) : Bytes :=
  [dest, src, BitVec.ofNat 8 (vc + bitAt first 3 + bitAt last 4 + bitAt sr 5), BitVec.ofNat 8 hops] ++
    numBytes 2 seq.toNat ++ numBytes 2 ack.toNat ++ [BitVec.ofNat 8 (crVc + 8 * crN), 0] ++ numBytes 2 len

/-- A packet closed by its CRC-32 over header and payload (R313). -/
def withCrc (bs : Bytes) : Bytes := bs ++ numBytes 4 (crc32 bs).toNat

/-! Channels and credits (R314, R315; 10, R287, R288). -/

/-- What a link still has to send of a packet: everything but sequence number, acknowledgement and credits. -/
def draft (dest src : Byte) (vc : Nat) (first last sr : Bool) (hops : Nat) (payload : Bytes) : TxPacket :=
  ⟨vc, packetHeader dest src vc first last sr hops 0 0 0 0 payload.length ++ payload, none⟩

/-- The priority of the channels: stream, response, request, event (10, R287). -/
def vcOrder : List Nat := [2, 1, 0, 3]

/-- The channel that a port serves next of those that are ready, in their priority order (10, R287): one of the lower three that
has waited for 13 others, the longest first, so that each of them gets one place in 16; else the first. DESIGN CHOICE: the spec
gives the share and not the place (log entry 61). -/
def pickVc (ready : List Nat) (waits : Nat → Nat) : Option Nat :=
  match ready.filter fun v => v != 2 && 13 ≤ waits v with
  | [] => ready.head?
  | v :: l => some (l.foldl (fun b c => if waits b < waits c then c else b) v)

/-- The channel that a link serves next (R315): of those with a packet that waits and a credit. -/
def Laravo.nextVc (k : Laravo) : Option Nat :=
  pickVc (vcOrder.filter fun v => k.txq.any (·.vc = v) && 0 < (at? k.credits v).getD 0) fun v => (at? k.waits v).getD 0

/-- The first waiting packet of a channel taken out of the queue. -/
def takeVc (v : Nat) : List TxPacket → Option (TxPacket × List TxPacket)
  | [] => none
  | p :: l => if p.vc = v then some (p, l) else (takeVc v l).map fun x => (x.1, p :: x.2)

/-- Set bytes `i` and `i + 1`. -/
def setPair (bs : Bytes) (i n : Nat) : Bytes := bs.take i ++ numBytes 2 n ++ bs.drop (i + 2)

/-- A packet leaves the receive buffer of its channel: its credit is owed to the partner (R314; 10, R288). -/
def Laravo.leave (k : Laravo) (vc : Nat) : Laravo :=
  if h : vc < 4 then
    if k.held[vc] = 0 then k else { k with held := upd k.held ⟨vc, h⟩ (· - 1), owed := upd k.owed ⟨vc, h⟩ (· + 1) }
  else k

/-- A packet has left the receive buffer of the link it lay in, if it lay in one. -/
def State.freeBuffer (s : State) (p : TxPacket) : State :=
  match p.from_ with
  | some l => s.modLink l fun k => k.leave p.vc
  | none => s

/-- One packet leaves a link: it takes the next sequence number, acknowledges what was received, returns credits owed and
enters the replay buffer (R314). While a credit audit runs, none is sent (10, R309). -/
def State.sendOne (s : State) (l : Fin 16) : State :=
  let k := s.swarm.links[l.val]
  if 128 ≤ k.replayBuf.length || !s.net.audit.isEmpty then s
  else match k.nextVc with
    | none => s
    | some v => match takeVc v k.txq with
      | none => s
      | some (p, rest) =>
        let crVc := ((List.range 4).find? fun c => 0 < (at? k.owed c).getD 0).getD 0
        let crN := min 31 ((at? k.owed crVc).getD 0)
        let b := setPair (setPair p.data 4 k.txSeq.toNat) 6 (k.rxSeq - 1).toNat
        let b := withCrc (b.take 8 ++ [BitVec.ofNat 8 (crVc + 8 * crN)] ++ b.drop 9)
        let s := (s.modLink l fun k => { k with
          txq := rest, txSeq := k.txSeq + 1, replayBuf := k.replayBuf ++ [(k.txSeq, b)]
          credits := if h : v < 4 then upd k.credits ⟨v, h⟩ (· - 1) else k.credits
          spent := if h : v < 4 then upd k.spent ⟨v, h⟩ (· + 1) else k.spent
          owed := if h : crVc < 4 then upd k.owed ⟨crVc, h⟩ (· - crN) else k.owed
          waits := Vector.ofFn fun c =>
            if c.val = v then 0 else if rest.any (·.vc = c.val) then k.waits[c.val] + 1 else 0 }).emitLink l (.laravo l 0 b)
        s.freeBuffer p

/-- A link sends what its credits and its replay buffer allow. -/
def State.flushLink (s : State) (l : Fin 16) : State :=
  iter (fun s => s.sendOne l) (s.swarm.links[l.val].txq.length) s

/-- A packet handed to a link. -/
def State.queuePacket (s : State) (l : Fin 16) (p : TxPacket) : State :=
  (s.modLink l fun k => { k with txq := k.txq ++ [p] }).flushLink l

/-- The packets still kept after an acknowledgement: everything up to the number acknowledged leaves the replay buffer (R314; 10,
R292). -/
def ackReplay (ack : BitVec 12) (l : List (BitVec 12 × Bytes)) : List (BitVec 12 × Bytes) :=
  if l.any (·.1 = ack) then (l.dropWhile (·.1 != ack)).drop 1 else l

/-- What a packet acknowledges and the credits it returns (R313, R314). -/
def Laravo.acked (k : Laravo) (ack : BitVec 12) (crVc crN : Nat) : Laravo :=
  let buf := ackReplay ack k.replayBuf
  { k with
    replayBuf := buf
    failsOut := if buf.any (·.1 = k.failsAt) then k.failsOut else 0
    credits := if c : crVc < 4 then upd k.credits ⟨crVc, c⟩ (· + crN) else k.credits
    spent := if c : crVc < 4 then upd k.spent ⟨crVc, c⟩ (· - crN) else k.spent }

/-- A link takes an acknowledgement with its credits, and sends what they allow. -/
def State.takeAck (s : State) (l : Fin 16) (ack : BitVec 12) (crVc crN : Nat) : State :=
  (s.modLink l fun k => k.acked ack crVc crN).flushLink l

/-- Is a link ACTIVE? -/
def State.linkActive (s : State) (l : Fin 16) : Bool := s.swarm.links[l.val].st = .active

/-- Is a link UP or ACTIVE? -/
def State.linkUp (s : State) (l : Fin 16) : Bool := s.swarm.links[l.val].st = .up || s.swarm.links[l.val].st = .active

/-- The link a packet for a destination leaves on (R321, R322): `NEXT` when ACTIVE, else with `FAILOVER` the first valid
alternate that is ACTIVE. -/
def State.route (s : State) (dest : Nat) : Option (Fin 16) :=
  match at? s.swarm.routes dest with
  | none => none
  | some e =>
    let l (lo : Nat) : Fin 16 := ⟨bitsOf e.toNat lo 4, Nat.mod_lt _ (by decide)⟩
    if !e.getLsbD 12 then none
    else if s.linkActive (l 0) then some (l 0)
    else if !e.getLsbD 15 then none
    else if e.getLsbD 13 && s.linkActive (l 4) then some (l 4)
    else if e.getLsbD 14 && s.linkActive (l 8) then some (l 8)
    else none

/-- A message cut into payloads of at most `n` bytes, with its first and last marked. -/
def fragments (n : Nat) (bs : Bytes) : List (Bool × Bool × Bytes) :=
  let k := if bs.length = 0 then 1 else ceilDiv bs.length n
  (List.range k).map fun i => (i == 0, i + 1 == k, (bs.drop (i * n)).take n)

/-- A message sent by the route table; each packet finds its own link (R322). A packet without one is dropped. A message for
this device is delivered locally (R321): it joins the whole messages of link 0 (log entry 20). A device without a swarm ID
originates no routed packet (R320). -/
def State.sendRouted (s : State) (vc : Nat) (dest : Byte) (data : Bytes) : State :=
  if s.swarm.id = 0xFF then s
  else if dest = s.swarm.id then
    s.modLink 0 fun k => { k with whole := k.whole ++ [⟨vc, s.swarm.id, none, none, data⟩] }
  else
  (fragments 512 data).foldl (fun s f =>
    match s.route dest.toNat with
    | none => s
    | some l => s.queuePacket l (draft dest s.swarm.id vc f.1 f.2.1 false 15 f.2.2)) s

/-- A source-routed message sent from this device: out of the link at the position its path bytes give, which then advances
(R324; log entry 20). -/
def State.sendPath (s : State) (vc : Nat) (dest : Byte) (way : BitVec 64) (data : Bytes) : State :=
  let pos := bitsOf way.toNat 40 8
  let l : Fin 16 := ⟨bitsOf way.toNat (4 * pos) 4, Nat.mod_lt _ (by decide)⟩
  let way' := numBytes 8 (way.toNat + 1 <<< 40)
  (fragments 504 data).foldl (fun s f =>
    s.queuePacket l (draft dest s.swarm.id vc f.1 f.2.1 true 15 (way' ++ f.2.2))) s

/-- The path bytes of the reply to a source-routed message that arrived on link `l` (R324): the arrival link, then the
stored links in reverse order. -/
def replyWay (l : Fin 16) (way : BitVec 64) : BitVec 64 :=
  let n := bitsOf way.toNat 32 8
  let hops := (List.range n).map fun i => if i = 0 then l.val else bitsOf way.toNat (4 * (n - i)) 4
  BitVec.ofNat 64 ((hops.take 8).foldr (fun h a => h + 16 * a) 0 % 2 ^ 32 + n <<< 32)

/-- A broadcast sent out of every link of `BCAST_MASK` but the arrival link (R325); a device without a swarm ID sends and relays
none (R320). -/
def State.sendBroadcast (s : State) (src : Byte) (num : BitVec 16) (but : Option (Fin 16)) (hops : Nat)
    (frags : List (Bool × Bool × Bytes)) : State :=
  if s.swarm.id = 0xFF then s
  else ((allFin 16).filter fun l => s.swarm.bcastMask.getLsbD l.val && but != some l && s.linkActive l).foldl (fun s l =>
    frags.foldl (fun s f =>
      s.queuePacket l (draft 0xFF src 0 f.1 f.2.1 false hops (numBytes 8 num.toNat ++ f.2.2))) s) s

/-- The reply to a forwarded command goes back to its origin: along the stored path when it was source-routed, else by the
route table (R324, R325). -/
def State.sendInnerReply (s : State) (origin : Byte) (l : Fin 16) (way : Option (BitVec 64)) (words : Words) : State :=
  match way with
  | some w => s.sendPath 1 origin (replyWay l w) (bytesOfWords words)
  | none => s.sendRouted 1 origin (bytesOfWords words)

/-- A time stamp as time packets carry it: nanoseconds, fraction, seconds in six bytes (R337). -/
def stampBytes (v : Nat) : Bytes :=
  numBytes 4 (v / 4294967296 % 1000000000) ++ numBytes 4 (v % 4294967296) ++ numBytes 6 (v / secondUnits)

/-- The time stamp that 14 bytes of a time packet hold. -/
def stampValue (bs : Bytes) : Int :=
  ((bytesNum ((bs.drop 8).take 6) * 1000000000 + bytesNum (bs.take 4)) * 4294967296 + bytesNum ((bs.drop 4).take 4) : Nat)

/-- The code of a servo state (11, `TB_STATE.SERVO`). -/
def ServoSt.code : ServoSt → Nat
  | .off => 0 | .acquiring => 1 | .locked => 2 | .hold => 3

/-- The code of a Laravo link state (11, R317). -/
def LlSt.code : LlSt → Nat
  | .off => 0 | .down => 1 | .training => 2 | .up => 3 | .active => 4 | .fault => 5

/-- A time packet leaves a link on channel 4: no credits, no replay, sequence field 0 (R314, R337). -/
def State.sendTime (s : State) (l : Fin 16) (type : Fin 4) (body : Bytes) : State :=
  let k := s.swarm.links[l.val]
  let payload := [BitVec.ofNat 8 (type.val + 1), k.timeSeq[type.val], BitVec.ofNat 8 l.val, s.servo.stratum] ++ body
  let b := withCrc (packetHeader 0xFF s.swarm.id 4 true true false 15 0 (k.rxSeq - 1) 0 0 36 ++ payload)
  (s.modLink l fun k => { k with timeSeq := upd k.timeSeq type (· + 1) }).emitLink l (.laravo l (BitVec.ofNat 8 (type.val + 1)) b)

/-- A HELLO sent on a link (R318). -/
def State.sendHello (s : State) (l : Fin 16) : State :=
  s.sendTime l 3 (numBytes 8 Config.identity.toNat ++ [s.swarm.id, BitVec.ofNat 8 s.servo.st.code, 1, 0] ++ List.replicate 20 0)

/-- The servo enters HOLD: `SYNC_LOST` is set and `E033` raised with the cause (R341; 18, R463). -/
def State.servoHold (s : State) (cause : Nat) : State :=
  ({ s with servo := { s.servo with st := .hold } }.modTb 0 fun t => { t with syncLost := true }).raise 33 3 0
    (detail [(0, 1, cause)])

/-- The servo runs. -/
def Servo.runs (v : Servo) : Bool := v.st = .acquiring || v.st = .locked

/-- A Laravo link changes state and `E031` tells it: old state, new state, cause (R317). -/
def State.linkState (s : State) (l : Fin 16) (st : LlSt) (cause : Nat) : State :=
  let old := s.swarm.links[l.val].st
  if old = st then s
  else (s.modLink l fun k => { k with st := st }).raise 31 1 l.val
    (detail [(0, 1, old.code), (1, 1, st.code), (2, 1, (Config.linkCause cause).toNat)])

/-- What a link holds of the wire is lost when it goes down or trains: sequence numbers, credits, buffers and messages in
part (R314, R317). -/
def Laravo.cleared (k : Laravo) : Laravo :=
  { k with
    helloSeen := false, txSeq := 0, rxSeq := 0, replayBuf := [], txq := [], rejecting := false, reqT1 := none
    credits := Vector.replicate 4 32, waits := Vector.replicate 4 0, owed := Vector.replicate 4 0
    spent := Vector.replicate 4 0, held := Vector.replicate 4 0, failsOut := 0, failsAt := 0, failsIn := 0, partial_ := [], wire := [], txDisp := Vector.replicate 4 false }

/-- A waiting packet that no longer lies in the receive buffer of a link. -/
def TxPacket.outOf (p : TxPacket) (l : Fin 16) : TxPacket := if p.from_ = some l then { p with from_ := none } else p

/-- A link goes to a state in which it carries nothing: what waited to leave it gives its receive buffer back, and what lay in its
own receive buffers lies there no longer. -/
def State.linkDrop (s : State) (l : Fin 16) (st : LlSt) (cause : Nat) : State :=
  let s := s.swarm.links[l.val].txq.foldl (fun s p => s.freeBuffer p) s
  let strip (k : Laravo) : Laravo := { k with txq := k.txq.map fun p => p.outOf l }
  let s := { s with swarm := { s.swarm with links := s.swarm.links.map strip } }
  (s.linkState l st cause).modLink l Laravo.cleared

end Sys2Proof.Machine
end

