-- ==== Sys2Proof/Machine/Operands.lean ====
section
/-! DEFINITION. The operand forms of the commands and the engine that every command goes through
(spec/02_command_interface.md, spec/19_command_reference.md): the fields of a parameter block, clamp or refuse, reserved
bits, the checks in their order, tags, scheduling, commit and reply. A command of the table is one `CmdDef`; its row runs
that definition and no other. -/

namespace Sys2Proof

/-- The number of words of a packet's parameter block. -/
def Pkt.blockLen (p : Pkt) : Nat := (p.length.toNat - 32) / 4

/-- The parameter block of a packet, as long as its length field says. -/
def Pkt.block (p : Pkt) : Words := (p.params ++ List.replicate (p.blockLen - p.params.length) 0).take p.blockLen

/-- Is a reserved bit of the header set, or is the execute-at nanosecond field out of range (header table of 02)? -/
def Pkt.headerBad (p : Pkt) : Bool :=
  p.flags.toNat ≥ 4 || p.rsv2 != 0 || Machine.bitsOf p.w5.toNat 30 2 != 0 || p.w6 != 0 || p.w7 != 0 ||
    decide (999999999 < Machine.bitsOf p.w5.toNat 0 30)

/-- The execute-at time in units of 2⁻³² ns; 0 means now. -/
def Pkt.execAt (p : Pkt) : Nat :=
  ((p.w3.toNat + Machine.bitsOf p.w4.toNat 0 16 * 4294967296) * 1000000000 + Machine.bitsOf p.w5.toNat 0 30) * 4294967296 +
    Machine.bitsOf p.w4.toNat 16 16 * 65536

/-- `LATE_OK`. -/
def Pkt.lateOk (p : Pkt) : Bool := p.flags.getLsbD 0
/-- `FENCE`. -/
def Pkt.fence (p : Pkt) : Bool := p.flags.getLsbD 1

/-- The eight header words of a packet. -/
def Pkt.header (p : Pkt) : Words :=
  [BitVec.ofNat 32 (p.opcode.toNat + p.flags.toNat * 2 ^ 16 + p.version.toNat * 2 ^ 24),
   BitVec.ofNat 32 (p.tag.toNat + p.length.toNat * 2 ^ 16),
   BitVec.ofNat 32 (p.target.toNat + p.unit.toNat * 2 ^ 8 + p.rsv2.toNat * 2 ^ 24), p.w3, p.w4, p.w5, p.w6, p.w7]

/-- The packet that a list of words holds (header table of 02); missing words read as zero. -/
def Pkt.ofWords (ws : Words) (host : Option Bytes) : Pkt :=
  let w (i : Nat) : Word := ws.getD i 0
  { opcode := (w 0).extractLsb' 0 16, flags := (w 0).extractLsb' 16 8, version := (w 0).extractLsb' 24 8
    tag := (w 1).extractLsb' 0 16, length := (w 1).extractLsb' 16 16
    target := (w 2).extractLsb' 0 8, unit := (w 2).extractLsb' 8 16, rsv2 := (w 2).extractLsb' 24 8
    w3 := w 3, w4 := w 4, w5 := w 5, w6 := w 6, w7 := w 7, params := ws.drop 8, host := host }

/-- Is a path the PCIe path? -/
def Path.isPcie : Path → Bool
  | .pcie => true
  | _ => false
/-- Is a path the I²C path? -/
def Path.isI2c : Path → Bool
  | .i2c => true
  | _ => false
/-- Is a path that of forwarded commands? -/
def Path.isFwd : Path → Bool
  | .fwd _ _ _ => true
  | _ => false

/-- Is a length field usable in itself: at least 32 and a multiple of 4 (R36)? -/
def Pkt.lengthUsable (p : Pkt) : Bool := 32 ≤ p.length.toNat && p.length.toNat % 4 = 0

/-- A packet's slots. -/
def Pkt.slots (p : Pkt) : Nat := Machine.ceilDiv p.length.toNat 32

end Sys2Proof

namespace Sys2Proof.Machine

/-! Status codes (02, R52). -/
abbrev Status := BitVec 16
def stDone : Status := 0x0000
def stClamped : Status := 0x0001
def stAlready : Status := 0x0002
def stAborted : Status := 0x0003
def stBadOpcode : Status := 0x0100
def stBadLength : Status := 0x0101
def stBadParam : Status := 0x0102
def stBadTarget : Status := 0x0103
def stBusy : Status := 0x0200
def stWrongMode : Status := 0x0201
def stNotReady : Status := 0x0202
def stNoBudget : Status := 0x0203
def stUnusable : Status := 0x0300
def stFenced : Status := 0x0301
def stFrozen : Status := 0x0302
def stAuth : Status := 0x0400
def stRegion : Status := 0x0401
def stRollback : Status := 0x0402
def stLocked : Status := 0x0403
def stWorn : Status := 0x0500
def stJump : Status := 0x0501
def stTagInUse : Status := 0x0502
def stTimeout : Status := 0x0503

/-- A refusal: the status and the parameter index of its reply (02, R35). -/
structure Verdict where
  status : Status
  idx    : Nat
  deriving DecidableEq, Repr

/-- How a field's value is held to its range (02, R38, R39). -/
inductive Range where
  /-- any value -/
  | any
  /-- a naming field: the values accepted; another refuses the command -/
  | names (ok : Nat → Bool)
  /-- a numeric field clamped between two limits -/
  | clamp (lo hi : Nat)
  /-- a signed numeric field clamped between two limits -/
  | sclamp (lo hi : Int)
  /-- a numeric field whose applied value the function gives -/
  | fit (f : Nat → Nat)

/-- A parameter field: its number, byte offset in the packet, first bit, width and range (19, R469). -/
structure Field where
  idx   : Nat
  off   : Nat
  lo    : Nat
  width : Nat
  range : Range

/-- First bit of a field, counted from byte 32 of the packet. -/
def Field.pos (f : Field) : Nat := (f.off - 32) * 8 + f.lo

/-- The field of `width` bits from bit `lo` at packet offset `off` of a parameter block. -/
def fld (ws : Words) (off lo width : Nat) : Nat :=
  let p := (off - 32) * 8 + lo
  bitsOf (wordsNum ((ws.drop (p / 32)).take ((p % 32 + width + 31) / 32))) (p % 32) width

/-- The words of a block from word `i` to the end. -/
def wordAt (ws : Words) (off : Nat) : Word := BitVec.ofNat 32 (fld ws off 0 32)

/-- A field of a block overwritten. -/
def setFld (ws : Words) (off lo width v : Nat) : Words :=
  let p := (off - 32) * 8 + lo
  let i := p / 32
  let k := (p % 32 + width + 31) / 32
  let old := wordsNum ((ws.drop i).take k)
  let new := old - (bitsOf old (p % 32) width) * 2 ^ (p % 32) + (v % 2 ^ width) * 2 ^ (p % 32)
  ws.take i ++ numWords (min k (ws.length - i)) new ++ ws.drop (i + k)

/-- The value a field is applied with. -/
def Field.applied (f : Field) (v : Nat) : Nat :=
  match f.range with
  | .any | .names _ => v
  | .clamp lo hi => clampNat lo hi v
  | .sclamp lo hi => unsignedOf f.width (clampInt lo hi (signedOf f.width v))
  | .fit g => g v

/-- Indices of the naming fields out of range (R35 step 5, R39). -/
def namingFails (fs : List Field) (ws : Words) : List Nat :=
  fs.filterMap fun f => match f.range with
    | .names ok => if ok (fld ws f.off f.lo f.width) then none else some f.idx
    | _ => none

/-- The bits of a block that fields cover. -/
def covered (fs : List Field) : Nat := fs.foldl (fun a f => a ||| ((2 ^ f.width - 1) <<< f.pos)) 0

/-- Indices that the reserved bits set in a block give: that of the nearest field before each (00, R4). The fields stand in
the order of their positions. -/
def gapFails (rsv : Nat) (len : Nat) : Nat → Nat → List Field → List Nat
  | idx, from_, [] => if bitsOf rsv from_ (len - from_) = 0 then [] else [idx]
  | idx, from_, f :: fs =>
    let rest := gapFails rsv len f.idx f.pos fs
    if bitsOf rsv from_ (f.pos - from_) = 0 then rest else idx :: rest

/-- Indices of the reserved bits set. -/
def reservedFails (fs : List Field) (ws : Words) : List Nat :=
  let n := wordsNum ws
  let rsv := n - (n &&& covered fs)
  if rsv = 0 then [] else gapFails rsv (32 * ws.length) 0 0 fs

/-- What a command's processing comes to: it commits with its results; it ends with another status, with or without the
echoed block; or it runs on and another row commits it. -/
inductive Act where
  | done (s : State) (result : Words)
  | close (s : State) (v : Verdict) (echo : Bool) (result : Words)
  | stay (s : State)

/-- A command of the index (19, R473): its code, the largest unit it names, its length, its fields, further naming checks,
the modes that accept it, steps 7 to 10 of R35, whether it is timed, whether its effect begins on acceptance (`WORK_START`,
R483), where its echo ends, what else a refusal by its checks does (an event, a status kept), and its effect. -/
structure CmdDef where
  code    : BitVec 16
  unitMax : Nat
  length  : Pkt → Nat
  fields  : Pkt → List Field
  naming  : State → Path → Pkt → List Nat
  header  : Pkt → Bool
  modes   : State → Pkt → Bool
  checks  : State → Job → Option Verdict
  early   : Bool
  echoEnd : Option Nat
  refused : Job → Verdict → State → State
  act     : Job → State → Act

/-! The mode sets of R473. -/
def modeAny (s : State) (_ : Pkt) : Bool := s.rsc.mode != .hibernate
def modeCtl (s : State) (_ : Pkt) : Bool :=
  s.rsc.mode = .safe || s.rsc.mode = .ready || s.rsc.mode = .run || s.rsc.mode = .maintain
def modeOps (s : State) (_ : Pkt) : Bool := s.rsc.mode = .ready || s.rsc.mode = .run || s.rsc.mode = .maintain
def modeSrm (s : State) (_ : Pkt) : Bool := s.rsc.mode = .safe || s.rsc.mode = .ready || s.rsc.mode = .maintain
def modeRr (s : State) (_ : Pkt) : Bool := s.rsc.mode = .ready || s.rsc.mode = .run
def modeMnt (s : State) (_ : Pkt) : Bool := s.rsc.mode = .maintain
def modeB01 (s : State) (_ : Pkt) : Bool := s.rsc.mode = .boot && s.rsc.bootsel = 1

/-- A definition with nothing beyond the common checks, from which the commands are built. -/
def CmdDef.plain (code : BitVec 16) (len : Nat) (modes : State → Pkt → Bool) (fields : List Field)
    (act : Job → State → Act) : CmdDef :=
  { code := code, unitMax := 0, length := fun _ => len, fields := fun _ => fields, naming := fun _ _ _ => []
    header := fun _ => false, modes := modes, checks := fun _ _ => none, early := false, echoEnd := none
    refused := fun _ _ s => s, act := act }

/-- The opcodes of the command index (19, R473): class and the number of commands in it. -/
def classSizes : List Nat := [6, 2, 5, 4, 8, 7, 3, 6, 3, 5, 6, 6, 5, 5, 6, 4, 8, 4]

/-- Is an opcode known? -/
def knownOpcode (op : BitVec 16) : Bool :=
  match classSizes[op.toNat / 256]? with
  | none => false
  | some n => op.toNat % 256 < n

/-- The first refusal of a list of checks. -/
def firstOf : List (Option Verdict) → Option Verdict
  | [] => none
  | some v :: _ => some v
  | none :: l => firstOf l

/-- A check that refuses when a condition holds. -/
def refuseIf (b : Bool) (st : Status) (idx : Nat := 0xFF) : Option Verdict := if b then some ⟨st, idx⟩ else none

/-- A parameter index as the reply's byte gives it (R469). -/
def idxByte (i : Nat) : Nat := if i < 253 then i else if i = 0xFE || i = 0xFF then i else 0xFD

/-- The parameter index of a field: one numbered 253 or above gives 0xFD (R469). -/
def fieldIdx (i : Nat) : Nat := min i 253

/-- `BUSY_RUNNING` with the lowest of the fields that touch a running function (R35 step 8). -/
def busyFields (l : List Nat) : Option Verdict := (leastOf l).map fun i => ⟨stBusy, fieldIdx i⟩

/-! Checks of a unit that a header names (R35 step 7): usable, not fenced, powered, in this order (log entry 17); then step 8
for a unit under test (17, R446). -/

/-- Step 7 for a comb die. -/
def checkDie (s : State) (d : Fin 4) : Option Verdict :=
  firstOf [refuseIf (s.dieMarked d) stUnusable, refuseIf s.net.dies[d.val].fenced stFenced,
    refuseIf (!s.dieOn d 0) stNotReady]

/-- Step 7 for a port group: its die, and the domain of its ports. -/
def checkGroup (s : State) (g : Fin 16) : Option Verdict :=
  firstOf [refuseIf (s.groupMarked g) stUnusable, refuseIf s.net.dies[(groupDie g).val].fenced stFenced,
    refuseIf (!(s.dieOn (groupDie g) 0 && s.pdOn (groupDomain g) && s.dieOn (groupDie g) 11 && s.clk.runs)) stNotReady,
    refuseIf (s.underTest (dieUnit (groupDie g) 7)) stBusy]

/-- Step 7 for a Worker: its die, and the domain of the Worker cores. -/
def checkWorker (s : State) (w : Fin 32) : Option Verdict :=
  firstOf [refuseIf (s.workerMarked w) stUnusable, refuseIf s.net.dies[(workerDie w).val].fenced stFenced,
    refuseIf (!(s.dieOn (workerDie w) 0 && s.dieOn (workerDie w) 8)) stNotReady,
    refuseIf (s.underTest (dieUnit (workerDie w) 6)) stBusy]

/-- Step 7 for a site: the Brood engine. -/
def checkBrood (s : State) : Option Verdict :=
  firstOf [refuseIf (s.unitMarked 4) stUnusable, refuseIf (!s.pdOn 14) stNotReady, refuseIf (s.underTest 4) stBusy]

/-- Step 7 for a Laravo link. -/
def checkLink (s : State) (l : Fin 16) : Option Verdict :=
  firstOf [refuseIf (s.linkMarked l) stUnusable, refuseIf (!(s.pdOn (if l.val < 8 then 4 else 5) && s.clk.runs)) stNotReady,
    refuseIf (s.underTest (if l.val < 8 then 11 else 12)) stBusy]

/-! Replies, tags and commit (R40, R41, R48). -/

/-- Do two keys name one command: the same tag on the same path, a forwarded one by its origin (R41, R326)? -/
def sameKey (a b : JobKey) : Bool :=
  a.tag = b.tag && match a.path, b.path with
    | .fwd o _ _, .fwd o' _ _ => o = o'
    | p, q => p = q

/-- Is a tag in use (R41)? -/
def State.tagUsed (s : State) (k : JobKey) : Bool :=
  s.queen.jobs.any (fun j => sameKey j.key k) ||
    (s.queen.replies ++ s.queen.i2cReplies).any fun r => r.holds && sameKey r.key k

/-- The tags in use on a path. A reply holds its tag until it is written (R41): on PCIe to the ring, on I²C, whose replies are
read, until the read at 0x81 that consumes it (DEDUCED, log entry 52). -/
def State.tagsOn (s : State) (on : Path → Bool) : Nat :=
  (s.queen.jobs.filter fun j => on j.key.path).length +
    ((s.queen.replies ++ s.queen.i2cReplies).filter fun r => r.holds && on r.key.path).length

/-- The scheduled commands that wait (R45). -/
def State.scheduledCount (s : State) : Nat :=
  (s.queen.jobs.filter fun j => match j.phase with | .scheduled _ => true | _ => false).length

/-- The words of a reply (reply header of 02, R40), the phase bit clear. -/
def replyWords (s : State) (opcode tag : BitVec 16) (st : Status) (idx : Nat) (late : Bool) (mask : BitVec 64)
    (body : Words) : Words :=
  let b := s.tb0
  [BitVec.ofNat 32 (opcode.toNat + st.toNat * 2 ^ 16),
   BitVec.ofNat 32 (tag.toNat + (32 + 4 * body.length) * 2 ^ 16),
   BitVec.ofNat 32 (idxByte idx + s.swarm.id.toNat * 2 ^ 8 + bitAt late 30),
   b.ns.setWidth 32, b.sec.setWidth 32, BitVec.ofNat 32 (b.sec.toNat / 2 ^ 32),
   mask.setWidth 32, BitVec.ofNat 32 (mask.toNat / 2 ^ 32)] ++ body

/-- A reply queued on its path: behind the PCIe replies or the I²C replies, into the mailbox, or back to the origin. -/
def State.pushReply (s : State) (k : JobKey) (holds : Bool) (words : Words) (after : After := .nothing) : State :=
  let due := if after = .nothing then s.queen.due else s.queen.due ++ [after]
  match k.path with
  | .pcie => { s with queen := { s.queen with replies := s.queen.replies ++ [⟨k, words, holds, after⟩] } }
  | .i2c => { s with queen := { s.queen with due := due, i2cReplies := s.queen.i2cReplies ++ [⟨k, words, holds, .nothing⟩] } }
  | .mailbox => { s with queen := { s.queen with due := due }, dbg := { s.dbg with mailbox := words, mailBusy := false } }
  | .fwd o l way => ({ s with queen := { s.queen with due := due } }).sendInnerReply o l way words

/-- The slots of a reply. -/
def Reply.slots (r : Reply) : Nat := ceilDiv r.words.length 8

/-- The job of a key. -/
def State.job? (s : State) (k : JobKey) : Option Job := s.queen.jobs.find? fun j => sameKey j.key k

/-- A job taken out. -/
def State.dropJob (s : State) (k : JobKey) : State :=
  { s with queen := { s.queen with jobs := s.queen.jobs.filter fun j => !sameKey j.key k } }

/-- The words of a parameter block that a reply echoes (R468). -/
def echoOf (echoEnd : Option Nat) (args : Words) : Words :=
  match echoEnd with
  | none => args
  | some e => args.take ((e - 32) / 4)

/-- The opcodes whose echo ends early (R468). -/
def echoEndOf (op : BitVec 16) : Option Nat :=
  if op = 0x0C04 then some 48 else if op = 0x1004 then some 56 else if op = 0x1000 then some 36 else none

/-- The mailbox is free again when its command, whose reply a TAP reset has emptied, ends (16, R444). -/
def State.mailDone (s : State) (k : JobKey) : State :=
  { s with dbg := { s.dbg with mailBusy := s.dbg.mailBusy && k.path != .mailbox } }

/-- Is a job a `SYS_ABORT` that waits for the commit of a command? -/
def Job.awaits (a : Job) (k : JobKey) : Bool :=
  match a.phase with
  | .awaiting t => sameKey ⟨a.key.path, t⟩ k
  | _ => false

/-- A job's reply is fixed and queued (R48); a reply that a PCIe reset has condemned is discarded (R26). A `SYS_ABORT` that
waited for this commit then commits: `DONE` when the command ended `ABORTED`, else `ALREADY_DONE` (R49; 19, R472). -/
def State.commitRaw (s : State) (j : Job) (st : Status) (idx : Nat) (mask : BitVec 64) (body : Words) : State :=
  let words := replyWords s j.p.opcode j.key.tag st idx j.late mask body
  let s := s.dropJob j.key
  let s := if j.discard then s.mailDone j.key else s.pushReply j.key true words j.after
  (s.queen.jobs.filter fun a => a.awaits j.key).foldl (fun s a =>
    let s := s.dropJob a.key
    if a.discard then s
    else s.pushReply a.key true
      (replyWords s a.p.opcode a.key.tag (if st = stAborted then stDone else stAlready) 0xFF a.late 0 a.args)) s

/-- Does a `SYS_ABORT` wait for a command to reach a safe point or its commit (R49)? -/
def State.abortAsked (s : State) (k : JobKey) : Bool :=
  s.queen.jobs.any fun a => a.awaits k

/-- A job commits `DONE`, or `DONE_CLAMPED` when a field was clamped, with its block as applied and its results (R40). -/
def State.commitDone (s : State) (j : Job) (result : Words) : State :=
  s.commitRaw j (if j.mask = 0 then stDone else stClamped) 0xFF j.mask (echoOf (echoEndOf j.p.opcode) j.args ++ result)

/-- A job ends with another status: with the block as applied and results (`TIMEOUT`, `NV_WORN`, `ABORTED` in progress,
R49, R52), or without a body. -/
def State.commitClose (s : State) (j : Job) (v : Verdict) (echo : Bool) (result : Words) : State :=
  if echo then s.commitRaw j v.status v.idx j.mask (echoOf (echoEndOf j.p.opcode) j.args ++ result)
  else s.commitRaw j v.status v.idx 0 result

/-- A job is refused: no body, clamp mask zero (R40). -/
def State.refuse (s : State) (j : Job) (v : Verdict) : State := s.commitRaw j v.status v.idx 0 []

/-- What a command's processing came to, carried out. -/
def finish (j : Job) : Act → State
  | .done s r => s.commitDone j r
  | .close s v e r => s.commitClose j v e r
  | .stay s => s

/-- The job of a key replaced. -/
def State.setJob (s : State) (j : Job) : State :=
  { s with queen := { s.queen with jobs := s.queen.jobs.map fun i => if sameKey i.key j.key then j else i } }

/-! The checks (R35). -/

/-- The clamp mask of a block: bit 63 stands for field 63 and above (R38, R469). -/
def clampMask (fs : List Field) (ws : Words) : BitVec 64 :=
  fs.foldl (fun m f =>
    let v := fld ws f.off f.lo f.width
    if f.applied v = v then m else m ||| (1#64 <<< min f.idx 63)) 0

/-- A block as applied (R38). -/
def appliedBlock (fs : List Field) (ws : Words) : Words :=
  fs.foldl (fun ws f =>
    let v := fld ws f.off f.lo f.width
    if f.applied v = v then ws else setFld ws f.off f.lo f.width (f.applied v)) ws

/-- Step 5: the lowest index that fails (R35, R4, R39). -/
def paramFails (d : CmdDef) (s : State) (path : Path) (p : Pkt) : Option Verdict :=
  if p.headerBad || d.header p then some ⟨stBadParam, 0xFE⟩
  else
    let fs := d.fields p
    (leastOf (namingFails fs p.block ++ reservedFails fs p.block ++ d.naming s path p)).map fun i => ⟨stBadParam, fieldIdx i⟩

/-- Does a target name this device (R33)? A forwarded packet's target is taken as this device's own (11). -/
def targetOk (s : State) (path : Path) (p : Pkt) : Bool :=
  path.isFwd || p.target = s.swarm.id || p.target = 0xFF

/-- Steps 2 to 6 of R35, which need only the packet, the path and the mode. -/
def packetCheck (d : CmdDef) (s : State) (path : Path) (p : Pkt) : Option Verdict :=
  firstOf
    [refuseIf (p.version != 1 || p.opcode != d.code) stBadOpcode 0xFE,
     refuseIf (!p.lengthUsable || p.length.toNat != d.length p) stBadLength 0xFE,
     refuseIf (!targetOk s path p || decide (d.unitMax < p.unit.toNat)) stBadTarget 0xFE,
     paramFails d s path p,
     refuseIf (!d.modes s p) stWrongMode]

/-- The job of a packet with its block as applied (R38). -/
def applyJob (d : CmdDef) (j : Job) : Job :=
  let fs := d.fields j.p
  { j with args := appliedBlock fs j.p.block, mask := clampMask fs j.p.block }

/-- Step 7 for the SEC and DBG commands, which the security controller and the debug engine in `PD02` execute (14, R390; 16,
R429). -/
def engineCheck (s : State) (p : Pkt) : Option Verdict :=
  refuseIf ((p.opcode.toNat / 256 = 0x0E || p.opcode.toNat / 256 = 0x10) && !s.pdOn 2) stNotReady

/-- Steps 2 to 10 of R35 for a job with its applied block. -/
def acceptCheck (d : CmdDef) (s : State) (j : Job) : Option Verdict :=
  match packetCheck d s j.key.path j.p with
  | some v => some v
  | none => firstOf [engineCheck s j.p, d.checks s (applyJob d j)]

/-- The lead a scheduled command needs: 5 µs (R44). -/
def leadUnits : Nat := 5000 * 4294967296

/-- The unit of a packet as a die's: Workers and groups by their numbers (00, R7; 19, R470). -/
def headerDie (per : Nat) (p : Pkt) : List (Fin 4) := if p.unit.toNat / per < 4 then [Fin.ofNat 4 (p.unit.toNat / per)] else []

/-- The dies of the Workers of a mask. -/
def maskDies (m : Nat) : List (Fin 4) := (allFin 4).filter fun d => bitsOf m (8 * d.val) 8 != 0

/-- The comb dies whose islands the requests of a command reach: those of the units that its class names (19, R470), or of
the Workers and groups in its masks. The debug engine reaches the Workers that its command names (16, R429). -/
def pktDies (p : Pkt) : List (Fin 4) :=
  match p.opcode.toNat / 256 with
  | 4 => if [0x0403, 0x0404, 0x0407].contains p.opcode.toNat then [Fin.ofNat 4 p.unit.toNat]
      else if p.opcode.toNat = 0x0405 && fld p.block 32 0 1 = 0 then [Fin.ofNat 4 (fld p.block 36 30 2)] else []
  | 5 => headerDie 4 p
  | 6 => if p.opcode.toNat = 0x0601 then (allFin 4).filter fun d => bitsOf (fld p.block 36 0 16) (4 * d.val) 4 != 0
      else headerDie 4 p
  | 7 => if [0x0700, 0x0704].contains p.opcode.toNat then headerDie 8 p
      else maskDies (fld p.block 32 0 32)
  | 16 => match p.opcode.toNat with
      | 0x1001 | 0x1002 => maskDies (fld p.block 32 0 32)
      | 0x1003 | 0x1004 => if fld p.block 32 0 2 = 1 then [Fin.ofNat 4 (fld p.block 32 16 5 / 8)] else []
      | 0x1005 | 0x1007 => headerDie 8 p
      | _ => []
  | _ => []

/-- A comb die whose clock has stopped and that the hive die has not fenced: a handshake into it waits (01, R11). -/
def State.dieStopped (s : State) (d : Fin 4) : Bool := s.dieOn d 0 && !s.net.dies[d.val].clockOn && !s.net.dies[d.val].fenced

/-- The device address that a command reads or writes as it runs, none where it names none: `WORK_LOAD`, `CFG_READBACK`,
`SEC_OWNER_ENROL`, `DBG_READ` and `DBG_WRITE`. -/
def pktAddress (p : Pkt) : Option Nat :=
  let b := p.block
  match p.opcode.toNat with
  | 0x0700 => if fld b 32 0 1 = 0 then some (fld b 40 0 64) else none
  | 0x0405 => if fld b 32 0 1 = 0 then some (fld b 48 0 48) else none
  | 0x0E01 => if fld b 32 8 1 = 0 then some (fld b 40 0 64) else none
  | 0x1003 | 0x1004 => if fld b 32 0 2 = 0 then some (fld b 40 0 64) else none
  | _ => none

/-- The comb die whose window holds a device address (02, R23). -/
def windowDie (a : Nat) : Option (Fin 4) :=
  if 0x200000000000 ≤ a ∧ a < 0x240000000000 then some (Fin.ofNat 4 (a / 0x10000000000)) else none

/-- The stopped die that a request of a command goes to, if any: that of a unit it names, or of the address it reads or writes. -/
def State.stuckAt (s : State) (p : Pkt) : Option (Fin 4) :=
  (pktDies p ++ ((pktAddress p).bind windowDie).toList).find? s.dieStopped

/-- Must the memory requests of a command wait: they go to HBM, and a rekey runs (09, R278)? -/
def State.waitsMemory (s : State) (p : Pkt) : Bool := s.mem.rekey.isSome && (pktAddress p).any fun a => decide (a < hbmBytes)

/-- A command runs its effect; one whose request goes to a comb die with a stopped clock waits for the handshake timeout, which
fences the die, and then replies `UNIT_FENCED` (01, R11; 10, R289), and one whose requests meet a rekey waits for its end (09,
R278). -/
def CmdDef.run (d : CmdDef) (j : Job) (s : State) : State :=
  match s.stuckAt j.p with
  | some x => s.setJob { j with phase := Phase.stuck x }
  | none =>
    if s.waitsMemory j.p then s.setJob { j with phase := Phase.memory }
    else
      let j := { j with phase := Phase.running }
      finish j (d.act j (s.setJob j))

/-- A command that holds its tag begins: its checks, then its schedule, then its effect (R35, R43 to R45, R334). A packet
that waits for its turn or behind a `FENCE` has steps 2 to 10 of R35 checked here, when it begins, and not when it is fetched
(DESIGN CHOICE, log entry 52). -/
def CmdDef.begin (d : CmdDef) (j : Job) (s : State) : State :=
  let no (v : Verdict) (j : Job) : State := (d.refused j v s).refuse j v
  match acceptCheck d s j with
  | some v => no v j
  | none =>
    let j := applyJob d j
    let at_ := j.p.execAt
    if at_ = 0 then d.run j s
    else if !s.tb0.set then no ⟨stNotReady, 0xFF⟩ j
    else if at_ < s.tb0.value + leadUnits then
      if j.p.lateOk then d.run { j with late := true } s else no ⟨stTimeout, 0xFF⟩ j
    else if 64 ≤ s.scheduledCount then no ⟨stNotReady, 0xFF⟩ j
    else
      let j := { j with phase := Phase.scheduled at_ }
      let s := s.setJob j
      if d.early then finish j (d.act j s) else s

/-- A fresh job for a packet on a path. -/
def Job.fresh (path : Path) (p : Pkt) : Job :=
  { key := ⟨path, p.tag⟩, p := p, phase := .waiting, args := [], mask := 0, late := false, discard := false, after := .nothing }

/-- A job enters the list of those that hold a tag. -/
def State.addJob (s : State) (j : Job) : State := { s with queen := { s.queen with jobs := s.queen.jobs ++ [j] } }

/-- Must a packet wait: behind a command of its path that waits for its turn, or behind its own `FENCE` (R34)? -/
def State.mustWait (s : State) (path : Path) (p : Pkt) : Bool :=
  s.queen.jobs.any (fun j => j.phase = .waiting && j.key.path = path) ||
    (p.fence && s.queen.jobs.any fun j => j.key.path = path)

/-- A packet taken from its path: the tag check (R35 step 1, R37), then the command waits or begins (R34). `SYS_ABORT` is
handled as soon as it is fetched. -/
def CmdDef.take (d : CmdDef) (path : Path) (p : Pkt) (s : State) : State :=
  let j := Job.fresh path p
  if s.tagUsed j.key then
    s.pushReply j.key false (replyWords s p.opcode p.tag stTagInUse 0xFF false 0 [])
  else if s.mustWait path p && d.code != 0x0003 then s.addJob j
  else d.begin j (s.addJob j)

/-! Fetching from the submission ring (R27, R28, R36, R42). -/

/-- Slots between head and doorbell. -/
def Hif.waitingSlots (h : Hif) : Nat := (h.subBell - h.subHead).toNat

/-- The Queen core serves commands: its firmware runs and is neither held after its watchdog nor halted by debug. -/
def Queen.serves (q : Queen) : Bool := q.up && !q.halted && !q.dbgHalt

/-- The Queen core may fetch a packet from the ring, which lies in host memory behind the PCIe link. -/
def State.canFetch (s : State) : Bool :=
  s.queen.serves && s.queenClocked && s.hif.pcieUp && s.hif.subEn && s.rsc.hib = .awake && decide (0 < s.hif.waitingSlots) &&
    decide (s.tagsOn Path.isPcie < 252)

/-- Is the length unusable (R36): below 32, not a multiple of 4, or longer than the slots that wait? -/
def State.unusable (s : State) (p : Pkt) : Bool := !p.lengthUsable || decide (s.hif.waitingSlots < p.slots)

/-- The head moves past a packet. -/
def State.consume (s : State) (p : Pkt) : State :=
  { s with hif := { s.hif with subHead := s.hif.subHead + BitVec.ofNat 32 p.slots } }

/-- What a packet of a bad length is refused with: an unknown version or opcode comes first (R35 steps 2 and 3). -/
def lengthStatus (p : Pkt) : Status :=
  if p.version != 1 || !knownOpcode p.opcode then stBadOpcode else stBadLength

/-- An unusable length: every slot up to the doorbell is discarded, `BAD_LENGTH` is replied under the packet's tag and
`SUB_RESYNC` is set (R36). A tag in use, and a wrong version or opcode, are reported before it (R35 steps 1 and 2). -/
def State.resync (s : State) (p : Pkt) : State :=
  let s := { s with hif := { s.hif with subHead := s.hif.subBell, subResync := true } }
  let k : JobKey := ⟨.pcie, p.tag⟩
  if s.tagUsed k then s.pushReply k false (replyWords s p.opcode p.tag stTagInUse 0xFF false 0 [])
  else s.pushReply k true (replyWords s p.opcode p.tag (lengthStatus p) 0xFE false 0 [])

/-- The Queen core takes a packet for the row of one command: while it cannot fetch, the packet waits in the ring; a packet
of another known command is another row's; a packet with an unknown opcode is refused with `BAD_OPCODE`. -/
def CmdDef.fetch (d : CmdDef) (p : Pkt) (s : State) : State :=
  if !s.canFetch then s
  else if s.unusable p then s.resync p
  else if p.opcode != d.code && knownOpcode p.opcode then s
  else d.take .pcie p (s.consume p)

end Sys2Proof.Machine
end

