-- ==== Sys2Proof/Machine/Readouts.lean ====
section
/-! DEFINITION. The status registers as they read: of the host interface and the rescue range
(spec/02_command_interface.md), of power (spec/14_power.md), of the root PLL (spec/13_clocks.md) and of the time bases
(spec/11_swarm_and_time.md). -/

namespace Sys2Proof.Machine

/-- `HIF_ID` (02, BAR0 register map): part 0x4128, silicon revision 1, interface version 1. -/
def hifId : Word := 0x41280101

/-- Free slots of the event ring. -/
def Hif.evtFree (h : Hif) : Nat := 2 ^ h.evtSize.toNat - (h.evtTail - h.evtBell).toNat
/-- Free slots of the reply ring. -/
def Hif.repFree (h : Hif) : Nat := 2 ^ h.repSize.toNat - (h.repTail - h.repBell).toNat

/-- Does a committed reply wait for space in the reply ring (R31)? The oldest stands for all: those behind it wait with it. -/
def State.replyWaits (s : State) : Bool :=
  match s.queen.replies with
  | [] => false
  | r :: _ => decide (s.hif.repFree < r.slots)

/-- An access of the host over PCIe: it reaches the device while the link is up (12, R354; 13, R375). -/
def State.overPcie (s t : State) : State := if s.hif.pcieUp then t else s

/-- `HIF_STATUS` (02). -/
def State.hifStatus (s : State) : Word := BitVec.ofNat 32
  (bitAt (s.hif.subEn && s.hif.repEn && s.hif.evtEn) 0 + bitAt s.queen.up 2 + bitAt s.queen.halted 3 +
   bitAt s.hif.subResync 4 + bitAt s.replyWaits 5 + bitAt (s.hif.evtFree = 0) 6 + bitAt s.rsc.errorN 7 +
   s.rsc.mode.code * 2 ^ 8)

/-- `HIF_TAGS` (02). -/
def State.hifTags (s : State) : Word := BitVec.ofNat 32 (s.tagsOn Path.isPcie % 256 + s.tagsOn Path.isI2c % 256 * 2 ^ 8)

/-- `RSC_STATUS` (02). -/
def State.rscStatus (s : State) : Word := BitVec.ofNat 32
  (s.rsc.mode.code + bitAt s.queen.up 3 + bitAt s.queen.halted 4 + bitAt s.rsc.errorN 5 + bitAt s.rsc.droopSeen 6 +
   bitAt s.clk.coast 7 + bitAt s.rsc.pecErr 8)

/-- `RSC_CAUSE` (02). -/
def State.rscCause (s : State) : Word := BitVec.ofNat 32 (s.rsc.cause.toNat + s.rsc.lastReset.toNat * 2 ^ 16)

/-- `RSC_BOOT` (02). -/
def State.rscBoot (s : State) : Word := BitVec.ofNat 32
  (s.rsc.bootsel.toNat + bitAt s.rsc.bootRecord 2 + bitAt s.rsc.golden 3 + s.rsc.bootStep.toNat * 2 ^ 8)

/-- The hottest of the average junction temperatures (14, R404). -/
def State.hottest (s : State) : Int :=
  s.pwr.temps.toList.foldl (fun a t => max a t.toInt) (s.pwr.temps[0].toInt)

/-- `RSC_VIN` (02). -/
def State.rscVin (s : State) : Word := BitVec.ofNat 32 (s.pwr.vin.toNat + unsignedOf 16 s.hottest * 2 ^ 16)

/-- Active bits of events `lo` to `lo + 31`, as `RSC_EVT_LO` and `RSC_EVT_HI` show them (02; 18, R460). -/
def State.evtActive (s : State) (lo : Nat) : Word :=
  BitVec.ofNat 32 (packBools (((s.ev.src.toList.drop lo).take 32).map (·.active)))

/-- Is a sensor at or above `TEMP_WARN` (14, `PWR_FLAGS.THERM`)? -/
def State.therm (s : State) : Bool := s.pwr.sensorHot.toList.any id

/-- `PWR_FLAGS` (14). -/
def State.pwrFlags (s : State) : Word := BitVec.ofNat 32
  (bitAt s.pwr.flagIlim 0 + bitAt s.pwr.flagBudget 1 + bitAt s.pwr.flagVin 2 + bitAt s.pwr.flagOv 3 +
   bitAt s.rsc.droopSeen 4 + bitAt s.therm 5)

/-- `TB_STATE` of a time base (11): the fields of `TB0` read their reset values in the others. -/
def State.tbState (s : State) (b : Fin 8) : Word :=
  let t := s.tb[b.val]
  let z := b.val = 0
  BitVec.ofNat 32 (bitAt t.set 0 + bitAt s.clk.coast 4 + (if z then s.servo.st.code else 0) * 2 ^ 5 +
    bitAt t.syncLost 10 + bitAt t.slewing 11 + (if z then s.servo.link.val else 0) * 2 ^ 12 +
    (if z then s.servo.stratum.toNat else 0xFF) * 2 ^ 24)

/-- The code of a PLL state (13, `CLK_PLL_STATE`). -/
def Pll.code : Pll → Nat
  | .off => 0 | .locking => 1 | .locked => 2 | .coasting => 3 | .ramping => 4

/-- `CLK_PLL_STATE` (13). -/
def State.pllState (s : State) : Word := BitVec.ofNat 32 (s.clk.pll.code + bitAt s.clk.refOk 3 + bitAt s.clk.coast 4)

/-- The code of a domain state (14, `PWR_DOMAIN_STATE`). -/
def DomSt.code : DomSt → Nat
  | .off => 0 | .ramping => 1 | .on => 2 | .retention => 3 | .fault => 4

/-- `PWR_DOMAIN_STATE` of a domain (14). -/
def State.domainState (s : State) (n : Fin 64) : Word :=
  let d := s.pwr.domains[n.val]
  BitVec.ofNat 32 (d.st.code + bitAt (s.domainMarked n) 3 + d.reserved * 2 ^ 16)

/-- The eight words of 256 truth values. -/
def bits256 (l : List Bool) : Words := numWords 8 (packBools l)

/-- The two words of a 64-bit value. -/
def word2 (n : Nat) : Words := numWords 2 n

/-- The words of a digest or of 64 zero bytes. -/
def measWords (m : Option Bytes) : Words :=
  match m with
  | some b => numWords 16 (bytesNum b)
  | none => List.replicate 16 0

end Sys2Proof.Machine
end

