-- ==== Sys2Proof/Machine/WorkerOps.lean ====
section
/-! DEFINITION. The Worker core (spec/03_worker_cores.md): its registers as its slots see them, the move slots, what every
bundle does beside its operation, the sequencing of branches and block repeats, faults, and the release of semaphores.
The operations themselves stand in WorkerAlu, WorkerFlow and WorkerVector. -/

namespace Sys2Proof.Machine

/-! Registers (register numbers; R62, R71). Codes below 64 are register numbers; 64 to 67 a whole accumulator, 68 the four
flags under a mask, 69 `LKF` set, 71 `OVS` set, 72 the restore of `rti`. -/

/-- The bits of `WSTAT` (its field table). -/
def Worker.wstat (w : Worker) (r : Regs) : Word := BitVec.ofNat 32
  (r.flags.toNat + bitAt r.ovs 4 + bitAt r.lkf 5 + bitAt r.mf 6 + bitAt r.ie 7 + bitAt r.inh 8 + w.reps.length * 2 ^ 9 +
   bitAt r.grace 12 + bitAt r.winWaited 13)

/-- What a write makes of an accumulator: `h` 16 to 19, `l` 20 to 23, `g` 24 to 27, the whole 64 to 67 (R62). -/
def accWritten (i : Nat) (a : BitVec 72) (code : Nat) (v : BitVec 72) : BitVec 72 :=
  let n := v.toNat
  if code = 16 + i then BitVec.ofInt 72 (signedOf 32 (n % 2 ^ 32) * 2 ^ 32)
  else if code = 20 + i then BitVec.ofNat 72 (a.toNat / 2 ^ 32 * 2 ^ 32 + n % 2 ^ 32)
  else if code = 24 + i then BitVec.ofNat 72 (a.toNat % 2 ^ 64 + n % 256 * 2 ^ 64)
  else if code = 64 + i then v
  else a

/-- A write of a data register, an accumulator, a pointer, a stride register or `WSTAT`: each register, field by field. -/
def Regs.applyData (r : Regs) (code : Nat) (v : BitVec 72) : Regs :=
  let n := v.toNat
  { r with
    d := if h : code < 16 then upd r.d ⟨code, h⟩ fun _ => BitVec.ofNat 32 n else r.d
    acc := Vector.ofFn fun i : Fin 4 => accWritten i.val r.acc[i.val] code v
    x := if h : 28 ≤ code ∧ code < 32 then upd r.x ⟨code - 28, by omega⟩ fun _ => BitVec.ofNat 16 n else r.x
    y := if h : 32 ≤ code ∧ code < 36 then upd r.y ⟨code - 32, by omega⟩ fun _ => BitVec.ofNat 16 n else r.y
    s := if h : 36 ≤ code ∧ code < 44 then upd r.s ⟨code - 36, by omega⟩ fun _ => BitVec.ofNat 16 n else r.s
    flags :=
      if code = 44 || code = 72 then BitVec.ofNat 4 n
      else if code = 68 then (r.flags &&& ~~~(BitVec.ofNat 4 (n / 16))) ||| BitVec.ofNat 4 (n % 16)
      else r.flags
    ie := if code = 44 || code = 72 then n.testBit 7 else r.ie
    inh := r.inh && code != 72
    lkf := if code = 44 then r.lkf && !n.testBit 5 else r.lkf || code = 69
    ovs := if code = 44 then r.ovs && !n.testBit 4 else r.ovs || code = 71
    grace := if code = 44 then r.grace && !n.testBit 12 else r.grace
    winWaited := if code = 44 then r.winWaited && !n.testBit 13 else r.winWaited }

/-- A write of a control register: numbers 45 to 63, field by field. -/
def Regs.applyCtl (r : Regs) (code n : Nat) : Regs :=
  { r with
    shift := if code = 45 then BitVec.ofNat 4 n else r.shift
    lowat := if code = 45 then BitVec.ofNat 6 (n / 2 ^ 8) else r.lowat
    ipc := if code = 47 then BitVec.ofNat 32 n else r.ipc
    ist := if code = 48 then BitVec.ofNat 32 n else r.ist
    wtimer := if code = 52 then BitVec.ofNat 32 n else r.wtimer
    wtimerRld := if code = 53 then BitVec.ofNat 32 n else r.wtimerRld
    wtimerCtrl := if code = 54 then BitVec.ofNat 2 n else r.wtimerCtrl
    wdog := if code = 57 && n.testBit 0 then r.wdogRld else r.wdog
    wdogRld := if code = 56 then BitVec.ofNat 32 n else r.wdogRld
    wdogCtrl := if code = 57 then BitVec.ofNat 2 n else r.wdogCtrl
    wien := if code = 58 then BitVec.ofNat 16 n else r.wien
    wipend := if code = 59 then r.wipend &&& ~~~(BitVec.ofNat 16 n) else r.wipend
    wfout := if code = 60 then BitVec.ofNat 32 n else r.wfout }

/-- A register whose readers all sit in the execute stage: its writes land when operations see them. DESIGN CHOICE: R77 does
not give the stage in which `rti` reads `IPC`; it reads it as an execute-stage reader, so a move's write of `IPC` shows to an
`rti` from the second bundle on (log entry 67). -/
def landsEarly (code : Nat) : Bool := 45 ≤ code && code < 64

/-- A write applied to the registers. A move's write of `WSTAT` writes the flags and `IE` and clears W1C bits where a one is
written (its field table). -/
def Regs.apply (r : Regs) (code : Nat) (v : BitVec 72) : Regs :=
  if landsEarly code then r.applyCtl code v.toNat else r.applyData code v

/-- The registers as operations and stores see them (R71). -/
def Worker.opView (w : Worker) : Regs := w.pend.foldl (fun r p => if p.late = 0 then r.apply p.reg p.val else r) w.regs

/-- The registers as branch conditions, `rep`, `jmpr` and addresses see them (R71). -/
def Worker.addrView (w : Worker) : Regs := w.pend.foldl (fun r p => if p.addr = 0 then r.apply p.reg p.val else r) w.regs

/-- The writes of a list, in program order, that land: those that every reader sees, until the first that some reader does
not see, and those of early landers; nothing behind a write that operations do not see lands. The registers, and the
writes left. -/
def landing (r : Regs) (kept : Bool) : List PendWrite → Regs × List PendWrite
  | [] => (r, [])
  | p :: l =>
    if p.late != 0 then (r, p :: l)
    else if landsEarly p.reg || (p.addr = 0 && !kept) then landing (r.apply p.reg p.val) kept l
    else
      let (r', l') := landing r true l
      (r', p :: l')

/-- The writes that land leave the list. -/
def Worker.land (w : Worker) : Worker :=
  let (r, l) := landing w.regs false w.pend
  { w with regs := r, pend := l }

/-- One bundle further: every distance falls by one (R71). -/
def Worker.agePend (w : Worker) : List PendWrite :=
  w.pend.map fun p => { p with late := p.late - 1, addr := p.addr - 1 }

/-- The pipeline drains: every write and store in it takes effect (R89, R431). -/
def State.drain (s : State) (w : Fin 32) : State :=
  let k := s.workers[w.val]
  let s := k.stores.foldl (fun s p => { s with mem := s.mem.putWord p.addr p.val }) s
  s.modWorker w fun k => { k with stores := [], pend := [], regs := k.pend.foldl (fun r p => r.apply p.reg p.val) k.regs }

/-- The value a slot reads from a register (register numbers; R62, R79). DESIGN CHOICE: register 63 is reserved; a move that
names it does not fault, reads 0 and writes nothing (log entry 67). -/
def State.readReg (s : State) (w : Fin 32) (r : Regs) (n : Nat) : Word :=
  let k := s.workers[w.val]
  if h : n < 16 then r.d[n]
  else if h : n - 16 < 4 then (accRead r.acc[n - 16] r.shift true).1
  else if h : n - 20 < 4 then (accRead r.acc[n - 20] r.shift false).1
  else if h : n - 24 < 4 then BitVec.ofInt 32 (signedOf 8 (r.acc[n - 24].toNat / 2 ^ 64))
  else if h : n - 28 < 4 then r.x[n - 28].setWidth 32
  else if h : n - 32 < 4 then r.y[n - 32].setWidth 32
  else if h : n - 36 < 8 then r.s[n - 36].signExtend 32
  else match n with
    | 44 => k.wstat r
    | 45 => BitVec.ofNat 32 (r.shift.toNat + r.lowat.toNat * 2 ^ 8)
    | 46 => match k.reps with
      | [] => 0
      | l :: _ => BitVec.ofNat 32 l.count
    | 47 => r.ipc
    | 48 => r.ist
    | 49 => k.cycl.setWidth 32
    | 50 => r.cych
    | 51 => r.wfault.setWidth 32
    | 52 => r.wtimer
    | 53 => r.wtimerRld
    | 54 => r.wtimerCtrl.setWidth 32
    | 55 => r.wdog
    | 56 => r.wdogRld
    | 57 => r.wdogCtrl.setWidth 32
    | 58 => r.wien.setWidth 32
    | 59 => r.wipend.setWidth 32
    | 60 => r.wfout
    | 61 => k.wfin
    | 62 => match workerGroup w with
      | some g => BitVec.ofNat 32 s.groups[g.val].run.fifo.length
      | none => 0
    | _ => 0

/-- Does a read of a register set `OVS` (R79)? -/
def readOvs (r : Regs) (n : Nat) : Bool :=
  if h : n < 16 then false
  else if h : n - 16 < 4 then (accRead r.acc[n - 16] r.shift true).2
  else if h : n - 20 < 4 then (accRead r.acc[n - 20] r.shift false).2
  else false

/-! The move slots (move slot layout; R64, R69, R70). -/

/-- A move slot: 20 bits, of the X or of the Y memory. -/
structure Slot20 where
  bits : Nat
  isX  : Bool
  deriving DecidableEq, Repr

/-- The kind field. -/
def Slot20.kind (m : Slot20) : Nat := bitsOf m.bits 17 3
/-- The mode field. -/
def Slot20.mode (m : Slot20) : Nat := bitsOf m.bits 13 2
/-- The pointer number. -/
def Slot20.ptr (m : Slot20) : Nat := bitsOf m.bits 15 2

/-- Are a slot's reserved bits zero and its kind defined (R68)? DESIGN CHOICE: R68 speaks of reserved bits; a reserved value
of a field, as the kinds 6 and 7, faults with 0x01 too (log entry 67). -/
def Slot20.legal (m : Slot20) : Bool :=
  match m.kind with
  | 0 => bitsOf m.bits 0 17 = 0
  | 1 | 2 => bitsOf m.bits 0 4 = 0
  | 3 | 5 => bitsOf m.bits 0 10 = 0
  | 4 => bitsOf m.bits 0 5 = 0
  | _ => false

/-- The access size in bytes. -/
def Slot20.size (m : Slot20) : Nat := if m.kind = 1 || m.kind = 2 then 4 else 16

/-- The pointer's value in a view. -/
def Slot20.ptrVal (m : Slot20) (r : Regs) : Nat :=
  ((at? (if m.isX then r.x else r.y) m.ptr).getD 0).toNat

/-- The stride register's value in a view. -/
def Slot20.stride (m : Slot20) (r : Regs) : Nat := ((at? r.s (bitsOf m.bits 10 3)).getD 0).toNat

/-- The address a slot accesses: the pointer, or in mode 3 the pointer plus the stride, wrapped at 16 bits. -/
def Slot20.addr (m : Slot20) (r : Regs) : Nat :=
  if m.mode = 3 then (m.ptrVal r + m.stride r) % 65536 else m.ptrVal r

/-- The pointer after the access, where the mode moves it. -/
def Slot20.post (m : Slot20) (r : Regs) : Option Nat :=
  if m.mode = 1 then some ((m.ptrVal r + m.size) % 65536)
  else if m.mode = 2 then some ((m.ptrVal r + m.stride r) % 65536)
  else none

/-- Does a slot access its memory? -/
def Slot20.accesses (m : Slot20) : Bool := m.kind = 1 || m.kind = 2 || m.kind = 3

/-- The fault of a slot's access: misaligned (R69), or into the enabled stream window (R64). DESIGN CHOICE: the spec does not
say which code an access takes that is both; 0x08 comes first (log entry 56). -/
def Slot20.fault (m : Slot20) (r : Regs) (window : Bool) : Option Nat :=
  if !m.accesses then none
  else if m.addr r % m.size != 0 then some 0x08
  else if m.isX && window && 0x8000 ≤ m.addr r then some 0x06
  else none

/-- Base of the memory that a slot reaches. -/
def Slot20.base (m : Slot20) (w : Fin 32) : Nat := if m.isX then xBase w else yBase w

/-- The register that a slot writes: that of a load, or the destination of a transfer. -/
def Slot20.dest (m : Slot20) : Option Nat :=
  if m.kind = 1 then some (bitsOf m.bits 4 6) else if m.kind = 4 then some (bitsOf m.bits 5 6) else none

/-- The register that a slot reads: that of a store, or the source of a transfer. -/
def Slot20.source (m : Slot20) : Option Nat :=
  if m.kind = 2 then some (bitsOf m.bits 4 6) else if m.kind = 4 then some (bitsOf m.bits 11 6) else none

/-- The number of the slot's pointer register. -/
def Slot20.ptrReg (m : Slot20) : Nat := (if m.isX then 28 else 32) + m.ptr

/-- The post-modifications of a bundle's two slots, made in the address stage; an explicit write of a pointer removes that
pointer's (R70). DESIGN CHOICE: the table of R71 holds a dash for a store or a transfer that reads a pointer; it sees the
post-modification in the next bundle, as an address does (log entry 56). -/
def movePosts (addr : Regs) (x y : Slot20) : List PendWrite :=
  let dests := [x.dest, y.dest].filterMap id
  [y, x].filterMap fun m =>
    if m.kind = 0 || m.kind = 4 || dests.contains m.ptrReg then none
    else (m.post addr).map fun v => (⟨m.ptrReg, BitVec.ofNat 72 v, 0, 0⟩ : PendWrite)

/-- What a slot writes to its destination register. -/
def Slot20.value (m : Slot20) (s : State) (w : Fin 32) (op addr : Regs) : Word :=
  if m.kind = 1 then s.mem.word (m.base w + m.addr addr) else s.readReg w op (bitsOf m.bits 11 6)

/-- The register writes of a bundle's two slots in the order in which they take effect: post-modifications, then Y, then X
(R70). -/
def moveWrites (s : State) (w : Fin 32) (op addr : Regs) (x y : Slot20) : List PendWrite :=
  let wr (m : Slot20) : List PendWrite := match m.dest with
    | none => []
    | some n => [⟨n, (m.value s w op addr).setWidth 72, 1, 3⟩]
  movePosts addr x y ++ (if x.dest = y.dest then [] else wr y) ++ wr x

/-- The stores of a bundle's two slots (R71). -/
def moveStores (s : State) (w : Fin 32) (op addr : Regs) (x y : Slot20) : List PendStore :=
  ([y, x].filter (·.kind = 2)).map fun m => ⟨m.base w + m.addr addr, s.readReg w op (bitsOf m.bits 4 6), 3⟩

/-- The side effects of a bundle's register reads: a read of `CYCL` latches `CYCH`; a scaled read may set `OVS`. -/
def State.readEffects (s : State) (w : Fin 32) (op : Regs) (x y : Slot20) : State :=
  let srcs := [x.source, y.source].filterMap id
  let s := if srcs.contains 49 then
    s.modWorker w fun k => { k with regs := { k.regs with cych := BitVec.ofNat 32 (k.cycl.toNat / 2 ^ 32) } } else s
  if srcs.any (readOvs op) then s.modWorker w fun k => { k with pend := k.pend ++ [⟨71, 0, 0, 2⟩] } else s

/-- Does an operation's write meet a move's write of the same register (R70)? -/
def overlaps (code : Nat) (dests : List Nat) : Bool :=
  if code < 64 then dests.contains code
  else if code < 68 then dests.contains (code - 48)
  else dests.contains 44

/-- An accumulator write with the parts that a move of the same bundle writes left as they were (R70). -/
def keepParts (r : Regs) (p : PendWrite) (dests : List Nat) : PendWrite :=
  if 64 ≤ p.reg ∧ p.reg < 68 then
    let n := p.reg - 64
    let old := ((at? r.acc n).getD 0).toNat
    let v := p.val.toNat
    let v := if dests.contains (20 + n) then v / 2 ^ 32 * 2 ^ 32 + old % 2 ^ 32 else v
    let v := if dests.contains (24 + n) then v % 2 ^ 64 + old / 2 ^ 64 * 2 ^ 64 else v
    { p with val := BitVec.ofNat 72 v }
  else p

/-! A bundle (R68, R73, R74). -/

/-- What an operation sees: the Worker, the bundle, and the two views of its registers. -/
structure Ctx where
  s    : State
  w    : Fin 32
  b    : Nat
  op   : Regs
  addr : Regs

/-- What an operation does: a fault code; a stall; its register writes; where control goes after two delay slots, and what
they do to the return stack; the bundle that follows at once in place of the next one; and its effect on the state. -/
structure OpOut where
  fault  : Option Nat := none
  stall  : Option Stall := none
  writes : List PendWrite := []
  jump   : Option (BitVec 15) := none
  turn   : StackTurn := .keep
  next   : Option (BitVec 15) := none
  post   : State → State := id

/-- The Worker of a context. -/
def Ctx.worker (c : Ctx) : Worker := c.s.workers[c.w.val]
/-- A field of the operation slot, by bundle bits. -/
def Ctx.f (c : Ctx) (lo width : Nat) : Nat := bitsOf c.b lo width
/-- A data register named by a field, as operations see it. -/
def Ctx.d (c : Ctx) (lo : Nat) : Word := (at? c.op.d (c.f lo 4)).getD 0
/-- A data register named by a field, as the address stage sees it. -/
def Ctx.da (c : Ctx) (lo : Nat) : Word := (at? c.addr.d (c.f lo 4)).getD 0

/-- The result of an operation in register `d` number `n`: visible to operations in the next bundle, to addresses in the
third (R71). -/
def resultIn (n : Nat) (v : Word) : PendWrite := ⟨n, v.setWidth 72, 0, 2⟩
/-- Flags written under a mask. -/
def flagsIn (mask : Nat) (f : BitVec 4) : PendWrite := ⟨68, BitVec.ofNat 72 (mask * 16 + (f.toNat &&& mask)), 0, 2⟩

/-- The bundle at an address of a Worker's program memory. -/
def State.bundleAt (s : State) (w : Fin 32) (pc : BitVec 15) : Nat := bytesNum (s.mem.read (progBase w + 8 * pc.toNat) 8)

/-- The opcodes that are control instructions, `rep` or `end`, which a delay slot may not hold (R73). -/
def isControl (opc : Nat) : Bool := opc = 0x20 || opc = 0x21 || opc = 0x22 || opc = 0x23 || opc = 0x24 || opc = 0x25 || opc = 0x01

/-- Does a Worker run the vector instructions: it has a port group, in waveform mode (R59, 05 R129)? -/
def State.vecLegal (s : State) (w : Fin 32) : Bool :=
  match workerGroup w with
  | some g => s.groups[g.val].mode = .waveform
  | none => false

/-- Is a `vwait` legal: its condition defined and open to this Worker, its argument in range (R59, R84)? -/
def vwaitLegal (vec : Bool) (cond arg : Nat) : Bool :=
  match cond with
  | 0 => arg = 0
  | 1 => vec && arg < 64
  | 2 | 3 => vec && arg = 0
  | 4 => arg < 16
  | 5 => arg < 2
  | _ => false

/-- Is the operation slot legal: a listed opcode with its reserved bits zero (R68, R59, R81, R84)? DESIGN CHOICE: the reserved
value 3 of the sign field of MAC faults with 0x01, as a reserved bit does (log entry 67). -/
def opLegal (vec : Bool) (b : Nat) : Bool :=
  let z (lo n : Nat) : Bool := bitsOf b lo n = 0
  let opc := bitsOf b 58 6
  if opc = 0x00 || opc = 0x01 || opc = 0x23 || opc = 0x33 then z 40 18
  else if 0x02 ≤ opc ∧ opc ≤ 0x0E then z 40 6 && (opc != 0x0A || z 54 4)
  else if opc = 0x0F then z 40 3
  else if opc = 0x10 then true
  else if opc = 0x11 then z 54 4
  else if opc = 0x12 then z 52 2
  else if opc = 0x18 then z 40 4 && bitsOf b 46 2 != 3
  else if opc = 0x19 then z 40 4 && bitsOf b 46 2 != 3 && z 56 1
  else if opc = 0x1A then z 40 12
  else if opc = 0x20 || opc = 0x21 then true
  else if opc = 0x22 then z 40 15
  else if opc = 0x24 then z 40 11
  else if opc = 0x25 then true
  else if opc = 0x28 then vec && z 40 1 && bitsOf b 41 2 < 2
  else if opc = 0x29 then vec && z 40 3
  else if opc = 0x2A then vec && z 40 1 && z 43 6 && bitsOf b 41 2 < 2
  else if opc = 0x2B then vec && z 40 10
  else if opc = 0x2C then vwaitLegal vec (bitsOf b 54 4) (bitsOf b 40 14)
  else if opc = 0x30 || opc = 0x31 then z 40 10
  else if opc = 0x32 then z 40 13
  else false

/-- The move slots of a bundle; an `ldi` bundle's X slot holds immediate bits and moves nothing (R69). -/
def slotsOf (b : Nat) : Slot20 × Slot20 :=
  (⟨if bitsOf b 58 6 = 0x12 then 0 else bitsOf b 20 20, true⟩, ⟨bitsOf b 0 20, false⟩)

/-- Are quad reads used as they must be: both moves with source 0 of `vec` and `vmatch`, else none (R69)? -/
def quadsOk (b : Nat) : Bool :=
  let (x, y) := slotsOf b
  let opc := bitsOf b 58 6
  if (opc = 0x28 || opc = 0x2A) && bitsOf b 41 2 = 0 then x.kind = 3 && y.kind = 3
  else x.kind != 3 && y.kind != 3

/-- The fault that decoding a bundle meets: illegal (R68), or a control instruction in a delay slot (R73). -/
def decodeFault (vec inDelay : Bool) (b : Nat) : Option Nat :=
  let (x, y) := slotsOf b
  if !(opLegal vec b && x.legal && y.legal && quadsOk b) then some 0x01
  else if inDelay && isControl (bitsOf b 58 6) then some 0x02
  else none

/-! Faults and semaphores (R86, R89). -/

/-- The semaphores a Worker owns. -/
def State.semsOf (s : State) (w : Fin 32) : List (Fin 256) :=
  (allFin 256).filter fun i => s.queen.sems[i.val] = some ⟨w.val, by omega⟩

/-- The hive releases every semaphore a Worker owns and raises `E041` for each (R86). -/
def State.releaseSems (s : State) (w : Fin 32) : State :=
  forAll (s.semsOf w) (fun i s =>
    ({ s with queen := { s.queen with sems := upd s.queen.sems i fun _ => none } }).raise 41 2 w.val (detail [(1, 1, i.val)])) s

/-- A `DBG_STEP` of a Worker ends: its command commits (16, R437). -/
def State.endStep (s : State) (w : Fin 32) : State :=
  let job := s.workers[w.val].dbg.stepJob
  let s := s.modWorker w fun x => { x with dbg := { x.dbg with stepJob := none, stepLeft := none } }
  match job.bind s.job? with
  | none => s
  | some j => s.commitDone j []

/-- A halt request of `DBG_HALT` to a Worker is settled: the Worker halted, or the request lapsed; a command whose Workers
have all settled commits with the mask halted (16, R431, R434). -/
def State.haltSettled (s : State) (w : Fin 32) (halted : Bool) : State :=
  let bit : BitVec 32 := 1#32 <<< w.val
  let l := s.dbg.haltJobs.map fun h =>
    if h.2.1.getLsbD w.val then (h.1, h.2.1 &&& ~~~bit, if halted then h.2.2 ||| bit else h.2.2) else h
  let s := { s with dbg := { s.dbg with haltJobs := l.filter (·.2.1 != 0) } }
  (l.filter (·.2.1 = 0)).foldl (fun s h => match s.job? h.1 with
    | some j => s.commitDone j [h.2.2]
    | none => s) s

/-- The stop of a Worker for `WORK_STOP` has completed; a command whose Workers have all stopped commits with the mask it
acted on (19, R485). -/
def State.stopSettled (s : State) (w : Fin 32) : State :=
  let bit : BitVec 32 := 1#32 <<< w.val
  let l := s.queen.stopJobs.map fun h => (h.1, h.2.1 &&& ~~~bit, h.2.2)
  let s := { s with queen := { s.queen with stopJobs := l.filter (·.2.1 != 0) } }
  (l.filter (·.2.1 = 0)).foldl (fun s h => match s.job? h.1 with
    | some j => s.commitDone j [h.2.2]
    | none => s) s

/-- A Worker leaves the running states: what debug and the pipeline held of it lapses. -/
def Worker.leave (k : Worker) (st : WSt) (stop : Nat) (pc : BitVec 15) : Worker :=
  { k with
    st := st, stop := BitVec.ofNat 4 stop, endPc := pc, delay := none, dying := none, stall := none, stopJob := false
    ended := false
    dbg := { k.dbg with haltReq := false, pending := false, lockWait := 0 } }

/-- The event of a Worker: ended 0, fault 1, halt 2, with the code and the bundle address (18, R464). -/
def State.workerEvent (s : State) (w : Fin 32) (sev reason code : Nat) (pc : BitVec 15) : State :=
  s.raiseDie (workerDie w) ⟨w.val % 8, by omega⟩ sev w.val (detail [(0, 1, reason), (1, 1, code), (2, 2, pc.toNat)])

/-- Entries that wait in a group that is DONE are discarded when its Worker leaves RUNNING and HALTED (04, R123). -/
def State.dropWaiting (s : State) (w : Fin 32) : State :=
  match workerGroup w with
  | none => s
  | some g => s.modGroup g fun x => if x.st = .done then { x with run := { x.run with fifo := [] } } else x

/-- Requests of commands to a Worker that has left RUNNING and HALTED are settled: a step ends, a halt lapses, a stop has
nothing more to wait for here (16, R434, R437; 19, R485). -/
def State.settled (s : State) (w : Fin 32) : State := ((s.endStep w).haltSettled w false).stopSettled w

/-- A Worker that has executed `end` enters ENDED (R90). -/
def State.endWorker (s : State) (w : Fin 32) : State :=
  let pc := s.workers[w.val].endPc
  let s := (s.drain w).modWorker w fun k => k.leave .ended 1 pc
  (((s.releaseSems w).workerEvent w 0 0 0 pc).dropWaiting w).settled w

/-- A program fault (R89): the Worker is FAULTED, its pipeline drains, its semaphores are released and its event raised. A
fault already met in the read stage is the one recorded. -/
def State.workerFault (s : State) (w : Fin 32) (found : Nat) : State :=
  let (code, pc) := s.workers[w.val].dying.getD (found, s.workers[w.val].pc)
  let s := s.drain w
  let s := s.modWorker w fun k =>
    { k.leave .faulted 2 pc with regs := { k.regs with wfault := BitVec.ofNat 8 code } }
  (((s.releaseSems w).workerEvent w 3 1 code pc).dropWaiting w).settled w

/-! Address comparators and buzz requests (16, R438, R439). -/

/-- A halt request reaches a Worker that is RUNNING; on another it has no effect (16, R434). Causes: CMD 0, COMP_HIT 1,
BUZZ 2, WDOG 3, STEP 4. -/
def State.requestHalt (s : State) (w : Fin 32) (cause : Fin 5) : State :=
  if s.workers[w.val].st = .running then
    s.modWorker w fun k => { k with dbg := { k.dbg with haltReq := true, causes := k.dbg.causes ||| (1#5 <<< cause.val) } }
  else s

/-- The members of a buzz group that a firing reaches: those of dies not fenced (16, R440). -/
def State.buzzMembers (s : State) (g : Fin 8) : List (Fin 32) :=
  (allFin 32).filter fun w => s.dbg.members[g.val].getLsbD w.val && !s.net.dies[(workerDie w).val].fenced

/-- A buzz group fires: every member receives a halt request and `E040` is raised with the group and the origin (16, R435,
R439). -/
def State.fireMembers (s : State) (g : Fin 8) (origin : Byte) : State :=
  (forAll (s.buzzMembers g) (fun w s => s.requestHalt w 2) s).raise 40 1 0 (detail [(0, 1, g.val), (1, 1, origin.toNat)])

/-- Groups that fire on this device are sent on every link whose `BUZZ_TX` is 1 (11, R329; 16, R439). -/
def State.fireGroups (s : State) (mask : Byte) : State :=
  if mask = 0 then s
  else
    let s := forAll ((allFin 8).filter fun g => mask.getLsbD g.val) (fun g s => s.fireMembers g s.swarm.id) s
    let seq := s.swarm.buzzSeq
    let out := (allFin 16).filter fun l => s.swarm.links[l.val].buzzTx && s.linkActive l
    let s := { s with swarm := { s.swarm with buzzSeq := seq + 1, buzzSeen := remember s.swarm.buzzSeen s.swarm.id seq } }
    out.foldl (fun s l => s.emitLink l (.buzz l mask s.swarm.id seq)) s

/-- Comparators of a Worker that match an access: space, address, and read (1) or write (2) (R438). -/
def Worker.matching (k : Worker) (space addr access : Nat) : List (Fin 8) :=
  (allFin 8).filter fun c =>
    let m := k.dbg.comps[c.val]
    m.en && m.space.toNat = space && (space = 0 || m.access = 0 || m.access.toNat = access) &&
      (BitVec.ofNat 16 addr &&& m.mask) = (m.addr &&& m.mask)

/-- Comparators that matched: the Worker is asked to halt, the lowest of them is recorded and their buzz groups fire; a Worker
that is halting already only gets the cause (R438). -/
def State.compHit (s : State) (w : Fin 32) (l : List (Fin 8)) : State :=
  match l with
  | [] => s
  | c :: _ =>
    let k := s.workers[w.val]
    let mask := l.foldl (fun m c => m ||| k.dbg.comps[c.val].buzz) 0#8
    if k.dbg.haltReq then s.requestHalt w 1
    else ((s.modWorker w fun k => { k with dbg := { k.dbg with comp := BitVec.ofNat 3 c.val } }).requestHalt w 1).fireGroups mask

/-! Sequencing (R73, R74). -/

/-- Is code at this depth and `INH` a repeat level's own code (R74)? -/
def RepLevel.own (l : RepLevel) (depth : Nat) (inh : Bool) : Bool := l.depth = depth && l.inh = inh

/-- After the bundle at `pc`: each level whose last bundle it is, as its own code, loops back or ends, the innermost first; a
level that does not end here stays, and the levels around it are looked at all the same. The bundle that follows, the levels
left, and whether an iteration of the innermost level ended with every level carrying `IB` (R76; `inner`: every level within
this one has ended). DESIGN CHOICE: execution past bundle 0x7FFF goes on at bundle 0 (log entry 56). -/
def repNext (pc : BitVec 15) (depth : Nat) (inh ended inner : Bool) : List RepLevel → BitVec 15 × List RepLevel × Bool
  | [] => (pc + 1, [], ended)
  | l :: rest =>
    if l.last = pc && l.own depth inh then
      let e := if inner then l.ib && rest.all (·.ib) else ended
      if 1 < l.count then (l.first, { l with count := l.count - 1 } :: rest, e) else repNext pc depth inh e inner rest
    else
      let (n, r, e) := repNext pc depth inh ended false rest
      (n, l :: r, e)

/-- Would a branch leave the innermost level's body although it is that level's own code lying in the body (R74)? -/
def leavesBody (k : Worker) (inh : Bool) (target : BitVec 15) : Bool :=
  match k.reps with
  | [] => false
  | l :: _ => l.own k.stack.length inh && l.first ≤ k.pc && k.pc ≤ l.last && !(l.first ≤ target && target ≤ l.last)

/-- The return stack behind the second delay slot of a taken control instruction: `call` pushes the bundle that follows the
slot, `ret` pops (R73). -/
def StackTurn.apply (t : StackTurn) (back : BitVec 15) (stack : List (BitVec 15)) : List (BitVec 15) :=
  match t with
  | .keep => stack
  | .push => back :: stack
  | .pop => stack.drop 1

/-- The program counter moves on: delay slots count down to their target, else repeats decide (R73, R74). A control
instruction opens two delay slots, whether it is taken or not. DESIGN CHOICE: the delay slots of a taken `call` or `ret` run
at the depth of the code that holds them, since the stack turns behind the second slot; and an operation that says what
follows it (`rep`) still ends an iteration of a body whose last bundle it is, whose first bundle then follows (log entry
56). -/
def Worker.advance (k : Worker) (inh control : Bool) (jump next : Option (BitVec 15)) (turn : StackTurn) : Worker :=
  let (seq, reps, it) := repNext k.pc k.stack.length inh false true k.reps
  match k.delay with
  | some d =>
    if d.left ≤ 1 then
      { k with
        pc := d.target.getD seq, stack := d.turn.apply seq k.stack, delay := none, reps := reps, slotPrev := true, iterEnd := it }
    else { k with pc := seq, reps := reps, delay := some { d with left := d.left - 1 }, slotPrev := true, iterEnd := it }
  | none =>
    if control then
      { k with
        pc := seq, reps := reps, delay := some { left := 2, target := jump, turn := turn }, slotPrev := true, iterEnd := it }
    else
      { k with
        pc := if seq = k.pc + 1 then next.getD seq else seq, reps := reps, slotPrev := false, iterEnd := it }

/-- Is an opcode one of the control instructions with delay slots (R73)? -/
def hasSlots (opc : Nat) : Bool := 0x20 ≤ opc && opc ≤ 0x24

/-! When a bundle may execute (R72, R75, R91, R431). -/

/-- Is an interrupt taken before the next bundle: enabled, not inhibited, a line pending and enabled, neither bundle of the
boundary in the range of a control instruction, and outside every repeat body but at an iteration boundary (R75, R76)? A
stalling `vwait` gives way outside delay slots (R84); every other stalled bundle has reached the address stage and completes
first (R77). A step takes none (16, R437). DESIGN CHOICE: code called from a body lies inside it, so no interrupt is taken
there (log entry 56). -/
def State.intDue (s : State) (w : Fin 32) : Bool :=
  let k := s.workers[w.val]
  let r := k.opView
  let open_ : Bool := match k.stall with
    | some (.vwait _ _) => true
    | some _ => false
    | none => !k.slotPrev && !hasSlots (bitsOf (s.bundleAt w k.pc) 58 6)
  r.ie && !r.inh && (r.wipend &&& r.wien) != 0 && k.delay = none && k.dying = none && k.dbg.stepLeft = none && open_ &&
    (k.reps.isEmpty || k.iterEnd)

/-- Does a halt take effect before the next bundle: requested, `end` not yet executed, no fault met, no delay slots open, no
semaphore owned (R431, R433, R434)? -/
def State.haltDue (s : State) (w : Fin 32) : Bool :=
  let k := s.workers[w.val]
  k.st = .running && !k.ended && k.dying = none && k.dbg.haltReq && k.delay = none && k.stall != some .fifo &&
    (s.semsOf w).isEmpty

/-- Has a halt waited 256 cycles for a semaphore that the Worker still owns, so that it is forced now (16, R433)? The
semaphores are released first, which the row LOCK_BROKEN does. -/
def State.lockDue (s : State) (w : Fin 32) : Bool :=
  let k := s.workers[w.val]
  k.st = .running && k.dbg.haltReq && decide (256 ≤ k.dbg.lockWait) && !(s.semsOf w).isEmpty

/-- Does a stop take effect before the next bundle (R91)? -/
def Worker.stopDue (k : Worker) : Bool := k.stopJob && k.delay = none && k.dying = none

/-- The Worker cores of a die are clocked and powered, and the die is neither fenced nor still to rejoin (01, R18). -/
def State.workerAlive (s : State) (w : Fin 32) : Bool :=
  let d := workerDie w
  s.dieOn d 0 && s.dieOn d 8 && s.net.dies[d.val].clockOn && !s.net.dies[d.val].fenced && !s.net.dies[d.val].rejoining &&
    s.rsc.hib = .awake

/-- May the Worker issue its next bundle? -/
def State.mayIssue (s : State) (w : Fin 32) : Bool :=
  let k := s.workers[w.val]
  k.st = .running && !k.ended && k.stall = none && s.workerAlive w && !s.haltDue w && !k.stopDue && !s.intDue w &&
    !(s.lockDue w && k.delay = none)

/-- After a bundle: a step counts it, and the step's last bundle asks for the halt (R437). -/
def State.countStep (s : State) (w : Fin 32) : State :=
  match s.workers[w.val].dbg.stepLeft with
  | none => s
  | some n =>
    let s := s.modWorker w fun k => { k with dbg := { k.dbg with stepLeft := some (n - 1), stepDone := k.dbg.stepDone + 1 } }
    if n ≤ 1 then s.requestHalt w 4 else s

/-- The register writes of a bundle in program order: its operation's, less what its moves discard, then its moves' (R70). -/
def State.bundleWrites (s : State) (c : Ctx) (o : OpOut) : List PendWrite :=
  let (x, y) := slotsOf c.b
  let dests := [x.dest, y.dest].filterMap id
  ((o.writes.filter fun p => !overlaps p.reg dests).map fun p => keepParts c.op p dests) ++ moveWrites s c.w c.op c.addr x y

/-- The comparators that a bundle's accesses match (16, R438). -/
def State.accessHits (s : State) (c : Ctx) : List (Fin 8) :=
  let (x, y) := slotsOf c.b
  let reads := [x, y].filter fun m => m.kind = 1 || m.kind = 3
  let hits := ([x, y].filter (·.accesses)).flatMap fun m =>
    s.workers[c.w.val].matching (if m.isX then 1 else 2) (m.addr c.addr) (if reads.contains m then 1 else 2)
  (allFin 8).filter fun i => hits.contains i

/-- A Worker one bundle further: its writes and stores on their way, and its sequencing. -/
def Worker.passed (k : Worker) (c : Ctx) (o : OpOut) (writes : List PendWrite) (stores : List PendStore) : Worker :=
  let k := { k with pend := k.agePend ++ writes, stores := stores }
  { k.land.advance c.op.inh (hasSlots (bitsOf c.b 58 6)) o.jump o.next o.turn with stall := none }

/-- A Worker goes on behind a bundle with these register writes and stores: everything on its way comes one bundle nearer, and
stores whose distance is spent reach the memory (R71). -/
def State.pass (s : State) (c : Ctx) (o : OpOut) (writes : List PendWrite) (stores : List PendStore) : State :=
  let aged := (s.workers[c.w.val].stores ++ stores).map fun p => { p with left := p.left - 1 }
  let s := s.modWorker c.w fun k => k.passed c o writes (aged.filter (·.left != 0))
  { s with mem := (aged.filter (·.left = 0)).foldl (fun m p => m.putWord p.addr p.val) s.mem }

/-- The moves, the operation's writes and the sequencing of a bundle that neither faults nor stalls. -/
def State.retire (s : State) (c : Ctx) (o : OpOut) : State :=
  let (x, y) := slotsOf c.b
  (s.readEffects c.w c.op x y).pass c o (s.bundleWrites c o) (moveStores s c.w c.op c.addr x y)

/-- A bundle that neither faults nor stalls; the one behind a fault met in the read stage is the Worker's last (R89). -/
def State.finishBundle (s : State) (c : Ctx) (o : OpOut) : State :=
  let t := ((o.post (s.retire c o)).compHit c.w (s.accessHits c)).countStep c.w
  if s.workers[c.w.val].dying.isSome then t.workerFault c.w 0 else t

/-- The operations, by their opcode. -/
abbrev OpMeaning := Ctx → OpOut

/-- The bundle that a Worker issues next. -/
def State.bundle (s : State) (w : Fin 32) : Nat := s.bundleAt w s.workers[w.val].pc

/-- What the operation of a Worker's next bundle reads. -/
def State.ctx (s : State) (w : Fin 32) : Ctx :=
  { s := s, w := w, b := s.bundle w, op := s.workers[w.val].opView, addr := s.workers[w.val].addrView }

/-- The fault of a Worker's next bundle before its operation: decoding, then the X slot, then the Y slot (R64, R68, R69,
R73). -/
def State.bundleFault (s : State) (w : Fin 32) : Option Nat :=
  let k := s.workers[w.val]
  decodeFault (s.vecLegal w) k.delay.isSome (s.bundle w) <|>
    (slotsOf (s.bundle w)).1.fault k.addrView k.window.en <|> (slotsOf (s.bundle w)).2.fault k.addrView false

/-- A Worker holds its bundle back (R72). -/
def Worker.stalledOn (k : Worker) (x : Stall) : Worker :=
  { k with stall := some x, regs := if x = .window then { k.regs with winWaited := true } else k.regs }

/-- Fault codes that the read stage meets: a window read past the end, an uncorrectable error of X or Y, a failed half. -/
def readFault (f : Nat) : Bool := f = 0x07 || f = 0x09 || f = 0x0C

/-- A bundle meets a fault in the read stage (R89): of its own effects only the pointers that it moved in the address stage
stand; the bundle behind it has reached the address stage and completes, one bundle further, before the Worker is FAULTED.
DEDUCED: the window is read in the read stage, as memory is (log entry 56). -/
def State.readFaulted (s : State) (c : Ctx) (o : OpOut) (f : Nat) : State :=
  let (x, y) := slotsOf c.b
  let pc := s.workers[c.w.val].pc
  if s.workers[c.w.val].dying.isSome then s.workerFault c.w f
  else (s.pass c o (movePosts c.addr x y) []).modWorker c.w fun k => { k with dying := some (f, pc) }

/-- A bundle faults, stalls or executes. -/
def State.perform (s : State) (w : Fin 32) (m : OpMeaning) : State :=
  match s.bundleFault w with
  | some f => s.workerFault w f
  | none =>
    match (m (s.ctx w)).fault, (m (s.ctx w)).stall with
    | some f, _ => if readFault f then s.readFaulted (s.ctx w) (m (s.ctx w)) f else s.workerFault w f
    | none, some x => s.modWorker w fun k => k.stalledOn x
    | none, none => s.finishBundle (s.ctx w) (m (s.ctx w))

/-- A bundle whose operands meet an uncorrectable error of X or Y (R63), unless an earlier stage faults it first. -/
def State.performBad (s : State) (w : Fin 32) (m : OpMeaning) : State :=
  match s.bundleFault w <|> (m (s.ctx w)).fault.filter (fun f => !readFault f) with
  | some f => s.workerFault w f
  | none => s.readFaulted (s.ctx w) (m (s.ctx w)) 0x09

/-- A bundle executes unless a memory error that cannot be corrected faults the Worker (R63): an error of program memory (0)
is met in the fetch stage, one of X (1) or Y (2) in the read stage (R89). -/
def State.performEcc (s : State) (w : Fin 32) (e : WEcc) (m : OpMeaning) : State :=
  match e with
  | .ok => s.perform w m
  | .ce => (s.modWorker w fun k => { k with memCe := satAdd k.memCe 1 }).perform w m
  | .ue mem addr =>
    let s := s.raiseDie (workerDie w) 37 3 w.val (detail [(0, 1, mem.val), (2, 2, addr.toNat)])
    if mem = 0 then s.workerFault w 0x09 else s.performBad w m

/-- A bundle issues: a program comparator that matches asks for a halt, which may take effect before the bundle (16, R438). -/
def State.issue (s : State) (w : Fin 32) (e : WEcc) (m : OpMeaning) : State :=
  let k := s.workers[w.val]
  let hits := if k.stall = none then k.matching 0 k.pc.toNat 1 else []
  if hits.isEmpty then s.performEcc w e m
  else
    let s := s.compHit w hits
    if s.haltDue w then s else s.performEcc w e m

/-- The row of one operation: the Worker's next bundle, when it may issue and holds this opcode. -/
def State.runOp (s : State) (w : Fin 32) (e : WEcc) (opc : Nat) (m : OpMeaning) : State :=
  if s.mayIssue w && bitsOf (s.bundle w) 58 6 = opc then s.issue w e m else s

end Sys2Proof.Machine
end

