-- ==== Sys2Proof/Machine/GroupOps.lean ====
section
/-! DEFINITION. A port group at play (spec/04_timing_and_vectors.md): codes and edges of a vector word, the transitions and
compares of a play, halts and stops, and the fail records of a test cycle (spec/06_fail_capture_and_repair.md, R164 to
R175). Times are in timing units of the root count. -/

namespace Sys2Proof.Machine

/-- An interrupt line of a Worker becomes pending (03, interrupt lines). -/
def State.pendLine (s : State) (w : Fin 32) (line : Nat) : State :=
  s.modWorker w fun k => { k with regs := { k.regs with wipend := k.regs.wipend ||| BitVec.ofNat 16 (2 ^ line) } }

/-- The present time in timing units of the root count (13, R370). -/
def State.nowTu (s : State) : Int := (s.clk.ticks * 256 : Nat)

/-- The groups of a die are clocked and powered, and the die is neither fenced nor still to rejoin (10, R304; 01, R18). -/
def State.groupAlive (s : State) (g : Fin 16) : Bool :=
  let d := groupDie g
  s.dieOn d 0 && s.dieOn d 11 && s.net.dies[d.val].clockOn && !s.net.dies[d.val].fenced && !s.net.dies[d.val].rejoining &&
    s.rsc.hib = .awake

/-! Codes and edges (R97 to R107). -/

/-- The period of a timing set (R95). -/
def TimingSet.periodTu (t : TimingSet) : Nat := if t.period = 0 then 4294967296 else t.period.toNat
/-- Test cycles of a word in the format of a timing set (R99, R100). -/
def TimingSet.cycles (t : TimingSet) : Nat := if t.fast then 16 else 8
/-- The time of edge `e` of pin `p`. -/
def TimingSet.edge (t : TimingSet) (p e : Nat) : Nat := ((at? t.edges (4 * p + e)).getD 0).toNat

/-- The code of a word for a cycle and a pin, as a normal code (R99, R100). -/
def wordCode (fast : Bool) (word : BitVec 256) (c p : Nat) : Nat :=
  let i := 8 * c + p
  if fast then
    match bitsOf word.toNat (2 * i) 2 with
    | 0 => 0 | 1 => 1 | 2 => 8 | _ => 9
  else bitsOf word.toNat (4 * i) 4

/-- The code that a pin plays in a cycle, and whether a reserved or unusable code was played as DK (R101, R107). -/
def Group.code (g : Group) (fast : Bool) (word : BitVec 256) (tap : Option TapSample) (c p : Nat) : Nat × Bool :=
  let own := wordCode fast word c p
  let raw : Nat × Bool :=
    match tap with
    | none => if g.tapMask.getLsbD p || (!fast && own = 0xE) then (3, true) else (own, false)
    | some x =>
      let ev := wordCode fast x.ev c p
      if g.tapMask.getLsbD p || (!fast && own = 0xE) then (if !fast && ev = 0xE then (3, true) else (ev, false))
      else (own, false)
  if raw.1 = 6 || raw.1 = 7 then (3, true) else raw

/-- What a code does (R101): TXE at drive B, TX at drive A, TX at return, and whether it compares. -/
def codeActs (c : Nat) : Option Bool × Option Bool × Option Bool × Bool :=
  match c with
  | 0 => (some true, some false, none, false)
  | 1 => (some true, some true, none, false)
  | 2 => (some false, none, none, false)
  | 4 => (some true, some true, some false, false)
  | 5 => (some true, some false, some true, false)
  | 8 | 9 | 10 | 12 | 13 => (some false, none, none, true)
  | _ => (none, none, none, false)

/-- Does a compare use `RXL` for its time (CL, WL)? -/
def usesRxl (c : Nat) : Bool := c = 8 || c = 12
/-- Is a compare a window compare (R105)? -/
def isWindow (c : Nat) : Bool := c = 12 || c = 13

/-- The last sample of a compare from its strobe and return times (R105): windows sample every 128 timing units, which is
31.25 ps. -/
def lastSample (c : Nat) (strobe ret : Int) : Int :=
  if isWindow c && decide (strobe < ret) then strobe + 128 * ((ret - strobe - 1) / 128) else strobe

/-- The compare that a code asks for, from its nominal strobe and return times (R101, R105, R125): each comparator is sampled
at its own effective time. -/
def compareOf (code : Nat) (strobe ret rx rxl : Int) (cycle : Nat) (word : Option (Nat × Nat)) : Compare :=
  let o := if usesRxl code then rxl else rx
  { code := BitVec.ofNat 4 code
    rxAt := if usesRxl code then none else some (strobe + rx)
    rxlAt := if usesRxl code || code = 10 then some (strobe + rxl) else none
    last := lastSample code (strobe + o) (ret + o)
    failed := false, cycle := cycle, word := word, fail := none }

/-- The time of a compare's next sample. -/
def Compare.time (a : Compare) : Int :=
  match a.rxAt, a.rxlAt with
  | some t, some u => min t u
  | some t, none => t
  | none, some u => u
  | none, none => a.last

/-! A play (R94, R102, R105, R114). -/

/-- The codes of the eight pins of a cycle. -/
def Group.codes (g : Group) (fast : Bool) (word : BitVec 256) (tap : Option TapSample) (c : Nat) : List (Nat × Bool) :=
  (List.range 8).map fun p => g.code fast word tap c p

/-- What a pin's queues gain from one cycle. -/
def Pin.addCycle (q : Pin) (t : TimingSet) (p code : Nat) (start : Int) (cycle : Nat) (word : Option (Nat × Nat)) : Pin :=
  let (b, a, r, cmp) := codeActs code
  let at_ (e o : Nat) : Int := start + t.edge p e + ((at? q.offsets o).getD 0)
  let tr (v : Option Bool) (e o : Nat) (ret : Bool) : List Trans := match v with
    | none => []
    | some v => [{ time := at_ e o, value := v, cycle := cycle, ret := ret }]
  let off (o : Nat) : Int := (at? q.offsets o).getD 0
  let f := q.fmt
  { q with fmt := { f with
      txq := f.txq ++ tr a 0 0 false ++ tr r 2 0 true
      txeq := f.txeq ++ tr b 1 1 false
      strobes := if cmp then
        f.strobes ++ [compareOf code (start + t.edge p 3) (start + t.edge p 2) (off 2) (off 3) cycle word] else f.strobes } }

/-- The queues of the pins after the cycles of a play from cycle `c` upwards. -/
def Group.addCycles (g : Group) (t : TimingSet) (codes : Nat → List (Nat × Bool)) (b : Int) (first : Nat)
    (word : Option (Nat × Nat)) : Nat → Nat → Vector Pin 8 → Vector Pin 8
  | 0, _, pins => pins
  | k + 1, c, pins =>
    let l := codes c
    let pins := Vector.ofFn fun p : Fin 8 =>
      (pins[p.val]).addCycle t p.val (l.getD p.val (3, false)).1 (b + c * t.periodTu) (first + c) word
    g.addCycles t codes b first word k (c + 1) pins

/-- The total plays of an entry that are decided so far: those of a match word grow with its decisions (R81, R110). -/
def Run.decided (r : Run) (e : Entry) : Nat × Bool :=
  match e.match_ with
  | none => (e.plays, true)
  | some i => match r.matches_.find? (·.id = i) with
    | none => (e.plays, true)
    | some m => (m.decided, m.ended)

/-- What can start at the group's next boundary (R114): another play of the current entry; nothing yet, as the decision
for the match word has not fallen; the next entry; or nothing, as no entry is available. -/
inductive NextPlay where
  | again (e : Entry)
  | undecided
  | fresh (e : Entry)
  | none_
  deriving DecidableEq, Repr

/-- The next entry, if it is available at an instant (R114). -/
def Run.head (r : Run) : NextPlay :=
  match r.fifo with
  | [] => .none_
  | e :: _ => if e.ready ≤ r.nextAt then .fresh e else .none_

/-- What can start at the group's next boundary. -/
def Run.next (r : Run) : NextPlay :=
  match r.cur with
  | none => r.head
  | some e =>
    let (n, ended) := r.decided e
    if r.plays < n then .again e else if ended then r.head else .undecided

/-- The test cycle in progress at a time: of the play begun last, or the cycle before it where its start is still to come. -/
def Run.cycleAt (r : Run) (now : Int) : Nat :=
  if now < r.playAt then r.playCycle - 1
  else r.playCycle + min (r.playLen - 1) ((now - r.playAt).toNat / max 1 r.period)

/-- The test cycle in progress now; in a halt, that of its boundary H (R121). -/
def Run.cycleNow (r : Run) (now : Int) : Nat := r.cycleAt (r.haltAt.getD now)

/-- `PG_STATUS.BAD_CODE`: a reserved or unusable code was played, which it is once its test cycle has begun. -/
def Group.badSeen (x : Group) (now : Int) : Bool := x.badCode || x.run.badAt.any (decide <| · ≤ x.run.cycleNow now)

/-- Cycles with such a code that have begun are told by the flag alone. -/
def Group.settleBad (x : Group) (now : Int) : Group :=
  { x with badCode := x.badSeen now, run := { x.run with badAt := x.run.badAt.filter (decide <| x.run.cycleNow now < ·) } }

/-- A play of an entry starts at the next boundary (R93 to R114). DESIGN CHOICE: the spec ties the arrival of a play's result
to its last fail bit, and a play of a match word without a compare has none; its pass counts from the start of the play
(log entry 57). -/
def State.beginPlay (s : State) (g : Fin 16) (e : Entry) (fresh : Bool) : State :=
  let x := (s.groups[g.val]).settleBad s.nowTu
  let r := x.run
  let t := x.sets[e.set.val]
  let tap := if x.tapEn then r.tapGot.head? else none
  let n := t.cycles
  let b := r.nextAt
  let first := r.nextCycle
  let codes (c : Nat) := x.codes t.fast e.word tap c
  let word := e.match_.map fun i => (i, first)
  let bad := ((List.range n).filter fun c => (codes c).any (·.2)).map (first + ·)
  let cmps (c : Nat) : Nat := ((codes c).filter fun k => (codeActs k.1).2.2.2).length
  let total := ((List.range n).map cmps).foldl (· + ·) 0
  let cyc : BitVec 48 := BitVec.ofNat 48 first
  let opens : List OpenCycle := if e.match_.isSome then [] else
    (List.range n).filterMap fun c =>
      if cmps c = 0 then none
      else some { cycle := first + c, left := cmps c, pins := 0, window := 0, addr := (tap.map (·.addr)).getD 0
                  data := (tap.map (·.data)).getD 0, tap := x.tapEn }
  let ms := r.matches_.map fun m =>
    if e.match_ = some m.id then
      { m with plays := m.plays ++ [{ cycle := first, left := total, failed := false, masks := 0 }]
               passed := m.passed || decide (total = 0) }
    else m
  let ms := if fresh then ms.filter fun m => !(m.resolved && m.ended && e.match_ != some m.id) else ms
  let x := { x with
    st := .playing
    cycle := cyc + BitVec.ofNat 48 (n - 1)
    pins := x.addCycles t codes b first word n 0 x.pins
    fail := { x.fail with open_ := x.fail.open_ ++ opens }
    run := { r with
      fifo := if fresh then r.fifo.drop 1 else r.fifo
      cur := some e
      plays := if fresh then 1 else r.plays + 1
      lastSet := e.set
      nextAt := b + n * t.periodTu
      nextCycle := first + n
      playAt := b, playCycle := first, playLen := n, period := t.periodTu, idleNow := false
      tapAhead := r.tapAhead - 1, tapGot := r.tapGot.drop 1, badAt := r.badAt ++ bad
      matches_ := ms
      marks := match fresh, e.mark with
        | true, some v => r.marks ++ [(v, cyc)]
        | _, _ => r.marks } }
  let s := s.modGroup g fun _ => x
  let w := groupWorker g
  let k := s.workers[w.val]
  if fresh && decide (x.run.fifo.length ≤ k.opView.lowat.toNat) then s.pendLine w 2 else s

/-- Is a play's tap sample at hand, where taps are active (R106)? -/
def Group.tapReady (x : Group) : Bool := !x.tapEn || !x.run.tapGot.isEmpty

/-! Underruns, halts and stops (R119 to R123). -/

/-- `PG_CYCLE` (R118): the number of the test cycle in progress, or of the last one where none is. -/
def Group.pgCycle (x : Group) (now : Int) : BitVec 48 :=
  if (x.st = .playing || x.st = .underrun || x.st = .halted) && !x.run.stopping then BitVec.ofNat 48 (x.run.cycleNow now)
  else x.cycle

/-- Cycles after `c` are dropped from a pin's queues (R122). -/
def Pin.trim (q : Pin) (c : Nat) : Pin :=
  { q with fmt := { q.fmt with
      txq := q.fmt.txq.filter (·.cycle ≤ c), txeq := q.fmt.txeq.filter (·.cycle ≤ c)
      strobes := q.fmt.strobes.filter (·.cycle ≤ c) } }

/-- Everything with a time at or after `h` moves by `len` (R121): of a window under way, the samples still to come. -/
def Pin.delay (q : Pin) (h len : Int) : Pin :=
  let mv (t : Int) : Int := if h ≤ t then t + len else t
  { q with fmt := { q.fmt with
      txq := q.fmt.txq.map fun t => { t with time := mv t.time }
      txeq := q.fmt.txeq.map fun t => { t with time := mv t.time }
      strobes := q.fmt.strobes.map fun a => if a.fail.isSome then a else
        { a with rxAt := a.rxAt.map mv, rxlAt := a.rxlAt.map mv, last := mv a.last } } }

/-- Are all the queues of a group empty: no transition, sample or fail bit is still to come? -/
def Group.drained (x : Group) : Bool :=
  x.pins.toList.all (fun q => q.fmt.txq.isEmpty && q.fmt.txeq.isEmpty && q.fmt.strobes.isEmpty) && x.fail.open_.isEmpty

/-- A halt of the Worker takes hold of its group (R121). -/
def Group.halt (x : Group) (now : Int) : Group :=
  if x.st = .playing || x.st = .underrun then
    let r := x.run
    { x with st := .halted, run := { r with haltAt := some now
                                            haltCycle := r.haltCycle <|> some (r.cycleAt now) } }
  else x

/-- The end of a halt (R121): the test cycle in progress at H is stretched, and every later boundary moves with it. -/
def Group.unhalt (x : Group) (now : Int) : Group :=
  match x.run.haltAt with
  | none => x
  | some h =>
    let len := now - h
    { x with
      st := if x.run.idleNow then .underrun else .playing
      pins := x.pins.map fun q => q.delay h len
      run := { x.run with
        haltAt := none, playAt := x.run.playAt + len
        nextAt := if h ≤ x.run.nextAt then x.run.nextAt + len else x.run.nextAt } }

/-- The compares of a play of a match word that fall after cycle `c`. -/
def Group.cutOff (x : Group) (id first c : Nat) : Nat :=
  ((x.pins.toList.map fun q =>
    (q.fmt.strobes.filter fun a => a.word = some (id, first) && decide (c < a.cycle)).length)).foldl (· + ·) 0

/-- A match word after a stop in cycle `c` (R111, R122): its plays begun stand, and the results of their compares up to `c` are
still to come. DESIGN CHOICE: a play cut short before its last compare does not pass (log entry 57). -/
def Group.cutMatch (x : Group) (c : Nat) (m : MatchSt) : MatchSt :=
  let plays := (m.plays.filter (·.cycle ≤ c)).map fun q =>
    let n := x.cutOff m.id q.cycle c
    if n = 0 then q else { q with left := q.left - n, failed := true }
  { m with ended := true, decided := plays.length, plays := plays }

/-- A group stops as under `WORK_STOP` (R122): it completes the test cycle in progress and plays nothing after it. Fail bits,
match results and marker records of what has begun are still delivered. -/
def Group.stop (x : Group) (now : Int) : Group :=
  let x := x.unhalt now
  let r := x.run
  let clear (r : Run) : Run := { r with fifo := [], cur := none, plays := 0, ending := false, tapGot := [], tapAhead := 0, badAt := [] }
  match x.st with
  | .playing | .underrun =>
    let c := r.cycleAt now
    { x with pins := x.pins.map fun q => q.trim c, cycle := BitVec.ofNat 48 c
             badCode := x.badCode || r.badAt.any (decide <| · ≤ c)
             fail := { x.fail with open_ := x.fail.open_.filter (·.cycle ≤ c) }
             run := { clear r with
               stopping := true
               matches_ := (r.matches_.filter fun m => m.plays.any (·.cycle ≤ c)).map fun m => x.cutMatch c m
               marks := r.marks.filter fun m => decide (m.2.toNat ≤ c) } }
  | .armed => { x with st := .done, run := { clear r with matches_ := [] } }
  | _ =>
    let y := x.settleBad now
    { y with run := clear y.run }

/-- Does a group still complete its last test cycle? -/
def Group.completing (x : Group) : Bool := x.run.stopping

/-- A Worker stops (03, R91), with its group (R122); a command that stops it waits for the group's test cycle. -/
def State.stopWorker (s : State) (w : Fin 32) (reason : Nat) : State :=
  let pc := s.workers[w.val].pc
  let s := (s.drain w).modWorker w fun k => { k.leave .stopped reason pc with reps := [] }
  let s := (s.releaseSems w).endStep w |>.haltSettled w false
  match workerGroup w with
  | none => s.stopSettled w
  | some g =>
    let now := s.nowTu
    let s := s.modGroup g fun x => x.stop now
    if s.groups[g.val].completing then s else s.stopSettled w

/-- Does the Worker of a group let the run end: it has executed `end`, or stalls on `vwait` condition 2 (R123)? -/
def State.runMayEnd (s : State) (g : Fin 16) : Bool :=
  let k := s.workers[(groupWorker g).val]
  k.ended || (match k.stall with
    | some (.vwait c _) => c = 2
    | _ => false)

/-- An idle cycle begins at the next boundary (R119). -/
def Group.idleCycle (x : Group) : Group :=
  let r := x.run
  let p := (x.sets[r.lastSet.val]).periodTu
  { x with
    idle := x.idle + 1, cycle := BitVec.ofNat 48 r.nextCycle
    run := { r with nextAt := r.nextAt + p, nextCycle := r.nextCycle + 1, playAt := r.nextAt, playCycle := r.nextCycle
                    playLen := 1, period := p, idleNow := true } }

/-- The group underruns at its next boundary (R119, R120): its event, and idle cycles or a stop. -/
def State.beginUnderrun (s : State) (g : Fin 16) : State :=
  let x := s.groups[g.val]
  let w := groupWorker g
  let s := s.modGroup g fun x => { x with
    st := .underrun, underrunSeen := true
    run := { x.run with underAt := x.run.underAt <|> some x.run.nextCycle } }
  let s := s.raiseDie (groupDie g) ⟨20 + g.val % 4, by omega⟩ 3 g.val
    (detail [(0, 6, x.run.nextCycle), (6, 1, b2n x.underrunStop)])
  if x.underrunStop then
    if s.workers[w.val].active then s.stopWorker w 4
    else
      let now := s.nowTu
      s.modGroup g fun x => x.stop now
  else s.modGroup g fun x => x.idleCycle

/-! Fail records (06, R164 to R175). -/

/-- A count of a site's die-side book raised: 0 FAIL_CYCLES, 1 SUPPRESSED, 2 PRODUCED, 3 DROP_SOURCE. -/
def State.countDie (s : State) (site : Fin 32) (d : Fin 4) (i : Fin 4) : State :=
  s.modSite site fun x => { x with dieBook := upd x.dieBook d fun b => upd b i (· + 1) }

/-- Has a condition of the run arisen at or before a cycle? -/
def sinceCycle (o : Option Nat) (c : Nat) : Bool :=
  match o with
  | none => false
  | some k => k ≤ c

/-- A fail record (R166). -/
def failRecord (g : Fin 16) (x : Group) (site : Fin 32) (o : OpenCycle) (pins : BitVec 8) (gap : Bool) : FailRec :=
  let r := x.run
  let flags := bitAt (o.window &&& pins != 0) 0 + bitAt (sinceCycle r.underAt o.cycle) 1 +
    bitAt (sinceCycle r.haltCycle o.cycle) 2 + bitAt (sinceCycle r.supplyAt o.cycle) 3 + bitAt gap 4 + bitAt o.tap 5 +
    bitAt (sinceCycle r.clashAt o.cycle) 6
  BitVec.ofNat 128 (o.cycle % 2 ^ 48 + g.val * 2 ^ 48 + site.val * 2 ^ 52 + o.addr.toNat * 2 ^ 64 + o.data.toNat * 2 ^ 96 +
    pins.toNat * 2 ^ 112 + flags * 2 ^ 120)

/-- The record of one site for a test cycle: suppressed (R165), or produced, and then dropped at source where the fail FIFO
is full (R167); the threshold is met once per run (R175). -/
def State.siteRecord (s : State) (g : Fin 16) (o : OpenCycle) (site : Fin 32) (pins : BitVec 8) : State :=
  let d := groupDie g
  let s := s.countDie site d 0
  let x := s.groups[g.val]
  let key : FailKey := { pins := pins, addr := o.addr, data := o.data }
  if x.fail.suppress && x.fail.lastRec[site.val] = some key then s.countDie site d 1
  else
    let s := s.countDie site d 2
    let full := decide (1024 ≤ x.fail.fifo.length)
    let s := s.modGroup g fun x =>
      let f := x.fail
      { x with fail := { f with
          lastRec := upd f.lastRec site fun _ => some key
          produced := f.produced + 1
          gap := full
          fifo := if full then f.fifo else f.fifo ++ [failRecord g x site o pins f.gap] } }
    let s := if full then (s.countDie site d 3).raise 36 2 site.val 0 else s
    let f := s.groups[g.val].fail
    if f.threshold != 0 && !f.fired && decide (f.threshold.toNat ≤ f.produced) then
      ((s.modGroup g fun x => { x with fail := { x.fail with fired := true } }).raiseDie d ⟨16 + g.val % 4, by omega⟩ 1 g.val
        (detail [(0, 4, f.threshold.toNat), (8, 6, o.cycle)])).pendLine (groupWorker g) 6
    else s

/-- The pins of a failing cycle that are enabled and mapped to a site (R164). -/
def Group.sitePins (x : Group) (pins : BitVec 8) (site : Fin 32) : BitVec 8 :=
  BitVec.ofNat 8 (packBools ((allFin 8).map fun p =>
    pins.getLsbD p.val && x.pins[p.val].en && x.pins[p.val].site = site))

/-- A test cycle whose fail bits have all arrived forms its records, in ascending site order (R164, R174). -/
def State.closeCycle (s : State) (g : Fin 16) (o : OpenCycle) : State :=
  if o.pins = 0 then s
  else
    let c : BitVec 48 := BitVec.ofNat 48 o.cycle
    let s := s.modGroup g fun x => { x with fail := { x.fail with first := x.fail.first <|> some c, last := some c } }
    forAll (allFin 32) (fun site s =>
      let pins := s.groups[g.val].sitePins o.pins site
      if pins = 0 then s else s.siteRecord g o site pins) s

/-- The cycles at the front whose fail bits have all arrived leave in ascending order (R164; 01, R14). -/
def closeReady : List OpenCycle → List OpenCycle × List OpenCycle
  | [] => ([], [])
  | o :: l => if o.left = 0 then ((o :: (closeReady l).1), (closeReady l).2) else ([], o :: l)

/-- The complete cycles of a group are formed into records. -/
def State.closeCycles (s : State) (g : Fin 16) : State :=
  let (ready, rest) := closeReady s.groups[g.val].fail.open_
  let s := s.modGroup g fun x => { x with fail := { x.fail with open_ := rest } }
  ready.foldl (fun s o => s.closeCycle g o) s

end Sys2Proof.Machine
end

