-- ==== Sys2Proof/Machine/MemCrypto.lean ====
section
/-! DEFINITION. The ciphers of the memory encryption engine (spec/09_memory_and_encryption.md, R264, R265, R270): XTS-AES-256 of
a sector and the GMAC tags of sectors and nodes, over an uninterpreted AES-256 (log entry 6). The modes of operation are those of
the standards that the spec names, IEEE 1619 and NIST SP 800-38D (PRESUMED, log entry 6). -/

namespace Sys2Proof.Machine

/-- A number as big-endian bytes. -/
def beBytes (n v : Nat) : Bytes := (numBytes n v).reverse

/-- AES-256 on a block of 16 bytes. -/
def aesBlock (k : BitVec 256) (bs : Bytes) : Bytes :=
  beBytes 16 (Config.aes256 k (BitVec.ofNat 128 (bytesNum bs.reverse))).toNat

/-- Two strings of bytes combined. -/
def xorBytes (a b : Bytes) : Bytes := List.zipWith (· ^^^ ·) a b

/-! XTS (IEEE 1619; R264). -/

/-- The next tweak of a data unit: times alpha in GF(2^128), the bytes read as a little-endian number. -/
def xtsNext (t : Nat) : Nat := if 2 ^ 128 ≤ 2 * t then (2 * t - 2 ^ 128) ^^^ 0x87 else 2 * t

/-- The tweak of block `b`: its number as a 16-byte little-endian integer, encrypted under the second key (R264). -/
def xtsTweak (key : BitVec 512) (b : Nat) : Nat := bytesNum (aesBlock (key.extractLsb' 0 256) (numBytes 16 b))

/-- A 512-byte sector encrypted under its block number (R264): the first key is the upper half of the key. -/
def xtsSector (key : BitVec 512) (b : Nat) (bs : Bytes) : Bytes :=
  (List.range 32).flatMap fun j =>
    let t := numBytes 16 (iter xtsNext j (xtsTweak key b))
    xorBytes (aesBlock (key.extractLsb' 256 256) (xorBytes ((bs.drop (16 * j)).take 16) t)) t

/-! GMAC (NIST SP 800-38D; R265). -/

/-- The product in the field of GCM, the first bit of a block the most significant. -/
def gfMul (x y : BitVec 128) : BitVec 128 :=
  ((List.range 128).foldl (fun (e : BitVec 128 × BitVec 128) i =>
    (if x.getMsbD i then e.1 ^^^ e.2 else e.1,
     if e.2.getLsbD 0 then (e.2 >>> 1) ^^^ (0xE1#128 <<< 120) else e.2 >>> 1)) (0, y)).1

/-- The blocks of a string, the last filled up with zeros. -/
def gcmBlocks (bs : Bytes) : List (BitVec 128) :=
  (List.range (ceilDiv bs.length 16)).map fun i =>
    BitVec.ofNat 128 (bytesNum (((bs.drop (16 * i)).take 16 ++ List.replicate 15 0).take 16).reverse)

/-- The first eight bytes of the GMAC tag of a string under a 96-bit IV (R265). -/
def gmacTag (key : BitVec 256) (iv aad : Bytes) : BitVec 64 :=
  let h := Config.aes256 key 0
  let len : BitVec 128 := BitVec.ofNat 128 (8 * aad.length * 2 ^ 64)
  let hash := (gcmBlocks aad ++ [len]).foldl (fun y x => gfMul (y ^^^ x) h) 0
  let j0 : BitVec 128 := BitVec.ofNat 128 (bytesNum iv.reverse * 2 ^ 32 + 1)
  (hash ^^^ Config.aes256 key j0).extractLsb' 64 64

/-- The IV of a tag: the type word, then the counter, both big-endian (R265). -/
def tagIv (type ctr : Nat) : Bytes := beBytes 4 type ++ beBytes 8 ctr

/-- The tag of a sector: of its ciphertext, its block number and its counter (R265). -/
def sectorTag (key : BitVec 256) (b ctr : Nat) (cipher : Bytes) : BitVec 64 :=
  gmacTag key (tagIv b ctr) (cipher ++ numBytes 8 b ++ numBytes 8 ctr)

/-- The type word of a node: bit 31, its level, its stack and its index (R270). -/
def nodeType (stack level index : Nat) : Nat := 2 ^ 31 + level * 2 ^ 27 + stack * 2 ^ 25 + index

/-- The tag of a node: of its 64 bytes, under its parent's slot (R270). -/
def nodeTag (key : BitVec 256) (stack level index ctr : Nat) (bytes : Bytes) : BitVec 64 :=
  gmacTag key (tagIv (nodeType stack level index) ctr) bytes

end Sys2Proof.Machine
end

