-- ==== Sys2Proof/Machine/Routes.lean ====
section
/-! DEFINITION. The routes of the hive network (spec/10_hive_network_and_ndenu.md, R283, R284): the routers of the units, the
ports by which a flit leaves each router, the power that a route needs, and what the flits of the stream channel carry (R287). -/

namespace Sys2Proof.Machine

/-- Ports of a router: 0 north (towards a higher row; log entry 36), 1 east, 2 south, 3 west, 4 attachment (10, R310). -/
def attachPort : Fin 5 := 4

/-- The router a unit is attached to (10, table of router attachments): router (x, y) has the number 8y + x (R310); a unit of a die
sends, and is reached, through one of its die's four (10, R284; log entry 62). -/
def netRouter : NetUnit → Fin 32
  | .sram r => r
  | .hbm n east => Fin.ofNat 32 (2 * n.val + b2n east)
  | .die d u =>
      let k := (Config.dieRouter d.val u.val).val
      Fin.ofNat 32 (8 * (2 + k / 2) + 2 * d.val + k % 2)
  | .laravo east => if east then 15 else 8
  | .start => 9
  | .security => 10
  | .queen => 11
  | .pcie => 12
  | .brood => 13
  | .access => 14

/-- The die of a unit of a comb die. -/
def netDie : NetUnit → Option (Fin 4)
  | .die d _ => some d
  | _ => none

/-- The port by which a flit leaves a router for another: first along x, then along y (R284). -/
def meshPort (r dst : Fin 32) : Fin 5 :=
  if r.val % 8 < dst.val % 8 then 1
  else if dst.val % 8 < r.val % 8 then 3
  else if r.val / 8 < dst.val / 8 then 0
  else if dst.val / 8 < r.val / 8 then 2
  else attachPort

/-- The router that a port leads to. -/
def meshNext (r : Fin 32) (port : Fin 5) : Fin 32 :=
  match port with
  | 0 => r + 8
  | 1 => r + 1
  | 2 => r - 8
  | 3 => r - 1
  | _ => r

/-- The port of the other end of a link. -/
def meshBack (port : Fin 5) : Fin 5 :=
  match port with
  | 0 => 2
  | 1 => 3
  | 2 => 0
  | 3 => 1
  | _ => attachPort

/-- The domain of a router: row 1 lies in `PD01`, the others in their quadrant's (R283). -/
def routerDomain (r : Fin 32) : Fin 64 := if r.val / 8 = 1 then 1 else Fin.ofNat 64 (10 + r.val % 8 / 2)

/-- Is a link of the mesh on: one of row 1 lies in `PD01`, every other in the domains of the quadrants it joins (R283)? -/
def State.meshLinkOn (s : State) (r q : Fin 32) : Bool :=
  if r.val / 8 = 1 && q.val / 8 = 1 then s.pdOn 1
  else s.pdOn (Fin.ofNat 64 (10 + r.val % 8 / 2)) && s.pdOn (Fin.ofNat 64 (10 + q.val % 8 / 2))

/-- Is every router and every link of the route from one router to another on (R283)? A route has at most 11 routers. -/
def State.routeOn (s : State) : Nat → Fin 32 → Fin 32 → Bool
  | 0, _, _ => false
  | k + 1, r, t =>
    s.pdOn (routerDomain r) &&
      (meshPort r t = attachPort ||
        (s.meshLinkOn r (meshNext r (meshPort r t)) && s.routeOn k (meshNext r (meshPort r t)) t))

/-- Do two units reach one another: is the route of a request on, and that of its answer (R283; log entry 71)? -/
def State.reaches (s : State) (a b : NetUnit) : Bool :=
  s.routeOn 11 (netRouter a) (netRouter b) && s.routeOn 11 (netRouter b) (netRouter a)

/-- The unit that sends a requester's memory requests: a Worker its own, the host the PCIe endpoint, the log the fail pipeline, debug
the I²C target and JTAG access, the Queen core and its DMA the Queen core (log entry 71). -/
def requesterUnit : Requester → NetUnit
  | .worker w => .die (workerDie w) (Fin.ofNat 32 (w.val % 8))
  | .host => .pcie
  | .queen | .dma => .queen
  | .failLog => .brood
  | .debug => .access

/-- The unit of a group's fail compression on its die (R284, R286). -/
def failUnit (g : Fin 16) : NetUnit := .die (groupDie g) (Fin.ofNat 32 (8 + g.val % 4))

/-- The group whose fail compression a unit is. -/
def failGroup : NetUnit → Option (Fin 16)
  | .die d u => if 8 ≤ u.val ∧ u.val < 12 then some (Fin.ofNat 16 (4 * d.val + u.val - 8)) else none
  | _ => none

/-- Does a flit carry a refill of a stream window: on the stream channel, from an HBM stack to a Worker (03, R67; 10, R287)? -/
def MeshFlit.refill (f : MeshFlit) : Bool :=
  f.vc = 2 && (match f.src, f.dst with
    | .hbm _ _, .die _ u => decide (u.val < 8)
    | _, _ => false)

/-- The fail record that the first 16 bytes of a payload hold (06, R166). -/
def recOf (bs : Bytes) : BitVec 128 := BitVec.ofNat 128 (bytesNum (bs.take 16))

/-- The payload of a fail record's flit: the record in the first 16 bytes, and zeros (log entry 72). -/
def recBytes (r : BitVec 128) : Bytes := numBytes 64 r.toNat

/-- The fail record that a flit of the mesh carries, with its group (06, R168; 10, R286). -/
def MeshFlit.failRecord (f : MeshFlit) : Option (Fin 16 × BitVec 128) :=
  if f.vc = 2 ∧ f.dst = .brood then (failGroup f.src).map fun g => (g, recOf f.payload) else none

/-- The fail record that a flit of a die's link carries, with its group. -/
def LinkFlit.failRecord (f : LinkFlit) : Option (Fin 16 × BitVec 128) :=
  if f.dst = .brood then (failGroup f.src).map fun g => (g, recOf f.bytes) else none

/-- The flits that a sender keeps and their receiver has not taken. -/
def untaken (l : List LinkFlit) (expected : BitVec 12) : List LinkFlit := l.dropWhile (·.seq != expected)

end Sys2Proof.Machine
end

