-- ==== Sys2Proof/Machine/SecOps.lean ====
section
/-! DEFINITION. The NV store and the security alarm (spec/15_security.md, R416 to R424): blocks, wear, writes, and `E042`. -/

namespace Sys2Proof.Machine

/-- Writes after which a block is read-only (R420). -/
def nvLimit : Nat := 100000

/-- A block of the NV store. The blocks from 1,920 up were written at manufacture (R418). -/
def State.nvBlock (s : State) (b : Nat) : NvBlock :=
  match s.sec.nv.find? fun e => e.1 = b with
  | some e => e.2
  | none => { NvBlock.reset with written := decide (1920 ≤ b) }

/-- Is a block worn (R420)? -/
def State.nvWorn (s : State) (b : Nat) : Bool := decide (nvLimit ≤ (s.nvBlock b).count)

/-- Do both copies of a block fail their CRC-32 (R419)? -/
def NvBlock.lost (x : NvBlock) : Bool := !x.goodA && !x.goodB

/-- A block written once: its count rises, and the copy with the lower sequence takes the record and its CRC-32 (R419, R420).
`fresh`: with a new record, not refreshed. -/
def NvBlock.wrote (x : NvBlock) (fresh : Bool) : NvBlock :=
  let top := max x.seqA x.seqB + 1
  let y := { x with count := x.count + 1, written := true, emptied := x.emptied && !fresh }
  if x.seqA ≤ x.seqB then { y with seqA := top, goodA := true } else { y with seqB := top, goodB := true }

/-- A block's write is torn (R419): the copy that it went to fails its CRC-32. -/
def NvBlock.torn (x : NvBlock) : NvBlock := if x.seqA ≤ x.seqB then { x with goodA := false } else { x with goodB := false }

/-- Does a block read as empty since both its copies failed (R419)? Until a command writes it anew, a refresh does not restore it. -/
def State.nvEmptied (s : State) (b : Nat) : Bool := (s.nvBlock b).emptied

/-- Is a record of the blocks from 1,920 up lost: 0 the device certificate, 1 the vendor intermediate, 2 the identity key (R418,
R419)? -/
def State.nvRecordLost (s : State) (which : Nat) : Bool :=
  (List.range 128).any fun i => Config.nvHolds which (1920 + i) && s.nvEmptied (1920 + i)

/-! The Queen firmware's image (R409). Its header: format, version, body length, and the certificate (PRESUMED: little-endian words in
this order, log entry 75). -/

/-- The format of a firmware image. -/
def fwFormat : Word := 0x5A465701

/-- A word of a firmware header. -/
def fwWord (fw : FwImage) (i : Nat) : Word := BitVec.ofNat 32 (bytesNum ((fw.header.drop (4 * i)).take 4))

/-- The version of a firmware image. -/
def fwVersion (fw : FwImage) : Word := fwWord fw 1

/-- The firmware measurement: SHA-512 of header and body. -/
def fwMeasure (fw : FwImage) : Bytes := digestBytes (Config.sha512 (fw.header ++ fw.body))

/-- Does the boot ROM accept a firmware image: its form, the chain of its certificate to the vendor root, the signature of its trailer,
in the form of R237, over header and body, and its version against rollback counter 0 (R409, R416)? -/
def State.fwAccepted (s : State) (fw : FwImage) : Bool :=
  fwWord fw 0 = fwFormat && decide ((fwWord fw 2).toNat = fw.body.length) && decide (s.sec.counters[0].toNat ≤ (fwVersion fw).toNat) &&
    (Config.fwKey (fw.header.drop 12)).any fun k =>
      Config.isRoot k.2 && Config.verify k.1 (fw.header ++ fw.body) (fw.trailer.drop 4)

/-- A block of the NV store replaced. -/
def State.setNvBlock (s : State) (b : Nat) (x : NvBlock) : State :=
  { s with sec := { s.sec with nv := (b, x) :: s.sec.nv.filter fun e => e.1 != b } }

/-- `E008` for a block that is worn (R420). -/
def State.wornEvent (s : State) (b : Nat) : State := s.raise 8 3 0 (detail [(0, 2, b)])

/-- The bits of a block in `SEC_NV_STATUS`. -/
def State.nvWord (s : State) (b : Nat) : Word :=
  let x := s.nvBlock b
  BitVec.ofNat 32 (x.count + bitAt (s.nvWorn b) 17 + bitAt x.written 18 + bitAt (!x.goodA || !x.goodB) 19)

/-- What an NV write puts in place when it has ended (R417, R418; 08, R248; 09, R259; 10, R301; 17, R454, R456). -/
def State.nvApply (s : State) (x : NvWrite) : State :=
  match x with
  | .counter i v => { s with sec := { s.sec with counters := upd s.sec.counters i fun _ => v } }
  | .owner o => { s with sec := { s.sec with owner := some o } }
  | .bootRec i r => { s with sec := { s.sec with bootRecs := upd s.sec.bootRecs i fun _ => some r } }
  | .lanes d m => { s with sec := { s.sec with laneMaps := upd s.sec.laneMaps d fun _ => m } }
  | .repairs l => l.foldl (fun s e =>
      { s with sec := { s.sec with hbmRepairs := upd s.sec.hbmRepairs e.1 fun x => (x ++ e.2).eraseDups } }) s
  | .marks u erase => s.modBist u fun x =>
      if erase then { x with committed := false, elemsC := [] }
      else { x with committed := x.committed || x.marked, elemsC := (x.elemsC ++ x.elems).eraseDups }
  | .soft u => s.modBist u fun x => { x with repairsC := x.repairs }
  | .refresh => { s with sec := { s.sec with refreshS := s.tb0.sec.setWidth 64, refreshN := s.sec.refreshN + 1 } }

/-- An NV write joins those in progress; its command commits when its last block is written. -/
def State.nvStart (s : State) (k : JobKey) (what : NvWrite) (blocks : List Nat) (result : Words) : State :=
  { s with sec := { s.sec with
    nvJobs := s.sec.nvJobs ++ [{ key := some k, what := what, blocks := blocks, done := 0, skip := [], result := result }] } }

/-- A command writes one block: a worn block replies `NV_WORN` with nothing written and raises `E008` (R420; 02, R52). -/
def State.nvCommand (s : State) (j : Job) (what : NvWrite) (b : Nat) (result : Words) : Act :=
  if s.nvWorn b then .close (s.wornEvent b) ⟨stWorn, 0xFF⟩ true result else .stay (s.nvStart j.key what [b] result)

/-- A security alarm (R414, R424): `E042` with its cause, and a number at bytes 8 to 13. -/
def State.alarm (s : State) (cause n : Nat) : State :=
  ({ s with sec := { s.sec with flags := s.sec.flags ||| (1#8 <<< 3) } }).raise 42 4 0 (detail [(0, 1, cause), (8, 6, n)])

/-- What reads as empty when a block of the NV store does (R418): each kind of record as the block that holds it leaves it; what the
blocks from 1,920 up hold reads as `nvRecordLost` says. -/
def State.nvEmpty (s : State) (b : Nat) : State :=
  let sec := s.sec
  let s := { s with sec := { sec with
    owner := if b = 2 then none else sec.owner
    refreshS := if b = 3 then 0 else sec.refreshS
    refreshN := if b = 3 then 0 else sec.refreshN
    counters := Vector.ofFn fun i => if b = 4 + i.val then 0 else sec.counters[i]
    laneMaps := if b = 72 then Vector.replicate 4 none else sec.laneMaps
    hbmRepairs := if b = 73 then Vector.replicate 4 [] else sec.hbmRepairs } }
  forAll (allFin 64) (fun u s => s.modBist u fun x =>
    { x with
      committed := x.committed && b != 68 + u.val / 16
      elemsC := if b = 68 + u.val / 16 then [] else x.elemsC
      repairsC := if b = 74 + u.val / 16 then [] else x.repairsC }) s

/-- A block whose two copies both fail their CRC (R419): it reads as empty, and `E042` with cause 5 gives the block. Blocks 0 and 1
hold no copies. -/
def State.nvLost (s : State) (b : Nat) : State :=
  if b < 2 then s
  else ((s.setNvBlock b { s.nvBlock b with goodA := false, goodB := false, emptied := true }).nvEmpty b).alarm 5 b

/-- 32 bytes drawn from the DRBG. -/
def State.draw (s : State) : Bytes × State :=
  (numBytes 32 (Config.random s.sec.draws).toNat, { s with sec := { s.sec with draws := s.sec.draws + 1 } })

/-- The signature of the identity key over a message: 132 bytes (R410, R414). -/
def idSignature (m : Bytes) : Bytes := numBytes 132 (bytesNum (Config.sign m))

end Sys2Proof.Machine
end

