-- ==== Sys2Proof/Machine/MemOps.lean ====
section
/-! DEFINITION. The vector memory and its encryption engine (spec/09_memory_and_encryption.md): the interleave, the counter
tree and its cache, reads and writes of sectors with every error the spec gives, freezes; and device address ranges of
every kind (R280; spec/02_command_interface.md, R23, R24). -/

namespace Sys2Proof

/-- The number of a requester (log entry 16). -/
def Requester.code (q : Requester) : Nat :=
  (Config.requesterCode (match q with
    | .worker w => w.val
    | .host => 32
    | .queen => 33
    | .failLog => 34
    | .dma => 35
    | .debug => 36)).toNat

end Sys2Proof

namespace Sys2Proof.Machine

/-! The interleave and the tree (R253, R265 to R272). -/

/-- Stack and stack-local address of a device address (R253). -/
def Mem.locate (m : Mem) (a : Nat) : Fin 4 × Nat :=
  if m.interleave then (Fin.ofNat 4 (a / 0x5C0000000), a % 0x5C0000000)
  else (Fin.ofNat 4 (a / 4096), a / 16384 * 4096 + a % 4096)

/-- The code of a node of a stack's tree, or with level 0 of a sector. -/
def nodeCode (n : Fin 4) (level index : Nat) : Nat := (n.val * 16 + level) * 2 ^ 26 + index
/-- The stack of a node code. -/
def codeStack (c : Nat) : Nat := c / 2 ^ 26 / 16
/-- The level of a node code. -/
def codeLevel (c : Nat) : Nat := c / 2 ^ 26 % 16
/-- The index of a node code. -/
def codeIndex (c : Nat) : Nat := c % 2 ^ 26
/-- The parent of a node, or of a sector. -/
def codeParent (c : Nat) : Nat := (c / 2 ^ 26 + 1) * 2 ^ 26 + codeIndex c / 8
/-- The nodes over a stack-local sector, from level 1 to 9. -/
def pathOf (n : Fin 4) (i : Nat) : List Nat := (List.range 9).map fun l => nodeCode n (l + 1) (i / 8 ^ (l + 1))

/-- Is a node cached? -/
def Mem.cached (m : Mem) (c : Nat) : Bool := m.cache.any fun e => e.1 = c

/-- The nodes the cache holds at most (R272). -/
def cacheSize : Nat := 419430

/-- The device block of a stack-local sector: the interleave read backwards (R253). -/
def Mem.blockOf (m : Mem) (n i : Nat) : Nat :=
  if m.interleave then n * (0x5C0000000 / 512) + i else i / 8 * 32 + n * 8 + i % 8

/-- The ciphertext of a block as the stack holds it (R264). -/
def Mem.cipher (m : Mem) (b : Nat) : Bytes := xtsSector m.xtsKey b (m.read (512 * b) 512)

/-- The 64 bytes of a node: the eight counters of its children (R270). -/
def Mem.nodeBytes (m : Mem) (c : Nat) : Bytes :=
  (List.range 8).flatMap fun i =>
    let k := 8 * codeIndex c + i
    numBytes 8 (if codeLevel c = 1 then countGet m.secCtr (m.blockOf (codeStack c) k)
      else countGet m.nodeCtr (nodeCode (Fin.ofNat 4 (codeStack c)) (codeLevel c - 1) k))

/-- A tag written. -/
def setTag (l : List (Nat × BitVec 64)) (k : Nat) (t : BitVec 64) : List (Nat × BitVec 64) := (k, t) :: l.filter (·.1 != k)

/-- A node is written to HBM with its tag: its parent's slot counts up first, and the parent is dirty (R270). -/
def Mem.writeBack (m : Mem) (c : Nat) : Mem :=
  let p := codeParent c
  let ctr := countGet m.nodeCtr c + 1
  { m with
    nodeCtr := countSet m.nodeCtr c ctr
    nodeTags := setTag m.nodeTags c (nodeTag m.macKey (codeStack c) (codeLevel c) (codeIndex c) ctr (m.nodeBytes c))
    cache := m.cache.map fun e => if e.1 = c then (c, false) else if e.1 = p then (p, true) else e }

/-- Is a stack frozen, in training too (R259, R263)? -/
def Stack.isFrozen (x : Stack) : Bool := x.st = .frozen || (x.st = .training && x.wasFrozen)

/-- May a node leave the cache: no cached node hangs under it, it is not a dirty node of a frozen stack, and no stream window
holds it (R272, R273)? -/
def Mem.mayEvict (m : Mem) (hold : Nat → Bool) (e : Nat × Bool) : Bool :=
  !(m.cache.any fun x => codeParent x.1 = e.1) && !(e.2 && (at? m.hbm (codeStack e.1)).any Stack.isFrozen) && !hold e.1

/-- A full cache gives up the node that entered first among those that may leave (log entry 26). -/
def Mem.evict (m : Mem) (hold : Nat → Bool) : Mem :=
  if m.cache.length ≤ cacheSize then m
  else match m.cache.reverse.find? (m.mayEvict hold) with
    | none => m
    | some e =>
      let m := if e.2 then m.writeBack e.1 else m
      { m with cache := m.cache.filter fun x => x.1 != e.1 }

/-- The nodes over a sector enter the cache, the root's child first (R272). -/
def Mem.walk (m : Mem) (hold : Nat → Bool) (n : Fin 4) (i : Nat) : Mem :=
  (pathOf n i).reverse.foldl (fun m c => if m.cached c then m else ({ m with cache := (c, false) :: m.cache }).evict hold) m

/-- A block written (R265): its counter goes up, its node of level 1 is dirty, and its tag is that of its ciphertext. -/
def Mem.sealBlock (m : Mem) (b : Nat) : Mem :=
  let (n, loc) := m.locate (512 * b)
  let c := nodeCode n 1 (loc / 512 / 8)
  let ctr := countGet m.secCtr b + 1
  { m with
    secCtr := countSet m.secCtr b ctr
    tags := setTag m.tags b (sectorTag m.macKey b ctr (m.cipher b))
    cache := m.cache.map fun e => if e.1 = c then (c, true) else e }

/-- Chunks of the stream (03, R65). -/
def Window.total (x : Window) : Nat := x.len.toNat / 128
/-- Chunks requested so far: the first eight, then each again as soon as the reader has left it (03, R65). -/
def Window.asked (x : Window) : Nat := min x.total (x.pos / 128 + 8)

/-- Does a stream window hold a node: one over the 16 chunks that follow the chunk that it last requested (R273)? -/
def State.windowHolds (s : State) (c : Nat) : Bool :=
  s.workers.toList.any fun k =>
    let x := k.window
    x.en && (List.range 16).any fun i =>
      decide (x.asked + i < x.total) &&
        (let (n, loc) := s.mem.locate (x.base.toNat + 4096 * (x.asked + i)); (pathOf n (loc / 512)).contains c)

/-- The nodes over a sector enter the cache, and none that a window holds leaves it (R272, R273). -/
def State.walkNodes (s : State) (n : Fin 4) (i : Nat) : State := { s with mem := s.mem.walk s.windowHolds n i }

/-- The poisoned entry that makes a sector unverifiable: the sector itself or a node over it (R275, R276). -/
def Mem.poisoned (m : Mem) (n : Fin 4) (i : Nat) : Option Nat :=
  if m.hbm[n.val].poisonFull then some (nodeCode n 9 0)
  else (nodeCode n 0 i :: pathOf n i).find? fun c => m.poison.contains c

/-! Failures (R261, R268, R269, R275). -/

/-- Why a memory request cannot complete: a tag mismatch, an unverifiable sector, a frozen stack, a fenced die, a stack that
cannot serve, a counter at its end, a staging slot that holds a decrypted stream. -/
inductive MemFail where
  | mismatch | unverifiable | frozen | fenced | notReady | exhausted | sealed_
  deriving DecidableEq, Repr

/-- A memory request as served so far: the state, its failure with the failing address, and the physical error that has not
been met yet. -/
structure Served where
  st   : State
  fail : Option (MemFail × Nat)
  err  : MemErr

/-- A counter of a stack raised: 0 correctable, 1 uncorrectable, 2 tag mismatches, 3 unverifiable, 4 hits, 5 misses. -/
def State.memCount (s : State) (n : Fin 4) (i : Fin 6) : State :=
  s.modStack n fun x => { x with counters := upd x.counters i fun c => satAdd c 1 }

/-- A posted write is discarded (02, R22; 08, R239): `BAR_DROP`. -/
def State.barDrop (s : State) : State := { s with hif := { s.hif with err := s.hif.err ||| (1#32 <<< 4) } }

/-- A correctable error (R260). -/
def State.correctable (s : State) (n : Fin 4) : State :=
  let s := (s.memCount n 0).modStack n fun x => { x with ceWin := x.ceWin + 1 }
  let x := s.mem.hbm[n.val]
  if 256 ≤ x.ceWin && !x.ceOver then
    (s.modStack n fun x => { x with ceOver := true }).raise ⟨16 + n.val, by omega⟩ 2 n.val (detail [(0, 4, x.ceWin)])
  else s

/-- An entry of a freeze record: device address, kind, requester, and the cause or the sector write (`MEM_STATUS`). -/
def freezeEntry (q : Requester) (a kind upper : Nat) : BitVec 128 :=
  BitVec.ofNat 128 (a + (Config.freezeKind kind).toNat * 2 ^ 48 + q.code * 2 ^ 56 + upper * 2 ^ 64)

/-- The freeze record of 64 entries at most (R261, R262; `MEM_STATUS`): the sector writes on the interface, all 64 of them if need be,
then the request that met the error and the controller's queue (DESIGN CHOICE, log entry 63). -/
def freezeRecord (q : Requester) (cause a : Nat) (held onWire : List HeldReq) : List (BitVec 128) :=
  ((onWire.map fun h => freezeEntry h.q h.addr 5 (h.addr / 512)) ++ freezeEntry q a cause cause ::
    held.map fun h => freezeEntry h.q h.addr (if h.write then 4 else 3) cause).take 64

/-- A request that fails is answered: the host's read with Completer Abort, its write with `BAR_DROP`, any other with a bus error of a
cause (R22, R261; 10, R289). -/
def State.answerBus (s : State) (q : Requester) (write : Bool) (cause : BusCause) : State :=
  match q, write with
  | .host, false => s.emit .barAbort
  | .host, true => s.barDrop
  | q, _ => s.emit (.busError q cause)

/-- What a queued request of a frozen stack is answered (R261). -/
def State.answerFrozen (s : State) (h : HeldReq) : State := s.answerBus h.q h.write .frozen

/-- A stack freezes (R261, R262): causes 1 uncorrectable data and 2 parity. Its queue is answered. -/
def State.freeze (s : State) (q : Requester) (n : Fin 4) (cause a : Nat) (held onWire : List HeldReq) : State :=
  held.foldl State.answerFrozen ((s.modStack n fun x => { x with
    st := if x.st = .training then .training else .frozen, wasFrozen := true
    cause := BitVec.ofNat 2 cause, freezeRec := freezeRecord q cause a held onWire }).raise ⟨12 + n.val, by omega⟩ 4 n.val
    (detail [(0, 1, cause), (8, 6, a)]))

/-- `E021` for a request that meets a poisoned entry (R275). -/
def State.unverifiable (s : State) (q : Requester) (n : Fin 4) (a c : Nat) : State :=
  (s.memCount n 3).raise 21 4 n.val
    (detail [(0, 6, a), (6, 1, q.code), (8, 1, codeLevel c), (12, 4, codeIndex c)])

/-- An uncorrectable error of a tag or a node (R275, R276): it enters the poison list, or poisons the stack. -/
def State.poison (s : State) (q : Requester) (n : Fin 4) (a c : Nat) : State :=
  let s := s.memCount n 1
  if 1024 ≤ s.mem.poison.length then
    (s.modStack n fun x => { x with poisonFull := true }).unverifiable q n a (nodeCode n 9 0)
  else ({ s with mem := { s.mem with poison := c :: s.mem.poison } }).unverifiable q n a c

/-- A tag that does not match (R268): `E020`, and the alarm with cause 4. -/
def State.tagMismatch (s : State) (q : Requester) (n : Fin 4) (a : Nat) : State :=
  let s := (s.memCount n 2).raise 20 4 0 (detail [(0, 6, a), (6, 1, q.code)])
  ({ s with sec := { s.sec with flags := s.sec.flags ||| (1#8 <<< 4) } }).alarm 4 a

/-- What a stack answers before any access (R22, R258, R259, R261, R281; 15, R422). -/
def State.stackGate (s : State) (n : Fin 4) : Option MemFail :=
  if !s.pdOn ⟨6 + n.val, by omega⟩ || !s.pdOn 13 || !s.mem.keysOk then some .notReady
  else match s.mem.hbm[n.val].st with
    | .ready => none
    | .frozen => some .frozen
    | _ => some .notReady

/-- What a stack answers a requester before any access: a request whose route is off is answered with `NOT_READY` at the last router
that it reaches (10, R283). -/
def State.stackServes (s : State) (q : Requester) (n : Fin 4) : Option MemFail :=
  if s.reaches (requesterUnit q) (.hbm n false) then s.stackGate n else some .notReady

/-! Sectors (R264 to R276). -/

/-- The node that an error names, where the request fetches it: not cached, and written before (R271, R272). -/
def State.fetchedNode (s : State) (n : Fin 4) (i : Nat) (e : MemErr) : Option Nat :=
  let at_ (l : Nat) : Option Nat :=
    let c := nodeCode n l (i / 8 ^ l)
    if 1 ≤ l ∧ l ≤ 9 ∧ !s.mem.cached c ∧ countGet s.mem.nodeCtr c ≠ 0 then some c else none
  match e with
  | .nodeUe l | .nodeCe l | .nodeMismatch l => at_ l
  | _ => none

/-- What the data and the tag of a sector that is read meet (R260, R261, R268, R275). -/
def State.readSector (s : State) (q : Requester) (n : Fin 4) (i a : Nat) (e : MemErr) : Served :=
  match e with
  | .parity held onWire => ⟨s.freeze q n 2 a held onWire, some (.frozen, a), .ok⟩
  | .ce => ⟨s.correctable n, none, .ok⟩
  | .ue held => ⟨(s.memCount n 1).freeze q n 1 a held [], some (.frozen, a), .ok⟩
  | .tagUe => ⟨s.poison q n a (nodeCode n 0 i), some (.unverifiable, a), .ok⟩
  | .mismatch => ⟨s.tagMismatch q n a, some (.mismatch, a), .ok⟩
  | _ => ⟨s, none, e⟩

/-- A sector is opened for the request at address `a`: its stack serves, it is verifiable, its nodes are fetched and hold, and,
when its data is read, its data and tag hold. A sector never written since the keys were drawn is not read (R266). A node whose
tag does not match its parent is answered as a sector's is (DEDUCED, log entry 63). -/
def State.openSector (s : State) (q : Requester) (a b : Nat) (reads : Bool) (e : MemErr) : Served :=
  let (n, loc) := s.mem.locate (512 * b)
  let i := loc / 512
  match s.stackServes q n with
  | some f => ⟨s, some (f, a), e⟩
  | none =>
    match s.mem.poisoned n i with
    | some c => ⟨s.unverifiable q n a c, some (.unverifiable, a), e⟩
    | none =>
      let hit := s.mem.cached (nodeCode n 1 (i / 8))
      let met := s.fetchedNode n i e
      let s := s.memCount n (if hit then 4 else 5)
      match met, e with
      | some c, .nodeUe _ => ⟨s.poison q n a c, some (.unverifiable, a), .ok⟩
      | some _, .nodeMismatch _ => ⟨s.tagMismatch q n a, some (.mismatch, a), .ok⟩
      | _, _ =>
        let s := (if met.isSome then s.correctable n else s).walkNodes n i
        let e := if met.isSome then .ok else e
        if !reads || countGet s.mem.secCtr b = 0 then ⟨s, none, e⟩ else s.readSector q n i a e

/-- Sealed staging slots (08, R239): does one hold an address? -/
def State.sealedAt (s : State) (a : Nat) : Bool :=
  s.cfg.slots.toList.any fun x => x.st = .sealed_ && decide (x.base.toNat ≤ a) && decide (a < x.base.toNat + x.len)

/-- Does a range meet a sealed slot (only one that holds a decrypted stream)? -/
def State.sealedRange (s : State) (a len : Nat) (decrypted : Bool) : Bool :=
  s.cfg.slots.toList.any fun x =>
    x.st = .sealed_ && (x.decrypted || !decrypted) && decide (x.base.toNat < a + len) && decide (a < x.base.toNat + x.len)

/-- Bytes written from an address, leaving out those in a sealed slot (08, R239). -/
def State.writeOpen (s : State) (a : Nat) (bs : Bytes) : Mem :=
  (bs.zipIdx).foldl (fun m e => if s.sealedAt (a + e.2) then m else m.put (a + e.2) e.1) s.mem

/-- A sector written in part or whole (R265, R267, R269). A parity error met by the pair of a whole sector on the interface
freezes the stack and lists the sector; the pair itself completes (R262). -/
def State.writeSector (s : State) (q : Requester) (b off : Nat) (bs : Bytes) (e : MemErr) : Served :=
  let a := 512 * b + off
  let r := s.openSector q a b (bs.length != 512) e
  match r.fail with
  | some _ => r
  | none =>
    let s := r.st
    let (n, loc) := s.mem.locate (512 * b)
    let i := loc / 512
    let top := 2 ^ 64 - 1
    if countGet s.mem.secCtr b = top || (pathOf n i).any fun c => countGet s.mem.nodeCtr c = top then
      ⟨s.alarm 1 a, some (.exhausted, a), r.err⟩
    else
      let s := { s with mem := (s.writeOpen a bs).sealBlock b }
      match r.err with
      | .parity held onWire => ⟨s.freeze q n 2 a held (⟨q, a, true⟩ :: onWire), some (.frozen, a), .ok⟩
      | e => ⟨s, none, e⟩

/-- The sectors of a range: sector, first byte within it, and bytes. -/
def sectorParts (a len : Nat) : List (Nat × Nat × Nat) :=
  if len = 0 then []
  else (List.range ((a + len - 1) / 512 - a / 512 + 1)).map fun k =>
    let b := a / 512 + k
    let lo := max a (512 * b)
    (b, lo - 512 * b, min (a + len) (512 * (b + 1)) - lo)

/-- A read of usable HBM: every sector in order until one fails; a staging slot that holds a decrypted stream is not read (08,
R239). -/
def State.hbmOpen (s : State) (q : Requester) (a len : Nat) (e : MemErr) : Served :=
  if s.sealedRange a len true then ⟨s, some (.sealed_, a), e⟩
  else (sectorParts a len).foldl (fun r p => match r.fail with
    | some _ => r
    | none => r.st.openSector q (512 * p.1 + p.2.1) p.1 true r.err) ⟨s, none, e⟩

/-- A write of usable HBM: every sector in order until one fails. -/
def State.hbmWrite (s : State) (q : Requester) (a : Nat) (bs : Bytes) (e : MemErr) : Served :=
  (sectorParts a bs.length).foldl (fun r p => match r.fail with
    | some _ => r
    | none => r.st.writeSector q p.1 p.2.1 ((bs.drop (512 * p.1 + p.2.1 - a)).take p.2.2) r.err) ⟨s, none, e⟩

/-! Device ranges (R252, R280; 02, R23, R24). -/

/-- The kinds of device memory a range may lie in. -/
inductive AreaKind where
  | hbm | sram
  | worker (w : Fin 32)
  | cellRam (d : Fin 4)
  deriving DecidableEq, Repr

/-- An area of device memory that one range may not leave. -/
structure Area where
  kind : AreaKind
  base : Nat
  size : Nat
  deriving DecidableEq, Repr

/-- The area that holds a device address. -/
def areaOf (a : Nat) : Option Area :=
  if a < hbmBytes then some ⟨.hbm, 0, hbmBytes⟩
  else if sramBase 0 ≤ a ∧ a < sramBase 3 then some ⟨.sram, sramBase 0, 0x6000000⟩
  else if 0x200000000000 ≤ a ∧ a < 0x240000000000 then
    let d : Fin 4 := Fin.ofNat 4 (a / 0x10000000000)
    let o := a % 0x10000000000
    if o < 0x800000 then
      let w : Fin 32 := ⟨d.val * 8 + o / 0x100000 % 8, by omega⟩
      let r := o % 0x100000
      if r < 0x40000 then some ⟨.worker w, progBase w, 0x40000⟩
      else if r < 0x50000 then some ⟨.worker w, xBase w, 0x10000⟩
      else if r < 0x60000 then some ⟨.worker w, yBase w, 0x10000⟩
      else none
    else if 0x1000000 ≤ o ∧ o < 0x1800000 then some ⟨.cellRam d, cellRamBase d, 0x800000⟩
    else none
  else none

/-- The one area in which a range lies wholly (R280). -/
def areaFor (a len : Nat) : Option Area :=
  match areaOf a with
  | none => none
  | some x => if a + len ≤ x.base + x.size then some x else none

/-- The tile column whose region holds a cell RAM address (07, R190; 08, R228). -/
def ramColumn (d : Fin 4) (a : Nat) : Nat := 6 * ((a - cellRamBase d) / 0x100000) + 2

/-- The cell RAM columns of a range. -/
def ramColumns (d : Fin 4) (a len : Nat) : List Nat :=
  (List.range 8).map (fun r => 6 * r + 2) |>.filter fun t => ramColumn d a ≤ t && t ≤ ramColumn d (a + len - 1)

/-- The stacks that a range of usable HBM meets (R253). -/
def Mem.stacksOf (m : Mem) (a len : Nat) : List (Fin 4) :=
  (allFin 4).filter fun n =>
    if m.interleave then decide (a < (n.val + 1) * 0x5C0000000) && decide (n.val * 0x5C0000000 < a + len)
    else (List.range (min 4 ((a + len - 1) / 4096 - a / 4096 + 1))).any fun k => (a / 4096 + k) % 4 = n.val

/-- Does a range meet a Worker that is not halted, cell RAM whose region is not stopped (02, R24; R280), or a unit under test
(17, R446)? -/
def State.areaBusy (s : State) (x : Area) (a len : Nat) : Bool :=
  match x.kind with
  | .worker w => s.workers[w.val].st != .halted || s.underTest (dieUnit (workerDie w) 6)
  | .cellRam d => (ramColumns d a len).any fun t =>
      s.fab[d.val].stateOf t = .running || s.fab[d.val].stateOf t = .loading || s.underTest (dieUnit d (Fin.ofNat 9 (t / 8)))
  | .sram => (allFin 3).any fun q =>
      s.underTest ⟨q.val, by omega⟩ && decide (sramBase q.val < a + len) && decide (a < sramBase (q.val + 1))
  | .hbm => (s.mem.stacksOf a len).any fun n => s.underTest ⟨7 + n.val, by omega⟩

/-- The die of an area. -/
def Area.die (x : Area) : Option (Fin 4) :=
  match x.kind with
  | .worker w => some (workerDie w)
  | .cellRam d => some d
  | _ => none

/-- Does an area lie on a fenced die? -/
def State.areaFenced (s : State) (x : Area) : Bool := x.die.any fun d => s.net.dies[d.val].fenced

/-- Does an area lie on a die whose clock has stopped without a fence: a request into it waits for the handshake timeout (01, R11)? -/
def State.areaStopped (s : State) (x : Area) : Bool := x.die.any s.dieStopped

/-- Does a range lie on a die without power, or in an SRAM slice without power (02, R24; 10, R283)? A die whose clock has stopped
without a fence is not one of these: its handshake times out (01, R11). -/
def State.areaDown (s : State) (x : Area) (a len : Nat) : Bool :=
  (x.die.any fun d => !s.dieStopped d && (!s.net.dies[d.val].clockOn || s.net.dies[d.val].cutOff || !s.dieOn d 0)) ||
    (x.kind = .sram && (allFin 3).any fun q =>
      !s.pdOn ⟨10 + q.val, by omega⟩ && decide (sramBase q.val < a + len) && decide (a < sramBase (q.val + 1)))

/-- Does a range hold a marked unit (17, R453; 19, R35 step 7)? -/
def State.areaMarked (s : State) (x : Area) (a len : Nat) : Bool :=
  match x.kind with
  | .worker w => s.workerMarked w || s.dieMarked (workerDie w)
  | .cellRam d => s.dieMarked d || (ramColumns d a len).any fun t => s.unitMarked (dieUnit d (Fin.ofNat 9 (t / 8)))
  | .sram => (allFin 3).any fun q =>
      s.unitMarked ⟨q.val, by omega⟩ && decide (sramBase q.val < a + len) && decide (a < sramBase (q.val + 1))
  | .hbm => (s.mem.stacksOf a len).any s.stackMarked

/-- The units of the network that hold a range: the Worker, another unit of its die, or the eighths of SRAM, 4 MiB each, in the order
of the routers of a quadrant (10, router attachments; log entry 71). -/
def areaUnits (x : Area) (a len : Nat) : List NetUnit :=
  match x.kind with
  | .worker w => [.die (workerDie w) (Fin.ofNat 32 (w.val % 8))]
  | .cellRam d => [.die d 13]
  | .sram => ((List.range 24).filter fun i =>
      decide (sramBase 0 + i * 0x400000 < a + len) && decide (a < sramBase 0 + (i + 1) * 0x400000)).map fun i =>
        .sram (Fin.ofNat 32 (8 * (i % 8 / 2) + 2 * (i / 8) + i % 2))
  | .hbm => []

/-- Does a requester reach the units of a range outside HBM over the network (10, R283)? -/
def State.areaReached (s : State) (q : Requester) (x : Area) (a len : Nat) : Bool :=
  (areaUnits x a len).all (s.reaches (requesterUnit q))

/-- A Worker's memories have changed other than by `WORK_LOAD` (15, R415). -/
def State.memoryChanged (s : State) (x : Area) : State :=
  match x.kind with
  | .worker w => s.modWorker w fun k => { k with meas := none }
  | _ => s

/-- An uncorrectable error in a word of cell RAM (07, R206): die event +36 with RAM column, row, block, port and address. -/
def State.ramUncorrectable (s : State) (d : Fin 4) (a port : Nat) : State :=
  let o := a - cellRamBase d
  let k := o / 4096
  s.raiseDie d 36 3 d.val
    (detail [(0, 1, k / 256), (1, 1, k / 8 % 32), (2, 1, k % 8), (3, 1, port), (4, 2, o % 4096 / 4)])

/-- What a physical error of a cell RAM read from the hive side comes to (07, R206). The spec gives such a read no port: a free
value (log entry 60). -/
def State.cellRamError (s : State) (d : Fin 4) (a : Nat) (e : MemErr) : State :=
  match e with
  | .ce => s.modFab d fun f => { f with ceRam := satAdd f.ceRam 1 }
  | .ue _ =>
    let (v, s) := s.drawFree
    s.ramUncorrectable d a (v.toNat % 256)
  | _ => s

/-- The word of a read that meets the error: the one at an address where that is given, else any of the read (log entry 60). -/
def State.failingWord (s : State) (a len : Nat) (at_ : Option Nat) : Nat × State :=
  match at_ with
  | some b => (b, s)
  | none =>
    let (v, s) := s.drawFree
    (a + 4 * (v.toNat % max 1 (len / 4)), s)

/-- A read of an area: its bytes, where it succeeds. `at_` is the address that meets the error, where it is given. -/
def State.areaRead (s : State) (q : Requester) (x : Area) (a len : Nat) (e : MemErr) (at_ : Option Nat := none) : Served × Bytes :=
  if s.areaFenced x then (⟨s, some (.fenced, a), e⟩, [])
  else if !s.areaReached q x a len then (⟨s, some (.notReady, a), e⟩, [])
  else
    let r : Served := match x.kind with
      | .hbm => s.hbmOpen q a len e
      | .cellRam d =>
        if e = .ok then ⟨s, none, .ok⟩
        else
          let (b, s) := s.failingWord a len at_
          ⟨s.cellRamError d b e, none, .ok⟩
      | _ => if s.sealedRange a len true then ⟨s, some (.sealed_, a), e⟩ else ⟨s, none, e⟩
    (r, s.mem.read a len)

/-- A write of an area. -/
def State.areaWrite (s : State) (q : Requester) (x : Area) (a : Nat) (bs : Bytes) (e : MemErr) : Served :=
  if s.areaFenced x then ⟨s, some (.fenced, a), e⟩
  else if !s.areaReached q x a bs.length then ⟨s, some (.notReady, a), e⟩
  else if x.kind = .hbm then s.hbmWrite q a bs e
  else ⟨({ s with mem := s.writeOpen a bs }).memoryChanged x, none, e⟩

/-- Where a range that holds the device address of a command's physical error (log entry 4) is cut: the bytes before the sector
of that address. -/
def errCut (p : Pkt) (a len : Nat) : Option Nat :=
  if p.err != .ok && decide (a ≤ p.errAt) && decide (p.errAt < a + len) then some (p.errAt / 512 * 512 - a) else none

/-- A command's read of an area, which may meet the physical error that its packet carries. -/
def State.readFor (s : State) (p : Pkt) (q : Requester) (x : Area) (a len : Nat) : Served × Bytes :=
  match errCut p a len with
  | none => s.areaRead q x a len .ok
  | some n =>
    let (r, bs) := s.areaRead q x a n .ok
    match r.fail with
    | some _ => (r, bs)
    | none =>
      let (r, cs) := r.st.areaRead q x (a + n) (len - n) p.err (some p.errAt)
      (r, bs ++ cs)

/-- A command's write of an area, which may meet the physical error that its packet carries. -/
def State.writeFor (s : State) (p : Pkt) (q : Requester) (x : Area) (a : Nat) (bs : Bytes) : Served :=
  match errCut p a bs.length with
  | none => s.areaWrite q x a bs .ok
  | some n =>
    let r := s.areaWrite q x a (bs.take n) .ok
    match r.fail with
    | some _ => r
    | none => r.st.areaWrite q x (a + n) (bs.drop n) p.err

/-- The nodes over a chunk of a window are fetched (R273). -/
def State.prefetch (s : State) (a : Nat) : State :=
  let (n, loc) := s.mem.locate a
  if s.stackGate n = none ∧ a < hbmBytes then s.walkNodes n (loc / 512) else s

/-- A range of device memory overwritten with zeros (08, R239): in HBM as writes of its sectors, for which their nodes are fetched
(R270, R272), where their stack serves. -/
def State.zeroRange (s : State) (a len : Nat) : State :=
  (sectorParts a len).foldl (fun s p =>
    let (n, loc) := s.mem.locate (512 * p.1)
    if p.1 < hbmBytes / 512 ∧ s.stackGate n = none then
      let s := s.walkNodes n (loc / 512)
      { s with mem := s.mem.sealBlock p.1 }
    else s) { s with mem := s.mem.lose a len none }

/-! Ranges that commands name (R280; 08, R239). -/

/-- Is a device range one that a command may read, or write (R280; 08, R239)? -/
def State.rangeOk (s : State) (a len : Nat) (write : Bool) : Bool :=
  (areaFor a len).isSome && decide (0 < len) && !s.sealedRange a len (!write)

/-- What the units of a device range answer on arrival, as steps 7 and 8 of R35 order them: a marked unit, a fenced die, HBM that
cannot serve or a die without power, a Worker not halted or a region not stopped. `idx` names the field. -/
def State.rangeCheck (s : State) (a len idx : Nat) : List (Nat × Option Verdict) :=
  match areaFor a len with
  | none => []
  | some x =>
    [(0, refuseIf (s.areaMarked x a len) stUnusable),
     (1, refuseIf (s.areaFenced x) stFenced),
     (2, refuseIf ((x.kind = .hbm && (s.mem.stacksOf a len).any fun n => s.stackGate n = some .notReady) || s.areaDown x a len)
        stNotReady),
     (3, refuseIf (s.areaBusy x a len) stBusy idx)]

/-- The first refusal of several ranges, step by step. -/
def firstInSteps (l : List (Nat × Option Verdict)) : Option Verdict :=
  firstOf ((List.range 4).flatMap fun k => (l.filter (·.1 = k)).map (·.2))

/-- `ERROR` of a transfer (R280): 5 is the failure of host memory. -/
def MemFail.code (f : MemFail) (free : Word) : Word :=
  match f with
  | .mismatch => 1
  | .unverifiable => 2
  | .frozen => 3
  | .fenced => 4
  | .notReady | .exhausted | .sealed_ => free

/-! Training (R258, R259, R263). -/

/-- Did a stack train: every failing lane repaired, in force before or by this command (R258, R259)? -/
def State.trained (s : State) (n : Fin 4) (r : TrainResult) (repair : Bool) : Bool :=
  repair || r.failing.all fun i => s.mem.hbm[n.val].repairs.contains i

/-- One stack's training ends (R258, R259, R263): READY, or with `TRAIN_FAIL` and `E043` UNTRAINED; a stack that was frozen stays
frozen either way. -/
def State.stackTrained (s : State) (n : Fin 4) (r : TrainResult) (repair : Bool) : State :=
  let fresh := r.failing.filter fun i => !s.mem.hbm[n.val].repairs.contains i
  if s.trained n r repair then
    s.modStack n fun x => { x with
      st := if x.wasFrozen then .frozen else .ready, trainFail := false, repairs := x.repairs ++ fresh }
  else
    (s.modStack n fun x => { x with st := if x.wasFrozen then .frozen else .untrained, trainFail := true }).raise 43 3 n.val
      (detail [(0, 2, fresh.length)])

/-! Losses (R277, R278, R281, R282). -/

/-- The HBM contents that a test of stacks selects are lost, and their roots are zero: they read as zeros. -/
def Mem.dropStacks (m : Mem) (on : Fin 4 → Bool) : Mem :=
  { m with
    cells := m.cells.filter fun c => !(decide (c.1 < hbmBytes) && on (m.locate c.1).1)
    secCtr := m.secCtr.filter fun c => !on (m.locate (512 * c.1)).1
    tags := m.tags.filter fun c => !on (m.locate (512 * c.1)).1
    nodeTags := m.nodeTags.filter fun c => !on (Fin.ofNat 4 (codeStack c.1))
    nodeCtr := m.nodeCtr.filter fun c => !on (Fin.ofNat 4 (codeStack c.1))
    cache := m.cache.filter fun c => !on (Fin.ofNat 4 (codeStack c.1)) }

/-- A new key set drawn from the DRBG, a 512-bit XTS key and a 256-bit MAC key: everything written so far is gone, the poison
list is empty (R277, R278). -/
def State.newKeys (s : State) (keyId : BitVec 16) (interleave : Bool) : State :=
  let m := s.mem.dropStacks fun _ => true
  { s with
    mem := { m with
      keyId := keyId, keysOk := true, interleave := interleave, poison := []
      xtsKey := Config.random s.sec.draws ++ Config.random (s.sec.draws + 1), macKey := Config.random (s.sec.draws + 2)
      hbm := m.hbm.map fun x => { x with poisonFull := false } }
    sec := { s.sec with draws := s.sec.draws + 3 } }

/-- A request waits for the end of the rekey (R278 step 1). -/
def State.waitRekey (s : State) (r : MemReq) : State := s.modMem fun m => { m with waiting := m.waiting ++ [r] }

/-- Whole frozen stacks: the nodes of a stack are written back, level by level (R263). -/
def Mem.writeBackStack (m : Mem) (n : Fin 4) : Mem :=
  (List.range 9).foldl (fun m l =>
    (m.cache.filter fun e => e.2 && codeStack e.1 = n.val && codeLevel e.1 = l + 1).foldl (fun m e => m.writeBack e.1) m) m

end Sys2Proof.Machine
end

