-- ==== Sys2Proof/Machine/FailCmds.lean ====
section
/-! DEFINITION. The fail pipeline (spec/06_fail_capture_and_repair.md, R162 to R175): the books, the log ring and the FAIL
commands. -/

namespace Sys2Proof.Machine

/-! Sites (R162, R171 to R173). -/

/-- Does a group hold an enabled pin of a site? -/
def Group.feeds (x : Group) (site : Fin 32) : Bool := x.pins.toList.any fun p => p.en && p.site = site

/-- Is a site running (R162)? The groups of a fenced die are stopped (10, R304). -/
def State.siteRuns (s : State) (site : Fin 32) : Bool :=
  (allFin 16).any fun g =>
    let x := s.groups[g.val]
    !s.net.dies[(groupDie g).val].fenced && x.feeds site && (x.active || x.st = .halted)

/-- Does a die hold an enabled pin of a site? -/
def State.dieFeeds (s : State) (d : Fin 4) (site : Fin 32) : Bool := (dieGroups d).any fun g => s.groups[g.val].feeds site

/-- Is a die that holds an enabled pin of a site fenced (R173)? -/
def State.siteFenced (s : State) (site : Fin 32) : Bool := (allFin 4).any fun d => s.net.dies[d.val].fenced && s.dieFeeds d site

/-- The site of a fail record (R166). -/
def recSite (r : FailRec) : Fin 32 := Fin.ofNat 32 (bitsOf r.toNat 52 5)

/-- The records of a die's groups that have left their FIFOs and not yet been entered: on the die's link, in the mesh, and at the
pipeline (R168; 10, R286). -/
def State.onTheWay (s : State) (d : Fin 4) : List (BitVec 128) :=
  let x := s.net.dies[d.val]
  (((untaken x.dieBuf x.rxSeq).filterMap LinkFlit.failRecord ++ s.net.mesh.filterMap MeshFlit.failRecord ++ s.brood.inbox).filter
    fun e => groupDie e.1 = d).map (·.2)

/-- The records of a site on a die on their way to the pipeline. -/
def State.flying (s : State) (d : Fin 4) (site : Fin 32) : Nat :=
  ((dieGroups d).map fun g => (s.groups[g.val].fail.fifo.filter fun r => recSite r = site).length).foldl (· + ·) 0 +
    ((s.onTheWay d).filter fun r => recSite r = site).length

/-- `IN_FLIGHT` (site book). -/
def State.inFlight (s : State) (site : Fin 32) : Nat := ((allFin 4).map fun d => s.flying d site).foldl (· + ·) 0

/-- The sites of a mask in ascending order. -/
def sitesOf (m : Nat) : List (Fin 32) := (allFin 32).filter fun i => m.testBit i.val

/-- `UNBALANCED` set for the sites that a die feeds (R173, R188). -/
def State.unbalance (s : State) (d : Fin 4) : State :=
  forAll ((allFin 32).filter fun i => s.dieFeeds d i) (fun i s => s.modSite i fun x => { x with unbalanced := true }) s

/-- All ones of 48 bits. -/
def ones48 : Nat := 0xFFFFFFFFFFFF

/-- Entries of a site's book on the hive die by name: 0 STORED, 1 MERGED, 2 DROP_NOPART, 3 DROP_GEOM, 4 DROP_FULL, 5 CELL_NEW,
6 CELL_REPEAT, 7 CELL_COVERED, 8 CELL_LOST. -/
def Site.count (x : Site) (i : Fin 9) : Site := { x with book := upd x.book i (· + 1) }

/-- The flags of a site (site flags of 06). -/
def State.siteFlags (s : State) (site : Fin 32) : Nat :=
  let x := s.brood.sites[site.val]
  let src := ((allFin 4).map fun d => x.dieBook[d.val][3]).foldl (· + ·) 0
  let f := bitAt (src != 0) 2 + bitAt (x.book[8] != 0) 3 + bitAt (x.book[3] != 0) 4 + bitAt (x.book[2] != 0) 5 +
    bitAt x.unbalanced 6 + bitAt x.lostNew 8
  bitAt (f = 0 && s.inFlight site = 0) 0 + f + bitAt x.solved 7

/-- A site's book as `FAIL_COUNTS` returns it (site book table; R173): the die-side counts of a fenced die read as zero. -/
def State.siteBook (s : State) (site : Fin 32) : Words :=
  let x := s.brood.sites[site.val]
  let side (i : Fin 4) : Nat :=
    ((allFin 4).map fun d => if s.net.dies[d.val].fenced then 0 else x.dieBook[d.val][i.val]).foldl (· + ·) 0
  let fly := if s.siteFenced site then ones48 else s.inFlight site
  ((List.map side (allFin 4)) ++ [fly] ++ x.book.toList).flatMap (fun v => word2 (v % 2 ^ 48)) ++
    word2 (s.siteFlags site) ++ [0, 0]

/-- The counters of R174 of a group; those on a fenced die cannot be read (R173). -/
def State.groupCounters (s : State) (g : Fin 16) : Words :=
  let x := s.groups[g.val]
  if s.net.dies[(groupDie g).val].fenced then List.replicate 14 0
  else (x.pins.toList.map (·.fails)) ++ word2 ((x.fail.first.getD 0).toNat) ++ word2 ((x.fail.last.getD 0).toNat) ++
    word2 (x.fail.produced % 2 ^ 48)

/-- The books and flags of a site are cleared (`FAIL_CLEAR`): records on their way stay counted as produced, so that the
books still balance (R171; log entry 29). -/
def State.clearBooks (s : State) (site : Fin 32) : State :=
  s.modSite site fun x => { x with
    dieBook := Vector.ofFn fun d : Fin 4 => Vector.ofFn fun i : Fin 4 => if i.val % 2 = 0 then s.flying d site else 0
    book := Vector.replicate 9 0, unbalanced := false, solved := false, lostNew := false, lostNoBlock := 0, overflow := false }

/-! The log ring (R169, R170). -/

/-- A record copied to the log ring, or counted as lost to it; `e` is the physical error that the write meets. -/
def State.logNow (s : State) (r : FailRec) (e : MemErr) : State :=
  let b := s.brood
  if b.logMode = 0 then s
  else
    let slots := 2 ^ b.logSize.toNat
    let lost (s : State) : State := { s with brood := { s.brood with logLost := s.brood.logLost + 1 } }
    if b.logMode = 2 && decide (slots ≤ b.logHead.toNat) then lost s
    else
      let a := b.logBase.toNat + 16 * (b.logHead.toNat % slots)
      let w := s.hbmWrite .failLog a (numBytes 16 r.toNat) e
      match w.fail with
      | some _ => lost w.st
      | none => { w.st with brood := { w.st.brood with logHead := w.st.brood.logHead + 1 } }

/-- A record goes to the log; while a rekey runs its write waits (09, R278), and it is counted when that is served. -/
def State.logRecord (s : State) (r : FailRec) (e : MemErr) : State :=
  if s.brood.logMode != 0 && s.mem.rekey.isSome then s.waitRekey (.logRecord r e) else s.logNow r e

/-! The FAIL commands. -/

/-- Does `FAIL_SET` set a ring? -/
def setsRing (b : Words) : Bool := fld b 56 1 1 = 0 && fld b 32 0 2 != 0

/-- The groups of a mask. -/
def maskGroups (m : Nat) : List (Fin 16) := (allFin 16).filter fun g => m.testBit g.val

/-- Is a group in one of its running states (R162, R174)? -/
def Group.inRun (x : Group) : Bool := x.active || x.st = .halted

/-- `FAIL_SET`: a newly set log starts its counts at zero (R169; log entry 29). -/
def failSetAct (j : Job) (s : State) : Act :=
  let b := j.args
  let s := if fld b 56 1 1 = 1 then s else
    { s with brood := { s.brood with
      logMode := BitVec.ofNat 2 (fld b 32 0 2), logSize := BitVec.ofNat 5 (fld b 32 8 5)
      logBase := if fld b 32 0 2 = 0 then s.brood.logBase else BitVec.ofNat 48 (fld b 40 0 48), logHead := 0, logLost := 0 } }
  .done (forAll (maskGroups (fld b 48 0 16)) (fun g s => s.modGroup g fun x =>
    { x with fail := { x.fail with threshold := BitVec.ofNat 32 (fld b 52 0 32), suppress := fld b 56 0 1 = 1 } }) s) []

/-- `FAIL_SET` (R162, R169, R175). -/
def cmdFailSet : CmdDef :=
  { CmdDef.plain 0x0800 60 modeOps
      [⟨0, 32, 0, 2, .names (· < 3)⟩, ⟨1, 32, 8, 5, .clamp 8 28⟩, ⟨2, 40, 0, 48, .any⟩, ⟨3, 48, 0, 16, .any⟩,
       ⟨4, 52, 0, 32, .any⟩, ⟨5, 56, 0, 1, .any⟩, ⟨6, 56, 1, 1, .any⟩] failSetAct with
    naming := fun _ _ p =>
      let b := p.block
      let base := fld b 40 0 48
      if setsRing b && (base % 4096 != 0 || hbmBytes < base + 16 * 2 ^ clampNat 8 28 (fld b 32 8 5)) then [2] else []
    checks := fun s j =>
      let b := j.args
      let gs := maskGroups (fld b 48 0 16)
      firstOf [busyFields ((if fld b 56 1 1 = 0 && (allFin 32).any s.siteRuns then [0] else []) ++
          (if gs.any fun g => s.groups[g.val].inRun then [3] else []))] }

/-- `FAIL_SET`: the row. -/
def execFailSet (p : Pkt) (s : State) : Host.Outcome State Fault Refusal := .next (cmdFailSet.fetch p s)

/-- `FAIL_COUNTS` (R171 to R174): while a die of a site is fenced the command sets the site's `UNBALANCED`. -/
def cmdFailCounts : CmdDef :=
  .plain 0x0801 36 modeAny [⟨0, 32, 0, 32, .names (· != 0)⟩] fun j s =>
    let l := sitesOf (fld j.args 32 0 32)
    let s := forAll (l.filter fun i => s.siteFenced i) (fun i s => s.modSite i fun x => { x with unbalanced := true }) s
    .done s (word2 s.brood.logHead.toNat ++ word2 s.brood.logLost.toNat ++ l.flatMap s.siteBook ++
      (allFin 16).flatMap s.groupCounters)

/-- `FAIL_COUNTS`: the row. -/
def execFailCounts (p : Pkt) (s : State) : Host.Outcome State Fault Refusal := .next (cmdFailCounts.fetch p s)

/-- `FAIL_CLEAR` (R174). -/
def cmdFailClear : CmdDef :=
  { CmdDef.plain 0x0802 36 modeOps [⟨0, 32, 0, 32, .names (· != 0)⟩] (fun j s =>
      .done (forAll (sitesOf (fld j.args 32 0 32)) (fun i s => s.clearBooks i) s) []) with
    checks := fun s j => refuseIf ((sitesOf (fld j.args 32 0 32)).any s.siteRuns) stBusy 0 }

/-- `FAIL_CLEAR`: the row. -/
def execFailClear (p : Pkt) (s : State) : Host.Outcome State Fault Refusal := .next (cmdFailClear.fetch p s)

end Sys2Proof.Machine
end

