-- ==== Sys2Proof/Machine/BroodCmds.lean ====
section
/-! DEFINITION. The Brood engine (spec/06_fail_capture_and_repair.md, R176 to R187): decoding of records into cells, the
table, online must-repair, solving, and the BROOD commands. -/

namespace Sys2Proof.Machine

/-! Blocks and lines (R179, R180). -/

/-- Is a cell before another: by block, then row, then column? -/
def Cell3.before (a b : Cell3) : Bool :=
  decide (a.block < b.block) || (a.block = b.block &&
    (decide (a.row < b.row) || (a.row = b.row && decide (a.col < b.col))))

/-- A cell put into a rising list. -/
def putCell (c : Cell3) : List Cell3 → List Cell3
  | [] => [c]
  | d :: l => if d.before c then d :: putCell c l else c :: d :: l

/-- A line put into a rising list of allocated lines. -/
def putLine (n : Nat) (must : Bool) : List (Nat × Bool) → List (Nat × Bool)
  | [] => [(n, must)]
  | d :: l => if d.1 < n then d :: putLine n must l else (n, must) :: d :: l

/-- Is a row allocated? -/
def Block.hasRow (b : Block) (r : Nat) : Bool := b.rows.any fun e => e.1 = r
/-- Is a column allocated? -/
def Block.hasCol (b : Block) (c : Nat) : Bool := b.cols.any fun e => e.1 = c
/-- Is a cell covered by a line of the must-repair rule? -/
def Block.covers (b : Block) (c : Cell3) : Bool := b.hasRow c.row || b.hasCol c.col
/-- Is a cell covered by what the last solve found: a line that it allocated, or that the block is unrepairable (R179)? -/
def Block.solveCovers (b : Block) (c : Cell3) : Bool :=
  b.verdict = 2 || (b.xRows.any fun e => e.1 = c.row) || b.xCols.any fun e => e.1 = c.col

/-- Free spare rows. -/
def Block.freeRows (b : Block) (g : Geom) : Nat := g.sRows - b.rows.length
/-- Free spare columns. -/
def Block.freeCols (b : Block) (g : Geom) : Nat := g.sCols - b.cols.length

/-- A spare row allocated to a row; with none free the block becomes unrepairable. -/
def Block.takeRow (b : Block) (g : Geom) (r : Nat) (must : Bool) : Block :=
  if b.freeRows g = 0 then { b with unrep := true } else { b with rows := putLine r must b.rows }
/-- A spare column allocated to a column; with none free the block becomes unrepairable. -/
def Block.takeCol (b : Block) (g : Geom) (c : Nat) (must : Bool) : Block :=
  if b.freeCols g = 0 then { b with unrep := true } else { b with cols := putLine c must b.cols }

/-- The count of a row: its cells that are not covered. -/
def Block.rowCount (b : Block) (cells : List Cell3) (r : Nat) : Nat := (cells.filter fun c => c.row = r && !b.covers c).length
/-- The count of a column. -/
def Block.colCount (b : Block) (cells : List Cell3) (k : Nat) : Nat := (cells.filter fun c => c.col = k && !b.covers c).length

/-- A row forced, or not (R180). -/
def Block.mustRow (b : Block) (g : Geom) (cells : List Cell3) (r : Nat) : Block :=
  if !b.hasRow r && decide (b.freeCols g < b.rowCount cells r) then b.takeRow g r true else b
/-- A column forced, or not (R180). -/
def Block.mustCol (b : Block) (g : Geom) (cells : List Cell3) (c : Nat) : Block :=
  if !b.hasCol c && decide (b.freeRows g < b.colCount cells c) then b.takeCol g c true else b

/-- The values of a list in rising order, each once. -/
def risingNats (l : List Nat) : List Nat := (sortInts (l.map Int.ofNat)).eraseDups.map Int.toNat

/-- One pass of must_fixpoint (R183). -/
def Block.mustPass (b : Block) (g : Geom) (cells : List Cell3) : Block :=
  let b := (risingNats (cells.map (·.row))).foldl (fun b r => b.mustRow g cells r) b
  (risingNats (cells.map (·.col))).foldl (fun b c => b.mustCol g cells c) b

/-- must_fixpoint (R183): one pass in every case, then more until one changes nothing or the block is unrepairable. Each pass
that changes the block allocates a line, and at most 30 lines can be allocated. -/
def Block.mustFix (b : Block) (g : Geom) (cells : List Cell3) : Block :=
  iter (fun b => if b.unrep then b else b.mustPass g cells) 30 (b.mustPass g cells)

/-! Solving (R183). -/

/-- The exhaustive search (R183): the lines chosen in it, the free spares, the best solution so far. `fuel` is the number of
free spares left, one more than which the search never nests. -/
def Block.search (b : Block) (cells : List Cell3) : Nat → List Nat → List Nat → Nat → Nat → Option (List Nat × List Nat) →
    Option (List Nat × List Nat)
  | 0, _, _, _, _, best => best
  | fuel + 1, rows, cols, fr, fc, best =>
    let size := rows.length + cols.length
    match cells.find? fun c => !b.covers c && !rows.contains c.row && !cols.contains c.col with
    | none => match best with
      | none => some (rows, cols)
      | some x => if size < x.1.length + x.2.length then some (rows, cols) else best
    | some c =>
      if best.any fun x => x.1.length + x.2.length ≤ size + 1 then best
      else
        let best := if 0 < fr then b.search cells fuel (c.row :: rows) cols (fr - 1) fc best else best
        if 0 < fc then b.search cells fuel rows (c.col :: cols) fr (fc - 1) best else best

/-- The unallocated line with the largest count among those that a free spare can take (R183): true for a row. -/
def Block.greatest (b : Block) (g : Geom) (cells : List Cell3) : Option (Bool × Nat) :=
  let rows := if b.freeRows g = 0 then [] else
    (risingNats (cells.map (·.row))).filterMap fun r => if b.hasRow r then none else some (true, r, b.rowCount cells r)
  let cols := if b.freeCols g = 0 then [] else
    (risingNats (cells.map (·.col))).filterMap fun c => if b.hasCol c then none else some (false, c, b.colCount cells c)
  ((rows ++ cols).foldl (fun (best : Option (Bool × Nat × Nat)) x => match best with
    | none => some x
    | some y => if y.2.2 < x.2.2 then some x else best) none).map fun x => (x.1, x.2.1)

/-- The greedy order (R183); each round but the last allocates a line. -/
def Block.greedyLoop (g : Geom) (cells : List Cell3) : Nat → Block → Block × Bool
  | 0, b => (b, false)
  | fuel + 1, b =>
    if cells.all b.covers then (b, true)
    else match b.greatest g cells with
      | none => (b, false)
      | some (row, n) =>
        let b := if row then b.takeRow g n false else b.takeCol g n false
        let b := b.mustFix g cells
        if b.unrep then (b, false) else Block.greedyLoop g cells fuel b

/-- A block that is to be solved again: what an earlier solve chose is given back, so that the lines allocated depend on the
cells alone (R185). -/
def Block.unsolved (b : Block) : Block := { b with xRows := [], xCols := [], verdict := 0, greedy := false }

/-- A block with the verdict of a solve: 1 REPAIRABLE, 2 UNREPAIRABLE. The lines that the solve chose in `r` stand beside those
of the must-repair rule. -/
def Block.solved (b r : Block) (verdict : BitVec 2) (greedy : Bool) : Block :=
  { b with xRows := r.rows.filter fun e => !b.hasRow e.1, xCols := r.cols.filter fun e => !b.hasCol e.1
           verdict := verdict, greedy := greedy }

/-- solve_block (R183). -/
def Block.solve (b : Block) (g : Geom) (cells : List Cell3) : Block :=
  let b := b.unsolved.mustFix g cells
  if b.unrep then b.solved b 2 false
  else if g.sRows ≤ 8 && g.sCols ≤ 8 then
    match b.search cells (b.freeRows g + b.freeCols g + 1) [] [] (b.freeRows g) (b.freeCols g) none with
    | none => b.solved b 2 false
    | some (rows, cols) =>
      let r := rows.foldl (fun b r => b.takeRow g r false) b
      b.solved (cols.foldl (fun b c => b.takeCol g c false) r) 1 false
  else
    let r := Block.greedyLoop g cells 32 b
    b.solved r.1 (if r.2 then 1 else 2) true

/-! Records (R177 to R180, R186). -/

/-- The entries of a block. -/
def Site.cellsOf (x : Site) (block : Nat) : List Cell3 := x.cells.filter fun c => c.block = block

/-- The failing cells of a block that its repair is made for: its entries, and those that an earlier solve had covered. -/
def Site.failing (x : Site) (b : Block) : List Cell3 := b.absorbed.foldl (fun l c => putCell c l) (x.cellsOf b.num)

/-- A block of a site changed, or added in ascending order. -/
def putBlock (b : Block) : List Block → List Block
  | [] => [b]
  | c :: l => if c.num = b.num then b :: l else if b.num < c.num then b :: c :: l else c :: putBlock b l

/-- The cells of a record (R177), each once. -/
def cellsOfRec (x : Group) (g : Geom) (r : FailRec) : List Cell3 :=
  let n := r.toNat
  let addr := bitsOf n 64 32
  let data := bitsOf n 96 16
  let col := bitsOf (if g.colSrc then data else addr) g.colPos g.colW
  ((allFin 8).filterMap fun p =>
    if bitOf n (112 + p.val) then
      some { block := bitsOf addr g.blkPos g.blkW, row := bitsOf addr g.rowPos g.rowW
             col := (col <<< g.ioW) ||| (x.pins[p.val].io.toNat % 2 ^ g.ioW) }
    else none).eraseDups

/-- What became of a cell (R179). -/
inductive CellFate where
  | covered | repeated | fresh | lost
  deriving DecidableEq, Repr

/-- One cell applied (R179, R180, R186). A cell that a solve's lines or verdict cover takes no entry, but the block keeps it for the
next solve, so that what that finds depends on the cells alone (R185; log entry 59); a new entry takes back the verdict of an earlier
solve and the lines that it chose (R187). -/
def State.applyCell (s : State) (site : Fin 32) (g : Geom) (c : Cell3) : State × CellFate :=
  let x := s.brood.sites[site.val]
  let b? := x.blocks.find? fun b => b.num = c.block
  let b := b?.getD { num := c.block, rows := [], cols := [], xRows := [], xCols := [], unrep := false, verdict := 0
                     greedy := false, lost := false, absorbed := [] }
  if b.unrep || b.covers c then (s.modSite site fun x => x.count 7, .covered)
  else if b.solveCovers c then
    let b := if x.cells.contains c || b.absorbed.contains c then b else { b with absorbed := c :: b.absorbed }
    (s.modSite site fun x => ({ x with blocks := putBlock b x.blocks }).count 7, .covered)
  else if x.cells.contains c then (s.modSite site fun x => x.count 6, .repeated)
  else if x.cells.length < 1024 * x.size.toNat then
    let cells := putCell c x.cells
    let own := cells.filter (fun d => d.block = c.block) ++ b.absorbed
    let b := (b.unsolved.mustRow g own c.row).mustCol g own c.col
    (s.modSite site fun x => ({ x with cells := cells, blocks := putBlock b x.blocks }).count 5, .fresh)
  else
    let s := s.modSite site fun x =>
      let x := x.count 8
      let x := match b? with
        | some b => { x with blocks := putBlock { b with lost := true } x.blocks }
        | none => { x with lostNew := true, lostNoBlock := min (x.lostNoBlock + 1) 0xFFFFFFFF }
      { x with overflow := true }
    (if x.overflow then s else s.raise 34 3 site.val (detail [(4, 2, c.block)]), .lost)

/-- Does the Brood engine run: its domain is on and its clock stands (R188; 13, R376)? -/
def State.broodRuns (s : State) : Bool := s.pdOn 14 && s.hiveClocked

/-- A record applied to the table (R178, R179). -/
def State.applyRecord (s : State) (group : Fin 16) (r : FailRec) : State :=
  let site := recSite r
  let x := s.brood.sites[site.val]
  let drop (i : Fin 9) (kind : Nat) : State := (s.modSite site fun x => x.count i).raise 36 2 site.val (detail [(0, 1, kind)])
  match x.geom with
  | none => drop 2 2
  | some g =>
    if x.size = 0 then drop 2 2
    else
      let cells := cellsOfRec s.groups[group.val] g r
      if cells.any fun c => g.blocks ≤ c.block || g.rows ≤ c.row || g.cols ≤ c.col then drop 3 1
      else
        let (s, fates) := cells.foldl (fun (a : State × List CellFate) c =>
          let (s, f) := a.1.applyCell site g c
          (s, f :: a.2)) (s, [])
        s.modSite site fun x =>
          x.count (if fates.contains .lost then 4 else if fates.contains .fresh then 0 else 1)

/-- `FAIL_RECORD` (R168): the oldest record of a group that has come over its die's link and the mesh (10, R286) goes to the log and
to the table. -/
def execFailRecord (x : FailArrival) (s : State) : Host.Outcome State Fault Refusal :=
  .next (if !s.broodRuns then s
    else match s.brood.inbox.find? (·.1 = x.g) with
      | none => s
      | some e =>
        let s := { s with brood := { s.brood with inbox := s.brood.inbox.erase e } }
        (s.logRecord e.2 x.err).applyRecord x.g e.2)

/-- `BACKGROUND_SWEEP` (R180): the forced lines of a block are found. -/
def execBackgroundSweep (site : Fin 32) (block : Nat) (s : State) : Host.Outcome State Fault Refusal :=
  let x := s.brood.sites[site.val]
  .next (match x.geom, x.blocks.find? fun b => b.num = block with
    | some g, some b =>
      if s.broodRuns then s.modSite site fun x => { x with blocks := putBlock (b.mustFix g (x.failing b)) x.blocks } else s
    | _, _ => s)

/-! The BROOD commands. -/

/-- The fields of `BROOD_GEOMETRY` (R176). -/
def geomFields : List Field :=
  [⟨0, 32, 0, 13, .clamp 1 4096⟩, ⟨1, 36, 0, 21, .clamp 1 1048576⟩, ⟨2, 40, 0, 17, .clamp 1 65536⟩, ⟨3, 44, 0, 4, .any⟩,
   ⟨4, 44, 8, 4, .any⟩, ⟨5, 48, 0, 5, .any⟩, ⟨6, 48, 8, 4, .names (· ≤ 12)⟩, ⟨7, 48, 16, 5, .any⟩,
   ⟨8, 52, 0, 5, .names (· ≤ 20)⟩, ⟨9, 52, 8, 1, .any⟩, ⟨10, 52, 16, 5, .any⟩, ⟨11, 56, 0, 5, .names (· ≤ 16)⟩,
   ⟨12, 56, 8, 3, .names (· ≤ 5)⟩]

/-- The geometry of a block of parameters (R176). -/
def geomOf (b : Words) : Geom :=
  { blocks := fld b 32 0 13, rows := fld b 36 0 21, cols := fld b 40 0 17, sRows := fld b 44 0 4, sCols := fld b 44 8 4
    blkPos := fld b 48 0 5, blkW := fld b 48 8 4, rowPos := fld b 48 16 5, rowW := fld b 52 0 5, colSrc := fld b 52 8 1 = 1
    colPos := fld b 52 16 5, colW := fld b 56 0 5, ioW := fld b 56 8 3 }

/-- The site that a packet names. -/
def packetSite (p : Pkt) : Fin 32 := Fin.ofNat 32 p.unit.toNat

/-- May a site's repair settings not change: it runs, or its partition holds entries (R178)? -/
def State.siteHeld (s : State) (i : Fin 32) : Bool := s.siteRuns i || !s.brood.sites[i.val].cells.isEmpty

/-- `BROOD_GEOMETRY` (R176, R178). -/
def cmdBroodGeometry : CmdDef :=
  { CmdDef.plain 0x0900 60 modeOps geomFields (fun j s =>
      .done (s.modSite (packetSite j.p) fun x => { x with geom := some (geomOf j.args) }) []) with
    unitMax := 31
    naming := fun _ _ p =>
      let g := geomOf p.block
      (if 32 < g.blkPos + g.blkW then [6] else []) ++ (if 32 < g.rowPos + g.rowW then [8] else []) ++
        (if (if g.colSrc then 16 else 32) < g.colPos + g.colW then [11] else [])
    checks := fun s j => firstOf [checkBrood s, refuseIf (s.siteHeld (packetSite j.p)) stBusy 0] }

/-- `BROOD_GEOMETRY`: the row. -/
def execBroodGeometry (p : Pkt) (s : State) : Host.Outcome State Fault Refusal := .next (cmdBroodGeometry.fetch p s)

/-- The base and size of a site's partition in a block of parameters. -/
def partOf (b : Words) (i : Fin 32) : Nat × Nat := (fld b (32 + 4 * i.val) 0 7, fld b (32 + 4 * i.val) 8 8)

/-- Do two partitions overlap? -/
def partsMeet (a b : Nat × Nat) : Bool := 0 < a.2 && 0 < b.2 && a.1 < b.1 + b.2 && b.1 < a.1 + a.2

/-- `BROOD_PARTITION` (R178). -/
def cmdBroodPartition : CmdDef :=
  { CmdDef.plain 0x0901 160 modeOps
      ((List.range 32).flatMap fun i => [⟨2 * i, 32 + 4 * i, 0, 7, .any⟩, ⟨2 * i + 1, 32 + 4 * i, 8, 8, .any⟩]) (fun j s =>
      .done (forAll (allFin 32) (fun i s => s.modSite i fun x =>
        { x with base := BitVec.ofNat 7 (partOf j.args i).1, size := BitVec.ofNat 8 (partOf j.args i).2 }) s) []) with
    naming := fun _ _ p =>
      let b := p.block
      (allFin 32).filterMap fun i =>
        let x := partOf b i
        if 128 < x.1 + x.2 || (allFin 32).any fun k => k < i && partsMeet (partOf b k) x then some (2 * i.val + 1) else none
    checks := fun s j => firstOf [checkBrood s,
      busyFields ((allFin 32).flatMap fun i =>
        let x := s.brood.sites[i.val]
        let y := partOf j.args i
        if !s.siteHeld i then []
        else (if y.1 != x.base.toNat then [2 * i.val] else []) ++ (if y.2 != x.size.toNat then [2 * i.val + 1] else []))] }

/-- `BROOD_PARTITION`: the row. -/
def execBroodPartition (p : Pkt) (s : State) : Host.Outcome State Fault Refusal := .next (cmdBroodPartition.fetch p s)

/-- The 64-byte summary of a site. -/
def State.siteSummary (s : State) (i : Fin 32) : Words :=
  let x := s.brood.sites[i.val]
  let n (v : BitVec 2) : Word := BitVec.ofNat 32 (x.blocks.filter fun b => b.verdict = v).length
  [BitVec.ofNat 32 (s.siteFlags i), BitVec.ofNat 32 x.blocks.length, n 1, n 2, n 0, BitVec.ofNat 32 x.cells.length,
   BitVec.ofNat 32 x.lostNoBlock] ++ List.replicate 9 0

/-- Lines of two rising lists in one. -/
def mergeLines (l m : List (Nat × Bool)) : List (Nat × Bool) := m.foldl (fun l e => putLine e.1 e.2 l) l

/-- The 128-byte record of a block: every allocated line, by the must-repair rule and by its solve. -/
def Site.blockRecord (x : Site) (b : Block) : Words :=
  let rows := mergeLines b.rows b.xRows
  let cols := mergeLines b.cols b.xCols
  let lines (l : List (Nat × Bool)) : Words :=
    ((l.map fun (e : Nat × Bool) => (BitVec.ofNat 32 (e.1 + bitAt e.2 31) : Word)) ++ List.replicate 15 0).take 15
  [BitVec.ofNat 32 (b.num + b.verdict.toNat * 2 ^ 12 + bitAt b.greedy 14 + bitAt b.lost 15 + rows.length * 2 ^ 16 +
      cols.length * 2 ^ 20), BitVec.ofNat 32 (x.cellsOf b.num).length] ++ lines rows ++ lines cols

/-- `BROOD_SOLVE` (R182): it waits until the records of its sites have arrived. -/
def cmdBroodSolve : CmdDef :=
  { CmdDef.plain 0x0902 36 modeOps [⟨0, 32, 0, 32, .names (· != 0)⟩] (fun j s =>
      .stay { s with brood := { s.brood with solves :=
        s.brood.solves ++ [{ key := j.key, mask := BitVec.ofNat 32 (fld j.args 32 0 32), started := false, upTo := 0 }] } }) with
    naming := fun s _ p => if (sitesOf (fld p.block 32 0 32)).any fun i => s.brood.sites[i.val].geom.isNone then [0] else []
    checks := fun s _ => checkBrood s }

/-- `BROOD_SOLVE`: the row. -/
def execBroodSolve (p : Pkt) (s : State) : Host.Outcome State Fault Refusal := .next (cmdBroodSolve.fetch p s)

/-- A solve of the list changed or taken out. -/
def State.putSolve (s : State) (k : JobKey) (f : Solve → Option Solve) : State :=
  { s with brood := { s.brood with solves := s.brood.solves.filterMap fun x => if sameKey x.key k then f x else some x } }

/-- `SOLVE_START` (R182): the oldest solve that waits begins once nothing of its sites is in flight; with a die of a site
fenced it does not wait for that site. -/
def execSolveStart (s : State) : Host.Outcome State Fault Refusal :=
  .next (match s.brood.solves.find? fun x => !x.started with
    | none => s
    | some x =>
      if s.broodRuns && (sitesOf x.mask.toNat).all fun i => s.siteFenced i || s.inFlight i = 0 then
        s.putSolve x.key fun y => some { y with started := true }
      else s)

/-- The number of a block in a solve: sites in ascending order, and the blocks of each. -/
def solveKey (i : Fin 32) (num : Nat) : Nat := 4096 * i.val + num

/-- The failing blocks of a site from number `upTo` of a solve on, each solved (R182, R183). -/
def State.solveSite (s : State) (i : Fin 32) (upTo : Nat) : State :=
  s.modSite i fun x => match x.geom with
    | none => { x with solved := true }
    | some g =>
      let one (b : Block) : Block := if solveKey i b.num < upTo then b else b.solve g (x.failing b)
      { x with solved := true, blocks := x.blocks.map one }

/-- The first block that a solve has still to do. -/
def State.solveHead (s : State) (x : Solve) : Option (Fin 32 × Nat) :=
  ((sitesOf x.mask.toNat).flatMap fun i => (s.brood.sites[i.val].blocks.filter fun b => x.upTo ≤ solveKey i b.num).map
    fun b => (i, b.num)).head?

/-- The solver does one block of the oldest solve that has begun (R182, R184); between two blocks the solve can be aborted.
DESIGN CHOICE: a block takes one cycle of the always-on clock, where R184 gives what it takes at most (log entry 59). -/
def State.solveStep (s : State) : State :=
  match s.brood.solves.find? fun x => x.started with
  | none => s
  | some x =>
    match s.solveHead x with
    | none => s
    | some (i, num) =>
      let s := s.putSolve x.key fun y => some { y with upTo := solveKey i num + 1 }
      s.modSite i fun z => match z.geom with
        | none => z
        | some g => { z with blocks := z.blocks.map fun b => if b.num = num then b.solve g (z.failing b) else b }

/-- `SOLVE_COMPLETE` (R182): the oldest solve that has begun ends once its last blocks are solved, with `E035` and the summary
of each site. -/
def execSolveComplete (s : State) : Host.Outcome State Fault Refusal :=
  .next (match s.brood.solves.find? fun x => x.started with
    | none => s
    | some x =>
      if !s.broodRuns then s
      else
        let l := sitesOf x.mask.toNat
        let s := (forAll l (fun i s => s.solveSite i x.upTo) s).raise 35 0 0 (detail [(0, 4, x.mask.toNat)])
        let s := s.putSolve x.key fun _ => none
        match s.job? x.key with
        | none => s
        | some j => s.commitDone j (l.flatMap s.siteSummary))

/-- `BROOD_RESULT` (R187). -/
def cmdBroodResult : CmdDef :=
  { CmdDef.plain 0x0903 40 modeAny [⟨0, 32, 0, 5, .any⟩, ⟨1, 32, 16, 13, .any⟩, ⟨2, 36, 0, 9, .clamp 1 256⟩] (fun j s =>
      let i : Fin 32 := Fin.ofNat 32 (fld j.args 32 0 5)
      let x := s.brood.sites[i.val]
      .done s (s.siteSummary i ++
        ((x.blocks.drop (fld j.args 32 16 13)).take (fld j.args 36 0 9)).flatMap x.blockRecord)) with
    naming := fun s _ p =>
      if s.brood.sites[fld p.block 32 0 5 % 32].blocks.length < fld p.block 32 16 13 then [1] else []
    checks := fun s _ => checkBrood s }

/-- `BROOD_RESULT`: the row. -/
def execBroodResult (p : Pkt) (s : State) : Host.Outcome State Fault Refusal := .next (cmdBroodResult.fetch p s)

/-- `BROOD_CLEAR` (R178): the base and size of each partition stay. -/
def cmdBroodClear : CmdDef :=
  { CmdDef.plain 0x0904 36 modeOps [⟨0, 32, 0, 32, .names (· != 0)⟩] (fun j s =>
      .done (forAll (sitesOf (fld j.args 32 0 32)) (fun i s =>
        (s.modSite i fun x => { x with cells := [], blocks := [], geom := none }).clearBooks i) s) []) with
    checks := fun s j =>
      let m := fld j.args 32 0 32
      firstOf [checkBrood s, refuseIf ((sitesOf m).any s.siteRuns ||
        s.brood.solves.any fun x => (x.mask &&& BitVec.ofNat 32 m) != 0) stBusy 0] }

/-- `BROOD_CLEAR`: the row. -/
def execBroodClear (p : Pkt) (s : State) : Host.Outcome State Fault Refusal := .next (cmdBroodClear.fetch p s)

end Sys2Proof.Machine
end

