-- ==== Sys2Proof/Machine/LaneOps.lean ====
section
/-! DEFINITION. The coding of protocol lanes (spec/05_test_ports.md): the 8b/10b code of IEEE 802.3 Clause 36 that R143 names
(log entry 27), the fill words, and the PRBS patterns of R151. A code group's bit 0 is its bit "a". -/

namespace Sys2Proof.Machine

/-- A string of bits, the first of them lowest, from a number written with the first bit highest. -/
def revBits (w n : Nat) : Nat := packBools ((List.range w).map fun i => n.testBit (w - 1 - i))

/-- The 5b/6b sub-blocks `abcdei` of D.0 to D.31 at negative running disparity, bit a written first. -/
def sixTable : List Nat :=
  [0b100111, 0b011101, 0b101101, 0b110001, 0b110101, 0b101001, 0b011001, 0b111000,
   0b111001, 0b100101, 0b010101, 0b110100, 0b001101, 0b101100, 0b011100, 0b010111,
   0b011011, 0b100011, 0b010011, 0b110010, 0b001011, 0b101010, 0b011010, 0b111010,
   0b110011, 0b100110, 0b010110, 0b110110, 0b001110, 0b101110, 0b011110, 0b101011]

/-- The 3b/4b sub-blocks `fghj` of D.x.0 to D.x.7 at negative running disparity. -/
def fourTable : List Nat := [0b1011, 0b1001, 0b0101, 0b1100, 0b1101, 0b1010, 0b0110, 0b1110]

/-- The number of ones of a number of `w` bits. -/
def onesCount (w n : Nat) : Nat := ((List.range w).filter n.testBit).length

/-- The 6-bit sub-block of D.x (true: positive running disparity). -/
def sixOf (x : Nat) (rd : Bool) : Nat :=
  let v := sixTable.getD x 0
  if rd && (onesCount 6 v != 3 || x = 7) then 63 - v else v

/-- Running disparity after a 6-bit sub-block. -/
def sixDisp (v : Nat) (rd : Bool) : Bool :=
  if 3 < onesCount 6 v || v = 0b000111 then true else if onesCount 6 v < 3 || v = 0b111000 then false else rd

/-- Running disparity after a 4-bit sub-block. -/
def fourDisp (v : Nat) (rd : Bool) : Bool :=
  if 2 < onesCount 4 v || v = 0b0011 then true else if onesCount 4 v < 2 || v = 0b1100 then false else rd

/-- Does D.x.7 take the alternate 4-bit sub-block? -/
def altSeven (x : Nat) (rd : Bool) : Bool := if rd then x = 11 || x = 13 || x = 14 else x = 17 || x = 18 || x = 20

/-- The 4-bit sub-block of D.x.y, at the disparity that stands after its 6-bit sub-block. -/
def fourOf (x y : Nat) (rd : Bool) : Nat :=
  if y = 7 && altSeven x rd then (if rd then 0b1000 else 0b0111)
  else
    let v := fourTable.getD y 0
    if rd && (onesCount 4 v != 2 || y = 3) then 15 - v else v

/-- The twelve K characters, with their code group at negative running disparity, bit a written first. -/
def kTable : List (Nat × Nat) :=
  [(0x1C, 0b0011110100), (0x3C, 0b0011111001), (0x5C, 0b0011110101), (0x7C, 0b0011110011), (0x9C, 0b0011110010),
   (0xBC, 0b0011111010), (0xDC, 0b0011110110), (0xFC, 0b0011111000), (0xF7, 0b1110101000), (0xFB, 0b1101101000),
   (0xFD, 0b1011101000), (0xFE, 0b0111101000)]

/-- Is a byte one of the twelve K characters? -/
def isKChar (b : Nat) : Bool := kTable.any fun e => e.1 = b

/-- The code group of a character at a running disparity, bit a written first; a K flag on another byte stands for K30.7. -/
def codeGroup (k : Bool) (b : Nat) (rd : Bool) : Nat :=
  if k then
    let v := ((kTable.find? fun e => e.1 = b).map (·.2)).getD 0b0111101000
    if rd then 1023 - v else v
  else
    let six := sixOf (b % 32) rd
    six * 16 + fourOf (b % 32) (b / 32) (sixDisp six rd)

/-- Running disparity after a code group, by its two sub-blocks. -/
def groupDisp (v : Nat) (rd : Bool) : Bool := fourDisp (v % 16) (sixDisp (v / 16) rd)

/-- All characters: a K flag and a byte. -/
def characters : List (Bool × Nat) := ((List.range 256).map fun b => (false, b)) ++ kTable.map fun e => (true, e.1)

/-- What the receiver makes of a code group (R146): the character, a disparity error, or a code error. -/
inductive Decoded where
  | char (k : Bool) (b : Nat)
  | dispErr
  | codeErr
  deriving DecidableEq, Repr

/-- A received code group decoded at a running disparity. -/
def decodeGroup (v : Nat) (rd : Bool) : Decoded :=
  match characters.find? fun c => codeGroup c.1 c.2 rd = v with
  | some c => .char c.1 c.2
  | none => if characters.any fun c => codeGroup c.1 c.2 (!rd) = v then .dispErr else .codeErr

/-! Alignment (R145). A code group is written bit a first. -/

/-- Is a code group K28.5, at either disparity? -/
def isK285 (v : Nat) : Bool := v = codeGroup true 0xBC false || v = codeGroup true 0xBC true

/-- What the synchronisation machine sees of a code group: K28.5, a data character, another character, or an invalid group. -/
inductive GroupKind where
  | comma | data | other | bad
  deriving DecidableEq, Repr

/-- The kind of a decoded code group: only the comma within K28.5 counts as one (R145). -/
def Decoded.kind : Decoded → GroupKind
  | .char k b => if !k then .data else if b = 0xBC then .comma else .other
  | _ => .bad

/-- The synchronisation machine takes a code group (R145; IEEE 802.3 Clause 36). -/
def Sync.step (x : Sync) (k : GroupKind) : Sync :=
  match x with
  | .loss => if k = .comma then .comma 1 else .loss
  | .comma n => if k != .data then .loss else if n = 3 then .synced 0 0 false else .acquire n false
  | .acquire n even =>
    match k with
    | .bad => .loss
    | .comma => if even then .loss else .comma (n + 1)
    | _ => .acquire n (!even)
  | .synced b g even =>
    if k = .bad || (k = .comma && even) then (if b = 3 then .loss else .synced (b + 1) 0 (!even))
    else if b = 0 then .synced 0 0 (!even)
    else if g = 3 then .synced (b - 1) 0 (!even)
    else .synced b (g + 1) (!even)

/-- Has a receiver alignment? -/
def Sync.aligned : Sync → Bool
  | .synced _ _ _ => true
  | _ => false

/-- A word coded (R143): its code groups, byte 0 first, and the running disparity after it. -/
def codeWord : List (Bool × Nat) → Bool → List (BitVec 10) × Bool
  | [], rd => ([], rd)
  | (k, b) :: l, rd =>
    let v := codeGroup k b rd
    let r := codeWord l (groupDisp v rd)
    (BitVec.ofNat 10 (revBits 10 v) :: r.1, r.2)

/-- The 8b/10b fill word (R144). -/
def fillChars (rd : Bool) : List (Bool × Nat) := [(true, 0xBC), (false, if rd then 0xC5 else 0x50), (true, 0xBC), (false, 0x50)]

/-- The raw fill word (R144). -/
def rawFill : Word := 0x55555555

/-! PRBS patterns (R151). The register holds the last 31 bits of the sequence, the latest as bit 0. -/

/-- The taps of a pattern. -/
def prbsTaps (poly : BitVec 2) : Nat × Nat :=
  match poly.toNat with
  | 0 => (7, 6)
  | 1 => (15, 14)
  | 2 => (23, 18)
  | _ => (31, 28)

/-- The next bit of a pattern. -/
def prbsNext (poly : BitVec 2) (r : BitVec 31) : Bool :=
  let (n, m) := prbsTaps poly
  r.getLsbD (n - 1) != r.getLsbD (m - 1)

/-- A bit shifted into a register. -/
def prbsShift (r : BitVec 31) (b : Bool) : BitVec 31 := BitVec.ofNat 31 (r.toNat * 2 + b2n b)

/-- The next bits of a pattern, the first sent first, and the register after them. -/
def prbsBits (poly : BitVec 2) : Nat → BitVec 31 → List Bool × BitVec 31
  | 0, r => ([], r)
  | k + 1, r =>
    let b := prbsNext poly r
    let x := prbsBits poly k (prbsShift r b)
    (b :: x.1, x.2)

/-- A register at a phase of a pattern, from a free value: not all zero in the bits the pattern uses. -/
def prbsSeed (poly : BitVec 2) (v : Word) : BitVec 31 := BitVec.ofNat 31 (1 + v.toNat % (2 ^ (prbsTaps poly).1 - 1))

/-- Is a decision of the checker due (R153, R157): a lock after 64 bits that met the prediction, a swapped pair after 64
opposite to it, or a loss at 16 mismatches within 64 bits? -/
def Prbs.due (x : Prbs) : Bool :=
  if x.locked then decide (16 ≤ onesCount 64 x.recent.toNat) else x.same = 64 || (x.opp = 64 && !x.swapSeen)

/-- The checker takes received bits (R153): locked, it counts bits and mismatches against its own register; not locked, the
bits seed it and are held against the prediction. Bits behind a decision that is due wait for it. -/
def Prbs.check (x : Prbs) : List Bool → Prbs
  | [] => { x with todo := [] }
  | b :: l =>
    if x.due then { x with todo := b :: l }
    else
      let c := b != x.invert
      let e := prbsNext x.poly x.chkReg
      if x.locked then
        Prbs.check { x with chkReg := prbsShift x.chkReg e, bits := satAdd x.bits 1
                            errs := if c = e then x.errs else satAdd x.errs 1
                            recent := BitVec.ofNat 64 (x.recent.toNat * 2 + b2n (c != e)) } l
      else
        Prbs.check { x with chkReg := prbsShift x.chkReg c, same := if c = e then min 64 (x.same + 1) else 0
                            opp := if c = e then 0 else min 64 (x.opp + 1) } l

/-- The checker seeds again (R153, R157), and takes the bits that waited; `flip` after the receiver's polarity was inverted. -/
def Prbs.seed (x : Prbs) (flip : Bool) : Prbs :=
  Prbs.check { x with locked := false, same := 0, opp := 0, recent := 0, todo := [] } (x.todo.map (· != flip))

/-- The checker locks (R153). -/
def Prbs.lock (x : Prbs) : Prbs := Prbs.check { x with locked := true, same := 0, opp := 0, recent := 0, todo := [] } x.todo

/-- The line bits of a received word, the first received first. -/
def lineBitsOf (x : RxWord) : List Bool :=
  match x with
  | .bits w => (List.range 32).map w.getLsbD
  | .groups a b c d => [a, b, c, d].flatMap fun g => (List.range 10).map g.getLsbD

end Sys2Proof.Machine
end

