-- ==== Sys2Proof/Machine/WorkerFlow.lean ====
section
/-! DEFINITION. The control operations of the Worker core (spec/03_worker_cores.md): `end`, branches, calls, returns, block
repeats, hive semaphores, signals and the watchdog. -/

namespace Sys2Proof.Machine

/-- `end` (R90): the bundles behind it are discarded. A Worker whose group still runs waits for it; another ends at once. One
that is the last bundle before a fault ends nothing (R89). -/
def opEnd (c : Ctx) : OpOut :=
  let w := c.w
  let pc := c.worker.pc
  { post := fun s => if c.worker.dying.isSome then s else
      let s := s.modWorker w fun k => { k with ended := true, endPc := pc, pc := pc }
      match workerGroup w with
      | none => s.endWorker w
      | some g =>
        let st := s.groups[g.val].st
        if st = .armed || st = .playing || st = .underrun || st = .halted then s else s.endWorker w }

/-- A branch to a target, unless it would leave the innermost body as that level's own code (R73, R74). -/
def branchTo (c : Ctx) (target : BitVec 15) : OpOut :=
  if leavesBody c.worker c.op.inh target then { fault := some 0x04 } else { jump := some target }

/-- Is the branch condition of formats BRANCH and REG met, as the address stage sees the flags? -/
def Ctx.taken (c : Ctx) : Bool := condMet (c.f 55 3) c.addr.flags c.addr.mf c.addr.lkf

/-- `bra` (R73). -/
def opBra (c : Ctx) : OpOut := if c.taken then branchTo c (BitVec.ofNat 15 (c.f 40 15)) else {}

/-- `call` (R73): the address of the bundle after the second delay slot is pushed when that slot has executed. -/
def opCall (c : Ctx) : OpOut :=
  if !c.taken then {}
  else if 16 ≤ c.worker.stack.length then { fault := some 0x05 }
  else { jump := some (BitVec.ofNat 15 (c.f 40 15)), turn := .push }

/-- `ret` (R73): the stack is popped when the second delay slot has executed. -/
def opRet (c : Ctx) : OpOut :=
  match c.worker.stack with
  | [] => if c.taken then { fault := some 0x05 } else {}
  | t :: _ =>
    if !c.taken then {}
    else { branchTo c t with turn := .pop }

/-- `rti` (R77): flags and `IE` come back from `IST`, `INH` clears, and `IPC` follows the delay slots. `IPC` is seen as
`landsEarly` says (log entry 67). -/
def opRti (c : Ctx) : OpOut :=
  { branchTo c (BitVec.ofNat 15 c.addr.ipc.toNat) with
    writes := [⟨72, BitVec.ofNat 72 (c.op.ist.toNat % 256), 0, 2⟩] }

/-- `jmpr` (R73). -/
def opJmpr (c : Ctx) : OpOut := if c.taken then branchTo c (BitVec.ofNat 15 (c.da 51).toNat) else {}

/-- `rep` (R74). -/
def opRep (c : Ctx) : OpOut :=
  let w := c.w
  let k := c.worker
  let n := (c.da 54).toNat
  let last := k.pc.toNat + c.f 40 13 + 1
  if 4 ≤ k.reps.length then { fault := some 0x03 }
  else if 0x7FFF < last then { fault := some 0x04 }
  else if n = 0 then { next := some (BitVec.ofNat 15 (last + 1)) }
  else
    let l : RepLevel := { first := k.pc + 1, last := BitVec.ofNat 15 last, count := n, ib := c.f 53 1 = 1
                          depth := k.stack.length, inh := c.op.inh }
    { next := some (k.pc + 1), post := fun s => s.modWorker w fun k => { k with reps := l :: k.reps } }

/-- The semaphore of format SEM. -/
def Ctx.sem (c : Ctx) : Fin 256 := ⟨c.f 50 8 % 256, by omega⟩

/-- A Worker as an owner of semaphores. -/
def semOwner (w : Fin 32) : Fin 33 := ⟨w.val, by omega⟩

/-- `lck` (R86): a semaphore owned already sets `LKF`; a free one is taken; another stalls the Worker. -/
def opLck (c : Ctx) : OpOut :=
  let w := c.w
  let i := c.sem
  match c.s.queen.sems[i.val] with
  | none => { post := fun s => { s with queen := { s.queen with sems := upd s.queen.sems i fun _ => some (semOwner w) } } }
  | some o => if o = semOwner w then { writes := [⟨69, 0, 0, 2⟩] } else { stall := some (.lock i) }

/-- `ulk` (R86). -/
def opUlk (c : Ctx) : OpOut :=
  let w := c.w
  let i := c.sem
  if c.s.queen.sems[i.val] = some (semOwner w) then
    { post := fun s => { s with queen := { s.queen with sems := upd s.queen.sems i fun _ => none } } }
  else { writes := [⟨69, 0, 0, 2⟩] }

/-- `sig` (R87): the signal is on its way to its target; a Worker of a fenced die never sees it. -/
def opSig (c : Ctx) : OpOut :=
  let t : Fin 32 := ⟨c.f 53 5 % 32, by omega⟩
  { post := fun s =>
      if s.net.dies[(workerDie t).val].fenced then s else s.modWorker t fun k => { k with sigIn := k.sigIn + 1 } }

/-- `wdr` (R88): the watchdog reloads. -/
def opWdr (c : Ctx) : OpOut :=
  let w := c.w
  let v := c.op.wdogRld
  { post := fun s => s.modWorker w fun k => { k with regs := { k.regs with wdog := v } } }

/-! The rows. -/

/-- `END`. -/
def execEnd (w : Fin 32) (e : WEcc) (s : State) : Host.Outcome State Fault Refusal := .next (s.runOp w e 0x01 opEnd)
/-- `BRA`. -/
def execBra (w : Fin 32) (e : WEcc) (s : State) : Host.Outcome State Fault Refusal := .next (s.runOp w e 0x20 opBra)
/-- `CALL`. -/
def execCall (w : Fin 32) (e : WEcc) (s : State) : Host.Outcome State Fault Refusal := .next (s.runOp w e 0x21 opCall)
/-- `RET`. -/
def execRet (w : Fin 32) (e : WEcc) (s : State) : Host.Outcome State Fault Refusal := .next (s.runOp w e 0x22 opRet)
/-- `RTI`. -/
def execRti (w : Fin 32) (e : WEcc) (s : State) : Host.Outcome State Fault Refusal := .next (s.runOp w e 0x23 opRti)
/-- `JMPR`. -/
def execJmpr (w : Fin 32) (e : WEcc) (s : State) : Host.Outcome State Fault Refusal := .next (s.runOp w e 0x24 opJmpr)
/-- `REP`. -/
def execRep (w : Fin 32) (e : WEcc) (s : State) : Host.Outcome State Fault Refusal := .next (s.runOp w e 0x25 opRep)
/-- `LCK`. -/
def execLck (w : Fin 32) (e : WEcc) (s : State) : Host.Outcome State Fault Refusal := .next (s.runOp w e 0x30 opLck)
/-- `ULK`. -/
def execUlk (w : Fin 32) (e : WEcc) (s : State) : Host.Outcome State Fault Refusal := .next (s.runOp w e 0x31 opUlk)
/-- `SIG`. -/
def execSig (w : Fin 32) (e : WEcc) (s : State) : Host.Outcome State Fault Refusal := .next (s.runOp w e 0x32 opSig)
/-- `WDR`. -/
def execWdr (w : Fin 32) (e : WEcc) (s : State) : Host.Outcome State Fault Refusal := .next (s.runOp w e 0x33 opWdr)

end Sys2Proof.Machine
end

