-- ==== Sys2Proof/Machine/WorkerVector.lean ====
section
/-! DEFINITION. The vector instructions of the Worker core (spec/03_worker_cores.md, R64 to R66 and R80 to R84): the stream
window, the entries pushed into the vector FIFO, marks and `vwait`. -/

namespace Sys2Proof.Machine

/-! The stream window (R64 to R66): a chunk is 128 vector words, a half holds a group of 512 words. -/

/-- The state of a half (R65): the half that the reader is in is DRAINING; one with no chunk left to request is EMPTY; one
whose chunks have all returned is FULL. -/
def Window.half (x : Window) (h : Nat) : HalfSt :=
  let g := x.pos / 512
  let q := if g % 2 = h then g else g + 1
  let n := min 4 (x.total - 4 * q)
  if !x.en then .empty
  else if q = g && x.pos % 512 != 0 then (if x.pos < x.len.toNat then .draining else .empty)
  else if n = 0 then .empty
  else if (List.range n).all fun j => x.returned.contains (4 * q + j) then .full
  else .filling
/-- The fault or the stall that a window read meets (R66); DESIGN CHOICE: R66 gives no code for a
`vec` or `vmatch` of source 1 while the window is not enabled; it has no word, so the read faults as one past the end, with
0x07 (log entry 67). -/
def Window.fault (x : Window) : Option Nat :=
  if !x.en || decide (x.len.toNat ≤ x.pos) then some 0x07
  else if x.failed.contains (x.pos / 512) then some 0x0C
  else none
/-- Must a window read wait (R66)? -/
def Window.waits (x : Window) : Bool :=
  let h := x.half (x.pos / 512 % 2)
  h != .draining && h != .full
/-- The reader takes a word; a chunk that it leaves is requested again. -/
def Window.take (x : Window) : Window :=
  { x with pos := x.pos + 1, returned := x.returned.filter fun c => (x.pos + 1) / 128 ≤ c }
/-- The reader takes a word; with a chunk that it leaves, the next is requested, and the nodes over the chunk 16 places behind that
one are fetched (R65; 09, R273). -/
def State.takeWindowWord (s : State) (w : Fin 32) : State :=
  let old := s.workers[w.val].window
  let s := s.modWorker w fun k => { k with window := k.window.take }
  let x := s.workers[w.val].window
  if old.asked < x.asked ∧ x.asked + 15 < x.total then s.prefetch (x.base.toNat + 4096 * (x.asked + 15)) else s
/-- The window word that the reader takes next. -/
def State.windowWord (s : State) (w : Fin 32) : BitVec 256 :=
  BitVec.ofNat 256 (bytesNum (s.mem.read (xBase w + 0x8000 + s.workers[w.val].window.pos % 1024 * 32) 32))

/-! Entries (R80 to R83). -/

/-- The word that source 0 forms: the X quad below, the Y quad above (R81). -/
def Ctx.quads (c : Ctx) : BitVec 256 :=
  let (x, y) := slotsOf c.b
  BitVec.ofNat 256 (bytesNum (c.s.mem.read (x.base c.w + x.addr c.addr) 16 ++ c.s.mem.read (y.base c.w + y.addr c.addr) 16))

/-- The instant in timing units of the root count from which an entry pushed now may play (04, R113, R114). -/
def State.readyAt (s : State) : Int := ((s.clk.ticks / 16 + 12) * 4096 : Nat)

/-- An entry pushed with the pending mark (R80, R83); a match word gets its number (R109). -/
def State.pushEntry (s : State) (w : Fin 32) (g : Fin 16) (word : BitVec 256) (ts : Fin 32) (plays : Nat) (isMatch : Bool) : State :=
  let mark := s.workers[w.val].mark
  let at_ := s.readyAt
  let s := s.modWorker w fun k => { k with mark := none }
  s.modGroup g fun x =>
    let r := x.run
    let e : Entry := { word := word, set := ts, plays := plays, match_ := if isMatch then some r.matchNo else none
                       mark := mark, ready := at_ }
    let m : MatchSt := { id := r.matchNo, timeout := plays, decided := 1, ended := false, passed := false
                         resolved := false, plays := [] }
    { x with run := { r with
        fifo := r.fifo ++ [e]
        matchNo := if isMatch then r.matchNo + 1 else r.matchNo
        matches_ := if isMatch then r.matches_ ++ [m] else r.matches_ } }

/-- A push of the word of a source (0 the quads, 1 the window, 2 d0 to d7), or the fault or stall that it meets first. -/
def pushOut (c : Ctx) (source plays : Nat) (isMatch : Bool) : OpOut :=
  match workerGroup c.w with
  | none => { fault := some 0x01 }
  | some g =>
    let w := c.w
    let x := c.worker.window
    let ts : Fin 32 := ⟨c.f 53 5 % 32, by omega⟩
    let full := decide (64 ≤ c.s.groups[g.val].run.fifo.length)
    if source = 1 then
      match x.fault with
      | some f => { fault := some f }
      | none =>
        if x.waits then { stall := some .window }
        else if full then { stall := some .fifo }
        else
          let word := c.s.windowWord w
          { post := fun s =>
              (s.takeWindowWord w).pushEntry w g word ts plays isMatch }
    else if full then { stall := some .fifo }
    else
      let word := if source = 0 then c.quads
        else BitVec.ofNat 256 (wordsNum ((List.range 8).map fun i => (at? c.op.d i).getD 0))
      { post := fun s => s.pushEntry w g word ts plays isMatch }

/-- `vec` (R81): the word plays 1 + count times. -/
def opVec (c : Ctx) : OpOut := pushOut c (c.f 41 2) (1 + c.f 43 10) false

/-- `vecr` (R81): d0 to d7 as a vector word. -/
def opVecr (c : Ctx) : OpOut := pushOut c 2 (1 + c.f 43 10) false

/-- `vmatch` (R81): a timeout of 0 is taken as 1. -/
def opVmatch (c : Ctx) : OpOut := pushOut c (c.f 41 2) (max 1 (c.d 49).toNat) true

/-- `vmark` (R83). -/
def opVmark (c : Ctx) : OpOut :=
  let w := c.w
  let v : BitVec 8 := BitVec.ofNat 8 (c.f 50 8)
  { post := fun s => s.modWorker w fun k => { k with mark := some v } }

/-- Is a `vwait` condition met (vwait conditions; R59, R82)? -/
def State.vwaitMet (s : State) (w : Fin 32) (cond arg : Nat) : Bool :=
  let k := s.workers[w.val]
  let g := (workerGroup w).map fun g => s.groups[g.val]
  match cond with
  | 0 => k.started
  | 1 => g.all fun x => decide (x.run.fifo.length ≤ arg)
  | 2 => g.all fun x => x.st = .done && x.run.fifo.isEmpty
  | 3 => g.all fun x => x.run.matches_.all (·.resolved)
  | 4 => k.opView.wipend.getLsbD arg
  | _ => k.window.half arg = .full

/-- `vwait` (R84). -/
def opVwait (c : Ctx) : OpOut :=
  if c.s.vwaitMet c.w (c.f 54 4) (c.f 40 14) then {}
  else { stall := some (.vwait (BitVec.ofNat 4 (c.f 54 4)) (BitVec.ofNat 14 (c.f 40 14))) }

/-! The rows. -/

/-- `VEC`. -/
def execVec (w : Fin 32) (e : WEcc) (s : State) : Host.Outcome State Fault Refusal := .next (s.runOp w e 0x28 opVec)
/-- `VECR`. -/
def execVecr (w : Fin 32) (e : WEcc) (s : State) : Host.Outcome State Fault Refusal := .next (s.runOp w e 0x29 opVecr)
/-- `VMATCH`. -/
def execVmatch (w : Fin 32) (e : WEcc) (s : State) : Host.Outcome State Fault Refusal := .next (s.runOp w e 0x2A opVmatch)
/-- `VMARK`. -/
def execVmark (w : Fin 32) (e : WEcc) (s : State) : Host.Outcome State Fault Refusal := .next (s.runOp w e 0x2B opVmark)
/-- `VWAIT`. -/
def execVwait (w : Fin 32) (e : WEcc) (s : State) : Host.Outcome State Fault Refusal := .next (s.runOp w e 0x2C opVwait)

end Sys2Proof.Machine
end

