-- ==== Sys2Proof/Machine/WorkerEvents.lean ====
section
/-! DEFINITION. What happens to a Worker beside its bundles (spec/03_worker_cores.md, R65, R72, R75 to R77, R87, R88, R91;
spec/16_debug.md, R431 to R435): stalls that end, interrupts, timers, signals, window chunks, stops and halts. Each row is
the event itself: it changes nothing where its condition does not hold (log entry 1). -/

namespace Sys2Proof.Machine

/-! Stalls (R72, R86; 04, R123). -/

/-- What the bundle of a stalled Worker means when it issues again, by its opcode: only these stall. -/
def stalledMeaning (opc : Nat) : OpMeaning :=
  if opc = 0x28 then opVec
  else if opc = 0x29 then opVecr
  else if opc = 0x2A then opVmatch
  else if opc = 0x2C then opVwait
  else opLck

/-- Must a stalled Worker give way first: to a halt, a stop or an interrupt? A `vec` in a full FIFO completes (16, R431). -/
def State.stallYields (s : State) (w : Fin 32) : Bool :=
  let k := s.workers[w.val]
  k.stall != some .fifo && (s.haltDue w || k.stopDue || s.intDue w || s.lockDue w)

/-- `STALL_RELEASE` (R72): the stalled bundle executes when its condition holds, and stalls on where it does not. -/
def execStallRelease (w : Fin 32) (s : State) : Host.Outcome State Fault Refusal :=
  let k := s.workers[w.val]
  .next (if k.st != .running || !s.workerAlive w || s.stallYields w then s
    else match k.stall with
      | none => s
      | some .drained => s.issue w .ok fun _ => {}
      | some _ => s.issue w .ok (stalledMeaning (bitsOf (s.bundleAt w k.pc) 58 6)))

/-! Interrupts (R75 to R77). -/

/-- Is a pending write one of `WSTAT`, `IPC` or `IST`? -/
def writesStatus (p : PendWrite) : Bool := [44, 47, 48, 68, 69, 71, 72].contains p.reg

/-- A Worker enters the handler of a line (R77): the bundles before it complete, so `WSTAT` is saved with their flags. -/
def Worker.enterHandler (k : Worker) (line : Nat) : Worker :=
  let r := (k.pend.filter writesStatus).foldl (fun r p => r.apply p.reg p.val) k.regs
  { k with
    regs := { r with
      ipc := k.pc.setWidth 32, ist := k.wstat r, ie := false, inh := true
      wipend := r.wipend &&& ~~~(BitVec.ofNat 16 (2 ^ line)) }
    pend := k.pend.filter fun p => !writesStatus p
    pc := BitVec.ofNat 15 (4 * line), stall := none, slotPrev := false, iterEnd := false }

/-- `INTERRUPT_ENTRY` (R77): the lowest-numbered line that is pending and enabled. -/
def execInterruptEntry (w : Fin 32) (s : State) : Host.Outcome State Fault Refusal :=
  let k := s.workers[w.val]
  let r := k.opView
  .next (if k.st != .running || k.ended || !s.workerAlive w || s.haltDue w || k.stopDue || !s.intDue w then s
    else match leastOf (onesOf 16 (r.wipend &&& r.wien).toNat) with
      | none => s
      | some line => s.modWorker w fun k => k.enterHandler line)

/-- `TIMER_REACHED_ZERO`: line 1 becomes pending, and the timer reloads in periodic mode or stops at zero. -/
def execTimerReachedZero (w : Fin 32) (s : State) : Host.Outcome State Fault Refusal :=
  let k := s.workers[w.val]
  .next (if k.st = .running && s.workerAlive w && k.regs.wtimerCtrl.getLsbD 0 && k.regs.wtimer = 1 then
      (s.modWorker w fun k => { k with regs := { k.regs with
        wtimer := if k.regs.wtimerCtrl.getLsbD 1 then k.regs.wtimerRld else 0 } }).pendLine w 1
    else s)

/-- `WATCHDOG_EXPIRY` (R88): its event, then a reload, or a halt of the Worker. -/
def execWatchdogExpiry (w : Fin 32) (s : State) : Host.Outcome State Fault Refusal :=
  let k := s.workers[w.val]
  let act := k.regs.wdogCtrl.getLsbD 1
  .next (if k.st = .running && s.workerAlive w && k.regs.wdogCtrl.getLsbD 0 && decide (k.regs.wdog ≤ 1) &&
      !(k.dbg.haltReq && k.regs.wdog = 0) then
      let s := s.raiseDie (workerDie w) ⟨8 + w.val % 8, by omega⟩ 2 w.val (detail [(0, 1, b2n act), (2, 2, k.pc.toNat)])
      let s := s.modWorker w fun k => { k with regs := { k.regs with wdog := if act then 0 else k.regs.wdogRld } }
      if act then s.requestHalt w 3 else s
    else s)

/-- `SIG_ARRIVAL` (R87): a Worker of a fenced die never sees it. -/
def execSigArrival (w : Fin 32) (s : State) : Host.Outcome State Fault Refusal :=
  .next (if s.workers[w.val].sigIn = 0 then s
    else
      let s := s.modWorker w fun k => { k with sigIn := k.sigIn - 1 }
      if s.net.dies[(workerDie w).val].fenced then s else s.pendLine w 7)

/-! The stream window (R65, R66). -/

/-- The lowest chunk requested and not returned. -/
def Window.outstanding (x : Window) : Option Nat :=
  ((List.range x.asked).drop (x.pos / 128)).find? fun c => !x.returned.contains c

/-- A chunk has returned, or has failed with its half. -/
def Window.arrived (x : Window) (c : Nat) (ok : Bool) : Window :=
  { x with returned := c :: x.returned, failed := if ok then x.failed else (c / 4) :: x.failed }

/-- Is a flit of a Worker's refills still on its way (R67; 10, R287)? -/
def State.refillFlies (s : State) (w : Fin 32) : Bool :=
  s.net.mesh.any fun f => f.refill && f.dst = requesterUnit (.worker w)

/-- `CHUNK_RETURN` (R65, R66): once its flits have arrived, the lowest outstanding chunk, read through the encryption engine, is in
its place; line 5 becomes pending when its half becomes FULL. -/
def execChunkReturn (w : Fin 32) (r : ChunkEnd) (s : State) : Host.Outcome State Fault Refusal :=
  let x := s.workers[w.val].window
  .next (if !s.workers[w.val].active || !s.workerAlive w || !x.en || s.mem.rekey.isSome || s.refillFlies w then s
    else match x.outstanding with
      | none => s
      | some c =>
        let a := x.base.toNat + 4096 * c
        let q := s.hbmOpen (.worker w) a 4096 (if r = .ce then .ce else .ok)
        let ok := r != .busError && q.fail.isNone
        let s := if r = .busError then s else q.st
        let s := if ok then s.modMem fun m => m.write (xBase w + 0x8000 + c % 8 * 4096) (m.read a 4096) else s
        let was := x.half (c / 4 % 2)
        let s := s.modWorker w fun k => { k with window := k.window.arrived c ok }
        if was != .full && s.workers[w.val].window.half (c / 4 % 2) = .full then s.pendLine w 5 else s)

/-! Stops and halts (R91; 16, R431 to R435). -/

/-- `STOP_BOUNDARY` (R91). -/
def execStopBoundary (w : Fin 32) (s : State) : Host.Outcome State Fault Refusal :=
  let k := s.workers[w.val]
  .next (if k.st = .running && s.workerAlive w && k.stopDue then s.stopWorker w 3 else s)

/-- A Worker is HALTED at the next bundle (16, R431, R432, R435): the bundles before it complete, its group stops at H, its
event is raised, and commands that asked for the halt learn of it. -/
def State.haltWorker (s : State) (w : Fin 32) : State :=
  let pc := s.workers[w.val].pc
  let causes := s.workers[w.val].dbg.causes.toNat
  let s := (s.drain w).modWorker w fun k => { k with
    st := .halted, stall := none, wasHalted := true
    dbg := { k.dbg with haltReq := false, pending := false, lockWait := 0, hpc := pc } }
  let now := s.nowTu
  let s := match workerGroup w with
    | none => s
    | some g => s.modGroup g fun x => x.halt now
  ((s.workerEvent w 1 2 causes pc).endStep w).haltSettled w true

/-- `HALT_POINT` (16, R431). -/
def execHaltPoint (w : Fin 32) (s : State) : Host.Outcome State Fault Refusal :=
  .next (if s.workerAlive w && s.haltDue w then s.haltWorker w else s)

/-- `LOCK_BROKEN` (16, R433): at the 256th cycle that a halt waits for a semaphore, the semaphores are released with `E041`
for each, and the halt is free to take effect. -/
def execLockBroken (w : Fin 32) (s : State) : Host.Outcome State Fault Refusal :=
  .next (if s.lockDue w then
      let s := s.releaseSems w
      { s with dbg := { s.dbg with lockBroken := true, lbWorker := BitVec.ofNat 5 w.val } }
    else s)

end Sys2Proof.Machine
end

