-- ==== Sys2Proof/Machine/WorkCmds.lean ====
section
/-! DEFINITION. The WORK commands and the start instant (spec/19_command_reference.md, R479 to R486; spec/03_worker_cores.md,
R60, R61, R91, R92; spec/04_timing_and_vectors.md, R115, R127). -/

namespace Sys2Proof.Machine

/-! Loading (R479, R480). -/

/-- What a unit reset of a Worker leaves: registers at their reset values and nothing in progress; its window setting, its
debug settings, its result and what the fabric presents stay (R92, R481). -/
def Worker.unitReset (k : Worker) (st : WSt) : Worker :=
  { Worker.reset with
    st := st, wfin := k.wfin, window := { k.window with en := false, failed := [], returned := [], pos := 0 }
    dbg := k.dbg, memCe := k.memCe, sigIn := k.sigIn, stop := k.stop, endPc := k.endPc, supply := k.supply
    wasHalted := k.wasHalted, startNs := k.startNs, startS := k.startS }

/-- Length of the image that a packet's `PROG_LEN`, `X_LEN` and `Y_LEN` give. -/
def imageLen (b : Words) : Nat := fld b 48 0 19 + fld b 52 0 17 + fld b 56 0 17

/-- An image put into a Worker's memories, the rest of them zero (R479). -/
def Mem.putImage (m : Mem) (w : Fin 32) (prog x : Nat) (image : Bytes) : Mem :=
  let m := m.lose (progBase w) 0x60000 none
  let m := m.write (progBase w) (image.take prog)
  let m := m.write (xBase w) ((image.drop prog).take x)
  m.write (yBase w) (image.drop (prog + x))

/-- The image that a packet names as far as it can be read, the error code, and the state after the reads (R480). -/
def State.readImage (s : State) (p : Pkt) (b : Words) : Bytes × Word × State :=
  let n := imageLen b
  if fld b 32 0 1 = 1 then
    let got := (p.host.getD []).take n
    (got, if got.length < n then 5 else 0, s)
  else
    let a := fld b 40 0 64
    match areaFor a n with
    | none => ([], 0, s)
    | some x =>
      let (r, bs) := s.readFor p .queen x a n
      match r.fail with
      | none => (bs, 0, r.st)
      | some (f, at_) => let (v, s) := r.st.drawFree; (bs.take (at_ - a), f.code v, s)

/-- `WORK_LOAD` (R479, R480): a failure of the first read leaves the Worker as it was, a later one leaves it EMPTY. -/
def workLoadAct (j : Job) (s : State) : Act :=
  let w : Fin 32 := Fin.ofNat 32 j.p.unit.toNat
  let b := j.args
  let (image, err, s) := s.readImage j.p b
  let put (s : State) : State := s.modMem fun m => m.putImage w (fld b 48 0 19) (fld b 52 0 17) image
  if err = 0 then
    let meas := digestBytes (Config.sha512 ((bytesOfWords ((b.drop 4).take 3)) ++ image))
    let s := (put s).modWorker w fun k => { k.unitReset .idle with meas := some meas }
    .done s ([0, BitVec.ofNat 32 image.length] ++ measWords (some meas))
  else if image.isEmpty then .done s [err, 0]
  else .done ((put s).modWorker w fun k => k.unitReset .empty) [err, BitVec.ofNat 32 image.length]

/-- `WORK_LOAD` (R479). -/
def cmdWorkLoad : CmdDef :=
  { CmdDef.plain 0x0700 60 modeCtl
      [⟨0, 32, 0, 1, .any⟩, ⟨1, 40, 0, 64, .names (· % 16 = 0)⟩,
       ⟨2, 48, 0, 19, .names fun v => 8 ≤ v && v ≤ 262144 && v % 8 = 0⟩,
       ⟨3, 52, 0, 17, .names fun v => v ≤ 65536 && v % 16 = 0⟩, ⟨4, 56, 0, 17, .names fun v => v ≤ 65536 && v % 16 = 0⟩]
      workLoadAct with
    unitMax := 31
    naming := fun s _ p =>
      let b := p.block
      let w : Fin 32 := Fin.ofNat 32 p.unit.toNat
      (if fld b 32 0 1 = 0 && !s.rangeOk (fld b 40 0 64) (imageLen b) false then [1] else []) ++
        (if s.workers[w.val].window.setEn && decide (32768 < fld b 52 0 17) then [3] else [])
    checks := fun s j =>
      let w : Fin 32 := Fin.ofNat 32 j.p.unit.toNat
      firstOf [checkWorker s w,
        if fld j.args 32 0 1 = 0 then firstInSteps (s.rangeCheck (fld j.args 40 0 64) (imageLen j.args) 1) else none,
        refuseIf s.workers[w.val].active stBusy 0] }

/-- `WORK_LOAD`: the row. -/
def execWorkLoad (p : Pkt) (s : State) : Host.Outcome State Fault Refusal := .next (cmdWorkLoad.fetch p s)

/-- `WORK_STREAM_SET` (R481, R60): checked only with `EN` 1; a Worker without a port group has no window. -/
def cmdWorkStreamSet : CmdDef :=
  { CmdDef.plain 0x0704 52 modeCtl [⟨0, 32, 0, 1, .any⟩, ⟨1, 40, 0, 48, .any⟩, ⟨2, 48, 0, 32, .any⟩] (fun j s =>
      let b := j.args
      .done (s.modWorker (Fin.ofNat 32 j.p.unit.toNat) fun k => { k with window := { k.window with
        setEn := fld b 32 0 1 = 1, setBase := BitVec.ofNat 48 (fld b 40 0 48), setLen := BitVec.ofNat 32 (fld b 48 0 32) } }) []) with
    unitMax := 31
    naming := fun _ _ p =>
      let b := p.block
      let base := fld b 40 0 48
      let len := fld b 48 0 32
      if fld b 32 0 1 = 0 then []
      else (if 4 ≤ p.unit.toNat % 8 then [0] else []) ++ (if base % 4096 != 0 then [1] else []) ++
        (if len < 128 || 0xFFFFFF80 < len || len % 128 != 0 || hbmBytes < base + 32 * len then [2] else [])
    checks := fun s j =>
      let w : Fin 32 := Fin.ofNat 32 j.p.unit.toNat
      firstOf [checkWorker s w, refuseIf s.workers[w.val].active stBusy 0] }

/-- `WORK_STREAM_SET`: the row. -/
def execWorkStreamSet (p : Pkt) (s : State) : Host.Outcome State Fault Refusal := .next (cmdWorkStreamSet.fetch p s)

/-! Starting (R482 to R484; 04, R115). -/

/-- The Workers of a mask in ascending order. -/
def workersOf (m : Nat) : List (Fin 32) := (allFin 32).filter fun w => m.testBit w.val

/-- The groups that a start of Workers arms: those of Workers with k from 0 to 3 whose group is in waveform mode (R483). -/
def State.groupsToArm (s : State) (l : List (Fin 32)) : List (Fin 16) :=
  (l.filterMap workerGroup).filter fun g => s.groups[g.val].mode = .waveform

/-- The refusals of the named Workers (R482), in the order of R35. `fresh`: before the command has begun them. A marked Worker, or a
marked group that it would arm, is unusable (17, R453). A die that has still to rejoin runs no test (01, R18); DEDUCED: the refusal
is `NOT_READY`. -/
def workStartCheck (s : State) (mask : Nat) (fresh : Bool) : Option Verdict :=
  let l := workersOf mask
  let die (w : Fin 32) : Fin 4 := workerDie w
  let notReady (w : Fin 32) : Bool :=
    s.workers[w.val].st = .empty || !s.dieOn (die w) 0 || !s.dieOn (die w) 8 ||
      !s.clk.mux.getLsbD (die w).val || s.net.dies[(die w).val].st != .locked || s.net.dies[(die w).val].rejoining
  let needs14 : Bool := (s.groupsToArm l).any fun g => s.groups[g.val].pins.toList.any (·.en)
  firstOf [refuseIf ((l.any fun w => s.workerMarked w || s.dieMarked (die w)) || (s.groupsToArm l).any s.groupMarked) stUnusable,
    refuseIf (l.any fun w => s.net.dies[(die w).val].fenced) stFenced,
    refuseIf (l.any notReady || (needs14 && !s.pdOn 14)) stNotReady,
    refuseIf (fresh && l.any fun w => s.workers[w.val].active) stBusy 0]

/-- A Worker begins at an entry bundle (R61, R483). -/
def Worker.begin (k : Worker) (entry : BitVec 15) (armed : Bool) : Worker :=
  { k with
    st := .running, pc := entry, regs := Regs.reset, pend := [], stores := [], reps := [], stack := [], delay := none, dying := none
    slotPrev := false, iterEnd := false, stall := none, ended := false, started := false, armed := armed, mark := none
    cycl := 0, stop := 0, endPc := 0, supply := false, wasHalted := false, startNs := 0, startS := 0, stopJob := false
    window := { k.window with en := k.window.setEn, base := k.window.setBase, len := k.window.setLen
                              failed := [], returned := [], pos := 0 }
    dbg := { k.dbg with haltReq := false, pending := false, causes := 0, lockWait := 0, stepLeft := none, stepDone := 0 } }

/-- What the `WORK_START` of its Worker clears of a group in any mode (R486; 04, R127): counters, `PG_MARK`, and every bit of
`PG_STATUS` but `STATE` and `CAL_VALID`. -/
def Group.clearRun (x : Group) : Group :=
  { x with
    run := Run.reset, cycle := 0, idle := 0, clash := 0, markValue := 0, markCount := 0, markCycle := 0
    supplyDist := false, lateStart := false, badCode := false, edgeClash := false, underrunSeen := false }

/-- A group is armed (R483; 04, R127; 05, R134; 06, R174): its ports drive their start levels. A record dropped at the end of the
last run still marks the next one produced (06, R167). -/
def State.armGroup (s : State) (g : Fin 16) : State :=
  let s := s.modGroup g fun x => { x.clearRun with
    st := .armed
    pins := x.pins.map fun q => { q with fails := 0, fmt := PinFmt.reset }
    fail := { x.fail with fired := false, produced := 0, first := none, last := none
                          lastRec := Vector.replicate 32 none, open_ := [] } }
  forAll (groupPorts g) (fun n s =>
    if s.ports[n.val].link = .waveform then
      (s.driveOut n false (levelOf s.ports[n.val].startTx)).driveOut n true (levelOf s.ports[n.val].startTxe)
    else s) s

/-- The window of a Worker that begins requests its first chunks; the nodes over these and over the 16 that follow the last of them
are fetched (09, R273). -/
def State.prefetchWindow (s : State) (w : Fin 32) : State :=
  let x := s.workers[w.val].window
  if !x.en then s
  else (List.range (min (x.asked + 16) x.total)).foldl (fun s c => s.prefetch (x.base.toNat + 4096 * c)) s

/-- The root tick of a start instant, where it is fixed as the command is processed (04, R115): without an execute-at time, the
first at least 96 ns from now. The first tick at or after an execute-at time is known when `TB0` reaches it. -/
def State.startTick (s : State) (at_ : Option Nat) : Option Nat :=
  match at_ with
  | none => some (s.clk.ticks + 1536)
  | some t => if t ≤ s.tb0.value then some s.clk.ticks else none

/-- The execute-at time of a job that waits for its instant. -/
def Job.instant (j : Job) : Option Nat :=
  match j.phase with
  | .scheduled t => some t
  | _ => none

/-- `WORK_START` as processed (R483): its Workers begin, its groups are armed, and it commits at its start instant. -/
def workStartAct (j : Job) (s : State) : Act :=
  let mask := fld j.args 32 0 32
  let l := workersOf mask
  let gs := s.groupsToArm l
  let s := forAll l (fun w s =>
    s.modWorker w fun k => k.begin (BitVec.ofNat 15 (fld j.args (40 + 2 * w.val) 0 15)) ((workerGroup w).any gs.contains)) s
  let s := forAll (l.filterMap workerGroup) (fun g s => s.modGroup g Group.clearRun) s
  let s := forAll gs (fun g s => s.armGroup g) s
  let s := forAll l (fun w s => s.prefetchWindow w) s
  .stay { s with starts := s.starts ++ [{ key := j.key, workers := BitVec.ofNat 32 mask, groups := gs
                                          at_ := j.instant, tick := s.startTick j.instant, ramp := s.pwr.rampStep.toNat, strobed := false, stamp := none }] }

/-- `WORK_START` (R482). -/
def cmdWorkStart : CmdDef :=
  { CmdDef.plain 0x0701 104 modeRr
      (⟨0, 32, 0, 32, .names (· != 0)⟩ :: (List.range 32).map fun w => ⟨1 + w, 40 + 2 * w, 0, 15, .any⟩) workStartAct with
    checks := fun s j => workStartCheck s (fld j.args 32 0 32) true
    early := true }

/-- `WORK_START`: the row. -/
def execWorkStart (p : Pkt) (s : State) : Host.Outcome State Fault Refusal := .next (cmdWorkStart.fetch p s)

/-- A `WORK_START` that does not come to its instant (R484): its groups are disarmed, nothing reaches the pins, and its
Workers stop; a group whose Worker has left RUNNING meanwhile is disarmed all the same. -/
def State.dropStart (s : State) (x : Start) : State :=
  let s := { s with starts := s.starts.filter fun y => !sameKey y.key x.key }
  let now := s.nowTu
  let s := forAll ((workersOf x.workers.toNat).filter fun w => s.workers[w.val].active) (fun w s => s.stopWorker w 3) s
  forAll (x.groups.filter fun g => s.groups[g.val].st = .armed) (fun g s => s.modGroup g fun y => y.stop now) s

/-- The Workers of a start that still run. -/
def State.begun (s : State) (x : Start) : Nat :=
  packBools ((allFin 32).map fun w => x.workers.getLsbD w.val && s.workers[w.val].active)

/-- The stamp of a start instant to the root tick (11, R331): 0 while `TB0` is UNSET. -/
def State.startStamp (s : State) (x : Start) : Nat := if s.tb0.set then x.stamp.getD s.tb0.value else 0

/-- The result fields of `WORK_START` (R483). -/
def State.startResult (s : State) (x : Start) (started : Nat) : Words :=
  [BitVec.ofNat 32 started,
   BitVec.ofNat 32 (packBools ((allFin 16).map fun g => x.groups.contains g) + x.ramp * 2 ^ 16),
   stampNsOf (s.startStamp x), stampSOf (s.startStamp x)]

/-- `START_INSTANT` (R483, R45): the checks run again, and a failure stops what had begun; else the command commits, `vwait`
START completes for Workers without an armed group, and the device is in RUN. -/
def execStartInstant (k : JobKey) (s : State) : Host.Outcome State Fault Refusal :=
  .next (match s.starts.find? (fun x => sameKey x.key k && x.strobed && x.tick.isSome), s.job? k with
    | some x, some j =>
      match workStartCheck s x.workers.toNat false with
      | some v => (s.dropStart x).refuse j v
      | none =>
        let ns := stampNsOf (s.startStamp x)
        let sec := stampSOf (s.startStamp x)
        let s := forAll (workersOf x.workers.toNat) (fun w s => s.modWorker w fun k =>
          { k with startNs := ns, startS := sec, started := k.started || !k.armed }) s
        let s := { s with starts := s.starts.filter fun y => !sameKey y.key x.key }
        (s.commitDone j (s.startResult x x.workers.toNat)).startedFunction
    | _, _ => s)

/-! Stopping and signals (R485). -/

/-- The Workers of a mask that are RUNNING or HALTED; those of a fenced die are neither (R486). -/
def State.activeOf (s : State) (mask : Nat) : List (Fin 32) := (workersOf mask).filter fun w => s.workerActive w

/-- A list of Workers as a mask. -/
def maskOf (l : List (Fin 32)) : Nat := packBools ((allFin 32).map fun w => l.contains w)

/-- `WORK_STOP` (R485, R91; 16, R434): a HALTED Worker stops at once, a RUNNING one at its next boundary. -/
def workStopAct (j : Job) (s : State) : Act :=
  let l := s.activeOf (fld j.args 32 0 32)
  let m : BitVec 32 := BitVec.ofNat 32 (maskOf l)
  if l.isEmpty then .done s [0]
  else
    let s := { s with queen := { s.queen with stopJobs := s.queen.stopJobs ++ [(j.key, m, m)] } }
    .stay (forAll l (fun w s =>
      if s.workers[w.val].st = .halted then s.stopWorker w 3 else s.modWorker w fun k => { k with stopJob := true }) s)

/-- `WORK_STOP`. -/
def cmdWorkStop : CmdDef := .plain 0x0702 36 modeRr [⟨0, 32, 0, 32, .names (· != 0)⟩] workStopAct

/-- `WORK_STOP`: the row. -/
def execWorkStop (p : Pkt) (s : State) : Host.Outcome State Fault Refusal := .next (cmdWorkStop.fetch p s)

/-- `WORK_SIGNAL` (R485): line 0 of the named Workers that are RUNNING or HALTED. -/
def cmdWorkSignal : CmdDef :=
  .plain 0x0705 36 modeRr [⟨0, 32, 0, 32, .names (· != 0)⟩] fun j s =>
    let l := s.activeOf (fld j.args 32 0 32)
    .done (forAll l (fun w s => s.pendLine w 0) s) [BitVec.ofNat 32 (maskOf l)]

/-- `WORK_SIGNAL`: the row. -/
def execWorkSignal (p : Pkt) (s : State) : Host.Outcome State Fault Refusal := .next (cmdWorkSignal.fetch p s)

/-! Results (R486). -/

/-- The code of a Worker state. -/
def WSt.code : WSt → Nat
  | .empty => 0 | .idle => 1 | .running => 2 | .halted => 3 | .ended => 4 | .faulted => 5 | .stopped => 6

/-- The code of a port group's state (04, `PG_STATUS.STATE`). -/
def GSt.code : GSt → Nat
  | .idle => 0 | .armed => 1 | .playing => 2 | .underrun => 3 | .halted => 4 | .done => 5

/-- The result record of a Worker (R486). -/
def State.workRecord (s : State) (w : Fin 32) : Words :=
  let k := s.workers[w.val]
  if s.net.dies[(workerDie w).val].fenced then 7 :: List.replicate 15 0
  else
    let g := (workerGroup w).map fun g => s.groups[g.val]
    let r := k.opView
    let gb (f : Group → Bool) (i : Nat) : Nat := bitAt (g.any f) i
    let flags := bitAt k.supply 0 + gb (·.underrunSeen) 1 + gb (·.lateStart) 2 + gb (·.edgeClash) 3 + bitAt k.wasHalted 4 +
      gb (·.badSeen s.nowTu) 5 + bitAt r.winWaited 6 + bitAt r.lkf 7 + bitAt r.grace 8 + bitAt r.ovs 9 + bitAt k.meas.isSome 10
    let pc := if k.st = .faulted || k.st = .ended then k.endPc else k.pc
    [BitVec.ofNat 32 (k.st.code + r.wfault.toNat * 2 ^ 8 + k.stop.toNat * 2 ^ 16), pc.setWidth 32, k.wstat r,
     BitVec.ofNat 32 flags] ++ word2 k.cycl.toNat ++ [k.startNs, k.startS] ++
      word2 ((g.map fun x => (x.pgCycle s.nowTu).toNat).getD 0) ++ word2 ((g.map fun x => x.idle.toNat).getD 0) ++
      [k.memCe, BitVec.ofNat 32 ((g.map fun x => x.run.fifo.length + x.st.code * 2 ^ 8).getD 0), 0, 0]

/-- `WORK_STATUS` (R486). -/
def cmdWorkStatus : CmdDef :=
  .plain 0x0703 36 modeAny [⟨0, 32, 0, 32, .names (· != 0)⟩] fun j s =>
    .done s ((workersOf (fld j.args 32 0 32)).flatMap s.workRecord)

/-- `WORK_STATUS`: the row. -/
def execWorkStatus (p : Pkt) (s : State) : Host.Outcome State Fault Refusal := .next (cmdWorkStatus.fetch p s)

end Sys2Proof.Machine
end

