-- ==== Sys2Proof/Machine/TimCmds.lean ====
section
/-! DEFINITION. The TIM commands (spec/19_command_reference.md, R487, R488; spec/04_timing_and_vectors.md, R97, R98, R118,
R124, R125; spec/06_fail_capture_and_repair.md, R161). -/

namespace Sys2Proof.Machine

/-- The group that a packet names. -/
def Pkt.group (p : Pkt) : Fin 16 := Fin.ofNat 16 p.unit.toNat

/-- Is a group armed, playing, in underrun or halted (R98)? -/
def Group.runs (x : Group) : Bool := x.active || x.st = .halted

/-- Does a group run in the sense of R98: in one of its running states, or, in waveform mode, while its Worker is RUNNING or
HALTED? -/
def State.groupBusy (s : State) (g : Fin 16) : Bool :=
  let x := s.groups[g.val]
  x.runs || (x.mode = .waveform && s.workers[(groupWorker g).val].active)

/-- Does a group run its ports in protocol mode: is one started, or does one run PRBS (R98; 05, R158)? -/
def State.lanesRun (s : State) (g : Fin 16) : Bool := (groupPorts g).any fun n => s.ports[n.val].active

/-- The fields of record `j` of `TIM_TIMING_SET` (R97, R487): an edge is held below two periods as applied. -/
def timingRecord (b : Words) (j : Nat) : List Field :=
  let o := 40 + 144 * j
  let fast := fld b (o + 4) 0 1 = 1
  let least := if fast then 256 else 512
  let fit (v : Nat) : Nat := if v = 0 then 0 else max v least
  let v := fit (fld b o 0 32)
  let period := if v = 0 then 2 ^ 32 else v
  let edge (i : Nat) : Field := ⟨6 + 34 * j + 2 + i, o + 16 + 4 * i, 0, 24, .clamp 0 (min 0xFFFFFF (2 * period - 1))⟩
  ⟨6 + 34 * j, o, 0, 32, .fit fit⟩ :: ⟨7 + 34 * j, o + 4, 0, 1, .any⟩ :: (List.range 32).map edge

/-- The fields of `TIM_TIMING_SET` (R487): with `WRITE_CTRL` 0, offset 36 is reserved. -/
def timingFields (p : Pkt) : List Field :=
  let b := p.block
  [⟨0, 32, 0, 5, .any⟩, ⟨1, 32, 8, 6, .names (· ≤ 32)⟩, ⟨2, 32, 16, 1, .any⟩] ++
    (if fld b 32 16 1 = 1 then [⟨3, 36, 0, 1, .any⟩, ⟨4, 36, 4, 2, .names (· < 2)⟩, ⟨5, 36, 8, 8, .any⟩] else []) ++
    (List.range (fld b 32 8 6)).flatMap (timingRecord b)

/-- The timing set that record `j` of a block gives (R97). -/
def timingOf (b : Words) (j : Nat) : TimingSet :=
  let o := 40 + 144 * j
  { period := BitVec.ofNat 32 (fld b o 0 32), fast := fld b (o + 4) 0 1 = 1
    edges := Vector.ofFn fun i => BitVec.ofNat 24 (fld b (o + 16 + 4 * i.val) 0 24) }

/-- `TIM_TIMING_SET` (R487). -/
def timingAct (j : Job) (s : State) : Act :=
  let b := j.args
  let first := fld b 32 0 5
  let n := fld b 32 8 6
  .done (s.modGroup (Pkt.group j.p) fun x =>
    let x := { x with sets := Vector.ofFn fun i : Fin 32 =>
      if first ≤ i.val ∧ i.val < first + n then timingOf b (i.val - first) else x.sets[i.val] }
    if fld b 32 16 1 = 1 then
      { x with tapEn := fld b 36 0 1 = 1, underrunStop := fld b 36 4 2 = 1, tapMask := BitVec.ofNat 8 (fld b 36 8 8) }
    else x) []

/-- `TIM_TIMING_SET` (R98, R487). -/
def cmdTimTimingSet : CmdDef :=
  { CmdDef.plain 0x0600 0 modeOps [] timingAct with
    unitMax := 15
    length := fun p => 40 + 144 * bitsOf ((p.params.getD 0 0).toNat) 8 6
    fields := timingFields
    naming := fun _ _ p =>
      let b := p.block
      let n := fld b 32 8 6
      if 32 < fld b 32 0 5 + n || (n = 0 && fld b 32 16 1 = 0) then [1] else []
    checks := fun s j => firstOf [checkGroup s (Pkt.group j.p),
      refuseIf (s.groupBusy (Pkt.group j.p) || s.lanesRun (Pkt.group j.p)) stBusy (if fld j.args 32 16 1 = 1 then 3 else 6)] }

/-- `TIM_TIMING_SET`: the row. -/
def execTimTimingSet (p : Pkt) (s : State) : Host.Outcome State Fault Refusal := .next (cmdTimTimingSet.fetch p s)

/-- `TIM_SITE_MAP` (R161). -/
def cmdTimSiteMap : CmdDef :=
  { CmdDef.plain 0x0602 64 modeOps
      ((List.range 8).flatMap fun p =>
        [⟨3 * p, 32 + 4 * p, 0, 5, .any⟩, ⟨3 * p + 1, 32 + 4 * p, 8, 5, .any⟩, ⟨3 * p + 2, 32 + 4 * p, 16, 1, .any⟩])
      (fun j s => .done (s.modGroup (Pkt.group j.p) fun x => { x with pins := Vector.ofFn fun p : Fin 8 =>
        let o := 32 + 4 * p.val
        { x.pins[p.val] with
          site := Fin.ofNat 32 (fld j.args o 0 5), io := BitVec.ofNat 5 (fld j.args o 8 5), en := fld j.args o 16 1 = 1 } }) []) with
    unitMax := 15
    checks := fun s j => firstOf [checkGroup s (Pkt.group j.p), refuseIf s.groups[(Pkt.group j.p).val].runs stBusy 0] }

/-- `TIM_SITE_MAP`: the row. -/
def execTimSiteMap (p : Pkt) (s : State) : Host.Outcome State Fault Refusal := .next (cmdTimSiteMap.fetch p s)

/-- The groups of a mask in ascending order. -/
def groupsOf (m : Nat) : List (Fin 16) := (allFin 16).filter fun g => m.testBit g.val

/-- `TIM_DESKEW` (R488): set mode writes the offsets of one group; calibrate mode measures. -/
def deskewAct (j : Job) (s : State) : Act :=
  if fld j.args 32 0 1 = 1 then
    match groupsOf (fld j.args 36 0 16) with
    | [] => .done s []
    | g :: _ =>
      let offset (p : Fin 8) (i : Fin 4) : Int := signedOf 16 (fld j.args (40 + 8 * p.val + 2 * i.val) 0 16)
      .done (s.modGroup g fun x => { x with pins := Vector.ofFn fun p : Fin 8 =>
        { x.pins[p.val] with offsets := Vector.ofFn (offset p) } }) []
  else .stay { s with queen := { s.queen with cal := s.queen.cal ++ [(j.key, 0)] } }

/-- The fields of `TIM_DESKEW` (R488). -/
def deskewFields (p : Pkt) : List Field :=
  [⟨0, 32, 0, 1, .any⟩, ⟨1, 36, 0, 16, .names (· != 0)⟩] ++
    (if fld p.block 32 0 1 = 1 then (List.range 32).map fun i => ⟨2 + i, 40 + 2 * i, 0, 16, .sclamp (-32768) 32767⟩ else [])

/-- `TIM_DESKEW` (R124, R125, R488). -/
def cmdTimDeskew : CmdDef :=
  { CmdDef.plain 0x0601 0 (fun s p => if fld p.block 32 0 1 = 1 then modeOps s p else modeMnt s p) [] deskewAct with
    length := fun p => (if (p.params.getD 0 0).getLsbD 0 then 104 else 40)
    fields := deskewFields
    naming := fun _ _ p =>
      if fld p.block 32 0 1 = 1 && (groupsOf (fld p.block 36 0 16)).length != 1 then [1] else []
    checks := fun s j =>
      let l := groupsOf (fld j.args 36 0 16)
      let set := fld j.args 32 0 1 = 1
      let off (g : Fin 16) : Bool :=
        !s.clk.mux.getLsbD (groupDie g).val || !s.dieOn (groupDie g) 0 || !s.dieOn (groupDie g) 11 ||
          (!set && !s.pdOn (groupDomain g))
      firstOf [refuseIf (l.any fun g => s.groupMarked g || s.dieMarked (groupDie g)) stUnusable 1,
        refuseIf (l.any fun g => s.net.dies[(groupDie g).val].fenced) stFenced 1,
        refuseIf (l.any off) stNotReady 1, refuseIf (l.any fun g => s.underTest (dieUnit (groupDie g) 7)) stBusy 1, refuseIf (set && l.any fun g => s.groupBusy g || s.lanesRun g) stBusy 2] }

/-- `TIM_DESKEW`: the row. -/
def execTimDeskew (p : Pkt) (s : State) : Host.Outcome State Fault Refusal := .next (cmdTimDeskew.fetch p s)

/-- The 18 words that a calibrated group gives (R488). -/
def calWords (temp : BitVec 16) (stored : Bool) (corr : List Int) : Words :=
  [temp.setWidth 32, BitVec.ofNat 32 (b2n stored)] ++
    (List.range 16).map fun i =>
      BitVec.ofNat 32 (unsignedOf 16 (corr.getD (2 * i) 0) + unsignedOf 16 (corr.getD (2 * i + 1) 0) * 2 ^ 16)

/-- The measurement of one named group is stored, unless it did not complete or its die was reset or fenced (R488). -/
def State.storeCal (s : State) (disturbed : BitVec 4) (r : List CalResult) (g : Fin 16) : State × Words :=
  match r.find? fun x => x.group = g with
  | none => (s, calWords 0 false [])
  | some x =>
    let d := groupDie g
    if disturbed.getLsbD d.val || s.net.dies[d.val].fenced then (s, calWords x.temp false [])
    else
      let corr (p : Fin 8) (i : Fin 4) : Int := x.corr.getD (4 * p.val + i.val) 0
      (s.modGroup g fun y => { y with
        calValid := true, calTemp := x.temp
        pins := Vector.ofFn fun p : Fin 8 => { y.pins[p.val] with corr := Vector.ofFn (corr p) } },
       calWords x.temp true x.corr)

/-- `CALIBRATION_END` (R124, R488). -/
def execCalibrationEnd (r : List CalResult) (s : State) : Host.Outcome State Fault Refusal :=
  .next (match s.queen.cal with
    | [] => s
    | (k, disturbed) :: l =>
      let s := { s with queen := { s.queen with cal := l } }
      match s.job? k with
      | none => s
      | some j =>
        let (s, words) := (groupsOf (fld j.args 36 0 16)).foldl (fun (s, ws) g =>
          let (s, w) := s.storeCal disturbed r g
          (s, ws ++ w)) (s, [])
        s.commitDone j words)

end Sys2Proof.Machine
end

