-- ==== Sys2Proof/Machine/PortCmds.lean ====
section
/-! DEFINITION. The PORT commands (spec/05_test_ports.md, R152 to R160). -/

namespace Sys2Proof.Machine

/-! Settings (R158). -/

/-- The fields of `PORT_SET`. -/
def portFields : List Field :=
  [⟨0, 32, 0, 2, .names (· < 3)⟩, ⟨1, 36, 0, 6, .clamp 1 32⟩, ⟨2, 40, 0, 32, .sclamp (-500000) 500000⟩,
   ⟨3, 44, 0, 8, .clamp 0 200⟩, ⟨4, 44, 8, 8, .clamp 20 100⟩, ⟨5, 48, 0, 1, .any⟩] ++
    (List.range 8).flatMap fun p =>
      let o := 64 + 16 * p
      [⟨6 + 5 * p, o, 0, 7, .any⟩, ⟨7 + 5 * p, o + 4, 0, 4, .clamp 0 12⟩, ⟨8 + 5 * p, o + 4, 8, 5, .clamp 0 24⟩,
       ⟨9 + 5 * p, o + 4, 16, 4, .any⟩, ⟨10 + 5 * p, o + 8, 0, 4, .clamp 0 12⟩]

/-- The code of a group's mode. -/
def GMode.code : GMode → Nat
  | .waveform => 0 | .coded => 1 | .raw => 2
/-- The mode of a code. -/
def modeOf (v : Nat) : GMode := if v = 0 then .waveform else if v = 1 then .coded else .raw

/-- The `PORT_SET` block of a group, as applied (R158). -/
def State.portBlock (s : State) (g : Fin 16) : Words :=
  let x := s.groups[g.val]
  [BitVec.ofNat 32 x.mode.code, x.rateN.setWidth 32, BitVec.ofInt 32 x.offset,
   BitVec.ofNat 32 (x.sscDepth.toNat + x.sscRate.toNat * 2 ^ 8), BitVec.ofNat 32 (b2n x.loopback), 0, 0, 0] ++
    (groupPorts g).flatMap fun n =>
      let p := s.ports[n.val]
      [BitVec.ofNat 32 (p.inv.toNat + bitAt p.auto_ 4 + bitAt p.startTx 5 + bitAt p.startTxe 6),
       BitVec.ofNat 32 (p.pre.toNat + p.post.toNat * 2 ^ 8 + p.swing.toNat * 2 ^ 16), p.ctle.setWidth 32, 0]

/-- The settings of one port taken from a block; a change of output polarity shows at the balls (R130). DESIGN CHOICE: R157 does
not say when `POL_APPLIED` clears; a `PORT_SET`, which writes `INV_RX` anew, clears it (log entry 68). -/
def State.setPort (s : State) (b : Words) (g : Fin 16) (p : Fin 8) : State :=
  let o := 64 + 16 * p.val
  let n := groupPort g p
  let old := s.ports[n.val].inv
  (s.modPort n fun q => { q with
    inv := BitVec.ofNat 4 (fld b o 0 4), auto_ := fld b o 4 1 = 1, startTx := fld b o 5 1 = 1, startTxe := fld b o 6 1 = 1
    pre := BitVec.ofNat 4 (fld b (o + 4) 0 4), post := BitVec.ofNat 5 (fld b (o + 4) 8 5)
    swing := BitVec.ofNat 4 (fld b (o + 4) 16 4), ctle := BitVec.ofNat 4 (fld b (o + 8) 0 4), polApplied := false }).showPolarity n old

/-- `PORT_SET` (R158): all settings of a group; its ports follow the mode and the loopback (R132, R134, R148, R159). -/
def portSetAct (j : Job) (s : State) : Act :=
  let g := Pkt.group j.p
  let b := j.args
  let s := s.modGroup g fun x => { x with
    mode := modeOf (fld b 32 0 2), rateN := BitVec.ofNat 6 (fld b 36 0 6), offset := signedOf 32 (fld b 40 0 32)
    sscDepth := BitVec.ofNat 8 (fld b 44 0 8), sscRate := BitVec.ofNat 8 (fld b 44 8 8), loopback := fld b 48 0 1 = 1 }
  let s := forAll (allFin 8) (fun p s => s.setPort b g p) s
  .done (forAll (groupPorts g) (fun n s => s.refreshPort n) s) []

/-- `PORT_SET` (R46, R98, R158). A group in protocol mode whose Worker is active is not running; a change of its mode then
touches the Worker's function (R129; log entry 28). -/
def cmdPortSet : CmdDef :=
  { CmdDef.plain 0x0500 192 modeOps portFields portSetAct with
    unitMax := 15
    checks := fun s j =>
      let g := Pkt.group j.p
      let mode := decide (modeOf (fld j.args 32 0 2) ≠ s.groups[g.val].mode)
      firstOf [checkGroup s g,
        refuseIf (s.groupBusy g || s.lanesRun g || (mode && s.workers[(groupWorker g).val].active)) stBusy 0] }

/-- `PORT_SET`: the row. -/
def execPortSet (p : Pkt) (s : State) : Host.Outcome State Fault Refusal := .next (cmdPortSet.fetch p s)

/-! Status (05, `TP_STATUS`; 04, `PG_STATUS`). -/

/-- `TP_STATUS`. -/
def PortSt.status (p : PortSt) : Word := BitVec.ofNat 32
  (p.link.code + bitAt p.prbs.on 6 + bitAt p.prbs.locked 7 + bitAt p.cdrLost 8 + bitAt p.txFill 9 + bitAt p.polSwap 10 +
   bitAt p.polApplied 11 + p.short.toNat * 2 ^ 12)

/-- `PG_CTRL` (04). -/
def Group.ctrl (x : Group) : Word := BitVec.ofNat 32 (bitAt x.tapEn 0 + bitAt x.underrunStop 4 + x.tapMask.toNat * 2 ^ 8)

/-- `PG_STATUS` (04). -/
def Group.status (x : Group) (now : Int) : Word := BitVec.ofNat 32
  (x.st.code + bitAt x.underrunSeen 6 + bitAt x.edgeClash 7 + bitAt (x.badSeen now) 8 + bitAt x.lateStart 9 +
   bitAt x.supplyDist 10 + bitAt x.calValid 11)

/-- `PORT_GET` (R159). -/
def cmdPortGet : CmdDef :=
  { CmdDef.plain 0x0501 32 modeAny [] (fun j s =>
      let g := Pkt.group j.p
      let x := s.groups[g.val]
      .done s (s.portBlock g ++ ((groupPorts g).map fun n => (s.ports[n.val]).status) ++ [x.ctrl, x.status s.nowTu] ++
        word2 (x.markCycle.toNat + x.markCount.toNat * 2 ^ 48 + x.markValue.toNat * 2 ^ 56) ++ word2 (x.pgCycle s.nowTu).toNat ++
        word2 x.idle.toNat ++ word2 x.clash.toNat ++
        [if x.calValid then x.calTemp.setWidth 32 else 0, 0])) with
    unitMax := 15
    checks := fun s j => checkGroup s (Pkt.group j.p) }

/-- `PORT_GET`: the row. -/
def execPortGet (p : Pkt) (s : State) : Host.Outcome State Fault Refusal := .next (cmdPortGet.fetch p s)

/-- A test function on a group (01, R18): its die runs none while it has still to rejoin. DEDUCED: the refusal is `NOT_READY`
(log entry 56). -/
def checkTestGroup (s : State) (g : Fin 16) : Option Verdict :=
  firstOf [checkGroup s g, refuseIf s.net.dies[(groupDie g).val].rejoining stNotReady]

/-! Lanes (R140 to R148). -/

/-- The ports of a group that a `PORT_MASK` names. -/
def maskPorts (g : Fin 16) (m : Nat) : List (Fin 128) := ((allFin 8).filter fun p => m.testBit p.val).map (groupPort g)

/-- The ports that a job names. -/
def Job.ports (j : Job) : List (Fin 128) := maskPorts (Pkt.group j.p) (fld j.args 32 0 8)

/-- Step 7 for the ports that a mask names: none is marked (17, R453). -/
def checkPorts (s : State) (j : Job) : Option Verdict := refuseIf (j.ports.any s.portMarked) stUnusable 0

/-- A mask is empty, or names a port of a group not in protocol mode (R160). -/
def laneMaskBad (s : State) (p : Pkt) : List Nat :=
  if fld p.block 32 0 8 = 0 || s.groups[(Pkt.group p).val].mode = .waveform then [0] else []

/-- A lane starts (R134, R143): running disparity is negative, and the receive boundary is where it falls. -/
def State.startLane (s : State) (n : Fin 128) : State :=
  if s.ports[n.val].started then s
  else (s.modPort n fun p => { p with
    started := true, stale := false, txDisp := false, rxDisp := false, slipAsk := 0, slips := 0, rxHave := 0, rxBits := 0, sync := .loss
    rxLine := [], rxChars := [], loop := [] }).refreshPort n

/-- A lane stops (R160). -/
def State.stopLane (s : State) (n : Fin 128) : State :=
  if s.ports[n.val].started then (s.modPort n fun p => { p with started := false }).refreshPort n else s

/-- `PORT_START` (R159, R160, R152). -/
def cmdPortStart : CmdDef :=
  { CmdDef.plain 0x0502 36 modeRr [⟨0, 32, 0, 8, .any⟩] (fun j s =>
      .done (forAll j.ports (fun n s => s.startLane n) s).startedFunction []) with
    unitMax := 15
    naming := fun s _ p => laneMaskBad s p
    checks := fun s j => firstOf [checkPorts s j, checkTestGroup s (Pkt.group j.p), refuseIf (j.ports.any fun n => s.ports[n.val].prbs.on || s.probeDrives n) stBusy 0] }

/-- `PORT_START`: the row. -/
def execPortStart (p : Pkt) (s : State) : Host.Outcome State Fault Refusal := .next (cmdPortStart.fetch p s)

/-- `PORT_STOP` (R159, R160). -/
def cmdPortStop : CmdDef :=
  { CmdDef.plain 0x0503 36 modeRr [⟨0, 32, 0, 8, .any⟩] (fun j s => .done (forAll j.ports (fun n s => s.stopLane n) s) []) with
    unitMax := 15
    naming := fun s _ p => laneMaskBad s p
    checks := fun s j => firstOf [checkPorts s j, checkGroup s (Pkt.group j.p)] }

/-- `PORT_STOP`: the row. -/
def execPortStop (p : Pkt) (s : State) : Host.Outcome State Fault Refusal := .next (cmdPortStop.fetch p s)

/-- `PORT_LINK_STATUS` (R159). -/
def cmdPortLinkStatus : CmdDef :=
  { CmdDef.plain 0x0504 36 modeAny [⟨0, 32, 0, 8, .any⟩, ⟨1, 32, 8, 1, .any⟩] (fun j s =>
      let words := j.ports.flatMap fun n => (s.ports[n.val]).status :: (s.ports[n.val]).counts.toList
      let s := if fld j.args 32 8 1 = 1 then
          forAll j.ports (fun n s => s.modPort n fun p => { p with counts := Vector.replicate 6 0 }) s
        else s
      .done s words) with
    unitMax := 15
    checks := fun s j => firstOf [checkPorts s j, checkGroup s (Pkt.group j.p)] }

/-- `PORT_LINK_STATUS`: the row. -/
def execPortLinkStatus (p : Pkt) (s : State) : Host.Outcome State Fault Refusal := .next (cmdPortLinkStatus.fetch p s)

/-- Is the polarity of `RX` tested: on request and in protocol mode only (R156)? -/
def State.testsPolarity (s : State) (j : Job) : Bool :=
  fld j.args 32 8 1 = 1 && s.groups[(Pkt.group j.p).val].mode != .waveform

/-- `PORT_DETECT` as processed (R156): the outputs of the named ports go high-impedance, and a checker runs on the chosen
pattern where the polarity is tested. -/
def portDetectAct (j : Job) (s : State) : Act :=
  let chk : Option Prbs :=
    if s.testsPolarity j then some { Prbs.reset with chk := true, poly := BitVec.ofNat 2 (fld j.args 32 9 2) } else none
  .stay (forAll j.ports (fun n s => s.beginTest n chk) s)

/-- `PORT_DETECT` (R156, R160): the tests run until `DETECT_END`. -/
def cmdPortDetect : CmdDef :=
  { CmdDef.plain 0x0505 36 modeRr [⟨0, 32, 0, 8, .any⟩, ⟨1, 32, 8, 1, .any⟩, ⟨2, 32, 9, 2, .any⟩] portDetectAct with
    unitMax := 15
    checks := fun s j =>
      let g := Pkt.group j.p
      firstOf [checkPorts s j, checkTestGroup s g, refuseIf (s.groupBusy g || s.lanesRun g) stBusy 0] }

/-- `PORT_DETECT`: the row. -/
def execPortDetect (p : Pkt) (s : State) : Host.Outcome State Fault Refusal := .next (cmdPortDetect.fetch p s)

/-! PRBS (R151 to R154). -/

/-- A PRBS function starts on a port; where the generator's pattern begins is a free value. -/
def State.startPrbs (s : State) (b : Words) (n : Fin 128) : State :=
  let (v, s) := s.drawFree
  let poly : BitVec 2 := BitVec.ofNat 2 (fld b 32 12 2)
  (s.modPort n fun p => { p with stale := false, prbs :=
    { Prbs.reset with on := true, gen := fld b 32 15 1 = 1, chk := fld b 32 16 1 = 1, poly := poly
                      invert := fld b 32 14 1 = 1, genReg := prbsSeed poly v }, loop := [] }).refreshPort n

/-- The effect of a `PORT_PRBS` action on one port. CLEAR zeroes the checker's counts (R154). -/
def State.prbsAction (s : State) (b : Words) (n : Fin 128) : State :=
  match fld b 32 8 4 with
  | 1 => s.startPrbs b n
  | 2 => if s.ports[n.val].prbs.on then
      (s.modPort n fun p => { p with prbs := { p.prbs with on := false, locked := false, todo := [] } }).refreshPort n
    else s
  | 3 => s.modPort n fun p => { p with prbs := { p.prbs with bits := 0, errs := 0, losses := 0 } }
  | 4 => s.modPort n fun p => { p with prbs := { p.prbs with insert_ := p.prbs.on && p.prbs.gen } }
  | _ => s

/-- The results of `PORT_PRBS` for a port: the two 48-bit counts in 64 bits each (log entry 12). -/
def PortSt.prbsWords (p : PortSt) : Words :=
  p.status :: (word2 p.prbs.bits.toNat ++ word2 p.prbs.errs.toNat ++ [p.prbs.losses])

/-- `PORT_PRBS` (R152 to R154). DESIGN CHOICE: the reply of CLEAR gives the counts before they are cleared (log entry 68). -/
def cmdPortPrbs : CmdDef :=
  { CmdDef.plain 0x0506 36 modeRr
      [⟨0, 32, 0, 8, .any⟩, ⟨1, 32, 8, 4, .names (· < 5)⟩, ⟨2, 32, 12, 2, .any⟩, ⟨3, 32, 14, 1, .any⟩, ⟨4, 32, 15, 2, .any⟩]
      (fun j s =>
        let t := forAll j.ports (fun n s => s.prbsAction j.args n) s
        let t := if fld j.args 32 8 4 = 1 then t.startedFunction else t
        let before := decide (fld j.args 32 8 4 = 3)
        .done t (j.ports.flatMap fun n => (if before then s.ports[n.val] else t.ports[n.val]).prbsWords)) with
    unitMax := 15
    naming := fun s _ p =>
      laneMaskBad s p ++ (if fld p.block 32 8 4 = 1 && fld p.block 32 15 2 = 0 then [4] else [])
    checks := fun s j => firstOf [checkPorts s j, (if fld j.args 32 8 4 = 1 then checkTestGroup else checkGroup) s (Pkt.group j.p),
      refuseIf (fld j.args 32 8 4 = 1 && j.ports.any fun n => s.ports[n.val].active || s.probeDrives n) stBusy 0] }

/-- `PORT_PRBS`: the row. -/
def execPortPrbs (p : Pkt) (s : State) : Host.Outcome State Fault Refusal := .next (cmdPortPrbs.fetch p s)

end Sys2Proof.Machine
end

