-- ==== Sys2Proof/Machine/PortEvents.lean ====
section
/-! DEFINITION. What happens at the protocol lanes (spec/05_test_ports.md, R140 to R157): words taken from and given to the
fabric, clock recovery and alignment, PRBS checkers, shorts and the end of `PORT_DETECT`. -/

namespace Sys2Proof.Machine

/-- A counter of a port raised: 0 CODE_ERR, 1 DISP_ERR, 2 TX_BADK, 3 TX_FILL_COUNT, 4 CDR_LOSS, 5 ALIGN_LOSS. -/
def PortSt.count (p : PortSt) (i : Fin 6) : PortSt := { p with counts := upd p.counts i fun c => satAdd c 1 }

/-- Is the lane of a port in protocol mode, on a powered port of a die in service? -/
def State.laneOn (s : State) (n : Fin 128) : Bool :=
  s.groups[(portGroup n).val].mode != .waveform && s.portOn n && s.dieServes (portDie n)

/-- Is a lane looped back inside its port (R159)? -/
def State.looped (s : State) (n : Fin 128) : Bool := s.groups[(portGroup n).val].loopback

/-! Transmit (R140, R143, R144, R154). -/

/-- The word that the fabric offers a port: valid, data and K flags (07, R207). -/
def State.offered (s : State) (n : Fin 128) : Bool × Nat × Nat :=
  let d := portDie n
  let (_, t0) := groupEdge (portGroup n)
  let p := (portPin n).val
  let half (i : Nat) : Nat := s.edgeOut d (t0 + i / 4) (i % 4)
  (bitOf (s.edgeOut d (t0 + 4) 0) p, half (2 * p) + half (2 * p + 1) * 65536,
   bitsOf (s.edgeOut d (t0 + 4) (1 + p / 4)) (4 * (p % 4)) 4)

/-- The serialiser's bits in loopback: they go to the port's own receiver (R159). -/
def State.feedLoop (s : State) (n : Fin 128) (l : List Bool) : State :=
  if s.looped n then s.modPort n fun p => { p with loop := p.loop ++ l } else s

/-- What leaves the balls of a port, after its polarity; in loopback nothing does, and the receiver gets it. -/
def State.sendGroups (s : State) (n : Fin 128) (l : List (BitVec 10)) : State :=
  if s.portSafe n then s.feedLoop n (l.flatMap fun g => (List.range 10).map g.getLsbD)
  else s.emit (.lineGroups n (if s.ports[n.val].inv.getLsbD 0 then l.map (~~~·) else l))

/-- The same for line bits. -/
def State.sendBits (s : State) (n : Fin 128) (w : Word) : State :=
  if s.portSafe n then s.feedLoop n ((List.range 32).map w.getLsbD)
  else s.emit (.lineBits n (if s.ports[n.val].inv.getLsbD 0 then ~~~w else w))

/-- An edge word of a group's tiles that every tile sees gets a bit set. -/
def State.pulseEdge (s : State) (g : Fin 16) (bit : Nat) : State :=
  let (d, t0) := groupEdge g
  (List.range 12).foldl (fun s i =>
    s.setEdge d (t0 + i) 0 ((sparseGet s.fab[d.val].edgeIn (4 * (t0 + i))).toNat ||| 2 ^ bit)) s

/-- A generator sends the next 32 bits of its pattern, one of them inverted where an insertion waits (R154). -/
def State.generate (s : State) (n : Fin 128) : State :=
  let x := s.ports[n.val].prbs
  let (l, r) := prbsBits x.poly 32 x.genReg
  let w : Word := BitVec.ofNat 32 (packBools (l.map (· != x.invert))) ^^^ (if x.insert_ then 1 else 0)
  (s.modPort n fun p => { p with prbs := { p.prbs with genReg := r, insert_ := false } }).sendBits n w

/-- A lane takes the fabric's word, or sends a fill word (R140, R143, R144). -/
def State.takeWord (s : State) (n : Fin 128) : State :=
  let g := portGroup n
  let p := s.ports[n.val]
  let (valid, data, ks) := s.offered n
  let s := s.pulseEdge g (portPin n).val
  let s := if valid then s else s.modPort n fun q => { q.count 3 with txFill := true }
  if s.groups[g.val].mode = .raw then s.sendBits n (if valid then BitVec.ofNat 32 data else rawFill)
  else
    let chars := if valid then (List.range 4).map fun j => (bitOf ks j, bitsOf data (8 * j) 8) else fillChars p.txDisp
    let bad := (chars.filter fun c => c.1 && !isKChar c.2).length
    let (l, rd) := codeWord chars p.txDisp
    (s.modPort n fun q => { q with txDisp := rd, counts := upd q.counts 2 fun c => satAdd c bad }).sendGroups n l

/-- `TXW_TAKE` (R140): a started lane takes a word; a PRBS generator sends its own. -/
def execTxwTake (n : Fin 128) (s : State) : Host.Outcome State Fault Refusal :=
  let p := s.ports[n.val]
  .next (if !s.laneOn n then s
    else if p.started then s.takeWord n
    else if p.prbs.on && p.prbs.gen then s.generate n
    else s)

/-! Receive (R141, R145 to R147, R153). -/

/-- A received word presented to the fabric (07, R207). -/
def State.present (s : State) (n : Fin 128) (data ks errs : Nat) : State :=
  let g := portGroup n
  let (d, t0) := groupEdge g
  let p := (portPin n).val
  let s := ((s.setEdge d (t0 + 1 + p) 1 (data % 65536)).setEdge d (t0 + 1 + p) 2 (data / 65536)).setEdge d (t0 + 1 + p) 3
    (ks + errs * 16)
  s.pulseEdge g (8 + p)

/-- A byte of the word being received, with its count where it is in error (R146). -/
def PortSt.takeGroup (p : PortSt) (x : Decoded) : PortSt :=
  match x with
  | .char k b => { p with rxChars := p.rxChars ++ [(b, k, false)] }
  | .dispErr => { p.count 1 with rxChars := p.rxChars ++ [(0xFE, true, true)] }
  | .codeErr => { p.count 0 with rxChars := p.rxChars ++ [(0xFE, true, true)] }

/-- A code group on the boundary in force (R145): the K28.5 that completes alignment is byte 0 of its word. -/
def PortSt.groupIn (p : PortSt) (v : Nat) : PortSt :=
  let x := decodeGroup v p.rxDisp
  let q := { p with rxDisp := groupDisp v p.rxDisp, sync := p.sync.step x.kind, rxLine := [] }
  if !q.sync.aligned then { q with rxChars := [] }
  else if p.sync.aligned then q.takeGroup x
  else ({ q with rxChars := [(0xBC, true, false)] }).takeGroup x

/-- A line bit of an 8b/10b lane (R145): without alignment a K28.5 sets the boundary; on it, ten bits are a code group. -/
def PortSt.bitIn (p : PortSt) (b : Bool) : PortSt :=
  let l := p.rxLine ++ [b]
  if l.length < 10 then { p with rxLine := l }
  else
    let v := revBits 10 (packBools l)
    if p.sync != .loss then p.groupIn v
    else if isK285 v then { p with sync := .comma 1, rxDisp := groupDisp v p.rxDisp, rxLine := [], rxChars := [] }
    else { p with rxLine := l.drop 1 }

/-- Line bits of an 8b/10b lane: the port after them, and the words that they complete (R141, R145, R146). -/
def PortSt.codedBits (p : PortSt) : List Bool → PortSt × List (List (Nat × Bool × Bool))
  | [] => (p, [])
  | b :: l =>
    let q := p.bitIn b
    if 4 ≤ q.rxChars.length then
      let r := PortSt.codedBits { q with rxChars := [] } l
      (r.1, q.rxChars :: r.2)
    else q.codedBits l

/-- A raw word received (R147): slips take bits out, and a word is presented when 32 bits are at hand. -/
def State.receiveRaw (s : State) (n : Fin 128) (w : Word) : State :=
  let p := s.ports[n.val]
  let have_ := p.rxHave + 32
  let drop := min p.slips have_
  let v := (p.rxBits.toNat + w.toNat * 2 ^ p.rxHave) / 2 ^ drop
  let left := have_ - drop
  let full := decide (32 ≤ left)
  let s := s.modPort n fun q => { q with
    slips := q.slips - drop, rxHave := if full then left - 32 else left
    rxBits := BitVec.ofNat 32 (if full then v / 2 ^ 32 else v) }
  if full then s.present n (v % 2 ^ 32) 0 0 else s

/-- Line bits of an 8b/10b lane received (R145, R146): each word that they complete is presented. -/
def State.receiveCoded (s : State) (n : Fin 128) (l : List Bool) : State :=
  let r := (s.ports[n.val]).codedBits l
  r.2.foldl (fun s bs => s.present n (bytesNum (bs.map fun b => BitVec.ofNat 8 b.1)) (packBools (bs.map (·.2.1)))
    (packBools (bs.map (·.2.2)))) (s.modPort n fun _ => r.1)

/-- What a port's receiver sees of a word at the balls (R130). -/
def PortSt.seen (p : PortSt) (x : RxWord) : RxWord :=
  if p.inv.getLsbD 2 then
    match x with
    | .bits w => .bits (~~~w)
    | .groups a b c d => .groups (~~~a) (~~~b) (~~~c) (~~~d)
  else x

/-- Does a port's receiver take bits: clock recovered, or looped back (R145, R148, R159)? -/
def State.receives (s : State) (n : Fin 128) : Bool :=
  let p := s.ports[n.val]
  s.laneOn n && p.runs && (s.looped n || p.link = .aligned || p.link = .cdrLock)

/-- The line bits of a word that a port received: what its receiver sees of the balls, or, in loopback, the oldest that its
own serialiser sent (R130, R159); and the port behind them. A looped lane has none before its serialiser sent a word. -/
def State.lineIn (s : State) (n : Fin 128) (x : RxWord) : List Bool × State :=
  let p := s.ports[n.val]
  if !s.looped n then (lineBitsOf (p.seen x), s)
  else
    let k := if p.prbs.on || s.groups[(portGroup n).val].mode = .raw then 32 else 40
    if p.loop.length < k then ([], s)
    else ((p.loop.take k).map (· != p.inv.getLsbD 2), s.modPort n fun q => { q with loop := q.loop.drop k })

/-- Received bits of a running lane: to the checker of a PRBS function, or to the fabric (R141, R153). -/
def State.received (s : State) (n : Fin 128) (l : List Bool) : State :=
  let p := s.ports[n.val]
  if p.prbs.on then
    if p.prbs.chk then s.modPort n fun q => { q with prbs := q.prbs.check (q.prbs.todo ++ l) } else s
  else match s.groups[(portGroup n).val].mode with
    | .raw => if l.length = 32 then s.receiveRaw n (BitVec.ofNat 32 (packBools l)) else s
    | _ => s.receiveCoded n l

/-- The checker of a polarity test takes bits until it has decided (R156). -/
def PortTest.take (x : PortTest) (l : List Bool) : PortTest :=
  { x with chk := x.chk.map fun c => if c.due then c else c.check l }

/-- `RXW_VALID` (R141, R153, R156, R159): line bits reach the receiver of a lane that runs, 32 of a raw lane or a PRBS
function, 40 of an 8b/10b lane; or the checker of a polarity test. -/
def execRxwValid (n : Fin 128) (x : RxWord) (s : State) : Host.Outcome State Fault Refusal :=
  let p := s.ports[n.val]
  .next (if s.laneOn n && p.test.isSome then
      s.modPort n fun q => { q with test := q.test.map fun t => t.take (lineBitsOf (p.seen x)) }
    else if !s.receives n then s
    else (s.lineIn n x).2.received n (s.lineIn n x).1)

/-- `RX_SLIP` (R147; 07, R207): the receiver takes a pulse that the fabric drove on its edge word; the boundary moves by one
bit. -/
def execRxSlip (n : Fin 128) (s : State) : Host.Outcome State Fault Refusal :=
  .next (if s.laneOn n && s.groups[(portGroup n).val].mode = .raw && s.ports[n.val].started &&
        decide (0 < s.ports[n.val].slipAsk) then
      s.modPort n fun p => { p with slipAsk := p.slipAsk - 1, slips := p.slips + 1 }
    else s)

/-- `CDR_LOCK` (R139, R148); not of a lane that a coast has stopped (13, R378). -/
def execCdrLock (n : Fin 128) (s : State) : Host.Outcome State Fault Refusal :=
  .next (if s.ports[n.val].link = .noSignal && !s.ports[n.val].stale then s.setLink n .cdrLock else s)

/-- A running lane has to recover its clock and its alignment again (R148, R157): it falls back to NO_SIGNAL or to CDR_LOCK
searching, and which of the two is a free value. A PRBS checker seeds again. -/
def State.reacquire (s : State) (n : Fin 128) : State :=
  let (v, s) := s.drawFree
  (s.modPort n fun q => { q with sync := .loss, rxLine := [], rxChars := [], prbs := q.prbs.seed false }).setLink n
    (if v.getLsbD 0 then .noSignal else .cdrLock)

/-- `CDR_LOST` (R148): the loss is counted and shown; the lane falls back to NO_SIGNAL or to CDR_LOCK searching, and which of
the two it does is a free value. -/
def execCdrLost (n : Fin 128) (s : State) : Host.Outcome State Fault Refusal :=
  let p := s.ports[n.val]
  .next (if p.link = .cdrLock || p.link = .aligned then
      (s.modPort n fun q => { q.count 4 with cdrLost := true }).reacquire n
    else s)

/-- `ALIGNMENT_ACQUIRED` (R145, R148): the lane state follows the receiver's synchronisation machine. -/
def execAlignmentAcquired (n : Fin 128) (s : State) : Host.Outcome State Fault Refusal :=
  .next (if s.ports[n.val].link = .cdrLock && s.ports[n.val].started && s.groups[(portGroup n).val].mode = .coded &&
        s.ports[n.val].sync.aligned then
      s.setLink n .aligned
    else s)

/-- `ALIGNMENT_LOST` (R145, R148): the synchronisation machine has lost alignment; the loss is counted. -/
def execAlignmentLost (n : Fin 128) (s : State) : Host.Outcome State Fault Refusal :=
  .next (if s.ports[n.val].link = .aligned && !s.ports[n.val].sync.aligned then (s.modPort n fun p => p.count 5).setLink n .cdrLock else s)

/-! PRBS checkers, shorts and detection (R153 to R157). -/

/-- The die event of an open, a short or a swapped pair (R155, R157; 18, R464). -/
def State.portFault (s : State) (n : Fin 128) (signal kind : Nat) : State :=
  s.raiseDie (portDie n) 35 3 n.val (detail [(1, 1, signal), (2, 1, kind)])

/-- A swapped RX pair is found (R157). With `POLARITY_AUTO` the port inverts `INV_RX`: a running lane reacquires lock and
alignment, and a running checker seeds again, on bits seen inverted. Without it the checker stays unlocked, and the pair is
reported once. -/
def State.swapped (s : State) (n : Fin 128) : State :=
  let p := s.ports[n.val]
  let s := s.modPort n fun p =>
    if p.auto_ then { p with polSwap := true, inv := p.inv ^^^ 4, polApplied := true, prbs := p.prbs.seed true }
    else { p with polSwap := true, prbs := ({ p.prbs with swapSeen := true }).seed false }
  let s := if p.auto_ && p.runs && (p.link = .cdrLock || p.link = .aligned) then s.reacquire n else s
  s.portFault n 2 4

/-- `PRBS_LOCK` (R153, R157): 64 consecutive bits have met the prediction, and the checker is locked; or 64 have met the
inverted one, and the pair is swapped. -/
def execPrbsLock (n : Fin 128) (swapped : Bool) (s : State) : Host.Outcome State Fault Refusal :=
  let p := s.ports[n.val]
  .next (if !(p.prbs.on && p.prbs.chk && !p.prbs.locked && p.prbs.due) then s
    else if swapped then (if p.prbs.opp = 64 then s.swapped n else s)
    else if p.prbs.same = 64 then s.modPort n fun q => { q with prbs := q.prbs.lock }
    else s)

/-- `PRBS_LOSS` (R153): 16 mismatches have fallen within 64 bits. -/
def execPrbsLoss (n : Fin 128) (s : State) : Host.Outcome State Fault Refusal :=
  .next (if s.ports[n.val].prbs.on && s.ports[n.val].prbs.locked && s.ports[n.val].prbs.due then
      s.modPort n fun q => { q with prbs := ({ q.prbs with losses := satAdd q.prbs.losses 1 }).seed false }
    else s)

/-- `SHORT` (R155): the port goes on driving. -/
def execShort (n : Fin 128) (leg : Fin 4) (s : State) : Host.Outcome State Fault Refusal :=
  .next (if s.portOn n then
      (s.modPort n fun p => { p with short := p.short ||| (1#4 <<< leg.val) }).portFault n leg.val 0
    else s)

/-- What the tests of one port can report (R156): an open on `TX` and `TXE` only, a short on every pair, and the swapped `RX`
pair that the checker found. -/
def detectWord (swapped : Bool) (r : BitVec 16) : BitVec 16 :=
  BitVec.ofNat 16 ((List.range 4).foldl (fun v i =>
    let c := bitsOf r.toNat (4 * i) 4
    let c := if c = 2 && 2 ≤ i then 1 else if 5 ≤ c then 1 else c
    v + (if i = 2 && swapped && c < 2 then 5 else c) * 2 ^ (4 * i)) 0)

/-- Has the polarity test of a port found its pair swapped (R156)? -/
def PortSt.testSwapped (p : PortSt) : Bool := (p.test.bind (·.chk)).any fun c => c.opp = 64

/-- What the tests of one port found (R156, R157): four codes of four bits, `TX` lowest. -/
def State.detected (s : State) (n : Fin 128) (r : BitVec 16) : State :=
  (List.range 4).foldl (fun s i =>
    match bitsOf r.toNat (4 * i) 4 with
    | 2 => s.portFault n i 1
    | 3 => s.portFault n i 2
    | 4 => s.portFault n i 3
    | 5 => if i = 2 then s.swapped n else s
    | _ => s) s

/-- The tests of the ports of a group are over. -/
def State.endTests (s : State) (g : Fin 16) : State := forAll (groupPorts g) (fun n s => s.endTest n) s

/-- `DETECT_END` (R156): the `PORT_DETECT` of the group commits; the outputs go back. With the Queen core down nothing commits (02,
R57). DESIGN CHOICE: R156 gives four bits a leg and no layout; the result is one 32-bit word per named port with its four results in
[15:0], `TX` lowest (log entry 68). -/
def execDetectEnd (g : Fin 16) (r : List (BitVec 16)) (s : State) : Host.Outcome State Fault Refusal :=
  .next (match s.queen.jobs.find? fun j => j.p.opcode = 0x0505 && j.phase = .running && Pkt.group j.p = g with
    | none => s.endTests g
    | some j =>
      let found := (j.ports.zip (r ++ List.replicate 8 0)).map fun e => (e.1, detectWord (s.ports[e.1.val]).testSwapped e.2)
      let s := s.endTests g
      let s := found.foldl (fun s e => s.detected e.1 e.2) s
      if s.queen.up then s.commitDone j (found.map fun e => e.2.setWidth 32) else s)

end Sys2Proof.Machine
end

