-- ==== Sys2Proof/Machine/FabricEvents.lean ====
section
/-! DEFINITION. A fabric cycle and the picot probes (spec/07_fabric.md, R193, R201, R206 to R210, R217 to R221), and the errors
that crossings and cell RAM meet in it (spec/10_hive_network_and_ndenu.md, R292, R297, R298). -/

namespace Sys2Proof.Machine

/-! Link health (10, R297, R298). -/

/-- A counter of a link raised: CRC errors 0, replays 1, links down 2, lock-margin warnings 3; inbound ones from 4. -/
def State.netCount (s : State) (d : Fin 4) (i : Fin 8) : State :=
  s.modDie d fun x => { x with counters := upd x.counters i fun c => satAdd c 1 }

/-- `E022` + d: cause, count and worst lane (10, R295, R298). -/
def State.degradedEvent (s : State) (d : Fin 4) (cause count : Nat) (lane : BitVec 16) : State :=
  s.raise ⟨22 + d.val, by omega⟩ 2 d.val (detail [(0, 1, cause), (4, 4, count), (8, 2, lane.toNat)])

/-- A threshold of the window has been reached: `E022` + d once per window, with the lane measured worst (10, R298). -/
def State.degrade (s : State) (d : Fin 4) (cause count : Nat) : State :=
  if s.net.dies[d.val].degraded then s
  else
    let (v, s) := s.drawFree
    (s.modDie d fun x => { x with degraded := true }).degradedEvent d cause count (v.setWidth 16)

/-- Does a link carry a crossing group: latency-locked, and the group exists at its width (10, R290, R293)? -/
def State.carriesGroup (s : State) (d : Fin 4) (g : Fin 32) : Bool :=
  let x := s.net.dies[d.val]
  x.st = .locked && !x.fenced && (!x.half || decide (g.val < 16))

/-- What the nine lanes of a crossing group carry in a fabric cycle (10, R290): its four words and their CRC-8. -/
def groupFrame (words : List (BitVec 16)) : BitVec 64 × Byte :=
  let v : BitVec 64 := BitVec.ofNat 64 (words.foldr (fun w a => w.toNat + a * 65536) 0)
  (v, Config.crossCrc v)

/-- The four words that a crossing group delivers. -/
def crossWords (e : CrossErr) : List (BitVec 16) := (List.range 4).map fun k => BitVec.ofNat 16 (e.words.toNat / 2 ^ (16 * k))

/-- Does the CRC-8 of a crossing group that has arrived fail (10, R290, R292)? -/
def crossFails (e : CrossErr) : Bool := (groupFrame (crossWords e)).2 != e.code

/-- The words of a crossing group as they arrive, its check failed or not (10, R292): those of a die's leg into the hive stand in the
switch register, 6 of their 12 cycles done (R293); those of the leg to a die stand in its inbound registers. -/
def State.deliverCross (s : State) (e : CrossErr) : State :=
  let words : List (Nat × BitVec 16) := ((crossWords e).zipIdx).map fun w => (4 * e.group.val + w.2, w.1)
  if !s.carriesGroup e.d e.group then s
  else s.modFab e.d fun f =>
    if e.toDie then { f with crossBad := words ++ f.crossBad }
    else match f.cross[5]? with
      | none => f
      | some l => { f with cross := f.cross.set 5 (words.foldl (fun l w => sparseSet l w.1 w.2) l) }

/-- The link carries the words that are past a die's outbound registers on, whether the die's own clock runs or not; a register whose
clock stands holds its word (10, R293). -/
def State.crossGoOn (s : State) (d : Fin 4) : State :=
  if s.hiveClocked && s.rsc.hib = .awake then s.modFab d fun f => { f with cross := crossSnapshot f :: f.cross.take 11 } else s

/-- The words that a link delivered in a cycle are gone with it. -/
def State.crossDone (s : State) : State := forAll (allFin 4) (fun d s => s.modFab d fun f => { f with crossBad := [] }) s

/-- A crossing group whose CRC-8 fails is counted, and one in a window is a degradation (10, R292, R297, R298). -/
def State.countCross (s : State) (e : CrossErr) : State :=
  if !s.carriesGroup e.d e.group || !crossFails e then s
  else
    let s := s.modDie e.d fun x => { x with
      crossErr := upd x.crossErr e.group fun c => satAdd c 1, winCross := x.winCross + 1 }
    s.degrade e.d 1 s.net.dies[e.d.val].winCross

/-! ECC of cell RAM (R206). -/

/-- The word that an enabled port of a running column reads with an error. -/
def State.eccTarget (s : State) (sbIn : BitVec 128) (e : RamErr) : Option Nat :=
  if s.fabricRuns e.d && s.columnRuns e.d (7 * e.col.val + 3) then s.ramTarget e.d sbIn e else none

/-- An uncorrectable error delivers the word as it is stored. -/
def State.storeEcc (s : State) (sbIn : BitVec 128) (e : RamErr) : State :=
  match s.eccTarget sbIn e, e.stored with
  | some a, some w => s.modMem fun m => m.putWord a w
  | _, _ => s

/-- A correctable error is counted; an uncorrectable one raises die event +36 with RAM column, row, block, port and address. -/
def State.countEcc (s : State) (e : RamErr) (a : Nat) : State :=
  match e.stored with
  | none => s.modFab e.d fun f => { f with ceRam := satAdd f.ceRam 1 }
  | some _ => s.ramUncorrectable e.d a (b2n e.port)

/-! Probes (R217 to R220). -/

/-- The value a probe channel samples: the register as it stands; one in a sector that is off reads zero (R217, R222). -/
def State.probeValue (s : State) (d : Fin 4) (x : Probe) : Nat :=
  let f := s.fab[d.val]
  let c := x.column.toNat
  let on := s.dieOn d (colSector (if c < 48 then c else 6 * (c - 48) + 2))
  if !on then 0
  else if c < 48 then f.reg (tileX c) x.row.toNat x.index.toNat
  else bitsOf (f.reg (7 * (c - 48) + 3) x.row.toNat (x.index.toNat / 2)) (16 * (x.index.toNat % 2)) 16

/-- The 16 bytes of a capture sample: channels not directed to capture read zero (R218). -/
def State.sampleBytes (s : State) (d : Fin 4) : Bytes :=
  s.fab[d.val].probes.toList.flatMap fun x => numBytes 2 (if x.en && !x.dest then s.probeValue d x else 0)

/-- The samples that the FIFO of a die holds at most (R219). -/
def fifoSize : Nat := 4096

/-- A sample of a capture in progress (R218, R219): it enters the FIFO for the ring slot of its index, or is lost and counted where
the FIFO is full; the index advances either way. -/
def State.capture (s : State) (d : Fin 4) (trigger : Bool) : State :=
  let c := s.fab[d.val].capture
  let takes := c.st = .armed || (c.st = .triggered && decide (0 < c.left))
  if !takes then s
  else
    let slot := c.index % 2 ^ c.logLen.toNat
    let fires : Bool := c.st = .armed && trigger
    let full : Bool := decide (fifoSize ≤ c.fifo.length)
    let v := s.occurred (256 + d.val) c.index
    let bs := s.sampleBytes d
    s.modFab d fun f => { f with capture :=
      { c with
        index := c.index + 1
        fifo := if full then c.fifo else c.fifo ++ [(slot, bs)]
        lost := if full then satAdd c.lost 1 else c.lost
        st := if fires then .triggered else c.st
        left := if fires then c.post.toNat else c.left - 1
        trigIndex := if fires then BitVec.ofNat 32 slot else c.trigIndex
        trigNs := if fires then stampNsOf v else c.trigNs, trigS := if fires then stampSOf v else c.trigS } }

/-- Samples that have crossed the Ndenu link take their ring slots in hive SRAM (R218, R219): the first `n` of the FIFO. -/
def State.sampleFlit (s : State) (d : Fin 4) (n : Nat) : State :=
  let c := s.fab[d.val].capture
  (((c.fifo.take n).foldl (fun s e => { s with mem := s.writeOpen (c.base.toNat + 16 * e.1) e.2 }) s)).modFab d
    fun f => { f with capture := { f.capture with fifo := f.capture.fifo.drop n } }

/-- The frame of a sample that a channel sends to its port (R220). -/
def frameWord (channel value : Nat) (cycle : BitVec 64) : Word :=
  BitVec.ofNat 32 (value % 65536 + cycle.toNat % 256 * 2 ^ 16 + channel % 8 * 2 ^ 24 + 0xA * 2 ^ 28)

/-- The channels directed to ports send their samples (R220). -/
def State.probeFrames (s : State) (d : Fin 4) : State :=
  forAll (allFin 8) (fun c s =>
    let x := s.fab[d.val].probes[c.val]
    let n : Fin 128 := ⟨32 * d.val + x.port.toNat, by have := x.port.isLt; omega⟩
    if x.en && x.dest && s.portLive n then
      let w := frameWord c.val (s.probeValue d x) s.fab[d.val].fabCycle
      s.emit (.lineBits n (if s.ports[n.val].inv.getLsbD 0 then ~~~w else w))
    else s) s

/-! What the edge gives the group and its Workers (R207, R209). -/

/-- The edge words of the four groups of a die that signal something: fabric interrupts, triggers, user event values. -/
def State.edgeSignals (s : State) (d : Fin 4) : List (Nat × Nat × Nat) :=
  (List.range 4).map fun g =>
    (s.edgeOut d (12 * g + 6) 0, s.edgeOut d (12 * g + 6) 1 % 4, s.edgeOut d (12 * g + 6) 2)

/-- The fabric user events that have gone from 0 to 1, with their values. -/
def userEvents (old new : List (Nat × Nat × Nat)) : List (Fin 8 × Nat) :=
  (allFin 8).filterMap fun e =>
    let a := old.getD (e.val / 2) (0, 0, 0)
    let b := new.getD (e.val / 2) (0, 0, 0)
    if bitOf b.2.1 (e.val % 2) && !bitOf a.2.1 (e.val % 2) then some (e, b.2.2) else none

/-- What a Worker reads as `WFIN` (R207). -/
def State.takeWfin (s : State) (d : Fin 4) : State :=
  forAll (allFin 8) (fun k s =>
    let t := 12 * (k.val % 4) + 5
    let w := if k.val < 4 then 0 else 2
    let v := s.edgeOut d t w + s.edgeOut d t (w + 1) * 65536
    s.modWorker ⟨8 * d.val + k.val, by omega⟩ fun x => { x with wfin := BitVec.ofNat 32 v }) s

/-- The fabric interrupts that are seen to go from 0 to 1 (R209): bit `16g + i` for bit `i` of group `g`. -/
def risenLines (old new : List (Nat × Nat × Nat)) : BitVec 64 :=
  let word (l : List (Nat × Nat × Nat)) (g : Nat) : BitVec 64 := BitVec.ofNat 64 ((l.getD g (0, 0, 0)).1 % 65536 * 2 ^ (16 * g))
  let all (l : List (Nat × Nat × Nat)) : BitVec 64 := word l 0 ||| word l 1 ||| word l 2 ||| word l 3
  all new &&& ~~~(all old)

/-- The interrupts seen in the cycle before are pending in this one, as lines 8 to 15 (R209); `seen` waits for the next. -/
def State.fabricLines (s : State) (d : Fin 4) (seen : BitVec 64) : State :=
  let due := s.fab[d.val].fabIrq
  let s := s.modFab d fun f => { f with fabIrq := seen }
  (onesOf 64 due.toNat).foldl (fun s k =>
    s.pendLine ⟨8 * d.val + k / 16 % 4 + (if k % 16 < 8 then 0 else 4), by split <;> omega⟩ (8 + k % 8)) s

/-- Fabric user events are raised (R209), and the buzz groups that wait for them fire (16, R439). -/
def State.fabricEvents (s : State) (d : Fin 4) (l : List (Fin 8 × Nat)) : State :=
  l.foldl (fun s e =>
    let s := s.raiseDie d ⟨40 + e.1.val, by omega⟩ 0 d.val (detail [(0, 8, s.fab[d.val].fabCycle.toNat), (8, 2, e.2)])
    let mask : Byte := BitVec.ofNat 8 (packBools (s.dbg.fabricEv.toList.map fun m => m.getLsbD (8 * d.val + e.1.val)))
    if mask = 0 then s else s.fireGroups mask) s

/-- The side-band outputs of the protocol ports of a die (05, R142). -/
def State.sideBand (s : State) (d : Fin 4) : State :=
  forAll (diePorts d) (fun n s =>
    if s.groups[(portGroup n).val].mode != .waveform && s.portLive n then
      let (_, t0) := groupEdge (portGroup n)
      s.drive n true (levelOf (bitOf (s.edgeOut d (t0 + 4) 0) (8 + (portPin n).val)))
    else s) s

/-- The `RX_SLIP` bits that the fabric drives (R207; 05, R147): each cycle of one is a pulse that a running raw lane takes. -/
def State.slipPulses (s : State) (d : Fin 4) : State :=
  forAll (diePorts d) (fun n s =>
    let (_, t0) := groupEdge (portGroup n)
    if s.groups[(portGroup n).val].mode = .raw && s.ports[n.val].started &&
        bitOf (s.edgeOut d (t0 + 4) 3) (portPin n).val then
      s.modPort n fun p => { p with slipAsk := p.slipAsk + 1 }
    else s) s

/-! The cycle (R193, R201, R210). -/

/-- One cycle of a die's fabric, given what its registers load. An edge word rises against the cycle before, whatever has moved it:
a register, or a hoop cell that closed or opened (R209). -/
def State.fabricDie (s : State) (d : Fin 4) (regs : List (Nat × BitVec 32)) (writes : List (Nat × Nat))
    (hoop : List (Nat × BitVec 16)) : State :=
  let old := s.fab[d.val].edgeSeen
  let trigger (l : List (Fin 8 × Nat)) : Bool :=
    let c := s.fab[d.val].capture
    !c.trigger || l.any fun e => e.1.val = c.trigEvent.toNat
  let m := writes.foldl (fun (m : Mem) w => m.putWord w.1 (BitVec.ofNat 32 w.2)) s.mem
  let s' := ({ s with mem := m }).modFab d fun f =>
    let g := { f with regs := regs, hoop := hoop, fabCycle := f.fabCycle + 1 }
    { g with cross := crossSnapshot g :: f.cross.take 11 }
  let new := s'.edgeSignals d
  let ev := userEvents old new
  let s' := s'.modFab d fun f => { f with edgeSeen := new }
  let s' := (((s'.takeWfin d).fabricLines d (risenLines old new)).fabricEvents d ev).sideBand d |>.slipPulses d
  ((s'.capture d (trigger ev)).probeFrames d).clearPulses d

/-- A cycle of a die whose fabric holds nothing to compute: its count advances, and its edge gives zeros (R216). -/
def State.fabricIdle (s : State) (d : Fin 4) : State :=
  let s := s.modFab d fun f => { f with fabCycle := f.fabCycle + 1, edgeSeen := [] }
  let s := (s.takeWfin d).fabricLines d 0
  ((s.capture d (!s.fab[d.val].capture.trigger)).probeFrames d).clearPulses d

/-- `FABRIC_CYCLE` (R193): every die whose clock runs computes from the same instant. A capture's sample is the value a
register holds in the cycle that begins (log entry 2). Errors that the cycle meets come as operands: the words they deliver are
in place before it, and they are counted after it. -/
def execFabricCycle (sbIn : BitVec 128) (ecc : List RamErr) (cross : List CrossErr) (s : State) :
    Host.Outcome State Fault Refusal :=
  .next (
    let hit := ecc.filterMap fun e => (s.eccTarget sbIn e).map fun a => (e, a)
    let s := cross.foldl (fun s e => s.deliverCross e) (ecc.foldl (fun s e => s.storeEcc sbIn e) s)
    let t := (allFin 4).foldl (fun t d =>
      if !s.fabricRuns d then t.crossGoOn d
      else if s.fab[d.val].cfgSt = .unconfigured then t.fabricIdle d
      else
        let r := s.dieStep d sbIn
        t.fabricDie d r.1 r.2 (s.hoopNow d)) s
    cross.foldl (fun t e => t.countCross e) (hit.foldl (fun t e => t.countEcc e.1 e.2) t.crossDone))

/-- `CAPTURE_COMPLETE` (R218): once the last sample has crossed the link. -/
def execCaptureComplete (d : Fin 4) (s : State) : Host.Outcome State Fault Refusal :=
  let c := s.fab[d.val].capture
  .next (if c.st = .triggered && decide (c.left = 0) && c.fifo.isEmpty then
      (s.modFab d fun f => { f with capture := { f.capture with st := .done } }).raiseDie d 39 0 d.val
        (detail [(0, 4, c.trigIndex.toNat), (4, 4, c.lost.toNat), (8, 4, c.trigNs.toNat), (12, 4, c.trigS.toNat)])
    else s)

/-! `CFG_PROBE_SET` (R221). -/

/-- The die that a packet names. -/
def packetDie (p : Pkt) : Fin 4 := Fin.ofNat 4 p.unit.toNat

/-- The fields of `CFG_PROBE_SET`. -/
def probeFields (p : Pkt) : List Field :=
  let b := p.block
  ((List.range 8).flatMap fun c =>
    let o := 32 + 8 * c
    [⟨6 * c, o, 0, 6, .names (· < 56)⟩, ⟨6 * c + 1, o, 8, 5, .any⟩,
     ⟨6 * c + 2, o, 16, 6, .names fun v => fld b o 0 6 < 48 || v < 32⟩, ⟨6 * c + 3, o, 24, 1, .any⟩,
     ⟨6 * c + 4, o, 25, 1, .any⟩, ⟨6 * c + 5, o + 4, 0, 5, .any⟩]) ++
    [⟨48, 96, 0, 2, .names (· < 3)⟩, ⟨49, 96, 8, 1, .any⟩, ⟨50, 96, 12, 3, .any⟩, ⟨51, 104, 0, 48, .any⟩,
     ⟨52, 112, 0, 5, .clamp 8 20⟩, ⟨53, 116, 0, 32, .clamp 0 (2 ^ clampNat 8 20 (fld b 112 0 5) - 1)⟩]

/-- Is a channel of a block enabled? -/
def probeOn (b : Words) (c : Nat) : Bool := fld b (32 + 8 * c) 24 1 = 1

/-- The port of the die that a channel of a block names. -/
def probePort (b : Words) (d : Fin 4) (c : Nat) : Fin 128 :=
  ⟨32 * d.val + fld b (36 + 8 * c) 0 5 % 32, by omega⟩

/-- The channel settings of a block. -/
def probeOf (b : Words) (c : Nat) : Probe :=
  let o := 32 + 8 * c
  { column := BitVec.ofNat 6 (fld b o 0 6), row := BitVec.ofNat 5 (fld b o 8 5), index := BitVec.ofNat 6 (fld b o 16 6)
    en := fld b o 24 1 = 1, dest := fld b o 25 1 = 1, port := BitVec.ofNat 5 (fld b (o + 4) 0 5) }

/-- The code of a capture state (R221). -/
def CapSt.code : CapSt → Nat
  | .idle => 0 | .armed => 1 | .triggered => 2 | .done => 3

/-- Does a capture take samples: armed, or triggered? -/
def Capture.busy (c : Capture) : Bool := c.st = .armed || c.st = .triggered

/-- `CFG_PROBE_SET` (R221). -/
def probeSetAct (j : Job) (s : State) : Act :=
  let d := packetDie j.p
  let b := j.args
  let s := s.modFab d fun f => { f with
    probes := Vector.ofFn fun c : Fin 8 => probeOf b c.val
    capture := match fld b 96 0 2 with
      | 1 => { Capture.reset with
          st := .armed, trigger := fld b 96 8 1 = 1, trigEvent := BitVec.ofNat 3 (fld b 96 12 3)
          base := BitVec.ofNat 48 (fld b 104 0 48), logLen := BitVec.ofNat 5 (fld b 112 0 5)
          post := BitVec.ofNat 32 (fld b 116 0 32) }
      | 2 => if f.capture.busy then { f.capture with st := .idle, fifo := [] } else f.capture
      | _ => f.capture }
  let s := forAll (diePorts d) (fun n s => s.refreshPort n) s
  let c := s.fab[d.val].capture
  .done s [BitVec.ofNat 32 c.st.code, if c.st = .armed then BitVec.ofNat 32 (c.index % 2 ^ c.logLen.toNat) else 0xFFFFFFFF]

/-- `CFG_PROBE_SET` (R221): the `PORT` of a channel that is not enabled is not looked at (log entry 30). -/
def cmdCfgProbeSet : CmdDef :=
  { CmdDef.plain 0x0407 120 modeOps [] probeSetAct with
    unitMax := 3
    fields := probeFields
    naming := fun s _ p =>
      let b := p.block
      let d := packetDie p
      let base := fld b 104 0 48
      ((List.range 8).filterMap fun c =>
        let n := probePort b d c
        if probeOn b c && (s.groups[(portGroup n).val].mode = .waveform ||
            (List.range 8).any fun k => k != c && probeOn b k && probePort b d k = n) then some (6 * c + 5) else none) ++
        (if base % 4096 != 0 || base < sramBase 0 || sramBase 3 < base + 16 * 2 ^ clampNat 8 20 (fld b 112 0 5)
          then [51] else [])
    checks := fun s j =>
      let b := j.args
      let d := packetDie j.p
      firstOf [checkDie s d,
        busyFields (((List.range 8).filterMap fun c =>
          if probeOn b c && s.ports[(probePort b d c).val].active then some (6 * c + 5) else none) ++
          (if fld b 96 0 2 = 1 && s.fab[d.val].capture.st = .armed then [48] else []))] }

/-- `CFG_PROBE_SET`: the row. -/
def execCfgProbeSet (p : Pkt) (s : State) : Host.Outcome State Fault Refusal := .next (cmdCfgProbeSet.fetch p s)

end Sys2Proof.Machine
end

