-- ==== Sys2Proof/Machine/DieOps.lean ====
section
/-! DEFINITION. What happens to whole units: regions that stop and start (spec/08_configuration.md, R230, R232), configuration
that is lost, staging slots released, the fence and the reset of a comb die (spec/10_hive_network_and_ndenu.md, R302 to
R306), and what a power domain loses (spec/14_power.md, R392, R405). -/

namespace Sys2Proof.Machine

/-! Regions (08, R230, R232). -/

/-- The index of the region that holds a tile column, 16 for the static part. -/
def DieFab.owner (f : DieFab) (t : Nat) : Nat :=
  match f.regionOf t with
  | some r => r.val
  | none => 16

/-- The indices of a die's regions, static part included, whose state a test selects. -/
def DieFab.inState (f : DieFab) (on : RegSt → Bool) : List Nat := (List.range 17).filter fun i => on (f.stateAt i)

/-- Regions of a die stop (R230, R232): FROZEN, or HELD with their registers at their set-reset values. -/
def State.stopRegions (s : State) (d : Fin 4) (l : List Nat) (held : Bool) : State :=
  s.modFab d fun f =>
    let g := l.foldl (fun f i => f.setState i (if held then .held else .frozen)) f
    if held then g.setReset fun t => l.contains (f.owner t) else g

/-- Regions of a die start (R230, R232). -/
def State.startRegions (s : State) (d : Fin 4) (l : List Nat) : State :=
  s.modFab d fun f => l.foldl (fun f i => f.setState i .running) f

/-- The configuration of tile columns is lost: their tiles, the RAM columns that stand in them (minors 8 and 9), and their
registers (R214, R242, R243). -/
def DieFab.clearColumns (f : DieFab) (own : Nat → Bool) : DieFab :=
  let lost (e : Nat × BitVec 32) : Bool :=
    let col := e.1 / 1024 / 256
    if col < 48 then own col else if col < 56 then own (6 * (col - 48) + 2) else false
  ({ f with cfg := f.cfg.filter fun e => !lost e }).dropRegs own

/-- A die holds no configuration (R251). -/
def DieFab.unconfigure (f : DieFab) : DieFab :=
  { f with
    cfgSt := .unconfigured, encrypted := false, baseId := 0, meas := none, cfg := [], regs := []
    regions := Vector.replicate 16 Region.reset, static_ := .unconfigured, staticResume := false, cross := [], crossBad := [], hoop := [], fabIrq := 0
    edgeSeen := [], bare := 0 }

/-- A die becomes unconfigured; its Workers read zeros from it (R216), and its ports follow (05, R132). -/
def State.unconfigure (s : State) (d : Fin 4) : State :=
  let zero (k : Worker) : Worker := { k with wfin := 0 }
  (forAll (dieWorkers d) (fun w s => s.modWorker w zero) (s.modFab d DieFab.unconfigure)).refreshDie d

/-- A set of tile columns as bits. -/
def columnBits (cols : List Nat) : BitVec 48 := BitVec.ofNat 48 (packBools ((List.range 48).map cols.contains))

/-- Tile columns of a die lose their configuration (R214): a region, or the static part, that holds no other column is
UNCONFIGURED; the other columns of one that does run on. -/
def State.loseColumns (s : State) (d : Fin 4) (cols : List Nat) : State :=
  s.modFab d fun f =>
    let g := f.clearColumns cols.contains
    let g := { g with bare := g.bare ||| columnBits cols }
    (List.range 17).foldl (fun g i =>
      let own := f.columnsOf i
      if f.stateAt i != .unconfigured && !own.isEmpty && own.all cols.contains then g.setState i .unconfigured else g) g

/-! Staging slots (08, R239). -/

/-- A slot is released; the area of one that holds a decrypted stream is first overwritten with zeros. A load in progress keeps the
facts of its stream, and meets a read failure. -/
def State.releaseSlot (s : State) (n : Fin 4) : State :=
  let x := s.cfg.slots[n.val]
  let s := if x.decrypted then s.zeroRange x.base.toNat x.len else s
  let loading : Bool := s.cfg.loads.any fun k => k.slot = n
  s.modSlot n fun x => if loading then { Slot.reset with facts := x.facts } else Slot.reset

/-- The status block remembers a refused stage or load (R240, R246). -/
def State.noteRefusal (s : State) (st : Status) (slot : Nat) (off : Word) : State :=
  { s with cfg := { s.cfg with lastStatus := BitVec.ofNat 32 (st.toNat + slot % 4 * 2 ^ 16), lastOffset := off } }

/-- The slots whose area meets a range are released. A stage in progress there cannot go on: its command replies `NOT_READY`
(DESIGN CHOICE, log entry 64); that of start-up meets its failure when its copy ends (R249). -/
def State.releaseIn (s : State) (base size : Nat) : State :=
  forAll ((allFin 4).filter fun n =>
    let x := s.cfg.slots[n.val]
    x.st != .released && !(x.st = .staging && x.owner.isNone) && decide (x.base.toNat < base + size) && decide (base < x.base.toNat + x.len))
    (fun n s =>
      let owner := s.cfg.slots[n.val].owner.bind s.job?
      let s := s.releaseSlot n
      match owner with
      | some j => (s.noteRefusal stNotReady n.val 0xFFFFFFFF).refuse j ⟨stNotReady, 0xFF⟩
      | none => s) s

/-! Fences (10, R302 to R304). -/

/-- The units of a mask, ascending. -/
def unitsOf (m : Nat) : List (Fin 64) := (allFin 64).filter fun u => m.testBit u.val

/-- The eight words of a unit's record. -/
def BistUnit.words (x : BistUnit) (u : Fin 64) (entries : Nat) : Words :=
  [BitVec.ofNat 32 (u.val + x.verdict.toNat * 2 ^ 8 + bitAt x.diag 12 + x.cause.toNat * 2 ^ 16 + bitAt x.more 20),
   BitVec.ofNat 32 entries] ++ word2 x.misr.toNat ++ word2 x.expected.toNat ++ [x.timeUs, 0]

/-- A run whose units have all ended: `E038` for each that failed, `E037`, and the reply; an abort that left units out gives
`ABORTED` (R452). -/
def State.bistSettle (s : State) : State :=
  match s.bist.run with
  | none => s
  | some r =>
    if !r.waiting.isEmpty || !r.running.isEmpty then s
    else
      let l := unitsOf r.named.toNat
      let failed := l.filter fun u => s.bist.units[u.val].verdict = 2
      let s := failed.foldl (fun s u => s.raise 38 3 0 (detail [(0, 1, u.val), (1, 1, s.bist.units[u.val].cause.toNat)])) s
      let s := s.nextCycle.raise 37 0 0 (detail [(0, 1, failed.length)])
      let s := { s with bist := { s.bist with run := none } }
      match r.key.bind s.job? with
      | none => s
      | some j =>
        let words := l.flatMap fun u => s.bist.units[u.val].words u 0
        if s.abortAsked j.key && l.any fun u => s.bist.units[u.val].verdict = 0 then
          s.commitClose j ⟨stAborted, 0xFF⟩ true words
        else s.commitDone j words

/-- Does a load write a die? -/
def State.loadWrites (s : State) (x : Load) (d : Fin 4) : Bool :=
  let f := s.cfg.slots[x.slot.val].facts
  if f.partial_ then f.die = d else f.mask.getLsbD d.val

/-- A die is lost to what runs on it from the hive side: a load that writes it meets a write failure (08, R243), a
calibration and a measurement go on without it (19, R488; 13, R382), a BIST run ends its units `NOT_TESTED`, those that wait
too (17, R451, R457). -/
def State.dieLeaves (s : State) (d : Fin 4) : State :=
  let hit (x : Load) : Load := if s.loadWrites x d then { x with fenced := true } else x
  let bit : BitVec 4 := 1#4 <<< d.val
  let gone (u : Fin 64) : Bool := decide (16 + 9 * d.val ≤ u.val) && decide (u.val < 25 + 9 * d.val)
  let ended := match s.bist.run with
    | none => []
    | some r => ((r.running ++ r.waiting).filter gone).map fun u => (u, r.diag)
  let s := { s with
    cfg := { s.cfg with loads := s.cfg.loads.map hit }
    queen := { s.queen with cal := s.queen.cal.map fun c => (c.1, c.2 ||| bit) }
    clk := { s.clk with measures := s.clk.measures.map fun m => { m with dies := if m.dies.contains d then m.dies else d :: m.dies } }
    bist := { s.bist with run := s.bist.run.map fun r => { r with
      running := r.running.filter fun u => !gone u, waiting := r.waiting.filter fun u => !gone u } } }
  let s := forAll ended (fun u s => s.modBist u.1 fun x => x.ended 4 0 u.2) s
  if ended.isEmpty then s else s.bistSettle

/-! Credit books and the flits of the mesh (10, R288, R303, R307, R310). -/

/-- The code of an Ndenu book (10, R310): kind 1 outbound, 2 inbound. -/
def ndenuBook (d : Fin 4) (inbound : Bool) : BitVec 16 := BitVec.ofNat 16 ((if inbound then 2 else 1) * 4096 + d.val)

/-- The initial values of a book: 16 slots at a router input, 64 at an Ndenu endpoint (10, R288, R291). -/
def bookStart (code : BitVec 16) : Book := ⟨if code.toNat < 4096 then 16 else 64, 0, 0, 0⟩

/-- A credit book; one not listed has its initial values (10, R307, R308). -/
def State.book (s : State) (code : BitVec 16) (vc : Fin 4) : Book :=
  match s.net.books.find? fun e => e.1 = code && e.2.1 = vc with
  | some e => e.2.2
  | none => bookStart code

/-- The sum of a book. -/
def Book.sum (b : Book) : Nat := b.free + b.filled + b.flight + b.back

/-- A credit book written; one at its initial values is not listed. -/
def State.setBook (s : State) (code : BitVec 16) (vc : Fin 4) (b : Book) : State :=
  let rest := s.net.books.filter fun e => !(e.1 = code && e.2.1 = vc)
  { s with net := { s.net with books := if b = bookStart code then rest else (code, vc, b) :: rest } }

/-- The code of the book of a router's output (10, R310). -/
def meshBook (r : Fin 32) (port : Fin 5) : BitVec 16 := BitVec.ofNat 16 (port.val * 256 + r.val)

/-- A flit leaves the receiver's buffer. -/
def Book.leave (b : Book) : Book := { b with filled := b.filled - 1, back := b.back + 1 }

/-- A book changed. -/
def State.modBook (s : State) (code : BitVec 16) (vc : Fin 4) (f : Book → Book) : State := s.setBook code vc (f (s.book code vc))

/-- A flit on a wire is lost: its credit comes home. -/
def Book.vanish (b : Book) : Book := { b with flight := b.flight - 1, back := b.back + 1 }

/-- The flits of the mesh written. -/
def State.setMesh (s : State) (l : List MeshFlit) : State := { s with net := { s.net with mesh := l } }

/-- A flit leaves the input buffer it lies in: the credit of the link it came by goes back. Units attached have no book of their
own (R310). -/
def State.leaveInput (s : State) (f : MeshFlit) : State :=
  match f.at_ with
  | .router r q => if q = attachPort then s else s.modBook (meshBook (meshNext r q) (meshBack q)) f.vc Book.leave
  | .endpoint d => s.modBook (ndenuBook d true) f.vc Book.leave
  | _ => s

/-- Flits of the mesh are discarded: the slot that each fills, or will fill, is free again (R288, R307). -/
def State.discardFlits (s : State) (gone : MeshFlit → Bool) : State :=
  (s.net.mesh.filter gone).foldl (fun s f => match f.at_ with
    | .wire r p => s.modBook (meshBook r p) f.vc Book.vanish
    | .toDie _ => s.modBook (meshBook (netRouter f.dst) attachPort) f.vc Book.leave
    | _ => s.leaveInput f) (s.setMesh (s.net.mesh.filter fun f => !gone f))

/-- A link as its training leaves it: sequence numbers, replay buffers and failures start anew (10, R291, R292). -/
def DieLink.clearFlits (x : DieLink) : DieLink :=
  { x with
    txSeq := 0, rxSeq := 0, replayBuf := [], rejecting := false, dieTx := 0, dieRx := 0, dieBuf := [], dieRejecting := false
    failsOut := 0, failsIn := 0 }

/-- Every flit from a die that has not been delivered whole is discarded, wherever it is, and every one that waits for the die's link
is answered `UNIT_FENCED` (10, R303). -/
def State.dropFlits (s : State) (d : Fin 4) : State :=
  let wait (f : MeshFlit) : Bool := f.at_ = .toDie d
  let s := (s.net.mesh.filter wait).foldl (fun s f => s.emit (.unitFenced f.src)) s
  s.discardFlits fun f => wait f || netDie f.src = some d

/-- The die stops: its island clock and its always-on logic's hold of the ports (R304). -/
def State.cutDie (s : State) (d : Fin 4) : State :=
  (s.modDie d fun x => { x with clockOn := false, cutOff := true }).refreshDie d

/-- Training and lock in progress on a die's link lead to nothing (R303, R306). -/
def State.dropLock (s : State) (d : Fin 4) : State :=
  let off (x : LockJob) : LockJob := { x with live := false }
  { s with net := { s.net with locking := upd s.net.locking d fun x => x.map off } }

/-- Tests of the ports of a die that is fenced end: the commands that wait for them, and those whose handshake into the die waits,
are answered `UNIT_FENCED` (R303; 01, R11); while the Queen core is down none of its commands is (02, R57). -/
def State.fenceTests (s : State) (d : Fin 4) : State :=
  let mine (j : Job) : Bool :=
    ((j.p.opcode = 0x0505 && j.phase = .running && groupDie (Pkt.group j.p) = d) || j.phase = .stuck d) &&
      (s.queen.up || j.key.path = .mailbox)
  let s := forAll (dieGroups d) (fun g s => s.endTests g) s
  (s.queen.jobs.filter mine).foldl (fun s j => s.refuse j ⟨stFenced, 0xFF⟩) s

/-- The hive die fences a comb die (R302, R303): the cause and the time are kept, the books are set aside, the sites that it
feeds are `UNBALANCED`, the die stops, and the commands that waited for its Workers are settled. `E026` tells it, or die
event +33 for a lost clock (cause 2). -/
def State.fence (s : State) (d : Fin 4) (cause : Nat) : State :=
  if s.net.dies[d.val].fenced then s
  else
    let sums : Vector (BitVec 32) 8 := Vector.ofFn fun i => BitVec.ofNat 32 (s.book (ndenuBook d (4 ≤ i.val)) (Fin.ofNat 4 i.val)).sum
    let s := (s.unbalance d).dieLeaves d
    let s := s.modDie d fun x => { x with
      fenced := true, fenceCause := BitVec.ofNat 4 cause, fenceS := s.stampS, setAside := sums, st := .down
      replayBuf := [], rejecting := false, failsOut := 0, failsIn := 0, dieBuf := [], dieRejecting := false }
    let s := (s.dropLock d).dropFlits d
    let s := { s with net := { s.net with books := s.net.books.filter fun e => e.1 != ndenuBook d false && e.1 != ndenuBook d true } }
    let s := s.cutDie d
    let s := (forAll (dieWorkers d) (fun w s => s.settled w) s).fenceTests d
    if cause = 2 then s.raiseDie d 33 4 d.val 0
    else s.raise ⟨26 + d.val, by omega⟩ 4 d.val (detail [(0, 1, cause)])

/-! Die reset (10, R306). -/

/-- A Worker after a device or die reset (03, R92; 16, R444): EMPTY, its registers and debug settings at their reset values;
what the fabric presents stays, until the fabric itself is unconfigured. -/
def Worker.deviceReset (k : Worker) : Worker := { Worker.reset with wfin := k.wfin }

/-- The Workers of a list are reset; their semaphores are released. -/
def State.resetWorkers (s : State) (l : List (Fin 32)) : State :=
  forAll l (fun w s => ((s.settled w).releaseSems w).modWorker w Worker.deviceReset) s

/-- The groups and ports of a list of groups at their reset values (04, R127; 05, R135; 06, R188); `keep`: a die reset, which
keeps the fail settings. -/
def State.resetGroups (s : State) (l : List (Fin 16)) (keep : Bool) : State :=
  let s := forAll l (fun g s => s.modGroup g fun x =>
    { Group.reset with fail :=
        if keep then { GFail.reset with threshold := x.fail.threshold, suppress := x.fail.suppress } else GFail.reset }) s
  forAll (l.flatMap groupPorts) (fun n s => s.resetPort n) s

/-- The die-side counts of a die are zero and its sites `UNBALANCED` (06, R188). -/
def State.dropDieBooks (s : State) (d : Fin 4) : State :=
  let s := s.unbalance d
  forAll (allFin 32) (fun i s => s.modSite i fun x => { x with dieBook := upd x.dieBook d fun _ => Vector.replicate 4 0 }) s

/-- A die reset, with the effects that the chapters that own its state give (R306; 03 R92; 04 R127; 05 R135; 06 R188; 07 R222;
08 R251; 10 R311; 15; 16 R444). The die stays fenced. -/
def State.dieReset (s : State) (d : Fin 4) : State :=
  let s := (s.dieLeaves d).dropLock d
  let s := s.dropDieBooks d
  let s := s.resetWorkers (dieWorkers d)
  let s := s.resetGroups (dieGroups d) true
  let s := (s.unconfigure d).modFab d fun f => { f with probes := Vector.replicate 8 Probe.reset, capture := Capture.reset, edgeIn := [] }
  let mine : BitVec 32 := BitVec.ofNat 32 (maskOf (dieWorkers d))
  let s := { s with dbg := { s.dbg with members := s.dbg.members.map fun m => m &&& ~~~mine } }
  (((s.modDie d DieLink.clearFlits).dropFlits d).discardFlits fun f => netDie f.dst = some d).refreshDie d

/-! Domains (14, R392, R405). -/

/-- A Worker's memories are undefined and the Worker is EMPTY (03, R92). -/
def State.loseWorker (s : State) (w : Fin 32) : State :=
  (s.resetWorkers [w]).undefine (progBase w) 0x60000

/-- A die without power: nothing of it is kept. -/
def State.loseDie (s : State) (d : Fin 4) : State :=
  let s := (s.dieReset d).modDie d fun x => { x with clockOn := false }
  let s := forAll (dieWorkers d) (fun w s => s.undefine (progBase w) 0x60000) s
  s.undefine (cellRamBase d) 0x800000

/-- The Brood engine without power (06, R188): the hive-side counts are lost, every site is `UNBALANCED`, the table, the geometries
and the partitions are empty, and solves are lost: each replies `ABORTED`. `FAIL_LOG_HEAD` and the count of records lost to the log
stay with the ring (DESIGN CHOICE, log entry 68). -/
def State.loseBrood (s : State) : State :=
  let keys := s.brood.solves.map (·.key)
  let s := { s with brood := { s.brood with solves := [] } }
  let s := keys.foldl (fun s k => match s.job? k with
    | some j => s.refuse j ⟨stAborted, 0xFF⟩
    | none => s) s
  let s := { s with brood := { s.brood with inbox := [] } }
  forAll (allFin 32) (fun i s => s.modSite i fun x => { x with
    book := Vector.replicate 9 0, unbalanced := true, solved := false, lostNew := false, lostNoBlock := 0, overflow := false
    cells := [], blocks := [], geom := none, base := 0, size := 0 }) s

/-- An HBM stack without power (09, R281): its contents, its training and its root are lost. -/
def State.loseStack (s : State) (n : Fin 4) : State :=
  (s.modMem fun m => m.dropStacks (· = n)).modStack n fun x => { x with
    st := .off, wasFrozen := false, cause := 0, freezeRec := [], repairs := [], ceWin := 0, ceOver := false
    trainFail := false, hot := false }

/-- Laravo links without power (11, R343): OFF, their settings at the power-on values. -/
def State.loseLinks (s : State) (l : List (Fin 16)) : State :=
  forAll l (fun i s => (s.linkDrop i .off 0).modLink i fun k => { Laravo.reset with st := k.st, mayTrain := false }) s

/-- PCIe goes down or is reset (02, R26): BAR0 is at its reset values, the rings wait until no tag of the path is in use, and
the replies of the path are discarded: those of the commands that run, and the committed ones that wait for ring space too,
since the ring they wait for is gone (DESIGN CHOICE, log entry 52). -/
def State.resetPcie (s : State) : State :=
  let busy : Bool := decide (0 < s.tagsOn Path.isPcie)
  { s with
    hif := { Hif.reset with pcieUp := s.hif.pcieUp, crs := s.hif.crs, ptmOn := s.hif.ptmOn, subHold := busy }
    queen := { s.queen with
      replies := []
      due := s.queen.due ++ (s.queen.replies.filter (·.after != .nothing)).map (·.after)
      jobs := s.queen.jobs.map fun j => if j.key.path.isPcie then { j with discard := true } else j } }

/-- The Queen core without power (01, R19): it serves nothing; the commands that hold a tag wait for its restart. -/
def State.loseQueen (s : State) : State :=
  { s with queen := { s.queen with up := false, halted := false, dbgHalt := false } }

/-- The security and configuration controllers without power (01, R19; 14, R390): debug is locked, an open challenge is gone,
stages and loads in progress fail (log entry 54). -/
def State.loseSecurity (s : State) : State :=
  { s with
    sec := { s.sec with scope1 := false, scope2 := false, challenge := none }
    cfg := { s.cfg with loads := s.cfg.loads.map fun (x : Load) => { x with fenced := true } } }

/-- What the units of a domain lose when it loses its supply (R392, R405; the rules of each unit). -/
def State.domainLoss (s : State) (n : Fin 64) : State :=
  if n.val < 16 then
    match n.val with
    | 1 => s.loseQueen
    | 2 => s.loseSecurity
    | 3 =>
      let up := s.hif.pcieUp
      let s := s.resetPcie
      let s := { s with hif := { s.hif with pcieUp := false } }
      if up then s.raise 46 1 0 0 else s
    | 4 => s.loseLinks ((allFin 16).filter (·.val < 8))
    | 5 => s.loseLinks ((allFin 16).filter (8 ≤ ·.val))
    | 6 => s.loseStack 0
    | 7 => s.loseStack 1
    | 8 => s.loseStack 2
    | 9 => s.loseStack 3
    | 10 => (s.releaseIn (sramBase 0) 0x2000000).undefine (sramBase 0) 0x2000000
    | 11 => (s.releaseIn (sramBase 1) 0x2000000).undefine (sramBase 1) 0x2000000
    | 12 => (s.releaseIn (sramBase 2) 0x2000000).undefine (sramBase 2) 0x2000000
    | 13 => s.modMem fun m => m.dropStacks fun _ => true
    | 14 => s.loseBrood
    | 15 => { s with clk := { s.clk with outs := Vector.replicate 4 ClkOut.reset } }
    | _ => s
  else
    let d : Fin 4 := Fin.ofNat 4 ((n.val - 16) / 12)
    let o := (n.val - 16) % 12
    if o = 0 then s.loseDie d
    else if o = 1 then s.modDie d fun x => { x with st := .down, badLanes := [], half := false }
    else if o < 8 then
      let s := s.loseColumns d ((List.range 8).map fun i => 8 * (o - 2) + i)
      forAll ((allFin 8).filter fun r => (6 * r.val + 2) / 8 = o - 2)
        (fun r s => s.undefine (ramWordAddr d r.val 0 0 0) 0x100000) s
    else if o = 8 then forAll (dieWorkers d) (fun w s => s.loseWorker w) s
    else if o = 11 then
      (forAll (dieGroups d) (fun g s => s.modGroup g fun x => { Group.reset with
        mode := x.mode, rateN := x.rateN, offset := x.offset, sscDepth := x.sscDepth, sscRate := x.sscRate
        loopback := x.loopback }) (s.dropDieBooks d)).refreshDie d
    else
      let gs := (dieGroups d).filter fun g => if o = 9 then g.val % 4 < 2 else 2 ≤ g.val % 4
      let s := forAll gs (fun g s => s.modGroup g fun x => { x with
        mode := .waveform, rateN := 0, offset := 0, sscDepth := 0, sscRate := 0, loopback := false }) s
      (forAll (gs.flatMap groupPorts) (fun n s => s.resetPort n) s).refreshDie d

end Sys2Proof.Machine
end

