-- ==== Sys2Proof/Machine/PwrOps.lean ====
section
/-! DEFINITION. Power domains and the power budget (spec/14_power.md, R389 to R397, R405). Powers are in units of 0.1 W. -/

namespace Sys2Proof.Machine

/-- The parent of a domain (R390). -/
def domainParent (n : Fin 64) : Option (Fin 64) :=
  if n.val < 16 then
    match n.val with
    | 0 => none
    | 3 => some 1
    | 4 => some 10
    | 5 => some 13
    | 6 => some 10
    | 7 => some 11
    | 8 => some 12
    | 9 => some 13
    | 14 => some 12
    | _ => some 0
  else
    let d : Fin 4 := Fin.ofNat 4 ((n.val - 16) / 12)
    if (n.val - 16) % 12 = 0 then some ⟨10 + d.val, by omega⟩ else some (dieDomain d 0)

/-- The declared maximum of a domain (R390). -/
def domainMax (n : Fin 64) : Nat :=
  if n.val < 16 then [10, 30, 20, 30, 40, 40, 120, 120, 120, 120, 90, 90, 90, 90, 50, 20].getD n.val 0
  else [7, 40, 75, 75, 75, 75, 75, 75, 50, 64, 64, 25].getD ((n.val - 16) % 12) 0

/-- All domains, a parent before its children (R391). -/
def domainOrder : List (Fin 64) := [0, 1, 2, 15, 10, 11, 12, 13, 3, 4, 5, 6, 7, 8, 9, 14] ++ (allFin 64).filter (16 ≤ ·.val)

/-- The minimum efficiency at a voltage in mV, in percent: the row with the highest voltage at or below it (R389). -/
def efficiency (mv : Nat) : Nat :=
  if mv < 9000 then 85 else if mv < 12000 then 87 else if mv < 24000 then 88 else if mv < 36000 then 89
  else if mv < 40000 then 88 else 87

/-- The budget B at a budget voltage and an owner cap (R393). -/
def budgetOf (mv cap : Nat) : Nat := min (min 4500 (60 * mv / 100)) cap

/-- The grant G (R393), rounded down. -/
def grantOf (mv cap : Nat) : Nat := budgetOf mv cap * efficiency mv / 100

/-- The grant in force. -/
def State.grant (s : State) : Nat := grantOf s.pwr.vb s.pwr.cap
/-- The total reserved (R395). -/
def State.reserved (s : State) : Nat := (s.pwr.domains.toList.map (·.reserved)).foldl (· + ·) 0
/-- The free part of the grant (R395). -/
def State.freePower (s : State) : Nat := s.grant - s.reserved

/-- A request that does not fit (R396): `E006` with cause 0, the amount asked and the amount free. -/
def State.noBudget (s : State) (asked : Nat) : State := s.raise 6 2 0 (detail [(0, 1, 0), (4, 2, asked), (6, 2, s.freePower)])

/-- A domain leaves OFF: it ramps and reserves its declared maximum (R392, R395). -/
def State.rampDomain (s : State) (n : Fin 64) : State :=
  s.modDomain n fun d => { d with st := .ramping, reserved := domainMax n, lost := false }

/-- A domain's rails reach regulation (R392): its units are in their power-on state, a stack UNTRAINED (09), Laravo links DOWN
and enabled (11, R343). -/
def State.domainUp (s : State) (n : Fin 64) : State :=
  let s := s.modDomain n fun d => { d with st := .on }
  let links (s : State) (lo : Nat) : State :=
    forAll ((allFin 16).filter fun l => lo ≤ l.val && l.val < lo + 8)
      (fun l s => (s.linkState l .down 0).modLink l fun k => { k with enabled := true, mayTrain := true }) s
  if n.val = 4 then links s 0
  else if n.val = 5 then links s 8
  else if h : 6 ≤ n.val ∧ n.val < 10 then s.modStack ⟨n.val - 6, by omega⟩ fun x => { x with st := .untrained }
  else if 16 ≤ n.val then s.refreshDie (Fin.ofNat 4 ((n.val - 16) / 12))
  else s

/-- No `PWR_DOMAIN_SET` waits for a domain any more (R392). -/
def State.dropRamp (s : State) (n : Fin 64) : State :=
  { s with pwr := { s.pwr with jobs := s.pwr.jobs.map fun (j : PwrJob) => { j with left := j.left.filter (· != n) } } }

/-- A domain is turned off (R392, R395): its units lose what they hold, and its reservation is returned. -/
def State.domainOff (s : State) (n : Fin 64) : State :=
  if s.pwr.domains[n.val].st = .off then s
  else
    let s := ((s.domainLoss n).modDomain n fun _ => Domain.reset).dropRamp n
    if 16 ≤ n.val then s.refreshDie (Fin.ofNat 4 ((n.val - 16) / 12)) else s

/-- Is a domain an ancestor of another? -/
def isAbove (a n : Fin 64) : Bool :=
  match domainParent n with
  | none => false
  | some p => p = a || (match domainParent p with
    | none => false
    | some q => q = a || domainParent q = some a)

/-- A cut-off ends the test units of some domains that run with `FAIL` and cause 4 (17, R451). -/
def State.bistCut (s : State) (l : List (Fin 64)) : State :=
  match s.bist.run with
  | none => s
  | some r =>
    let hit := r.running.filter fun u => l.any fun n => domainUnit n = some u
    let rest : BistRun := { r with running := r.running.filter fun u => !hit.contains u }
    forAll hit (fun u s => s.modBist u fun x => { x.ended 2 4 r.diag with marked := true, elems := [] })
      { s with bist := { s.bist with run := some rest } }

/-- A regulator cuts its domain off (R405): FAULT with its reservation kept; the domains below lose their supply with it; a die
without its always-on or link domain is fenced. -/
def State.faultDomain (s : State) (n : Fin 64) (ma mv : Nat) : State :=
  let below := (allFin 64).filter fun m => isAbove n m && s.pwr.domains[m.val].st != .off
  let s := (s.bistCut [n]).domainLoss n
  let s := forAll below (fun m s => ((s.domainLoss m).modDomain m fun d => { d with lost := true }).dropRamp m) s
  let s := (s.modDomain n fun d => { d with st := .fault }).dropRamp n
  let s := if n.val < 16 then s.raise 7 4 n.val (detail [(0, 1, n.val), (4, 4, ma), (8, 2, mv)])
    else s.raiseDie (Fin.ofNat 4 ((n.val - 16) / 12)) 38 4 n.val (detail [(4, 4, ma), (8, 2, mv)])
  let s := forAll ((allFin 4).filter fun d => (n :: below).contains (dieDomain d 0) || (n :: below).contains (dieDomain d 1))
    (fun d s => s.fence d 2) s
  (s.bistCut below).refreshPorts

/-- Does a domain to turn off hold a running function (R391; 02, R46): a test function of its units, a RUNNING region of its
columns, a staged stream window's stack, a site that runs or a solve of the Brood engine (06), an enabled `CLKOUT` (13,
R380), or a test unit under test (17, R446)? -/
def State.domainBusy (s : State) (n : Fin 64) : Bool :=
  if (domainUnit n).any s.underTest then true
  else if n.val < 16 then
    match n.val with
    | 6 | 7 | 8 | 9 => (allFin 32).any s.workerActive
    | 14 => !s.brood.solves.isEmpty || (allFin 32).any s.siteRuns
    | 15 => s.clk.outs.toList.any (·.en) || !s.clk.measures.isEmpty
    | _ => false
  else
    let d : Fin 4 := Fin.ofNat 4 ((n.val - 16) / 12)
    let o := (n.val - 16) % 12
    let ports (on : Fin 16 → Bool) : Bool := (dieGroups d).any fun g => on g &&
      (s.groups[g.val].active || s.groups[g.val].st = .halted || (groupPorts g).any fun p => s.ports[p.val].active)
    if s.net.dies[d.val].fenced then false
    else if o < 2 then true
    else if o < 8 then
      let f := s.fab[d.val]
      (f.inState (· = .running)).any fun i => (f.columnsOf i).any fun t => t / 8 = o - 2
    else if o = 8 then (dieWorkers d).any fun w => s.workers[w.val].active
    else if o = 9 then ports fun g => g.val % 4 < 2
    else if o = 10 then ports fun g => 2 ≤ g.val % 4
    else ports fun _ => true

end Sys2Proof.Machine
end

