-- ==== Sys2Proof/Machine/BistCmds.lean ====
section
/-! DEFINITION. Built-in self-test (spec/17_self_test.md): `BIST_RUN` and its units, `BIST_RESULT`, `BIST_COMMIT` and
`BIST_EXPECT_SET`. Powers are in units of 0.1 W. -/

namespace Sys2Proof.Machine

/-! Test units (R445). -/

/-- Is a code that of a test unit? -/
def unitValid (c : Nat) : Bool := c < 13 || (16 ≤ c && c < 52)

/-- Of a code of a comb die's unit: its die and its place among the nine. -/
def unitDie (u : Fin 64) : Option (Fin 4 × Nat) :=
  if 16 ≤ u.val && u.val < 52 then some (Fin.ofNat 4 ((u.val - 16) / 9), (u.val - 16) % 9) else none

/-- The BIST power of a unit. -/
def unitPower (u : Fin 64) : Nat :=
  match unitDie u with
  | some (_, k) => [120, 120, 120, 120, 120, 120, 60, 140, 50].getD k 0
  | none => [60, 60, 60, 60, 40, 10, 5, 80, 80, 80, 80, 50, 50].getD u.val 0

/-- Has a unit a digital part (log entry 37)? Regulators, Laravo loopback and lane margining have none. -/
def unitDigital (u : Fin 64) : Bool :=
  match unitDie u with
  | some (_, k) => k != 8
  | none => u.val != 6 && u.val != 11 && u.val != 12

/-- Has a unit an analogue part (log entry 37)? -/
def unitAnalog (u : Fin 64) : Bool :=
  match unitDie u with
  | some (_, k) => 7 ≤ k
  | none => 5 ≤ u.val

/-- The domains of a unit; a unit of a comb die also has the die's domain +0 (R447, worked example). -/
def unitDomains (u : Fin 64) : List (Fin 64) :=
  (allFin 64).filter fun n => domainUnit n = some u || (unitDie u).any fun x => n = dieDomain x.1 0

/-- Is a unit passed by with `NOT_TESTED` (R448)? -/
def State.unitSkipped (s : State) (u : Fin 64) : Bool :=
  (unitDomains u).any (fun n => !s.pdOn n) || s.unitMarked u || (unitDie u).any fun x => s.net.dies[x.1.val].fenced

/-! `BIST_RUN` (R446, R447). -/

/-- The number of units that a packet names, as written. -/
def runUnits (p : Pkt) : Nat := (unitsOf ((p.params.getD 0 0).toNat + (p.params.getD 1 0).toNat * 2 ^ 32)).length

/-- The cap in force: 0 takes the default of 80 W. -/
def runCap (b : Words) : Nat := if fld b 44 0 16 = 0 then 800 else fld b 44 0 16

/-- What a run may not touch (R446). -/
def State.bistBusy (s : State) (l : List (Fin 64)) : Bool :=
  s.bist.run.isSome || l.any fun u => match unitDie u with
    | some (d, k) =>
      let f := s.fab[d.val]
      k < 6 && (f.inState (· = .running)).any fun i => (f.columnsOf i).any fun t => t / 8 = k
    | none =>
      if u.val = 5 then s.clk.outs.toList.any (·.en) || !s.clk.measures.isEmpty
      else if u.val = 11 || u.val = 12 then
        s.queen.jobs.any fun j => match j.key.path with
          | .fwd _ l _ => decide (l.val / 8 = u.val - 11)
          | _ => false
      else false

/-- Does the cap exceed what the named units' domains reserve and what is free (R447)? -/
def State.capTooHigh (s : State) (l : List (Fin 64)) (cap : Nat) : Bool :=
  let held := ((allFin 64).filter fun n => l.any fun u => (unitDomains u).contains n).map fun n => s.pwr.domains[n.val].reserved
  held.foldl (· + ·) 0 + s.freePower < cap

/-- `BIST_RUN`: the run begins; its units start one by one. -/
def bistRunAct (j : Job) (s : State) : Act :=
  let b := j.args
  let l := unitsOf (fld b 32 0 64)
  let ex := if fld b 40 1 1 = 1 then (l.zipIdx).map fun e => (e.1.val, BitVec.ofNat 64 (fld b (48 + 8 * e.2) 0 64)) else []
  let run : BistRun :=
    { key := some j.key, named := BitVec.ofNat 64 (fld b 32 0 64), diag := fld b 40 0 1 = 1, cap := runCap b, expect := ex
      waiting := l, running := [] }
  .stay { s with bist := { s.bist with run := some run } }

/-- `BIST_RUN`. -/
def cmdBistRun : CmdDef :=
  { CmdDef.plain 0x0F00 0 modeMnt [] bistRunAct with
    length := fun p => if (p.params.getD 2 0).getLsbD 1 then 48 + 8 * runUnits p else 48
    fields := fun p =>
      [⟨0, 32, 0, 64, .names fun v => v != 0 && (unitsOf v).all fun u => unitValid u.val⟩, ⟨1, 40, 0, 1, .any⟩,
       ⟨2, 40, 1, 1, .any⟩, ⟨3, 44, 0, 16, .fit fun v => if v = 0 then 0 else clampNat 200 1500 v⟩] ++
        (if (p.params.getD 2 0).getLsbD 1 then (List.range (runUnits p)).map fun i => ⟨4 + i, 48 + 8 * i, 0, 64, .any⟩ else [])
    checks := fun s j =>
      let l := unitsOf (fld j.args 32 0 64)
      firstOf [refuseIf (s.bistBusy l) stBusy 0, refuseIf (s.capTooHigh l (runCap j.args)) stNoBudget] }

/-- `BIST_RUN`: the row. -/
def execBistRun (p : Pkt) (s : State) : Host.Outcome State Fault Refusal := .next (cmdBistRun.fetch p s)

/-- The units not yet started end `NOT_RUN` (R452). -/
def State.bistSkip (s : State) : State :=
  match s.bist.run with
  | none => s
  | some r =>
    let rest : BistRun := { r with waiting := [] }
    forAll r.waiting (fun u s => s.modBist u fun x => x.ended 0 0 r.diag)
      { s with bist := { s.bist with run := some rest } }

/-! Units (R445, R448). -/

/-- What a unit's test destroys, from its start (R445). -/
def State.unitLost (s : State) (u : Fin 64) : State :=
  match unitDie u with
  | some (d, k) =>
    if k < 6 then
      forAll ((allFin 8).filter fun r => (6 * r.val + 2) / 8 = k)
        (fun r s => s.undefine (ramWordAddr d r.val 0 0 0) 0x100000)
        (s.loseColumns d ((List.range 8).map fun i => 8 * k + i))
    else if k = 6 then forAll (dieWorkers d) (fun w s => s.loseWorker w) s
    else if k = 7 then forAll (dieGroups d) (fun g s => s.modGroup g fun x => { x with calValid := false }) s
    else s
  | none =>
    if u.val < 3 then (s.releaseIn (sramBase u.val) 0x2000000).undefine (sramBase u.val) 0x2000000
    else if u.val = 3 then s.modMem fun m => m.dropStacks fun _ => true
    else if u.val = 4 then s.loseBrood
    else if u.val = 11 then forAll ((allFin 16).filter (·.val < 8)) (fun l s => s.linkDrop l .off 0) s
    else if u.val = 12 then forAll ((allFin 16).filter (8 ≤ ·.val)) (fun l s => s.linkDrop l .off 0) s
    else s

/-- What a unit's end brings (R445): Laravo links are down and train if enabled; a stack is recentred as `MEM_TRAIN` with
`SCOPE` 1 does it. -/
def State.unitBack (s : State) (u : Fin 64) (r : TrainResult) : State :=
  let links (l : List (Fin 16)) : State :=
    forAll l (fun l s => (s.linkState l .down 0).modLink l fun k => { k with mayTrain := k.enabled }) s
  if u.val = 11 then links ((allFin 16).filter (·.val < 8))
  else if u.val = 12 then links ((allFin 16).filter (8 ≤ ·.val))
  else if 7 ≤ u.val ∧ u.val ≤ 10 then
    let n : Fin 4 := Fin.ofNat 4 (u.val - 7)
    if s.mem.hbm[n.val].st != .off && s.mem.hbm[n.val].st != .training then
      (s.modStack n fun x => { x with wasFrozen := x.isFrozen }).stackTrained n r false
    else s
  else s

/-- A unit is passed by. -/
def State.unitNotTested (s : State) (u : Fin 64) (r : BistRun) : State :=
  s.modBist u fun x => x.ended 4 0 r.diag

/-- `BIST_UNIT_START` (R448): the head of the units that wait is passed by, or starts where its power fits under the cap; none
overtakes it. With none left, the run comes to its end. -/
def execBistUnitStart (s : State) : Host.Outcome State Fault Refusal :=
  .next (match s.bist.run with
    | none => s
    | some r => match r.waiting with
      | [] => s.bistSettle
      | u :: l =>
        if r.key.any s.abortAsked then (s.bistSkip).bistSettle
        else if s.unitSkipped u then
          let rest : BistRun := { r with waiting := l }
          (({ s with bist := { s.bist with run := some rest } }).unitNotTested u r).bistSettle
        else if r.cap < (r.running.map unitPower).foldl (· + ·) 0 + unitPower u then s
        else
          let rest : BistRun := { r with waiting := l, running := r.running ++ [u] }
          ({ s with bist := { s.bist with run := some rest } }).unitLost u)

/-! Verdicts and marks (R449, R450, R453, R454). -/

/-- The element that a failing entry names, if any (R453; log entry 37). -/
def entryElem (u : Fin 64) (e : BitVec 128) : Option Elem :=
  let kind := (e.extractLsb' 0 8).toNat
  let el := (e.extractLsb' 16 16).toNat
  match unitDie u with
  | some (d, k) =>
    if k < 6 then
      if kind = 1 then some (.tile (1536 * d.val + 32 * (el / 32 % 64) + el % 32))
      else if kind = 0 then some (.ram el)
      else none
    else if k = 6 then (if kind < 2 then some (.worker el) else none)
    else if k = 7 then (if kind = 2 || kind = 3 then some (.port el) else none)
    else none
  | none => if (u.val = 11 || u.val = 12) && (kind = 2 || kind = 3) then some (.link (el / 4)) else none

/-- The expected value of a unit: supplied, or stored (R449). -/
def BistRun.expected (r : BistRun) (x : BistUnit) (u : Fin 64) : Option (BitVec 64) :=
  match r.expect.find? fun e => e.1 = u.val with
  | some e => some e.2
  | none => x.stored

/-- Verdict and cause of a unit in SIGNATURE mode (R449). -/
def signatureVerdict (u : Fin 64) (expected : Option (BitVec 64)) (r : BistResult) : BitVec 4 × BitVec 4 :=
  let analogOk := !unitAnalog u || r.analogOk
  let bad := unitDigital u && (match expected with
    | some e => e != r.misr
    | none => false)
  if bad then (2, 1) else if !analogOk then (2, 2)
  else if unitDigital u && expected.isNone then (3, 0) else (1, 0)

/-- A unit's record and marks after its run (R449, R450, R453, R454). -/
def BistUnit.ran (x : BistUnit) (run : BistRun) (u : Fin 64) (r : BistResult) : BistUnit :=
  if run.diag then
    let els := r.entries.map (entryElem u)
    let fail := !r.entries.isEmpty
    let byElem := els.all Option.isSome
    { x with
      verdict := if fail then 2 else 1, diag := true, cause := if fail then 3 else 0, more := r.more || decide (64 < r.entries.length)
      entries := r.entries.take 64, found := r.entries.take 64, misr := 0, expected := 0, timeUs := r.timeUs, marked := fail && !byElem
      elems := if fail && byElem then (els.filterMap id).eraseDups else [] }
  else
    let ex := run.expected x u
    let v := signatureVerdict u ex r
    { x with
      verdict := v.1, diag := false, cause := v.2, more := false, entries := [], misr := if unitDigital u then r.misr else 0
      expected := if unitDigital u then ex.getD 0 else 0, timeUs := r.timeUs, marked := v.1 = 2, elems := [] }

/-- `BIST_UNIT_END` (R449 to R452). -/
def execBistUnitEnd (u : Fin 64) (r : BistResult) (s : State) : Host.Outcome State Fault Refusal :=
  .next (match s.bist.run with
    | none => s
    | some run =>
      if !run.running.contains u then s
      else
        let rest : BistRun := { run with running := run.running.filter (· != u) }
        let s := { s with bist := { s.bist with run := some rest } }
        ((s.modBist u fun x => x.ran run u r).unitBack u r.train).bistSettle)

/-! The other commands. -/

/-- The unit that a block names at offset 32. -/
def namedUnit (b : Words) : Fin 64 := Fin.ofNat 64 (fld b 32 0 8)

/-- `BIST_RESULT`. -/
def cmdBistResult : CmdDef :=
  .plain 0x0F01 36 modeAny [⟨0, 32, 0, 8, .names unitValid⟩] fun j s =>
    let u := namedUnit j.args
    let x := s.bist.units[u.val]
    .done s (x.words u x.entries.length ++ x.entries.flatMap fun e => numWords 4 e.toNat)

/-- `BIST_RESULT`: the row. -/
def execBistResult (p : Pkt) (s : State) : Host.Outcome State Fault Refusal := .next (cmdBistResult.fetch p s)

/-- The array of a failing SRAM entry: its element and `SUB`. -/
def entryArray (e : BitVec 128) : Nat := (e.extractLsb' 8 24).toNat
/-- The row of a failing SRAM entry (log entry 37). -/
def entryRow (e : BitVec 128) : Nat := (e.extractLsb' 32 32).toNat

/-- Has a unit arrays with spare rows: the slices, the Brood engine, the cell RAM of a fabric sector, the Worker memories (R455)? -/
def unitSpares (u : Fin 64) : Bool :=
  match unitDie u with
  | some (_, k) => k < 7
  | none => u.val < 5

/-- Spare rows mapped onto the failing rows of the latest DIAGNOSE entries, whole arrays only, four spares each (R455); a later
SIGNATURE run, or one that passes the unit by, leaves those entries. -/
def BistUnit.mapSpares (x : BistUnit) (u : Fin 64) : BistUnit :=
  let bad := if unitSpares u then x.found.filter fun e => (e.extractLsb' 0 8) = 0 else []
  let arrays := (bad.map entryArray).eraseDups
  let add := arrays.flatMap fun a =>
    let old := (x.repairs.filter fun e => entryArray e = a)
    let rows := ((bad.filter fun e => entryArray e = a).map entryRow).eraseDups.filter fun r => !old.any fun e => entryRow e = r
    if old.length + rows.length ≤ 4 then
      rows.filterMap fun r => bad.find? fun e => entryArray e = a && entryRow e = r
    else []
  { x with repairs := x.repairs ++ add }

/-- `BIST_COMMIT` (R455, R456): marks and soft repairs lie in four NV blocks each (log entry 37). -/
def bistCommitAct (j : Job) (s : State) : Act :=
  let u := namedUnit j.args
  match fld j.args 32 8 2 with
  | 0 => s.nvCommand j (.marks u false) (68 + u.val / 16) []
  | 1 => .done (s.modBist u fun x => x.mapSpares u) []
  | 2 => s.nvCommand j (.soft u) (74 + u.val / 16) []
  | _ => s.nvCommand j (.marks u true) (68 + u.val / 16) []

/-- `BIST_COMMIT`. -/
def cmdBistCommit : CmdDef :=
  { CmdDef.plain 0x0F02 36 modeMnt [⟨0, 32, 0, 8, .names unitValid⟩, ⟨1, 32, 8, 2, .any⟩] bistCommitAct with
    checks := fun s j => refuseIf (s.underTest (namedUnit j.args)) stBusy 0 }

/-- `BIST_COMMIT`: the row. -/
def execBistCommit (p : Pkt) (s : State) : Host.Outcome State Fault Refusal := .next (cmdBistCommit.fetch p s)

/-- `BIST_EXPECT_SET` (R449). -/
def cmdBistExpectSet : CmdDef :=
  .plain 0x0F03 48 modeSrm [⟨0, 32, 0, 8, .names unitValid⟩, ⟨1, 32, 8, 1, .any⟩, ⟨2, 40, 0, 64, .any⟩] fun j s =>
    let v : Option (BitVec 64) := if fld j.args 32 8 1 = 1 then none else some (BitVec.ofNat 64 (fld j.args 40 0 64))
    .done (s.modBist (namedUnit j.args) fun x => { x with stored := v }) []

/-- `BIST_EXPECT_SET`: the row. -/
def execBistExpectSet (p : Pkt) (s : State) : Host.Outcome State Fault Refusal := .next (cmdBistExpectSet.fetch p s)

end Sys2Proof.Machine
end

