-- ==== Sys2Proof/Machine/ModeOps.lean ====
section
/-! DEFINITION. Modes, resets and start-up (spec/12_modes_startup_reset.md): entry to SAFE, the effects of a device reset and
of a Queen reset, and the steps of start-up. -/

namespace Sys2Proof.Machine

/-! Entry to SAFE (R348). -/

/-- Is a command a start command (R347)? -/
def Job.isStart (j : Job) : Bool :=
  j.p.opcode = 0x0701 || j.p.opcode = 0x0502 || (j.p.opcode = 0x0506 && fld j.p.block 32 8 4 = 1)

/-- Does a command wait for its instant? -/
def Job.isScheduled (j : Job) : Bool :=
  match j.phase with
  | .scheduled _ => true
  | _ => false

/-- The reply of a command that ends with nothing done (R348; 02, R49). -/
def State.abortJob (s : State) (j : Job) : State := s.refuse j ⟨stAborted, 0xFF⟩

/-- Every start command that waits is discarded and replies `ABORTED` (R348 step 1). -/
def State.discardStarts (s : State) : State :=
  let s := s.starts.foldl (fun s x =>
    let s := s.dropStart x
    match s.job? x.key with
    | some j => s.abortJob j
    | none => s) s
  (s.queen.jobs.filter fun j => j.isStart && j.isScheduled).foldl (fun s j => s.abortJob j) s

/-- Every test function stops (R348 step 2): the Workers with reason 5, their groups, the lanes and the PRBS functions. -/
def State.stopFunctions (s : State) : State :=
  let on (d : Fin 4) : Bool := !s.net.dies[d.val].fenced
  let s := forAll ((allFin 32).filter fun w => on (workerDie w) && s.workers[w.val].active) (fun w s => s.stopWorker w 5) s
  let s := forAll ((allFin 16).filter fun g => on (groupDie g) && s.groups[g.val].active)
    (fun g s => let now := s.nowTu; s.modGroup g fun x => x.stop now) s
  forAll ((allFin 128).filter fun n => on (portDie n)) (fun n s =>
    (s.stopLane n).modPort n fun p => if p.prbs.on then { p with prbs := { p.prbs with on := false, locked := false } } else p) s

/-- Every RUNNING region and static part stops (R348 step 3, R363): HELD, or FROZEN. -/
def State.stopAllRegions (s : State) (held : Bool) : State :=
  forAll (allFin 4) (fun d s => s.stopRegions d ((s.fab[d.val]).inState (· = .running)) held) s

/-- The Laravo links are down (R344, R348 step 4). -/
def State.dropLinks (s : State) (cause : Nat) : State :=
  forAll ((allFin 16).filter fun l => s.swarm.links[l.val].st != .off) (fun l s => s.linkDrop l .down cause) s

/-- The device enters SAFE with a cause (R348, R350). -/
def State.enterSafe (s : State) (cause : BitVec 16) (err : Bool) : State :=
  let was := s.rsc.mode
  let s := if was = .ready || was = .run || was = .maintain then (s.discardStarts.stopFunctions).stopAllRegions true else s
  let s := { s with rsc := { s.rsc with cause := cause, startupDone := true } }
  (s.enterMode .safe err).dropLinks 1

/-- Enabled Laravo links may train (R349). -/
def State.armLinks (s : State) : State :=
  { s with swarm := { s.swarm with links := s.swarm.links.map fun (k : Laravo) => if k.enabled then { k with mayTrain := true } else k } }

/-- Does every comb die that is present, usable and not fenced hold a full configuration (R346)? -/
def State.allConfigured (s : State) : Bool :=
  (allFin 4).all fun d =>
    !s.net.dies[d.val].present || s.dieMarked d || s.net.dies[d.val].fenced || s.fab[d.val].cfgSt = .configured

/-! Queen reset (02, R57; R356). -/

/-- A self-test run stops at the start of the next unit: the units not started end `NOT_RUN`, and with none running it is at its end
(17, R452, R457). -/
def State.stopBist (s : State) : State :=
  match s.bist.run with
  | none => s
  | some r =>
    let rest : BistRun := { r with key := none, waiting := [] }
    (forAll r.waiting (fun u s => s.modBist u fun x => x.ended 0 0 r.diag) { s with bist := { s.bist with run := some rest } }).bistSettle

/-- What runs on through a Queen reset no longer answers a command (02, R57; 09 R282; 10 R311; 13 R382; 15 R420; 16 R437). -/
def State.forgetJobs (s : State) : State :=
  let lock (x : LockJob) : LockJob := { x with key := none }
  let train (x : TrainJob) : TrainJob := { x with key := none }
  let rekey (x : RekeyJob) : RekeyJob := { x with key := none }
  let nv (x : NvJob) : NvJob := { x with key := none }
  let step (k : Worker) : Worker :=
    { k with dbg := { k.dbg with stepJob := if k.dbg.stepJob.any fun j => j.path = .mailbox then k.dbg.stepJob else none } }
  { s with
    clk := { s.clk with measures := s.clk.measures.map fun (m : Measure) => { m with key := none }, relock := none }
    mem := { s.mem with copies := [], training := s.mem.training.map train, rekey := s.mem.rekey.map rekey }
    net := { s.net with audit := [], locking := s.net.locking.map fun x => x.map lock }
    sec := { s.sec with nvJobs := s.sec.nvJobs.map nv }
    workers := s.workers.map step }

/-- A command that waited for its instant, for the handshake into a stopped die, for the end of a rekey or for another command's
commit is disarmed: nothing of it happens any more, and it holds its tag until the restart answers it (02, R57). -/
def Job.disarmed (j : Job) : Job :=
  match j.phase with
  | .scheduled _ | .stuck _ | .awaiting _ | .memory => { j with phase := .running }
  | _ => j

/-- A Queen reset begins (02, R57; 06, R188; 08, R251; 13, R382; 15; 16, R444; 17, R457): scheduled commands are disarmed, a
`WORK_START` before its instant stops its Workers, a stage releases its slot, a load goes on without release, the solver
finishes its block, and the Queen core stops. Its commands keep their tags until it restarts. -/
def State.queenReset (s : State) : State :=
  let s := s.starts.foldl (fun s x => s.dropStart x) s
  let s := (forAll ((allFin 4).filter fun n => s.cfg.slots[n.val].st = .staging) (fun n s => s.releaseSlot n) s).stopBist
  let s := forAll (allFin 16) (fun l s => s.flushLink l) s.forgetJobs
  { s with
    queen := { s.queen with
      up := false, halted := false, dbgHalt := false, stopJobs := [], cal := [], regs := []
      jobs := s.queen.jobs.map fun j => if j.key.path = .mailbox then j else j.disarmed }
    rsc := { s.rsc with lastReset := 2, armedReset := none }
    cfg := { s.cfg with loads := s.cfg.loads.map fun (x : Load) => { x with key := none, release := x.release && x.boot }, readbacks := [] }
    pwr := { s.pwr with jobs := [] }
    swarm := { s.swarm with forwards := [] }
    brood := { s.solveStep.brood with solves := [] }
    dbg := { s.dbg with haltJobs := s.dbg.haltJobs.filter fun h => h.1.path = .mailbox }
    sec := { s.sec with challenge := none } }

/-- On restart every tag in use is answered `ABORTED` (02, R57); a forwarded command's origin too (11, R343). A command of
the mailbox is the debug engine's, and completes (16, R444). -/
def State.abortAll (s : State) : State :=
  (s.queen.jobs.filter fun j => j.key.path != .mailbox).foldl (fun s j => match s.job? j.key with
    | some j => s.abortJob j
    | none => s) s

/-- A domain in HIBERNATE: RETENTION, or off as it was (R363). -/
def Domain.retained (d : Domain) : Domain := if d.st = .on || d.st = .ramping then { d with st := .retention } else d
/-- A domain restored (R365; 14, R407): no budget check. -/
def Domain.restored (d : Domain) : Domain := if d.st = .retention then { d with st := .on } else d

/-! Device reset (02, R57; 12, R356, R359 and the rules it lists). -/

/-- The stacks without their state but present; their contents read as zeros (09, R282). -/
def Stack.startOver (x : Stack) : Stack := { Stack.reset with present := x.present, temp := x.temp, hot := x.hot }

/-- A die's link as start-up finds it (10, R311). -/
def DieLink.startOver (x : DieLink) : DieLink := { DieLink.reset with present := x.present }

/-- A test unit after a device reset: committed marks and repairs stand, the stored expected value too (17, R457). -/
def BistUnit.startOver (x : BistUnit) (powerOn : Bool) : BistUnit :=
  { BistUnit.reset with
    committed := x.committed, elemsC := x.elemsC, repairsC := x.repairsC, repairs := x.repairsC
    stored := if powerOn then none else x.stored }

/-- What a device reset leaves (R356, R357, R359, R367): `PD00`, the time bases, the servo, the power state and the NV store stay,
domains in retention are restored; everything else is as at power-on. The device is in BOOT at step 3. -/
def State.deviceReset (s : State) : State :=
  let s := s.resetWorkers (allFin 32)
  let s := forAll (allFin 4) (fun n s => s.releaseSlot n) s
  let m := s.mem.dropStacks fun _ => true
  let old := s.rsc.mode
  let t : State := { s with
    hif := { Hif.reset with pcieUp := s.hif.pcieUp, ptmOn := s.hif.ptmOn }
    rsc := { s.rsc with
      mode := .boot, lastReset := 1, errorN := false, bootRecord := false, golden := false, bootStep := 3
      startupDone := false, deferred := none, armedReset := none, hib := .awake, hibMatch := false, pcieHeld := false
      enteredNs := if old = .boot then s.rsc.enteredNs else s.stampNs
      enteredS := if old = .boot then s.rsc.enteredS else s.stampS }
    queen := Queen.reset
    clk := { s.clk with
      outs := Vector.replicate 4 ClkOut.reset, measures := [], relock := none
      mux := if s.clk.pll = .locked then 0b111111 else s.clk.mux }
    mem := { Mem.reset with cells := m.cells, undef := m.undef, hbm := s.mem.hbm.map Stack.startOver }
    net := { Net.reset with dies := s.net.dies.map DieLink.startOver }
    swarm := { Swarm.reset with links := s.swarm.links.map fun (k : Laravo) => { Laravo.reset with st := k.st } }
    cfg := Config_.reset
    fab := Vector.replicate 4 DieFab.reset
    brood := Brood.reset
    sec := { s.sec with nvJobs := [], scope1 := false, scope2 := false, challenge := none, flags := 0, fwMeas := none, drbgOk := true }
    bist := { units := s.bist.units.map fun (u : BistUnit) => u.startOver false, run := none }
    dbg := { Debug.reset with ir := s.dbg.ir, dieSel := s.dbg.dieSel, bsr := s.dbg.bsr }
    pwr := { s.pwr with domains := s.pwr.domains.map Domain.restored, jobs := [] }
    starts := [] }
  let t := (t.resetGroups (allFin 16) false).refreshPorts
  let t := forAll ((allFin 16).filter fun l => t.pdOn (if l.val < 8 then 4 else 5)) (fun l s => s.linkState l .down 11) t
  let t := if old = .boot then t else t.raise 44 1 0 (detail [(0, 1, old.code), (2, 2, t.rsc.cause.toNat)])
  forAll ((allFin 64).filter fun n => t.pwr.domains[n.val].st = .fault) (fun n s => s.domainOff n) t

/-- A power-on reset is in progress until start-up ends: a device reset raised before then is absorbed (R356). -/
def State.powerOnRuns (s : State) : Bool := s.rsc.lastReset = 0 && !s.rsc.startupDone

/-- Does a reset wait for an NV block that is being written (R358)? -/
def State.nvBusy (s : State) : Bool := !s.sec.nvJobs.isEmpty

/-- The PCIe link goes down with the loss of its reference (R375). -/
def State.pcieDown (s : State) (cause : Nat) : State :=
  if s.hif.pcieUp then ({ s with hif := { s.hif with pcieUp := false } }).raise 46 1 0 (detail [(0, 1, 0), (1, 1, cause)]) else s

/-- A PCIe reset (02, R26; 11, R343; 18, `E046`): BAR0 and the rings as R26 says, and the link is down, so that PTM pauses. -/
def State.pcieReset (s : State) : State := s.resetPcie.pcieDown 0

/-- The root PLL locks (13, R370, R378) without a step of its phase: its count of root ticks starts anew, and each clock output
follows that count once its period has ended. -/
def State.pllLocks (s : State) : State :=
  let renew (o : ClkOut) : ClkOut := { o with run := o.run.map fun r => { r with old := true } }
  { s with clk := { s.clk with pll := .locked, coast := false, count := 0, relock := none, outs := s.clk.outs.map renew } }

/-! Start-up (R351 to R355, R508). -/

/-- Start-up turns a domain on under the budget (R355): one of a marked unit stays OFF, one that does not fit stays OFF with
`E006`; its parent must be on. Its ramp lies within the step. -/
def State.bootDomain (s : State) (n : Fin 64) : State :=
  let parentOn : Bool := match domainParent n with
    | none => true
    | some p => s.pdOn p
  if s.pwr.domains[n.val].st != .off || s.domainMarked n || !parentOn then s
  else if s.grant < s.reserved + domainMax n then s.noBudget (domainMax n)
  else (s.rampDomain n).domainUp n

/-- The domains of a list, in order. -/
def State.bootDomains (s : State) (l : List (Fin 64)) : State := forAll l (fun n s => s.bootDomain n) s

/-- A start-up step begins (`RSC_BOOT`). -/
def State.bootStep (s : State) (n : Nat) : State := { s with rsc := { s.rsc with bootStep := BitVec.ofNat 8 n } }

/-- Start-up ends in SAFE (R350). -/
def State.bootSafe (s : State) (cause : BitVec 16) (err : Bool) : State := s.enterSafe cause err

/-- Start-up ends in READY (step 9). A load during the wait in BOOT begins no step (log entry 32). -/
def State.bootReady (s : State) : State :=
  let s := if s.rsc.startupDone then s else s.bootStep 9
  let s := { s with rsc := { s.rsc with startupDone := true } }
  (s.armLinks).enterMode .ready false

/-- The boot record in force: the valid one with the higher sequence (08, R248, R249). -/
def State.bootRecord (s : State) : Option (Fin 2 × BootRec) :=
  match s.sec.bootRecs[0], s.sec.bootRecs[1] with
  | some a, some b => if a.seq < b.seq then some (1, b) else some (0, a)
  | some a, none => some (0, a)
  | none, some b => some (1, b)
  | none, none => none

/-- The domains of start-up's last row (R508): `PD14`, the rest of each die whose link is locked, and the Laravo domains. -/
def State.bootLastDomains (s : State) : State :=
  let dies := (allFin 4).filter fun d => s.net.dies[d.val].st = .locked
  s.bootDomains ((14 : Fin 64) :: (dies.flatMap fun d => ((allFin 12).filter (2 ≤ ·.val)).map (dieDomain d)) ++ [4, 5])

/-- The first address of slot 0 at start-up (08, R249). -/
def bootSlotBase : Nat := 0x100000000000

/-- Steps 8 and 9, or what `BOOTSEL` puts in their place (R352; 08, R249). -/
def State.bootImage (s : State) : State :=
  match s.rsc.bootsel.toNat with
  | 0 =>
    let s := (s.bootStep 8).bootLastDomains
    match s.bootRecord with
    | none => s.bootSafe 0x0002 true
    | some (i, r) =>
      let s := { s with rsc := { s.rsc with bootRecord := i = 1 } }
      s.modSlot 0 fun _ => { Slot.reset with st := .staging, base := BitVec.ofNat 48 bootSlotBase, len := r.len }
  | 1 =>
    let s := s.bootLastDomains
    { s with rsc := { s.rsc with startupDone := true } }
  | 2 => s.bootSafe 0x0101 false
  | _ => s.bootSafe 0x0003 true

/-- Step 7 (R508; 10, R296): the links of present dies that are powered and usable train. Without any, step 8 follows. -/
def State.bootLinks (s : State) : State :=
  let s := s.bootStep 7
  let dies := (allFin 4).filter fun d => s.net.dies[d.val].present && !s.dieMarked d
  let s := s.bootDomains (dies.flatMap fun d => [dieDomain d 0, dieDomain d 1])
  let dies := dies.filter fun d => s.dieOn d 1
  let s := forAll dies (fun d s =>
    let m : LaneMap := s.sec.laneMaps[d.val].getD ⟨[], false⟩
    let s := (s.modDie d fun x => { x with st := .training, clockOn := true, cutOff := false }).modFab d
      fun f => { f with fabCycle := 0 }
    let job : LockJob := 
      { key := none, bad := m.bad, half := m.half, remap := false, record := false, rejoin := false, train := true, live := true }
    { s with net := { s.net with locking := upd s.net.locking d fun _ => some job } }) s
  if dies.isEmpty then s.bootImage else s

/-- Step 6 (R508; 09, R258, R277): the stacks that are present, usable and powered train with the lane repairs that the NV store
holds; new keys are drawn. -/
def State.bootStacks (s : State) : State :=
  let s := (s.bootStep 6).bootDomains [10, 11, 12, 13]
  let trained := (allFin 4).filter fun n => s.mem.hbm[n.val].present && !s.stackMarked n
  let s := s.bootDomains (trained.map fun n => ⟨6 + n.val, by omega⟩)
  let trained := trained.filter fun n => s.pdOn ⟨6 + n.val, by omega⟩
  let s := forAll trained (fun n s => s.modStack n fun x => { x with st := .training, repairs := s.sec.hbmRepairs[n.val] }) s
  let s := if s.sec.drbgOk then s.newKeys 1 false else s
  let job : TrainJob := { key := none, left := trained, scope := false, repair := false, found := [] }
  let s := { s with mem := { s.mem with
    gridOn := true, refreshNs := s.stampNs, refreshS := s.stampS
    training := if trained.isEmpty then none else some job } }
  if trained.isEmpty then s.bootLinks else s

/-- The Queen firmware starts (R351 step 5, R353; 18, `E047`): after a Queen reset every tag in use is answered. -/
def State.firmwareUp (s : State) (fw : FwImage) (again : Bool) : State :=
  let s := { s with
    queen := { s.queen with up := true, refused := false, fwVersion := fwVersion fw }
    sec := { s.sec with fwMeas := some (fwMeasure fw) }
    hif := { s.hif with crs := false } }
  let s := s.raise 47 1 0 (detail [(0, 4, (fwVersion fw).toNat), (4, 1, b2n again)])
  if again then s.abortAll else s

end Sys2Proof.Machine
end

