-- ==== Sys2Proof/Machine/ModeCmds.lean ====
section
/-! DEFINITION. `MODE_GET`, `MODE_SET`, `SYS_RESET` and HIBERNATE (spec/12_modes_startup_reset.md, R344 to R349, R360 to R367). -/

namespace Sys2Proof.Machine

/-- The modes that `MODE_GET` and `MODE_SET` are allowed in: CTL, and BOOT with `BOOTSEL` 01. -/
def modeB01Ctl (s : State) (p : Pkt) : Bool := modeCtl s p || modeB01 s p

/-- `MODE_GET` (R349). -/
def cmdModeGet : CmdDef :=
  .plain 0x0100 32 modeB01Ctl [] fun _ s =>
    .done s [BitVec.ofNat 32 s.rsc.mode.code, s.rscCause, s.rscBoot, s.rsc.enteredNs, s.rsc.enteredS, BitVec.ofNat 32 s.functions]

/-- `MODE_GET`: the row. -/
def execModeGet (p : Pkt) (s : State) : Host.Outcome State Fault Refusal := .next (cmdModeGet.fetch p s)

/-- The mode of a code (R344). -/
def modeNamed (n : Nat) : Mode :=
  match n with
  | 0 => .boot
  | 1 => .safe
  | 2 => .ready
  | 3 => .run
  | 4 => .maintain
  | _ => .hibernate

/-- What stands against HIBERNATE (R362), besides the mode. -/
def hibernateCheck (s : State) (j : Job) : Option Verdict :=
  let others := s.queen.jobs.filter fun k => !sameKey k.key j.key
  firstOf [refuseIf (!others.isEmpty || !s.cfg.loads.isEmpty || s.cfg.slots.toList.any (·.st = .staging)) stBusy 0,
    refuseIf (s.mem.hbm.toList.any (·.st = .frozen)) stFrozen]

/-- The transitions of R346 and their conditions; a start command that waits holds back MAINTAIN and HIBERNATE (R347), a
self-test run the way out of MAINTAIN (17, R446). -/
def modeSetCheck (s : State) (j : Job) : Option Verdict :=
  let goal := modeNamed (fld j.args 32 0 3)
  let waits := !s.starts.isEmpty || s.queen.jobs.any fun k => k.isStart && k.isScheduled
  if goal = s.rsc.mode then none
  else match s.rsc.mode, goal with
    | .boot, .safe | .ready, .safe | .run, .safe | .safe, .maintain | .ready, .run => none
    | .maintain, .safe => refuseIf s.bist.run.isSome stBusy 0
    | .safe, .ready => refuseIf (!s.allConfigured) stNotReady
    | .maintain, .ready => firstOf [refuseIf (!s.allConfigured) stNotReady, refuseIf s.bist.run.isSome stBusy 0]
    | .run, .ready => refuseIf (0 < s.functions) stBusy 0
    | .ready, .maintain => refuseIf (0 < s.functions || waits) stBusy 0
    | .ready, .hibernate => firstOf [refuseIf waits stBusy 0, hibernateCheck s j]
    | _, _ => some ⟨stWrongMode, 0xFF⟩

/-- `MODE_SET` (R346 to R349, R363): entry to HIBERNATE begins when the reply has been written. -/
def modeSetAct (j : Job) (s : State) : Act :=
  let goal := modeNamed (fld j.args 32 0 3)
  if goal = s.rsc.mode then .done s []
  else match goal with
    | .safe => .done (s.enterSafe 0x0100 false) []
    | .hibernate => .stay (s.commitDone { j with after := .hibernate } [])
    | .ready => .done ((cond (s.rsc.mode = .safe || s.rsc.mode = .maintain) s.armLinks s).enterMode .ready false) []
    | m => .done (s.enterMode m false) []

/-- `MODE_SET`. -/
def cmdModeSet : CmdDef :=
  { CmdDef.plain 0x0101 36 modeB01Ctl [⟨0, 32, 0, 3, .names fun v => 1 ≤ v && v ≤ 5⟩] modeSetAct with checks := modeSetCheck }

/-- `MODE_SET`: the row. -/
def execModeSet (p : Pkt) (s : State) : Host.Outcome State Fault Refusal := .next (cmdModeSet.fetch p s)

/-- `SYS_RESET` (R360): the reset is armed when the reply has been written. -/
def cmdSysReset : CmdDef :=
  .plain 0x0004 40 modeAny [⟨0, 32, 0, 2, .names (· < 2)⟩, ⟨1, 36, 0, 16, .names (· = 0x5155)⟩] fun j s =>
    .stay (s.commitDone { j with after := .reset (if fld j.args 32 0 2 = 1 then .device else .queen) } [])

/-- `SYS_RESET`: the row. -/
def execSysReset (p : Pkt) (s : State) : Host.Outcome State Fault Refusal := .next (cmdSysReset.fetch p s)

/-! HIBERNATE (R363 to R366). -/

/-- Entry begins when the reply has been written (R363, t0): running regions freeze, captures end without their event, the
ports go to their safe state. -/
def State.hibernateBegin (s : State) : State :=
  let s := forAll (allFin 4) (fun d s => s.modFab d fun f => { f with
    regions := f.regions.map fun (r : Region) => { r with resume := r.valid && r.st = .running }
    staticResume := f.static_ = .running
    capture := if f.capture.busy then { f.capture with st := .idle } else f.capture }) s
  let s := s.stopAllRegions false
  ({ s with rsc := { s.rsc with hib := .entering, hibMatch := false } }).enterMode .hibernate false

/-- A wake begins (R365 steps 1 to 3): domains and clocks are restored, the stacks leave self-refresh and recentre, the
Ndenu links train and lock again with the map in force, and enabled Laravo links train. The dies' clocks start again, and their
fabrics count from 0 (07, R209). A DRBG that has stopped stays stopped (15, R422). -/
def State.wakeBegin (s : State) : State :=
  let trained := (allFin 4).filter fun n => s.mem.hbm[n.val].st = .selfRefresh
  let dies := (allFin 4).filter fun d =>
    (s.net.dies[d.val].st = .locked || s.net.dies[d.val].st = .up) && !s.net.dies[d.val].fenced
  let job : TrainJob := { key := none, left := trained, scope := true, repair := false, found := [] }
  let s := { s with
    rsc := { s.rsc with hib := .waking, hibMatch := false }
    pwr := { s.pwr with domains := s.pwr.domains.map Domain.restored }
    mem := { s.mem with
      gridOn := !s.clk.coast, refreshNs := if s.clk.coast then s.mem.refreshNs else s.stampNs
      refreshS := if s.clk.coast then s.mem.refreshS else s.stampS
      training := if trained.isEmpty then none else some job } }
  let s := forAll trained (fun n s => s.modStack n fun x => { x with st := .training }) s.armLinks
  let s := forAll (allFin 4) (fun d s => s.modFab d fun f => { f with fabCycle := 0 }) s
  forAll dies (fun d s =>
    let x := s.net.dies[d.val]
    let s := s.modDie d fun x => { x with st := .training }
    let job : LockJob := 
      { key := none, bad := x.badLanes, half := x.half, remap := false, record := false, rejoin := false, train := true, live := true }
    { s with net := { s.net with locking := upd s.net.locking d fun _ => some job } }) s

/-- `HIBERNATE_ENTRY_END` (R363 to R366): stacks in self-refresh, links idle, the PCIe link down, domains in retention; a wake
match recorded during entry wakes the device at once. -/
def execHibernateEntryEnd (s : State) : Host.Outcome State Fault Refusal :=
  .next (if s.rsc.hib != .entering then s
  else
    let s := (s.dropLinks 2)
    let s := (if s.servo.runs then s.servoHold 3 else s).pcieDown 2
    let pd0 := s.pwr.domains[0]
    let down (x : Stack) : Stack := if x.st = .ready then { x with st := .selfRefresh } else x
    let s := { s with
      rsc := { s.rsc with hib := .asleep }
      pwr := { s.pwr with domains := upd (s.pwr.domains.map Domain.retained) 0 fun _ => pd0 }
      sec := { s.sec with challenge := none }
      mem := { s.mem with gridOn := false, hbm := s.mem.hbm.map down } }
    if s.rsc.hibMatch then s.wakeBegin else s)

/-- A wake match (R365, R366): recorded during entry, else the wake begins. -/
def State.wakeMatch (s : State) : State :=
  match s.rsc.hib with
  | .entering => { s with rsc := { s.rsc with hibMatch := true } }
  | .asleep => s.wakeBegin
  | _ => s

/-- `WAKE_MATCH` (R365). -/
def execWakeMatch (s : State) : Host.Outcome State Fault Refusal := .next s.wakeMatch

/-- `WAKE_END` (R365 step 4): once stacks and links have ended their training, the regions that were running start at one
boundary, the device is READY, and the servo acquires. A PCIe reset of the meantime takes effect now (R367). -/
def execWakeEnd (s : State) : Host.Outcome State Fault Refusal :=
  .next (if s.rsc.hib != .waking || s.mem.training.isSome || s.net.locking.toList.any Option.isSome then s
  else
    let held := s.rsc.pcieHeld
    let s := forAll (allFin 4) (fun d s => s.modFab d fun f => { f with
      regions := f.regions.map fun (r : Region) => if r.resume then { r with st := .running, resume := false } else r
      static_ := if f.staticResume then .running else f.static_, staticResume := false }) s
    let s := { s with
      rsc := { s.rsc with hib := .awake, pcieHeld := false }
      servo := if s.servo.source = 0 then s.servo else { s.servo with st := .acquiring, refused := 0, good := 0 } }
    let s := s.enterMode .ready false
    if held then s.pcieReset else s)

end Sys2Proof.Machine
end

