-- ==== Sys2Proof/Machine/PwrCmds.lean ====
section
/-! DEFINITION. The PWR commands and the events of the power input, the domains and telemetry (spec/14_power.md). -/

namespace Sys2Proof.Machine

/-- The domains of a mask in ascending order. -/
def domainsOf (m : Nat) : List (Fin 64) := (allFin 64).filter fun n => m.testBit n.val

/-- The domains of a mask that a `PWR_DOMAIN_SET` with `STATE` 1 is to turn on. -/
def State.toTurnOn (s : State) (m : Nat) : List (Fin 64) :=
  (domainsOf m).filter fun n => s.pwr.domains[n.val].st = .off || s.pwr.domains[n.val].st = .fault

/-- The reservations that turning on a list of domains would add. -/
def asked (l : List (Fin 64)) : Nat := (l.map domainMax).foldl (· + ·) 0

/-- The refusals of `PWR_DOMAIN_SET` in the order of R391, after its first row. -/
def domainSetCheck (s : State) (m : Nat) (on : Bool) : Option Verdict :=
  if on then
    let new := s.toTurnOn m
    let orphan (n : Fin 64) : Bool := match domainParent n with
      | none => false
      | some p => s.pwr.domains[p.val].st = .fault || (s.pwr.domains[p.val].st = .off && !m.testBit p.val)
    firstOf [refuseIf (new.any orphan) stNotReady, refuseIf (new.any s.domainMarked) stUnusable,
      refuseIf (new.any fun n => s.pwr.domains[n.val].st = .fault) stBusy 0,
      refuseIf (decide (s.grant < s.reserved + asked new)) stNoBudget]
  else
    let go := (domainsOf m).filter fun n => s.pwr.domains[n.val].st != .off
    let child (n : Fin 64) : Bool := (allFin 64).any fun c =>
      domainParent c = some n && s.pwr.domains[c.val].st != .off && !m.testBit c.val
    firstOf [refuseIf (go.any child) stBusy 0, refuseIf (go.any s.domainBusy) stBusy 0]

/-- The result of `PWR_DOMAIN_SET`: the state of each named domain, the total reserved and the free part. -/
def State.domainResult (s : State) (m : Nat) : Words :=
  (domainsOf m).map s.domainState ++ [BitVec.ofNat 32 s.reserved, BitVec.ofNat 32 s.freePower]

/-- `PWR_DOMAIN_SET` commits when none of its domains ramps; after an abort, at the next domain, with the rest of those it turned on
off again (R392). -/
def State.settlePower (s : State) : State :=
  s.pwr.jobs.foldl (fun s x =>
    let drop (s : State) : State := { s with pwr := { s.pwr with jobs := s.pwr.jobs.filter fun y => !sameKey y.key x.key } }
    match s.pwr.jobs.find? (fun y => sameKey y.key x.key), s.job? x.key with
    | none, _ => s
    | some _, none => drop s
    | some y, some j =>
      let m := fld j.args 32 0 64
      if s.abortAsked x.key then
        let s := drop (forAll (y.left.filter y.own.contains).reverse (fun n s => s.domainOff n) s)
        s.commitClose j ⟨stAborted, 0xFF⟩ true (s.domainResult m)
      else if y.left.isEmpty then (drop s).commitDone j (s.domainResult m)
      else s) s

/-- `PWR_DOMAIN_SET` (R391, R392): off at once, children first; on when the rails of every named domain are in regulation, of one
that ramped already too. -/
def domainSetAct (j : Job) (s : State) : Act :=
  let m := fld j.args 32 0 64
  if fld j.args 40 0 1 = 0 then
    let s := (forAll (domainOrder.reverse.filter fun n => m.testBit n.val) (fun n s => s.domainOff n) s).settlePower
    .done s (s.domainResult m)
  else
    let new := domainOrder.filter (s.toTurnOn m).contains
    let s := forAll new (fun n s => s.rampDomain n) s
    let left := domainOrder.filter fun n => m.testBit n.val && s.pwr.domains[n.val].st = .ramping && !s.pwr.domains[n.val].lost
    if left.isEmpty then .done s (s.domainResult m)
    else .stay { s with pwr := { s.pwr with jobs := s.pwr.jobs ++ [⟨j.key, left, new⟩] } }

/-- `PWR_DOMAIN_SET`. -/
def cmdPwrDomainSet : CmdDef :=
  { CmdDef.plain 0x0200 44 modeCtl [⟨0, 32, 0, 64, .names (· != 0)⟩, ⟨1, 40, 0, 1, .any⟩] domainSetAct with
    naming := fun _ path p =>
      let m := fld p.block 32 0 64
      if fld p.block 40 0 1 = 0 && (m % 8 != 0 || (m.testBit 3 && path.isPcie)) then [0] else []
    checks := fun s j => domainSetCheck s (fld j.args 32 0 64) (fld j.args 40 0 1 = 1)
    refused := fun j v s => if v.status = stNoBudget then s.noBudget (asked (s.toTurnOn (fld j.p.block 32 0 64))) else s }

/-- `PWR_DOMAIN_SET`: the row. -/
def execPwrDomainSet (p : Pkt) (s : State) : Host.Outcome State Fault Refusal := .next (cmdPwrDomainSet.fetch p s)

/-- Has a domain a core rail (R388): every domain but those of the links, the ports and PCIe, whose content is I/O
(log entry 31)? -/
def coreDomain (n : Fin 64) : Bool :=
  !([3, 4, 5].contains n.val || (16 ≤ n.val && [1, 9, 10].contains ((n.val - 16) % 12)))

/-- The rail of a domain as set, in mV (R388). -/
def railSet (n : Fin 64) : BitVec 16 := if coreDomain n then BitVec.ofNat 16 (650 + (Config.coreRail n.val).val) else 1800

/-- `PWR_DOMAIN_GET`. -/
def cmdPwrDomainGet : CmdDef :=
  .plain 0x0201 40 modeAny [⟨0, 32, 0, 64, .names (· != 0)⟩] fun j s =>
    .done s (((domainsOf (fld j.args 32 0 64)).flatMap fun n =>
        [s.domainState n, BitVec.ofNat 32 (domainMax n), (railSet n).setWidth 32, (s.pwr.domains[n.val].rail).setWidth 32]) ++
      [BitVec.ofNat 32 (budgetOf s.pwr.vb s.pwr.cap), BitVec.ofNat 32 s.grant, BitVec.ofNat 32 s.reserved,
       BitVec.ofNat 32 s.freePower])

/-- `PWR_DOMAIN_GET`: the row. -/
def execPwrDomainGet (p : Pkt) (s : State) : Host.Outcome State Fault Refusal := .next (cmdPwrDomainGet.fetch p s)

/-- `VB` rounded down to 100 mV. -/
def roundVb (v : Nat) : Nat := v / 100 * 100

/-- `PWR_BUDGET_SET` (R393, R397): the reply echoes `VB` as rounded. -/
def budgetSetAct (j : Job) (s : State) : Act :=
  let cap := fld j.args 32 0 13
  let vb := roundVb (fld j.args 36 0 16)
  let s := { s with pwr := { s.pwr with cap := cap, vb := vb } }
  .stay (s.commitDone { j with args := setFld j.args 36 0 16 vb }
    [BitVec.ofNat 32 (budgetOf vb cap), BitVec.ofNat 32 (efficiency vb), BitVec.ofNat 32 s.grant, BitVec.ofNat 32 s.reserved,
     BitVec.ofNat 32 s.freePower])

/-- `PWR_BUDGET_SET`. -/
def cmdPwrBudgetSet : CmdDef :=
  { CmdDef.plain 0x0202 40 modeCtl [⟨0, 32, 0, 13, .clamp 100 4500⟩, ⟨1, 36, 0, 16, .clamp 6000 40000⟩] budgetSetAct with
    checks := fun s j =>
      refuseIf (decide (grantOf (roundVb (fld j.args 36 0 16)) (fld j.args 32 0 13) < s.reserved)) stNoBudget }

/-- `PWR_BUDGET_SET`: the row. -/
def execPwrBudgetSet (p : Pkt) (s : State) : Host.Outcome State Fault Refusal := .next (cmdPwrBudgetSet.fetch p s)

/-- VIN lies below its warning level (R400): `E000`, `VIN_WARN`, `DROOP_SEEN`, and the mark of every group that plays and of
every run. -/
def State.vinLow (s : State) (mv : BitVec 16) : State :=
  if s.pwr.flagVin then { s with pwr := { s.pwr with vinLow := if mv < s.pwr.vinLow then mv else s.pwr.vinLow } }
  else
    let now := s.nowTu
    let mark (x : Group) : Group :=
      if x.st = .playing || x.st = .underrun || x.st = .halted then
        { x with supplyDist := true, run := { x.run with supplyAt := x.run.supplyAt <|> some (x.run.cycleNow now) } }
      else x
    let markW (k : Worker) : Worker := if k.active then { k with supply := true } else k
    let s := { s with
      pwr := { s.pwr with flagVin := true, vinLow := mv }, rsc := { s.rsc with droopSeen := true }
      groups := s.groups.map mark, workers := s.workers.map markW }
    s.raise 0 2 0 (detail [(0, 2, mv.toNat), (2, 2, s.pwr.vinWarn.toNat)])

/-- The present VIN, as a row tells it (R401). -/
def State.seeVin (s : State) (mv : BitVec 16) : State := { s with pwr := { s.pwr with vinNow := mv } }

/-- Does a `PWR_LIMITS_SET` change the ramp step? -/
def changesRamp (s : State) (args : Words) : Bool := fld args 40 8 1 = 0 && fld args 40 0 8 != s.pwr.rampStep.toNat

/-- `PWR_LIMITS_SET` (R406, R401): a warning level above the present VIN raises `E000` at once. -/
def limitsSetAct (j : Job) (s : State) : Act :=
  let b := j.args
  let s := { s with pwr := { s.pwr with
    vinWarn := BitVec.ofNat 16 (fld b 32 0 16), tempWarn := BitVec.ofNat 8 (fld b 36 0 8)
    rampStep := if fld b 40 8 1 = 1 then s.pwr.rampStep else BitVec.ofNat 8 (fld b 40 0 8) } }
  .done (if s.pwr.vinNow < s.pwr.vinWarn then s.vinLow s.pwr.vinNow else s) []

/-- `PWR_LIMITS_SET`. -/
def cmdPwrLimitsSet : CmdDef :=
  { CmdDef.plain 0x0203 44 modeCtl
      [⟨0, 32, 0, 16, .clamp 5600 30000⟩, ⟨1, 36, 0, 8, .clamp 60 110⟩, ⟨2, 40, 0, 8, .any⟩, ⟨3, 40, 8, 1, .any⟩] limitsSetAct with
    checks := fun s j => refuseIf (changesRamp s j.args &&
      (!s.starts.isEmpty || (allFin 16).any fun g => s.groups[g.val].mode = .waveform && s.groupInRun g)) stBusy 2 }

/-- `PWR_LIMITS_SET`: the row. -/
def execPwrLimitsSet (p : Pkt) (s : State) : Host.Outcome State Fault Refusal := .next (cmdPwrLimitsSet.fetch p s)

/-- The body of `PWR_TELEMETRY`. -/
def State.telemetryBody (s : State) (m : Nat) : Words :=
  [s.pwr.vin.setWidth 32, s.pwr.iin, s.pwr.pin, s.pwr.vbus.setWidth 32,
   s.pwr.vinMin.setWidth 32, s.pwr.iinMax, s.pwrFlags, s.pwr.lastOff.setWidth 32] ++
    numWords 12 (s.pwr.temps.toList.foldr (fun t a => t.toNat + a * 65536) 0) ++
    (domainsOf m).flatMap fun n => [(s.pwr.domains[n.val].rail).setWidth 32, s.pwr.domains[n.val].current]

/-- `PWR_TELEMETRY` (R404). -/
def telemetryAct (j : Job) (s : State) : Act :=
  let m := fld j.args 32 0 64
  let body := s.telemetryBody m
  let avg := BitVec.ofNat 5 (fld j.args 40 0 5)
  let s := { s with pwr := { s.pwr with
    telMask := BitVec.ofNat 64 m, avgLog := avg
    sumN := if avg = s.pwr.avgLog then s.pwr.sumN else 0, sums := if avg = s.pwr.avgLog then s.pwr.sums else [] } }
  .done (if fld j.args 40 8 1 = 1 then
      { s with rsc := { s.rsc with droopSeen := false }
               pwr := { s.pwr with vinMin := 0xFFFF, iinMax := 0, lastOff := 0 } }
    else s) body

/-- `PWR_TELEMETRY`. -/
def cmdPwrTelemetry : CmdDef :=
  .plain 0x0204 44 modeAny [⟨0, 32, 0, 64, .any⟩, ⟨1, 40, 0, 5, .clamp 0 16⟩, ⟨2, 40, 8, 1, .any⟩] telemetryAct

/-- `PWR_TELEMETRY`: the row. -/
def execPwrTelemetry (p : Pkt) (s : State) : Host.Outcome State Fault Refusal := .next (cmdPwrTelemetry.fetch p s)

/-! Events. -/

/-- `DOMAIN_RAMPED` (R392): a RAMPING domain that has its supply, its parent being ON, becomes ON (R405). -/
def execDomainRamped (n : Fin 64) (s : State) : Host.Outcome State Fault Refusal :=
  .next (
    let ready : Bool := match domainParent n with
      | none => true
      | some p => s.pdOn p
    if s.pwr.domains[n.val].st = .ramping && !s.pwr.domains[n.val].lost && ready then ((s.domainUp n).dropRamp n).settlePower
    else s)

/-- `VIN_WARNING` (R400). DESIGN CHOICE: the levels of the voltage rows are the typical ones of R492 (log entry 76). -/
def execVinWarning (mv : BitVec 16) (s : State) : Host.Outcome State Fault Refusal :=
  .next (if s.pwr.supply = .on && mv < s.pwr.vinWarn then (s.seeVin mv).vinLow mv else s)

/-- `VIN_RECOVERED` (R400): 0.2 V above the warning level. -/
def execVinRecovered (mv : BitVec 16) (s : State) : Host.Outcome State Fault Refusal :=
  .next (if s.pwr.flagVin && decide (s.pwr.vinWarn.toNat + 200 ≤ mv.toNat) then
      ({ s with pwr := { s.pwr with flagVin := false, vinNow := mv } }).raise 1 1 0 (detail [(0, 2, s.pwr.vinLow.toNat)])
    else s)

/-- `OVERVOLTAGE_WARNING` (R385): once per excursion. -/
def execOvervoltageWarning (mv : BitVec 16) (s : State) : Host.Outcome State Fault Refusal :=
  .next (if s.pwr.supply = .on && !s.pwr.flagOv && decide (42000 < mv.toNat) then
      ({ s with pwr := { s.pwr with flagOv := true, vinNow := mv } }).raise 2 3 0 (detail [(0, 1, 0), (2, 2, mv.toNat)])
    else s)

/-- `OVERVOLTAGE_CLEARED` (R385). -/
def execOvervoltageCleared (s : State) : Host.Outcome State Fault Refusal :=
  .next { s with pwr := { s.pwr with flagOv := false } }

/-- `CURRENT_LIMIT` (R386): once per excursion. -/
def execCurrentLimit (s : State) : Host.Outcome State Fault Refusal :=
  .next (if s.pwr.supply = .on && !s.pwr.flagIlim then
      ({ s with pwr := { s.pwr with flagIlim := true } }).raise 6 2 0 (detail [(0, 1, 2)])
    else s)

/-- `CURRENT_LIMIT_RELEASED` (R386). -/
def execCurrentLimitReleased (s : State) : Host.Outcome State Fault Refusal :=
  .next { s with pwr := { s.pwr with flagIlim := false } }

/-- `BUDGET_VIN` (R397): once per excursion; no reservation is withdrawn. -/
def execBudgetVin (mv : BitVec 16) (s : State) : Host.Outcome State Fault Refusal :=
  .next (if s.pwr.supply = .on && !s.pwr.flagBudget && decide (mv.toNat < s.pwr.vb) then
      ({ s with pwr := { s.pwr with flagBudget := true, vinNow := mv } }).raise 6 2 0 (detail [(0, 1, 1)])
    else s)

/-- `BUDGET_VIN_RECOVERED` (R397). -/
def execBudgetVinRecovered (s : State) : Host.Outcome State Fault Refusal :=
  .next { s with pwr := { s.pwr with flagBudget := false } }

/-- `TEMP_WARNING` (R402): the sensor's event when it is armed; `THERM_N` while any sensor is at or above `TEMP_WARN`. -/
def execTempWarning (i : Fin 24) (temp : BitVec 16) (s : State) : Host.Outcome State Fault Refusal :=
  .next (if s.pwr.supply = .on && decide (2 * (s.pwr.tempWarn.toNat : Int) ≤ temp.toInt) then
      let armed := s.pwr.sensorArmed[i.val]
      let s := { s with pwr := { s.pwr with
        sensorHot := upd s.pwr.sensorHot i fun _ => true, sensorArmed := upd s.pwr.sensorArmed i fun _ => false, thermN := true } }
      if !armed then s
      else if i.val < 8 then s.raise 3 2 0 (detail [(0, 1, 0), (1, 1, i.val), (2, 2, temp.toNat)])
      else
        let d : Fin 4 := ⟨(i.val - 8) / 4, by omega⟩
        s.raiseDie d 32 2 d.val (detail [(0, 1, i.val), (2, 2, temp.toNat)])
    else s)

/-- `TEMP_WARNING_CLEARED` (R402): a sensor falls below `TEMP_WARN`, and 5 °C below it its event is armed again; `THERM_N` is
released when no sensor is at or above it. -/
def execTempWarningCleared (i : Fin 24) (temp : BitVec 16) (s : State) : Host.Outcome State Fault Refusal :=
  .next (if s.pwr.supply = .on && decide (temp.toInt < 2 * (s.pwr.tempWarn.toNat : Int)) then
      let hot := upd s.pwr.sensorHot i fun _ => false
      let arm : Bool := decide (temp.toInt + 10 ≤ 2 * (s.pwr.tempWarn.toNat : Int))
      { s with pwr := { s.pwr with
        sensorHot := hot, sensorArmed := upd s.pwr.sensorArmed i fun x => x || arm, thermN := hot.toList.any id } }
    else s)

/-- `STACK_HOT` (09, R257; `MEM_STACK_STATE`): a stack reports its temperature, a two's complement number. `HOT` stands while it
is above 85 °C, and `E003` is raised as it rises. -/
def execStackHot (n : Fin 4) (temp : Byte) (s : State) : Host.Outcome State Fault Refusal :=
  .next (if s.pdOn ⟨6 + n.val, by omega⟩ then
      let was := s.mem.hbm[n.val].hot
      let hot : Bool := decide (85 < temp.toInt)
      let s := s.modStack n fun x => { x with temp := temp, hot := hot }
      if hot && !was then s.raise 3 2 n.val (detail [(0, 1, 2), (2, 2, 2 * temp.toNat)]) else s
    else s)

/-- `DOMAIN_CUT_OFF` (R405) of a domain with supply other than `PD00`, whose cut-off is a power-on reset. -/
def State.cutOff (s : State) (n : Fin 64) (ma : Word) (mv : BitVec 16) : State :=
  let d := s.pwr.domains[n.val]
  if (d.st = .on || d.st = .ramping) && !d.lost then (s.faultDomain n ma.toNat mv.toNat).settlePower else s

/-- The measured values of a sample, sensors shifted to be positive: VIN, input current, bus, input power in µW, 24 sensors, 64
rails, 64 currents (R404). -/
def sampleValues (x : Sample) : List Nat :=
  [x.vin.toNat, x.iin.toNat, x.vbus.toNat, x.vin.toNat * x.iin.toNat] ++
    ((List.range 24).map fun i => ((x.temps.getD i 0).toInt + 32768).toNat) ++
    ((List.range 64).map fun i => (x.rails.getD i 0).toNat) ++ (List.range 64).map fun i => (x.amps.getD i 0).toNat

/-- The averages of a window's sums over `n` samples. -/
def Power.average (p : Power) (sums : List Nat) (n : Nat) : Power :=
  let avg (i : Nat) : Nat := sums.getD i 0 / n
  { p with
    sums := [], sumN := 0, vin := BitVec.ofNat 16 (avg 0), iin := BitVec.ofNat 32 (avg 1), vbus := BitVec.ofNat 16 (avg 2)
    pin := BitVec.ofNat 32 (avg 3 / 100000)
    temps := Vector.ofFn fun i => BitVec.ofInt 16 ((avg (4 + i.val) : Int) - 32768)
    domains := Vector.ofFn fun i =>
      { p.domains[i.val] with rail := BitVec.ofNat 16 (avg (28 + i.val)), current := BitVec.ofNat 32 (avg (92 + i.val)) } }

/-- `TELEMETRY_SAMPLE` (R400, R404): extremes at once; averages when the window of 2^`AVG_LOG` samples is full. -/
def execTelemetrySample (x : Sample) (s : State) : Host.Outcome State Fault Refusal :=
  .next (if s.pwr.supply != .on then s
  else
    let sums := if s.pwr.sums.isEmpty then sampleValues x else List.zipWith (· + ·) s.pwr.sums (sampleValues x)
    let n := s.pwr.sumN + 1
    let p := { s.pwr with
      sums := sums, sumN := n, vinNow := x.vin
      vinMin := if x.vin < s.pwr.vinMin then x.vin else s.pwr.vinMin
      vinLow := if s.pwr.flagVin && x.vin < s.pwr.vinLow then x.vin else s.pwr.vinLow
      iinMax := if s.pwr.iinMax < x.iin then x.iin else s.pwr.iinMax }
    { s with pwr := if n < 2 ^ s.pwr.avgLog.toNat then p else p.average sums n })

end Sys2Proof.Machine
end

