-- ==== Sys2Proof/Machine/BootEvents.lean ====
section
/-! DEFINITION. Power-on, start-up and resets as they happen (spec/12_modes_startup_reset.md, R351 to R361;
spec/14_power.md, R383 to R387, R401, R403; spec/13_clocks.md, R370). -/

namespace Sys2Proof.Machine

/-! Power lost and power on. -/

/-- The undefined ranges of a power-on, with free values of their own (log entry 5). -/
def undefAnew (from_ : Nat) : List Undef := Mem.resetUndef.map fun u => { u with tag := u.tag.map (· + from_) }

/-- The write of an NV block that a loss of power tears leaves the block's other copy in force (15, R419), or the other boot record
(R358; 08, R248). -/
def State.tornWrite (s : State) : State :=
  match s.sec.nvJobs with
  | [] => s
  | x :: _ => match x.what, x.blocks with
    | .bootRec i _, _ => { s with sec := { s.sec with bootRecs := upd s.sec.bootRecs i fun _ => none } }
    | _, b :: _ => s.setNvBlock b (s.nvBlock b).torn
    | _, [] => s

/-- The device loses power (R356; 14, R387, R401): what survives is the NV store, the fuses, what is fitted, and the cause of
the loss, which VIN feeds. -/
def State.powerLost (s : State) (sup : Supply) (cause : BitVec 8) (det : BitVec 128) (sensor : BitVec 8) : State :=
  let r := State.reset
  let s := s.tornWrite
  { r with
    pwr := { r.pwr with vinNow := s.pwr.vinNow, supply := sup, lastOff := cause, offDetail := det, offSensor := sensor, thermN := decide (sup = .tripStop) }
    mem := { r.mem with undef := undefAnew s.free, hbm := s.mem.hbm.map fun (x : Stack) => { Stack.reset with present := x.present } }
    net := { r.net with dies := s.net.dies.map DieLink.startOver }
    sec := { r.sec with
      owner := s.sec.owner, counters := s.sec.counters, bootRecs := s.sec.bootRecs, nv := s.sec.nv, refreshS := s.sec.refreshS
      refreshN := s.sec.refreshN, laneMaps := s.sec.laneMaps, hbmRepairs := s.sec.hbmRepairs, draws := s.sec.draws }
    bist := { r.bist with units := s.bist.units.map fun (u : BistUnit) => u.startOver true }
    rsc := { r.rsc with resetLow := s.rsc.resetLow }
    out := s.out, free := s.free + 64, pending := s.pending }

/-- A power-on reset by any cause but VIN below 5.0 V waits for the NV block that is being written (R358). -/
def State.losePower (s : State) (x : PowerLoss) : State :=
  if s.nvBusy then { s with pwr := { s.pwr with loss := some (s.pwr.loss.getD x) }, rsc := { s.rsc with deferred := some .powerOn } }
  else s.powerLost x.supply x.cause x.detail x.sensor

/-- Start-up step 1 begins: the bus soft-starts. -/
def State.softStart (s : State) : State :=
  ({ s with pwr := { s.pwr with supply := .soft, thermN := false } }).bootStep 1

/-- `POWER_ON` (R351 step 1): VIN above 5.8 V. DESIGN CHOICE: this and every voltage row below acts by the typical level of R492 (log
entry 76). The cause of the last loss of power is forgotten where VIN has meanwhile been at its
lowest below 3.0 V (14, R387). -/
def execPowerOn (mv low : BitVec 16) (s : State) : Host.Outcome State Fault Refusal :=
  let t := if low.toNat < 3000 then { s with pwr := { s.pwr with lastOff := 0, offDetail := 0, offSensor := 0 } } else s
  .next (if s.pwr.supply = .off && decide (5800 < mv.toNat) then (t.seeVin mv).softStart else s)

/-- Step 4 starts the root PLL; where it is still locked, step 5 begins at once (R356), and from a coast with the reference
present it ramps (13, R382). -/
def State.lockPll (s : State) : State :=
  match s.clk.pll with
  | .locked => ({ s with clk := { s.clk with mux := 0b111111 } }).bootStep 5
  | .coasting | .ramping => { s with clk := { s.clk with pll := if s.clk.refOk then .ramping else .locking, relock := none } }
  | _ => { s with clk := { s.clk with pll := .locking } }

/-- The endpoint answers with retry status (R354). -/
def State.holdPcie (s : State) : State := { s with hif := { s.hif with crs := true } }

/-- Steps 3 and 4 (R351, R352, R354, R508): `BOOTSEL` is sampled in step 3, and configuration requests are answered with retry
status from the start of step 4. While `RESET_N` is low the device stays in step 3 (R357). -/
def State.bootClock (s : State) (bootsel : BitVec 2) : State :=
  let s := s.bootStep 3
  if s.rsc.resetLow then s
  else
    let s := { s with rsc := { s.rsc with bootsel := bootsel } }
    (((s.bootDomains [1, 2]).bootStep 4).holdPcie.bootDomains [15, 3]).lockPll

/-- The event that tells the cause of the last loss of power, at the end of step 2 (14, R387). -/
def State.restartEvent (s : State) : State :=
  match s.pwr.lastOff.toNat with
  | 2 => s.raise 2 3 0 (detail [(0, 1, 1), (2, 2, bitsOf s.pwr.offDetail.toNat 0 16)])
  | 3 => s.raise 3 4 0 (detail [(0, 1, 1), (1, 1, s.pwr.offSensor.toNat), (2, 2, bitsOf s.pwr.offDetail.toNat 0 16)])
  | 4 => s.raise 6 4 0 (detail [(0, 1, 3)])
  | 5 => s.raise 7 4 0 (detail [(0, 1, 0), (4, 4, bitsOf s.pwr.offDetail.toNat 0 32), (8, 2, bitsOf s.pwr.offDetail.toNat 32 16)])
  | _ => s

/-- `SOFT_START_END` (R351 steps 1 to 4; 14, R394): the bus is in regulation, `VB` is taken from VIN, `PD00` comes up,
`BOOTSEL` is sampled. -/
def execSoftStartEnd (mv : BitVec 16) (bootsel : BitVec 2) (i2cAddr : BitVec 3) (s : State) : Host.Outcome State Fault Refusal :=
  .next (if s.pwr.supply != .soft then s
  else
    let s := { s with pwr := { s.pwr with supply := .on, vb := clampNat 6000 40000 (roundVb mv.toNat), cap := 4500, vinNow := mv } }
    let s := (s.bootStep 2).bootDomain 0
    let s := s.restartEvent
    ({ s with rsc := { s.rsc with i2cAddr := i2cAddr } }).bootClock bootsel)

/-- `PLL_LOCK` (13, R370; R351 step 4): the domains switch to the root dividers. -/
def execPllLock (s : State) : Host.Outcome State Fault Refusal :=
  .next (if s.clk.pll = .locking || (s.clk.pll = .ramping && s.rsc.bootStep = 4 && !s.rsc.startupDone) then
      let s := s.pllLocks
      let s := { s with clk := { s.clk with refOk := true, mux := 0b111111 } }
      if s.rsc.bootStep = 4 then s.bootStep 5 else s
    else s)

/-- `PLL_LOCK_TIMEOUT` (R353, R354): the domains stay on the bypass, and the firmware starts on it; the PCIe block has no clock.
The cause is written when SAFE is entered (R350). A reference lost in the ramp of this step (13, R378, R382) ends here too. -/
def execPllLockTimeout (s : State) : Host.Outcome State Fault Refusal :=
  .next (if (s.clk.pll = .locking || s.clk.pll = .ramping || s.clk.pll = .coasting) && s.rsc.bootStep = 4 && !s.rsc.startupDone then
      (({ s with clk := { s.clk with pll := .off, coast := false, mux := 0 } }).pcieDown 1).bootStep 5
    else s)

/-- The blocks of the NV store that read as empty (15, R419): those that the boot ROM finds, and those known to have lost both copies
to torn writes. -/
def State.lostBlocks (s : State) (fw : FwImage) : State :=
  let known := (s.sec.nv.filter fun e => e.2.lost).map (·.1)
  let l := fw.lostNv.map BitVec.toNat
  (l ++ known.filter fun b => !l.contains b).foldl (fun s b => s.nvLost b) s

/-- `FIRMWARE_VERIFIED` (R353, R356; 15, R409): the firmware starts or is refused. In start-up, step 6 follows, or SAFE; after
a Queen reset the mode is kept, but for a refusal in BOOT (log entry 32). Blocks of the NV store that the boot ROM cannot read are
found first (15, R419; log entry 47). -/
def execFirmwareVerified (fw : FwImage) (s : State) : Host.Outcome State Fault Refusal :=
  .next (
    let again := s.rsc.startupDone
    let locked : Bool := s.clk.pll = .locked || s.clk.pll = .coasting || s.clk.pll = .ramping
    if s.queen.up || s.queen.refused || (!again && s.rsc.bootStep != 5) || !s.pdOn 0 || !s.pdOn 1 then s
    else if (s.lostBlocks fw).fwAccepted fw then
      let s := (s.lostBlocks fw).firmwareUp fw again
      if again then s else if locked then s.bootStacks else s.bootSafe 0x0011 true
    else
      let s := s.lostBlocks fw
      let s := { s with queen := { s.queen with refused := true } }
      if again && s.rsc.mode != .boot then s
      else s.bootSafe (if locked then 0x0010 else 0x0011) true)

/-- `CRS_TIMEOUT` (R354). -/
def execCrsTimeout (s : State) : Host.Outcome State Fault Refusal := .next { s with hif := { s.hif with crs := false } }

/-- `VIN_BELOW_RESET` (14, R401, R403): a power-on reset; a thermal trip ends with it, its cause kept. DESIGN CHOICE: the warning of
R400 comes with the row `VIN_WARNING` as VIN passes that level, and this row raises none (log entry 76). -/
def execVinBelowReset (s : State) : Host.Outcome State Fault Refusal :=
  .next (match s.pwr.supply with
    | .off => s
    | .tripStop => { s with pwr := { s.pwr with supply := .off } }
    | .ovStop => { s with pwr := { s.pwr with supply := .off } }
    | _ => s.powerLost .off 1 0 0)

/-- `OVERVOLTAGE_SHUTDOWN` (14, R385). -/
def execOvervoltageShutdown (mv : BitVec 16) (s : State) : Host.Outcome State Fault Refusal :=
  .next (if (s.pwr.supply = .on || s.pwr.supply = .soft) && decide (45000 < mv.toNat) then
      (s.seeVin mv).losePower ⟨.ovStop, 2, mv.setWidth 128, 0⟩
    else s)

/-- `OVERVOLTAGE_RESTART` (14, R385): start-up from step 1. -/
def execOvervoltageRestart (mv : BitVec 16) (s : State) : Host.Outcome State Fault Refusal :=
  .next (if s.pwr.supply = .ovStop && decide (5800 ≤ mv.toNat) && decide (mv.toNat ≤ 42000) then (s.seeVin mv).softStart else s)

/-- `REVERSE_VIN` (14, R384): blocked; nothing starts. -/
def execReverseVin (s : State) : Host.Outcome State Fault Refusal := .next s

/-- `BUS_COLLAPSE` (14, R386): conversion stops; start-up runs again when VIN rises above 5.8 V. -/
def execBusCollapse (s : State) : Host.Outcome State Fault Refusal :=
  .next (if s.pwr.supply = .on || s.pwr.supply = .soft then s.losePower ⟨.off, 4, 0, 0⟩ else s)

/-- `THERMAL_TRIP` (14, R403): at 115 °C the power die stops conversion and holds `THERM_N`. -/
def execThermalTrip (i : Fin 24) (temp : BitVec 16) (s : State) : Host.Outcome State Fault Refusal :=
  .next (if (s.pwr.supply = .on || s.pwr.supply = .soft) && decide (230 ≤ temp.toInt) then
      s.losePower ⟨.tripStop, 3, temp.setWidth 128, BitVec.ofNat 8 i.val⟩
    else s)

/-- `DOMAIN_CUT_OFF` (14, R405); that of `PD00` is a power-on reset. -/
def execDomainCutOff (n : Fin 64) (ma : Word) (mv : BitVec 16) (s : State) : Host.Outcome State Fault Refusal :=
  .next (if n = 0 then
      (if s.pdOn 0 then s.losePower ⟨.off, 5, BitVec.ofNat 128 (ma.toNat + mv.toNat * 2 ^ 32), 0⟩ else s)
    else s.cutOff n ma mv)

/-! Resets (R356 to R361). -/

/-- A device reset takes place, or waits for the NV block being written (R358); start-up follows unless `RESET_N` is low. During
the start-up of a power-on it is absorbed (R356). -/
def State.raiseDevice (s : State) (bootsel : BitVec 2) : State :=
  if !s.pdOn 0 || s.powerOnRuns || s.rsc.deferred = some .powerOn then s
  else if s.nvBusy then { s with rsc := { s.rsc with deferred := some .device, armedReset := none } }
  else
    s.deviceReset.bootClock bootsel

/-- A Queen reset takes place (R356): absorbed until start-up has ended. -/
def State.raiseQueen (s : State) : State :=
  if !s.pdOn 0 || !s.rsc.startupDone || s.rsc.deferred.isSome then s
  else
    let s := s.queenReset
    { s with queen := { s.queen with refused := false } }

/-- `RESET_BEGIN` (R360): 10 µs after the reply of `SYS_RESET`. -/
def execResetBegin (bootsel : BitVec 2) (s : State) : Host.Outcome State Fault Refusal :=
  .next (match s.rsc.armedReset with
    | none => s
    | some .queen => ({ s with rsc := { s.rsc with armedReset := none } }).raiseQueen
    | some _ => ({ s with rsc := { s.rsc with armedReset := none } }).raiseDevice bootsel)

/-- `DEVICE_RESET` (R357): `RESET_N` held low; the device stays in BOOT at step 3 until it returns high, when `BOOTSEL` is
sampled. -/
def execDeviceReset (s : State) : Host.Outcome State Fault Refusal :=
  .next (({ s with rsc := { s.rsc with resetLow := true } }).raiseDevice 0)

/-- `RESET_N_RELEASE` (R357): start-up that waited in step 3 goes on. -/
def execResetNRelease (bootsel : BitVec 2) (s : State) : Host.Outcome State Fault Refusal :=
  .next (if !s.rsc.resetLow then s
  else
    let s := { s with rsc := { s.rsc with resetLow := false } }
    if s.rsc.deferred.isNone && s.pdOn 0 && s.rsc.bootStep = 3 && !s.rsc.startupDone then s.bootClock bootsel else s)

/-- `DEFERRED_RESET` (R358): the block being written has been written. -/
def execDeferredReset (bootsel : BitVec 2) (s : State) : Host.Outcome State Fault Refusal :=
  .next (if s.rsc.deferred.isSome && !s.nvBusy then match s.pwr.loss with
    | some x => s.losePower x
    | none => ({ s with rsc := { s.rsc with deferred := none } }).raiseDevice bootsel else s)

/-- `PCIE_RESET` (02, R26, R57): absorbed while a start-up runs (R356); in HIBERNATE it does not wake the device and takes effect
when the wake completes (R367). -/
def execPcieReset (s : State) : Host.Outcome State Fault Refusal :=
  .next (if !s.rsc.startupDone then s
    else if s.rsc.hib != .awake then { s with rsc := { s.rsc with pcieHeld := true } }
    else s.pcieReset)

/-- `PCIE_LINK_UP` (18, R463; R354): the link comes up, which needs its domain, the root PLL, from which
alone the PCIe block runs (13, R372), and the reference of its PHY (13, R375). -/
def execPcieLinkUp (ptm : Bool) (s : State) : Host.Outcome State Fault Refusal :=
  .next (if s.pdOn 3 && s.clk.runs && s.clk.refOk && !s.hif.pcieUp && s.rsc.hib != .asleep && s.rsc.hib != .entering then
      ({ s with hif := { s.hif with pcieUp := true, ptmOn := ptm } }).raise 46 1 0 (detail [(0, 1, 1)])
    else s)

/-- `QUEEN_WATCHDOG` (R361): the Queen core is held halted; everything else runs on. A debug halt freezes it (16, R443). -/
def execQueenWatchdog (pc : Word) (s : State) : Host.Outcome State Fault Refusal :=
  .next (if s.queen.up && !s.queen.halted && !s.queen.dbgHalt then
      ({ s with queen := { s.queen with halted := true } }).raise 39 4 0 (detail [(0, 4, pc.toNat)])
    else s)

end Sys2Proof.Machine
end

