-- ==== Sys2Proof/Machine/ClkCmds.lean ====
section
/-! DEFINITION. Clocks (spec/13_clocks.md): `CLK_STATUS`, `CLK_SELECT`, `CLK_OUT_SET`, `CLK_MEASURE`, and the loss, the return
and the relock of the reference. -/

namespace Sys2Proof.Machine

/-- `CLK_STATUS`: PLL, muxes, coast history and outputs. -/
def cmdClkStatus : CmdDef :=
  .plain 0x0300 32 modeAny [] fun _ s =>
    .done s [s.pllState, s.clk.mux.setWidth 32, s.clk.coastCount, s.clk.lastCoastNs, s.clk.lastCoastS,
      BitVec.ofNat 32 (packBools (s.clk.outs.toList.map (·.en)))]

/-- `CLK_STATUS`: the row. -/
def execClkStatus (p : Pkt) (s : State) : Host.Outcome State Fault Refusal := .next (cmdClkStatus.fetch p s)

/-! Muxes (R372 to R374). -/

/-- A link loses latency lock (10, R295): its state becomes UP and `E045` gives the first lane past its limit. -/
def State.loseLock (s : State) (d : Fin 4) (lane : BitVec 16) : State :=
  if s.net.dies[d.val].st != .locked then s
  else (s.modDie d fun x => { x with st := .up }).raise 45 3 d.val (detail [(0, 2, lane.toNat)])

/-- Is a source ready (R373)? -/
def State.sourceReady (s : State) (divider : Bool) : Bool :=
  if divider then s.clk.pll = .locked || s.clk.pll = .coasting else s.clk.refOk

/-- What stands against `CLK_SELECT` (R373, R374, R378; log entry 33). -/
def clkSelectCheck (s : State) (j : Job) : Option Verdict :=
  let m := fld j.args 32 0 6
  if fld j.args 32 16 1 = 1 then refuseIf (s.clk.pll != .coasting || !s.clk.refOk) stNotReady
  else firstOf
    [refuseIf (!s.sourceReady (fld j.args 32 8 1 = 1)) stNotReady,
     refuseIf ((allFin 4).any (fun d => m.testBit d.val && (s.dieFunctions d || s.dieRegionRuns d)) ||
       (m.testBit 4 && decide (0 < s.functions))) stBusy 0]

/-- The muxes of a mask switch; a comb die on the bypass loses its latency lock (R374). -/
def State.switchMuxes (s : State) (m : Nat) (divider : Bool) : State :=
  let mask : BitVec 6 := BitVec.ofNat 6 m
  let s := { s with clk := { s.clk with mux := if divider then s.clk.mux ||| mask else s.clk.mux &&& ~~~mask } }
  if divider then s
  else forAll ((allFin 4).filter fun d => m.testBit d.val) (fun d s =>
    let (v, s) := s.drawFree
    s.loseLock d (v.setWidth 16)) s

/-- `CLK_SELECT` (R374, R378): muxes 0 to 4 switch, the Queen core's after the reply; or the PLL ramps. -/
def clkSelectAct (j : Job) (s : State) : Act :=
  let m := fld j.args 32 0 6
  let divider := fld j.args 32 8 1 = 1
  if fld j.args 32 16 1 = 1 then .stay { s with clk := { s.clk with pll := .ramping, relock := some j.key } }
  else
    let s := s.switchMuxes (m % 32) divider
    if m.testBit 5 then .stay (s.commitDone { j with after := .queenMux divider } []) else .done s []

/-- `CLK_SELECT`. -/
def cmdClkSelect : CmdDef :=
  { CmdDef.plain 0x0301 36 (fun s p => modeSrm s p && !(fld p.block 32 16 1 = 1 && s.rsc.mode = .ready))
      [⟨0, 32, 0, 6, .any⟩, ⟨1, 32, 8, 1, .any⟩, ⟨2, 32, 16, 1, .any⟩] clkSelectAct with
    naming := fun _ _ p => if (fld p.block 32 0 6 = 0) = (fld p.block 32 16 1 = 1) then [] else [0]
    checks := clkSelectCheck }

/-- `CLK_SELECT`: the row. -/
def execClkSelect (p : Pkt) (s : State) : Host.Outcome State Fault Refusal := .next (cmdClkSelect.fetch p s)

/-! Clock outputs (R379, R380). -/

/-- The output that a packet names. -/
def Pkt.clkOut (p : Pkt) : Fin 4 := Fin.ofNat 4 p.unit.toNat

/-- What stands against a use of the clock generation: its unit is marked or under test, `PD15` or the root is off (R372; 14, R390;
17, R446, R453). -/
def checkClkGen (s : State) : Option Verdict :=
  firstOf [refuseIf (s.unitMarked 5) stUnusable, refuseIf (!s.pdOn 15 || !s.clk.runs) stNotReady, refuseIf (s.underTest 5) stBusy]

/-- `CLK_OUT_SET` (R380); without the root no output can be enabled (R372). -/
def cmdClkOutSet : CmdDef :=
  { CmdDef.plain 0x0302 40 modeCtl
      [⟨0, 32, 0, 1, .any⟩, ⟨1, 32, 16, 13, .clamp 16 4096⟩, ⟨2, 36, 0, 8, .clamp 0 200⟩, ⟨3, 36, 8, 8, .clamp 20 100⟩]
      (fun j s =>
        let o : ClkOut :=
          { en := fld j.args 32 0 1 = 1, div := BitVec.ofNat 13 (fld j.args 32 16 13)
            depth := BitVec.ofNat 8 (fld j.args 36 0 8), rate := BitVec.ofNat 8 (fld j.args 36 8 8)
            run := s.clk.outs[(Pkt.clkOut j.p).val].run }
        .done { s with clk := { s.clk with outs := upd s.clk.outs (Pkt.clkOut j.p) fun _ => o } } []) with
    unitMax := 3
    checks := fun s j =>
      if fld j.args 32 0 1 = 0 then none
      else firstOf [checkClkGen s, refuseIf s.clk.outs[(Pkt.clkOut j.p).val].en stBusy 0] }

/-- `CLK_OUT_SET`: the row. -/
def execClkOutSet (p : Pkt) (s : State) : Host.Outcome State Fault Refusal := .next (cmdClkOutSet.fetch p s)

/-- The period that begins at a position of the root count, in steps of 1/128 root tick (R379): 128 n without spread; with it, the
instantaneous frequency lies below f by the part of the depth that a triangle of the spread frequency gives at that position
(DESIGN CHOICE: the triangle starts at f when the output is enabled, log entry 55). -/
def OutRun.period (r : OutRun) : Nat :=
  let t := 128 * 16000000 / r.rate
  let x := (r.rise - 128 * r.from_) % t
  let whole := t * 1000000
  128 * r.div * whole / (whole - r.depth * 50 * min (2 * x) (2 * (t - x)))

/-- The next edge of an output (R379): high for ⌈n/2⌉ root ticks from each rising edge. -/
def OutRun.toggle (r : OutRun) : OutRun :=
  if r.high then { r with high := false, next := r.rise + r.period }
  else { r with high := true, rise := r.next, next := r.next + 128 * ((r.div + 1) / 2) }

/-- The waveform with an output's settings, at a root tick of a count since lock: from the first root tick whose count is a multiple
of n (R379). -/
def ClkOut.begin (o : ClkOut) (ticks count : Nat) : OutRun :=
  { div := o.div.toNat, depth := o.depth.toNat, rate := o.rate.toNat, from_ := ticks
    rise := 0, next := 128 * (ticks + (o.div.toNat * ceilDiv count o.div.toNat - count)), high := false, old := false }

/-- Has an output the settings that its waveform was begun with, and has the PLL kept the lock it was placed by? -/
def ClkOut.same (o : ClkOut) (r : OutRun) : Bool :=
  !r.old && o.en && o.div.toNat = r.div && o.depth.toNat = r.depth && o.rate.toNat = r.rate

/-- May the outputs drive (R380): `PD15` is on and the device is not in HIBERNATE? -/
def State.clkDrives (s : State) : Bool := s.pdOn 15 && s.rsc.hib = .awake

/-- The level at a clock output (R379, R380): high-impedance without `PD15` and in HIBERNATE, logical 0 between its waveforms. -/
def State.clkLevel (s : State) (n : Fin 4) : Level :=
  if !s.clkDrives then .hiz
  else match s.clk.outs[n.val].run with
    | some r => if r.high then .high else .low
    | none => .low

/-- One output changed. -/
def State.modOut (s : State) (n : Fin 4) (f : ClkOut → ClkOut) : State :=
  { s with clk := { s.clk with outs := upd s.clk.outs n f } }

/-- The edges of an output up to the root count: an output that has been disabled, or set anew, finishes its period (R380); so does
one placed by the count of an earlier lock, and it goes on by the new count (R370, R378). -/
def State.clkEdges (s : State) (n : Fin 4) : Nat → State
  | 0 => s
  | k + 1 => match s.clk.outs[n.val].run with
    | none => s
    | some r =>
      if 128 * s.clk.ticks < r.next then s
      else if !r.high && !s.clk.outs[n.val].same r then s.modOut n fun o => { o with run := none }
      else ((s.modOut n fun o => { o with run := some r.toggle }).emit (.clkEdge n (!r.high) r.next)).clkEdges n k

/-- An output in one cycle of 16 root ticks, in which no more than four edges fall (n is at least 16): it stops where it may not
drive, begins where it is enabled, and gives its edges. -/
def State.clkOutCycle (s : State) (n : Fin 4) : State :=
  let o := s.clk.outs[n.val]
  if !s.clkDrives then (if o.run.isSome then s.modOut n fun o => { o with run := none } else s)
  else
    let s := if o.en && o.run.isNone then s.modOut n fun o => { o with run := some (o.begin s.clk.ticks s.clk.count.toNat) } else s
    s.clkEdges n 4

/-! Frequency counters (R381). -/

/-- The counters that a block names. -/
def countersOf (b : Words) : List Nat := (List.range 8).filter (fld b 32 0 8).testBit
/-- Kind and port of a counter. -/
def counterOf (b : Words) (c : Nat) : Nat × Fin 128 := (fld b (40 + 4 * c) 0 3, Fin.ofNat 128 (fld b (40 + 4 * c) 8 7))

/-- The fields of `CLK_MEASURE`. -/
def measureFields : List Field :=
  [⟨0, 32, 0, 8, .names (· != 0)⟩, ⟨1, 32, 8, 5, .clamp 0 20⟩] ++ (List.range 8).flatMap fun c =>
    [⟨2 + 2 * c, 40 + 4 * c, 0, 3, .names (· < 4)⟩, ⟨3 + 2 * c, 40 + 4 * c, 8, 7, .any⟩]

/-- The root ticks until gates open: the first at least 2 µs after processing (R381); a coasting root makes 8 in a nanosecond. -/
def State.gateLead (s : State) : Nat := if s.clk.coast then 16000 else 32000

/-- `CLK_MEASURE` (R381): kind 2 needs a protocol port; the counters need `PD15` and the root (R372; 14, R390). -/
def cmdClkMeasure : CmdDef :=
  { CmdDef.plain 0x0303 72 modeOps measureFields
      (fun j s =>
        let m : Measure :=
          { key := some j.key, closes := s.clk.ticks + s.gateLead + 16000 * 2 ^ fld j.args 32 8 5, coast := s.clk.coast
            dies := (allFin 4).filter fun d => s.net.dies[d.val].fenced }
        .stay { s with clk := { s.clk with measures := s.clk.measures ++ [m] } }) with
    naming := fun s _ p => (countersOf p.block).filterMap fun c =>
      let (k, n) := counterOf p.block c
      if k = 2 && s.groups[(portGroup n).val].mode = .waveform then some (2 + 2 * c) else none
    checks := fun s _ => checkClkGen s }

/-- `CLK_MEASURE`: the row. -/
def execClkMeasure (p : Pkt) (s : State) : Host.Outcome State Fault Refusal := .next (cmdClkMeasure.fetch p s)

/-- The four words of a counter's result (R381): its edges and its status. -/
def Measure.words (m : Measure) (b : Words) (edges : List (BitVec 48)) (c : Nat) : Words :=
  let (k, n) := counterOf b c
  let e := (edges.getD c 0).toNat
  let st := if k != 3 && m.dies.contains (portDie n) then 2 else if m.coast then 3 else if e = 0 then 1 else 0
  numWords 4 (e + st * 2 ^ 48)

/-- The measurement in progress whose gates close first, the oldest of those that close together. -/
def firstToClose : List Measure → Option Measure
  | [] => none
  | m :: l => match firstToClose l with
    | none => some m
    | some n => if n.closes < m.closes then some n else some m

/-- `GATE_CLOSE` (R381): the gates that close first close, once their root tick has come. -/
def execGateClose (edges : List (BitVec 48)) (s : State) : Host.Outcome State Fault Refusal :=
  .next (match (firstToClose s.clk.measures).filter (decide <| ·.closes ≤ s.clk.ticks) with
    | none => s
    | some m =>
      let s := { s with clk := { s.clk with measures := s.clk.measures.erase m } }
      match m.key.bind s.job? with
      | none => s
      | some j => s.commitDone j ((countersOf j.args).flatMap (m.words j.args edges)))

/-! The reference (R371, R375 to R378). -/

/-- The dies whose mux stands on the bypass lose their clock (R376). -/
def State.bypassLost (s : State) : State :=
  forAll ((allFin 4).filter fun d => !s.clk.mux.getLsbD d.val && s.net.dies[d.val].clockOn)
    (fun d s => s.modDie d fun x => { x with clockOn := false }) s

/-- What loses its hold of the reference (R375): every protocol lane that has recovered its clock loses it until it is started
again (R378), every Laravo link goes DOWN, every locked Ndenu link loses its latency lock, and a `TB0` servo that runs enters HOLD
with cause 2 (11, R335). -/
def State.coastLinks (s : State) : State :=
  let hit : Fin 128 → Bool := fun n => s.ports[n.val].link = .cdrLock || s.ports[n.val].link = .aligned
  let s := forAll ((allFin 128).filter hit) (fun n s =>
    ((s.modPort n fun q => { q.count 4 with
      cdrLost := true, stale := true, sync := .loss, rxLine := [], rxChars := [], prbs := q.prbs.seed false }).setLink n .noSignal)) s
  let s := forAll ((allFin 16).filter fun l => s.swarm.links[l.val].st != .off) (fun l s => s.linkDrop l .down 10) s
  let s := forAll (allFin 4) (fun d s =>
    let (v, s) := s.drawFree
    s.loseLock d (v.setWidth 16)) s
  if s.servo.runs then s.servoHold 2 else s

/-- The root PLL coasts (R375, R376): the time is kept, measurements are marked, the refresh grid is suspended, links lose the
reference; a relock in progress ends with `TIMEOUT` and the PLL state (R378). -/
def State.coast (s : State) (cause : Nat) : State :=
  let job := s.clk.relock
  let s := { s with
    clk := { s.clk with
      pll := .coasting, coast := true, refOk := s.clk.refOk && cause = 2, relock := none
      coastCount := satAdd s.clk.coastCount 1, lastCoastNs := s.stampNs, lastCoastS := s.stampS
      measures := s.clk.measures.map fun (m : Measure) => { m with coast := true } }
    mem := { s.mem with gridOn := false } }
  let s := (s.raise 4 3 0 (detail [(0, 1, cause)])).coastLinks
  match job.bind s.job? with
  | some j => s.commitClose j ⟨stTimeout, 0xFF⟩ true [s.pllState]
  | none => s

/-- `REFERENCE_LOST` (R371, R375): no edge, frequency, or lock lost. A PLL that coasts already stays as it is, but for
`REF_OK`; so does one that does not run (log entry 33). -/
def execReferenceLost (cause : Fin 3) (s : State) : Host.Outcome State Fault Refusal :=
  .next (match s.clk.pll with
    | .locked | .ramping =>
      let s := (s.coast cause.val).pcieDown 1
      if cause = 2 then s else s.bypassLost
    | _ => if cause = 2 || !s.pdOn 0 then s else ({ s with clk := { s.clk with refOk := false } }).bypassLost)

/-- `REFERENCE_RESTORED` (R377): a reference good for 1 ms sets `REF_OK`, whatever the PLL's state; one that coasts goes on
coasting. -/
def execReferenceRestored (s : State) : Host.Outcome State Fault Refusal :=
  .next (if s.pdOn 0 && !s.clk.refOk then
      ({ s with clk := { s.clk with refOk := true } }).raise 5 1 0 0
    else s)

/-- `RELOCK_END` (R378): the PLL locks phase-continuously; the count since lock and the refresh grid start anew. -/
def execRelockEnd (s : State) : Host.Outcome State Fault Refusal :=
  .next (if s.clk.pll != .ramping || (s.rsc.bootStep = 4 && !s.rsc.startupDone) then s
  else
    let job := s.clk.relock
    let s := s.pllLocks
    let s := { s with mem := { s.mem with gridOn := true, refreshNs := s.stampNs, refreshS := s.stampS } }
    match job.bind s.job? with
    | some j => s.commitDone j []
    | none => s)

end Sys2Proof.Machine
end

