-- ==== Sys2Proof/Machine/SysCmds.lean ====
section
/-! DEFINITION. `SYS_NOP`, `SYS_IDENTIFY`, `SYS_INVENTORY` and `SYS_STATUS` (spec/19_command_reference.md). -/

namespace Sys2Proof.Machine

/-- `SYS_NOP` (R474): no parameters, no result. -/
def cmdSysNop : CmdDef := .plain 0x0000 32 modeAny [] fun _ s => .done s []

/-- `SYS_NOP`: the row. -/
def execSysNop (p : Pkt) (s : State) : Host.Outcome State Fault Refusal := .next (cmdSysNop.fetch p s)

/-- The key identifier of the owner, 0 when none is enrolled. -/
def State.ownerKeyId (s : State) : Word :=
  match s.sec.owner with
  | some o => o.keyId
  | none => 0

/-- The body of `SYS_IDENTIFY` (R476). -/
def State.identifyBody (s : State) : Words :=
  [hifId, BitVec.ofNat 32 (b2n Config.gradeI + bitAt Config.sample 1)] ++ word2 Config.identity.toNat ++
    [s.queen.fwVersion, 1, BitVec.ofNat 32 (s.swarm.id.toNat + (0x30 + s.rsc.i2cAddr.toNat) * 2 ^ 8), s.ownerKeyId]

/-- `SYS_IDENTIFY` (R476). -/
def cmdSysIdentify : CmdDef := .plain 0x0001 32 modeAny [] fun _ s => .done s s.identifyBody

/-- `SYS_IDENTIFY`: the row. -/
def execSysIdentify (p : Pkt) (s : State) : Host.Outcome State Fault Refusal := .next (cmdSysIdentify.fetch p s)

/-- Is a tile (numbered 1,536d + 32t + y) marked: its sector of 8 tile columns whole, or the tile itself (R477)? -/
def State.tileMarked (s : State) (i : Nat) : Bool :=
  let d := i / 1536
  let sector := i % 1536 / 32 / 8
  match at? s.bist.units (16 + 9 * d + sector) with
  | none => false
  | some u => u.marked || u.committed || u.elems.contains (.tile i) || u.elemsC.contains (.tile i)

/-- Is a RAM position (numbered 256d + 32r + y) marked? Cell RAM column `r` stands after tile column `6r + 2`, in the
sector of that column (07, R190, R191). -/
def State.ramMarked (s : State) (i : Nat) : Bool :=
  let d := i / 256
  (List.range 6).any fun sec => match at? s.bist.units (16 + 9 * d + sec) with
    | none => false
    | some u => ((u.marked || u.committed) && (6 * (i % 256 / 32) + 2) / 8 = sec) || u.elems.contains (.ram i) || u.elemsC.contains (.ram i)

/-- `SYS_INVENTORY.STATE`: groups marked, stacks frozen, dies fenced, stacks not READY (R477). -/
def State.inventoryState (s : State) : Nat :=
  packBools ((allFin 16).map s.groupMarked) + packBools (s.mem.hbm.toList.map (·.st = .frozen)) * 2 ^ 16 +
    packBools (s.net.dies.toList.map (·.fenced)) * 2 ^ 20 + packBools (s.mem.hbm.toList.map (·.st != .ready)) * 2 ^ 24

/-- The body of `SYS_INVENTORY` (R477). -/
def State.inventoryBody (s : State) : Words :=
  word2 (packBools ((allFin 64).map s.unitMarked)) ++ word2 (packBools (s.bist.units.toList.map (·.committed))) ++
    [BitVec.ofNat 32 (packBools ((allFin 32).map s.workerMarked)), BitVec.ofNat 32 s.inventoryState,
     BitVec.ofNat 32 (packBools ((allFin 16).map s.linkMarked)), 0] ++
    numWords 4 (packBools ((allFin 128).map s.portMarked)) ++
    numWords 32 (packBools ((List.range 1024).map s.ramMarked)) ++
    numWords 192 (packBools ((List.range 6144).map s.tileMarked)) ++
    word2 (packBools ((allFin 64).map s.domainMarked)) ++ [0, 0]

/-- `SYS_INVENTORY` (R477). -/
def cmdSysInventory : CmdDef := .plain 0x0002 32 modeAny [] fun _ s => .done s s.inventoryBody

/-- `SYS_INVENTORY`: the row. -/
def execSysInventory (p : Pkt) (s : State) : Host.Outcome State Fault Refusal := .next (cmdSysInventory.fetch p s)

/-- The forwarded commands in execution. -/
def State.forwardedCount (s : State) : Nat := s.tagsOn Path.isFwd

/-- The body of `SYS_STATUS` (R478). -/
def State.statusBody (s : State) : Words :=
  [s.hifStatus, s.rscStatus, s.rscCause, s.rscBoot, s.hifTags,
   BitVec.ofNat 32 (s.scheduledCount % 256 + s.forwardedCount % 256 * 2 ^ 8 + s.ev.latch.length * 2 ^ 16),
   s.stampNs, s.tb0.sec.setWidth 32, s.tbState 0, s.rscVin, s.pwrFlags,
   BitVec.ofNat 32 (packBools ((allFin 32).map s.workerActive))]

/-- `SYS_STATUS` (R478). -/
def cmdSysStatus : CmdDef := .plain 0x0005 32 modeAny [] fun _ s => .done s s.statusBody

/-- `SYS_STATUS`: the row. -/
def execSysStatus (p : Pkt) (s : State) : Host.Outcome State Fault Refusal := .next (cmdSysStatus.fetch p s)

end Sys2Proof.Machine
end

