-- ==== Sys2Proof/Machine/ConfigOps.lean ====
section
/-! DEFINITION. Configuration streams (spec/08_configuration.md, R223 to R240): frames, packets, what makes a stream well-formed,
signatures and envelopes, and the checks of staging. Offsets are byte offsets within the stream. -/

namespace Sys2Proof.Machine

/-! Frames (R223 to R228). -/

/-- Does a frame exist (R224)? -/
def frameExists (col minor : Nat) : Bool :=
  if col < 48 then minor < 73 else if col < 56 then minor < 10 else if col < 60 then minor = 0
  else if col = 60 then minor < 2 else if col = 61 then minor < 12 else false

/-- The length of a frame in words (R224). -/
def frameLen (col minor : Nat) : Nat := if 48 ≤ col ∧ col < 56 ∧ minor < 8 then 32768 else 320

/-- The frame that follows a frame of the same die (R235); none after the last. -/
def frameNext (col minor : Nat) : Option (Nat × Nat) :=
  if frameExists col (minor + 1) then some (col, minor + 1)
  else if col < 61 then some (col + 1, 0)
  else none

/-- A frame address (R223). -/
def frameAddr (d col minor : Nat) : Nat := d * 2 ^ 30 + col * 2 ^ 24 + minor * 2 ^ 16

/-- The bits of a frame word that are not reserved (R225 to R227). -/
def frameBits (col minor i : Nat) : Nat :=
  let k := i % 10
  if col < 48 then
    if minor < 64 then 0xFFFFFFFF
    else if minor < 72 then (if k < 8 then 0xFF7F7F7F else 0)
    else if k < 4 then 0x7F7F7F7F else 0
  else if col < 56 then
    if minor < 9 then 0xFFFFFFFF else if k < 4 then 0x7F7F7F7F else 0
  else if col < 60 then (if i < 50 then 0xFFFFFFFF else 0)
  else if col = 60 then (if i < 128 then (if minor = 0 then 0x37F03 else 0xFFFFFFFF) else 0)
  else if minor = 0 then (if i < 16 then 0x13F3F else 0)
  else if k < 8 then 0xFFFFFFFF else if k = 8 then 0xFF else 0

/-- May a frame of a die hold a word at an index: no reserved bit, a context position of at most 13, no crossing channel of
the die to itself (R236)? -/
def wordOk (d col minor i : Nat) (w : Nat) : Bool :=
  (w &&& frameBits col minor i) = w &&
    (!(col < 48 && 64 ≤ minor && minor < 72 && i % 10 < 8) || bitsOf w 27 4 ≤ 13) &&
    (!(col = 60 && minor = 0 && bitOf w 16) || bitsOf w 0 2 != d)

/-- A frame that a stream writes: its die, column and minor, the offset of its first word, and its words. -/
structure Frame where
  die   : Nat
  col   : Nat
  minor : Nat
  off   : Nat
  words : Words

/-- The region table entries of a frame of column 61, minor 0. -/
def tableOf (ws : Words) : List (Bool × Nat × Nat) :=
  (ws.take 16).map fun w => (w.getLsbD 16, bitsOf w.toNat 0 6, bitsOf w.toNat 8 6)

/-- Are two valid regions disjoint or nested, and not equal (R228)? -/
def regionsAgree (a b : Bool × Nat × Nat) : Bool :=
  !a.1 || !b.1 ||
    (let al := a.2.1; let ar := a.2.1 + a.2.2; let bl := b.2.1; let br := b.2.1 + b.2.2
     (ar ≤ bl || br ≤ al) || (((al ≤ bl && br ≤ ar) || (bl ≤ al && ar ≤ br)) && !(al = bl && ar = br)))

/-- Is a region table valid (R228)? -/
def tableOk : List (Bool × Nat × Nat) → Bool
  | [] => true
  | r :: l =>
    (!r.1 || (r.2.1 % 4 = 0 && r.2.2 % 4 = 0 && 4 ≤ r.2.2 && r.2.1 + r.2.2 ≤ 48)) && l.all (regionsAgree r) && tableOk l

/-! Packets (R233 to R236). -/

/-- What a scan of a stream has found; `begun` is set by its first burst, even an empty one (R236), and `crcAt` counts the frames
before the first `CRC` packet that does not match. -/
structure Scan where
  mask     : Option Nat
  idAt     : Nat
  baseId   : Word
  region   : Option Nat
  regionAt : Nat
  release  : Option Bool
  version  : Option (Nat × Word)
  next     : Option (Nat × Nat × Nat)
  frames   : List Frame
  sum      : Words
  begun    : Bool
  crcAt    : Option Nat
  bad      : Option Nat
  endAt    : Option Nat

/-- A scan that has found nothing. -/
def Scan.start : Scan :=
  { mask := none, idAt := 0, baseId := 0, region := none, regionAt := 0, release := none, version := none, next := none
    frames := [], sum := [], begun := false, crcAt := none, bad := none, endAt := none }

/-- A scan that has met an offending word. -/
def Scan.fail (x : Scan) (off : Nat) : Scan := { x with bad := some off }

/-- The first word of a list that a test refuses, as an offset from `off`. -/
def firstBad (ok : Nat → Nat → Bool) (off : Nat) (ws : Words) : Option Nat :=
  ((ws.zipIdx).find? fun e => !ok e.2 e.1.toNat).map fun e => off + 4 * e.2

/-- The frames of a burst, cut at their boundaries (R235). -/
def Scan.burst (x : Scan) (header off : Nat) : Nat → Words → Scan
  | 0, _ => x
  | _ + 1, [] => x
  | k + 1, w :: ws =>
    match x.next, x.mask with
    | some (d, col, minor), some m =>
      let n := frameLen col minor
      let data := (w :: ws).take n
      if !m.testBit d || data.length < n then x.fail header
      else match firstBad (wordOk d col minor) off data with
        | some o => x.fail o
        | none =>
          let y := { x with
            frames := { die := d, col := col, minor := minor, off := off, words := data } :: x.frames
            sum := x.sum ++ data, next := (frameNext col minor).map fun (e : Nat × Nat) => (d, e.1, e.2) }
          y.burst header (off + 4 * n) k ((w :: ws).drop n)
    | _, _ => x.fail header

/-- A register write (R234, R236). -/
def Scan.register (x : Scan) (reg off : Nat) (ws : Words) : Scan :=
  let w (i : Nat) : Nat := (ws.getD i 0).toNat
  let early := !x.begun
  match reg, ws.length with
  | 1, 1 =>
    let col := bitsOf (w 0) 24 6
    let minor := bitsOf (w 0) 16 8
    if w 0 % 65536 = 0 && frameExists col minor then { x with next := some (bitsOf (w 0) 30 2, col, minor) } else x.fail (off + 4)
  | 3, 1 =>
    if x.region.isSome || !early then x.fail off
    else if 16 ≤ w 0 then x.fail (off + 4)
    else { x with region := some (w 0), regionAt := off }
  | 4, 1 =>
    if x.release.isSome || !early then x.fail off
    else if 2 ≤ w 0 then x.fail (off + 4)
    else { x with release := some (w 0 = 1) }
  | 5, 2 =>
    if x.mask.isSome || !early then x.fail off
    else if w 0 % 65536 != 0x4128 || 16 * 65536 ≤ w 0 || w 0 < 65536 then x.fail (off + 4)
    else { x with mask := some (w 0 / 65536), idAt := off, baseId := ws.getD 1 0 }
  | 6, 1 =>
    let bad : Bool := x.crcAt.isNone && crc32 (bytesOfWords x.sum) != ws.getD 0 0
    { x with crcAt := if bad then some x.frames.length else x.crcAt, sum := [] }
  | 7, 2 =>
    if x.version.isSome || !early then x.fail off
    else if 64 ≤ w 0 then x.fail (off + 4)
    else { x with version := some (w 0, ws.getD 1 0) }
  | _, _ => x.fail off

/-- The packets of a stream from an offset on (R233); the count of words bounds the packets. -/
def Scan.packets (x : Scan) (off : Nat) : Nat → Words → Scan
  | 0, _ => x.fail off
  | _ + 1, [] => x.fail off
  | k + 1, h :: ws =>
    let type := bitsOf h.toNat 28 4
    let reg := bitsOf h.toNat 20 8
    let n := bitsOf h.toNat 0 20
    let data := ws.take n
    if type = 4 then (if reg = 0 && n = 0 then { x with endAt := some (off + 4) } else x.fail off)
    else if data.length < n then x.fail off
    else
      let y := match type with
        | 1 => x.register reg off data
        | 2 => if reg = 2 && x.mask.isSome then ({ x with begun := true }).burst off (off + 4) n data else x.fail off
        | 3 => if reg = 0 then x else x.fail off
        | _ => x.fail off
      match y.bad with
      | some _ => y
      | none => y.packets (off + 4 + 4 * n) k (ws.drop n)

/-- The last frame a scan wrote at an address. -/
def Scan.frame? (x : Scan) (d col minor : Nat) : Option Frame :=
  x.frames.find? fun f => f.die = d && f.col = col && f.minor = minor

/-- The conditions on the whole stream (R236). -/
def Scan.whole (x : Scan) (len : Nat) : Scan :=
  match x.bad, x.endAt with
  | some _, _ => x
  | none, none => x.fail len
  | none, some e =>
    match x.mask with
    | none => x.fail (e - 4)
    | some m =>
      if e != len then x.fail e
      else if x.region.isSome && (onesOf 4 m).length != 1 then x.fail (x.idAt + 4)
      else if x.region.isSome then x
      else match (onesOf 4 m).find? fun d => match x.frame? d 61 0 with
          | some f => !tableOk (tableOf f.words)
          | none => false with
        | some d => x.fail (((x.frame? d 61 0).map (·.off)).getD 0)
        | none => x

/-- A stream without its trailer scanned (R233 to R236). -/
def scanStream (bs : Bytes) : Scan :=
  match wordsOfBytes bs with
  | [] => Scan.start.fail 0
  | w :: ws => if w = 0xE2E70C0D then (Scan.start.packets 4 ws.length ws).whole bs.length else Scan.start.fail 0

/-! Staging checks (R237, R238, R240). -/

/-- What the checks of staging come to: a failure with its status, its index, the staging step that `E009` tells if any, and
the offset of the offending word; or what the stream holds, and the plain stream. -/
inductive StageEnd where
  | bad (v : Verdict) (step : Option Nat) (off : Word)
  | good (f : StreamFacts) (plain : Bytes)

/-- No offset (R240). -/
def noOffset : Word := 0xFFFFFFFF

/-- The failure of authentication at a step. -/
def StageEnd.auth (step : Nat) : StageEnd := .bad ⟨stAuth, 0xFF⟩ (some step) noOffset

/-- Steps 4 to 6 of R240 for a plain stream. -/
def State.checkPlain (s : State) (bs : Bytes) (encrypted : Bool) : StageEnd :=
  let body := bs.take (bs.length - 136)
  let trailer := bs.drop (bs.length - 136)
  match s.sec.owner with
  | none => .auth 4
  | some o =>
    if bs.length < 136 || BitVec.ofNat 32 (bytesNum (trailer.take 4)) != o.keyId || !Config.verify o.pub body (trailer.drop 4) then .auth 4
    else
      let x := scanStream body
      match x.bad with
      | some off => .bad ⟨stBadParam, 3⟩ none (BitVec.ofNat 32 off)
      | none =>
        let (i, v) := x.version.getD (0, 0)
        let old : Nat := match at? s.sec.counters i with
          | some c => c.toNat
          | none => 0
        if x.version.isSome && v.toNat < old then .bad ⟨stRollback, 0xFF⟩ none noOffset
        else
          let m := x.mask.getD 0
          .good { partial_ := x.region.isSome, mask := BitVec.ofNat 4 m, die := Fin.ofNat 4 ((onesOf 4 m).headD 0)
                  region := Fin.ofNat 16 (x.region.getD 0), release := x.release.getD false, baseId := x.baseId, version := v
                  counter := BitVec.ofNat 6 i, encrypted := encrypted, meas := digestBytes (Config.sha512 body)
                  dataLen := bs.length } bs

/-- Is a stream an envelope (R238)? -/
def isEnvelope (bs : Bytes) : Bool := bytesNum (bs.take 4) = 0xE2E70CE5

/-- Step 3 of R240 for an envelope: its plain stream, where the tag holds. -/
def State.openEnvelope (s : State) (bs : Bytes) : Option Bytes :=
  match (s.sec.owner.bind (·.streamKey)).bind (Config.openUnder Config.wrappingKey) with
  | none => none
  | some k => match Config.decrypt k (bs.take 20) (bs.drop 20) with
    | none => none
    | some plain => if plain.length != bytesNum ((bs.drop 16).take 4) then none else some plain

/-- The result of `CFG_STAGE` (log entry 12). -/
def StreamFacts.words (f : StreamFacts) (keyId : Word) : Words :=
  [BitVec.ofNat 32 (b2n f.partial_), f.mask.setWidth 32, BitVec.ofNat 32 (if f.partial_ then f.region.val else 0),
   BitVec.ofNat 32 (b2n f.release), f.baseId, BitVec.ofNat 32 (b2n f.encrypted), keyId, f.counter.setWidth 32, f.version] ++
    measWords (some f.meas)

/-- A range that a stream may lie in: usable HBM or hive SRAM (R240). -/
def streamArea (a len : Nat) : Bool :=
  match areaFor a len with
  | some x => x.kind = .hbm || x.kind = .sram
  | none => false

/-- Bytes copied into a slot's area: the state, and whether they could be written. -/
def State.slotWrite (s : State) (n : Fin 4) (bs : Bytes) : State × Bool :=
  let x := s.cfg.slots[n.val]
  match areaFor x.base.toNat x.len with
  | none => (s, false)
  | some a =>
    let w := s.areaWrite .queen a x.base.toNat bs .ok
    (w.st, w.fail.isNone)

/-- Steps 4 to 6 of R240 on what a slot holds: it is sealed, or released with `E009` where a step of authentication fails. -/
def State.sealPlain (s : State) (n : Fin 4) (plain : Bytes) (encrypted : Bool) : State × StageEnd :=
  match s.checkPlain plain encrypted with
  | .bad v step off =>
    let s := s.releaseSlot n
    (match step with
      | some k => s.raise 9 3 0 (detail [(0, 1, n.val), (1, 1, k)])
      | none => s, .bad v step off)
  | .good f plain => (s.modSlot n fun y => { y with st := .sealed_, decrypted := encrypted, owner := none, facts := f }, .good f plain)

/-- The copy of a stage ended with these bytes (R239, R240 steps 2 to 6): they stand in the slot's area, where an envelope's plain
stream takes their place; the slot is sealed, or released. Without an owner an envelope, too, fails at step 4 (15, R412). -/
def State.sealSlot (s : State) (n : Fin 4) (src : Option Bytes) : State × StageEnd :=
  let x := s.cfg.slots[n.val]
  let unread (s : State) : State × StageEnd := (s.releaseSlot n, .bad ⟨stNotReady, 0xFF⟩ none noOffset)
  match src with
  | none => unread s
  | some bs =>
    let bs := bs.take x.len
    match s.slotWrite n bs with
    | (s, false) => unread s
    | (s, true) =>
      if bs.length < x.len then (s.releaseSlot n, .bad ⟨stTimeout, 0xFF⟩ none noOffset)
      else if !isEnvelope bs || s.sec.owner.isNone then s.sealPlain n bs false
      else match s.openEnvelope bs with
        | none => ((s.releaseSlot n).raise 9 3 0 (detail [(0, 1, n.val), (1, 1, 3)]), .auth 3)
        | some plain =>
          match (s.modSlot n fun y => { y with decrypted := true }).slotWrite n plain with
          | (s, false) => unread s
          | (s, true) => s.sealPlain n plain true

/-! The SPI flash (R247). -/

/-- The fastest read of those that the SFDP tables advertise. -/
def fastestRead (l : List ReadMode) : Option ReadMode :=
  [ReadMode.octalDdr, .octal, .octalOut, .single].find? l.contains

/-- The flash is read: the first access after a reset reads its SFDP tables and settles the read mode; flash without valid tables
cannot be used. -/
def State.flashAccess (s : State) (sfdp : List ReadMode) : State :=
  match s.cfg.flash with
  | .unread => { s with cfg := { s.cfg with flash := match fastestRead sfdp with
      | some m => .open_ m
      | none => .bad } }
  | _ => s

/-- Can the flash be read? -/
def State.flashOk (s : State) : Bool :=
  match s.cfg.flash with
  | .open_ _ => true
  | _ => false

/-- Does a staging slot read the flash: that of start-up, or one of a command that names it? -/
def State.slotReadsFlash (s : State) (x : Slot) : Bool :=
  x.st = .staging && (match x.owner with
    | none => true
    | some k => (s.job? k).any fun j => fld j.args 32 8 2 = 0)

/-- Are the `OSPI_*` outputs driven: only while an access is in progress; otherwise they are high-impedance (R247)? -/
def State.ospiDriven (s : State) : Bool := s.cfg.slots.toList.any s.slotReadsFlash

end Sys2Proof.Machine
end

