-- ==== Sys2Proof/Machine/ConfigCmds.lean ====
section
/-! DEFINITION. Staging, loading, regions and readback (spec/08_configuration.md, R230 to R249; spec/19_command_reference.md,
R489). -/

namespace Sys2Proof.Machine

/-! Staging (R239, R240). -/

/-- Does a load use a slot? -/
def State.slotLoading (s : State) (n : Fin 4) : Bool := s.cfg.loads.any (·.slot = n)

/-- The slot a packet names. -/
def slotOf (b : Words) : Fin 4 := Fin.ofNat 4 (fld b 32 0 2)

/-- The naming checks of `CFG_STAGE`: a release checks only `SLOT`. -/
def stageNaming (s : State) (p : Pkt) : List Nat :=
  let b := p.block
  let len := fld b 48 0 32
  let src := fld b 32 8 2
  let a := fld b 40 0 64
  let dest := fld b 56 0 48
  let n := slotOf b
  let past : Bool := (allFin 4).any fun i =>
    let x := s.cfg.slots[i.val]
    i != n && x.st = .sealed_ && decide (x.base.toNat < dest + len) && decide (dest < x.base.toNat + x.len)
  if len = 0 then []
  else (if 3 ≤ src then [1] else []) ++
    (if (src = 0 && 2 ^ 32 ≤ a) || (src = 1 && a % 4 != 0) ||
        (src = 2 && !(streamArea a len && (!s.sealedRange a len true || a = dest))) then [2] else []) ++
    (if len < 160 || 268435456 < len || len % 4 != 0 then [3] else []) ++
    (if dest % 4096 != 0 || !streamArea dest len || past then [4] else [])

/-- `CFG_STAGE` (R239, R240): the copy runs until `SLOT_SEALED`. -/
def stageAct (j : Job) (s : State) : Act :=
  let n := slotOf j.args
  let len := fld j.args 48 0 32
  let s := s.releaseSlot n
  if len = 0 then .done s []
  else .stay (s.modSlot n fun _ => { Slot.reset with
    st := .staging, base := BitVec.ofNat 48 (fld j.args 56 0 48), len := len, owner := some j.key })

/-- Steps 1 and 2 of R240 as a stage is processed, once the configuration controller has power (01, R19). -/
def stageCheck (s : State) (b : Words) : Option Verdict :=
  let len := fld b 48 0 32
  let n := slotOf b
  let ranges := (if fld b 32 8 2 = 2 then s.rangeCheck (fld b 40 0 64) len 2 else []) ++ s.rangeCheck (fld b 56 0 48) len 4
  firstOf [refuseIf (!s.pdOn 2) stNotReady,
    refuseIf (s.slotLoading n || s.cfg.slots[n.val].st = .staging) stBusy 0,
    if len = 0 then none else firstInSteps ranges]

/-- `CFG_STAGE`: step 1 of R240 leaves the slot as it was, and so does a refusal of its schedule; a source or an area that cannot be
accessed fails step 2, which releases it. -/
def cmdCfgStage : CmdDef :=
  { CmdDef.plain 0x0400 64 modeB01Ctl
      [⟨0, 32, 0, 2, .any⟩, ⟨1, 32, 8, 2, .any⟩, ⟨2, 40, 0, 64, .any⟩, ⟨3, 48, 0, 32, .any⟩, ⟨4, 56, 0, 48, .any⟩] stageAct with
    naming := fun s _ p => stageNaming s p
    checks := fun s j => stageCheck s j.args
    refused := fun j v s =>
      let n := slotOf j.p.block
      let s := s.noteRefusal v.status n.val noOffset
      if s.pdOn 2 && v.status != stBusy && stageCheck s j.p.block = some v then s.releaseSlot n else s }

/-- `CFG_STAGE`: the row. -/
def execCfgStage (p : Pkt) (s : State) : Host.Outcome State Fault Refusal := .next (cmdCfgStage.fetch p s)

/-- The bytes that a stage copies: those of the flash or of host memory come from outside; those of device memory are read
there. -/
def State.stageSource (s : State) (j : Job) (src : Option Bytes) : State × Option Bytes :=
  let b := j.args
  let len := fld b 48 0 32
  if fld b 32 8 2 != 2 then (s, if fld b 32 8 2 = 1 then some (src.getD []) else src)
  else match areaFor (fld b 40 0 64) len with
    | none => (s, none)
    | some x =>
      let (r, bs) := s.readFor j.p .queen x (fld b 40 0 64) len
      match r.fail with
      | none => (r.st, some bs)
      | some (f, at_) => (r.st, if f = .notReady then none else some (bs.take (at_ - fld b 40 0 64)))

/-! What a load may replace (R241). -/

/-- The frames and fields of the stream that a slot holds. -/
def State.slotScan (s : State) (n : Fin 4) : Scan :=
  let x := s.cfg.slots[n.val]
  scanStream (s.mem.read x.base.toNat (x.facts.dataLen - 136))

/-- The dies that a stream names. -/
def StreamFacts.dies (f : StreamFacts) : List (Fin 4) := (allFin 4).filter fun d => f.mask.getLsbD d.val

/-- The fabric sectors that a stream writes on a die. -/
def Scan.sectors (x : Scan) (d : Fin 4) : List Nat :=
  (x.frames.filterMap fun f =>
    if f.die != d.val then none
    else if f.col < 48 then some (f.col / 8) else if f.col < 56 then some ((6 * (f.col - 48) + 2) / 8) else none).eraseDups

/-- The connected crossings of a stream: the die, the channel, the source die and its channel (R211). -/
def Scan.crossings (x : Scan) : List (Fin 4 × Nat × Fin 4 × Nat) :=
  x.frames.flatMap fun f =>
    if f.col = 60 && f.minor = 0 then
      ((f.words.take 128).zipIdx).filterMap fun e =>
        let w := e.1.toNat
        if bitOf w 16 then some (Fin.ofNat 4 f.die, e.2, Fin.ofNat 4 (bitsOf w 0 2), bitsOf w 8 7) else none
    else []

/-- Does a frame write a non-zero word to a marked tile, RAM position, edge or crossing channel (R241 step 3)? -/
def State.frameMarked (s : State) (f : Frame) : Bool :=
  let d : Fin 4 := Fin.ofNat 4 f.die
  let row (n : Nat) : List Nat := ((f.words.zipIdx).filter (·.1 != 0)).map (·.2 / n)
  if f.col < 48 then (row 10).any fun y => s.tileMarked (1536 * f.die + 32 * f.col + y)
  else if f.col < 56 then
    (row (if f.minor < 8 then 1024 else 10)).any fun y => s.ramMarked (256 * f.die + 32 * (f.col - 48) + y)
  else if f.col < 60 then s.unitMarked (dieUnit d 7) && !(row 10).isEmpty
  else if f.col = 60 then s.dieMarked d && !(row 10).isEmpty
  else false

/-- Step 3 of R241: the dies, their domains and links, the crossings, the inventory. The crossings of a stream are those that its
own frames connect: whether a partial stream also uses the crossings that the base connects at its region's channels the spec does
not say, and the model counts none (DESIGN CHOICE, log entry 64). -/
def State.loadUnits (s : State) (f : StreamFacts) (x : Scan) : Option Verdict :=
  let dies := f.dies
  let down (d : Fin 4) : Bool :=
    !s.dieOn d 0 || !s.dieOn d 1 || !s.pdOn ⟨10 + d.val, by omega⟩ ||
      !(s.net.dies[d.val].st = .up || s.net.dies[d.val].st = .locked) ||
      (x.sectors d).any fun k => !s.dieOn d (Fin.ofNat 12 (2 + k))
  let open_ (d : Fin 4) : Bool := s.net.dies[d.val].st = .locked && !s.net.dies[d.val].fenced
  let bad (e : Fin 4 × Nat × Fin 4 × Nat) : Bool :=
    !open_ e.1 || !open_ e.2.2.1 || (s.net.dies[e.1.val].half && 64 ≤ e.2.1) || (s.net.dies[e.2.2.1.val].half && 64 ≤ e.2.2.2)
  firstOf [refuseIf (dies.any s.dieMarked) stUnusable, refuseIf (dies.any fun d => s.net.dies[d.val].fenced) stFenced,
    refuseIf (dies.any down || x.crossings.any bad) stNotReady, refuseIf (x.frames.any s.frameMarked) stUnusable]

/-- The tile column whose sector a frame of tiles or cell RAM lies in. -/
def frameColumn (col : Nat) : Nat := if col < 48 then col else 6 * (col - 48) + 2

/-- Is the sector of a tile column under test (17, R446)? -/
def State.sectorTested (s : State) (d : Fin 4) (t : Nat) : Bool := s.underTest (dieUnit d (Fin.ofNat 9 (t / 8)))

/-- Does a region or the static part hold a column of a sector under test? -/
def State.regionTested (s : State) (d : Fin 4) (i : Nat) : Bool := ((s.fab[d.val]).columnsOf i).any (s.sectorTested d)

/-- Step 4 of R241: nothing that the load replaces runs or is being loaded, or is under test (17, R446). -/
def State.loadBusy (s : State) (f : StreamFacts) : Bool :=
  if f.partial_ then
    let g := s.fab[f.die.val]
    g.stateAt f.region.val = .running || s.regionTested f.die f.region.val ||
      (List.range 16).any fun i => (g.inside i f.region.val || g.inside f.region.val i) && g.stateAt i = .loading
  else f.dies.any fun d =>
    !((s.fab[d.val]).inState fun st => st = .running || st = .loading).isEmpty ||
      (List.range 48).any (s.sectorTested d) ||
      (dieWorkers d).any (fun w => s.workers[w.val].active) || (diePorts d).any fun n => s.ports[n.val].active

/-- Step 5 of R241: where a partial stream breaks out of its region: the frame address, or all ones, and the offset. -/
def State.loadViolation (s : State) (f : StreamFacts) (x : Scan) : Option (Nat × Nat) :=
  let g := s.fab[f.die.val]
  let out (e : Frame) : Bool :=
    if e.col < 48 then !g.regions[f.region.val].holds e.col
    else if e.col < 56 then !(match g.regionOf (6 * (e.col - 48) + 2) with
      | some i => g.inside i.val f.region.val
      | none => false)
    else true
  if g.cfgSt != .configured || g.baseId != f.baseId then some (0xFFFFFFFF, x.idAt)
  else if !g.regions[f.region.val].valid then some (0xFFFFFFFF, x.regionAt)
  else (x.frames.reverse.find? out).map fun e => (frameAddr e.die e.col e.minor, e.off)

/-- Step 6 of R241: is the stream's version below its rollback counter now? -/
def State.loadStale (s : State) (x : Scan) : Bool :=
  match x.version with
  | none => false
  | some (i, v) => match at? s.sec.counters i with
    | none => false
    | some c => decide (v.toNat < c.toNat)

/-- The checks of a load after the mode, in order (R241 steps 2 to 6), once the configuration controller has power (01, R19). -/
def loadCheck (s : State) (n : Fin 4) (wantPartial : Bool) : Option Verdict :=
  let slot := s.cfg.slots[n.val]
  let x := s.slotScan n
  let f := slot.facts
  if !s.pdOn 2 || slot.st != .sealed_ then some ⟨stNotReady, 0xFF⟩
  else if f.partial_ != wantPartial then some ⟨stBadParam, 0⟩
  else firstOf [s.loadUnits f x, refuseIf (s.loadBusy f) stBusy 0,
    refuseIf (f.partial_ && (s.loadViolation f x).isSome) stRegion, refuseIf (s.loadStale x) stRollback]

/-- What a refusal of a load does besides its reply: the status block, and `E010` for a region violation. -/
def loadRefused (j : Job) (v : Verdict) (s : State) : State :=
  let n := slotOf j.p.block
  let f := s.cfg.slots[n.val].facts
  match (if v.status = stRegion then s.loadViolation f (s.slotScan n) else none) with
  | none => s.noteRefusal v.status n.val noOffset
  | some (a, off) =>
    (s.noteRefusal v.status n.val (BitVec.ofNat 32 off)).raise 10 3 f.die.val
      (detail [(0, 1, f.region.val), (4, 4, a), (8, 4, off)])

/-! Loading (R242). -/

/-- Steps 1 and 2 of a load: the regions that it replaces are LOADING, and their frames are cleared. -/
def State.loadBegin (s : State) (f : StreamFacts) : State :=
  if f.partial_ then
    s.modFab f.die fun g =>
      let l := (List.range 16).filter fun i => g.inside i f.region.val
      let own := g.regions[f.region.val].holds
      let g := (l.foldl (fun g i => g.setState i .loading) g).clearColumns own
      { g with bare := g.bare &&& ~~~columnBits ((List.range 48).filter own) }
  else
    forAll f.dies (fun d s => (s.modFab d fun g => { g with
      cfgSt := .loading, cfg := [], regs := [], static_ := .loading, staticResume := false, cross := [], hoop := [], edgeSeen := [], bare := 0
      regions := g.regions.map fun (r : Region) => if r.valid then { r with st := .loading } else r }).refreshDie d) s

/-- A load takes its place (R242): it ends with `LOAD_END`. -/
def loadAct (j : Job) (s : State) : Act :=
  let n := slotOf j.args
  let f := s.cfg.slots[n.val].facts
  let s := s.loadBegin f
  .stay { s with cfg := { s.cfg with loads := s.cfg.loads ++
    [{ key := some j.key, slot := n, boot := false, release := f.release, fenced := false }] } }

/-- The modes of `CFG_LOAD`: BOOT with `BOOTSEL` 01, and SRM. -/
def modeLoad (s : State) (p : Pkt) : Bool := modeSrm s p || modeB01 s p

/-- `CFG_LOAD` (R241). -/
def cmdCfgLoad : CmdDef :=
  { CmdDef.plain 0x0401 36 modeLoad [⟨0, 32, 0, 2, .any⟩] loadAct with
    checks := fun s j => loadCheck s (slotOf j.args) false
    refused := loadRefused }

/-- `CFG_LOAD`: the row. -/
def execCfgLoad (p : Pkt) (s : State) : Host.Outcome State Fault Refusal := .next (cmdCfgLoad.fetch p s)

/-- `CFG_REGION_LOAD` (R241). -/
def cmdCfgRegionLoad : CmdDef :=
  { CmdDef.plain 0x0402 36 modeOps [⟨0, 32, 0, 2, .any⟩] loadAct with
    checks := fun s j => loadCheck s (slotOf j.args) true
    refused := loadRefused }

/-- `CFG_REGION_LOAD`: the row. -/
def execCfgRegionLoad (p : Pkt) (s : State) : Host.Outcome State Fault Refusal := .next (cmdCfgRegionLoad.fetch p s)

/-- Does a stage touch HBM: its slot's area, or its source (R278: during a rekey it waits)? -/
def State.stageInHbm (s : State) (x : Slot) : Bool :=
  decide (x.base.toNat < hbmBytes) ||
    (x.owner.bind s.job?).any fun j => fld j.args 32 8 2 = 2 && decide (fld j.args 40 0 64 < hbmBytes)

/-- The stage of start-up ends (R249): the load follows, or the device enters SAFE. -/
def State.bootSealed (s : State) (n : Fin 4) (src : Option Bytes) : State :=
  match s.sealSlot n src with
  | (s, .bad v _ off) => (s.noteRefusal v.status n.val off).bootSafe 0x0001 true
  | (s, .good f _) =>
    match loadCheck s n false with
    | some v => ((s.noteRefusal v.status n.val noOffset).releaseSlot n).bootSafe 0x0001 true
    | none =>
      let s := s.loadBegin f
      { s with cfg := { s.cfg with loads := s.cfg.loads ++
        [{ key := none, slot := n, boot := true, release := f.release, fenced := false }] } }

/-- The stage of a command ends (R240). -/
def State.stageSealed (s : State) (n : Fin 4) (j : Job) (src : Option Bytes) : State :=
  let (s, bs) := s.stageSource j src
  match s.sealSlot n bs with
  | (s, .good f _) => s.commitDone j (f.words s.ownerKeyId)
  | (s, .bad v _ off) =>
    let s := s.noteRefusal v.status n.val off
    if v.status = stTimeout then s.commitClose j v true [BitVec.ofNat 32 (bs.getD []).length] else s.refuse j v

/-- An aborted stage (R240): its copy stops between two chunks of 64 KiB, its slot is released, and the reply states the bytes copied. -/
def State.stageAborted (s : State) (n : Fin 4) (j : Job) (src : Option Bytes) : State :=
  let (s, bs) := s.stageSource j src
  let bs := (bs.getD []).take (s.cfg.slots[n.val]).len
  let bs := bs.take (bs.length / 65536 * 65536)
  let (s, ok) := if bs.isEmpty then (s, true) else s.slotWrite n bs
  (s.releaseSlot n).commitClose j ⟨stAborted, 0xFF⟩ true [BitVec.ofNat 32 (if ok then bs.length else 0)]

/-- `SLOT_SEALED` (R240): the copy and the checks of a stage have ended. At start-up the load follows (R249). A source in flash
cannot be read without valid SFDP tables (R247). -/
def execSlotSealed (n : Fin 4) (src : Option Bytes) (sfdp : List ReadMode) (s : State) : Host.Outcome State Fault Refusal :=
  .next (
    let x := s.cfg.slots[n.val]
    if x.st != .staging || !s.pdOn 2 || (s.mem.rekey.isSome && s.stageInHbm x) then s
    else
      let flash := s.slotReadsFlash x
      let s := if flash then s.flashAccess sfdp else s
      let src := if flash && !s.flashOk then none else src
      match x.owner with
      | none => s.bootSealed n src
      | some k => match s.job? k with
        | none => s.releaseSlot n
        | some j =>
          if s.abortAsked k then s.stageAborted n j src else s.stageSealed n j src)

/-- A frame written: configuration words, or block contents into cell RAM (R224, R242). -/
def State.writeFrame (s : State) (f : Frame) : State :=
  let d : Fin 4 := Fin.ofNat 4 f.die
  if 48 ≤ f.col ∧ f.col < 56 ∧ f.minor < 8 then
    s.modMem fun m => ((f.words.zipIdx).foldl (fun m e =>
      m.putWord (ramWordAddr d (f.col - 48) (e.2 / 1024) f.minor (e.2 % 1024)) e.1) m)
  else
    s.modFab d fun g => { g with cfg := (f.words.zipIdx).foldl (fun l e =>
      sparseSet l ((f.col * 256 + f.minor) * 1024 + e.2) e.1) g.cfg }

/-- The block contents that a stream names are undefined (R243). -/
def State.loseBlocks (s : State) (x : Scan) : State :=
  (x.frames.filter fun f => 48 ≤ f.col && f.col < 56 && f.minor < 8).foldl (fun s f =>
    (List.range 32).foldl (fun s y => s.undefine (ramWordAddr (Fin.ofNat 4 f.die) (f.col - 48) y f.minor 0) 4096) s) s

/-- The region table that a die's configuration gives (R227, R228). -/
def DieFab.table (g : DieFab) : Vector Region 16 :=
  Vector.ofFn fun i : Fin 16 =>
    let w := g.cfgWord 61 0 i.val
    { Region.reset with valid := bitOf w 16, start := BitVec.ofNat 6 (bitsOf w 0 6), width := BitVec.ofNat 6 (bitsOf w 8 6)
                        st := if bitOf w 16 then .held else .unconfigured }

/-- Steps 3 and 4 of a load (R242, R245): frames written, the table and `BASE_ID` recorded, regions HELD and, with release,
started. -/
def State.loadFinish (s : State) (f : StreamFacts) (x : Scan) (release : Bool) : State :=
  let s := x.frames.reverse.foldl (fun s e => s.writeFrame e) s
  if f.partial_ then
    let l := (List.range 16).filter fun i => (s.fab[f.die.val]).inside i f.region.val
    let s := s.stopRegions f.die l true
    let s := s.modFab f.die fun g => { g with regions := upd g.regions f.region fun r => { r with meas := some f.meas } }
    if release then s.startRegions f.die l else s
  else
    forAll f.dies (fun d s =>
      let s := s.modFab d fun g => { g with
        cfgSt := .configured, encrypted := f.encrypted, baseId := f.baseId, meas := some f.meas, regions := g.table, static_ := .held }
      let s := s.modFab d fun g => g.setReset fun _ => true
      let s := if release then s.startRegions d ((s.fab[d.val]).inState (· = .held)) else s
      (s.modDie d fun x => { x with rejoining := false }).refreshDie d) s

/-- The die events that tell the end of a load (R242 step 5, R243): one per region, 16 for a full load. -/
def State.loadEvents (s : State) (f : StreamFacts) (outcome : Nat) : State :=
  let one (d : Fin 4) (i : Nat) (s : State) : State :=
    s.raiseDie d 34 1 d.val (detail [(0, 1, i), (1, 1, outcome), (8, 8, bytesNum (f.meas.take 8))])
  if f.partial_ then
    forAll ((List.range 16).filter fun i => (s.fab[f.die.val]).inside i f.region.val) (one f.die) s
  else forAll f.dies (fun d s => one d 16 s) s

/-- A failed partial load (R243): the region's columns are cleared and it and those inside are UNCONFIGURED. -/
def State.failPartial (s : State) (f : StreamFacts) : State :=
  s.modFab f.die fun g =>
    let l := (List.range 16).filter fun i => g.inside i f.region.val
    let g := (l.foldl (fun g i => g.setState i .unconfigured) g).clearColumns g.regions[f.region.val].holds
    { g with regions := upd g.regions f.region fun r => { r with meas := none } }

/-- A failed full load (R243): its dies are unconfigured, `ERROR_N` is asserted and the device is in SAFE. -/
def State.failFull (s : State) (f : StreamFacts) (cause : BitVec 16) : State :=
  let s := forAll f.dies (fun d s => s.unconfigure d) s
  let s := s.enterSafe cause true
  { s with rsc := { s.rsc with errorN := true } }

/-- The golden fallback (R243): the golden image is staged into the slot's area and loaded; none where it fails at any step. -/
def State.golden (s : State) (n : Fin 4) (r : BootRec) (src : Option Bytes) (old : StreamFacts) : State × Option StreamFacts :=
  let base := s.cfg.slots[n.val].base
  let s := (s.releaseSlot n).modSlot n fun _ => { Slot.reset with st := .staging, base := base, len := r.gLen }
  match s.sealSlot n src with
  | (s, .bad _ _ _) => (s, none)
  | (s, .good f _) =>
    let x := s.slotScan n
    let s := forAll old.dies (fun d s => s.unconfigure d) s
    if f.partial_ || x.crcAt.isSome || (s.loadUnits f x).isSome || s.loadBusy f || s.loadStale x then (s, none)
    else
      let s := (s.loadBegin f).loadFinish f x f.release
      ({ s with rsc := { s.rsc with golden := true } }, some f)

/-- The results of a load's reply. -/
def loadResult (f : StreamFacts) (outcome frames : Nat) : Words :=
  if f.partial_ then [BitVec.ofNat 32 outcome, BitVec.ofNat 32 f.die.val, BitVec.ofNat 32 f.region.val, BitVec.ofNat 32 frames]
  else [BitVec.ofNat 32 outcome, f.mask.setWidth 32, BitVec.ofNat 32 frames]

/-- A load's command commits (R242 step 5, R244). -/
def State.loadCommit (s : State) (key : Option JobKey) (f : StreamFacts) (outcome frames : Nat) : State :=
  match key.bind s.job? with
  | none => s
  | some j =>
    if outcome = 0 && s.abortAsked j.key then s.commitClose j ⟨stAborted, 0xFF⟩ true (loadResult f outcome frames)
    else s.commitDone j (loadResult f outcome frames)

/-- The first sector of the stream in a slot that cannot be verified: its address, its stack and the poisoned entry (09, R275). -/
def State.slotPoison (s : State) (x : Slot) : Option (Nat × Fin 4 × Nat) :=
  (sectorParts x.base.toNat x.facts.dataLen).findSome? fun p =>
    if hbmBytes ≤ 512 * p.1 then none
    else
      let (n, loc) := s.mem.locate (512 * p.1)
      (s.mem.poisoned n (loc / 512)).map fun c => (512 * p.1 + p.2.1, n, c)

/-- Can the area of a slot be read: it is still sealed, its memory serves, and its die or slice has power (R243)? -/
def State.slotReadable (s : State) (x : Slot) : Bool :=
  match areaFor x.base.toNat x.len with
  | none => false
  | some a => x.st = .sealed_ && !s.areaDown a x.base.toNat x.len &&
      (a.kind != .hbm || (s.mem.stacksOf x.base.toNat x.len).all fun n => s.stackGate n = none)

/-- The read of a sector that cannot be verified tells `E021` (09, R275). -/
def State.tellPoison (s : State) (x : Slot) : State :=
  match s.slotPoison x with
  | some (a, n, c) => s.unverifiable .queen n a c
  | none => s

/-- The failure of a load, if any: 0 a read, 1 a fence or a lost clock of a die, 2 a CRC (R243; `E011`). -/
def State.loadFailure (s : State) (x : Load) (c : Scan) (r : LoadResult) : Option Nat :=
  if x.fenced || s.cfg.slots[x.slot.val].facts.dies.any fun d => !s.net.dies[d.val].clockOn then some 1
  else match r with
    | .readFail _ => some 0
    | .crcFail _ _ => some 2
    | .ok => if !s.slotReadable s.cfg.slots[x.slot.val] || (s.slotPoison s.cfg.slots[x.slot.val]).isSome then some 0 else if c.crcAt.isSome then some 2 else none

/-- The frames that a load has written (R245): all of them, or those before its failure. -/
def framesWritten (c : Scan) (r : LoadResult) : Nat :=
  let n := c.crcAt.getD c.frames.length
  match r with
  | .ok => n
  | .readFail k | .crcFail _ k => min k n

/-- `LOAD_END` (R242 to R244, R249) of the oldest load. From a slot in HBM it waits for the end of a rekey (09, R278). -/
def execLoadEnd (r : LoadResult) (golden : Option Bytes) (sfdp : List ReadMode) (s : State) :
    Host.Outcome State Fault Refusal :=
  .next (match s.cfg.loads with
    | [] => s
    | x :: rest =>
      if s.mem.rekey.isSome && decide (s.cfg.slots[x.slot.val].base.toNat < hbmBytes) then s else
      let c := s.slotScan x.slot
      let slot := s.cfg.slots[x.slot.val]
      let f := slot.facts
      let n := framesWritten c r
      let failure := s.loadFailure x c r
      let mode := s.rsc.mode
      let s := { s with cfg := { s.cfg with loads := rest } }
      let s := if failure = some 0 then s.tellPoison slot else s
      match failure with
      | none =>
        let stop : Bool := match x.key with
          | some k => s.abortAsked k
          | none => false
        let s := (s.loadFinish f c (x.release && !stop)).loadEvents f 0
        let s := if f.partial_ then s
          else
            let s := { s with cfg := { s.cfg with hostBoot := mode = .boot && !x.boot } }
            if mode = .boot then s.bootReady else s
        s.loadCommit x.key f 0 n
      | some kind =>
        let s := s.loseBlocks c
        if f.partial_ then ((s.loadEvents f 2).failPartial f).loadCommit x.key f 2 n
        else if x.boot then ((s.loadEvents f 2).releaseSlot x.slot).failFull f 0x0001
        else if mode = .boot then ((s.loadEvents f 2).failFull f 0x0004).loadCommit x.key f 2 n
        else match (if mode = .ready then s.bootRecord else none) with
          | none => ((s.loadEvents f 2).failFull f 0x0005).loadCommit x.key f 2 n
          | some (_, b) =>
            if !b.onFail then ((s.loadEvents f 2).failFull f 0x0005).loadCommit x.key f 2 n
            else if slot.len < b.gLen then ((s.loadEvents f 2).failFull f 0x0006).loadCommit x.key f 2 n
            else
              let s := s.raise 11 3 0 (detail [(0, 1, f.mask.toNat), (1, 1, kind)])
              let s := s.flashAccess sfdp
              match s.golden x.slot b (if s.flashOk then golden else none) f with
              | (s, some _) => (s.loadEvents f 1).loadCommit x.key f 1 (s.slotScan x.slot).frames.length
              | (s, none) => ((s.loadEvents f 2).failFull f 0x0006).loadCommit x.key f 2 n)

/-! Regions (R230, R232). -/

/-- The die a packet's unit names. -/
def dieUnitOf (p : Pkt) : Fin 4 := Fin.ofNat 4 p.unit.toNat

/-- The code of a region state in the status block (R246). -/
def RegSt.code : RegSt → Nat
  | .unconfigured => 1 | .loading => 2 | .held => 3 | .frozen => 4 | .running => 5

/-- The code of a region of a die: 0 when it is not valid. -/
def DieFab.codeOf (g : DieFab) (i : Fin 16) : Nat := if g.regions[i.val].valid then g.regions[i.val].st.code else 0

/-- The states of a die's regions and static part, as region commands return them (log entry 12). -/
def DieFab.states (g : DieFab) : Words :=
  (allFin 16).map (fun i => BitVec.ofNat 32 (g.codeOf i)) ++ [BitVec.ofNat 32 g.static_.code]

/-- Is a `REGION` not in the die's table? -/
def regionBad (s : State) (p : Pkt) : List Nat :=
  let i := fld p.block 32 0 5
  match at? s.fab[(dieUnitOf p).val].regions i with
  | some r => if r.valid then [] else [0]
  | none => if i = 16 then [] else [0]

/-- Does a region inside or equal to another act? -/
def DieFab.actsOn (g : DieFab) (i : Nat) (on : RegSt → Bool) : List Nat :=
  if on (g.stateAt i) then (g.inState on).filter fun k => g.inside k i else []

/-- `CFG_REGION_START` (R230): every HELD or FROZEN region at or inside the one named. -/
def regionStartAct (j : Job) (s : State) : Act :=
  let d := dieUnitOf j.p
  let s := s.startRegions d ((s.fab[d.val]).actsOn (fld j.args 32 0 5) fun st => st = .held || st = .frozen)
  .done s (s.fab[d.val]).states

/-- `CFG_REGION_START`. -/
def cmdCfgRegionStart : CmdDef :=
  { CmdDef.plain 0x0403 36 modeOps [⟨0, 32, 0, 5, .names (· ≤ 16)⟩] regionStartAct with
    unitMax := 3
    naming := fun s _ p => regionBad s p
    checks := fun s j =>
      let d := dieUnitOf j.p
      let g := s.fab[d.val]
      let i := fld j.args 32 0 5
      firstOf [checkDie s d,
        refuseIf (g.stateAt i = .unconfigured || g.stateAt i = .loading ||
          (List.range 16).any fun k => k != i && g.inside i k && g.stateAt k != .running) stNotReady,
        refuseIf (s.regionTested d i) stBusy 0] }

/-- `CFG_REGION_START`: the row. -/
def execCfgRegionStart (p : Pkt) (s : State) : Host.Outcome State Fault Refusal := .next (cmdCfgRegionStart.fetch p s)

/-- `CFG_REGION_STOP` (R230): every RUNNING region at or inside the one named. -/
def cmdCfgRegionStop : CmdDef :=
  { CmdDef.plain 0x0404 36 modeOps [⟨0, 32, 0, 5, .names (· ≤ 16)⟩, ⟨1, 32, 8, 1, .any⟩] (fun j s =>
      let d := dieUnitOf j.p
      let s := s.stopRegions d ((s.fab[d.val]).actsOn (fld j.args 32 0 5) (· = .running)) (fld j.args 32 8 1 = 1)
      .done s (s.fab[d.val]).states) with
    unitMax := 3
    naming := fun s _ p => regionBad s p
    checks := fun s j => firstOf [checkDie s (dieUnitOf j.p), refuseIf (s.regionTested (dieUnitOf j.p) (fld j.args 32 0 5)) stBusy 0] }

/-- `CFG_REGION_STOP`: the row. -/
def execCfgRegionStop (p : Pkt) (s : State) : Host.Outcome State Fault Refusal := .next (cmdCfgRegionStop.fetch p s)

/-! Readback (R246, R489). -/

/-- The frames from one on, at most `k`, in the order of R235. -/
def framesFrom : Nat → Nat → Nat → List (Nat × Nat)
  | 0, _, _ => []
  | k + 1, col, minor => (col, minor) :: match frameNext col minor with
    | some (c, m) => framesFrom k c m
    | none => []

/-- The words of a frame as configured (R246): a column that is not configured reads as zeros, its cell RAM too. -/
def State.frameWords (s : State) (d : Fin 4) (col minor : Nat) : Words :=
  (List.range (frameLen col minor)).map fun i =>
    if 48 ≤ col ∧ col < 56 ∧ minor < 8 then
      if (s.fab[d.val]).stateOf (6 * (col - 48) + 2) = .unconfigured then 0 else s.mem.word (ramWordAddr d (col - 48) (i / 1024) minor (i % 1024))
    else BitVec.ofNat 32 ((s.fab[d.val]).cfgWord col minor i)

/-- The frames that a `CFG_READBACK` names. -/
def readFrames (b : Words) : List (Nat × Nat) := framesFrom (fld b 40 0 13) (fld b 36 24 6) (fld b 36 16 8)

/-- The status block (R246). -/
def State.cfgStatus (s : State) : Words :=
  let slot (x : Slot) : Nat := match x.st with
    | .released => 0
    | .staging => 1
    | .sealed_ => if x.decrypted then 3 else 2
  let code (c : DieCfg) : Nat := match c with
    | .unconfigured => 0
    | .loading => 1
    | .configured => 2
  [BitVec.ofNat 32 (s.cfg.slots.toList.foldr (fun x a => slot x + 256 * a) 0), s.cfg.lastStatus, s.cfg.lastOffset, 0] ++
    (allFin 4).flatMap fun d =>
      let g := s.fab[d.val]
      [BitVec.ofNat 32 (code g.cfgSt + bitAt g.encrypted 8), g.baseId] ++
        (allFin 16).map (fun i => BitVec.ofNat 32 (g.codeOf i + (if g.regions[i.val].valid then
          g.regions[i.val].start.toNat * 2 ^ 8 + g.regions[i.val].width.toNat * 2 ^ 16 else 0))) ++
        [BitVec.ofNat 32 g.static_.code, 0]

/-- `CFG_READBACK` (R246). -/
def readbackAct (j : Job) (s : State) : Act :=
  let b := j.args
  if fld b 32 0 1 = 1 then .done s s.cfgStatus
  else .stay { s with cfg := { s.cfg with readbacks := s.cfg.readbacks ++ [⟨j.key, 0, []⟩] } }

/-- The result of a readback: the bytes copied and their CRC-32 (R489). -/
def Readback.words (x : Readback) : Words := [BitVec.ofNat 32 x.bytes.length, crc32 x.bytes]

/-- The readbacks without that of a command. -/
def State.dropReadback (s : State) (k : JobKey) : State :=
  { s with cfg := { s.cfg with readbacks := s.cfg.readbacks.filter fun x => !sameKey x.key k } }

/-- 64 frames of a readback are copied: it goes on, or it ends with the last of them or at a failure. -/
def Readback.copy (x : Readback) (s : State) (j : Job) : State :=
  let b := j.args
  let at_ := fld b 48 0 48 + x.bytes.length
  let batch := ((readFrames b).drop x.frames).take 64
  let bs := bytesOfWords (batch.flatMap fun e => s.frameWords (Fin.ofNat 4 (fld b 36 30 2)) e.1 e.2)
  let (t, got) : State × Bytes := match areaFor at_ bs.length with
    | none => (s, [])
    | some a =>
      let r := s.writeFor j.p .queen a at_ bs
      (r.st, match r.fail with
        | none => bs
        | some f => bs.take (f.2 - at_))
  let y : Readback := { x with frames := x.frames + 64, bytes := x.bytes ++ got }
  if got.length < bs.length || (readFrames b).length ≤ y.frames then (t.dropReadback x.key).commitDone j y.words
  else { t with cfg := { t.cfg with readbacks := y :: t.cfg.readbacks.drop 1 } }

/-- The Queen core copies 64 frames of the oldest readback (R246, R489); between two such batches lies its safe point. A fenced
die answers no read (10, R303): the readback ends with the bytes copied (log entry 69). Its writes wait for a rekey (09, R278). DESIGN CHOICE: a batch takes one cycle of the
always-on clock (log entry 59). -/
def State.readbackStep (s : State) : State :=
  match s.cfg.readbacks with
  | [] => s
  | x :: _ => match s.job? x.key with
    | none => s.dropReadback x.key
    | some j =>
      let b := j.args
      if !(s.queen.serves && s.queenClocked && s.rsc.hib = .awake) then s
      else if s.net.dies[(Fin.ofNat 4 (fld b 36 30 2)).val].fenced then (s.dropReadback x.key).commitDone j x.words
      else if !s.pdOn 2 then (s.dropReadback x.key).commitClose j ⟨stNotReady, 0xFF⟩ true x.words
      else if s.mem.rekey.isSome && decide (fld b 48 0 48 < hbmBytes) then s
      else x.copy s j

/-- The number of frames that remain from one to the last of its die (R489). -/
def framesLeft (b : Words) : Nat := (framesFrom 4096 (fld b 36 24 6) (fld b 36 16 8)).length

/-- The bytes that a readback copies. -/
def readbackLen (b : Words) : Nat := ((readFrames b).map fun e => 4 * frameLen e.1 e.2).foldl (· + ·) 0

/-- Is fabric debug unlocked: scope 1, or scope 2, which holds all of it (16, R430)? -/
def State.fabricOpen (s : State) : Bool := s.sec.scope1 || s.sec.scope2

/-- `CFG_READBACK`. -/
def cmdCfgReadback : CmdDef :=
  { CmdDef.plain 0x0405 56 (fun s p => if fld p.block 32 0 1 = 1 then modeAny s p else modeCtl s p) [] readbackAct with
    fields := fun p =>
      let status := fld p.block 32 0 1 = 1
      [⟨0, 32, 0, 1, .any⟩,
       ⟨1, 36, 0, 32, .names fun v => if status then v = 0 else v % 65536 = 0 && frameExists (bitsOf v 24 6) (bitsOf v 16 8)⟩,
       ⟨2, 40, 0, 13, if status then .names (· = 0) else .clamp 1 (framesLeft p.block)⟩,
       ⟨3, 48, 0, 48, .names fun v => if status then v = 0 else v % 4 = 0⟩]
    naming := fun s _ p =>
      let b := p.block
      let k := clampNat 1 (framesLeft b) (fld b 40 0 13)
      let len := ((framesFrom k (fld b 36 24 6) (fld b 36 16 8)).map fun e => 4 * frameLen e.1 e.2).foldl (· + ·) 0
      if fld b 32 0 1 = 1 then []
      else if streamArea (fld b 48 0 48) len && !s.sealedRange (fld b 48 0 48) len false then [] else [3]
    checks := fun s j =>
      let b := j.args
      let d : Fin 4 := Fin.ofNat 4 (fld b 36 30 2)
      let g := s.fab[d.val]
      if fld b 32 0 1 = 1 then none
      else firstOf [firstInSteps (s.rangeCheck (fld b 48 0 48) (readbackLen b) 3),
        refuseIf ((readFrames b).any fun e => 48 ≤ e.1 && e.1 < 56 && e.2 < 8 &&
          (g.stateOf (6 * (e.1 - 48) + 2) = .running || g.stateOf (6 * (e.1 - 48) + 2) = .loading)) stBusy 1,
        refuseIf ((readFrames b).any fun e => e.1 < 56 && s.sectorTested d (frameColumn e.1)) stBusy 1,
        refuseIf (g.encrypted && !s.fabricOpen) stLocked] }

/-- `CFG_READBACK`: the row. -/
def execCfgReadback (p : Pkt) (s : State) : Host.Outcome State Fault Refusal := .next (cmdCfgReadback.fetch p s)

/-! Boot records (R248). -/

/-- The words of a boot record with its CRC. -/
def BootRec.words (r : BootRec) : Words :=
  let body := [BitVec.ofNat 32 r.seq, BitVec.ofNat 32 (b2n r.onFail), BitVec.ofNat 32 r.addr, BitVec.ofNat 32 r.len,
    BitVec.ofNat 32 r.gAddr, BitVec.ofNat 32 r.gLen] ++ List.replicate 9 0
  body ++ [crc32 (bytesOfWords body)]

/-- `CFG_BOOT_RECORD_SET` (R248): the record not in use, with a sequence one higher. -/
def bootRecordAct (j : Job) (s : State) : Act :=
  let b := j.args
  let (i, seq) : Fin 2 × Nat := match s.bootRecord with
    | some (k, r) => (if k = 0 then 1 else 0, r.seq + 1)
    | none => (0, 1)
  let r : BootRec := { seq := seq, onFail := fld b 32 0 1 = 1, addr := fld b 36 0 32, len := fld b 40 0 32
                       gAddr := fld b 44 0 32, gLen := fld b 48 0 32 }
  s.nvCommand j (.bootRec i r) i.val (r.words ++ [BitVec.ofNat 32 i.val])

/-- Is a stream length in the range of `CFG_STAGE`? -/
def lengthOk (v : Nat) : Bool := 160 ≤ v && v ≤ 268435456 && v % 4 = 0

/-- `CFG_BOOT_RECORD_SET`. -/
def cmdCfgBootRecordSet : CmdDef :=
  { CmdDef.plain 0x0406 52 modeSrm
      [⟨0, 32, 0, 32, .names (· < 2)⟩, ⟨1, 36, 0, 32, .any⟩, ⟨2, 40, 0, 32, .names lengthOk⟩, ⟨3, 44, 0, 32, .any⟩,
       ⟨4, 48, 0, 32, .names lengthOk⟩] bootRecordAct with
    checks := fun s _ => refuseIf (!s.pdOn 2) stNotReady }

/-- `CFG_BOOT_RECORD_SET`: the row. -/
def execCfgBootRecordSet (p : Pkt) (s : State) : Host.Outcome State Fault Refusal := .next (cmdCfgBootRecordSet.fetch p s)

end Sys2Proof.Machine
end

