-- ==== Sys2Proof/Machine/PlayEvents.lean ====
section
/-! DEFINITION. What happens in a port group at play (spec/04_timing_and_vectors.md): the start strobe, plays, underruns,
transitions, tap exchanges, strobes, fail bits, match words, markers and the end of a run. Each row is the event itself:
it takes effect when the group's circumstances allow it and changes nothing otherwise (log entry 1). -/

namespace Sys2Proof.Machine

/-- The start strobe reaches the groups of a start whose instant falls on root tick `t`: each learns its t0 from its rank in
the start ramp (04, R115). -/
def State.strobeGroups (s : State) (x : Start) (t : Nat) : State :=
  (x.groups.zipIdx).foldl (fun s e =>
    s.modGroup e.1 fun y => if y.st != .armed then y else
      { y with run := { y.run with strobed := true, t0 := ((t + e.2 * x.ramp) * 256 : Nat)
                                   nextAt := ((t + e.2 * x.ramp) * 256 : Nat) } }) s

/-- The root tick of one cycle, from tick `t0` and `TB0` at `v0` to `TB0` at `v1` 16 ticks later, at or after a time. -/
def tickAfter (at_ v0 v1 t0 : Nat) : Nat := t0 + ceilDiv ((at_ - v0) * 16) (max 1 (v1 - v0))

/-- The starts whose execute-at time `TB0` has reached in the cycle that took it from `v0` at root tick `t0` to its present
value (04, R115): the tick is fixed, and groups whose strobe was launched learn their t0. A start whose root tick lies in the
cycle is stamped with it (11, R331). -/
def State.startTicks (s : State) (v0 t0 : Nat) : State :=
  let fix (x : Start) : Start :=
    match x.tick, x.at_ with
    | none, some t => if t ≤ s.tb0.value then { x with tick := some (tickAfter t v0 s.tb0.value t0) } else x
    | _, _ => x
  let stamp (x : Start) : Start :=
    match x.tick with
    | some t => if x.stamp.isNone && decide (t < t0 + 16) then { x with stamp := some (v0 + (t - t0) * 0x10000000) } else x
    | none => x
  (s.starts.filter fun x => x.tick.isNone && x.strobed).foldl (fun s x =>
    match (fix x).tick with
    | some t => s.strobeGroups x t
    | none => s) { s with starts := s.starts.map fun x => stamp (fix x) }

/-- `START_STROBE` (R115): the strobe is launched, 96 ns ahead of the start instant. Its groups learn their t0 where the root
tick of that instant is fixed, and else when it comes. -/
def execStartStrobe (k : JobKey) (s : State) : Host.Outcome State Fault Refusal :=
  .next (match s.starts.find? fun x => sameKey x.key k && !x.strobed with
    | none => s
    | some x =>
      let l := s.starts.map fun (y : Start) => if sameKey y.key k then { y with strobed := true } else y
      match x.tick with
      | none => { s with starts := l }
      | some t => ({ s with starts := l }).strobeGroups x t)

/-- A group begins test cycle 0 at an instant: its first entry plays, or it underruns (R115, R116). -/
def State.startGroup (s : State) (g : Fin 16) (t0 : Int) : State :=
  let s := s.modGroup g fun x => { x with run := { x.run with t0 := t0, nextAt := t0, heldStrobe := false } }
  let x := s.groups[g.val]
  match x.run.head with
  | .fresh e =>
    if x.tapReady then (s.modWorker (groupWorker g) fun k => { k with started := true }).beginPlay g e true else s
  | _ => (s.modWorker (groupWorker g) fun k => { k with started := true }).beginUnderrun g

/-- `GROUP_START` (R115, R116): while the Worker is halted the group holds the strobe. -/
def execGroupStart (g : Fin 16) (s : State) : Host.Outcome State Fault Refusal :=
  let x := s.groups[g.val]
  .next (if !s.groupAlive g || x.st != .armed || !x.run.strobed then s
    else if s.workers[(groupWorker g).val].st = .halted then
      s.modGroup g fun x => { x with run := { x.run with heldStrobe := true } }
    else s.startGroup g x.run.t0)

/-- `PLAY` (R114). -/
def execPlay (g : Fin 16) (s : State) : Host.Outcome State Fault Refusal :=
  let x := s.groups[g.val]
  .next (if !s.groupAlive g || !(x.st = .playing || x.st = .underrun) || x.run.stopping || x.run.ending || !x.tapReady then s
    else match x.run.next with
      | .again e => s.beginPlay g e false
      | .fresh e => s.beginPlay g e true
      | _ => s)

/-- `UNDERRUN` (R119, R120): no entry is available at the boundary and the run does not end there; in an underrun, a further
idle cycle. -/
def execUnderrun (g : Fin 16) (s : State) : Host.Outcome State Fault Refusal :=
  let x := s.groups[g.val]
  .next (if !s.groupAlive g || x.run.stopping || x.run.ending || s.runMayEnd g || x.run.next != .none_ then s
    else if x.st = .playing then s.beginUnderrun g
    else if x.st = .underrun then s.modGroup g fun x => x.idleCycle
    else s)

/-! The formatter (R102, R103). -/

/-- Does transition `a` come before `b`: by effective time, then test cycle, then drive before return (R103)? -/
def Trans.before (a b : Trans) : Bool :=
  decide (a.time < b.time) || (a.time = b.time && (decide (a.cycle < b.cycle) || (a.cycle = b.cycle && !a.ret && b.ret)))

/-- The first of a list of transitions. -/
def firstTrans : List Trans → Option Trans
  | [] => none
  | a :: l => match firstTrans l with
    | none => some a
    | some b => if b.before a then some b else some a

/-- A group counts a dropped transition (R103). -/
def Group.countClash (x : Group) (cycle : Nat) : Group :=
  { x with clash := x.clash + 1, edgeClash := true, run := { x.run with clashAt := x.run.clashAt <|> some cycle } }

/-- Has the halt in force come before a time (R121)? -/
def Run.held (r : Run) (t : Int) : Bool :=
  match r.haltAt with
  | none => false
  | some h => h ≤ t

/-- Are all transitions of a signal known that lie within 62.5 ps behind a time: none of a play still to begin can (R103)? In
a halt that time is known to lie before H, and every play still to begin is put off (R121). -/
def Group.settledAt (x : Group) (p : Fin 8) (txe : Bool) (t : Int) : Bool :=
  x.run.stopping || x.run.ending || !(x.st = .playing || x.st = .underrun) ||
    decide (t + 256 ≤ x.run.nextAt + (at? x.pins[p.val].offsets (if txe then 1 else 0)).getD 0)

/-- `TRANSITION` (R102, R103): the earliest transition of the signal is applied, or dropped where a later one lies less than
62.5 ps after it (one that a halt puts off does not). One near the end of a play waits until the next play has begun, whose
transitions may drop it. -/
def execTransition (g : Fin 16) (p : Fin 8) (txe : Bool) (s : State) : Host.Outcome State Fault Refusal :=
  let x := s.groups[g.val]
  let f := x.pins[p.val].fmt
  let q := if txe then f.txeq else f.txq
  .next (match firstTrans q with
    | none => s
    | some a =>
      if !s.groupAlive g || x.run.held a.time || !x.settledAt p txe a.time then s
      else
        let rest := q.erase a
        let last := if txe then f.lastTxe else f.lastTx
        let near := rest.any fun b => decide (b.time < a.time + 256) && !x.run.held b.time
        let late := last.any fun t => decide (a.time < t)
        let clash := near || last.any fun t => decide (a.time < t + 256) && decide (t < a.time + 256)
        let apply := !near && !late
        let s := s.modGroup g fun x =>
          let x := if clash then x.countClash a.cycle else x
          { x with pins := upd x.pins p fun y =>
              let m := if apply then some a.time else last
              { y with fmt := if txe then { y.fmt with txeq := rest, lastTxe := m }
                              else { y.fmt with txq := rest, lastTx := m } } }
        let n := groupPort g p
        if apply && s.ports[n.val].link = .waveform then s.driveOut n txe (levelOf a.value) else s)

/-! The tap (R106 to R108; 07, R207). -/

/-- The play that is `k` plays ahead of the last one started, and whether it is its entry's first. -/
def Run.upcomingIn (r : Run) : Nat → List Entry → Option (Entry × Bool)
  | _, [] => none
  | k, e :: l =>
    let (n, ended) := r.decided e
    if k < n then some (e, k = 0) else if ended then r.upcomingIn (k - n) l else none

/-- The play that is `k` plays ahead. -/
def Run.upcoming (r : Run) (k : Nat) : Option (Entry × Bool) :=
  match r.cur with
  | none => r.upcomingIn k r.fifo
  | some e =>
    let (n, ended) := r.decided e
    if k < n - r.plays then some (e, false) else if ended then r.upcomingIn (k - (n - r.plays)) r.fifo else none

/-- `TAP_MKC` (R106): bit c set when any pin carries MK in cycle c of the word. -/
def tapMkc (t : TimingSet) (word : BitVec 256) : Nat :=
  if t.fast then 0
  else packBools ((List.range 8).map fun c => (List.range 8).any fun p => wordCode false word c p = 0xF)

/-- `TAP_NEXT` (R106): the group drives its tap signals for the next play not yet announced. -/
def execTapNext (g : Fin 16) (s : State) : Host.Outcome State Fault Refusal :=
  let x := s.groups[g.val]
  .next (if !s.groupAlive g || !x.tapEn || x.run.stopping || x.run.ending || !(x.st = .armed || x.st = .playing || x.st = .underrun) then s
    else match x.run.upcoming x.run.tapAhead with
      | none => s
      | some (e, first) =>
        let (d, t0) := groupEdge g
        let ctl := 1 + bitAt first 1 + bitAt e.match_.isSome 2 + bitAt e.mark.isSome 3 + e.set.val * 2 ^ 4
        let s := s.modGroup g fun x => { x with run := { x.run with tapAhead := x.run.tapAhead + 1 } }
        let s := (List.range 12).foldl (fun s i => s.setEdge d (t0 + i) 0 ctl) s
        (s.setEdge d t0 1 ((e.mark.map (·.toNat)).getD 0)).setEdge d t0 2 (tapMkc x.sets[e.set.val] e.word))

/-- `TAP_SAMPLE` (R106): the fabric's answer for the oldest announced play that has none. -/
def execTapSample (g : Fin 16) (s : State) : Host.Outcome State Fault Refusal :=
  let x := s.groups[g.val]
  .next (if !s.groupAlive g || !x.tapEn || decide (x.run.tapAhead ≤ x.run.tapGot.length) || x.st = .halted then s
    else
      let (d, t0) := groupEdge g
      let ev := ((List.range 16).map fun i => s.edgeOut d (t0 + i / 4) (i % 4)).foldr (fun v a => v + 65536 * a) 0
      let o (w : Nat) : Nat := s.edgeOut d (t0 + 4) w
      let q : TapSample := { ev := BitVec.ofNat 256 ev, addr := BitVec.ofNat 32 (o 0 + 65536 * o 1), data := BitVec.ofNat 16 (o 2) }
      s.modGroup g fun x => { x with run := { x.run with tapGot := x.run.tapGot ++ [q] } })

/-! Compares (R105, R109, R113). -/

/-- The earliest compare not yet sampled. -/
def firstStrobe : List Compare → Option Compare
  | [] => none
  | a :: l => match firstStrobe l with
    | none => if a.fail.isNone then some a else none
    | some b => if a.fail.isNone && decide (a.time ≤ b.time) then some a else some b

/-- A compare takes the sample of its next time (R101, R105): `RX` high for CH and WH, `RXL` high for CL and WL, and neither
for CZ, whose two comparators have times of their own. A window goes on to its next grid point. It has passed when every
sample has. -/
def Compare.sample (a : Compare) (rx rxl : Bool) : Compare :=
  let t := a.time
  let cz := a.code = 10
  let failed := a.failed || (a.rxAt = some t && rx = cz) || (a.rxlAt = some t && rxl = cz)
  let on (o : Option Int) : Option Int :=
    if o != some t then o
    else if isWindow a.code.toNat && decide (t + 128 ≤ a.last) then some (t + 128) else none
  let x := on a.rxAt
  let y := on a.rxlAt
  { a with rxAt := x, rxlAt := y, failed := failed, fail := if x.isNone && y.isNone then some failed else none }

/-- `STROBE` (R105): the earliest sample that a compare of the pin still has to take, of `RX` and `RXL` at its time. Levels of
inputs that are ignored are free values (log entry 5). DESIGN CHOICE: of a looped group the row brings what the receivers
see, and the model does not derive it from `TX` (R159; log entry 68). -/
def execStrobe (g : Fin 16) (p : Fin 8) (rx rxl : Bool) (s : State) : Host.Outcome State Fault Refusal :=
  let x := s.groups[g.val]
  let n := groupPort g p
  .next (match firstStrobe x.pins[p.val].fmt.strobes with
    | none => s
    | some a =>
      if !s.groupAlive g || x.run.held a.time then s
      else
        let inv := s.ports[n.val].inv
        let (f, s') := s.drawFree
        let (rx, rxl, s) := if s.portLive n || (s.portOn n && x.loopback) then (rx != inv.getLsbD 2, rxl != inv.getLsbD 3, s)
          else (f.getLsbD 0, f.getLsbD 1, s')
        let strobes := x.pins[p.val].fmt.strobes.map fun (b : Compare) => if b = a then a.sample rx rxl else b
        s.modGroup g fun x => { x with pins := upd x.pins p fun y => { y with fmt := { y.fmt with strobes := strobes } } })

/-- A result of a play of a match word arrives (R109, R111). -/
def MatchSt.result (m : MatchSt) (cycle first p : Nat) (fail : Bool) : MatchSt :=
  let plays := m.plays.map fun q =>
    if q.cycle = first then
      { q with left := q.left - 1, failed := q.failed || fail
               masks := if fail && decide (cycle - first < 8) then
                   q.masks ||| BitVec.ofNat 64 (2 ^ (8 * (cycle - first) + p)) else q.masks }
    else q
  { m with plays := plays, passed := m.passed || plays.any fun q => q.cycle = first && q.left = 0 && !q.failed }

/-- `FAIL_BIT` (R113): the oldest sampled compare of the pin reaches fail compression, or match logic. -/
def execFailBit (g : Fin 16) (p : Fin 8) (s : State) : Host.Outcome State Fault Refusal :=
  let x := s.groups[g.val]
  let l := x.pins[p.val].fmt.strobes
  .next (match l.find? (·.fail.isSome) with
    | none => s
    | some a => if !s.groupAlive g then s else
      let fail := a.fail = some true
      let s := s.modGroup g fun x => { x with pins := upd x.pins p fun y =>
        { y with fmt := { y.fmt with strobes := y.fmt.strobes.erase a }
                 fails := if fail && a.word.isNone then satAdd y.fails 1 else y.fails } }
      match a.word with
      | some (i, first) => s.modGroup g fun x => { x with run := { x.run with
          matches_ := x.run.matches_.map fun m => if m.id = i then m.result a.cycle first p.val fail else m } }
      | none =>
        let bit : BitVec 8 := if fail then BitVec.ofNat 8 (2 ^ p.val) else 0
        let s := s.modGroup g fun x => { x with fail := { x.fail with
          open_ := x.fail.open_.map fun o =>
            if o.cycle = a.cycle then
              { o with left := o.left - 1, pins := o.pins ||| bit
                       window := if isWindow a.code.toNat then o.window ||| bit else o.window }
            else o } }
        s.closeCycles g)

/-! Match words and markers (R110 to R112). -/

/-- The decision for one more play of a match word (R110). -/
def MatchSt.decide_ (m : MatchSt) : MatchSt :=
  if m.passed || decide (m.timeout ≤ m.decided) then { m with ended := true } else { m with decided := m.decided + 1 }

/-- The first match word whose end is not decided gets a decision. -/
def decideFirst : List MatchSt → List MatchSt
  | [] => []
  | m :: l => if m.ended then m :: decideFirst l else m.decide_ :: l

/-- `MATCH_DECISION` (R110). -/
def execMatchDecision (g : Fin 16) (s : State) : Host.Outcome State Fault Refusal :=
  let x := s.groups[g.val]
  .next (if !s.groupAlive g || x.run.stopping || !(x.st = .armed || x.st = .playing || x.st = .underrun) then s
    else s.modGroup g fun x => { x with run := { x.run with matches_ := decideFirst x.run.matches_ } })

/-- Can a match word resolve: a pass has arrived, or it has ended and every result is in (R111)? -/
def MatchSt.resolvable (m : MatchSt) : Bool :=
  !m.resolved && (m.passed || (m.ended && m.plays.length = m.decided && m.plays.all (·.left = 0)))

/-- `MATCH_RESOLVED` (R111): `MF` and line 4 show with it (log entry 25). -/
def execMatchResolved (g : Fin 16) (s : State) : Host.Outcome State Fault Refusal :=
  let x := s.groups[g.val]
  let w := groupWorker g
  .next (match x.run.matches_.find? (!·.resolved) with
    | none => s
    | some m =>
      if !s.groupAlive g || !m.resolvable then s
      else
        let s := s.modGroup g fun x => { x with run := { x.run with
          matches_ := x.run.matches_.map fun y => if y.id = m.id then { y with resolved := true } else y } }
        let s := s.modWorker w fun k => { k with regs := { k.regs with mf := !m.passed } }
        let s := s.pendLine w 4
        if m.passed then s
        else match m.plays.getLast? with
          | none => s
          | some q => s.raiseDie (groupDie g) ⟨24 + g.val % 4, by omega⟩ 2 g.val (detail [(0, 6, q.cycle), (8, 8, q.masks.toNat)]))

/-- `MARKER_RECORD` (R112). -/
def execMarkerRecord (g : Fin 16) (s : State) : Host.Outcome State Fault Refusal :=
  .next (match s.groups[g.val].run.marks with
    | [] => s
    | (v, c) :: l => if !s.groupAlive g then s else
      (s.modGroup g fun x => { x with markValue := v, markCount := x.markCount + 1, markCycle := c
                                      run := { x.run with marks := l } }).pendLine (groupWorker g) 3)

/-! The end of a run (R122, R123). -/

/-- Does a Worker stall on `vwait` condition 2? -/
def Worker.waitsDrained (k : Worker) : Bool :=
  match k.stall with
  | some (.vwait c _) => c = 2
  | _ => false

/-- The last entry of the run has finished at the pins (R123): the group is DONE, and the Worker that waits for it goes on. -/
def State.finishRun (s : State) (g : Fin 16) : State :=
  let w := groupWorker g
  let s := s.modGroup g fun x => { x with st := .done, run := { x.run with ending := false } }
  if s.workers[w.val].ended then s.endWorker w
  else if s.workers[w.val].waitsDrained then s.modWorker w fun k => { k with stall := some .drained }
  else s

/-- `RUN_DONE` (R122, R123): a stopped group has completed its test cycle; or the last play of the run has ended, which fixes
that the run ends whatever its Worker does next; or what it left has finished at the pins. -/
def execRunDone (g : Fin 16) (s : State) : Host.Outcome State Fault Refusal :=
  let x := s.groups[g.val]
  let w := groupWorker g
  .next (if !s.groupAlive g then s
    else if x.run.stopping then
      (s.modGroup g fun x => { x with st := .done, run := { x.run with stopping := false } }).stopSettled w
    else if !(x.st = .playing || x.st = .underrun) then s
    else if x.run.ending || (s.runMayEnd g && x.run.next = .none_) then
      if x.drained then s.finishRun g else s.modGroup g fun x => { x with run := { x.run with ending := true } }
    else s)

end Sys2Proof.Machine
end

