-- ==== Sys2Proof/Machine/DbgCmds.lean ====
section
/-! DEFINITION. The debug commands (spec/16_debug.md; unlocking: spec/15_security.md, R423, R424). -/

namespace Sys2Proof.Machine

/-! Scopes (R430). -/

/-- Is a scope open: each by its own unlock, and scope 2 opens all of scope 1? -/
def State.scopeOpen (s : State) (two : Bool) : Bool := if two then s.sec.scope2 else s.sec.scope1 || s.sec.scope2

/-- Step 9: `DEBUG_LOCKED` for a command that touches a locked scope. -/
def State.scopeCheck (s : State) (one two : Bool) : Option Verdict :=
  refuseIf ((one && !s.scopeOpen false) || (two && !s.scopeOpen true)) stLocked

/-! Unlocking (15, R423, R424). -/

/-- The 88 bytes that a challenge's signatures cover. -/
def State.challengeMsg (s : State) (random : Bytes) (scope : Nat) : Bytes :=
  random ++ numBytes 8 Config.identity.toNat ++ numBytes 4 scope ++ numBytes 4 s.tb0.ns.toNat ++
    numBytes 6 s.tb0.sec.toNat ++ [0, 0]

/-- `STEP` 0: a fresh challenge replaces any earlier one. -/
def challengeAct (scope : Nat) (s : State) : Act :=
  let (a, s) := s.draw
  let (b, s) := s.draw
  let m := s.challengeMsg (a ++ b) scope
  .done { s with sec := { s.sec with challenge := some { scope := BitVec.ofNat 2 scope, msg := m } } }
    (wordsOfBytes (m ++ idSignature m))

/-- Is a signature over a challenge good: by the owner key for scope 1, by a certified vendor debug key for scope 2? -/
def State.unlocks (s : State) (c : Challenge) (data : Bytes) : Bool :=
  if c.scope = 1 then s.sec.owner.any fun o => Config.verify o.pub c.msg (data.take 132)
  else (Config.debugKey (data.drop 132)).any fun k => Config.isRoot k.2 && Config.verify k.1 c.msg (data.take 132)

/-- `STEP` 1: the challenge is consumed; a scope opens, with its report flag, or authorisation fails with `E042`. -/
def verifyAct (scope : Nat) (data : Bytes) (s : State) : Act :=
  let good : Bool := s.sec.challenge.any fun c => c.scope.toNat = scope && s.unlocks c data
  let s := { s with sec := { s.sec with challenge := none } }
  if !good then .close (s.alarm 3 0) ⟨stAuth, 0xFF⟩ false []
  else .done { s with sec := { s.sec with
    scope1 := s.sec.scope1 || scope = 1, scope2 := s.sec.scope2 || scope = 2
    flags := s.sec.flags ||| BitVec.ofNat 8 (2 ^ scope) } } []

/-- `STEP` 2: the scope locks. -/
def lockAct (scope : Nat) (s : State) : Act :=
  .done { s with sec := { s.sec with
    scope1 := s.sec.scope1 && scope != 1, scope2 := s.sec.scope2 && scope != 2 } } []

/-- `DBG_UNLOCK` (15, R423, R424). A challenge needs the DRBG (15, R422). -/
def cmdDbgUnlock : CmdDef :=
  { CmdDef.plain 0x1000 0 modeAny [] (fun j s =>
      let b := j.args
      let scope := fld b 32 8 2
      match fld b 32 0 2 with
      | 0 => challengeAct scope s
      | 1 => verifyAct scope ((bytesOfWords (b.drop 1)).take (fld b 32 16 16)) s
      | _ => lockAct scope s) with
    length := fun p => 36 + fld p.params 32 16 16
    fields := fun p =>
      [⟨0, 32, 0, 2, .names (· < 3)⟩, ⟨1, 32, 8, 2, .names fun v => v = 1 || v = 2⟩, ⟨2, 32, 16, 16, .any⟩,
       ⟨3, 36, 0, 32 * (p.blockLen - 1), .any⟩]
    echoEnd := some 36
    checks := fun s j => refuseIf (fld j.args 32 0 2 = 0 && !s.sec.drbgOk) stNotReady }

/-- `DBG_UNLOCK`: the row. -/
def execDbgUnlock (p : Pkt) (s : State) : Host.Outcome State Fault Refusal := .next (cmdDbgUnlock.fetch p s)

/-! Halting and resuming (R431 to R436, R443). -/

/-- The Queen core is named only through the mailbox (R443). -/
def queenNaming (path : Path) (p : Pkt) : List Nat := if fld p.block 36 0 1 = 1 && path != .mailbox then [1] else []

/-- The members of the buzz groups of a mask. -/
def State.membersOf (s : State) (groups : Nat) : List (Fin 32) :=
  ((allFin 8).filter fun g => groups.testBit g.val).flatMap s.buzzMembers

/-- `DBG_HALT`: requests to the named Workers and to the members of the named groups, `E040`; it commits when all of them
that run have halted or lapsed. -/
def dbgHaltAct (j : Job) (s : State) : Act :=
  let b := j.args
  let runs (w : Fin 32) : Bool := s.workers[w.val].st = .running && !s.net.dies[(workerDie w).val].fenced
  let named := (workersOf (fld b 32 0 32)).filter runs
  let asked := maskOf (named ++ (s.membersOf (fld b 36 8 8)).filter runs)
  let s := forAll named (fun w s => s.requestHalt w 0) s
  let s := s.raise 40 1 0 (detail [(0, 1, 0xFF), (1, 1, s.swarm.id.toNat)])
  let s := s.fireGroups (BitVec.ofNat 8 (fld b 36 8 8))
  let s := { s with queen := { s.queen with dbgHalt := s.queen.dbgHalt || fld b 36 0 1 = 1 } }
  if asked = 0 then .done s [0]
  else .stay { s with dbg := { s.dbg with haltJobs := s.dbg.haltJobs ++ [(j.key, BitVec.ofNat 32 asked, 0)] } }

/-- `DBG_HALT` (R431 to R435, R443). -/
def cmdDbgHalt : CmdDef :=
  { CmdDef.plain 0x1001 40 modeOps [⟨0, 32, 0, 32, .any⟩, ⟨1, 36, 0, 1, .any⟩, ⟨2, 36, 8, 8, .any⟩] dbgHaltAct with
    naming := fun _ path p =>
      (if fld p.block 32 0 32 = 0 && fld p.block 36 0 1 = 0 && fld p.block 36 8 8 = 0 then [0] else []) ++ queenNaming path p
    checks := fun s j =>
      let b := j.args
      s.scopeCheck (fld b 32 0 32 != 0 || fld b 36 8 8 != 0) (fld b 36 0 1 = 1) }

/-- `DBG_HALT`: the row. -/
def execDbgHalt (p : Pkt) (s : State) : Host.Outcome State Fault Refusal := .next (cmdDbgHalt.fetch p s)

/-- A Worker that resumes: at `HPC`, its causes cleared, an enabled watchdog with fewer than 1,024 cycles left reloaded (R436;
03, R88). -/
def Worker.resume (k : Worker) : Worker :=
  let low : Bool := k.regs.wdogCtrl.getLsbD 0 && decide (k.regs.wdog.toNat < 1024)
  { k with
    st := .running, pc := k.dbg.hpc
    regs := { k.regs with wdog := if low then 1024 else k.regs.wdog, grace := k.regs.grace || low }
    dbg := { k.dbg with causes := 0, comp := 0 } }

/-- A HALTED Worker resumes, with its group (R436; 04, R116, R121). -/
def State.resumeWorker (s : State) (w : Fin 32) : State :=
  let s := s.modWorker w Worker.resume
  match workerGroup w with
  | none => s
  | some g =>
    let now := s.nowTu
    let x := s.groups[g.val]
    if x.st = .halted then s.modGroup g fun x => x.unhalt now
    else if x.st = .armed && x.run.heldStrobe then (s.modGroup g fun x => { x with lateStart := true }).startGroup g now
    else s

/-- May a HALTED Worker resume: its die lives? -/
def State.mayResume (s : State) (w : Fin 32) : Bool := s.workers[w.val].st = .halted && s.workerAlive w

/-- `DBG_RESUME` (R436, R443): Workers not HALTED are ignored. -/
def cmdDbgResume : CmdDef :=
  { CmdDef.plain 0x1002 40 modeAny [⟨0, 32, 0, 32, .any⟩, ⟨1, 36, 0, 1, .any⟩] (fun j s =>
      let b := j.args
      let s := forAll ((workersOf (fld b 32 0 32)).filter s.mayResume) (fun w s => s.resumeWorker w) s
      .done { s with queen := { s.queen with dbgHalt := s.queen.dbgHalt && fld b 36 0 1 != 1 } } []) with
    naming := fun _ path p => queenNaming path p
    checks := fun s j => s.scopeCheck (fld j.args 32 0 32 != 0) (fld j.args 36 0 1 = 1) }

/-- `DBG_RESUME`: the row. -/
def execDbgResume (p : Pkt) (s : State) : Host.Outcome State Fault Refusal := .next (cmdDbgResume.fetch p s)

/-- `DBG_STEP` (R437): the Worker resumes; its last bundle asks for the halt. -/
def dbgStepAct (j : Job) (s : State) : Act :=
  let w : Fin 32 := Fin.ofNat 32 j.p.unit.toNat
  let s := s.resumeWorker w
  .stay (s.modWorker w fun k => { k with dbg := { k.dbg with
    stepLeft := some (fld j.args 32 0 16), stepDone := 0, stepJob := some j.key } })

/-- `DBG_STEP`. -/
def cmdDbgStep : CmdDef :=
  { CmdDef.plain 0x1007 36 modeAny [⟨0, 32, 0, 16, .clamp 1 65535⟩] dbgStepAct with
    unitMax := 31
    checks := fun s j =>
      let w : Fin 32 := Fin.ofNat 32 j.p.unit.toNat
      firstOf [checkWorker s w, refuseIf (s.workers[w.val].st != .halted) stNotReady, s.scopeCheck true false] }

/-- `DBG_STEP`: the row. -/
def execDbgStep (p : Pkt) (s : State) : Host.Outcome State Fault Refusal := .next (cmdDbgStep.fetch p s)

/-! Reading and writing (R441, R442). -/

/-- First address of the internal register space (R430). -/
def internalBase : Nat := 0x300000000000

/-- Does a device range lie in the internal register space (log entry 15)? -/
def inInternal (a len : Nat) : Bool := decide (internalBase ≤ a) && decide (a + len ≤ 0x400000000000)

/-- The fields that `DBG_READ` and `DBG_WRITE` share: `SPACE`, `CONSUME`, `WORKER`, `ADDR`, `LENGTH`. -/
def dbgFields : List Field :=
  [⟨0, 32, 0, 2, .names (· < 3)⟩, ⟨1, 32, 8, 1, .any⟩, ⟨2, 32, 16, 5, .any⟩, ⟨3, 40, 0, 64, .any⟩,
   ⟨4, 48, 0, 16, .names fun v => 4 ≤ v && v ≤ 4096 && v % 4 = 0⟩]

/-- `ADDR` out of its space: a device range that is no one memory, or not aligned to words; registers that do not exist (a
Worker has 63, by number). `write`: a read of a sealed slot that holds a decrypted stream is refused (08, R239). -/
def dbgNaming (s : State) (p : Pkt) (write : Bool) : List Nat :=
  let b := p.block
  let a := fld b 40 0 64
  let len := fld b 48 0 16
  let ok : Bool := match fld b 32 0 2 with
    | 0 => a % 4 = 0 && (inInternal a len || ((areaFor a len).isSome && (write || s.rangeOk a len false)))
    | 1 => decide (a + len / 4 ≤ 63)
    | _ => true
  if ok then [] else [3]

/-- Is the scope that a `SPACE` and address need open, and is the Worker halted or the region stopped (R430, R441)? -/
def dbgCheck (s : State) (j : Job) : Option Verdict :=
  let b := j.args
  let a := fld b 40 0 64
  let len := fld b 48 0 16
  let w : Fin 32 := Fin.ofNat 32 (fld b 32 16 5)
  let busy : Bool := match fld b 32 0 2 with
    | 0 => (areaFor a len).any fun x => s.areaBusy x a len
    | 1 => s.workers[w.val].st != .halted || s.net.dies[(workerDie w).val].fenced
    | _ => false
  let two : Bool := fld b 32 0 2 = 2 || (fld b 32 0 2 = 0 && inInternal a len)
  firstOf [refuseIf busy stBusy (if fld b 32 0 2 = 1 then 2 else 3), s.scopeCheck (!two) two]

/-- A debug read of a Worker register (R442): a read of `CYCL` latches `CYCH` only with `CONSUME`, and is marked without it. -/
def State.dbgReg (s : State) (w : Fin 32) (n : Nat) (consume : Bool) : Word × State :=
  let v := s.readReg w s.workers[w.val].regs n
  if n != 49 then (v, s)
  else if consume then (v, s.modWorker w fun k => { k with regs := { k.regs with cych := BitVec.ofNat 32 (k.cycl.toNat / 2 ^ 32) } })
  else (v, { s with dbg := { s.dbg with seSupp := true } })

/-- Worker registers read from a number upwards. -/
def State.dbgRegs (s : State) (w : Fin 32) (consume : Bool) : Nat → Nat → Words × State
  | _, 0 => ([], s)
  | n, k + 1 =>
    let (v, s) := s.dbgReg w n consume
    let (vs, s) := s.dbgRegs w consume (n + 1) k
    (v :: vs, s)

/-- Words of a space whose registers the spec does not lay out: the last value that debug wrote, else a free value (log
entry 15). -/
def State.listedWords (s : State) (l : List (Nat × Word)) (step : Nat) : Nat → Nat → Words × State
  | _, 0 => ([], s)
  | a, k + 1 =>
    let (v, s) : Word × State := match l.find? fun e => e.1 = a with
      | some e => (e.2, s)
      | none => s.drawFree
    let (vs, s) := s.listedWords l step (a + step) k
    (v :: vs, s)

/-- Words put into such a space. -/
def putListed (l : List (Nat × Word)) (step : Nat) : Nat → Words → List (Nat × Word)
  | _, [] => l
  | a, v :: vs => putListed ((a, v) :: l.filter fun e => e.1 != a) step (a + step) vs

/-- The result fields of a transfer that ended at an error or completed (09, R280). -/
def transferWords (err done at_ : Nat) : Words := [BitVec.ofNat 32 err, 0] ++ numWords 2 done ++ numWords 2 at_

/-- The result fields after a device access, and the state: `ERROR`, `BYTES_DONE`, failing address. -/
def Served.debugWords (r : Served) (a len : Nat) : Words × State :=
  match r.fail with
  | none => (transferWords 0 len 0, r.st)
  | some (f, at_) =>
    let (v, s) := r.st.drawFree
    (transferWords (f.code v).toNat ((at_ - a) / 4 * 4) at_, s)

/-- A device range read for debug: one on a die or slice that is down fails (log entry 38). -/
def State.dbgArea (s : State) (p : Pkt) (x : Area) (a len : Nat) : Served × Bytes :=
  if s.areaDown x a len && !s.areaFenced x then (⟨s, some (.notReady, a), .ok⟩, []) else s.readFor p .debug x a len

/-- `DBG_READ` of a device range: the data read, then `ERROR`, `BYTES_DONE` and the failing address (log entry 38). -/
def State.dbgDevice (s : State) (p : Pkt) (a len : Nat) : Words × State :=
  if inInternal a len then s.listedWords s.dbg.internal 4 a (len / 4)
  else match areaFor a len with
    | none => ([], s)
    | some x =>
      let (r, bs) := s.dbgArea p x a len
      let (ws, s) := r.debugWords a len
      let done := match r.fail with
        | none => len
        | some (_, at_) => (at_ - a) / 4 * 4
      (wordsOfBytes (bs.take done) ++ ws, s)

/-- `DBG_READ` (R441, R442). -/
def cmdDbgRead : CmdDef :=
  { CmdDef.plain 0x1003 56 modeAny dbgFields (fun j s =>
      let b := j.args
      let a := fld b 40 0 64
      let len := fld b 48 0 16
      let (ws, s) : Words × State := match fld b 32 0 2 with
        | 0 => s.dbgDevice j.p a len
        | 1 => s.dbgRegs (Fin.ofNat 32 (fld b 32 16 5)) (fld b 32 8 1 = 1) a (len / 4)
        | _ => s.listedWords s.queen.regs 1 a (len / 4)
      .done s ws) with
    naming := fun s _ p => dbgNaming s p false
    checks := dbgCheck }

/-- `DBG_READ`: the row. -/
def execDbgRead (p : Pkt) (s : State) : Host.Outcome State Fault Refusal := .next (cmdDbgRead.fetch p s)

/-- A device range written for debug: the Worker's measurement is void (15, R415). -/
def State.dbgPut (s : State) (p : Pkt) (a : Nat) (ws : Words) : Words × State :=
  if inInternal a (4 * ws.length) then
    ([], { s with dbg := { s.dbg with internal := putListed s.dbg.internal 4 a ws } })
  else match areaFor a (4 * ws.length) with
    | none => ([], s)
    | some x =>
      let r : Served :=
        if s.areaDown x a (4 * ws.length) && !s.areaFenced x then ⟨s, some (.notReady, a), .ok⟩
        else s.writeFor p .debug x a (bytesOfWords ws)
      r.debugWords a (4 * ws.length)

/-- Worker registers written from a number upwards; one that is read-only keeps its value. -/
def Regs.putRegs (r : Regs) : Nat → Words → Regs
  | _, [] => r
  | n, v :: vs => (r.apply n (v.setWidth 72)).putRegs (n + 1) vs

/-- `DBG_WRITE` (R441). -/
def cmdDbgWrite : CmdDef :=
  { CmdDef.plain 0x1004 0 modeAny [] (fun j s =>
      let b := j.args
      let a := fld b 40 0 64
      let ws := (b.drop 6).take (fld b 48 0 16 / 4)
      let (r, s) : Words × State := match fld b 32 0 2 with
        | 0 => s.dbgPut j.p a ws
        | 1 => ([], s.modWorker (Fin.ofNat 32 (fld b 32 16 5)) fun k => { k with regs := k.regs.putRegs a ws })
        | _ => ([], { s with queen := { s.queen with regs := putListed s.queen.regs 1 a ws } })
      .done s r) with
    length := fun p => 56 + fld p.params 48 0 16
    fields := fun p => dbgFields ++ [⟨5, 56, 0, 32 * (p.blockLen - 6), .any⟩]
    echoEnd := some 56
    naming := fun s _ p => dbgNaming s p true
    checks := dbgCheck }

/-- `DBG_WRITE`: the row. -/
def execDbgWrite (p : Pkt) (s : State) : Host.Outcome State Fault Refusal := .next (cmdDbgWrite.fetch p s)

/-! Comparators and buzz groups (R438 to R440). -/

/-- The comparator that a block gives. -/
def comparatorOf (b : Words) (c : Nat) : Comparator :=
  let o := 32 + 8 * c
  { en := fld b o 0 1 = 1, space := BitVec.ofNat 2 (fld b o 1 2), access := BitVec.ofNat 2 (fld b o 3 2)
    buzz := BitVec.ofNat 8 (fld b o 8 8), addr := BitVec.ofNat 16 (fld b o 32 16), mask := BitVec.ofNat 16 (fld b o 48 16) }

/-- `DBG_BREAK_SET` (R438). -/
def cmdDbgBreakSet : CmdDef :=
  { CmdDef.plain 0x1005 96 modeAny
      ((List.range 8).flatMap fun c =>
        let o := 32 + 8 * c
        [⟨6 * c, o, 0, 1, .any⟩, ⟨6 * c + 1, o, 1, 2, .names (· < 3)⟩, ⟨6 * c + 2, o, 3, 2, .names (· < 3)⟩,
         ⟨6 * c + 3, o, 8, 8, .any⟩, ⟨6 * c + 4, o + 4, 0, 16, .any⟩, ⟨6 * c + 5, o + 4, 16, 16, .any⟩])
      (fun j s =>
        let b := j.args
        .done (s.modWorker (Fin.ofNat 32 j.p.unit.toNat) fun k => { k with dbg := { k.dbg with
          comps := Vector.ofFn fun c => comparatorOf b c.val } }) []) with
    unitMax := 31
    checks := fun s j =>
      let w : Fin 32 := Fin.ofNat 32 j.p.unit.toNat
      firstOf [checkWorker s w, refuseIf (s.workers[w.val].st = .running) stBusy 0, s.scopeCheck true false] }

/-- `DBG_BREAK_SET`: the row. -/
def execDbgBreakSet (p : Pkt) (s : State) : Host.Outcome State Fault Refusal := .next (cmdDbgBreakSet.fetch p s)

/-- `DBG_XTRIG_SET` (R439, R440). -/
def cmdDbgXtrigSet : CmdDef :=
  { CmdDef.plain 0x1006 96 modeAny
      ((List.range 8).flatMap fun g => [⟨2 * g, 32 + 8 * g, 0, 32, .any⟩, ⟨2 * g + 1, 36 + 8 * g, 0, 32, .any⟩])
      (fun j s =>
        let b := j.args
        .done { s with dbg := { s.dbg with
          members := Vector.ofFn fun g => wordAt b (32 + 8 * g.val)
          fabricEv := Vector.ofFn fun g => wordAt b (36 + 8 * g.val) } } []) with
    checks := fun s _ =>
      let runs (w : Fin 32) : Bool := s.workers[w.val].active && !s.net.dies[(workerDie w).val].fenced
      firstOf [refuseIf ((allFin 32).any runs) stBusy 0, s.scopeCheck true false] }

/-- `DBG_XTRIG_SET`: the row. -/
def execDbgXtrigSet (p : Pkt) (s : State) : Host.Outcome State Fault Refusal := .next (cmdDbgXtrigSet.fetch p s)

end Sys2Proof.Machine
end

