-- ==== Sys2Proof/Machine/EvtCmds.lean ====
section
/-! DEFINITION. The EVT commands and the writing of event records (spec/18_events.md, spec/02_command_interface.md R32). -/

namespace Sys2Proof.Machine

/-- The masks written (R460): a pending record whose event is masked is discarded. -/
def State.setMasks (s : State) (m : Nat) : State :=
  { s with ev := { s.ev with
      src := Vector.ofFn fun e => { s.ev.src[e.val] with mask := m.testBit e.val }
      latch := s.ev.latch.filter fun r => !m.testBit r.event.val } }

/-- `EVT_MASK_SET` (18, R465). -/
def cmdEvtMaskSet : CmdDef :=
  .plain 0x1100 64 modeAny [⟨0, 32, 0, 256, .any⟩] fun j s => .done (s.setMasks (fld j.args 32 0 256)) []

/-- `EVT_MASK_SET`: the row. -/
def execEvtMaskSet (p : Pkt) (s : State) : Host.Outcome State Fault Refusal := .next (cmdEvtMaskSet.fetch p s)

/-- A route written: vector, MSI-X enable, `IRQ_N` enable (R461). -/
def EvState.withRoute (x : EvState) (r : Nat) : EvState :=
  { x with vector := BitVec.ofNat 6 r, msi := r.testBit 6, irq := r.testBit 8 }

/-- The routes of `n` events from the first written (R461). -/
def State.setRoutes (s : State) (first n : Nat) (route : Nat → Nat) : State :=
  { s with ev := { s.ev with
      src := Vector.ofFn fun e =>
        if first ≤ e.val ∧ e.val < first + n then s.ev.src[e.val].withRoute (route (e.val - first)) else s.ev.src[e.val] } }

/-- `EVT_ROUTE_SET` (18, R465). -/
def cmdEvtRouteSet : CmdDef :=
  { CmdDef.plain 0x1101 36 modeAny [] fun j s =>
      .done (s.setRoutes (fld j.args 32 0 8) (fld j.args 32 8 9) fun i => fld j.args (36 + 4 * i) 0 9) [] with
    length := fun p => 36 + 4 * fld p.params 32 8 9
    fields := fun p =>
      [⟨0, 32, 0, 8, .any⟩,
       ⟨1, 32, 8, 9, .names fun n => 1 ≤ n && n ≤ 256 && fld p.params 32 0 8 + n ≤ 256⟩] ++
        (List.range (fld p.params 32 8 9)).map fun i => ⟨2 + i, 36 + 4 * i, 0, 9, .names fun v => !v.testBit 7⟩ }

/-- `EVT_ROUTE_SET`: the row. -/
def execEvtRouteSet (p : Pkt) (s : State) : Host.Outcome State Fault Refusal := .next (cmdEvtRouteSet.fetch p s)

/-- The body of `EVT_STATUS`: active, mask and pending bits, then the counts (R465). -/
def State.evtStatusBody (s : State) : Words :=
  bits256 (s.ev.src.toList.map (·.active)) ++ bits256 (s.ev.src.toList.map (·.mask)) ++
    bits256 ((allFin 256).map fun e => s.ev.latch.any (·.event = e)) ++ s.ev.src.toList.map (·.count)

/-- `EVT_STATUS` (18, R465). -/
def cmdEvtStatus : CmdDef :=
  .plain 0x1102 36 modeAny [⟨0, 32, 0, 1, .any⟩] fun j s =>
    .done (if fld j.args 32 0 1 = 1 then
      { s with ev := { s.ev with src := s.ev.src.map fun x => { x with count := 0 } } } else s) s.evtStatusBody

/-- `EVT_STATUS`: the row. -/
def execEvtStatus (p : Pkt) (s : State) : Host.Outcome State Fault Refusal := .next (cmdEvtStatus.fetch p s)

/-- Active bits cleared (R461); a pending record is not withdrawn. -/
def State.ackEvents (s : State) (m : Nat) : State :=
  { s with ev := { s.ev with
      src := Vector.ofFn fun e =>
        if m.testBit e.val then { s.ev.src[e.val] with active := false } else s.ev.src[e.val] } }

/-- `EVT_ACK` (18, R465). -/
def cmdEvtAck : CmdDef :=
  .plain 0x1103 64 modeAny [⟨0, 32, 0, 256, .any⟩] fun j s => .done (s.ackEvents (fld j.args 32 0 256)) []

/-- `EVT_ACK`: the row. -/
def execEvtAck (p : Pkt) (s : State) : Host.Outcome State Fault Refusal := .next (cmdEvtAck.fetch p s)

/-- The eight words of an event record with its sequence number (R458). -/
def EvRec.words (r : EvRec) (seq : Word) : Words :=
  [BitVec.ofNat 32 (r.event.val + r.sev.toNat * 2 ^ 8 + bitAt r.valid 11 + r.unit.toNat * 2 ^ 12 + r.count.toNat * 2 ^ 24),
   r.ns.setWidth 32, r.sec, seq] ++ numWords 4 r.detail.toNat

/-- The oldest pending record is written while the PCIe link is up, the event ring is enabled and has a free slot and the device is awake; then
the vector of its route is signalled (02, R32; 18, R458, R461). -/
def execEventWrite (s : State) : Host.Outcome State Fault Refusal :=
  match s.ev.latch with
  | [] => .next s
  | r :: l =>
    if !(s.hif.pcieUp && s.hif.evtEn && decide (0 < s.hif.evtFree) && s.rsc.hib = .awake) then .next s
    else
      let tail := s.hif.evtTail
      let s := { s with ev := { s.ev with latch := l }, hif := { s.hif with evtTail := tail + 1 } }
      let s := s.emit (.eventRing (BitVec.ofNat 32 (tail.toNat % 2 ^ s.hif.evtSize.toNat)) (r.words tail))
      let x := s.ev.src[r.event.val]
      .next (if x.msi then s.signal x.vector else s)

/-- The holdoff gap of a vector ends; a message that waited goes out and starts another gap (02, R32). -/
def execIrqHoldoffExpiry (v : Fin 64) (s : State) : Host.Outcome State Fault Refusal :=
  if !s.hif.msixGap.getLsbD v.val then .next s
  else
    let clear := ~~~(1#64 <<< v.val)
    let waits := s.hif.msixPba.getLsbD v.val
    let s := { s with hif := { s.hif with msixGap := s.hif.msixGap &&& clear, msixPba := s.hif.msixPba &&& clear } }
    .next (if waits then s.signal (BitVec.ofNat 6 v.val) else s)

end Sys2Proof.Machine
end

