-- ==== Sys2Proof/Machine/Hif.lean ====
section
/-! DEFINITION. Host accesses to the BAR0 registers (spec/02_command_interface.md, R25 to R28, R36). -/

namespace Sys2Proof.Machine

/-- A sticky error bit of `HIF_ERR` set. -/
def State.hifErrSet (s : State) (i : Nat) : State := { s with hif := { s.hif with err := s.hif.err ||| (1#32 <<< i) } }

/-- An unusable packet length (R36): the slots up to the doorbell are discarded. -/
def execSubResync (p : Pkt) (s : State) : Host.Outcome State Fault Refusal :=
  .next (if s.canFetch && s.unusable p then s.resync p else s)

/-- `HIF_DOORBELL_SUB` (R27): ignored with `DB_RANGE` when the ring would hold more than its slots; the write clears
`SUB_RESYNC`. -/
def execHifDoorbellSub (v : Word) (s : State) : Host.Outcome State Fault Refusal :=
  let c := { s with hif := { s.hif with subResync := false } }
  .next (s.overPcie (if 2 ^ c.hif.subSize.toNat < (v - c.hif.subHead).toNat then c.hifErrSet 2
    else { c with hif := { c.hif with subBell := v } }))

/-- `HIF_DOORBELL_REP` (R27): a count that the tail has not reached, or that would leave the ring overfull, is ignored. -/
def execHifDoorbellRep (v : Word) (s : State) : Host.Outcome State Fault Refusal :=
  .next (s.overPcie (if 2 ^ s.hif.repSize.toNat < (s.hif.repTail - v).toNat then s.hifErrSet 2
    else { s with hif := { s.hif with repBell := v } }))

/-- `HIF_DOORBELL_EVT` (R27). -/
def execHifDoorbellEvt (v : Word) (s : State) : Host.Outcome State Fault Refusal :=
  .next (s.overPcie (if 2 ^ s.hif.evtSize.toNat < (s.hif.evtTail - v).toNat then s.hifErrSet 2
    else { s with hif := { s.hif with evtBell := v } }))

/-- `HIF_CTRL.SUB_EN` (R25, R26): enabling resets the ring's counters; after a PCIe reset the bit stays zero until no tag
is in use on the PCIe path. -/
def execSubEn (on : Bool) (s : State) : Host.Outcome State Fault Refusal :=
  .next (s.overPcie (
    if !on then { s with hif := { s.hif with subEn := false } }
    else if s.hif.subEn then s
    else if s.hif.subHold && decide (0 < s.tagsOn Path.isPcie) then s
    else { s with hif := { s.hif with subEn := true, subHold := false, subHead := 0, subBell := 0 } }))

/-- `HIF_CTRL.REP_EN` (R25). -/
def execRepEn (on : Bool) (s : State) : Host.Outcome State Fault Refusal :=
  .next (s.overPcie (
    if !on then { s with hif := { s.hif with repEn := false } }
    else if s.hif.repEn then s
    else { s with hif := { s.hif with repEn := true, repTail := 0, repBell := 0 } }))

/-- `HIF_CTRL.EVT_EN` (R25). -/
def execEvtEn (on : Bool) (s : State) : Host.Outcome State Fault Refusal :=
  .next (s.overPcie (
    if !on then { s with hif := { s.hif with evtEn := false } }
    else if s.hif.evtEn then s
    else { s with hif := { s.hif with evtEn := true, evtTail := 0, evtBell := 0 } }))

/-- `HIF_ERR`: writing one clears the bit (R6). -/
def execHifErr (v : Word) (s : State) : Host.Outcome State Fault Refusal :=
  .next (s.overPcie { s with hif := { s.hif with err := s.hif.err &&& ~~~v } })

/-- A ring base's low or high word replaced; bits [11:0] are reserved (R4, R25). -/
def baseWord (b : BitVec 64) (high : Bool) (v : Word) : BitVec 64 :=
  if high then BitVec.ofNat 64 (b.toNat % 2 ^ 32 + v.toNat * 2 ^ 32)
  else BitVec.ofNat 64 (b.toNat / 2 ^ 32 * 2 ^ 32 + v.toNat / 2 ^ 12 * 2 ^ 12)

/-- A size as applied: 7 to 19 (R25). -/
def sizeApplied (v : Word) : BitVec 5 := BitVec.ofNat 5 (clampNat 7 19 (v.toNat % 32))

/-- A write of a ring's setting, ignored with `CFG_WHILE_EN` while the ring is enabled (R25). -/
def State.ringWrite (s : State) (enabled : Bool) (f : Hif → Hif) : State :=
  if enabled then s.hifErrSet 1 else { s with hif := f s.hif }

/-- A BAR0 write at an offset (BAR0 register map). An offset whose register has a row of its own, a read-only one, and
every other offset change nothing here. -/
def State.barWrite (s : State) (off : Nat) (v : Word) : State :=
  if off = 0x10 then s.ringWrite s.hif.subEn fun h => { h with subBase := baseWord h.subBase false v }
  else if off = 0x14 then s.ringWrite s.hif.subEn fun h => { h with subBase := baseWord h.subBase true v }
  else if off = 0x18 then s.ringWrite s.hif.subEn fun h => { h with subSize := sizeApplied v }
  else if off = 0x30 then s.ringWrite s.hif.repEn fun h => { h with repBase := baseWord h.repBase false v }
  else if off = 0x34 then s.ringWrite s.hif.repEn fun h => { h with repBase := baseWord h.repBase true v }
  else if off = 0x38 then s.ringWrite s.hif.repEn fun h => { h with repSize := sizeApplied v }
  else if off = 0x50 then s.ringWrite s.hif.evtEn fun h => { h with evtBase := baseWord h.evtBase false v }
  else if off = 0x54 then s.ringWrite s.hif.evtEn fun h => { h with evtBase := baseWord h.evtBase true v }
  else if off = 0x58 then s.ringWrite s.hif.evtEn fun h => { h with evtSize := sizeApplied v }
  else if off = 0x70 then { s with hif := { s.hif with irqHoldoff := v.setWidth 16 } }
  else if 0x1000 ≤ off ∧ off < 0x1400 ∧ off % 4 = 0 then
    { s with hif := { s.hif with msixTable := upd s.hif.msixTable (Fin.ofNat 256 ((off - 0x1000) / 4)) fun _ => v } }
  else s

/-- `HIF_CTRL` as it reads. -/
def Hif.ctrl (h : Hif) : Word := BitVec.ofNat 32 (bitAt h.subEn 0 + bitAt h.repEn 1 + bitAt h.evtEn 2)

/-- A BAR0 offset as it reads (BAR0 register map): the doorbells, which are WO, and every offset that the map does not list read
zero (R6). -/
def State.barRead (s : State) (off : Nat) : Word :=
  let h := s.hif
  match off with
  | 0x00 => hifId
  | 0x04 => s.hifStatus
  | 0x08 => h.ctrl
  | 0x0C => h.err
  | 0x10 => h.subBase.setWidth 32
  | 0x14 => BitVec.ofNat 32 (h.subBase.toNat / 2 ^ 32)
  | 0x18 => h.subSize.setWidth 32
  | 0x1C => h.subHead
  | 0x30 => h.repBase.setWidth 32
  | 0x34 => BitVec.ofNat 32 (h.repBase.toNat / 2 ^ 32)
  | 0x38 => h.repSize.setWidth 32
  | 0x3C => h.repTail
  | 0x50 => h.evtBase.setWidth 32
  | 0x54 => BitVec.ofNat 32 (h.evtBase.toNat / 2 ^ 32)
  | 0x58 => h.evtSize.setWidth 32
  | 0x5C => h.evtTail
  | 0x70 => h.irqHoldoff.setWidth 32
  | 0x74 => s.hifTags
  | 0x1800 => h.msixPba.setWidth 32
  | 0x1804 => BitVec.ofNat 32 (h.msixPba.toNat / 2 ^ 32)
  | _ => if 0x1000 ≤ off ∧ off < 0x1400 ∧ off % 4 = 0 then h.msixTable[(Fin.ofNat 256 ((off - 0x1000) / 4)).val] else 0

/-- Ones clear the write-one-to-clear bits of a status register, zeros and every other bit change nothing (00, R6): `PG_STATUS`
[9:6] (04), `TP_STATUS` [15:12] and [10:8] (05), `TB_STATE` [10] (11), `DBG_STATUS` [3:2] (16). -/
def State.clearStatus (s : State) (r : StatusReg) (v : Word) : State :=
  let on (i : Nat) : Bool := v.toNat.testBit i
  match r with
  | .group g =>
    let now := s.nowTu
    s.modGroup g fun x => { x with
      lateStart := x.lateStart && !on 9, badCode := x.badCode && !on 8, edgeClash := x.edgeClash && !on 7
      underrunSeen := x.underrunSeen && !on 6, run := if on 8 then (x.settleBad now).run else x.run }
  | .port n => s.modPort n fun p => { p with
      short := p.short &&& ~~~(BitVec.ofNat 4 (bitsOf v.toNat 12 4)), polSwap := p.polSwap && !on 10
      txFill := p.txFill && !on 9, cdrLost := p.cdrLost && !on 8 }
  | .base b => s.modTb b fun t => { t with syncLost := t.syncLost && !on 10 }
  | .debug => { s with dbg := { s.dbg with lockBroken := s.dbg.lockBroken && !on 3, seSupp := s.dbg.seSupp && !on 2 } }

end Sys2Proof.Machine
end

