-- ==== Sys2Proof/Machine/Jtag.lean ====
section
/-! DEFINITION. The JTAG port (spec/16_debug.md, R426 to R429, R444): the TAP's instructions, boundary scan, wrapper scans, and
the mailbox of the debug engine. -/

namespace Sys2Proof.Machine

/-! Instructions (R426, R427). -/

/-- The TAP's supply: it lies in `PD00`, which stays on in every mode. -/
def State.tapAlive (s : State) : Bool := s.pdOn 0

/-- Do the instructions that act on pins act in this mode (R427)? -/
def State.pinScanOpen (s : State) : Bool := s.rsc.mode.scansPins

/-- An instruction is loaded: leaving one that holds pins, every pin returns to the state of the mode in force (R427). -/
def State.loadIr (s : State) (code : BitVec 8) : State :=
  let left := scansPins s.dbg.ir && s.pinScanOpen && !scansPins code
  let s := { s with dbg := { s.dbg with ir := code } }
  if left then s.emit .scanRelease else s

/-- The bits of a word at `TDO`, the lowest first. -/
def tdoBits (n : Nat) (v : Nat) : List Bool := (List.range n).map v.testBit

/-- Bits shifted through the bypass register: the captured 0 first. -/
def bypassOut (bits : List Bool) : List Bool := false :: bits.dropLast

/-- `IDCODE`: part 0x4128, manufacturer 0x6ED, silicon revision 1. -/
def idcodeValue : Word := 0x14128DDB

/-- `IDCODE` (R426). -/
def execIdcode (s : State) : Host.Outcome State Fault Refusal :=
  .next (if s.tapAlive then (s.loadIr 0x01).emit (.tdo (tdoBits 32 idcodeValue.toNat)) else s)

/-- `SAMPLE/PRELOAD` (R427): the pins' samples leave, the preload enters the cells. -/
def execSamplePreload (sampled preload : List Bool) (s : State) : Host.Outcome State Fault Refusal :=
  .next (if s.tapAlive then
      let s := s.loadIr 0x02
      ({ s with dbg := { s.dbg with bsr := preload } }).emit (.tdo sampled)
    else s)

/-- An instruction of the `EXTEST` kind: the captured pins leave, the cells drive the pins; in another mode, `BYPASS`. -/
def State.extestOf (s : State) (code : BitVec 8) (captured cells : List Bool) : State :=
  if !s.tapAlive then s
  else
    let s := s.loadIr code
    if s.pinScanOpen then (({ s with dbg := { s.dbg with bsr := cells } }).emit (.tdo captured)).emit (.scanDrive code cells)
    else s.emit (.tdo (bypassOut cells))

/-- `EXTEST` (R427). -/
def execExtest (captured cells : List Bool) (s : State) : Host.Outcome State Fault Refusal :=
  .next (s.extestOf 0x03 captured cells)

/-- `EXTEST_PULSE` (R427). -/
def execExtestPulse (captured cells : List Bool) (s : State) : Host.Outcome State Fault Refusal :=
  .next (s.extestOf 0x04 captured cells)

/-- `EXTEST_TRAIN` (R427). -/
def execExtestTrain (captured cells : List Bool) (s : State) : Host.Outcome State Fault Refusal :=
  .next (s.extestOf 0x05 captured cells)

/-- `CLAMP` and `HIGHZ`: the pins are held by the cells, or are high-impedance; the bypass register is selected. -/
def State.holdPins (s : State) (code : BitVec 8) (cells : List Bool) : State :=
  if !s.tapAlive then s
  else
    let s := s.loadIr code
    if s.pinScanOpen then s.emit (.scanDrive code cells) else s

/-- `CLAMP` (R427). -/
def execClamp (s : State) : Host.Outcome State Fault Refusal := .next (s.holdPins 0x06 s.dbg.bsr)

/-- `HIGHZ` (R427). -/
def execHighz (s : State) : Host.Outcome State Fault Refusal := .next (s.holdPins 0x07 [])

/-- `BYPASS` (R426): one bit, after the captured 0. -/
def execBypass (bit : Bool) (s : State) : Host.Outcome State Fault Refusal :=
  .next (if s.tapAlive then (s.loadIr 0xFF).emit (.tdo (bypassOut [bit, bit])) else s)

/-! Wrappers (R426, R428). -/

/-- `DIE_SEL`: the old selection leaves, the new one enters. -/
def execDieSel (v : Byte) (s : State) : Host.Outcome State Fault Refusal :=
  .next (if s.tapAlive then
      let old := s.dbg.dieSel.toNat
      let s := s.loadIr 0x11
      ({ s with dbg := { s.dbg with dieSel := v } }).emit (.tdo (tdoBits 8 old))
    else s)

/-- Does a selected wrapper stay in its bypass bit: that of a die fenced or whose domains are off, or of a stack that is OFF? -/
def State.wrapperBypassed (s : State) (i : Fin 8) : Bool :=
  if h : i.val < 4 then
    let d : Fin 4 := ⟨i.val, h⟩
    s.net.dies[d.val].fenced || !((allFin 12).any fun o => s.dieOn d o)
  else s.mem.hbm[(Fin.ofNat 4 i.val).val].st = .off

/-- The wrappers in the chain. -/
def State.chain (s : State) : List (Fin 8) := (allFin 8).filter fun i => s.dbg.dieSel.getLsbD i.val

/-- `n` free bits, and the state that has drawn them (log entry 13). -/
def State.drawBits (s : State) : Nat → List Bool × State
  | 0 => ([], s)
  | n + 1 =>
    let (w, s) := s.drawFree
    let (l, s) := s.drawBits n
    (w.getLsbD 0 :: l, s)

/-- `DIE_SCAN` (R428): in MAINTAIN the chain of selected wrappers, each that stays in its bypass bit delaying by one; what an
active wrapper holds is not given, so its output is free (log entry 13). In another mode, `BYPASS`. -/
def execDieScan (bits : List Bool) (s : State) : Host.Outcome State Fault Refusal :=
  .next (if !s.tapAlive then s
    else
      let s := s.loadIr 0x12
      if s.rsc.mode != .maintain then s.emit (.tdo (bypassOut bits))
      else if s.chain.all s.wrapperBypassed then
        s.emit (.tdo ((List.replicate s.chain.length false ++ bits).take bits.length))
      else
        let (l, s) := s.drawBits bits.length
        s.emit (.tdo l))

/-! The mailbox (R429). -/

/-- The commands that the debug engine executes. -/
def dbgCmds : List CmdDef :=
  [cmdDbgUnlock, cmdDbgHalt, cmdDbgResume, cmdDbgRead, cmdDbgWrite, cmdDbgBreakSet, cmdDbgXtrigSet, cmdDbgStep]

/-- A whole packet in the mailbox is executed; one of another class is `BAD_OPCODE` (log entry 13). -/
def State.mailPacket (s : State) (p : Pkt) : State :=
  let s := { s with dbg := { s.dbg with mailIn := [], mailbox := [], mailBusy := true } }
  match dbgCmds.find? fun d => d.code = p.opcode with
  | some d => d.take .mailbox p s
  | none => s.pushReply ⟨.mailbox, p.tag⟩ false (replyWords s p.opcode p.tag stBadOpcode 0xFE false 0 [])

/-- The mailbox read: a status word whose bit 31 says that the reply is ready, then the reply, which leaves the mailbox. -/
def State.mailRead (s : State) : State :=
  let ready : Bool := !s.dbg.mailbox.isEmpty
  let ws : Words := (if ready then 0x80000000 else 0) :: s.dbg.mailbox
  ({ s with dbg := { s.dbg with mailbox := [] } }).emit (.tdo (ws.flatMap fun (w : Word) => tdoBits 32 w.toNat))

/-- Words enter the mailbox; once the length that the packet gives is complete it is executed; one with an unusable length
is refused at its second word (R429; 02, R35, R36). -/
def State.mailWords (s : State) (words : Words) (host : Option Bytes) : State :=
  let l := s.dbg.mailIn ++ words
  let p := Pkt.ofWords l host
  if l.length < 2 then { s with dbg := { s.dbg with mailIn := l } }
  else if !p.lengthUsable then
    let s := { s with dbg := { s.dbg with mailIn := [], mailbox := [] } }
    let v := if dbgCmds.any fun d => d.code = p.opcode then lengthStatus p else stBadOpcode
    s.pushReply ⟨.mailbox, p.tag⟩ false (replyWords s p.opcode p.tag v 0xFE false 0 [])
  else if l.length < p.length.toNat / 4 then { s with dbg := { s.dbg with mailIn := l } }
  else s.mailPacket (Pkt.ofWords (l.take (p.length.toNat / 4)) host)

/-- `DBGPKT` (R429): without words it is a read. The debug engine lies in `PD02`; while a command executes, the mailbox takes
no other. -/
def execDbgpkt (words : Words) (host : Option Bytes) (s : State) : Host.Outcome State Fault Refusal :=
  .next (if !s.tapAlive then s
    else
      let s := s.loadIr 0x10
      if words.isEmpty then s.mailRead
      else if s.dbg.mailBusy || !s.pdOn 2 || s.rsc.hib != .awake then s
      else s.mailWords words host)

/-- `TAP_RESET` (R426, R444): the instruction register and the mailbox; the device is not touched. The reply of a command in
progress is emptied with it. -/
def execTapReset (s : State) : Host.Outcome State Fault Refusal :=
  .next (if !s.tapAlive then s
    else
      let s := s.loadIr 0x01
      let drop (j : Job) : Job := { j with discard := j.discard || j.key.path = .mailbox }
      { s with
        dbg := { s.dbg with mailbox := [], mailIn := [] }
        queen := { s.queen with jobs := s.queen.jobs.map drop } })

end Sys2Proof.Machine
end

