-- ==== Sys2Proof/Machine/MemCmds.lean ====
section
/-! DEFINITION. The vector memory's commands and events (spec/09_memory_and_encryption.md), and the host's accesses through
BAR2 and BAR4 (spec/02_command_interface.md, R22 to R24). -/

namespace Sys2Proof.Machine

/-! `MEM_STATUS`. -/

/-- The code of a stack's state (`MEM_STACK_STATE`). -/
def StackSt.code : StackSt → Nat
  | .off => 0 | .untrained => 1 | .training => 2 | .ready => 3 | .frozen => 4 | .selfRefresh => 5

/-- `MEM_STACK_STATE` of a stack. -/
def Stack.word (x : Stack) : Word := BitVec.ofNat 32
  (x.st.code + x.cause.toNat * 2 ^ 6 + bitAt x.trainFail 8 + bitAt x.poisonFull 9 + bitAt x.ceOver 10 + bitAt x.hot 11 +
    x.temp.toNat * 2 ^ 24)

/-- The 256 words of a stack's freeze record: up to 64 entries of 16 bytes. -/
def Stack.freezeWords (x : Stack) : Words :=
  let l := (x.freezeRec.take 64).flatMap fun e => numWords 4 e.toNat
  l ++ List.replicate (256 - l.length) 0

/-- The body of `MEM_STATUS`. -/
def State.memBody (s : State) : Words :=
  let m := s.mem
  [BitVec.ofNat 32 (m.keyId.toNat + bitAt m.interleave 16), m.refreshNs, m.refreshS, BitVec.ofNat 32 m.poison.length] ++
    m.hbm.toList.map Stack.word ++ (m.hbm.toList.flatMap fun x => x.counters.toList.flatMap fun c => word2 c.toNat) ++
    m.hbm.toList.flatMap Stack.freezeWords

/-- `MEM_STATUS` (R255, R260). -/
def cmdMemStatus : CmdDef :=
  .plain 0x0A00 36 modeAny [⟨0, 32, 0, 1, .any⟩] fun j s =>
    let zero (x : Stack) : Stack := { x with counters := Vector.replicate 6 0 }
    .done (if fld j.args 32 0 1 = 1 then s.modMem fun m => { m with hbm := m.hbm.map zero } else s) s.memBody

/-- `MEM_STATUS`: the row. -/
def execMemStatus (p : Pkt) (s : State) : Host.Outcome State Fault Refusal := .next (cmdMemStatus.fetch p s)

/-! Training (R258, R259). -/

/-- The stacks of a mask. -/
def stacksOfMask (m : Nat) : List (Fin 4) := (allFin 4).filter fun n => m.testBit n.val

/-- `MEM_TRAIN` (R259): the named stacks must be usable and powered, and no training may run (log entry 35). -/
def cmdMemTrain : CmdDef :=
  { CmdDef.plain 0x0A01 36 modeMnt [⟨0, 32, 0, 4, .names (· != 0)⟩, ⟨1, 32, 8, 1, .any⟩, ⟨2, 32, 16, 1, .any⟩]
      (fun j s =>
        let l := stacksOfMask (fld j.args 32 0 4)
        let job : TrainJob :=
          { key := some j.key, left := l, scope := fld j.args 32 8 1 = 1, repair := fld j.args 32 16 1 = 1, found := [] }
        let s := s.modMem fun m => { m with training := some job }
        .stay (forAll l (fun n s => s.modStack n fun x => { x with st := .training, wasFrozen := x.isFrozen }) s)) with
    checks := fun s j =>
      let l := stacksOfMask (fld j.args 32 0 4)
      firstOf [refuseIf (l.any s.stackMarked) stUnusable 0,
        refuseIf (!s.clk.runs || (l.any fun n => s.mem.hbm[n.val].st = .off) || s.mem.training.isSome) stNotReady 0,
        refuseIf (l.any fun n => s.underTest ⟨7 + n.val, by omega⟩) stBusy 0] }

/-- `MEM_TRAIN`: the row. -/
def execMemTrain (p : Pkt) (s : State) : Host.Outcome State Fault Refusal := .next (cmdMemTrain.fetch p s)

/-- What `MEM_TRAIN` returns for a stack (log entry 12): `TRAIN_FAIL` and the lanes failing, the lanes repaired, the narrowest
eye in timing units and in mV. -/
def trainWords (x : Stack) (r : TrainResult) : Words :=
  [BitVec.ofNat 32 (b2n x.trainFail + r.failing.length * 2 ^ 16), BitVec.ofNat 32 x.repairs.length,
   BitVec.ofNat 32 (r.eyeTu.toNat + r.eyeMv.toNat * 2 ^ 16)]

/-- `MEM_TRAIN` ends: new repairs are recorded in the NV store before it commits (R259; 02, R52). -/
def State.trainCommit (s : State) (x : TrainJob) : State :=
  match x.key.bind s.job? with
  | none => s
  | some j =>
    let words := x.found.flatMap fun e => trainWords s.mem.hbm[e.1.val] e.2
    let fresh := x.found.filterMap fun e =>
      let l := s.mem.hbm[e.1.val].repairs.filter fun i => !s.sec.hbmRepairs[e.1.val].contains i
      if l.isEmpty then none else some (e.1, l)
    if x.repair && !fresh.isEmpty then finish j (s.nvCommand j (.repairs fresh) 73 words) else s.commitDone j words

/-- A stack found trained enters the ascending list of results. -/
def insertFound (l : List (Fin 4 × TrainResult)) (n : Fin 4) (r : TrainResult) : List (Fin 4 × TrainResult) :=
  (l.filter fun e => e.1 < n) ++ (n, r) :: l.filter fun e => n < e.1

/-- `TRAINING_END` of one stack (R258, R259): the last one ends the command, or start-up's step 6. -/
def execTrainingEnd (n : Fin 4) (r : TrainResult) (s : State) : Host.Outcome State Fault Refusal :=
  .next (match s.mem.training with
    | none => s
    | some x =>
      if !x.left.contains n then s
      else
        let t := if s.mem.hbm[n.val].st = .training then s.stackTrained n r x.repair else s
        let y : TrainJob := { x with left := x.left.filter (· != n), found := insertFound x.found n r }
        if !y.left.isEmpty then t.modMem fun m => { m with training := some y }
        else
          let t := (t.modMem fun m => { m with training := none }).trainCommit y
          if x.key.isNone && !t.rsc.startupDone && t.rsc.bootStep = 6 then t.bootLinks else t)

/-! Thaw and rekey (R263, R278, R279). -/

/-- One stack thaws (R263): its dirty nodes are written back. -/
def State.thaw (s : State) (n : Fin 4) : State :=
  (s.modMem fun m => m.writeBackStack n).modStack n fun x => { x with st := .ready, wasFrozen := false, cause := 0, freezeRec := [] }

/-- `MEM_THAW` (R263). -/
def cmdMemThaw : CmdDef :=
  { CmdDef.plain 0x0A02 36 (fun s _ => s.rsc.mode = .ready || s.rsc.mode = .maintain) [⟨0, 32, 0, 4, .names (· != 0)⟩]
      (fun j s => .done (forAll (stacksOfMask (fld j.args 32 0 4)) (fun n s => s.thaw n) s) []) with
    naming := fun s _ p => if (stacksOfMask (fld p.block 32 0 4)).any fun n => s.mem.hbm[n.val].st != .frozen then [0] else [] }

/-- `MEM_THAW`: the row. -/
def execMemThaw (p : Pkt) (s : State) : Host.Outcome State Fault Refusal := .next (cmdMemThaw.fetch p s)

/-- `MEM_REKEY` (R278, R279; 15, R422): new requests wait until `REKEY_END`. -/
def cmdMemRekey : CmdDef :=
  { CmdDef.plain 0x0A03 36 modeMnt [⟨0, 32, 0, 1, .any⟩]
      (fun j s => .stay (s.modMem fun m => { m with rekey := some { key := some j.key, interleave := fld j.args 32 0 1 = 1, begun := false } })) with
    checks := fun s _ =>
      firstOf [refuseIf (s.mem.keyId = 0xFFFF || !s.sec.drbgOk || s.mem.rekey.isSome) stNotReady,
        refuseIf (s.mem.hbm.toList.any Stack.isFrozen) stFrozen,
        refuseIf ((allFin 4).any fun n => s.underTest ⟨7 + n.val, by omega⟩) stBusy 0] }

/-- `MEM_REKEY`: the row. -/
def execMemRekey (p : Pkt) (s : State) : Host.Outcome State Fault Refusal := .next (cmdMemRekey.fetch p s)

/-! Requests (R266 to R269, R274, R275; 02, R22). -/

/-- The cause that a bus error gives of a failure (R261, R268, R275; 10, R283, R289). -/
def MemFail.cause : MemFail → BusCause
  | .frozen => .frozen
  | .fenced => .fenced
  | .notReady => .notReady
  | .mismatch | .unverifiable | .exhausted | .sealed_ => .memory

/-- A memory request that fails is answered (R261, R268, R275; 02, R22). -/
def State.answerFailed (s : State) (q : Requester) (write : Bool) (r : Served) : State :=
  match r.fail with
  | none => s
  | some f => s.answerBus q write f.1.cause

/-- A read of HBM through BAR2 (02, R22; 08, R239). -/
def State.bar2Read (s : State) (a len : Nat) (e : MemErr) : State :=
  if s.sealedRange a len true || (s.mem.stacksOf a len).any fun n => s.underTest ⟨7 + n.val, by omega⟩ then s.emit .barAbort
  else
    let r := s.hbmOpen .host a len e
    match r.fail with
    | some _ => r.st.emit .barAbort
    | none => r.st.emit (.barData (s.mem.read a len))

/-- A write of HBM through BAR2 (02, R22; 08, R239). -/
def State.bar2Write (s : State) (a : Nat) (data : Bytes) (e : MemErr) : State :=
  if (s.mem.stacksOf a data.length).any fun n => s.underTest ⟨7 + n.val, by omega⟩ then s.barDrop
  else
    let s := if s.sealedRange a data.length false then s.barDrop else s
    let r := s.hbmWrite .host a data e
    match r.fail with
    | some _ => r.st.barDrop
    | none => r.st

/-- A memory request is served. -/
def State.serveRequest (s : State) (r : MemReq) : State :=
  match r with
  | .barRead a len e => s.bar2Read a len e
  | .barWrite a data e => s.bar2Write a data e
  | .read q a len e => let w := s.hbmOpen q a len e; w.st.answerFailed q false w
  | .write q a data e => let w := s.hbmWrite q a data e; w.st.answerFailed q true w
  | .logRecord r e => s.logNow r e

/-- A memory request arrives: while a rekey runs it waits (R278). -/
def State.request (s : State) (r : MemReq) : State := if s.mem.rekey.isSome then s.waitRekey r else s.serveRequest r

/-- The requests that have waited for a rekey are served in order (R278 step 5). -/
def State.serveWaiting (s : State) : State :=
  s.mem.waiting.foldl State.serveRequest (s.modMem fun m => { m with waiting := [] })

/-- `MEMORY_READ` (R266, R268, R274, R275): a request for usable HBM. -/
def execMemoryRead (q : Requester) (a len : Nat) (e : MemErr) (s : State) : Host.Outcome State Fault Refusal :=
  .next (if hbmBytes < a + len then s else s.request (.read q a len e))

/-- `MEMORY_WRITE` (R265, R267 to R269). -/
def execMemoryWrite (q : Requester) (a : Nat) (data : Bytes) (e : MemErr) (s : State) : Host.Outcome State Fault Refusal :=
  .next (if hbmBytes < a + data.length then s else s.request (.write q a data e))

/-- `REKEY_END` (R278, R279): the new set and the interleave are installed; staging slots in HBM are released; what has waited is
served under the new keys. -/
def execRekeyEnd (s : State) : Host.Outcome State Fault Refusal :=
  .next (match s.mem.rekey with
    | none => s
    | some x =>
      let s := (s.releaseIn 0 hbmBytes).newKeys (s.mem.keyId + 1) x.interleave
      let s := (s.modMem fun m => { m with rekey := none }).serveWaiting
      match x.key.bind s.job? with
      | some j => s.commitDone j [s.mem.keyId.setWidth 32]
      | none => s)

/-- A rekey is aborted before its step 2 (R278): the requests that waited are served under the keys in use. -/
def State.abortRekey (s : State) (t : Job) : Option State :=
  match s.mem.rekey with
  | some x =>
      if x.begun then none
      else some ((s.modMem fun m => { m with rekey := none }).serveWaiting.commitClose t ⟨stAborted, 0xFF⟩ true [])
  | none => none

/-! Copy and fill (R280). -/

/-- The fields of `MEM_COPY`. -/
def copyFields : List Field :=
  [⟨0, 32, 0, 1, .any⟩, ⟨1, 32, 8, 1, .any⟩, ⟨2, 40, 0, 64, .names (· % 4 = 0)⟩, ⟨3, 48, 0, 64, .names (· % 4 = 0)⟩,
   ⟨4, 56, 0, 40, .names fun v => v % 4 = 0 && 4 ≤ v⟩]

/-- Source, destination and length of a copy, each with its kind (true: host). -/
def copySrc (b : Words) : Nat × Bool := (fld b 40 0 64, decide (fld b 32 0 1 = 1))
/-- The destination. -/
def copyDst (b : Words) : Nat × Bool := (fld b 48 0 64, decide (fld b 32 8 1 = 1))

/-- Do two ranges of one length overlap? -/
def overlap (a b len : Nat) : Bool := decide (a < b + len) && decide (b < a + len)

/-- The naming checks of `MEM_COPY` (R280; 08, R239). -/
def copyNaming (s : State) (p : Pkt) : List Nat :=
  let b := p.block
  let len := fld b 56 0 40
  let (src, srcHost) := copySrc b
  let (dst, dstHost) := copyDst b
  (if srcHost && dstHost then [1] else []) ++ (if !srcHost && !s.rangeOk src len false then [2] else []) ++
    (if !dstHost && !s.rangeOk dst len true then [3] else []) ++
    (if !srcHost && !dstHost && overlap src dst len then [3] else [])

/-- `MEM_COPY` (R280). -/
def cmdMemCopy : CmdDef :=
  { CmdDef.plain 0x0A04 64 modeOps copyFields
      (fun j s => .stay (s.modMem fun m => { m with copies := m.copies ++ [j.key] })) with
    naming := fun s _ p => copyNaming s p
    checks := fun s j =>
      let len := fld j.args 56 0 40
      let side (e : Nat × Bool) (i : Nat) : List (Nat × Option Verdict) := if e.2 then [] else s.rangeCheck e.1 len i
      firstInSteps (side (copySrc j.args) 2 ++ side (copyDst j.args) 3) }

/-- `MEM_COPY`: the row. -/
def execMemCopy (p : Pkt) (s : State) : Host.Outcome State Fault Refusal := .next (cmdMemCopy.fetch p s)

/-- `MEM_FILL` (R280). -/
def cmdMemFill : CmdDef :=
  { CmdDef.plain 0x0A05 56 modeOps
      [⟨0, 32, 0, 48, .names (· % 8 = 0)⟩, ⟨1, 40, 0, 40, .names fun v => v % 8 = 0 && 8 ≤ v⟩, ⟨2, 48, 0, 64, .any⟩]
      (fun j s => .stay (s.modMem fun m => { m with copies := m.copies ++ [j.key] })) with
    naming := fun s _ p => if s.rangeOk (fld p.block 32 0 48) (fld p.block 40 0 40) true then [] else [0]
    checks := fun s j => firstInSteps (s.rangeCheck (fld j.args 32 0 48) (fld j.args 40 0 40) 0) }

/-- `MEM_FILL`: the row. -/
def execMemFill (p : Pkt) (s : State) : Host.Outcome State Fault Refusal := .next (cmdMemFill.fetch p s)

/-- How far a transfer has come: the state, the bytes done, and the error with its address once it has failed. -/
structure Moved where
  st   : State
  done : Nat
  fail : Option (Word × Nat)

/-- The requests of a transfer: offset and length of each, cut where the address at offset 0 meets a sector boundary. -/
def requestsOf (a len : Nat) : List (Nat × Nat) :=
  (sectorParts a len).map fun p => (512 * p.1 + p.2.1 - a, p.2.2)

/-- The number of an error as `ERROR` gives it; the spec gives none to a stack that cannot serve or a counter at its end: a
free value (log entry 5). -/
def State.moveFail (s : State) (done : Nat) (f : MemFail) (a : Nat) : Moved :=
  let (v, s) := s.drawFree
  ⟨s, done, some (f.code v, a)⟩

/-- The source of one request of a copy or a fill: device bytes, host bytes, or the pattern. -/
inductive Source where
  | device (a : Nat)
  | host (a : Nat) (data : Bytes)
  | pattern (v : Nat)

/-- The bytes of a source for a request: the state, and the bytes, or the failure; a physical error lies at the offset `errAt`. -/
def Source.bytes (x : Source) (s : State) (off n : Nat) (e : MemErr) (errAt : Nat) : State × (Bytes ⊕ (Option MemFail × Nat)) :=
  match x with
  | .device a => match areaFor (a + off) n with
    | none => (s, .inr (some .notReady, a + off))
    | some k =>
      let (r, bs) := s.areaRead .dma k (a + off) n e (some (a + errAt))
      match r.fail with
      | some f => (r.st, .inr (some f.1, f.2))
      | none => (r.st, .inl bs)
  | .host a data => if off + n ≤ data.length then (s, .inl ((data.drop off).take n)) else (s, .inr (none, a + off))
  | .pattern v => (s, .inl ((List.replicate (n / 8) (numBytes 8 v)).flatten))

/-- One request of a transfer: its bytes are read and written; `dstFails` from which offset writes of host memory fail. -/
def Moved.request (m : Moved) (src : Source) (dst : Nat) (dstHost : Bool) (dstFails : Option Nat) (off n : Nat)
    (e : MemErr) (errAt : Nat) (atDst : Bool) : Moved :=
  match m.fail with
  | some _ => m
  | none =>
    let (s, r) := src.bytes m.st off n (if atDst then .ok else e) errAt
    match r with
    | .inr (some f, a) => s.moveFail m.done f a
    | .inr (none, a) => ⟨s, m.done, some (5, a)⟩
    | .inl bs =>
      if dstHost then
        if dstFails.any (· < off + n) then ⟨s, m.done, some (5, dst + off)⟩ else ⟨s.emit (.hostMem (dst + off) bs), off + n, none⟩
      else match areaFor (dst + off) n with
        | none => s.moveFail m.done .notReady (dst + off)
        | some k =>
          let r := s.areaWrite .dma k (dst + off) bs (if atDst then e else .ok)
          match r.fail with
          | some f => r.st.moveFail m.done f.1 f.2
          | none => ⟨r.st, off + n, none⟩

/-- A transfer of `len` bytes: a physical error is met by the request that holds the offset given, at the source or at the
destination. -/
def State.transfer (s : State) (src : Source) (base dst : Nat) (dstHost : Bool) (dstFails : Option Nat) (len : Nat) (e : MemErr)
    (errAt : Nat) (atDst : Bool) : Moved :=
  (requestsOf base len).foldl (fun m p =>
    m.request src dst dstHost dstFails p.1 p.2 (if p.1 ≤ errAt ∧ errAt < p.1 + p.2 then e else .ok) errAt atDst) ⟨s, 0, none⟩

/-- The six result words of a transfer. -/
def Moved.words (m : Moved) : Words :=
  match m.fail with
  | none => [0, 0] ++ word2 m.done ++ word2 0
  | some (c, a) => [c, 0] ++ word2 m.done ++ word2 a

/-- The transfer of a copy or fill over its first `len` bytes. -/
def State.moveOf (s : State) (j : Job) (len : Nat) (host : Option Bytes) (e : MemErr) (at_ : Nat) (atDst : Bool) : Moved :=
  let b := j.args
  if j.p.opcode = 0x0A05 then
    s.transfer (.pattern (fld b 48 0 64)) (fld b 32 0 48) (fld b 32 0 48) false none len e at_ true
  else
    let (src, srcHost) := copySrc b
    let (dst, dstHost) := copyDst b
    let from_ : Source := if srcHost then .host src (host.getD []) else .device src
    let fails : Option Nat := if dstHost && host.isNone then some at_ else none
    s.transfer from_ (if srcHost then dst else src) dst dstHost fails len e at_ (atDst || srcHost)

/-- The length of a copy or a fill. -/
def moveLen (j : Job) : Nat := if j.p.opcode = 0x0A05 then fld j.args 40 0 40 else fld j.args 56 0 40

/-- Does a transfer meet a die whose clock has stopped without a fence: its request waits for the handshake timeout, which fences the
die, and then fails with `ERROR` 4 (01, R11; R280)? -/
def State.moveStuck (s : State) (j : Job) : Bool :=
  let b := j.args
  let ends : List (Nat × Bool) := if j.p.opcode = 0x0A05 then [(fld b 32 0 48, false)] else [copySrc b, copyDst b]
  ends.any fun e => !e.2 && (areaFor e.1 (moveLen j)).any s.areaStopped

/-- `COPY_END` (R280): the transfer completes, ends at a failing request, or, with an abort asked, stops at the 1 MiB boundary
that it has come to. The operands give the host's data (none: its memory fails, a write from the offset given), and a
physical error with its offset, met at the source or at the destination. -/
def execCopyEnd (k : JobKey) (host : Option Bytes) (e : MemErr) (at_ : Nat) (atDst : Bool) (s : State) : Host.Outcome State Fault Refusal :=
  .next (match s.job? k with
    | none => s
    | some j =>
      if !s.mem.copies.any (sameKey · k) || s.mem.rekey.isSome || s.moveStuck j then s
      else
        let s := s.modMem fun m => { m with copies := m.copies.filter fun i => !sameKey i k }
        let len := moveLen j
        let stop := at_ / 2 ^ 20 * 2 ^ 20
        if s.abortAsked k && decide (stop < len) then
          let m := s.moveOf j stop host .ok stop atDst
          match m.fail with
          | none => m.st.commitClose j ⟨stAborted, 0xFF⟩ true m.words
          | some _ => m.st.commitDone j m.words
        else
          let m := s.moveOf j len host e at_ atDst
          m.st.commitDone j m.words)

/-! Refresh and the error window. -/

/-- `REFRESH` (R255): a grid instant passes. -/
def execRefresh (s : State) : Host.Outcome State Fault Refusal :=
  .next (if s.mem.gridOn then s.modMem fun m => { m with refreshNs := s.stampNs, refreshS := s.stampS } else s)

/-- `ERROR_WINDOW_END` (R260; 10, R298): the counts of the window start again. -/
def execErrorWindowEnd (s : State) : Host.Outcome State Fault Refusal :=
  let stack (x : Stack) : Stack := { x with ceWin := 0, ceOver := false }
  let die (x : DieLink) : DieLink := { x with degraded := false, winReplays := 0, winCross := 0 }
  .next { s with
    mem := { s.mem with hbm := s.mem.hbm.map stack }
    net := { s.net with dies := s.net.dies.map die } }

/-! BAR2 and BAR4 (02, R22 to R24; 08, R239). -/

/-- `BAR2_READ` (02, R22). -/
def execBar2Read (a len : Nat) (e : MemErr) (s : State) : Host.Outcome State Fault Refusal :=
  .next (s.overPcie (if hbmBytes < a + len then s.emit .barUnsupported else s.request (.barRead a len e)))

/-- `BAR2_WRITE` (02, R22). -/
def execBar2Write (a : Nat) (data : Bytes) (e : MemErr) (s : State) : Host.Outcome State Fault Refusal :=
  .next (s.overPcie (if hbmBytes < a + data.length then s.emit .barUnsupported else s.request (.barWrite a data e)))

/-- The device address of a BAR4 offset, none where the layout lists none (02, R23). -/
def bar4Addr (off : Nat) : Option Nat :=
  let a :=
    if off < 0x6000000 then sramBase 0 + off
    else 0x200000000000 + (off - 0x40000000) / 0x10000000 * 0x10000000000 + (off - 0x40000000) % 0x10000000
  if off < 0x6000000 || (0x40000000 ≤ off && off < 0x80000000) then (areaOf a).map fun _ => a else none

/-- What a BAR4 access meets (02, R24; 17, R446). -/
inductive BarGate where
  | open_ (x : Area) (a : Nat)
  | unsupported
  | busy
  | stopped (d : Fin 4)
  | abort

/-- The gate of a BAR4 access of `len` bytes. A die or a slice of SRAM whose power domain is off answers with Completer Abort and
sets no `BAR_BUSY` (R24 does not speak of it: DESIGN CHOICE, log entry 52). -/
def State.bar4Gate (s : State) (off len : Nat) : BarGate :=
  match bar4Addr off with
  | none => .unsupported
  | some a => match areaFor a len with
    | none => .unsupported
    | some x =>
      if s.areaFenced x then .busy
      else match x.die with
        | some d =>
          if !s.dieOn d 0 then .abort
          else if !s.net.dies[d.val].clockOn || s.net.dies[d.val].cutOff then .stopped d
          else if s.areaBusy x a len then .busy
          else .open_ x a
        | none => if s.areaDown x a len || s.areaBusy x a len then .abort else .open_ x a

/-- `BAR_BUSY` set. -/
def State.barBusy (s : State) : State := { s with hif := { s.hif with err := s.hif.err ||| (1#32 <<< 3) } }

/-- `BAR4_READ` (02, R24): an access to a die whose clock has stopped ends with the handshake timeout, which fences it. Cell RAM may
meet an error (07, R206). -/
def execBar4Read (off len : Nat) (e : MemErr) (s : State) : Host.Outcome State Fault Refusal :=
  .next (s.overPcie (match s.bar4Gate off len with
    | .unsupported => s.emit .barUnsupported
    | .busy => s.barBusy.emit .barAbort
    | .stopped d => (s.fence d 1).emit .barAbort
    | .abort => s.emit .barAbort
    | .open_ x a =>
      let (r, bs) := s.areaRead .host x a len e
      match r.fail with
      | some _ => r.st.emit .barAbort
      | none => r.st.emit (.barData bs)))

/-- `BAR4_WRITE` (02, R24): a write into a sealed slot is discarded with `BAR_DROP`. -/
def execBar4Write (off : Nat) (data : Bytes) (s : State) : Host.Outcome State Fault Refusal :=
  .next (s.overPcie (match s.bar4Gate off data.length with
    | .unsupported => s.emit .barUnsupported
    | .busy => s.barBusy.emit .barAbort
    | .stopped d => (s.fence d 1).emit .barAbort
    | .abort => s.emit .barAbort
    | .open_ x a =>
      let s := if s.sealedRange a data.length false then s.barDrop else s
      (s.areaWrite .host x a data .ok).st))

end Sys2Proof.Machine
end

