-- ==== Sys2Proof/Machine/TimeCmds.lean ====
section
/-! DEFINITION. The time bases, the `TB0` servo, and the TIME commands (spec/11_swarm_and_time.md). Times are in units of
2⁻³² ns. -/

namespace Sys2Proof.Machine

/-- A number below 8 as a time base. -/
def tbOf (n : Nat) : Fin 8 := Fin.ofNat 8 n

/-- Bases that a mask names, in ascending order. -/
def basesOf (m : Nat) : List (Fin 8) := (allFin 8).filter fun b => m.testBit b.val

/-- The ten words that `TIME_GET` gives of a base. -/
def State.tbWords (s : State) (b : Fin 8) : Words :=
  let t := s.tb[b.val]
  [t.ns.setWidth 32, t.frac] ++ word2 t.sec.toNat ++ [s.tbState b, BitVec.ofInt 32 t.trim] ++
    word2 (unsignedOf 64 t.slew) ++ [t.jump, 0]

/-- `TIME_GET` (command table of 11). -/
def cmdTimeGet : CmdDef :=
  .plain 0x0D00 36 modeAny [⟨0, 32, 0, 8, .names (· != 0)⟩] fun j s =>
    .done s ((basesOf (fld j.args 32 0 8)).flatMap s.tbWords)

/-- `TIME_GET`: the row. -/
def execTimeGet (p : Pkt) (s : State) : Host.Outcome State Fault Refusal := .next (cmdTimeGet.fetch p s)

/-- The instant that `TIME_SET` names. -/
def setInstant (args : Words) : Nat :=
  ((fld args 40 0 48) * 1000000000 + fld args 36 0 32) * 4294967296 + fld args 48 0 32

/-- A time base at a new count; a forward move of `TB0` makes the scheduled commands it passes late (R334). -/
def State.setTb (s : State) (b : Fin 8) (v : Nat) : State :=
  let s := s.modTb b fun t => { t.withValue v with set := true }
  if b.val = 0 then
    { s with queen := { s.queen with jobs := s.queen.jobs.map fun j => match j.phase with
        | .scheduled a => if a < v then { j with late := true } else j
        | _ => j } }
  else s

/-- `E032`: a step or correction over the jump limit was refused (R332, R340). -/
def State.jumpRefused (s : State) (b : Fin 8) (step : Int) : State :=
  s.raise 32 2 b.val (detail [(8, 8, unsignedOf 64 step)])

/-- The jump limit in units of 2⁻³² ns. -/
def TimeBase.limit (t : TimeBase) : Nat := t.jump.toNat * 4294967296

/-- `TIME_SET` (R332): UNSET returns the base to UNSET; an UNSET base takes any value; a step of a SET base is held to the
jump limit. -/
def timeSetAct (j : Job) (s : State) : Act :=
  let b := tbOf (fld j.args 32 0 8)
  let t := s.tb[b.val]
  if fld j.args 32 8 1 = 1 then .done (s.modTb b fun t => { t with set := false }) []
  else
    let v := setInstant j.args
    let step : Int := (v : Int) - t.value
    if t.set && decide (t.limit < step.natAbs) then .close (s.jumpRefused b step) ⟨stJump, 0xFF⟩ false []
    else .done (s.setTb b v) []

/-- `TIME_SET` (command table of 11). Without the root the timing clock stands (13, R372). On `TB0`: refused while the servo is not
OFF, and with UNSET while a scheduled command waits (R334). -/
def cmdTimeSet : CmdDef :=
  { CmdDef.plain 0x0D01 52 modeAny
      [⟨0, 32, 0, 8, .names (· < 8)⟩, ⟨1, 32, 8, 1, .any⟩, ⟨2, 36, 0, 32, .clamp 0 999999999⟩, ⟨3, 40, 0, 48, .any⟩,
       ⟨4, 48, 0, 32, .any⟩] timeSetAct with
    checks := fun s j =>
      if !s.clk.runs then some ⟨stNotReady, 0xFF⟩
      else if fld j.args 32 0 8 != 0 then none
      else firstOf [refuseIf (s.servo.st != .off) stBusy 0,
        refuseIf (fld j.args 32 8 1 = 1 && decide (0 < s.scheduledCount)) stBusy 1] }

/-- `TIME_SET`: the row. -/
def execTimeSet (p : Pkt) (s : State) : Host.Outcome State Fault Refusal := .next (cmdTimeSet.fetch p s)

/-- A slew replaces what is left of an earlier one (R333). -/
def TimeBase.startSlew (t : TimeBase) (amount : Int) (ppm : Nat) : TimeBase :=
  { t with slew := amount, slewPpm := ppm, slewAcc := 0, slewing := amount != 0 }

/-- `TIME_ADJUST` (R333): a slew over the jump limit is refused as a step is; a trim replaces the trim. -/
def timeAdjustAct (j : Job) (s : State) : Act :=
  let b := tbOf (fld j.args 32 0 8)
  let t := s.tb[b.val]
  if fld j.args 32 8 2 = 0 then
    let amount := signedOf 64 (fld j.args 36 0 64)
    if t.limit < amount.natAbs then .close (s.jumpRefused b amount) ⟨stJump, 0xFF⟩ false []
    else .done (s.modTb b fun t => t.startSlew amount (fld j.args 44 0 10)) []
  else .done (s.modTb b fun t => { t with trim := signedOf 32 (fld j.args 48 0 32) }) []

/-- `TIME_ADJUST` (command table of 11). -/
def cmdTimeAdjust : CmdDef :=
  { CmdDef.plain 0x0D02 52 modeAny
      [⟨0, 32, 0, 8, .names (· < 8)⟩, ⟨1, 32, 8, 2, .names (· < 2)⟩, ⟨2, 36, 0, 64, .any⟩, ⟨3, 44, 0, 10, .clamp 1 1000⟩,
       ⟨4, 48, 0, 32, .sclamp (-4194304) 4194304⟩] timeAdjustAct with
    checks := fun s j => refuseIf (!s.clk.runs || !s.tb[(tbOf (fld j.args 32 0 8)).val].set) stNotReady }

/-- `TIME_ADJUST`: the row. -/
def execTimeAdjust (p : Pkt) (s : State) : Host.Outcome State Fault Refusal := .next (cmdTimeAdjust.fetch p s)

/-- Is this device the grandmaster: it takes `TB0` from PTM, or runs free and sends sync frames (R336, R339)? -/
def Servo.grandmaster (v : Servo) : Bool := v.source = 1 || (v.source = 0 && v.txMask != 0)

/-- The settings that a `TIME_SYNC_SET` changes, by field. -/
def syncChanges (v : Servo) (args : Words) : List Nat :=
  (if v.source.toNat != fld args 32 0 2 then [0] else []) ++ (if v.link.val != fld args 32 8 4 then [1] else []) ++
    (if v.txMask.toNat != fld args 36 0 16 then [2] else []) ++ (if v.periodLog.toNat != fld args 40 0 4 then [3] else []) ++
    (if unsignedOf 64 v.ptmOffset != fld args 44 0 64 then [4] else [])

/-- `TIME_SYNC_SET`: the settings, and the servo in ACQUIRING, or OFF with `SOURCE` 0. -/
def timeSyncSetAct (j : Job) (s : State) : Act :=
  let src := fld j.args 32 0 2
  let v : Servo := { s.servo with
    source := BitVec.ofNat 2 src, link := Fin.ofNat 16 (fld j.args 32 8 4), txMask := BitVec.ofNat 16 (fld j.args 36 0 16)
    periodLog := BitVec.ofNat 4 (fld j.args 40 0 4), ptmOffset := signedOf 64 (fld j.args 44 0 64)
    st := if src = 0 then .off else .acquiring, refused := 0, good := 0, jumpSec := none }
  .done { s with servo := { v with stratum := if v.grandmaster then 0 else 255 } } []

/-- `TIME_SYNC_SET` (command table of 11): while the servo is not OFF only `SOURCE` 0, or the settings in force, are taken
(log entry 21). -/
def cmdTimeSyncSet : CmdDef :=
  { CmdDef.plain 0x0D03 52 modeCtl
      [⟨0, 32, 0, 2, .names (· < 3)⟩, ⟨1, 32, 8, 4, .any⟩, ⟨2, 36, 0, 16, .any⟩, ⟨3, 40, 0, 4, .clamp 0 13⟩,
       ⟨4, 44, 0, 64, .any⟩] timeSyncSetAct with
    checks := fun s j => firstOf
      [refuseIf (fld j.args 32 0 2 = 1 && !(s.hif.ptmOn && s.hif.pcieUp)) stNotReady,
       if s.servo.st = .off || fld j.args 32 0 2 = 0 then none else busyFields (syncChanges s.servo j.args)] }

/-- `TIME_SYNC_SET`: the row. -/
def execTimeSyncSet (p : Pkt) (s : State) : Host.Outcome State Fault Refusal := .next (cmdTimeSyncSet.fetch p s)

/-- `TIME_JUMP_LIMIT` (02, worked example). -/
def cmdTimeJumpLimit : CmdDef :=
  .plain 0x0D04 40 modeAny [⟨0, 32, 0, 8, .names (· < 8)⟩, ⟨1, 36, 0, 32, .clamp 1 1000000000⟩] fun j s =>
    .done (s.modTb (tbOf (fld j.args 32 0 8)) fun t => { t with jump := BitVec.ofNat 32 (fld j.args 36 0 32) }) []

/-- `TIME_JUMP_LIMIT`: the row. -/
def execTimeJumpLimit (p : Pkt) (s : State) : Host.Outcome State Fault Refusal := .next (cmdTimeJumpLimit.fetch p s)

/-! One cycle of the timing clock (R330, R335). -/

/-- The slew step of a cycle of one nanosecond, with the remainder below 2⁻³² ns carried (R333). -/
def TimeBase.slewStep (t : TimeBase) : Int × Nat :=
  let acc := t.slewAcc + t.slewPpm * 4294967296
  let step := min (acc / 1000000) t.slew.natAbs
  (if t.slew < 0 then -(step : Int) else step, acc % 1000000)

/-- One cycle: 1 ns plus the trim plus the slew step; twice that while coasting (R330, R335). -/
def TimeBase.tick (coast : Bool) (t : TimeBase) : TimeBase :=
  let st := t.slewStep
  let k : Int := if coast then 2 else 1
  let part : Int := if k * st.1.natAbs ≤ t.slew.natAbs then k * st.1 else t.slew
  { t.advance (k * (4294967296 + t.trim) + part) with slew := t.slew - part, slewAcc := if t.slew = 0 then 0 else st.2 }

/-- `SLEW_ABSORBED`: the whole offset has been added and `SLEWING` clears (R333). -/
def execSlewAbsorbed (b : Fin 8) (s : State) : Host.Outcome State Fault Refusal :=
  .next (if s.tb[b.val].slewing && s.tb[b.val].slew = 0 then s.modTb b fun t => { t with slewing := false } else s)

/-! The servo (R336 to R341). -/

/-- The sync period in nanoseconds: 125 µs × 2^k. -/
def Servo.period (v : Servo) : Nat := 125000 * 2 ^ v.periodLog.toNat

/-- One error fed to the servo, with the local time it was taken at (R340). -/
def State.servoError (s : State) (tr e : Int) : State :=
  let t := s.tb0
  if !s.servo.runs then s
  else if !t.set then { s.setTb 0 (tr + e).toNat with servo := { s.servo with st := .acquiring } }
  else if t.limit < e.natAbs then
    let n := s.servo.refused + 1
    let s := { s with servo := { s.servo with refused := n } }
    let s := if s.servo.jumpSec = some t.sec then s
      else { s with servo := { s.servo with jumpSec := some t.sec } }.jumpRefused 0 e
    if n = 4 then s.servoHold 1 else s
  else
    let trim := clampInt (-4194304) 4194304 (t.trim + e.tdiv (16 * s.servo.period))
    let good := if e.natAbs * 10 ≤ 4294967296 then s.servo.good + 1 else 0
    let s := s.modTb 0 fun t => { t.startSlew (e.tdiv 2) 1000 with trim := trim }
    { s with servo := { s.servo with refused := 0, good := good, st := if 16 ≤ good then .locked else s.servo.st } }

/-- `PTM_DIALOGUE` (R336): with `SOURCE` 1 the difference between the PTM master time plus `PTM_OFFSET` and `TB0` is the
servo's error. -/
def execPtmDialogue (master now_ : Int) (s : State) : Host.Outcome State Fault Refusal :=
  .next (if s.servo.source = 1 && s.hif.ptmOn && s.hif.pcieUp then
    s.servoError now_ (master + s.servo.ptmOffset * 4294967296 - now_) else s)

/-- `SERVO_HOLD` (R341): four periods without a usable SYNC. -/
def execServoHold (s : State) : Host.Outcome State Fault Refusal :=
  .next (if s.servo.runs then s.servoHold 0 else s)

/-- The median of delay measurements: of an even number, the mean of the middle two (R338; log entry 22). -/
def medianOf (l : List Int) : Int :=
  let m := sortInts l
  let n := m.length
  if n = 0 then 0 else if n % 2 = 1 then m.getD (n / 2) 0 else (m.getD (n / 2 - 1) 0 + m.getD (n / 2) 0).tdiv 2

/-- A time packet that fails its CRC is discarded and counted (R314). -/
def State.discardTime (s : State) (l : Fin 16) : State := s.modLink l fun k => { k with cnts := upd k.cnts 3 (satAdd · 1) }

/-- A time packet arrives: one that fails its CRC is discarded and counted; of one that holds, the acknowledgement and the credits
are taken, and then what its type asks (R313, R314). -/
def State.onTime (s : State) (l : Fin 16) (x : TimePkt) (act : State → State) : State :=
  if !x.crcOk then s.discardTime l
  else if !s.linkUp l then s
  else act (s.takeAck l x.ack x.crVc.toNat x.crN.toNat)

/-- `SYNC` (R339, R340): on the source link the servo takes (TS + delay) − receive time as its error, and the stratum is the
sender's plus 1. -/
def execSync (l : Fin 16) (x : TimePkt) (s : State) : Host.Outcome State Fault Refusal :=
  .next (s.onTime l x fun s =>
    if !(s.servo.source = 2 && s.servo.link = l && s.linkActive l && s.servo.runs) then s
    else
      let e := stampValue ((x.bytes.drop 4).take 14) + medianOf s.swarm.links[l.val].delays - x.rxTime
      let st := satAdd (x.bytes.getD 3 0) 1
      { s with servo := { s.servo with stratum := st } }.servoError x.rxTime e)

/-- The 32 bytes after the common four of SYNC, PDELAY_REQ and PDELAY_RESP (R337). -/
def timeBody (ts ref : Nat) : Bytes := stampBytes ts ++ [0, 0] ++ stampBytes ref ++ [0, 0]

/-- May this device send SYNC: its `TB0` is SET, and it is a grandmaster or its servo is LOCKED; in HOLD it sends none (R339,
R341)? -/
def State.maySync (s : State) : Bool :=
  s.tb0.set && s.servo.st != .hold && (s.servo.grandmaster || s.servo.st = .locked)

/-- `SYNC_SEND` (R339): on an ACTIVE link of `TX_MASK`. -/
def execSyncSend (l : Fin 16) (phase : Fin 16) (s : State) : Host.Outcome State Fault Refusal :=
  .next (if s.servo.txMask.getLsbD l.val && s.linkActive l && s.maySync then
    s.sendTime l 0 (timeBody (s.stampAt phase) 0) else s)

/-- `PDELAY_REQ_SEND` (R338): every ACTIVE link asks; the transmit time is kept as t1. -/
def execPdelayReqSend (l : Fin 16) (phase : Fin 16) (s : State) : Host.Outcome State Fault Refusal :=
  .next (if s.linkActive l then
    (s.sendTime l 1 (timeBody (s.stampAt phase) 0)).modLink l fun k => { k with reqT1 := some (s.stampAt phase : Int) } else s)

/-- `PDELAY_REQ` (R338): answered at once, with the request's receive time in `REF`. -/
def execPdelayReq (l : Fin 16) (x : TimePkt) (phase : Fin 16) (s : State) : Host.Outcome State Fault Refusal :=
  .next (s.onTime l x fun s => if s.linkActive l then s.sendTime l 2 (timeBody (s.stampAt phase) x.rxTime.toNat) else s)

/-- `PDELAY_RESP` (R338): one measurement ((t4 − t1) − (t3 − t2)) / 2; the last 16 are kept. -/
def execPdelayResp (l : Fin 16) (x : TimePkt) (s : State) : Host.Outcome State Fault Refusal :=
  .next (s.onTime l x fun s => match s.swarm.links[l.val].reqT1 with
    | none => s
    | some t1 =>
      let t3 := stampValue ((x.bytes.drop 4).take 14)
      let t2 := stampValue ((x.bytes.drop 20).take 14)
      let m := ((x.rxTime - t1) - (t3 - t2)).tdiv 2
      if s.linkActive l then s.modLink l fun k => { k with reqT1 := none, delays := (m :: k.delays).take 16 } else s)

/-- A HELLO is sent every 1 ms on a link that is UP or ACTIVE (R318). -/
def execHelloSend (l : Fin 16) (s : State) : Host.Outcome State Fault Refusal :=
  .next (if s.linkUp l then s.sendHello l else s)

/-- `HELLO` (R318, R319): the neighbour entry is updated, the link becomes ACTIVE, and a shared swarm ID or a second link
with the same identity is marked and told by `E031`. -/
def execHello (l : Fin 16) (x : TimePkt) (s : State) : Host.Outcome State Fault Refusal :=
  .next (s.onTime l x fun s =>
    let k := s.swarm.links[l.val]
    let ident := BitVec.ofNat 64 (bytesNum ((x.bytes.drop 4).take 8))
    let id := x.bytes.getD 12 0
    let dup := id = s.swarm.id && id != 0xFF
    let loop := (allFin 16).any fun i => i != l && s.swarm.links[i.val].helloSeen && s.swarm.links[i.val].peerIdentity = ident
    let s := s.modLink l fun k => { k with
      peerId := id, peerLink := BitVec.ofNat 4 (x.bytes.getD 2 0).toNat, peerIdentity := ident
      peerServo := x.bytes.getD 13 0, helloSeen := true, dup := dup, loop := loop }
    let s := s.linkState l .active 0
    let tell (b : Bool) (c : Nat) (s : State) : State :=
      if b then s.raise 31 1 l.val (detail [(0, 1, 4), (1, 1, 4), (2, 1, (Config.linkCause c).toNat)]) else s
    tell (loop && !k.loop) 2 (tell (dup && !k.dup) 1 s))

end Sys2Proof.Machine
end

