-- ==== Sys2Proof/Machine/SwarmCmds.lean ====
section
/-! DEFINITION. The SWARM commands, Laravo packets, training and link states (spec/11_swarm_and_time.md). -/

namespace Sys2Proof.Machine

/-- Links that a mask names, in ascending order. -/
def linksOf (m : Nat) : List (Fin 16) := (allFin 16).filter fun l => m.testBit l.val

/-- The neighbour entry of a link (R319). -/
def Laravo.entry (k : Laravo) : Words :=
  [BitVec.ofNat 32 (k.st.code + bitAt k.fixApplied 3 + bitAt k.reversed 4 + k.inverted.toNat * 2 ^ 5 + bitAt k.dup 9 +
      bitAt k.loop 10),
   BitVec.ofNat 32 (k.peerId.toNat + k.peerLink.toNat * 2 ^ 8)] ++ word2 k.peerIdentity.toNat ++
    word2 (unsignedOf 64 (medianOf k.delays)) ++
    word2 (k.cnts[0].toNat + k.cnts[1].toNat * 2 ^ 16 + k.cnts[2].toNat * 2 ^ 32 + k.cnts[3].toNat * 2 ^ 48)

/-- `SWARM_NEIGHBOURS` (command table of 11; log entry 21). -/
def cmdSwarmNeighbours : CmdDef :=
  .plain 0x0C00 36 modeAny [⟨0, 32, 0, 16, .names (· != 0)⟩, ⟨1, 32, 16, 1, .any⟩] fun j s =>
    let ls := linksOf (fld j.args 32 0 16)
    let body := (ls.flatMap fun l => s.swarm.links[l.val].entry) ++ [s.swarm.fwdLate]
    let clear (s : State) : State :=
      let s := forAll ls (fun l s => s.modLink l fun k => { k with cnts := Vector.replicate 4 0 }) s
      { s with swarm := { s.swarm with fwdLate := 0 } }
    .done (if fld j.args 32 16 1 = 1 then clear s else s) body

/-- `SWARM_NEIGHBOURS`: the row. -/
def execSwarmNeighbours (p : Pkt) (s : State) : Host.Outcome State Fault Refusal := .next (cmdSwarmNeighbours.fetch p s)

/-- `SWARM_ID_SET` (R320): the ID, and a HELLO on every link that is UP or ACTIVE (R318). -/
def cmdSwarmIdSet : CmdDef :=
  .plain 0x0C01 36 modeSrm [⟨0, 32, 0, 8, .any⟩] fun j s =>
    let s := { s with swarm := { s.swarm with id := BitVec.ofNat 8 (fld j.args 32 0 8) } }
    .done (forAll ((allFin 16).filter s.linkUp) (fun l s => s.sendHello l) s) []

/-- `SWARM_ID_SET`: the row. -/
def execSwarmIdSet (p : Pkt) (s : State) : Host.Outcome State Fault Refusal := .next (cmdSwarmIdSet.fetch p s)

/-- Route entries and the broadcast mask written (R321). -/
def State.setRoutesTable (s : State) (args : Words) : State :=
  let first := fld args 32 0 8
  let n := fld args 32 8 9
  { s with swarm := { s.swarm with
      routes := Vector.ofFn fun i =>
        if first ≤ i.val ∧ i.val < first + n then wordAt args (40 + 4 * (i.val - first)) else s.swarm.routes[i.val]
      bcastMask := if fld args 36 16 1 = 1 then s.swarm.bcastMask else BitVec.ofNat 16 (fld args 36 0 16) } }

/-- `SWARM_ROUTE_SET` (command table of 11). -/
def cmdSwarmRouteSet : CmdDef :=
  { CmdDef.plain 0x0C02 40 modeSrm [] fun j s => .done (s.setRoutesTable j.args) [] with
    length := fun p => 40 + 4 * fld p.params 32 8 9
    fields := fun p =>
      [⟨0, 32, 0, 8, .names (· ≤ 254)⟩,
       ⟨1, 32, 8, 9, .names fun n => 1 ≤ n && n ≤ 255 && fld p.params 32 0 8 + n ≤ 255⟩,
       ⟨2, 36, 0, 16, .any⟩, ⟨3, 36, 16, 1, .any⟩] ++
        (List.range (fld p.params 32 8 9)).map fun i => ⟨4 + i, 40 + 4 * i, 0, 16, .any⟩ }

/-- `SWARM_ROUTE_SET`: the row. -/
def execSwarmRouteSet (p : Pkt) (s : State) : Host.Outcome State Fault Refusal := .next (cmdSwarmRouteSet.fetch p s)

/-- A number below 16 as a link. -/
def linkOf (n : Nat) : Fin 16 := Fin.ofNat 16 n

/-- The settings that `SWARM_LINK_SET` writes. -/
def Laravo.withSettings (k : Laravo) (args : Words) : Laravo :=
  { k with
    retrain := fld args 32 8 1 = 1, fixWiring := fld args 32 9 1 = 1, buzzTx := fld args 32 10 1 = 1
    buzzRx := fld args 32 11 1 = 1, pre := BitVec.ofNat 4 (fld args 36 0 4), post := BitVec.ofNat 5 (fld args 36 8 5)
    swing := BitVec.ofNat 4 (fld args 36 16 4), ctle := BitVec.ofNat 4 (fld args 36 24 4) }

/-- `SWARM_LINK_SET`: apply, disable, enable (R316, R317; log entry 21). -/
def swarmLinkSetAct (j : Job) (s : State) : Act :=
  let l := linkOf j.p.unit.toNat
  let s := s.modLink l fun k => k.withSettings j.args
  match fld j.args 32 0 2 with
  | 1 => .done ((s.linkDrop l .off 3).modLink l fun k => { k with enabled := false, mayTrain := false }) []
  | 2 => .done ((s.linkDrop l .down 4).modLink l fun k => { k with enabled := true, mayTrain := true }) []
  | _ => .done s []

/-- `SWARM_LINK_SET` (command table of 11). -/
def cmdSwarmLinkSet : CmdDef :=
  { CmdDef.plain 0x0C03 40 modeCtl
      [⟨0, 32, 0, 2, .names (· < 3)⟩, ⟨1, 32, 8, 1, .any⟩, ⟨2, 32, 9, 1, .any⟩, ⟨3, 32, 10, 1, .any⟩, ⟨4, 32, 11, 1, .any⟩,
       ⟨5, 36, 0, 4, .clamp 0 12⟩, ⟨6, 36, 8, 5, .clamp 0 24⟩, ⟨7, 36, 16, 4, .clamp 0 15⟩, ⟨8, 36, 24, 4, .clamp 0 12⟩]
      swarmLinkSetAct with
    unitMax := 15
    checks := fun s j =>
      let l := linkOf j.p.unit.toNat
      let st := s.swarm.links[l.val].st
      firstOf [checkLink s l,
        refuseIf (fld j.args 32 0 2 = 0 && !(st = .off || st = .down || st = .fault)) stBusy 0] }

/-- `SWARM_LINK_SET`: the row. -/
def execSwarmLinkSet (p : Pkt) (s : State) : Host.Outcome State Fault Refusal := .next (cmdSwarmLinkSet.fetch p s)

/-- The inner packet that `SWARM_FORWARD` carries, as words. -/
def innerWords (args : Words) : Words := args.drop 4

/-- The links of a path beyond its length are zero (`SWARM_FORWARD` field 4). -/
def pathOk (len path : Nat) : Bool := path / 2 ^ (4 * len) = 0

/-- The path bytes a source-routed message starts with (R324). -/
def pathBytes (len path : Nat) : BitVec 64 := BitVec.ofNat 64 (path + len * 2 ^ 32)

/-- Does a `SWARM_FORWARD` find a link to leave on (R322)? -/
def forwardFinds (s : State) (mode dest path : Nat) : Bool :=
  if mode = 0 then dest = s.swarm.id.toNat || (s.route dest).isSome
  else if mode = 1 then s.linkActive (linkOf (path % 16))
  else true

/-- A message of the inner command, or of the abort of it, sent the way a `SWARM_FORWARD` goes. -/
def State.sendForward (s : State) (mode : Nat) (dest : Byte) (way : BitVec 64) (data : Bytes) : State :=
  if mode = 0 then s.sendRouted 0 dest data
  else if mode = 1 then s.sendPath 0 dest way data
  else
    let n := s.swarm.bcastNum
    let s := { s with swarm := { s.swarm with bcastNum := n + 1, bcastSeen := remember s.swarm.bcastSeen s.swarm.id n } }
    s.sendBroadcast s.swarm.id n none 15 (fragments 504 data)

/-- `SWARM_FORWARD`: the inner packet leaves and the command waits for its replies (R327). -/
def swarmForwardAct (j : Job) (s : State) : Act :=
  let mode := fld j.args 32 0 2
  let dest := BitVec.ofNat 8 (fld j.args 32 8 8)
  let way := pathBytes (fld j.args 32 16 4) (fld j.args 40 0 32)
  let inner := innerWords j.args
  let f : Forward :=
    { key := j.key, mode := BitVec.ofNat 2 mode, dest := dest, way := way, tag := (inner.getD 1 0).setWidth 16
      target := inner.getD 2 0, expected := if mode = 2 then fld j.args 44 0 8 else 1, got := [], aborting := false }
  let s := { s with swarm := { s.swarm with forwards := s.swarm.forwards ++ [f] } }
  .stay (s.sendForward mode dest way (bytesOfWords inner))

/-- `SWARM_FORWARD` (command table of 11). -/
def cmdSwarmForward : CmdDef :=
  { CmdDef.plain 0x0C04 48 modeOps [] swarmForwardAct with
    length := fun p => 48 + (fld p.params 52 16 16)
    fields := fun p =>
      let m := fld p.params 32 0 2
      let len := fld p.params 32 16 4
      [⟨0, 32, 0, 2, .names (· < 3)⟩, ⟨1, 32, 8, 8, .names fun d => m != 0 || d ≤ 0xFE⟩,
       ⟨2, 32, 16, 4, .names fun n => m != 1 || (1 ≤ n && n ≤ 8)⟩, ⟨3, 36, 0, 24, .clamp 10 10000000⟩,
       ⟨4, 40, 0, 32, .names fun q => m != 1 || pathOk len q⟩, ⟨5, 44, 0, 8, .clamp 1 254⟩,
       ⟨6, 48, 0, 32 * (p.blockLen - 4), .any⟩]
    echoEnd := some 48
    checks := fun s j =>
      let m := fld j.args 32 0 2
      firstOf [refuseIf (m != 1 && s.swarm.id = 0xFF) stNotReady,
        refuseIf (!forwardFinds s m (fld j.args 32 8 8) (fld j.args 40 0 32)) stBadTarget] }

/-- `SWARM_FORWARD`: the row. -/
def execSwarmForward (p : Pkt) (s : State) : Host.Outcome State Fault Refusal := .next (cmdSwarmForward.fetch p s)

/-- The result a `SWARM_FORWARD` gives (R327): the inner reply whole, or a count and one entry per reply. -/
def Forward.body (f : Forward) : Words :=
  if f.mode = 2 then
    BitVec.ofNat 32 f.got.length :: f.got.map fun x =>
      BitVec.ofNat 32 (x.1.toNat + bitsOf (x.2.getD 0 0).toNat 16 16 * 2 ^ 16)
  else match f.got with
    | [] => []
    | x :: _ => x.2

/-- A forward taken off the list. -/
def State.dropForward (s : State) (k : JobKey) : State :=
  { s with swarm := { s.swarm with forwards := s.swarm.forwards.filter fun f => !sameKey f.key k } }

/-- The oldest whole message of a channel on a link, and the rest. -/
def takeMessage (vc : Nat) : List Message → Option (Message × List Message)
  | [] => none
  | m :: l => if m.vc = vc then some (m, l) else (takeMessage vc l).map fun x => (x.1, m :: x.2)

/-- Is a message that arrived on a link a reply that a forward still lacks (R327): it carries the inner tag, and comes from the
destination named, back along the path named, or from a device of a broadcast that has not replied yet? -/
def Forward.lacks (f : Forward) (l : Fin 16) (m : Message) (tag : BitVec 16) : Bool :=
  f.tag = tag && decide (f.got.length < f.expected) &&
    (match f.mode.toNat with
     | 0 => m.way.isNone && f.dest = m.src
     | 1 => m.way.any fun w => replyWay l w = f.way
     | _ => m.way.isNone && !(f.got.any fun g => g.1 = m.src))

/-- An inner reply is matched to the forward that lacks it (R327): a complete one commits `DONE`, or `ABORTED` when an abort had
been sent after it (R328). A reply without one counts in `FWD_LATE`. -/
def State.innerReply (s : State) (l : Fin 16) (m : Message) : State :=
  let words := wordsOfBytes m.data
  let tag : BitVec 16 := (words.getD 1 0).setWidth 16
  match s.swarm.forwards.find? fun f => f.lacks l m tag with
  | none => { s with swarm := { s.swarm with fwdLate := satAdd s.swarm.fwdLate 1 } }
  | some f =>
    let f' := { f with got := f.got ++ [(m.src, words)] }
    if f'.got.length < f.expected then
      { s with swarm := { s.swarm with forwards := s.swarm.forwards.map fun g => if sameKey g.key f.key then f' else g } }
    else
      let s := s.dropForward f.key
      match s.job? f.key with
      | none => s
      | some j => if f.aborting then s.commitClose j ⟨stAborted, 0xFF⟩ true f'.body else s.commitDone j f'.body

/-- `FORWARD_REPLY`: the oldest whole message of channel 1 on a link is an inner reply. -/
def execForwardReply (l : Fin 16) (s : State) : Host.Outcome State Fault Refusal :=
  match takeMessage 1 s.swarm.links[l.val].whole with
  | none => .next s
  | some (m, rest) => .next ((s.modLink l fun k => { k with whole := rest }).innerReply l m)

/-- `FORWARD_TIMEOUT` (R327): `TIMEOUT` with what has been received. -/
def execForwardTimeout (k : JobKey) (s : State) : Host.Outcome State Fault Refusal :=
  match s.swarm.forwards.find? fun f => sameKey f.key k, s.job? k with
  | some f, some j => .next ((s.dropForward k).commitClose j ⟨stTimeout, 0xFF⟩ true f.body)
  | _, _ => .next s

/-! Packets that arrive (R313, R314, R320 to R325). -/

/-- A packet dropped for its hop limit, a missing route or a broken message is counted against its arrival link. -/
def State.dropPacket (s : State) (l : Fin 16) : State := s.modLink l fun k => { k with cnts := upd k.cnts 2 (satAdd · 1) }

/-- A fragment joins the message of its channel; a whole message waits to be executed or matched (R313). -/
def State.gather (s : State) (l : Fin 16) (m : Message) (first last : Bool) : State :=
  let k := s.swarm.links[l.val]
  let old := k.partial_.find? fun q => q.vc = m.vc
  let rest := k.partial_.filter fun q => q.vc != m.vc
  match first, old with
  | false, none => s.dropPacket l
  | _, _ =>
    let whole : Message := match first, old with
      | false, some q => if q.src = m.src then { q with data := q.data ++ m.data } else m
      | _, _ => m
    if !first && !(old.any fun q => q.src = m.src) then (s.modLink l fun k => { k with partial_ := rest }).dropPacket l
    else if last then s.modLink l fun k => { k with partial_ := rest, whole := k.whole ++ [whole] }
    else s.modLink l fun k => { k with partial_ := whole :: rest }

/-- A packet that the sequence check has passed is delivered, forwarded or dropped; one that is forwarded keeps its receive buffer
until it leaves (R314). A broadcast is remembered once it has arrived whole and is executed; a later copy is dropped (R325). -/
def State.routePacket (s : State) (l : Fin 16) (h payload : Bytes) : State :=
  let dest := h.getD 0 0
  let src := h.getD 1 0
  let b2 := (h.getD 2 0).toNat
  let vc := b2 % 8
  let first := b2.testBit 3
  let last := b2.testBit 4
  let sr := b2.testBit 5
  let hops := (h.getD 3 0).toNat
  let lead : BitVec 64 := BitVec.ofNat 64 (bytesNum (payload.take 8))
  let taken (s : State) : State := s.modLink l fun k => k.leave vc
  let onward (p : TxPacket) : TxPacket := { p with from_ := some l }
  if sr then
    let len := bitsOf lead.toNat 32 8
    let pos := bitsOf lead.toNat 40 8
    if len ≤ pos then taken (s.gather l ⟨vc, src, some lead, none, payload.drop 8⟩ first last)
    else
      let out := linkOf (bitsOf lead.toNat (4 * pos) 4)
      if hops = 0 || !s.linkActive out then taken (s.dropPacket l)
      else
        let lead' := lead.toNat - bitsOf lead.toNat (4 * pos) 4 * 2 ^ (4 * pos) + l.val * 2 ^ (4 * pos) + 2 ^ 40
        s.queuePacket out (onward (draft dest src vc first last true (hops - 1) (numBytes 8 lead' ++ payload.drop 8)))
  else if dest = 0xFF then
    let num : BitVec 16 := BitVec.ofNat 16 lead.toNat
    let open_ := s.swarm.links[l.val].partial_.any fun q => q.vc = vc && q.src = src && q.bcast = some num
    let seen := s.swarm.bcastSeen.contains (src, num)
    if seen || (!first && !open_) then taken (s.dropPacket l)
    else
      let s := if last then
        { s with swarm := { s.swarm with bcastSeen := remember s.swarm.bcastSeen src num } } else s
      let s := if hops = 0 then s else
        s.sendBroadcast src num (some l) (hops - 1) [(first, last, payload.drop 8)]
      taken (s.gather l ⟨vc, src, none, some num, payload.drop 8⟩ first last)
  else if dest = s.swarm.id then taken (s.gather l ⟨vc, src, none, none, payload⟩ first last)
  else if hops = 0 || s.swarm.id = 0xFF then taken (s.dropPacket l)
  else match s.route dest.toNat with
    | none => taken (s.dropPacket l)
    | some out => s.queuePacket out (onward (draft dest src vc first last false (hops - 1) payload))

/-- The transmissions of one packet or flit that fail before a link goes down (R317; 10, R299). -/
def failLimit : Nat := 16

/-- A packet that fails its CRC is discarded with every later one, and a replay is asked from the one expected; the sixteenth
failure in a row of that one takes the link DOWN (R314, R317). A failure met while the link discards counts when the header names
the one expected. -/
def State.badPacket (s : State) (l : Fin 16) (named : BitVec 12) : State :=
  let k := s.swarm.links[l.val]
  let s := s.modLink l fun k => { k with cnts := upd k.cnts 0 (satAdd · 1) }
  if k.rejecting && named != k.rxSeq then s
  else if failLimit ≤ k.failsIn + 1 then s.linkDrop l .down 10
  else (s.modLink l fun k => { k with rejecting := true, failsIn := k.failsIn + 1 }).emit (.replayAsk l k.rxSeq)

/-- The partner asks a link for a replay (R314; 10, R292): the packets from the one asked for go out again, and the replay is
counted; the sixteenth in a row from one packet takes the link DOWN (R317). -/
def State.replayLink (s : State) (l : Fin 16) (seq : BitVec 12) : State :=
  let k := s.swarm.links[l.val]
  if !s.linkActive l || !(k.replayBuf.any (·.1 = seq)) then s
  else
    let n := if k.failsAt = seq then k.failsOut + 1 else 1
    let s := s.modLink l fun k => { k with failsAt := seq, failsOut := n, cnts := upd k.cnts 1 (satAdd · 1) }
    if failLimit ≤ n then s.linkDrop l .down 10
    else (k.replayBuf.dropWhile (·.1 != seq)).foldl (fun s p => s.emitLink l (.laravo l 0 p.2)) s

/-- The bytes of a packet on channels 0 to 3 have arrived, `clean` when each was a data symbol (R313, R314): a failed CRC discards it
and asks for a replay; a number out of order is discarded with all it holds; one in order acknowledges, returns its credits and goes
on. -/
def State.laravoArrived (s : State) (l : Fin 16) (bytes : Bytes) (clean : Bool) : State :=
  if bytes.length < 16 then s
  else
    let n := bytes.length - 4
    let h := bytes.take 12
    let vc := (h.getD 2 0).toNat % 8
    let seq : BitVec 12 := BitVec.ofNat 12 (bytesNum ((h.drop 4).take 2))
    if !clean || crc32 (bytes.take n) != BitVec.ofNat 32 (bytesNum (bytes.drop n)) then s.badPacket l seq
    else if 4 ≤ vc then s
    else if seq != s.swarm.links[l.val].rxSeq then s
    else
      let cr := (h.getD 8 0).toNat
      let s := s.takeAck l (BitVec.ofNat 12 (bytesNum ((h.drop 6).take 2))) (cr % 8) (cr / 8)
      let s := s.modLink l fun k => { k with
        rxSeq := k.rxSeq + 1, rejecting := false, failsIn := 0
        held := if c : vc < 4 then upd k.held ⟨vc, c⟩ (· + 1) else k.held }
      s.routePacket l h ((bytes.take n).drop 12)

/-! Columns of code groups on the lanes (R312). -/

/-- The idle ordered set /I2/ on every lane: K28.5, then D16.2 (R312). -/
def idleColumns : List (List Sym) := [List.replicate 4 symFill, List.replicate 4 (.data 0x50)]

/-- The column of K28.0 skip symbols (R312). -/
def skipSyms : List Sym := List.replicate 4 (.ctrl 0x1C)

/-- The 1,024 columns that a link sends from one skip column to the next: what waits, and idle columns behind it. DESIGN CHOICE: where
between the packets the idle columns lie is timing (log entry 74). -/
def Laravo.columns (k : Laravo) : List (List Sym) := (k.wire ++ (List.replicate 512 idleColumns).flatten).take 1024

/-- A symbol as its K flag and its byte. -/
def Sym.char : Sym → Bool × Nat
  | .data b => (false, b.toNat)
  | .ctrl b => (true, b.toNat)

/-- A column coded, each lane at its own running disparity; the disparities after it. -/
def codeColumn (col : List Sym) (rd : List Bool) : List (BitVec 10) × List Bool :=
  let r := (col.zip rd).map fun x => codeWord [x.1.char] x.2
  (r.map fun y => y.1.getD 0 0, r.map (·.2))

/-- Columns coded one after the other. -/
def codeColumns : List (List Sym) → List Bool → List (List (BitVec 10)) × List Bool
  | [], rd => ([], rd)
  | c :: l, rd =>
    let x := codeColumn c rd
    let r := codeColumns l x.2
    (x.1 :: r.1, r.2)

/-- The symbol that a received code group is, at either running disparity (log entry 74). -/
def rxSym (v : BitVec 10) : Option Sym :=
  let g := revBits 10 v.toNat
  (characters.find? fun c => codeGroup c.1 c.2 false = g || codeGroup c.1 c.2 true = g).map fun c =>
    if c.1 then .ctrl (BitVec.ofNat 8 c.2) else .data (BitVec.ofNat 8 c.2)

/-- The columns behind a receiver's elastic buffer, whose skip columns carry nothing, as many as it adds or removes (R312). -/
def elastic (cols : List (List (Option Sym))) : List (List (Option Sym)) := cols.filter (· != skipSyms.map some)

/-- A symbol between the two ends of a packet as a byte; one that is no code group reads 0 and spoils the packet. -/
def symByte : Option Sym → Byte
  | some (.data b) => b
  | some (.ctrl b) => b
  | none => 0

/-- The packet that columns hold, from K27.7 on lane 0 to K29.7: its bytes, and whether each is a data symbol (R312). -/
def unframe (cols : List (List (Option Sym))) : Option (Bytes × Bool) :=
  match (cols.dropWhile fun c => c.head? != some (some (.ctrl 0xFB))).flatten with
  | [] => none
  | _ :: rest =>
    let body := rest.takeWhile (· != some (.ctrl 0xFD))
    if body.length = rest.length then none
    else some (body.map symByte, body.all fun x => match x with
      | some (.data _) => true
      | _ => false)

/-- `LARAVO_PACKET`: a packet on channels 0 to 3 arrives in the columns of a link (R312 to R314). -/
def execLaravoPacket (l : Fin 16) (cols : List (List (BitVec 10))) (s : State) : Host.Outcome State Fault Refusal :=
  .next (if !s.linkActive l then s
    else match unframe (elastic (cols.map (·.map rxSym))) with
      | none => s
      | some x => s.laravoArrived l x.1 x.2)

/-- `SKIP_COLUMN` (R312): a link that is up has sent 1,024 columns, and inserts a skip column. -/
def execSkipColumn (l : Fin 16) (s : State) : Host.Outcome State Fault Refusal :=
  .next (if s.linkUp l then
    let k := s.swarm.links[l.val]
    let x := codeColumns (k.columns ++ [skipSyms]) k.txDisp.toList
    ((s.modLink l fun k => { k with
      wire := k.wire.drop 1024, txDisp := Vector.ofFn fun i => x.2.getD i.val false }).emit (.columns l x.1)).emit (.skip l)
  else s)

/-! Training and link states (R316, R317). -/

/-- Laravo transmitters run: READY, RUN or MAINTAIN (12, R344), and a wake, in whose step 3 enabled links train (12, R365). -/
def State.laravoMode (s : State) : Bool :=
  s.rsc.mode = .ready || s.rsc.mode = .run || s.rsc.mode = .maintain || s.rsc.hib = .waking

/-- Is the domain of a link on? -/
def State.linkPowered (s : State) (l : Fin 16) : Bool := s.pdOn (if l.val < 8 then 4 else 5)

/-- `LINK_TRAINING_START` (R316, R317): an enabled link that is DOWN and may train sees a partner; a FAULT link trains again
only with `RETRAIN`. -/
def execLinkTrainingStart (l : Fin 16) (s : State) : Host.Outcome State Fault Refusal :=
  let k := s.swarm.links[l.val]
  .next (if k.enabled && s.laravoMode && s.linkPowered l && !s.linkMarked l && s.clk.runs && !s.clk.coast &&
      ((k.st = .down && (k.mayTrain || k.retrain)) || (k.st = .fault && k.retrain)) then
    (s.linkDrop l .training 5).modLink l fun k => { k with mayTrain := false }
  else s)

/-- `LINK_TRAINED` (R316): straight wiring trains; a wiring that can be corrected is corrected only with `FIX_WIRING` and
otherwise reported in FAULT; anything else is FAULT. A link that comes UP sends a HELLO (R318). -/
def execLinkTrained (l : Fin 16) (wiring : Wiring) (s : State) : Host.Outcome State Fault Refusal :=
  let k := s.swarm.links[l.val]
  if k.st != .training then .next s
  else match wiring with
    | .straight =>
      .next (((s.modLink l fun k => { k with fixApplied := false, reversed := false, inverted := 0 }).linkState l .up 6).sendHello l)
    | .fixable rev inv =>
      let s := s.modLink l fun k => { k with fixApplied := k.fixWiring, reversed := rev, inverted := inv }
      .next (if k.fixWiring then (s.linkState l .up 6).sendHello l else s.linkDrop l .fault 7)
    | .bad => .next (s.linkDrop l .fault 8)

/-- `LARAVO_SILENT` (R317): nothing valid for 1 µs takes a link DOWN. -/
def execLaravoSilent (l : Fin 16) (s : State) : Host.Outcome State Fault Refusal :=
  let st := s.swarm.links[l.val].st
  .next (if st = .up || st = .active || st = .training then s.linkDrop l .down 9 else s)

end Sys2Proof.Machine
end

