-- ==== Sys2Proof/Machine/NetFlits.lean ====
section
/-! DEFINITION. Flits (spec/10_hive_network_and_ndenu.md, R283 to R288, R291, R292, R299, R307): the mesh of routers, its routes
and channels, and the Ndenu links with their headers, CRC-32 and replay. -/

namespace Sys2Proof.Machine

/-! Credit books (R288, R307): a credit is spent for a flit that goes on the wire, the flit fills a slot when it arrives, its
credit is on the way back when it leaves the slot, and free again when it is home. -/

/-- A flit goes on the wire. -/
def Book.spend (b : Book) : Book := { b with free := b.free - 1, flight := b.flight + 1 }
/-- The flits on the wire arrive. -/
def Book.landAll (b : Book) : Book := { b with filled := b.filled + b.flight, flight := 0 }
/-- A flit arrives. -/
def Book.land (b : Book) : Book := { b with filled := b.filled + 1, flight := b.flight - 1 }
/-- All flits leave the receiver's buffer. -/
def Book.leaveAll (b : Book) : Book := { b with filled := 0, back := b.back + b.filled }
/-- Credits are home. -/
def Book.home (b : Book) (n : Nat) : Book :=
  let k := min n b.back
  { b with free := b.free + k, back := b.back - k }

/-- All listed books changed; one at its initial values is not listed. -/
def State.mapBooks (s : State) (f : BitVec 16 → Book → Book) : State :=
  { s with net := { s.net with
      books := (s.net.books.map fun e => (e.1, e.2.1, f e.1 e.2.2)).filter fun e => e.2.2 != bookStart e.1 } }

/-! Flits in the mesh. -/

/-- The output that a flit in a router waits for. -/
def MeshFlit.output (f : MeshFlit) : Option (Fin 32 × Fin 5) :=
  match f.at_ with
  | .router r _ => some (r, meshPort r (netRouter f.dst))
  | _ => none

/-- The first element that a test selects is changed, or removed where the change gives none. -/
def modFirst {α : Type} (p : α → Bool) (g : α → Option α) : List α → List α
  | [] => []
  | x :: l => if p x then (g x).toList ++ l else x :: modFirst p g l

/-- Does the input buffer of a router for what is attached to it have room: 16 flits of each channel (R288)? -/
def State.attachRoom (s : State) (r : Fin 32) (vc : Fin 4) : Bool :=
  decide ((s.net.mesh.filter fun f => f.at_ = .router r attachPort && f.vc = vc).length < 16)

/-- A flit is answered at the last router it reaches, `NOT_READY` (R283). -/
def State.notReached (s : State) (f : MeshFlit) : State := (s.leaveInput f).emit (.notReady f.src)

/-- A flit enters the mesh at its source's router. -/
def State.enterMesh (s : State) (f : MeshFlit) : State :=
  let r := (netRouter f.src)
  if !s.pdOn (routerDomain r) then s.notReached f
  else (s.leaveInput f).setMesh (s.net.mesh ++ [{ f with at_ := .router r attachPort }])

/-- Credits come home and flits on the wire reach the next router, a hop of two hive cycles (R284); those that the endpoint of a
die's link holds enter their router while it has room; what a die has received leaves its buffer. -/
def State.meshArrive (s : State) : State :=
  let s := s.mapBooks fun c b => if c.toNat < 4096 then (b.home b.back).landAll else if c.toNat < 8192 then b.leaveAll else b
  let reach (f : MeshFlit) : MeshFlit :=
    match f.at_ with
    | .wire r p => { f with at_ := .router (meshNext r p) (meshBack p) }
    | _ => f
  let atEnd (f : MeshFlit) : Bool := match f.at_ with
    | .endpoint _ => true
    | _ => false
  let l := s.net.mesh.map reach
  (l.filter atEnd).foldl (fun s f =>
    if s.attachRoom (netRouter f.src) f.vc then { s with net := { s.net with mesh := s.net.mesh.erase f } }.enterMesh f else s)
    (s.setMesh l)

/-- A flit that a router's domain has left without power is lost, with its slot free again; one whose next router or link is off is
answered (R283). -/
def State.meshAnswer (s : State) : State :=
  let s := s.discardFlits fun f => match f.at_ with
    | .router r _ | .wire r _ => !s.pdOn (routerDomain r)
    | _ => false
  let stuck (f : MeshFlit) : Bool := match f.output with
    | some (r, p) => p != attachPort && !(s.pdOn (routerDomain (meshNext r p)) && s.meshLinkOn r (meshNext r p))
    | none => false
  let l := s.net.mesh
  (l.filter stuck).foldl State.notReached (s.setMesh (l.filter fun f => !stuck f))

/-- A flit reaches its unit of the hive die: a fail record enters the pipeline's queue, where its domain is on (06, R168). -/
def State.reachUnit (s : State) (f : MeshFlit) : State :=
  match f.failRecord with
  | some r => if s.pdOn 14 then { s with brood := { s.brood with inbox := s.brood.inbox ++ [r] } } else s.emit (.notReady f.src)
  | none => s

/-- A flit has reached its unit. One for a die waits for the die's link; a fenced die's is answered `UNIT_FENCED` (R303), and
one for a die whose link or die domain is off `NOT_READY` (R283). -/
def State.deliverFlit (s : State) (f : MeshFlit) : State × Option MeshFlit :=
  match netDie f.dst with
  | none => (s.reachUnit f, none)
  | some d =>
      if s.net.dies[d.val].fenced then (s.emit (.unitFenced f.src), none)
      else if !(s.dieOn d 0 && s.dieOn d 1) then (s.emit (.notReady f.src), none)
      else (s, some { f with at_ := .toDie d })

/-- The flit that a channel sends next: the oldest window refill, which goes before all other traffic of the stream channel (03,
R67), else the oldest (R285). -/
def nextFlit (l : List MeshFlit) (wait : MeshFlit → Bool) : Option MeshFlit :=
  (l.find? fun f => wait f && f.refill) <|> l.find? wait

/-- A router's output sends one flit: of the channels that wait with a credit, the one `pickVc` gives (R287), and of its flits the
one `nextFlit` gives. -/
def State.serveOutput (s : State) (o : Fin 32 × Fin 5) : State :=
  let wait (v : Nat) (f : MeshFlit) : Bool := f.output = some o && f.vc.val = v
  let code := meshBook o.1 o.2
  let key (v : Nat) : Nat := 4 * code.toNat + v
  let waited (v : Nat) : Nat := match s.net.waits.find? (·.1 = key v) with
    | some e => e.2
    | none => 0
  match pickVc (vcOrder.filter fun v => s.net.mesh.any (wait v) && decide (0 < (s.book code (Fin.ofNat 4 v)).free)) waited with
  | none => s
  | some v => match nextFlit s.net.mesh (wait v) with
    | none => s
    | some f =>
      let t := (s.leaveInput f).modBook code f.vc Book.spend
      let (t, g) := if o.2 = attachPort then
          let (t, g) := t.deliverFlit f
          (t.modBook code f.vc fun b => if g.isSome then b.land else b.land.leave, g)
        else (t, some { f with at_ := .wire o.1 o.2 })
      let l := modFirst (· = f) (fun _ => g) t.net.mesh
      let due := (List.range 4).filterMap fun c =>
        if c != v && l.any (wait c) then some (key c, waited c + 1) else none
      { t with net := { t.net with
          mesh := l, waits := t.net.waits.filter (fun e => e.1 / 4 != code.toNat) ++ due } }

/-- Every output at which a flit waits sends one: what a link carries in one hive cycle. -/
def State.serveOutputs (s : State) : State :=
  ((s.net.mesh.filterMap MeshFlit.output).eraseDups).foldl State.serveOutput s

/-- Is there anything on the mesh or on its way back? -/
def State.meshIdle (s : State) : Bool := s.net.mesh.isEmpty && s.net.books.all fun e => e.2.2.back = 0 && e.2.2.filled = 0

/-- Two hive cycles of the mesh (R284, R287, R288): a hop takes them, and a link carries one flit in each. On the bypass they take
longer than 1 ns: that time is left out (log entry 62). -/
def State.meshTick (s : State) : State :=
  if s.meshIdle || !s.hiveClocked || s.rsc.hib != .awake then s else s.meshArrive.meshAnswer.serveOutputs.serveOutputs

/-! The Ndenu links (R291, R292). -/

/-- The 72 bytes of a flit: payload, header, and CRC-32 over both (R291). -/
def flitBytes (payload : Bytes) (vc : Nat) (seq ack : BitVec 12) (crN crVc : Nat) : Bytes :=
  let b := payload ++ numBytes 4 (vc + 4 * seq.toNat + 2 ^ 14 * ack.toNat + 2 ^ 26 * crN + 2 ^ 30 * crVc)
  b ++ numBytes 4 (crc32 b).toNat

/-- Does a flit's CRC hold? -/
def flitOk (bs : Bytes) : Bool := decide (bytesNum (bs.drop 68) = (crc32 (bs.take 68)).toNat)

/-- Bits of a flit's header: bytes 64 to 67. -/
def flitField (bs : Bytes) (lo width : Nat) : Nat := bitsOf (bytesNum ((bs.drop 64).take 4)) lo width

/-- A flit as the noise of the link leaves it. -/
def addNoise (bs : Bytes) (noise : List (Fin 576)) : Bytes :=
  noise.foldl (fun bs n => bs.modify (n.val / 8) fun b => b ^^^ BitVec.ofNat 8 (2 ^ (n.val % 8))) bs

/-- The credits of a channel that a flit returns. -/
def LinkFlit.credits (f : LinkFlit) (vc : Nat) : Nat := if flitField f.bytes 30 2 = vc then flitField f.bytes 26 4 else 0

/-- Does a link carry flits: trained, its die not fenced and powered, and the device awake? -/
def State.flitsRun (s : State) (d : Fin 4) : Bool :=
  let x := s.net.dies[d.val]
  !x.fenced && (x.st = .up || x.st = .locked) && s.rsc.hib = .awake

/-- What the next flit of a direction returns: credits of the books the other way that are on their way back and that no flit
carries yet, at most 15 of the first channel that has any (DESIGN CHOICE, log entry 62). -/
def State.creditsDue (s : State) (d : Fin 4) (inbound : Bool) : Nat × Nat :=
  let x := s.net.dies[d.val]
  let sent := if inbound then untaken x.dieBuf x.rxSeq else untaken x.replayBuf x.dieRx
  let due (v : Nat) : Nat :=
    (s.book (ndenuBook d (!inbound)) (Fin.ofNat 4 v)).back - sent.foldl (fun n f => n + f.credits v) 0
  let v := ((List.range 4).find? fun v => 0 < due v).getD 0
  (min 15 (due v), v)

/-- A sender puts a flit on its link: it takes the next sequence number, acknowledges what was received, returns credits, and is
kept (R291, R292). -/
def State.sendFlit (s : State) (d : Fin 4) (inbound : Bool) (src dst : NetUnit) (vc : Fin 4) (payload : Bytes) : State :=
  let x := s.net.dies[d.val]
  let (n, v) := s.creditsDue d inbound
  let seq := if inbound then x.dieTx else x.txSeq
  let ack := if inbound then x.dieRx - 1 else x.rxSeq - 1
  let f : LinkFlit := ⟨seq, src, dst, flitBytes payload vc.val seq ack n v⟩
  (s.modBook (ndenuBook d inbound) vc Book.spend).modDie d fun x =>
    if inbound then { x with dieTx := x.dieTx + 1, dieBuf := x.dieBuf ++ [f] }
    else { x with txSeq := x.txSeq + 1, replayBuf := x.replayBuf ++ [f] }

/-- A link goes DOWN and its die is fenced (R299). -/
def State.linkFails (s : State) (d : Fin 4) (inbound : Bool) : State :=
  ((s.netCount d (if inbound then 6 else 2)).modDie d fun x => { x with st := .down }).fence d 3

/-- The flits that stay in a replay buffer after an acknowledgement: everything up to the number acknowledged leaves it (R292). -/
def ackFlits (l : List LinkFlit) (ack : BitVec 12) : List LinkFlit :=
  if l.any (·.seq = ack) then (l.dropWhile (·.seq != ack)).drop 1 else l

/-- A flit with a bad CRC (R292, R299): it and every later one is discarded until the replay of the one expected arrives, which is
asked for; the sixteenth failure in a row of the one expected takes the link down. -/
def State.badFlit (s : State) (d : Fin 4) (inbound : Bool) (seq : BitVec 12) : State :=
  let s := s.netCount d (if inbound then 4 else 0)
  let x := s.net.dies[d.val]
  let due := seq = if inbound then x.rxSeq else x.dieRx
  let fails := (if inbound then x.failsIn else x.failsOut) + b2n due
  let ask := due || !(if inbound then x.rejecting else x.dieRejecting)
  let s := s.modDie d fun x =>
    if inbound then { x with rejecting := true, failsIn := fails } else { x with dieRejecting := true, failsOut := fails }
  if failLimit ≤ fails then s.linkFails d inbound
  else if inbound && ask then s.emit (.flitReplayAsk d x.rxSeq)
  else s

/-- What a flit taken says to the other direction: it acknowledges flits and brings credits home. -/
def State.takeHeader (s : State) (d : Fin 4) (inbound : Bool) (bs : Bytes) : State :=
  let ack := BitVec.ofNat 12 (flitField bs 14 12)
  let s := s.modDie d fun x =>
    if inbound then { x with replayBuf := ackFlits x.replayBuf ack } else { x with dieBuf := ackFlits x.dieBuf ack }
  s.modBook (ndenuBook d (!inbound)) (Fin.ofNat 4 (flitField bs 30 2)) fun b => b.home (flitField bs 26 4)

/-- The unit number of a die's probe FIFO as a source (log entry 62). -/
def probeUnit : Fin 32 := 12

/-- A flit that a receiver takes: it fills a slot; one from a die lies at the endpoint until its router has room, and one of the
die's probe FIFO brings four samples (07, R219). -/
def State.takeFlit (s : State) (d : Fin 4) (inbound : Bool) (f : LinkFlit) (bs : Bytes) : State :=
  let vc : Fin 4 := Fin.ofNat 4 (flitField bs 0 2)
  let s := s.modDie d fun x =>
    if inbound then { x with rxSeq := x.rxSeq + 1, rejecting := false, failsIn := 0 }
    else { x with dieRx := x.dieRx + 1, dieRejecting := false, failsOut := 0 }
  let s := (s.takeHeader d inbound bs).modBook (ndenuBook d inbound) vc Book.land
  if !inbound then s
  else
    let s := s.setMesh (s.net.mesh ++ [⟨f.src, f.dst, vc, bs.take 64, .endpoint d⟩])
    if f.src = .die d probeUnit && vc = 2 then s.sampleFlit d 4 else s

/-- A flit arrives at the end of a link (R291, R292): a bad one is discarded, one out of order too. -/
def State.arriveFlit (s : State) (d : Fin 4) (inbound : Bool) (f : LinkFlit) (noise : List (Fin 576)) : State :=
  let bs := addNoise f.bytes noise
  let x := s.net.dies[d.val]
  if !flitOk bs then s.badFlit d inbound f.seq
  else if f.seq != if inbound then x.rxSeq else x.dieRx then s
  else s.takeFlit d inbound f bs

/-- The last flit that a sender has kept. -/
def State.lastFlit (s : State) (d : Fin 4) (inbound : Bool) : Option LinkFlit :=
  (if inbound then s.net.dies[d.val].dieBuf else s.net.dies[d.val].replayBuf).getLast?

/-- A new flit is sent and arrives. -/
def State.passFlit (s : State) (d : Fin 4) (inbound : Bool) (src dst : NetUnit) (vc : Fin 4) (payload : Bytes)
    (noise : List (Fin 576)) : State :=
  let s := s.sendFlit d inbound src dst vc payload
  match s.lastFlit d inbound with
  | some f => s.arriveFlit d inbound f noise
  | none => s

/-- May a sender put a new flit on a link: it holds a credit, its replay buffer of 256 has room (R288, R292), and no credit audit
has stopped the injection (R309)? -/
def State.maySend (s : State) (d : Fin 4) (inbound : Bool) (vc : Fin 4) : Bool :=
  let x := s.net.dies[d.val]
  s.flitsRun d && s.net.audit.isEmpty && decide (0 < (s.book (ndenuBook d inbound) vc).free) &&
    decide ((if inbound then x.dieBuf else x.replayBuf).length < 256)

/-- The flit that the endpoint of a die's link sends next (R287; 03, R67). -/
def State.nextToDie (s : State) (d : Fin 4) : Option MeshFlit :=
  let wait (v : Nat) (f : MeshFlit) : Bool := f.at_ = .toDie d && f.vc.val = v
  let waited (v : Nat) : Nat := match s.net.waits.find? (·.1 = 4 * (ndenuBook d false).toNat + v) with
    | some e => e.2
    | none => 0
  match pickVc (vcOrder.filter fun v => s.net.mesh.any (wait v) && s.maySend d false (Fin.ofNat 4 v)) waited with
  | none => none
  | some v => nextFlit s.net.mesh (wait v)

/-- A flit leaves the endpoint for its die: its slot behind the router's attachment is free, and the channels that still wait have
waited for one more. -/
def State.leaveEndpoint (s : State) (d : Fin 4) (f : MeshFlit) : State :=
  let code := ndenuBook d false
  let l := s.net.mesh.erase f
  let due := (List.range 4).filterMap fun c =>
    if c != f.vc.val && l.any (fun g => g.at_ = .toDie d && g.vc.val = c) then
      some (4 * code.toNat + c, (match s.net.waits.find? (·.1 = 4 * code.toNat + c) with
        | some e => e.2
        | none => 0) + 1)
    else none
  let s := s.modBook (meshBook (netRouter f.dst) attachPort) f.vc Book.leave
  { s with net := { s.net with mesh := l, waits := s.net.waits.filter (fun e => e.1 / 4 != code.toNat) ++ due } }

/-- A flit of a unit of a die enters its link. The fail compression of a group sends its oldest record in the stream channel to the
fail pipeline, and nothing else (R286; 06, R168; log entry 72). -/
def State.sendFromDie (s : State) (d : Fin 4) (u : Fin 32) (dst : NetUnit) (vc : Fin 4) (payload : Bytes) (noise : List (Fin 576)) : State :=
  match failGroup (.die d u) with
  | none => if s.maySend d true vc then s.passFlit d true (.die d u) dst vc payload noise else s
  | some g => match s.groups[g.val].fail.fifo with
    | [] => s
    | r :: l =>
      if s.maySend d true 2 then
        (s.modGroup g fun x => { x with fail := { x.fail with fifo := l } }).passFlit d true (.die d u) .brood 2 (recBytes r) noise
      else s

/-- `FLIT` (R284, R288, R291, R292): a flit reaches its source's router, or the end of a die's link. A fenced die's flits are
discarded (R303), and while a credit audit runs no new one is sent (R309). -/
def execFlit (f : Flit) (s : State) : Host.Outcome State Fault Refusal :=
  .next (match f with
    | .enter src dst vc b =>
        if (netDie src).isSome || !s.net.audit.isEmpty || s.rsc.hib != .awake || !s.attachRoom (netRouter src) vc then s
        else s.enterMesh ⟨src, dst, vc, b, .router (netRouter src) attachPort⟩
    | .fromDie d u dst vc b noise => s.sendFromDie d u dst vc b noise
    | .toDie d noise => match s.nextToDie d with
      | none => s
      | some m => (s.leaveEndpoint d m).passFlit d false m.src m.dst m.vc m.payload noise
    | .again d inbound q noise =>
        let l := if inbound then s.net.dies[d.val].dieBuf else s.net.dies[d.val].replayBuf
        match l.find? (·.seq = q) with
        | none => s
        | some g => if s.flitsRun d then s.arriveFlit d inbound g noise else s)

/-- Replays count up in the window (R298): at 1,024, `E022` + d once. -/
def State.countReplay (s : State) (d : Fin 4) (inbound : Bool) : State :=
  let s := (s.netCount d (if inbound then 5 else 1)).modDie d fun x => { x with winReplays := x.winReplays + 1 }
  let n := s.net.dies[d.val].winReplays
  if 1024 ≤ n then s.degrade d 0 n else s

/-- `REPLAY` (R292; 11, R314): the sender sends again from the flit or packet that the receiver asked for. -/
def execReplay (link : ReplayLink) (seq : BitVec 12) (s : State) : Host.Outcome State Fault Refusal :=
  .next (match link with
    | .laravo l => s.replayLink l seq
    | .die d inbound =>
        let x := s.net.dies[d.val]
        if !s.flitsRun d then s
        else if inbound then
          (if x.rejecting && seq = x.rxSeq && x.dieBuf.any (·.seq = seq) then s.countReplay d true else s)
        else if x.dieRejecting && seq = x.dieRx && x.replayBuf.any (·.seq = seq) then
          (untaken x.replayBuf seq).foldl (fun s f => s.emit (.flit d f.bytes)) (s.countReplay d false)
        else s)

/-- `LINK_SILENT` (R299): nothing valid for 1 µs. -/
def execLinkSilent (d : Fin 4) (s : State) : Host.Outcome State Fault Refusal :=
  .next (if s.flitsRun d then s.linkFails d true else s)

end Sys2Proof.Machine
end

