-- ==== Sys2Proof/Machine/NetCmds.lean ====
section
/-! DEFINITION. The hive network and the Ndenu die links (spec/10_hive_network_and_ndenu.md): the NET commands, handshakes, lane maps, training and latency lock, fences and the credit audit. -/

namespace Sys2Proof.Machine

/-! Lane maps (R290, R296, R300). A lane is its number and whether it is inbound. -/

/-- Does a map avoid a lane? -/
def lanesAvoid (bad : List (Nat × Bool)) (lane : Nat) (inbound : Bool) : Bool := bad.contains (lane, inbound)

/-- The lanes of a direction that serve logical lanes at half width: the first 512 in ascending order that are not avoided. -/
def halfLanes (bad : List (Nat × Bool)) (inbound : Bool) : List Nat :=
  ((List.range 1056).filter fun l => !lanesAvoid bad l inbound).take 512

/-- Does a bundle's spare serve a lane in a direction? -/
def spareUsed (bad : List (Nat × Bool)) (half : Bool) (b : Nat) (inbound : Bool) : Bool :=
  if half then (halfLanes bad inbound).contains (33 * b + 32)
  else (List.range 32).any fun i => lanesAvoid bad (33 * b + i) inbound

/-- Does a lane serve a logical lane under a map? -/
def laneServes (bad : List (Nat × Bool)) (half : Bool) (e : Nat × Bool) : Bool :=
  if half then (halfLanes bad e.2).contains e.1
  else !bad.contains e && (e.1 % 33 != 32 || spareUsed bad false (e.1 / 33) e.2)

/-- Are all logical lanes served by lanes that pass training (R296, R301)? -/
def mapHolds (bad : List (Nat × Bool)) (half : Bool) (failing : List (Nat × Bool)) : Bool :=
  !(failing.any (laneServes bad half)) &&
    (if half then [false, true].all fun i => (halfLanes bad i).length = 512
     else (List.range 32).all fun b => [false, true].all fun i =>
       decide ((bad.filter fun e => e.1 / 33 = b && e.2 = i).length ≤ 1))

/-- What a timing lane carries (R290). -/
inductive TimingUse where
  | startStrobe | buzz | triggers | fenceOrder | idle
  deriving DecidableEq, Repr

/-- The use of timing lane `k` (R290). -/
def timingUse (k : Nat) : TimingUse :=
  match k with
  | 0 => .startStrobe
  | 1 => .buzz
  | 2 => .triggers
  | 3 => .fenceOrder
  | _ => .idle

/-- What a logical lane carries in a fabric cycle (R290): 9 lanes of a crossing group, which hold its frame (`groupFrame`); a timing
lane; nothing; or the 72 lanes of a flit group. -/
inductive LaneRole where
  | group (i : Nat)
  | timing (u : TimingUse)
  | idle
  | flits (g : Nat)
  deriving DecidableEq, Repr

/-- The role of a logical lane at a width (R290). -/
def laneRole (half : Bool) (lane : Nat) : Option LaneRole :=
  let groups := if half then 144 else 288
  let flits := if half then 152 else 304
  let lanes := if half then 512 else 1024
  if lane < groups then some (.group (lane / 9))
  else if lane < groups + 8 then some (.timing (timingUse (lane - groups)))
  else if lane < flits then some .idle
  else if lane < lanes then some (.flits ((lane - flits) / 72))
  else none

/-- The logical lane that a physical lane serves under a map (R290, R300). -/
def logicalLane (bad : List (Nat × Bool)) (half : Bool) (e : Nat × Bool) : Option Nat :=
  if half then
    let i := (halfLanes bad e.2).idxOf e.1
    if i < 512 then some i else none
  else if bad.contains e || 1056 ≤ e.1 then none
  else
    let b := e.1 / 33
    let i := ((List.range (e.1 % 33)).filter fun k => !lanesAvoid bad (33 * b + k) e.2).length
    if i < 32 then some (32 * b + i) else none

/-- Does a lane carry words of fixed latency, which latency lock pads and an alignment FIFO follows: a crossing or a timing lane
(R293)? -/
def laneFixed (bad : List (Nat × Bool)) (half : Bool) (e : Nat × Bool) : Bool :=
  match (logicalLane bad half e).bind (laneRole half) with
  | some (.group _) | some (.timing _) => true
  | _ => false

/-- Is a lane number, in either direction, one of fixed latency on a die's link? -/
def State.fixedLane (s : State) (d : Fin 4) (lane : BitVec 16) : Bool :=
  let x := s.net.dies[d.val]
  [false, true].any fun i => laneFixed x.badLanes x.half (bitsOf lane.toNat 0 11, i)

/-- `NET_LINK_STATE` of a die. -/
def State.linkWord (s : State) (d : Fin 4) : Word :=
  let x := s.net.dies[d.val]
  let trained := x.st = .up || x.st = .locked
  let st := if x.fenced then 4 else match x.st with
    | .down => 0 | .training => 1 | .up => 2 | .locked => 3
  let recorded := s.sec.laneMaps[d.val].getD ⟨[], false⟩ = ⟨x.badLanes, x.half⟩
  let spares := ((List.range 32).filter fun b => [false, true].any (spareUsed x.badLanes x.half b)).length
  BitVec.ofNat 32 (st + bitAt x.half 5 + bitAt (trained && recorded) 6 + bitAt x.degraded 7 +
    (if trained then spares else 0) * 2 ^ 8)

/-! `NET_STATUS`. -/

/-- The eight words of the lanes with the least eye margin, measured as the command runs (R297; log entry 5). -/
def worstLanes (n : Nat) : Words := (List.range 8).map fun i => Config.freeWord (n + i) &&& 0xFF0107FF

/-- The 64 words of a die in `NET_STATUS`. -/
def State.netWords (s : State) (d : Fin 4) (free : Nat) : Words :=
  let x := s.net.dies[d.val]
  [s.linkWord d, x.fenceCause.setWidth 32, x.fenceS] ++ x.counters.toList ++ x.crossErr.toList ++ worstLanes free ++
    x.setAside.toList ++ List.replicate 5 0

/-- `NET_STATUS`: `CLEAR` zeroes the counters of R297. -/
def cmdNetStatus : CmdDef :=
  .plain 0x0B00 36 modeAny [⟨0, 32, 0, 1, .any⟩] fun j s =>
    let body := (allFin 4).flatMap (fun d => s.netWords d (s.free + 8 * d.val)) ++ [s.net.timeouts]
    let s := { s with free := s.free + 32 }
    .done (if fld j.args 32 0 1 = 1 then
        forAll (allFin 4) (fun d s => s.modDie d fun x => { x with
          counters := Vector.replicate 8 0, crossErr := Vector.replicate 32 0 }) s
      else s) body

/-- `NET_STATUS`: the row. -/
def execNetStatus (p : Pkt) (s : State) : Host.Outcome State Fault Refusal := .next (cmdNetStatus.fetch p s)

/-! Fence and reset (R302 to R306; 19, R471). -/

/-- Step 7 for a die whose fence does not matter (19, R471). -/
def checkDieOpen (s : State) (d : Fin 4) : Option Verdict :=
  firstOf [refuseIf (s.dieMarked d) stUnusable, refuseIf (!s.dieOn d 0) stNotReady]

/-- `NET_DIE_FENCE` (R302): a fenced die replies unchanged. -/
def cmdNetDieFence : CmdDef :=
  { CmdDef.plain 0x0B04 32 modeCtl [] (fun j s => .done (s.fence (packetDie j.p) 5) []) with
    unitMax := 3, checks := fun s j => checkDieOpen s (packetDie j.p) }

/-- `NET_DIE_FENCE`: the row. -/
def execNetDieFence (p : Pkt) (s : State) : Host.Outcome State Fault Refusal := .next (cmdNetDieFence.fetch p s)

/-- `NET_DIE_RESET` (R306). -/
def cmdNetDieReset : CmdDef :=
  { CmdDef.plain 0x0B03 32 modeOps [] (fun j s => .done ((s.fence (packetDie j.p) 6).dieReset (packetDie j.p)) []) with
    unitMax := 3, checks := fun s j => checkDieOpen s (packetDie j.p) }

/-- `NET_DIE_RESET`: the row. -/
def execNetDieReset (p : Pkt) (s : State) : Host.Outcome State Fault Refusal := .next (cmdNetDieReset.fetch p s)

/-- The status of a command whose handshake timed out, from the state after the timeout's own effects (01, R11). -/
def State.timeoutStatus (s : State) (i : Island) : Status :=
  match i with
  | .die _ => stFenced
  | .stack n => if s.mem.hbm[n.val].st = .frozen then stFrozen else stTimeout
  | .other => stTimeout

/-- Is a command one that a handshake into an island can leave waiting: stuck at that die, or running towards another island? -/
def Job.waitsFor (j : Job) (i : Island) : Bool :=
  match j.phase, i with
  | .stuck x, .die d => x = d
  | .running, .stack _ | .running, .other => true
  | _, _ => false

/-- Who waited is answered (01, R11; R289): a command replies, a memory requester gets a bus error, a BAR4 access is aborted. -/
def State.answerTimeout (s : State) (i : Island) (by_ : Waiter) : State :=
  match by_ with
  | .command k => match s.job? k with
    | none => s
    | some j =>
      let v := s.timeoutStatus i
      if j.waitsFor i && (s.queen.up || k.path = .mailbox) then s.commitClose j ⟨v, 0xFF⟩ (v = stTimeout) [] else s
  | .memory q => s.emit (.busError q .timeout)
  | .bar4 => s.emit .barAbort

/-- `HANDSHAKE_TIMEOUT` (01, R11; R289, R302): into a comb die it fences the die, into another island it is counted; then who
waited is answered. -/
def execHandshakeTimeout (i : Island) (by_ : Waiter) (s : State) : Host.Outcome State Fault Refusal :=
  let s := match i with
    | .die d => s.fence d 1
    | _ => { s with net := { s.net with timeouts := satAdd s.net.timeouts 1 } }
  .next (s.answerTimeout i by_)

/-- `FENCE_ORDER` (R303, R304): the always-on logic of a fenced die stops its clock. -/
def execFenceOrder (d : Fin 4) (s : State) : Host.Outcome State Fault Refusal :=
  .next (if s.net.dies[d.val].fenced then s.cutDie d else s)

/-- `LANE_TRAINING_LOST` (R304): the die cuts itself off. -/
def execLaneTrainingLost (d : Fin 4) (s : State) : Host.Outcome State Fault Refusal :=
  .next (if s.dieOn d 0 then s.cutDie d else s)

/-- `DIE_CLOCK_LOST` (R302): the die is fenced with die event +33. -/
def execDieClockLost (d : Fin 4) (s : State) : Host.Outcome State Fault Refusal :=
  .next (if s.dieOn d 0 && !s.net.dies[d.val].fenced then
      (s.modDie d fun x => { x with clockOn := false }).fence d 2
    else s)

/-! Lane health (R295, R297). -/

/-- `LOCK_MARGIN` (R295, R297): a warning of the hive side's alignment FIFOs counts as inbound (log entry 34). -/
def execLockMargin (d : Fin 4) (lane : BitVec 16) (s : State) : Host.Outcome State Fault Refusal :=
  .next (if s.net.dies[d.val].st = .locked && !s.net.dies[d.val].fenced && s.fixedLane d lane then
      let s := s.netCount d 7
      s.degradedEvent d 2 s.net.dies[d.val].counters[7].toNat lane
    else s)

/-- `LOCK_LOST` (R295): the link is UP, and `E045` gives the lane. -/
def execLockLost (d : Fin 4) (lane : BitVec 16) (s : State) : Host.Outcome State Fault Refusal :=
  .next (if s.net.dies[d.val].fenced || !s.fixedLane d lane then s else s.loseLock d lane)

/-! Training and latency lock (R293 to R296, R300, R301, R305). -/

/-- A lane as a packet and a reply give it. -/
def laneWord (e : Nat × Bool) : Word := BitVec.ofNat 32 (e.1 + bitAt e.2 16)

/-- The lanes that `NET_LANE_REMAP` names as bad. -/
def remapLanes (b : Words) : List (Nat × Bool) :=
  (List.range (fld b 32 16 7)).map fun i => (fld b (40 + 4 * i) 0 11, decide (fld b (40 + 4 * i) 16 1 = 1))

/-- At full width, the index of a second bad lane in one bundle (R300). -/
def remapClash (b : Words) : List Nat :=
  if fld b 32 0 1 = 1 then []
  else
    let l := remapLanes b
    (List.range l.length).filterMap fun i => match l[i]? with
      | none => none
      | some e => if (l.take i).any fun x => x.1 / 33 = e.1 / 33 && x.2 = e.2 then some (3 + i) else none

/-- What a command that trains or locks a link needs: a usable, powered die and link, and no training in progress
(log entry 35). -/
def lockReady (s : State) (d : Fin 4) : Option Verdict :=
  firstOf [refuseIf (s.dieMarked d) stUnusable, refuseIf (!(s.dieOn d 0 && s.dieOn d 1 && s.clk.runs)) stNotReady,
    refuseIf (s.underTest (dieUnit d 8)) stBusy, refuseIf s.net.locking[d.val].isSome stNotReady]

/-- Does a Worker of an unfenced die run or stand halted (10, R304)? -/
def State.dieWorks (s : State) (d : Fin 4) : Bool :=
  !s.net.dies[d.val].fenced && (dieWorkers d).any fun w => s.workers[w.val].active

/-- Training or lock of a link begins; a fenced die is reset first (R305; 19, R471). -/
def State.lockBegin (s : State) (d : Fin 4) (x : LockJob) : State :=
  let s := if x.train && s.net.dies[d.val].fenced then s.dieReset d else s
  let s := if x.train then s.modDie d fun y => { y with st := .training } else s
  { s with net := { s.net with locking := upd s.net.locking d fun _ => some x } }

/-- `NET_LANE_REMAP` (R300; 19, R471). -/
def cmdNetLaneRemap : CmdDef :=
  { CmdDef.plain 0x0B01 0 modeMnt []
      (fun j s =>
        let d := packetDie j.p
        .stay (s.lockBegin d
          { key := some j.key, bad := remapLanes j.args, half := fld j.args 32 0 1 = 1, remap := true
            record := fld j.args 32 8 1 = 1, rejoin := false, train := true, live := true })) with
    unitMax := 3
    length := fun p => 40 + 4 * bitsOf (p.params.getD 0 0).toNat 16 7
    fields := fun p =>
      [⟨0, 32, 0, 1, .any⟩, ⟨1, 32, 8, 1, .any⟩, ⟨2, 32, 16, 7, .names (· ≤ 64)⟩] ++
        (List.range (fld p.block 32 16 7)).flatMap fun i =>
          [⟨3 + i, 40 + 4 * i, 0, 11, .names (· < 1056)⟩, ⟨3 + i, 40 + 4 * i, 16, 1, .any⟩]
    naming := fun _ _ p => remapClash p.block
    checks := fun s j => firstOf [lockReady s (packetDie j.p), refuseIf (s.dieWorks (packetDie j.p)) stBusy 0] }

/-- `NET_LANE_REMAP`: the row. -/
def execNetLaneRemap (p : Pkt) (s : State) : Host.Outcome State Fault Refusal := .next (cmdNetLaneRemap.fetch p s)

/-- `NET_LATENCY_LOCK` (R293, R305). -/
def cmdNetLatencyLock : CmdDef :=
  { CmdDef.plain 0x0B05 36 modeOps [⟨0, 32, 0, 1, .any⟩]
      (fun j s =>
        let d := packetDie j.p
        let x := s.net.dies[d.val]
        .stay (s.lockBegin d
          { key := some j.key, bad := x.badLanes, half := x.half, remap := false, record := false
            rejoin := x.fenced, train := fld j.args 32 0 1 = 1, live := true })) with
    unitMax := 3
    checks := fun s j =>
      let d := packetDie j.p
      let x := s.net.dies[d.val]
      firstOf [lockReady s d, refuseIf (!s.clk.mux.getLsbD d.val) stNotReady,
        refuseIf (fld j.args 32 0 1 = 0 && (x.fenced || x.st != .up)) stNotReady,
        refuseIf (s.dieWorks d || (!x.fenced && s.dieRegionRuns d)) stBusy 0] }

/-- `NET_LATENCY_LOCK`: the row. -/
def execNetLatencyLock (p : Pkt) (s : State) : Host.Outcome State Fault Refusal := .next (cmdNetLatencyLock.fetch p s)

/-- Training has failed (R296, R301, R305): the link is DOWN, and the die is fenced, or stays so, with `TRAIN_FAIL`. -/
def State.trainFails (s : State) (d : Fin 4) : State :=
  let s := s.modDie d fun x => { x with st := .down }
  if s.net.dies[d.val].fenced then
    (s.modDie d fun x => { x with fenceCause := 4 }).raise ⟨26 + d.val, by omega⟩ 4 d.val (detail [(0, 1, 4)])
  else s.fence d 4

/-- The flits that a sender still keeps, numbered anew from 0 (R291, R292; log entry 72). -/
def renumbered (l : List LinkFlit) : List LinkFlit :=
  l.zipIdx.map fun e =>
    let seq : BitVec 12 := BitVec.ofNat 12 e.2
    { e.1 with seq := seq, bytes := flitBytes (e.1.bytes.take 64) (flitField e.1.bytes 0 2) seq (0 - 1) 0 0 }

/-- The books of a die's link as its training leaves them (R308): their initial values, but that what the hive's endpoint holds fills
its slots, and what a sender still keeps is on its way. -/
def State.freshBooks (s : State) (d : Fin 4) : State :=
  let s := { s with net := { s.net with books := s.net.books.filter fun e => e.1 != ndenuBook d false && e.1 != ndenuBook d true } }
  let s := (s.net.mesh.filter fun f => f.at_ = .endpoint d).foldl (fun s f =>
    s.modBook (ndenuBook d true) f.vc fun b => { b with free := b.free - 1, filled := b.filled + 1 }) s
  let sent (l : List LinkFlit) (inbound : Bool) (s : State) : State :=
    l.foldl (fun s f => s.modBook (ndenuBook d inbound) (Fin.ofNat 4 (flitField f.bytes 0 2)) Book.spend) s
  sent s.net.dies[d.val].dieBuf true (sent s.net.dies[d.val].replayBuf false s)

/-- Training has succeeded: the map is in force, sequences and books start anew (R291, R308), and a flit that its receiver has not
taken stays in its replay buffer (R292). -/
def State.trainHolds (s : State) (d : Fin 4) (bad : List (Nat × Bool)) (half : Bool) : State :=
  (s.modDie d fun x =>
    let out := renumbered (untaken x.replayBuf x.dieRx)
    let in_ := renumbered (untaken x.dieBuf x.rxSeq)
    { x.clearFlits with
      st := .up, badLanes := bad, half := half
      replayBuf := out, txSeq := BitVec.ofNat 12 out.length, dieBuf := in_, dieTx := BitVec.ofNat 12 in_.length }).freshBooks d

/-- A link that holds its lock is LOCKED; the fence of a die that rejoins ends, its clock runs, and it runs no test until a full
load completes (R293, R305; 01, R18). Its clock starts again, and its fabric counts from 0 (07, R209). -/
def State.lockHolds (s : State) (d : Fin 4) (rejoin : Bool) : State :=
  let s := if rejoin then s.modFab d fun f => { f with fabCycle := 0 } else s
  (s.modDie d fun x =>
    if rejoin then { x with st := .locked, fenced := false, rejoining := true, fenceCause := 0, cutOff := false, clockOn := true }
    else { x with st := .locked }).refreshDie d

/-- The reply of the command whose training or lock has ended (R300, R301, R305; log entry 12): a remap gives its map and the
failing lanes and may record the map; `NET_LATENCY_LOCK` gives the state and the failing lanes. -/
def State.lockReply (s : State) (d : Fin 4) (x : LockJob) (bad failing : List (Nat × Bool)) : State :=
  match x.key.bind s.job? with
  | none => s
  | some j =>
    let lanes := BitVec.ofNat 32 failing.length :: failing.map laneWord
    if !x.remap then s.commitDone j (s.linkWord d :: lanes)
    else
      let body := BitVec.ofNat 32 bad.length :: (bad.map laneWord ++ lanes)
      if x.record && s.net.dies[d.val].st = .locked then
        finish j (s.nvCommand j (.lanes d (some ⟨bad, x.half⟩)) 72 body)
      else s.commitDone j body

/-- The training and lock of one link come to their end. The link of a die on the bypass holds no lock (13, R374). -/
def State.lockEnd (s : State) (d : Fin 4) (x : LockJob) (r : LockResult) : State :=
  let s := { s with net := { s.net with locking := upd s.net.locking d fun _ => none } }
  if !x.live then (s.modDie d fun y => { y with st := .down }).lockReply d x x.bad []
  else
    let bad := if x.remap && x.half then (x.bad ++ r.trainFail).eraseDups else x.bad
    if x.train && !mapHolds bad x.half r.trainFail then (s.trainFails d).lockReply d x bad r.trainFail
    else
      let s := if x.train then s.trainHolds d bad x.half else s
      let failing := r.lockFail.filter (laneFixed bad x.half)
      let s := if failing.isEmpty && s.clk.mux.getLsbD d.val then s.lockHolds d x.rejoin else s
      s.lockReply d x bad failing

/-- `LATENCY_LOCK_END` (R293 to R296, R300, R301, R305): in start-up, the last link leads to what follows step 7. -/
def execLatencyLockEnd (d : Fin 4) (r : LockResult) (s : State) : Host.Outcome State Fault Refusal :=
  .next (match s.net.locking[d.val] with
    | none => s
    | some x =>
      let t := s.lockEnd d x r
      if x.key.isNone && !s.rsc.startupDone && s.rsc.bootStep = 7 && !t.net.locking.toList.any Option.isSome then t.bootImage
      else t)

/-! The credit audit (R307 to R310). -/

/-- The codes of the mesh's books: the four directions where a neighbour stands (0 north towards a higher row; log entry 36),
and the attachment. -/
def meshBooks : List (BitVec 16) :=
  (List.range 32).flatMap fun r =>
    ((List.range 5).filter fun p =>
      (p != 0 || r / 8 != 3) && (p != 1 || r % 8 != 7) && (p != 2 || r / 8 != 0) && (p != 3 || r % 8 != 0)).map fun p =>
      BitVec.ofNat 16 (p * 256 + r)

/-- The code of a Laravo link's books (R310). -/
def laravoBook (l : Fin 16) : BitVec 16 := BitVec.ofNat 16 (3 * 4096 + l.val)

/-- The books that an audit checks: the mesh, the links of dies that are not fenced, and the Laravo links that are ACTIVE. -/
def State.auditBooks (s : State) : List (BitVec 16 × Fin 4) :=
  let open_ := (allFin 4).filter fun d => !s.net.dies[d.val].fenced && s.net.dies[d.val].st != .down
  (meshBooks ++ open_.map (ndenuBook · false) ++ open_.map (ndenuBook · true) ++
    ((allFin 16).filter s.linkActive).map laravoBook).flatMap fun c => (allFin 4).map fun v => (c, v)

/-- The depth of a book's receiver: 32 packets on a Laravo link (11, R314). -/
def bookDepth (code : BitVec 16) : Nat := if code.toNat < 3 * 4096 then (bookStart code).free else 32

/-- The sum of a book (R307). Of a Laravo link the device holds the sender's side: its credits, and the packets whose credits have
not come home. -/
def State.bookSum (s : State) (e : BitVec 16 × Fin 4) : Nat :=
  if e.1.toNat < 3 * 4096 then (s.book e.1 e.2).sum
  else
    let k := s.swarm.links[(Fin.ofNat 16 e.1.toNat).val]
    k.credits[e.2.val] + k.spent[e.2.val]

/-- The books that do not balance. -/
def State.mismatches (s : State) : List (BitVec 16 × Fin 4) := s.auditBooks.filter fun e => s.bookSum e != bookDepth e.1

/-- The four words of an audit entry (log entry 12): code and channel, depth, sum. -/
def State.auditEntry (s : State) (e : BitVec 16 × Fin 4) : Words :=
  [BitVec.ofNat 32 (e.1.toNat + e.2.val * 2 ^ 16), BitVec.ofNat 32 (bookDepth e.1), BitVec.ofNat 32 (s.bookSum e)]

/-- The result of an audit (R309). -/
def State.auditWords (s : State) : Words :=
  let m := s.mismatches
  let aside := 8 * ((allFin 4).filter fun d => s.net.dies[d.val].fenced).length
  [BitVec.ofNat 32 s.auditBooks.length, BitVec.ofNat 32 aside, BitVec.ofNat 32 m.length] ++
    (m.take 64).flatMap s.auditEntry

/-- `E030` for the first book that does not balance. -/
def State.auditEvent (s : State) : State :=
  match s.mismatches with
  | [] => s
  | e :: _ => s.raise 30 3 0
      (detail [(0, 2, e.1.toNat), (2, 1, e.2.val), (4, 4, bookDepth e.1), (8, 4, s.bookSum e)])

/-- `NET_CREDIT_AUDIT` (R309): injection stops and the links drain. -/
def cmdNetCreditAudit : CmdDef :=
  .plain 0x0B02 32 (fun s _ => s.rsc.mode = .ready || s.rsc.mode = .maintain) [] fun j s =>
    .stay { s with net := { s.net with audit := s.net.audit ++ [j.key] } }

/-- `NET_CREDIT_AUDIT`: the row. -/
def execNetCreditAudit (p : Pkt) (s : State) : Host.Outcome State Fault Refusal := .next (cmdNetCreditAudit.fetch p s)

/-- Is no flit and no credit on a wire of the mesh or of a die's link? -/
def State.drained (s : State) : Bool :=
  s.net.books.all fun e => e.2.2.flight = 0 && (e.2.2.back = 0 || decide (4096 ≤ e.1.toNat))

/-- `AUDIT_DRAINED` (R309): the books are checked, or 10 µs have passed; then injection goes on. -/
def execAuditDrained (drained : Bool) (s : State) : Host.Outcome State Fault Refusal :=
  .next (match s.net.audit with
    | [] => s
    | k :: l =>
      if drained && !s.drained then s
      else
        let s := { s with net := { s.net with audit := l } }
        let t := match s.job? k with
          | none => s
          | some j =>
            if drained then (s.auditEvent).commitDone j s.auditWords
            else s.commitClose j ⟨stTimeout, 0xFF⟩ true []
        if l.isEmpty then forAll (allFin 16) (fun l s => s.flushLink l) t else t)

end Sys2Proof.Machine
end

