-- ==== Sys2Proof/Machine/SecCmds.lean ====
section
/-! DEFINITION. Security commands (spec/15_security.md): attestation, the owner, rollback counters, the NV store, certificates,
and the events of the entropy source, of the NV store and of the debug challenge. -/

namespace Sys2Proof.Machine

/-! Attestation (R414, R415). -/

/-- The report's `FLAGS`. -/
def State.reportFlags (s : State) : Word := BitVec.ofNat 32
  (bitAt s.sec.owner.isSome 0 + (s.sec.flags &&& 0b11110#8).toNat + bitAt s.cfg.hostBoot 5 + bitAt s.rsc.golden 6 +
    bitAt Config.sample 7)

/-- The measurement of a region as the report gives it. -/
def State.regionMeas (s : State) (i : Nat) : Option Bytes :=
  let r := s.fab[(Fin.ofNat 4 (i / 16)).val].regions[(Fin.ofNat 16 i).val]
  if r.valid then r.meas else none

/-- SHA-512 of the owner's public key, zero without an owner. -/
def State.ownerHash (s : State) : Words :=
  match s.sec.owner with
  | some o => numWords 16 (Config.sha512 o.pub).toNat
  | none => List.replicate 16 0

/-- The key identifier of the owner, 0 without one. -/
def State.ownerId (s : State) : Word :=
  match s.sec.owner with
  | some o => o.keyId
  | none => 0

/-- The report before its signature, 6,912 bytes. -/
def State.report (s : State) (nonce : Words) : Words :=
  [1, s.reportFlags] ++ word2 Config.identity.toNat ++ nonce ++ [s.stampNs, 0] ++ word2 s.tb0.sec.toNat ++
    [s.queen.fwVersion, s.ownerId, s.mem.keyId.setWidth 32,
     BitVec.ofNat 32 (packBools ((allFin 4).map fun d => s.fab[d.val].meas.isSome))] ++
    word2 (packBools ((List.range 64).map fun i => (s.regionMeas i).isSome)) ++
    [BitVec.ofNat 32 (packBools (s.workers.toList.map (·.meas.isSome))), 0] ++
    measWords s.sec.fwMeas ++ s.ownerHash ++ s.sec.counters.toList ++
    ((allFin 4).flatMap fun d => measWords s.fab[d.val].meas) ++ ((List.range 64).flatMap fun i => measWords (s.regionMeas i)) ++
    (s.workers.toList.flatMap fun k => measWords k.meas)

/-- `SEC_ATTEST` (R414). -/
def cmdSecAttest : CmdDef :=
  .plain 0x0E00 96 modeAny [⟨0, 32, 0, 512, .any⟩] fun j s =>
    let r := s.report (j.args.take 16)
    .done s (r ++ wordsOfBytes (idSignature (bytesOfWords r)))

/-- `SEC_ATTEST`: the row. -/
def execSecAttest (p : Pkt) (s : State) : Host.Outcome State Fault Refusal := .next (cmdSecAttest.fetch p s)

/-! The owner (R411, R412). -/

/-- The sequence number of a wrapped stream key: the first of its last 36 bytes (R412; log entry 6). -/
def wrappedSeq (w : Bytes) : Word := BitVec.ofNat 32 (bytesNum ((w.drop 193).take 4))

/-- A stream key as the owner record holds it: wrapped under the fused wrapping key (R408, R412). -/
def storedKey (k : Bytes) : Bytes := Config.wrapUnder Config.wrappingKey k

/-- The owner record that an enrolment bundle gives, none where it is not accepted (R411). -/
def State.enrolled (s : State) (bundle : Bytes) : Option Owner :=
  if s.sec.owner.isSome || s.sec.nvJobs.any fun x => x.blocks.contains 2 then none
  else match Config.enrol bundle with
    | none => none
    | some e =>
      if !Config.isRoot e.root || (e.identity != 0 && e.identity != Config.identity) then none
      else match e.wrapped with
        | none => some { keyId := e.keyId, cert := e.cert, pub := e.pub, streamKey := none, seq := 0 }
        | some w => match Config.unwrap w with
          | none => none
          | some k => some { keyId := e.keyId, cert := e.cert, pub := e.pub, streamKey := some (storedKey k), seq := wrappedSeq w }

/-- The owner record, with a replacement that is being written. -/
def State.ownerNow (s : State) : Option Owner :=
  s.sec.nvJobs.foldl (fun o x => match x.what with
    | .owner n => some n
    | _ => o) s.sec.owner

/-- The owner record after a replacement of the stream key: 229 bytes, then the owner's signature over them (R412). -/
def State.rekeyed (s : State) (bundle : Bytes) : Option Owner :=
  match s.ownerNow with
  | none => none
  | some o =>
    let w := bundle.take 229
    if bundle.length = 361 && Config.verify o.pub w (bundle.drop 229) && decide (o.seq.toNat < (wrappedSeq w).toNat) then
      match Config.unwrap w with
      | none => none
      | some k => some { o with streamKey := some (storedKey k), seq := wrappedSeq w }
    else none

/-- The bundle that `SEC_OWNER_ENROL` reads, none where the read fails. -/
def State.bundleOf (s : State) (j : Job) : State × Option Bytes :=
  let a := fld j.args 40 0 64
  let len := fld j.args 48 0 16
  if fld j.args 32 8 1 = 1 then (s, j.p.host.map (·.take len))
  else match areaFor a len with
    | none => (s, none)
    | some x =>
      let (r, bs) := s.readFor j.p .queen x a len
      (r.st, if r.fail.isSome then none else some bs)

/-- `SEC_OWNER_ENROL` (R411, R412): a bundle that is not accepted, or not read, is `AUTH_FAILED`. -/
def enrolAct (j : Job) (s : State) : Act :=
  let (s, bundle) := s.bundleOf j
  match bundle.bind (if fld j.args 32 0 1 = 1 then s.rekeyed else s.enrolled) with
  | none => .close s ⟨stAuth, 0xFF⟩ false []
  | some o => s.nvCommand j (.owner o) 2 []

/-- `SEC_OWNER_ENROL`. -/
def cmdSecOwnerEnrol : CmdDef :=
  { CmdDef.plain 0x0E01 52 (fun s _ => s.rsc.mode = .safe || s.rsc.mode = .maintain)
      [⟨0, 32, 0, 1, .any⟩, ⟨1, 32, 8, 1, .any⟩, ⟨2, 40, 0, 64, .names (· % 4 = 0)⟩,
       ⟨3, 48, 0, 16, .names fun v => 229 ≤ v && v ≤ 16384⟩] enrolAct with
    naming := fun s _ p =>
      if fld p.block 32 8 1 = 0 && !s.rangeOk (fld p.block 40 0 64) (fld p.block 48 0 16) false then [2] else []
    checks := fun s j =>
      if fld j.args 32 8 1 = 1 then none else firstInSteps (s.rangeCheck (fld j.args 40 0 64) (fld j.args 48 0 16) 2) }

/-- `SEC_OWNER_ENROL`: the row. -/
def execSecOwnerEnrol (p : Pkt) (s : State) : Host.Outcome State Fault Refusal := .next (cmdSecOwnerEnrol.fetch p s)

/-! Rollback counters (R416, R417). -/

/-- A counter's value, with an advance that is being written. -/
def State.counterNow (s : State) (i : Fin 64) : Nat :=
  s.sec.nvJobs.foldl (fun v x => match x.what with
    | .counter k w => if k = i then max v w.toNat else v
    | _ => v) s.sec.counters[i.val].toNat

/-- The counter that a block names. -/
def counterIdx (b : Words) : Fin 64 := Fin.ofNat 64 (fld b 32 0 6)

/-- `SEC_COUNTER_ADVANCE` (R417). -/
def cmdSecCounterAdvance : CmdDef :=
  { CmdDef.plain 0x0E02 40 modeSrm [⟨0, 32, 0, 6, .any⟩, ⟨1, 36, 0, 32, .any⟩]
      (fun j s =>
        let i := counterIdx j.args
        let v := fld j.args 36 0 32
        if v = s.counterNow i then .done s []
        else s.nvCommand j (.counter i (BitVec.ofNat 32 v)) (4 + i.val) []) with
    naming := fun s _ p => if fld p.block 32 0 6 = 0 && decide (s.queen.fwVersion.toNat < fld p.block 36 0 32) then [1] else []
    checks := fun s j => refuseIf (decide (fld j.args 36 0 32 < s.counterNow (counterIdx j.args))) stRollback }

/-- `SEC_COUNTER_ADVANCE`: the row. -/
def execSecCounterAdvance (p : Pkt) (s : State) : Host.Outcome State Fault Refusal := .next (cmdSecCounterAdvance.fetch p s)

/-! The NV store (R418 to R421). -/

/-- All blocks of the NV store. -/
def nvBlocks : List Nat := List.range 2048

/-- `SEC_NV_STATUS` (R420; log entry 12). -/
def cmdSecNvStatus : CmdDef :=
  .plain 0x0E03 32 modeAny [] fun _ s =>
    .done s ([BitVec.ofNat 32 (nvBlocks.filter s.nvWorn).length,
        BitVec.ofNat 32 (nvBlocks.foldl (fun m b => max m (s.nvBlock b).count) 0)] ++
      word2 s.sec.refreshS.toNat ++ nvBlocks.map s.nvWord)

/-- `SEC_NV_STATUS`: the row. -/
def execSecNvStatus (p : Pkt) (s : State) : Host.Outcome State Fault Refusal := .next (cmdSecNvStatus.fetch p s)

/-- `SEC_NV_REFRESH` (R421): every written block that is not worn, the device record of block 3 last. -/
def refreshAct (j : Job) (s : State) : Act :=
  let l := nvBlocks.filter fun b => b != 3 && (s.nvBlock b).written
  let skip := (l ++ [3]).filter s.nvWorn
  let x : NvJob :=
    { key := some j.key, what := .refresh, blocks := (l ++ [3]).filter fun b => !s.nvWorn b, done := 0, skip := skip, result := [] }
  .stay { s with sec := { s.sec with nvJobs := s.sec.nvJobs ++ [x] } }

/-- `SEC_NV_REFRESH`. -/
def cmdSecNvRefresh : CmdDef := .plain 0x0E04 32 modeMnt [] refreshAct

/-- `SEC_NV_REFRESH`: the row. -/
def execSecNvRefresh (p : Pkt) (s : State) : Host.Outcome State Fault Refusal := .next (cmdSecNvRefresh.fetch p s)

/-- The result of a refresh: the blocks refreshed, and the numbers of those skipped; of another command, its own. -/
def NvJob.words (x : NvJob) : Words :=
  if x.what = .refresh then BitVec.ofNat 32 x.done :: x.skip.map (BitVec.ofNat 32) else x.result

/-- The first NV write in progress leaves the list, or stays there changed. -/
def State.nvHead (s : State) (x : Option NvJob) : State :=
  { s with sec := { s.sec with nvJobs := x.toList ++ s.sec.nvJobs.drop 1 } }

/-- An NV write ends: its command commits. -/
def State.nvCommit (s : State) (x : NvJob) (v : Option Verdict) : State :=
  match x.key.bind s.job? with
  | none => s
  | some j => match v with
    | none => s.commitDone j x.words
    | some v => s.commitClose j v true x.words

/-- Is an abort of an NV refresh asked (R421)? -/
def State.refreshStops (s : State) (x : NvJob) : Bool :=
  x.what = .refresh && (x.key.any fun k => s.abortAsked k)

/-- One block of the first NV write in progress is written; a block found worn ends a command with `NV_WORN`, but a refresh, which skips
and reports it, goes on (R417 to R421). -/
def State.nvWritten (s : State) : State :=
  match s.sec.nvJobs with
  | [] => s
  | x :: _ => match x.blocks with
    | [] => (s.nvHead none).nvCommit x none
    | b :: l =>
      let skipped : NvJob := { x with blocks := l, skip := x.skip ++ [b] }
      if s.nvWorn b && x.what = .refresh then
        if l.isEmpty then (s.nvHead none).nvCommit skipped none else s.nvHead (some skipped)
      else if s.nvWorn b then ((s.nvHead none).wornEvent b).nvCommit x (some ⟨stWorn, 0xFF⟩)
      else
        let s := s.setNvBlock b ((s.nvBlock b).wrote (x.what != .refresh || b = 3))
        let y : NvJob := { x with blocks := l, done := x.done + 1 }
        if l.isEmpty then
          let t := s.nvHead none
          (if x.what = .refresh && b != 3 then t else t.nvApply x.what).nvCommit y none
        else if s.refreshStops x then (s.nvHead none).nvCommit y (some ⟨stAborted, 0xFF⟩)
        else s.nvHead (some y)

/-- `NV_WRITE_END` (R417 to R421): a reset that has waited for the block may then proceed, and no further block is written (12,
R358). -/
def execNvWriteEnd (s : State) : Host.Outcome State Fault Refusal :=
  let t := s.nvWritten
  .next (if t.rsc.deferred.isSome then { t with sec := { t.sec with nvJobs := [] } } else t)

/-! Certificates (R413). -/

/-- `SEC_CERT_GET` (R413): the certificate in DER, filled with zeros to a whole word; one whose block of the NV store has lost both
copies reads as empty (R419). -/
def cmdSecCertGet : CmdDef :=
  { CmdDef.plain 0x0E05 36 modeAny [⟨0, 32, 0, 2, .names (· < 3)⟩]
      (fun j s =>
        let cert := match fld j.args 32 0 2, s.sec.owner with
          | 0, _ => if s.nvRecordLost 0 then [] else Config.certDevice
          | 1, _ => if s.nvRecordLost 1 then [] else Config.certInter
          | _, some o => o.cert
          | _, none => []
        .done s (wordsOfBytes cert)) with
    checks := fun s j => refuseIf (fld j.args 32 0 2 = 2 && s.sec.owner.isNone) stNotReady }

/-- `SEC_CERT_GET`: the row. -/
def execSecCertGet (p : Pkt) (s : State) : Host.Outcome State Fault Refusal := .next (cmdSecCertGet.fetch p s)

/-! Events. -/

/-- `HEALTH_TEST_FAILURE` (R422): the DRBG stops. -/
def execHealthTestFailure (s : State) : Host.Outcome State Fault Refusal :=
  .next (if s.sec.drbgOk then ({ s with sec := { s.sec with drbgOk := false } }).alarm 2 0 else s)

/-- `CHALLENGE_EXPIRY` (R423): 60 s after issue. -/
def execChallengeExpiry (s : State) : Host.Outcome State Fault Refusal :=
  .next { s with sec := { s.sec with challenge := none } }

end Sys2Proof.Machine
end

