-- ==== Sys2Proof/Machine/Queen.lean ====
section
/-! DEFINITION. The Queen core at large: `SYS_ABORT` (spec/02_command_interface.md, R48 to R51; spec/19_command_reference.md,
R472, R475), the table of all commands, packets from I²C and from other devices, scheduled instants, replies, the rescue
registers, the buzz of other devices, and one cycle of the always-on clock. -/

namespace Sys2Proof.Machine

/-! `SYS_ABORT` (R49 to R51, R472, R475). -/

/-- The result words of an aborted `BROOD_SOLVE`: each site's summary (06, R184). -/
def State.solveWords (s : State) (mask : Nat) : Words := (sitesOf mask).flatMap s.siteSummary

/-- A `WORK_START` before its instant is aborted (R484): its groups are disarmed, and its body names the Workers it began. -/
def State.abortStart (s : State) (t : Job) : Option State :=
  (s.starts.find? fun x => sameKey x.key t.key).map fun x =>
    let began := s.begun x
    let words := s.startResult x began
    (s.dropStart x).commitClose t ⟨stAborted, 0xFF⟩ true words

/-- A `DBG_STEP` is aborted (16, R437): the Worker halts at once, and the reply gives the bundles completed. -/
def State.abortStep (s : State) (t : Job) : State :=
  let w : Fin 32 := Fin.ofNat 32 t.p.unit.toNat
  let n := s.workers[w.val].dbg.stepDone
  let s := s.modWorker w fun k => { k with dbg := { k.dbg with
    stepJob := none, stepLeft := none, causes := k.dbg.causes ||| 0b10000 } }
  let s := s.commitClose t ⟨stAborted, 0xFF⟩ true [BitVec.ofNat 32 n]
  if s.workers[w.val].st = .running then s.haltWorker w else s

/-- A running command that is at a safe point stops there at once; none where its safe point comes later or has passed. -/
def State.abortRunning (s : State) (t : Job) : Option State :=
  match t.p.opcode.toNat with
  | 0x0303 =>
    some (({ s with clk := { s.clk with measures := s.clk.measures.filter fun m => !m.key.any (sameKey · t.key) } }).commitClose t
      ⟨stAborted, 0xFF⟩ true [])
  | 0x0405 =>
    (s.cfg.readbacks.find? fun x => sameKey x.key t.key).map fun x =>
      (s.dropReadback x.key).commitClose t ⟨stAborted, 0xFF⟩ true x.words
  | 0x0701 => s.abortStart t
  | 0x0902 =>
    some ((s.putSolve t.key fun _ => none).commitClose t ⟨stAborted, 0xFF⟩ true (s.solveWords (fld t.args 32 0 32)))
  | 0x0A03 => s.abortRekey t
  | 0x1007 => some (s.abortStep t)
  | _ => none

/-- The packet that aborts an inner command on another device (11, R328); its tag is a free value. -/
def abortPacket (tag : BitVec 16) (free target : Word) : Words :=
  [0x01000003, BitVec.ofNat 32 (free.toNat % 65536 + 36 * 65536), BitVec.ofNat 32 (target.toNat % 256), 0, 0, 0, 0, 0,
   tag.setWidth 32]

/-- What an abort that must wait sets off at once: a `SWARM_FORWARD` sends the abort of its inner command after it (11, R328),
a self-test run starts no further unit (17, R452). -/
def State.abortLater (s : State) (t : Job) : State :=
  match s.swarm.forwards.find? fun f => sameKey f.key t.key with
  | some f =>
    let mark (g : Forward) : Forward := if sameKey g.key t.key then { g with aborting := true } else g
    let s := { s with swarm := { s.swarm with forwards := s.swarm.forwards.map mark } }
    let (v, s) := s.drawFree
    s.sendForward f.mode.toNat f.dest f.way (bytesOfWords (abortPacket f.tag v f.target))
  | none =>
    if s.bist.run.any fun r => r.key.any fun k => sameKey k t.key then (s.bistSkip).bistSettle else s

/-- `SYS_ABORT` as processed: the command that its tag names on its path has committed or never was, has not begun, waits
for its instant, stops now, or is waited for. -/
def sysAbortAct (j : Job) (s : State) : Act :=
  let tag : BitVec 16 := BitVec.ofNat 16 (fld j.args 32 0 16)
  match s.job? ⟨j.key.path, tag⟩ with
  | none => .close s ⟨stAlready, 0xFF⟩ true []
  | some t =>
    let await (s : State) : State := s.setJob { j with phase := .awaiting tag }
    match t.phase with
    | .waiting | .memory => .done (s.abortJob t) []
    | .scheduled _ => .done ((s.abortStart t).getD (s.abortJob t)) []
    | _ => match s.abortRunning t with
      | some s => .done s []
      | none => .stay ((await s).abortLater t)

/-- Does a tag of a path belong to a `SYS_ABORT`, one that waits or one whose reply waits to be written (R41)? -/
def State.namesAbort (s : State) (k : JobKey) : Bool :=
  (s.job? k).any (fun j => j.p.opcode = 0x0003) ||
    (s.queen.replies ++ s.queen.i2cReplies).any fun r => r.holds && sameKey r.key k && (r.words.getD 0 0).extractLsb' 0 16 = 0x0003#16

/-- `SYS_ABORT` (R51, R475): its execute-at time is zero, and its tag is not that of a `SYS_ABORT`. -/
def cmdSysAbort : CmdDef :=
  { CmdDef.plain 0x0003 36 modeAny [⟨0, 32, 0, 16, .any⟩] sysAbortAct with
    header := fun p => p.execAt != 0
    naming := fun s path p => if s.namesAbort ⟨path, BitVec.ofNat 16 (fld p.block 32 0 16)⟩ then [0] else [] }

/-- `SYS_ABORT`: the row. -/
def execSysAbort (p : Pkt) (s : State) : Host.Outcome State Fault Refusal := .next (cmdSysAbort.fetch p s)

/-! The table of all commands (R473). -/

/-- Classes 0x00 to 0x05. -/
def cmdsA : List CmdDef :=
  [cmdSysNop, cmdSysIdentify, cmdSysInventory, cmdSysAbort, cmdSysReset, cmdSysStatus, cmdModeGet, cmdModeSet,
   cmdPwrDomainSet, cmdPwrDomainGet, cmdPwrBudgetSet, cmdPwrLimitsSet, cmdPwrTelemetry, cmdClkStatus, cmdClkSelect,
   cmdClkOutSet, cmdClkMeasure, cmdCfgStage, cmdCfgLoad, cmdCfgRegionLoad, cmdCfgRegionStart, cmdCfgRegionStop,
   cmdCfgReadback, cmdCfgBootRecordSet, cmdCfgProbeSet, cmdPortSet, cmdPortGet, cmdPortStart, cmdPortStop,
   cmdPortLinkStatus, cmdPortDetect, cmdPortPrbs]
/-- Classes 0x06 to 0x0B. -/
def cmdsB : List CmdDef :=
  [cmdTimTimingSet, cmdTimDeskew, cmdTimSiteMap, cmdWorkLoad, cmdWorkStart, cmdWorkStop, cmdWorkStatus, cmdWorkStreamSet,
   cmdWorkSignal, cmdFailSet, cmdFailCounts, cmdFailClear, cmdBroodGeometry, cmdBroodPartition, cmdBroodSolve,
   cmdBroodResult, cmdBroodClear, cmdMemStatus, cmdMemTrain, cmdMemThaw, cmdMemRekey, cmdMemCopy, cmdMemFill, cmdNetStatus,
   cmdNetLaneRemap, cmdNetCreditAudit, cmdNetDieReset, cmdNetDieFence, cmdNetLatencyLock]
/-- Classes 0x0C to 0x11. -/
def cmdsC : List CmdDef :=
  [cmdSwarmNeighbours, cmdSwarmIdSet, cmdSwarmRouteSet, cmdSwarmLinkSet, cmdSwarmForward, cmdTimeGet, cmdTimeSet,
   cmdTimeAdjust, cmdTimeSyncSet, cmdTimeJumpLimit, cmdSecAttest, cmdSecOwnerEnrol, cmdSecCounterAdvance, cmdSecNvStatus,
   cmdSecNvRefresh, cmdSecCertGet, cmdBistRun, cmdBistResult, cmdBistCommit, cmdBistExpectSet] ++ dbgCmds ++
  [cmdEvtMaskSet, cmdEvtRouteSet, cmdEvtStatus, cmdEvtAck]

/-- Every command of the index. -/
def allCmds : List CmdDef := cmdsA ++ cmdsB ++ cmdsC

/-- The command of an opcode; the checks of any other refuse an unknown one with `BAD_OPCODE`. -/
def cmdOf (op : BitVec 16) : CmdDef := (allCmds.find? fun d => d.code = op).getD cmdSysNop

/-- A packet of any command taken from a path. -/
def State.deliver (s : State) (path : Path) (p : Pkt) : State := (cmdOf p.opcode).take path p s

/-! Scheduled instants (R43, R45, R334). -/

/-- The timed-start commands, whose trigger is in hardware (R43). -/
def timedStart (op : BitVec 16) : Bool := [0x0702, 0x0705, 0x0502, 0x0503, 0x0403, 0x0404].contains op.toNat

/-- A scheduled command at its instant (R43, R45): once `TB0` has reached it, the unit-state checks run again, then the command
acts. A command whose trigger is not in hardware needs the Queen core. A `WORK_START` has begun and comes to its start instant
by itself (R483). -/
def State.instant (s : State) (k : JobKey) : State :=
  match s.job? k with
  | none => s
  | some j =>
    let d := cmdOf j.p.opcode
    let able : Bool := timedStart j.p.opcode || j.key.path = .mailbox || (s.queen.serves && s.queenClocked)
    match j.phase with
    | .scheduled at_ =>
      if d.early || !able || decide (s.tb0.value < at_) then s
      else match firstOf [engineCheck s j.p, d.checks s j] with
        | some v => (d.refused j v s).refuse j v
        | none => d.run j s
    | _ => s

/-- `SCHEDULED_INSTANT` (R43): the instant of a waiting command, not before `TB0` has reached it. -/
def execScheduledInstant (k : JobKey) (s : State) : Host.Outcome State Fault Refusal := .next (s.instant k)

/-- Every scheduled command compares its instant with `TB0` in every cycle (R334), so that one passed by a step forward acts at
the step. -/
def State.instants (s : State) : State :=
  (s.queen.jobs.filter Job.isScheduled).foldl (fun s j => s.instant j.key) s

/-! Replies (R29, R31, R40, R41). -/

/-- What follows a reply that has been delivered: the reset of `SYS_RESET` is armed (12, R360), HIBERNATE entry begins (12,
R363), or the Queen core's mux switches (13, R374). -/
def State.runAfter (s : State) (a : After) : State :=
  match a with
  | .nothing => s
  | .reset k => { s with rsc := { s.rsc with armedReset := some k } }
  | .hibernate => s.hibernateBegin
  | .queenMux b => { s with clk := { s.clk with mux := if b then s.clk.mux ||| 0b100000 else s.clk.mux &&& 0b011111 } }

/-- A reply's words with the phase bit of the pass in which its first slot is written (R29): set on the first pass. -/
def phased (h : Hif) (ws : Words) : Words :=
  let odd := h.repTail.toNat / 2 ^ h.repSize.toNat % 2 = 1
  ws.set 2 ((ws.getD 2 0) ||| (if odd then 0 else 0x80000000))

/-- `REPLY_WRITE` (R29, R31): the oldest committed reply is written when the ring has room for all of it; vector 0 is
signalled, and its tag is free. -/
def execReplyWrite (s : State) : Host.Outcome State Fault Refusal :=
  .next (match s.queen.replies with
    | [] => s
    | r :: l =>
      if !(s.queen.serves && s.queenClocked && s.hif.pcieUp && s.hif.repEn && s.rsc.hib = .awake &&
          decide (r.slots ≤ s.hif.repFree)) then s
      else
        let tail := s.hif.repTail
        let ws := phased s.hif r.words
        let s := { s with
          queen := { s.queen with replies := l }
          hif := { s.hif with repTail := tail + BitVec.ofNat 32 r.slots } }
        let s := s.emit (.replyRing (BitVec.ofNat 32 (tail.toNat % 2 ^ s.hif.repSize.toNat)) ws)
        (s.signal 0).runAfter r.after)

/-! I²C (R53 to R56; 12, R364, R365). -/

/-- The write address byte of the device (R53). -/
def State.i2cWrite (s : State) : Byte := BitVec.ofNat 8 (2 * (0x30 + s.rsc.i2cAddr.toNat))

/-- A transaction at the device's address is also the wake match (12, R365). -/
def State.i2cTouch (s : State) : State := s.wakeMatch

/-- Is the packet error code of a write right (R54)? -/
def State.pecOk (s : State) (ptr : Byte) (data : Bytes) (pec : Byte) : Bool := crc8 (s.i2cWrite :: ptr :: data) = pec

/-- A write with a wrong packet error code has no effect but this. -/
def State.pecError (s : State) : State := { s with rsc := { s.rsc with pecErr := true } }

/-- Bytes read, with their packet error code over the whole combined transaction (R54). -/
def State.i2cRead (s : State) (ptr : Byte) (data : Bytes) : State :=
  s.emit (.i2c (data ++ [crc8 ([s.i2cWrite, ptr, s.i2cWrite + 1] ++ data)]))

/-- A packet that is too long, or not whole, is refused under its tag (R35 steps 1 to 3, R55). -/
def State.badLength (s : State) (path : Path) (p : Pkt) : State :=
  let k : JobKey := ⟨path, p.tag⟩
  if s.tagUsed k then s.pushReply k false (replyWords s p.opcode p.tag stTagInUse 0xFF false 0 [])
  else s.pushReply k true (replyWords s p.opcode p.tag (lengthStatus p) 0xFE false 0 [])

/-- A write at pointer 0x80 (R54, R55; 12, R364): one packet, taken where its code is right. The pointer is not acknowledged while 4
tags are in use on the path, while the Queen core does not run, or in HIBERNATE. -/
def State.i2cPacket (s : State) (data : Bytes) (pec : Byte) (host : Option Bytes) : State :=
  if !s.pdOn 0 then s
  else if !s.queen.serves || !s.queenClocked || s.rsc.hib != .awake || decide (4 ≤ s.tagsOn Path.isI2c) then
    (s.emit .i2cNack).i2cTouch
  else if !s.pecOk 0x80 data pec then s.pecError
  else
    let p := Pkt.ofWords (wordsOfBytes data) host
    if 1024 < data.length || p.length.toNat != data.length then s.badLength .i2c p else s.deliver .i2c p

/-- `I2C_PACKET_WRITE`: the row. -/
def execI2cPacketWrite (data : Bytes) (pec : Byte) (host : Option Bytes) (s : State) : Host.Outcome State Fault Refusal :=
  .next (s.i2cPacket data pec host)

/-- A read of `n` bytes at pointer 0x81 (R56): the oldest reply from its first byte; a read that passes its last byte consumes it.
Bytes asked for past the last byte of the reply are zeros (DESIGN CHOICE, log entry 52). -/
def State.i2cReply (s : State) (n : Nat) : State :=
  if !s.pdOn 0 then s
  else
    let bs := match s.queen.i2cReplies with
      | [] => []
      | r :: _ => bytesOfWords r.words
    let s' := (s.i2cRead 0x81 ((bs ++ List.replicate (n - bs.length) 0).take n)).i2cTouch
    if bs.isEmpty || n < bs.length then s'
    else { s' with queen := { s'.queen with i2cReplies := s'.queen.i2cReplies.drop 1 } }

/-- `I2C_REPLY_READ`: the row. -/
def execI2cReplyRead (n : Nat) (s : State) : Host.Outcome State Fault Refusal := .next (s.i2cReply n)

/-- The bytes of the rescue range as they read, pointers 0x00 to 0x23 (R53): `RSC_RESET`, which is WO, and pointer 0x1C, which
names no register, read zero (00, R6). -/
def State.rscBytes (s : State) : Bytes :=
  bytesOfWords [hifId, s.rscStatus, s.rscCause, s.evtActive 0, s.evtActive 32, s.rscVin, 0, 0, s.rscBoot]

/-- Is a pointer one that the table of R53 lists? -/
def listedPtr (ptr : Byte) : Bool := decide (ptr.toNat < 0x24) || ptr = 0x80 || ptr = 0x81

/-- A read of `n` bytes at pointer 0x80, where the spec gives nothing to read: free bytes (R53; log entry 53). -/
def State.i2cUnstated (s : State) (n : Nat) : State :=
  ({ s with free := s.free + 1 }).i2cRead 0x80 ((List.range n).map (Config.freeByte s.free))

/-- `RSC_STATUS_READ` (R53, R54): a read of `n` bytes in the rescue range, from the byte that the pointer names (log entry 53). A
pointer that is not listed is not acknowledged; the read of the byte that holds `PEC_ERR` clears it. Pointer 0x81 is the reply
read's. -/
def execRscStatusRead (ptr : Byte) (n : Nat) (s : State) : Host.Outcome State Fault Refusal :=
  .next (if !s.pdOn 0 then s
    else if !listedPtr ptr then (s.emit .i2cNack).i2cTouch
    else if ptr = 0x81 then s.i2cReply n
    else if ptr = 0x80 then (s.i2cUnstated n).i2cTouch
    else
      let bs := s.rscBytes.drop ptr.toNat
      let s := s.i2cRead ptr ((bs ++ List.replicate (n - bs.length) 0).take n)
      let seen : Bool := decide (ptr.toNat ≤ 5) && decide (5 < ptr.toNat + n)
      ({ s with rsc := { s.rsc with pecErr := s.rsc.pecErr && !seen } }).i2cTouch)

/-- A write at a pointer (R53, R54): the packet error code is checked whatever the pointer names; pointer 0x80 takes a packet.
`RSC_EVT_LO` and `RSC_EVT_HI` take the ones written (18, R461); `RSC_RESET` has rows of its own; a read-only register and pointer
0x1C ignore the write. DESIGN CHOICE (log entry 53): a register takes the first four bytes of a write at its own pointer, zeros
where it is shorter, and no other pointer reaches it; a write at pointer 0x81 with a right code does nothing. -/
def State.rscWrite (s : State) (ptr : Byte) (data : Bytes) (pec : Byte) : State :=
  if !s.pdOn 0 then s
  else if !listedPtr ptr then (s.emit .i2cNack).i2cTouch
  else if ptr = 0x80 then s.i2cPacket data pec none
  else if !s.pecOk ptr data pec then s.pecError.i2cTouch
  else if ptr = 0x0C then (s.ackEvents (bytesNum (data.take 4))).i2cTouch
  else if ptr = 0x10 then (s.ackEvents (bytesNum (data.take 4) * 2 ^ 32)).i2cTouch
  else s.i2cTouch

/-- `REGISTER_WRITE` (R25, R53; 00, R6): an access to a register without a row of its own. -/
def execRegisterWrite (a : RegAccess) (s : State) : Host.Outcome State Fault Refusal :=
  .next (match a with
    | .bar0 off v => s.overPcie (s.barWrite off.toNat v)
    | .bar0Read off => s.overPcie (s.emit (.barData (numBytes 4 (s.barRead off.toNat).toNat)))
    | .rescue ptr data pec => s.rscWrite ptr data pec
    | .status r v => s.clearStatus r v)

/-- `RSC_EVT_ACK` (18, R461): ones clear active bits of events 0 to 31, or 32 to 63. -/
def execRscEvtAck (hi : Bool) (v : Word) (pec : Byte) (s : State) : Host.Outcome State Fault Refusal :=
  .next (if !s.pdOn 0 then s
    else if !s.pecOk (if hi then 0x10 else 0x0C) (numBytes 4 v.toNat) pec then s.pecError.i2cTouch
    else (s.ackEvents (if hi then v.toNat * 2 ^ 32 else v.toNat)).i2cTouch)

/-- A write of `RSC_RESET` (02): with the key, and with the scope of the row, the reset follows; every other write is ignored. -/
def State.rscReset (s : State) (v : Word) (pec : Byte) (scope : Nat) (reset : State → State) : State :=
  if !s.pdOn 0 then s
  else if !s.pecOk 0x18 (numBytes 4 v.toNat) pec then s.pecError.i2cTouch
  else if bitsOf v.toNat 0 16 != 0x5155 || bitsOf v.toNat 16 2 != scope then s.i2cTouch
  else reset s.i2cTouch

/-- `RSC_RESET_QUEEN` (12, R356): scope 0b01. -/
def execRscResetQueen (v : Word) (pec : Byte) (s : State) : Host.Outcome State Fault Refusal :=
  .next (s.rscReset v pec 1 State.raiseQueen)

/-- `RSC_RESET_DEVICE` (12, R356): scope 0b10. -/
def execRscResetDevice (v : Word) (pec : Byte) (bootsel : BitVec 2) (s : State) : Host.Outcome State Fault Refusal :=
  .next (s.rscReset v pec 2 fun s => s.raiseDevice bootsel)

/-! Other devices (11, R325, R326, R329). -/

/-- `BUZZ` (11, R329; 16, R439): on a link whose `BUZZ_RX` is 1 the groups of the mask fire, and the buzz is relayed on every
other link whose `BUZZ_TX` is 1, once per origin and sequence number. -/
def execBuzz (l : Fin 16) (mask origin seq : Byte) (s : State) : Host.Outcome State Fault Refusal :=
  .next (if !s.linkActive l || !s.swarm.links[l.val].buzzRx || s.swarm.buzzSeen.contains (origin, seq) then s
    else
      let s := { s with swarm := { s.swarm with buzzSeen := remember s.swarm.buzzSeen origin seq } }
      let s := forAll ((allFin 8).filter fun g => mask.getLsbD g.val) (fun g s => s.fireMembers g origin) s
      let out := (allFin 16).filter fun o => o != l && s.swarm.links[o.val].buzzTx && s.linkActive o
      out.foldl (fun s o => s.emitLink o (.buzz o mask origin seq)) s)

/-- A forwarded packet begins, or is refused to its origin: more than 64 at once (R326), or a length that is not that of the
message. -/
def State.takeForwarded (s : State) (path : Path) (p : Pkt) (size : Nat) : State :=
  let k : JobKey := ⟨path, p.tag⟩
  if s.tagUsed k then s.pushReply k false (replyWords s p.opcode p.tag stTagInUse 0xFF false 0 [])
  else if 64 ≤ s.tagsOn Path.isFwd then s.pushReply k false (replyWords s p.opcode p.tag stNotReady 0xFF false 0 [])
  else if p.length.toNat != size then s.badLength path p
  else s.deliver path p

/-- `FORWARDED_COMMAND` (11, R324 to R326): the oldest whole message of channel 0 on a link, while the Queen core serves. -/
def execForwardedCommand (l : Fin 16) (host : Option Bytes) (s : State) : Host.Outcome State Fault Refusal :=
  .next (if !(s.queen.serves && s.queenClocked && s.rsc.hib = .awake) then s
    else match takeMessage 0 s.swarm.links[l.val].whole with
      | none => s
      | some (m, rest) =>
        let s := s.modLink l fun k => { k with whole := rest }
        s.takeForwarded (.fwd m.src l m.way) (Pkt.ofWords (wordsOfBytes m.data) host) m.data.length)

/-! One cycle of the always-on clock (log entry 2). -/

/-- A Worker counts one of its cycles (03, R88; 16, R433): `CYCL`, the timer, the watchdog, and the wait for a semaphore. -/
def Worker.cycle (k : Worker) (owns : Bool) : Worker :=
  let r := k.regs
  let waits := k.dbg.haltReq && owns
  { k with
    cycl := k.cycl + 1
    regs := { r with
      wtimer := if r.wtimerCtrl.getLsbD 0 && decide (1 < r.wtimer.toNat) then r.wtimer - 1 else r.wtimer
      wdog := if r.wdogCtrl.getLsbD 0 && decide (1 < r.wdog.toNat) then r.wdog - 1 else r.wdog }
    dbg := { k.dbg with pending := waits, lockWait := if waits then min 256 (k.dbg.lockWait + 1) else 0 } }

/-- Does a Worker count: it runs, clocked by the root? -/
def State.workerCounts (s : State) (w : Fin 32) : Bool :=
  s.workers[w.val].st = .running && s.workerAlive w && s.clk.mux.getLsbD (workerDie w).val

/-- May a waiting command begin: the first of its path that waits, and, with `FENCE`, the only one before it gone (R34)? -/
def readyIn (before : List Job) : List Job → Option Job
  | [] => none
  | j :: l =>
    let mine := before.filter fun i => i.key.path = j.key.path
    let ready : Bool := j.phase = .waiting && !mine.any (fun i => i.phase = .waiting) && (!j.p.fence || mine.isEmpty)
    if ready then some j else readyIn (j :: before) l

/-- The next waiting command begins (R34). -/
def State.beginWaiting (s : State) : State :=
  if !(s.queen.serves && s.queenClocked && s.rsc.hib = .awake) then s
  else match readyIn [] s.queen.jobs with
    | none => s
    | some j => (cmdOf j.p.opcode).begin j s

/-- A command whose memory requests have waited for a rekey goes on (09, R278). -/
def State.resumeMemory (s : State) : State :=
  if s.mem.rekey.isSome then s
  else match s.queen.jobs.find? fun j => j.phase = .memory with
    | none => s
    | some j => (cmdOf j.p.opcode).run j s

/-- A rekey that has been asked for has stopped new requests and begins its step 2 (09, R278). -/
def State.rekeyStep (s : State) : State :=
  match s.mem.rekey with
  | none => s
  | some x => s.modMem fun m => { m with rekey := some { x with begun := true } }

/-- What follows a reply delivered on a path other than PCIe. -/
def State.runDue (s : State) : State :=
  match s.queen.due with
  | [] => s
  | a :: l => ({ s with queen := { s.queen with due := l } }).runAfter a

/-- One cycle of the always-on clock: 1 ns. The time bases advance and the root counts 16 ticks while its PLL runs (13, R372; a cycle of
a coasting clock takes 2 ns and is 16 root ticks too, 13, R375), the clock outputs give their edges, flits move, the Workers count, the
scheduled commands compare their instants, and the Queen core goes on. -/
def State.tick (s : State) : State :=
  if !s.pdOn 0 then s
  else
    let coast := s.clk.coast
    let runs := s.clk.runs
    let v0 := s.tb0.value
    let t0 := s.clk.ticks
    let counts : Vector Bool 32 := Vector.ofFn fun w => s.workerCounts w
    let owns : Vector Bool 32 := Vector.ofFn fun w => s.workers[w.val].dbg.haltReq && !(s.semsOf w).isEmpty
    let s := { s with
      tb := if runs then s.tb.map (TimeBase.tick coast) else s.tb
      clk := if runs then { s.clk with ticks := s.clk.ticks + 16, count := s.clk.count + 16 } else s.clk
      workers := Vector.ofFn fun w => if counts[w.val] then s.workers[w.val].cycle owns[w.val] else s.workers[w.val] }
    let s := if runs then forAll (allFin 4) (fun n s => s.clkOutCycle n) s else s
    let s := if runs then s.startTicks v0 t0 else s
    let s := if s.broodRuns && s.rsc.hib = .awake then s.solveStep else s
    let s := s.nextCycle.meshTick.rekeyStep.readbackStep
    s.resumeMemory.runDue.instants.beginWaiting

end Sys2Proof.Machine
end

