-- ==== Sys2Proof/Machine/WorkerAlu.lean ====
section
/-! DEFINITION. The data operations of the Worker core (spec/03_worker_cores.md, operations 0x00 to 0x1A): no operation,
arithmetic, logic, shifts, immediates, and the accumulators. Each row is one bundle of one Worker. -/

namespace Sys2Proof.Machine

/-- A result in the destination field with flags under a mask. -/
def aluOut (c : Ctx) (r : Word) (mask : Nat) (f : BitVec 4) : OpOut :=
  { writes := [resultIn (c.f 54 4) r, flagsIn mask f] }

/-- The carry flag as operations see it. -/
def Ctx.carry (c : Ctx) : Bool := c.op.flags.getLsbD 2

/-- Logic: Z and N only. -/
def logicOut (c : Ctx) (r : Word) : OpOut := aluOut c r 3 (flagsOf r false false)

/-- A shift by an amount: Z, N and C. -/
def shiftOut (c : Ctx) (k : ShiftKind) (n : Nat) : OpOut :=
  let (r, cy) := shiftBy k (c.d 50) n c.carry
  aluOut c r 7 (flagsOf r cy false)

/-- The signed immediate of format IMM. -/
def Ctx.imm (c : Ctx) : Word := BitVec.ofInt 32 (signedOf 10 (c.f 40 10))

/-- Accumulator `n` as operations see it. -/
def Ctx.acc (c : Ctx) (n : Nat) : BitVec 72 := (at? c.op.acc n).getD 0

/-- A whole accumulator written, and `OVS` set where the true value did not fit (R78). -/
def accIn (n : Nat) (r : BitVec 72 × Bool) : List PendWrite :=
  ⟨64 + n, r.1, 0, 2⟩ :: if r.2 then [⟨71, 0, 0, 2⟩] else []

/-- `nop`. -/
def opNop (_ : Ctx) : OpOut := {}
/-- `add`: dst = a + b. -/
def opAdd (c : Ctx) : OpOut :=
  let (r, f) := addWith (c.d 50) (c.d 46) false
  aluOut c r 15 f
/-- `sub`: dst = a − b. -/
def opSub (c : Ctx) : OpOut :=
  let (r, f) := subWith (c.d 50) (c.d 46) true
  aluOut c r 15 f
/-- `adc`: dst = a + b + C. -/
def opAdc (c : Ctx) : OpOut :=
  let (r, f) := addWith (c.d 50) (c.d 46) c.carry
  aluOut c r 15 f
/-- `sbc`: dst = a − b − (1 − C). -/
def opSbc (c : Ctx) : OpOut :=
  let (r, f) := subWith (c.d 50) (c.d 46) c.carry
  aluOut c r 15 f
/-- `and`. -/
def opAnd (c : Ctx) : OpOut :=
  logicOut c (c.d 50 &&& c.d 46)
/-- `or`. -/
def opOr (c : Ctx) : OpOut :=
  logicOut c (c.d 50 ||| c.d 46)
/-- `xor`. -/
def opXor (c : Ctx) : OpOut :=
  logicOut c (c.d 50 ^^^ c.d 46)
/-- `andn`: a AND NOT b. -/
def opAndn (c : Ctx) : OpOut :=
  logicOut c (c.d 50 &&& ~~~(c.d 46))
/-- `cmp`: the flags of a − b. -/
def opCmp (c : Ctx) : OpOut :=
  { writes := [flagsIn 15 (subWith (c.d 50) (c.d 46) true).2] }
/-- `lsl` by b[4:0]. -/
def opLsl (c : Ctx) : OpOut :=
  shiftOut c .lsl ((c.d 46).toNat % 32)
/-- `lsr` by b[4:0]. -/
def opLsr (c : Ctx) : OpOut :=
  shiftOut c .lsr ((c.d 46).toNat % 32)
/-- `asr` by b[4:0]. -/
def opAsr (c : Ctx) : OpOut :=
  shiftOut c .asr ((c.d 46).toNat % 32)
/-- `ror` by b[4:0]. -/
def opRor (c : Ctx) : OpOut :=
  shiftOut c .ror ((c.d 46).toNat % 32)
/-- `shi`: the kind and amount of format SHIFT. -/
def opShi (c : Ctx) : OpOut :=
  shiftOut c (match c.f 48 2 with | 0 => .lsl | 1 => .lsr | 2 => .asr | _ => .ror) (c.f 43 5)
/-- `addi`: dst = a + immediate. -/
def opAddi (c : Ctx) : OpOut :=
  let (r, f) := addWith (c.d 50) c.imm false
  aluOut c r 15 f
/-- `cmpi`: the flags of a − immediate. -/
def opCmpi (c : Ctx) : OpOut :=
  { writes := [flagsIn 15 (subWith (c.d 50) c.imm true).2] }
/-- `ldi`: dst = the 32-bit immediate. -/
def opLdi (c : Ctx) : OpOut :=
  { writes := [resultIn (c.f 54 4) (BitVec.ofNat 32 (c.f 20 32))] }
/-- `mac`: acc ± a × b, 32 × 32 (R78). -/
def opMac (c : Ctx) : OpOut :=
  let n := c.f 56 2
  let p := product 32 (c.d 52).toNat (c.d 48).toNat (c.f 46 2)
  { writes := accIn n (accumulate (c.acc n) p (c.f 45 1 = 1) (c.f 44 1 = 1)) }
/-- `mac2`: two 16 × 16 products into the accumulators of a pair (R78). -/
def opMac2 (c : Ctx) : OpOut :=
  let n := 2 * c.f 57 1
  let a := (c.d 52).toNat
  let b := (c.d 48).toNat
  let one (k a b : Nat) : List PendWrite :=
    accIn k (accumulate (c.acc k) (product 16 a b (c.f 46 2)) (c.f 45 1 = 1) (c.f 44 1 = 1))
  { writes := one n (a % 65536) (b % 65536) ++ one (n + 1) (a / 65536) (b / 65536) }
/-- `aop`: clear, add, subtract or negate (R78). -/
def opAop (c : Ctx) : OpOut :=
  let n := c.f 56 2
  let dst := (c.acc n).toInt
  let src := (c.acc (c.f 54 2)).toInt
  { writes := accIn n (match c.f 52 2 with
      | 0 => (0, false)
      | 1 => wrap72 (dst + src)
      | 2 => wrap72 (dst - src)
      | _ => wrap72 (-src)) }

/-! The rows. -/

/-- The opcodes that the table of operations lists. -/
def listedOpc (n : Nat) : Bool :=
  n ≤ 0x12 || (0x18 ≤ n && n ≤ 0x1A) || (0x20 ≤ n && n ≤ 0x25) || (0x28 ≤ n && n ≤ 0x2C) || (0x30 ≤ n && n ≤ 0x33)

/-- `NOP` (R68). A bundle whose opcode the table does not list is this row's too: it faults the Worker with code 0x01. -/
def execNop (w : Fin 32) (e : WEcc) (s : State) : Host.Outcome State Fault Refusal :=
  let opc := bitsOf (s.bundle w) 58 6
  .next (if s.mayIssue w && (opc = 0 || !listedOpc opc) then s.issue w e opNop else s)
/-- `ADD`. -/
def execAdd (w : Fin 32) (e : WEcc) (s : State) : Host.Outcome State Fault Refusal := .next (s.runOp w e 0x02 opAdd)
/-- `SUB`. -/
def execSub (w : Fin 32) (e : WEcc) (s : State) : Host.Outcome State Fault Refusal := .next (s.runOp w e 0x03 opSub)
/-- `ADC`. -/
def execAdc (w : Fin 32) (e : WEcc) (s : State) : Host.Outcome State Fault Refusal := .next (s.runOp w e 0x04 opAdc)
/-- `SBC`. -/
def execSbc (w : Fin 32) (e : WEcc) (s : State) : Host.Outcome State Fault Refusal := .next (s.runOp w e 0x05 opSbc)
/-- `AND`. -/
def execAnd (w : Fin 32) (e : WEcc) (s : State) : Host.Outcome State Fault Refusal := .next (s.runOp w e 0x06 opAnd)
/-- `OR`. -/
def execOr (w : Fin 32) (e : WEcc) (s : State) : Host.Outcome State Fault Refusal := .next (s.runOp w e 0x07 opOr)
/-- `XOR`. -/
def execXor (w : Fin 32) (e : WEcc) (s : State) : Host.Outcome State Fault Refusal := .next (s.runOp w e 0x08 opXor)
/-- `ANDN`. -/
def execAndn (w : Fin 32) (e : WEcc) (s : State) : Host.Outcome State Fault Refusal := .next (s.runOp w e 0x09 opAndn)
/-- `CMP`. -/
def execCmp (w : Fin 32) (e : WEcc) (s : State) : Host.Outcome State Fault Refusal := .next (s.runOp w e 0x0A opCmp)
/-- `LSL`. -/
def execLsl (w : Fin 32) (e : WEcc) (s : State) : Host.Outcome State Fault Refusal := .next (s.runOp w e 0x0B opLsl)
/-- `LSR`. -/
def execLsr (w : Fin 32) (e : WEcc) (s : State) : Host.Outcome State Fault Refusal := .next (s.runOp w e 0x0C opLsr)
/-- `ASR`. -/
def execAsr (w : Fin 32) (e : WEcc) (s : State) : Host.Outcome State Fault Refusal := .next (s.runOp w e 0x0D opAsr)
/-- `ROR`. -/
def execRor (w : Fin 32) (e : WEcc) (s : State) : Host.Outcome State Fault Refusal := .next (s.runOp w e 0x0E opRor)
/-- `SHI`. -/
def execShi (w : Fin 32) (e : WEcc) (s : State) : Host.Outcome State Fault Refusal := .next (s.runOp w e 0x0F opShi)
/-- `ADDI`. -/
def execAddi (w : Fin 32) (e : WEcc) (s : State) : Host.Outcome State Fault Refusal := .next (s.runOp w e 0x10 opAddi)
/-- `CMPI`. -/
def execCmpi (w : Fin 32) (e : WEcc) (s : State) : Host.Outcome State Fault Refusal := .next (s.runOp w e 0x11 opCmpi)
/-- `LDI`. -/
def execLdi (w : Fin 32) (e : WEcc) (s : State) : Host.Outcome State Fault Refusal := .next (s.runOp w e 0x12 opLdi)
/-- `MAC`. -/
def execMac (w : Fin 32) (e : WEcc) (s : State) : Host.Outcome State Fault Refusal := .next (s.runOp w e 0x18 opMac)
/-- `MAC2`. -/
def execMac2 (w : Fin 32) (e : WEcc) (s : State) : Host.Outcome State Fault Refusal := .next (s.runOp w e 0x19 opMac2)
/-- `AOP`. -/
def execAop (w : Fin 32) (e : WEcc) (s : State) : Host.Outcome State Fault Refusal := .next (s.runOp w e 0x1A opAop)

end Sys2Proof.Machine
end

