-- ==== Sys2Proof/Machine/Dispatch.lean ====
section
/-! DEFINITION. The meaning of every row of spec/opcode_table.json: one arm per constructor, each a direct call of the
definition that gives that row its effect. -/

namespace Sys2Proof.Machine

/-- A command's or event's effect on everything but the queue. -/
def exec (i : Instr) (s : State) : Host.Outcome State Fault Refusal :=
  match i with
  | .sysNop p => Sys2Proof.Machine.execSysNop p s
  | .sysIdentify p => Sys2Proof.Machine.execSysIdentify p s
  | .sysInventory p => Sys2Proof.Machine.execSysInventory p s
  | .sysAbort p => Sys2Proof.Machine.execSysAbort p s
  | .sysReset p => Sys2Proof.Machine.execSysReset p s
  | .sysStatus p => Sys2Proof.Machine.execSysStatus p s
  | .modeGet p => Sys2Proof.Machine.execModeGet p s
  | .modeSet p => Sys2Proof.Machine.execModeSet p s
  | .pwrDomainSet p => Sys2Proof.Machine.execPwrDomainSet p s
  | .pwrDomainGet p => Sys2Proof.Machine.execPwrDomainGet p s
  | .pwrBudgetSet p => Sys2Proof.Machine.execPwrBudgetSet p s
  | .pwrLimitsSet p => Sys2Proof.Machine.execPwrLimitsSet p s
  | .pwrTelemetry p => Sys2Proof.Machine.execPwrTelemetry p s
  | .clkStatus p => Sys2Proof.Machine.execClkStatus p s
  | .clkSelect p => Sys2Proof.Machine.execClkSelect p s
  | .clkOutSet p => Sys2Proof.Machine.execClkOutSet p s
  | .clkMeasure p => Sys2Proof.Machine.execClkMeasure p s
  | .cfgStage p => Sys2Proof.Machine.execCfgStage p s
  | .cfgLoad p => Sys2Proof.Machine.execCfgLoad p s
  | .cfgRegionLoad p => Sys2Proof.Machine.execCfgRegionLoad p s
  | .cfgRegionStart p => Sys2Proof.Machine.execCfgRegionStart p s
  | .cfgRegionStop p => Sys2Proof.Machine.execCfgRegionStop p s
  | .cfgReadback p => Sys2Proof.Machine.execCfgReadback p s
  | .cfgBootRecordSet p => Sys2Proof.Machine.execCfgBootRecordSet p s
  | .cfgProbeSet p => Sys2Proof.Machine.execCfgProbeSet p s
  | .portSet p => Sys2Proof.Machine.execPortSet p s
  | .portGet p => Sys2Proof.Machine.execPortGet p s
  | .portStart p => Sys2Proof.Machine.execPortStart p s
  | .portStop p => Sys2Proof.Machine.execPortStop p s
  | .portLinkStatus p => Sys2Proof.Machine.execPortLinkStatus p s
  | .portDetect p => Sys2Proof.Machine.execPortDetect p s
  | .portPrbs p => Sys2Proof.Machine.execPortPrbs p s
  | .timTimingSet p => Sys2Proof.Machine.execTimTimingSet p s
  | .timDeskew p => Sys2Proof.Machine.execTimDeskew p s
  | .timSiteMap p => Sys2Proof.Machine.execTimSiteMap p s
  | .workLoad p => Sys2Proof.Machine.execWorkLoad p s
  | .workStart p => Sys2Proof.Machine.execWorkStart p s
  | .workStop p => Sys2Proof.Machine.execWorkStop p s
  | .workStatus p => Sys2Proof.Machine.execWorkStatus p s
  | .workStreamSet p => Sys2Proof.Machine.execWorkStreamSet p s
  | .workSignal p => Sys2Proof.Machine.execWorkSignal p s
  | .failSet p => Sys2Proof.Machine.execFailSet p s
  | .failCounts p => Sys2Proof.Machine.execFailCounts p s
  | .failClear p => Sys2Proof.Machine.execFailClear p s
  | .broodGeometry p => Sys2Proof.Machine.execBroodGeometry p s
  | .broodPartition p => Sys2Proof.Machine.execBroodPartition p s
  | .broodSolve p => Sys2Proof.Machine.execBroodSolve p s
  | .broodResult p => Sys2Proof.Machine.execBroodResult p s
  | .broodClear p => Sys2Proof.Machine.execBroodClear p s
  | .memStatus p => Sys2Proof.Machine.execMemStatus p s
  | .memTrain p => Sys2Proof.Machine.execMemTrain p s
  | .memThaw p => Sys2Proof.Machine.execMemThaw p s
  | .memRekey p => Sys2Proof.Machine.execMemRekey p s
  | .memCopy p => Sys2Proof.Machine.execMemCopy p s
  | .memFill p => Sys2Proof.Machine.execMemFill p s
  | .netStatus p => Sys2Proof.Machine.execNetStatus p s
  | .netLaneRemap p => Sys2Proof.Machine.execNetLaneRemap p s
  | .netCreditAudit p => Sys2Proof.Machine.execNetCreditAudit p s
  | .netDieReset p => Sys2Proof.Machine.execNetDieReset p s
  | .netDieFence p => Sys2Proof.Machine.execNetDieFence p s
  | .netLatencyLock p => Sys2Proof.Machine.execNetLatencyLock p s
  | .swarmNeighbours p => Sys2Proof.Machine.execSwarmNeighbours p s
  | .swarmIdSet p => Sys2Proof.Machine.execSwarmIdSet p s
  | .swarmRouteSet p => Sys2Proof.Machine.execSwarmRouteSet p s
  | .swarmLinkSet p => Sys2Proof.Machine.execSwarmLinkSet p s
  | .swarmForward p => Sys2Proof.Machine.execSwarmForward p s
  | .timeGet p => Sys2Proof.Machine.execTimeGet p s
  | .timeSet p => Sys2Proof.Machine.execTimeSet p s
  | .timeAdjust p => Sys2Proof.Machine.execTimeAdjust p s
  | .timeSyncSet p => Sys2Proof.Machine.execTimeSyncSet p s
  | .timeJumpLimit p => Sys2Proof.Machine.execTimeJumpLimit p s
  | .secAttest p => Sys2Proof.Machine.execSecAttest p s
  | .secOwnerEnrol p => Sys2Proof.Machine.execSecOwnerEnrol p s
  | .secCounterAdvance p => Sys2Proof.Machine.execSecCounterAdvance p s
  | .secNvStatus p => Sys2Proof.Machine.execSecNvStatus p s
  | .secNvRefresh p => Sys2Proof.Machine.execSecNvRefresh p s
  | .secCertGet p => Sys2Proof.Machine.execSecCertGet p s
  | .bistRun p => Sys2Proof.Machine.execBistRun p s
  | .bistResult p => Sys2Proof.Machine.execBistResult p s
  | .bistCommit p => Sys2Proof.Machine.execBistCommit p s
  | .bistExpectSet p => Sys2Proof.Machine.execBistExpectSet p s
  | .dbgUnlock p => Sys2Proof.Machine.execDbgUnlock p s
  | .dbgHalt p => Sys2Proof.Machine.execDbgHalt p s
  | .dbgResume p => Sys2Proof.Machine.execDbgResume p s
  | .dbgStep p => Sys2Proof.Machine.execDbgStep p s
  | .dbgRead p => Sys2Proof.Machine.execDbgRead p s
  | .dbgWrite p => Sys2Proof.Machine.execDbgWrite p s
  | .dbgBreakSet p => Sys2Proof.Machine.execDbgBreakSet p s
  | .dbgXtrigSet p => Sys2Proof.Machine.execDbgXtrigSet p s
  | .evtMaskSet p => Sys2Proof.Machine.execEvtMaskSet p s
  | .evtRouteSet p => Sys2Proof.Machine.execEvtRouteSet p s
  | .evtStatus p => Sys2Proof.Machine.execEvtStatus p s
  | .evtAck p => Sys2Proof.Machine.execEvtAck p s
  | .subResync p => Sys2Proof.Machine.execSubResync p s
  | .scheduledInstant k => Sys2Proof.Machine.execScheduledInstant k s
  | .replyWrite => Sys2Proof.Machine.execReplyWrite s
  | .eventWrite => Sys2Proof.Machine.execEventWrite s
  | .irqHoldoffExpiry v => Sys2Proof.Machine.execIrqHoldoffExpiry v s
  | .hifDoorbellSub v => Sys2Proof.Machine.execHifDoorbellSub v s
  | .hifDoorbellRep v => Sys2Proof.Machine.execHifDoorbellRep v s
  | .hifDoorbellEvt v => Sys2Proof.Machine.execHifDoorbellEvt v s
  | .subEn on => Sys2Proof.Machine.execSubEn on s
  | .repEn on => Sys2Proof.Machine.execRepEn on s
  | .evtEn on => Sys2Proof.Machine.execEvtEn on s
  | .hifErr v => Sys2Proof.Machine.execHifErr v s
  | .registerWrite a => Sys2Proof.Machine.execRegisterWrite a s
  | .bar2Read a len e => Sys2Proof.Machine.execBar2Read a len e s
  | .bar2Write a data e => Sys2Proof.Machine.execBar2Write a data e s
  | .bar4Read off len e => Sys2Proof.Machine.execBar4Read off len e s
  | .bar4Write off data => Sys2Proof.Machine.execBar4Write off data s
  | .i2cPacketWrite data pec host => Sys2Proof.Machine.execI2cPacketWrite data pec host s
  | .i2cReplyRead n => Sys2Proof.Machine.execI2cReplyRead n s
  | .rscStatusRead ptr n => Sys2Proof.Machine.execRscStatusRead ptr n s
  | .rscEvtAck hi v pec => Sys2Proof.Machine.execRscEvtAck hi v pec s
  | .rscResetQueen v pec => Sys2Proof.Machine.execRscResetQueen v pec s
  | .rscResetDevice v pec bootsel => Sys2Proof.Machine.execRscResetDevice v pec bootsel s
  | .resetBegin bootsel => Sys2Proof.Machine.execResetBegin bootsel s
  | .deviceReset => Sys2Proof.Machine.execDeviceReset s
  | .deferredReset bootsel => Sys2Proof.Machine.execDeferredReset bootsel s
  | .pcieReset => Sys2Proof.Machine.execPcieReset s
  | .powerOn mv low => Sys2Proof.Machine.execPowerOn mv low s
  | .softStartEnd mv bootsel i2cAddr => Sys2Proof.Machine.execSoftStartEnd mv bootsel i2cAddr s
  | .pllLock => Sys2Proof.Machine.execPllLock s
  | .pllLockTimeout => Sys2Proof.Machine.execPllLockTimeout s
  | .firmwareVerified fw => Sys2Proof.Machine.execFirmwareVerified fw s
  | .crsTimeout => Sys2Proof.Machine.execCrsTimeout s
  | .vinWarning mv => Sys2Proof.Machine.execVinWarning mv s
  | .vinRecovered mv => Sys2Proof.Machine.execVinRecovered mv s
  | .vinBelowReset => Sys2Proof.Machine.execVinBelowReset s
  | .overvoltageWarning mv => Sys2Proof.Machine.execOvervoltageWarning mv s
  | .overvoltageShutdown mv => Sys2Proof.Machine.execOvervoltageShutdown mv s
  | .reverseVin => Sys2Proof.Machine.execReverseVin s
  | .currentLimit => Sys2Proof.Machine.execCurrentLimit s
  | .busCollapse => Sys2Proof.Machine.execBusCollapse s
  | .budgetVin mv => Sys2Proof.Machine.execBudgetVin mv s
  | .tempWarning sensor temp => Sys2Proof.Machine.execTempWarning sensor temp s
  | .thermalTrip sensor temp => Sys2Proof.Machine.execThermalTrip sensor temp s
  | .stackHot n temp => Sys2Proof.Machine.execStackHot n temp s
  | .domainCutOff d ma mv => Sys2Proof.Machine.execDomainCutOff d ma mv s
  | .telemetrySample x => Sys2Proof.Machine.execTelemetrySample x s
  | .domainRamped d => Sys2Proof.Machine.execDomainRamped d s
  | .referenceLost cause => Sys2Proof.Machine.execReferenceLost cause s
  | .referenceRestored => Sys2Proof.Machine.execReferenceRestored s
  | .relockEnd => Sys2Proof.Machine.execRelockEnd s
  | .gateClose edges => Sys2Proof.Machine.execGateClose edges s
  | .queenWatchdog pc => Sys2Proof.Machine.execQueenWatchdog pc s
  | .handshakeTimeout unit by_ => Sys2Proof.Machine.execHandshakeTimeout unit by_ s
  | .fenceOrder d => Sys2Proof.Machine.execFenceOrder d s
  | .laneTrainingLost d => Sys2Proof.Machine.execLaneTrainingLost d s
  | .dieClockLost d => Sys2Proof.Machine.execDieClockLost d s
  | .flit f => Sys2Proof.Machine.execFlit f s
  | .replay link seq => Sys2Proof.Machine.execReplay link seq s
  | .linkSilent d => Sys2Proof.Machine.execLinkSilent d s
  | .lockMargin d lane => Sys2Proof.Machine.execLockMargin d lane s
  | .lockLost d lane => Sys2Proof.Machine.execLockLost d lane s
  | .latencyLockEnd d r => Sys2Proof.Machine.execLatencyLockEnd d r s
  | .auditDrained drained => Sys2Proof.Machine.execAuditDrained drained s
  | .refresh => Sys2Proof.Machine.execRefresh s
  | .memoryRead q a len e => Sys2Proof.Machine.execMemoryRead q a len e s
  | .memoryWrite q a data e => Sys2Proof.Machine.execMemoryWrite q a data e s
  | .trainingEnd n r => Sys2Proof.Machine.execTrainingEnd n r s
  | .rekeyEnd => Sys2Proof.Machine.execRekeyEnd s
  | .copyEnd k host e at_ atDst => Sys2Proof.Machine.execCopyEnd k host e at_ atDst s
  | .slotSealed slot src sfdp => Sys2Proof.Machine.execSlotSealed slot src sfdp s
  | .loadEnd r golden sfdp => Sys2Proof.Machine.execLoadEnd r golden sfdp s
  | .calibrationEnd r => Sys2Proof.Machine.execCalibrationEnd r s
  | .detectEnd g r => Sys2Proof.Machine.execDetectEnd g r s
  | .solveStart => Sys2Proof.Machine.execSolveStart s
  | .solveComplete => Sys2Proof.Machine.execSolveComplete s
  | .backgroundSweep site block => Sys2Proof.Machine.execBackgroundSweep site block s
  | .bistUnitStart => Sys2Proof.Machine.execBistUnitStart s
  | .bistUnitEnd u r => Sys2Proof.Machine.execBistUnitEnd u r s
  | .healthTestFailure => Sys2Proof.Machine.execHealthTestFailure s
  | .challengeExpiry => Sys2Proof.Machine.execChallengeExpiry s
  | .hibernateEntryEnd => Sys2Proof.Machine.execHibernateEntryEnd s
  | .wakeMatch => Sys2Proof.Machine.execWakeMatch s
  | .wakeEnd => Sys2Proof.Machine.execWakeEnd s
  | .idcode => Sys2Proof.Machine.execIdcode s
  | .samplePreload sampled preload => Sys2Proof.Machine.execSamplePreload sampled preload s
  | .extest captured cells => Sys2Proof.Machine.execExtest captured cells s
  | .extestPulse captured cells => Sys2Proof.Machine.execExtestPulse captured cells s
  | .extestTrain captured cells => Sys2Proof.Machine.execExtestTrain captured cells s
  | .clamp => Sys2Proof.Machine.execClamp s
  | .highz => Sys2Proof.Machine.execHighz s
  | .dbgpkt words host => Sys2Proof.Machine.execDbgpkt words host s
  | .dieSel v => Sys2Proof.Machine.execDieSel v s
  | .dieScan bits => Sys2Proof.Machine.execDieScan bits s
  | .bypass bit => Sys2Proof.Machine.execBypass bit s
  | .tapReset => Sys2Proof.Machine.execTapReset s
  | .nop w e => Sys2Proof.Machine.execNop w e s
  | .end_ w e => Sys2Proof.Machine.execEnd w e s
  | .add w e => Sys2Proof.Machine.execAdd w e s
  | .sub w e => Sys2Proof.Machine.execSub w e s
  | .adc w e => Sys2Proof.Machine.execAdc w e s
  | .sbc w e => Sys2Proof.Machine.execSbc w e s
  | .and_ w e => Sys2Proof.Machine.execAnd w e s
  | .or_ w e => Sys2Proof.Machine.execOr w e s
  | .xor_ w e => Sys2Proof.Machine.execXor w e s
  | .andn w e => Sys2Proof.Machine.execAndn w e s
  | .cmp w e => Sys2Proof.Machine.execCmp w e s
  | .lsl w e => Sys2Proof.Machine.execLsl w e s
  | .lsr w e => Sys2Proof.Machine.execLsr w e s
  | .asr w e => Sys2Proof.Machine.execAsr w e s
  | .ror w e => Sys2Proof.Machine.execRor w e s
  | .shi w e => Sys2Proof.Machine.execShi w e s
  | .addi w e => Sys2Proof.Machine.execAddi w e s
  | .cmpi w e => Sys2Proof.Machine.execCmpi w e s
  | .ldi w e => Sys2Proof.Machine.execLdi w e s
  | .mac w e => Sys2Proof.Machine.execMac w e s
  | .mac2 w e => Sys2Proof.Machine.execMac2 w e s
  | .aop w e => Sys2Proof.Machine.execAop w e s
  | .bra w e => Sys2Proof.Machine.execBra w e s
  | .call w e => Sys2Proof.Machine.execCall w e s
  | .ret w e => Sys2Proof.Machine.execRet w e s
  | .rti w e => Sys2Proof.Machine.execRti w e s
  | .jmpr w e => Sys2Proof.Machine.execJmpr w e s
  | .rep w e => Sys2Proof.Machine.execRep w e s
  | .vec w e => Sys2Proof.Machine.execVec w e s
  | .vecr w e => Sys2Proof.Machine.execVecr w e s
  | .vmatch w e => Sys2Proof.Machine.execVmatch w e s
  | .vmark w e => Sys2Proof.Machine.execVmark w e s
  | .vwait w e => Sys2Proof.Machine.execVwait w e s
  | .lck w e => Sys2Proof.Machine.execLck w e s
  | .ulk w e => Sys2Proof.Machine.execUlk w e s
  | .sig w e => Sys2Proof.Machine.execSig w e s
  | .wdr w e => Sys2Proof.Machine.execWdr w e s
  | .stallRelease w => Sys2Proof.Machine.execStallRelease w s
  | .interruptEntry w => Sys2Proof.Machine.execInterruptEntry w s
  | .timerReachedZero w => Sys2Proof.Machine.execTimerReachedZero w s
  | .watchdogExpiry w => Sys2Proof.Machine.execWatchdogExpiry w s
  | .sigArrival w => Sys2Proof.Machine.execSigArrival w s
  | .chunkReturn w r => Sys2Proof.Machine.execChunkReturn w r s
  | .stopBoundary w => Sys2Proof.Machine.execStopBoundary w s
  | .haltPoint w => Sys2Proof.Machine.execHaltPoint w s
  | .lockBroken w => Sys2Proof.Machine.execLockBroken w s
  | .startStrobe k => Sys2Proof.Machine.execStartStrobe k s
  | .groupStart g => Sys2Proof.Machine.execGroupStart g s
  | .play g => Sys2Proof.Machine.execPlay g s
  | .underrun g => Sys2Proof.Machine.execUnderrun g s
  | .transition g p txe => Sys2Proof.Machine.execTransition g p txe s
  | .tapNext g => Sys2Proof.Machine.execTapNext g s
  | .tapSample g => Sys2Proof.Machine.execTapSample g s
  | .strobe g p rx rxl => Sys2Proof.Machine.execStrobe g p rx rxl s
  | .failBit g p => Sys2Proof.Machine.execFailBit g p s
  | .matchDecision g => Sys2Proof.Machine.execMatchDecision g s
  | .matchResolved g => Sys2Proof.Machine.execMatchResolved g s
  | .markerRecord g => Sys2Proof.Machine.execMarkerRecord g s
  | .runDone g => Sys2Proof.Machine.execRunDone g s
  | .failRecord g => Sys2Proof.Machine.execFailRecord g s
  | .txwTake n => Sys2Proof.Machine.execTxwTake n s
  | .rxwValid n x => Sys2Proof.Machine.execRxwValid n x s
  | .rxSlip n => Sys2Proof.Machine.execRxSlip n s
  | .cdrLock n => Sys2Proof.Machine.execCdrLock n s
  | .cdrLost n => Sys2Proof.Machine.execCdrLost n s
  | .alignmentAcquired n => Sys2Proof.Machine.execAlignmentAcquired n s
  | .alignmentLost n => Sys2Proof.Machine.execAlignmentLost n s
  | .prbsLock n swapped => Sys2Proof.Machine.execPrbsLock n swapped s
  | .prbsLoss n => Sys2Proof.Machine.execPrbsLoss n s
  | .short n leg => Sys2Proof.Machine.execShort n leg s
  | .fabricCycle sbIn ecc cross => Sys2Proof.Machine.execFabricCycle sbIn ecc cross s
  | .captureComplete d => Sys2Proof.Machine.execCaptureComplete d s
  | .laravoPacket l cols => Sys2Proof.Machine.execLaravoPacket l cols s
  | .skipColumn l => Sys2Proof.Machine.execSkipColumn l s
  | .linkTrainingStart l => Sys2Proof.Machine.execLinkTrainingStart l s
  | .linkTrained l wiring => Sys2Proof.Machine.execLinkTrained l wiring s
  | .laravoSilent l => Sys2Proof.Machine.execLaravoSilent l s
  | .hello l x => Sys2Proof.Machine.execHello l x s
  | .helloSend l => Sys2Proof.Machine.execHelloSend l s
  | .pdelayReq l x phase => Sys2Proof.Machine.execPdelayReq l x phase s
  | .pdelayReqSend l phase => Sys2Proof.Machine.execPdelayReqSend l phase s
  | .pdelayResp l x => Sys2Proof.Machine.execPdelayResp l x s
  | .sync l x => Sys2Proof.Machine.execSync l x s
  | .syncSend l phase => Sys2Proof.Machine.execSyncSend l phase s
  | .servoHold => Sys2Proof.Machine.execServoHold s
  | .buzz l mask origin seq => Sys2Proof.Machine.execBuzz l mask origin seq s
  | .forwardedCommand l host => Sys2Proof.Machine.execForwardedCommand l host s
  | .forwardReply l => Sys2Proof.Machine.execForwardReply l s
  | .forwardTimeout k => Sys2Proof.Machine.execForwardTimeout k s
  | .resetNRelease bootsel => Sys2Proof.Machine.execResetNRelease bootsel s
  | .overvoltageCleared => Sys2Proof.Machine.execOvervoltageCleared s
  | .overvoltageRestart mv => Sys2Proof.Machine.execOvervoltageRestart mv s
  | .currentLimitReleased => Sys2Proof.Machine.execCurrentLimitReleased s
  | .budgetVinRecovered => Sys2Proof.Machine.execBudgetVinRecovered s
  | .tempWarningCleared sensor temp => Sys2Proof.Machine.execTempWarningCleared sensor temp s
  | .ptmDialogue master now_ => Sys2Proof.Machine.execPtmDialogue master now_ s
  | .slewAbsorbed b => Sys2Proof.Machine.execSlewAbsorbed b s
  | .nvWriteEnd => Sys2Proof.Machine.execNvWriteEnd s
  | .errorWindowEnd => Sys2Proof.Machine.execErrorWindowEnd s
  | .pcieLinkUp ptm => Sys2Proof.Machine.execPcieLinkUp ptm s
  | .startInstant k => Sys2Proof.Machine.execStartInstant k s

end Sys2Proof.Machine
end

