-- ==== Sys2Proof/Safety.lean ====
section
/-! DEFINITION. What the statements are said with: runs and safe runs of the block, a command that the Queen core accepts,
a Worker's bundle that issues, the registers as every reader will see them, and what stays as it was. -/

namespace Sys2Proof.Machine

/-! Runs. -/

/-- One step answers this next state. -/
def Steps (s t : State) : Prop := step s = .next t

/-- A step is safe: it answers a next state. The spec gives the block no stop, so every step should be safe. -/
def SafeStep (s : State) : Prop := ∃ t, Steps s t

/-! Commands (02, R35 to R41). -/

/-- The state after a packet has left the ring and holds its tag. -/
def taken (p : Pkt) (s : State) : State := (s.consume p).addJob (Job.fresh .pcie p)

/-- The job of a packet that runs at once: its block as applied, its clamp mask, running (R38). -/
def begunJob (d : CmdDef) (p : Pkt) : Job := { applyJob d (Job.fresh .pcie p) with phase := .running }

/-- The state in which a command's effect begins. -/
def begun (d : CmdDef) (p : Pkt) (s : State) : State := (taken p s).setJob (begunJob d p)

/-- A packet at the head of the submission ring is the command `d` and meets every check (R27, R35, R36): the Queen core
fetches, the length is usable, the tag is free and no `SYS_ABORT` waits for it, no command before it waits unless it is a `SYS_ABORT`
(R49), and steps 2 to 10 find nothing. -/
structure Passes (d : CmdDef) (p : Pkt) (s : State) : Prop where
  fetches : s.canFetch = true
  usable  : s.unusable p = false
  code    : p.opcode = d.code
  free    : s.tagUsed ⟨.pcie, p.tag⟩ = false
  calm    : s.abortAsked ⟨.pcie, p.tag⟩ = false
  turn    : s.mustWait .pcie p = false ∨ d.code = 0x0003
  checks  : acceptCheck d (taken p s) (Job.fresh .pcie p) = none

/-- It passes and is to run at once (R43): no comb die that it reaches has a stopped clock (01, R11), and its memory requests meet
no rekey (09, R278). -/
structure Accepted (d : CmdDef) (p : Pkt) (s : State) : Prop extends Passes d p s where
  now    : p.execAt = 0
  clocks : s.stuckAt p = none
  memory : s.waitsMemory p = false

/-- A parameter of a packet: the field of `width` bits from bit `lo` at packet offset `off` (02). -/
def param (p : Pkt) (off lo width : Nat) : Nat := fld p.block off lo width

/-- It still holds its tag, running, and has not replied (R48). -/
def StillRuns (s t : State) (p : Pkt) : Prop :=
  (∃ j ∈ t.queen.jobs, j.key = ⟨.pcie, p.tag⟩ ∧ j.phase = .running) ∧ t.queen.replies = s.queen.replies ∧
    t.hif = (s.consume p).hif

/-! Worker bundles (03). -/

/-- The registers as every later reader will see them: all writes on their way applied in program order (R70, R71). -/
def Worker.settled (k : Worker) : Regs := k.pend.foldl (fun r p => r.apply p.reg p.val) k.regs

/-- The registers that the move slots of a bundle write (R69). -/
def moveDests (b : Nat) : List Nat := [(slotsOf b).1.dest, (slotsOf b).2.dest].filterMap id

/-- A Worker's next bundle holds an operation and issues: it may issue, the bundle is legal, neither move faults, no address
comparator is enabled, no `DBG_STEP` counts it, and the bundle before it met no fault (R68, R69, R72, R89; 16, R437, R438). -/
structure Issues (s : State) (w : Fin 32) (opc : Nat) : Prop where
  may    : s.mayIssue w = true
  opcode : bitsOf (s.bundle w) 58 6 = opc
  legal  : s.bundleFault w = none
  quiet  : ∀ c : Fin 8, s.workers[w.val].dbg.comps[c.val].en = false
  noStep : s.workers[w.val].dbg.stepLeft = none
  lives  : s.workers[w.val].dying = none

/-- Registers after the reads of a bundle's slots: a read of `CYCL` latches `CYCH`, a scaled accumulator read that does not
fit sets `OVS` (R79; register number 49). -/
def State.afterReads (s : State) (w : Fin 32) (r : Regs) : Regs :=
  let k := s.workers[w.val]
  let srcs := [(slotsOf (s.bundle w)).1.source, (slotsOf (s.bundle w)).2.source].filterMap id
  { r with
    cych := if srcs.contains 49 then BitVec.ofNat 32 (k.cycl.toNat / 2 ^ 32) else r.cych
    ovs := r.ovs || srcs.any (readOvs k.opView) }

/-- The moves of a bundle applied to registers, after the operation's writes (R70). -/
def State.moved (s : State) (w : Fin 32) (r : Regs) : Regs :=
  (moveWrites s w s.workers[w.val].opView s.workers[w.val].addrView (slotsOf (s.bundle w)).1 (slotsOf (s.bundle w)).2).foldl
    (fun r p => r.apply p.reg p.val) r

/-- Data register `n` modulo 16. -/
def Regs.data (r : Regs) (n : Nat) : Word := r.d[n % 16]'(Nat.mod_lt _ (by decide))

/-- The data register that the four bits from bit `lo` of a Worker's next bundle name, as its operation reads it. -/
def State.operand (s : State) (w : Fin 32) (lo : Nat) : Word := s.workers[w.val].opView.data (bitsOf (s.bundle w) lo 4)

/-- The flags as operations read them: Z 0, N 1, C 2, V 3. -/
def State.flag (s : State) (w : Fin 32) (i : Nat) : Bool := s.workers[w.val].opView.flags.getLsbD i

/-- A result put into the data register that a bundle's destination field names, unless a move of the bundle writes it too
(R70). -/
def withResult (b : Nat) (v : Word) (r : Regs) : Regs :=
  if bitsOf b 54 4 ∈ moveDests b then r
  else { r with d := r.d.set (bitsOf b 54 4 % 16) v (Nat.mod_lt _ (by decide)) }

/-- The flags Z, N, C, V put in place of those that a mask (bit order Z, N, C, V) names, unless a move of the bundle writes
`WSTAT` too (R70). -/
def withFlags (b : Nat) (mask : BitVec 4) (z n c v : Bool) (r : Regs) : Regs :=
  if 44 ∈ moveDests b then r
  else { r with flags := (r.flags &&& ~~~mask) |||
    (mask &&& (BitVec.ofBool v ++ BitVec.ofBool c ++ BitVec.ofBool n ++ BitVec.ofBool z)) }

/-- An accumulator written by an operation: a move of the bundle that writes its `h` part discards the whole value, one that
writes its `l` or `g` part discards that part (R70). -/
def withAcc (b n : Nat) (v : BitVec 72) (old r : Regs) : Regs :=
  if 16 + n % 4 ∈ moveDests b then r
  else
    let o : BitVec 72 := old.acc[n % 4]'(Nat.mod_lt _ (by decide))
    let low : BitVec 32 := if 20 + n % 4 ∈ moveDests b then o.extractLsb' 0 32 else v.extractLsb' 0 32
    let guard : BitVec 8 := if 24 + n % 4 ∈ moveDests b then o.extractLsb' 64 8 else v.extractLsb' 64 8
    { r with acc := r.acc.set (n % 4) (guard ++ v.extractLsb' 32 32 ++ low) (Nat.mod_lt _ (by decide)) }

/-- `OVS` set where a true value does not fit 72 bits, unless a move of the bundle writes `WSTAT` too (R70, R78). -/
def withOvs (b : Nat) (i : Int) (r : Regs) : Regs :=
  if 44 ∈ moveDests b ∨ (-(2 ^ 71) ≤ i ∧ i < 2 ^ 71) then r else { r with ovs := true }

/-- An exact result accumulated: wrapped at 72 bits, with `OVS` (R78). -/
def accumulated (b n : Nat) (i : Int) (old r : Regs) : Regs := withOvs b i (withAcc b n (BitVec.ofInt 72 i) old r)

/-- Accumulator `n` modulo 4 as operations read it, as an integer. -/
def State.accOf (s : State) (w : Fin 32) (n : Nat) : Int :=
  (s.workers[w.val].opView.acc[n % 4]'(Nat.mod_lt _ (by decide))).toInt

/-- The product of two factors under the sign field of format MAC: 0 both signed, 1 both unsigned, 2 the first signed. -/
def signedProduct {n : Nat} (x y : BitVec n) (sign : Nat) : Int :=
  (if sign = 1 then (x.toNat : Int) else x.toInt) * (if sign = 0 then y.toInt else (y.toNat : Int))

/-- A bundle has executed: its operation makes `own` of the registers, its moves follow (R70), its Worker runs on, and memory
keeps every byte but those of stores whose distance is spent (R71). -/
structure Executed (s t : State) (w : Fin 32) (own : Regs → Regs) : Prop where
  regs   : t.workers[w.val].settled = s.moved w (own (s.afterReads w s.workers[w.val].settled))
  runs   : t.workers[w.val].st = .running
  memory : ∀ a, (∀ p ∈ s.workers[w.val].stores, p.left ≤ 1 → ¬ (p.addr ≤ a ∧ a < p.addr + 4)) → t.mem.byte a = s.mem.byte a

/-- Only a Worker and device memory have changed. -/
structure OnlyWorker (s t : State) (w : Fin 32) : Prop where
  rest   : t = { s with workers := t.workers, mem := t.mem }
  others : ∀ v : Fin 32, v ≠ w → t.workers[v.val] = s.workers[v.val]

/-- The bundle behind this one is next, outside delay slots and repeats (R73, R74). -/
def Sequential (s t : State) (w : Fin 32) : Prop :=
  s.workers[w.val].delay = none → s.workers[w.val].reps = [] → t.workers[w.val].pc = s.workers[w.val].pc + 1

/-- A bundle has executed, nothing else has changed, and the next bundle is the one behind it. -/
structure Retired (s t : State) (w : Fin 32) (own : Regs → Regs) : Prop extends Executed s t w own, OnlyWorker s t w where
  next : Sequential s t w

/-- The rows of the Worker's operations with their opcodes, `nop` apart (03, table of operations). -/
def workerRows : List ((Fin 32 → WEcc → Instr) × Nat) :=
  [(.end_, 0x01), (.add, 0x02), (.sub, 0x03), (.adc, 0x04), (.sbc, 0x05), (.and_, 0x06), (.or_, 0x07), (.xor_, 0x08),
   (.andn, 0x09), (.cmp, 0x0A), (.lsl, 0x0B), (.lsr, 0x0C), (.asr, 0x0D), (.ror, 0x0E), (.shi, 0x0F), (.addi, 0x10),
   (.cmpi, 0x11), (.ldi, 0x12), (.mac, 0x18), (.mac2, 0x19), (.aop, 0x1A), (.bra, 0x20), (.call, 0x21), (.ret, 0x22),
   (.rti, 0x23), (.jmpr, 0x24), (.rep, 0x25), (.vec, 0x28), (.vecr, 0x29), (.vmatch, 0x2A), (.vmark, 0x2B), (.vwait, 0x2C),
   (.lck, 0x30), (.ulk, 0x31), (.sig, 0x32), (.wdr, 0x33)]

/-- A Worker is FAULTED with a code: it owns no semaphore, and its event is active (03, R86, R89). -/
structure FaultedWith (s t : State) (w : Fin 32) (code : Nat) : Prop where
  state : t.workers[w.val].st = .faulted
  code  : t.workers[w.val].regs.wfault = BitVec.ofNat 8 code
  pc    : t.workers[w.val].endPc = s.workers[w.val].pc
  sems  : ∀ i : Fin 256, t.queen.sems[i.val] ≠ some ⟨w.val, by omega⟩
  event : t.ev.src[(dieEvent (workerDie w) ⟨w.val % 8, by omega⟩).val].active = true

/-- A stalled Worker's bundle holds an operation and issues again: it runs on, gives way to nothing, and the bundle is legal
and meets no comparator and no step, behind no fault (R72, R89). -/
structure Reissues (s : State) (w : Fin 32) (opc : Nat) : Prop where
  runs   : s.workers[w.val].st = .running
  alive  : s.workerAlive w = true
  first  : s.stallYields w = false
  opcode : bitsOf (s.bundle w) 58 6 = opc
  legal  : s.bundleFault w = none
  quiet  : ∀ c : Fin 8, s.workers[w.val].dbg.comps[c.val].en = false
  noStep : s.workers[w.val].dbg.stepLeft = none
  lives  : s.workers[w.val].dying = none

/-- A Worker has left the running states: it owns no semaphore and holds no write back (03, R86, R91). -/
structure LeftWith (s t : State) (w : Fin 32) (st : WSt) : Prop where
  state : t.workers[w.val].st = st
  pc    : t.workers[w.val].endPc = s.workers[w.val].pc
  regs  : t.workers[w.val].regs = s.workers[w.val].settled ∧ t.workers[w.val].pend = [] ∧ t.workers[w.val].stores = []
  sems  : ∀ i : Fin 256, t.queen.sems[i.val] ≠ some ⟨w.val, by omega⟩
  others : ∀ v : Fin 32, v ≠ w → t.workers[v.val] = s.workers[v.val]

/-- An event is active with its count one higher, and unmasked it stands in the pending latch (18, R459, R460). -/
structure Raised (s t : State) (e : Fin 256) : Prop where
  active : t.ev.src[e.val].active = true
  count  : t.ev.src[e.val].count = satAdd s.ev.src[e.val].count 1
  latch  : s.ev.src[e.val].mask = false → ∃ r ∈ t.ev.latch, r.event = e

/-- One group and no other has changed. -/
def OneGroup (s t : State) (g : Fin 16) : Prop := ∀ h : Fin 16, h ≠ g → t.groups[h.val] = s.groups[h.val]

/-- One group and nothing else has changed. -/
def OnlyGroup (s t : State) (g : Fin 16) : Prop := t = { s with groups := t.groups } ∧ OneGroup s t g

/-- The effective time of edge `e` of a pin in cycle `c` of the play that starts at the group's next boundary: the boundary,
the periods before the cycle, the edge of the timing set and the offset `o` of the pin (04, R95, R102). -/
def edgeTime (x : Group) (e : Entry) (c : Nat) (p : Fin 8) (edge o : Fin 4) : Int :=
  x.run.nextAt + c * (x.sets[e.set.val]).periodTu + (x.sets[e.set.val]).edge p.val edge.val + (x.pins[p.val].offsets)[o.val]

/-- The code that a pin plays in cycle `c` of the play that starts at the group's next boundary. -/
def playedCode (x : Group) (e : Entry) (c : Nat) (p : Fin 8) : Nat :=
  (x.code (x.sets[e.set.val]).fast e.word (if x.tapEn then x.run.tapGot.head? else none) c p.val).1

/-- A play of an entry has started at the group's next boundary (04, R93 to R105, R114): the group counts it, the boundary
moves by the word's cycles, the transitions and compares of every cycle stand in the pins' queues behind those before, and
`CYCLE` reads its last test cycle. -/
structure Played (s t : State) (g : Fin 16) (e : Entry) : Prop where
  st      : t.groups[g.val].st = .playing
  cur     : t.groups[g.val].run.cur = some e
  at_     : t.groups[g.val].run.nextAt =
    s.groups[g.val].run.nextAt + (s.groups[g.val].sets[e.set.val]).cycles * (s.groups[g.val].sets[e.set.val]).periodTu
  cycles  : t.groups[g.val].run.nextCycle = s.groups[g.val].run.nextCycle + (s.groups[g.val].sets[e.set.val]).cycles
  cycle   : t.groups[g.val].cycle =
    BitVec.ofNat 48 (s.groups[g.val].run.nextCycle + (s.groups[g.val].sets[e.set.val]).cycles - 1)
  drives  : ∀ (p : Fin 8) (c : Nat) (v : Bool), c < (s.groups[g.val].sets[e.set.val]).cycles →
    (codeActs (playedCode s.groups[g.val] e c p)).2.1 = some v →
    (⟨edgeTime s.groups[g.val] e c p 0 0, v, s.groups[g.val].run.nextCycle + c, false⟩ : Trans) ∈
      t.groups[g.val].pins[p.val].fmt.txq
  returns : ∀ (p : Fin 8) (c : Nat) (v : Bool), c < (s.groups[g.val].sets[e.set.val]).cycles →
    (codeActs (playedCode s.groups[g.val] e c p)).2.2.1 = some v →
    (⟨edgeTime s.groups[g.val] e c p 2 0, v, s.groups[g.val].run.nextCycle + c, true⟩ : Trans) ∈
      t.groups[g.val].pins[p.val].fmt.txq
  enables : ∀ (p : Fin 8) (c : Nat) (v : Bool), c < (s.groups[g.val].sets[e.set.val]).cycles →
    (codeActs (playedCode s.groups[g.val] e c p)).1 = some v →
    (⟨edgeTime s.groups[g.val] e c p 1 1, v, s.groups[g.val].run.nextCycle + c, false⟩ : Trans) ∈
      t.groups[g.val].pins[p.val].fmt.txeq
  strobes : ∀ (p : Fin 8) (c : Nat), c < (s.groups[g.val].sets[e.set.val]).cycles →
    (codeActs (playedCode s.groups[g.val] e c p)).2.2.2 = true → isWindow (playedCode s.groups[g.val] e c p) = false →
    (⟨BitVec.ofNat 4 (playedCode s.groups[g.val] e c p),
      if usesRxl (playedCode s.groups[g.val] e c p) then none else some (edgeTime s.groups[g.val] e c p 3 2),
      if usesRxl (playedCode s.groups[g.val] e c p) || playedCode s.groups[g.val] e c p = 10 then
        some (edgeTime s.groups[g.val] e c p 3 3) else none,
      edgeTime s.groups[g.val] e c p 3 (if usesRxl (playedCode s.groups[g.val] e c p) then 3 else 2), false,
      s.groups[g.val].run.nextCycle + c, e.match_.map (fun i => (i, s.groups[g.val].run.nextCycle)), none⟩ : Compare) ∈
      t.groups[g.val].pins[p.val].fmt.strobes
  earlier : ∀ p : Fin 8, s.groups[g.val].pins[p.val].fmt.txq <+: t.groups[g.val].pins[p.val].fmt.txq ∧
    s.groups[g.val].pins[p.val].fmt.txeq <+: t.groups[g.val].pins[p.val].fmt.txeq ∧
    s.groups[g.val].pins[p.val].fmt.strobes <+: t.groups[g.val].pins[p.val].fmt.strobes
  others  : OneGroup s t g
  rest    : t = { s with groups := t.groups, workers := t.workers }

/-! Commands that complete (02, R38, R40, R48). -/

/-- The parameter block of a packet as the command applies it, clamped (R38). -/
def applied (d : CmdDef) (p : Pkt) : Words := appliedBlock (d.fields p) p.block

/-- The clamp mask of a packet's reply (R38). -/
def clamped (d : CmdDef) (p : Pkt) : BitVec 64 := clampMask (d.fields p) p.block

/-- A command has completed: its reply is queued last, `DONE` or with a clamped field `DONE_CLAMPED`, with the block as applied
and its results; its tag is held by that reply alone, and the ring's head has moved past its packet (R28, R38, R40, R41). -/
structure Completed (d : CmdDef) (p : Pkt) (s t : State) (result : Words) : Prop where
  reply : ∃ r : Reply, t.queen.replies = s.queen.replies ++ [r] ∧ r.key = ⟨.pcie, p.tag⟩ ∧ r.holds = true ∧
    r.words = replyWords t p.opcode p.tag (if clamped d p = 0 then stDone else stClamped) 0xFF false (clamped d p)
      (echoOf (echoEndOf p.opcode) (applied d p) ++ result)
  jobs  : t.queen.jobs = s.queen.jobs
  ring  : t.hif = (s.consume p).hif

/-- A job of the PCIe path that an event may end: it holds its tag, its reply is wanted, and no `SYS_ABORT` waits for it. -/
structure Endable (s : State) (j : Job) : Prop where
  held  : s.job? j.key = some j
  path  : j.key.path = .pcie
  kept  : j.discard = false
  calm  : s.abortAsked j.key = false

/-- A job has ended with a status, a clamp mask and a body: its reply is queued last and alone holds its tag (R40, R41, R48). -/
structure Ended (j : Job) (s t : State) (st : Status) (mask : BitVec 64) (body : Words) : Prop where
  reply : ∃ r : Reply, t.queen.replies = s.queen.replies ++ [r] ∧ r.key = j.key ∧ r.holds = true ∧
    r.words = replyWords t j.p.opcode j.key.tag st 0xFF j.late mask body
  jobs  : t.queen.jobs = s.queen.jobs.filter fun i => !sameKey i.key j.key

/-- A job has ended `DONE`, or `DONE_CLAMPED`, with its block as applied and its results (R40). -/
def EndedDone (j : Job) (s t : State) (result : Words) : Prop :=
  Ended j s t (if j.mask = 0 then stDone else stClamped) j.mask (echoOf (echoEndOf j.p.opcode) j.args ++ result)

/-- An inbound edge word of a die (07, R207). -/
def State.edgeWord (s : State) (d : Fin 4) (column word : Nat) : Nat := (sparseGet s.fab[d.val].edgeIn (4 * column + word)).toNat

/-- A die's edge words are held in canonical form. -/
def State.edgesRise (s : State) (d : Fin 4) : Prop := (s.fab[d.val].edgeIn.map (·.1)).Pairwise (· < ·)

/-- The rows of the commands with their definitions (19, R473). Written in parts. -/
def commandRows : List ((Pkt → Instr) × CmdDef) :=
  [(.sysNop, cmdSysNop), (.sysIdentify, cmdSysIdentify), (.sysInventory, cmdSysInventory), (.sysAbort, cmdSysAbort),
   (.sysReset, cmdSysReset), (.sysStatus, cmdSysStatus), (.modeGet, cmdModeGet), (.modeSet, cmdModeSet),
   (.pwrDomainSet, cmdPwrDomainSet), (.pwrDomainGet, cmdPwrDomainGet), (.pwrBudgetSet, cmdPwrBudgetSet),
   (.pwrLimitsSet, cmdPwrLimitsSet), (.pwrTelemetry, cmdPwrTelemetry), (.clkStatus, cmdClkStatus),
   (.clkSelect, cmdClkSelect), (.clkOutSet, cmdClkOutSet), (.clkMeasure, cmdClkMeasure), (.cfgStage, cmdCfgStage),
   (.cfgLoad, cmdCfgLoad), (.cfgRegionLoad, cmdCfgRegionLoad), (.cfgRegionStart, cmdCfgRegionStart),
   (.cfgRegionStop, cmdCfgRegionStop), (.cfgReadback, cmdCfgReadback), (.cfgBootRecordSet, cmdCfgBootRecordSet),
   (.cfgProbeSet, cmdCfgProbeSet), (.portSet, cmdPortSet), (.portGet, cmdPortGet), (.portStart, cmdPortStart),
   (.portStop, cmdPortStop), (.portLinkStatus, cmdPortLinkStatus), (.portDetect, cmdPortDetect), (.portPrbs, cmdPortPrbs),
   (.timTimingSet, cmdTimTimingSet), (.timDeskew, cmdTimDeskew), (.timSiteMap, cmdTimSiteMap), (.workLoad, cmdWorkLoad),
   (.workStart, cmdWorkStart), (.workStop, cmdWorkStop), (.workStatus, cmdWorkStatus), (.workStreamSet, cmdWorkStreamSet),
   (.workSignal, cmdWorkSignal), (.failSet, cmdFailSet), (.failCounts, cmdFailCounts), (.failClear, cmdFailClear),
   (.broodGeometry, cmdBroodGeometry), (.broodPartition, cmdBroodPartition), (.broodSolve, cmdBroodSolve),
   (.broodResult, cmdBroodResult), (.broodClear, cmdBroodClear), (.memStatus, cmdMemStatus), (.memTrain, cmdMemTrain),
   (.memThaw, cmdMemThaw), (.memRekey, cmdMemRekey), (.memCopy, cmdMemCopy), (.memFill, cmdMemFill),
   (.netStatus, cmdNetStatus), (.netLaneRemap, cmdNetLaneRemap), (.netCreditAudit, cmdNetCreditAudit),
   (.netDieReset, cmdNetDieReset), (.netDieFence, cmdNetDieFence), (.netLatencyLock, cmdNetLatencyLock),
   (.swarmNeighbours, cmdSwarmNeighbours), (.swarmIdSet, cmdSwarmIdSet), (.swarmRouteSet, cmdSwarmRouteSet),
   (.swarmLinkSet, cmdSwarmLinkSet), (.swarmForward, cmdSwarmForward), (.timeGet, cmdTimeGet), (.timeSet, cmdTimeSet),
   (.timeAdjust, cmdTimeAdjust), (.timeSyncSet, cmdTimeSyncSet), (.timeJumpLimit, cmdTimeJumpLimit),
   (.secAttest, cmdSecAttest), (.secOwnerEnrol, cmdSecOwnerEnrol), (.secCounterAdvance, cmdSecCounterAdvance),
   (.secNvStatus, cmdSecNvStatus), (.secNvRefresh, cmdSecNvRefresh), (.secCertGet, cmdSecCertGet), (.bistRun, cmdBistRun),
   (.bistResult, cmdBistResult), (.bistCommit, cmdBistCommit), (.bistExpectSet, cmdBistExpectSet),
   (.dbgUnlock, cmdDbgUnlock), (.dbgHalt, cmdDbgHalt), (.dbgResume, cmdDbgResume), (.dbgRead, cmdDbgRead),
   (.dbgWrite, cmdDbgWrite), (.dbgBreakSet, cmdDbgBreakSet), (.dbgXtrigSet, cmdDbgXtrigSet), (.dbgStep, cmdDbgStep),
   (.evtMaskSet, cmdEvtMaskSet), (.evtRouteSet, cmdEvtRouteSet), (.evtStatus, cmdEvtStatus), (.evtAck, cmdEvtAck)]

/-- A packet of the ring has reached the checks of its command (R27, R34 to R37): all of `Passes` but their outcome. -/
structure Fetched (d : CmdDef) (p : Pkt) (s : State) : Prop where
  fetches : s.canFetch = true
  usable  : s.unusable p = false
  code    : p.opcode = d.code
  free    : s.tagUsed ⟨.pcie, p.tag⟩ = false
  calm    : s.abortAsked ⟨.pcie, p.tag⟩ = false
  turn    : s.mustWait .pcie p = false ∨ d.code = 0x0003

/-- A packet is refused (R35, R40, R41): its reply carries the status and the parameter index, a clamp mask of zero and no body,
and alone holds its tag; the ring's head has moved past it. -/
structure RefusedWith (p : Pkt) (s t : State) (v : Verdict) : Prop where
  reply : ∃ r : Reply, t.queen.replies = s.queen.replies ++ [r] ∧ r.key = ⟨.pcie, p.tag⟩ ∧ r.holds = true ∧
    r.words = replyWords t p.opcode p.tag v.status v.idx false 0 []
  jobs  : t.queen.jobs = s.queen.jobs
  ring  : t.hif = (s.consume p).hif

/-- No command waits on a Worker: no stop, halt or step of one is under way, and no start is before its instant. -/
structure NoneWaits (s : State) : Prop where
  stops  : s.queen.stopJobs = []
  halts  : s.dbg.haltJobs = []
  steps  : ∀ w : Fin 32, s.workers[w.val].dbg.stepJob = none
  starts : s.starts = []
  jobs   : ∀ j ∈ s.queen.jobs, (j.isStart && j.isScheduled) = false

/-- What every device reset leaves (12, R356, R359): the device is in BOOT, its Workers are EMPTY, no command holds a tag and
nothing waits, and the time bases, the servo and what is stored in the NV store stand. -/
structure DeviceWasReset (s t : State) : Prop where
  mode    : t.rsc.mode = .boot
  last    : t.rsc.lastReset = 1
  workers : ∀ w : Fin 32, t.workers[w.val].st = .empty
  groups  : ∀ g : Fin 16, t.groups[g.val].st = .idle
  jobs    : t.queen.jobs = [] ∧ t.queen.replies = [] ∧ t.queen.up = false ∧ t.starts = []
  time    : t.tb = s.tb ∧ t.servo = s.servo
  stored  : t.sec.owner = s.sec.owner ∧ t.sec.counters = s.sec.counters ∧ t.sec.nv = s.sec.nv ∧ t.sec.bootRecs = s.sec.bootRecs
  rings   : t.hif.subEn = false ∧ t.hif.repEn = false ∧ t.hif.evtEn = false
  none_   : t.rsc.deferred = none ∧ t.rsc.armedReset = none

/-- What every loss of power leaves (12, R356; 14, R387): the machine of a power-on but for what is fused, fitted or stored, and
the cause of the loss. A write of the NV store in progress tears its block (12, R358; 15, R419). -/
structure PowerWasLost (s t : State) (sup : Supply) (cause : BitVec 8) : Prop where
  supply  : t.pwr.supply = sup
  cause   : t.pwr.lastOff = cause
  mode    : t.rsc.mode = .boot
  workers : t.workers = State.reset.workers
  domains : t.pwr.domains = State.reset.pwr.domains
  rings   : t.hif = State.reset.hif
  queen   : t.queen = State.reset.queen
  time    : t.tb = State.reset.tb
  stored  : t.sec.owner = s.sec.owner ∧ t.sec.counters = s.sec.counters ∧
    (s.sec.nvJobs = [] → t.sec.nv = s.sec.nv ∧ t.sec.bootRecs = s.sec.bootRecs)

/-! Device memory (02, R22 to R24; 09). -/

/-- No staging slot is sealed (08, R239). -/
def NoneSealed (s : State) : Prop := ∀ n : Fin 4, s.cfg.slots[n.val].st ≠ .sealed_

/-- Device memory holds these bytes from an address upwards, and every other byte as before. -/
def Wrote (s t : State) (a : Nat) (bs : Bytes) : Prop :=
  (∀ i, i < bs.length → t.mem.byte (a + i) = bs.getD i 0) ∧
    ∀ b, ¬ (a ≤ b ∧ b < a + bs.length) → t.mem.byte b = s.mem.byte b

/-- Device memory holds the bytes it held. -/
def KeepsBytes (s t : State) : Prop := ∀ b, t.mem.byte b = s.mem.byte b

/-- Every stack serves (R258, R261, R269, R275, R278; 10, R283): trained, powered and keyed, reached by every requester, nothing
poisoned, no counter near its end, no rekey or test under way, and no staging slot sealed. -/
structure HbmServes (s : State) : Prop where
  gate  : ∀ n : Fin 4, s.stackGate n = none
  routes : ∀ (q : Requester) (n : Fin 4), s.reaches (requesterUnit q) (.hbm n false) = true
  clean : s.mem.poison = [] ∧ ∀ n : Fin 4, s.mem.hbm[n.val].poisonFull = false
  low   : (∀ b, countGet s.mem.secCtr b < 2 ^ 63) ∧ ∀ c, countGet s.mem.nodeCtr c < 2 ^ 63
  free  : s.mem.rekey = none ∧ ∀ n : Fin 4, s.underTest ⟨7 + n.val, by omega⟩ = false
  open_ : NoneSealed s

/-- Hive SRAM is reached from a unit over the network, and answers it (10, R283): its routers are those of columns 0 to 5. -/
def State.sramReached (s : State) (q : NetUnit) : Prop := ∀ r : Fin 32, r.val % 8 < 6 → s.reaches q (.sram r) = true

/-! What every step keeps. -/

/-- A ring's setting is legal (02, R25, R27): 2⁷ to 2¹⁹ slots, a base on 4 KiB, and while it is enabled no more slots in use than
it has. -/
structure RingLegal (size : BitVec 5) (base : BitVec 64) (en : Bool) (used : BitVec 32) : Prop where
  inSize : 7 ≤ size.toNat ∧ size.toNat ≤ 19
  onPage : base.toNat % 4096 = 0
  inRoom : en = true → used.toNat ≤ 2 ^ size.toNat

/-- The three rings are legal. -/
structure Hif.Legal (h : Hif) : Prop where
  sub : RingLegal h.subSize h.subBase h.subEn (h.subBell - h.subHead)
  rep : RingLegal h.repSize h.repBase h.repEn (h.repTail - h.repBell)
  evt : RingLegal h.evtSize h.evtBase h.evtEn (h.evtTail - h.evtBell)

/-- The nanoseconds of every time base are below a second (11, R330). -/
def State.timeLegal (s : State) : Prop := ∀ b : Fin 8, s.tb[b.val].ns.toNat < 1000000000

end Sys2Proof.Machine
end

