-- ==== Sys2Proof/Certificates/Slice0/Obligations.lean ====
section
/-! DEFINITION. What is claimed of the model, for the provers: each statement says which rules of spec/ it formalises. -/

open Sys2Proof Sys2Proof.Machine

/-! One step. -/

/-- A step runs the row at the front of the queue on the state with the queue's rest. -/
def Obligations.StepRunsFront : Prop :=
  ∀ (c : Instr) (s : State), step { s with pending := c :: s.pending } = exec c s

/-- No row stops the block: every one of the 290 answers a next state, whatever the state. That an event whose condition does
not hold, and an access that nothing answers, run and change nothing is the model's choice (DESIGN CHOICE, log entry 1).
Rows complete (02, R27 to R32, R35, R38, R40; 08, R230, R246; 07, R193, R218, R221; 18, R458, R460, R461; 16, R426 to R429,
R444): a CFG command of regions, readback status or probes and an EVT command that meet every check reply as done; a length no
packet can have empties the ring; replies and event records go to their rings; each TAP instruction is loaded with its effect (a
TAP reset loads 0x01: PRESUMED, log entry 13); and a fabric cycle is counted and a capture ends.
The rescue rows complete (02, R53 to R56; 12, R356; 18, R461): a packet with a right error code goes to its command, a reply and
the registers are read, an acknowledgement clears the active bits, and `RSC_RESET` with its key and scope resets. -/
def Obligations.EveryRowAnswers : Prop :=
  (∀ (c : Instr) (s : State), ∃ t, exec c s = .next t) ∧
  (∀ (s : State) (p : Pkt),
     (Accepted cmdCfgRegionStart p s → ∃ t ws, exec (.cfgRegionStart p) s = .next t ∧ Completed cmdCfgRegionStart p s t ws) ∧
     (Accepted cmdCfgRegionStop p s → ∃ t ws, exec (.cfgRegionStop p) s = .next t ∧ Completed cmdCfgRegionStop p s t ws) ∧
     (Accepted cmdCfgReadback p s → param p 32 0 1 = 1 → ∃ t, exec (.cfgReadback p) s = .next t ∧
       Completed cmdCfgReadback p s t s.cfgStatus) ∧
     (Accepted cmdCfgProbeSet p s → ∃ t ws, exec (.cfgProbeSet p) s = .next t ∧ Completed cmdCfgProbeSet p s t ws) ∧
     (Accepted cmdEvtMaskSet p s → ∃ t, exec (.evtMaskSet p) s = .next t ∧ Completed cmdEvtMaskSet p s t []) ∧
     (Accepted cmdEvtRouteSet p s → ∃ t, exec (.evtRouteSet p) s = .next t ∧ Completed cmdEvtRouteSet p s t []) ∧
     (Accepted cmdEvtStatus p s → ∃ t, exec (.evtStatus p) s = .next t ∧ Completed cmdEvtStatus p s t s.evtStatusBody) ∧
     (Accepted cmdEvtAck p s → ∃ t, exec (.evtAck p) s = .next t ∧ Completed cmdEvtAck p s t []) ∧
     (s.canFetch = true → s.unusable p = true → s.tagUsed ⟨.pcie, p.tag⟩ = false → ∃ t r, exec (.subResync p) s = .next t ∧
       t.hif = { s.hif with subHead := s.hif.subBell, subResync := true } ∧
       t.queen = { s.queen with replies := s.queen.replies ++ [r] } ∧ r.key = ⟨.pcie, p.tag⟩ ∧
       r.words = replyWords t p.opcode p.tag (if p.version = 1 ∧ knownOpcode p.opcode = true then stBadLength else stBadOpcode)
         0xFE false 0 [] ∧ t = { s with hif := t.hif, queen := t.queen })) ∧
  (∀ (s : State) (r : Reply) (l : List Reply) (x : EvRec) (k : List EvRec) (v : Fin 64), s.hif.pcieUp = true →
     s.rsc.hib = .awake →
     (s.queen.replies = r :: l → s.queen.serves = true → s.queenClocked = true → s.hif.repEn = true → r.slots ≤ s.hif.repFree →
       r.after = .nothing → ∃ t, exec .replyWrite s = .next t ∧ t.queen = { s.queen with replies := l } ∧
         t.hif.repTail = s.hif.repTail + BitVec.ofNat 32 r.slots) ∧
     (s.ev.latch = x :: k → s.hif.evtEn = true → 0 < s.hif.evtFree → ∃ t, exec .eventWrite s = .next t ∧
       t.ev = { s.ev with latch := k } ∧ t.hif.evtTail = s.hif.evtTail + 1) ∧
     (s.hif.msixGap.getLsbD v.val = true → ∃ t, exec (.irqHoldoffExpiry v) s = .next t ∧
       t.hif.msixPba.getLsbD v.val = false)) ∧
  (∀ (s : State) (a b : List Bool) (bit : Bool) (v : Byte), s.pdOn 0 = true → s.rsc.mode = .maintain →
     (∃ t, exec .idcode s = .next t ∧ t.dbg.ir = 0x01) ∧
     (∃ t, exec (.samplePreload a b) s = .next t ∧ t.dbg.ir = 0x02 ∧ t.dbg.bsr = b) ∧
     (∃ t, exec (.extest a b) s = .next t ∧ t.dbg.ir = 0x03 ∧ t.dbg.bsr = b ∧ t.out = .scanDrive 0x03 b :: .tdo a :: s.out) ∧
     (∃ t, exec (.extestPulse a b) s = .next t ∧ t.dbg.ir = 0x04 ∧ t.dbg.bsr = b ∧
       t.out = .scanDrive 0x04 b :: .tdo a :: s.out) ∧
     (∃ t, exec (.extestTrain a b) s = .next t ∧ t.dbg.ir = 0x05 ∧ t.dbg.bsr = b ∧
       t.out = .scanDrive 0x05 b :: .tdo a :: s.out) ∧
     (∃ t, exec .clamp s = .next t ∧ t.dbg.ir = 0x06 ∧ t.out = .scanDrive 0x06 s.dbg.bsr :: s.out) ∧
     (∃ t, exec .highz s = .next t ∧ t.dbg.ir = 0x07 ∧ t.out = .scanDrive 0x07 [] :: s.out) ∧
     (∃ t, exec (.bypass bit) s = .next t ∧ t.dbg.ir = 0xFF) ∧
     (∃ t, exec (.dieSel v) s = .next t ∧ t.dbg.ir = 0x11 ∧ t.dbg.dieSel = v) ∧
     (scansPins s.dbg.ir = false → (∃ t o, exec (.dieScan a) s = .next t ∧ t.out = .tdo o :: s.out ∧ o.length = a.length) ∧
       (∃ t, exec (.dbgpkt [] none) s = .next t ∧ t.dbg.ir = 0x10 ∧ t.dbg.mailbox = []) ∧
       ∃ t, exec .tapReset s = .next t ∧ t.dbg = { s.dbg with ir := 0x01, mailbox := [], mailIn := [] })) ∧
  (∀ (s : State) (d : Fin 4) (sb : Nat),
     (s.fabricRuns d = true → ∃ t, exec (.fabricCycle sb [] []) s = .next t ∧ t.fab[d.val].fabCycle = s.fab[d.val].fabCycle + 1) ∧
     (s.fab[d.val].capture.st = .triggered → s.fab[d.val].capture.left = 0 → s.fab[d.val].capture.fifo = [] →
       ∃ t, exec (.captureComplete d) s = .next t ∧ t.fab[d.val].capture.st = .done)) ∧
  (∀ (s : State) (data : Bytes) (pec : Byte) (host : Option Bytes) (ptr : Byte) (n : Nat) (hi : Bool) (v : Word) (bs : BitVec 2),
     s.pdOn 0 = true → s.rsc.hib = .awake →
     let p := Pkt.ofWords (wordsOfBytes data) host
     let keyed (scope : Nat) : Prop := s.pecOk 0x18 (numBytes 4 v.toNat) pec = true ∧ bitsOf v.toNat 0 16 = 0x5155 ∧
       bitsOf v.toNat 16 2 = scope
     (s.queen.serves = true → s.queenClocked = true → s.tagsOn Path.isI2c < 4 → s.pecOk 0x80 data pec = true →
       data.length ≤ 1024 → p.length.toNat = data.length → exec (.i2cPacketWrite data pec host) s = .next (s.deliver .i2c p)) ∧
     (∃ t bytes, exec (.i2cReplyRead n) s = .next t ∧ t.out = .i2c bytes :: s.out ∧ bytes.length = n + 1 ∧
       t = { s with out := t.out, queen := t.queen }) ∧
     (ptr.toNat < 0x24 → ∃ t bytes, exec (.rscStatusRead ptr n) s = .next t ∧ t.out = .i2c bytes :: s.out ∧
       bytes.length = n + 1 ∧ t = { s with out := t.out, rsc := t.rsc }) ∧
     (s.pecOk (if hi then 0x10 else 0x0C) (numBytes 4 v.toNat) pec = true → ∃ t, exec (.rscEvtAck hi v pec) s = .next t ∧
       t = { s with ev := t.ev } ∧ ∀ i : Fin 32, v.getLsbD i.val = true →
         t.ev.src[i.val + (if hi then 32 else 0)]'(by split <;> omega) =
           { s.ev.src[i.val + (if hi then 32 else 0)]'(by split <;> omega) with active := false }) ∧
     (keyed 1 → s.rsc.startupDone = true → s.rsc.deferred = none → ∃ t, exec (.rscResetQueen v pec) s = .next t ∧
       t.queen.up = false ∧ t.rsc.lastReset = 2) ∧
     (keyed 2 → s.nvBusy = false → s.powerOnRuns = false → s.rsc.deferred = none →
       ∃ t, exec (.rscResetDevice v pec bs) s = .next t ∧ DeviceWasReset s t))

/-! Worker bundles (03_worker_cores.md). -/

/-- Arithmetic (operations 0x02 to 0x05 and 0x10): the sum or difference and all four flags; C is the carry out, or for a
difference 1 where no borrow occurred; V is signed overflow. The frame: everything but the Worker and its stores. -/
def Obligations.ArithmeticResults : Prop :=
  ∀ (s : State) (w : Fin 32), s.mem.wf = true →
    let b := s.bundle w
    let x := s.operand w 50
    let y := s.operand w 46
    let c : Nat := if s.flag w 2 then 1 else 0
    let imm : Word := (BitVec.ofNat 10 (bitsOf b 40 10)).signExtend 32
    let result (v : Word) (carry : Bool) (exact_ : Int) (t : State) : Prop :=
      Retired s t w fun r => withFlags b 15 (v = 0) v.msb carry (exact_ ≠ v.toInt) (withResult b v r)
    (Issues s w 0x02 → ∃ t, exec (.add w .ok) s = .next t ∧
      result (x + y) (2 ^ 32 ≤ x.toNat + y.toNat) (x.toInt + y.toInt) t) ∧
    (Issues s w 0x03 → ∃ t, exec (.sub w .ok) s = .next t ∧
      result (x - y) (y.toNat ≤ x.toNat) (x.toInt - y.toInt) t) ∧
    (Issues s w 0x04 → ∃ t, exec (.adc w .ok) s = .next t ∧
      result (x + y + BitVec.ofNat 32 c) (2 ^ 32 ≤ x.toNat + y.toNat + c) (x.toInt + y.toInt + c) t) ∧
    (Issues s w 0x05 → ∃ t, exec (.sbc w .ok) s = .next t ∧
      result (x - y - BitVec.ofNat 32 (1 - c)) (y.toNat + (1 - c) ≤ x.toNat) (x.toInt - y.toInt - (1 - c : Nat)) t) ∧
    (Issues s w 0x10 → ∃ t, exec (.addi w .ok) s = .next t ∧
      result (x + imm) (2 ^ 32 ≤ x.toNat + imm.toNat) (x.toInt + imm.toInt) t)

/-- Comparisons (0x0A, 0x11) write the flags of the difference and no result; `ldi` (0x12) writes its 32-bit immediate and no
flag; `nop` (0x00) writes nothing.
Logic and shifts (0x06 to 0x09, 0x0B to 0x0F): the result, Z and N; a shift also writes C with the last bit shifted out,
which an amount of 0 leaves as it was; other flags stay. -/
def Obligations.LogicCompareAndShifts : Prop :=
  (∀ (s : State) (w : Fin 32), s.mem.wf = true →
     let b := s.bundle w
     let x := s.operand w 50
     let y := s.operand w 46
     let imm : Word := (BitVec.ofNat 10 (bitsOf b 40 10)).signExtend 32
     let compared (y : Word) (t : State) : Prop :=
       Retired s t w (withFlags b 15 (x = y) (x - y).msb (y.toNat ≤ x.toNat) (x.toInt - y.toInt ≠ (x - y).toInt))
     (Issues s w 0x0A → ∃ t, exec (.cmp w .ok) s = .next t ∧ compared y t) ∧
     (Issues s w 0x11 → ∃ t, exec (.cmpi w .ok) s = .next t ∧ compared imm t) ∧
     (Issues s w 0x12 → ∃ t, exec (.ldi w .ok) s = .next t ∧ Retired s t w (withResult b (BitVec.ofNat 32 (bitsOf b 20 32)))) ∧
     (Issues s w 0x00 → ∃ t, exec (.nop w .ok) s = .next t ∧ Retired s t w id)) ∧
  (∀ (s : State) (w : Fin 32), s.mem.wf = true →
     let b := s.bundle w
     let x := s.operand w 50
     let y := s.operand w 46
     let n := y.toNat % 32
     let k := bitsOf b 43 5
     let c := s.flag w 2
     let logic (v : Word) (t : State) : Prop :=
       Retired s t w fun r => withFlags b 3 (v = 0) v.msb false false (withResult b v r)
     let shift (v : Word) (n : Nat) (out : Bool) (t : State) : Prop :=
       Retired s t w fun r => withFlags b 7 (v = 0) v.msb (if n = 0 then c else out) false (withResult b v r)
     (Issues s w 0x06 → ∃ t, exec (.and_ w .ok) s = .next t ∧ logic (x &&& y) t) ∧
     (Issues s w 0x07 → ∃ t, exec (.or_ w .ok) s = .next t ∧ logic (x ||| y) t) ∧
     (Issues s w 0x08 → ∃ t, exec (.xor_ w .ok) s = .next t ∧ logic (x ^^^ y) t) ∧
     (Issues s w 0x09 → ∃ t, exec (.andn w .ok) s = .next t ∧ logic (x &&& ~~~y) t) ∧
     (Issues s w 0x0B → ∃ t, exec (.lsl w .ok) s = .next t ∧ shift (x <<< n) n (x.getLsbD (32 - n)) t) ∧
     (Issues s w 0x0C → ∃ t, exec (.lsr w .ok) s = .next t ∧ shift (x >>> n) n (x.getLsbD (n - 1)) t) ∧
     (Issues s w 0x0D → ∃ t, exec (.asr w .ok) s = .next t ∧ shift (x.sshiftRight n) n (x.getLsbD (n - 1)) t) ∧
     (Issues s w 0x0E → ∃ t, exec (.ror w .ok) s = .next t ∧ shift (x.rotateRight n) n (x.getLsbD (n - 1)) t) ∧
     (Issues s w 0x0F → ∃ t, exec (.shi w .ok) s = .next t ∧
       shift (match bitsOf b 48 2 with
         | 0 => x <<< k
         | 1 => x >>> k
         | 2 => x.sshiftRight k
         | _ => x.rotateRight k) k (if bitsOf b 48 2 = 0 then x.getLsbD (32 - k) else x.getLsbD (k - 1)) t))

/-- The accumulator operations (0x18 to 0x1A; R70, R78): the exact result wraps at 72 bits, and one that does not fit sets
`OVS`; `mac2` multiplies the low halves into the even accumulator of its pair and the high halves into the odd one. -/
def Obligations.AccumulatorResults : Prop :=
  ∀ (s : State) (w : Fin 32), s.mem.wf = true →
    let b := s.bundle w
    let old := s.workers[w.val].opView
    let x := s.operand w 52
    let y := s.operand w 48
    let sign := bitsOf b 46 2
    let into (n : Nat) (p : Int) : Int :=
      (if bitsOf b 44 1 = 1 then 0 else s.accOf w n) + if bitsOf b 45 1 = 1 then -p else p
    let n := bitsOf b 56 2
    let m := 2 * bitsOf b 57 1
    let src := s.accOf w (bitsOf b 54 2)
    (Issues s w 0x18 → ∃ t, exec (.mac w .ok) s = .next t ∧
      Retired s t w (accumulated b n (into n (signedProduct x y sign)) old)) ∧
    (Issues s w 0x19 → ∃ t, exec (.mac2 w .ok) s = .next t ∧
      Retired s t w fun r => accumulated b (m + 1)
        (into (m + 1) (signedProduct (x.extractLsb' 16 16) (y.extractLsb' 16 16) sign)) old
        (accumulated b m (into m (signedProduct (x.extractLsb' 0 16) (y.extractLsb' 0 16) sign)) old r)) ∧
    (Issues s w 0x1A → ∃ t, exec (.aop w .ok) s = .next t ∧
      Retired s t w (accumulated b n (match bitsOf b 52 2 with
        | 0 => 0
        | 1 => s.accOf w n + src
        | 2 => s.accOf w n - src
        | _ => -src) old))

/-- Branches, calls and returns (0x20 to 0x24; R73, R77): taken, two delay slots open with the target behind them; untaken,
two delay slots with nothing behind them; behind the second slot `call` is to push and `ret` to pop; `rti` restores the
flags and `IE` from `IST` and clears `INH`. That an untaken one has delay slots too, and that the stack turns behind the second
slot, are the model's readings (log entries 41 and 56). -/
def Obligations.BranchesAndReturns : Prop :=
  ∀ (s : State) (w : Fin 32), s.mem.wf = true →
    let b := s.bundle w
    let k := s.workers[w.val]
    let taken := condMet (bitsOf b 55 3) k.addrView.flags k.addrView.mf k.addrView.lkf
    let stays (a : BitVec 15) := leavesBody k k.opView.inh a = false
    let goes (a : Option (BitVec 15)) (turn : StackTurn) (own : Regs → Regs) (t : State) : Prop :=
      Executed s t w own ∧ OnlyWorker s t w ∧ t.workers[w.val].delay = some ⟨2, a, turn⟩ ∧
        t.workers[w.val].stack = k.stack ∧ (k.reps = [] → t.workers[w.val].pc = k.pc + 1)
    let target : BitVec 15 := BitVec.ofNat 15 (bitsOf b 40 15)
    let reg : BitVec 15 := (k.addrView.data (bitsOf b 51 4)).setWidth 15
    let ipc : BitVec 15 := k.addrView.ipc.setWidth 15
    (Issues s w 0x20 → taken = true → stays target → ∃ t, exec (.bra w .ok) s = .next t ∧ goes (some target) .keep id t) ∧
    (Issues s w 0x20 → taken = false → ∃ t, exec (.bra w .ok) s = .next t ∧ goes none .keep id t) ∧
    (Issues s w 0x21 → taken = true → k.stack.length < 16 →
      ∃ t, exec (.call w .ok) s = .next t ∧ goes (some target) .push id t) ∧
    (Issues s w 0x21 → taken = false → ∃ t, exec (.call w .ok) s = .next t ∧ goes none .keep id t) ∧
    (Issues s w 0x22 → taken = true → ∀ a rest, k.stack = a :: rest → stays a →
      ∃ t, exec (.ret w .ok) s = .next t ∧ goes (some a) .pop id t) ∧
    (Issues s w 0x22 → taken = false → ∃ t, exec (.ret w .ok) s = .next t ∧ goes none .keep id t) ∧
    (Issues s w 0x24 → taken = true → stays reg → ∃ t, exec (.jmpr w .ok) s = .next t ∧ goes (some reg) .keep id t) ∧
    (Issues s w 0x24 → taken = false → ∃ t, exec (.jmpr w .ok) s = .next t ∧ goes none .keep id t) ∧
    (Issues s w 0x23 → stays ipc → ∃ t, exec (.rti w .ok) s = .next t ∧
      goes (some ipc) .keep (fun r => if 44 ∈ moveDests b then r else
        { r with flags := k.opView.ist.setWidth 4, ie := k.opView.ist.getLsbD 7, inh := false }) t)

/-- Block repeats and delay slots (R73, R74): `rep` opens a level over the bundles behind it, or skips them on a count of
zero, and one that is itself the last bundle of a body loops back; a level's last bundle as its own code loops back or, after
its final iteration, ends it, whether or not it is the innermost; the target of a branch follows its second delay slot, behind
which `call` pushes the bundle that follows and `ret` pops. That a `rep` in a body's last bundle loops it back, and that the return
stack turns behind the second slot, are the model's choices (DESIGN CHOICE, log entry 56). -/
def Obligations.RepeatsAndDelaySlots : Prop :=
  ∀ (s : State) (w : Fin 32), s.mem.wf = true →
    let b := s.bundle w
    let k := s.workers[w.val]
    let n := (k.addrView.data (bitsOf b 54 4)).toNat
    let last := k.pc.toNat + bitsOf b 40 13 + 1
    let ends (l : RepLevel) : Prop := l.last = k.pc ∧ l.depth = k.stack.length ∧ l.inh = k.opView.inh
    let level : RepLevel := { first := k.pc + 1, last := BitVec.ofNat 15 last, count := n, ib := bitsOf b 53 1 = 1
                              depth := k.stack.length, inh := k.opView.inh }
    (Issues s w 0x25 → k.reps.length < 4 → last ≤ 0x7FFF → n ≠ 0 → (∀ l ∈ k.reps, ¬ ends l) →
      ∃ t, exec (.rep w .ok) s = .next t ∧ Executed s t w id ∧ OnlyWorker s t w ∧ t.workers[w.val].pc = k.pc + 1 ∧
        t.workers[w.val].reps = level :: k.reps) ∧
    (Issues s w 0x25 → k.reps.length < 4 → last ≤ 0x7FFF → n = 0 → (∀ l ∈ k.reps, ¬ ends l) →
      ∃ t, exec (.rep w .ok) s = .next t ∧ Executed s t w id ∧ OnlyWorker s t w ∧
        t.workers[w.val].pc = BitVec.ofNat 15 (last + 1) ∧ t.workers[w.val].reps = k.reps) ∧
    (Issues s w 0x25 → k.reps.length < 4 → last ≤ 0x7FFF → ∀ l rest, k.reps = l :: rest → ends l → 1 < l.count →
      l.first ≠ k.pc + 1 → ∃ t, exec (.rep w .ok) s = .next t ∧ Executed s t w id ∧ t.workers[w.val].pc = l.first ∧
        t.workers[w.val].reps =
          (if n = 0 then { l with count := l.count - 1 } :: rest else level :: { l with count := l.count - 1 } :: rest)) ∧
    (Issues s w 0x00 → k.delay = none → ∀ l rest, k.reps = l :: rest → l.last = k.pc →
      l.depth = k.stack.length → l.inh = k.opView.inh → 1 < l.count → ∃ t, exec (.nop w .ok) s = .next t ∧
        t.workers[w.val].pc = l.first ∧ t.workers[w.val].reps = { l with count := l.count - 1 } :: rest) ∧
    (Issues s w 0x00 → k.delay = none → ∀ m l rest, k.reps = m :: l :: rest → ¬ ends m → ends l → 1 < l.count →
      ∃ t, exec (.nop w .ok) s = .next t ∧ t.workers[w.val].pc = l.first ∧
        t.workers[w.val].reps = m :: { l with count := l.count - 1 } :: rest) ∧
    (Issues s w 0x00 → k.delay = none → ∀ l, k.reps = [l] → l.last = k.pc →
      l.depth = k.stack.length → l.inh = k.opView.inh → l.count = 1 → ∃ t, exec (.nop w .ok) s = .next t ∧
        t.workers[w.val].pc = k.pc + 1 ∧ t.workers[w.val].reps = []) ∧
    (Issues s w 0x00 → ∀ a turn, k.delay = some ⟨1, some a, turn⟩ → ∃ t, exec (.nop w .ok) s = .next t ∧
        t.workers[w.val].pc = a ∧ t.workers[w.val].delay = none ∧
        (k.reps = [] → t.workers[w.val].stack = turn.apply (k.pc + 1) k.stack)) ∧
    (Issues s w 0x00 → ∀ a turn, k.delay = some ⟨2, a, turn⟩ → k.reps = [] → ∃ t, exec (.nop w .ok) s = .next t ∧
        t.workers[w.val].pc = k.pc + 1 ∧ t.workers[w.val].delay = some ⟨1, a, turn⟩ ∧ t.workers[w.val].stack = k.stack)

/-- Vector words (0x28 to 0x2B; R66, R80, R81, R83): `vec` pushes the quads or the next window word for 1 + count plays,
`vecr` the registers d0 to d7, `vmatch` a match word whose timeout of 0 stands for 1; the entry carries the mark that
`vmark` left and the mark is used up. Every push to a full FIFO stalls (R72), and one whose window word lies in a half that is
neither FULL nor being drained stalls with `WSTAT.WIN_WAITED` set (R66). -/
def Obligations.VectorPushes : Prop :=
  ∀ (s : State) (w : Fin 32) (g : Fin 16), s.mem.wf = true → workerGroup w = some g →
    let b := s.bundle w
    let k := s.workers[w.val]
    let r := s.groups[g.val].run
    let room := r.fifo.length < 64
    let ts : Fin 32 := Fin.ofNat 32 (bitsOf b 53 5)
    let plain (word : BitVec 256) : Entry :=
      { word := word, set := ts, plays := 1 + bitsOf b 43 10, match_ := none, mark := k.mark, ready := s.readyAt }
    let timed (word : BitVec 256) : Entry :=
      { word := word, set := ts, plays := max 1 (s.operand w 49).toNat, match_ := some r.matchNo, mark := k.mark
        ready := s.readyAt }
    let regs : BitVec 256 := BitVec.ofNat 256 (wordsNum ((List.range 8).map k.opView.data))
    let ready := k.window.fault = none ∧ k.window.waits = false
    let pushed (e : Entry) (x : Window) (t : State) : Prop :=
      Executed s t w id ∧ Sequential s t w ∧ t.groups[g.val].run.fifo = r.fifo ++ [e] ∧
        t.groups[g.val].run.matchNo = (if e.match_.isSome then r.matchNo + 1 else r.matchNo) ∧
        (∀ h : Fin 16, h ≠ g → t.groups[h.val] = s.groups[h.val]) ∧ t.workers[w.val].mark = none ∧
        t.workers[w.val].window = x ∧ (∀ v : Fin 32, v ≠ w → t.workers[v.val] = s.workers[v.val]) ∧
        t = { s with workers := t.workers, mem := t.mem, groups := t.groups }
    (Issues s w 0x28 → room → bitsOf b 41 2 = 0 → ∃ t, exec (.vec w .ok) s = .next t ∧
      pushed (plain (s.ctx w).quads) k.window t) ∧
    (Issues s w 0x28 → room → bitsOf b 41 2 = 1 → ready → ∃ t, exec (.vec w .ok) s = .next t ∧
      pushed (plain (s.windowWord w)) k.window.take t) ∧
    (Issues s w 0x29 → room → ∃ t, exec (.vecr w .ok) s = .next t ∧ pushed (plain regs) k.window t) ∧
    (Issues s w 0x2A → room → bitsOf b 41 2 = 0 → ∃ t, exec (.vmatch w .ok) s = .next t ∧
      pushed (timed (s.ctx w).quads) k.window t) ∧
    (Issues s w 0x2A → room → bitsOf b 41 2 = 1 → ready → ∃ t, exec (.vmatch w .ok) s = .next t ∧
      pushed (timed (s.windowWord w)) k.window.take t) ∧
    (Issues s w 0x2B → ∃ t, exec (.vmark w .ok) s = .next t ∧ Executed s t w id ∧ Sequential s t w ∧ OnlyWorker s t w ∧
      t.workers[w.val].mark = some (BitVec.ofNat 8 (bitsOf b 50 8))) ∧
    (¬ room →
      (Issues s w 0x29 → exec (.vecr w .ok) s = .next (s.modWorker w fun k => { k with stall := some .fifo })) ∧
      (Issues s w 0x28 → bitsOf b 41 2 = 0 ∨ ready →
        exec (.vec w .ok) s = .next (s.modWorker w fun k => { k with stall := some .fifo })) ∧
      (Issues s w 0x2A → bitsOf b 41 2 = 0 ∨ ready →
        exec (.vmatch w .ok) s = .next (s.modWorker w fun k => { k with stall := some .fifo }))) ∧
    (bitsOf b 41 2 = 1 → k.window.fault = none → k.window.half (k.window.pos / 512 % 2) ≠ .full →
      k.window.half (k.window.pos / 512 % 2) ≠ .draining →
      let held := s.modWorker w fun k => { k with stall := some .window, regs := { k.regs with winWaited := true } }
      (Issues s w 0x28 → exec (.vec w .ok) s = .next held) ∧ (Issues s w 0x2A → exec (.vmatch w .ok) s = .next held))

/-- `vwait` (0x2C; R84) passes where its condition holds and stalls where it does not; `wdr` (0x33; R88) reloads the watchdog;
`end` (0x01; R90) of a Worker without a port group enters ENDED at once with its event, one whose group still runs waits.
A stalled bundle issues again when its condition holds (R72, R84, R86): a push whose FIFO has room, a `lck` whose semaphore
is free, a `vwait` whose condition is met; one whose condition still fails stays stalled. -/
def Obligations.WaitsEndsAndStalls : Prop :=
  (∀ (s : State) (w : Fin 32), s.mem.wf = true →
     let b := s.bundle w
     let k := s.workers[w.val]
     let met := s.vwaitMet w (bitsOf b 54 4) (bitsOf b 40 14)
     (Issues s w 0x2C → met = true → ∃ t, exec (.vwait w .ok) s = .next t ∧ Retired s t w id) ∧
     (Issues s w 0x2C → met = false → exec (.vwait w .ok) s = .next (s.modWorker w fun k =>
       { k with stall := some (.vwait (BitVec.ofNat 4 (bitsOf b 54 4)) (BitVec.ofNat 14 (bitsOf b 40 14))) })) ∧
     (Issues s w 0x33 → ∃ t, exec (.wdr w .ok) s = .next t ∧ OnlyWorker s t w ∧ Sequential s t w ∧
       t.workers[w.val].regs.wdog = k.opView.wdogRld) ∧
     (Issues s w 0x01 → workerGroup w = none → ∃ t, exec (.end_ w .ok) s = .next t ∧
       t.workers[w.val].st = .ended ∧ t.workers[w.val].endPc = k.pc ∧
       t.ev.src[(dieEvent (workerDie w) ⟨w.val % 8, by omega⟩).val].active = true ∧
       ∀ v : Fin 32, v ≠ w → t.workers[v.val] = s.workers[v.val]) ∧
     (Issues s w 0x01 → ∀ g, workerGroup w = some g → s.groups[g.val].st = .playing → ∃ t, exec (.end_ w .ok) s = .next t ∧
       OnlyWorker s t w ∧ t.workers[w.val].st = .running ∧ t.workers[w.val].ended = true ∧ t.workers[w.val].pc = k.pc)) ∧
  (∀ (s : State) (w : Fin 32), s.mem.wf = true →
     let k := s.workers[w.val]
     let b := s.bundle w
     let i : Fin 256 := Fin.ofNat 256 (bitsOf b 50 8)
     let met := s.vwaitMet w (bitsOf b 54 4) (bitsOf b 40 14)
     (∀ g : Fin 16, workerGroup w = some g → Reissues s w 0x29 → k.stall = some .fifo → s.groups[g.val].run.fifo.length < 64 →
       ∃ t e, exec (.stallRelease w) s = .next t ∧ Executed s t w id ∧ t.workers[w.val].stall = none ∧
         t.groups[g.val].run.fifo = s.groups[g.val].run.fifo ++ [e] ∧ e.set = Fin.ofNat 32 (bitsOf b 53 5) ∧
         e.word = BitVec.ofNat 256 (wordsNum ((List.range 8).map k.opView.data)) ∧ e.plays = 1 + bitsOf b 43 10) ∧
     (Reissues s w 0x30 → ∀ j, k.stall = some (.lock j) → s.queen.sems[i.val] = none →
       ∃ t, exec (.stallRelease w) s = .next t ∧ Executed s t w id ∧ t.workers[w.val].stall = none ∧
         t.queen.sems[i.val] = some ⟨w.val, by omega⟩) ∧
     (Reissues s w 0x2C → ∀ c a, k.stall = some (.vwait c a) → met = true →
       ∃ t, exec (.stallRelease w) s = .next t ∧ Retired s t w id ∧ t.workers[w.val].stall = none) ∧
     (Reissues s w 0x2C → ∀ c a, k.stall = some (.vwait c a) → met = false →
       ∃ t, exec (.stallRelease w) s = .next t ∧ t.workers[w.val].stall.isSome ∧ t.workers[w.val].pc = k.pc ∧
         OnlyWorker s t w))

/-- Semaphores and signals (0x30 to 0x32; R86, R87): `lck` takes a free semaphore, stalls on another's, and sets `LKF` on its
own; `ulk` frees its own and else sets `LKF`; `sig` sends a signal, which a Worker of a fenced die never sees.
A halt that has waited 256 cycles on a semaphore breaks it (16, R433): the Worker's semaphores are released with `E041`, the
others stay; before the 256th cycle nothing is broken. -/
def Obligations.SemaphoresSignalsAndLocks : Prop :=
  (∀ (s : State) (w : Fin 32), s.mem.wf = true →
     let b := s.bundle w
     let i : Fin 256 := Fin.ofNat 256 (bitsOf b 50 8)
     let me : Fin 33 := ⟨w.val, by omega⟩
     let u : Fin 32 := Fin.ofNat 32 (bitsOf b 53 5)
     let fails (r : Regs) : Regs := if 44 ∈ moveDests b then r else { r with lkf := true }
     let owned (o : Option (Fin 33)) (t : State) : Prop :=
       Executed s t w id ∧ Sequential s t w ∧ t.queen.sems[i.val] = o ∧
         (∀ j : Fin 256, j ≠ i → t.queen.sems[j.val] = s.queen.sems[j.val])
     (Issues s w 0x30 → s.queen.sems[i.val] = none → ∃ t, exec (.lck w .ok) s = .next t ∧ owned (some me) t) ∧
     (Issues s w 0x30 → s.queen.sems[i.val] = some me → ∃ t, exec (.lck w .ok) s = .next t ∧ Retired s t w fails) ∧
     (Issues s w 0x30 → ∀ o, s.queen.sems[i.val] = some o → o ≠ me →
       exec (.lck w .ok) s = .next (s.modWorker w fun k => { k with stall := some (.lock i) })) ∧
     (Issues s w 0x31 → s.queen.sems[i.val] = some me → ∃ t, exec (.ulk w .ok) s = .next t ∧ owned none t) ∧
     (Issues s w 0x31 → s.queen.sems[i.val] ≠ some me → ∃ t, exec (.ulk w .ok) s = .next t ∧ Retired s t w fails) ∧
     (Issues s w 0x32 → ∃ t, exec (.sig w .ok) s = .next t ∧ Executed s t w id ∧ Sequential s t w ∧
       t.workers[u.val].sigIn =
         (if s.net.dies[(workerDie u).val].fenced then s.workers[u.val].sigIn else s.workers[u.val].sigIn + 1))) ∧
  (∀ (s : State) (w : Fin 32), s.workers[w.val].dbg.lockWait < 256 → exec (.lockBroken w) s = .next s) ∧
  (∀ (s : State) (w : Fin 32), s.workers[w.val].st = .running → s.workers[w.val].dbg.haltReq = true → s.semsOf w ≠ [] →
     256 ≤ s.workers[w.val].dbg.lockWait →
     ∃ t, exec (.lockBroken w) s = .next t ∧ t.dbg.lockBroken = true ∧ t.dbg.lbWorker = BitVec.ofNat 5 w.val ∧
       t.ev.src[41].active = true ∧ t.workers = s.workers ∧
       ∀ i : Fin 256, t.queen.sems[i.val] =
         (if s.queen.sems[i.val] = some ⟨w.val, by omega⟩ then none else s.queen.sems[i.val]))

/-- Faults (R68, R73, R89; R63): a bundle that is illegal, misaligned, in the window or a control instruction in a delay slot
faults its Worker, whichever row it is, and so does, with 0x01, an opcode that the table does not list, or a set reserved bit of
`nop`; so does an uncorrectable error of program memory, with its event; one of X or Y is met in the read stage: the bundle behind
it completes, and then the Worker is FAULTED with the code and the bundle of the error; a correctable one is counted and the bundle
executes.
`WORK_STOP` takes a Worker at its next boundary outside delay slots (R91): it is STOPPED with reason 3, its writes done and
its semaphores released, and its group stops as R122 says.
A halt takes effect before the next bundle (16, R431, R435): the Worker is HALTED with its writes done and its event active,
`HPC` names the next bundle, and its group at play halts. That no bundle is still in the stages behind it, so that the next bundle
is the one a stop or a halt takes effect before, is the model's choice (DESIGN CHOICE, log entry 42). -/
def Obligations.WorkersLeave : Prop :=
  (∀ (s : State) (w : Fin 32) (row : (Fin 32 → WEcc → Instr) × Nat), row ∈ workerRows →
     s.mayIssue w = true → bitsOf (s.bundle w) 58 6 = row.2 → (∀ c : Fin 8, s.workers[w.val].dbg.comps[c.val].en = false) →
     s.workers[w.val].dying = none →
     (∀ f, s.bundleFault w = some f → ∃ t, exec (row.1 w .ok) s = .next t ∧ FaultedWith s t w f) ∧
     (∀ a, ∃ t, exec (row.1 w (.ue 0 a)) s = .next t ∧ FaultedWith s t w 0x09 ∧
       t.ev.src[(dieEvent (workerDie w) 37).val].active = true) ∧
     (∀ m a, m ≠ 0 → ∃ t, exec (row.1 w (.ue m a)) s = .next t ∧ t.ev.src[(dieEvent (workerDie w) 37).val].active = true ∧
       ((t.workers[w.val].dying = some (0x09, s.workers[w.val].pc) ∧ t.workers[w.val].st = .running) ∨
         ∃ f, readFault f = false ∧ FaultedWith s t w f)) ∧
     exec (row.1 w .ce) s = exec (row.1 w .ok) (s.modWorker w fun k => { k with memCe := satAdd k.memCe 1 })) ∧
  (∀ (s : State) (w : Fin 32), s.mayIssue w = true → (∀ c : Fin 8, s.workers[w.val].dbg.comps[c.val].en = false) →
     s.workers[w.val].dying = none →
     let opc := bitsOf (s.bundle w) 58 6
     (opc ≠ 0 ∧ (∀ row ∈ workerRows, opc ≠ row.2)) ∨ (opc = 0 ∧ bitsOf (s.bundle w) 40 18 ≠ 0) →
       ∃ t, exec (.nop w .ok) s = .next t ∧ FaultedWith s t w 0x01) ∧
  (∀ (s : State) (w : Fin 32) (f : Nat) (a : BitVec 15), s.mayIssue w = true → bitsOf (s.bundle w) 58 6 = 0 →
     s.bundleFault w = none → (∀ c : Fin 8, s.workers[w.val].dbg.comps[c.val].en = false) →
     s.workers[w.val].dbg.stepLeft = none → s.workers[w.val].dying = some (f, a) → ∃ t, exec (.nop w .ok) s = .next t ∧
       t.workers[w.val].st = .faulted ∧ t.workers[w.val].regs.wfault = BitVec.ofNat 8 f ∧ t.workers[w.val].endPc = a) ∧
  (∀ (s : State) (w : Fin 32), s.workerAlive w = true → s.workers[w.val].st = .running → s.workers[w.val].stopDue = true →
     ∃ t, exec (.stopBoundary w) s = .next t ∧ LeftWith s t w .stopped ∧ t.workers[w.val].stop = 3 ∧
       t.workers[w.val].reps = [] ∧
       (∀ g, workerGroup w = some g → s.groups[g.val].st = .playing → t.groups[g.val].run.stopping = true ∧
         t.groups[g.val].run.fifo = [] ∧ t.groups[g.val].run.cur = none) ∧
       (∀ g, workerGroup w = some g → s.groups[g.val].st = .armed → s.groups[g.val].run.haltAt = none →
         t.groups[g.val].st = .done)) ∧
  (∀ (s : State) (w : Fin 32), s.workerAlive w = true → s.haltDue w = true →
     ∃ t, exec (.haltPoint w) s = .next t ∧ t.workers[w.val].st = .halted ∧ t.workers[w.val].dbg.hpc = s.workers[w.val].pc ∧
       t.workers[w.val].pc = s.workers[w.val].pc ∧ t.workers[w.val].regs = s.workers[w.val].settled ∧
       t.workers[w.val].pend = [] ∧ t.workers[w.val].stores = [] ∧ t.workers[w.val].dbg.haltReq = false ∧
       Raised s t (dieEvent (workerDie w) ⟨w.val % 8, by omega⟩) ∧
       (∀ v : Fin 32, v ≠ w → t.workers[v.val] = s.workers[v.val]) ∧
       ∀ g, workerGroup w = some g → s.groups[g.val].st = .playing →
         t.groups[g.val].st = .halted ∧ t.groups[g.val].run.haltAt = some s.nowTu)

/-- The timer sets line 1 pending at zero and reloads in periodic mode; a signal sets line 7 pending; the watchdog raises its
event and reloads, or halts its Worker (03, WTIMER; R87, R88).
An interrupt is taken between bundles (R75 to R77): the lowest line that is pending and enabled; `IPC` takes the next
bundle, `IST` the status with the writes before it, `IE` and the line's bit are cleared, `INH` is set, and bundle 4 times
the line is next. That `IST` holds the writes still on their way, and where between bundles the boundary lies, are the model's
choices (log entries 42 and 56). -/
def Obligations.TimersAndInterrupts : Prop :=
  (∀ (s : State) (w : Fin 32), s.workerAlive w = true → s.workers[w.val].st = .running →
     let k := s.workers[w.val]
     let r := k.regs
     let act := r.wdogCtrl.getLsbD 1
     let watched (t : State) : Prop :=
       Raised s t (dieEvent (workerDie w) ⟨8 + w.val % 8, by omega⟩) ∧ t = { s with workers := t.workers, ev := t.ev } ∧
         ∀ v : Fin 32, v ≠ w → t.workers[v.val] = s.workers[v.val]
     (r.wtimerCtrl.getLsbD 0 = true → r.wtimer = 1 → exec (.timerReachedZero w) s = .next (s.modWorker w fun _ =>
       { k with regs := { r with wtimer := if r.wtimerCtrl.getLsbD 1 then r.wtimerRld else 0, wipend := r.wipend ||| 2 } })) ∧
     (0 < k.sigIn → exec (.sigArrival w) s = .next (s.modWorker w fun _ =>
       { k with sigIn := k.sigIn - 1, regs := { r with wipend := r.wipend ||| 128 } })) ∧
     (r.wdogCtrl.getLsbD 0 = true → r.wdog = 1 → act = false → ∃ t, exec (.watchdogExpiry w) s = .next t ∧ watched t ∧
       t.workers[w.val] = { k with regs := { r with wdog := r.wdogRld } }) ∧
     (r.wdogCtrl.getLsbD 0 = true → r.wdog = 1 → act = true → ∃ t, exec (.watchdogExpiry w) s = .next t ∧ watched t ∧
       t.workers[w.val] = { k with regs := { r with wdog := 0 }
                                   dbg := { k.dbg with haltReq := true, causes := k.dbg.causes ||| 8 } })) ∧
  (∀ (s : State) (w : Fin 32) (line : Fin 16),
     let k := s.workers[w.val]
     let on (i : Fin 16) : Bool := k.opView.wipend.getLsbD i.val && k.opView.wien.getLsbD i.val
     s.workerAlive w = true → k.st = .running → k.ended = false → k.stall ≠ some .fifo → s.haltDue w = false →
       k.stopDue = false → s.intDue w = true → on line = true → (∀ i, i < line → on i = false) →
       ∃ t, exec (.interruptEntry w) s = .next t ∧ OnlyWorker s t w ∧
         t.workers[w.val].pc = BitVec.ofNat 15 (4 * line.val) ∧ t.workers[w.val].regs.ipc = k.pc.setWidth 32 ∧
         t.workers[w.val].regs.ist = k.wstat k.settled ∧ t.workers[w.val].regs.ie = false ∧
         t.workers[w.val].regs.inh = true ∧ t.workers[w.val].stall = none ∧
         ∀ i : Fin 16, t.workers[w.val].regs.wipend.getLsbD i.val =
           (k.regs.wipend.getLsbD i.val && i ≠ line))

/-! Port groups at play (04_timing_and_vectors.md). -/

/-- The start strobe gives each armed group of a `WORK_START` its t0 by its rank in the start ramp, and touches no other group
(R115); where the root tick of the start is not yet known, the groups learn their t0 when it is.
A group starts at its t0 (R115, R116, R119): an available entry plays as test cycle 0, none at hand makes the group
underrun, and while its Worker is halted the group holds the strobe. -/
def Obligations.GroupsStart : Prop :=
  (∀ (s : State) (k : JobKey) (x : Start), s.starts.find? (fun y => sameKey y.key k && !y.strobed) = some x →
     let launched : List Start := s.starts.map fun y => if sameKey y.key k then { y with strobed := true } else y
     (x.tick = none → exec (.startStrobe k) s = .next { s with starts := launched }) ∧
     (∀ n, x.tick = some n → x.groups.Nodup →
       ∃ t, exec (.startStrobe k) s = .next t ∧ t = { s with starts := launched, groups := t.groups } ∧
         (∀ (i : Nat) (h : i < x.groups.length), s.groups[(x.groups[i]).val].st = .armed →
           t.groups[(x.groups[i]).val] = { s.groups[(x.groups[i]).val] with run := { s.groups[(x.groups[i]).val].run with
             strobed := true, t0 := ((n + i * x.ramp) * 256 : Nat), nextAt := ((n + i * x.ramp) * 256 : Nat) } }) ∧
         ∀ g : Fin 16, g ∉ x.groups → t.groups[g.val] = s.groups[g.val])) ∧
  (∀ (s : State) (g : Fin 16), s.groupAlive g = true → s.groups[g.val].st = .armed → s.groups[g.val].run.strobed = true →
     let x := s.groups[g.val]
     let w := groupWorker g
     let at_ : State := s.modGroup g fun x => { x with run := { x.run with nextAt := x.run.t0 } }
     (s.workers[w.val].st = .halted → exec (.groupStart g) s =
       .next (s.modGroup g fun x => { x with run := { x.run with heldStrobe := true } })) ∧
     (∀ e rest, s.workers[w.val].st ≠ .halted → x.run.cur = none → x.run.fifo = e :: rest → e.ready ≤ x.run.t0 →
       x.tapReady = true → ∃ t, exec (.groupStart g) s = .next t ∧ Played at_ t g e ∧ t.groups[g.val].run.fifo = rest ∧
         t.groups[g.val].run.plays = 1 ∧ t.workers[w.val].started = true) ∧
     (s.workers[w.val].st ≠ .halted → x.run.fifo = [] → x.underrunStop = false → ∃ t, exec (.groupStart g) s = .next t ∧
       t.groups[g.val].st = .underrun ∧ t.groups[g.val].idle = x.idle + 1 ∧ t.workers[w.val].started = true ∧
       Raised s t (dieEvent (groupDie g) ⟨20 + g.val % 4, by omega⟩)))

/-- The next play starts at the boundary (R114): another of the current entry while plays of it remain, then the next entry
that is available, which leaves the FIFO and sets line 2 pending at the low-water mark.
A group with no entry at its boundary underruns (R119, R120): its event, then idle cycles of the last timing set that the
counts take in, or a stop of its Worker with reason 4. -/
def Obligations.GroupsPlay : Prop :=
  (∀ (s : State) (g : Fin 16) (e : Entry), (s.groups[g.val].st = .playing ∨ s.groups[g.val].st = .underrun) →
     s.groupAlive g = true → s.groups[g.val].run.stopping = false → s.groups[g.val].run.ending = false →
     s.groups[g.val].tapReady = true →
     let r := s.groups[g.val].run
     let w := groupWorker g
     (r.cur = some e → e.match_ = none → r.plays < e.plays → ∃ t, exec (.play g) s = .next t ∧ Played s t g e ∧
       t.groups[g.val].run.plays = r.plays + 1 ∧ t.groups[g.val].run.fifo = r.fifo ∧ t.workers = s.workers) ∧
     (∀ (rest : List Entry) (d : Entry), r.fifo = e :: rest → r.cur = some d → d.match_ = none → d.plays ≤ r.plays →
       e.ready ≤ r.nextAt → ∃ t, exec (.play g) s = .next t ∧ Played s t g e ∧ t.groups[g.val].run.plays = 1 ∧
         t.groups[g.val].run.fifo = rest ∧
         t.workers[w.val].regs.wipend = (if rest.length ≤ s.workers[w.val].opView.lowat.toNat
           then s.workers[w.val].regs.wipend ||| 4 else s.workers[w.val].regs.wipend))) ∧
  (∀ (s : State) (g : Fin 16), s.groupAlive g = true → s.groups[g.val].run.stopping = false →
     s.groups[g.val].run.ending = false → s.runMayEnd g = false → s.groups[g.val].run.next = .none_ →
     let x := s.groups[g.val]
     let w := groupWorker g
     let idled (t : State) : Prop := t.groups[g.val].st = .underrun ∧ t.groups[g.val].idle = x.idle + 1 ∧
       t.groups[g.val].cycle = BitVec.ofNat 48 x.run.nextCycle ∧ t.groups[g.val].run.nextCycle = x.run.nextCycle + 1 ∧
       t.groups[g.val].run.nextAt = x.run.nextAt + (x.sets[x.run.lastSet.val]).periodTu ∧ OneGroup s t g
     (x.st = .underrun → ∃ t, exec (.underrun g) s = .next t ∧ idled t ∧ OnlyGroup s t g) ∧
     (x.st = .playing → x.underrunStop = false → ∃ t, exec (.underrun g) s = .next t ∧ idled t ∧
       t = { s with groups := t.groups, ev := t.ev } ∧ Raised s t (dieEvent (groupDie g) ⟨20 + g.val % 4, by omega⟩)) ∧
     (x.st = .playing → x.underrunStop = true → s.workers[w.val].st = .running → ∃ t, exec (.underrun g) s = .next t ∧
       t.workers[w.val].st = .stopped ∧ t.workers[w.val].stop = 4 ∧ t.groups[g.val].run.stopping = true))

/-- A transition is applied at its time, or dropped and counted where a later one lies less than 62.5 ps after it (R102, R103);
either way it leaves its queue; one that a halt puts off neither moves nor counts (R121). It drives its port, or, while a
`PORT_DETECT` holds the pair, the levels that the pair returns to. That it waits while a play still to begin may bring a later
one is the model's choice (DESIGN CHOICE, log entry 57).
The tap (R106): the group announces its next play on the edge words of its twelve columns, and takes the fabric's answer for the
oldest announced play. -/
def Obligations.PinsMove : Prop :=
  (∀ (s : State) (g : Fin 16) (p : Fin 8) (txe : Bool) (a : Trans),
     let x := s.groups[g.val]
     let f := x.pins[p.val].fmt
     let q := if txe then f.txeq else f.txq
     let last := if txe then f.lastTxe else f.lastTx
     let port := groupPort g p
     let queue (t : State) : List Trans :=
       let f := t.groups[g.val].pins[p.val].fmt
       if txe then f.txeq else f.txq
     let held (u : Int) : Prop := ∃ h, x.run.haltAt = some h ∧ h ≤ u
     let alone : Prop := ∀ b ∈ q.erase a, a.time + 256 ≤ b.time ∨ held b.time
     firstTrans q = some a → s.groupAlive g = true → (∀ l, last = some l → l + 256 ≤ a.time) →
       (held a.time ∨ x.settledAt p txe a.time = false → exec (.transition g p txe) s = .next s) ∧
       (¬ held a.time → x.settledAt p txe a.time = true → alone → s.ports[port.val].link = .waveform →
         ∃ t, exec (.transition g p txe) s = .next t ∧ queue t = q.erase a ∧
           (s.ports[port.val].test = none →
             (if txe then t.ports[port.val].txe else t.ports[port.val].tx) = levelOf a.value) ∧
           (∀ y, s.ports[port.val].test = some y → t.ports[port.val] = { s.ports[port.val] with
             test := some (if txe then { y with txe := levelOf a.value } else { y with tx := levelOf a.value }) }) ∧
           t.groups[g.val].clash = x.clash ∧ OneGroup s t g ∧
           ∀ n : Fin 128, n ≠ port → t.ports[n.val] = s.ports[n.val]) ∧
       (¬ held a.time → x.settledAt p txe a.time = true → (∃ b ∈ q.erase a, b.time < a.time + 256 ∧ ¬ held b.time) →
         ∃ t, exec (.transition g p txe) s = .next t ∧ queue t = q.erase a ∧ t.ports = s.ports ∧ t.groups[g.val].clash = x.clash + 1 ∧ t.groups[g.val].edgeClash = true ∧ OneGroup s t g)) ∧
  (∀ (s : State) (g : Fin 16), s.groupAlive g = true → s.groups[g.val].tapEn = true → s.groups[g.val].run.stopping = false →
     s.groups[g.val].run.ending = false → (s.groups[g.val].st = .playing ∨ s.groups[g.val].st = .underrun) →
     let x := s.groups[g.val]
     let d := (groupEdge g).1
     let t0 := (groupEdge g).2
     let edge (t : State) (column word : Nat) : Nat := t.edgeWord d column word
     (∀ e first, s.edgesRise d → x.run.upcoming x.run.tapAhead = some (e, first) →
       ∃ t, exec (.tapNext g) s = .next t ∧
       t.groups[g.val].run.tapAhead = x.run.tapAhead + 1 ∧ OneGroup s t g ∧
       (∀ i, i < 12 → edge t (t0 + i) 0 = 1 + (if first then 2 else 0) + (if e.match_.isSome then 4 else 0) +
         (if e.mark.isSome then 8 else 0) + 16 * e.set.val) ∧
       edge t t0 1 = ((e.mark.map (·.toNat)).getD 0) ∧ edge t t0 2 = tapMkc x.sets[e.set.val] e.word) ∧
     (x.run.tapGot.length < x.run.tapAhead → (∀ column word, s.edgeOut d column word < 65536) →
       ∃ t q, exec (.tapSample g) s = .next t ∧ OnlyGroup s t g ∧ t.groups[g.val].run.tapGot = x.run.tapGot ++ [q] ∧
       (∀ i, i < 16 → bitsOf q.ev.toNat (16 * i) 16 = s.edgeOut d (t0 + i / 4) (i % 4)) ∧
       q.addr.toNat = s.edgeOut d (t0 + 4) 0 + 65536 * s.edgeOut d (t0 + 4) 1 ∧
       q.data.toNat = s.edgeOut d (t0 + 4) 2))

/-! Fail capture and repair (06_fail_capture_and_repair.md). -/

/-- A compare samples `RX` and `RXL` after polarity, each at its own time (R101, R105, R125): codes 8 and 12 expect the low
comparator's level high, 9 and 13 the high comparator's, 10 neither's. A window (12, 13) goes on to its next grid point 31.25 ps
later until its return time, and has passed where every sample has.
A fail bit reaches fail compression (R113, R164, R174): it leaves its queue, the pin counts a fail, and the open test cycle
takes it in; one of a match word reaches match logic and counts for no pin.
Match words (R110, R111): one decision at a time for the first word that has not ended; it ends on a pass or at its timeout,
else plays once more; resolved, it gives `MF` and line 4, and a failed one raises its event.
A chunk of the stream window returns once its flits have arrived (R65 to R67): its 4096 bytes come through the encryption engine
into their place in X memory, and line 5 becomes pending with a half that becomes full; a bus error fails the half. -/
def Obligations.ComparesAndChunks : Prop :=
  (∀ (s : State) (g : Fin 16) (p : Fin 8) (rx rxl : Bool) (a : Compare),
     let x := s.groups[g.val]
     let n := groupPort g p
     let l := x.pins[p.val].fmt.strobes
     let high := rx != s.ports[n.val].inv.getLsbD 2
     let low := rxl != s.ports[n.val].inv.getLsbD 3
     let window := isWindow a.code.toNat
     let after (b : Compare) : Prop := ∃ t, exec (.strobe g p rx rxl) s = .next t ∧ OnlyGroup s t g ∧
       t.groups[g.val].pins[p.val].fmt.strobes = l.map fun (c : Compare) => if c = a then b else c
     let done (f : Bool) : Compare := { a with rxAt := none, rxlAt := none, failed := f, fail := some f }
     firstStrobe l = some a → (∀ h, x.run.haltAt = some h → a.time < h) → s.groupAlive g = true → s.portLive n = true →
       (∀ u, a.code ≠ 10 → a.rxAt = none → a.rxlAt = some u → (window = false ∨ a.last < u + 128) →
         after (done (a.failed || !low))) ∧
       (∀ u, a.code ≠ 10 → a.rxAt = some u → a.rxlAt = none → (window = false ∨ a.last < u + 128) →
         after (done (a.failed || !high))) ∧
       (∀ u, window = true → a.rxAt = none → a.rxlAt = some u → u + 128 ≤ a.last →
         after { a with rxlAt := some (u + 128), failed := a.failed || !low }) ∧
       (∀ u, window = true → a.rxAt = some u → a.rxlAt = none → u + 128 ≤ a.last →
         after { a with rxAt := some (u + 128), failed := a.failed || !high }) ∧
       (∀ u v, a.code = 10 → a.rxAt = some u → a.rxlAt = some v →
         (u < v → after { a with rxAt := none, failed := a.failed || high }) ∧
         (v < u → after { a with rxlAt := none, failed := a.failed || low }) ∧
         (u = v → after (done (a.failed || high || low)))) ∧
       (∀ u, a.code = 10 → a.rxAt = none → a.rxlAt = some u → after (done (a.failed || low))) ∧
       (∀ u, a.code = 10 → a.rxAt = some u → a.rxlAt = none → after (done (a.failed || high)))) ∧
  (∀ (s : State) (g : Fin 16) (p : Fin 8) (a : Compare) (f : Bool),
     let x := s.groups[g.val]
     let l := x.pins[p.val].fmt.strobes
     l.find? (·.fail.isSome) = some a → a.fail = some f → s.groupAlive g = true →
       (∀ i first, a.word = some (i, first) → ∃ t, exec (.failBit g p) s = .next t ∧ OnlyGroup s t g ∧
         t.groups[g.val].pins[p.val].fmt.strobes = l.erase a ∧ t.groups[g.val].pins[p.val].fails = x.pins[p.val].fails ∧
         t.groups[g.val].fail = x.fail ∧
         t.groups[g.val].run.matches_ = x.run.matches_.map fun m => if m.id = i then m.result a.cycle first p.val f else m) ∧
       (∀ o rest, a.word = none → x.fail.open_ = o :: rest → o.cycle = a.cycle → 1 < o.left →
         (∀ q ∈ rest, q.cycle ≠ a.cycle) → ∃ t, exec (.failBit g p) s = .next t ∧ OnlyGroup s t g ∧
           t.groups[g.val].pins[p.val].fmt.strobes = l.erase a ∧
           t.groups[g.val].pins[p.val].fails = (if f then satAdd x.pins[p.val].fails 1 else x.pins[p.val].fails) ∧
           t.groups[g.val].fail.fifo = x.fail.fifo ∧ ∃ o', t.groups[g.val].fail.open_ = o' :: rest ∧ o'.cycle = o.cycle ∧
             o'.left = o.left - 1 ∧ o'.pins = (if f then o.pins ||| BitVec.ofNat 8 (2 ^ p.val) else o.pins))) ∧
  (∀ (s : State) (g : Fin 16), s.groupAlive g = true →
     let x := s.groups[g.val]
     let w := groupWorker g
     let k := s.workers[w.val]
     (∀ a m b, (x.st = .playing ∨ x.st = .underrun) → x.run.stopping = false → x.run.matches_ = a ++ m :: b →
       (∀ y ∈ a, y.ended = true) → m.ended = false → ∃ t, exec (.matchDecision g) s = .next t ∧ OnlyGroup s t g ∧
         t.groups[g.val].run.matches_ = a ++ (if m.passed = true ∨ m.timeout ≤ m.decided then { m with ended := true }
           else { m with decided := m.decided + 1 }) :: b) ∧
     (∀ m, x.run.matches_.find? (fun y => !y.resolved) = some m →
       (m.passed = true ∨ (m.ended = true ∧ m.plays.length = m.decided ∧ ∀ q ∈ m.plays, q.left = 0)) →
       ∃ t, exec (.matchResolved g) s = .next t ∧ (∀ y ∈ t.groups[g.val].run.matches_, y.id = m.id → y.resolved = true) ∧
         t.workers[w.val] = { k with regs := { k.regs with mf := !m.passed, wipend := k.regs.wipend ||| 16 } } ∧
         (∀ q, m.passed = false → m.plays.getLast? = some q →
           Raised s t (dieEvent (groupDie g) ⟨24 + g.val % 4, by omega⟩)) ∧
         (m.passed = true → t.ev = s.ev))) ∧
  (∀ (s : State) (w : Fin 32) (c : Nat), s.mem.wf = true →
     let k := s.workers[w.val]
     let x := k.window
     let from_ := x.base.toNat + 4096 * c
     let dest := xBase w + 0x8000 + c % 8 * 4096
     let h := c / 4 % 2
     k.active = true → s.workerAlive w = true → x.en = true → s.mem.rekey = none → x.outstanding = some c →
       (∀ f ∈ s.net.mesh, f.refill = true → f.dst ≠ requesterUnit (.worker w)) →
       ((s.hbmOpen (.worker w) from_ 4096 .ok).fail = none → ∃ t, exec (.chunkReturn w .ok) s = .next t ∧
         t.workers[w.val].window = { x with returned := c :: x.returned } ∧
         (∀ i, i < 4096 → t.mem.byte (dest + i) = s.mem.byte (from_ + i)) ∧
         (∀ a, a < dest ∨ dest + 4096 ≤ a → t.mem.byte a = s.mem.byte a) ∧
         t.workers[w.val].regs.wipend =
           (if x.half h ≠ .full ∧ t.workers[w.val].window.half h = .full then k.regs.wipend ||| 32 else k.regs.wipend)) ∧
       (∃ t, exec (.chunkReturn w .busError) s = .next t ∧
         t.workers[w.val].window = { x with returned := c :: x.returned, failed := (c / 4) :: x.failed } ∧
         ∀ a, t.mem.byte a = s.mem.byte a))

/-- The last fail bit of a failing test cycle forms its records (R164, R166, R171): one for each site that an enabled failing
pin is mapped to, in ascending site order, each produced and counted in that site's book. With `SUPPRESS` a record equal to the
site's last but for its cycle is only counted (R165); one that finds the fail FIFO full is dropped at the source, counted, with
its event (R167); the count that reaches `THRESHOLD` raises the die's event and line 6 once (R175).
A fail record reaches the pipeline (R168, R171; 10, R286): it leaves the queue of what has come over the network and is
accounted for exactly once, as stored, merged or dropped, in the book of its site and no other; without a partition or a
geometry it is dropped with its event (R178); and with a log it is written to the ring's next slot, or counted as lost where a
ring of mode 2 is full (R169, R170).
A marker shows with its entry (R112): its value and test cycle, the count one higher, and line 3. A run is over when the last
entry has finished at the pins (R122, R123): the group is DONE, an ended Worker enters ENDED, a stop completes. That the last
play's end alone already fixes that the run ends is the model's choice (DESIGN CHOICE, log entry 57). -/
def Obligations.FailRecords : Prop :=
  (∀ (s : State) (g : Fin 16) (p : Fin 8) (a : Compare) (o : OpenCycle) (rest : List OpenCycle),
     let x := s.groups[g.val]
     let d := groupDie g
     let pins := if a.fail = some true then o.pins ||| BitVec.ofNat 8 (2 ^ p.val) else o.pins
     let failing := (allFin 32).filter fun site => x.sitePins pins site != 0
     let onCycle (r : FailRec) : Prop := bitsOf r.toNat 0 48 = o.cycle % 2 ^ 48 ∧ bitsOf r.toNat 48 4 = g.val
     s.groupAlive g = true → x.pins[p.val].fmt.strobes.find? (·.fail.isSome) = some a → a.fail.isSome → a.word = none →
       x.fail.open_ = o :: rest →
       o.cycle = a.cycle → o.left = 1 → (∀ q ∈ rest, q.cycle ≠ a.cycle) → (∀ q ∈ rest, q.left ≠ 0) → pins ≠ 0 →
       x.fail.suppress = false → x.fail.fifo.length + 32 ≤ 1024 → x.fail.threshold = 0 →
       ∃ t recs, exec (.failBit g p) s = .next t ∧ OneGroup s t g ∧ t.groups[g.val].fail.open_ = rest ∧
         t.groups[g.val].fail.fifo = x.fail.fifo ++ recs ∧ recs.length = failing.length ∧
         (∀ (i : Nat) (h : i < recs.length), onCycle recs[i] ∧ (failing[i]?).map (·.val) = some (bitsOf (recs[i]).toNat 52 5) ∧
           bitsOf (recs[i]).toNat 112 8 = (x.sitePins pins (Fin.ofNat 32 (bitsOf (recs[i]).toNat 52 5))).toNat) ∧
         t.groups[g.val].fail.last = some (BitVec.ofNat 48 o.cycle) ∧
         ∀ site : Fin 32, t.brood.sites[site.val].dieBook[d.val][2] =
           s.brood.sites[site.val].dieBook[d.val][2] + (if x.sitePins pins site = 0 then 0 else 1)) ∧
  (∀ (s : State) (g : Fin 16) (p : Fin 8) (a : Compare) (o : OpenCycle) (rest : List OpenCycle) (site : Fin 32),
     let x := s.groups[g.val]
     let d := groupDie g
     let pins := if a.fail = some true then o.pins ||| BitVec.ofNat 8 (2 ^ p.val) else o.pins
     let key : FailKey := { pins := x.sitePins pins site, addr := o.addr, data := o.data }
     let book (s : State) (i : Fin 4) := s.brood.sites[site.val].dieBook[d.val][i.val]
     let fresh : Prop := x.fail.suppress = false ∨ x.fail.lastRec[site.val] ≠ some key
     s.groupAlive g = true → x.pins[p.val].fmt.strobes.find? (·.fail.isSome) = some a → a.fail.isSome → a.word = none →
       x.fail.open_ = o :: rest → o.cycle = a.cycle → o.left = 1 → (∀ q ∈ rest, q.cycle ≠ a.cycle) → (∀ q ∈ rest, q.left ≠ 0) →
       pins ≠ 0 → ((allFin 32).filter fun i => x.sitePins pins i != 0) = [site] →
       (¬ fresh → ∃ t, exec (.failBit g p) s = .next t ∧ t.groups[g.val].fail.fifo = x.fail.fifo ∧ book t 1 = book s 1 + 1 ∧
         book t 2 = book s 2 ∧ t.groups[g.val].fail.produced = x.fail.produced) ∧
       (fresh → 1024 ≤ x.fail.fifo.length → ∃ t, exec (.failBit g p) s = .next t ∧ t.groups[g.val].fail.fifo = x.fail.fifo ∧
         t.groups[g.val].fail.gap = true ∧ book t 2 = book s 2 + 1 ∧ book t 3 = book s 3 + 1 ∧ t.ev.src[36].active = true) ∧
       (fresh → x.fail.threshold ≠ 0 → x.fail.fired = false → x.fail.threshold.toNat ≤ x.fail.produced + 1 →
         ∃ t, exec (.failBit g p) s = .next t ∧ t.groups[g.val].fail.fired = true ∧
           Raised s t (dieEvent d ⟨16 + g.val % 4, by omega⟩) ∧ t.workers[(groupWorker g).val].regs.wipend.getLsbD 6 = true)) ∧
  (∀ (s : State) (x : FailArrival) (e : Fin 16 × FailRec), s.mem.wf = true → s.pdOn 14 = true → s.hiveClocked = true →
     s.brood.inbox.find? (·.1 = x.g) = some e →
     let i := recSite e.2
     let ended (s : State) : Nat := ((s.brood.sites[i.val].book.toList).take 5).sum
     let slots := 2 ^ s.brood.logSize.toNat
     let slot := s.brood.logBase.toNat + 16 * (s.brood.logHead.toNat % slots)
     ∃ t, exec (.failRecord x) s = .next t ∧ t.brood.inbox = s.brood.inbox.erase e ∧ ended t = ended s + 1 ∧
       (∀ j : Fin 32, j ≠ i → t.brood.sites[j.val] = s.brood.sites[j.val]) ∧
       t.brood.sites[i.val].dieBook = s.brood.sites[i.val].dieBook ∧
       (s.brood.sites[i.val].geom = none ∨ s.brood.sites[i.val].size = 0 →
         t.brood.sites[i.val].book[2] = s.brood.sites[i.val].book[2] + 1 ∧
           t.brood.sites[i.val].cells = s.brood.sites[i.val].cells ∧ t.ev.src[36].active = true) ∧
       (s.brood.logMode = 0 → t.brood.logHead = s.brood.logHead ∧ t.mem = s.mem) ∧
       (s.brood.logMode = 2 → slots ≤ s.brood.logHead.toNat → s.mem.rekey = none →
         t.brood.logHead = s.brood.logHead ∧ t.brood.logLost = s.brood.logLost + 1 ∧ t.mem = s.mem) ∧
       (s.brood.logMode ≠ 0 → (s.brood.logMode = 2 → s.brood.logHead.toNat < slots) → x.err = .ok → HbmServes s →
         slot / 512 = (slot + 15) / 512 → slot + 16 ≤ hbmBytes →
         Wrote s t slot (numBytes 16 e.2.toNat) ∧ t.brood.logHead = s.brood.logHead + 1 ∧
           t.brood.logLost = s.brood.logLost)) ∧
  (∀ (s : State) (g : Fin 16), s.groupAlive g = true →
     let x := s.groups[g.val]
     let w := groupWorker g
     let k := s.workers[w.val]
     (∀ v c l, x.run.marks = (v, c) :: l → ∃ t, exec (.markerRecord g) s = .next t ∧
       t.groups[g.val] = { x with markValue := v, markCycle := c, markCount := x.markCount + 1
                                  run := { x.run with marks := l } } ∧ OneGroup s t g ∧
       t.workers[w.val] = { k with regs := { k.regs with wipend := k.regs.wipend ||| 8 } }) ∧
     (x.run.stopping = true → ∃ t, exec (.runDone g) s = .next t ∧ t.groups[g.val].st = .done ∧
       t.groups[g.val].run.stopping = false ∧ OneGroup s t g ∧ t.workers = s.workers) ∧
     (x.run.stopping = false → x.st = .playing → x.run.next = .none_ → k.ended = true → x.drained = false →
       ∃ t, exec (.runDone g) s = .next t ∧ OnlyGroup s t g ∧
         t.groups[g.val] = { x with run := { x.run with ending := true } }) ∧
     (x.drained = true → x.run.stopping = false → x.st = .playing → (x.run.next = .none_ ∨ x.run.ending = true) → k.ended = true →
       ∃ t, exec (.runDone g) s = .next t ∧ t.groups[g.val].st = .done ∧ t.workers[w.val].st = .ended ∧
         t.ev.src[(dieEvent (workerDie w) ⟨w.val % 8, by omega⟩).val].active = true ∧
         ∀ i : Fin 256, t.queen.sems[i.val] ≠ some ⟨w.val, by omega⟩))

/-- A background sweep finds every forced line of a block (R180): afterwards the block is unrepairable, or no row holds more
cells than there are free spare columns and no column more than free spare rows; lines allocated before stay. The cells are the
block's entries with those that an earlier solve had covered (DESIGN CHOICE, log entry 59). -/
def Obligations.SweepsReachFixpoint : Prop :=
  ∀ (s : State) (i : Fin 32) (n : Nat) (g : Geom) (b : Block), s.pdOn 14 = true → s.hiveClocked = true →
    let x := s.brood.sites[i.val]
    x.geom = some g → g.sRows ≤ 15 → g.sCols ≤ 15 → x.blocks.find? (fun b => b.num = n) = some b →
    ∃ t b', exec (.backgroundSweep i n) s = .next t ∧ b' ∈ t.brood.sites[i.val].blocks ∧ b'.num = n ∧
      (b'.unrep = true ∨
        ((∀ r, b'.hasRow r = false → b'.rowCount (x.failing b) r ≤ b'.freeCols g) ∧
          ∀ c, b'.hasCol c = false → b'.colCount (x.failing b) c ≤ b'.freeRows g)) ∧
      (∀ r, b.hasRow r = true → b'.hasRow r = true) ∧ (∀ c, b.hasCol c = true → b'.hasCol c = true) ∧
      t.brood.sites[i.val].cells = x.cells ∧ ∀ j : Fin 32, j ≠ i → t.brood.sites[j.val] = s.brood.sites[j.val]

/-- A solve begins when nothing of its sites is in flight, and a site with a fenced die is not waited for (R182).
A solve that completes is right where it says REPAIRABLE (R182, R183), in each block that it had still to do: every cell of the
block (its entries and those that an earlier solve had covered: DESIGN CHOICE, log entry 59) lies in a row or column that the
must-repair rule or the solve allocated, and no more lines are allocated than the geometry has spares; `E035` is raised. -/
def Obligations.SolvesAreSound : Prop :=
  (∀ (s : State) (x : Solve), s.brood.solves.find? (fun y => !y.started) = some x →
     ((∀ i ∈ sitesOf x.mask.toNat, s.siteFenced i = true ∨ s.inFlight i = 0) → s.broodRuns = true → ∃ t, exec .solveStart s = .next t ∧
       (∀ y ∈ t.brood.solves, sameKey y.key x.key = true → y.started = true) ∧
       t = { s with brood := { s.brood with solves := t.brood.solves } }) ∧
     ((∃ i ∈ sitesOf x.mask.toNat, s.siteFenced i = false ∧ s.inFlight i ≠ 0) → exec .solveStart s = .next s)) ∧
  (∀ (s : State) (x : Solve), s.brood.solves.find? (fun y => y.started) = some x → s.broodRuns = true →
     ∃ t, exec .solveComplete s = .next t ∧ t.ev.src[35].active = true ∧
       (∀ y ∈ t.brood.solves, sameKey y.key x.key = false) ∧
       ∀ (i : Fin 32) (g : Geom), i ∈ sitesOf x.mask.toNat → s.brood.sites[i.val].geom = some g →
         (∀ b ∈ s.brood.sites[i.val].blocks, b.rows.length ≤ g.sRows ∧ b.cols.length ≤ g.sCols) →
         t.brood.sites[i.val].solved = true ∧
         ∀ b ∈ t.brood.sites[i.val].blocks, b.rows.length ≤ g.sRows ∧ b.cols.length ≤ g.sCols ∧
           (x.upTo ≤ solveKey i b.num → b.rows.length + b.xRows.length ≤ g.sRows ∧ b.cols.length + b.xCols.length ≤ g.sCols ∧
             (b.verdict = 1 → ∀ c ∈ t.brood.sites[i.val].failing b, b.covers c = true ∨
               (∃ m, (c.row, m) ∈ b.xRows) ∨ ∃ m, (c.col, m) ∈ b.xCols)))

/-- The FAIL commands (R162, R169, R171 to R175; 19): `FAIL_SET` sets threshold and suppression of its groups and, unless it
keeps it, the log ring with fresh counts; `FAIL_COUNTS` returns books and counters; `FAIL_CLEAR` clears the books of its
sites. That records on their way stay counted there, and that a newly set ring starts with a head and a lost count of zero, are the
model's choices (DESIGN CHOICE, log entry 29).
The BROOD commands (R176, R178, R182, R187; 19): geometry and partitions are set, results read, sites cleared with their
partitions kept; `BROOD_SOLVE` waits for its solve. -/
def Obligations.RepairCommands : Prop :=
  (∀ (s : State) (p : Pkt),
     (Accepted cmdFailSet p s → let b := applied cmdFailSet p
       ∃ t, exec (.failSet p) s = .next t ∧ Completed cmdFailSet p s t [] ∧
         t = { s with queen := t.queen, hif := t.hif, brood := t.brood, groups := t.groups } ∧
         (∀ g : Fin 16, t.groups[g.val] = if (fld b 48 0 16).testBit g.val
           then { s.groups[g.val] with fail := { s.groups[g.val].fail with
             threshold := BitVec.ofNat 32 (fld b 52 0 32), suppress := fld b 56 0 1 = 1 } }
           else s.groups[g.val]) ∧
         (fld b 56 1 1 = 1 → t.brood = s.brood) ∧
         (fld b 56 1 1 = 0 → t.brood.logMode = BitVec.ofNat 2 (fld b 32 0 2) ∧ t.brood.logHead = 0 ∧ t.brood.logLost = 0 ∧
           t.brood.logSize = BitVec.ofNat 5 (fld b 32 8 5) ∧ t.brood.sites = s.brood.sites ∧
           (fld b 32 0 2 ≠ 0 → t.brood.logBase = BitVec.ofNat 48 (fld b 40 0 48)))) ∧
     (Accepted cmdFailCounts p s → let l := sitesOf (param p 32 0 32)
       ∃ t, exec (.failCounts p) s = .next t ∧ Completed cmdFailCounts p s t
           (word2 s.brood.logHead.toNat ++ word2 s.brood.logLost.toNat ++ l.flatMap t.siteBook ++ (allFin 16).flatMap t.groupCounters) ∧
         t = { s with queen := t.queen, hif := t.hif, brood := t.brood } ∧
         ∀ i : Fin 32, t.brood.sites[i.val] = if i ∈ l ∧ s.siteFenced i = true
           then { s.brood.sites[i.val] with unbalanced := true } else s.brood.sites[i.val]) ∧
     (Accepted cmdFailClear p s → let l := sitesOf (param p 32 0 32)
       ∃ t, exec (.failClear p) s = .next t ∧ Completed cmdFailClear p s t [] ∧
         t = { s with queen := t.queen, hif := t.hif, brood := t.brood } ∧
         ∀ i : Fin 32, (i ∉ l → t.brood.sites[i.val] = s.brood.sites[i.val]) ∧
           (i ∈ l → t.brood.sites[i.val].book = Vector.replicate 9 0 ∧ t.brood.sites[i.val].unbalanced = false ∧
             t.brood.sites[i.val].cells = s.brood.sites[i.val].cells ∧
             ∀ d : Fin 4, t.brood.sites[i.val].dieBook[d.val][0] = s.flying d i ∧ t.brood.sites[i.val].dieBook[d.val][1] = 0 ∧
               t.brood.sites[i.val].dieBook[d.val][2] = s.flying d i ∧ t.brood.sites[i.val].dieBook[d.val][3] = 0))) ∧
  (∀ (s : State) (p : Pkt),
     let i := packetSite p
     (Accepted cmdBroodGeometry p s → ∃ t, exec (.broodGeometry p) s = .next t ∧ Completed cmdBroodGeometry p s t [] ∧
       t = { s with queen := t.queen, hif := t.hif, brood := t.brood } ∧
       t.brood.sites[i.val] = { s.brood.sites[i.val] with geom := some (geomOf (applied cmdBroodGeometry p)) } ∧
       ∀ j : Fin 32, j ≠ i → t.brood.sites[j.val] = s.brood.sites[j.val]) ∧
     (Accepted cmdBroodPartition p s → ∃ t, exec (.broodPartition p) s = .next t ∧ Completed cmdBroodPartition p s t [] ∧
       t = { s with queen := t.queen, hif := t.hif, brood := t.brood } ∧
       ∀ j : Fin 32, t.brood.sites[j.val] = { s.brood.sites[j.val] with
         base := BitVec.ofNat 7 (param p (32 + 4 * j.val) 0 7), size := BitVec.ofNat 8 (param p (32 + 4 * j.val) 8 8) }) ∧
     (Accepted cmdBroodSolve p s → ∃ t, exec (.broodSolve p) s = .next t ∧ StillRuns s t p ∧
       t = { s with queen := t.queen, hif := t.hif, brood := t.brood } ∧
       t.brood = { s.brood with solves := s.brood.solves ++
         [{ key := ⟨.pcie, p.tag⟩, mask := BitVec.ofNat 32 (param p 32 0 32), started := false, upTo := 0 }] }) ∧
     (Accepted cmdBroodResult p s → let b := applied cmdBroodResult p
       let x := s.brood.sites[fld b 32 0 5 % 32]
       ∃ t, exec (.broodResult p) s = .next t ∧ Completed cmdBroodResult p s t (s.siteSummary (Fin.ofNat 32 (fld b 32 0 5)) ++
           ((x.blocks.drop (fld b 32 16 13)).take (fld b 36 0 9)).flatMap x.blockRecord) ∧
         t = { s with queen := t.queen, hif := t.hif }) ∧
     (Accepted cmdBroodClear p s → ∃ t, exec (.broodClear p) s = .next t ∧ Completed cmdBroodClear p s t [] ∧
       t = { s with queen := t.queen, hif := t.hif, brood := t.brood } ∧
       ∀ j : Fin 32, if j ∈ sitesOf (param p 32 0 32)
         then t.brood.sites[j.val].cells = [] ∧ t.brood.sites[j.val].blocks = [] ∧ t.brood.sites[j.val].geom = none ∧
           t.brood.sites[j.val].base = s.brood.sites[j.val].base ∧ t.brood.sites[j.val].size = s.brood.sites[j.val].size ∧
           t.brood.sites[j.val].solved = false
         else t.brood.sites[j.val] = s.brood.sites[j.val]))

/-! Test ports (05_test_ports.md). -/

/-- The 8b/10b code (R143, R146): a receiver that starts a word at the sender's running disparity reads the characters that were
sent, flags no error and ends at the sender's disparity; a code group that is no character, or one of the other disparity, reads
as 0xFE with its K and error flags and is counted as `CODE_ERR` or `DISP_ERR`.
A lane sends (R140, R143, R144, R151, R154): the fabric's word if valid, else a fill word that is counted; raw words go out as
they are, others coded at the running disparity; a PRBS generator sends the next 32 bits of its pattern, one of them inverted
where `INSERT` waits; `INV_TX` inverts all of it at the balls.
A lane receives (R141, R146, R147, R153): the fabric is given the bytes with their K and error flags, or the raw bits; a running
PRBS checker takes the bits instead; `INV_RX` inverts what it sees; a slip that the fabric asked for moves the raw boundary. In
loopback the receiver gets what the serialiser sent, whatever stands at the balls (R159). The queue between the serialiser and
the looped receiver, that `INV_RX` alone acts on it, and the bits that a checker keeps while a decision is due are the model's
choices (DESIGN CHOICE, log entry 58). -/
def Obligations.LanesCarryWords : Prop :=
  (∀ (p : PortSt) (l : List (Bool × Nat)) (g : Nat) (e : Bool), l.length = 4 →
     (∀ c ∈ l, c.2 < 256 ∧ (c.1 = true → isKChar c.2 = true)) →
     p.sync = .synced 0 g e → p.rxLine = [] → p.rxChars = [] →
     let bits := (codeWord l p.rxDisp).1.flatMap fun v => (List.range 10).map v.getLsbD
     ∃ q, p.codedBits bits = (q, [l.map fun c => (c.2, c.1, false)]) ∧ q.rxDisp = (codeWord l p.rxDisp).2 ∧
       q.sync.aligned = true ∧ q.rxLine = [] ∧ q.rxChars = [] ∧ q.counts = p.counts) ∧
  (∀ (p : PortSt) (c : BitVec 10) (g : Nat) (e : Bool), p.sync = .synced 0 g e → p.rxLine = [] → p.rxChars.length < 3 →
     let v := revBits 10 c.toNat
     let wrong (i : Fin 6) : Prop := ∃ q, p.codedBits ((List.range 10).map c.getLsbD) = (q, []) ∧
       q.rxChars = p.rxChars ++ [(0xFE, true, true)] ∧ q.counts = upd p.counts i fun n => satAdd n 1
     (decodeGroup v p.rxDisp = .codeErr → wrong 0) ∧ (decodeGroup v p.rxDisp = .dispErr → wrong 1)) ∧
  (∀ (s : State) (n : Fin 128), s.laneOn n = true → s.portSafe n = false →
     let p := s.ports[n.val]
     let pol (w : Word) : Word := if p.inv.getLsbD 0 then ~~~w else w
     let raw := s.groups[(portGroup n).val].mode = .raw
     let (valid, data, ks) := s.offered n
     let chars := if valid then (List.range 4).map (fun j => (bitOf ks j, bitsOf data (8 * j) 8)) else fillChars p.txDisp
     let others (t : State) : Prop := ∀ m : Fin 128, m ≠ n → t.ports[m.val] = s.ports[m.val]
     (p.started = true → raw → valid = true → ∃ t, exec (.txwTake n) s = .next t ∧ t.ports = s.ports ∧
       t.out = .lineBits n (pol (BitVec.ofNat 32 data)) :: s.out) ∧
     (p.started = true → raw → valid = false → ∃ t, exec (.txwTake n) s = .next t ∧ others t ∧
       t.ports[n.val] = { p with txFill := true, counts := upd p.counts 3 fun c => satAdd c 1 } ∧
       t.out = .lineBits n (pol 0x55555555) :: s.out) ∧
     (p.started = true → ¬ raw → ∃ t, exec (.txwTake n) s = .next t ∧ others t ∧
       t.ports[n.val].txDisp = (codeWord chars p.txDisp).2 ∧
       t.out = .lineGroups n (if p.inv.getLsbD 0 then (codeWord chars p.txDisp).1.map (~~~·) else (codeWord chars p.txDisp).1) :: s.out ∧
       t.ports[n.val].txFill = (p.txFill || !valid) ∧
       t.ports[n.val].counts[3] = (if valid then p.counts[3] else satAdd p.counts[3] 1)) ∧
     (p.started = false → p.prbs.on = true → p.prbs.gen = true →
       ∃ t, exec (.txwTake n) s = .next t ∧ others t ∧
         t.ports[n.val] = { p with prbs :=
           { p.prbs with genReg := (prbsBits p.prbs.poly 32 p.prbs.genReg).2, insert_ := false } } ∧
         t.out = .lineBits n (pol (BitVec.ofNat 32 (packBools ((prbsBits p.prbs.poly 32 p.prbs.genReg).1.map (· != p.prbs.invert))) ^^^
           (if p.prbs.insert_ then 1 else 0))) :: s.out)) ∧
  (∀ (s : State) (n : Fin 128), s.laneOn n = true → s.looped n = true → s.ports[n.val].started = true →
     s.groups[(portGroup n).val].mode = .raw →
     let p := s.ports[n.val]
     let (valid, data, _) := s.offered n
     let w : Word := if valid then BitVec.ofNat 32 data else rawFill
     ∃ t, exec (.txwTake n) s = .next t ∧ t.out = s.out ∧ t.ports[n.val].loop = p.loop ++ (List.range 32).map w.getLsbD ∧
       ∀ m : Fin 128, m ≠ n → t.ports[m.val] = s.ports[m.val]) ∧
  (∀ (s : State) (n : Fin 128) (a b c e : BitVec 10) (w : Word), s.receives n = true → s.ports[n.val].test = none →
     s.edgesRise (portDie n) →
     let p := s.ports[n.val]
     let pol (w : Word) : Word := if p.inv.getLsbD 2 then ~~~w else w
     let d := portDie n
     let column := (groupEdge (portGroup n)).2 + 1 + (portPin n).val
     let mode := s.groups[(portGroup n).val].mode
     let got := p.codedBits (lineBitsOf (p.seen (.groups a b c e)))
     let shown (t : State) (data ks errs : Nat) : Prop := t.edgeWord d column 1 = data % 65536 ∧
       t.edgeWord d column 2 = data / 65536 ∧ t.edgeWord d column 3 = ks + 16 * errs ∧
       (t.edgeWord d column 0).testBit (8 + (portPin n).val) = true
     (p.prbs.on = false → mode = .coded → s.looped n = false → ∃ t, exec (.rxwValid n (.groups a b c e)) s = .next t ∧
       t.ports[n.val] = got.1 ∧ (∀ m : Fin 128, m ≠ n → t.ports[m.val] = s.ports[m.val]) ∧
       (got.2 = [] → t = { s with ports := t.ports }) ∧
       ∀ l, got.2 = [l] → shown t (bytesNum (l.map fun x => BitVec.ofNat 8 x.1)) (packBools (l.map (·.2.1)))
         (packBools (l.map (·.2.2)))) ∧
     (p.prbs.on = false → mode = .raw → s.looped n = false → p.slips = 0 → p.rxHave = 0 → p.rxBits = 0 →
       ∃ t, exec (.rxwValid n (.bits w)) s = .next t ∧ t.ports = s.ports ∧ shown t (pol w).toNat 0 0) ∧
     (p.prbs.on = false → mode = .raw → s.looped n = true → p.slips = 0 → p.rxHave = 0 → p.rxBits = 0 →
       ∀ v : Word, p.loop = (List.range 32).map v.getLsbD → ∃ t, exec (.rxwValid n (.bits w)) s = .next t ∧
         t.ports[n.val] = { p with loop := [] } ∧ shown t (pol v).toNat 0 0) ∧
     (p.prbs.on = true → p.prbs.chk = true → s.looped n = false → exec (.rxwValid n (.bits w)) s =
       .next (s.modPort n fun q => { q with prbs := q.prbs.check (q.prbs.todo ++ (List.range 32).map (pol w).getLsbD) })) ∧
     (mode = .raw → p.started = true → s.laneOn n = true → exec (.rxSlip n) s =
       .next (if p.slipAsk = 0 then s else s.modPort n fun q => { q with slipAsk := q.slipAsk - 1, slips := q.slips + 1 })))

/-- A checker locked on its pattern counts every received bit and only the wrong ones as errors (R153), until 16 errors within
64 bits make a loss due, before which no later bit is taken.
Lane states follow their receiver (R145, R148): each change raises the group's event and the losses are counted; which way
a lane falls when it loses its clock is open (a free value, log entry 58). Three K28.5 each with a data character behind it align
a receiver, and four invalid code groups on end take its alignment (R145): R145 names the synchronisation machine of IEEE 802.3
Clause 36, whose states are taken from there (PRESUMED, log entry 27).
PRBS locks and losses (R153), swapped pairs (R157) and shorts (R155): a swapped pair is shown, raises its event and, with
`POLARITY_AUTO`, inverts `INV_RX`, and a running lane reacquires; a short is latched with its event. The bits that wait for a
decision (`todo`) are the model's (DESIGN CHOICE, log entry 58). -/
def Obligations.LaneHealth : Prop :=
  (∀ (x : Prbs) (k : Nat) (errs : List Bool), x.locked = true → errs.length = k →
     onesCount 64 x.recent.toNat + (errs.filter id).length < 16 →
     let sent := (prbsBits x.poly k x.chkReg).1
     let y := x.check ((sent.zip errs).map fun b => (b.1 != b.2) != x.invert)
     y.bits.toNat = min (x.bits.toNat + k) (2 ^ 48 - 1) ∧
       y.errs.toNat = min (x.errs.toNat + (errs.filter id).length) (2 ^ 48 - 1) ∧
       y.chkReg = (prbsBits x.poly k x.chkReg).2 ∧ y.losses = x.losses ∧ y.locked = true ∧ y.todo = []) ∧
  (∀ (x : Prbs) (b : Bool) (l : List Bool), x.locked = true → 16 ≤ onesCount 64 x.recent.toNat →
     x.check (b :: l) = { x with todo := b :: l }) ∧
  (∀ (g : Nat) (e : Bool) (x : Sync),
     ([.comma, .data, .comma, .data, .comma, .data] : List GroupKind).foldl Sync.step .loss = .synced 0 0 false ∧
     ([.bad, .bad, .bad, .bad] : List GroupKind).foldl Sync.step (.synced 0 g e) = .loss ∧
     (x.aligned = true → (x.step .data).aligned = true)) ∧
  (∀ (s : State) (n : Fin 128), s.groups[(portGroup n).val].mode = .coded →
     let p := s.ports[n.val]
     let told (t : State) (l : Link) : Prop := t.ports[n.val].link = l ∧
       Raised s t (dieEvent (portDie n) ⟨28 + (portGroup n).val % 4, by omega⟩) ∧
       ∀ m : Fin 128, m ≠ n → t.ports[m.val] = s.ports[m.val]
     (p.link = .noSignal → p.stale = false → ∃ t, exec (.cdrLock n) s = .next t ∧ told t .cdrLock ∧ t.ports[n.val].counts = p.counts) ∧
     (p.link = .cdrLock → p.started = true → p.sync.aligned = true → ∃ t, exec (.alignmentAcquired n) s = .next t ∧ told t .aligned ∧
       t.ports[n.val].counts = p.counts) ∧
     (p.link = .aligned → p.sync.aligned = false → ∃ t, exec (.alignmentLost n) s = .next t ∧ told t .cdrLock ∧
       t.ports[n.val].counts = upd p.counts 5 fun c => satAdd c 1) ∧
     (p.link = .aligned → ∃ t, exec (.cdrLost n) s = .next t ∧ (told t .noSignal ∨ told t .cdrLock) ∧
       t.ports[n.val].counts = (upd p.counts 4 fun c => satAdd c 1) ∧ t.ports[n.val].cdrLost = true ∧
       t.ports[n.val].prbs.locked = false ∧ t.ports[n.val].sync = .loss)) ∧
  (∀ (s : State) (n : Fin 128),
     let p := s.ports[n.val]
     let told (t : State) : Prop := Raised s t (dieEvent (portDie n) 35) ∧ t = { s with ports := t.ports, ev := t.ev } ∧
       ∀ m : Fin 128, m ≠ n → t.ports[m.val] = s.ports[m.val]
     (p.prbs.on = true → p.prbs.chk = true → p.prbs.locked = false → p.prbs.same = 64 →
       exec (.prbsLock n false) s = .next (s.modPort n fun q => { q with prbs := q.prbs.lock }) ∧ p.prbs.lock.locked = true ∧
       (p.prbs.todo = [] → p.prbs.lock = { p.prbs with locked := true, same := 0, opp := 0, recent := 0 })) ∧
     (p.prbs.same ≠ 64 → exec (.prbsLock n false) s = .next s) ∧
     (p.prbs.on = true → p.prbs.chk = true → p.prbs.locked = false → p.prbs.opp = 64 → p.prbs.swapSeen = false →
       p.auto_ = false → ∃ t, exec (.prbsLock n true) s = .next t ∧ told t ∧
         t.ports[n.val] = { p with polSwap := true, prbs := ({ p.prbs with swapSeen := true }).seed false }) ∧
     (p.prbs.on = true → p.prbs.chk = true → p.prbs.locked = false → p.prbs.opp = 64 → p.prbs.swapSeen = false →
       p.auto_ = true → ∃ t, exec (.prbsLock n true) s = .next t ∧ Raised s t (dieEvent (portDie n) 35) ∧
         t = { s with ports := t.ports, ev := t.ev, free := t.free } ∧ t.ports[n.val].inv = p.inv ^^^ 4 ∧
         t.ports[n.val].polSwap = true ∧ t.ports[n.val].polApplied = true ∧ t.ports[n.val].prbs.locked = false ∧
         (p.link = .cdrLock ∨ p.link = .aligned → t.ports[n.val].sync = .loss ∧
           (t.ports[n.val].link = .noSignal ∨ t.ports[n.val].link = .cdrLock)) ∧
         ∀ m : Fin 128, m ≠ n → t.ports[m.val] = s.ports[m.val]) ∧
     (p.prbs.on = true → p.prbs.locked = true → exec (.prbsLoss n) s =
       .next (if 16 ≤ onesCount 64 p.prbs.recent.toNat then s.modPort n fun q =>
         { q with prbs := ({ q.prbs with losses := satAdd q.prbs.losses 1 }).seed false } else s)) ∧
     (∀ leg : Fin 4, s.portOn n = true → ∃ t, exec (.short n leg) s = .next t ∧ told t ∧
       t.ports[n.val] = { p with short := p.short ||| (1#4 <<< leg.val) }))

/-- The PORT commands that set and read (R130, R158, R159; 19): every setting of a group and its eight ports, the states and
counts of the named ports, cleared where asked. -/
def Obligations.PortSettings : Prop :=
  ∀ (s : State) (p : Pkt),
    let g := Pkt.group p
    let x := s.groups[g.val]
    (Accepted cmdPortSet p s → let b := applied cmdPortSet p
      ∃ t, exec (.portSet p) s = .next t ∧ Completed cmdPortSet p s t [] ∧
        t = { s with queen := t.queen, hif := t.hif, groups := t.groups, ports := t.ports, ev := t.ev, out := t.out } ∧
        t.groups[g.val] = { x with
          mode := modeOf (fld b 32 0 2), rateN := BitVec.ofNat 6 (fld b 36 0 6), offset := signedOf 32 (fld b 40 0 32)
          sscDepth := BitVec.ofNat 8 (fld b 44 0 8), sscRate := BitVec.ofNat 8 (fld b 44 8 8)
          loopback := fld b 48 0 1 = 1 } ∧ OneGroup s t g ∧
        (∀ q : Fin 8, let o := 64 + 16 * q.val
          let y := t.ports[(groupPort g q).val]
          y.inv = BitVec.ofNat 4 (fld b o 0 4) ∧ y.auto_ = decide (fld b o 4 1 = 1) ∧ y.startTx = decide (fld b o 5 1 = 1) ∧
            y.startTxe = decide (fld b o 6 1 = 1) ∧ y.pre = BitVec.ofNat 4 (fld b (o + 4) 0 4) ∧
            y.post = BitVec.ofNat 5 (fld b (o + 4) 8 5) ∧ y.swing = BitVec.ofNat 4 (fld b (o + 4) 16 4) ∧
            y.ctle = BitVec.ofNat 4 (fld b (o + 8) 0 4)) ∧
        ∀ n : Fin 128, portGroup n ≠ g → t.ports[n.val] = s.ports[n.val]) ∧
    (Accepted cmdPortGet p s → ∃ t, exec (.portGet p) s = .next t ∧ t = { s with queen := t.queen, hif := t.hif } ∧
      Completed cmdPortGet p s t (s.portBlock g ++ ((groupPorts g).map fun n => (s.ports[n.val]).status) ++
        [x.ctrl, x.status s.nowTu] ++ word2 (x.markCycle.toNat + x.markCount.toNat * 2 ^ 48 + x.markValue.toNat * 2 ^ 56) ++
        word2 (x.pgCycle s.nowTu).toNat ++ word2 x.idle.toNat ++ word2 x.clash.toNat ++
        [if x.calValid then x.calTemp.setWidth 32 else 0, 0])) ∧
    (Accepted cmdPortLinkStatus p s → let l := maskPorts g (param p 32 0 8)
      ∃ t, exec (.portLinkStatus p) s = .next t ∧
        Completed cmdPortLinkStatus p s t (l.flatMap fun n => (s.ports[n.val]).status :: (s.ports[n.val]).counts.toList) ∧
        t = { s with queen := t.queen, hif := t.hif, ports := t.ports } ∧
        ∀ n : Fin 128, t.ports[n.val] = if n ∈ l ∧ param p 32 8 1 = 1
          then { s.ports[n.val] with counts := Vector.replicate 6 0 } else s.ports[n.val])

/-- The PORT commands that start and stop (R134, R143, R152, R154, R160; 12, R347; 19): lanes and PRBS functions of the named
ports start and stop, a first function takes the device from READY to RUN, and `PORT_DETECT` runs until its tests end.
A `PORT_DETECT` ends with one word of findings for each named port (R156); a port in its safe state is not tested and keeps its safe
levels (R131, R132). The layout of that word, and that the reply of CLEAR gives the counts before they are cleared, are the model's
choices (DESIGN CHOICE, log entry 68). -/
def Obligations.PortFunctions : Prop :=
  (∀ (s : State) (p : Pkt),
     let l := maskPorts (Pkt.group p) (param p 32 0 8)
     let mode := if s.rsc.mode = .ready then Mode.run else s.rsc.mode
     let act := param p 32 8 4
     (Accepted cmdPortStart p s → ∃ t, exec (.portStart p) s = .next t ∧ Completed cmdPortStart p s t [] ∧
       t.rsc.mode = mode ∧ ∀ n : Fin 128, t.ports[n.val].started = (s.ports[n.val].started || decide (n ∈ l)) ∧
         (n ∈ l → s.ports[n.val].started = false → t.ports[n.val].txDisp = false ∧ t.ports[n.val].slips = 0)) ∧
     (Accepted cmdPortStop p s → ∃ t, exec (.portStop p) s = .next t ∧ Completed cmdPortStop p s t [] ∧
       t = { s with queen := t.queen, hif := t.hif, ports := t.ports, ev := t.ev, out := t.out } ∧
       ∀ n : Fin 128, t.ports[n.val].started = (s.ports[n.val].started && decide (n ∉ l))) ∧
     (Accepted cmdPortDetect p s → ∃ t, exec (.portDetect p) s = .next t ∧ StillRuns s t p ∧
       t = { s with queen := t.queen, hif := t.hif, ports := t.ports, ev := t.ev, out := t.out } ∧
       ∀ n : Fin 128, (n ∉ l → t.ports[n.val] = s.ports[n.val]) ∧
         (n ∈ l → s.portOn n = false ∨ s.portSafe n = false → t.ports[n.val].test.isSome = true ∧
           t.ports[n.val].tx = .hiz ∧ t.ports[n.val].txe = .hiz) ∧
         (n ∈ l → s.portOn n = true → s.portSafe n = true → t.ports[n.val].test = none ∧ t.ports[n.val].txe = .low ∧
           t.ports[n.val].tx = (if s.groups[(portGroup n).val].mode = .waveform then .low else .idle))) ∧
     (Accepted cmdPortPrbs p s → ∃ t, exec (.portPrbs p) s = .next t ∧
       Completed cmdPortPrbs p s t (l.flatMap fun n => (if act = 3 then s.ports[n.val] else t.ports[n.val]).prbsWords) ∧
       t.rsc.mode = (if act = 1 then mode else s.rsc.mode) ∧
       (∀ n : Fin 128, n ∉ l → t.ports[n.val].prbs = s.ports[n.val].prbs) ∧
       ∀ n ∈ l, let x := s.ports[n.val].prbs
         let y := t.ports[n.val].prbs
         (act = 0 → y = x) ∧
         (act = 1 → y.on = true ∧ y.gen = decide (param p 32 15 1 = 1) ∧ y.chk = decide (param p 32 16 1 = 1) ∧
           y.poly = BitVec.ofNat 2 (param p 32 12 2) ∧ y.invert = decide (param p 32 14 1 = 1) ∧ y.bits = 0 ∧ y.errs = 0 ∧
           y.genReg ≠ 0) ∧
         (act = 2 → y.on = false) ∧ (act = 3 → y = { x with bits := 0, errs := 0, losses := 0 }) ∧
         (act = 4 → y = { x with insert_ := x.on && x.gen }))) ∧
  (∀ (s : State) (g : Fin 16) (r : List (BitVec 16)) (j : Job),
     s.queen.jobs.find? (fun j => j.p.opcode = 0x0505 && j.phase = .running && Pkt.group j.p = g) = some j → Endable s j →
     s.queen.up = true → ∃ t, exec (.detectEnd g r) s = .next t ∧
       EndedDone j s t ((List.range j.ports.length).map fun i =>
         (detectWord (s.ports[(j.ports.getD i 0).val]).testSwapped (r.getD i 0)).setWidth 32) ∧
       (∀ n ∈ groupPorts g, t.ports[n.val].test = none)) ∧
  (∀ (v : Bool) (r : BitVec 16) (i : Fin 4), bitsOf r.toNat (4 * i.val) 4 < 5 →
     bitsOf (detectWord v r).toNat (4 * i.val) 4 = (if i = 2 ∧ v = true ∧ bitsOf r.toNat 8 4 < 3 then 5
       else if bitsOf r.toNat (4 * i.val) 4 = 2 ∧ 2 ≤ i.val then 1 else bitsOf r.toNat (4 * i.val) 4))

/-- Timing sets, site maps and skew (R97, R98, R118, R161; R487, R488): the records named are set as applied with the group's
control, the pins get their sites, set mode writes the offsets, calibrate mode runs on.
A calibration ends (R124, R488): the measured corrections of each named group are stored with their temperature unless its
die was reset or fenced meanwhile, and the reply tells them. -/
def Obligations.TimingCommands : Prop :=
  (∀ (s : State) (p : Pkt),
     let g := Pkt.group p
     (Accepted cmdTimTimingSet p s → let b := applied cmdTimTimingSet p
       let first := fld b 32 0 5
       let n := fld b 32 8 6
       ∃ t, exec (.timTimingSet p) s = .next t ∧ Completed cmdTimTimingSet p s t [] ∧ OneGroup s t g ∧
         t = { s with queen := t.queen, hif := t.hif, groups := t.groups } ∧
         (∀ i : Fin 32, t.groups[g.val].sets[i.val] = if first ≤ i.val ∧ i.val < first + n
           then timingOf b (i.val - first) else s.groups[g.val].sets[i.val]) ∧
         (fld b 32 16 1 = 1 → t.groups[g.val].tapEn = decide (fld b 36 0 1 = 1) ∧
           t.groups[g.val].underrunStop = decide (fld b 36 4 2 = 1) ∧ t.groups[g.val].tapMask = BitVec.ofNat 8 (fld b 36 8 8)) ∧
         (fld b 32 16 1 = 0 → t.groups[g.val].tapEn = s.groups[g.val].tapEn ∧
           t.groups[g.val].underrunStop = s.groups[g.val].underrunStop ∧ t.groups[g.val].tapMask = s.groups[g.val].tapMask)) ∧
     (Accepted cmdTimSiteMap p s → ∃ t, exec (.timSiteMap p) s = .next t ∧ Completed cmdTimSiteMap p s t [] ∧
       t = { s with queen := t.queen, hif := t.hif, groups := t.groups } ∧ OneGroup s t g ∧
       ∀ q : Fin 8, t.groups[g.val].pins[q.val] = { s.groups[g.val].pins[q.val] with
         site := Fin.ofNat 32 (param p (32 + 4 * q.val) 0 5), io := BitVec.ofNat 5 (param p (32 + 4 * q.val) 8 5)
         en := param p (32 + 4 * q.val) 16 1 = 1 }) ∧
     (Accepted cmdTimDeskew p s → param p 32 0 1 = 1 → ∀ h, groupsOf (fld (applied cmdTimDeskew p) 36 0 16) = [h] →
       fld (applied cmdTimDeskew p) 32 0 1 = 1 →
       ∃ t, exec (.timDeskew p) s = .next t ∧ Completed cmdTimDeskew p s t [] ∧ OneGroup s t h ∧
         t = { s with queen := t.queen, hif := t.hif, groups := t.groups } ∧
         ∀ (q : Fin 8) (i : Fin 4), (t.groups[h.val].pins[q.val].offsets)[i.val] =
           signedOf 16 (fld (applied cmdTimDeskew p) (40 + 8 * q.val + 2 * i.val) 0 16)) ∧
     (Accepted cmdTimDeskew p s → param p 32 0 1 = 0 → ∃ t, exec (.timDeskew p) s = .next t ∧ StillRuns s t p ∧
       t = { s with queen := t.queen, hif := t.hif } ∧ t.queen.cal = s.queen.cal ++ [(⟨.pcie, p.tag⟩, 0)])) ∧
  (∀ (s : State) (r : List CalResult) (k : JobKey) (disturbed : BitVec 4) (rest : List (JobKey × BitVec 4)) (j : Job)
     (g : Fin 16), s.queen.cal = (k, disturbed) :: rest → s.job? k = some j → Endable s j → j.key = k →
     groupsOf (fld j.args 36 0 16) = [g] →
     (∀ x, r.find? (fun x => x.group = g) = some x → disturbed.getLsbD (groupDie g).val = false →
       s.net.dies[(groupDie g).val].fenced = false → ∃ t, exec (.calibrationEnd r) s = .next t ∧
         EndedDone j s t (calWords x.temp true x.corr) ∧ t.queen.cal = rest ∧ OneGroup s t g ∧
         t.groups[g.val].calValid = true ∧ t.groups[g.val].calTemp = x.temp ∧
         ∀ (q : Fin 8) (i : Fin 4), (t.groups[g.val].pins[q.val].corr)[i.val] = x.corr.getD (4 * q.val + i.val) 0) ∧
     (∀ x, r.find? (fun x => x.group = g) = some x → s.net.dies[(groupDie g).val].fenced = true →
       ∃ t, exec (.calibrationEnd r) s = .next t ∧ EndedDone j s t (calWords x.temp false []) ∧ t.groups = s.groups))

/-! Worker commands (19_command_reference.md; 03, 04). -/

/-- `WORK_LOAD` from the packet's host data (R479, R480): the image fills the three memories from their start, the rest of them
is zero, nothing else in memory changes, and the Worker is IDLE at its reset values with its measurement; when no byte can be
read, the Worker stays as it was and the error is 5.
`WORK_START` (R61, R482, R483; 04, R115): every named Worker runs from its entry bundle with its registers at reset, the groups
of those that drive one are armed with their counts cleared, those of a group in protocol mode are cleared too (R486), and the
command waits for its start instant, at least 96 ns away.
That a first read which fails leaves the Worker as it was, and that a load keeps the window's setting, are the model's readings
(DEDUCED, log entry 43). -/
def Obligations.WorkersLoadAndStart : Prop :=
  (∀ (s : State) (p : Pkt) (image : Bytes), s.mem.wf = true → Accepted cmdWorkLoad p s → param p 32 0 1 = 1 →
     let w : Fin 32 := Fin.ofNat 32 p.unit.toNat
     let prog := param p 48 0 19
     let x := param p 52 0 17
     let y := param p 56 0 17
     (p.host = some image → image.length = prog + x + y → ∃ t result, exec (.workLoad p) s = .next t ∧
       Completed cmdWorkLoad p s t ([0, BitVec.ofNat 32 (prog + x + y)] ++ result) ∧
       t = { s with queen := t.queen, hif := t.hif, workers := t.workers, mem := t.mem } ∧
       t.workers[w.val].st = .idle ∧ t.workers[w.val].regs = Regs.reset ∧ t.workers[w.val].meas.isSome = true ∧
       (∀ v : Fin 32, v ≠ w → t.workers[v.val] = s.workers[v.val]) ∧
       (∀ i, i < 0x60000 → t.mem.byte (progBase w + i) =
         if i < prog then image.getD i 0
         else if 0x40000 ≤ i ∧ i < 0x40000 + x then image.getD (prog + (i - 0x40000)) 0
         else if 0x50000 ≤ i ∧ i < 0x50000 + y then image.getD (prog + x + (i - 0x50000)) 0 else 0) ∧
       ∀ a, a < progBase w ∨ progBase w + 0x60000 ≤ a → t.mem.byte a = s.mem.byte a) ∧
     (p.host = none → ∃ t, exec (.workLoad p) s = .next t ∧ Completed cmdWorkLoad p s t [5, 0] ∧
       t = { s with queen := t.queen, hif := t.hif })) ∧
  (∀ (s : State) (p : Pkt), Accepted cmdWorkStart p s →
     let gs := s.groupsToArm (workersOf (param p 32 0 32))
     ∃ t, exec (.workStart p) s = .next t ∧ StillRuns s t p ∧
       (∀ w : Fin 32, if (param p 32 0 32).testBit w.val
         then t.workers[w.val].st = .running ∧ t.workers[w.val].pc = BitVec.ofNat 15 (param p (40 + 2 * w.val) 0 15) ∧
           t.workers[w.val].regs = Regs.reset ∧ t.workers[w.val].cycl = 0 ∧ t.workers[w.val].started = false ∧
           t.workers[w.val].pend = [] ∧ t.workers[w.val].reps = [] ∧ t.workers[w.val].stack = [] ∧
           t.workers[w.val].window.en = s.workers[w.val].window.setEn
         else t.workers[w.val] = s.workers[w.val]) ∧
       (∀ g : Fin 16, if g ∈ gs
         then t.groups[g.val].st = .armed ∧ t.groups[g.val].run = Run.reset ∧ t.groups[g.val].cycle = 0 ∧
           t.groups[g.val].idle = 0 ∧ t.groups[g.val].clash = 0 ∧ t.groups[g.val].badCode = false ∧
           t.groups[g.val].sets = s.groups[g.val].sets
         else if g ∈ (workersOf (param p 32 0 32)).filterMap workerGroup
         then t.groups[g.val] = { s.groups[g.val] with
           run := Run.reset, cycle := 0, idle := 0, clash := 0, markValue := 0, markCount := 0, markCycle := 0
           supplyDist := false, lateStart := false, badCode := false, edgeClash := false, underrunSeen := false }
         else t.groups[g.val] = s.groups[g.val]) ∧
       t.starts = s.starts ++ [{ key := ⟨.pcie, p.tag⟩, workers := BitVec.ofNat 32 (param p 32 0 32), groups := gs
                                 at_ := none, tick := some (s.clk.ticks + 1536), ramp := s.pwr.rampStep.toNat, strobed := false
                                 stamp := none }])

/-- The start instant (R45, R483, R484): the checks run again; passed, the command commits with what started and when, to the root
tick (11, R331), `vwait` START completes for Workers without an armed group, and READY becomes RUN; failed, what had begun stops.
The other WORK commands (R481, R485, R486; 03, R60): the window setting, stops that wait for their boundary, line 0 of the
named Workers that are active, and the result records. -/
def Obligations.StartsAndWorkCommands : Prop :=
  (∀ (s : State) (k : JobKey) (x : Start) (j : Job),
     s.starts.find? (fun y => sameKey y.key k && y.strobed && y.tick.isSome) = some x → s.job? k = some j → j.key = k → Endable s j →
     let stamp := if s.tb0.set then x.stamp.getD s.tb0.value else 0
     (workStartCheck s x.workers.toNat false = none → ∃ t, exec (.startInstant k) s = .next t ∧
       EndedDone j s t [x.workers, BitVec.ofNat 32 (packBools ((allFin 16).map fun g => x.groups.contains g) + x.ramp * 2 ^ 16),
         stampNsOf stamp, stampSOf stamp] ∧
       t.rsc.mode = (if s.rsc.mode = .ready then .run else s.rsc.mode) ∧ t.groups = s.groups ∧
       ∀ w : Fin 32, t.workers[w.val] = if x.workers.getLsbD w.val
         then { s.workers[w.val] with
           startNs := stampNsOf stamp, startS := stampSOf stamp, started := s.workers[w.val].started || !s.workers[w.val].armed }
         else s.workers[w.val]) ∧
     (∀ v, workStartCheck s x.workers.toNat false = some v → s.queen.stopJobs = [] → s.dbg.haltJobs = [] →
       (∀ w : Fin 32, s.workers[w.val].dbg.stepJob = none) → ∃ t r, exec (.startInstant k) s = .next t ∧
         t.queen.replies = s.queen.replies ++ [r] ∧ r.key = k ∧ r.words = replyWords t j.p.opcode k.tag v.status v.idx j.late 0 [] ∧
         ∀ w : Fin 32, x.workers.getLsbD w.val = true → s.workers[w.val].active = true → t.workers[w.val].st = .stopped)) ∧
  (∀ (s : State) (p : Pkt),
     let w : Fin 32 := Fin.ofNat 32 p.unit.toNat
     let named := s.activeOf (param p 32 0 32)
     (Accepted cmdWorkStreamSet p s → ∃ t, exec (.workStreamSet p) s = .next t ∧ Completed cmdWorkStreamSet p s t [] ∧
       t = { s with queen := t.queen, hif := t.hif, workers := t.workers } ∧
       t.workers[w.val] = { s.workers[w.val] with window := { s.workers[w.val].window with
         setEn := param p 32 0 1 = 1, setBase := BitVec.ofNat 48 (param p 40 0 48)
         setLen := BitVec.ofNat 32 (param p 48 0 32) } } ∧
       ∀ v : Fin 32, v ≠ w → t.workers[v.val] = s.workers[v.val]) ∧
     (Accepted cmdWorkStop p s → named = [] → ∃ t, exec (.workStop p) s = .next t ∧ Completed cmdWorkStop p s t [0] ∧
       t = { s with queen := t.queen, hif := t.hif }) ∧
     (Accepted cmdWorkStop p s → named ≠ [] → (∀ v ∈ named, s.workers[v.val].st = .running) →
       ∃ t, exec (.workStop p) s = .next t ∧ StillRuns s t p ∧
         t = { s with queen := t.queen, hif := t.hif, workers := t.workers } ∧
         ∀ v : Fin 32, t.workers[v.val] = if v ∈ named then { s.workers[v.val] with stopJob := true } else s.workers[v.val]) ∧
     (Accepted cmdWorkSignal p s → ∃ t, exec (.workSignal p) s = .next t ∧
       Completed cmdWorkSignal p s t [BitVec.ofNat 32 (maskOf named)] ∧
       t = { s with queen := t.queen, hif := t.hif, workers := t.workers } ∧
       ∀ v : Fin 32, t.workers[v.val] = if v ∈ named
         then { s.workers[v.val] with regs := { s.workers[v.val].regs with wipend := s.workers[v.val].regs.wipend ||| 1 } }
         else s.workers[v.val]) ∧
     (Accepted cmdWorkStatus p s → ∃ t, exec (.workStatus p) s = .next t ∧
       Completed cmdWorkStatus p s t ((workersOf (param p 32 0 32)).flatMap s.workRecord) ∧
       t = { s with queen := t.queen, hif := t.hif }))

/-! The host interface and the commands at large (02_command_interface.md). -/

/-- Over a PCIe link that is up: the doorbells (R27): a count within the ring is taken, one that would leave it overfull is
ignored with `DB_RANGE`; a write of the submission doorbell clears `SUB_RESYNC`.
The enable bits (R25, R26): enabling a ring resets its counters, disabling it does not, and the submission ring stays disabled
after a PCIe reset while a tag of the path is in use. `HIF_ERR` clears the bits that a write gives (R6).
Writes of BAR0 settings (R25, R32): a ring's base keeps its low 12 bits zero and its size stays between 7 and 19; while the ring
is enabled a write is ignored with `CFG_WHILE_EN`; the holdoff takes its low 16 bits. With the link down an access does nothing.
A doorbell, which is WO, reads zero, and a sticky bit of a status register is cleared by writing it one (00, R6).
Which row writes a sticky bit of a status register is the model's choice (DESIGN CHOICE, log entry 53). -/
def Obligations.HostRegisters : Prop :=
  (∀ (s : State) (v : Word), s.hif.pcieUp = true →
     let h := s.hif
     let bad : Hif := { h with err := h.err ||| 4 }
     exec (.hifDoorbellSub v) s = .next { s with hif :=
       if 2 ^ h.subSize.toNat < (v - h.subHead).toNat then { bad with subResync := false }
       else { h with subBell := v, subResync := false } } ∧
     exec (.hifDoorbellRep v) s = .next { s with hif :=
       if 2 ^ h.repSize.toNat < (h.repTail - v).toNat then bad else { h with repBell := v } } ∧
     exec (.hifDoorbellEvt v) s = .next { s with hif :=
       if 2 ^ h.evtSize.toNat < (h.evtTail - v).toNat then bad else { h with evtBell := v } }) ∧
  (∀ (s : State) (v : Word), s.hif.pcieUp = true →
     (s.hif.subEn = false → s.hif.subHold = false ∨ s.tagsOn Path.isPcie = 0 → exec (.subEn true) s =
       .next { s with hif := { s.hif with subEn := true, subHold := false, subHead := 0, subBell := 0 } }) ∧
     (s.hif.subEn = false → s.hif.subHold = true → 0 < s.tagsOn Path.isPcie → exec (.subEn true) s = .next s) ∧
     exec (.subEn false) s = .next { s with hif := { s.hif with subEn := false } } ∧
     (s.hif.repEn = false → exec (.repEn true) s = .next { s with hif := { s.hif with repEn := true, repTail := 0, repBell := 0 } }) ∧
     exec (.repEn false) s = .next { s with hif := { s.hif with repEn := false } } ∧
     (s.hif.evtEn = false → exec (.evtEn true) s = .next { s with hif := { s.hif with evtEn := true, evtTail := 0, evtBell := 0 } }) ∧
     exec (.evtEn false) s = .next { s with hif := { s.hif with evtEn := false } } ∧
     exec (.hifErr v) s = .next { s with hif := { s.hif with err := s.hif.err &&& ~~~v } }) ∧
  (∀ (s : State) (v : Word), s.hif.pcieUp = true →
     let h := s.hif
     let size : BitVec 5 := BitVec.ofNat 5 (max 7 (min 19 (v.toNat % 32)))
     let low (b : BitVec 64) : BitVec 64 := b.extractLsb' 32 32 ++ (v &&& 0xFFFFF000)
     let high (b : BitVec 64) : BitVec 64 := v ++ b.extractLsb' 0 32
     let busy : State := { s with hif := { h with err := h.err ||| 2 } }
     (h.subEn = false → exec (.registerWrite (.bar0 0x10 v)) s = .next { s with hif := { h with subBase := low h.subBase } } ∧
       exec (.registerWrite (.bar0 0x14 v)) s = .next { s with hif := { h with subBase := high h.subBase } } ∧
       exec (.registerWrite (.bar0 0x18 v)) s = .next { s with hif := { h with subSize := size } }) ∧
     (h.repEn = false → exec (.registerWrite (.bar0 0x30 v)) s = .next { s with hif := { h with repBase := low h.repBase } } ∧
       exec (.registerWrite (.bar0 0x34 v)) s = .next { s with hif := { h with repBase := high h.repBase } } ∧
       exec (.registerWrite (.bar0 0x38 v)) s = .next { s with hif := { h with repSize := size } }) ∧
     (h.evtEn = false → exec (.registerWrite (.bar0 0x50 v)) s = .next { s with hif := { h with evtBase := low h.evtBase } } ∧
       exec (.registerWrite (.bar0 0x54 v)) s = .next { s with hif := { h with evtBase := high h.evtBase } } ∧
       exec (.registerWrite (.bar0 0x58 v)) s = .next { s with hif := { h with evtSize := size } }) ∧
     (h.subEn = true → ∀ off : BitVec 16, off = 0x10 ∨ off = 0x14 ∨ off = 0x18 → exec (.registerWrite (.bar0 off v)) s = .next busy) ∧
     (h.repEn = true → ∀ off : BitVec 16, off = 0x30 ∨ off = 0x34 ∨ off = 0x38 → exec (.registerWrite (.bar0 off v)) s = .next busy) ∧
     (h.evtEn = true → ∀ off : BitVec 16, off = 0x50 ∨ off = 0x54 ∨ off = 0x58 → exec (.registerWrite (.bar0 off v)) s = .next busy) ∧
     exec (.registerWrite (.bar0 0x70 v)) s = .next { s with hif := { h with irqHoldoff := v.setWidth 16 } } ∧
     (∀ off : BitVec 16, off = 0x20 ∨ off = 0x40 ∨ off = 0x60 → exec (.registerWrite (.bar0Read off)) s =
       .next (s.emit (.barData [0, 0, 0, 0])))) ∧
  (∀ (s : State) (off : BitVec 16) (v : Word), s.hif.pcieUp = false →
     (∀ i ∈ ([.hifDoorbellSub v, .hifDoorbellRep v, .hifDoorbellEvt v, .subEn true, .repEn true, .evtEn true, .hifErr v,
        .registerWrite (.bar0 off v), .registerWrite (.bar0Read off)] : List Instr), exec i s = .next s)) ∧
  (∀ (s : State) (v : Word) (g : Fin 16) (n : Fin 128) (b : Fin 8), ∃ t u x y,
     exec (.registerWrite (.status (.group g) v)) s = .next t ∧ OnlyGroup s t g ∧
       t.groups[g.val].lateStart = (s.groups[g.val].lateStart && !v.getLsbD 9) ∧
       t.groups[g.val].badCode = (s.groups[g.val].badCode && !v.getLsbD 8) ∧
       t.groups[g.val].edgeClash = (s.groups[g.val].edgeClash && !v.getLsbD 7) ∧
       t.groups[g.val].underrunSeen = (s.groups[g.val].underrunSeen && !v.getLsbD 6) ∧
     exec (.registerWrite (.status (.port n) v)) s = .next u ∧ u = { s with ports := u.ports } ∧
       u.ports[n.val].short = (s.ports[n.val].short &&& ~~~(v.extractLsb' 12 4)) ∧
       u.ports[n.val].polSwap = (s.ports[n.val].polSwap && !v.getLsbD 10) ∧
       u.ports[n.val].txFill = (s.ports[n.val].txFill && !v.getLsbD 9) ∧
       u.ports[n.val].cdrLost = (s.ports[n.val].cdrLost && !v.getLsbD 8) ∧
     exec (.registerWrite (.status (.base b) v)) s = .next x ∧
       x.tb = upd s.tb b (fun t => { t with syncLost := t.syncLost && !v.getLsbD 10 }) ∧ x = { s with tb := x.tb } ∧
     exec (.registerWrite (.status .debug v)) s = .next y ∧
       y = { s with dbg := { s.dbg with lockBroken := s.dbg.lockBroken && !v.getLsbD 3, seSupp := s.dbg.seSupp && !v.getLsbD 2 } })

/-- A packet with an unusable length (R35, R36): every slot up to the doorbell is discarded, `SUB_RESYNC` is set and `BAD_LENGTH`
replied under its tag, or `BAD_OPCODE` where its version or opcode is wrong too. Its row is any command's, and the row `SUB_RESYNC`.
Whatever the command (R27, R34, R37, R41): the ring's packet waits while the Queen core cannot fetch; a tag in use is
answered `TAG_IN_USE` and nothing else happens; a packet behind one that waits, or with a `FENCE` behind others, waits.
The checks come in their order (R35, R4, R33, R38, R39): version and opcode, length, target and unit, parameters with the
lowest index that fails, mode, then what the command's units answer; the first that fails is the reply. -/
def Obligations.PacketsAreChecked : Prop :=
  (∀ (s : State) (p : Pkt) (row : (Pkt → Instr) × CmdDef), row ∈ commandRows ∨ row.1 = .subResync → s.canFetch = true →
     (p.length.toNat < 32 ∨ p.length.toNat % 4 ≠ 0 ∨ (s.hif.subBell - s.hif.subHead).toNat < (p.length.toNat + 31) / 32) →
     s.tagUsed ⟨.pcie, p.tag⟩ = false → ∃ t r, exec (row.1 p) s = .next t ∧ t.hif = { s.hif with subHead := s.hif.subBell, subResync := true } ∧
       t.queen = { s.queen with replies := s.queen.replies ++ [r] } ∧ r.key = ⟨.pcie, p.tag⟩ ∧ r.holds = true ∧
       r.words = replyWords t p.opcode p.tag (if p.version = 1 ∧ knownOpcode p.opcode = true then stBadLength else stBadOpcode)
         0xFE false 0 [] ∧ t = { s with hif := t.hif, queen := t.queen }) ∧
  (∀ (s : State) (p : Pkt) (row : (Pkt → Instr) × CmdDef), row ∈ commandRows → p.opcode = row.2.code →
     (s.canFetch = false → exec (row.1 p) s = .next s) ∧
     (s.canFetch = true → s.unusable p = false → s.tagUsed ⟨.pcie, p.tag⟩ = true → ∃ t r, exec (row.1 p) s = .next t ∧
       t = { s with hif := (s.consume p).hif, queen := { s.queen with replies := s.queen.replies ++ [r] } } ∧
       r.holds = false ∧ r.words = replyWords t p.opcode p.tag stTagInUse 0xFF false 0 []) ∧
     (s.canFetch = true → s.unusable p = false → s.tagUsed ⟨.pcie, p.tag⟩ = false → s.mustWait .pcie p = true →
       p.opcode ≠ 0x0003 → exec (row.1 p) s = .next { s with
         hif := (s.consume p).hif, queen := { s.queen with jobs := s.queen.jobs ++ [Job.fresh .pcie p] } })) ∧
  (∀ (s : State) (p : Pkt) (row : (Pkt → Instr) × CmdDef), row ∈ commandRows → Fetched row.2 p s →
     let d := row.2
     let at_ := taken p s
     let version := p.version = 1
     let length := p.lengthUsable = true ∧ p.length.toNat = d.length p
     let target := (p.target = s.swarm.id ∨ p.target = 0xFF) ∧ p.unit.toNat ≤ d.unitMax
     let header := p.headerBad = false ∧ d.header p = false
     let bad := namingFails (d.fields p) p.block ++ reservedFails (d.fields p) p.block ++ d.naming at_ .pcie p
     let refused (v : Verdict) : Prop := ∃ t, exec (row.1 p) s = .next t ∧ RefusedWith p s t v
     (¬ version → refused ⟨stBadOpcode, 0xFE⟩) ∧
     (version → ¬ length → refused ⟨stBadLength, 0xFE⟩) ∧
     (version → length → ¬ target → refused ⟨stBadTarget, 0xFE⟩) ∧
     (version → length → target → ¬ header → refused ⟨stBadParam, 0xFE⟩) ∧
     (version → length → target → header → ∀ i, i ∈ bad → (∀ k ∈ bad, i ≤ k) → refused ⟨stBadParam, min i 253⟩) ∧
     (version → length → target → header → bad = [] → d.modes at_ p = false → refused ⟨stWrongMode, 0xFF⟩) ∧
     (version → length → target → header → bad = [] → d.modes at_ p = true →
       (∀ v, engineCheck at_ p = some v → refused v) ∧
       ∀ v, engineCheck at_ p = none → d.checks at_ (applyJob d (Job.fresh .pcie p)) = some v → refused v))

/-- Timed commands (R43 to R45, R334): with `TB0` UNSET they are refused, too late they end `TIMEOUT`, or with `LATE_OK` run at once,
their reply marked late; and with at least 5 µs to go they wait for their instant, 64 of them at most; a command other than
`WORK_START` does nothing before it.
A scheduled instant (R43, R45, R334) does nothing until `TB0` has reached it; then the checks of the units and of the engine that
executes it run again; failed, the command is refused, passed, it acts. -/
def Obligations.ScheduledCommands : Prop :=
  (∀ (s : State) (p : Pkt) (row : (Pkt → Instr) × CmdDef), row ∈ commandRows → Passes row.2 p s → p.execAt ≠ 0 →
     row.2.early = false →
     let soon := p.execAt < s.tb0.value + leadUnits
     (s.tb0.set = false → ∃ t, exec (row.1 p) s = .next t ∧ RefusedWith p s t ⟨stNotReady, 0xFF⟩) ∧
     (s.tb0.set = true → soon → p.lateOk = false → ∃ t, exec (row.1 p) s = .next t ∧ RefusedWith p s t ⟨stTimeout, 0xFF⟩) ∧
     (s.tb0.set = true → soon → p.lateOk = true → s.stuckAt p = none → s.waitsMemory p = false →
       let j : Job := { begunJob row.2 p with late := true }
       exec (row.1 p) s = .next (finish j (row.2.act j ((taken p s).setJob j)))) ∧
     (s.tb0.set = true → ¬ soon → 64 ≤ s.scheduledCount → ∃ t, exec (row.1 p) s = .next t ∧
       RefusedWith p s t ⟨stNotReady, 0xFF⟩) ∧
     (s.tb0.set = true → ¬ soon → s.scheduledCount < 64 → exec (row.1 p) s = .next { s with
       hif := (s.consume p).hif
       queen := { s.queen with jobs := s.queen.jobs ++ [{ applyJob row.2 (Job.fresh .pcie p) with phase := .scheduled p.execAt }] } })) ∧
  (∀ (s : State) (k : JobKey) (j : Job) (at_ : Nat), s.job? k = some j → j.key = k → j.phase = .scheduled at_ →
     (timedStart j.p.opcode = true ∨ (s.queen.serves = true ∧ s.queenClocked = true)) →
     let d := cmdOf j.p.opcode
     d.early = false →
     (s.tb0.value < at_ → exec (.scheduledInstant k) s = .next s) ∧
     (at_ ≤ s.tb0.value → engineCheck s j.p = none → d.checks s j = none → s.stuckAt j.p = none → s.waitsMemory j.p = false →
       exec (.scheduledInstant k) s = .next (finish { j with phase := .running } (d.act { j with phase := .running } (s.setJob { j with phase := .running })))) ∧
     (∀ v, at_ ≤ s.tb0.value → firstOf [engineCheck s j.p, d.checks s j] = some v → Endable s j → d.refused j v s = s → ∃ t, exec (.scheduledInstant k) s = .next t ∧
       ∃ r, t.queen.replies = s.queen.replies ++ [r] ∧ r.key = k ∧
         r.words = replyWords t j.p.opcode k.tag v.status v.idx j.late 0 [] ∧ t = { s with queen := t.queen }))

/-- Replies and event records are written in order while their ring has room (R29 to R32; 18, R458, R461): the tail moves by the
slots written, a reply's tag is free, bit 31 of a reply's word 2 is 1 on the first pass through the ring and alternates from
pass to pass, and the vector is signalled or, within its holdoff gap, waits in the pending bits.
The EVT commands (18, R460, R461, R465): masks with pending records of masked events discarded, routes, status with its clear,
and acknowledgement that leaves pending records. -/
def Obligations.EventsAndRings : Prop :=
  (∀ (s : State),
     (∀ r l, s.queen.replies = r :: l → s.queen.serves = true → s.queenClocked = true → s.hif.pcieUp = true → s.hif.repEn = true →
       s.rsc.hib = .awake → r.slots ≤ s.hif.repFree → r.after = .nothing → ∃ t ws, exec .replyWrite s = .next t ∧
         t.queen = { s.queen with replies := l } ∧ t.hif.repTail = s.hif.repTail + BitVec.ofNat 32 r.slots ∧
         (s.hif.msixGap.getLsbD 0 = false → t.out = .msix 0 ::
           .replyRing (BitVec.ofNat 32 (s.hif.repTail.toNat % 2 ^ s.hif.repSize.toNat)) ws :: s.out) ∧
         (s.hif.msixGap.getLsbD 0 = true → t.hif.msixPba.getLsbD 0 = true) ∧ ws.length = r.words.length ∧
         (∀ i, i ≠ 2 → ws.getD i 0 = r.words.getD i 0) ∧
         (2 < r.words.length → ws.getD 2 0 = r.words.getD 2 0 |||
           (if s.hif.repTail.toNat / 2 ^ s.hif.repSize.toNat % 2 = 0 then 0x80000000 else 0))) ∧
     (∀ r l, s.queen.replies = r :: l → s.hif.repFree < r.slots → exec .replyWrite s = .next s) ∧
     (∀ r l, s.ev.latch = r :: l → s.hif.pcieUp = true → s.hif.evtEn = true → 0 < s.hif.evtFree → s.rsc.hib = .awake → ∃ t,
       exec .eventWrite s = .next t ∧ t = { s with ev := { s.ev with latch := l }, hif := t.hif, out := t.out } ∧
         let x := s.ev.src[r.event.val]
         let v : Fin 64 := ⟨x.vector.toNat, x.vector.isLt⟩
         let record : Output := .eventRing (BitVec.ofNat 32 (s.hif.evtTail.toNat % 2 ^ s.hif.evtSize.toNat)) (r.words s.hif.evtTail)
         t.hif.evtTail = s.hif.evtTail + 1 ∧
         (x.msi = false → t.out = record :: s.out ∧ t.hif = { s.hif with evtTail := s.hif.evtTail + 1 }) ∧
         (x.msi = true → s.hif.msixGap.getLsbD v.val = false → t.out = .msix v :: record :: s.out ∧
           t.hif.msixGap.getLsbD v.val = decide (s.hif.irqHoldoff ≠ 0)) ∧
         (x.msi = true → s.hif.msixGap.getLsbD v.val = true → t.out = record :: s.out ∧ t.hif.msixPba.getLsbD v.val = true)) ∧
     (∀ v : Fin 64, s.hif.msixGap.getLsbD v.val = true → ∃ t, exec (.irqHoldoffExpiry v) s = .next t ∧
       t.hif.msixPba.getLsbD v.val = false ∧ t.hif.msixGap.getLsbD v.val =
         (s.hif.msixPba.getLsbD v.val && decide (s.hif.irqHoldoff ≠ 0)) ∧
       t.out = if s.hif.msixPba.getLsbD v.val then .msix v :: s.out else s.out)) ∧
  (∀ (s : State) (p : Pkt),
     let same (t : State) : Prop := t = { s with queen := t.queen, hif := t.hif, ev := t.ev }
     (Accepted cmdEvtMaskSet p s → let m := param p 32 0 256
       ∃ t, exec (.evtMaskSet p) s = .next t ∧ Completed cmdEvtMaskSet p s t [] ∧ same t ∧
         (∀ e : Fin 256, t.ev.src[e.val] = { s.ev.src[e.val] with mask := m.testBit e.val }) ∧
         t.ev.latch = s.ev.latch.filter fun r => !m.testBit r.event.val) ∧
     (Accepted cmdEvtRouteSet p s → let first := param p 32 0 8
       let n := param p 32 8 9
       ∃ t, exec (.evtRouteSet p) s = .next t ∧ Completed cmdEvtRouteSet p s t [] ∧ same t ∧ t.ev.latch = s.ev.latch ∧
         ∀ e : Fin 256, t.ev.src[e.val] = if first ≤ e.val ∧ e.val < first + n
           then { s.ev.src[e.val] with
             vector := BitVec.ofNat 6 (param p (36 + 4 * (e.val - first)) 0 6)
             msi := (param p (36 + 4 * (e.val - first)) 0 9).testBit 6
             irq := (param p (36 + 4 * (e.val - first)) 0 9).testBit 8 }
           else s.ev.src[e.val]) ∧
     (Accepted cmdEvtStatus p s → ∃ t, exec (.evtStatus p) s = .next t ∧ Completed cmdEvtStatus p s t s.evtStatusBody ∧ same t ∧
       t.ev.latch = s.ev.latch ∧ ∀ e : Fin 256, t.ev.src[e.val] =
         if param p 32 0 1 = 1 then { s.ev.src[e.val] with count := 0 } else s.ev.src[e.val]) ∧
     (Accepted cmdEvtAck p s → ∃ t, exec (.evtAck p) s = .next t ∧ Completed cmdEvtAck p s t [] ∧ same t ∧
       t.ev.latch = s.ev.latch ∧ ∀ e : Fin 256, t.ev.src[e.val] =
         if (param p 32 0 256).testBit e.val then { s.ev.src[e.val] with active := false } else s.ev.src[e.val]))

/-- The SYS commands that read (R474, R476 to R478; 19): each replies its body and changes nothing.
`SYS_ABORT` (R48, R49, R475): a tag that nothing holds is `ALREADY_DONE`; a command that has not begun or is scheduled ends
`ABORTED` with no effect; one that runs and is at a safe point stops there, `ABORTED` with what it did: `CLK_MEASURE`,
`CFG_READBACK`, `WORK_START` before its instant (R484), `BROOD_SOLVE`, `MEM_REKEY` before its keys, `DBG_STEP`; any other that
runs is waited for. A `SYS_ABORT` with an instant, or that names another `SYS_ABORT`, one whose reply waits too, is refused
(R51). -/
def Obligations.SysCommands : Prop :=
  (∀ (s : State) (p : Pkt),
     let same (t : State) : Prop := t = { s with queen := t.queen, hif := t.hif }
     (Accepted cmdSysNop p s → ∃ t, exec (.sysNop p) s = .next t ∧ Completed cmdSysNop p s t [] ∧ same t) ∧
     (Accepted cmdSysIdentify p s → ∃ t, exec (.sysIdentify p) s = .next t ∧
       Completed cmdSysIdentify p s t s.identifyBody ∧ same t ∧ s.identifyBody.getD 0 0 = 0x41280101) ∧
     (Accepted cmdSysInventory p s → ∃ t, exec (.sysInventory p) s = .next t ∧
       Completed cmdSysInventory p s t s.inventoryBody ∧ same t) ∧
     (Accepted cmdSysStatus p s → let u := begun cmdSysStatus p s
       ∃ t, exec (.sysStatus p) s = .next t ∧ same t ∧ Completed cmdSysStatus p s t
         [u.hifStatus, u.rscStatus, s.rscCause, s.rscBoot, u.hifTags,
          BitVec.ofNat 32 (s.scheduledCount % 256 + s.tagsOn Path.isFwd % 256 * 2 ^ 8 + s.ev.latch.length * 2 ^ 16),
          s.stampNs, s.tb0.sec.setWidth 32, s.tbState 0, s.rscVin, s.pwrFlags,
          BitVec.ofNat 32 (packBools ((allFin 32).map fun w =>
            s.workers[w.val].active && !s.net.dies[(workerDie w).val].fenced))]) ∧
     (Accepted cmdModeGet p s → ∃ t, exec (.modeGet p) s = .next t ∧ same t ∧ Completed cmdModeGet p s t
       [BitVec.ofNat 32 s.rsc.mode.code, s.rscCause, s.rscBoot, s.rsc.enteredNs, s.rsc.enteredS, BitVec.ofNat 32 s.functions])) ∧
  ((∀ (s : State) (p : Pkt), Fetched cmdSysAbort p s → p.version = 1 → p.length = 36 →
     (p.target = s.swarm.id ∨ p.target = 0xFF) → p.unit = 0 → p.headerBad = false →
     (p.execAt ≠ 0 → ∃ t, exec (.sysAbort p) s = .next t ∧ RefusedWith p s t ⟨stBadParam, 0xFE⟩) ∧
     (∀ j, p.execAt = 0 → reservedFails (cmdSysAbort.fields p) p.block = [] →
       (taken p s).job? ⟨.pcie, BitVec.ofNat 16 (fld p.block 32 0 16)⟩ = some j → j.p.opcode = 0x0003 →
       ∃ t, exec (.sysAbort p) s = .next t ∧ RefusedWith p s t ⟨stBadParam, 0⟩) ∧
     (∀ r ∈ s.queen.replies, p.execAt = 0 → reservedFails (cmdSysAbort.fields p) p.block = [] → r.holds = true →
       r.key = ⟨.pcie, BitVec.ofNat 16 (fld p.block 32 0 16)⟩ → (r.words.getD 0 0).extractLsb' 0 16 = (0x0003 : BitVec 16) →
       ∃ t, exec (.sysAbort p) s = .next t ∧ RefusedWith p s t ⟨stBadParam, 0⟩)) ∧
   (∀ (s : State) (p : Pkt), Accepted cmdSysAbort p s →
     let k : JobKey := ⟨.pcie, BitVec.ofNat 16 (param p 32 0 16)⟩
     k ≠ ⟨.pcie, p.tag⟩ →
     (s.job? k = none → ∃ t r, exec (.sysAbort p) s = .next t ∧ t = { s with queen := t.queen, hif := t.hif } ∧
       t.queen.replies = s.queen.replies ++ [r] ∧ r.key = ⟨.pcie, p.tag⟩ ∧ t.queen.jobs = s.queen.jobs ∧
       r.words = replyWords t p.opcode p.tag stAlready 0xFF false 0 p.block) ∧
     (∀ j, s.job? k = some j → j.key = k → j.phase = .waiting ∨ j.phase = .memory ∨ ((∃ a, j.phase = .scheduled a) ∧ s.starts = []) →
       j.discard = false → s.abortAsked k = false → ∃ t r q, exec (.sysAbort p) s = .next t ∧
         t = { s with queen := t.queen, hif := t.hif } ∧ t.queen.replies = s.queen.replies ++ [r, q] ∧ r.key = k ∧
         r.words = replyWords t j.p.opcode k.tag stAborted 0xFF j.late 0 [] ∧ q.key = ⟨.pcie, p.tag⟩ ∧
         q.words = replyWords t p.opcode p.tag stDone 0xFF false 0 p.block ∧
         t.queen.jobs = s.queen.jobs.filter fun i => !sameKey i.key k) ∧
     (∀ j, s.job? k = some j → j.key = k → j.discard = false → s.abortAsked k = false →
       let stopped (body : Words) (t : State) : Prop := ∃ r q, t.queen.replies = s.queen.replies ++ [r, q] ∧ r.key = k ∧
         r.words = replyWords t j.p.opcode k.tag stAborted 0xFF j.late j.mask (echoOf (echoEndOf j.p.opcode) j.args ++ body) ∧
         q.key = ⟨.pcie, p.tag⟩ ∧ q.words = replyWords t p.opcode p.tag stDone 0xFF false 0 p.block ∧
         t.queen.jobs = s.queen.jobs.filter fun i => !sameKey i.key k
       let calm : Prop := s.queen.stopJobs = [] ∧ s.dbg.haltJobs = [] ∧ ∀ w : Fin 32, s.workers[w.val].dbg.stepJob = none
       (j.phase = .running → j.p.opcode = 0x0303 → ∃ t, exec (.sysAbort p) s = .next t ∧ stopped [] t ∧
         t.clk = { s.clk with measures := s.clk.measures.filter fun m => !m.key.any (sameKey · k) }) ∧
       (∀ x, j.phase = .running → j.p.opcode = 0x0405 → s.cfg.readbacks.find? (fun x => sameKey x.key k) = some x →
         ∃ t, exec (.sysAbort p) s = .next t ∧ stopped x.words t ∧ ∀ y ∈ t.cfg.readbacks, sameKey y.key x.key = false) ∧
       (∀ x, (j.phase = .running ∧ j.p.opcode = 0x0701) ∨ (∃ a, j.phase = .scheduled a) →
         s.starts.find? (fun x => sameKey x.key k) = some x → calm →
         let stamp := if s.tb0.set then x.stamp.getD s.tb0.value else 0
         ∃ t, exec (.sysAbort p) s = .next t ∧ (∀ y ∈ t.starts, sameKey y.key x.key = false) ∧
           stopped [BitVec.ofNat 32 (packBools ((allFin 32).map fun w => x.workers.getLsbD w.val && s.workers[w.val].active)),
             BitVec.ofNat 32 (packBools ((allFin 16).map fun g => x.groups.contains g) + x.ramp * 2 ^ 16),
             stampNsOf stamp, stampSOf stamp] t ∧
           ∀ w : Fin 32, x.workers.getLsbD w.val = true → s.workers[w.val].active = true → t.workers[w.val].st = .stopped) ∧
       (j.phase = .running → j.p.opcode = 0x0902 → ∃ t, exec (.sysAbort p) s = .next t ∧
         stopped ((sitesOf (fld j.args 32 0 32)).flatMap s.siteSummary) t ∧ ∀ y ∈ t.brood.solves, sameKey y.key k = false) ∧
       (∀ x, j.phase = .running → j.p.opcode = 0x0A03 → s.mem.rekey = some x → x.begun = false → s.mem.waiting = [] →
         ∃ t, exec (.sysAbort p) s = .next t ∧ stopped [] t ∧ t.mem = { s.mem with rekey := none }) ∧
       (j.phase = .running → j.p.opcode = 0x1007 → s.queen.stopJobs = [] → s.dbg.haltJobs = [] →
         let w : Fin 32 := Fin.ofNat 32 j.p.unit.toNat
         ∃ t, exec (.sysAbort p) s = .next t ∧ stopped [BitVec.ofNat 32 s.workers[w.val].dbg.stepDone] t ∧
           t.workers[w.val].dbg.stepLeft = none ∧ (s.workers[w.val].st = .running → t.workers[w.val].st = .halted))) ∧
     (∀ j, s.job? k = some j → j.phase = .running → j.p.opcode ∉ ([0x0303, 0x0405, 0x0701, 0x0902, 0x0A03, 0x1007] : List (BitVec 16)) →
       s.swarm.forwards = [] → s.bist.run = none →
       ∃ t, exec (.sysAbort p) s = .next t ∧ t.queen.replies = s.queen.replies ∧
         ∃ a ∈ t.queen.jobs, a.key = ⟨.pcie, p.tag⟩ ∧ a.phase = .awaiting k.tag)))

/-- The I²C path (R53 to R56; 12, R364): a packet is taken with a right error code and its own length, not acknowledged while
the Queen core cannot take it, and without effect but `PEC_ERR` when the code is wrong; a reply is read from its first byte and
consumed when its last byte has been read; with none waiting a read returns zeros.
The rescue registers (R53, R54; 18, R461; 12, R356; 00, R6): a read gives the bytes of the range from the pointer on, zeros
behind it and at `RSC_RESET` and 0x1C, and one of the byte of `PEC_ERR` clears that bit; a pointer not listed is not
acknowledged; a write with a wrong code only sets `PEC_ERR`, a write of a read-only register nothing; acknowledging clears the
active bits given; `RSC_RESET` acts on its key and scope alone, and has rows of its own. Which bytes a register takes of a
write, and that one at pointer 0x81 with a right code does nothing, are the model's choices (DESIGN CHOICE, log entry 53). -/
def Obligations.RescuePath : Prop :=
  (∀ (s : State) (data : Bytes) (pec : Byte) (host : Option Bytes), s.pdOn 0 = true → s.rsc.hib = .awake →
     let p := Pkt.ofWords (wordsOfBytes data) host
     let able := s.queen.serves = true ∧ s.queenClocked = true ∧ s.tagsOn Path.isI2c < 4
     (¬ able → exec (.i2cPacketWrite data pec host) s = .next (s.emit .i2cNack)) ∧
     (able → s.pecOk 0x80 data pec = false → exec (.i2cPacketWrite data pec host) s =
       .next { s with rsc := { s.rsc with pecErr := true } }) ∧
     (∀ row ∈ commandRows, able → s.pecOk 0x80 data pec = true → data.length ≤ 1024 → p.length.toNat = data.length →
       p.opcode = row.2.code → exec (.i2cPacketWrite data pec host) s = .next (row.2.take .i2c p s)) ∧
     (able → s.pecOk 0x80 data pec = true → data.length ≤ 1024 → p.length.toNat = data.length → p.opcode = 0 →
       s.tagUsed ⟨.i2c, p.tag⟩ = false → s.abortAsked ⟨.i2c, p.tag⟩ = false → s.mustWait .i2c p = false → p.execAt = 0 →
       acceptCheck cmdSysNop (s.addJob (Job.fresh .i2c p)) (Job.fresh .i2c p) = none →
       ∃ t r, exec (.i2cPacketWrite data pec host) s = .next t ∧ t.queen.i2cReplies = s.queen.i2cReplies ++ [r] ∧
         r.key = ⟨.i2c, p.tag⟩ ∧ t.queen.replies = s.queen.replies ∧
         r.words = replyWords t 0 p.tag stDone 0xFF false 0 []) ∧
     (∀ r l n, s.queen.i2cReplies = r :: l → r.words ≠ [] → ∃ t bytes, exec (.i2cReplyRead n) s = .next t ∧
       t.out = .i2c bytes :: s.out ∧ bytes.take n = ((bytesOfWords r.words) ++ List.replicate n 0).take n ∧
       t.queen.i2cReplies = if (bytesOfWords r.words).length ≤ n then l else r :: l) ∧
     (∀ n, s.queen.i2cReplies = [] → ∃ t bytes, exec (.i2cReplyRead n) s = .next t ∧ t.out = .i2c bytes :: s.out ∧
       bytes.take n = List.replicate n 0 ∧ t.queen.i2cReplies = [])) ∧
  (∀ (s : State) (ptr : Byte) (n : Nat) (data : Bytes) (pec : Byte), s.pdOn 0 = true → s.rsc.hib = .awake →
     (ptr.toNat < 0x24 → ∃ t bytes, exec (.rscStatusRead ptr n) s = .next t ∧ t.out = .i2c bytes :: s.out ∧
       bytes.take n = (s.rscBytes.drop ptr.toNat ++ List.replicate n 0).take n ∧ bytes.length = n + 1 ∧
       t = { s with rsc := t.rsc, out := t.out } ∧
       t.rsc = { s.rsc with pecErr := s.rsc.pecErr && !(decide (ptr.toNat ≤ 5 ∧ 5 < ptr.toNat + n)) }) ∧
     ((s.rscBytes.drop 4).take 4 = numBytes 4 s.rscStatus.toNat ∧ (s.rscBytes.drop 0x18).take 8 = List.replicate 8 0 ∧
       s.rscBytes.length = 0x24) ∧
     (0x24 ≤ ptr.toNat → ptr ≠ 0x80 → ptr ≠ 0x81 → exec (.rscStatusRead ptr n) s = .next (s.emit .i2cNack) ∧
       exec (.registerWrite (.rescue ptr data pec)) s = .next (s.emit .i2cNack)) ∧
     (ptr.toNat < 0x24 ∨ ptr = 0x81 → s.pecOk ptr data pec = false → exec (.registerWrite (.rescue ptr data pec)) s =
       .next { s with rsc := { s.rsc with pecErr := true } }) ∧
     (ptr.toNat < 0x24 ∨ ptr = 0x81 → s.pecOk ptr data pec = true → ptr ≠ 0x0C → ptr ≠ 0x10 → ptr ≠ 0x18 →
       exec (.registerWrite (.rescue ptr data pec)) s = .next s)) ∧
  (∀ (s : State) (v : Word) (pec : Byte) (hi : Bool) (bs : BitVec 2), s.pdOn 0 = true → s.rsc.hib = .awake →
     let lo := if hi then 32 else 0
     let key := bitsOf v.toNat 0 16 = 0x5155
     let scope := bitsOf v.toNat 16 2
     (s.pecOk (if hi then 0x10 else 0x0C) (numBytes 4 v.toNat) pec = true → ∃ t, exec (.rscEvtAck hi v pec) s = .next t ∧
       t = { s with ev := t.ev } ∧ t.ev.latch = s.ev.latch ∧ ∀ e : Fin 256, t.ev.src[e.val] =
         if lo ≤ e.val ∧ e.val < lo + 32 ∧ v.getLsbD (e.val - lo) = true then { s.ev.src[e.val] with active := false }
         else s.ev.src[e.val]) ∧
     (s.pecOk 0x18 (numBytes 4 v.toNat) pec = true → ¬ key → exec (.rscResetQueen v pec) s = .next s ∧
       exec (.rscResetDevice v pec bs) s = .next s) ∧
     (s.pecOk 0x18 (numBytes 4 v.toNat) pec = true → key → scope = 1 → s.rsc.startupDone = true → s.rsc.deferred = none →
       ∃ t, exec (.rscResetQueen v pec) s = .next t ∧ t.queen.up = false ∧ t.rsc.lastReset = 2 ∧ t.rsc.mode = s.rsc.mode ∧
         t.tb = s.tb ∧ t.sec.owner = s.sec.owner) ∧
     (s.pecOk 0x18 (numBytes 4 v.toNat) pec = true → key → scope = 2 → s.nvBusy = false → s.powerOnRuns = false →
       s.rsc.deferred = none → ∃ t, exec (.rscResetDevice v pec bs) s = .next t ∧ DeviceWasReset s t))

/-! Modes, resets and start-up (12_modes_startup_reset.md). -/

/-- Resets (R356 to R360): `SYS_RESET` arms its scope when its reply has been delivered; a device reset waits for an NV write in
progress and is absorbed while the start-up of a power-on runs; `RESET_N` holds the device at start-up step 3 until it returns
high, when `BOOTSEL` is sampled; a Queen reset keeps mode, time and NV store.
`SYS_RESET` (R360): it replies before its reset, which the delivery of the reply arms.
A PCIe reset (R26, R57): BAR0 is at its reset values, the replies of the path are discarded, those still to come will be, and
the submission ring waits until no tag of the path is in use; it is absorbed while a start-up runs. The link comes up with its
domain, the root PLL and its reference. The retry status ends at its limit (12, R354).
That commands which hold a tag go on over a PCIe reset, also those that wait, and that step 3 of every start-up samples
`BOOTSEL`, are the model's readings (DEDUCED, log entries 23 and 44). -/
def Obligations.Resets : Prop :=
  (∀ (s : State), s.pdOn 0 = true → s.powerOnRuns = true →
     exec .deviceReset s = .next { s with rsc := { s.rsc with resetLow := true } }) ∧
  (∀ (s : State) (bs : BitVec 2), s.pdOn 0 = true → s.powerOnRuns = false →
     let going (t : State) : Prop := if s.clk.pll = .locked then t.rsc.bootStep = 5 ∧ t.clk.mux = 0b111111
       else t.rsc.bootStep = 4 ∧
         t.clk.pll = if (s.clk.pll = .coasting ∨ s.clk.pll = .ramping) ∧ s.clk.refOk = true then .ramping else .locking
     (s.nvBusy = false → s.rsc.deferred ≠ some .powerOn →
       ∃ t, exec .deviceReset s = .next t ∧ DeviceWasReset s t ∧ t.rsc.bootStep = 3 ∧ t.rsc.resetLow = true) ∧
     (s.nvBusy = true → s.rsc.deferred ≠ some .powerOn → exec .deviceReset s = .next { s with rsc := { s.rsc with
       resetLow := true, deferred := some .device, armedReset := none } }) ∧
     (s.rsc.resetLow = true → s.rsc.deferred = none → s.rsc.bootStep = 3 → s.rsc.startupDone = false →
       ∃ t, exec (.resetNRelease bs) s = .next t ∧ t.rsc.resetLow = false ∧ t.rsc.bootsel = bs ∧ going t) ∧
     (s.rsc.deferred = some .device → s.pwr.loss = none → s.nvBusy = false →
       ∃ t, exec (.deferredReset bs) s = .next t ∧ DeviceWasReset s t) ∧
     (∀ x, s.rsc.deferred = some .powerOn → s.pwr.loss = some x → s.nvBusy = false →
       ∃ t, exec (.deferredReset bs) s = .next t ∧ PowerWasLost s t x.supply x.cause) ∧
     (s.rsc.armedReset = some .device → s.nvBusy = false → s.rsc.deferred ≠ some .powerOn → ∃ t, exec (.resetBegin bs) s = .next t ∧ DeviceWasReset s t) ∧
     (s.rsc.armedReset = some .queen → s.rsc.startupDone = true → s.rsc.deferred = none → ∃ t, exec (.resetBegin bs) s = .next t ∧
       t.queen.up = false ∧ t.rsc.lastReset = 2 ∧ t.rsc.mode = s.rsc.mode ∧ t.rsc.armedReset = none ∧ t.tb = s.tb ∧
       t.sec.owner = s.sec.owner ∧ t.queen.cal = [] ∧ t.swarm.forwards = [])) ∧
  (∀ (s : State) (p : Pkt), Accepted cmdSysReset p s → ∃ t r, exec (.sysReset p) s = .next t ∧
     Completed cmdSysReset p s t [] ∧ t = { s with queen := t.queen, hif := t.hif } ∧ t.queen.replies.getLast? = some r ∧
     r.after = .reset (if param p 32 0 2 = 1 then .device else .queen)) ∧
  (∀ (s : State),
     (s.rsc.startupDone = false → exec .pcieReset s = .next s) ∧
     (s.rsc.startupDone = true → s.rsc.hib = .awake → ∃ t, exec .pcieReset s = .next t ∧ t.queen.replies = [] ∧
       t = { s with hif := t.hif, queen := t.queen, ev := t.ev } ∧ (s.hif.pcieUp = true → Raised s t 46) ∧
       (s.hif.pcieUp = false → t.ev = s.ev) ∧
       t.hif = { State.reset.hif with crs := s.hif.crs, ptmOn := s.hif.ptmOn, subHold := decide (0 < s.tagsOn Path.isPcie) } ∧
       ∀ j ∈ t.queen.jobs, j.key.path.isPcie = true → j.discard = true) ∧
     (∀ ptm, s.pdOn 3 = true → s.clk.runs = true → s.clk.refOk = true → s.hif.pcieUp = false → s.rsc.hib = .awake →
       ∃ t, exec (.pcieLinkUp ptm) s = .next t ∧ t.hif = { s.hif with pcieUp := true, ptmOn := ptm } ∧ Raised s t 46) ∧
     exec .crsTimeout s = .next { s with hif := { s.hif with crs := false } })

/-- Start-up (R351 to R354, R357; 13, R370; 14, R394): VIN starts the bus, its regulation sets `VB` and the cap and samples the
pins, unless `RESET_N` is low, which holds step 3; the PLL's lock or its timeout leads to step 5, and sound firmware on a locked
PLL to step 6; firmware refused, or without a PLL, leads to SAFE. After a Queen reset too, a block of the NV store that cannot
be read is empty and raises `E042` (15, R419), shown on rollback counters and the owner record.
That the blocks that cannot be read come with the check of the firmware is the model's choice (DESIGN CHOICE, log entry 47); the
layout of the image's header is PRESUMED (log entry 75). -/
def Obligations.StartUpSteps : Prop :=
  ∀ (s : State) (mv low : BitVec 16) (bootsel : BitVec 2) (addr : BitVec 3) (fw : FwImage),
    let accepted : Bool := (s.lostBlocks fw).fwAccepted fw
    (accepted = true → fwWord fw 0 = fwFormat ∧ (s.lostBlocks fw).sec.counters[0].toNat ≤ (fwVersion fw).toNat ∧
      ∃ k, Config.fwKey (fw.header.drop 12) = some k ∧ Config.isRoot k.2 = true ∧
        Config.verify k.1 (fw.header ++ fw.body) (fw.trailer.drop 4) = true) ∧
    (s.pwr.supply = .off → 5800 < mv.toNat → ∃ t, exec (.powerOn mv low) s = .next t ∧ t.pwr.supply = .soft ∧ t.rsc.bootStep = 1) ∧
    (s.pwr.supply = .soft → ∃ t, exec (.softStartEnd mv bootsel addr) s = .next t ∧ t.pwr.supply = .on ∧ t.pwr.vinNow = mv ∧
      t.pwr.vb = max 6000 (min 40000 (mv.toNat / 100 * 100)) ∧ t.pwr.cap = 4500 ∧ t.rsc.i2cAddr = addr ∧
      (s.rsc.resetLow = true → t.rsc.bootStep = 3) ∧
      (s.rsc.resetLow = false → t.rsc.bootsel = bootsel ∧ (t.rsc.bootStep = 4 ∨ t.rsc.bootStep = 5))) ∧
    (s.clk.pll = .locking ∨ s.clk.pll = .ramping ∧ s.rsc.startupDone = false → s.rsc.bootStep = 4 →
      ∃ t, exec .pllLock s = .next t ∧ t.clk.pll = .locked ∧ t.clk.count = 0 ∧
      t.clk.mux = 0b111111 ∧ t.clk.coast = false ∧ t.rsc.bootStep = 5) ∧
    (s.clk.pll = .locking ∨ s.clk.pll = .ramping ∨ s.clk.pll = .coasting → s.rsc.bootStep = 4 → s.rsc.startupDone = false →
      ∃ t, exec .pllLockTimeout s = .next t ∧
      t.clk.pll = .off ∧ t.clk.mux = 0 ∧ t.hif.pcieUp = false ∧ t.rsc = { s.rsc with bootStep := 5 }) ∧
    (s.pdOn 0 = true → s.pdOn 1 = true → s.queen.up = false → s.queen.refused = false → s.rsc.startupDone = false →
      s.rsc.bootStep = 5 →
      (accepted = true → s.clk.pll = .off → ∃ t, exec (.firmwareVerified fw) s = .next t ∧ t.queen.up = true ∧
        t.rsc.mode = .safe ∧ t.rsc.cause = 0x0011 ∧ t.rsc.startupDone = true) ∧
      (accepted = true → s.clk.pll = .locked → ∃ t, exec (.firmwareVerified fw) s = .next t ∧ t.queen.up = true ∧
        t.queen.fwVersion = fwVersion fw ∧ t.sec.fwMeas = some (digestBytes (Config.sha512 (fw.header ++ fw.body))) ∧ 6 ≤ t.rsc.bootStep.toNat) ∧
      (accepted = false → s.clk.pll = .locked → ∃ t, exec (.firmwareVerified fw) s = .next t ∧ t.queen.refused = true ∧
        t.queen.up = false ∧ t.rsc.mode = .safe ∧ t.rsc.cause = 0x0010 ∧ t.rsc.startupDone = true)) ∧
    (s.pdOn 0 = true → s.pdOn 1 = true → s.queen.up = false → s.queen.refused = false → s.rsc.startupDone = true → accepted = true →
      (∀ j ∈ s.queen.jobs, j.key.path = .pcie) → ∃ t, exec (.firmwareVerified fw) s = .next t ∧ t.queen.up = true ∧
        t.queen.jobs = [] ∧ t.rsc.mode = s.rsc.mode ∧ t.ev.src[47].active = true ∧
        (∀ n : Fin 64, BitVec.ofNat 11 (4 + n.val) ∈ fw.lostNv → t.sec.counters[n.val] = 0 ∧ t.ev.src[42].active = true) ∧
        (2#11 ∈ fw.lostNv → t.sec.owner = none ∧ t.ev.src[42].active = true))

/-- `MODE_SET` (R346 to R349, R363): the mode in force stays; READY, RUN and MAINTAIN are entered with `E044`; entry to HIBERNATE
begins after the reply.
Entry to SAFE by command (R348, R350): every test function of a die not fenced has stopped, Workers with reason 5; no region
runs; the links are down; the cause is kept and `E044` raised, with `ERROR_N` released. -/
def Obligations.ModesAndSafe : Prop :=
  (∀ (s : State) (p : Pkt), Accepted cmdModeSet p s →
     let goal := modeNamed (param p 32 0 3)
     (goal = s.rsc.mode → ∃ t, exec (.modeSet p) s = .next t ∧ Completed cmdModeSet p s t [] ∧
       t = { s with queen := t.queen, hif := t.hif }) ∧
     (goal ≠ s.rsc.mode → goal = .ready ∨ goal = .run ∨ goal = .maintain → ∃ t, exec (.modeSet p) s = .next t ∧
       Completed cmdModeSet p s t [] ∧ t.rsc.mode = goal ∧ t.rsc.errorN = false ∧ t.rsc.enteredNs = s.stampNs ∧
       t.ev.src[44].active = true ∧ t.workers = s.workers ∧ t.groups = s.groups) ∧
     (goal ≠ s.rsc.mode → goal = .hibernate → ∃ t, exec (.modeSet p) s = .next t ∧ Completed cmdModeSet p s t [] ∧
       t = { s with queen := t.queen, hif := t.hif } ∧ (t.queen.replies.getLast?).map (·.after) = some .hibernate)) ∧
  (∀ (s : State) (p : Pkt), Accepted cmdModeSet p s → param p 32 0 3 = 1 → NoneWaits s →
     s.rsc.mode = .ready ∨ s.rsc.mode = .run ∨ s.rsc.mode = .maintain →
     ∃ t, exec (.modeSet p) s = .next t ∧ Completed cmdModeSet p s t [] ∧ t.rsc.mode = .safe ∧ t.rsc.cause = 0x0100 ∧
       t.rsc.errorN = false ∧ t.ev.src[44].active = true ∧
       (∀ w : Fin 32, s.net.dies[(workerDie w).val].fenced = false → t.workers[w.val].active = false ∧
         (s.workers[w.val].active = true → t.workers[w.val].st = .stopped ∧ t.workers[w.val].stop = 5)) ∧
       (∀ n : Fin 128, s.net.dies[(portDie n).val].fenced = false →
         t.ports[n.val].started = false ∧ t.ports[n.val].prbs.on = false) ∧
       (∀ (d : Fin 4) (i : Nat), i < 17 → t.fab[d.val].stateAt i ≠ .running) ∧
       ∀ l : Fin 16, t.swarm.links[l.val].st = .off ∨ t.swarm.links[l.val].st = .down)

/-- HIBERNATE (R363 to R366): at the end of the entry the domains that were on retain and the stacks refresh themselves; a match
during the entry is remembered, a match asleep wakes; awake again, the device is READY and the regions that ran run. -/
def Obligations.HibernateAndWake : Prop :=
  ∀ (s : State),
    (s.rsc.hib = .entering → s.rsc.hibMatch = false → ∃ t, exec .hibernateEntryEnd s = .next t ∧ t.rsc.hib = .asleep ∧
      t.hif.pcieUp = false ∧ t.pwr.domains[0] = s.pwr.domains[0] ∧ t.mem.cells = s.mem.cells ∧
      (∀ n : Fin 64, n ≠ 0 → s.pwr.domains[n.val].st = .on → t.pwr.domains[n.val].st = .retention) ∧
      ∀ n : Fin 4, s.mem.hbm[n.val].st = .ready → t.mem.hbm[n.val].st = .selfRefresh) ∧
    (s.rsc.hib = .entering → exec .wakeMatch s = .next { s with rsc := { s.rsc with hibMatch := true } }) ∧
    (s.rsc.hib = .asleep → ∃ t, exec .wakeMatch s = .next t ∧ t.rsc.hib = .waking ∧
      (∀ n : Fin 64, s.pwr.domains[n.val].st = .retention → t.pwr.domains[n.val].st = .on) ∧
      ∀ n : Fin 4, s.mem.hbm[n.val].st = .selfRefresh → t.mem.hbm[n.val].st = .training) ∧
    (s.rsc.hib = .waking → s.mem.training = none → (∀ d : Fin 4, s.net.locking[d.val] = none) → s.rsc.mode = .hibernate →
      ∃ t, exec .wakeEnd s = .next t ∧ t.rsc.hib = .awake ∧ t.rsc.mode = .ready ∧ t.ev.src[44].active = true ∧
        ∀ (d : Fin 4) (i : Fin 16), s.fab[d.val].regions[i.val].resume = true →
          t.fab[d.val].regions[i.val].st = .running)

/-! Power and clocks (13_clocks.md, 14_power.md). -/

/-- The power input (R384 to R387, R400, R401): each warning comes once per excursion, marks what plays, and ends with its
hysteresis; below the reset level, above the shutdown level and on a collapse of the bus the device loses its power.
Temperatures (R402, R403; 09, R257): a sensor at its level raises its event once until it has cooled by 5 °C, `THERM_N` is held
while any sensor is at or above the level, 115 °C stops conversion, and a stack that rises above 85 °C is told once. Start-up
follows a stop for overvoltage when VIN is back in range (R385). A power-on reset by any cause but VIN below its reset level
waits for an NV block that is being written (12, R358), shown on a collapse of the bus. That each level is its typical one of
20, R492, is the model's choice (log entry 76). -/
def Obligations.SupplyAndTemperature : Prop :=
  (∀ (s : State) (mv : BitVec 16), s.pwr.supply = .on →
     (mv < s.pwr.vinWarn → s.pwr.flagVin = false → ∃ t, exec (.vinWarning mv) s = .next t ∧ t.pwr.flagVin = true ∧ Raised s t 0 ∧
       t.rsc.droopSeen = true ∧ (∀ g : Fin 16, s.groups[g.val].st = .playing → t.groups[g.val].supplyDist = true) ∧
       ∀ w : Fin 32, t.workers[w.val].supply = (s.workers[w.val].supply || s.workers[w.val].active)) ∧
     (s.pwr.flagVin = true → s.pwr.vinWarn.toNat + 200 ≤ mv.toNat → ∃ t, exec (.vinRecovered mv) s = .next t ∧
       t.pwr = { s.pwr with flagVin := false, vinNow := mv } ∧ Raised s t 1 ∧ t = { s with pwr := t.pwr, ev := t.ev }) ∧
     (42000 < mv.toNat → s.pwr.flagOv = false → ∃ t, exec (.overvoltageWarning mv) s = .next t ∧
       t.pwr = { s.pwr with flagOv := true, vinNow := mv } ∧ Raised s t 2 ∧ t = { s with pwr := t.pwr, ev := t.ev }) ∧
     exec .overvoltageCleared s = .next { s with pwr := { s.pwr with flagOv := false } } ∧
     (s.pwr.flagIlim = false → ∃ t, exec .currentLimit s = .next t ∧ t.pwr = { s.pwr with flagIlim := true } ∧ Raised s t 6 ∧
       t = { s with pwr := t.pwr, ev := t.ev }) ∧
     exec .currentLimitReleased s = .next { s with pwr := { s.pwr with flagIlim := false } } ∧
     (mv.toNat < s.pwr.vb → s.pwr.flagBudget = false → ∃ t, exec (.budgetVin mv) s = .next t ∧
       t.pwr = { s.pwr with flagBudget := true, vinNow := mv } ∧ Raised s t 6 ∧ t = { s with pwr := t.pwr, ev := t.ev }) ∧
     exec .budgetVinRecovered s = .next { s with pwr := { s.pwr with flagBudget := false } } ∧
     (∃ t, exec .vinBelowReset s = .next t ∧ PowerWasLost s t .off 1) ∧
     (45000 < mv.toNat → s.nvBusy = false → ∃ t, exec (.overvoltageShutdown mv) s = .next t ∧ PowerWasLost s t .ovStop 2) ∧
     (s.nvBusy = false → ∃ t, exec .busCollapse s = .next t ∧ PowerWasLost s t .off 4) ∧
     (s.nvBusy = true → exec .busCollapse s = .next { s with
       pwr := { s.pwr with loss := some (s.pwr.loss.getD ⟨.off, 4, 0, 0⟩) }, rsc := { s.rsc with deferred := some .powerOn } }) ∧
     exec .reverseVin s = .next s) ∧
  (∀ (s : State) (i : Fin 24) (temp : BitVec 16), s.pwr.supply = .on →
     let warn : Int := 2 * (s.pwr.tempWarn.toNat : Int)
     let event : Fin 256 := if i.val < 8 then 3 else dieEvent ⟨(i.val - 8) / 4 % 4, by omega⟩ 32
     (warn ≤ temp.toInt → s.pwr.sensorArmed[i.val] = true → ∃ t, exec (.tempWarning i temp) s = .next t ∧ Raised s t event ∧
       t.pwr.thermN = true ∧ t.pwr.sensorHot[i.val] = true ∧ t.pwr.sensorArmed[i.val] = false) ∧
     (warn ≤ temp.toInt → s.pwr.sensorArmed[i.val] = false → ∃ t, exec (.tempWarning i temp) s = .next t ∧ t.ev = s.ev ∧
       t.pwr.thermN = true) ∧
     (temp.toInt < warn → ∃ t, exec (.tempWarningCleared i temp) s = .next t ∧ t.ev = s.ev ∧ t.pwr.sensorHot[i.val] = false ∧
       t.pwr.sensorArmed[i.val] = (s.pwr.sensorArmed[i.val] || decide (temp.toInt + 10 ≤ warn)) ∧
       (t.pwr.thermN = true ↔ ∃ k : Fin 24, k ≠ i ∧ s.pwr.sensorHot[k.val] = true)) ∧
     (230 ≤ temp.toInt → s.nvBusy = false → ∃ t, exec (.thermalTrip i temp) s = .next t ∧ PowerWasLost s t .tripStop 3 ∧ t.pwr.thermN = true) ∧
     (∀ (n : Fin 4) (c : Byte), s.pdOn ⟨6 + n.val, by omega⟩ = true → 85 < c.toInt → s.mem.hbm[n.val].hot = false →
       ∃ t, exec (.stackHot n c) s = .next t ∧ Raised s t 3 ∧ t.mem.hbm[n.val] = { s.mem.hbm[n.val] with temp := c, hot := true }) ∧
     (∀ (n : Fin 4) (c : Byte), s.pdOn ⟨6 + n.val, by omega⟩ = true → c.toInt ≤ 85 →
       ∃ t, exec (.stackHot n c) s = .next t ∧ t.ev = s.ev ∧ t.mem.hbm[n.val] = { s.mem.hbm[n.val] with temp := c, hot := false }) ∧
     (∀ (r : State) (mv : BitVec 16), r.pwr.supply = .ovStop → 5800 ≤ mv.toNat → mv.toNat ≤ 42000 →
       ∃ t, exec (.overvoltageRestart mv) r = .next t ∧ t.pwr.supply = .soft ∧ t.rsc.bootStep = 1))

/-- Power domains (R389 to R397): turned off, a domain returns its reservation; turned on, it ramps with its declared maximum
reserved, within the grant; the reply gives states and sums once every named domain is up. The budget commands set cap and voltage,
and refuse less than is reserved; a warning level above the present VIN raises `E000` (R401).
Domains at work (R392, R404, R405): a ramping domain comes up; a regulator that cuts its domain off leaves it at FAULT with its
reservation kept and its event raised, and cutting `PD00` off is a loss of power; a sample moves the extremes at once. -/
def Obligations.PowerDomains : Prop :=
  (∀ (s : State) (p : Pkt),
     let m := param p 32 0 64
     (Accepted cmdPwrDomainSet p s → param p 40 0 1 = 0 → NoneWaits s → s.brood.solves = [] → s.pwr.jobs = [] →
       ∃ t, exec (.pwrDomainSet p) s = .next t ∧
         ∀ n : Fin 64, m.testBit n.val = true → t.pwr.domains[n.val].st = .off ∧ t.pwr.domains[n.val].reserved =
           (if s.pwr.domains[n.val].st = .off then s.pwr.domains[n.val].reserved else 0)) ∧
     (Accepted cmdPwrDomainSet p s → param p 40 0 1 = 1 → s.toTurnOn m ≠ [] → ∃ t, exec (.pwrDomainSet p) s = .next t ∧
       StillRuns s t p ∧ t = { s with queen := t.queen, hif := t.hif, pwr := t.pwr } ∧
       (∀ n : Fin 64, n ∈ s.toTurnOn m → t.pwr.domains[n.val].st = .ramping ∧ t.pwr.domains[n.val].reserved = domainMax n) ∧
       (∀ n : Fin 64, n ∉ s.toTurnOn m → t.pwr.domains[n.val] = s.pwr.domains[n.val])) ∧
     (Accepted cmdPwrDomainSet p s → param p 40 0 1 = 1 → s.toTurnOn m = [] →
       (∃ n : Fin 64, m.testBit n.val = true ∧ s.pwr.domains[n.val].st = .ramping ∧ s.pwr.domains[n.val].lost = false) →
       ∃ t, exec (.pwrDomainSet p) s = .next t ∧ StillRuns s t p ∧ t.pwr.domains = s.pwr.domains) ∧
     (Accepted cmdPwrDomainSet p s → param p 40 0 1 = 1 → s.toTurnOn m = [] →
       (∀ n : Fin 64, m.testBit n.val = true → s.pwr.domains[n.val].st = .ramping → s.pwr.domains[n.val].lost = true) → ∃ t, exec (.pwrDomainSet p) s = .next t ∧
       Completed cmdPwrDomainSet p s t (s.domainResult m) ∧ t = { s with queen := t.queen, hif := t.hif }) ∧
     (Accepted cmdPwrDomainGet p s → ∃ t body, exec (.pwrDomainGet p) s = .next t ∧ Completed cmdPwrDomainGet p s t body ∧
       t = { s with queen := t.queen, hif := t.hif } ∧ body.length = 4 * (domainsOf m).length + 4) ∧
     (Accepted cmdPwrBudgetSet p s → let b := applied cmdPwrBudgetSet p
       ∃ t r, exec (.pwrBudgetSet p) s = .next t ∧ t = { s with queen := t.queen, hif := t.hif, pwr := t.pwr } ∧
         t.pwr = { s.pwr with cap := fld b 32 0 13, vb := fld b 36 0 16 / 100 * 100 } ∧ s.reserved ≤ t.grant ∧
         t.queen.replies = s.queen.replies ++ [r] ∧ r.key = ⟨.pcie, p.tag⟩) ∧
     (Accepted cmdPwrLimitsSet p s → let b := applied cmdPwrLimitsSet p
       s.pwr.vinNow < (BitVec.ofNat 16 (fld b 32 0 16) : BitVec 16) → s.pwr.flagVin = false →
         ∃ t, exec (.pwrLimitsSet p) s = .next t ∧ Completed cmdPwrLimitsSet p s t [] ∧ Raised s t 0 ∧ t.pwr.flagVin = true) ∧
     (Accepted cmdPwrLimitsSet p s → let b := applied cmdPwrLimitsSet p
       (BitVec.ofNat 16 (fld b 32 0 16) : BitVec 16) ≤ s.pwr.vinNow → ∃ t, exec (.pwrLimitsSet p) s = .next t ∧
         Completed cmdPwrLimitsSet p s t [] ∧ t = { s with queen := t.queen, hif := t.hif, pwr := t.pwr } ∧
         t.pwr = { s.pwr with
           vinWarn := BitVec.ofNat 16 (fld b 32 0 16), tempWarn := BitVec.ofNat 8 (fld b 36 0 8)
           rampStep := if fld b 40 8 1 = 1 then s.pwr.rampStep else BitVec.ofNat 8 (fld b 40 0 8) }) ∧
     (Accepted cmdPwrTelemetry p s → let b := applied cmdPwrTelemetry p
       ∃ t, exec (.pwrTelemetry p) s = .next t ∧ Completed cmdPwrTelemetry p s t (s.telemetryBody (fld b 32 0 64)) ∧
         t = { s with queen := t.queen, hif := t.hif, pwr := t.pwr, rsc := t.rsc } ∧
         t.pwr.avgLog = BitVec.ofNat 5 (fld b 40 0 5) ∧
         (fld b 40 8 1 = 1 → t.pwr.vinMin = 0xFFFF ∧ t.pwr.iinMax = 0 ∧ t.pwr.lastOff = 0 ∧ t.rsc.droopSeen = false) ∧
         (fld b 40 8 1 = 0 → t.pwr.vinMin = s.pwr.vinMin ∧ t.rsc = s.rsc))) ∧
  (∀ (s : State) (n : Fin 64) (ma : Word) (mv : BitVec 16) (x : Sample),
     (s.pwr.domains[n.val].st = .ramping → s.pwr.domains[n.val].lost = false →
       (∀ q, domainParent n = some q → s.pdOn q = true) → s.pwr.jobs = [] →
       ∃ t, exec (.domainRamped n) s = .next t ∧ t.pwr.domains[n.val].st = .on ∧
         t.pwr.domains[n.val].reserved = s.pwr.domains[n.val].reserved ∧
         ∀ q : Fin 64, q ≠ n → t.pwr.domains[q.val] = s.pwr.domains[q.val]) ∧
     (n ≠ 0 → s.pwr.domains[n.val].st = .on → s.pwr.domains[n.val].lost = false → s.pwr.jobs = [] →
       ∃ t, exec (.domainCutOff n ma mv) s = .next t ∧ t.pwr.domains[n.val].st = .fault ∧
         t.pwr.domains[n.val].reserved = s.pwr.domains[n.val].reserved ∧
         (n.val < 16 → t.ev.src[7].active = true) ∧
         (16 ≤ n.val → t.ev.src[(dieEvent (Fin.ofNat 4 ((n.val - 16) / 12)) 38).val].active = true)) ∧
     (s.pwr.domains[n.val].lost = true → exec (.domainRamped n) s = .next s) ∧
     (s.pdOn 0 = true → s.nvBusy = false → ∃ t, exec (.domainCutOff 0 ma mv) s = .next t ∧ PowerWasLost s t .off 5) ∧
     (s.pwr.supply = .on → s.pwr.sumN + 1 < 2 ^ s.pwr.avgLog.toNat → ∃ t, exec (.telemetrySample x) s = .next t ∧
       t = { s with pwr := t.pwr } ∧ t.pwr.vinMin = (if x.vin < s.pwr.vinMin then x.vin else s.pwr.vinMin) ∧
       t.pwr.iinMax = (if s.pwr.iinMax < x.iin then x.iin else s.pwr.iinMax) ∧ t.pwr.vin = s.pwr.vin ∧
       t.pwr.vinNow = x.vin ∧ t.pwr.sumN = s.pwr.sumN + 1))

/-- The CLK commands (R372 to R381): status, muxes that switch at once but for the Queen core's own, the relock that ramps, the
outputs, and measurements that run until their gates close, those whose time comes first before the others.
The reference (R371, R375 to R378, R381): lost, the PLL coasts with its count and `E004`, the PCIe link goes down and dies on the
bypass stop; restored, `E005`; the relock ends with the PLL locked and the root count anew; the gates of a measurement close.
An idle step (11, R330): that it is one cycle of the timing clock, in which each base adds 1 ns and its trim, is the model's
choice (log entry 2). -/
def Obligations.Clocks : Prop :=
  (∀ (s : State) (p : Pkt),
     let m := param p 32 0 6
     (Accepted cmdClkStatus p s → ∃ t, exec (.clkStatus p) s = .next t ∧ t = { s with queen := t.queen, hif := t.hif } ∧
       Completed cmdClkStatus p s t [s.pllState, s.clk.mux.setWidth 32, s.clk.coastCount, s.clk.lastCoastNs, s.clk.lastCoastS,
         BitVec.ofNat 32 (packBools (s.clk.outs.toList.map (·.en)))]) ∧
     (Accepted cmdClkSelect p s → param p 32 16 1 = 1 → ∃ t, exec (.clkSelect p) s = .next t ∧ StillRuns s t p ∧
       t = { s with queen := t.queen, hif := t.hif, clk := t.clk } ∧
       t.clk = { s.clk with pll := .ramping, relock := some ⟨.pcie, p.tag⟩ }) ∧
     (Accepted cmdClkSelect p s → param p 32 16 1 = 0 → param p 32 8 1 = 1 → m < 32 → ∃ t, exec (.clkSelect p) s = .next t ∧
       Completed cmdClkSelect p s t [] ∧ t = { s with queen := t.queen, hif := t.hif, clk := t.clk } ∧
       t.clk = { s.clk with mux := s.clk.mux ||| BitVec.ofNat 6 m }) ∧
     (Accepted cmdClkSelect p s → param p 32 16 1 = 0 → param p 32 8 1 = 0 → m < 32 → ∃ t, exec (.clkSelect p) s = .next t ∧
       Completed cmdClkSelect p s t [] ∧ t.clk.mux = s.clk.mux &&& ~~~(BitVec.ofNat 6 m) ∧
       ∀ d : Fin 4, m.testBit d.val = true → s.net.dies[d.val].st = .locked → t.net.dies[d.val].st = .up ∧
         t.ev.src[45].active = true) ∧
     (Accepted cmdClkSelect p s → param p 32 16 1 = 0 → m = 32 → ∃ t, exec (.clkSelect p) s = .next t ∧
       Completed cmdClkSelect p s t [] ∧ t.clk = s.clk ∧
       (t.queen.replies.getLast?).map (·.after) = some (.queenMux (param p 32 8 1 = 1))) ∧
     (Accepted cmdClkOutSet p s → let b := applied cmdClkOutSet p
       ∃ t, exec (.clkOutSet p) s = .next t ∧ Completed cmdClkOutSet p s t [] ∧
         t = { s with queen := t.queen, hif := t.hif, clk := t.clk } ∧ t.clk = { s.clk with
           outs := upd s.clk.outs (Pkt.clkOut p) fun _ =>
             { en := fld b 32 0 1 = 1, div := BitVec.ofNat 13 (fld b 32 16 13), depth := BitVec.ofNat 8 (fld b 36 0 8)
               rate := BitVec.ofNat 8 (fld b 36 8 8), run := s.clk.outs[(Pkt.clkOut p).val].run } }) ∧
     (Accepted cmdClkMeasure p s → ∃ t x, exec (.clkMeasure p) s = .next t ∧ StillRuns s t p ∧
       t = { s with queen := t.queen, hif := t.hif, clk := t.clk } ∧ t.clk = { s.clk with measures := s.clk.measures ++ [x] } ∧
       x.key = some ⟨.pcie, p.tag⟩ ∧ x.closes =
         s.clk.ticks + (if s.clk.coast then 16000 else 32000) + 16000 * 2 ^ fld (applied cmdClkMeasure p) 32 8 5)) ∧
  (∀ (s : State),
     (∀ cause : Fin 3, s.clk.pll = .locked → s.clk.relock = none → ∃ t, exec (.referenceLost cause) s = .next t ∧
       t.clk.pll = .coasting ∧ t.clk.coast = true ∧ t.clk.coastCount = satAdd s.clk.coastCount 1 ∧ t.hif.pcieUp = false ∧
       t.mem.gridOn = false ∧ t.ev.src[4].active = true ∧ t.clk.refOk = (s.clk.refOk && cause = 2) ∧
       ∀ d : Fin 4, t.net.dies[d.val].clockOn =
         (s.net.dies[d.val].clockOn && (cause = 2 || s.clk.mux.getLsbD d.val))) ∧
     (s.pdOn 0 = true → s.clk.refOk = false → ∃ t, exec .referenceRestored s = .next t ∧ Raised s t 5 ∧
       t.clk = { s.clk with refOk := true } ∧ t = { s with clk := t.clk, ev := t.ev }) ∧
     (∀ j k, s.clk.pll = .ramping → s.rsc.startupDone = true → s.clk.relock = some k → s.job? k = some j → j.key = k → Endable s j →
       ∃ t, exec .relockEnd s = .next t ∧ EndedDone j s t [] ∧ t.clk.pll = .locked ∧ t.clk.coast = false ∧ t.clk.count = 0 ∧
         t.mem.gridOn = true) ∧
     (∀ x k j edges, x ∈ s.clk.measures → (∀ y ∈ s.clk.measures, y ≠ x → x.closes < y.closes) → x.closes ≤ s.clk.ticks →
       x.key = some k → s.job? k = some j → j.key = k → Endable s j →
       ∃ t, exec (.gateClose edges) s = .next t ∧ t.clk = { s.clk with measures := s.clk.measures.erase x } ∧
         EndedDone j s t ((countersOf j.args).flatMap (x.words j.args edges)))) ∧
  (∀ (s : State) (b : Fin 8), s.pending = [] → s.pdOn 0 = true → s.clk.runs = true → s.clk.coast = false → s.queen.due = [] → s.queen.jobs = [] →
     s.tb[b.val].slew = 0 → s.tb[b.val].ns.toNat < 1000000000 → s.tb[b.val].trim.natAbs ≤ 4194304 →
     s.tb[b.val].sec.toNat + 1 < 2 ^ 48 → ∃ t, step s = .next t ∧
       (t.tb[b.val].value : Int) = s.tb[b.val].value + 4294967296 + s.tb[b.val].trim)

/-! Device memory (02, 09_memory_and_encryption.md). -/

/-- Requests for usable HBM (02, R22; R265 to R269): a write within a sector of a stack that serves stores its bytes and no
other, and counts the sector's version up; a read changes no byte; BAR2 beyond the usable memory is unsupported.
BAR4 (02, R23, R24): hive SRAM reads and writes at its offset; an offset that the layout does not list is unsupported; a die
that is fenced answers with `BAR_BUSY`, and one whose clock has stopped is fenced by the access.
Which routers hold hive SRAM is the model's reading (DEDUCED, log entry 71). -/
def Obligations.MemoryAccess : Prop :=
  (∀ (s : State) (q : Requester) (a len : Nat) (data : Bytes) (e : MemErr), s.mem.wf = true →
     let within : Prop := 0 < data.length ∧ a / 512 = (a + data.length - 1) / 512 ∧ a + data.length ≤ hbmBytes
     let stored (t : State) : Prop := Wrote s t a data ∧ t = { s with mem := t.mem } ∧
       countGet t.mem.secCtr (a / 512) = countGet s.mem.secCtr (a / 512) + 1
     (HbmServes s → within → ∃ t, exec (.memoryWrite q a data .ok) s = .next t ∧ stored t) ∧
     (HbmServes s → s.hif.pcieUp = true → within → ∃ t, exec (.bar2Write a data .ok) s = .next t ∧ stored t) ∧
     (∃ t, exec (.memoryRead q a len e) s = .next t ∧ KeepsBytes s t ∧
       t = { s with mem := t.mem, ev := t.ev, sec := t.sec, hif := t.hif, out := t.out }) ∧
     (HbmServes s → s.hif.pcieUp = true → a + len ≤ hbmBytes → ∃ t, exec (.bar2Read a len .ok) s = .next t ∧ KeepsBytes s t ∧
       t.out = .barData (s.mem.read a len) :: s.out ∧ t = { s with mem := t.mem, out := t.out }) ∧
     (s.hif.pcieUp = true → hbmBytes < a + len → exec (.bar2Read a len e) s = .next (s.emit .barUnsupported)) ∧
     (s.hif.pcieUp = true → hbmBytes < a + data.length → exec (.bar2Write a data e) s = .next (s.emit .barUnsupported))) ∧
  (∀ (s : State) (off len : Nat) (data : Bytes) (e : MemErr), s.mem.wf = true → s.hif.pcieUp = true →
     let up : Prop := NoneSealed s ∧ s.sramReached .pcie ∧
       ∀ q : Fin 3, s.pdOn ⟨10 + q.val, by omega⟩ = true ∧ s.underTest ⟨q.val, by omega⟩ = false
     (up → 0 < len → off + len ≤ 0x6000000 →
       exec (.bar4Read off len e) s = .next (s.emit (.barData (s.mem.read (sramBase 0 + off) len)))) ∧
     (up → 0 < data.length → off + data.length ≤ 0x6000000 → ∃ t, exec (.bar4Write off data) s = .next t ∧
       t = { s with mem := t.mem } ∧ Wrote s t (sramBase 0 + off) data) ∧
     (bar4Addr off = none → exec (.bar4Read off len e) s = .next (s.emit .barUnsupported) ∧
       exec (.bar4Write off data) s = .next (s.emit .barUnsupported)) ∧
     (∀ a x d, bar4Addr off = some a → areaFor a len = some x → x.die = some d →
       (s.net.dies[d.val].fenced = true → exec (.bar4Read off len e) s =
         .next { s with hif := { s.hif with err := s.hif.err ||| 8 }, out := .barAbort :: s.out }) ∧
       (s.net.dies[d.val].fenced = false → s.dieOn d 0 = true →
         s.net.dies[d.val].clockOn = false ∨ s.net.dies[d.val].cutOff = true → ∃ t, exec (.bar4Read off len e) s = .next t ∧
           t.net.dies[d.val].fenced = true ∧ t.out.head? = some .barAbort)))

/-- The MEM commands (R259, R260, R263, R278, R280; 19): status with its clear, training, thaw, and what rekey, copy and fill
begin.
How they end (R255, R258 to R260, R277 to R280): a stack that has trained is READY, or FROZEN if it was; a request in a rekey
waits; a new key set leaves HBM reading zeros; a transfer replies its result, and a fill of SRAM stores its pattern.
Which routers hold hive SRAM (DEDUCED, log entry 71), and that memory which nothing has written reads zero outside undefined
ranges (DESIGN CHOICE, log entry 14), are the model's. -/
def Obligations.MemoryCommands : Prop :=
  (∀ (s : State) (p : Pkt),
     let m := param p 32 0 4
     let only (t : State) : Prop := t = { s with queen := t.queen, hif := t.hif, mem := t.mem }
     (Accepted cmdMemStatus p s → ∃ t, exec (.memStatus p) s = .next t ∧ Completed cmdMemStatus p s t s.memBody ∧ only t ∧
       (param p 32 0 1 = 0 → t.mem = s.mem) ∧
       (param p 32 0 1 = 1 → ∀ n : Fin 4, t.mem.hbm[n.val] =
         { s.mem.hbm[n.val] with counters := Vector.replicate 6 0 })) ∧
     (Accepted cmdMemTrain p s → ∃ t x, exec (.memTrain p) s = .next t ∧ StillRuns s t p ∧ only t ∧
       t.mem.training = some x ∧ x.key = some ⟨.pcie, p.tag⟩ ∧ (∀ n : Fin 4, n ∈ x.left ↔ m.testBit n.val = true) ∧
       ∀ n : Fin 4, t.mem.hbm[n.val] = if m.testBit n.val
         then { s.mem.hbm[n.val] with st := .training, wasFrozen := (s.mem.hbm[n.val]).isFrozen }
         else s.mem.hbm[n.val]) ∧
     (Accepted cmdMemThaw p s → ∃ t, exec (.memThaw p) s = .next t ∧ Completed cmdMemThaw p s t [] ∧ only t ∧
       t.mem.cells = s.mem.cells ∧ ∀ n : Fin 4, t.mem.hbm[n.val] = if m.testBit n.val
         then { s.mem.hbm[n.val] with st := .ready, wasFrozen := false, cause := 0, freezeRec := [] }
         else s.mem.hbm[n.val]) ∧
     (Accepted cmdMemRekey p s → ∃ t, exec (.memRekey p) s = .next t ∧ StillRuns s t p ∧ only t ∧
       t.mem = { s.mem with rekey := some { key := some ⟨.pcie, p.tag⟩, interleave := param p 32 0 1 = 1, begun := false } }) ∧
     (Accepted cmdMemCopy p s → ∃ t, exec (.memCopy p) s = .next t ∧ StillRuns s t p ∧ only t ∧
       t.mem = { s.mem with copies := s.mem.copies ++ [⟨.pcie, p.tag⟩] }) ∧
     (Accepted cmdMemFill p s → ∃ t, exec (.memFill p) s = .next t ∧ StillRuns s t p ∧ only t ∧
       t.mem = { s.mem with copies := s.mem.copies ++ [⟨.pcie, p.tag⟩] })) ∧
  (∀ (s : State),
     (∀ n r x, s.mem.training = some x → n ∈ x.left → s.mem.hbm[n.val].st = .training →
       ∃ t, exec (.trainingEnd n r) s = .next t ∧ t.mem.training = (if x.left.filter (· != n) = [] then none
           else some { x with left := x.left.filter (· != n), found := insertFound x.found n r }) ∧
         if s.trained n r x.repair = true
         then t.mem.hbm[n.val].trainFail = false ∧
           t.mem.hbm[n.val].st = (if s.mem.hbm[n.val].wasFrozen then .frozen else .ready)
         else t.mem.hbm[n.val].trainFail = true ∧ t.ev.src[43].active = true ∧
           t.mem.hbm[n.val].st = (if s.mem.hbm[n.val].wasFrozen then .frozen else .untrained)) ∧
     (∀ x q a data e, s.mem.rekey = some x → a + data.length ≤ hbmBytes → exec (.memoryWrite q a data e) s =
       .next { s with mem := { s.mem with waiting := s.mem.waiting ++ [.write q a data e] } }) ∧
     (∀ x j, s.mem.rekey = some x → s.mem.waiting = [] → (∀ n : Fin 4, s.cfg.slots[n.val].st ≠ .staging) → x.key = some j.key → Endable s j → ∃ t, exec .rekeyEnd s = .next t ∧
       EndedDone j s t [(s.mem.keyId + 1).setWidth 32] ∧ t.mem.rekey = none ∧ t.mem.keyId = s.mem.keyId + 1 ∧
       t.mem.interleave = x.interleave ∧ t.mem.poison = [] ∧
       ((∀ u ∈ s.mem.undef, hbmBytes ≤ u.base) → ∀ a, a < hbmBytes → t.mem.byte a = 0)) ∧
     (∀ j host e at_ atDst, Endable s j → s.mem.copies.any (sameKey · j.key) = true → s.mem.rekey = none →
       s.moveStuck j = false → ∃ t words, exec (.copyEnd j.key host e at_ atDst) s = .next t ∧ EndedDone j s t words ∧ words.length = 6 ∧
         t.mem.copies = (s.mem.copies.filter fun i => !sameKey i j.key) ∧
         ∀ x, let a := fld j.args 32 0 48
           let len := fld j.args 40 0 40
           j.p.opcode = 0x0A05 → areaFor a len = some x → x.kind = .sram → a % 8 = 0 → len % 8 = 0 → NoneSealed s →
             s.sramReached .queen → s.mem.wf = true → words = [0, 0] ++ word2 len ++ word2 0 ∧
             (∀ i, i < len → t.mem.byte (a + i) = (numBytes 8 (fld j.args 48 0 64)).getD (i % 8) 0) ∧
             ∀ b, ¬ (a ≤ b ∧ b < a + len) → t.mem.byte b = s.mem.byte b) ∧
     (s.mem.gridOn = true → exec .refresh s = .next { s with mem := { s.mem with refreshNs := s.stampNs, refreshS := s.stampS } }) ∧
     (s.mem.gridOn = false → exec .refresh s = .next s) ∧
     (∃ t, exec .errorWindowEnd s = .next t ∧ t = { s with mem := t.mem, net := t.net } ∧ KeepsBytes s t ∧
       (∀ n : Fin 4, t.mem.hbm[n.val] = { s.mem.hbm[n.val] with ceWin := 0, ceOver := false }) ∧
       ∀ d : Fin 4, t.net.dies[d.val] = { s.net.dies[d.val] with degraded := false, winReplays := 0, winCross := 0 }))

/-! Security and self-test (15_security.md, 17_self_test.md). -/

/-- The SEC commands (R411 to R414, R416, R417, R420, R421): reports and certificates, the state of the NV store, and what an
enrolment, an advance and a refresh begin to write.
What the NV store and the entropy source do (R417 to R423; 02, R52): a block's write puts its record in place and commits its
command, a worn block is not written, a refresh skips and reports it, and where a reset waits for the block none follows it (12,
R358); a failed health test stops the DRBG; a challenge lapses.
The layout of the result of `SEC_NV_STATUS` (DESIGN CHOICE, log entry 12) and the form of a certificate that cannot be read
(PRESUMED, log entry 75) are the model's. -/
def Obligations.Security : Prop :=
  (∀ (s : State) (p : Pkt),
     let same (t : State) : Prop := t = { s with queen := t.queen, hif := t.hif }
     let writes (t : State) (x : NvJob) : Prop := StillRuns s t p ∧ t = { s with queen := t.queen, hif := t.hif, sec := t.sec } ∧
       t.sec = { s.sec with nvJobs := s.sec.nvJobs ++ [x] } ∧ x.key = some ⟨.pcie, p.tag⟩ ∧ x.done = 0
     (Accepted cmdSecAttest p s → let r := s.report (p.block.take 16)
       ∃ t, exec (.secAttest p) s = .next t ∧ same t ∧ r.length = 1728 ∧
         Completed cmdSecAttest p s t (r ++ wordsOfBytes (idSignature (bytesOfWords r)))) ∧
     (Accepted cmdSecCertGet p s → ∃ t cert, exec (.secCertGet p) s = .next t ∧ same t ∧
       Completed cmdSecCertGet p s t (wordsOfBytes cert) ∧ (param p 32 0 2 = 0 → cert = if s.nvRecordLost 0 then [] else Config.certDevice) ∧
       (param p 32 0 2 = 1 → cert = if s.nvRecordLost 1 then [] else Config.certInter) ∧ (param p 32 0 2 = 2 → s.sec.owner.map (·.cert) = some cert)) ∧
     (Accepted cmdSecNvStatus p s → ∃ t body, exec (.secNvStatus p) s = .next t ∧ same t ∧ Completed cmdSecNvStatus p s t body ∧
       body.length = 2052 ∧ ∀ b, b < 2048 → body.getD (4 + b) 0 = s.nvWord b) ∧
     (Accepted cmdSecNvRefresh p s → ∃ t x, exec (.secNvRefresh p) s = .next t ∧ writes t x ∧ x.what = .refresh ∧
       ∀ b, b ∈ x.blocks ↔ s.nvWorn b = false ∧ (b = 3 ∨ (b < 2048 ∧ (s.nvBlock b).written = true))) ∧
     (Accepted cmdSecCounterAdvance p s → let i := counterIdx p.block
       let v := param p 36 0 32
       s.counterNow i ≤ v ∧
       (v = s.counterNow i → ∃ t, exec (.secCounterAdvance p) s = .next t ∧ Completed cmdSecCounterAdvance p s t [] ∧ same t) ∧
       (s.counterNow i < v → s.nvWorn (4 + i.val) = false → ∃ t x, exec (.secCounterAdvance p) s = .next t ∧ writes t x ∧
         x.what = .counter i (BitVec.ofNat 32 v) ∧ x.blocks = [4 + i.val])) ∧
     (∀ bundle, Accepted cmdSecOwnerEnrol p s → param p 32 0 1 = 0 → param p 32 8 1 = 1 → p.host = some bundle →
       (∀ o, s.enrolled (bundle.take (param p 48 0 16)) = some o → s.nvWorn 2 = false →
         ∃ t x, exec (.secOwnerEnrol p) s = .next t ∧ writes t x ∧ x.what = .owner o ∧ x.blocks = [2]) ∧
       (s.enrolled (bundle.take (param p 48 0 16)) = none → ∃ t, exec (.secOwnerEnrol p) s = .next t ∧
         RefusedWith p s t ⟨stAuth, 0xFF⟩ ∧ same t))) ∧
  (∀ (s : State),
     (∀ x l b j, s.sec.nvJobs = x :: l → x.blocks = [b] → x.what ≠ .refresh → x.key = some j.key → Endable s j → s.rsc.deferred = none →
       (s.nvWorn b = false → ∃ t, exec .nvWriteEnd s = .next t ∧ EndedDone j s t x.result ∧ t.sec.nvJobs = l ∧
         (t.nvBlock b).count = (s.nvBlock b).count + 1 ∧ (t.nvBlock b).written = true ∧
         (∀ (i : Fin 64) v, x.what = .counter i v → t.sec.counters[i.val] = v) ∧
         (∀ o, x.what = .owner o → t.sec.owner = some o) ∧
         ∀ (i : Fin 2) r, x.what = .bootRec i r → t.sec.bootRecs[i.val] = some r) ∧
       (s.nvWorn b = true → ∃ t, exec .nvWriteEnd s = .next t ∧
         Ended j s t stWorn j.mask (echoOf (echoEndOf j.p.opcode) j.args ++ x.result) ∧ Raised s t 8 ∧
         t.sec = { s.sec with nvJobs := l })) ∧
     (∀ x l b c m, s.sec.nvJobs = x :: l → x.what = .refresh → x.blocks = b :: c :: m → s.nvWorn b = true → s.rsc.deferred = none →
       ∃ t, exec .nvWriteEnd s = .next t ∧ t.sec = { s.sec with
         nvJobs := { x with blocks := c :: m, skip := x.skip ++ [b] } :: l } ∧ t = { s with sec := t.sec }) ∧
     (s.rsc.deferred.isSome = true → ∃ t, exec .nvWriteEnd s = .next t ∧ t.nvBusy = false) ∧
     (s.sec.drbgOk = true → ∃ t, exec .healthTestFailure s = .next t ∧ t.sec.drbgOk = false ∧ Raised s t 42 ∧
       t = { s with sec := t.sec, ev := t.ev }) ∧
     exec .challengeExpiry s = .next { s with sec := { s.sec with challenge := none } })

/-- The BIST commands (R446, R449, R452, R454 to R456; 19): what a run begins, a unit's record, the marks and repairs that are
written, and stored expected values.
A run's units (R448 to R453): the first that waits starts where its power fits under the cap, one that cannot be tested is
passed by; a signature that differs from its expected value fails and marks the unit; the last end raises `E037`.
Which blocks of the NV store hold the marks, and which units have a digital part, are the model's readings (DEDUCED, log entry
37). -/
def Obligations.SelfTest : Prop :=
  (∀ (s : State) (p : Pkt),
     let u := namedUnit p.block
     let bist (t : State) : Prop := t = { s with queen := t.queen, hif := t.hif, bist := t.bist }
     (Accepted cmdBistRun p s → ∃ t r, exec (.bistRun p) s = .next t ∧ StillRuns s t p ∧ bist t ∧
       t.bist = { s.bist with run := some r } ∧ r.key = some ⟨.pcie, p.tag⟩ ∧
       r.waiting = unitsOf (fld (applied cmdBistRun p) 32 0 64) ∧ r.running = [] ∧
       r.diag = decide (fld (applied cmdBistRun p) 40 0 1 = 1)) ∧
     (Accepted cmdBistResult p s → ∃ t, exec (.bistResult p) s = .next t ∧ t = { s with queen := t.queen, hif := t.hif } ∧
       Completed cmdBistResult p s t (s.bist.units[u.val].words u s.bist.units[u.val].entries.length ++
         s.bist.units[u.val].entries.flatMap fun e => numWords 4 e.toNat)) ∧
     (Accepted cmdBistCommit p s →
       (param p 32 8 2 = 0 → s.nvWorn (68 + u.val / 16) = false → ∃ t x, exec (.bistCommit p) s = .next t ∧ StillRuns s t p ∧
         t.sec = { s.sec with nvJobs := s.sec.nvJobs ++ [x] } ∧ x.what = .marks u false ∧ x.blocks = [68 + u.val / 16]) ∧
       (param p 32 8 2 = 1 → ∃ t, exec (.bistCommit p) s = .next t ∧ Completed cmdBistCommit p s t [] ∧ bist t ∧
         t.bist.units[u.val] = s.bist.units[u.val].mapSpares u ∧
         ∀ v : Fin 64, v ≠ u → t.bist.units[v.val] = s.bist.units[v.val])) ∧
     (Accepted cmdBistExpectSet p s → ∃ t, exec (.bistExpectSet p) s = .next t ∧ Completed cmdBistExpectSet p s t [] ∧ bist t ∧
       t.bist.units[u.val] = { s.bist.units[u.val] with
         stored := if param p 32 8 1 = 1 then none else some (BitVec.ofNat 64 (param p 40 0 64)) } ∧
       ∀ v : Fin 64, v ≠ u → t.bist.units[v.val] = s.bist.units[v.val])) ∧
  (∀ (s : State) (run : BistRun), s.bist.run = some run →
     (∀ u l, run.waiting = u :: l → run.key.any s.abortAsked = false → s.unitSkipped u = false →
       (run.running.map unitPower).foldl (· + ·) 0 + unitPower u ≤ run.cap → ∃ t, exec .bistUnitStart s = .next t ∧
         t.bist.run = some { run with waiting := l, running := run.running ++ [u] } ∧ t.bist.units = s.bist.units) ∧
     (∀ u l, run.waiting = u :: l → run.key.any s.abortAsked = false → s.unitSkipped u = true →
       ∃ t, exec .bistUnitStart s = .next t ∧ t.bist.units[u.val].verdict = 4 ∧
         ∀ v : Fin 64, v ≠ u → t.bist.units[v.val] = s.bist.units[v.val]) ∧
     (∀ u r, u ∈ run.running → run.diag = false → unitDigital u = true → (unitAnalog u = true → r.analogOk = true) →
       ∃ t, exec (.bistUnitEnd u r) s = .next t ∧ t.bist.units[u.val].misr = r.misr ∧
         (∀ v : Fin 64, v ≠ u → t.bist.units[v.val] = s.bist.units[v.val]) ∧
         (match run.expected s.bist.units[u.val] u with
           | none => t.bist.units[u.val].verdict = 3 ∧ t.bist.units[u.val].marked = false
           | some e => if r.misr = e then t.bist.units[u.val].verdict = 1 ∧ t.bist.units[u.val].marked = false
             else t.bist.units[u.val].verdict = 2 ∧ t.bist.units[u.val].cause = 1 ∧ t.bist.units[u.val].marked = true) ∧
         (run.waiting = [] → run.running = [u] → t.bist.run = none ∧ t.ev.src[37].active = true)))

/-! Configuration and fabric (07_fabric.md, 08_configuration.md). -/

/-- The CFG commands of streams (R239 to R242, R248): a slot staged or released, the dies or the region of a load LOADING, and
the boot record that is written.
How staging ends (R237 to R240): a stream that no owner has signed leaves the slot released with `E009`; one whose checks hold
is sealed, its plain bytes in memory.
How a load ends (R242 to R245): complete, the dies of a full stream are configured, HELD or running, and in BOOT the device is
READY; failed outside BOOT and READY, its dies are unconfigured and the device is in SAFE with `ERROR_N`.
The layout of the result of `CFG_STAGE` is the model's choice (DESIGN CHOICE, log entry 12). -/
def Obligations.StreamsLoad : Prop :=
  (∀ (s : State) (p : Pkt),
     let n := slotOf p.block
     let f := s.cfg.slots[n.val].facts
     let k : JobKey := ⟨.pcie, p.tag⟩
     let loads (t : State) : Prop := StillRuns s t p ∧ t.cfg = { s.cfg with loads := s.cfg.loads ++
       [{ key := some k, slot := n, boot := false, release := f.release, fenced := false }] }
     (Accepted cmdCfgStage p s → param p 48 0 32 = 0 → ∃ t, exec (.cfgStage p) s = .next t ∧ Completed cmdCfgStage p s t [] ∧
       t = { s with queen := t.queen, hif := t.hif, cfg := t.cfg, mem := t.mem } ∧ t.cfg.slots[n.val] = Slot.reset ∧
       ∀ m : Fin 4, m ≠ n → t.cfg.slots[m.val] = s.cfg.slots[m.val]) ∧
     (Accepted cmdCfgStage p s → param p 48 0 32 ≠ 0 → ∃ t, exec (.cfgStage p) s = .next t ∧ StillRuns s t p ∧
       t = { s with queen := t.queen, hif := t.hif, cfg := t.cfg, mem := t.mem } ∧
       t.cfg.slots[n.val] = { Slot.reset with
         st := .staging, base := BitVec.ofNat 48 (param p 56 0 48), len := param p 48 0 32, owner := some k } ∧
       ∀ m : Fin 4, m ≠ n → t.cfg.slots[m.val] = s.cfg.slots[m.val]) ∧
     (Accepted cmdCfgLoad p s → ∃ t, exec (.cfgLoad p) s = .next t ∧ loads t ∧ f.partial_ = false ∧
       ∀ d : Fin 4, if f.mask.getLsbD d.val
         then t.fab[d.val].cfgSt = .loading ∧ t.fab[d.val].static_ = .loading ∧ t.fab[d.val].cfg = [] ∧ t.fab[d.val].regs = []
         else t.fab[d.val] = s.fab[d.val]) ∧
     (Accepted cmdCfgRegionLoad p s → ∃ t, exec (.cfgRegionLoad p) s = .next t ∧ loads t ∧ f.partial_ = true ∧
       t = { s with queen := t.queen, hif := t.hif, cfg := t.cfg, fab := t.fab } ∧
       t.fab[f.die.val].regions[f.region.val].st = .loading ∧
       (∀ i : Fin 16, s.fab[f.die.val].inside i.val f.region.val = false →
         t.fab[f.die.val].regions[i.val] = s.fab[f.die.val].regions[i.val]) ∧
       ∀ d : Fin 4, d ≠ f.die → t.fab[d.val] = s.fab[d.val]) ∧
     (Accepted cmdCfgBootRecordSet p s → (∀ i : Fin 2, s.nvWorn i.val = false) →
       ∃ t x i r, exec (.cfgBootRecordSet p) s = .next t ∧ StillRuns s t p ∧
         t.sec = { s.sec with nvJobs := s.sec.nvJobs ++ [x] } ∧ x.what = .bootRec i r ∧
         (∀ c y, s.bootRecord = some (c, y) → i ≠ c ∧ r.seq = y.seq + 1) ∧ r.len = param p 40 0 32 ∧
         r.onFail = decide (param p 32 0 1 = 1) ∧ r.addr = param p 36 0 32 ∧ r.gAddr = param p 44 0 32 ∧
         r.gLen = param p 48 0 32)) ∧
  (∀ (s : State) (n : Fin 4) (j : Job) (bs : Bytes) (a : Area) (tables : List ReadMode),
     let slot := s.cfg.slots[n.val]
     let b := bs.take slot.len
     Endable s j → s.pdOn 2 = true → slot.st = .staging → slot.owner = some j.key → fld j.args 32 8 2 = 1 →
     slot.len ≤ bs.length → areaFor slot.base.toNat slot.len = some a → a.kind = .sram → s.sramReached .queen →
     (s.sec.owner = none → s.slotLoading n = false → ∃ t, exec (.slotSealed n (some bs) tables) s = .next t ∧
       Ended j s t stAuth 0 [] ∧ t.cfg.slots[n.val] = Slot.reset ∧ Raised s t 9 ∧
       t.cfg.lastStatus = BitVec.ofNat 32 (0x400 + n.val * 65536)) ∧
     (∀ f plain, (if isEnvelope b then s.openEnvelope b else some b) = some plain → plain.length ≤ slot.len →
       s.checkPlain plain (isEnvelope b) = .good f plain → NoneSealed s → s.mem.wf = true →
       ∃ t, exec (.slotSealed n (some bs) tables) s = .next t ∧ EndedDone j s t (f.words s.ownerKeyId) ∧
         t.cfg.slots[n.val] = { slot with st := .sealed_, decrypted := isEnvelope b, owner := none, facts := f } ∧
         (∀ i, i < plain.length → t.mem.byte (slot.base.toNat + i) = plain.getD i 0) ∧
         ∀ i, ¬ (slot.base.toNat ≤ i ∧ i < slot.base.toNat + slot.len) → t.mem.byte i = s.mem.byte i)) ∧
  (∀ (s : State) (r : LoadResult) (g : Option Bytes) (tables : List ReadMode) (x : Load) (l : List Load) (j : Job),
     s.cfg.loads = x :: l → x.key = some j.key → Endable s j → s.cfg.slots[x.slot.val].facts.partial_ = false →
     s.mem.rekey = none →
     let f := s.cfg.slots[x.slot.val].facts
     let c := s.slotScan x.slot
     (s.loadFailure x c r = none → s.rsc.mode ≠ .boot → ∃ t, exec (.loadEnd r g tables) s = .next t ∧
       EndedDone j s t (loadResult f 0 c.frames.length) ∧ t.cfg = { s.cfg with loads := l, hostBoot := false } ∧
       t.rsc = s.rsc ∧ ∀ d : Fin 4, f.mask.getLsbD d.val = true →
         t.fab[d.val].cfgSt = .configured ∧ t.fab[d.val].baseId = f.baseId ∧ t.fab[d.val].meas = some f.meas ∧
         t.fab[d.val].static_ = if x.release then .running else .held) ∧
     (s.loadFailure x c r = none → s.rsc.mode = .boot → x.boot = false → ∃ t, exec (.loadEnd r g tables) s = .next t ∧
       EndedDone j s t (loadResult f 0 c.frames.length) ∧ t.rsc.mode = .ready ∧ t.rsc.startupDone = true ∧
       t.cfg.hostBoot = true ∧ t.ev.src[44].active = true) ∧
     (s.loadFailure x c r ≠ none → s.rsc.mode = .safe ∨ s.rsc.mode = .maintain → x.boot = false → NoneWaits s →
       ∃ t, exec (.loadEnd r g tables) s = .next t ∧ EndedDone j s t (loadResult f 2 (framesWritten c r)) ∧ t.rsc.mode = .safe ∧
         t.rsc.cause = 0x0005 ∧ t.rsc.errorN = true ∧
         ∀ d : Fin 4, f.mask.getLsbD d.val = true → t.fab[d.val].cfgSt = .unconfigured))

/-- Regions (R230, R232): a region named starts with those inside it that are stopped, and stops FROZEN, or HELD with its
registers at their set-reset values; the reply gives the states.
Readback and probes (R218, R221, R246; 19, R489): the status block, a readback that takes its place, probe channels set and a
capture armed or given up.
How a readback goes on (R246, R489): 64 frames at a time go to SRAM, and the last of them end it with the length and the CRC-32
of all bytes. That the Queen core copies 64 of them in a cycle is the model's choice (log entry 59).
That the reply to a region command gives 17 states is the model's reading (log entries 12 and 46). -/
def Obligations.RegionsAndReadback : Prop :=
  (∀ (s : State) (p : Pkt),
     let d := dieUnitOf p
     let i := param p 32 0 5
     let fab (t : State) : Prop := t = { s with queen := t.queen, hif := t.hif, fab := t.fab } ∧
       ∀ e : Fin 4, e ≠ d → t.fab[e.val] = s.fab[e.val]
     (Accepted cmdCfgRegionStart p s → ∃ t, exec (.cfgRegionStart p) s = .next t ∧
       Completed cmdCfgRegionStart p s t t.fab[d.val].states ∧ fab t ∧ t.fab[d.val].stateAt i = .running ∧
       t.fab[d.val].regs = s.fab[d.val].regs ∧
       ∀ k, k ≤ 16 → s.fab[d.val].inside k i = false → t.fab[d.val].stateAt k = s.fab[d.val].stateAt k) ∧
     (Accepted cmdCfgRegionStop p s → s.fab[d.val].stateAt i = .running → ∃ t, exec (.cfgRegionStop p) s = .next t ∧
       Completed cmdCfgRegionStop p s t t.fab[d.val].states ∧ fab t ∧
       t.fab[d.val].stateAt i = (if param p 32 8 1 = 1 then .held else .frozen) ∧
       (param p 32 8 1 = 0 → t.fab[d.val].regs = s.fab[d.val].regs) ∧
       ∀ k, k ≤ 16 → s.fab[d.val].inside k i = false → t.fab[d.val].stateAt k = s.fab[d.val].stateAt k) ∧
     (Accepted cmdCfgRegionStop p s → s.fab[d.val].stateAt i ≠ .running → ∃ t, exec (.cfgRegionStop p) s = .next t ∧
       Completed cmdCfgRegionStop p s t s.fab[d.val].states ∧ fab t)) ∧
  (∀ (s : State) (p : Pkt),
     (Accepted cmdCfgReadback p s → param p 32 0 1 = 1 → ∃ t, exec (.cfgReadback p) s = .next t ∧
       Completed cmdCfgReadback p s t s.cfgStatus ∧ t = { s with queen := t.queen, hif := t.hif }) ∧
     (Accepted cmdCfgReadback p s → param p 32 0 1 = 0 → ∃ t, exec (.cfgReadback p) s = .next t ∧ StillRuns s t p ∧
       t = { s with queen := t.queen, hif := t.hif, cfg := t.cfg } ∧
       t.cfg = { s.cfg with readbacks := s.cfg.readbacks ++ [⟨⟨.pcie, p.tag⟩, 0, []⟩] }) ∧
     (Accepted cmdCfgProbeSet p s → let b := applied cmdCfgProbeSet p
       let d := packetDie p
       ∃ t body, exec (.cfgProbeSet p) s = .next t ∧ Completed cmdCfgProbeSet p s t body ∧
         (∀ c : Fin 8, t.fab[d.val].probes[c.val] = probeOf b c.val) ∧
         (fld b 96 0 2 = 0 → t.fab[d.val].capture = s.fab[d.val].capture) ∧
         (fld b 96 0 2 = 1 → t.fab[d.val].capture.st = .armed ∧ t.fab[d.val].capture.index = 0 ∧
           t.fab[d.val].capture.base = BitVec.ofNat 48 (fld b 104 0 48) ∧ body = [1, 0]) ∧
         (fld b 96 0 2 = 2 → t.fab[d.val].capture.busy = false) ∧
         ∀ e : Fin 4, e ≠ d → t.fab[e.val] = s.fab[e.val])) ∧
  (∀ (s : State) (x : Readback) (l : List Readback) (j : Job) (a : Area), s.cfg.readbacks = x :: l → Endable s j →
     x.key = j.key → s.queen.serves = true → s.queenClocked = true → s.rsc.hib = .awake → s.pdOn 2 = true →
     s.net.dies[(Fin.ofNat 4 (fld j.args 36 30 2) : Fin 4).val].fenced = false → NoneSealed s → s.mem.wf = true →
     let at_ := fld j.args 48 0 48 + x.bytes.length
     let bs := bytesOfWords ((((readFrames j.args).drop x.frames).take 64).flatMap fun e =>
       s.frameWords (Fin.ofNat 4 (fld j.args 36 30 2)) e.1 e.2)
     hbmBytes ≤ fld j.args 48 0 48 → areaFor at_ bs.length = some a → a.kind = .sram → s.sramReached .queen →
     Wrote s s.readbackStep at_ bs ∧
     (x.frames + 64 < (readFrames j.args).length →
       s.readbackStep.cfg = { s.cfg with readbacks := ⟨x.key, x.frames + 64, x.bytes ++ bs⟩ :: l } ∧
       s.readbackStep.queen = s.queen) ∧
     ((readFrames j.args).length ≤ x.frames + 64 →
       EndedDone j s s.readbackStep [BitVec.ofNat 32 (x.bytes ++ bs).length, crc32 (x.bytes ++ bs)] ∧
       s.readbackStep.cfg = { s.cfg with readbacks := s.cfg.readbacks.filter fun y => !sameKey y.key j.key }))

/-- Results of a cell (R195 to R198), for 16-bit inputs and the operand `Y` from input B: sums and differences with their carry,
logic, shifts by `Y` modulo 16, comparisons as all ones or zero, and products where the cell multiplies.
A fabric cycle (R193, R218): every die that runs takes its registers from the instant before the cycle, and counts it; a die
that does not run keeps its fabric, while the words that are past its outbound registers go on (10, R293). An error of cell RAM
that a cycle meets is counted, or raises its event where it cannot be corrected (R206), and a crossing group whose CRC-8 fails
is counted and makes its link DEGRADED (10, R297, R298). A capture whose last sample has been taken and has crossed the link
ends with its event.
That words past an outbound register travel on though their die's clock stands, and the code that a group carries, are the
model's choices (DESIGN CHOICE, log entry 73). -/
def Obligations.FabricResults : Prop :=
  (∀ (e : Nat) (a y : BitVec 16) (i : CellIn), i.a = a.toNat → i.b = y.toNat → bitsOf e 24 2 = 0 → bitsOf e 17 2 = 0 →
     let op := bitsOf e 26 6
     let is (v : BitVec 16) : Prop := cellResult e i = (v.toNat, false)
     let test (c : Prop) [Decidable c] : Prop := is (if c then 0xFFFF else 0)
     (op = 0x00 → is y) ∧
     (op = 0x01 → cellResult e i = ((a + y).toNat, decide (65536 ≤ a.toNat + y.toNat))) ∧
     (op = 0x02 → cellResult e i = ((a - y).toNat, decide (y.toNat ≤ a.toNat))) ∧
     (op = 0x03 → is (a &&& y)) ∧ (op = 0x04 → is (a ||| y)) ∧ (op = 0x05 → is (a ^^^ y)) ∧ (op = 0x06 → is (a &&& ~~~y)) ∧
     (op = 0x09 → is (a <<< (y.toNat % 16))) ∧ (op = 0x0A → is (a >>> (y.toNat % 16))) ∧
     (op = 0x0B → is (a.sshiftRight (y.toNat % 16))) ∧ (op = 0x0C → is (a.rotateLeft (y.toNat % 16))) ∧
     (op = 0x10 → test (a = y)) ∧ (op = 0x11 → test (a ≠ y)) ∧ (op = 0x12 → test (a.toNat < y.toNat)) ∧
     (op = 0x13 → test (y.toNat ≤ a.toNat)) ∧ (op = 0x14 → test (a.toInt < y.toInt)) ∧ (op = 0x15 → test (y.toInt ≤ a.toInt)) ∧
     (op = 0x18 → i.mult = true → is (a * y)) ∧
     (op = 0x19 → i.mult = true → is (BitVec.ofNat 16 (a.toNat * y.toNat / 65536))) ∧
     (op = 0x1A → i.mult = true → is (BitVec.ofInt 16 (a.toInt * y.toInt / 65536))) ∧
     (0x18 ≤ op → op ≤ 0x1A → i.mult = false → is 0)) ∧
  (∀ (s : State),
     (∀ sbIn, ∃ t, exec (.fabricCycle sbIn [] []) s = .next t ∧ ∀ d : Fin 4,
       (s.fabricRuns d = false → t.fab[d.val] = { s.fab[d.val] with
         crossBad := []
         cross := if s.hiveClocked = true ∧ s.rsc.hib = .awake then crossSnapshot s.fab[d.val] :: s.fab[d.val].cross.take 11
           else s.fab[d.val].cross }) ∧
       (s.fabricRuns d = true → t.fab[d.val].fabCycle = s.fab[d.val].fabCycle + 1 ∧ t.fab[d.val].cfg = s.fab[d.val].cfg ∧
         t.fab[d.val].regs =
           if s.fab[d.val].cfgSt = .unconfigured then s.fab[d.val].regs else (s.dieStep d sbIn).1)) ∧
     (∀ sbIn (e : RamErr) a, s.eccTarget sbIn e = some a → e.stored = none →
       ∃ t, exec (.fabricCycle sbIn [e] []) s = .next t ∧ t.fab[e.d.val].ceRam = satAdd s.fab[e.d.val].ceRam 1) ∧
     (∀ sbIn (e : RamErr) a w, s.eccTarget sbIn e = some a → e.stored = some w →
       ∃ t, exec (.fabricCycle sbIn [e] []) s = .next t ∧ t.fab[e.d.val].ceRam = s.fab[e.d.val].ceRam ∧
         t.ev.src[(dieEvent e.d 36).val].active = true) ∧
     (∀ sbIn (e : CrossErr), s.carriesGroup e.d e.group = true → crossFails e = false →
       ∃ t, exec (.fabricCycle sbIn [] [e]) s = .next t ∧ t.net = s.net) ∧
     (∀ sbIn (e : CrossErr), s.carriesGroup e.d e.group = true → crossFails e = true →
       ∃ t, exec (.fabricCycle sbIn [] [e]) s = .next t ∧ t.net.dies[e.d.val].degraded = true ∧
         t.net.dies[e.d.val].winCross = s.net.dies[e.d.val].winCross + 1 ∧
         t.net.dies[e.d.val].crossErr[e.group.val] = satAdd s.net.dies[e.d.val].crossErr[e.group.val] 1) ∧
     (∀ d : Fin 4, s.fab[d.val].capture.st = .triggered → s.fab[d.val].capture.left = 0 → s.fab[d.val].capture.fifo = [] →
       ∃ t, exec (.captureComplete d) s = .next t ∧ t.fab[d.val].capture = { s.fab[d.val].capture with st := .done } ∧
         Raised s t (dieEvent d 39) ∧ t = { s with fab := t.fab, ev := t.ev }))

/-! The hive network, the swarm and time (10, 11). -/

/-- The NET commands (R297, R300, R302, R305, R306, R309): status with its clear, a die fenced or reset, and what training, lock
and the audit begin.
How training, lock and audit end (R293, R296, R305, R309): a link that holds is LOCKED, and the fence of a die that rejoins
ends; lanes that the map needs and that fail take it DOWN with its die fenced; an audit replies what does not balance.
The layout of the results of training and lock, and that flits which a sender still keeps are numbered anew, are the model's
choices (DESIGN CHOICE, log entries 12 and 72). -/
def Obligations.NetworkCommands : Prop :=
  (∀ (s : State) (p : Pkt),
     let d := packetDie p
     let net (t : State) : Prop := t = { s with queen := t.queen, hif := t.hif, net := t.net }
     let noDetect : Prop := s.bist.run = none ∧
       ∀ j ∈ s.queen.jobs, (j.p.opcode = 0x0505 → groupDie (Pkt.group j.p) ≠ d) ∧ j.phase ≠ .stuck d
     let locks (t : State) (x : LockJob) : Prop := StillRuns s t p ∧ net t ∧ t.net.locking[d.val] = some x ∧
       x.key = some ⟨.pcie, p.tag⟩ ∧ x.live = true ∧
       t.net.dies[d.val] = if x.train then { s.net.dies[d.val] with st := .training } else s.net.dies[d.val]
     (Accepted cmdNetStatus p s → ∃ t body, exec (.netStatus p) s = .next t ∧ Completed cmdNetStatus p s t body ∧
       t = { s with queen := t.queen, hif := t.hif, net := t.net, free := t.free } ∧ body.length = 257 ∧
       body.getLast? = some s.net.timeouts ∧ ∀ e : Fin 4, t.net.dies[e.val] = if param p 32 0 1 = 1
         then { s.net.dies[e.val] with counters := Vector.replicate 8 0, crossErr := Vector.replicate 32 0 }
         else s.net.dies[e.val]) ∧
     (Accepted cmdNetDieFence p s → s.net.dies[d.val].fenced = true → ∃ t, exec (.netDieFence p) s = .next t ∧
       Completed cmdNetDieFence p s t [] ∧ t = { s with queen := t.queen, hif := t.hif }) ∧
     (Accepted cmdNetDieFence p s → s.net.dies[d.val].fenced = false → NoneWaits s → s.queen.cal = [] → noDetect → ∃ t,
       exec (.netDieFence p) s = .next t ∧ Completed cmdNetDieFence p s t [] ∧ t.net.dies[d.val].fenced = true ∧
       t.net.dies[d.val].fenceCause = 5 ∧ t.net.dies[d.val].fenceS = s.stampS ∧ t.net.dies[d.val].clockOn = false ∧
       t.net.dies[d.val].st = .down ∧ t.ev.src[26 + d.val].active = true ∧
       ∀ e : Fin 4, e ≠ d → t.net.dies[e.val] = s.net.dies[e.val]) ∧
     (Accepted cmdNetDieReset p s → NoneWaits s → s.queen.cal = [] → noDetect → ∃ t, exec (.netDieReset p) s = .next t ∧
       Completed cmdNetDieReset p s t [] ∧ t.net.dies[d.val].fenced = true ∧ t.fab[d.val].cfgSt = .unconfigured ∧
       (∀ w : Fin 32, workerDie w = d → t.workers[w.val].st = .empty ∧ t.workers[w.val].regs = Regs.reset) ∧
       (∀ g : Fin 16, groupDie g = d → t.groups[g.val] = { Group.reset with fail := { GFail.reset with
         threshold := s.groups[g.val].fail.threshold, suppress := s.groups[g.val].fail.suppress } }) ∧
       (∀ w : Fin 32, workerDie w ≠ d → t.workers[w.val] = s.workers[w.val]) ∧
       ∀ g : Fin 16, groupDie g ≠ d → t.groups[g.val] = s.groups[g.val]) ∧
     (Accepted cmdNetLaneRemap p s → s.net.dies[d.val].fenced = false → ∃ t x, exec (.netLaneRemap p) s = .next t ∧ locks t x ∧
       x.train = true ∧ x.remap = true ∧ x.bad = remapLanes p.block ∧ x.half = decide (param p 32 0 1 = 1) ∧
       x.record = decide (param p 32 8 1 = 1)) ∧
     (Accepted cmdNetLatencyLock p s → s.net.dies[d.val].fenced = false → ∃ t x, exec (.netLatencyLock p) s = .next t ∧
       locks t x ∧ x.train = decide (param p 32 0 1 = 1) ∧ x.remap = false ∧ x.rejoin = false ∧
       x.bad = s.net.dies[d.val].badLanes ∧ x.half = s.net.dies[d.val].half) ∧
     (Accepted cmdNetCreditAudit p s → ∃ t, exec (.netCreditAudit p) s = .next t ∧ StillRuns s t p ∧ net t ∧
       t.net = { s.net with audit := s.net.audit ++ [⟨.pcie, p.tag⟩] })) ∧
  (∀ (s : State),
     (∀ d x r j, s.net.locking[d.val] = some x → x.key = some j.key → Endable s j → x.live = true → x.remap = false →
       r.lockFail = [] → s.clk.mux.getLsbD d.val = true → (x.train = true → mapHolds x.bad x.half r.trainFail = true) → ∃ t,
         exec (.latencyLockEnd d r) s = .next t ∧ EndedDone j s t [t.linkWord d, 0] ∧ t.net.locking[d.val] = none ∧
         t.net.dies[d.val].st = .locked ∧
         (t.net.dies[d.val].fenced = if x.rejoin then false else s.net.dies[d.val].fenced) ∧
         (x.train = true → t.net.dies[d.val].badLanes = x.bad ∧ t.net.dies[d.val].rxSeq = 0 ∧ t.net.dies[d.val].dieRx = 0 ∧
           t.net.dies[d.val].txSeq =
             BitVec.ofNat 12 (untaken s.net.dies[d.val].replayBuf s.net.dies[d.val].dieRx).length) ∧
         (x.train = true → (∀ f ∈ s.net.mesh, f.at_ ≠ .endpoint d) →
           untaken s.net.dies[d.val].replayBuf s.net.dies[d.val].dieRx = [] →
           untaken s.net.dies[d.val].dieBuf s.net.dies[d.val].rxSeq = [] → ∀ vc, t.book (ndenuBook d false) vc = ⟨64, 0, 0, 0⟩ ∧ t.book (ndenuBook d true) vc = ⟨64, 0, 0, 0⟩)) ∧
     (∀ d x r, s.net.locking[d.val] = some x → x.live = true → s.clk.mux.getLsbD d.val = false → s.net.dies[d.val].st ≠ .locked →
       ∃ t, exec (.latencyLockEnd d r) s = .next t ∧ t.net.dies[d.val].st ≠ .locked) ∧
     (∀ d x r, s.net.locking[d.val] = some x → x.live = true → x.train = true → x.remap = false →
       mapHolds x.bad x.half r.trainFail = false → ∃ t, exec (.latencyLockEnd d r) s = .next t ∧
         t.net.dies[d.val].fenced = true ∧ t.net.dies[d.val].st = .down ∧ t.net.dies[d.val].fenceCause = 4) ∧
     (∀ k l j, s.net.audit = k :: l → j.key = k → Endable s j →
       (s.drained = true → ∃ t, exec (.auditDrained true) s = .next t ∧ EndedDone j s t s.auditWords ∧
         t.net = { s.net with audit := l } ∧ if s.mismatches = [] then t.ev = s.ev else Raised s t 30) ∧
       (s.drained = false → exec (.auditDrained true) s = .next s) ∧
       ∃ t, exec (.auditDrained false) s = .next t ∧ t.net = { s.net with audit := l } ∧ t.ev = s.ev ∧
         Ended j s t stTimeout j.mask (echoOf (echoEndOf j.p.opcode) j.args)))

/-- The mesh (R283, R284): a hop goes along x until the column is right, then along y; a flit of a unit of the hive die enters
at its router, and is answered `NOT_READY` where the router's domain is off.
Flits of the Ndenu links (R288, R291, R292, R299, R307): a whole one in order advances the sequence, ends the rejection and
leaves the sum of every book as it was; one out of order is not taken; one damaged is discarded and counted, and the one
expected is asked for; the flit that waits for its die goes on its link, kept until it is acknowledged. A group's fail
compression sends its oldest record to the fail pipeline in the stream channel (R286), in a payload whose form is the model's
choice (log entry 72). What happens to links and dies (R289, R292, R295, R298, R299, R302 to R304; 01, R11): replays count,
silence takes a link down and fences its die, margins warn, lost locks are told, a handshake that times out is answered to who
waited, and a die that loses its clock or training is cut off.
Which router a unit enters at is the model's choice (DESIGN CHOICE, log entry 62). -/
def Obligations.FlitsAndLinks : Prop :=
  (∀ r dst : Fin 32, r ≠ dst →
     let q := meshNext r (meshPort r dst)
     let far (x y : Nat) : Nat := (x - y) + (y - x)
     if r.val % 8 = dst.val % 8 then q.val % 8 = r.val % 8 ∧ far (q.val / 8) (dst.val / 8) + 1 = far (r.val / 8) (dst.val / 8)
     else q.val / 8 = r.val / 8 ∧ far (q.val % 8) (dst.val % 8) + 1 = far (r.val % 8) (dst.val % 8)) ∧
  (∀ (s : State) (src dst : NetUnit) (vc : Fin 4) (b : Bytes), netDie src = none → s.net.audit = [] → s.rsc.hib = .awake →
     s.attachRoom (netRouter src) vc = true →
     (s.pdOn (routerDomain (netRouter src)) = true → exec (.flit (.enter src dst vc b)) s = .next { s with net := { s.net with
       mesh := s.net.mesh ++ [⟨src, dst, vc, b, .router (netRouter src) attachPort⟩] } }) ∧
     (s.pdOn (routerDomain (netRouter src)) = false →
       exec (.flit (.enter src dst vc b)) s = .next { s with out := .notReady src :: s.out })) ∧
  (∀ (s : State) (d : Fin 4) (u : Fin 32) (dst : NetUnit) (vc : Fin 4) (b : Bytes) (noise : List (Fin 576)),
     let x := s.net.dies[d.val]
     let sums (t : State) : Prop := ∀ c v, (t.book c v).sum = (s.book c v).sum
     (failGroup (.die d u) = none → s.maySend d true vc = true → b.length = 64 → x.dieTx = x.rxSeq →
       ∃ t, exec (.flit (.fromDie d u dst vc b [])) s = .next t ∧
       sums t ∧ t.net.mesh = s.net.mesh ++ [⟨.die d u, dst, vc, b, .endpoint d⟩] ∧ t.net.dies[d.val].rxSeq = x.rxSeq + 1 ∧
       t.net.dies[d.val].rejecting = false ∧ t.net.dies[d.val].failsIn = 0 ∧
       t.net.dies[d.val].replayBuf = ackFlits x.replayBuf (x.dieRx - 1)) ∧
     (failGroup (.die d u) = none → s.maySend d true vc = true → b.length = 64 → x.dieTx ≠ x.rxSeq →
       ∃ t, exec (.flit (.fromDie d u dst vc b [])) s = .next t ∧
       sums t ∧ t.net.mesh = s.net.mesh ∧ t.net.dies[d.val].rxSeq = x.rxSeq ∧ t.net.dies[d.val].dieTx = x.dieTx + 1) ∧
     (failGroup (.die d u) = none → s.maySend d true vc = true → x.dieTx = x.rxSeq → x.failsIn < 15 →
       flitOk (addNoise (flitBytes b vc.val x.dieTx (x.dieRx - 1) (s.creditsDue d true).1 (s.creditsDue d true).2) noise) = false →
       ∃ t, exec (.flit (.fromDie d u dst vc b noise)) s = .next t ∧ sums t ∧ t.net.mesh = s.net.mesh ∧
         t.net.dies[d.val].rxSeq = x.rxSeq ∧ t.net.dies[d.val].rejecting = true ∧
         t.net.dies[d.val].failsIn = x.failsIn + 1 ∧ t.net.dies[d.val].counters[4] = satAdd x.counters[4] 1 ∧
         t.out = .flitReplayAsk d x.rxSeq :: s.out) ∧
     (∀ g r l, failGroup (.die d u) = some g → s.groups[g.val].fail.fifo = r :: l → s.maySend d true 2 = true → x.dieTx = x.rxSeq →
       ∃ t, exec (.flit (.fromDie d u dst vc b [])) s = .next t ∧ t.groups[g.val].fail.fifo = l ∧
         t.net.mesh = s.net.mesh ++ [⟨.die d u, .brood, 2, recBytes r, .endpoint d⟩]) ∧
     (∀ g, failGroup (.die d u) = some g → s.groups[g.val].fail.fifo = [] →
       exec (.flit (.fromDie d u dst vc b noise)) s = .next s) ∧
     (∀ g, s.flitsRun d = true → x.dieBuf.find? (·.seq = x.rxSeq) = some g → flitOk g.bytes = true →
       ∃ t, exec (.flit (.again d true x.rxSeq [])) s = .next t ∧ t.net.dies[d.val].rxSeq = x.rxSeq + 1 ∧
         t.net.dies[d.val].rejecting = false) ∧
     (∀ m, s.nextToDie d = some m → m.payload.length = 64 → x.txSeq = x.dieRx →
       ∃ t f, exec (.flit (.toDie d [])) s = .next t ∧ t.net.mesh = s.net.mesh.erase m ∧ f.seq = x.txSeq ∧
         f.bytes.take 64 = m.payload ∧ t.net.dies[d.val].replayBuf = x.replayBuf ++ [f] ∧
         t.net.dies[d.val].txSeq = x.txSeq + 1 ∧ t.net.dies[d.val].dieRx = x.dieRx + 1 ∧
         (0 < (s.book (meshBook (netRouter m.dst) attachPort) m.vc).filled → sums t))) ∧
  (∀ (s : State) (d : Fin 4) (lane : BitVec 16),
     let x := s.net.dies[d.val]
     let cut (t : State) : Prop := t.net.dies[d.val] = { x with clockOn := false, cutOff := true } ∧
       ∀ e : Fin 4, e ≠ d → t.net.dies[e.val] = s.net.dies[e.val]
     (s.flitsRun d = true → x.rejecting = true → x.dieBuf.any (·.seq = x.rxSeq) = true → x.winReplays < 1023 → ∃ t,
       exec (.replay (.die d true) x.rxSeq) s = .next t ∧ t.net.dies[d.val] = { x with
         counters := t.net.dies[d.val].counters, winReplays := x.winReplays + 1 } ∧
       t.net.dies[d.val].counters[5] = satAdd x.counters[5] 1) ∧
     (s.flitsRun d = true → x.dieRejecting = true → x.replayBuf.any (·.seq = x.dieRx) = true → x.winReplays < 1023 → ∃ t,
       exec (.replay (.die d false) x.dieRx) s = .next t ∧
       t.out = ((untaken x.replayBuf x.dieRx).map fun f => Output.flit d f.bytes).reverse ++ s.out ∧
       t.net.dies[d.val].counters[1] = satAdd x.counters[1] 1) ∧
     (s.flitsRun d = true → ∃ t, exec (.linkSilent d) s = .next t ∧
       t.net.dies[d.val].fenced = true ∧ t.net.dies[d.val].fenceCause = 3 ∧ t.net.dies[d.val].st = .down ∧
       t.net.dies[d.val].counters[6] = satAdd x.counters[6] 1) ∧
     (x.fenced = false → x.st = .locked → s.fixedLane d lane = true → ∃ t, exec (.lockMargin d lane) s = .next t ∧
       Raised s t ⟨22 + d.val, by omega⟩ ∧ t.net.dies[d.val].counters[7] = satAdd x.counters[7] 1 ∧
       t.net.dies[d.val].st = .locked) ∧
     (x.fenced = false → x.st = .locked → s.fixedLane d lane = true → ∃ t, exec (.lockLost d lane) s = .next t ∧ Raised s t 45 ∧
       t.net.dies[d.val] = { x with st := .up }) ∧
     (x.fenced = false → ∀ w, ∃ t, exec (.handshakeTimeout (.die d) w) s = .next t ∧ t.net.dies[d.val].fenced = true ∧
       t.net.dies[d.val].fenceCause = 1) ∧
     (x.fenced = true → ∃ t, exec (.fenceOrder d) s = .next t ∧ cut t) ∧
     (s.dieOn d 0 = true → ∃ t, exec (.laneTrainingLost d) s = .next t ∧ cut t) ∧
     (s.dieOn d 0 = true → x.fenced = false → ∃ t, exec (.dieClockLost d) s = .next t ∧ t.net.dies[d.val].fenced = true ∧
       t.net.dies[d.val].fenceCause = 2 ∧ t.net.dies[d.val].clockOn = false ∧ t.ev.src[(dieEvent d 33).val].active = true)) ∧
  (∀ (s : State),
     let counted : State := { s with net := { s.net with timeouts := satAdd s.net.timeouts 1 } }
     (∀ q, exec (.handshakeTimeout .other (.memory q)) s = .next { counted with out := .busError q .timeout :: s.out }) ∧
     exec (.handshakeTimeout .other .bar4) s = .next { counted with out := .barAbort :: s.out } ∧
     (∀ j, Endable s j → j.phase = .running → s.queen.up = true → ∃ t, exec (.handshakeTimeout .other (.command j.key)) s = .next t ∧
       Ended j s t stTimeout j.mask (echoOf (echoEndOf j.p.opcode) j.args) ∧ t.net = counted.net))

/-- The SWARM commands (R316, R318 to R322, R324, R327; 11, command table): the neighbour entries and their clear, the ID with a
HELLO on every ACTIVE link, the routes, a link's settings, disable and enable, and the forward that waits for its replies.
Forwarded commands (R324 to R328): a message of channel 0 is taken from its link, and one that meets no check is executed or
refused to its origin; the reply that completes a forward ends it, one without a forward is counted, and a forward past its time
ends `TIMEOUT`.
The order of the neighbour entries and of a link's settings and its action is the model's reading (DEDUCED, log entry 21). -/
def Obligations.SwarmCommands : Prop :=
  (∀ (s : State) (p : Pkt),
     let only (t : State) : Prop := t = { s with queen := t.queen, hif := t.hif, swarm := t.swarm, out := t.out }
     let l := linkOf p.unit.toNat
     let k := s.swarm.links[l.val]
     let named (i : Fin 16) : Bool := (param p 32 0 16).testBit i.val
     let b := applied cmdSwarmLinkSet p
     let act := param p 32 0 2
     let transit : Prop := (∀ q ∈ k.txq, q.from_ = none) ∧ ∀ (i : Fin 16), i ≠ l → ∀ q ∈ s.swarm.links[i.val].txq, q.from_ ≠ some l
     (Accepted cmdSwarmNeighbours p s → ∃ t, exec (.swarmNeighbours p) s = .next t ∧
       Completed cmdSwarmNeighbours p s t
         ((((allFin 16).filter named).flatMap fun i => s.swarm.links[i.val].entry) ++ [s.swarm.fwdLate]) ∧ only t ∧
       t.swarm.fwdLate = (if param p 32 16 1 = 1 then 0 else s.swarm.fwdLate) ∧
       ∀ i : Fin 16, t.swarm.links[i.val] = if param p 32 16 1 = 1 ∧ named i = true
         then { s.swarm.links[i.val] with cnts := Vector.replicate 4 0 } else s.swarm.links[i.val]) ∧
     (Accepted cmdSwarmIdSet p s → ∃ t, exec (.swarmIdSet p) s = .next t ∧ Completed cmdSwarmIdSet p s t [] ∧ only t ∧
       t.swarm.id = BitVec.ofNat 8 (param p 32 0 8) ∧ ∀ i, s.linkUp i = true → ∃ x, .laravo i 4 x ∈ t.out) ∧
     (Accepted cmdSwarmRouteSet p s → ∃ t, exec (.swarmRouteSet p) s = .next t ∧ Completed cmdSwarmRouteSet p s t [] ∧ only t ∧
       (∀ i : Fin 255, t.swarm.routes[i.val] = if param p 32 0 8 ≤ i.val ∧ i.val < param p 32 0 8 + param p 32 8 9
         then wordAt p.block (40 + 4 * (i.val - param p 32 0 8)) else s.swarm.routes[i.val]) ∧
       t.swarm.bcastMask = if param p 36 16 1 = 1 then s.swarm.bcastMask else BitVec.ofNat 16 (param p 36 0 16)) ∧
     (Accepted cmdSwarmLinkSet p s → act = 0 ∨ transit → ∃ t, exec (.swarmLinkSet p) s = .next t ∧
       Completed cmdSwarmLinkSet p s t [] ∧ (act = 0 → only t ∧ t.swarm.links[l.val] = k.withSettings b) ∧
       (act = 1 → t.swarm.links[l.val] = { (k.withSettings b).cleared with st := .off, enabled := false, mayTrain := false } ∧
         (k.st ≠ .off → Raised s t 31)) ∧
       (act = 2 → t.swarm.links[l.val] = { (k.withSettings b).cleared with st := .down, enabled := true, mayTrain := true } ∧
         (k.st ≠ .down → Raised s t 31)) ∧
       ∀ i : Fin 16, i ≠ l → t.swarm.links[i.val] = s.swarm.links[i.val]) ∧
     (Accepted cmdSwarmForward p s → ∃ t f, exec (.swarmForward p) s = .next t ∧ StillRuns s t p ∧
       t = { s with queen := t.queen, hif := t.hif, swarm := t.swarm, out := t.out } ∧
       t.swarm.forwards = s.swarm.forwards ++ [f] ∧ f.key = ⟨.pcie, p.tag⟩ ∧ f.got = [] ∧ f.aborting = false ∧
       f.mode.toNat = param p 32 0 2 ∧ f.dest = BitVec.ofNat 8 (param p 32 8 8) ∧
       f.tag = ((innerWords (applied cmdSwarmForward p)).getD 1 0).setWidth 16 ∧
       f.expected = if param p 32 0 2 = 2 then fld (applied cmdSwarmForward p) 44 0 8 else 1)) ∧
  (∀ (s : State) (l : Fin 16) (host : Option Bytes) (m : Message) (rest : List Message),
     let k := s.swarm.links[l.val]
     let p := Pkt.ofWords (wordsOfBytes m.data) host
     let path : Path := .fwd m.src l m.way
     let tag : BitVec 16 := ((wordsOfBytes m.data).getD 1 0).setWidth 16
     let took : State := s.modLink l fun k => { k with whole := rest }
     (s.queen.serves = true → s.queenClocked = true → s.rsc.hib = .awake → takeMessage 0 k.whole = some (m, rest) →
       s.tagUsed ⟨path, p.tag⟩ = false → s.tagsOn Path.isFwd < 64 → p.length.toNat = m.data.length →
       exec (.forwardedCommand l host) s = .next ((cmdOf p.opcode).take path p took)) ∧
     (takeMessage 0 k.whole = none → exec (.forwardedCommand l host) s = .next s) ∧
     (∀ f j, takeMessage 1 k.whole = some (m, rest) → s.swarm.forwards = [f] → f.tag = tag → f.got = [] → f.expected = 1 →
       f.mode = 0 → f.dest = m.src → m.way = none → f.aborting = false → f.key = j.key → Endable s j → ∃ t, exec (.forwardReply l) s = .next t ∧
         EndedDone j s t (wordsOfBytes m.data) ∧ t.swarm.forwards = [] ∧ t.swarm.links[l.val].whole = rest) ∧
     (takeMessage 1 k.whole = some (m, rest) → (∀ f ∈ s.swarm.forwards, f.tag ≠ tag) → ∃ t,
       exec (.forwardReply l) s = .next t ∧ t = { s with swarm := t.swarm } ∧ t.swarm.fwdLate = satAdd s.swarm.fwdLate 1) ∧
     (∀ f j, s.swarm.forwards = [f] → f.key = j.key → Endable s j → ∃ t, exec (.forwardTimeout j.key) s = .next t ∧
       Ended j s t stTimeout j.mask (echoOf (echoEndOf j.p.opcode) j.args ++ f.body) ∧ t.swarm.forwards = []))

/-- Packets between devices (R312 to R314, R321, R325, R329; 16, R439): a damaged packet is discarded, counted and asked for
again; one out of order is discarded with all it holds; one in order is acknowledged, and a whole message for this device waits
in its link; a buzz reaches the running members of its groups and is relayed once; HELLOs go out on links that are up, and a
skip column behind every 1,024 columns of code groups. How a code group that is none spoils a packet, and where idle columns lie
between packets, is the model's choice (log entry 74).
A packet that fails sixteen times in a row takes its link DOWN (R317), and a replay that the partner asks for goes out and is
counted (R314).
Laravo links (R316 to R319): an enabled link that is DOWN and may train goes to TRAINING; trained, its wiring takes it UP,
corrected if asked, or to FAULT; its neighbour's HELLO makes it ACTIVE; silence takes it DOWN. -/
def Obligations.SwarmTraffic : Prop :=
  (∀ (s : State) (l : Fin 16) (cols : List (List (BitVec 10))) (bytes : Bytes) (clean : Bool) (mask origin seq : Byte),
     let k := s.swarm.links[l.val]
     let n := bytes.length - 4
     let arrives : Prop := unframe (elastic (cols.map (·.map rxSym))) = some (bytes, clean)
     let good : Prop := clean = true ∧ crc32 (bytes.take n) = BitVec.ofNat 32 (bytesNum (bytes.drop n))
     let b2 := (bytes.getD 2 0).toNat
     let own : Prop := b2.testBit 3 = true ∧ b2.testBit 4 = true ∧ b2.testBit 5 = false ∧ bytes.getD 0 0 = s.swarm.id ∧
       bytes.getD 0 0 ≠ 0xFF
     let num : BitVec 12 := BitVec.ofNat 12 (bytesNum ((bytes.drop 4).take 2))
     let usable : Prop := s.linkActive l = true ∧ arrives ∧ 16 ≤ bytes.length
     let up : Prop := k.st = .up ∨ k.st = .active
     (usable → ¬ good → k.rejecting = false ∨ num = k.rxSeq → k.failsIn < 15 → ∃ t, exec (.laravoPacket l cols) s = .next t ∧
       t.out = .replayAsk l k.rxSeq :: s.out ∧ t = { s with swarm := t.swarm, out := t.out } ∧
       t.swarm.links[l.val] =
         { k with rejecting := true, failsIn := k.failsIn + 1, cnts := t.swarm.links[l.val].cnts } ∧
       t.swarm.links[l.val].cnts[0] = satAdd k.cnts[0] 1) ∧
     (usable → ¬ good → k.rejecting = false ∨ num = k.rxSeq → 15 ≤ k.failsIn → ∃ t, exec (.laravoPacket l cols) s = .next t ∧
       Raised s t 31 ∧ t.swarm.links[l.val].st = .down ∧ t.swarm.links[l.val].txSeq = 0 ∧ t.swarm.links[l.val].rxSeq = 0) ∧
     (s.linkActive l = true → k.replayBuf.any (·.1 = num) = true → k.failsAt ≠ num → ∃ t,
       exec (.replay (.laravo l) num) s = .next t ∧
       t.out = ((k.replayBuf.dropWhile (·.1 != num)).map fun p => Output.laravo l 0 p.2).reverse ++ s.out ∧
       t.swarm.links[l.val].cnts[1] = satAdd k.cnts[1] 1 ∧ t.swarm.links[l.val].replayBuf = k.replayBuf) ∧
     (usable → good → b2 % 8 < 4 → num ≠ k.rxSeq → exec (.laravoPacket l cols) s = .next s) ∧
     (s.linkActive l = true → unframe (elastic (cols.map (·.map rxSym))) = none → exec (.laravoPacket l cols) s = .next s) ∧
     (usable → good → b2 % 8 < 4 → num = k.rxSeq → ∃ t, exec (.laravoPacket l cols) s = .next t ∧
       t.swarm.links[l.val].rxSeq = k.rxSeq + 1 ∧ t.swarm.links[l.val].rejecting = false ∧
       (own → t.swarm.links[l.val].whole = k.whole ++
         [⟨b2 % 8, bytes.getD 1 0, none, none, (bytes.take n).drop 12⟩])) ∧
     (up → ∃ t x, exec (.skipColumn l) s = .next t ∧ t.out = .skip l :: .columns l x :: s.out ∧
       t = { s with swarm := t.swarm, out := t.out } ∧ t.swarm.links[l.val].wire = k.wire.drop 1024 ∧ x.length = 1025 ∧
       x = (codeColumns (k.columns ++ [skipSyms]) k.txDisp.toList).1) ∧
     (up → ∃ t x, exec (.helloSend l) s = .next t ∧ t.out = .laravo l 4 x :: s.out ∧
       t = { s with swarm := t.swarm, out := t.out }) ∧
     (s.linkActive l = true → k.buzzRx = true → s.swarm.buzzSeen.contains (origin, seq) = false →
       ∃ t, exec (.buzz l mask origin seq) s = .next t ∧
         (∀ (g : Fin 8) (w : Fin 32), mask.getLsbD g.val = true → w ∈ s.buzzMembers g → s.workers[w.val].st = .running →
           t.workers[w.val].dbg.haltReq = true) ∧
         (∀ i : Fin 16, i ≠ l → s.swarm.links[i.val].buzzTx = true → s.linkActive i = true →
           .buzz i mask origin seq ∈ t.out) ∧
         t.swarm.buzzSeen.contains (origin, seq) = true) ∧
     (s.swarm.buzzSeen.contains (origin, seq) = true → exec (.buzz l mask origin seq) s = .next s)) ∧
  (∀ (s : State) (l : Fin 16) (rev : Bool) (inv : BitVec 4) (x : TimePkt),
     let k := s.swarm.links[l.val]
     let others (t : State) : Prop := ∀ i : Fin 16, i ≠ l → t.swarm.links[i.val] = s.swarm.links[i.val]
     let told (t : State) : Prop := Raised s t 31 ∧ others t
     let transit : Prop := (∀ q ∈ k.txq, q.from_ = none) ∧ ∀ (i : Fin 16), i ≠ l → ∀ q ∈ s.swarm.links[i.val].txq, q.from_ ≠ some l
     (k.enabled = true → s.laravoMode = true → s.linkPowered l = true → s.linkMarked l = false → s.clk.runs = true →
       s.clk.coast = false →
       k.st = .down → k.mayTrain = true ∨ k.retrain = true → transit → ∃ t, exec (.linkTrainingStart l) s = .next t ∧ told t ∧
         t.swarm.links[l.val] = { k.cleared with st := .training, mayTrain := false }) ∧
     (k.st = .training → ∃ t, exec (.linkTrained l .straight) s = .next t ∧ told t ∧ t.swarm.links[l.val].st = .up ∧
       t.swarm.links[l.val].fixApplied = false ∧ ∃ b, t.out.head? = some (.laravo l 4 b)) ∧
     (k.st = .training → transit → ∃ t, exec (.linkTrained l (.fixable rev inv)) s = .next t ∧ told t ∧
       t.swarm.links[l.val].st = (if k.fixWiring = true then .up else .fault) ∧
       t.swarm.links[l.val].fixApplied = k.fixWiring ∧ t.swarm.links[l.val].reversed = rev ∧
       t.swarm.links[l.val].inverted = inv) ∧
     (k.st = .training → transit → ∃ t, exec (.linkTrained l .bad) s = .next t ∧ told t ∧
       t.swarm.links[l.val] = { k.cleared with st := .fault }) ∧
     (k.st = .up ∨ k.st = .active ∨ k.st = .training → transit → ∃ t, exec (.laravoSilent l) s = .next t ∧ told t ∧
       t.swarm.links[l.val] = { k.cleared with st := .down }) ∧
     (x.crcOk = true → k.st = .up ∨ k.st = .active → k.txq = [] → ∃ t, exec (.hello l x) s = .next t ∧ others t ∧
       t.swarm.links[l.val].st = .active ∧ t.swarm.links[l.val].peerId = x.bytes.getD 12 0 ∧
       t.swarm.links[l.val].peerIdentity = BitVec.ofNat 64 (bytesNum ((x.bytes.drop 4).take 8)) ∧
       t.swarm.links[l.val].peerLink = BitVec.ofNat 4 (x.bytes.getD 2 0).toNat ∧
       t.swarm.links[l.val].helloSeen = true ∧
       (t.swarm.links[l.val].dup = true ↔ x.bytes.getD 12 0 = s.swarm.id ∧ x.bytes.getD 12 0 ≠ 0xFF)) ∧
     (x.crcOk = false → ∃ t, exec (.hello l x) s = .next t ∧ t = { s with swarm := t.swarm } ∧ others t ∧
       t.swarm.links[l.val] = { k with cnts := t.swarm.links[l.val].cnts } ∧
       t.swarm.links[l.val].cnts[3] = satAdd k.cnts[3] 1))

/-- The TIME commands (R330, R332 to R334, R336, R343): what a base reads, a step or slew within the jump limit, one beyond it
refused with `E032` and without effect, the trim, the servo's settings and the limit itself.
How devices share time (R333, R336 to R341): path delay is asked, answered and measured; a grandmaster or locked device sends
SYNC; the servo takes an unset `TB0` to the time it is told, else slews half of each error, refuses one over the jump limit and
holds without SYNC; a slew that is absorbed ends.
The median of an even number of delays, and the rounding of halves, are the model's readings (DEDUCED, log entry 22). -/
def Obligations.Time : Prop :=
  (∀ (s : State) (p : Pkt),
     let b := tbOf (param p 32 0 8)
     let x := s.tb[b.val]
     let bases (t : State) (y : TimeBase) : Prop := t = { s with queen := t.queen, hif := t.hif, tb := t.tb } ∧
       t.tb[b.val] = y ∧ ∀ c : Fin 8, c ≠ b → t.tb[c.val] = s.tb[c.val]
     let refusedStep (t : State) : Prop := RefusedWith p s t ⟨stJump, 0xFF⟩ ∧ Raised s t 32 ∧ t.tb = s.tb
     let v := setInstant (applied cmdTimeSet p)
     let amount := signedOf 64 (param p 36 0 64)
     let y := applied cmdTimeSyncSet p
     let limit : Nat := x.jump.toNat * 4294967296
     (∀ c : Fin 8, State.reset.tb[c.val].set = false) ∧
     (Accepted cmdTimeGet p s → ∃ t, exec (.timeGet p) s = .next t ∧ Completed cmdTimeGet p s t
       (((allFin 8).filter fun c => (param p 32 0 8).testBit c.val).flatMap s.tbWords) ∧
       t = { s with queen := t.queen, hif := t.hif }) ∧
     (Accepted cmdTimeSet p s → param p 32 8 1 = 1 → ∃ t, exec (.timeSet p) s = .next t ∧ Completed cmdTimeSet p s t [] ∧
       bases t { x with set := false }) ∧
     (Accepted cmdTimeSet p s → param p 32 8 1 = 0 → (x.set = true → (v - x.value : Int).natAbs ≤ limit) →
       (∀ j ∈ s.queen.jobs, j.isScheduled = false) → ∃ t, exec (.timeSet p) s = .next t ∧ Completed cmdTimeSet p s t [] ∧
         bases t { x.withValue v with set := true }) ∧
     (Accepted cmdTimeSet p s → param p 32 8 1 = 0 → x.set = true → limit < (v - x.value : Int).natAbs → ∃ t,
       exec (.timeSet p) s = .next t ∧ refusedStep t) ∧
     (Accepted cmdTimeAdjust p s → param p 32 8 2 = 0 → amount.natAbs ≤ limit → ∃ t, exec (.timeAdjust p) s = .next t ∧
       Completed cmdTimeAdjust p s t [] ∧ bases t { x with
         slew := amount, slewPpm := fld (applied cmdTimeAdjust p) 44 0 10, slewAcc := 0, slewing := decide (amount ≠ 0) }) ∧
     (Accepted cmdTimeAdjust p s → param p 32 8 2 = 0 → limit < amount.natAbs → ∃ t, exec (.timeAdjust p) s = .next t ∧
       refusedStep t) ∧
     (Accepted cmdTimeAdjust p s → param p 32 8 2 = 1 → ∃ t, exec (.timeAdjust p) s = .next t ∧
       Completed cmdTimeAdjust p s t [] ∧ bases t { x with trim := signedOf 32 (fld (applied cmdTimeAdjust p) 48 0 32) }) ∧
     (Accepted cmdTimeSyncSet p s → ∃ t, exec (.timeSyncSet p) s = .next t ∧ Completed cmdTimeSyncSet p s t [] ∧
       t = { s with queen := t.queen, hif := t.hif, servo := t.servo } ∧ t.servo.source.toNat = fld y 32 0 2 ∧
       t.servo.link.val = fld y 32 8 4 ∧ t.servo.txMask.toNat = fld y 36 0 16 ∧ t.servo.periodLog.toNat = fld y 40 0 4 ∧
       t.servo.ptmOffset = signedOf 64 (fld y 44 0 64) ∧
       t.servo.st = if fld y 32 0 2 = 0 then .off else .acquiring) ∧
     (Accepted cmdTimeJumpLimit p s → ∃ t, exec (.timeJumpLimit p) s = .next t ∧ Completed cmdTimeJumpLimit p s t [] ∧
       bases t { x with jump := BitVec.ofNat 32 (fld (applied cmdTimeJumpLimit p) 36 0 32) })) ∧
  (∀ (s : State) (l : Fin 16) (x : TimePkt) (phase : Fin 16) (master now_ : Int) (b : Fin 8),
     let k := s.swarm.links[l.val]
     let sent (t : State) (type : Byte) : Prop := (∃ d, t.out = .laravo l type d :: s.out) ∧
       t = { s with swarm := t.swarm, out := t.out }
     let on := s.linkActive l
     let ts (off : Nat) : Int := stampValue ((x.bytes.drop off).take 14)
     let e : Int := ts 4 + medianOf k.delays - x.rxTime
     let follows : Prop := s.servo.source = 2 ∧ s.servo.link = l ∧ on = true ∧ s.servo.runs = true ∧ x.crcOk = true
     let pe : Int := master + s.servo.ptmOffset * 4294967296 - now_
     let slews (t : State) (e : Int) : Prop := t.tb[0].slew = e.tdiv 2 ∧ t.tb[0].slewPpm = 1000 ∧ t.servo.refused = 0 ∧
       t.tb[0].value = s.tb[0].value
     (s.servo.txMask.getLsbD l.val = true → on = true → s.tb0.set = true → s.servo.st ≠ .hold →
       s.servo.grandmaster = true ∨ s.servo.st = .locked → ∃ t, exec (.syncSend l phase) s = .next t ∧ sent t 1) ∧
     (s.servo.st = .hold → exec (.syncSend l phase) s = .next s) ∧
     (on = true → ∃ t, exec (.pdelayReqSend l phase) s = .next t ∧ sent t 2 ∧
       t.swarm.links[l.val].reqT1 = some ((s.tb0.value + phase.val * 268435456 : Nat) : Int)) ∧
     (x.crcOk = true → on = true → k.txq = [] → ∃ t, exec (.pdelayReq l x phase) s = .next t ∧ sent t 3) ∧
     (∀ t1, x.crcOk = true → on = true → k.txq = [] → k.reqT1 = some t1 → ∃ t, exec (.pdelayResp l x) s = .next t ∧
       t = { s with swarm := t.swarm } ∧ t.swarm.links[l.val] =
         { k.acked x.ack x.crVc.toNat x.crN.toNat with reqT1 := none, delays := (((x.rxTime - t1) - (ts 4 - ts 20)).tdiv 2 :: k.delays).take 16 }) ∧
     (follows → s.tb0.set = true → e.natAbs ≤ s.tb0.jump.toNat * 4294967296 → ∃ t, exec (.sync l x) s = .next t ∧ slews t e ∧
       t.servo.stratum = satAdd (x.bytes.getD 3 0) 1) ∧
     (follows → s.tb0.set = false → ∃ t, exec (.sync l x) s = .next t ∧ t.tb[0].set = true ∧
       t.tb[0] = { s.tb0.withValue (x.rxTime + e).toNat with set := true }) ∧
     (follows → s.tb0.set = true → s.tb0.jump.toNat * 4294967296 < e.natAbs → s.servo.refused < 3 →
       s.servo.jumpSec ≠ some s.tb0.sec → ∃ t, exec (.sync l x) s = .next t ∧ Raised s t 32 ∧ t.tb = s.tb ∧
         t.servo.refused = s.servo.refused + 1) ∧
     (s.servo.source = 1 → s.hif.ptmOn = true → s.hif.pcieUp = true → s.servo.runs = true → s.tb0.set = true →
       pe.natAbs ≤ s.tb0.jump.toNat * 4294967296 → ∃ t, exec (.ptmDialogue master now_) s = .next t ∧ slews t pe) ∧
     (s.servo.runs = true → ∃ t, exec .servoHold s = .next t ∧ Raised s t 33 ∧ t.servo = { s.servo with st := .hold } ∧
       t.tb[0] = { s.tb0 with syncLost := true }) ∧
     (s.tb[b.val].slewing = true → s.tb[b.val].slew = 0 → ∃ t, exec (.slewAbsorbed b) s = .next t ∧
       t = { s with tb := t.tb } ∧ t.tb[b.val] = { s.tb[b.val] with slewing := false }))

/-! Debug (16_debug.md). -/

/-- Debug scopes (15, R423, R424): a challenge of 55 words is kept, its proof opens the scope and a wrong one is refused with `E042`,
both once only; a lock closes the scope.
Debug access and settings (R430, R438, R439, R441, R442; 15, R415): registers of a halted Worker are read without effect and
written in order, but that `CYCL` marks `SE_SUPPRESSED` or, consumed, latches `CYCH`; comparators and buzz groups are set. -/
def Obligations.DebugScopesAndAccess : Prop :=
  (∀ (s : State) (p : Pkt),
     let scope := param p 32 8 2
     let data := (bytesOfWords ((applied cmdDbgUnlock p).drop 1)).take (param p 32 16 16)
     let good : Prop := ∃ c, s.sec.challenge = some c ∧ c.scope.toNat = scope ∧ s.unlocks c data = true
     (Accepted cmdDbgUnlock p s → param p 32 0 2 = 0 → ∃ t body, exec (.dbgUnlock p) s = .next t ∧
       Completed cmdDbgUnlock p s t body ∧ body.length = 55 ∧ ∃ c, t.sec.challenge = some c ∧ c.scope.toNat = scope ∧
         c.msg.length = 88 ∧ body.take 22 = wordsOfBytes c.msg) ∧
     (Accepted cmdDbgUnlock p s → param p 32 0 2 = 1 → good → ∃ t, exec (.dbgUnlock p) s = .next t ∧
       Completed cmdDbgUnlock p s t [] ∧ t = { s with queen := t.queen, hif := t.hif, sec := t.sec } ∧
       t.sec.challenge = none ∧ t.scopeOpen (decide (scope = 2)) = true ∧
       t.sec.scope1 = (s.sec.scope1 || decide (scope = 1)) ∧ t.sec.scope2 = (s.sec.scope2 || decide (scope = 2)) ∧
       t.sec.flags.getLsbD scope = true) ∧
     (Accepted cmdDbgUnlock p s → param p 32 0 2 = 1 → ¬ good → ∃ t, exec (.dbgUnlock p) s = .next t ∧
       RefusedWith p s t ⟨stAuth, 0xFF⟩ ∧ Raised s t 42 ∧ t.sec.challenge = none ∧ t.sec.scope1 = s.sec.scope1 ∧
       t.sec.scope2 = s.sec.scope2) ∧
     (Accepted cmdDbgUnlock p s → param p 32 0 2 = 2 → ∃ t, exec (.dbgUnlock p) s = .next t ∧
       Completed cmdDbgUnlock p s t [] ∧ t = { s with queen := t.queen, hif := t.hif, sec := t.sec } ∧
       (scope = 1 → t.sec.scope1 = false ∧ t.sec.scope2 = s.sec.scope2) ∧
       (scope = 2 → t.sec.scope2 = false ∧ t.sec.scope1 = s.sec.scope1))) ∧
  (∀ (s : State) (p : Pkt),
     let a := param p 40 0 64
     let n := param p 48 0 16 / 4
     let w : Fin 32 := Fin.ofNat 32 (param p 32 16 5)
     let unit : Fin 32 := Fin.ofNat 32 p.unit.toNat
     let ws := ((applied cmdDbgWrite p).drop 6).take n
     (Accepted cmdDbgRead p s → param p 32 0 2 = 1 → param p 32 8 1 = 0 ∨ ¬ (a ≤ 49 ∧ 49 < a + n) → ∃ t,
       exec (.dbgRead p) s = .next t ∧
       Completed cmdDbgRead p s t ((List.range n).map fun i => s.readReg w s.workers[w.val].regs (a + i)) ∧
       t = { s with queen := t.queen, hif := t.hif, dbg := { s.dbg with
         seSupp := s.dbg.seSupp || decide (a ≤ 49 ∧ 49 < a + n) } }) ∧
     (Accepted cmdDbgRead p s → param p 32 0 2 = 1 → param p 32 8 1 = 1 → a ≤ 49 → 49 < a + n → ∃ t ws,
       exec (.dbgRead p) s = .next t ∧ Completed cmdDbgRead p s t ws ∧ ws.length = n ∧
       (∀ i < n, a + i ≠ 50 → ws.getD i 0 = s.readReg w s.workers[w.val].regs (a + i)) ∧
       t = { s with queen := t.queen, hif := t.hif, workers := t.workers } ∧ t.workers[w.val] = { s.workers[w.val] with
         regs := { s.workers[w.val].regs with cych := BitVec.ofNat 32 (s.workers[w.val].cycl.toNat / 2 ^ 32) } } ∧
       ∀ v : Fin 32, v ≠ w → t.workers[v.val] = s.workers[v.val]) ∧
     (Accepted cmdDbgWrite p s → param p 32 0 2 = 1 → ∃ t, exec (.dbgWrite p) s = .next t ∧ Completed cmdDbgWrite p s t [] ∧
       t = { s with queen := t.queen, hif := t.hif, workers := t.workers } ∧
       t.workers[w.val] = { s.workers[w.val] with regs := s.workers[w.val].regs.putRegs a ws } ∧
       ∀ v : Fin 32, v ≠ w → t.workers[v.val] = s.workers[v.val]) ∧
     (Accepted cmdDbgBreakSet p s → ∃ t, exec (.dbgBreakSet p) s = .next t ∧ Completed cmdDbgBreakSet p s t [] ∧
       t = { s with queen := t.queen, hif := t.hif, workers := t.workers } ∧
       (∀ c : Fin 8, t.workers[unit.val].dbg.comps[c.val] = comparatorOf p.block c.val) ∧
       ∀ v : Fin 32, v ≠ unit → t.workers[v.val] = s.workers[v.val]) ∧
     (Accepted cmdDbgXtrigSet p s → ∃ t, exec (.dbgXtrigSet p) s = .next t ∧ Completed cmdDbgXtrigSet p s t [] ∧
       t = { s with queen := t.queen, hif := t.hif, dbg := t.dbg } ∧
       ∀ g : Fin 8, (t.dbg.members[g.val]).toNat = param p (32 + 8 * g.val) 0 32 ∧
         (t.dbg.fabricEv[g.val]).toNat = param p (36 + 8 * g.val) 0 32))

/-- Halting and resuming (R431 to R437, R443): a halt asks the running Workers it names and waits for them, or replies at once
when none runs; a HALTED Worker resumes at `HPC` with its causes cleared; a step resumes it for its count of bundles.
A Queen core that its watchdog stops (12, R361) is held halted, and `E039` is raised; nothing else changes.
That a resume leaves Workers of a die that is fenced or off alone, and that the watchdog's grace is for one that is enabled, are
the model's readings (DEDUCED, log entry 43). -/
def Obligations.HaltResumeStep : Prop :=
  (∀ (s : State) (p : Pkt),
     let named (w : Fin 32) : Bool := (param p 32 0 32).testBit w.val
     let live (w : Fin 32) : Prop := s.workers[w.val].st = .running ∧ s.net.dies[(workerDie w).val].fenced = false
     let unit : Fin 32 := Fin.ofNat 32 p.unit.toNat
     (Accepted cmdDbgHalt p s → param p 36 8 8 = 0 → (∃ w, named w = true ∧ live w) → ∃ t, exec (.dbgHalt p) s = .next t ∧
       StillRuns s t p ∧ Raised s t 40 ∧
       (∀ w, named w = true → live w → t.workers[w.val].dbg.haltReq = true ∧ t.workers[w.val].st = .running) ∧
       (∀ w : Fin 32, named w = false → t.workers[w.val] = s.workers[w.val]) ∧
       t.queen.dbgHalt = (s.queen.dbgHalt || decide (param p 36 0 1 = 1)) ∧
       ∃ a, t.dbg.haltJobs = s.dbg.haltJobs ++ [(⟨.pcie, p.tag⟩, a, 0)] ∧
         ∀ w : Fin 32, a.getLsbD w.val = true ↔ named w = true ∧ live w) ∧
     (Accepted cmdDbgHalt p s → param p 36 8 8 = 0 → (∀ w, named w = true → ¬ live w) → ∃ t, exec (.dbgHalt p) s = .next t ∧
       Completed cmdDbgHalt p s t [0] ∧ Raised s t 40 ∧ t.workers = s.workers ∧
       t.queen.dbgHalt = (s.queen.dbgHalt || decide (param p 36 0 1 = 1))) ∧
     (Accepted cmdDbgResume p s → (∀ g : Fin 16, s.groups[g.val].st ≠ .halted ∧ s.groups[g.val].st ≠ .armed) → ∃ t,
       exec (.dbgResume p) s = .next t ∧ Completed cmdDbgResume p s t [] ∧
       t = { s with queen := t.queen, hif := t.hif, workers := t.workers } ∧
       t.queen.dbgHalt = (s.queen.dbgHalt && decide (param p 36 0 1 ≠ 1)) ∧
       ∀ w : Fin 32, (named w = true ∧ s.mayResume w = true → t.workers[w.val].st = .running ∧
           t.workers[w.val].pc = s.workers[w.val].dbg.hpc ∧ t.workers[w.val].dbg.causes = 0 ∧
           (s.workers[w.val].regs.wdogCtrl.getLsbD 0 = true → 1024 ≤ t.workers[w.val].regs.wdog.toNat)) ∧
         (named w = false ∨ s.mayResume w = false → t.workers[w.val] = s.workers[w.val])) ∧
     (Accepted cmdDbgStep p s → (∀ g : Fin 16, s.groups[g.val].st ≠ .halted ∧ s.groups[g.val].st ≠ .armed) → ∃ t,
       exec (.dbgStep p) s = .next t ∧ StillRuns s t p ∧
       t = { s with queen := t.queen, hif := t.hif, workers := t.workers } ∧
       t.workers[unit.val].st = .running ∧ t.workers[unit.val].pc = s.workers[unit.val].dbg.hpc ∧
       t.workers[unit.val].dbg.stepLeft = some (fld (applied cmdDbgStep p) 32 0 16) ∧
       t.workers[unit.val].dbg.stepJob = some ⟨.pcie, p.tag⟩ ∧
       ∀ w : Fin 32, w ≠ unit → t.workers[w.val] = s.workers[w.val])) ∧
  (∀ (s : State) (pc : Word), s.queen.up = true → s.queen.halted = false → s.queen.dbgHalt = false →
     ∃ t, exec (.queenWatchdog pc) s = .next t ∧ Raised s t 39 ∧ t = { s with queen := { s.queen with halted := true }, ev := t.ev })

/-- The TAP's instructions (R426, R427): what each shifts out and drives; those that act on pins act in BOOT, SAFE and MAINTAIN and are
`BYPASS` in every other mode, and pins held are let go when the instruction changes. That a bypass register captures 0 and that
the cells stand in the order of the operand is the model's choice (log entry 13).
Wrappers and the mailbox (R426, R428, R429, R444): a selection leaves and the next enters; wrappers that stay in their bypass bit
delay the chain by one each; words gather in the mailbox until a packet is whole, its reply is read with bit 31 set, and a TAP
reset empties the mailbox and touches nothing else.
Internal registers (R430): they hold what debug wrote. Where their space lies and that they hold it is the model's choice
(log entry 15). -/
def Obligations.TestAccessPort : Prop :=
  (∀ (s : State) (sampled cells : List Bool) (bit : Bool), s.pdOn 0 = true →
     let held : Bool := scansPins s.dbg.ir
     let free : Prop := s.rsc.mode = .boot ∨ s.rsc.mode = .safe ∨ s.rsc.mode = .maintain
     let loaded (t : State) (code : BitVec 8) : Prop := t.dbg.ir = code ∧ t = { s with dbg := t.dbg, out := t.out }
     let past : List Output := if held && s.rsc.mode.scansPins then .scanRelease :: s.out else s.out
     let extest (run : Host.Outcome State Fault Refusal) (code : BitVec 8) : Prop :=
       (free → ∃ t, run = .next t ∧ loaded t code ∧ t.dbg.bsr = cells ∧
         t.out = .scanDrive code cells :: .tdo sampled :: s.out) ∧
       (¬ free → ∃ t, run = .next t ∧ loaded t code ∧ t.dbg.bsr = s.dbg.bsr ∧
         t.out = .tdo (false :: cells.dropLast) :: s.out)
     (∃ t, exec .idcode s = .next t ∧ loaded t 0x01 ∧
       t.out = .tdo ((List.range 32).map (0x14128DDB : BitVec 32).getLsbD) :: past) ∧
     (∃ t, exec (.samplePreload sampled cells) s = .next t ∧ loaded t 0x02 ∧ t.dbg.bsr = cells ∧
       t.out = .tdo sampled :: past) ∧
     extest (exec (.extest sampled cells) s) 0x03 ∧ extest (exec (.extestPulse sampled cells) s) 0x04 ∧
     extest (exec (.extestTrain sampled cells) s) 0x05 ∧
     (∃ t, exec .clamp s = .next t ∧ loaded t 0x06 ∧ (free → t.out = .scanDrive 0x06 s.dbg.bsr :: s.out) ∧
       (¬ free → t.out = s.out)) ∧
     (∃ t, exec .highz s = .next t ∧ loaded t 0x07 ∧ (free → t.out = .scanDrive 0x07 [] :: s.out) ∧
       (¬ free → t.out = s.out)) ∧
     ∃ t, exec (.bypass bit) s = .next t ∧ loaded t 0xFF ∧ t.out = .tdo [false, bit] :: past) ∧
  (∀ (s : State) (v : Byte) (bits : List Bool) (words : Words) (host : Option Bytes),
     s.pdOn 0 = true → scansPins s.dbg.ir = false →
     let l := s.dbg.mailIn ++ words
     let p := Pkt.ofWords l host
     let open_ : Prop := s.dbg.mailBusy = false ∧ s.pdOn 2 = true ∧ s.rsc.hib = .awake ∧ words ≠ []
     let next : State := { s with dbg := { s.dbg with ir := 0x10, mailIn := [], mailbox := [], mailBusy := true } }
     (∃ t, exec (.dieSel v) s = .next t ∧ t = { s with dbg := { s.dbg with ir := 0x11, dieSel := v }, out := t.out } ∧
       t.out = .tdo ((List.range 8).map s.dbg.dieSel.getLsbD) :: s.out) ∧
     (s.rsc.mode = .maintain → s.chain.all s.wrapperBypassed = true → ∃ t, exec (.dieScan bits) s = .next t ∧
       t.out = .tdo ((List.replicate s.chain.length false ++ bits).take bits.length) :: s.out) ∧
     (s.rsc.mode = .maintain → s.chain.all s.wrapperBypassed = false → ∃ t o, exec (.dieScan bits) s = .next t ∧
       t.out = .tdo o :: s.out ∧ o.length = bits.length) ∧
     (open_ → l.length < 2 → exec (.dbgpkt words host) s =
       .next { s with dbg := { s.dbg with ir := 0x10, mailIn := l } }) ∧
     (open_ → 2 ≤ l.length → p.lengthUsable = true → p.length.toNat / 4 = l.length →
       (∀ d ∈ dbgCmds, p.opcode = d.code → exec (.dbgpkt words host) s = .next (d.take .mailbox p next)) ∧
       ((∀ d ∈ dbgCmds, p.opcode ≠ d.code) → ∃ t, exec (.dbgpkt words host) s = .next t ∧ t.dbg.mailBusy = false ∧
         t.dbg.mailbox = replyWords next p.opcode p.tag stBadOpcode 0xFE false 0 [])) ∧
     (∃ t, exec (.dbgpkt [] host) s = .next t ∧ t.dbg.mailbox = [] ∧
       t.out = .tdo (((if s.dbg.mailbox = [] then 0 else 0x80000000 : Word) :: s.dbg.mailbox).flatMap
         fun x => (List.range 32).map x.getLsbD) :: s.out) ∧
     ∃ t, exec .tapReset s = .next t ∧ t.dbg = { s.dbg with ir := 0x01, mailbox := [], mailIn := [] } ∧
       t = { s with dbg := t.dbg, queen := t.queen } ∧
       t.queen.jobs = s.queen.jobs.map fun j => { j with discard := j.discard || decide (j.key.path = .mailbox) }) ∧
  (∀ (s : State) (p : Pkt),
     let a := param p 40 0 64
     let ws := ((applied cmdDbgWrite p).drop 6).take (param p 48 0 16 / 4)
     Accepted cmdDbgWrite p s → param p 32 0 2 = 0 → inInternal a (4 * ws.length) = true → ∃ t,
       exec (.dbgWrite p) s = .next t ∧ Completed cmdDbgWrite p s t [] ∧
       t = { s with queen := t.queen, hif := t.hif, dbg := t.dbg } ∧
       ∀ i < ws.length, t.dbg.internal.find? (fun e => e.1 = a + 4 * i) = some (a + 4 * i, ws.getD i 0))

/-! Reset, memory, and what every step keeps. -/

/-- After power-on reset (02, R25; 03, R92; 04, R127; 08; 09, R258; 11, R332, R343; 12, R344, R356, R359): BOOT, nothing runs, no
command waits or holds a tag, the rings are disabled with 128 slots, every time base is UNSET with a jump limit of 1,000 ns,
no semaphore is owned, no die is configured, and no byte of memory is listed. That unlisted memory is listed nowhere and that
the row queue is empty are the model's own (log entries 2, 14).
The state after power-on reset is legal in all these ways. -/
def Obligations.PowerOnState : Prop :=
  (let s := State.reset
   s.rsc.mode = .boot ∧ s.rsc.lastReset = 0 ∧ s.queen.jobs = [] ∧ s.queen.replies = [] ∧ s.pending = [] ∧
     s.hif.subEn = false ∧ s.hif.repEn = false ∧ s.hif.evtEn = false ∧
     s.hif.subSize = 7 ∧ s.hif.repSize = 7 ∧ s.hif.evtSize = 7 ∧ s.mem.cells = [] ∧
     (∀ w : Fin 32, s.workers[w.val].st = .empty) ∧ (∀ g : Fin 16, s.groups[g.val].st = .idle) ∧
     (∀ b : Fin 8, s.tb[b.val].set = false ∧ s.tb[b.val].jump = 1000) ∧
     (∀ i : Fin 256, s.queen.sems[i.val] = none) ∧ (∀ d : Fin 4, s.fab[d.val].cfgSt = .unconfigured) ∧
     (∀ n : Fin 4, s.mem.hbm[n.val].st = .off) ∧ s.swarm.id = 0xFF ∧ s.servo.st = .off) ∧
  (State.reset.mem.wf = true ∧ State.reset.hif.Legal ∧ State.reset.timeLegal)

/-- Device memory (02, R23): bytes written are read back, every other byte reads as before, and the list of cells stays canonical. -/
def Obligations.MemoryReadsBack : Prop :=
  ∀ (m : Mem) (a : Nat) (bs : Bytes), m.wf = true →
    (m.write a bs).wf = true ∧ (∀ i, i < bs.length → (m.write a bs).byte (a + i) = bs.getD i 0) ∧
      (∀ b, ¬ (a ≤ b ∧ b < a + bs.length) → (m.write a bs).byte b = m.byte b) ∧ (m.write a bs).read a bs.length = bs

/-- Every step keeps device memory canonical: addresses strictly rising, and no cell that holds what an unlisted one reads as. -/
def Obligations.MemoryStaysCanonical : Prop :=
  ∀ s t : State, s.mem.wf = true → Steps s t → t.mem.wf = true

/-- Every step keeps the rings legal (02, R25, R27, R28): sizes of 2⁷ to 2¹⁹ slots, bases on 4 KiB, and no enabled ring holding more
than its slots.
Every step keeps the nanoseconds of every time base below 1,000,000,000 (11, R330). -/
def Obligations.RingsAndTimeStayLegal : Prop :=
  (∀ s t : State, s.hif.Legal → Steps s t → t.hif.Legal) ∧
  (∀ s t : State, s.timeLegal → Steps s t → t.timeLegal)

/-- Every step takes the row at the front of the queue and no meaning adds or takes one: the order of the rows is kept. -/
def Obligations.RowsLeaveInOrder : Prop :=
  ∀ s t : State, Steps s t → t.pending = s.pending.tail
end

