-- ==== Sys2Proof/Laws/Commands.lean ====
section
/-! SUPPORT. What the engine of the commands does (spec/02_command_interface.md, R35 to R41): a packet that passes runs its
command's effect, and a commit on the PCIe path touches the Queen core's lists and the mailbox flag and nothing else. -/

namespace Sys2Proof.Machine

theorem sameKey_self (k : JobKey) : sameKey k k = true := by
  cases k with
  | mk path tag => cases path <;> simp [sameKey]

theorem sameKey_symm (a b : JobKey) : sameKey a b = sameKey b a := by
  obtain ⟨pa, ta⟩ := a; obtain ⟨pb, tb⟩ := b
  cases pa <;> cases pb <;> simp [sameKey, eq_comm]

/-- A packet that passes begins: it is taken from the ring and holds its tag. -/
theorem fetch_passes {d : CmdDef} {p : Pkt} {s : State} (h : Passes d p s) :
    d.fetch p s = d.begin (Job.fresh .pcie p) (taken p s) := by
  have h1 : (s.consume p).tagUsed (Job.fresh .pcie p).key = false := h.free
  rcases h.turn with ht | ht
  · have h2 : (s.consume p).mustWait .pcie p = false := ht
    simp [CmdDef.fetch, h.fetches, h.usable, h.code, CmdDef.take, h1, h2, taken]
  · simp [CmdDef.fetch, h.fetches, h.usable, h.code, CmdDef.take, h1, ht, taken]

/-- A packet that passes and is to run at once runs its command's effect. -/
theorem fetch_accepted {d : CmdDef} {p : Pkt} {s : State} (h : Accepted d p s) :
    d.fetch p s = finish (begunJob d p) (d.act (begunJob d p) (begun d p s)) := by
  rw [fetch_passes h.toPasses, CmdDef.begin, h.checks]
  have h3 : (applyJob d (Job.fresh .pcie p)).p.execAt = 0 := h.now
  have hc : (taken p s).stuckAt (applyJob d (Job.fresh .pcie p)).p = none := h.clocks
  have hm : (taken p s).waitsMemory (applyJob d (Job.fresh .pcie p)).p = false := h.memory
  simp only [h3, if_true, CmdDef.run, hc, hm, Bool.false_eq_true, if_false]
  rfl

/-- With its tag free, the job of a packet is the only one of its key. -/
theorem begun_jobs {d : CmdDef} {p : Pkt} {s : State} (h : Passes d p s) :
    (begun d p s).queen.jobs = s.queen.jobs ++ [begunJob d p] := by
  have hu := h.free
  simp only [State.tagUsed, Bool.or_eq_false_iff, List.any_eq_false] at hu
  have hne : ∀ j ∈ s.queen.jobs, sameKey j.key ⟨.pcie, p.tag⟩ = false := fun j hj => by simpa using hu.1 j hj
  have hk : (begunJob d p).key = ⟨.pcie, p.tag⟩ := rfl
  simp only [begun, State.setJob, taken, State.addJob, State.consume, List.map_append, List.map_cons, List.map_nil, hk]
  have hf : sameKey (Job.fresh .pcie p).key ⟨.pcie, p.tag⟩ = true := sameKey_self _
  rw [hf]
  simp only [if_true]
  congr 1
  conv_rhs => rw [← List.map_id s.queen.jobs]
  refine List.map_congr_left fun j hj => ?_
  simp [hne j hj]

/-- What is begun has changed the jobs and the ring's head alone. -/
theorem begun_eq {d : CmdDef} {p : Pkt} {s : State} (h : Passes d p s) :
    begun d p s = { s with hif := (s.consume p).hif, queen := { s.queen with jobs := s.queen.jobs ++ [begunJob d p] } } := by
  have := begun_jobs h
  simp only [begun, State.setJob, taken, State.addJob, State.consume] at this ⊢
  rw [this]

/-- A commit on the PCIe path: the job leaves the list, its reply enters the queue of replies last. -/
theorem commitRaw_pcie {s : State} {j : Job} (st : Status) (idx : Nat) (mask : BitVec 64) (body : Words)
    (hk : j.key.path = .pcie) (hd : j.discard = false) (ha : s.abortAsked j.key = false) :
    s.commitRaw j st idx mask body =
      { s with queen := { s.queen with
          jobs := s.queen.jobs.filter fun i => !sameKey i.key j.key
          replies := s.queen.replies ++ [⟨j.key, replyWords s j.p.opcode j.key.tag st idx j.late mask body, true, j.after⟩] } } := by
  have hw : (s.queen.jobs.filter fun i => !sameKey i.key j.key).filter (fun a => a.awaits j.key) = [] := by
    rw [List.filter_eq_nil_iff]
    intro a hm
    simp only [State.abortAsked, List.any_eq_false] at ha
    exact ha a (List.mem_filter.mp hm).1
  simp only [State.commitRaw, hd, State.pushReply, State.dropJob, hk, Bool.false_eq_true, if_false, hw]
  rfl

/-- A command that ends its processing with results: what its effect made of the state, its job gone, its reply queued. -/
theorem commitDone_begun {d : CmdDef} {p : Pkt} {s : State} (u : State) (result : Words)
    (hu : u.queen.jobs = (begun d p s).queen.jobs) (h : Passes d p s) :
    u.commitDone (begunJob d p) result =
      { u with queen := { u.queen with
          jobs := s.queen.jobs
          replies := u.queen.replies ++ [⟨⟨.pcie, p.tag⟩, replyWords u p.opcode p.tag
            (if (begunJob d p).mask = 0 then stDone else stClamped) 0xFF false (begunJob d p).mask
            (echoOf (echoEndOf p.opcode) (begunJob d p).args ++ result), true, .nothing⟩] } } := by
  have hj := begun_jobs h
  have hn : u.abortAsked (begunJob d p).key = false := by
    have hc := h.calm
    simp only [State.abortAsked, hu, hj, List.any_append, Bool.or_eq_false_iff] at hc ⊢
    exact ⟨hc, by simp [begunJob, Job.awaits]⟩
  have hf : (u.queen.jobs.filter fun i => !sameKey i.key (begunJob d p).key) = s.queen.jobs := by
    have hfree := h.free
    simp only [State.tagUsed, Bool.or_eq_false_iff, List.any_eq_false] at hfree
    rw [hu, hj, List.filter_append, List.filter_eq_self.mpr]
    · simp [sameKey_self]
    · intro a hm
      have := hfree.1 a hm
      simpa [begunJob, applyJob, Job.fresh] using this
  rw [State.commitDone, commitRaw_pcie _ _ _ _ rfl rfl hn, hf]
  rfl

end Sys2Proof.Machine
end

