-- ==== Sys2Proof/Laws/Memory.lean ====
section
/-! SUPPORT. The device memories (spec/02_command_interface.md, R23): a read after a write, and the canonical form that every
memory operation keeps. -/

namespace Sys2Proof.Machine

/-! Listed cells. -/

/-- A list of cells in canonical form: its head may be listed, every later address is higher, and the rest is canonical. -/
theorem cellsWf_cons (u : List Undef) (a : Nat) (b : Byte) (l : List Host.Cell) :
    cellsWf u ((a, b) :: l) = true ↔
      ((b != 0 || (undefTag u a).isSome) = true ∧ (∀ c ∈ l, a < c.1) ∧ cellsWf u l = true) := by
  induction l generalizing a b with
  | nil => simp [cellsWf]
  | cons d l ih =>
    obtain ⟨a', b'⟩ := d
    rw [cellsWf, Bool.and_eq_true, Bool.and_eq_true, decide_eq_true_eq]
    constructor
    · rintro ⟨⟨h1, h2⟩, h3⟩
      refine ⟨h2, ?_, h3⟩
      intro c hc
      rcases List.mem_cons.mp hc with rfl | hc
      · exact h1
      · exact Nat.lt_trans h1 (((ih a' b').mp h3).2.1 c hc)
    · rintro ⟨h1, h2, h3⟩
      exact ⟨⟨h2 _ List.mem_cons_self, h1⟩, h3⟩

theorem cellGet_none_of_above (l : List Host.Cell) (k : Nat) (h : ∀ c ∈ l, k < c.1) : cellGet l k = none := by
  cases l with
  | nil => rfl
  | cons c l =>
    obtain ⟨a, b⟩ := c
    have : k < a := h _ List.mem_cons_self
    have h1 : ¬ a = k := by omega
    simp [cellGet, h1, this]

theorem cellGet_put_same (l : List Host.Cell) (k : Nat) (v : Byte) : cellGet (cellPut l k v) k = some v := by
  induction l with
  | nil => simp [cellPut, cellGet]
  | cons c l ih =>
    obtain ⟨a, b⟩ := c
    unfold cellPut
    split
    · simp [cellGet]
    · split
      · simp [cellGet]
      · next h1 h2 =>
        have h3 : ¬ a = k := fun e => h2 e.symm
        simp [cellGet, h3, h1, ih]

theorem cellGet_put_ne (l : List Host.Cell) (k a : Nat) (v : Byte) (h : a ≠ k) : cellGet (cellPut l k v) a = cellGet l a := by
  induction l with
  | nil => simp [cellPut, cellGet, Ne.symm h]
  | cons c l ih =>
    obtain ⟨b, x⟩ := c
    unfold cellPut
    split
    · next h1 =>
      by_cases h2 : a < k
      · have h3 : ¬ b = a := by omega
        have h4 : a < b := by omega
        simp [cellGet, Ne.symm h, h2, h3, h4]
      · simp [cellGet, Ne.symm h, h2]
    · split
      · next h1 h2 =>
        subst h2
        simp [cellGet, Ne.symm h]
      · simp [cellGet, ih]

theorem mem_put (l : List Host.Cell) (k : Nat) (v : Byte) (c : Host.Cell) (h : c ∈ cellPut l k v) : c = (k, v) ∨ c ∈ l := by
  induction l with
  | nil => simpa [cellPut] using h
  | cons d l ih =>
    obtain ⟨b, x⟩ := d
    unfold cellPut at h
    split at h
    · rcases List.mem_cons.mp h with h | h
      · exact .inl h
      · exact .inr h
    · split at h
      · rcases List.mem_cons.mp h with h | h
        · exact .inl h
        · exact .inr (List.mem_cons_of_mem _ h)
      · rcases List.mem_cons.mp h with h | h
        · exact .inr (h ▸ List.mem_cons_self)
        · rcases ih h with h | h
          · exact .inl h
          · exact .inr (List.mem_cons_of_mem _ h)

theorem mem_del (l : List Host.Cell) (k : Nat) (c : Host.Cell) (h : c ∈ cellDel l k) : c ∈ l := by
  induction l with
  | nil => simp [cellDel] at h
  | cons d l ih =>
    obtain ⟨b, x⟩ := d
    unfold cellDel at h
    split at h
    · exact h
    · split at h
      · exact List.mem_cons_of_mem _ h
      · rcases List.mem_cons.mp h with h | h
        · exact h ▸ List.mem_cons_self
        · exact List.mem_cons_of_mem _ (ih h)

theorem cellGet_del_same {u : List Undef} (l : List Host.Cell) (k : Nat) (h : cellsWf u l = true) :
    cellGet (cellDel l k) k = none := by
  induction l with
  | nil => rfl
  | cons c l ih =>
    obtain ⟨a, b⟩ := c
    obtain ⟨-, h2, h3⟩ := (cellsWf_cons u a b l).mp h
    unfold cellDel
    split
    · next h1 =>
      have : ¬ a = k := by omega
      simp [cellGet, this, h1]
    · split
      · next h4 => subst h4; exact cellGet_none_of_above l k h2
      · next h1 h4 =>
        have : ¬ a = k := fun e => h4 e.symm
        simp [cellGet, this, h1, ih h3]

theorem cellGet_del_ne {u : List Undef} (l : List Host.Cell) (k a : Nat) (hw : cellsWf u l = true) (h : a ≠ k) :
    cellGet (cellDel l k) a = cellGet l a := by
  induction l with
  | nil => rfl
  | cons c l ih =>
    obtain ⟨b, x⟩ := c
    obtain ⟨-, h2, h3⟩ := (cellsWf_cons u b x l).mp hw
    unfold cellDel
    split
    · rfl
    · split
      · next h1 h4 =>
        subst h4
        by_cases h5 : a < k
        · rw [cellGet_none_of_above l a fun c hc => Nat.lt_trans h5 (h2 c hc)]
          simp [cellGet, Ne.symm h, h5]
        · simp [cellGet, Ne.symm h, h5]
      · simp [cellGet, ih h3]

theorem cellPut_wf {u : List Undef} (l : List Host.Cell) (k : Nat) (v : Byte) (hw : cellsWf u l = true)
    (hv : (v != 0 || (undefTag u k).isSome) = true) : cellsWf u (cellPut l k v) = true := by
  induction l with
  | nil => simpa [cellPut, cellsWf] using hv
  | cons c l ih =>
    obtain ⟨a, b⟩ := c
    obtain ⟨h1, h2, h3⟩ := (cellsWf_cons u a b l).mp hw
    unfold cellPut
    split
    · next h4 =>
      refine (cellsWf_cons u k v _).mpr ⟨hv, ?_, hw⟩
      intro c hc
      rcases List.mem_cons.mp hc with rfl | hc
      · exact h4
      · exact Nat.lt_trans h4 (h2 c hc)
    · split
      · next h4 => subst h4; exact (cellsWf_cons u k v l).mpr ⟨hv, h2, h3⟩
      · next h4 h5 =>
        refine (cellsWf_cons u a b _).mpr ⟨h1, ?_, ih h3⟩
        intro c hc
        rcases mem_put l k v c hc with rfl | hc
        · show a < k
          omega
        · exact h2 c hc

theorem cellDel_wf {u : List Undef} (l : List Host.Cell) (k : Nat) (hw : cellsWf u l = true) : cellsWf u (cellDel l k) = true := by
  induction l with
  | nil => rfl
  | cons c l ih =>
    obtain ⟨a, b⟩ := c
    obtain ⟨h1, h2, h3⟩ := (cellsWf_cons u a b l).mp hw
    unfold cellDel
    split
    · exact hw
    · split
      · exact h3
      · exact (cellsWf_cons u a b _).mpr ⟨h1, fun c hc => h2 c (mem_del l k c hc), ih h3⟩

/-- Cells taken out keep the canonical form, as long as what stays listed may be listed. -/
theorem filter_wf {u v : List Undef} (keep : Host.Cell → Bool) (l : List Host.Cell) (hw : cellsWf u l = true)
    (hk : ∀ c ∈ l, keep c = true → (c.2 != 0 || (undefTag u c.1).isSome) = true → (c.2 != 0 || (undefTag v c.1).isSome) = true) :
    cellsWf v (l.filter keep) = true := by
  induction l with
  | nil => rfl
  | cons c l ih =>
    obtain ⟨a, b⟩ := c
    obtain ⟨h1, h2, h3⟩ := (cellsWf_cons u a b l).mp hw
    have ih := ih h3 fun c hc => hk c (List.mem_cons_of_mem _ hc)
    by_cases hkeep : keep (a, b)
    · rw [List.filter_cons_of_pos hkeep]
      exact (cellsWf_cons v a b _).mpr
        ⟨hk _ List.mem_cons_self hkeep h1, fun c hc => h2 c (List.mem_filter.mp hc).1, ih⟩
    · rw [List.filter_cons_of_neg hkeep]
      exact ih

/-! Device memory. -/

/-- A byte read after it was written is the byte written. -/
theorem Mem.byte_put_same (m : Mem) (a : Nat) (b : Byte) (h : m.wf = true) : (m.put a b).byte a = b := by
  unfold Mem.put Mem.byte
  dsimp only
  by_cases hz : b = 0 ∧ undefTag m.undef a = none
  · rw [if_pos hz, cellGet_del_same m.cells a h]
    simp only [hz.2]
    exact hz.1.symm
  · rw [if_neg hz, cellGet_put_same]

/-- A write leaves every other byte as it was. -/
theorem Mem.byte_put_ne (m : Mem) (a k : Nat) (b : Byte) (h : m.wf = true) (hk : k ≠ a) : (m.put a b).byte k = m.byte k := by
  unfold Mem.put Mem.byte
  dsimp only
  by_cases hz : b = 0 ∧ undefTag m.undef a = none
  · rw [if_pos hz, cellGet_del_ne m.cells a k h hk]
  · rw [if_neg hz, cellGet_put_ne m.cells a k b hk]

@[simp] theorem Mem.put_undef (m : Mem) (a : Nat) (b : Byte) : (m.put a b).undef = m.undef := rfl

/-- A byte written keeps the canonical form. -/
theorem Mem.put_wf (m : Mem) (a : Nat) (b : Byte) (h : m.wf = true) : (m.put a b).wf = true := by
  show cellsWf m.undef (if b = 0 ∧ undefTag m.undef a = none then cellDel m.cells a else cellPut m.cells a b) = true
  split
  · exact cellDel_wf _ _ h
  · next hz =>
    refine cellPut_wf _ _ _ h ?_
    by_cases hb : b = 0
    · cases ht : undefTag m.undef a with
      | none => exact absurd ⟨hb, ht⟩ hz
      | some t => simp
    · rw [bne_iff_ne.mpr hb, Bool.true_or]

/-- Bytes written keep the canonical form. -/
theorem Mem.write_wf (bs : Bytes) : ∀ (m : Mem) (a : Nat), m.wf = true → (m.write a bs).wf = true := by
  induction bs with
  | nil => intro m a h; exact h
  | cons b bs ih => intro m a h; exact ih _ _ (m.put_wf a b h)

/-- Bytes written leave every byte outside their range as it was. -/
theorem Mem.byte_write_outside (bs : Bytes) : ∀ (m : Mem) (a k : Nat), m.wf = true → ¬ (a ≤ k ∧ k < a + bs.length) →
    (m.write a bs).byte k = m.byte k := by
  induction bs with
  | nil => intro m a k _ _; rfl
  | cons b bs ih =>
    intro m a k h hk
    rw [List.length_cons] at hk
    show ((m.put a b).write (a + 1) bs).byte k = m.byte k
    rw [ih _ _ _ (m.put_wf a b h) (by omega), m.byte_put_ne a k b h (by omega)]

@[simp] theorem numBytes_length (k n : Nat) : (numBytes k n).length = k := by
  induction k generalizing n with
  | zero => rfl
  | succ k ih => simp [numBytes, ih]

theorem Mem.putWord_wf (m : Mem) (a : Nat) (w : Word) (h : m.wf = true) : (m.putWord a w).wf = true := Mem.write_wf _ _ _ h

/-- A word written leaves every byte but its four as it was. -/
theorem Mem.byte_putWord_outside (m : Mem) (a k : Nat) (w : Word) (h : m.wf = true) (hk : ¬ (a ≤ k ∧ k < a + 4)) :
    (m.putWord a w).byte k = m.byte k :=
  Mem.byte_write_outside _ _ _ _ h (by simpa using hk)

/-- A range outside of which nothing changes what an unlisted byte reads as. -/
theorem undefTag_lose (l : List Undef) (base size : Nat) (tag : Option Nat) (a : Nat) (h : ¬ (base ≤ a ∧ a < base + size)) :
    undefTag ({ base := base, size := size, tag := tag } ::
      l.filter fun u => ! decide (base ≤ u.base ∧ u.base + u.size ≤ base + size)) a = undefTag l a := by
  rw [undefTag, if_neg h]
  induction l with
  | nil => rfl
  | cons u l ih =>
    by_cases hu : base ≤ u.base ∧ u.base + u.size ≤ base + size
    · rw [List.filter_cons_of_neg (by simp [hu])]
      rw [undefTag, if_neg (by omega)]
      exact ih
    · rw [List.filter_cons_of_pos (by simp only [hu, decide_false, Bool.not_false])]
      rw [undefTag, undefTag]
      split
      · rfl
      · exact ih

/-- A range that loses its contents keeps the canonical form. -/
theorem Mem.lose_wf (m : Mem) (base size : Nat) (tag : Option Nat) (h : m.wf = true) : (m.lose base size tag).wf = true := by
  refine filter_wf (u := m.undef) _ _ h ?_
  intro c _ hc hb
  have hn : ¬ (base ≤ c.1 ∧ c.1 < base + size) := by
    rw [Bool.not_eq_true', decide_eq_false_iff_not] at hc
    exact hc
  have he : undefTag (m.lose base size tag).undef c.1 = undefTag m.undef c.1 := undefTag_lose m.undef base size tag c.1 hn
  rw [he]
  exact hb

/-- Memory that is canonical whatever its cells and ranges were taken from. -/
theorem Mem.wf_congr {m n : Mem} (hc : n.cells = m.cells) (hu : n.undef = m.undef) (h : m.wf = true) : n.wf = true := by
  unfold Mem.wf
  rw [hc, hu]
  exact h

/-! Requests that meet no error (09, R260 to R276). -/

/-- The nodes over a sector enter the cache; the stacks, the poison list and the keys stay. -/
theorem Mem.evict_keeps (m : Mem) (hold : Nat → Bool) :
    (m.evict hold).hbm = m.hbm ∧ (m.evict hold).poison = m.poison ∧ (m.evict hold).keysOk = m.keysOk := by
  unfold Mem.evict
  split
  · exact ⟨rfl, rfl, rfl⟩
  · split
    · exact ⟨rfl, rfl, rfl⟩
    · dsimp only; split <;> exact ⟨rfl, rfl, rfl⟩

theorem Mem.walk_keeps (hold : Nat → Bool) (n : Fin 4) (i : Nat) : ∀ m : Mem,
    (m.walk hold n i).hbm = m.hbm ∧ (m.walk hold n i).poison = m.poison ∧ (m.walk hold n i).keysOk = m.keysOk := by
  unfold Mem.walk
  induction (pathOf n i).reverse with
  | nil => exact fun _ => ⟨rfl, rfl, rfl⟩
  | cons c l ih =>
    intro m
    have h : ∀ x : Mem, x.hbm = m.hbm → x.poison = m.poison → x.keysOk = m.keysOk → _ := fun x h1 h2 h3 =>
      have h := ih x
      (⟨h.1.trans h1, h.2.1.trans h2, h.2.2.trans h3⟩ : _ ∧ _ ∧ _)
    simp only [List.foldl_cons]
    split
    · exact h _ rfl rfl rfl
    · have e := Mem.evict_keeps { m with cache := (c, false) :: m.cache } hold
      exact h _ e.1 e.2.1 e.2.2

/-- Every stack answers a requester, and nothing is poisoned. -/
def State.opens (s : State) (q : Requester) : Prop :=
  (∀ n, s.stackServes q n = none) ∧ s.mem.poison = [] ∧ ∀ n : Fin 4, s.mem.hbm[n.val].poisonFull = false

/-- What a stack answers rests on the routes, its domains, the keys and its own state. -/
theorem opens_of {s t : State} {q : Requester} (h : s.opens q) (hp : t.pwr = s.pwr) (hk : t.mem.keysOk = s.mem.keysOk)
    (hpo : t.mem.poison = s.mem.poison) (hst : ∀ n : Fin 4, t.mem.hbm[n.val].st = s.mem.hbm[n.val].st)
    (hfull : ∀ n : Fin 4, t.mem.hbm[n.val].poisonFull = s.mem.hbm[n.val].poisonFull) : t.opens q := by
  have hr : ∀ k a b, t.routeOn k a b = s.routeOn k a b := by
    intro k
    induction k with
    | zero => intro a b; rfl
    | succ k ih => intro a b; simp only [State.routeOn, State.meshLinkOn, State.pdOn, hp, ih]
  refine ⟨fun n => ?_, hpo ▸ h.2.1, fun n => (hfull n).trans (h.2.2 n)⟩
  have := h.1 n
  unfold State.stackServes State.reaches State.stackGate State.pdOn at this ⊢
  rw [hr, hr, hp, hk, hst n]
  exact this

theorem memCount_opens {s : State} {q : Requester} (h : s.opens q) (n : Fin 4) (c : Fin 6) : (s.memCount n c).opens q := by
  have x : ∀ m : Fin 4, (upd s.mem.hbm n fun x => { x with counters := upd x.counters c fun c => satAdd c 1 })[m.val] =
      if n = m then { s.mem.hbm[m.val] with counters := upd s.mem.hbm[m.val].counters c fun c => satAdd c 1 } else s.mem.hbm[m.val] := by
    intro m
    by_cases hm : n = m
    · subst hm; simp [upd]
    · have : n.val ≠ m.val := fun h => hm (Fin.ext h)
      simp [upd, this, hm]
  have hst : ∀ m : Fin 4, (s.memCount n c).mem.hbm[m.val].st = s.mem.hbm[m.val].st := fun m => by
    show (upd s.mem.hbm n _)[m.val].st = _
    rw [x]; split <;> rfl
  have hfull : ∀ m : Fin 4, (s.memCount n c).mem.hbm[m.val].poisonFull = s.mem.hbm[m.val].poisonFull := fun m => by
    show (upd s.mem.hbm n _)[m.val].poisonFull = _
    rw [x]; split <;> rfl
  exact opens_of (t := s.memCount n c) h rfl rfl rfl hst hfull

theorem withMem_opens {s : State} {q : Requester} (h : s.opens q) (m : Mem) (hh : m.hbm = s.mem.hbm) (hp : m.poison = s.mem.poison)
    (hk : m.keysOk = s.mem.keysOk) : ({ s with mem := m } : State).opens q :=
  opens_of (t := { s with mem := m }) h rfl hk hp (fun n => by simp only [hh]) (fun n => by simp only [hh])

theorem walkNodes_opens {s : State} {q : Requester} (h : s.opens q) (n : Fin 4) (i : Nat) : (s.walkNodes n i).opens q := by
  unfold State.walkNodes
  exact withMem_opens h _ (Mem.walk_keeps _ n i _).1 (Mem.walk_keeps _ n i _).2.1 (Mem.walk_keeps _ n i _).2.2

/-- A sector opened without an error serves, and leaves the next to be opened. -/
theorem openSector_ok {s : State} {q : Requester} (h : s.opens q) (a b : Nat) (reads : Bool) :
    (s.openSector q a b reads .ok).fail = none ∧ (s.openSector q a b reads .ok).err = .ok ∧ (s.openSector q a b reads .ok).st.opens q := by
  have hp : ∀ n i, s.mem.poisoned n i = none := fun n i => by simp [Mem.poisoned, h.2.1, h.2.2 n]
  have hw : ∀ n c i, ((s.memCount n c).walkNodes n i).opens q := fun n c i => walkNodes_opens (memCount_opens h n c) n i
  have hu : ∀ (u : State) (n : Fin 4) (i : Nat) (x : Bool), u.opens q →
      let r : Served := if x then ⟨u, none, .ok⟩ else u.readSector q n i a .ok
      r.fail = none ∧ r.err = .ok ∧ r.st.opens q := fun u n i x h => by
    cases x <;> exact ⟨rfl, rfl, h⟩
  unfold State.openSector
  generalize s.mem.locate (512 * b) = l
  obtain ⟨n, loc⟩ := l
  simp only [h.1, hp, State.fetchedNode, Option.isSome_none, Bool.false_eq_true, if_false]
  generalize hc : (if s.mem.cached (nodeCode n 1 (loc / 512 / 8)) = true then (4 : Fin 6) else 5) = c
  have := hw n c (loc / 512)
  generalize (s.memCount n c).walkNodes n (loc / 512) = u at this ⊢
  simpa only [Bool.or_eq_true, decide_eq_true_eq] using
    hu u n (loc / 512) (!reads || decide (countGet u.mem.secCtr b = 0)) this

/-- A read of usable HBM that meets no error, by a requester whom every stack answers, outside sealed slots, serves. -/
theorem hbmOpen_ok {s : State} {q : Requester} (h : s.opens q) (a len : Nat) (hs : s.sealedRange a len true = false) :
    (s.hbmOpen q a len .ok).fail = none := by
  unfold State.hbmOpen
  simp only [hs, Bool.false_eq_true, if_false]
  suffices ∀ (l : List (Nat × Nat × Nat)) (r : Served), r.fail = none → r.err = .ok → r.st.opens q →
      (l.foldl (fun r p => match r.fail with
        | some _ => r
        | none => r.st.openSector q (512 * p.1 + p.2.1) p.1 true r.err) r).fail = none from this _ _ rfl rfl h
  intro l
  induction l with
  | nil => exact fun r h _ _ => h
  | cons p l ih =>
    intro r h1 h2 h3
    have e := openSector_ok h3 (512 * p.1 + p.2.1) p.1 true
    simp only [List.foldl_cons, h1, h2]
    exact ih _ e.1 e.2.1 e.2.2

end Sys2Proof.Machine
end

