-- ==== Sys2Proof/Laws/State.lean ====
section
/-! SUPPORT. One lemma for each field of the state and each update of it, so that no proof unfolds a record update; and what
changing one unit of a vector does to that unit and to the others. -/

namespace Sys2Proof.Machine

/-! One unit of a vector. -/

@[simp] theorem upd_get_same {α : Type} {n : Nat} (v : Vector α n) (i : Fin n) (f : α → α) : (upd v i f)[i.val] = f v[i.val] := by
  simp [upd]

theorem upd_get_other {α : Type} {n : Nat} (v : Vector α n) (i j : Fin n) (f : α → α) (h : i ≠ j) :
    (upd v i f)[j.val] = v[j.val] := by
  have : i.val ≠ j.val := fun e => h (Fin.ext e)
  simp [upd, this]

/-! `modWorker`. -/

@[simp] theorem State.modWorker_hif (s : State) (w : Fin 32) (f : Worker → Worker) : (s.modWorker w f).hif = s.hif := rfl
@[simp] theorem State.modWorker_rsc (s : State) (w : Fin 32) (f : Worker → Worker) : (s.modWorker w f).rsc = s.rsc := rfl
@[simp] theorem State.modWorker_queen (s : State) (w : Fin 32) (f : Worker → Worker) : (s.modWorker w f).queen = s.queen := rfl
@[simp] theorem State.modWorker_ev (s : State) (w : Fin 32) (f : Worker → Worker) : (s.modWorker w f).ev = s.ev := rfl
@[simp] theorem State.modWorker_pwr (s : State) (w : Fin 32) (f : Worker → Worker) : (s.modWorker w f).pwr = s.pwr := rfl
@[simp] theorem State.modWorker_clk (s : State) (w : Fin 32) (f : Worker → Worker) : (s.modWorker w f).clk = s.clk := rfl
@[simp] theorem State.modWorker_tb (s : State) (w : Fin 32) (f : Worker → Worker) : (s.modWorker w f).tb = s.tb := rfl
@[simp] theorem State.modWorker_servo (s : State) (w : Fin 32) (f : Worker → Worker) : (s.modWorker w f).servo = s.servo := rfl
@[simp] theorem State.modWorker_mem (s : State) (w : Fin 32) (f : Worker → Worker) : (s.modWorker w f).mem = s.mem := rfl
@[simp] theorem State.modWorker_net (s : State) (w : Fin 32) (f : Worker → Worker) : (s.modWorker w f).net = s.net := rfl
@[simp] theorem State.modWorker_swarm (s : State) (w : Fin 32) (f : Worker → Worker) : (s.modWorker w f).swarm = s.swarm := rfl
@[simp] theorem State.modWorker_cfg (s : State) (w : Fin 32) (f : Worker → Worker) : (s.modWorker w f).cfg = s.cfg := rfl
@[simp] theorem State.modWorker_fab (s : State) (w : Fin 32) (f : Worker → Worker) : (s.modWorker w f).fab = s.fab := rfl
@[simp] theorem State.modWorker_groups (s : State) (w : Fin 32) (f : Worker → Worker) : (s.modWorker w f).groups = s.groups := rfl
@[simp] theorem State.modWorker_ports (s : State) (w : Fin 32) (f : Worker → Worker) : (s.modWorker w f).ports = s.ports := rfl
@[simp] theorem State.modWorker_brood (s : State) (w : Fin 32) (f : Worker → Worker) : (s.modWorker w f).brood = s.brood := rfl
@[simp] theorem State.modWorker_sec (s : State) (w : Fin 32) (f : Worker → Worker) : (s.modWorker w f).sec = s.sec := rfl
@[simp] theorem State.modWorker_bist (s : State) (w : Fin 32) (f : Worker → Worker) : (s.modWorker w f).bist = s.bist := rfl
@[simp] theorem State.modWorker_dbg (s : State) (w : Fin 32) (f : Worker → Worker) : (s.modWorker w f).dbg = s.dbg := rfl
@[simp] theorem State.modWorker_starts (s : State) (w : Fin 32) (f : Worker → Worker) : (s.modWorker w f).starts = s.starts := rfl
@[simp] theorem State.modWorker_out (s : State) (w : Fin 32) (f : Worker → Worker) : (s.modWorker w f).out = s.out := rfl
@[simp] theorem State.modWorker_free (s : State) (w : Fin 32) (f : Worker → Worker) : (s.modWorker w f).free = s.free := rfl
@[simp] theorem State.modWorker_pending (s : State) (w : Fin 32) (f : Worker → Worker) : (s.modWorker w f).pending = s.pending := rfl
@[simp] theorem State.modWorker_workers (s : State) (w : Fin 32) (f : Worker → Worker) : (s.modWorker w f).workers = upd s.workers w f := rfl

/-! `modGroup`. -/

@[simp] theorem State.modGroup_hif (s : State) (g : Fin 16) (f : Group → Group) : (s.modGroup g f).hif = s.hif := rfl
@[simp] theorem State.modGroup_rsc (s : State) (g : Fin 16) (f : Group → Group) : (s.modGroup g f).rsc = s.rsc := rfl
@[simp] theorem State.modGroup_queen (s : State) (g : Fin 16) (f : Group → Group) : (s.modGroup g f).queen = s.queen := rfl
@[simp] theorem State.modGroup_ev (s : State) (g : Fin 16) (f : Group → Group) : (s.modGroup g f).ev = s.ev := rfl
@[simp] theorem State.modGroup_pwr (s : State) (g : Fin 16) (f : Group → Group) : (s.modGroup g f).pwr = s.pwr := rfl
@[simp] theorem State.modGroup_clk (s : State) (g : Fin 16) (f : Group → Group) : (s.modGroup g f).clk = s.clk := rfl
@[simp] theorem State.modGroup_tb (s : State) (g : Fin 16) (f : Group → Group) : (s.modGroup g f).tb = s.tb := rfl
@[simp] theorem State.modGroup_servo (s : State) (g : Fin 16) (f : Group → Group) : (s.modGroup g f).servo = s.servo := rfl
@[simp] theorem State.modGroup_mem (s : State) (g : Fin 16) (f : Group → Group) : (s.modGroup g f).mem = s.mem := rfl
@[simp] theorem State.modGroup_net (s : State) (g : Fin 16) (f : Group → Group) : (s.modGroup g f).net = s.net := rfl
@[simp] theorem State.modGroup_swarm (s : State) (g : Fin 16) (f : Group → Group) : (s.modGroup g f).swarm = s.swarm := rfl
@[simp] theorem State.modGroup_cfg (s : State) (g : Fin 16) (f : Group → Group) : (s.modGroup g f).cfg = s.cfg := rfl
@[simp] theorem State.modGroup_fab (s : State) (g : Fin 16) (f : Group → Group) : (s.modGroup g f).fab = s.fab := rfl
@[simp] theorem State.modGroup_workers (s : State) (g : Fin 16) (f : Group → Group) : (s.modGroup g f).workers = s.workers := rfl
@[simp] theorem State.modGroup_ports (s : State) (g : Fin 16) (f : Group → Group) : (s.modGroup g f).ports = s.ports := rfl
@[simp] theorem State.modGroup_brood (s : State) (g : Fin 16) (f : Group → Group) : (s.modGroup g f).brood = s.brood := rfl
@[simp] theorem State.modGroup_sec (s : State) (g : Fin 16) (f : Group → Group) : (s.modGroup g f).sec = s.sec := rfl
@[simp] theorem State.modGroup_bist (s : State) (g : Fin 16) (f : Group → Group) : (s.modGroup g f).bist = s.bist := rfl
@[simp] theorem State.modGroup_dbg (s : State) (g : Fin 16) (f : Group → Group) : (s.modGroup g f).dbg = s.dbg := rfl
@[simp] theorem State.modGroup_starts (s : State) (g : Fin 16) (f : Group → Group) : (s.modGroup g f).starts = s.starts := rfl
@[simp] theorem State.modGroup_out (s : State) (g : Fin 16) (f : Group → Group) : (s.modGroup g f).out = s.out := rfl
@[simp] theorem State.modGroup_free (s : State) (g : Fin 16) (f : Group → Group) : (s.modGroup g f).free = s.free := rfl
@[simp] theorem State.modGroup_pending (s : State) (g : Fin 16) (f : Group → Group) : (s.modGroup g f).pending = s.pending := rfl
@[simp] theorem State.modGroup_groups (s : State) (g : Fin 16) (f : Group → Group) : (s.modGroup g f).groups = upd s.groups g f := rfl

/-! `modPort`. -/

@[simp] theorem State.modPort_hif (s : State) (n : Fin 128) (f : PortSt → PortSt) : (s.modPort n f).hif = s.hif := rfl
@[simp] theorem State.modPort_rsc (s : State) (n : Fin 128) (f : PortSt → PortSt) : (s.modPort n f).rsc = s.rsc := rfl
@[simp] theorem State.modPort_queen (s : State) (n : Fin 128) (f : PortSt → PortSt) : (s.modPort n f).queen = s.queen := rfl
@[simp] theorem State.modPort_ev (s : State) (n : Fin 128) (f : PortSt → PortSt) : (s.modPort n f).ev = s.ev := rfl
@[simp] theorem State.modPort_pwr (s : State) (n : Fin 128) (f : PortSt → PortSt) : (s.modPort n f).pwr = s.pwr := rfl
@[simp] theorem State.modPort_clk (s : State) (n : Fin 128) (f : PortSt → PortSt) : (s.modPort n f).clk = s.clk := rfl
@[simp] theorem State.modPort_tb (s : State) (n : Fin 128) (f : PortSt → PortSt) : (s.modPort n f).tb = s.tb := rfl
@[simp] theorem State.modPort_servo (s : State) (n : Fin 128) (f : PortSt → PortSt) : (s.modPort n f).servo = s.servo := rfl
@[simp] theorem State.modPort_mem (s : State) (n : Fin 128) (f : PortSt → PortSt) : (s.modPort n f).mem = s.mem := rfl
@[simp] theorem State.modPort_net (s : State) (n : Fin 128) (f : PortSt → PortSt) : (s.modPort n f).net = s.net := rfl
@[simp] theorem State.modPort_swarm (s : State) (n : Fin 128) (f : PortSt → PortSt) : (s.modPort n f).swarm = s.swarm := rfl
@[simp] theorem State.modPort_cfg (s : State) (n : Fin 128) (f : PortSt → PortSt) : (s.modPort n f).cfg = s.cfg := rfl
@[simp] theorem State.modPort_fab (s : State) (n : Fin 128) (f : PortSt → PortSt) : (s.modPort n f).fab = s.fab := rfl
@[simp] theorem State.modPort_workers (s : State) (n : Fin 128) (f : PortSt → PortSt) : (s.modPort n f).workers = s.workers := rfl
@[simp] theorem State.modPort_groups (s : State) (n : Fin 128) (f : PortSt → PortSt) : (s.modPort n f).groups = s.groups := rfl
@[simp] theorem State.modPort_brood (s : State) (n : Fin 128) (f : PortSt → PortSt) : (s.modPort n f).brood = s.brood := rfl
@[simp] theorem State.modPort_sec (s : State) (n : Fin 128) (f : PortSt → PortSt) : (s.modPort n f).sec = s.sec := rfl
@[simp] theorem State.modPort_bist (s : State) (n : Fin 128) (f : PortSt → PortSt) : (s.modPort n f).bist = s.bist := rfl
@[simp] theorem State.modPort_dbg (s : State) (n : Fin 128) (f : PortSt → PortSt) : (s.modPort n f).dbg = s.dbg := rfl
@[simp] theorem State.modPort_starts (s : State) (n : Fin 128) (f : PortSt → PortSt) : (s.modPort n f).starts = s.starts := rfl
@[simp] theorem State.modPort_out (s : State) (n : Fin 128) (f : PortSt → PortSt) : (s.modPort n f).out = s.out := rfl
@[simp] theorem State.modPort_free (s : State) (n : Fin 128) (f : PortSt → PortSt) : (s.modPort n f).free = s.free := rfl
@[simp] theorem State.modPort_pending (s : State) (n : Fin 128) (f : PortSt → PortSt) : (s.modPort n f).pending = s.pending := rfl
@[simp] theorem State.modPort_ports (s : State) (n : Fin 128) (f : PortSt → PortSt) : (s.modPort n f).ports = upd s.ports n f := rfl

/-! `modDie`. -/

@[simp] theorem State.modDie_hif (s : State) (d : Fin 4) (f : DieLink → DieLink) : (s.modDie d f).hif = s.hif := rfl
@[simp] theorem State.modDie_rsc (s : State) (d : Fin 4) (f : DieLink → DieLink) : (s.modDie d f).rsc = s.rsc := rfl
@[simp] theorem State.modDie_queen (s : State) (d : Fin 4) (f : DieLink → DieLink) : (s.modDie d f).queen = s.queen := rfl
@[simp] theorem State.modDie_ev (s : State) (d : Fin 4) (f : DieLink → DieLink) : (s.modDie d f).ev = s.ev := rfl
@[simp] theorem State.modDie_pwr (s : State) (d : Fin 4) (f : DieLink → DieLink) : (s.modDie d f).pwr = s.pwr := rfl
@[simp] theorem State.modDie_clk (s : State) (d : Fin 4) (f : DieLink → DieLink) : (s.modDie d f).clk = s.clk := rfl
@[simp] theorem State.modDie_tb (s : State) (d : Fin 4) (f : DieLink → DieLink) : (s.modDie d f).tb = s.tb := rfl
@[simp] theorem State.modDie_servo (s : State) (d : Fin 4) (f : DieLink → DieLink) : (s.modDie d f).servo = s.servo := rfl
@[simp] theorem State.modDie_mem (s : State) (d : Fin 4) (f : DieLink → DieLink) : (s.modDie d f).mem = s.mem := rfl
@[simp] theorem State.modDie_swarm (s : State) (d : Fin 4) (f : DieLink → DieLink) : (s.modDie d f).swarm = s.swarm := rfl
@[simp] theorem State.modDie_cfg (s : State) (d : Fin 4) (f : DieLink → DieLink) : (s.modDie d f).cfg = s.cfg := rfl
@[simp] theorem State.modDie_fab (s : State) (d : Fin 4) (f : DieLink → DieLink) : (s.modDie d f).fab = s.fab := rfl
@[simp] theorem State.modDie_workers (s : State) (d : Fin 4) (f : DieLink → DieLink) : (s.modDie d f).workers = s.workers := rfl
@[simp] theorem State.modDie_groups (s : State) (d : Fin 4) (f : DieLink → DieLink) : (s.modDie d f).groups = s.groups := rfl
@[simp] theorem State.modDie_ports (s : State) (d : Fin 4) (f : DieLink → DieLink) : (s.modDie d f).ports = s.ports := rfl
@[simp] theorem State.modDie_brood (s : State) (d : Fin 4) (f : DieLink → DieLink) : (s.modDie d f).brood = s.brood := rfl
@[simp] theorem State.modDie_sec (s : State) (d : Fin 4) (f : DieLink → DieLink) : (s.modDie d f).sec = s.sec := rfl
@[simp] theorem State.modDie_bist (s : State) (d : Fin 4) (f : DieLink → DieLink) : (s.modDie d f).bist = s.bist := rfl
@[simp] theorem State.modDie_dbg (s : State) (d : Fin 4) (f : DieLink → DieLink) : (s.modDie d f).dbg = s.dbg := rfl
@[simp] theorem State.modDie_starts (s : State) (d : Fin 4) (f : DieLink → DieLink) : (s.modDie d f).starts = s.starts := rfl
@[simp] theorem State.modDie_out (s : State) (d : Fin 4) (f : DieLink → DieLink) : (s.modDie d f).out = s.out := rfl
@[simp] theorem State.modDie_free (s : State) (d : Fin 4) (f : DieLink → DieLink) : (s.modDie d f).free = s.free := rfl
@[simp] theorem State.modDie_pending (s : State) (d : Fin 4) (f : DieLink → DieLink) : (s.modDie d f).pending = s.pending := rfl
@[simp] theorem State.modDie_net_dies (s : State) (d : Fin 4) (f : DieLink → DieLink) :
    (s.modDie d f).net.dies = upd s.net.dies d f := rfl
@[simp] theorem State.modDie_net_timeouts (s : State) (d : Fin 4) (f : DieLink → DieLink) : (s.modDie d f).net.timeouts = s.net.timeouts := rfl
@[simp] theorem State.modDie_net_books (s : State) (d : Fin 4) (f : DieLink → DieLink) : (s.modDie d f).net.books = s.net.books := rfl
@[simp] theorem State.modDie_net_mesh (s : State) (d : Fin 4) (f : DieLink → DieLink) : (s.modDie d f).net.mesh = s.net.mesh := rfl
@[simp] theorem State.modDie_net_waits (s : State) (d : Fin 4) (f : DieLink → DieLink) : (s.modDie d f).net.waits = s.net.waits := rfl
@[simp] theorem State.modDie_net_audit (s : State) (d : Fin 4) (f : DieLink → DieLink) : (s.modDie d f).net.audit = s.net.audit := rfl
@[simp] theorem State.modDie_net_locking (s : State) (d : Fin 4) (f : DieLink → DieLink) : (s.modDie d f).net.locking = s.net.locking := rfl

/-! `modFab`. -/

@[simp] theorem State.modFab_hif (s : State) (d : Fin 4) (f : DieFab → DieFab) : (s.modFab d f).hif = s.hif := rfl
@[simp] theorem State.modFab_rsc (s : State) (d : Fin 4) (f : DieFab → DieFab) : (s.modFab d f).rsc = s.rsc := rfl
@[simp] theorem State.modFab_queen (s : State) (d : Fin 4) (f : DieFab → DieFab) : (s.modFab d f).queen = s.queen := rfl
@[simp] theorem State.modFab_ev (s : State) (d : Fin 4) (f : DieFab → DieFab) : (s.modFab d f).ev = s.ev := rfl
@[simp] theorem State.modFab_pwr (s : State) (d : Fin 4) (f : DieFab → DieFab) : (s.modFab d f).pwr = s.pwr := rfl
@[simp] theorem State.modFab_clk (s : State) (d : Fin 4) (f : DieFab → DieFab) : (s.modFab d f).clk = s.clk := rfl
@[simp] theorem State.modFab_tb (s : State) (d : Fin 4) (f : DieFab → DieFab) : (s.modFab d f).tb = s.tb := rfl
@[simp] theorem State.modFab_servo (s : State) (d : Fin 4) (f : DieFab → DieFab) : (s.modFab d f).servo = s.servo := rfl
@[simp] theorem State.modFab_mem (s : State) (d : Fin 4) (f : DieFab → DieFab) : (s.modFab d f).mem = s.mem := rfl
@[simp] theorem State.modFab_net (s : State) (d : Fin 4) (f : DieFab → DieFab) : (s.modFab d f).net = s.net := rfl
@[simp] theorem State.modFab_swarm (s : State) (d : Fin 4) (f : DieFab → DieFab) : (s.modFab d f).swarm = s.swarm := rfl
@[simp] theorem State.modFab_cfg (s : State) (d : Fin 4) (f : DieFab → DieFab) : (s.modFab d f).cfg = s.cfg := rfl
@[simp] theorem State.modFab_workers (s : State) (d : Fin 4) (f : DieFab → DieFab) : (s.modFab d f).workers = s.workers := rfl
@[simp] theorem State.modFab_groups (s : State) (d : Fin 4) (f : DieFab → DieFab) : (s.modFab d f).groups = s.groups := rfl
@[simp] theorem State.modFab_ports (s : State) (d : Fin 4) (f : DieFab → DieFab) : (s.modFab d f).ports = s.ports := rfl
@[simp] theorem State.modFab_brood (s : State) (d : Fin 4) (f : DieFab → DieFab) : (s.modFab d f).brood = s.brood := rfl
@[simp] theorem State.modFab_sec (s : State) (d : Fin 4) (f : DieFab → DieFab) : (s.modFab d f).sec = s.sec := rfl
@[simp] theorem State.modFab_bist (s : State) (d : Fin 4) (f : DieFab → DieFab) : (s.modFab d f).bist = s.bist := rfl
@[simp] theorem State.modFab_dbg (s : State) (d : Fin 4) (f : DieFab → DieFab) : (s.modFab d f).dbg = s.dbg := rfl
@[simp] theorem State.modFab_starts (s : State) (d : Fin 4) (f : DieFab → DieFab) : (s.modFab d f).starts = s.starts := rfl
@[simp] theorem State.modFab_out (s : State) (d : Fin 4) (f : DieFab → DieFab) : (s.modFab d f).out = s.out := rfl
@[simp] theorem State.modFab_free (s : State) (d : Fin 4) (f : DieFab → DieFab) : (s.modFab d f).free = s.free := rfl
@[simp] theorem State.modFab_pending (s : State) (d : Fin 4) (f : DieFab → DieFab) : (s.modFab d f).pending = s.pending := rfl
@[simp] theorem State.modFab_fab (s : State) (d : Fin 4) (f : DieFab → DieFab) : (s.modFab d f).fab = upd s.fab d f := rfl

/-! `modStack`. -/

@[simp] theorem State.modStack_hif (s : State) (n : Fin 4) (f : Stack → Stack) : (s.modStack n f).hif = s.hif := rfl
@[simp] theorem State.modStack_rsc (s : State) (n : Fin 4) (f : Stack → Stack) : (s.modStack n f).rsc = s.rsc := rfl
@[simp] theorem State.modStack_queen (s : State) (n : Fin 4) (f : Stack → Stack) : (s.modStack n f).queen = s.queen := rfl
@[simp] theorem State.modStack_ev (s : State) (n : Fin 4) (f : Stack → Stack) : (s.modStack n f).ev = s.ev := rfl
@[simp] theorem State.modStack_pwr (s : State) (n : Fin 4) (f : Stack → Stack) : (s.modStack n f).pwr = s.pwr := rfl
@[simp] theorem State.modStack_clk (s : State) (n : Fin 4) (f : Stack → Stack) : (s.modStack n f).clk = s.clk := rfl
@[simp] theorem State.modStack_tb (s : State) (n : Fin 4) (f : Stack → Stack) : (s.modStack n f).tb = s.tb := rfl
@[simp] theorem State.modStack_servo (s : State) (n : Fin 4) (f : Stack → Stack) : (s.modStack n f).servo = s.servo := rfl
@[simp] theorem State.modStack_net (s : State) (n : Fin 4) (f : Stack → Stack) : (s.modStack n f).net = s.net := rfl
@[simp] theorem State.modStack_swarm (s : State) (n : Fin 4) (f : Stack → Stack) : (s.modStack n f).swarm = s.swarm := rfl
@[simp] theorem State.modStack_cfg (s : State) (n : Fin 4) (f : Stack → Stack) : (s.modStack n f).cfg = s.cfg := rfl
@[simp] theorem State.modStack_fab (s : State) (n : Fin 4) (f : Stack → Stack) : (s.modStack n f).fab = s.fab := rfl
@[simp] theorem State.modStack_workers (s : State) (n : Fin 4) (f : Stack → Stack) : (s.modStack n f).workers = s.workers := rfl
@[simp] theorem State.modStack_groups (s : State) (n : Fin 4) (f : Stack → Stack) : (s.modStack n f).groups = s.groups := rfl
@[simp] theorem State.modStack_ports (s : State) (n : Fin 4) (f : Stack → Stack) : (s.modStack n f).ports = s.ports := rfl
@[simp] theorem State.modStack_brood (s : State) (n : Fin 4) (f : Stack → Stack) : (s.modStack n f).brood = s.brood := rfl
@[simp] theorem State.modStack_sec (s : State) (n : Fin 4) (f : Stack → Stack) : (s.modStack n f).sec = s.sec := rfl
@[simp] theorem State.modStack_bist (s : State) (n : Fin 4) (f : Stack → Stack) : (s.modStack n f).bist = s.bist := rfl
@[simp] theorem State.modStack_dbg (s : State) (n : Fin 4) (f : Stack → Stack) : (s.modStack n f).dbg = s.dbg := rfl
@[simp] theorem State.modStack_starts (s : State) (n : Fin 4) (f : Stack → Stack) : (s.modStack n f).starts = s.starts := rfl
@[simp] theorem State.modStack_out (s : State) (n : Fin 4) (f : Stack → Stack) : (s.modStack n f).out = s.out := rfl
@[simp] theorem State.modStack_free (s : State) (n : Fin 4) (f : Stack → Stack) : (s.modStack n f).free = s.free := rfl
@[simp] theorem State.modStack_pending (s : State) (n : Fin 4) (f : Stack → Stack) : (s.modStack n f).pending = s.pending := rfl
@[simp] theorem State.modStack_mem_cells (s : State) (n : Fin 4) (f : Stack → Stack) : (s.modStack n f).mem.cells = s.mem.cells := rfl
@[simp] theorem State.modStack_mem_undef (s : State) (n : Fin 4) (f : Stack → Stack) : (s.modStack n f).mem.undef = s.mem.undef := rfl
@[simp] theorem State.modStack_mem_interleave (s : State) (n : Fin 4) (f : Stack → Stack) : (s.modStack n f).mem.interleave = s.mem.interleave := rfl
@[simp] theorem State.modStack_mem_keyId (s : State) (n : Fin 4) (f : Stack → Stack) : (s.modStack n f).mem.keyId = s.mem.keyId := rfl
@[simp] theorem State.modStack_mem_keysOk (s : State) (n : Fin 4) (f : Stack → Stack) : (s.modStack n f).mem.keysOk = s.mem.keysOk := rfl
@[simp] theorem State.modStack_mem_xtsKey (s : State) (n : Fin 4) (f : Stack → Stack) : (s.modStack n f).mem.xtsKey = s.mem.xtsKey := rfl
@[simp] theorem State.modStack_mem_macKey (s : State) (n : Fin 4) (f : Stack → Stack) : (s.modStack n f).mem.macKey = s.mem.macKey := rfl
@[simp] theorem State.modStack_mem_tags (s : State) (n : Fin 4) (f : Stack → Stack) : (s.modStack n f).mem.tags = s.mem.tags := rfl
@[simp] theorem State.modStack_mem_nodeTags (s : State) (n : Fin 4) (f : Stack → Stack) : (s.modStack n f).mem.nodeTags = s.mem.nodeTags := rfl
@[simp] theorem State.modStack_mem_secCtr (s : State) (n : Fin 4) (f : Stack → Stack) : (s.modStack n f).mem.secCtr = s.mem.secCtr := rfl
@[simp] theorem State.modStack_mem_nodeCtr (s : State) (n : Fin 4) (f : Stack → Stack) : (s.modStack n f).mem.nodeCtr = s.mem.nodeCtr := rfl
@[simp] theorem State.modStack_mem_cache (s : State) (n : Fin 4) (f : Stack → Stack) : (s.modStack n f).mem.cache = s.mem.cache := rfl
@[simp] theorem State.modStack_mem_poison (s : State) (n : Fin 4) (f : Stack → Stack) : (s.modStack n f).mem.poison = s.mem.poison := rfl
@[simp] theorem State.modStack_mem_refreshNs (s : State) (n : Fin 4) (f : Stack → Stack) : (s.modStack n f).mem.refreshNs = s.mem.refreshNs := rfl
@[simp] theorem State.modStack_mem_refreshS (s : State) (n : Fin 4) (f : Stack → Stack) : (s.modStack n f).mem.refreshS = s.mem.refreshS := rfl
@[simp] theorem State.modStack_mem_gridOn (s : State) (n : Fin 4) (f : Stack → Stack) : (s.modStack n f).mem.gridOn = s.mem.gridOn := rfl
@[simp] theorem State.modStack_mem_hbm (s : State) (n : Fin 4) (f : Stack → Stack) :
    (s.modStack n f).mem.hbm = upd s.mem.hbm n f := rfl
@[simp] theorem State.modStack_mem_copies (s : State) (n : Fin 4) (f : Stack → Stack) : (s.modStack n f).mem.copies = s.mem.copies := rfl
@[simp] theorem State.modStack_mem_rekey (s : State) (n : Fin 4) (f : Stack → Stack) : (s.modStack n f).mem.rekey = s.mem.rekey := rfl
@[simp] theorem State.modStack_mem_waiting (s : State) (n : Fin 4) (f : Stack → Stack) : (s.modStack n f).mem.waiting = s.mem.waiting := rfl
@[simp] theorem State.modStack_mem_training (s : State) (n : Fin 4) (f : Stack → Stack) : (s.modStack n f).mem.training = s.mem.training := rfl

/-! `modLink`. -/

@[simp] theorem State.modLink_hif (s : State) (l : Fin 16) (f : Laravo → Laravo) : (s.modLink l f).hif = s.hif := rfl
@[simp] theorem State.modLink_rsc (s : State) (l : Fin 16) (f : Laravo → Laravo) : (s.modLink l f).rsc = s.rsc := rfl
@[simp] theorem State.modLink_queen (s : State) (l : Fin 16) (f : Laravo → Laravo) : (s.modLink l f).queen = s.queen := rfl
@[simp] theorem State.modLink_ev (s : State) (l : Fin 16) (f : Laravo → Laravo) : (s.modLink l f).ev = s.ev := rfl
@[simp] theorem State.modLink_pwr (s : State) (l : Fin 16) (f : Laravo → Laravo) : (s.modLink l f).pwr = s.pwr := rfl
@[simp] theorem State.modLink_clk (s : State) (l : Fin 16) (f : Laravo → Laravo) : (s.modLink l f).clk = s.clk := rfl
@[simp] theorem State.modLink_tb (s : State) (l : Fin 16) (f : Laravo → Laravo) : (s.modLink l f).tb = s.tb := rfl
@[simp] theorem State.modLink_servo (s : State) (l : Fin 16) (f : Laravo → Laravo) : (s.modLink l f).servo = s.servo := rfl
@[simp] theorem State.modLink_mem (s : State) (l : Fin 16) (f : Laravo → Laravo) : (s.modLink l f).mem = s.mem := rfl
@[simp] theorem State.modLink_net (s : State) (l : Fin 16) (f : Laravo → Laravo) : (s.modLink l f).net = s.net := rfl
@[simp] theorem State.modLink_cfg (s : State) (l : Fin 16) (f : Laravo → Laravo) : (s.modLink l f).cfg = s.cfg := rfl
@[simp] theorem State.modLink_fab (s : State) (l : Fin 16) (f : Laravo → Laravo) : (s.modLink l f).fab = s.fab := rfl
@[simp] theorem State.modLink_workers (s : State) (l : Fin 16) (f : Laravo → Laravo) : (s.modLink l f).workers = s.workers := rfl
@[simp] theorem State.modLink_groups (s : State) (l : Fin 16) (f : Laravo → Laravo) : (s.modLink l f).groups = s.groups := rfl
@[simp] theorem State.modLink_ports (s : State) (l : Fin 16) (f : Laravo → Laravo) : (s.modLink l f).ports = s.ports := rfl
@[simp] theorem State.modLink_brood (s : State) (l : Fin 16) (f : Laravo → Laravo) : (s.modLink l f).brood = s.brood := rfl
@[simp] theorem State.modLink_sec (s : State) (l : Fin 16) (f : Laravo → Laravo) : (s.modLink l f).sec = s.sec := rfl
@[simp] theorem State.modLink_bist (s : State) (l : Fin 16) (f : Laravo → Laravo) : (s.modLink l f).bist = s.bist := rfl
@[simp] theorem State.modLink_dbg (s : State) (l : Fin 16) (f : Laravo → Laravo) : (s.modLink l f).dbg = s.dbg := rfl
@[simp] theorem State.modLink_starts (s : State) (l : Fin 16) (f : Laravo → Laravo) : (s.modLink l f).starts = s.starts := rfl
@[simp] theorem State.modLink_out (s : State) (l : Fin 16) (f : Laravo → Laravo) : (s.modLink l f).out = s.out := rfl
@[simp] theorem State.modLink_free (s : State) (l : Fin 16) (f : Laravo → Laravo) : (s.modLink l f).free = s.free := rfl
@[simp] theorem State.modLink_pending (s : State) (l : Fin 16) (f : Laravo → Laravo) : (s.modLink l f).pending = s.pending := rfl
@[simp] theorem State.modLink_swarm_id (s : State) (l : Fin 16) (f : Laravo → Laravo) : (s.modLink l f).swarm.id = s.swarm.id := rfl
@[simp] theorem State.modLink_swarm_routes (s : State) (l : Fin 16) (f : Laravo → Laravo) : (s.modLink l f).swarm.routes = s.swarm.routes := rfl
@[simp] theorem State.modLink_swarm_bcastMask (s : State) (l : Fin 16) (f : Laravo → Laravo) : (s.modLink l f).swarm.bcastMask = s.swarm.bcastMask := rfl
@[simp] theorem State.modLink_swarm_bcastNum (s : State) (l : Fin 16) (f : Laravo → Laravo) : (s.modLink l f).swarm.bcastNum = s.swarm.bcastNum := rfl
@[simp] theorem State.modLink_swarm_bcastSeen (s : State) (l : Fin 16) (f : Laravo → Laravo) : (s.modLink l f).swarm.bcastSeen = s.swarm.bcastSeen := rfl
@[simp] theorem State.modLink_swarm_fwdLate (s : State) (l : Fin 16) (f : Laravo → Laravo) : (s.modLink l f).swarm.fwdLate = s.swarm.fwdLate := rfl
@[simp] theorem State.modLink_swarm_forwards (s : State) (l : Fin 16) (f : Laravo → Laravo) : (s.modLink l f).swarm.forwards = s.swarm.forwards := rfl
@[simp] theorem State.modLink_swarm_buzzSeen (s : State) (l : Fin 16) (f : Laravo → Laravo) : (s.modLink l f).swarm.buzzSeen = s.swarm.buzzSeen := rfl
@[simp] theorem State.modLink_swarm_buzzSeq (s : State) (l : Fin 16) (f : Laravo → Laravo) : (s.modLink l f).swarm.buzzSeq = s.swarm.buzzSeq := rfl
@[simp] theorem State.modLink_swarm_links (s : State) (l : Fin 16) (f : Laravo → Laravo) :
    (s.modLink l f).swarm.links = upd s.swarm.links l f := rfl

/-! `modDomain`. -/

@[simp] theorem State.modDomain_hif (s : State) (n : Fin 64) (f : Domain → Domain) : (s.modDomain n f).hif = s.hif := rfl
@[simp] theorem State.modDomain_rsc (s : State) (n : Fin 64) (f : Domain → Domain) : (s.modDomain n f).rsc = s.rsc := rfl
@[simp] theorem State.modDomain_queen (s : State) (n : Fin 64) (f : Domain → Domain) : (s.modDomain n f).queen = s.queen := rfl
@[simp] theorem State.modDomain_ev (s : State) (n : Fin 64) (f : Domain → Domain) : (s.modDomain n f).ev = s.ev := rfl
@[simp] theorem State.modDomain_clk (s : State) (n : Fin 64) (f : Domain → Domain) : (s.modDomain n f).clk = s.clk := rfl
@[simp] theorem State.modDomain_tb (s : State) (n : Fin 64) (f : Domain → Domain) : (s.modDomain n f).tb = s.tb := rfl
@[simp] theorem State.modDomain_servo (s : State) (n : Fin 64) (f : Domain → Domain) : (s.modDomain n f).servo = s.servo := rfl
@[simp] theorem State.modDomain_mem (s : State) (n : Fin 64) (f : Domain → Domain) : (s.modDomain n f).mem = s.mem := rfl
@[simp] theorem State.modDomain_net (s : State) (n : Fin 64) (f : Domain → Domain) : (s.modDomain n f).net = s.net := rfl
@[simp] theorem State.modDomain_swarm (s : State) (n : Fin 64) (f : Domain → Domain) : (s.modDomain n f).swarm = s.swarm := rfl
@[simp] theorem State.modDomain_cfg (s : State) (n : Fin 64) (f : Domain → Domain) : (s.modDomain n f).cfg = s.cfg := rfl
@[simp] theorem State.modDomain_fab (s : State) (n : Fin 64) (f : Domain → Domain) : (s.modDomain n f).fab = s.fab := rfl
@[simp] theorem State.modDomain_workers (s : State) (n : Fin 64) (f : Domain → Domain) : (s.modDomain n f).workers = s.workers := rfl
@[simp] theorem State.modDomain_groups (s : State) (n : Fin 64) (f : Domain → Domain) : (s.modDomain n f).groups = s.groups := rfl
@[simp] theorem State.modDomain_ports (s : State) (n : Fin 64) (f : Domain → Domain) : (s.modDomain n f).ports = s.ports := rfl
@[simp] theorem State.modDomain_brood (s : State) (n : Fin 64) (f : Domain → Domain) : (s.modDomain n f).brood = s.brood := rfl
@[simp] theorem State.modDomain_sec (s : State) (n : Fin 64) (f : Domain → Domain) : (s.modDomain n f).sec = s.sec := rfl
@[simp] theorem State.modDomain_bist (s : State) (n : Fin 64) (f : Domain → Domain) : (s.modDomain n f).bist = s.bist := rfl
@[simp] theorem State.modDomain_dbg (s : State) (n : Fin 64) (f : Domain → Domain) : (s.modDomain n f).dbg = s.dbg := rfl
@[simp] theorem State.modDomain_starts (s : State) (n : Fin 64) (f : Domain → Domain) : (s.modDomain n f).starts = s.starts := rfl
@[simp] theorem State.modDomain_out (s : State) (n : Fin 64) (f : Domain → Domain) : (s.modDomain n f).out = s.out := rfl
@[simp] theorem State.modDomain_free (s : State) (n : Fin 64) (f : Domain → Domain) : (s.modDomain n f).free = s.free := rfl
@[simp] theorem State.modDomain_pending (s : State) (n : Fin 64) (f : Domain → Domain) : (s.modDomain n f).pending = s.pending := rfl
@[simp] theorem State.modDomain_pwr_supply (s : State) (n : Fin 64) (f : Domain → Domain) : (s.modDomain n f).pwr.supply = s.pwr.supply := rfl
@[simp] theorem State.modDomain_pwr_domains (s : State) (n : Fin 64) (f : Domain → Domain) :
    (s.modDomain n f).pwr.domains = upd s.pwr.domains n f := rfl
@[simp] theorem State.modDomain_pwr_vb (s : State) (n : Fin 64) (f : Domain → Domain) : (s.modDomain n f).pwr.vb = s.pwr.vb := rfl
@[simp] theorem State.modDomain_pwr_cap (s : State) (n : Fin 64) (f : Domain → Domain) : (s.modDomain n f).pwr.cap = s.pwr.cap := rfl
@[simp] theorem State.modDomain_pwr_vinWarn (s : State) (n : Fin 64) (f : Domain → Domain) : (s.modDomain n f).pwr.vinWarn = s.pwr.vinWarn := rfl
@[simp] theorem State.modDomain_pwr_tempWarn (s : State) (n : Fin 64) (f : Domain → Domain) : (s.modDomain n f).pwr.tempWarn = s.pwr.tempWarn := rfl
@[simp] theorem State.modDomain_pwr_rampStep (s : State) (n : Fin 64) (f : Domain → Domain) : (s.modDomain n f).pwr.rampStep = s.pwr.rampStep := rfl
@[simp] theorem State.modDomain_pwr_avgLog (s : State) (n : Fin 64) (f : Domain → Domain) : (s.modDomain n f).pwr.avgLog = s.pwr.avgLog := rfl
@[simp] theorem State.modDomain_pwr_telMask (s : State) (n : Fin 64) (f : Domain → Domain) : (s.modDomain n f).pwr.telMask = s.pwr.telMask := rfl
@[simp] theorem State.modDomain_pwr_vin (s : State) (n : Fin 64) (f : Domain → Domain) : (s.modDomain n f).pwr.vin = s.pwr.vin := rfl
@[simp] theorem State.modDomain_pwr_iin (s : State) (n : Fin 64) (f : Domain → Domain) : (s.modDomain n f).pwr.iin = s.pwr.iin := rfl
@[simp] theorem State.modDomain_pwr_vbus (s : State) (n : Fin 64) (f : Domain → Domain) : (s.modDomain n f).pwr.vbus = s.pwr.vbus := rfl
@[simp] theorem State.modDomain_pwr_pin (s : State) (n : Fin 64) (f : Domain → Domain) : (s.modDomain n f).pwr.pin = s.pwr.pin := rfl
@[simp] theorem State.modDomain_pwr_vinNow (s : State) (n : Fin 64) (f : Domain → Domain) : (s.modDomain n f).pwr.vinNow = s.pwr.vinNow := rfl
@[simp] theorem State.modDomain_pwr_vinMin (s : State) (n : Fin 64) (f : Domain → Domain) : (s.modDomain n f).pwr.vinMin = s.pwr.vinMin := rfl
@[simp] theorem State.modDomain_pwr_iinMax (s : State) (n : Fin 64) (f : Domain → Domain) : (s.modDomain n f).pwr.iinMax = s.pwr.iinMax := rfl
@[simp] theorem State.modDomain_pwr_temps (s : State) (n : Fin 64) (f : Domain → Domain) : (s.modDomain n f).pwr.temps = s.pwr.temps := rfl
@[simp] theorem State.modDomain_pwr_sumN (s : State) (n : Fin 64) (f : Domain → Domain) : (s.modDomain n f).pwr.sumN = s.pwr.sumN := rfl
@[simp] theorem State.modDomain_pwr_sums (s : State) (n : Fin 64) (f : Domain → Domain) : (s.modDomain n f).pwr.sums = s.pwr.sums := rfl
@[simp] theorem State.modDomain_pwr_vinLow (s : State) (n : Fin 64) (f : Domain → Domain) : (s.modDomain n f).pwr.vinLow = s.pwr.vinLow := rfl
@[simp] theorem State.modDomain_pwr_flagVin (s : State) (n : Fin 64) (f : Domain → Domain) : (s.modDomain n f).pwr.flagVin = s.pwr.flagVin := rfl
@[simp] theorem State.modDomain_pwr_flagOv (s : State) (n : Fin 64) (f : Domain → Domain) : (s.modDomain n f).pwr.flagOv = s.pwr.flagOv := rfl
@[simp] theorem State.modDomain_pwr_flagBudget (s : State) (n : Fin 64) (f : Domain → Domain) : (s.modDomain n f).pwr.flagBudget = s.pwr.flagBudget := rfl
@[simp] theorem State.modDomain_pwr_flagIlim (s : State) (n : Fin 64) (f : Domain → Domain) : (s.modDomain n f).pwr.flagIlim = s.pwr.flagIlim := rfl
@[simp] theorem State.modDomain_pwr_sensorHot (s : State) (n : Fin 64) (f : Domain → Domain) : (s.modDomain n f).pwr.sensorHot = s.pwr.sensorHot := rfl
@[simp] theorem State.modDomain_pwr_sensorArmed (s : State) (n : Fin 64) (f : Domain → Domain) : (s.modDomain n f).pwr.sensorArmed = s.pwr.sensorArmed := rfl
@[simp] theorem State.modDomain_pwr_thermN (s : State) (n : Fin 64) (f : Domain → Domain) : (s.modDomain n f).pwr.thermN = s.pwr.thermN := rfl
@[simp] theorem State.modDomain_pwr_lastOff (s : State) (n : Fin 64) (f : Domain → Domain) : (s.modDomain n f).pwr.lastOff = s.pwr.lastOff := rfl
@[simp] theorem State.modDomain_pwr_offDetail (s : State) (n : Fin 64) (f : Domain → Domain) : (s.modDomain n f).pwr.offDetail = s.pwr.offDetail := rfl
@[simp] theorem State.modDomain_pwr_offSensor (s : State) (n : Fin 64) (f : Domain → Domain) : (s.modDomain n f).pwr.offSensor = s.pwr.offSensor := rfl
@[simp] theorem State.modDomain_pwr_loss (s : State) (n : Fin 64) (f : Domain → Domain) : (s.modDomain n f).pwr.loss = s.pwr.loss := rfl
@[simp] theorem State.modDomain_pwr_jobs (s : State) (n : Fin 64) (f : Domain → Domain) : (s.modDomain n f).pwr.jobs = s.pwr.jobs := rfl

/-! `modSite`. -/

@[simp] theorem State.modSite_hif (s : State) (n : Fin 32) (f : Site → Site) : (s.modSite n f).hif = s.hif := rfl
@[simp] theorem State.modSite_rsc (s : State) (n : Fin 32) (f : Site → Site) : (s.modSite n f).rsc = s.rsc := rfl
@[simp] theorem State.modSite_queen (s : State) (n : Fin 32) (f : Site → Site) : (s.modSite n f).queen = s.queen := rfl
@[simp] theorem State.modSite_ev (s : State) (n : Fin 32) (f : Site → Site) : (s.modSite n f).ev = s.ev := rfl
@[simp] theorem State.modSite_pwr (s : State) (n : Fin 32) (f : Site → Site) : (s.modSite n f).pwr = s.pwr := rfl
@[simp] theorem State.modSite_clk (s : State) (n : Fin 32) (f : Site → Site) : (s.modSite n f).clk = s.clk := rfl
@[simp] theorem State.modSite_tb (s : State) (n : Fin 32) (f : Site → Site) : (s.modSite n f).tb = s.tb := rfl
@[simp] theorem State.modSite_servo (s : State) (n : Fin 32) (f : Site → Site) : (s.modSite n f).servo = s.servo := rfl
@[simp] theorem State.modSite_mem (s : State) (n : Fin 32) (f : Site → Site) : (s.modSite n f).mem = s.mem := rfl
@[simp] theorem State.modSite_net (s : State) (n : Fin 32) (f : Site → Site) : (s.modSite n f).net = s.net := rfl
@[simp] theorem State.modSite_swarm (s : State) (n : Fin 32) (f : Site → Site) : (s.modSite n f).swarm = s.swarm := rfl
@[simp] theorem State.modSite_cfg (s : State) (n : Fin 32) (f : Site → Site) : (s.modSite n f).cfg = s.cfg := rfl
@[simp] theorem State.modSite_fab (s : State) (n : Fin 32) (f : Site → Site) : (s.modSite n f).fab = s.fab := rfl
@[simp] theorem State.modSite_workers (s : State) (n : Fin 32) (f : Site → Site) : (s.modSite n f).workers = s.workers := rfl
@[simp] theorem State.modSite_groups (s : State) (n : Fin 32) (f : Site → Site) : (s.modSite n f).groups = s.groups := rfl
@[simp] theorem State.modSite_ports (s : State) (n : Fin 32) (f : Site → Site) : (s.modSite n f).ports = s.ports := rfl
@[simp] theorem State.modSite_sec (s : State) (n : Fin 32) (f : Site → Site) : (s.modSite n f).sec = s.sec := rfl
@[simp] theorem State.modSite_bist (s : State) (n : Fin 32) (f : Site → Site) : (s.modSite n f).bist = s.bist := rfl
@[simp] theorem State.modSite_dbg (s : State) (n : Fin 32) (f : Site → Site) : (s.modSite n f).dbg = s.dbg := rfl
@[simp] theorem State.modSite_starts (s : State) (n : Fin 32) (f : Site → Site) : (s.modSite n f).starts = s.starts := rfl
@[simp] theorem State.modSite_out (s : State) (n : Fin 32) (f : Site → Site) : (s.modSite n f).out = s.out := rfl
@[simp] theorem State.modSite_free (s : State) (n : Fin 32) (f : Site → Site) : (s.modSite n f).free = s.free := rfl
@[simp] theorem State.modSite_pending (s : State) (n : Fin 32) (f : Site → Site) : (s.modSite n f).pending = s.pending := rfl
@[simp] theorem State.modSite_brood_sites (s : State) (n : Fin 32) (f : Site → Site) :
    (s.modSite n f).brood.sites = upd s.brood.sites n f := rfl
@[simp] theorem State.modSite_brood_logMode (s : State) (n : Fin 32) (f : Site → Site) : (s.modSite n f).brood.logMode = s.brood.logMode := rfl
@[simp] theorem State.modSite_brood_logSize (s : State) (n : Fin 32) (f : Site → Site) : (s.modSite n f).brood.logSize = s.brood.logSize := rfl
@[simp] theorem State.modSite_brood_logBase (s : State) (n : Fin 32) (f : Site → Site) : (s.modSite n f).brood.logBase = s.brood.logBase := rfl
@[simp] theorem State.modSite_brood_logHead (s : State) (n : Fin 32) (f : Site → Site) : (s.modSite n f).brood.logHead = s.brood.logHead := rfl
@[simp] theorem State.modSite_brood_logLost (s : State) (n : Fin 32) (f : Site → Site) : (s.modSite n f).brood.logLost = s.brood.logLost := rfl
@[simp] theorem State.modSite_brood_inbox (s : State) (n : Fin 32) (f : Site → Site) : (s.modSite n f).brood.inbox = s.brood.inbox := rfl
@[simp] theorem State.modSite_brood_solves (s : State) (n : Fin 32) (f : Site → Site) : (s.modSite n f).brood.solves = s.brood.solves := rfl

/-! `modSlot`. -/

@[simp] theorem State.modSlot_hif (s : State) (n : Fin 4) (f : Slot → Slot) : (s.modSlot n f).hif = s.hif := rfl
@[simp] theorem State.modSlot_rsc (s : State) (n : Fin 4) (f : Slot → Slot) : (s.modSlot n f).rsc = s.rsc := rfl
@[simp] theorem State.modSlot_queen (s : State) (n : Fin 4) (f : Slot → Slot) : (s.modSlot n f).queen = s.queen := rfl
@[simp] theorem State.modSlot_ev (s : State) (n : Fin 4) (f : Slot → Slot) : (s.modSlot n f).ev = s.ev := rfl
@[simp] theorem State.modSlot_pwr (s : State) (n : Fin 4) (f : Slot → Slot) : (s.modSlot n f).pwr = s.pwr := rfl
@[simp] theorem State.modSlot_clk (s : State) (n : Fin 4) (f : Slot → Slot) : (s.modSlot n f).clk = s.clk := rfl
@[simp] theorem State.modSlot_tb (s : State) (n : Fin 4) (f : Slot → Slot) : (s.modSlot n f).tb = s.tb := rfl
@[simp] theorem State.modSlot_servo (s : State) (n : Fin 4) (f : Slot → Slot) : (s.modSlot n f).servo = s.servo := rfl
@[simp] theorem State.modSlot_mem (s : State) (n : Fin 4) (f : Slot → Slot) : (s.modSlot n f).mem = s.mem := rfl
@[simp] theorem State.modSlot_net (s : State) (n : Fin 4) (f : Slot → Slot) : (s.modSlot n f).net = s.net := rfl
@[simp] theorem State.modSlot_swarm (s : State) (n : Fin 4) (f : Slot → Slot) : (s.modSlot n f).swarm = s.swarm := rfl
@[simp] theorem State.modSlot_fab (s : State) (n : Fin 4) (f : Slot → Slot) : (s.modSlot n f).fab = s.fab := rfl
@[simp] theorem State.modSlot_workers (s : State) (n : Fin 4) (f : Slot → Slot) : (s.modSlot n f).workers = s.workers := rfl
@[simp] theorem State.modSlot_groups (s : State) (n : Fin 4) (f : Slot → Slot) : (s.modSlot n f).groups = s.groups := rfl
@[simp] theorem State.modSlot_ports (s : State) (n : Fin 4) (f : Slot → Slot) : (s.modSlot n f).ports = s.ports := rfl
@[simp] theorem State.modSlot_brood (s : State) (n : Fin 4) (f : Slot → Slot) : (s.modSlot n f).brood = s.brood := rfl
@[simp] theorem State.modSlot_sec (s : State) (n : Fin 4) (f : Slot → Slot) : (s.modSlot n f).sec = s.sec := rfl
@[simp] theorem State.modSlot_bist (s : State) (n : Fin 4) (f : Slot → Slot) : (s.modSlot n f).bist = s.bist := rfl
@[simp] theorem State.modSlot_dbg (s : State) (n : Fin 4) (f : Slot → Slot) : (s.modSlot n f).dbg = s.dbg := rfl
@[simp] theorem State.modSlot_starts (s : State) (n : Fin 4) (f : Slot → Slot) : (s.modSlot n f).starts = s.starts := rfl
@[simp] theorem State.modSlot_out (s : State) (n : Fin 4) (f : Slot → Slot) : (s.modSlot n f).out = s.out := rfl
@[simp] theorem State.modSlot_free (s : State) (n : Fin 4) (f : Slot → Slot) : (s.modSlot n f).free = s.free := rfl
@[simp] theorem State.modSlot_pending (s : State) (n : Fin 4) (f : Slot → Slot) : (s.modSlot n f).pending = s.pending := rfl
@[simp] theorem State.modSlot_cfg_slots (s : State) (n : Fin 4) (f : Slot → Slot) :
    (s.modSlot n f).cfg.slots = upd s.cfg.slots n f := rfl
@[simp] theorem State.modSlot_cfg_lastStatus (s : State) (n : Fin 4) (f : Slot → Slot) : (s.modSlot n f).cfg.lastStatus = s.cfg.lastStatus := rfl
@[simp] theorem State.modSlot_cfg_lastOffset (s : State) (n : Fin 4) (f : Slot → Slot) : (s.modSlot n f).cfg.lastOffset = s.cfg.lastOffset := rfl
@[simp] theorem State.modSlot_cfg_loads (s : State) (n : Fin 4) (f : Slot → Slot) : (s.modSlot n f).cfg.loads = s.cfg.loads := rfl
@[simp] theorem State.modSlot_cfg_readbacks (s : State) (n : Fin 4) (f : Slot → Slot) : (s.modSlot n f).cfg.readbacks = s.cfg.readbacks := rfl
@[simp] theorem State.modSlot_cfg_flash (s : State) (n : Fin 4) (f : Slot → Slot) : (s.modSlot n f).cfg.flash = s.cfg.flash := rfl
@[simp] theorem State.modSlot_cfg_hostBoot (s : State) (n : Fin 4) (f : Slot → Slot) : (s.modSlot n f).cfg.hostBoot = s.cfg.hostBoot := rfl

/-! `modTb`. -/

@[simp] theorem State.modTb_hif (s : State) (b : Fin 8) (f : TimeBase → TimeBase) : (s.modTb b f).hif = s.hif := rfl
@[simp] theorem State.modTb_rsc (s : State) (b : Fin 8) (f : TimeBase → TimeBase) : (s.modTb b f).rsc = s.rsc := rfl
@[simp] theorem State.modTb_queen (s : State) (b : Fin 8) (f : TimeBase → TimeBase) : (s.modTb b f).queen = s.queen := rfl
@[simp] theorem State.modTb_ev (s : State) (b : Fin 8) (f : TimeBase → TimeBase) : (s.modTb b f).ev = s.ev := rfl
@[simp] theorem State.modTb_pwr (s : State) (b : Fin 8) (f : TimeBase → TimeBase) : (s.modTb b f).pwr = s.pwr := rfl
@[simp] theorem State.modTb_clk (s : State) (b : Fin 8) (f : TimeBase → TimeBase) : (s.modTb b f).clk = s.clk := rfl
@[simp] theorem State.modTb_servo (s : State) (b : Fin 8) (f : TimeBase → TimeBase) : (s.modTb b f).servo = s.servo := rfl
@[simp] theorem State.modTb_mem (s : State) (b : Fin 8) (f : TimeBase → TimeBase) : (s.modTb b f).mem = s.mem := rfl
@[simp] theorem State.modTb_net (s : State) (b : Fin 8) (f : TimeBase → TimeBase) : (s.modTb b f).net = s.net := rfl
@[simp] theorem State.modTb_swarm (s : State) (b : Fin 8) (f : TimeBase → TimeBase) : (s.modTb b f).swarm = s.swarm := rfl
@[simp] theorem State.modTb_cfg (s : State) (b : Fin 8) (f : TimeBase → TimeBase) : (s.modTb b f).cfg = s.cfg := rfl
@[simp] theorem State.modTb_fab (s : State) (b : Fin 8) (f : TimeBase → TimeBase) : (s.modTb b f).fab = s.fab := rfl
@[simp] theorem State.modTb_workers (s : State) (b : Fin 8) (f : TimeBase → TimeBase) : (s.modTb b f).workers = s.workers := rfl
@[simp] theorem State.modTb_groups (s : State) (b : Fin 8) (f : TimeBase → TimeBase) : (s.modTb b f).groups = s.groups := rfl
@[simp] theorem State.modTb_ports (s : State) (b : Fin 8) (f : TimeBase → TimeBase) : (s.modTb b f).ports = s.ports := rfl
@[simp] theorem State.modTb_brood (s : State) (b : Fin 8) (f : TimeBase → TimeBase) : (s.modTb b f).brood = s.brood := rfl
@[simp] theorem State.modTb_sec (s : State) (b : Fin 8) (f : TimeBase → TimeBase) : (s.modTb b f).sec = s.sec := rfl
@[simp] theorem State.modTb_bist (s : State) (b : Fin 8) (f : TimeBase → TimeBase) : (s.modTb b f).bist = s.bist := rfl
@[simp] theorem State.modTb_dbg (s : State) (b : Fin 8) (f : TimeBase → TimeBase) : (s.modTb b f).dbg = s.dbg := rfl
@[simp] theorem State.modTb_starts (s : State) (b : Fin 8) (f : TimeBase → TimeBase) : (s.modTb b f).starts = s.starts := rfl
@[simp] theorem State.modTb_out (s : State) (b : Fin 8) (f : TimeBase → TimeBase) : (s.modTb b f).out = s.out := rfl
@[simp] theorem State.modTb_free (s : State) (b : Fin 8) (f : TimeBase → TimeBase) : (s.modTb b f).free = s.free := rfl
@[simp] theorem State.modTb_pending (s : State) (b : Fin 8) (f : TimeBase → TimeBase) : (s.modTb b f).pending = s.pending := rfl
@[simp] theorem State.modTb_tb (s : State) (b : Fin 8) (f : TimeBase → TimeBase) : (s.modTb b f).tb = upd s.tb b f := rfl

/-! `modBist`. -/

@[simp] theorem State.modBist_hif (s : State) (u : Fin 64) (f : BistUnit → BistUnit) : (s.modBist u f).hif = s.hif := rfl
@[simp] theorem State.modBist_rsc (s : State) (u : Fin 64) (f : BistUnit → BistUnit) : (s.modBist u f).rsc = s.rsc := rfl
@[simp] theorem State.modBist_queen (s : State) (u : Fin 64) (f : BistUnit → BistUnit) : (s.modBist u f).queen = s.queen := rfl
@[simp] theorem State.modBist_ev (s : State) (u : Fin 64) (f : BistUnit → BistUnit) : (s.modBist u f).ev = s.ev := rfl
@[simp] theorem State.modBist_pwr (s : State) (u : Fin 64) (f : BistUnit → BistUnit) : (s.modBist u f).pwr = s.pwr := rfl
@[simp] theorem State.modBist_clk (s : State) (u : Fin 64) (f : BistUnit → BistUnit) : (s.modBist u f).clk = s.clk := rfl
@[simp] theorem State.modBist_tb (s : State) (u : Fin 64) (f : BistUnit → BistUnit) : (s.modBist u f).tb = s.tb := rfl
@[simp] theorem State.modBist_servo (s : State) (u : Fin 64) (f : BistUnit → BistUnit) : (s.modBist u f).servo = s.servo := rfl
@[simp] theorem State.modBist_mem (s : State) (u : Fin 64) (f : BistUnit → BistUnit) : (s.modBist u f).mem = s.mem := rfl
@[simp] theorem State.modBist_net (s : State) (u : Fin 64) (f : BistUnit → BistUnit) : (s.modBist u f).net = s.net := rfl
@[simp] theorem State.modBist_swarm (s : State) (u : Fin 64) (f : BistUnit → BistUnit) : (s.modBist u f).swarm = s.swarm := rfl
@[simp] theorem State.modBist_cfg (s : State) (u : Fin 64) (f : BistUnit → BistUnit) : (s.modBist u f).cfg = s.cfg := rfl
@[simp] theorem State.modBist_fab (s : State) (u : Fin 64) (f : BistUnit → BistUnit) : (s.modBist u f).fab = s.fab := rfl
@[simp] theorem State.modBist_workers (s : State) (u : Fin 64) (f : BistUnit → BistUnit) : (s.modBist u f).workers = s.workers := rfl
@[simp] theorem State.modBist_groups (s : State) (u : Fin 64) (f : BistUnit → BistUnit) : (s.modBist u f).groups = s.groups := rfl
@[simp] theorem State.modBist_ports (s : State) (u : Fin 64) (f : BistUnit → BistUnit) : (s.modBist u f).ports = s.ports := rfl
@[simp] theorem State.modBist_brood (s : State) (u : Fin 64) (f : BistUnit → BistUnit) : (s.modBist u f).brood = s.brood := rfl
@[simp] theorem State.modBist_sec (s : State) (u : Fin 64) (f : BistUnit → BistUnit) : (s.modBist u f).sec = s.sec := rfl
@[simp] theorem State.modBist_dbg (s : State) (u : Fin 64) (f : BistUnit → BistUnit) : (s.modBist u f).dbg = s.dbg := rfl
@[simp] theorem State.modBist_starts (s : State) (u : Fin 64) (f : BistUnit → BistUnit) : (s.modBist u f).starts = s.starts := rfl
@[simp] theorem State.modBist_out (s : State) (u : Fin 64) (f : BistUnit → BistUnit) : (s.modBist u f).out = s.out := rfl
@[simp] theorem State.modBist_free (s : State) (u : Fin 64) (f : BistUnit → BistUnit) : (s.modBist u f).free = s.free := rfl
@[simp] theorem State.modBist_pending (s : State) (u : Fin 64) (f : BistUnit → BistUnit) : (s.modBist u f).pending = s.pending := rfl
@[simp] theorem State.modBist_bist_units (s : State) (u : Fin 64) (f : BistUnit → BistUnit) :
    (s.modBist u f).bist.units = upd s.bist.units u f := rfl
@[simp] theorem State.modBist_bist_run (s : State) (u : Fin 64) (f : BistUnit → BistUnit) : (s.modBist u f).bist.run = s.bist.run := rfl

/-! `modEv`. -/

@[simp] theorem State.modEv_hif (s : State) (e : Fin 256) (f : EvState → EvState) : (s.modEv e f).hif = s.hif := rfl
@[simp] theorem State.modEv_rsc (s : State) (e : Fin 256) (f : EvState → EvState) : (s.modEv e f).rsc = s.rsc := rfl
@[simp] theorem State.modEv_queen (s : State) (e : Fin 256) (f : EvState → EvState) : (s.modEv e f).queen = s.queen := rfl
@[simp] theorem State.modEv_pwr (s : State) (e : Fin 256) (f : EvState → EvState) : (s.modEv e f).pwr = s.pwr := rfl
@[simp] theorem State.modEv_clk (s : State) (e : Fin 256) (f : EvState → EvState) : (s.modEv e f).clk = s.clk := rfl
@[simp] theorem State.modEv_tb (s : State) (e : Fin 256) (f : EvState → EvState) : (s.modEv e f).tb = s.tb := rfl
@[simp] theorem State.modEv_servo (s : State) (e : Fin 256) (f : EvState → EvState) : (s.modEv e f).servo = s.servo := rfl
@[simp] theorem State.modEv_mem (s : State) (e : Fin 256) (f : EvState → EvState) : (s.modEv e f).mem = s.mem := rfl
@[simp] theorem State.modEv_net (s : State) (e : Fin 256) (f : EvState → EvState) : (s.modEv e f).net = s.net := rfl
@[simp] theorem State.modEv_swarm (s : State) (e : Fin 256) (f : EvState → EvState) : (s.modEv e f).swarm = s.swarm := rfl
@[simp] theorem State.modEv_cfg (s : State) (e : Fin 256) (f : EvState → EvState) : (s.modEv e f).cfg = s.cfg := rfl
@[simp] theorem State.modEv_fab (s : State) (e : Fin 256) (f : EvState → EvState) : (s.modEv e f).fab = s.fab := rfl
@[simp] theorem State.modEv_workers (s : State) (e : Fin 256) (f : EvState → EvState) : (s.modEv e f).workers = s.workers := rfl
@[simp] theorem State.modEv_groups (s : State) (e : Fin 256) (f : EvState → EvState) : (s.modEv e f).groups = s.groups := rfl
@[simp] theorem State.modEv_ports (s : State) (e : Fin 256) (f : EvState → EvState) : (s.modEv e f).ports = s.ports := rfl
@[simp] theorem State.modEv_brood (s : State) (e : Fin 256) (f : EvState → EvState) : (s.modEv e f).brood = s.brood := rfl
@[simp] theorem State.modEv_sec (s : State) (e : Fin 256) (f : EvState → EvState) : (s.modEv e f).sec = s.sec := rfl
@[simp] theorem State.modEv_bist (s : State) (e : Fin 256) (f : EvState → EvState) : (s.modEv e f).bist = s.bist := rfl
@[simp] theorem State.modEv_dbg (s : State) (e : Fin 256) (f : EvState → EvState) : (s.modEv e f).dbg = s.dbg := rfl
@[simp] theorem State.modEv_starts (s : State) (e : Fin 256) (f : EvState → EvState) : (s.modEv e f).starts = s.starts := rfl
@[simp] theorem State.modEv_out (s : State) (e : Fin 256) (f : EvState → EvState) : (s.modEv e f).out = s.out := rfl
@[simp] theorem State.modEv_free (s : State) (e : Fin 256) (f : EvState → EvState) : (s.modEv e f).free = s.free := rfl
@[simp] theorem State.modEv_pending (s : State) (e : Fin 256) (f : EvState → EvState) : (s.modEv e f).pending = s.pending := rfl
@[simp] theorem State.modEv_ev_src (s : State) (e : Fin 256) (f : EvState → EvState) :
    (s.modEv e f).ev.src = upd s.ev.src e f := rfl
@[simp] theorem State.modEv_ev_latch (s : State) (e : Fin 256) (f : EvState → EvState) : (s.modEv e f).ev.latch = s.ev.latch := rfl
@[simp] theorem State.modEv_ev_cycle (s : State) (e : Fin 256) (f : EvState → EvState) : (s.modEv e f).ev.cycle = s.ev.cycle := rfl

/-! `modMem`. -/

@[simp] theorem State.modMem_hif (s : State) (f : Mem → Mem) : (s.modMem f).hif = s.hif := rfl
@[simp] theorem State.modMem_rsc (s : State) (f : Mem → Mem) : (s.modMem f).rsc = s.rsc := rfl
@[simp] theorem State.modMem_queen (s : State) (f : Mem → Mem) : (s.modMem f).queen = s.queen := rfl
@[simp] theorem State.modMem_ev (s : State) (f : Mem → Mem) : (s.modMem f).ev = s.ev := rfl
@[simp] theorem State.modMem_pwr (s : State) (f : Mem → Mem) : (s.modMem f).pwr = s.pwr := rfl
@[simp] theorem State.modMem_clk (s : State) (f : Mem → Mem) : (s.modMem f).clk = s.clk := rfl
@[simp] theorem State.modMem_tb (s : State) (f : Mem → Mem) : (s.modMem f).tb = s.tb := rfl
@[simp] theorem State.modMem_servo (s : State) (f : Mem → Mem) : (s.modMem f).servo = s.servo := rfl
@[simp] theorem State.modMem_net (s : State) (f : Mem → Mem) : (s.modMem f).net = s.net := rfl
@[simp] theorem State.modMem_swarm (s : State) (f : Mem → Mem) : (s.modMem f).swarm = s.swarm := rfl
@[simp] theorem State.modMem_cfg (s : State) (f : Mem → Mem) : (s.modMem f).cfg = s.cfg := rfl
@[simp] theorem State.modMem_fab (s : State) (f : Mem → Mem) : (s.modMem f).fab = s.fab := rfl
@[simp] theorem State.modMem_workers (s : State) (f : Mem → Mem) : (s.modMem f).workers = s.workers := rfl
@[simp] theorem State.modMem_groups (s : State) (f : Mem → Mem) : (s.modMem f).groups = s.groups := rfl
@[simp] theorem State.modMem_ports (s : State) (f : Mem → Mem) : (s.modMem f).ports = s.ports := rfl
@[simp] theorem State.modMem_brood (s : State) (f : Mem → Mem) : (s.modMem f).brood = s.brood := rfl
@[simp] theorem State.modMem_sec (s : State) (f : Mem → Mem) : (s.modMem f).sec = s.sec := rfl
@[simp] theorem State.modMem_bist (s : State) (f : Mem → Mem) : (s.modMem f).bist = s.bist := rfl
@[simp] theorem State.modMem_dbg (s : State) (f : Mem → Mem) : (s.modMem f).dbg = s.dbg := rfl
@[simp] theorem State.modMem_starts (s : State) (f : Mem → Mem) : (s.modMem f).starts = s.starts := rfl
@[simp] theorem State.modMem_out (s : State) (f : Mem → Mem) : (s.modMem f).out = s.out := rfl
@[simp] theorem State.modMem_free (s : State) (f : Mem → Mem) : (s.modMem f).free = s.free := rfl
@[simp] theorem State.modMem_pending (s : State) (f : Mem → Mem) : (s.modMem f).pending = s.pending := rfl
@[simp] theorem State.modMem_mem (s : State) (f : Mem → Mem) : (s.modMem f).mem = f s.mem := rfl

/-! `emit`. -/

@[simp] theorem State.emit_hif (s : State) (o : Output) : (s.emit o).hif = s.hif := rfl
@[simp] theorem State.emit_rsc (s : State) (o : Output) : (s.emit o).rsc = s.rsc := rfl
@[simp] theorem State.emit_queen (s : State) (o : Output) : (s.emit o).queen = s.queen := rfl
@[simp] theorem State.emit_ev (s : State) (o : Output) : (s.emit o).ev = s.ev := rfl
@[simp] theorem State.emit_pwr (s : State) (o : Output) : (s.emit o).pwr = s.pwr := rfl
@[simp] theorem State.emit_clk (s : State) (o : Output) : (s.emit o).clk = s.clk := rfl
@[simp] theorem State.emit_tb (s : State) (o : Output) : (s.emit o).tb = s.tb := rfl
@[simp] theorem State.emit_servo (s : State) (o : Output) : (s.emit o).servo = s.servo := rfl
@[simp] theorem State.emit_mem (s : State) (o : Output) : (s.emit o).mem = s.mem := rfl
@[simp] theorem State.emit_net (s : State) (o : Output) : (s.emit o).net = s.net := rfl
@[simp] theorem State.emit_swarm (s : State) (o : Output) : (s.emit o).swarm = s.swarm := rfl
@[simp] theorem State.emit_cfg (s : State) (o : Output) : (s.emit o).cfg = s.cfg := rfl
@[simp] theorem State.emit_fab (s : State) (o : Output) : (s.emit o).fab = s.fab := rfl
@[simp] theorem State.emit_workers (s : State) (o : Output) : (s.emit o).workers = s.workers := rfl
@[simp] theorem State.emit_groups (s : State) (o : Output) : (s.emit o).groups = s.groups := rfl
@[simp] theorem State.emit_ports (s : State) (o : Output) : (s.emit o).ports = s.ports := rfl
@[simp] theorem State.emit_brood (s : State) (o : Output) : (s.emit o).brood = s.brood := rfl
@[simp] theorem State.emit_sec (s : State) (o : Output) : (s.emit o).sec = s.sec := rfl
@[simp] theorem State.emit_bist (s : State) (o : Output) : (s.emit o).bist = s.bist := rfl
@[simp] theorem State.emit_dbg (s : State) (o : Output) : (s.emit o).dbg = s.dbg := rfl
@[simp] theorem State.emit_starts (s : State) (o : Output) : (s.emit o).starts = s.starts := rfl
@[simp] theorem State.emit_free (s : State) (o : Output) : (s.emit o).free = s.free := rfl
@[simp] theorem State.emit_pending (s : State) (o : Output) : (s.emit o).pending = s.pending := rfl
@[simp] theorem State.emit_out (s : State) (o : Output) : (s.emit o).out = o :: s.out := rfl

/-! Raising an event, and drawing a free value. -/

@[simp] theorem State.raise_hif (s : State) (e : Fin 256) (sev unit det : Nat) : (s.raise e sev unit det).hif = s.hif := by
  unfold State.raise; dsimp only; split <;> rfl
@[simp] theorem State.raise_rsc (s : State) (e : Fin 256) (sev unit det : Nat) : (s.raise e sev unit det).rsc = s.rsc := by
  unfold State.raise; dsimp only; split <;> rfl
@[simp] theorem State.raise_queen (s : State) (e : Fin 256) (sev unit det : Nat) : (s.raise e sev unit det).queen = s.queen := by
  unfold State.raise; dsimp only; split <;> rfl
@[simp] theorem State.raise_pwr (s : State) (e : Fin 256) (sev unit det : Nat) : (s.raise e sev unit det).pwr = s.pwr := by
  unfold State.raise; dsimp only; split <;> rfl
@[simp] theorem State.raise_clk (s : State) (e : Fin 256) (sev unit det : Nat) : (s.raise e sev unit det).clk = s.clk := by
  unfold State.raise; dsimp only; split <;> rfl
@[simp] theorem State.raise_tb (s : State) (e : Fin 256) (sev unit det : Nat) : (s.raise e sev unit det).tb = s.tb := by
  unfold State.raise; dsimp only; split <;> rfl
@[simp] theorem State.raise_servo (s : State) (e : Fin 256) (sev unit det : Nat) : (s.raise e sev unit det).servo = s.servo := by
  unfold State.raise; dsimp only; split <;> rfl
@[simp] theorem State.raise_mem (s : State) (e : Fin 256) (sev unit det : Nat) : (s.raise e sev unit det).mem = s.mem := by
  unfold State.raise; dsimp only; split <;> rfl
@[simp] theorem State.raise_net (s : State) (e : Fin 256) (sev unit det : Nat) : (s.raise e sev unit det).net = s.net := by
  unfold State.raise; dsimp only; split <;> rfl
@[simp] theorem State.raise_swarm (s : State) (e : Fin 256) (sev unit det : Nat) : (s.raise e sev unit det).swarm = s.swarm := by
  unfold State.raise; dsimp only; split <;> rfl
@[simp] theorem State.raise_cfg (s : State) (e : Fin 256) (sev unit det : Nat) : (s.raise e sev unit det).cfg = s.cfg := by
  unfold State.raise; dsimp only; split <;> rfl
@[simp] theorem State.raise_fab (s : State) (e : Fin 256) (sev unit det : Nat) : (s.raise e sev unit det).fab = s.fab := by
  unfold State.raise; dsimp only; split <;> rfl
@[simp] theorem State.raise_workers (s : State) (e : Fin 256) (sev unit det : Nat) : (s.raise e sev unit det).workers = s.workers := by
  unfold State.raise; dsimp only; split <;> rfl
@[simp] theorem State.raise_groups (s : State) (e : Fin 256) (sev unit det : Nat) : (s.raise e sev unit det).groups = s.groups := by
  unfold State.raise; dsimp only; split <;> rfl
@[simp] theorem State.raise_ports (s : State) (e : Fin 256) (sev unit det : Nat) : (s.raise e sev unit det).ports = s.ports := by
  unfold State.raise; dsimp only; split <;> rfl
@[simp] theorem State.raise_brood (s : State) (e : Fin 256) (sev unit det : Nat) : (s.raise e sev unit det).brood = s.brood := by
  unfold State.raise; dsimp only; split <;> rfl
@[simp] theorem State.raise_sec (s : State) (e : Fin 256) (sev unit det : Nat) : (s.raise e sev unit det).sec = s.sec := by
  unfold State.raise; dsimp only; split <;> rfl
@[simp] theorem State.raise_bist (s : State) (e : Fin 256) (sev unit det : Nat) : (s.raise e sev unit det).bist = s.bist := by
  unfold State.raise; dsimp only; split <;> rfl
@[simp] theorem State.raise_dbg (s : State) (e : Fin 256) (sev unit det : Nat) : (s.raise e sev unit det).dbg = s.dbg := by
  unfold State.raise; dsimp only; split <;> rfl
@[simp] theorem State.raise_starts (s : State) (e : Fin 256) (sev unit det : Nat) : (s.raise e sev unit det).starts = s.starts := by
  unfold State.raise; dsimp only; split <;> rfl
@[simp] theorem State.raise_out (s : State) (e : Fin 256) (sev unit det : Nat) : (s.raise e sev unit det).out = s.out := by
  unfold State.raise; dsimp only; split <;> rfl
@[simp] theorem State.raise_free (s : State) (e : Fin 256) (sev unit det : Nat) : (s.raise e sev unit det).free = s.free := by
  unfold State.raise; dsimp only; split <;> rfl
@[simp] theorem State.raise_pending (s : State) (e : Fin 256) (sev unit det : Nat) : (s.raise e sev unit det).pending = s.pending := by
  unfold State.raise; dsimp only; split <;> rfl

/-- An event raised is active and counted; no other source changes. -/
theorem State.raise_src (s : State) (e : Fin 256) (sev unit det : Nat) :
    (s.raise e sev unit det).ev.src = upd s.ev.src e fun x => { x with active := true, count := satAdd x.count 1 } := by
  unfold State.raise; dsimp only; split <;> rfl

@[simp] theorem State.drawFree_hif (s : State) : s.drawFree.2.hif = s.hif := rfl
@[simp] theorem State.drawFree_rsc (s : State) : s.drawFree.2.rsc = s.rsc := rfl
@[simp] theorem State.drawFree_queen (s : State) : s.drawFree.2.queen = s.queen := rfl
@[simp] theorem State.drawFree_ev (s : State) : s.drawFree.2.ev = s.ev := rfl
@[simp] theorem State.drawFree_pwr (s : State) : s.drawFree.2.pwr = s.pwr := rfl
@[simp] theorem State.drawFree_clk (s : State) : s.drawFree.2.clk = s.clk := rfl
@[simp] theorem State.drawFree_tb (s : State) : s.drawFree.2.tb = s.tb := rfl
@[simp] theorem State.drawFree_servo (s : State) : s.drawFree.2.servo = s.servo := rfl
@[simp] theorem State.drawFree_mem (s : State) : s.drawFree.2.mem = s.mem := rfl
@[simp] theorem State.drawFree_net (s : State) : s.drawFree.2.net = s.net := rfl
@[simp] theorem State.drawFree_swarm (s : State) : s.drawFree.2.swarm = s.swarm := rfl
@[simp] theorem State.drawFree_cfg (s : State) : s.drawFree.2.cfg = s.cfg := rfl
@[simp] theorem State.drawFree_fab (s : State) : s.drawFree.2.fab = s.fab := rfl
@[simp] theorem State.drawFree_workers (s : State) : s.drawFree.2.workers = s.workers := rfl
@[simp] theorem State.drawFree_groups (s : State) : s.drawFree.2.groups = s.groups := rfl
@[simp] theorem State.drawFree_ports (s : State) : s.drawFree.2.ports = s.ports := rfl
@[simp] theorem State.drawFree_brood (s : State) : s.drawFree.2.brood = s.brood := rfl
@[simp] theorem State.drawFree_sec (s : State) : s.drawFree.2.sec = s.sec := rfl
@[simp] theorem State.drawFree_bist (s : State) : s.drawFree.2.bist = s.bist := rfl
@[simp] theorem State.drawFree_dbg (s : State) : s.drawFree.2.dbg = s.dbg := rfl
@[simp] theorem State.drawFree_starts (s : State) : s.drawFree.2.starts = s.starts := rfl
@[simp] theorem State.drawFree_out (s : State) : s.drawFree.2.out = s.out := rfl
@[simp] theorem State.drawFree_pending (s : State) : s.drawFree.2.pending = s.pending := rfl
@[simp] theorem State.drawFree_free (s : State) : s.drawFree.2.free = s.free + 1 := rfl

/-! The jobs of the Queen core, and a packet leaving the ring (02, R28, R41). -/

@[simp] theorem State.addJob_hif (s : State) (j : Job) : (s.addJob j).hif = s.hif := rfl
@[simp] theorem State.addJob_rsc (s : State) (j : Job) : (s.addJob j).rsc = s.rsc := rfl
@[simp] theorem State.addJob_ev (s : State) (j : Job) : (s.addJob j).ev = s.ev := rfl
@[simp] theorem State.addJob_pwr (s : State) (j : Job) : (s.addJob j).pwr = s.pwr := rfl
@[simp] theorem State.addJob_clk (s : State) (j : Job) : (s.addJob j).clk = s.clk := rfl
@[simp] theorem State.addJob_tb (s : State) (j : Job) : (s.addJob j).tb = s.tb := rfl
@[simp] theorem State.addJob_servo (s : State) (j : Job) : (s.addJob j).servo = s.servo := rfl
@[simp] theorem State.addJob_mem (s : State) (j : Job) : (s.addJob j).mem = s.mem := rfl
@[simp] theorem State.addJob_net (s : State) (j : Job) : (s.addJob j).net = s.net := rfl
@[simp] theorem State.addJob_swarm (s : State) (j : Job) : (s.addJob j).swarm = s.swarm := rfl
@[simp] theorem State.addJob_cfg (s : State) (j : Job) : (s.addJob j).cfg = s.cfg := rfl
@[simp] theorem State.addJob_fab (s : State) (j : Job) : (s.addJob j).fab = s.fab := rfl
@[simp] theorem State.addJob_workers (s : State) (j : Job) : (s.addJob j).workers = s.workers := rfl
@[simp] theorem State.addJob_groups (s : State) (j : Job) : (s.addJob j).groups = s.groups := rfl
@[simp] theorem State.addJob_ports (s : State) (j : Job) : (s.addJob j).ports = s.ports := rfl
@[simp] theorem State.addJob_brood (s : State) (j : Job) : (s.addJob j).brood = s.brood := rfl
@[simp] theorem State.addJob_sec (s : State) (j : Job) : (s.addJob j).sec = s.sec := rfl
@[simp] theorem State.addJob_bist (s : State) (j : Job) : (s.addJob j).bist = s.bist := rfl
@[simp] theorem State.addJob_dbg (s : State) (j : Job) : (s.addJob j).dbg = s.dbg := rfl
@[simp] theorem State.addJob_starts (s : State) (j : Job) : (s.addJob j).starts = s.starts := rfl
@[simp] theorem State.addJob_out (s : State) (j : Job) : (s.addJob j).out = s.out := rfl
@[simp] theorem State.addJob_free (s : State) (j : Job) : (s.addJob j).free = s.free := rfl
@[simp] theorem State.addJob_pending (s : State) (j : Job) : (s.addJob j).pending = s.pending := rfl
@[simp] theorem State.addJob_queen_up (s : State) (j : Job) : (s.addJob j).queen.up = s.queen.up := rfl
@[simp] theorem State.addJob_queen_halted (s : State) (j : Job) : (s.addJob j).queen.halted = s.queen.halted := rfl
@[simp] theorem State.addJob_queen_dbgHalt (s : State) (j : Job) : (s.addJob j).queen.dbgHalt = s.queen.dbgHalt := rfl
@[simp] theorem State.addJob_queen_refused (s : State) (j : Job) : (s.addJob j).queen.refused = s.queen.refused := rfl
@[simp] theorem State.addJob_queen_fwVersion (s : State) (j : Job) : (s.addJob j).queen.fwVersion = s.queen.fwVersion := rfl
@[simp] theorem State.addJob_queen_replies (s : State) (j : Job) : (s.addJob j).queen.replies = s.queen.replies := rfl
@[simp] theorem State.addJob_queen_i2cReplies (s : State) (j : Job) : (s.addJob j).queen.i2cReplies = s.queen.i2cReplies := rfl
@[simp] theorem State.addJob_queen_stopJobs (s : State) (j : Job) : (s.addJob j).queen.stopJobs = s.queen.stopJobs := rfl
@[simp] theorem State.addJob_queen_cal (s : State) (j : Job) : (s.addJob j).queen.cal = s.queen.cal := rfl
@[simp] theorem State.addJob_queen_due (s : State) (j : Job) : (s.addJob j).queen.due = s.queen.due := rfl
@[simp] theorem State.addJob_queen_regs (s : State) (j : Job) : (s.addJob j).queen.regs = s.queen.regs := rfl
@[simp] theorem State.addJob_queen_sems (s : State) (j : Job) : (s.addJob j).queen.sems = s.queen.sems := rfl
@[simp] theorem State.setJob_hif (s : State) (j : Job) : (s.setJob j).hif = s.hif := rfl
@[simp] theorem State.setJob_rsc (s : State) (j : Job) : (s.setJob j).rsc = s.rsc := rfl
@[simp] theorem State.setJob_ev (s : State) (j : Job) : (s.setJob j).ev = s.ev := rfl
@[simp] theorem State.setJob_pwr (s : State) (j : Job) : (s.setJob j).pwr = s.pwr := rfl
@[simp] theorem State.setJob_clk (s : State) (j : Job) : (s.setJob j).clk = s.clk := rfl
@[simp] theorem State.setJob_tb (s : State) (j : Job) : (s.setJob j).tb = s.tb := rfl
@[simp] theorem State.setJob_servo (s : State) (j : Job) : (s.setJob j).servo = s.servo := rfl
@[simp] theorem State.setJob_mem (s : State) (j : Job) : (s.setJob j).mem = s.mem := rfl
@[simp] theorem State.setJob_net (s : State) (j : Job) : (s.setJob j).net = s.net := rfl
@[simp] theorem State.setJob_swarm (s : State) (j : Job) : (s.setJob j).swarm = s.swarm := rfl
@[simp] theorem State.setJob_cfg (s : State) (j : Job) : (s.setJob j).cfg = s.cfg := rfl
@[simp] theorem State.setJob_fab (s : State) (j : Job) : (s.setJob j).fab = s.fab := rfl
@[simp] theorem State.setJob_workers (s : State) (j : Job) : (s.setJob j).workers = s.workers := rfl
@[simp] theorem State.setJob_groups (s : State) (j : Job) : (s.setJob j).groups = s.groups := rfl
@[simp] theorem State.setJob_ports (s : State) (j : Job) : (s.setJob j).ports = s.ports := rfl
@[simp] theorem State.setJob_brood (s : State) (j : Job) : (s.setJob j).brood = s.brood := rfl
@[simp] theorem State.setJob_sec (s : State) (j : Job) : (s.setJob j).sec = s.sec := rfl
@[simp] theorem State.setJob_bist (s : State) (j : Job) : (s.setJob j).bist = s.bist := rfl
@[simp] theorem State.setJob_dbg (s : State) (j : Job) : (s.setJob j).dbg = s.dbg := rfl
@[simp] theorem State.setJob_starts (s : State) (j : Job) : (s.setJob j).starts = s.starts := rfl
@[simp] theorem State.setJob_out (s : State) (j : Job) : (s.setJob j).out = s.out := rfl
@[simp] theorem State.setJob_free (s : State) (j : Job) : (s.setJob j).free = s.free := rfl
@[simp] theorem State.setJob_pending (s : State) (j : Job) : (s.setJob j).pending = s.pending := rfl
@[simp] theorem State.setJob_queen_up (s : State) (j : Job) : (s.setJob j).queen.up = s.queen.up := rfl
@[simp] theorem State.setJob_queen_halted (s : State) (j : Job) : (s.setJob j).queen.halted = s.queen.halted := rfl
@[simp] theorem State.setJob_queen_dbgHalt (s : State) (j : Job) : (s.setJob j).queen.dbgHalt = s.queen.dbgHalt := rfl
@[simp] theorem State.setJob_queen_refused (s : State) (j : Job) : (s.setJob j).queen.refused = s.queen.refused := rfl
@[simp] theorem State.setJob_queen_fwVersion (s : State) (j : Job) : (s.setJob j).queen.fwVersion = s.queen.fwVersion := rfl
@[simp] theorem State.setJob_queen_replies (s : State) (j : Job) : (s.setJob j).queen.replies = s.queen.replies := rfl
@[simp] theorem State.setJob_queen_i2cReplies (s : State) (j : Job) : (s.setJob j).queen.i2cReplies = s.queen.i2cReplies := rfl
@[simp] theorem State.setJob_queen_stopJobs (s : State) (j : Job) : (s.setJob j).queen.stopJobs = s.queen.stopJobs := rfl
@[simp] theorem State.setJob_queen_cal (s : State) (j : Job) : (s.setJob j).queen.cal = s.queen.cal := rfl
@[simp] theorem State.setJob_queen_due (s : State) (j : Job) : (s.setJob j).queen.due = s.queen.due := rfl
@[simp] theorem State.setJob_queen_regs (s : State) (j : Job) : (s.setJob j).queen.regs = s.queen.regs := rfl
@[simp] theorem State.setJob_queen_sems (s : State) (j : Job) : (s.setJob j).queen.sems = s.queen.sems := rfl
@[simp] theorem State.dropJob_hif (s : State) (k : JobKey) : (s.dropJob k).hif = s.hif := rfl
@[simp] theorem State.dropJob_rsc (s : State) (k : JobKey) : (s.dropJob k).rsc = s.rsc := rfl
@[simp] theorem State.dropJob_ev (s : State) (k : JobKey) : (s.dropJob k).ev = s.ev := rfl
@[simp] theorem State.dropJob_pwr (s : State) (k : JobKey) : (s.dropJob k).pwr = s.pwr := rfl
@[simp] theorem State.dropJob_clk (s : State) (k : JobKey) : (s.dropJob k).clk = s.clk := rfl
@[simp] theorem State.dropJob_tb (s : State) (k : JobKey) : (s.dropJob k).tb = s.tb := rfl
@[simp] theorem State.dropJob_servo (s : State) (k : JobKey) : (s.dropJob k).servo = s.servo := rfl
@[simp] theorem State.dropJob_mem (s : State) (k : JobKey) : (s.dropJob k).mem = s.mem := rfl
@[simp] theorem State.dropJob_net (s : State) (k : JobKey) : (s.dropJob k).net = s.net := rfl
@[simp] theorem State.dropJob_swarm (s : State) (k : JobKey) : (s.dropJob k).swarm = s.swarm := rfl
@[simp] theorem State.dropJob_cfg (s : State) (k : JobKey) : (s.dropJob k).cfg = s.cfg := rfl
@[simp] theorem State.dropJob_fab (s : State) (k : JobKey) : (s.dropJob k).fab = s.fab := rfl
@[simp] theorem State.dropJob_workers (s : State) (k : JobKey) : (s.dropJob k).workers = s.workers := rfl
@[simp] theorem State.dropJob_groups (s : State) (k : JobKey) : (s.dropJob k).groups = s.groups := rfl
@[simp] theorem State.dropJob_ports (s : State) (k : JobKey) : (s.dropJob k).ports = s.ports := rfl
@[simp] theorem State.dropJob_brood (s : State) (k : JobKey) : (s.dropJob k).brood = s.brood := rfl
@[simp] theorem State.dropJob_sec (s : State) (k : JobKey) : (s.dropJob k).sec = s.sec := rfl
@[simp] theorem State.dropJob_bist (s : State) (k : JobKey) : (s.dropJob k).bist = s.bist := rfl
@[simp] theorem State.dropJob_dbg (s : State) (k : JobKey) : (s.dropJob k).dbg = s.dbg := rfl
@[simp] theorem State.dropJob_starts (s : State) (k : JobKey) : (s.dropJob k).starts = s.starts := rfl
@[simp] theorem State.dropJob_out (s : State) (k : JobKey) : (s.dropJob k).out = s.out := rfl
@[simp] theorem State.dropJob_free (s : State) (k : JobKey) : (s.dropJob k).free = s.free := rfl
@[simp] theorem State.dropJob_pending (s : State) (k : JobKey) : (s.dropJob k).pending = s.pending := rfl
@[simp] theorem State.dropJob_queen_up (s : State) (k : JobKey) : (s.dropJob k).queen.up = s.queen.up := rfl
@[simp] theorem State.dropJob_queen_halted (s : State) (k : JobKey) : (s.dropJob k).queen.halted = s.queen.halted := rfl
@[simp] theorem State.dropJob_queen_dbgHalt (s : State) (k : JobKey) : (s.dropJob k).queen.dbgHalt = s.queen.dbgHalt := rfl
@[simp] theorem State.dropJob_queen_refused (s : State) (k : JobKey) : (s.dropJob k).queen.refused = s.queen.refused := rfl
@[simp] theorem State.dropJob_queen_fwVersion (s : State) (k : JobKey) : (s.dropJob k).queen.fwVersion = s.queen.fwVersion := rfl
@[simp] theorem State.dropJob_queen_replies (s : State) (k : JobKey) : (s.dropJob k).queen.replies = s.queen.replies := rfl
@[simp] theorem State.dropJob_queen_i2cReplies (s : State) (k : JobKey) : (s.dropJob k).queen.i2cReplies = s.queen.i2cReplies := rfl
@[simp] theorem State.dropJob_queen_stopJobs (s : State) (k : JobKey) : (s.dropJob k).queen.stopJobs = s.queen.stopJobs := rfl
@[simp] theorem State.dropJob_queen_cal (s : State) (k : JobKey) : (s.dropJob k).queen.cal = s.queen.cal := rfl
@[simp] theorem State.dropJob_queen_due (s : State) (k : JobKey) : (s.dropJob k).queen.due = s.queen.due := rfl
@[simp] theorem State.dropJob_queen_regs (s : State) (k : JobKey) : (s.dropJob k).queen.regs = s.queen.regs := rfl
@[simp] theorem State.dropJob_queen_sems (s : State) (k : JobKey) : (s.dropJob k).queen.sems = s.queen.sems := rfl
@[simp] theorem State.consume_rsc (s : State) (p : Pkt) : (s.consume p).rsc = s.rsc := rfl
@[simp] theorem State.consume_queen (s : State) (p : Pkt) : (s.consume p).queen = s.queen := rfl
@[simp] theorem State.consume_ev (s : State) (p : Pkt) : (s.consume p).ev = s.ev := rfl
@[simp] theorem State.consume_pwr (s : State) (p : Pkt) : (s.consume p).pwr = s.pwr := rfl
@[simp] theorem State.consume_clk (s : State) (p : Pkt) : (s.consume p).clk = s.clk := rfl
@[simp] theorem State.consume_tb (s : State) (p : Pkt) : (s.consume p).tb = s.tb := rfl
@[simp] theorem State.consume_servo (s : State) (p : Pkt) : (s.consume p).servo = s.servo := rfl
@[simp] theorem State.consume_mem (s : State) (p : Pkt) : (s.consume p).mem = s.mem := rfl
@[simp] theorem State.consume_net (s : State) (p : Pkt) : (s.consume p).net = s.net := rfl
@[simp] theorem State.consume_swarm (s : State) (p : Pkt) : (s.consume p).swarm = s.swarm := rfl
@[simp] theorem State.consume_cfg (s : State) (p : Pkt) : (s.consume p).cfg = s.cfg := rfl
@[simp] theorem State.consume_fab (s : State) (p : Pkt) : (s.consume p).fab = s.fab := rfl
@[simp] theorem State.consume_workers (s : State) (p : Pkt) : (s.consume p).workers = s.workers := rfl
@[simp] theorem State.consume_groups (s : State) (p : Pkt) : (s.consume p).groups = s.groups := rfl
@[simp] theorem State.consume_ports (s : State) (p : Pkt) : (s.consume p).ports = s.ports := rfl
@[simp] theorem State.consume_brood (s : State) (p : Pkt) : (s.consume p).brood = s.brood := rfl
@[simp] theorem State.consume_sec (s : State) (p : Pkt) : (s.consume p).sec = s.sec := rfl
@[simp] theorem State.consume_bist (s : State) (p : Pkt) : (s.consume p).bist = s.bist := rfl
@[simp] theorem State.consume_dbg (s : State) (p : Pkt) : (s.consume p).dbg = s.dbg := rfl
@[simp] theorem State.consume_starts (s : State) (p : Pkt) : (s.consume p).starts = s.starts := rfl
@[simp] theorem State.consume_out (s : State) (p : Pkt) : (s.consume p).out = s.out := rfl
@[simp] theorem State.consume_free (s : State) (p : Pkt) : (s.consume p).free = s.free := rfl
@[simp] theorem State.consume_pending (s : State) (p : Pkt) : (s.consume p).pending = s.pending := rfl
@[simp] theorem State.consume_hif_subEn (s : State) (p : Pkt) : (s.consume p).hif.subEn = s.hif.subEn := rfl
@[simp] theorem State.consume_hif_repEn (s : State) (p : Pkt) : (s.consume p).hif.repEn = s.hif.repEn := rfl
@[simp] theorem State.consume_hif_evtEn (s : State) (p : Pkt) : (s.consume p).hif.evtEn = s.hif.evtEn := rfl
@[simp] theorem State.consume_hif_err (s : State) (p : Pkt) : (s.consume p).hif.err = s.hif.err := rfl
@[simp] theorem State.consume_hif_subBase (s : State) (p : Pkt) : (s.consume p).hif.subBase = s.hif.subBase := rfl
@[simp] theorem State.consume_hif_repBase (s : State) (p : Pkt) : (s.consume p).hif.repBase = s.hif.repBase := rfl
@[simp] theorem State.consume_hif_evtBase (s : State) (p : Pkt) : (s.consume p).hif.evtBase = s.hif.evtBase := rfl
@[simp] theorem State.consume_hif_subSize (s : State) (p : Pkt) : (s.consume p).hif.subSize = s.hif.subSize := rfl
@[simp] theorem State.consume_hif_repSize (s : State) (p : Pkt) : (s.consume p).hif.repSize = s.hif.repSize := rfl
@[simp] theorem State.consume_hif_evtSize (s : State) (p : Pkt) : (s.consume p).hif.evtSize = s.hif.evtSize := rfl
@[simp] theorem State.consume_hif_subBell (s : State) (p : Pkt) : (s.consume p).hif.subBell = s.hif.subBell := rfl
@[simp] theorem State.consume_hif_repTail (s : State) (p : Pkt) : (s.consume p).hif.repTail = s.hif.repTail := rfl
@[simp] theorem State.consume_hif_repBell (s : State) (p : Pkt) : (s.consume p).hif.repBell = s.hif.repBell := rfl
@[simp] theorem State.consume_hif_evtTail (s : State) (p : Pkt) : (s.consume p).hif.evtTail = s.hif.evtTail := rfl
@[simp] theorem State.consume_hif_evtBell (s : State) (p : Pkt) : (s.consume p).hif.evtBell = s.hif.evtBell := rfl
@[simp] theorem State.consume_hif_subResync (s : State) (p : Pkt) : (s.consume p).hif.subResync = s.hif.subResync := rfl
@[simp] theorem State.consume_hif_irqHoldoff (s : State) (p : Pkt) : (s.consume p).hif.irqHoldoff = s.hif.irqHoldoff := rfl
@[simp] theorem State.consume_hif_msixTable (s : State) (p : Pkt) : (s.consume p).hif.msixTable = s.hif.msixTable := rfl
@[simp] theorem State.consume_hif_msixPba (s : State) (p : Pkt) : (s.consume p).hif.msixPba = s.hif.msixPba := rfl
@[simp] theorem State.consume_hif_msixGap (s : State) (p : Pkt) : (s.consume p).hif.msixGap = s.hif.msixGap := rfl
@[simp] theorem State.consume_hif_subHold (s : State) (p : Pkt) : (s.consume p).hif.subHold = s.hif.subHold := rfl
@[simp] theorem State.consume_hif_pcieUp (s : State) (p : Pkt) : (s.consume p).hif.pcieUp = s.hif.pcieUp := rfl
@[simp] theorem State.consume_hif_crs (s : State) (p : Pkt) : (s.consume p).hif.crs = s.hif.crs := rfl
@[simp] theorem State.consume_hif_ptmOn (s : State) (p : Pkt) : (s.consume p).hif.ptmOn = s.hif.ptmOn := rfl
@[simp] theorem State.addJob_queen_jobs (s : State) (j : Job) : (s.addJob j).queen.jobs = s.queen.jobs ++ [j] := rfl
@[simp] theorem State.dropJob_queen_jobs (s : State) (k : JobKey) :
    (s.dropJob k).queen.jobs = s.queen.jobs.filter fun j => !sameKey j.key k := rfl

end Sys2Proof.Machine
end

