-- ==== Sys2Proof/Laws/Kept.lean ====
section
/-! SUPPORT. What a shared operation never changes: the row queue keeps its order, device memory stays canonical, the rings and
the time bases stay legal. One lemma for each operation, in a form that chains: what is kept so far is kept after it. -/

namespace Sys2Proof.Machine

set_option linter.unusedTactic false
set_option linter.unreachableTactic false
set_option linter.unusedVariables false

/-- What every operation keeps, from a state to a later one. -/
structure Kept (s t : State) : Prop where
  pending : t.pending = s.pending
  memory  : s.mem.wf = true → t.mem.wf = true
  rings   : s.hif.Legal → t.hif.Legal
  time    : s.timeLegal → t.timeLegal

theorem Kept.refl (s : State) : Kept s s := ⟨rfl, id, id, id⟩

theorem Kept.trans {s t u : State} (h : Kept s t) (k : Kept t u) : Kept s u :=
  ⟨k.pending.trans h.pending, k.memory ∘ h.memory, k.rings ∘ h.rings, k.time ∘ h.time⟩

/-- A change of what none of the four looks at. -/
theorem Kept.same {s t u : State} (h : Kept s t) (hp : u.pending = t.pending) (hm : u.mem = t.mem) (hh : u.hif = t.hif)
    (ht : u.tb = t.tb) : Kept s u where
  pending := hp.trans h.pending
  memory w := by rw [hm]; exact h.memory w
  rings l := by rw [hh]; exact h.rings l
  time l := by unfold State.timeLegal; rw [ht]; exact h.time l

theorem Kept.upd {s t : State}
    (h : Kept s t) {rsc queen ev pwr clk servo net swarm cfg fab workers groups ports brood sec bist dbg
    starts out free} :
    Kept s { hif := t.hif, rsc := rsc, queen := queen, ev := ev, pwr := pwr, clk := clk, tb := t.tb, servo := servo, mem := t.mem
             net := net, swarm := swarm, cfg := cfg, fab := fab, workers := workers, groups := groups, ports := ports
             brood := brood, sec := sec, bist := bist, dbg := dbg, starts := starts, out := out, free := free
             pending := t.pending } :=
  h.same rfl rfl rfl rfl

theorem Kept.ite {s a b : State} {c : Prop} [Decidable c] (ha : Kept s a) (hb : Kept s b) : Kept s (if c then a else b) := by
  split <;> assumption

theorem Kept.ite' {s a b : State} {c : Prop} [Decidable c] (ha : c → Kept s a) (hb : ¬c → Kept s b) : Kept s
    (if c then a else b) := by
  split
  · exact ha ‹_›
  · exact hb ‹_›

theorem Kept.forAll {ι : Type} {s t : State} (l : List ι) (f : ι → State → State) (h : Kept s t)
    (hf : ∀ i u, Kept s u → Kept s (f i u)) : Kept s (forAll l f t) := by
  unfold Machine.forAll
  induction l generalizing t with
  | nil => exact h
  | cons i l ih => exact ih (hf i t h)

theorem Kept.foldl {ι : Type} {s t : State} (l : List ι) (f : State → ι → State) (h : Kept s t)
    (hf : ∀ i u, Kept s u → Kept s (f u i)) : Kept s (l.foldl f t) := by
  induction l generalizing t with
  | nil => exact h
  | cons i l ih => exact ih (hf i t h)

/-- A change of the host interface that keeps the rings legal. -/
theorem Kept.updHif {s t : State} (h : Kept s t) {hif : Hif}
    (hl : t.hif.Legal → hif.Legal) {rsc queen ev pwr clk servo net swarm cfg
    fab workers groups ports brood sec bist dbg starts out free} :
    Kept s { hif := hif, rsc := rsc, queen := queen, ev := ev, pwr := pwr, clk := clk, tb := t.tb, servo := servo, mem := t.mem
             net := net, swarm := swarm, cfg := cfg, fab := fab, workers := workers, groups := groups, ports := ports
             brood := brood, sec := sec, bist := bist, dbg := dbg, starts := starts, out := out, free := free
             pending := t.pending } :=
  ⟨h.pending, h.memory, hl ∘ h.rings, h.time⟩

/-- A change of memory that keeps it canonical. -/
theorem Kept.updMem {s t : State} (h : Kept s t) {mem : Mem}
    (hl : t.mem.wf = true → mem.wf = true) {rsc queen ev pwr clk servo net
    swarm cfg fab workers groups ports brood sec bist dbg starts out free} :
    Kept s { hif := t.hif, rsc := rsc, queen := queen, ev := ev, pwr := pwr, clk := clk, tb := t.tb, servo := servo, mem := mem
             net := net, swarm := swarm, cfg := cfg, fab := fab, workers := workers, groups := groups, ports := ports
             brood := brood, sec := sec, bist := bist, dbg := dbg, starts := starts, out := out, free := free
             pending := t.pending } :=
  ⟨h.pending, hl ∘ h.memory, h.rings, h.time⟩

theorem Kept.prod2 {α : Type} {s : State} {p : α × State} {a : α} {u : State} (h : Kept s p.2) (e : p =
    (a, u)) : Kept s u := by
  rw [e] at h; exact h

theorem Kept.prod1 {α : Type} {s : State} {p : State × α} {a : α} {u : State} (h : Kept s p.1) (e : p =
    (u, a)) : Kept s u := by
  rw [e] at h; exact h

theorem Kept.prodS {α : Type} {s : State} {p : Served × α} {a : α} {r : Served} (h : Kept s p.1.st) (e : p =
    (r, a)) : Kept s r.st := by
  rw [e] at h; exact h

theorem Kept.prod22 {α β : Type} {s : State} {p : α × β × State} {a : α} {b : β} {u : State} (h : Kept s p.2.2)
    (e : p = (a, b, u)) : Kept s u := by
  rw [e] at h; exact h

/-- A fold whose accumulator carries the state. -/
theorem Kept.foldlOf {ι α : Type} {s : State} (π : α → State) (l : List ι) (f : α → ι → α) {a : α} (h : Kept s (π a))
    (hf : ∀ i a, Kept s (π a) → Kept s (π (f a i))) : Kept s (π (l.foldl f a)) := by
  induction l generalizing a with
  | nil => exact h
  | cons i l ih => exact ih (hf i a h)

theorem Kept.iter {s t : State} (f : State → State) (n : Nat) (h : Kept s t) (hf : ∀ u, Kept s u → Kept s (f u)) :
    Kept s (iter f n t) := by
  induction n generalizing t with
  | zero => exact h
  | succ n ih => exact ih (hf t h)

/-! Memory (02, R23). -/

theorem Mem.fold_wf {ι : Type} (l : List ι) (f : Mem → ι → Mem) (m : Mem) (h : m.wf = true)
    (hf : ∀ i m, m.wf = true → (f m i).wf = true) : (l.foldl f m).wf = true := by
  induction l generalizing m with
  | nil => exact h
  | cons i l ih => exact ih _ (hf i m h)

theorem Mem.dropStacks_wf (m : Mem) (on : Fin 4 → Bool) (h : m.wf = true) : (m.dropStacks on).wf = true :=
  filter_wf _ _ h (fun _ _ _ h => h)

theorem Mem.writeBack_wf (m : Mem) (c : Nat) (h : m.wf = true) : (m.writeBack c).wf = true := h

theorem Mem.writeBackStack_wf (m : Mem) (n : Fin 4) (h : m.wf = true) : (m.writeBackStack n).wf = true :=
  Mem.fold_wf _ _ _ h fun _ _ h => Mem.fold_wf _ _ _ h fun _ _ h => h

theorem Mem.evict_wf (m : Mem) (hold : Nat → Bool) (h : m.wf = true) : (m.evict hold).wf = true := by
  unfold Mem.evict
  split
  · exact h
  · split
    · exact h
    · dsimp only; split <;> exact h

theorem Mem.walk_wf (m : Mem) (hold : Nat → Bool) (n : Fin 4) (i : Nat) (h : m.wf = true) : (m.walk hold n i).wf = true := by
  refine Mem.fold_wf _ _ _ h fun c m h => ?_
  split
  · exact h
  · exact Mem.evict_wf _ _ h

theorem Mem.sealBlock_wf (m : Mem) (b : Nat) (h : m.wf = true) : (m.sealBlock b).wf = true := h

theorem Mem.putImage_wf (m : Mem) (w : Fin 32) (prog x : Nat) (image : Bytes) (h : m.wf = true) :
    (m.putImage w prog x image).wf = true :=
  Mem.write_wf _ _ _ (Mem.write_wf _ _ _ (Mem.write_wf _ _ _ (Mem.lose_wf _ _ _ _ h)))

theorem State.writeOpen_wf (s : State) (a : Nat) (bs : Bytes) (h : s.mem.wf = true) : (s.writeOpen a bs).wf = true := by
  refine Mem.fold_wf _ _ _ h fun e m h => ?_
  split
  · exact h
  · exact Mem.put_wf _ _ _ h

/-! Time bases and rings (11, R330; 02, R25, R27). -/

theorem TimeBase.withValue_ns (b : TimeBase) (v : Nat) : (b.withValue v).ns.toNat < 1000000000 := by
  show (BitVec.ofNat 30 (v / 4294967296 % 1000000000)).toNat < 1000000000
  rw [BitVec.toNat_ofNat]
  omega

theorem State.timeLegal_map {s : State} {f : TimeBase → TimeBase} (hf : ∀ x, x.ns.toNat < 1000000000 →
    (f x).ns.toNat < 1000000000)
    (h : s.timeLegal) (b : Fin 8) : (s.tb.map f)[b.val].ns.toNat < 1000000000 := by
  simpa using hf _ (h b)

theorem reset_timeLegal : State.reset.timeLegal := by unfold State.timeLegal; decide

theorem RingLegal.off {size : BitVec 5} {base : BitVec 64} {en : Bool} {used : BitVec 32} (h : RingLegal size base en used)
    {used' : BitVec 32} : RingLegal size base false used' := ⟨h.inSize, h.onPage, fun e => nomatch e⟩

theorem RingLegal.empty {size : BitVec 5} {base : BitVec 64} {en : Bool} {used : BitVec 32}
    (h : RingLegal size base en used) :
    RingLegal size base true (0 - 0) := ⟨h.inSize, h.onPage, fun _ => Nat.zero_le _⟩

theorem RingLegal.room {size : BitVec 5} {base : BitVec 64} {en : Bool} {used : BitVec 32} (h : RingLegal size base en used)
    {used' : BitVec 32} (hu : used'.toNat ≤ 2 ^ size.toNat) : RingLegal size base en used' := ⟨h.inSize, h.onPage, fun _ => hu⟩

theorem baseWord_onPage (b : BitVec 64) (high : Bool) (v : Word) (h : b.toNat % 4096 = 0) :
    (baseWord b high v).toNat % 4096 = 0 := by
  have := b.isLt
  have := v.isLt
  unfold baseWord
  split <;> rw [BitVec.toNat_ofNat] <;> omega

theorem sizeApplied_inSize (v : Word) : 7 ≤ (sizeApplied v).toNat ∧ (sizeApplied v).toNat ≤ 19 := by
  unfold sizeApplied clampNat
  rw [BitVec.toNat_ofNat]
  split
  · omega
  · split <;> omega

theorem Hif.reset_legal : Hif.reset.Legal := ⟨⟨by decide, by decide, by decide⟩, ⟨by decide, by decide, by decide⟩, ⟨by decide, by decide, by decide⟩⟩

/-! What a command's effect keeps, and what a row keeps. -/

/-- The state of what a command's processing came to is kept. -/
inductive Act.Keeps (s : State) : Act → Prop
  | done {u : State} (h : Kept s u) (r : Words) : Act.Keeps s (.done u r)
  | close {u : State} (h : Kept s u) (v : Verdict) (e : Bool) (r : Words) : Act.Keeps s (.close u v e r)
  | stay {u : State} (h : Kept s u) : Act.Keeps s (.stay u)

theorem Act.keeps_ite {s : State} {a b : Act} {c : Prop} [Decidable c] (ha : a.Keeps s) (hb : b.Keeps s) :
    (if c then a else b).Keeps s := by split <;> assumption

/-- A command's effect, and what its refusal does, keep what every operation keeps. -/
structure CmdDef.Good (d : CmdDef) : Prop where
  act : ∀ (j : Job) (s t : State), Kept s t → (d.act j t).Keeps s
  refused : ∀ (j : Job) (v : Verdict) (s t : State), Kept s t → Kept s (d.refused j v t)

/-- A row answers a next state, and it is kept. -/
inductive KeptOut (s : State) : Host.Outcome State Fault Refusal → Prop
  | next {t : State} (h : Kept s t) : KeptOut s (.next t)

theorem KeptOut.ite {s : State} {a b : Host.Outcome State Fault Refusal} {c : Prop} [Decidable c] (ha : KeptOut s a)
    (hb : KeptOut s b) : KeptOut s (if c then a else b) := by split <;> assumption

theorem KeptOut.ite' {s : State} {a b : Host.Outcome State Fault Refusal} {c : Prop} [Decidable c] (ha : c → KeptOut s a)
    (hb : ¬c → KeptOut s b) : KeptOut s (if c then a else b) := by
  split
  · exact ha ‹_›
  · exact hb ‹_›

/-- What an operation of a Worker does after its writes keeps what every operation keeps. -/
def OpMeaning.Good (m : OpMeaning) : Prop := ∀ (c : Ctx) (s t : State), Kept s t → Kept s ((m c).post t)

/-! Machine/Ops.lean. -/

theorem State.modWorker_kept {s t : State} (h : Kept s t) (w : Fin 32) (f : Worker → Worker) :
    Kept s (State.modWorker t w f) := by
  unfold State.modWorker
  repeat' first | (with_reducible first | exact h | assumption) | (fail_if_no_progress with_reducible apply Kept.upd)
theorem State.modGroup_kept {s t : State} (h : Kept s t) (g : Fin 16) (f : Group → Group) :
    Kept s (State.modGroup t g f) := by
  unfold State.modGroup
  repeat' first | (with_reducible first | exact h | assumption) | (fail_if_no_progress with_reducible apply Kept.upd)
theorem State.modPort_kept {s t : State} (h : Kept s t) (n : Fin 128) (f : PortSt → PortSt) :
    Kept s (State.modPort t n f) := by
  unfold State.modPort
  repeat' first | (with_reducible first | exact h | assumption) | (fail_if_no_progress with_reducible apply Kept.upd)
theorem State.modDie_kept {s t : State} (h : Kept s t) (d : Fin 4) (f : DieLink → DieLink) :
    Kept s (State.modDie t d f) := by
  unfold State.modDie
  repeat' first | (with_reducible first | exact h | assumption) | (fail_if_no_progress with_reducible apply Kept.upd)
theorem State.modFab_kept {s t : State} (h : Kept s t) (d : Fin 4) (f : DieFab → DieFab) :
    Kept s (State.modFab t d f) := by
  unfold State.modFab
  repeat' first | (with_reducible first | exact h | assumption) | (fail_if_no_progress with_reducible apply Kept.upd)
theorem State.modStack_kept {s t : State} (h : Kept s t) (n : Fin 4) (f : Stack → Stack) :
    Kept s (State.modStack t n f) := by
  unfold State.modStack
  repeat' first
    | (with_reducible first | exact h | assumption) | (fail_if_no_progress with_reducible apply Kept.upd)
    | ((fail_if_success with_reducible refine Kept.upd ?_); with_reducible apply Kept.updMem) | exact Mem.wf_congr rfl rfl
    | intro _
theorem State.modLink_kept {s t : State} (h : Kept s t) (l : Fin 16) (f : Laravo → Laravo) :
    Kept s (State.modLink t l f) := by
  unfold State.modLink
  repeat' first | (with_reducible first | exact h | assumption) | (fail_if_no_progress with_reducible apply Kept.upd)
theorem State.modDomain_kept {s t : State} (h : Kept s t) (n : Fin 64) (f : Domain → Domain) :
    Kept s (State.modDomain t n f) := by
  unfold State.modDomain
  repeat' first | (with_reducible first | exact h | assumption) | (fail_if_no_progress with_reducible apply Kept.upd)
theorem State.modSite_kept {s t : State} (h : Kept s t) (n : Fin 32) (f : Site → Site) :
    Kept s (State.modSite t n f) := by
  unfold State.modSite
  repeat' first | (with_reducible first | exact h | assumption) | (fail_if_no_progress with_reducible apply Kept.upd)
theorem State.modSlot_kept {s t : State} (h : Kept s t) (n : Fin 4) (f : Slot → Slot) :
    Kept s (State.modSlot t n f) := by
  unfold State.modSlot
  repeat' first | (with_reducible first | exact h | assumption) | (fail_if_no_progress with_reducible apply Kept.upd)
theorem State.modTb_kept {s t : State} (h : Kept s t) (b : Fin 8) (f : TimeBase → TimeBase)
    (hf : ∀ x : TimeBase, x.ns.toNat < 1000000000 → (f x).ns.toNat < 1000000000) : Kept s (t.modTb b f) := by
  refine ⟨h.pending, h.memory, h.rings, fun l c => ?_⟩
  have hl := h.time l
  by_cases e : b = c
  · subst e; simpa using hf _ (hl b)
  · simpa [upd_get_other _ _ _ _ e] using hl c
theorem State.modBist_kept {s t : State} (h : Kept s t) (u : Fin 64) (f : BistUnit → BistUnit) :
    Kept s (State.modBist t u f) := by
  unfold State.modBist
  repeat' first | (with_reducible first | exact h | assumption) | (fail_if_no_progress with_reducible apply Kept.upd)
theorem State.modEv_kept {s t : State} (h : Kept s t) (e : Fin 256) (f : EvState → EvState) :
    Kept s (State.modEv t e f) := by
  unfold State.modEv
  repeat' first | (with_reducible first | exact h | assumption) | (fail_if_no_progress with_reducible apply Kept.upd)
theorem State.emit_kept {s t : State} (h : Kept s t) (o : Output) :
    Kept s (State.emit t o) := by
  unfold State.emit
  repeat' first | (with_reducible first | exact h | assumption) | (fail_if_no_progress with_reducible apply Kept.upd)
theorem State.drawFree_kept {s t : State} (h : Kept s t)  :
    Kept s (State.drawFree t).2 := by
  unfold State.drawFree
  repeat' first
    | (with_reducible first | exact h | assumption) | (fail_if_no_progress with_reducible apply Kept.upd) | dsimp only
theorem State.signal_kept {s t : State} (h : Kept s t) (v : BitVec 6) :
    Kept s (State.signal t v) := by
  unfold State.signal
  repeat' first
    | (with_reducible first | exact h | assumption | apply State.emit_kept | apply Kept.ite)
    | (fail_if_no_progress with_reducible apply Kept.upd)
    | ((fail_if_success with_reducible refine Kept.upd ?_); with_reducible apply Kept.updHif)
    | exact fun l => ⟨l.sub, l.rep, l.evt⟩ | split
theorem State.nextCycle_kept {s t : State} (h : Kept s t)  :
    Kept s (State.nextCycle t) := by
  unfold State.nextCycle
  repeat' first | (with_reducible first | exact h | assumption) | (fail_if_no_progress with_reducible apply Kept.upd)
theorem State.raise_kept {s t : State} (h : Kept s t) (e : Fin 256) (sev : Nat) (unit : Nat) (detail : Nat) :
    Kept s (State.raise t e sev unit detail) := by
  unfold State.raise
  repeat' first
    | (with_reducible first | exact h | assumption | apply Kept.ite) | (fail_if_no_progress with_reducible apply Kept.upd)
    | intro _ | extract_lets | split
theorem State.raiseDie_kept {s t : State} (h : Kept s t) (d : Fin 4) (o : Fin 48) (sev : Nat) (unit : Nat) (detail : Nat) :
    Kept s (State.raiseDie t d o sev unit detail) := by
  unfold State.raiseDie
  repeat' with_reducible first | exact h | assumption | apply State.raise_kept
theorem State.modMem_kept {s t : State} (h : Kept s t) (f : Mem → Mem) (hf : t.mem.wf = true → (f t.mem).wf = true) :
    Kept s (t.modMem f) := h.updMem hf
theorem State.undefine_kept {s t : State} (h : Kept s t) (base size : Nat) : Kept s (t.undefine base size) :=
  h.updMem (Mem.lose_wf _ _ _ _)

/-! Machine/PortOps.lean. -/

theorem State.drive_kept {s t : State} (h : Kept s t) (n : Fin 128) (txe : Bool) (l : Level) :
    Kept s (State.drive t n txe l) := by
  unfold State.drive
  repeat' first
    | (with_reducible first | exact h | assumption | apply State.emit_kept | apply State.modPort_kept | apply Kept.ite)
    | (fail_if_no_progress with_reducible apply Kept.upd) | intro _ | extract_lets | split
theorem State.showPolarity_kept {s t : State} (h : Kept s t) (n : Fin 128) (old : BitVec 4) :
    Kept s (State.showPolarity t n old) := by
  unfold State.showPolarity
  repeat' first
    | (with_reducible first | exact h | assumption | apply State.emit_kept | apply Kept.ite) | extract_lets | split
theorem State.resetPort_kept {s t : State} (h : Kept s t) (n : Fin 128) :
    Kept s (State.resetPort t n) := by
  unfold State.resetPort
  repeat' first
    | (with_reducible first | exact h | assumption | apply State.modPort_kept | apply State.showPolarity_kept)
    | (fail_if_no_progress with_reducible apply Kept.upd) | intro _ | extract_lets | split
theorem State.setLink_kept {s t : State} (h : Kept s t) (n : Fin 128) (l : Link) :
    Kept s (State.setLink t n l) := by
  unfold State.setLink
  repeat' first
    | (with_reducible first | exact h | assumption | apply State.modPort_kept | apply State.raiseDie_kept | apply Kept.ite)
    | (fail_if_no_progress with_reducible apply Kept.upd) | intro _ | extract_lets | split
theorem State.refreshPort_kept {s t : State} (h : Kept s t) (n : Fin 128) :
    Kept s (State.refreshPort t n) := by
  unfold State.refreshPort
  repeat' first
    | (with_reducible first
        | exact h | assumption | apply State.modPort_kept | apply State.drive_kept | apply State.setLink_kept | apply Kept.ite)
    | extract_lets | split
theorem State.beginTest_kept {s t : State} (h : Kept s t) (n : Fin 128) (chk : Option Prbs) :
    Kept s (State.beginTest t n chk) := by
  unfold State.beginTest
  repeat' first
    | (with_reducible first | exact h | assumption | apply State.modPort_kept | apply State.refreshPort_kept)
    | (fail_if_no_progress with_reducible apply Kept.upd) | intro _ | extract_lets | split
theorem State.endTest_kept {s t : State} (h : Kept s t) (n : Fin 128) :
    Kept s (State.endTest t n) := by
  unfold State.endTest
  repeat' first
    | (with_reducible first
        | exact h | assumption | apply State.drive_kept | apply State.modPort_kept | apply State.refreshPort_kept)
    | (fail_if_no_progress with_reducible apply Kept.upd) | intro _ | split
theorem State.refreshPorts_kept {s t : State} (h : Kept s t)  :
    Kept s (State.refreshPorts t) := by
  unfold State.refreshPorts
  repeat' first
    | (with_reducible first
        | exact h | assumption | apply State.refreshPort_kept | refine Kept.forAll _ _ ?_ (fun _ _ _ => ?_))
    | intro _
theorem State.refreshDie_kept {s t : State} (h : Kept s t) (d : Fin 4) :
    Kept s (State.refreshDie t d) := by
  unfold State.refreshDie
  repeat' first
    | (with_reducible first
        | exact h | assumption | apply State.refreshPort_kept | refine Kept.forAll _ _ ?_ (fun _ _ _ => ?_))
    | intro _
theorem State.endScan_kept {s t : State} (h : Kept s t) (old : Mode) (m : Mode) :
    Kept s (State.endScan t old m) := by
  unfold State.endScan
  repeat' first | (with_reducible first | exact h | assumption | apply State.emit_kept | apply Kept.ite) | split
theorem State.enterMode_kept {s t : State} (h : Kept s t) (m : Mode) (err : Bool) :
    Kept s (State.enterMode t m err) := by
  unfold State.enterMode
  repeat' first
    | (with_reducible first
        | exact h | assumption | apply State.endScan_kept | apply State.raise_kept | apply State.refreshPorts_kept
        | apply Kept.ite)
    | (fail_if_no_progress with_reducible apply Kept.upd) | extract_lets | split
theorem State.startedFunction_kept {s t : State} (h : Kept s t)  :
    Kept s (State.startedFunction t) := by
  unfold State.startedFunction
  repeat' first | (with_reducible first | exact h | assumption | apply State.enterMode_kept | apply Kept.ite) | split

/-! Machine/FabricOps.lean. -/

theorem State.clearPulses_kept {s t : State} (h : Kept s t) (d : Fin 4) :
    Kept s (State.clearPulses t d) := by
  unfold State.clearPulses
  repeat' first
    | (with_reducible first | exact h | assumption | apply State.modFab_kept | apply Kept.ite)
    | (fail_if_no_progress with_reducible apply Kept.upd) | intro _ | extract_lets | split
theorem State.setEdge_kept {s t : State} (h : Kept s t) (d : Fin 4) (q_ : Nat) (w : Nat) (v : Nat) :
    Kept s (State.setEdge t d q_ w v) := by
  unfold State.setEdge
  repeat' first
    | (with_reducible first | exact h | assumption | apply State.modFab_kept)
    | (fail_if_no_progress with_reducible apply Kept.upd) | intro _

/-! Machine/SwarmOps.lean. -/

theorem State.freeBuffer_kept {s t : State} (h : Kept s t) (p : TxPacket) :
    Kept s (State.freeBuffer t p) := by
  unfold State.freeBuffer
  repeat' first
    | (with_reducible first | exact h | assumption | apply State.modLink_kept)
    | (fail_if_no_progress with_reducible apply Kept.upd) | intro _ | split
theorem State.emitLink_kept {s t : State} (h : Kept s t) (l : Fin 16) (o : Output) :
    Kept s (State.emitLink t l o) := by
  unfold State.emitLink
  repeat' first
    | (with_reducible first | exact h | assumption | apply State.emit_kept | apply State.modLink_kept | apply Kept.ite)
    | (fail_if_no_progress with_reducible apply Kept.upd) | intro _ | extract_lets | split
theorem State.sendOne_kept {s t : State} (h : Kept s t) (l : Fin 16) :
    Kept s (State.sendOne t l) := by
  unfold State.sendOne
  repeat' first
    | (with_reducible first
        | exact h | assumption | apply State.emitLink_kept | apply State.emit_kept | apply State.freeBuffer_kept
        | apply State.modLink_kept
        | apply Kept.ite)
    | (fail_if_no_progress with_reducible apply Kept.upd) | intro _ | extract_lets | split
theorem State.flushLink_kept {s t : State} (h : Kept s t) (l : Fin 16) : Kept s (t.flushLink l) :=
  Kept.iter _ _ h fun _ h => State.sendOne_kept h l
theorem State.queuePacket_kept {s t : State} (h : Kept s t) (l : Fin 16) (p : TxPacket) :
    Kept s (State.queuePacket t l p) := by
  unfold State.queuePacket
  repeat' first
    | (with_reducible first | exact h | assumption | apply State.flushLink_kept | apply State.modLink_kept)
    | (fail_if_no_progress with_reducible apply Kept.upd) | intro _
theorem State.takeAck_kept {s t : State} (h : Kept s t) (l : Fin 16) (ack : BitVec 12) (crVc : Nat) (crN : Nat) :
    Kept s (State.takeAck t l ack crVc crN) := by
  unfold State.takeAck
  repeat' first
    | (with_reducible first | exact h | assumption | apply State.flushLink_kept | apply State.modLink_kept) | intro _
theorem State.sendRouted_kept {s t : State} (h : Kept s t) (vc : Nat) (dest : Byte) (data : Bytes) :
    Kept s (State.sendRouted t vc dest data) := by
  unfold State.sendRouted
  repeat' first
    | (with_reducible first
        | exact h | assumption | apply State.modLink_kept | apply State.queuePacket_kept
        | refine Kept.foldl _ _ ?_ (fun _ _ _ => ?_) | apply Kept.ite)
    | (fail_if_no_progress with_reducible apply Kept.upd) | intro _ | split
theorem State.sendPath_kept {s t : State} (h : Kept s t) (vc : Nat) (dest : Byte) (way : BitVec 64) (data : Bytes) :
    Kept s (State.sendPath t vc dest way data) := by
  unfold State.sendPath
  repeat' first
    | (with_reducible first
        | exact h | assumption | apply State.queuePacket_kept | refine Kept.foldl _ _ ?_ (fun _ _ _ => ?_))
    | intro _ | extract_lets | split
theorem State.sendBroadcast_kept {s t : State} (h : Kept s t) (src : Byte) (num : BitVec 16) (but : Option (Fin 16))
    (hops : Nat) (frags : List (Bool × Bool × Bytes)) :
    Kept s (State.sendBroadcast t src num but hops frags) := by
  unfold State.sendBroadcast
  repeat' first
    | (with_reducible first
        | exact h | assumption | apply State.queuePacket_kept | refine Kept.foldl _ _ ?_ (fun _ _ _ => ?_) | apply Kept.ite)
    | intro _ | split
theorem State.sendInnerReply_kept {s t : State} (h : Kept s t) (origin : Byte) (l : Fin 16) (way : Option (BitVec 64))
    (words : Words) :
    Kept s (State.sendInnerReply t origin l way words) := by
  unfold State.sendInnerReply
  repeat' first
    | (with_reducible first | exact h | assumption | apply State.sendPath_kept | apply State.sendRouted_kept)
    | (fail_if_no_progress with_reducible apply Kept.upd) | split
theorem State.sendTime_kept {s t : State} (h : Kept s t) (l : Fin 16) (type : Fin 4) (body : Bytes) :
    Kept s (State.sendTime t l type body) := by
  unfold State.sendTime
  repeat' first
    | (with_reducible first
        | exact h | assumption | apply State.emitLink_kept | apply State.emit_kept | apply State.modLink_kept)
    | (fail_if_no_progress with_reducible apply Kept.upd) | intro _ | extract_lets | split
theorem State.sendHello_kept {s t : State} (h : Kept s t) (l : Fin 16) :
    Kept s (State.sendHello t l) := by
  unfold State.sendHello
  repeat' with_reducible first | exact h | assumption | apply State.sendTime_kept
theorem State.servoHold_kept {s t : State} (h : Kept s t) (cause : Nat) :
    Kept s (State.servoHold t cause) := by
  unfold State.servoHold
  repeat' first
    | (with_reducible first | exact h | assumption | apply State.modTb_kept | apply State.raise_kept)
    | (fail_if_no_progress with_reducible apply Kept.upd) | intro _
theorem State.linkState_kept {s t : State} (h : Kept s t) (l : Fin 16) (st : LlSt) (cause : Nat) :
    Kept s (State.linkState t l st cause) := by
  unfold State.linkState
  repeat' first
    | (with_reducible first | exact h | assumption | apply State.modLink_kept | apply State.raise_kept | apply Kept.ite)
    | (fail_if_no_progress with_reducible apply Kept.upd) | intro _ | extract_lets | split
theorem State.linkDrop_kept {s t : State} (h : Kept s t) (l : Fin 16) (st : LlSt) (cause : Nat) :
    Kept s (State.linkDrop t l st cause) := by
  unfold State.linkDrop
  repeat' first
    | (with_reducible first
        | exact h | assumption | apply State.freeBuffer_kept | apply State.linkState_kept | apply State.modLink_kept
        | refine Kept.foldl _ _ ?_ (fun _ _ _ => ?_))
    | (fail_if_no_progress with_reducible apply Kept.upd) | intro _ | extract_lets | split

/-! Machine/Operands.lean. -/

theorem State.pushReply_kept {s t : State} (h : Kept s t) (k : JobKey) (holds : Bool) (words : Words) (after : After) :
    Kept s (State.pushReply t k holds words after) := by
  unfold State.pushReply
  repeat' first
    | (with_reducible first | exact h | assumption | apply State.sendInnerReply_kept | apply Kept.ite)
    | (fail_if_no_progress with_reducible apply Kept.upd) | extract_lets | split
theorem State.dropJob_kept {s t : State} (h : Kept s t) (k : JobKey) :
    Kept s (State.dropJob t k) := by
  unfold State.dropJob
  repeat' first
    | (with_reducible first | exact h | assumption) | (fail_if_no_progress with_reducible apply Kept.upd) | intro _
theorem State.mailDone_kept {s t : State} (h : Kept s t) (k : JobKey) :
    Kept s (State.mailDone t k) := by
  unfold State.mailDone
  repeat' first | (with_reducible first | exact h | assumption) | (fail_if_no_progress with_reducible apply Kept.upd)
theorem State.commitRaw_kept {s t : State} (h : Kept s t) (j : Job) (st : Status) (idx : Nat) (mask : BitVec 64)
    (body : Words) :
    Kept s (State.commitRaw t j st idx mask body) := by
  unfold State.commitRaw
  repeat' first
    | (with_reducible first
        | exact h | assumption | apply State.dropJob_kept | apply State.mailDone_kept | apply State.pushReply_kept
        | refine Kept.foldl _ _ ?_ (fun _ _ _ => ?_) | apply Kept.ite)
    | intro _ | extract_lets | split
theorem State.commitDone_kept {s t : State} (h : Kept s t) (j : Job) (result : Words) :
    Kept s (State.commitDone t j result) := by
  unfold State.commitDone
  repeat' first | (with_reducible first | exact h | assumption | apply State.commitRaw_kept | apply Kept.ite) | split
theorem State.commitClose_kept {s t : State} (h : Kept s t) (j : Job) (v : Verdict) (echo : Bool) (result : Words) :
    Kept s (State.commitClose t j v echo result) := by
  unfold State.commitClose
  repeat' first | (with_reducible first | exact h | assumption | apply State.commitRaw_kept | apply Kept.ite) | split
theorem State.refuse_kept {s t : State} (h : Kept s t) (j : Job) (v : Verdict) :
    Kept s (State.refuse t j v) := by
  unfold State.refuse
  repeat' with_reducible first | exact h | assumption | apply State.commitRaw_kept
theorem finish_kept {s : State} (j : Job) {a : Act} (h : a.Keeps s) : Kept s (finish j a) := by
  cases h with
  | done h r => exact State.commitDone_kept h j r
  | close h v e r => exact State.commitClose_kept h j v e r
  | stay h => exact h
theorem State.setJob_kept {s t : State} (h : Kept s t) (j : Job) :
    Kept s (State.setJob t j) := by
  unfold State.setJob
  repeat' first
    | (with_reducible first | exact h | assumption | apply Kept.ite) | (fail_if_no_progress with_reducible apply Kept.upd)
    | intro _ | split
theorem CmdDef.run_kept {s t : State} (h : Kept s t) {d : CmdDef} (hd : d.Good) (j : Job) : Kept s (d.run j t) := by
  unfold CmdDef.run
  split
  · exact State.setJob_kept h _
  · exact .ite (State.setJob_kept h _) (finish_kept _ (hd.act _ _ _ (State.setJob_kept h _)))
theorem CmdDef.begin_kept {s t : State} (h : Kept s t) {d : CmdDef} (hd : d.Good) (j : Job) : Kept s (d.begin j t) := by
  unfold CmdDef.begin
  extract_lets no
  have hn : ∀ v k, Kept s (no v k) := fun v k => State.refuse_kept (hd.refused _ _ _ _ h) _ _
  clear_value no
  split
  · exact hn _ _
  · refine .ite (CmdDef.run_kept h hd _) (.ite (hn _ _) (.ite (.ite (CmdDef.run_kept h hd _) (hn _ _)) (.ite (hn _ _)
      (.ite ?_ (State.setJob_kept h _)))))
    exact finish_kept _ (hd.act _ _ _ (State.setJob_kept h _))
theorem State.addJob_kept {s t : State} (h : Kept s t) (j : Job) :
    Kept s (State.addJob t j) := by
  unfold State.addJob
  repeat' first | (with_reducible first | exact h | assumption) | (fail_if_no_progress with_reducible apply Kept.upd)
theorem CmdDef.take_kept {s t : State} (h : Kept s t) {d : CmdDef} (hd : d.Good) (path : Path) (p : Pkt) :
    Kept s (d.take path p t) := by
  unfold CmdDef.take
  extract_lets
  exact .ite (State.pushReply_kept h _ _ _ _) (.ite (State.addJob_kept h _) (CmdDef.begin_kept (State.addJob_kept h _) hd _))
theorem State.consume_kept {s t : State} (h : Kept s t) (p : Pkt) (hp : t.unusable p = false) : Kept s (t.consume p) := by
  refine Kept.updHif (hif := { t.hif with subHead := t.hif.subHead + BitVec.ofNat 32 p.slots }) h fun l => ?_
  refine ⟨⟨l.sub.inSize, l.sub.onPage, fun e => Nat.le_trans ?_ (l.sub.inRoom e)⟩, l.rep, l.evt⟩
  have h2 : p.slots ≤ (t.hif.subBell - t.hif.subHead).toNat := by
    exact Nat.le_of_not_lt (of_decide_eq_false (Bool.or_eq_false_iff.1 hp).2)
  show (t.hif.subBell - (t.hif.subHead + BitVec.ofNat 32 p.slots)).toNat ≤ _
  rw [show t.hif.subBell - (t.hif.subHead + BitVec.ofNat 32 p.slots) = (t.hif.subBell - t.hif.subHead) - BitVec.ofNat 32 p.slots by
    rw [← BitVec.sub_sub], BitVec.toNat_sub_of_le]
  · exact Nat.sub_le _ _
  · rw [BitVec.le_def, BitVec.toNat_ofNat]
    exact Nat.le_trans (Nat.mod_le _ _) h2
theorem State.resync_kept {s t : State} (h : Kept s t) (p : Pkt) : Kept s (t.resync p) := by
  have h1 : Kept s { t with hif := { t.hif with subHead := t.hif.subBell, subResync := true } } :=
    Kept.updHif (hif := { t.hif with subHead := t.hif.subBell, subResync := true }) h
      fun l => ⟨⟨l.sub.inSize, l.sub.onPage, fun _ => by simp only [BitVec.sub_self]; exact Nat.zero_le _⟩, l.rep, l.evt⟩
  exact .ite (State.pushReply_kept h1 _ _ _ _) (State.pushReply_kept h1 _ _ _ _)
theorem CmdDef.fetch_kept {s t : State} (h : Kept s t) {d : CmdDef} (hd : d.Good) (p : Pkt) : Kept s (d.fetch p t) := by
  unfold CmdDef.fetch
  split
  · exact h
  · split
    · exact State.resync_kept h p
    · next hu =>
      exact .ite h (CmdDef.take_kept (State.consume_kept h p (by simpa using hu)) hd _ _)

/-! Machine/Readouts.lean. -/

theorem State.overPcie_kept {s t : State} (h : Kept s t) {u : State} (hu : Kept s u) : Kept s (t.overPcie u) := .ite hu h

/-! Machine/WorkerOps.lean. -/

theorem State.drain_kept {s t : State} (h : Kept s t) (w : Fin 32) :
    Kept s (State.drain t w) := by
  unfold State.drain
  repeat' first
    | (with_reducible first
        | exact h | assumption | apply State.modWorker_kept | refine Kept.foldl _ _ ?_ (fun _ _ _ => ?_))
    | (fail_if_no_progress with_reducible apply Kept.upd)
    | ((fail_if_success with_reducible refine Kept.upd ?_); with_reducible apply Kept.updMem) | exact Mem.wf_congr rfl rfl
    | (with_reducible first | refine Mem.fold_wf _ _ _ ?_ (fun _ _ _ => ?_) | apply Mem.putWord_wf) | intro _ | extract_lets
    | split
theorem State.readEffects_kept {s t : State} (h : Kept s t) (w : Fin 32) (op : Regs) (x : Slot20) (y : Slot20) :
    Kept s (State.readEffects t w op x y) := by
  unfold State.readEffects
  repeat' first
    | (with_reducible first | exact h | assumption | apply State.modWorker_kept | apply Kept.ite)
    | (fail_if_no_progress with_reducible apply Kept.upd) | intro _ | extract_lets | split
theorem State.releaseSems_kept {s t : State} (h : Kept s t) (w : Fin 32) :
    Kept s (State.releaseSems t w) := by
  unfold State.releaseSems
  repeat' first
    | (with_reducible first | exact h | assumption | apply State.raise_kept | refine Kept.forAll _ _ ?_ (fun _ _ _ => ?_))
    | (fail_if_no_progress with_reducible apply Kept.upd) | intro _
theorem State.endStep_kept {s t : State} (h : Kept s t) (w : Fin 32) :
    Kept s (State.endStep t w) := by
  unfold State.endStep
  repeat' first
    | (with_reducible first | exact h | assumption | apply State.commitDone_kept | apply State.modWorker_kept)
    | (fail_if_no_progress with_reducible apply Kept.upd) | intro _ | extract_lets | split
theorem State.haltSettled_kept {s t : State} (h : Kept s t) (w : Fin 32) (halted : Bool) :
    Kept s (State.haltSettled t w halted) := by
  unfold State.haltSettled
  repeat' first
    | (with_reducible first
        | exact h | assumption | apply State.commitDone_kept | refine Kept.foldl _ _ ?_ (fun _ _ _ => ?_) | apply Kept.ite)
    | (fail_if_no_progress with_reducible apply Kept.upd) | intro _ | extract_lets | split
theorem State.stopSettled_kept {s t : State} (h : Kept s t) (w : Fin 32) :
    Kept s (State.stopSettled t w) := by
  unfold State.stopSettled
  repeat' first
    | (with_reducible first
        | exact h | assumption | apply State.commitDone_kept | refine Kept.foldl _ _ ?_ (fun _ _ _ => ?_))
    | (fail_if_no_progress with_reducible apply Kept.upd) | intro _ | extract_lets | split
theorem State.workerEvent_kept {s t : State} (h : Kept s t) (w : Fin 32) (sev : Nat) (reason : Nat) (code : Nat)
    (pc : BitVec 15) :
    Kept s (State.workerEvent t w sev reason code pc) := by
  unfold State.workerEvent
  repeat' with_reducible first | exact h | assumption | apply State.raiseDie_kept
theorem State.dropWaiting_kept {s t : State} (h : Kept s t) (w : Fin 32) :
    Kept s (State.dropWaiting t w) := by
  unfold State.dropWaiting
  repeat' first
    | (with_reducible first | exact h | assumption | apply CmdDef.run_kept | apply State.modGroup_kept | apply Kept.ite)
    | (fail_if_no_progress with_reducible apply Kept.upd) | intro _ | split
theorem State.settled_kept {s t : State} (h : Kept s t) (w : Fin 32) :
    Kept s (State.settled t w) := by
  unfold State.settled
  repeat' with_reducible first
    | exact h | assumption | apply State.endStep_kept | apply State.haltSettled_kept | apply State.stopSettled_kept
theorem State.endWorker_kept {s t : State} (h : Kept s t) (w : Fin 32) :
    Kept s (State.endWorker t w) := by
  unfold State.endWorker
  repeat' first
    | (with_reducible first
        | exact h | assumption | apply State.drain_kept | apply State.dropWaiting_kept | apply State.modWorker_kept
        | apply State.releaseSems_kept | apply State.settled_kept | apply State.workerEvent_kept)
    | intro _ | extract_lets | split
theorem State.workerFault_kept {s t : State} (h : Kept s t) (w : Fin 32) (found : Nat) :
    Kept s (State.workerFault t w found) := by
  unfold State.workerFault
  repeat' first
    | (with_reducible first
        | exact h | assumption | apply State.drain_kept | apply State.dropWaiting_kept | apply State.modWorker_kept
        | apply State.releaseSems_kept | apply State.settled_kept | apply State.workerEvent_kept)
    | (fail_if_no_progress with_reducible apply Kept.upd) | intro _ | extract_lets | split | dsimp only
theorem State.requestHalt_kept {s t : State} (h : Kept s t) (w : Fin 32) (cause : Fin 5) :
    Kept s (State.requestHalt t w cause) := by
  unfold State.requestHalt
  repeat' first
    | (with_reducible first | exact h | assumption | apply State.modWorker_kept | apply Kept.ite)
    | (fail_if_no_progress with_reducible apply Kept.upd) | intro _ | split
theorem State.fireMembers_kept {s t : State} (h : Kept s t) (g : Fin 8) (origin : Byte) :
    Kept s (State.fireMembers t g origin) := by
  unfold State.fireMembers
  repeat' first
    | (with_reducible first
        | exact h | assumption | apply State.raise_kept | apply State.requestHalt_kept
        | refine Kept.forAll _ _ ?_ (fun _ _ _ => ?_))
    | intro _
theorem State.fireGroups_kept {s t : State} (h : Kept s t) (mask : Byte) :
    Kept s (State.fireGroups t mask) := by
  unfold State.fireGroups
  repeat' first
    | (with_reducible first
        | exact h | assumption | apply State.emitLink_kept | apply State.emit_kept | apply State.fireMembers_kept
        | refine Kept.forAll _ _ ?_ (fun _ _ _ => ?_) | refine Kept.foldl _ _ ?_ (fun _ _ _ => ?_) | apply Kept.ite)
    | (fail_if_no_progress with_reducible apply Kept.upd) | intro _ | extract_lets | split
theorem State.compHit_kept {s t : State} (h : Kept s t) (w : Fin 32) (l : List (Fin 8)) :
    Kept s (State.compHit t w l) := by
  unfold State.compHit
  repeat' first
    | (with_reducible first
        | exact h | assumption | apply State.fireGroups_kept | apply State.modWorker_kept | apply State.requestHalt_kept
        | refine Kept.foldl _ _ ?_ (fun _ _ _ => ?_) | apply Kept.ite)
    | (fail_if_no_progress with_reducible apply Kept.upd) | intro _ | extract_lets | split
theorem State.countStep_kept {s t : State} (h : Kept s t) (w : Fin 32) :
    Kept s (State.countStep t w) := by
  unfold State.countStep
  repeat' first
    | (with_reducible first
        | exact h | assumption | apply State.modWorker_kept | apply State.requestHalt_kept | apply Kept.ite)
    | (fail_if_no_progress with_reducible apply Kept.upd) | intro _ | extract_lets | split
theorem State.pass_kept {s t : State} (h : Kept s t) (c : Ctx) (o : OpOut) (writes : List PendWrite) (stores : List PendStore) :
    Kept s (State.pass t c o writes stores) := by
  unfold State.pass
  repeat' first
    | (with_reducible first | exact h | assumption | apply State.modWorker_kept | apply Kept.updMem)
    | exact Mem.wf_congr rfl rfl
    | (with_reducible first | refine Mem.fold_wf _ _ _ ?_ (fun _ _ _ => ?_) | apply Mem.putWord_wf) | intro _ | extract_lets
theorem State.retire_kept {s t : State} (h : Kept s t) (c : Ctx) (o : OpOut) :
    Kept s (State.retire t c o) := by
  unfold State.retire
  repeat' first
    | (with_reducible first
        | exact h | assumption | apply State.pass_kept | apply State.modWorker_kept | apply State.readEffects_kept
        | refine Kept.foldl _ _ ?_ (fun _ _ _ => ?_))
    | (fail_if_no_progress with_reducible apply Kept.upd)
    | ((fail_if_success with_reducible refine Kept.upd ?_); with_reducible apply Kept.updMem) | exact Mem.wf_congr rfl rfl
    | (with_reducible first | refine Mem.fold_wf _ _ _ ?_ (fun _ _ _ => ?_) | apply Mem.putWord_wf) | intro _ | extract_lets
    | split | dsimp only
theorem State.finishBundle_kept {s t : State} (h : Kept s t) (c : Ctx) (o : OpOut) (ho : ∀ u, Kept s u → Kept s (o.post u)) :
    Kept s (State.finishBundle t c o) := by
  unfold State.finishBundle
  extract_lets u
  have hu : Kept s u := State.countStep_kept (State.compHit_kept (ho _ (State.retire_kept h _ _)) _ _) _
  exact .ite (State.workerFault_kept hu _ _) hu
theorem State.readFaulted_kept {s t : State} (h : Kept s t) (c : Ctx) (o : OpOut) (f : Nat) :
    Kept s (State.readFaulted t c o f) := by
  unfold State.readFaulted
  repeat' first
    | (with_reducible first
        | exact h | assumption | apply State.pass_kept | apply State.modWorker_kept | apply State.workerFault_kept
        | apply Kept.ite)
    | (fail_if_no_progress with_reducible apply Kept.upd) | intro _ | extract_lets | split
theorem State.perform_kept {s t : State} (h : Kept s t) (w : Fin 32) {m : OpMeaning} (hm : m.Good) :
    Kept s (State.perform t w m) := by
  unfold State.perform
  split
  · exact State.workerFault_kept h _ _
  · split
    · exact .ite (State.readFaulted_kept h _ _ _) (State.workerFault_kept h _ _)
    · exact State.modWorker_kept h _ _
    · exact State.finishBundle_kept h _ _ (hm _ _)
theorem State.performBad_kept {s t : State} (h : Kept s t) (w : Fin 32) (m : OpMeaning) :
    Kept s (State.performBad t w m) := by
  unfold State.performBad
  repeat' first
    | (with_reducible first | exact h | assumption | apply State.readFaulted_kept | apply State.workerFault_kept)
    | (fail_if_no_progress with_reducible apply Kept.upd) | intro _ | split
theorem State.performEcc_kept {s t : State} (h : Kept s t) (w : Fin 32) (e : WEcc) {m : OpMeaning} (hm : m.Good) :
    Kept s (State.performEcc t w e m) := by
  cases e with
  | ok => exact State.perform_kept h w hm
  | ce => exact State.perform_kept (State.modWorker_kept h _ _) w hm
  | ue a b =>
    have h1 := State.raiseDie_kept h (workerDie w) 37 3 w.val (detail [(0, 1, a.val), (2, 2, b.toNat)])
    exact .ite (State.workerFault_kept h1 _ _) (State.performBad_kept h1 _ _)
theorem State.issue_kept {s t : State} (h : Kept s t) (w : Fin 32) (e : WEcc) {m : OpMeaning} (hm : m.Good) :
    Kept s (State.issue t w e m) :=
  .ite (State.performEcc_kept h w e hm) (.ite (State.compHit_kept h _ _) (State.performEcc_kept (State.compHit_kept h _ _) w e hm))
theorem State.runOp_kept {s t : State} (h : Kept s t) (w : Fin 32) (e : WEcc) (opc : Nat) {m : OpMeaning} (hm : m.Good) :
    Kept s (State.runOp t w e opc m) := .ite (State.issue_kept h w e hm) h

/-! Machine/GroupOps.lean. -/

theorem State.pendLine_kept {s t : State} (h : Kept s t) (w : Fin 32) (line : Nat) :
    Kept s (State.pendLine t w line) := by
  unfold State.pendLine
  repeat' first
    | (with_reducible first | exact h | assumption | apply State.modWorker_kept)
    | (fail_if_no_progress with_reducible apply Kept.upd) | intro _
theorem State.beginPlay_kept {s t : State} (h : Kept s t) (g : Fin 16) (e : Entry) (fresh : Bool) :
    Kept s (State.beginPlay t g e fresh) := by
  unfold State.beginPlay
  repeat' first
    | (with_reducible first
        | exact h | assumption | apply CmdDef.run_kept | apply State.modGroup_kept | apply State.nextCycle_kept
        | apply State.pendLine_kept | refine Kept.foldl _ _ ?_ (fun _ _ _ => ?_) | apply Kept.ite)
    | (fail_if_no_progress with_reducible apply Kept.upd) | intro _ | extract_lets | split
theorem State.stopWorker_kept {s t : State} (h : Kept s t) (w : Fin 32) (reason : Nat) :
    Kept s (State.stopWorker t w reason) := by
  unfold State.stopWorker
  repeat' first
    | (with_reducible first
        | exact h | assumption | apply State.drain_kept | apply State.endStep_kept | apply State.haltSettled_kept
        | apply State.modGroup_kept | apply State.modWorker_kept | apply State.releaseSems_kept | apply State.stopSettled_kept
        | apply Kept.ite)
    | (fail_if_no_progress with_reducible apply Kept.upd) | intro _ | extract_lets | split
theorem State.beginUnderrun_kept {s t : State} (h : Kept s t) (g : Fin 16) :
    Kept s (State.beginUnderrun t g) := by
  unfold State.beginUnderrun
  repeat' first
    | (with_reducible first
        | exact h | assumption | apply CmdDef.run_kept | apply State.modGroup_kept | apply State.nextCycle_kept
        | apply State.raiseDie_kept | apply State.stopWorker_kept | apply Kept.ite)
    | (fail_if_no_progress with_reducible apply Kept.upd) | intro _ | extract_lets | split
theorem State.countDie_kept {s t : State} (h : Kept s t) (site : Fin 32) (d : Fin 4) (i : Fin 4) :
    Kept s (State.countDie t site d i) := by
  unfold State.countDie
  repeat' first
    | (with_reducible first | exact h | assumption | apply State.modSite_kept)
    | (fail_if_no_progress with_reducible apply Kept.upd) | intro _
theorem State.siteRecord_kept {s t : State} (h : Kept s t) (g : Fin 16) (o : OpenCycle) (site : Fin 32) (pins : BitVec 8) :
    Kept s (State.siteRecord t g o site pins) := by
  unfold State.siteRecord
  repeat' first
    | (with_reducible first
        | exact h | assumption | apply State.countDie_kept | apply State.modGroup_kept | apply State.pendLine_kept
        | apply State.raise_kept | apply State.raiseDie_kept | apply Kept.ite)
    | (fail_if_no_progress with_reducible apply Kept.upd) | intro _ | extract_lets | split
theorem State.closeCycle_kept {s t : State} (h : Kept s t) (g : Fin 16) (o : OpenCycle) :
    Kept s (State.closeCycle t g o) := by
  unfold State.closeCycle
  repeat' first
    | (with_reducible first
        | exact h | assumption | apply State.modGroup_kept | apply State.siteRecord_kept
        | refine Kept.forAll _ _ ?_ (fun _ _ _ => ?_) | apply Kept.ite)
    | (fail_if_no_progress with_reducible apply Kept.upd) | intro _ | extract_lets | split
theorem State.closeCycles_kept {s t : State} (h : Kept s t) (g : Fin 16) :
    Kept s (State.closeCycles t g) := by
  unfold State.closeCycles
  repeat' first
    | (with_reducible first
        | exact h | assumption | apply State.closeCycle_kept | apply State.modGroup_kept
        | refine Kept.foldl _ _ ?_ (fun _ _ _ => ?_))
    | (fail_if_no_progress with_reducible apply Kept.upd) | intro _ | extract_lets | split | dsimp only

/-! Machine/SecOps.lean. -/

theorem State.setNvBlock_kept {s t : State} (h : Kept s t) (b : Nat) (x : NvBlock) :
    Kept s (State.setNvBlock t b x) := by
  unfold State.setNvBlock
  repeat' first
    | (with_reducible first | exact h | assumption) | (fail_if_no_progress with_reducible apply Kept.upd) | intro _
theorem State.wornEvent_kept {s t : State} (h : Kept s t) (b : Nat) :
    Kept s (State.wornEvent t b) := by
  unfold State.wornEvent
  repeat' with_reducible first | exact h | assumption | apply State.raise_kept
theorem State.nvApply_kept {s t : State} (h : Kept s t) (x : NvWrite) :
    Kept s (State.nvApply t x) := by
  unfold State.nvApply
  repeat' first
    | (with_reducible first
        | exact h | assumption | apply State.modBist_kept | refine Kept.foldl _ _ ?_ (fun _ _ _ => ?_) | apply Kept.ite)
    | (fail_if_no_progress with_reducible apply Kept.upd) | intro _ | split
theorem State.nvStart_kept {s t : State} (h : Kept s t) (k : JobKey) (what : NvWrite) (blocks : List Nat) (result : Words) :
    Kept s (State.nvStart t k what blocks result) := by
  unfold State.nvStart
  repeat' first | (with_reducible first | exact h | assumption) | (fail_if_no_progress with_reducible apply Kept.upd)
theorem State.nvCommand_kept {s t : State} (h : Kept s t) (j : Job) (what : NvWrite) (b : Nat) (result : Words) :
    (State.nvCommand t j what b result).Keeps s := by
  unfold State.nvCommand
  repeat' first
    | (with_reducible first | exact h | assumption | apply State.nvStart_kept | apply State.wornEvent_kept | apply Kept.ite)
    | split
    | (with_reducible first | apply Act.Keeps.done | apply Act.Keeps.close | apply Act.Keeps.stay | apply Act.keeps_ite)
theorem State.alarm_kept {s t : State} (h : Kept s t) (cause : Nat) (n : Nat) :
    Kept s (State.alarm t cause n) := by
  unfold State.alarm
  repeat' first
    | (with_reducible first | exact h | assumption | apply State.raise_kept)
    | (fail_if_no_progress with_reducible apply Kept.upd)
theorem State.nvEmpty_kept {s t : State} (h : Kept s t) (b : Nat) : Kept s (State.nvEmpty t b) := by
  unfold State.nvEmpty
  exact Kept.forAll _ _ (Kept.upd h) fun _ _ h => State.modBist_kept h _ _
theorem State.nvLost_kept {s t : State} (h : Kept s t) (b : Nat) : Kept s (State.nvLost t b) := by
  unfold State.nvLost
  repeat' first
    | (with_reducible first
        | exact h | assumption | apply State.alarm_kept | apply State.nvEmpty_kept | apply State.setNvBlock_kept
        | apply Kept.ite)
theorem State.draw_kept {s t : State} (h : Kept s t)  :
    Kept s (State.draw t).2 := by
  unfold State.draw
  repeat' first
    | (with_reducible first | exact h | assumption) | (fail_if_no_progress with_reducible apply Kept.upd) | dsimp only

/-! Machine/MemOps.lean. -/

theorem State.walkNodes_kept {s t : State} (h : Kept s t) (n : Fin 4) (i : Nat) : Kept s (State.walkNodes t n i) :=
  h.updMem (Mem.walk_wf _ _ _ _)
theorem State.memCount_kept {s t : State} (h : Kept s t) (n : Fin 4) (i : Fin 6) :
    Kept s (State.memCount t n i) := by
  unfold State.memCount
  repeat' first
    | (with_reducible first | exact h | assumption | apply State.modStack_kept)
    | (fail_if_no_progress with_reducible apply Kept.upd) | intro _
theorem State.barDrop_kept {s t : State} (h : Kept s t)  :
    Kept s (State.barDrop t) := by
  unfold State.barDrop
  repeat' first
    | (with_reducible first | exact h | assumption) | (fail_if_no_progress with_reducible apply Kept.upd)
    | ((fail_if_success with_reducible refine Kept.upd ?_); with_reducible apply Kept.updHif)
    | exact fun l => ⟨l.sub, l.rep, l.evt⟩
theorem State.correctable_kept {s t : State} (h : Kept s t) (n : Fin 4) :
    Kept s (State.correctable t n) := by
  unfold State.correctable
  repeat' first
    | (with_reducible first
        | exact h | assumption | apply State.memCount_kept | apply State.modStack_kept | apply State.raise_kept
        | apply Kept.ite)
    | (fail_if_no_progress with_reducible apply Kept.upd) | intro _ | extract_lets | split
theorem State.answerBus_kept {s t : State} (h : Kept s t) (q : Requester) (write : Bool) (cause : BusCause) :
    Kept s (State.answerBus t q write cause) := by
  unfold State.answerBus
  repeat' first
    | (with_reducible first | exact h | assumption | apply State.emit_kept | apply State.barDrop_kept | apply Kept.ite)
    | (fail_if_no_progress with_reducible apply Kept.upd) | intro _ | extract_lets | split
theorem State.answerFrozen_kept {s t : State} (h : Kept s t) (h : HeldReq) :
    Kept s (State.answerFrozen t h) := by
  unfold State.answerFrozen
  repeat' first
    | (with_reducible first
        | exact h | assumption | apply State.answerBus_kept | apply State.barDrop_kept | apply State.emit_kept)
    | (fail_if_no_progress with_reducible apply Kept.upd) | split
theorem State.freeze_kept {s t : State} (h : Kept s t) (q : Requester) (n : Fin 4) (cause : Nat) (a : Nat)
    (held : List HeldReq) (onWire : List HeldReq) :
    Kept s (State.freeze t q n cause a held onWire) := by
  unfold State.freeze
  repeat' first
    | (with_reducible first
        | exact h | assumption | apply State.answerFrozen_kept | apply State.modStack_kept | apply State.raise_kept
        | refine Kept.foldl _ _ ?_ (fun _ _ _ => ?_) | apply Kept.ite)
    | (fail_if_no_progress with_reducible apply Kept.upd) | intro _ | split
theorem State.unverifiable_kept {s t : State} (h : Kept s t) (q : Requester) (n : Fin 4) (a : Nat) (c : Nat) :
    Kept s (State.unverifiable t q n a c) := by
  unfold State.unverifiable
  repeat' with_reducible first | exact h | assumption | apply State.memCount_kept | apply State.raise_kept
theorem State.poison_kept {s t : State} (h : Kept s t) (q : Requester) (n : Fin 4) (a : Nat) (c : Nat) :
    Kept s (State.poison t q n a c) := by
  unfold State.poison
  repeat' first
    | (with_reducible first
        | exact h | assumption | apply State.memCount_kept | apply State.modStack_kept | apply State.unverifiable_kept
        | apply Kept.ite)
    | (fail_if_no_progress with_reducible apply Kept.upd)
    | ((fail_if_success with_reducible refine Kept.upd ?_); with_reducible apply Kept.updMem) | exact Mem.wf_congr rfl rfl
    | intro _ | extract_lets | split
theorem State.tagMismatch_kept {s t : State} (h : Kept s t) (q : Requester) (n : Fin 4) (a : Nat) :
    Kept s (State.tagMismatch t q n a) := by
  unfold State.tagMismatch
  repeat' first
    | (with_reducible first
        | exact h | assumption | apply State.alarm_kept | apply State.memCount_kept | apply State.raise_kept)
    | (fail_if_no_progress with_reducible apply Kept.upd) | extract_lets | split
theorem State.readSector_kept {s t : State} (h : Kept s t) (q : Requester) (n : Fin 4) (i : Nat) (a : Nat) (e : MemErr) :
    Kept s (State.readSector t q n i a e).st := by
  unfold State.readSector
  repeat' first
    | (with_reducible first
        | exact h | assumption | apply State.correctable_kept | apply State.freeze_kept | apply State.memCount_kept
        | apply State.poison_kept | apply State.tagMismatch_kept | apply State.unverifiable_kept)
    | (fail_if_no_progress with_reducible apply Kept.upd) | split
theorem State.openSector_kept {s t : State} (h : Kept s t) (q : Requester) (a : Nat) (b : Nat) (reads : Bool) (e : MemErr) :
    Kept s (State.openSector t q a b reads e).st := by
  unfold State.openSector
  split
  extract_lets i hit met s1 s2
  split
  · exact h
  split
  · exact State.unverifiable_kept h _ _ _ _
  have h1 : Kept s s1 := State.memCount_kept h _ _
  have h2 : Kept s s2 := State.walkNodes_kept (.ite (State.correctable_kept h1 _) h1) _ _
  clear_value met s2
  clear_value s1
  split
  · exact State.poison_kept h1 _ _ _ _
  · exact State.tagMismatch_kept h1 _ _ _
  · split
    · exact h2
    · exact State.readSector_kept h2 _ _ _ _ _
theorem State.writeSector_kept {s t : State} (h : Kept s t) (q : Requester) (b : Nat) (off : Nat) (bs : Bytes) (e : MemErr) :
    Kept s (State.writeSector t q b off bs e).st := by
  unfold State.writeSector
  extract_lets a r s0 top s1
  have h1 : Kept s r.st := State.openSector_kept h _ _ _ _ _
  have h2 : Kept s s1 := h1.updMem (mem := (r.st.writeOpen a bs).sealBlock b)
    fun w => Mem.sealBlock_wf _ _ (State.writeOpen_wf r.st a bs w)
  clear_value s1
  split
  · exact h1
  split
  extract_lets i
  split
  · exact State.alarm_kept h1 _ _
  · split
    · exact State.freeze_kept h2 _ _ _ _ _ _
    · exact h2
theorem State.hbmOpen_kept {s t : State} (h : Kept s t) (q : Requester) (a : Nat) (len : Nat) (e : MemErr) :
    Kept s (State.hbmOpen t q a len e).st := by
  unfold State.hbmOpen
  split
  · exact h
  refine Kept.foldlOf Served.st _ _ h fun p r hr => ?_
  split
  · exact hr
  · exact State.openSector_kept hr _ _ _ _ _
theorem State.hbmWrite_kept {s t : State} (h : Kept s t) (q : Requester) (a : Nat) (bs : Bytes) (e : MemErr) :
    Kept s (State.hbmWrite t q a bs e).st := by
  refine Kept.foldlOf Served.st _ _ h fun p r hr => ?_
  split
  · exact hr
  · exact State.writeSector_kept hr _ _ _ _ _
theorem State.memoryChanged_kept {s t : State} (h : Kept s t) (x : Area) :
    Kept s (State.memoryChanged t x) := by
  unfold State.memoryChanged
  repeat' first
    | (with_reducible first | exact h | assumption | apply State.modWorker_kept)
    | (fail_if_no_progress with_reducible apply Kept.upd) | intro _ | split
theorem State.ramUncorrectable_kept {s t : State} (h : Kept s t) (d : Fin 4) (a : Nat) (port : Nat) :
    Kept s (State.ramUncorrectable t d a port) := by
  unfold State.ramUncorrectable
  repeat' first | (with_reducible first | exact h | assumption | apply State.raiseDie_kept) | extract_lets | split
theorem State.cellRamError_kept {s t : State} (h : Kept s t) (d : Fin 4) (a : Nat) (e : MemErr) :
    Kept s (State.cellRamError t d a e) := by
  unfold State.cellRamError
  repeat' first
    | (with_reducible first
        | exact h | assumption | apply State.drawFree_kept | apply State.modFab_kept | apply State.ramUncorrectable_kept)
    | (fail_if_no_progress with_reducible apply Kept.upd) | intro _ | extract_lets | split
    | exact Kept.prod2 (State.drawFree_kept (by first | assumption | exact Kept.refl _)) (by assumption) | dsimp only
theorem State.failingWord_kept {s t : State} (h : Kept s t) (a len : Nat) (at_ : Option Nat) :
    Kept s (State.failingWord t a len at_).2 := by
  unfold State.failingWord
  split
  · exact h
  · exact Kept.prod2 (State.drawFree_kept h) rfl
theorem State.areaRead_kept {s t : State} (h : Kept s t) (q : Requester) (x : Area) (a : Nat) (len : Nat) (e : MemErr)
    (at_ : Option Nat) : Kept s (State.areaRead t q x a len e at_).1.st := by
  unfold State.areaRead
  split
  · exact h
  split
  · exact h
  dsimp only
  split
  · exact State.hbmOpen_kept h _ _ _ _
  · split
    · exact h
    · exact State.cellRamError_kept (State.failingWord_kept h _ _ _) _ _ _
  · split <;> exact h
theorem State.areaWrite_kept {s t : State} (h : Kept s t) (q : Requester) (x : Area) (a : Nat) (bs : Bytes) (e : MemErr) :
    Kept s (State.areaWrite t q x a bs e).st := by
  unfold State.areaWrite
  repeat' first
    | (with_reducible first
        | exact h | assumption | apply State.hbmWrite_kept | apply State.memoryChanged_kept | apply Kept.ite)
    | (fail_if_no_progress with_reducible apply Kept.upd)
    | ((fail_if_success with_reducible refine Kept.upd ?_); with_reducible apply Kept.updMem) | exact Mem.wf_congr rfl rfl
    | (with_reducible first | apply State.writeOpen_wf) | intro _ | split
theorem State.readFor_kept {s t : State} (h : Kept s t) (p : Pkt) (q : Requester) (x : Area) (a len : Nat) :
    Kept s (State.readFor t p q x a len).1.st := by
  unfold State.readFor
  split
  · exact State.areaRead_kept h _ _ _ _ _ _
  · next n _ =>
    have h1 := State.areaRead_kept h q x a n .ok none
    generalize t.areaRead q x a n .ok = r at h1 ⊢
    dsimp only
    split
    · exact h1
    · exact State.areaRead_kept h1 _ _ _ _ _ _
theorem State.writeFor_kept {s t : State} (h : Kept s t) (p : Pkt) (q : Requester) (x : Area) (a : Nat) (bs : Bytes) :
    Kept s (State.writeFor t p q x a bs).st := by
  unfold State.writeFor
  repeat' first
    | (with_reducible first | exact h | assumption | apply CmdDef.take_kept | apply State.areaWrite_kept)
    | (fail_if_no_progress with_reducible apply Kept.upd) | extract_lets | split
theorem State.prefetch_kept {s t : State} (h : Kept s t) (a : Nat) : Kept s (State.prefetch t a) := by
  unfold State.prefetch
  split
  exact .ite (State.walkNodes_kept h _ _) h
theorem State.zeroRange_kept {s t : State} (h : Kept s t) (a len : Nat) : Kept s (State.zeroRange t a len) := by
  unfold State.zeroRange
  refine Kept.foldl _ _ (h.updMem fun w => Mem.lose_wf _ _ _ _ w) fun p u hu => ?_
  split
  split
  · extract_lets v
    have hv : Kept s v := State.walkNodes_kept hu _ _
    exact hv.updMem fun w => Mem.sealBlock_wf _ _ w
  · exact hu
theorem State.stackTrained_kept {s t : State} (h : Kept s t) (n : Fin 4) (r : TrainResult) (repair : Bool) :
    Kept s (State.stackTrained t n r repair) := by
  unfold State.stackTrained
  repeat' first
    | (with_reducible first | exact h | assumption | apply State.modStack_kept | apply State.raise_kept | apply Kept.ite)
    | (fail_if_no_progress with_reducible apply Kept.upd) | intro _ | extract_lets | split
theorem State.newKeys_kept {s t : State} (h : Kept s t) (keyId : BitVec 16) (interleave : Bool) :
    Kept s (State.newKeys t keyId interleave) := by
  exact ⟨h.pending, fun w => Mem.wf_congr (m := t.mem.dropStacks fun _ => true) rfl rfl (Mem.dropStacks_wf t.mem _ (h.memory w)), h.rings, h.time⟩
theorem State.waitRekey_kept {s t : State} (h : Kept s t) (r : MemReq) :
    Kept s (State.waitRekey t r) := by
  unfold State.waitRekey
  repeat' first
    | (with_reducible first | exact h | assumption | apply State.modMem_kept)
    | (fail_if_no_progress with_reducible apply Kept.upd) | exact Mem.wf_congr rfl rfl | intro _

/-! Machine/WorkerFlow.lean. -/

theorem opEnd_good : OpMeaning.Good opEnd := by
  intro c s t h
  unfold opEnd
  repeat' first
    | exact h | (with_reducible first | assumption | apply State.endWorker_kept | apply State.modWorker_kept | apply Kept.ite)
    | (fail_if_no_progress with_reducible apply Kept.upd) | split | dsimp only
theorem opBra_good : OpMeaning.Good opBra := by
  intro c s t h
  unfold opBra branchTo
  repeat' first
    | exact h | (with_reducible first | assumption | apply Kept.ite) | (fail_if_no_progress with_reducible apply Kept.upd)
    | split | dsimp only
theorem opCall_good : OpMeaning.Good opCall := by
  intro c s t h
  unfold opCall
  repeat' first
    | exact h | (with_reducible first | assumption | apply Kept.ite) | (fail_if_no_progress with_reducible apply Kept.upd)
    | split | dsimp only
theorem opRet_good : OpMeaning.Good opRet := by
  intro c s t h
  unfold opRet branchTo
  repeat' first
    | exact h | (with_reducible first | assumption | apply Kept.ite) | (fail_if_no_progress with_reducible apply Kept.upd)
    | split | dsimp only
theorem opRti_good : OpMeaning.Good opRti := by
  intro c s t h
  unfold opRti branchTo
  repeat' first
    | exact h | (with_reducible first | assumption | apply Kept.ite) | (fail_if_no_progress with_reducible apply Kept.upd)
    | split | dsimp only
theorem opJmpr_good : OpMeaning.Good opJmpr := by
  intro c s t h
  unfold opJmpr branchTo
  repeat' first
    | exact h | (with_reducible first | assumption | apply Kept.ite) | (fail_if_no_progress with_reducible apply Kept.upd)
    | split | dsimp only
theorem opRep_good : OpMeaning.Good opRep := by
  intro c s t h
  unfold opRep
  repeat' first
    | exact h | (with_reducible first | assumption | apply State.modWorker_kept | apply Kept.ite)
    | (fail_if_no_progress with_reducible apply Kept.upd) | split | dsimp only
theorem opLck_good : OpMeaning.Good opLck := by
  intro c s t h
  unfold opLck
  repeat' first
    | exact h | (with_reducible first | assumption | apply Kept.ite) | (fail_if_no_progress with_reducible apply Kept.upd)
    | split | dsimp only
theorem opUlk_good : OpMeaning.Good opUlk := by
  intro c s t h
  unfold opUlk
  repeat' first
    | exact h | (with_reducible first | assumption | apply Kept.ite) | (fail_if_no_progress with_reducible apply Kept.upd)
    | split | dsimp only
theorem opSig_good : OpMeaning.Good opSig := by
  intro c s t h
  unfold opSig
  repeat' first
    | exact h | (with_reducible first | assumption | apply State.modWorker_kept | apply Kept.ite)
    | (fail_if_no_progress with_reducible apply Kept.upd) | split | dsimp only
theorem opWdr_good : OpMeaning.Good opWdr := by
  intro c s t h
  unfold opWdr
  repeat' first
    | exact h | (with_reducible first | assumption | apply State.modWorker_kept | apply Kept.ite)
    | (fail_if_no_progress with_reducible apply Kept.upd) | split | dsimp only
theorem execEnd_kept {s t : State} (h : Kept s t) (w : Fin 32) (e : WEcc) :
    KeptOut s (execEnd w e t) := by
  unfold execEnd
  repeat' first
    | (with_reducible first | exact h | assumption | apply State.runOp_kept | apply KeptOut.next | apply KeptOut.ite)
    | exact opEnd_good
theorem execBra_kept {s t : State} (h : Kept s t) (w : Fin 32) (e : WEcc) :
    KeptOut s (execBra w e t) := by
  unfold execBra
  repeat' first
    | (with_reducible first | exact h | assumption | apply State.runOp_kept | apply KeptOut.next | apply KeptOut.ite)
    | exact opBra_good
theorem execCall_kept {s t : State} (h : Kept s t) (w : Fin 32) (e : WEcc) :
    KeptOut s (execCall w e t) := by
  unfold execCall
  repeat' first
    | (with_reducible first | exact h | assumption | apply State.runOp_kept | apply KeptOut.next | apply KeptOut.ite)
    | exact opCall_good
theorem execRet_kept {s t : State} (h : Kept s t) (w : Fin 32) (e : WEcc) :
    KeptOut s (execRet w e t) := by
  unfold execRet
  repeat' first
    | (with_reducible first | exact h | assumption | apply State.runOp_kept | apply KeptOut.next | apply KeptOut.ite)
    | exact opRet_good
theorem execRti_kept {s t : State} (h : Kept s t) (w : Fin 32) (e : WEcc) :
    KeptOut s (execRti w e t) := by
  unfold execRti
  repeat' first
    | (with_reducible first | exact h | assumption | apply State.runOp_kept | apply KeptOut.next | apply KeptOut.ite)
    | exact opRti_good
theorem execJmpr_kept {s t : State} (h : Kept s t) (w : Fin 32) (e : WEcc) :
    KeptOut s (execJmpr w e t) := by
  unfold execJmpr
  repeat' first
    | (with_reducible first | exact h | assumption | apply State.runOp_kept | apply KeptOut.next | apply KeptOut.ite)
    | exact opJmpr_good
theorem execRep_kept {s t : State} (h : Kept s t) (w : Fin 32) (e : WEcc) :
    KeptOut s (execRep w e t) := by
  unfold execRep
  repeat' first
    | (with_reducible first | exact h | assumption | apply State.runOp_kept | apply KeptOut.next | apply KeptOut.ite)
    | exact opRep_good
theorem execLck_kept {s t : State} (h : Kept s t) (w : Fin 32) (e : WEcc) :
    KeptOut s (execLck w e t) := by
  unfold execLck
  repeat' first
    | (with_reducible first | exact h | assumption | apply State.runOp_kept | apply KeptOut.next | apply KeptOut.ite)
    | exact opLck_good
theorem execUlk_kept {s t : State} (h : Kept s t) (w : Fin 32) (e : WEcc) :
    KeptOut s (execUlk w e t) := by
  unfold execUlk
  repeat' first
    | (with_reducible first | exact h | assumption | apply State.runOp_kept | apply KeptOut.next | apply KeptOut.ite)
    | exact opUlk_good
theorem execSig_kept {s t : State} (h : Kept s t) (w : Fin 32) (e : WEcc) :
    KeptOut s (execSig w e t) := by
  unfold execSig
  repeat' first
    | (with_reducible first | exact h | assumption | apply State.runOp_kept | apply KeptOut.next | apply KeptOut.ite)
    | exact opSig_good
theorem execWdr_kept {s t : State} (h : Kept s t) (w : Fin 32) (e : WEcc) :
    KeptOut s (execWdr w e t) := by
  unfold execWdr
  repeat' first
    | (with_reducible first | exact h | assumption | apply State.runOp_kept | apply KeptOut.next | apply KeptOut.ite)
    | exact opWdr_good

/-! Machine/WorkerVector.lean. -/

theorem State.takeWindowWord_kept {s t : State} (h : Kept s t) (w : Fin 32) :
    Kept s (State.takeWindowWord t w) := by
  unfold State.takeWindowWord
  repeat' first
    | (with_reducible first
        | exact h | assumption | apply CmdDef.take_kept | apply State.modWorker_kept | apply State.prefetch_kept
        | apply Kept.ite)
    | (fail_if_no_progress with_reducible apply Kept.upd) | intro _ | extract_lets | split
theorem State.pushEntry_kept {s t : State} (h : Kept s t) (w : Fin 32) (g : Fin 16) (word : BitVec 256) (ts : Fin 32)
    (plays : Nat) (isMatch : Bool) :
    Kept s (State.pushEntry t w g word ts plays isMatch) := by
  unfold State.pushEntry
  repeat' first
    | (with_reducible first
        | exact h | assumption | apply CmdDef.run_kept | apply State.modGroup_kept | apply State.modWorker_kept
        | apply Kept.ite)
    | (fail_if_no_progress with_reducible apply Kept.upd) | intro _ | extract_lets | split
theorem opVec_good : OpMeaning.Good opVec := by
  intro c s t h
  unfold opVec pushOut
  repeat' first
    | exact h
    | (with_reducible first
        | assumption | apply State.modWorker_kept | apply State.pushEntry_kept | apply State.takeWindowWord_kept
        | apply Kept.ite)
    | (fail_if_no_progress with_reducible apply Kept.upd) | split | dsimp only
theorem opVecr_good : OpMeaning.Good opVecr := by
  intro c s t h
  unfold opVecr pushOut
  repeat' first
    | exact h
    | (with_reducible first
        | assumption | apply State.modWorker_kept | apply State.pushEntry_kept | apply State.takeWindowWord_kept
        | apply Kept.ite)
    | (fail_if_no_progress with_reducible apply Kept.upd) | split | dsimp only
theorem opVmatch_good : OpMeaning.Good opVmatch := by
  intro c s t h
  unfold opVmatch pushOut
  repeat' first
    | exact h
    | (with_reducible first
        | assumption | apply State.modWorker_kept | apply State.pushEntry_kept | apply State.takeWindowWord_kept
        | apply Kept.ite)
    | (fail_if_no_progress with_reducible apply Kept.upd) | split | dsimp only
theorem opVmark_good : OpMeaning.Good opVmark := by
  intro c s t h
  unfold opVmark
  repeat' first
    | exact h | (with_reducible first | assumption | apply State.modWorker_kept | apply Kept.ite)
    | (fail_if_no_progress with_reducible apply Kept.upd) | split | dsimp only
theorem opVwait_good : OpMeaning.Good opVwait := by
  intro c s t h
  unfold opVwait
  repeat' first
    | exact h | (with_reducible first | assumption | apply Kept.ite) | (fail_if_no_progress with_reducible apply Kept.upd)
    | split | dsimp only
theorem execVec_kept {s t : State} (h : Kept s t) (w : Fin 32) (e : WEcc) :
    KeptOut s (execVec w e t) := by
  unfold execVec
  repeat' first
    | (with_reducible first | exact h | assumption | apply State.runOp_kept | apply KeptOut.next | apply KeptOut.ite)
    | exact opVec_good
theorem execVecr_kept {s t : State} (h : Kept s t) (w : Fin 32) (e : WEcc) :
    KeptOut s (execVecr w e t) := by
  unfold execVecr
  repeat' first
    | (with_reducible first | exact h | assumption | apply State.runOp_kept | apply KeptOut.next | apply KeptOut.ite)
    | exact opVecr_good
theorem execVmatch_kept {s t : State} (h : Kept s t) (w : Fin 32) (e : WEcc) :
    KeptOut s (execVmatch w e t) := by
  unfold execVmatch
  repeat' first
    | (with_reducible first | exact h | assumption | apply State.runOp_kept | apply KeptOut.next | apply KeptOut.ite)
    | exact opVmatch_good
theorem execVmark_kept {s t : State} (h : Kept s t) (w : Fin 32) (e : WEcc) :
    KeptOut s (execVmark w e t) := by
  unfold execVmark
  repeat' first
    | (with_reducible first | exact h | assumption | apply State.runOp_kept | apply KeptOut.next | apply KeptOut.ite)
    | exact opVmark_good
theorem execVwait_kept {s t : State} (h : Kept s t) (w : Fin 32) (e : WEcc) :
    KeptOut s (execVwait w e t) := by
  unfold execVwait
  repeat' first
    | (with_reducible first | exact h | assumption | apply State.runOp_kept | apply KeptOut.next | apply KeptOut.ite)
    | exact opVwait_good

/-! Machine/WorkerEvents.lean. -/

theorem stalledMeaning_good (opc : Nat) : OpMeaning.Good (stalledMeaning opc) := by
  unfold stalledMeaning
  repeat' first | exact opVec_good | exact opVecr_good | exact opVmatch_good | exact opVwait_good | exact opLck_good | split
theorem execStallRelease_kept {s t : State} (h : Kept s t) (w : Fin 32) : KeptOut s (execStallRelease w t) := by
  refine .next (.ite h ?_)
  split
  · exact h
  · exact State.issue_kept h _ _ fun _ _ _ h => h
  · exact State.issue_kept h _ _ (stalledMeaning_good _)
theorem execInterruptEntry_kept {s t : State} (h : Kept s t) (w : Fin 32) :
    KeptOut s (execInterruptEntry w t) := by
  unfold execInterruptEntry
  repeat' first
    | (with_reducible first | exact h | assumption | apply State.modWorker_kept | apply Kept.ite)
    | (fail_if_no_progress with_reducible apply Kept.upd) | intro _ | extract_lets | split
    | (with_reducible first | apply KeptOut.next | apply KeptOut.ite) | exact opView_good
theorem execTimerReachedZero_kept {s t : State} (h : Kept s t) (w : Fin 32) :
    KeptOut s (execTimerReachedZero w t) := by
  unfold execTimerReachedZero
  repeat' first
    | (with_reducible first
        | exact h | assumption | apply State.modWorker_kept | apply State.pendLine_kept | apply Kept.ite)
    | (fail_if_no_progress with_reducible apply Kept.upd) | intro _ | extract_lets | split
    | (with_reducible first | apply KeptOut.next | apply KeptOut.ite)
theorem execWatchdogExpiry_kept {s t : State} (h : Kept s t) (w : Fin 32) :
    KeptOut s (execWatchdogExpiry w t) := by
  unfold execWatchdogExpiry
  repeat' first
    | (with_reducible first
        | exact h | assumption | apply State.modWorker_kept | apply State.raiseDie_kept | apply State.requestHalt_kept
        | apply Kept.ite)
    | (fail_if_no_progress with_reducible apply Kept.upd) | intro _ | extract_lets | split
    | (with_reducible first | apply KeptOut.next | apply KeptOut.ite)
theorem execSigArrival_kept {s t : State} (h : Kept s t) (w : Fin 32) :
    KeptOut s (execSigArrival w t) := by
  unfold execSigArrival
  repeat' first
    | (with_reducible first
        | exact h | assumption | apply State.modWorker_kept | apply State.pendLine_kept | apply Kept.ite)
    | (fail_if_no_progress with_reducible apply Kept.upd) | intro _ | extract_lets | split
    | (with_reducible first | apply KeptOut.next | apply KeptOut.ite)
theorem execChunkReturn_kept {s t : State} (h : Kept s t) (w : Fin 32) (r : ChunkEnd) : KeptOut s
    (execChunkReturn w r t) := by
  unfold execChunkReturn
  extract_lets x
  refine KeptOut.next (.ite h ?_)
  split
  · exact h
  extract_lets a q ok s1 s2 was s3
  have h1 : Kept s s1 := .ite h (State.hbmOpen_kept h _ _ _ _)
  have h2 : Kept s s2 := .ite (State.modMem_kept h1 _ (Mem.write_wf _ _ _)) h1
  have h3 : Kept s s3 := State.modWorker_kept h2 _ _
  exact .ite (State.pendLine_kept h3 _ _) h3
theorem execStopBoundary_kept {s t : State} (h : Kept s t) (w : Fin 32) :
    KeptOut s (execStopBoundary w t) := by
  unfold execStopBoundary
  repeat' first
    | (with_reducible first | exact h | assumption | apply State.stopWorker_kept | apply Kept.ite) | extract_lets | split
    | (with_reducible first | apply KeptOut.next | apply KeptOut.ite)
theorem State.haltWorker_kept {s t : State} (h : Kept s t) (w : Fin 32) :
    Kept s (State.haltWorker t w) := by
  unfold State.haltWorker
  repeat' first
    | (with_reducible first
        | exact h | assumption | apply State.drain_kept | apply State.endStep_kept | apply State.haltSettled_kept
        | apply State.modGroup_kept | apply State.modWorker_kept | apply State.workerEvent_kept)
    | (fail_if_no_progress with_reducible apply Kept.upd) | intro _ | extract_lets | split
theorem execHaltPoint_kept {s t : State} (h : Kept s t) (w : Fin 32) :
    KeptOut s (execHaltPoint w t) := by
  unfold execHaltPoint
  repeat' first
    | (with_reducible first | exact h | assumption | apply State.haltWorker_kept | apply Kept.ite) | split
    | (with_reducible first | apply KeptOut.next | apply KeptOut.ite)
theorem execLockBroken_kept {s t : State} (h : Kept s t) (w : Fin 32) :
    KeptOut s (execLockBroken w t) := by
  unfold execLockBroken
  repeat' first
    | (with_reducible first | exact h | assumption | apply State.releaseSems_kept | apply Kept.ite)
    | (fail_if_no_progress with_reducible apply Kept.upd) | extract_lets | split
    | (with_reducible first | apply KeptOut.next | apply KeptOut.ite)

/-! Machine/WorkCmds.lean. -/

theorem State.readImage_kept {s t : State} (h : Kept s t) (p : Pkt) (b : Words) : Kept s (State.readImage t p b).2.2 := by
  unfold State.readImage
  extract_lets n got a
  split
  · exact h
  split
  · exact h
  next x _ =>
  have hr : Kept s (t.readFor p .queen x a n).1.st := State.readFor_kept h _ _ _ _ _
  generalize t.readFor p .queen x a n = q at hr ⊢
  dsimp only
  split
  · exact hr
  · exact State.drawFree_kept hr
theorem workLoadAct_kept {s t : State} (h : Kept s t) (j : Job) : (workLoadAct j t).Keeps s := by
  unfold workLoadAct
  extract_lets w b
  split
  next x image err s1 e =>
  have h1 : Kept s s1 := Kept.prod22 (State.readImage_kept h _ _) e
  refine Act.keeps_ite (.done (State.modWorker_kept (State.modMem_kept h1 _ ?_) _ _) _) (Act.keeps_ite (.done h1 _)
    (.done (State.modWorker_kept (State.modMem_kept h1 _ ?_) _ _) _)) <;> exact Mem.putImage_wf _ _ _ _ _
theorem cmdWorkLoad_good : cmdWorkLoad.Good := by
  refine ⟨fun j s t h => ?_, fun j v s t h => ?_⟩ <;> dsimp only [cmdWorkLoad, CmdDef.plain]
  all_goals repeat' first
    | (with_reducible first | exact h | assumption | apply workLoadAct_kept | apply Kept.ite)
    | (fail_if_no_progress with_reducible apply Kept.upd) | intro _ | extract_lets | split
    | (with_reducible first | apply Act.Keeps.done | apply Act.Keeps.close | apply Act.Keeps.stay | apply Act.keeps_ite)
theorem execWorkLoad_kept {s t : State} (h : Kept s t) (p : Pkt) :
    KeptOut s (execWorkLoad p t) := by
  unfold execWorkLoad
  repeat' first
    | (with_reducible first | exact h | assumption | apply CmdDef.fetch_kept | apply KeptOut.next | apply KeptOut.ite)
    | exact cmdWorkLoad_good
theorem cmdWorkStreamSet_good : cmdWorkStreamSet.Good := by
  refine ⟨fun j s t h => ?_, fun j v s t h => ?_⟩ <;> dsimp only [cmdWorkStreamSet, CmdDef.plain]
  all_goals repeat' first
    | (with_reducible first | exact h | assumption | apply State.modWorker_kept | apply Kept.ite)
    | (fail_if_no_progress with_reducible apply Kept.upd) | intro _ | extract_lets | split
    | (with_reducible first | apply Act.Keeps.done | apply Act.Keeps.close | apply Act.Keeps.stay | apply Act.keeps_ite)
theorem execWorkStreamSet_kept {s t : State} (h : Kept s t) (p : Pkt) :
    KeptOut s (execWorkStreamSet p t) := by
  unfold execWorkStreamSet
  repeat' first
    | (with_reducible first | exact h | assumption | apply CmdDef.fetch_kept | apply KeptOut.next | apply KeptOut.ite)
    | exact cmdWorkStreamSet_good
theorem State.driveOut_kept {s t : State} (h : Kept s t) (n : Fin 128) (txe : Bool) (l : Level) :
    Kept s (State.driveOut t n txe l) := by
  unfold State.driveOut
  repeat' first
    | (with_reducible first | exact h | assumption | apply State.drive_kept | apply State.modPort_kept | apply Kept.ite)
    | (fail_if_no_progress with_reducible apply Kept.upd) | intro _ | extract_lets | split
theorem State.armGroup_kept {s t : State} (h : Kept s t) (g : Fin 16) :
    Kept s (State.armGroup t g) := by
  unfold State.armGroup
  repeat' first
    | (with_reducible first
        | exact h | assumption | apply State.driveOut_kept | apply CmdDef.run_kept | apply State.drive_kept
        | apply State.modGroup_kept
        | refine Kept.forAll _ _ ?_ (fun _ _ _ => ?_) | apply Kept.ite)
    | (fail_if_no_progress with_reducible apply Kept.upd) | intro _ | extract_lets | split
theorem State.prefetchWindow_kept {s t : State} (h : Kept s t) (w : Fin 32) :
    Kept s (State.prefetchWindow t w) := by
  unfold State.prefetchWindow
  repeat' first
    | (with_reducible first
        | exact h | assumption | apply State.prefetch_kept | refine Kept.foldl _ _ ?_ (fun _ _ _ => ?_) | apply Kept.ite)
    | intro _ | extract_lets | split
theorem workStartAct_kept {s t : State} (h : Kept s t) (j : Job) :
    (workStartAct j t).Keeps s := by
  unfold workStartAct
  repeat' first
    | (with_reducible first
        | exact h | assumption | apply State.modGroup_kept | apply CmdDef.begin_kept | apply State.armGroup_kept
        | apply State.modWorker_kept
        | apply State.prefetchWindow_kept | refine Kept.forAll _ _ ?_ (fun _ _ _ => ?_))
    | (fail_if_no_progress with_reducible apply Kept.upd) | intro _ | extract_lets | split
    | (with_reducible first | apply Act.Keeps.done | apply Act.Keeps.close | apply Act.Keeps.stay | apply Act.keeps_ite)
theorem cmdWorkStart_good : cmdWorkStart.Good := by
  refine ⟨fun j s t h => ?_, fun j v s t h => ?_⟩ <;> dsimp only [cmdWorkStart, CmdDef.plain]
  all_goals repeat' first
    | (with_reducible first | exact h | assumption | apply workStartAct_kept)
    | (fail_if_no_progress with_reducible apply Kept.upd) | intro _
    | (with_reducible first | apply Act.Keeps.done | apply Act.Keeps.close | apply Act.Keeps.stay | apply Act.keeps_ite)
theorem execWorkStart_kept {s t : State} (h : Kept s t) (p : Pkt) :
    KeptOut s (execWorkStart p t) := by
  unfold execWorkStart
  repeat' first
    | (with_reducible first | exact h | assumption | apply CmdDef.fetch_kept | apply KeptOut.next | apply KeptOut.ite)
    | exact cmdWorkStart_good
theorem State.dropStart_kept {s t : State} (h : Kept s t) (x : Start) :
    Kept s (State.dropStart t x) := by
  unfold State.dropStart
  repeat' first
    | (with_reducible first
        | exact h | assumption | apply State.modGroup_kept | apply State.stopWorker_kept
        | refine Kept.forAll _ _ ?_ (fun _ _ _ => ?_))
    | (fail_if_no_progress with_reducible apply Kept.upd) | intro _ | extract_lets | split
theorem execStartInstant_kept {s t : State} (h : Kept s t) (k : JobKey) :
    KeptOut s (execStartInstant k t) := by
  unfold execStartInstant
  repeat' first
    | (with_reducible first
        | exact h | assumption | apply State.commitDone_kept | apply State.dropStart_kept | apply State.modWorker_kept
        | apply State.refuse_kept | apply State.startedFunction_kept | refine Kept.forAll _ _ ?_ (fun _ _ _ => ?_))
    | (fail_if_no_progress with_reducible apply Kept.upd) | intro _ | extract_lets | split
    | (with_reducible first | apply KeptOut.next | apply KeptOut.ite)
theorem workStopAct_kept {s t : State} (h : Kept s t) (j : Job) :
    (workStopAct j t).Keeps s := by
  unfold workStopAct
  repeat' first
    | (with_reducible first
        | exact h | assumption | apply State.modWorker_kept | apply State.stopWorker_kept
        | refine Kept.forAll _ _ ?_ (fun _ _ _ => ?_) | apply Kept.ite)
    | (fail_if_no_progress with_reducible apply Kept.upd) | intro _ | extract_lets | split
    | (with_reducible first | apply Act.Keeps.done | apply Act.Keeps.close | apply Act.Keeps.stay | apply Act.keeps_ite)
theorem cmdWorkStop_good : cmdWorkStop.Good := by
  refine ⟨fun j s t h => ?_, fun j v s t h => ?_⟩ <;> dsimp only [cmdWorkStop, CmdDef.plain]
  all_goals repeat' with_reducible first | exact h | assumption | apply workStopAct_kept | apply Act.Keeps.done | apply Act.Keeps.close | apply Act.Keeps.stay | apply Act.keeps_ite
theorem execWorkStop_kept {s t : State} (h : Kept s t) (p : Pkt) :
    KeptOut s (execWorkStop p t) := by
  unfold execWorkStop
  repeat' first
    | (with_reducible first | exact h | assumption | apply CmdDef.fetch_kept | apply KeptOut.next | apply KeptOut.ite)
    | exact cmdWorkStop_good
theorem cmdWorkSignal_good : cmdWorkSignal.Good := by
  refine ⟨fun j s t h => ?_, fun j v s t h => ?_⟩ <;> dsimp only [cmdWorkSignal, CmdDef.plain]
  all_goals repeat' first
    | (with_reducible first
        | exact h | assumption | apply State.pendLine_kept | refine Kept.forAll _ _ ?_ (fun _ _ _ => ?_))
    | intro _ | extract_lets | split
    | (with_reducible first | apply Act.Keeps.done | apply Act.Keeps.close | apply Act.Keeps.stay | apply Act.keeps_ite)
theorem execWorkSignal_kept {s t : State} (h : Kept s t) (p : Pkt) :
    KeptOut s (execWorkSignal p t) := by
  unfold execWorkSignal
  repeat' first
    | (with_reducible first | exact h | assumption | apply CmdDef.fetch_kept | apply KeptOut.next | apply KeptOut.ite)
    | exact cmdWorkSignal_good
theorem cmdWorkStatus_good : cmdWorkStatus.Good := by
  refine ⟨fun j s t h => ?_, fun j v s t h => ?_⟩ <;> dsimp only [cmdWorkStatus, CmdDef.plain]
  all_goals repeat' first
    | (with_reducible first | exact h | assumption) | intro _
    | (with_reducible first | apply Act.Keeps.done | apply Act.Keeps.close | apply Act.Keeps.stay | apply Act.keeps_ite)
theorem execWorkStatus_kept {s t : State} (h : Kept s t) (p : Pkt) :
    KeptOut s (execWorkStatus p t) := by
  unfold execWorkStatus
  repeat' first
    | (with_reducible first | exact h | assumption | apply CmdDef.fetch_kept | apply KeptOut.next | apply KeptOut.ite)
    | exact cmdWorkStatus_good

/-! Machine/TimCmds.lean. -/

theorem timingAct_kept {s t : State} (h : Kept s t) (j : Job) :
    (timingAct j t).Keeps s := by
  unfold timingAct
  repeat' first
    | (with_reducible first | exact h | assumption | apply State.modGroup_kept | apply Kept.ite)
    | (fail_if_no_progress with_reducible apply Kept.upd) | intro _ | extract_lets | split
    | (with_reducible first | apply Act.Keeps.done | apply Act.Keeps.close | apply Act.Keeps.stay | apply Act.keeps_ite)
theorem cmdTimTimingSet_good : cmdTimTimingSet.Good := by
  refine ⟨fun j s t h => ?_, fun j v s t h => ?_⟩ <;> dsimp only [cmdTimTimingSet, CmdDef.plain]
  all_goals repeat' first
    | (with_reducible first | exact h | assumption | apply timingAct_kept | apply Kept.ite)
    | (fail_if_no_progress with_reducible apply Kept.upd) | intro _ | extract_lets | split
    | (with_reducible first | apply Act.Keeps.done | apply Act.Keeps.close | apply Act.Keeps.stay | apply Act.keeps_ite)
theorem execTimTimingSet_kept {s t : State} (h : Kept s t) (p : Pkt) :
    KeptOut s (execTimTimingSet p t) := by
  unfold execTimTimingSet
  repeat' first
    | (with_reducible first | exact h | assumption | apply CmdDef.fetch_kept | apply KeptOut.next | apply KeptOut.ite)
    | exact cmdTimTimingSet_good
theorem cmdTimSiteMap_good : cmdTimSiteMap.Good := by
  refine ⟨fun j s t h => ?_, fun j v s t h => ?_⟩ <;> dsimp only [cmdTimSiteMap, CmdDef.plain]
  all_goals repeat' first
    | (with_reducible first | exact h | assumption | apply State.modGroup_kept)
    | (fail_if_no_progress with_reducible apply Kept.upd) | intro _ | extract_lets | split
    | (with_reducible first | apply Act.Keeps.done | apply Act.Keeps.close | apply Act.Keeps.stay | apply Act.keeps_ite)
theorem execTimSiteMap_kept {s t : State} (h : Kept s t) (p : Pkt) :
    KeptOut s (execTimSiteMap p t) := by
  unfold execTimSiteMap
  repeat' first
    | (with_reducible first | exact h | assumption | apply CmdDef.fetch_kept | apply KeptOut.next | apply KeptOut.ite)
    | exact cmdTimSiteMap_good
theorem deskewAct_kept {s t : State} (h : Kept s t) (j : Job) :
    (deskewAct j t).Keeps s := by
  unfold deskewAct
  repeat' first
    | (with_reducible first | exact h | assumption | apply State.modGroup_kept | apply Kept.ite)
    | (fail_if_no_progress with_reducible apply Kept.upd) | intro _ | extract_lets | split
    | (with_reducible first | apply Act.Keeps.done | apply Act.Keeps.close | apply Act.Keeps.stay | apply Act.keeps_ite)
theorem cmdTimDeskew_good : cmdTimDeskew.Good := by
  refine ⟨fun j s t h => ?_, fun j v s t h => ?_⟩ <;> dsimp only [cmdTimDeskew, CmdDef.plain]
  all_goals repeat' first
    | (with_reducible first | exact h | assumption | apply deskewAct_kept | apply Kept.ite)
    | (fail_if_no_progress with_reducible apply Kept.upd) | intro _ | extract_lets | split
    | (with_reducible first | apply Act.Keeps.done | apply Act.Keeps.close | apply Act.Keeps.stay | apply Act.keeps_ite)
theorem execTimDeskew_kept {s t : State} (h : Kept s t) (p : Pkt) :
    KeptOut s (execTimDeskew p t) := by
  unfold execTimDeskew
  repeat' first
    | (with_reducible first | exact h | assumption | apply CmdDef.fetch_kept | apply KeptOut.next | apply KeptOut.ite)
    | exact cmdTimDeskew_good
theorem State.storeCal_kept {s t : State} (h : Kept s t) (disturbed : BitVec 4) (r : List CalResult) (g : Fin 16) :
    Kept s (State.storeCal t disturbed r g).1 := by
  unfold State.storeCal
  repeat' first
    | (with_reducible first | exact h | assumption | apply State.modGroup_kept | apply Kept.ite)
    | (fail_if_no_progress with_reducible apply Kept.upd) | intro _ | extract_lets | split | dsimp only
theorem execCalibrationEnd_kept {s t : State} (h : Kept s t) (r : List CalResult) : KeptOut s (execCalibrationEnd r t) := by
  unfold execCalibrationEnd
  refine .next ?_
  split
  · exact h
  extract_lets c s1
  have h1 : Kept s s1 := h.upd
  clear_value s1
  split
  · exact h1
  split
  next e =>
  refine State.commitDone_kept (Kept.prod1 (Kept.foldlOf Prod.fst _ _ h1 fun g a ha => ?_) e) _ _
  exact State.storeCal_kept ha _ _ _

/-! Machine/PortCmds.lean. -/

theorem State.setPort_kept {s t : State} (h : Kept s t) (b : Words) (g : Fin 16) (p : Fin 8) :
    Kept s (State.setPort t b g p) := by
  unfold State.setPort
  repeat' first
    | (with_reducible first | exact h | assumption | apply State.modPort_kept | apply State.showPolarity_kept)
    | (fail_if_no_progress with_reducible apply Kept.upd) | intro _ | extract_lets | split
theorem portSetAct_kept {s t : State} (h : Kept s t) (j : Job) :
    (portSetAct j t).Keeps s := by
  unfold portSetAct
  repeat' first
    | (with_reducible first
        | exact h | assumption | apply State.modGroup_kept | apply State.refreshPort_kept | apply State.setPort_kept
        | refine Kept.forAll _ _ ?_ (fun _ _ _ => ?_))
    | (fail_if_no_progress with_reducible apply Kept.upd) | intro _ | extract_lets | split
    | (with_reducible first | apply Act.Keeps.done | apply Act.Keeps.close | apply Act.Keeps.stay | apply Act.keeps_ite)
theorem cmdPortSet_good : cmdPortSet.Good := by
  refine ⟨fun j s t h => ?_, fun j v s t h => ?_⟩ <;> dsimp only [cmdPortSet, CmdDef.plain]
  all_goals repeat' first
    | (with_reducible first | exact h | assumption | apply portSetAct_kept)
    | (fail_if_no_progress with_reducible apply Kept.upd) | intro _ | extract_lets | split
    | (with_reducible first | apply Act.Keeps.done | apply Act.Keeps.close | apply Act.Keeps.stay | apply Act.keeps_ite)
theorem execPortSet_kept {s t : State} (h : Kept s t) (p : Pkt) :
    KeptOut s (execPortSet p t) := by
  unfold execPortSet
  repeat' first
    | (with_reducible first | exact h | assumption | apply CmdDef.fetch_kept | apply KeptOut.next | apply KeptOut.ite)
    | exact cmdPortSet_good
theorem cmdPortGet_good : cmdPortGet.Good := by
  refine ⟨fun j s t h => ?_, fun j v s t h => ?_⟩ <;> dsimp only [cmdPortGet, CmdDef.plain]
  all_goals repeat' first
    | (with_reducible first | exact h | assumption | apply Kept.ite) | (fail_if_no_progress with_reducible apply Kept.upd)
    | intro _ | extract_lets | split
    | (with_reducible first | apply Act.Keeps.done | apply Act.Keeps.close | apply Act.Keeps.stay | apply Act.keeps_ite)
theorem execPortGet_kept {s t : State} (h : Kept s t) (p : Pkt) :
    KeptOut s (execPortGet p t) := by
  unfold execPortGet
  repeat' first
    | (with_reducible first | exact h | assumption | apply CmdDef.fetch_kept | apply KeptOut.next | apply KeptOut.ite)
    | exact cmdPortGet_good
theorem State.startLane_kept {s t : State} (h : Kept s t) (n : Fin 128) :
    Kept s (State.startLane t n) := by
  unfold State.startLane
  repeat' first
    | (with_reducible first
        | exact h | assumption | apply State.modPort_kept | apply State.refreshPort_kept | apply Kept.ite)
    | (fail_if_no_progress with_reducible apply Kept.upd) | intro _ | split
theorem State.stopLane_kept {s t : State} (h : Kept s t) (n : Fin 128) :
    Kept s (State.stopLane t n) := by
  unfold State.stopLane
  repeat' first
    | (with_reducible first
        | exact h | assumption | apply State.modPort_kept | apply State.refreshPort_kept | apply Kept.ite)
    | (fail_if_no_progress with_reducible apply Kept.upd) | intro _ | split
theorem cmdPortStart_good : cmdPortStart.Good := by
  refine ⟨fun j s t h => ?_, fun j v s t h => ?_⟩ <;> dsimp only [cmdPortStart, CmdDef.plain]
  all_goals repeat' first
    | (with_reducible first
        | exact h | assumption | apply State.startLane_kept | apply State.startedFunction_kept
        | refine Kept.forAll _ _ ?_ (fun _ _ _ => ?_))
    | (fail_if_no_progress with_reducible apply Kept.upd) | intro _
    | (with_reducible first | apply Act.Keeps.done | apply Act.Keeps.close | apply Act.Keeps.stay | apply Act.keeps_ite)
theorem execPortStart_kept {s t : State} (h : Kept s t) (p : Pkt) :
    KeptOut s (execPortStart p t) := by
  unfold execPortStart
  repeat' first
    | (with_reducible first | exact h | assumption | apply CmdDef.fetch_kept | apply KeptOut.next | apply KeptOut.ite)
    | exact cmdPortStart_good
theorem cmdPortStop_good : cmdPortStop.Good := by
  refine ⟨fun j s t h => ?_, fun j v s t h => ?_⟩ <;> dsimp only [cmdPortStop, CmdDef.plain]
  all_goals repeat' first
    | (with_reducible first
        | exact h | assumption | apply State.stopLane_kept | refine Kept.forAll _ _ ?_ (fun _ _ _ => ?_))
    | (fail_if_no_progress with_reducible apply Kept.upd) | intro _
    | (with_reducible first | apply Act.Keeps.done | apply Act.Keeps.close | apply Act.Keeps.stay | apply Act.keeps_ite)
theorem execPortStop_kept {s t : State} (h : Kept s t) (p : Pkt) :
    KeptOut s (execPortStop p t) := by
  unfold execPortStop
  repeat' first
    | (with_reducible first | exact h | assumption | apply CmdDef.fetch_kept | apply KeptOut.next | apply KeptOut.ite)
    | exact cmdPortStop_good
theorem cmdPortLinkStatus_good : cmdPortLinkStatus.Good := by
  refine ⟨fun j s t h => ?_, fun j v s t h => ?_⟩ <;> dsimp only [cmdPortLinkStatus, CmdDef.plain]
  all_goals repeat' first
    | (with_reducible first
        | exact h | assumption | apply State.modPort_kept | refine Kept.forAll _ _ ?_ (fun _ _ _ => ?_) | apply Kept.ite)
    | (fail_if_no_progress with_reducible apply Kept.upd) | intro _ | extract_lets | split
    | (with_reducible first | apply Act.Keeps.done | apply Act.Keeps.close | apply Act.Keeps.stay | apply Act.keeps_ite)
theorem execPortLinkStatus_kept {s t : State} (h : Kept s t) (p : Pkt) :
    KeptOut s (execPortLinkStatus p t) := by
  unfold execPortLinkStatus
  repeat' first
    | (with_reducible first | exact h | assumption | apply CmdDef.fetch_kept | apply KeptOut.next | apply KeptOut.ite)
    | exact cmdPortLinkStatus_good
theorem portDetectAct_kept {s t : State} (h : Kept s t) (j : Job) :
    (portDetectAct j t).Keeps s := by
  unfold portDetectAct
  repeat' first
    | (with_reducible first
        | exact h | assumption | apply State.beginTest_kept | refine Kept.forAll _ _ ?_ (fun _ _ _ => ?_) | apply Kept.ite)
    | (fail_if_no_progress with_reducible apply Kept.upd) | intro _ | extract_lets | split
    | (with_reducible first | apply Act.Keeps.done | apply Act.Keeps.close | apply Act.Keeps.stay | apply Act.keeps_ite)
theorem cmdPortDetect_good : cmdPortDetect.Good := by
  refine ⟨fun j s t h => ?_, fun j v s t h => ?_⟩ <;> dsimp only [cmdPortDetect, CmdDef.plain]
  all_goals repeat' first
    | (with_reducible first | exact h | assumption | apply portDetectAct_kept)
    | (fail_if_no_progress with_reducible apply Kept.upd) | intro _ | extract_lets | split
    | (with_reducible first | apply Act.Keeps.done | apply Act.Keeps.close | apply Act.Keeps.stay | apply Act.keeps_ite)
theorem execPortDetect_kept {s t : State} (h : Kept s t) (p : Pkt) :
    KeptOut s (execPortDetect p t) := by
  unfold execPortDetect
  repeat' first
    | (with_reducible first | exact h | assumption | apply CmdDef.fetch_kept | apply KeptOut.next | apply KeptOut.ite)
    | exact cmdPortDetect_good
theorem State.startPrbs_kept {s t : State} (h : Kept s t) (b : Words) (n : Fin 128) :
    Kept s (State.startPrbs t b n) := by
  unfold State.startPrbs
  repeat' first
    | (with_reducible first
        | exact h | assumption | apply State.drawFree_kept | apply State.modPort_kept | apply State.refreshPort_kept)
    | (fail_if_no_progress with_reducible apply Kept.upd) | intro _ | extract_lets | split
    | exact Kept.prod2 (State.drawFree_kept (by first | assumption | exact Kept.refl _)) (by assumption) | dsimp only
theorem State.prbsAction_kept {s t : State} (h : Kept s t) (b : Words) (n : Fin 128) :
    Kept s (State.prbsAction t b n) := by
  unfold State.prbsAction
  repeat' first
    | (with_reducible first
        | exact h | assumption | apply State.modPort_kept | apply State.refreshPort_kept | apply State.startPrbs_kept
        | apply Kept.ite)
    | (fail_if_no_progress with_reducible apply Kept.upd) | intro _ | split
theorem cmdPortPrbs_good : cmdPortPrbs.Good := by
  refine ⟨fun j s t h => ?_, fun j v s t h => ?_⟩ <;> dsimp only [cmdPortPrbs, CmdDef.plain]
  all_goals repeat' first
    | (with_reducible first
        | exact h | assumption | apply State.prbsAction_kept | apply State.startedFunction_kept
        | refine Kept.forAll _ _ ?_ (fun _ _ _ => ?_) | apply Kept.ite)
    | (fail_if_no_progress with_reducible apply Kept.upd) | intro _ | extract_lets | split
    | (with_reducible first | apply Act.Keeps.done | apply Act.Keeps.close | apply Act.Keeps.stay | apply Act.keeps_ite)
theorem execPortPrbs_kept {s t : State} (h : Kept s t) (p : Pkt) :
    KeptOut s (execPortPrbs p t) := by
  unfold execPortPrbs
  repeat' first
    | (with_reducible first | exact h | assumption | apply CmdDef.fetch_kept | apply KeptOut.next | apply KeptOut.ite)
    | exact cmdPortPrbs_good

/-! Machine/FailCmds.lean. -/

theorem State.unbalance_kept {s t : State} (h : Kept s t) (d : Fin 4) :
    Kept s (State.unbalance t d) := by
  unfold State.unbalance
  repeat' first
    | (with_reducible first | exact h | assumption | apply State.modSite_kept | refine Kept.forAll _ _ ?_ (fun _ _ _ => ?_))
    | (fail_if_no_progress with_reducible apply Kept.upd) | intro _
theorem State.clearBooks_kept {s t : State} (h : Kept s t) (site : Fin 32) :
    Kept s (State.clearBooks t site) := by
  unfold State.clearBooks
  repeat' first
    | (with_reducible first | exact h | assumption | apply State.modSite_kept | apply Kept.ite)
    | (fail_if_no_progress with_reducible apply Kept.upd) | intro _ | split
theorem State.logNow_kept {s t : State} (h : Kept s t) (r : FailRec) (e : MemErr) : Kept s (State.logNow t r e) := by
  unfold State.logNow
  extract_lets b slots lost a w
  have hl : ∀ u, Kept s u → Kept s (lost u) := fun _ hu => hu.upd
  have hw : Kept s w.st := State.hbmWrite_kept h _ _ _ _
  clear_value w
  refine .ite h (.ite (hl _ h) ?_)
  split
  · exact hl _ hw
  · exact hw.upd
theorem State.logRecord_kept {s t : State} (h : Kept s t) (r : FailRec) (e : MemErr) : Kept s (State.logRecord t r e) :=
  .ite (State.waitRekey_kept h _) (State.logNow_kept h _ _)
theorem failSetAct_kept {s t : State} (h : Kept s t) (j : Job) :
    (failSetAct j t).Keeps s := by
  unfold failSetAct
  repeat' first
    | (with_reducible first
        | exact h | assumption | apply State.modGroup_kept | refine Kept.forAll _ _ ?_ (fun _ _ _ => ?_) | apply Kept.ite)
    | (fail_if_no_progress with_reducible apply Kept.upd) | intro _ | extract_lets | split
    | (with_reducible first | apply Act.Keeps.done | apply Act.Keeps.close | apply Act.Keeps.stay | apply Act.keeps_ite)
theorem cmdFailSet_good : cmdFailSet.Good := by
  refine ⟨fun j s t h => ?_, fun j v s t h => ?_⟩ <;> dsimp only [cmdFailSet, CmdDef.plain]
  all_goals repeat' first
    | (with_reducible first | exact h | assumption | apply failSetAct_kept | apply Kept.ite)
    | (fail_if_no_progress with_reducible apply Kept.upd) | intro _ | extract_lets | split
    | (with_reducible first | apply Act.Keeps.done | apply Act.Keeps.close | apply Act.Keeps.stay | apply Act.keeps_ite)
theorem execFailSet_kept {s t : State} (h : Kept s t) (p : Pkt) :
    KeptOut s (execFailSet p t) := by
  unfold execFailSet
  repeat' first
    | (with_reducible first | exact h | assumption | apply CmdDef.fetch_kept | apply KeptOut.next | apply KeptOut.ite)
    | exact cmdFailSet_good
theorem cmdFailCounts_good : cmdFailCounts.Good := by
  refine ⟨fun j s t h => ?_, fun j v s t h => ?_⟩ <;> dsimp only [cmdFailCounts, CmdDef.plain]
  all_goals repeat' first
    | (with_reducible first | exact h | assumption | apply State.modSite_kept | refine Kept.forAll _ _ ?_ (fun _ _ _ => ?_))
    | (fail_if_no_progress with_reducible apply Kept.upd) | intro _ | extract_lets | split
    | (with_reducible first | apply Act.Keeps.done | apply Act.Keeps.close | apply Act.Keeps.stay | apply Act.keeps_ite)
theorem execFailCounts_kept {s t : State} (h : Kept s t) (p : Pkt) :
    KeptOut s (execFailCounts p t) := by
  unfold execFailCounts
  repeat' first
    | (with_reducible first | exact h | assumption | apply CmdDef.fetch_kept | apply KeptOut.next | apply KeptOut.ite)
    | exact cmdFailCounts_good
theorem cmdFailClear_good : cmdFailClear.Good := by
  refine ⟨fun j s t h => ?_, fun j v s t h => ?_⟩ <;> dsimp only [cmdFailClear, CmdDef.plain]
  all_goals repeat' first
    | (with_reducible first
        | exact h | assumption | apply State.clearBooks_kept | refine Kept.forAll _ _ ?_ (fun _ _ _ => ?_))
    | (fail_if_no_progress with_reducible apply Kept.upd) | intro _
    | (with_reducible first | apply Act.Keeps.done | apply Act.Keeps.close | apply Act.Keeps.stay | apply Act.keeps_ite)
theorem execFailClear_kept {s t : State} (h : Kept s t) (p : Pkt) :
    KeptOut s (execFailClear p t) := by
  unfold execFailClear
  repeat' first
    | (with_reducible first | exact h | assumption | apply CmdDef.fetch_kept | apply KeptOut.next | apply KeptOut.ite)
    | exact cmdFailClear_good

/-! Machine/BroodCmds.lean. -/

theorem State.applyCell_kept {s t : State} (h : Kept s t) (site : Fin 32) (g : Geom) (c : Cell3) :
    Kept s (State.applyCell t site g c).1 := by
  unfold State.applyCell
  repeat' first
    | (with_reducible first | exact h | assumption | apply State.modSite_kept | apply State.raise_kept | apply Kept.ite)
    | (fail_if_no_progress with_reducible apply Kept.upd) | intro _ | extract_lets | split | dsimp only
theorem State.applyRecord_kept {s t : State} (h : Kept s t) (group : Fin 16) (r : FailRec) : Kept s
    (State.applyRecord t group r) := by
  unfold State.applyRecord
  extract_lets site x drop
  have hd : ∀ i k, Kept s (drop i k) := fun _ _ => State.raise_kept (State.modSite_kept h _ _) _ _ _ _
  split
  · exact hd _ _
  next g _ =>
  refine .ite (hd _ _) ?_
  extract_lets cells
  refine .ite (hd _ _) ?_
  split
  next e =>
  have hf := Kept.foldlOf Prod.fst cells (fun (a : State × List CellFate) c =>
    match a.1.applyCell site g c with | (s, f) => (s, f :: a.2)) (a := (t, [])) h fun c a ha => State.applyCell_kept ha site g c
  exact State.modSite_kept (Kept.prod1 hf e) _ _
theorem execFailRecord_kept {s t : State} (h : Kept s t) (x : FailArrival) :
    KeptOut s (execFailRecord x t) := by
  unfold execFailRecord
  repeat' first
    | (with_reducible first
        | exact h | assumption | apply State.applyRecord_kept | apply State.logRecord_kept | apply State.modGroup_kept
        | apply Kept.ite)
    | (fail_if_no_progress with_reducible apply Kept.upd) | intro _ | extract_lets | split
    | (with_reducible first | apply KeptOut.next | apply KeptOut.ite)
theorem execBackgroundSweep_kept {s t : State} (h : Kept s t) (site : Fin 32) (block : Nat) :
    KeptOut s (execBackgroundSweep site block t) := by
  unfold execBackgroundSweep
  repeat' first
    | (with_reducible first | exact h | assumption | apply State.modSite_kept | apply Kept.ite)
    | (fail_if_no_progress with_reducible apply Kept.upd) | intro _ | extract_lets | split
    | (with_reducible first | apply KeptOut.next | apply KeptOut.ite)
theorem cmdBroodGeometry_good : cmdBroodGeometry.Good := by
  refine ⟨fun j s t h => ?_, fun j v s t h => ?_⟩ <;> dsimp only [cmdBroodGeometry, CmdDef.plain]
  all_goals repeat' first
    | (with_reducible first | exact h | assumption | apply State.modSite_kept | apply Kept.ite)
    | (fail_if_no_progress with_reducible apply Kept.upd) | intro _ | extract_lets | split
    | (with_reducible first | apply Act.Keeps.done | apply Act.Keeps.close | apply Act.Keeps.stay | apply Act.keeps_ite)
theorem execBroodGeometry_kept {s t : State} (h : Kept s t) (p : Pkt) :
    KeptOut s (execBroodGeometry p t) := by
  unfold execBroodGeometry
  repeat' first
    | (with_reducible first | exact h | assumption | apply CmdDef.fetch_kept | apply KeptOut.next | apply KeptOut.ite)
    | exact cmdBroodGeometry_good
theorem cmdBroodPartition_good : cmdBroodPartition.Good := by
  refine ⟨fun j s t h => ?_, fun j v s t h => ?_⟩ <;> dsimp only [cmdBroodPartition, CmdDef.plain]
  all_goals repeat' first
    | (with_reducible first
        | exact h | assumption | apply State.modSite_kept | refine Kept.forAll _ _ ?_ (fun _ _ _ => ?_) | apply Kept.ite)
    | (fail_if_no_progress with_reducible apply Kept.upd) | intro _ | extract_lets | split
    | (with_reducible first | apply Act.Keeps.done | apply Act.Keeps.close | apply Act.Keeps.stay | apply Act.keeps_ite)
theorem execBroodPartition_kept {s t : State} (h : Kept s t) (p : Pkt) :
    KeptOut s (execBroodPartition p t) := by
  unfold execBroodPartition
  repeat' first
    | (with_reducible first | exact h | assumption | apply CmdDef.fetch_kept | apply KeptOut.next | apply KeptOut.ite)
    | exact cmdBroodPartition_good
theorem cmdBroodSolve_good : cmdBroodSolve.Good := by
  refine ⟨fun j s t h => ?_, fun j v s t h => ?_⟩ <;> dsimp only [cmdBroodSolve, CmdDef.plain]
  all_goals repeat' first
    | (with_reducible first | exact h | assumption | apply Kept.ite) | (fail_if_no_progress with_reducible apply Kept.upd)
    | intro _ | split
    | (with_reducible first | apply Act.Keeps.done | apply Act.Keeps.close | apply Act.Keeps.stay | apply Act.keeps_ite)
theorem execBroodSolve_kept {s t : State} (h : Kept s t) (p : Pkt) :
    KeptOut s (execBroodSolve p t) := by
  unfold execBroodSolve
  repeat' first
    | (with_reducible first | exact h | assumption | apply CmdDef.fetch_kept | apply KeptOut.next | apply KeptOut.ite)
    | exact cmdBroodSolve_good
theorem State.putSolve_kept {s t : State} (h : Kept s t) (k : JobKey) (f : Solve → Option Solve) :
    Kept s (State.putSolve t k f) := by
  unfold State.putSolve
  repeat' first
    | (with_reducible first | exact h | assumption | apply Kept.ite) | (fail_if_no_progress with_reducible apply Kept.upd)
    | intro _ | split
theorem execSolveStart_kept {s t : State} (h : Kept s t)  :
    KeptOut s (execSolveStart t) := by
  unfold execSolveStart
  repeat' first
    | (with_reducible first | exact h | assumption | apply State.putSolve_kept | apply Kept.ite)
    | (fail_if_no_progress with_reducible apply Kept.upd) | intro _ | split
    | (with_reducible first | apply KeptOut.next | apply KeptOut.ite)
theorem State.solveSite_kept {s t : State} (h : Kept s t) (i : Fin 32) (upTo : Nat) :
    Kept s (State.solveSite t i upTo) := by
  unfold State.solveSite
  repeat' first
    | (with_reducible first | exact h | assumption | apply State.modSite_kept | apply Kept.ite)
    | (fail_if_no_progress with_reducible apply Kept.upd) | intro _ | extract_lets | split
theorem State.solveStep_kept {s t : State} (h : Kept s t)  :
    Kept s (State.solveStep t) := by
  unfold State.solveStep
  repeat' first
    | (with_reducible first | exact h | assumption | apply State.modSite_kept | apply State.putSolve_kept | apply Kept.ite)
    | (fail_if_no_progress with_reducible apply Kept.upd) | intro _ | extract_lets | split
theorem execSolveComplete_kept {s t : State} (h : Kept s t)  :
    KeptOut s (execSolveComplete t) := by
  unfold execSolveComplete
  repeat' first
    | (with_reducible first
        | exact h | assumption | apply State.commitDone_kept | apply State.putSolve_kept | apply State.raise_kept
        | apply State.solveSite_kept | refine Kept.forAll _ _ ?_ (fun _ _ _ => ?_))
    | (fail_if_no_progress with_reducible apply Kept.upd) | intro _ | extract_lets | split
    | (with_reducible first | apply KeptOut.next | apply KeptOut.ite)
theorem cmdBroodResult_good : cmdBroodResult.Good := by
  refine ⟨fun j s t h => ?_, fun j v s t h => ?_⟩ <;> dsimp only [cmdBroodResult, CmdDef.plain]
  all_goals repeat' first
    | (with_reducible first | exact h | assumption | apply CmdDef.take_kept | apply Kept.ite)
    | (fail_if_no_progress with_reducible apply Kept.upd) | intro _ | extract_lets | split
    | (with_reducible first | apply Act.Keeps.done | apply Act.Keeps.close | apply Act.Keeps.stay | apply Act.keeps_ite)
theorem execBroodResult_kept {s t : State} (h : Kept s t) (p : Pkt) :
    KeptOut s (execBroodResult p t) := by
  unfold execBroodResult
  repeat' first
    | (with_reducible first | exact h | assumption | apply CmdDef.fetch_kept | apply KeptOut.next | apply KeptOut.ite)
    | exact cmdBroodResult_good
theorem cmdBroodClear_good : cmdBroodClear.Good := by
  refine ⟨fun j s t h => ?_, fun j v s t h => ?_⟩ <;> dsimp only [cmdBroodClear, CmdDef.plain]
  all_goals repeat' first
    | (with_reducible first
        | exact h | assumption | apply State.clearBooks_kept | apply State.modSite_kept
        | refine Kept.forAll _ _ ?_ (fun _ _ _ => ?_))
    | (fail_if_no_progress with_reducible apply Kept.upd) | intro _ | extract_lets | split
    | (with_reducible first | apply Act.Keeps.done | apply Act.Keeps.close | apply Act.Keeps.stay | apply Act.keeps_ite)
theorem execBroodClear_kept {s t : State} (h : Kept s t) (p : Pkt) :
    KeptOut s (execBroodClear p t) := by
  unfold execBroodClear
  repeat' first
    | (with_reducible first | exact h | assumption | apply CmdDef.fetch_kept | apply KeptOut.next | apply KeptOut.ite)
    | exact cmdBroodClear_good

/-! Machine/PortEvents.lean. -/

theorem State.feedLoop_kept {s t : State} (h : Kept s t) (n : Fin 128) (l : List Bool) :
    Kept s (State.feedLoop t n l) := by
  unfold State.feedLoop
  repeat' first
    | (with_reducible first | exact h | assumption | apply State.modPort_kept | apply Kept.ite)
    | (fail_if_no_progress with_reducible apply Kept.upd) | intro _ | split
theorem State.sendGroups_kept {s t : State} (h : Kept s t) (n : Fin 128) (l : List (BitVec 10)) :
    Kept s (State.sendGroups t n l) := by
  unfold State.sendGroups
  repeat' first
    | (with_reducible first | exact h | assumption | apply State.emit_kept | apply State.feedLoop_kept | apply Kept.ite)
    | intro _ | split
theorem State.sendBits_kept {s t : State} (h : Kept s t) (n : Fin 128) (w : Word) :
    Kept s (State.sendBits t n w) := by
  unfold State.sendBits
  repeat' first
    | (with_reducible first | exact h | assumption | apply State.emit_kept | apply State.feedLoop_kept | apply Kept.ite)
    | split
theorem State.pulseEdge_kept {s t : State} (h : Kept s t) (g : Fin 16) (bit : Nat) :
    Kept s (State.pulseEdge t g bit) := by
  unfold State.pulseEdge
  repeat' first
    | (with_reducible first | exact h | assumption | apply State.setEdge_kept | refine Kept.foldl _ _ ?_ (fun _ _ _ => ?_))
    | intro _ | extract_lets | split | dsimp only
theorem State.generate_kept {s t : State} (h : Kept s t) (n : Fin 128) :
    Kept s (State.generate t n) := by
  unfold State.generate
  repeat' first
    | (with_reducible first | exact h | assumption | apply State.modPort_kept | apply State.sendBits_kept | apply Kept.ite)
    | (fail_if_no_progress with_reducible apply Kept.upd) | intro _ | extract_lets | split | dsimp only
theorem State.takeWord_kept {s t : State} (h : Kept s t) (n : Fin 128) :
    Kept s (State.takeWord t n) := by
  unfold State.takeWord
  repeat' first
    | (with_reducible first
        | exact h | assumption | apply State.modPort_kept | apply State.pulseEdge_kept | apply State.sendBits_kept
        | apply State.sendGroups_kept | apply Kept.ite)
    | (fail_if_no_progress with_reducible apply Kept.upd) | intro _ | extract_lets | split | dsimp only
theorem execTxwTake_kept {s t : State} (h : Kept s t) (n : Fin 128) :
    KeptOut s (execTxwTake n t) := by
  unfold execTxwTake
  repeat' first
    | (with_reducible first | exact h | assumption | apply State.generate_kept | apply State.takeWord_kept | apply Kept.ite)
    | extract_lets | split | (with_reducible first | apply KeptOut.next | apply KeptOut.ite)
theorem State.present_kept {s t : State} (h : Kept s t) (n : Fin 128) (data : Nat) (ks : Nat) (errs : Nat) :
    Kept s (State.present t n data ks errs) := by
  unfold State.present
  repeat' first
    | (with_reducible first | exact h | assumption | apply State.pulseEdge_kept | apply State.setEdge_kept) | extract_lets
    | split | dsimp only
theorem State.receiveRaw_kept {s t : State} (h : Kept s t) (n : Fin 128) (w : Word) :
    Kept s (State.receiveRaw t n w) := by
  unfold State.receiveRaw
  repeat' first
    | (with_reducible first | exact h | assumption | apply State.modPort_kept | apply State.present_kept | apply Kept.ite)
    | (fail_if_no_progress with_reducible apply Kept.upd) | intro _ | extract_lets | split
theorem State.receiveCoded_kept {s t : State} (h : Kept s t) (n : Fin 128) (l : List Bool) :
    Kept s (State.receiveCoded t n l) := by
  unfold State.receiveCoded
  repeat' first
    | (with_reducible first
        | exact h | assumption | apply State.modPort_kept | apply State.present_kept
        | refine Kept.foldl _ _ ?_ (fun _ _ _ => ?_))
    | intro _ | extract_lets | split
theorem State.lineIn_kept {s t : State} (h : Kept s t) (n : Fin 128) (x : RxWord) :
    Kept s (State.lineIn t n x).2 := by
  unfold State.lineIn
  repeat' first
    | (with_reducible first | exact h | assumption | apply CmdDef.take_kept | apply State.modPort_kept | apply Kept.ite)
    | (fail_if_no_progress with_reducible apply Kept.upd) | intro _ | extract_lets | split | dsimp only
theorem State.received_kept {s t : State} (h : Kept s t) (n : Fin 128) (l : List Bool) :
    Kept s (State.received t n l) := by
  unfold State.received
  repeat' first
    | (with_reducible first
        | exact h | assumption | apply State.modPort_kept | apply State.receiveCoded_kept | apply State.receiveRaw_kept
        | apply Kept.ite)
    | (fail_if_no_progress with_reducible apply Kept.upd) | intro _ | extract_lets | split
theorem execRxwValid_kept {s t : State} (h : Kept s t) (n : Fin 128) (x : RxWord) :
    KeptOut s (execRxwValid n x t) := by
  unfold execRxwValid
  repeat' first
    | (with_reducible first
        | exact h | assumption | apply CmdDef.take_kept | apply State.lineIn_kept | apply State.modPort_kept
        | apply State.received_kept | apply Kept.ite)
    | (fail_if_no_progress with_reducible apply Kept.upd) | intro _ | extract_lets | split
    | exact Kept.prod2 (State.lineIn_kept (by first | assumption | exact Kept.refl _)) (by assumption)
    | (with_reducible first | apply KeptOut.next | apply KeptOut.ite)
theorem execRxSlip_kept {s t : State} (h : Kept s t) (n : Fin 128) :
    KeptOut s (execRxSlip n t) := by
  unfold execRxSlip
  repeat' first
    | (with_reducible first | exact h | assumption | apply State.modPort_kept | apply Kept.ite)
    | (fail_if_no_progress with_reducible apply Kept.upd) | intro _ | split
    | (with_reducible first | apply KeptOut.next | apply KeptOut.ite)
theorem execCdrLock_kept {s t : State} (h : Kept s t) (n : Fin 128) :
    KeptOut s (execCdrLock n t) := by
  unfold execCdrLock
  repeat' first
    | (with_reducible first | exact h | assumption | apply State.setLink_kept | apply Kept.ite) | split
    | (with_reducible first | apply KeptOut.next | apply KeptOut.ite)
theorem State.reacquire_kept {s t : State} (h : Kept s t) (n : Fin 128) :
    Kept s (State.reacquire t n) := by
  unfold State.reacquire
  repeat' first
    | (with_reducible first
        | exact h | assumption | apply State.drawFree_kept | apply State.modPort_kept | apply State.setLink_kept
        | apply Kept.ite)
    | (fail_if_no_progress with_reducible apply Kept.upd) | intro _ | extract_lets | split
    | exact Kept.prod2 (State.drawFree_kept (by first | assumption | exact Kept.refl _)) (by assumption) | dsimp only
theorem execCdrLost_kept {s t : State} (h : Kept s t) (n : Fin 128) :
    KeptOut s (execCdrLost n t) := by
  unfold execCdrLost
  repeat' first
    | (with_reducible first | exact h | assumption | apply State.modPort_kept | apply State.reacquire_kept | apply Kept.ite)
    | (fail_if_no_progress with_reducible apply Kept.upd) | intro _ | extract_lets | split
    | (with_reducible first | apply KeptOut.next | apply KeptOut.ite)
theorem execAlignmentAcquired_kept {s t : State} (h : Kept s t) (n : Fin 128) :
    KeptOut s (execAlignmentAcquired n t) := by
  unfold execAlignmentAcquired
  repeat' first
    | (with_reducible first | exact h | assumption | apply State.setLink_kept | apply Kept.ite) | split
    | (with_reducible first | apply KeptOut.next | apply KeptOut.ite)
theorem execAlignmentLost_kept {s t : State} (h : Kept s t) (n : Fin 128) :
    KeptOut s (execAlignmentLost n t) := by
  unfold execAlignmentLost
  repeat' first
    | (with_reducible first | exact h | assumption | apply State.modPort_kept | apply State.setLink_kept | apply Kept.ite)
    | intro _ | split | (with_reducible first | apply KeptOut.next | apply KeptOut.ite)
theorem State.portFault_kept {s t : State} (h : Kept s t) (n : Fin 128) (signal : Nat) (kind : Nat) :
    Kept s (State.portFault t n signal kind) := by
  unfold State.portFault
  repeat' with_reducible first | exact h | assumption | apply State.raiseDie_kept | apply State.signal_kept
theorem State.swapped_kept {s t : State} (h : Kept s t) (n : Fin 128) :
    Kept s (State.swapped t n) := by
  unfold State.swapped
  repeat' first
    | (with_reducible first
        | exact h | assumption | apply State.modPort_kept | apply State.portFault_kept | apply State.reacquire_kept
        | apply Kept.ite)
    | (fail_if_no_progress with_reducible apply Kept.upd) | intro _ | extract_lets | split
theorem execPrbsLock_kept {s t : State} (h : Kept s t) (n : Fin 128) (swapped : Bool) :
    KeptOut s (execPrbsLock n swapped t) := by
  unfold execPrbsLock
  repeat' first
    | (with_reducible first | exact h | assumption | apply State.modPort_kept | apply State.swapped_kept | apply Kept.ite)
    | (fail_if_no_progress with_reducible apply Kept.upd) | intro _ | extract_lets | split
    | (with_reducible first | apply KeptOut.next | apply KeptOut.ite)
theorem execPrbsLoss_kept {s t : State} (h : Kept s t) (n : Fin 128) :
    KeptOut s (execPrbsLoss n t) := by
  unfold execPrbsLoss
  repeat' first
    | (with_reducible first | exact h | assumption | apply State.modPort_kept | apply Kept.ite)
    | (fail_if_no_progress with_reducible apply Kept.upd) | intro _ | split
    | (with_reducible first | apply KeptOut.next | apply KeptOut.ite)
theorem execShort_kept {s t : State} (h : Kept s t) (n : Fin 128) (leg : Fin 4) :
    KeptOut s (execShort n leg t) := by
  unfold execShort
  repeat' first
    | (with_reducible first | exact h | assumption | apply State.modPort_kept | apply State.portFault_kept | apply Kept.ite)
    | (fail_if_no_progress with_reducible apply Kept.upd) | intro _ | split
    | (with_reducible first | apply KeptOut.next | apply KeptOut.ite)
theorem State.detected_kept {s t : State} (h : Kept s t) (n : Fin 128) (r : BitVec 16) :
    Kept s (State.detected t n r) := by
  unfold State.detected
  repeat' first
    | (with_reducible first
        | exact h | assumption | apply State.portFault_kept | apply State.swapped_kept
        | refine Kept.foldl _ _ ?_ (fun _ _ _ => ?_) | apply Kept.ite)
    | (fail_if_no_progress with_reducible apply Kept.upd) | intro _ | split
theorem State.endTests_kept {s t : State} (h : Kept s t) (g : Fin 16) :
    Kept s (State.endTests t g) := by
  unfold State.endTests
  repeat' first
    | (with_reducible first | exact h | assumption | apply State.endTest_kept | refine Kept.forAll _ _ ?_ (fun _ _ _ => ?_))
    | intro _
theorem execDetectEnd_kept {s t : State} (h : Kept s t) (g : Fin 16) (r : List (BitVec 16)) :
    KeptOut s (execDetectEnd g r t) := by
  unfold execDetectEnd
  repeat' first
    | (with_reducible first
        | exact h | assumption | apply State.commitDone_kept | apply State.detected_kept | apply State.endTests_kept
        | refine Kept.foldl _ _ ?_ (fun _ _ _ => ?_))
    | (fail_if_no_progress with_reducible apply Kept.upd) | intro _ | extract_lets | split
    | (with_reducible first | apply KeptOut.next | apply KeptOut.ite)

/-! Machine/FabricEvents.lean. -/

theorem State.netCount_kept {s t : State} (h : Kept s t) (d : Fin 4) (i : Fin 8) :
    Kept s (State.netCount t d i) := by
  unfold State.netCount
  repeat' first
    | (with_reducible first | exact h | assumption | apply State.modDie_kept)
    | (fail_if_no_progress with_reducible apply Kept.upd) | intro _
theorem State.degradedEvent_kept {s t : State} (h : Kept s t) (d : Fin 4) (cause : Nat) (count : Nat) (lane : BitVec 16) :
    Kept s (State.degradedEvent t d cause count lane) := by
  unfold State.degradedEvent
  repeat' with_reducible first | exact h | assumption | apply State.raise_kept
theorem State.degrade_kept {s t : State} (h : Kept s t) (d : Fin 4) (cause : Nat) (count : Nat) :
    Kept s (State.degrade t d cause count) := by
  unfold State.degrade
  repeat' first
    | (with_reducible first
        | exact h | assumption | apply State.degradedEvent_kept | apply State.drawFree_kept | apply State.modDie_kept
        | apply Kept.ite)
    | (fail_if_no_progress with_reducible apply Kept.upd) | intro _ | extract_lets | split
    | exact Kept.prod2 (State.drawFree_kept (by first | assumption | exact Kept.refl _)) (by assumption) | dsimp only
theorem State.deliverCross_kept {s t : State} (h : Kept s t) (e : CrossErr) :
    Kept s (State.deliverCross t e) := by
  unfold State.deliverCross
  repeat' first
    | (with_reducible first
        | exact h | assumption | apply State.modFab_kept | refine Kept.foldl _ _ ?_ (fun _ _ _ => ?_) | apply Kept.ite)
    | (fail_if_no_progress with_reducible apply Kept.upd) | intro _ | split
theorem State.countCross_kept {s t : State} (h : Kept s t) (e : CrossErr) :
    Kept s (State.countCross t e) := by
  unfold State.countCross
  repeat' first
    | (with_reducible first | exact h | assumption | apply State.degrade_kept | apply State.modDie_kept | apply Kept.ite)
    | (fail_if_no_progress with_reducible apply Kept.upd) | intro _ | extract_lets | split
theorem State.storeEcc_kept {s t : State} (h : Kept s t) (sbIn : BitVec 128) (e : RamErr) :
    Kept s (State.storeEcc t sbIn e) := by
  unfold State.storeEcc
  repeat' first
    | (with_reducible first | exact h | assumption | apply State.modMem_kept)
    | (fail_if_no_progress with_reducible apply Kept.upd) | exact Mem.wf_congr rfl rfl
    | (with_reducible first | apply Mem.putWord_wf) | intro _ | split
theorem State.countEcc_kept {s t : State} (h : Kept s t) (e : RamErr) (a : Nat) :
    Kept s (State.countEcc t e a) := by
  unfold State.countEcc
  repeat' first
    | (with_reducible first | exact h | assumption | apply State.modFab_kept | apply State.ramUncorrectable_kept)
    | (fail_if_no_progress with_reducible apply Kept.upd) | intro _ | split
theorem State.capture_kept {s t : State} (h : Kept s t) (d : Fin 4) (trigger : Bool) :
    Kept s (State.capture t d trigger) := by
  unfold State.capture
  repeat' first
    | (with_reducible first | exact h | assumption | apply State.modFab_kept | apply Kept.ite)
    | (fail_if_no_progress with_reducible apply Kept.upd) | intro _ | extract_lets | split
theorem State.sampleFlit_kept {s t : State} (h : Kept s t) (d : Fin 4) (n : Nat) :
    Kept s (State.sampleFlit t d n) := by
  unfold State.sampleFlit
  repeat' first
    | (with_reducible first
        | exact h | assumption | apply CmdDef.take_kept | apply State.capture_kept | apply State.modFab_kept
        | refine Kept.foldl _ _ ?_ (fun _ _ _ => ?_))
    | (fail_if_no_progress with_reducible apply Kept.upd)
    | ((fail_if_success with_reducible refine Kept.upd ?_); with_reducible apply Kept.updMem) | exact Mem.wf_congr rfl rfl
    | (with_reducible first | refine Mem.fold_wf _ _ _ ?_ (fun _ _ _ => ?_) | apply State.writeOpen_wf) | intro _
    | extract_lets | split
theorem State.probeFrames_kept {s t : State} (h : Kept s t) (d : Fin 4) :
    Kept s (State.probeFrames t d) := by
  unfold State.probeFrames
  repeat' first
    | (with_reducible first
        | exact h | assumption | apply State.emit_kept | refine Kept.forAll _ _ ?_ (fun _ _ _ => ?_) | apply Kept.ite)
    | intro _ | extract_lets | split
theorem State.takeWfin_kept {s t : State} (h : Kept s t) (d : Fin 4) :
    Kept s (State.takeWfin t d) := by
  unfold State.takeWfin
  repeat' first
    | (with_reducible first
        | exact h | assumption | apply State.modWorker_kept | refine Kept.forAll _ _ ?_ (fun _ _ _ => ?_) | apply Kept.ite)
    | (fail_if_no_progress with_reducible apply Kept.upd) | intro _ | extract_lets | split
theorem State.fabricLines_kept {s t : State} (h : Kept s t) (d : Fin 4) (seen : BitVec 64) :
    Kept s (State.fabricLines t d seen) := by
  unfold State.fabricLines
  repeat' first
    | (with_reducible first
        | exact h | assumption | apply State.modFab_kept | apply State.pendLine_kept
        | refine Kept.foldl _ _ ?_ (fun _ _ _ => ?_) | apply Kept.ite)
    | (fail_if_no_progress with_reducible apply Kept.upd) | intro _ | extract_lets | split
theorem State.fabricEvents_kept {s t : State} (h : Kept s t) (d : Fin 4) (l : List (Fin 8 × Nat)) :
    Kept s (State.fabricEvents t d l) := by
  unfold State.fabricEvents
  repeat' first
    | (with_reducible first
        | exact h | assumption | apply State.fireGroups_kept | apply State.raiseDie_kept
        | refine Kept.foldl _ _ ?_ (fun _ _ _ => ?_) | apply Kept.ite)
    | intro _ | extract_lets | split
theorem State.sideBand_kept {s t : State} (h : Kept s t) (d : Fin 4) :
    Kept s (State.sideBand t d) := by
  unfold State.sideBand
  repeat' first
    | (with_reducible first
        | exact h | assumption | apply State.drive_kept | refine Kept.forAll _ _ ?_ (fun _ _ _ => ?_) | apply Kept.ite)
    | intro _ | extract_lets | split | dsimp only
theorem State.slipPulses_kept {s t : State} (h : Kept s t) (d : Fin 4) :
    Kept s (State.slipPulses t d) := by
  unfold State.slipPulses
  repeat' first
    | (with_reducible first
        | exact h | assumption | apply State.modPort_kept | refine Kept.forAll _ _ ?_ (fun _ _ _ => ?_) | apply Kept.ite)
    | (fail_if_no_progress with_reducible apply Kept.upd) | intro _ | extract_lets | split | dsimp only
theorem State.fabricDie_kept {s t : State} (h : Kept s t) (d : Fin 4) (regs : List (Nat × BitVec 32)) (writes : List
    (Nat × Nat)) (hoop : List (Nat × BitVec 16)) :
    Kept s (State.fabricDie t d regs writes hoop) := by
  unfold State.fabricDie
  repeat' first
    | (with_reducible first
        | exact h | assumption | apply CmdDef.take_kept | apply State.capture_kept | apply State.clearPulses_kept
        | apply State.fabricEvents_kept | apply State.fabricLines_kept | apply State.modFab_kept
        | apply State.probeFrames_kept | apply State.sideBand_kept | apply State.slipPulses_kept | apply State.takeWfin_kept
        | refine Kept.foldl _ _ ?_ (fun _ _ _ => ?_))
    | (fail_if_no_progress with_reducible apply Kept.upd)
    | ((fail_if_success with_reducible refine Kept.upd ?_); with_reducible apply Kept.updMem) | exact Mem.wf_congr rfl rfl
    | (with_reducible first | refine Mem.fold_wf _ _ _ ?_ (fun _ _ _ => ?_) | apply Mem.putWord_wf) | intro _ | extract_lets
    | split
theorem State.fabricIdle_kept {s t : State} (h : Kept s t) (d : Fin 4) :
    Kept s (State.fabricIdle t d) := by
  unfold State.fabricIdle
  repeat' first
    | (with_reducible first
        | exact h | assumption | apply State.capture_kept | apply State.clearPulses_kept | apply State.fabricLines_kept
        | apply State.modFab_kept | apply State.probeFrames_kept | apply State.takeWfin_kept)
    | (fail_if_no_progress with_reducible apply Kept.upd) | intro _ | extract_lets | split
theorem State.crossDone_kept {s t : State} (h : Kept s t) :
    Kept s (State.crossDone t) := by
  unfold State.crossDone
  repeat' first
    | (with_reducible first
        | exact h | assumption | apply State.modFab_kept | apply Kept.ite | refine Kept.forAll _ _ ?_ (fun _ _ _ => ?_)
        | refine Kept.foldl _ _ ?_ (fun _ _ _ => ?_))
    | (fail_if_no_progress with_reducible apply Kept.upd) | intro _ | extract_lets | split
theorem State.crossGoOn_kept {s t : State} (h : Kept s t) (d : Fin 4) :
    Kept s (State.crossGoOn t d) := by
  unfold State.crossGoOn
  repeat' first
    | (with_reducible first | exact h | assumption | apply State.modFab_kept | apply Kept.ite)
    | (fail_if_no_progress with_reducible apply Kept.upd) | intro _ | extract_lets | split
theorem execFabricCycle_kept {s t : State} (h : Kept s t) (sbIn : BitVec 128) (ecc : List RamErr) (cross : List CrossErr) :
    KeptOut s (execFabricCycle sbIn ecc cross t) := by
  unfold execFabricCycle
  repeat' first
    | (with_reducible first
        | exact h | assumption | apply State.crossDone_kept | apply State.crossGoOn_kept | apply State.countCross_kept
        | apply State.countEcc_kept | apply State.deliverCross_kept
        | apply State.fabricDie_kept | apply State.fabricIdle_kept | apply State.storeEcc_kept
        | refine Kept.foldl _ _ ?_ (fun _ _ _ => ?_) | apply Kept.ite)
    | intro _ | extract_lets | split | (with_reducible first | apply KeptOut.next | apply KeptOut.ite)
theorem execCaptureComplete_kept {s t : State} (h : Kept s t) (d : Fin 4) :
    KeptOut s (execCaptureComplete d t) := by
  unfold execCaptureComplete
  repeat' first
    | (with_reducible first
        | exact h | assumption | apply State.capture_kept | apply State.modFab_kept | apply State.raiseDie_kept
        | apply Kept.ite)
    | (fail_if_no_progress with_reducible apply Kept.upd) | intro _ | extract_lets | split
    | (with_reducible first | apply KeptOut.next | apply KeptOut.ite)
theorem probeSetAct_kept {s t : State} (h : Kept s t) (j : Job) :
    (probeSetAct j t).Keeps s := by
  unfold probeSetAct
  repeat' first
    | (with_reducible first
        | exact h | assumption | apply State.capture_kept | apply State.modFab_kept | apply State.refreshPort_kept
        | refine Kept.forAll _ _ ?_ (fun _ _ _ => ?_) | apply Kept.ite)
    | (fail_if_no_progress with_reducible apply Kept.upd) | intro _ | extract_lets | split
    | (with_reducible first | apply Act.Keeps.done | apply Act.Keeps.close | apply Act.Keeps.stay | apply Act.keeps_ite)
theorem cmdCfgProbeSet_good : cmdCfgProbeSet.Good := by
  refine ⟨fun j s t h => ?_, fun j v s t h => ?_⟩ <;> dsimp only [cmdCfgProbeSet, CmdDef.plain]
  all_goals repeat' first
    | (with_reducible first | exact h | assumption | apply State.capture_kept | apply probeSetAct_kept | apply Kept.ite)
    | (fail_if_no_progress with_reducible apply Kept.upd) | intro _ | extract_lets | split
    | (with_reducible first | apply Act.Keeps.done | apply Act.Keeps.close | apply Act.Keeps.stay | apply Act.keeps_ite)
theorem execCfgProbeSet_kept {s t : State} (h : Kept s t) (p : Pkt) :
    KeptOut s (execCfgProbeSet p t) := by
  unfold execCfgProbeSet
  repeat' first
    | (with_reducible first | exact h | assumption | apply CmdDef.fetch_kept | apply KeptOut.next | apply KeptOut.ite)
    | exact cmdCfgProbeSet_good

/-! Machine/DieOps.lean. -/

theorem State.stopRegions_kept {s t : State} (h : Kept s t) (d : Fin 4) (l : List Nat) (held : Bool) :
    Kept s (State.stopRegions t d l held) := by
  unfold State.stopRegions
  repeat' first
    | (with_reducible first
        | exact h | assumption | apply State.modFab_kept | refine Kept.foldl _ _ ?_ (fun _ _ _ => ?_) | apply Kept.ite)
    | intro _ | extract_lets | split
theorem State.startRegions_kept {s t : State} (h : Kept s t) (d : Fin 4) (l : List Nat) :
    Kept s (State.startRegions t d l) := by
  unfold State.startRegions
  repeat' first
    | (with_reducible first | exact h | assumption | apply State.modFab_kept | refine Kept.foldl _ _ ?_ (fun _ _ _ => ?_))
    | intro _
theorem State.unconfigure_kept {s t : State} (h : Kept s t) (d : Fin 4) :
    Kept s (State.unconfigure t d) := by
  unfold State.unconfigure
  repeat' first
    | (with_reducible first
        | exact h | assumption | apply State.modFab_kept | apply State.modWorker_kept | apply State.refreshDie_kept
        | refine Kept.forAll _ _ ?_ (fun _ _ _ => ?_))
    | (fail_if_no_progress with_reducible apply Kept.upd) | intro _ | extract_lets | split
theorem State.loseColumns_kept {s t : State} (h : Kept s t) (d : Fin 4) (cols : List Nat) :
    Kept s (State.loseColumns t d cols) := by
  unfold State.loseColumns
  repeat' first
    | (with_reducible first
        | exact h | assumption | apply State.modFab_kept | refine Kept.foldl _ _ ?_ (fun _ _ _ => ?_) | apply Kept.ite)
    | intro _ | extract_lets | split
theorem State.releaseSlot_kept {s t : State} (h : Kept s t) (n : Fin 4) :
    Kept s (State.releaseSlot t n) := by
  unfold State.releaseSlot
  repeat' first
    | (with_reducible first | exact h | assumption | apply State.modSlot_kept | apply State.zeroRange_kept | apply Kept.ite)
    | (fail_if_no_progress with_reducible apply Kept.upd) | intro _ | extract_lets | split
theorem State.noteRefusal_kept {s t : State} (h : Kept s t) (st : Status) (slot : Nat) (off : Word) :
    Kept s (State.noteRefusal t st slot off) := by
  unfold State.noteRefusal
  repeat' first | (with_reducible first | exact h | assumption) | (fail_if_no_progress with_reducible apply Kept.upd)
theorem State.releaseIn_kept {s t : State} (h : Kept s t) (base size : Nat) : Kept s (State.releaseIn t base size) := by
  refine Kept.forAll _ _ h fun n u hu => ?_
  extract_lets owner v
  have hv : Kept s v := State.releaseSlot_kept hu _
  clear_value owner v
  split
  · exact State.refuse_kept (State.noteRefusal_kept hv _ _ _) _ _
  · exact hv
theorem State.bistSettle_kept {s t : State} (h : Kept s t)  :
    Kept s (State.bistSettle t) := by
  unfold State.bistSettle
  repeat' first
    | (with_reducible first
        | exact h | assumption | apply CmdDef.run_kept | apply State.commitClose_kept | apply State.commitDone_kept
        | apply State.nextCycle_kept | apply State.raise_kept | refine Kept.foldl _ _ ?_ (fun _ _ _ => ?_) | apply Kept.ite)
    | (fail_if_no_progress with_reducible apply Kept.upd) | intro _ | extract_lets | split
theorem State.dieLeaves_kept {s t : State} (h : Kept s t) (d : Fin 4) :
    Kept s (State.dieLeaves t d) := by
  unfold State.dieLeaves
  repeat' first
    | (with_reducible first
        | exact h | assumption | apply State.bistSettle_kept | apply CmdDef.run_kept | apply State.modBist_kept
        | refine Kept.forAll _ _ ?_ (fun _ _ _ => ?_) | apply Kept.ite)
    | (fail_if_no_progress with_reducible apply Kept.upd) | intro _ | extract_lets | split
theorem State.setBook_kept {s t : State} (h : Kept s t) (code : BitVec 16) (vc : Fin 4) (b : Book) :
    Kept s (State.setBook t code vc b) := by
  unfold State.setBook
  repeat' first
    | (with_reducible first | exact h | assumption | apply Kept.ite) | (fail_if_no_progress with_reducible apply Kept.upd)
    | intro _ | extract_lets | split
theorem State.modBook_kept {s t : State} (h : Kept s t) (code : BitVec 16) (vc : Fin 4) (f : Book → Book) :
    Kept s (State.modBook t code vc f) := by
  unfold State.modBook
  repeat' with_reducible first | exact h | assumption | apply State.setBook_kept
theorem State.setMesh_kept {s t : State} (h : Kept s t) (l : List MeshFlit) :
    Kept s (State.setMesh t l) := by
  unfold State.setMesh
  repeat' first | (with_reducible first | exact h | assumption) | (fail_if_no_progress with_reducible apply Kept.upd)
theorem State.leaveInput_kept {s t : State} (h : Kept s t) (f : MeshFlit) :
    Kept s (State.leaveInput t f) := by
  unfold State.leaveInput
  repeat' first
    | (with_reducible first | exact h | assumption | apply State.modBook_kept | apply Kept.ite)
    | (fail_if_no_progress with_reducible apply Kept.upd) | split
theorem State.discardFlits_kept {s t : State} (h : Kept s t) (gone : MeshFlit → Bool) :
    Kept s (State.discardFlits t gone) := by
  unfold State.discardFlits
  repeat' first
    | (with_reducible first
        | exact h | assumption | apply State.modBook_kept | apply State.setMesh_kept | apply State.leaveInput_kept
        | apply Kept.ite | refine Kept.forAll _ _ ?_ (fun _ _ _ => ?_) | refine Kept.foldl _ _ ?_ (fun _ _ _ => ?_))
    | (fail_if_no_progress with_reducible apply Kept.upd) | intro _ | extract_lets | split
theorem State.dropFlits_kept {s t : State} (h : Kept s t) (d : Fin 4) :
    Kept s (State.dropFlits t d) := by
  unfold State.dropFlits
  repeat' first
    | (with_reducible first
        | exact h | assumption | apply State.discardFlits_kept | apply State.emit_kept | apply State.modBook_kept
        | refine Kept.foldl _ _ ?_ (fun _ _ _ => ?_))
    | (fail_if_no_progress with_reducible apply Kept.upd) | intro _ | extract_lets | split
theorem State.cutDie_kept {s t : State} (h : Kept s t) (d : Fin 4) :
    Kept s (State.cutDie t d) := by
  unfold State.cutDie
  repeat' first
    | (with_reducible first | exact h | assumption | apply State.modDie_kept | apply State.refreshDie_kept)
    | (fail_if_no_progress with_reducible apply Kept.upd) | intro _
theorem State.dropLock_kept {s t : State} (h : Kept s t) (d : Fin 4) :
    Kept s (State.dropLock t d) := by
  unfold State.dropLock
  repeat' first
    | (with_reducible first | exact h | assumption) | (fail_if_no_progress with_reducible apply Kept.upd) | intro _
    | extract_lets | split
theorem State.fenceTests_kept {s t : State} (h : Kept s t) (d : Fin 4) :
    Kept s (State.fenceTests t d) := by
  unfold State.fenceTests
  repeat' first
    | (with_reducible first
        | exact h | assumption | apply State.endTests_kept | apply State.refuse_kept
        | refine Kept.forAll _ _ ?_ (fun _ _ _ => ?_) | refine Kept.foldl _ _ ?_ (fun _ _ _ => ?_))
    | intro _ | extract_lets | split
theorem State.fence_kept {s t : State} (h : Kept s t) (d : Fin 4) (cause : Nat) :
    Kept s (State.fence t d cause) := by
  unfold State.fence
  repeat' first
    | (with_reducible first
        | exact h | assumption | apply State.cutDie_kept | apply State.dieLeaves_kept | apply State.dropFlits_kept
        | apply State.dropLock_kept | apply State.fenceTests_kept | apply State.modDie_kept | apply State.raise_kept
        | apply State.raiseDie_kept | apply State.settled_kept | apply State.unbalance_kept
        | refine Kept.forAll _ _ ?_ (fun _ _ _ => ?_) | apply Kept.ite)
    | (fail_if_no_progress with_reducible apply Kept.upd) | intro _ | extract_lets | split
theorem State.resetWorkers_kept {s t : State} (h : Kept s t) (l : List (Fin 32)) :
    Kept s (State.resetWorkers t l) := by
  unfold State.resetWorkers
  repeat' first
    | (with_reducible first
        | exact h | assumption | apply State.modWorker_kept | apply State.releaseSems_kept | apply State.settled_kept
        | refine Kept.forAll _ _ ?_ (fun _ _ _ => ?_))
    | intro _
theorem State.resetGroups_kept {s t : State} (h : Kept s t) (l : List (Fin 16)) (keep : Bool) :
    Kept s (State.resetGroups t l keep) := by
  unfold State.resetGroups
  repeat' first
    | (with_reducible first
        | exact h | assumption | apply State.modGroup_kept | apply State.resetPort_kept
        | refine Kept.forAll _ _ ?_ (fun _ _ _ => ?_) | apply Kept.ite)
    | (fail_if_no_progress with_reducible apply Kept.upd) | intro _ | extract_lets | split
theorem State.dropDieBooks_kept {s t : State} (h : Kept s t) (d : Fin 4) :
    Kept s (State.dropDieBooks t d) := by
  unfold State.dropDieBooks
  repeat' first
    | (with_reducible first
        | exact h | assumption | apply State.modSite_kept | apply State.unbalance_kept
        | refine Kept.forAll _ _ ?_ (fun _ _ _ => ?_))
    | (fail_if_no_progress with_reducible apply Kept.upd) | intro _ | extract_lets | split
theorem State.dieReset_kept {s t : State} (h : Kept s t) (d : Fin 4) :
    Kept s (State.dieReset t d) := by
  unfold State.dieReset
  repeat' first
    | (with_reducible first
        | exact h | assumption | apply State.discardFlits_kept | apply State.capture_kept | apply State.dieLeaves_kept
        | apply State.dropDieBooks_kept
        | apply State.dropFlits_kept | apply State.dropLock_kept | apply State.modDie_kept | apply State.modFab_kept
        | apply State.refreshDie_kept | apply State.resetGroups_kept | apply State.resetWorkers_kept
        | apply State.unconfigure_kept)
    | (fail_if_no_progress with_reducible apply Kept.upd) | intro _ | extract_lets | split
theorem State.loseWorker_kept {s t : State} (h : Kept s t) (w : Fin 32) :
    Kept s (State.loseWorker t w) := by
  unfold State.loseWorker
  repeat' with_reducible first | exact h | assumption | apply State.resetWorkers_kept | apply State.undefine_kept
theorem State.loseDie_kept {s t : State} (h : Kept s t) (d : Fin 4) :
    Kept s (State.loseDie t d) := by
  unfold State.loseDie
  repeat' first
    | (with_reducible first
        | exact h | assumption | apply State.dieReset_kept | apply State.modDie_kept | apply State.undefine_kept
        | refine Kept.forAll _ _ ?_ (fun _ _ _ => ?_))
    | (fail_if_no_progress with_reducible apply Kept.upd) | intro _ | extract_lets | split
theorem State.loseBrood_kept {s t : State} (h : Kept s t)  :
    Kept s (State.loseBrood t) := by
  unfold State.loseBrood
  repeat' first
    | (with_reducible first
        | exact h | assumption | apply State.modSite_kept | apply State.refuse_kept
        | refine Kept.forAll _ _ ?_ (fun _ _ _ => ?_) | refine Kept.foldl _ _ ?_ (fun _ _ _ => ?_))
    | (fail_if_no_progress with_reducible apply Kept.upd) | intro _ | extract_lets | split
theorem State.loseStack_kept {s t : State} (h : Kept s t) (n : Fin 4) :
    Kept s (State.loseStack t n) := by
  unfold State.loseStack
  repeat' first
    | (with_reducible first | exact h | assumption | apply State.modMem_kept | apply State.modStack_kept)
    | (fail_if_no_progress with_reducible apply Kept.upd) | exact Mem.wf_congr rfl rfl
    | (with_reducible first | apply Mem.dropStacks_wf) | intro _
theorem State.loseLinks_kept {s t : State} (h : Kept s t) (l : List (Fin 16)) :
    Kept s (State.loseLinks t l) := by
  unfold State.loseLinks
  repeat' first
    | (with_reducible first
        | exact h | assumption | apply State.linkDrop_kept | apply State.modLink_kept
        | refine Kept.forAll _ _ ?_ (fun _ _ _ => ?_))
    | (fail_if_no_progress with_reducible apply Kept.upd) | intro _
theorem State.resetPcie_kept {s t : State} (h : Kept s t) : Kept s (State.resetPcie t) :=
  ⟨h.pending, h.memory, fun _ => ⟨Hif.reset_legal.sub, Hif.reset_legal.rep, Hif.reset_legal.evt⟩, h.time⟩
theorem State.loseQueen_kept {s t : State} (h : Kept s t)  :
    Kept s (State.loseQueen t) := by
  unfold State.loseQueen
  repeat' first | (with_reducible first | exact h | assumption) | (fail_if_no_progress with_reducible apply Kept.upd)
theorem State.loseSecurity_kept {s t : State} (h : Kept s t)  :
    Kept s (State.loseSecurity t) := by
  unfold State.loseSecurity
  repeat' first
    | (with_reducible first | exact h | assumption) | (fail_if_no_progress with_reducible apply Kept.upd) | intro _
theorem State.domainLoss_kept {s t : State} (h : Kept s t) (n : Fin 64) :
    Kept s (State.domainLoss t n) := by
  unfold State.domainLoss
  repeat' first
    | (with_reducible first
        | exact h | assumption | apply State.dropDieBooks_kept | apply State.loseBrood_kept | apply State.loseColumns_kept
        | apply State.loseDie_kept | apply State.loseLinks_kept | apply State.loseQueen_kept | apply State.loseSecurity_kept
        | apply State.loseStack_kept | apply State.loseWorker_kept | apply State.modDie_kept | apply State.modGroup_kept
        | apply State.modMem_kept | apply State.raise_kept | apply State.refreshDie_kept | apply State.releaseIn_kept
        | apply State.resetPcie_kept | apply State.resetPort_kept | apply State.undefine_kept
        | refine Kept.forAll _ _ ?_ (fun _ _ _ => ?_) | apply Kept.ite)
    | (fail_if_no_progress with_reducible apply Kept.upd)
    | ((fail_if_success with_reducible refine Kept.upd ?_); with_reducible apply Kept.updHif)
    | exact fun l => ⟨l.sub, l.rep, l.evt⟩ | exact Mem.wf_congr rfl rfl | (with_reducible first | apply Mem.dropStacks_wf)
    | intro _ | extract_lets | split

/-! Machine/PwrOps.lean. -/

theorem State.noBudget_kept {s t : State} (h : Kept s t) (asked : Nat) :
    Kept s (State.noBudget t asked) := by
  unfold State.noBudget
  repeat' with_reducible first | exact h | assumption | apply State.raise_kept
theorem State.rampDomain_kept {s t : State} (h : Kept s t) (n : Fin 64) :
    Kept s (State.rampDomain t n) := by
  unfold State.rampDomain
  repeat' first
    | (with_reducible first | exact h | assumption | apply State.modDomain_kept)
    | (fail_if_no_progress with_reducible apply Kept.upd) | intro _
theorem State.domainUp_kept {s t : State} (h : Kept s t) (n : Fin 64) :
    Kept s (State.domainUp t n) := by
  unfold State.domainUp
  repeat' first
    | (with_reducible first
        | exact h | assumption | apply State.linkState_kept | apply State.modDomain_kept | apply State.modLink_kept
        | apply State.modStack_kept | apply State.refreshDie_kept | refine Kept.forAll _ _ ?_ (fun _ _ _ => ?_)
        | apply Kept.ite)
    | (fail_if_no_progress with_reducible apply Kept.upd) | intro _ | extract_lets | split
theorem State.dropRamp_kept {s t : State} (h : Kept s t) (n : Fin 64) :
    Kept s (State.dropRamp t n) := by
  unfold State.dropRamp
  repeat' first
    | (with_reducible first | exact h | assumption | apply Kept.ite)
    | (fail_if_no_progress with_reducible apply Kept.upd) | intro _ | extract_lets | split
theorem State.domainOff_kept {s t : State} (h : Kept s t) (n : Fin 64) :
    Kept s (State.domainOff t n) := by
  unfold State.domainOff
  repeat' first
    | (with_reducible first
        | exact h | assumption | apply State.dropRamp_kept | apply State.domainLoss_kept | apply State.modDomain_kept
        | apply State.refreshDie_kept
        | apply Kept.ite)
    | intro _ | extract_lets | split
theorem State.bistCut_kept {s t : State} (h : Kept s t) (l : List (Fin 64)) :
    Kept s (State.bistCut t l) := by
  unfold State.bistCut
  repeat' first
    | (with_reducible first
        | exact h | assumption | apply CmdDef.run_kept | apply State.modBist_kept
        | refine Kept.forAll _ _ ?_ (fun _ _ _ => ?_))
    | (fail_if_no_progress with_reducible apply Kept.upd) | intro _ | extract_lets | split
theorem State.faultDomain_kept {s t : State} (h : Kept s t) (n : Fin 64) (ma : Nat) (mv : Nat) :
    Kept s (State.faultDomain t n ma mv) := by
  unfold State.faultDomain
  repeat' first
    | (with_reducible first
        | exact h | assumption | apply State.dropRamp_kept | apply State.bistCut_kept | apply State.domainLoss_kept
        | apply State.fence_kept
        | apply State.modDomain_kept | apply State.raise_kept | apply State.raiseDie_kept | apply State.refreshPorts_kept
        | refine Kept.forAll _ _ ?_ (fun _ _ _ => ?_) | apply Kept.ite)
    | (fail_if_no_progress with_reducible apply Kept.upd) | intro _ | extract_lets | split

/-! Machine/BistCmds.lean. -/

theorem bistRunAct_kept {s t : State} (h : Kept s t) (j : Job) :
    (bistRunAct j t).Keeps s := by
  unfold bistRunAct
  repeat' first
    | (with_reducible first | exact h | assumption | apply CmdDef.run_kept | apply Kept.ite)
    | (fail_if_no_progress with_reducible apply Kept.upd) | intro _ | extract_lets | split
    | (with_reducible first | apply Act.Keeps.done | apply Act.Keeps.close | apply Act.Keeps.stay | apply Act.keeps_ite)
theorem cmdBistRun_good : cmdBistRun.Good := by
  refine ⟨fun j s t h => ?_, fun j v s t h => ?_⟩ <;> dsimp only [cmdBistRun, CmdDef.plain]
  all_goals repeat' first
    | (with_reducible first | exact h | assumption | apply bistRunAct_kept | apply Kept.ite)
    | (fail_if_no_progress with_reducible apply Kept.upd) | intro _ | extract_lets | split
    | (with_reducible first | apply Act.Keeps.done | apply Act.Keeps.close | apply Act.Keeps.stay | apply Act.keeps_ite)
theorem execBistRun_kept {s t : State} (h : Kept s t) (p : Pkt) :
    KeptOut s (execBistRun p t) := by
  unfold execBistRun
  repeat' first
    | (with_reducible first | exact h | assumption | apply CmdDef.fetch_kept | apply KeptOut.next | apply KeptOut.ite)
    | exact cmdBistRun_good
theorem State.bistSkip_kept {s t : State} (h : Kept s t)  :
    Kept s (State.bistSkip t) := by
  unfold State.bistSkip
  repeat' first
    | (with_reducible first
        | exact h | assumption | apply CmdDef.run_kept | apply State.modBist_kept
        | refine Kept.forAll _ _ ?_ (fun _ _ _ => ?_))
    | (fail_if_no_progress with_reducible apply Kept.upd) | intro _ | extract_lets | split
theorem State.unitLost_kept {s t : State} (h : Kept s t) (u : Fin 64) :
    Kept s (State.unitLost t u) := by
  unfold State.unitLost
  repeat' first
    | (with_reducible first
        | exact h | assumption | apply State.linkDrop_kept | apply State.loseBrood_kept | apply State.loseColumns_kept
        | apply State.loseWorker_kept | apply State.modGroup_kept | apply State.modMem_kept | apply State.releaseIn_kept
        | apply State.undefine_kept | refine Kept.forAll _ _ ?_ (fun _ _ _ => ?_) | apply Kept.ite)
    | (fail_if_no_progress with_reducible apply Kept.upd) | exact Mem.wf_congr rfl rfl
    | (with_reducible first | apply Mem.dropStacks_wf) | intro _ | split
theorem State.unitBack_kept {s t : State} (h : Kept s t) (u : Fin 64) (r : TrainResult) :
    Kept s (State.unitBack t u r) := by
  unfold State.unitBack
  repeat' first
    | (with_reducible first
        | exact h | assumption | apply State.linkState_kept | apply State.modLink_kept | apply State.modStack_kept
        | apply State.stackTrained_kept | refine Kept.forAll _ _ ?_ (fun _ _ _ => ?_) | apply Kept.ite)
    | (fail_if_no_progress with_reducible apply Kept.upd) | intro _ | extract_lets | split
theorem State.unitNotTested_kept {s t : State} (h : Kept s t) (u : Fin 64) (r : BistRun) :
    Kept s (State.unitNotTested t u r) := by
  unfold State.unitNotTested
  repeat' first | (with_reducible first | exact h | assumption | apply State.modBist_kept) | intro _
theorem execBistUnitStart_kept {s t : State} (h : Kept s t)  :
    KeptOut s (execBistUnitStart t) := by
  unfold execBistUnitStart
  repeat' first
    | (with_reducible first
        | exact h | assumption | apply CmdDef.run_kept | apply State.bistSettle_kept | apply State.bistSkip_kept
        | apply State.unitLost_kept | apply State.unitNotTested_kept | refine Kept.foldl _ _ ?_ (fun _ _ _ => ?_)
        | apply Kept.ite)
    | (fail_if_no_progress with_reducible apply Kept.upd) | extract_lets | split
    | (with_reducible first | apply KeptOut.next | apply KeptOut.ite)
theorem execBistUnitEnd_kept {s t : State} (h : Kept s t) (u : Fin 64) (r : BistResult) :
    KeptOut s (execBistUnitEnd u r t) := by
  unfold execBistUnitEnd
  repeat' first
    | (with_reducible first
        | exact h | assumption | apply CmdDef.run_kept | apply State.bistSettle_kept | apply State.modBist_kept
        | apply State.unitBack_kept | apply Kept.ite)
    | (fail_if_no_progress with_reducible apply Kept.upd) | intro _ | extract_lets | split
    | (with_reducible first | apply KeptOut.next | apply KeptOut.ite)
theorem cmdBistResult_good : cmdBistResult.Good := by
  refine ⟨fun j s t h => ?_, fun j v s t h => ?_⟩ <;> dsimp only [cmdBistResult, CmdDef.plain]
  all_goals repeat' first
    | (with_reducible first | exact h | assumption) | intro _ | extract_lets | split
    | (with_reducible first | apply Act.Keeps.done | apply Act.Keeps.close | apply Act.Keeps.stay | apply Act.keeps_ite)
theorem execBistResult_kept {s t : State} (h : Kept s t) (p : Pkt) :
    KeptOut s (execBistResult p t) := by
  unfold execBistResult
  repeat' first
    | (with_reducible first | exact h | assumption | apply CmdDef.fetch_kept | apply KeptOut.next | apply KeptOut.ite)
    | exact cmdBistResult_good
theorem bistCommitAct_kept {s t : State} (h : Kept s t) (j : Job) :
    (bistCommitAct j t).Keeps s := by
  unfold bistCommitAct
  repeat' first
    | (with_reducible first | exact h | assumption | apply State.modBist_kept | apply State.nvCommand_kept)
    | (fail_if_no_progress with_reducible apply Kept.upd) | extract_lets | split
    | (with_reducible first | apply Act.Keeps.done | apply Act.Keeps.close | apply Act.Keeps.stay | apply Act.keeps_ite)
theorem cmdBistCommit_good : cmdBistCommit.Good := by
  refine ⟨fun j s t h => ?_, fun j v s t h => ?_⟩ <;> dsimp only [cmdBistCommit, CmdDef.plain]
  all_goals repeat' first
    | (with_reducible first | exact h | assumption | apply bistCommitAct_kept)
    | (fail_if_no_progress with_reducible apply Kept.upd) | intro _
    | (with_reducible first | apply Act.Keeps.done | apply Act.Keeps.close | apply Act.Keeps.stay | apply Act.keeps_ite)
theorem execBistCommit_kept {s t : State} (h : Kept s t) (p : Pkt) :
    KeptOut s (execBistCommit p t) := by
  unfold execBistCommit
  repeat' first
    | (with_reducible first | exact h | assumption | apply CmdDef.fetch_kept | apply KeptOut.next | apply KeptOut.ite)
    | exact cmdBistCommit_good
theorem cmdBistExpectSet_good : cmdBistExpectSet.Good := by
  refine ⟨fun j s t h => ?_, fun j v s t h => ?_⟩ <;> dsimp only [cmdBistExpectSet, CmdDef.plain]
  all_goals repeat' first
    | (with_reducible first | exact h | assumption | apply State.modBist_kept | apply Kept.ite)
    | (fail_if_no_progress with_reducible apply Kept.upd) | intro _ | extract_lets | split
    | (with_reducible first | apply Act.Keeps.done | apply Act.Keeps.close | apply Act.Keeps.stay | apply Act.keeps_ite)
theorem execBistExpectSet_kept {s t : State} (h : Kept s t) (p : Pkt) :
    KeptOut s (execBistExpectSet p t) := by
  unfold execBistExpectSet
  repeat' first
    | (with_reducible first | exact h | assumption | apply CmdDef.fetch_kept | apply KeptOut.next | apply KeptOut.ite)
    | exact cmdBistExpectSet_good

/-! Machine/ModeOps.lean. -/

theorem State.abortJob_kept {s t : State} (h : Kept s t) (j : Job) :
    Kept s (State.abortJob t j) := by
  unfold State.abortJob
  repeat' with_reducible first | exact h | assumption | apply State.refuse_kept
theorem State.discardStarts_kept {s t : State} (h : Kept s t)  :
    Kept s (State.discardStarts t) := by
  unfold State.discardStarts
  repeat' first
    | (with_reducible first
        | exact h | assumption | apply State.abortJob_kept | apply State.dropStart_kept
        | refine Kept.foldl _ _ ?_ (fun _ _ _ => ?_))
    | (fail_if_no_progress with_reducible apply Kept.upd) | intro _ | extract_lets | split
theorem State.stopFunctions_kept {s t : State} (h : Kept s t)  :
    Kept s (State.stopFunctions t) := by
  unfold State.stopFunctions
  repeat' first
    | (with_reducible first
        | exact h | assumption | apply State.modGroup_kept | apply State.modPort_kept | apply State.stopLane_kept
        | apply State.stopWorker_kept | refine Kept.forAll _ _ ?_ (fun _ _ _ => ?_) | apply Kept.ite)
    | (fail_if_no_progress with_reducible apply Kept.upd) | intro _ | extract_lets | split
theorem State.stopAllRegions_kept {s t : State} (h : Kept s t) (held : Bool) :
    Kept s (State.stopAllRegions t held) := by
  unfold State.stopAllRegions
  repeat' first
    | (with_reducible first
        | exact h | assumption | apply State.stopRegions_kept | refine Kept.forAll _ _ ?_ (fun _ _ _ => ?_))
    | intro _
theorem State.dropLinks_kept {s t : State} (h : Kept s t) (cause : Nat) :
    Kept s (State.dropLinks t cause) := by
  unfold State.dropLinks
  repeat' first
    | (with_reducible first
        | exact h | assumption | apply State.linkDrop_kept | refine Kept.forAll _ _ ?_ (fun _ _ _ => ?_))
    | intro _
theorem State.enterSafe_kept {s t : State} (h : Kept s t) (cause : BitVec 16) (err : Bool) :
    Kept s (State.enterSafe t cause err) := by
  unfold State.enterSafe
  repeat' first
    | (with_reducible first
        | exact h | assumption | apply CmdDef.run_kept | apply State.discardStarts_kept | apply State.dropLinks_kept
        | apply State.enterMode_kept | apply State.stopAllRegions_kept | apply State.stopFunctions_kept | apply Kept.ite)
    | (fail_if_no_progress with_reducible apply Kept.upd) | extract_lets | split
theorem State.armLinks_kept {s t : State} (h : Kept s t)  :
    Kept s (State.armLinks t) := by
  unfold State.armLinks
  repeat' first
    | (with_reducible first | exact h | assumption | apply Kept.ite) | (fail_if_no_progress with_reducible apply Kept.upd)
    | intro _ | split
theorem State.stopBist_kept {s t : State} (h : Kept s t)  :
    Kept s (State.stopBist t) := by
  unfold State.stopBist
  repeat' first
    | (with_reducible first
        | exact h | assumption | apply State.bistSettle_kept | apply CmdDef.run_kept | apply State.modBist_kept
        | refine Kept.forAll _ _ ?_ (fun _ _ _ => ?_) | apply Kept.ite)
    | (fail_if_no_progress with_reducible apply Kept.upd) | intro _ | extract_lets | split
theorem State.forgetJobs_kept {s t : State} (h : Kept s t)  :
    Kept s (State.forgetJobs t) := by
  unfold State.forgetJobs
  repeat' first
    | (with_reducible first | exact h | assumption | apply Kept.ite) | (fail_if_no_progress with_reducible apply Kept.upd)
    | ((fail_if_success with_reducible refine Kept.upd ?_); with_reducible apply Kept.updMem) | exact Mem.wf_congr rfl rfl
    | intro _ | extract_lets | split
theorem State.queenReset_kept {s t : State} (h : Kept s t)  :
    Kept s (State.queenReset t) := by
  unfold State.queenReset
  repeat' first
    | (with_reducible first
        | exact h | assumption | apply State.dropStart_kept | apply State.flushLink_kept | apply State.forgetJobs_kept
        | apply State.releaseSlot_kept | apply State.solveStep_kept | apply State.stopBist_kept
        | refine Kept.forAll _ _ ?_ (fun _ _ _ => ?_) | refine Kept.foldl _ _ ?_ (fun _ _ _ => ?_) | apply Kept.ite)
    | (fail_if_no_progress with_reducible apply Kept.upd) | intro _ | extract_lets | split
theorem State.abortAll_kept {s t : State} (h : Kept s t)  :
    Kept s (State.abortAll t) := by
  unfold State.abortAll
  repeat' first
    | (with_reducible first | exact h | assumption | apply State.abortJob_kept | refine Kept.foldl _ _ ?_ (fun _ _ _ => ?_))
    | (fail_if_no_progress with_reducible apply Kept.upd) | intro _ | split
theorem State.deviceReset_kept {s t : State} (h : Kept s t) : Kept s (State.deviceReset t) := by
  unfold State.deviceReset
  extract_lets s1 s2 m old c1 c2 c3 c4 c5 c6 c7 c8 c9 c10 t1 t2 t3 t4
  have h2 : Kept s s2 := Kept.forAll _ _ (State.resetWorkers_kept h _) fun _ _ hu => State.releaseSlot_kept hu _
  clear_value s2
  have h3 : Kept s t1 := ⟨h2.pending, fun w => Mem.wf_congr (m := m) rfl rfl (Mem.dropStacks_wf s2.mem _ (h2.memory w)),
    fun _ => ⟨Hif.reset_legal.sub, Hif.reset_legal.rep, Hif.reset_legal.evt⟩, h2.time⟩
  clear_value t1
  have h4 : Kept s t2 := State.refreshPorts_kept (State.resetGroups_kept h3 _ _)
  have h5 : Kept s t3 := Kept.forAll _ _ h4 fun _ _ hu => State.linkState_kept hu _ _ _
  have h6 : Kept s t4 := .ite h5 (State.raise_kept h5 _ _ _ _)
  exact Kept.forAll _ _ h6 fun _ _ hu => State.domainOff_kept hu _
theorem State.pcieDown_kept {s t : State} (h : Kept s t) (cause : Nat) :
    Kept s (State.pcieDown t cause) := by
  unfold State.pcieDown
  repeat' first
    | (with_reducible first | exact h | assumption | apply State.raise_kept | apply Kept.ite)
    | (fail_if_no_progress with_reducible apply Kept.upd)
    | ((fail_if_success with_reducible refine Kept.upd ?_); with_reducible apply Kept.updHif)
    | exact fun l => ⟨l.sub, l.rep, l.evt⟩ | split
theorem State.pllLocks_kept {s t : State} (h : Kept s t)  :
    Kept s (State.pllLocks t) := by
  unfold State.pllLocks
  repeat' first
    | (with_reducible first | exact h | assumption | apply CmdDef.run_kept)
    | (fail_if_no_progress with_reducible apply Kept.upd) | extract_lets | split
theorem State.bootDomain_kept {s t : State} (h : Kept s t) (n : Fin 64) :
    Kept s (State.bootDomain t n) := by
  unfold State.bootDomain
  repeat' first
    | (with_reducible first
        | exact h | assumption | apply State.domainUp_kept | apply State.noBudget_kept | apply State.rampDomain_kept
        | apply Kept.ite)
    | (fail_if_no_progress with_reducible apply Kept.upd) | extract_lets | split
theorem State.bootDomains_kept {s t : State} (h : Kept s t) (l : List (Fin 64)) :
    Kept s (State.bootDomains t l) := by
  unfold State.bootDomains
  repeat' first
    | (with_reducible first
        | exact h | assumption | apply State.bootDomain_kept | refine Kept.forAll _ _ ?_ (fun _ _ _ => ?_))
    | intro _
theorem State.bootStep_kept {s t : State} (h : Kept s t) (n : Nat) :
    Kept s (State.bootStep t n) := by
  unfold State.bootStep
  repeat' first | (with_reducible first | exact h | assumption) | (fail_if_no_progress with_reducible apply Kept.upd)
theorem State.bootSafe_kept {s t : State} (h : Kept s t) (cause : BitVec 16) (err : Bool) :
    Kept s (State.bootSafe t cause err) := by
  unfold State.bootSafe
  repeat' with_reducible first | exact h | assumption | apply State.enterSafe_kept
theorem State.bootReady_kept {s t : State} (h : Kept s t)  :
    Kept s (State.bootReady t) := by
  unfold State.bootReady
  repeat' first
    | (with_reducible first
        | exact h | assumption | apply State.armLinks_kept | apply State.bootStep_kept | apply State.enterMode_kept
        | apply Kept.ite)
    | (fail_if_no_progress with_reducible apply Kept.upd) | extract_lets | split
theorem State.bootLastDomains_kept {s t : State} (h : Kept s t)  :
    Kept s (State.bootLastDomains t) := by
  unfold State.bootLastDomains
  repeat' first
    | (with_reducible first | exact h | assumption | apply State.bootDomains_kept) | intro _ | extract_lets | split
theorem State.bootImage_kept {s t : State} (h : Kept s t)  :
    Kept s (State.bootImage t) := by
  unfold State.bootImage
  repeat' first
    | (with_reducible first
        | exact h | assumption | apply State.bootLastDomains_kept | apply State.bootSafe_kept | apply State.bootStep_kept
        | apply State.modSlot_kept)
    | (fail_if_no_progress with_reducible apply Kept.upd) | intro _ | extract_lets | split
theorem State.bootLinks_kept {s t : State} (h : Kept s t)  :
    Kept s (State.bootLinks t) := by
  unfold State.bootLinks
  repeat' first
    | (with_reducible first
        | exact h | assumption | apply State.bootDomains_kept | apply State.bootImage_kept | apply State.bootStep_kept
        | apply State.modDie_kept | apply State.modFab_kept | apply State.present_kept
        | refine Kept.forAll _ _ ?_ (fun _ _ _ => ?_) | apply Kept.ite)
    | (fail_if_no_progress with_reducible apply Kept.upd) | intro _ | extract_lets | split
theorem State.bootStacks_kept {s t : State} (h : Kept s t) : Kept s (State.bootStacks t) := by
  unfold State.bootStacks
  extract_lets s1 tr1 s2 tr2 s3 s4 job c s5
  have h1 : Kept s s1 := State.bootDomains_kept (State.bootStep_kept h _) _
  have h2 : Kept s s2 := State.bootDomains_kept h1 _
  have h3 : Kept s s3 := Kept.forAll _ _ h2 fun _ _ hu => State.modStack_kept hu _ _
  have h4 : Kept s s4 := .ite (State.newKeys_kept h3 _ _) h3
  clear_value s4
  have h5 : Kept s s5 := ⟨h4.pending, fun w => Mem.wf_congr (m := s4.mem) rfl rfl (h4.memory w), h4.rings, h4.time⟩
  clear_value s5
  exact .ite (State.bootLinks_kept h5) h5
theorem State.firmwareUp_kept {s t : State} (h : Kept s t) (fw : FwImage) (again : Bool) :
    Kept s (State.firmwareUp t fw again) := by
  unfold State.firmwareUp
  repeat' first
    | (with_reducible first | exact h | assumption | apply State.abortAll_kept | apply State.raise_kept | apply Kept.ite)
    | (fail_if_no_progress with_reducible apply Kept.upd)
    | ((fail_if_success with_reducible refine Kept.upd ?_); with_reducible apply Kept.updHif)
    | exact fun l => ⟨l.sub, l.rep, l.evt⟩ | extract_lets | split

/-! Machine/ModeCmds.lean. -/

theorem cmdModeGet_good : cmdModeGet.Good := by
  refine ⟨fun j s t h => ?_, fun j v s t h => ?_⟩ <;> dsimp only [cmdModeGet, CmdDef.plain]
  all_goals repeat' first
    | (with_reducible first | exact h | assumption) | intro _
    | (with_reducible first | apply Act.Keeps.done | apply Act.Keeps.close | apply Act.Keeps.stay | apply Act.keeps_ite)
theorem execModeGet_kept {s t : State} (h : Kept s t) (p : Pkt) :
    KeptOut s (execModeGet p t) := by
  unfold execModeGet
  repeat' first
    | (with_reducible first | exact h | assumption | apply CmdDef.fetch_kept | apply KeptOut.next | apply KeptOut.ite)
    | exact cmdModeGet_good
theorem modeSetAct_kept {s t : State} (h : Kept s t) (j : Job) : (modeSetAct j t).Keeps s := by
  unfold modeSetAct
  extract_lets goal
  clear_value goal
  refine Act.keeps_ite (.done h _) ?_
  split
  · exact .done (State.enterSafe_kept h _ _) _
  · exact .stay (State.commitDone_kept h _ _)
  · refine .done (State.enterMode_kept ?_ _ _) _
    cases (decide (t.rsc.mode = .safe) || decide (t.rsc.mode = .maintain)) <;> first | exact h | exact State.armLinks_kept h
  · exact .done (State.enterMode_kept h _ _) _
theorem cmdModeSet_good : cmdModeSet.Good := by
  refine ⟨fun j s t h => ?_, fun j v s t h => ?_⟩ <;> dsimp only [cmdModeSet, CmdDef.plain]
  all_goals repeat' first
    | (with_reducible first | exact h | assumption | apply modeSetAct_kept)
    | (fail_if_no_progress with_reducible apply Kept.upd) | intro _
    | (with_reducible first | apply Act.Keeps.done | apply Act.Keeps.close | apply Act.Keeps.stay | apply Act.keeps_ite)
theorem execModeSet_kept {s t : State} (h : Kept s t) (p : Pkt) :
    KeptOut s (execModeSet p t) := by
  unfold execModeSet
  repeat' first
    | (with_reducible first | exact h | assumption | apply CmdDef.fetch_kept | apply KeptOut.next | apply KeptOut.ite)
    | exact cmdModeSet_good
theorem cmdSysReset_good : cmdSysReset.Good := by
  refine ⟨fun j s t h => ?_, fun j v s t h => ?_⟩ <;> dsimp only [cmdSysReset, CmdDef.plain]
  all_goals repeat' first
    | (with_reducible first | exact h | assumption | apply State.commitDone_kept | apply Kept.ite)
    | (fail_if_no_progress with_reducible apply Kept.upd) | intro _ | split
    | (with_reducible first | apply Act.Keeps.done | apply Act.Keeps.close | apply Act.Keeps.stay | apply Act.keeps_ite)
theorem execSysReset_kept {s t : State} (h : Kept s t) (p : Pkt) :
    KeptOut s (execSysReset p t) := by
  unfold execSysReset
  repeat' first
    | (with_reducible first | exact h | assumption | apply CmdDef.fetch_kept | apply KeptOut.next | apply KeptOut.ite)
    | exact cmdSysReset_good
theorem State.hibernateBegin_kept {s t : State} (h : Kept s t)  :
    Kept s (State.hibernateBegin t) := by
  unfold State.hibernateBegin
  repeat' first
    | (with_reducible first
        | exact h | assumption | apply State.capture_kept | apply State.enterMode_kept | apply State.modFab_kept
        | apply State.stopAllRegions_kept | refine Kept.forAll _ _ ?_ (fun _ _ _ => ?_) | apply Kept.ite)
    | (fail_if_no_progress with_reducible apply Kept.upd) | intro _ | extract_lets | split
theorem State.wakeBegin_kept {s t : State} (h : Kept s t)  :
    Kept s (State.wakeBegin t) := by
  unfold State.wakeBegin
  repeat' first
    | (with_reducible first
        | exact h | assumption | apply State.armLinks_kept | apply State.modFab_kept | apply State.modDie_kept
        | apply State.modStack_kept
        | refine Kept.forAll _ _ ?_ (fun _ _ _ => ?_) | apply Kept.ite)
    | (fail_if_no_progress with_reducible apply Kept.upd)
    | ((fail_if_success with_reducible refine Kept.upd ?_); with_reducible apply Kept.updMem) | exact Mem.wf_congr rfl rfl
    | intro _ | extract_lets | split
theorem execHibernateEntryEnd_kept {s t : State} (h : Kept s t) : KeptOut s (execHibernateEntryEnd t) := by
  unfold execHibernateEntryEnd
  refine .next (.ite h ?_)
  extract_lets s1 s2 pd0 down c3 c4 c5 c6 s4
  have h1 : Kept s s1 := State.dropLinks_kept h _
  have h2 : Kept s s2 := State.pcieDown_kept (.ite (State.servoHold_kept h1 _) h1) _
  have h4 : Kept s s4 := ⟨h2.pending, fun w => Mem.wf_congr (m := s2.mem) rfl rfl (h2.memory w), h2.rings, h2.time⟩
  exact .ite (State.wakeBegin_kept h4) h4
theorem State.wakeMatch_kept {s t : State} (h : Kept s t)  :
    Kept s (State.wakeMatch t) := by
  unfold State.wakeMatch
  repeat' first
    | (with_reducible first | exact h | assumption | apply State.wakeBegin_kept)
    | (fail_if_no_progress with_reducible apply Kept.upd) | split
theorem execWakeMatch_kept {s t : State} (h : Kept s t)  :
    KeptOut s (execWakeMatch t) := by
  unfold execWakeMatch
  repeat' with_reducible first | exact h | assumption | apply State.wakeMatch_kept | apply KeptOut.next | apply KeptOut.ite
theorem State.pcieReset_kept {s t : State} (h : Kept s t) :
    Kept s (State.pcieReset t) := by
  unfold State.pcieReset
  repeat' first
    | (with_reducible first | exact h | assumption | apply State.resetPcie_kept | apply State.pcieDown_kept | apply Kept.ite)
    | (fail_if_no_progress with_reducible apply Kept.upd) | intro _ | extract_lets | split
theorem execWakeEnd_kept {s t : State} (h : Kept s t)  :
    KeptOut s (execWakeEnd t) := by
  unfold execWakeEnd
  repeat' first
    | (with_reducible first
        | exact h | assumption | apply State.pcieReset_kept | apply State.armLinks_kept | apply State.enterMode_kept
        | apply State.modFab_kept
        | apply State.resetPcie_kept | refine Kept.forAll _ _ ?_ (fun _ _ _ => ?_) | apply Kept.ite)
    | (fail_if_no_progress with_reducible apply Kept.upd) | intro _ | extract_lets | split
    | (with_reducible first | apply KeptOut.next | apply KeptOut.ite)

/-! Machine/PwrCmds.lean. -/

theorem State.settlePower_kept {s t : State} (h : Kept s t)  :
    Kept s (State.settlePower t) := by
  unfold State.settlePower
  repeat' first
    | (with_reducible first
        | exact h | assumption | apply State.commitClose_kept | apply State.commitDone_kept | apply State.domainOff_kept
        | refine Kept.forAll _ _ ?_ (fun _ _ _ => ?_) | refine Kept.foldl _ _ ?_ (fun _ _ _ => ?_) | apply Kept.ite)
    | (fail_if_no_progress with_reducible apply Kept.upd) | intro _ | extract_lets | split
theorem domainSetAct_kept {s t : State} (h : Kept s t) (j : Job) :
    (domainSetAct j t).Keeps s := by
  unfold domainSetAct
  repeat' first
    | (with_reducible first
        | exact h | assumption | apply State.settlePower_kept | apply State.domainOff_kept | apply State.rampDomain_kept
        | refine Kept.forAll _ _ ?_ (fun _ _ _ => ?_) | apply Kept.ite)
    | (fail_if_no_progress with_reducible apply Kept.upd) | intro _ | extract_lets | split
    | (with_reducible first | apply Act.Keeps.done | apply Act.Keeps.close | apply Act.Keeps.stay | apply Act.keeps_ite)
theorem cmdPwrDomainSet_good : cmdPwrDomainSet.Good := by
  refine ⟨fun j s t h => ?_, fun j v s t h => ?_⟩ <;> dsimp only [cmdPwrDomainSet, CmdDef.plain]
  all_goals repeat' first
    | (with_reducible first | exact h | assumption | apply State.noBudget_kept | apply domainSetAct_kept | apply Kept.ite)
    | (fail_if_no_progress with_reducible apply Kept.upd) | intro _ | extract_lets | split
    | (with_reducible first | apply Act.Keeps.done | apply Act.Keeps.close | apply Act.Keeps.stay | apply Act.keeps_ite)
theorem execPwrDomainSet_kept {s t : State} (h : Kept s t) (p : Pkt) :
    KeptOut s (execPwrDomainSet p t) := by
  unfold execPwrDomainSet
  repeat' first
    | (with_reducible first | exact h | assumption | apply CmdDef.fetch_kept | apply KeptOut.next | apply KeptOut.ite)
    | exact cmdPwrDomainSet_good
theorem cmdPwrDomainGet_good : cmdPwrDomainGet.Good := by
  refine ⟨fun j s t h => ?_, fun j v s t h => ?_⟩ <;> dsimp only [cmdPwrDomainGet, CmdDef.plain]
  all_goals repeat' first
    | (with_reducible first | exact h | assumption) | intro _
    | (with_reducible first | apply Act.Keeps.done | apply Act.Keeps.close | apply Act.Keeps.stay | apply Act.keeps_ite)
theorem execPwrDomainGet_kept {s t : State} (h : Kept s t) (p : Pkt) :
    KeptOut s (execPwrDomainGet p t) := by
  unfold execPwrDomainGet
  repeat' first
    | (with_reducible first | exact h | assumption | apply CmdDef.fetch_kept | apply KeptOut.next | apply KeptOut.ite)
    | exact cmdPwrDomainGet_good
theorem budgetSetAct_kept {s t : State} (h : Kept s t) (j : Job) :
    (budgetSetAct j t).Keeps s := by
  unfold budgetSetAct
  repeat' first
    | (with_reducible first | exact h | assumption | apply State.commitDone_kept)
    | (fail_if_no_progress with_reducible apply Kept.upd) | extract_lets | split
    | (with_reducible first | apply Act.Keeps.done | apply Act.Keeps.close | apply Act.Keeps.stay | apply Act.keeps_ite)
theorem cmdPwrBudgetSet_good : cmdPwrBudgetSet.Good := by
  refine ⟨fun j s t h => ?_, fun j v s t h => ?_⟩ <;> dsimp only [cmdPwrBudgetSet, CmdDef.plain]
  all_goals repeat' first
    | (with_reducible first | exact h | assumption | apply budgetSetAct_kept)
    | (fail_if_no_progress with_reducible apply Kept.upd) | intro _
    | (with_reducible first | apply Act.Keeps.done | apply Act.Keeps.close | apply Act.Keeps.stay | apply Act.keeps_ite)
theorem execPwrBudgetSet_kept {s t : State} (h : Kept s t) (p : Pkt) :
    KeptOut s (execPwrBudgetSet p t) := by
  unfold execPwrBudgetSet
  repeat' first
    | (with_reducible first | exact h | assumption | apply CmdDef.fetch_kept | apply KeptOut.next | apply KeptOut.ite)
    | exact cmdPwrBudgetSet_good
theorem State.vinLow_kept {s t : State} (h : Kept s t) (mv : BitVec 16) :
    Kept s (State.vinLow t mv) := by
  unfold State.vinLow
  repeat' first
    | (with_reducible first | exact h | assumption | apply CmdDef.run_kept | apply State.raise_kept | apply Kept.ite)
    | (fail_if_no_progress with_reducible apply Kept.upd) | extract_lets | split
theorem limitsSetAct_kept {s t : State} (h : Kept s t) (j : Job) :
    (limitsSetAct j t).Keeps s := by
  unfold limitsSetAct
  repeat' first
    | (with_reducible first | exact h | assumption | apply State.vinLow_kept | apply Kept.ite)
    | (fail_if_no_progress with_reducible apply Kept.upd) | extract_lets | split
    | (with_reducible first | apply Act.Keeps.done | apply Act.Keeps.close | apply Act.Keeps.stay | apply Act.keeps_ite)
theorem cmdPwrLimitsSet_good : cmdPwrLimitsSet.Good := by
  refine ⟨fun j s t h => ?_, fun j v s t h => ?_⟩ <;> dsimp only [cmdPwrLimitsSet, CmdDef.plain]
  all_goals repeat' first
    | (with_reducible first | exact h | assumption | apply limitsSetAct_kept)
    | (fail_if_no_progress with_reducible apply Kept.upd) | intro _
    | (with_reducible first | apply Act.Keeps.done | apply Act.Keeps.close | apply Act.Keeps.stay | apply Act.keeps_ite)
theorem execPwrLimitsSet_kept {s t : State} (h : Kept s t) (p : Pkt) :
    KeptOut s (execPwrLimitsSet p t) := by
  unfold execPwrLimitsSet
  repeat' first
    | (with_reducible first | exact h | assumption | apply CmdDef.fetch_kept | apply KeptOut.next | apply KeptOut.ite)
    | exact cmdPwrLimitsSet_good
theorem telemetryAct_kept {s t : State} (h : Kept s t) (j : Job) :
    (telemetryAct j t).Keeps s := by
  unfold telemetryAct
  repeat' first
    | (with_reducible first | exact h | assumption | apply Kept.ite) | (fail_if_no_progress with_reducible apply Kept.upd)
    | extract_lets | split
    | (with_reducible first | apply Act.Keeps.done | apply Act.Keeps.close | apply Act.Keeps.stay | apply Act.keeps_ite)
theorem cmdPwrTelemetry_good : cmdPwrTelemetry.Good := by
  refine ⟨fun j s t h => ?_, fun j v s t h => ?_⟩ <;> dsimp only [cmdPwrTelemetry, CmdDef.plain]
  all_goals repeat' with_reducible first | exact h | assumption | apply telemetryAct_kept | apply Act.Keeps.done | apply Act.Keeps.close | apply Act.Keeps.stay | apply Act.keeps_ite
theorem execPwrTelemetry_kept {s t : State} (h : Kept s t) (p : Pkt) :
    KeptOut s (execPwrTelemetry p t) := by
  unfold execPwrTelemetry
  repeat' first
    | (with_reducible first | exact h | assumption | apply CmdDef.fetch_kept | apply KeptOut.next | apply KeptOut.ite)
    | exact cmdPwrTelemetry_good
theorem execDomainRamped_kept {s t : State} (h : Kept s t) (n : Fin 64) :
    KeptOut s (execDomainRamped n t) := by
  unfold execDomainRamped
  repeat' first
    | (with_reducible first
        | exact h | assumption | apply State.dropRamp_kept | apply State.domainUp_kept | apply State.settlePower_kept
        | apply Kept.ite)
    | (fail_if_no_progress with_reducible apply Kept.upd) | intro _ | extract_lets | split
    | (with_reducible first | apply KeptOut.next | apply KeptOut.ite)
theorem State.seeVin_kept {s t : State} (h : Kept s t) (mv : BitVec 16) :
    Kept s (State.seeVin t mv) := by
  unfold State.seeVin
  repeat' first
    | (with_reducible first | exact h | assumption | apply Kept.ite)
    | (fail_if_no_progress with_reducible apply Kept.upd) | intro _ | extract_lets | split
theorem execVinWarning_kept {s t : State} (h : Kept s t) (mv : BitVec 16) :
    KeptOut s (execVinWarning mv t) := by
  unfold execVinWarning
  repeat' first
    | (with_reducible first | exact h | assumption | apply State.seeVin_kept | apply State.vinLow_kept | apply Kept.ite) | split
    | (with_reducible first | apply KeptOut.next | apply KeptOut.ite)
theorem execVinRecovered_kept {s t : State} (h : Kept s t) (mv : BitVec 16) :
    KeptOut s (execVinRecovered mv t) := by
  unfold execVinRecovered
  repeat' first
    | (with_reducible first | exact h | assumption | apply State.raise_kept | apply State.vinLow_kept | apply Kept.ite)
    | (fail_if_no_progress with_reducible apply Kept.upd) | split
    | (with_reducible first | apply KeptOut.next | apply KeptOut.ite)
theorem execOvervoltageWarning_kept {s t : State} (h : Kept s t) (mv : BitVec 16) :
    KeptOut s (execOvervoltageWarning mv t) := by
  unfold execOvervoltageWarning
  repeat' first
    | (with_reducible first | exact h | assumption | apply State.raise_kept | apply Kept.ite)
    | (fail_if_no_progress with_reducible apply Kept.upd) | split
    | (with_reducible first | apply KeptOut.next | apply KeptOut.ite)
theorem execOvervoltageCleared_kept {s t : State} (h : Kept s t)  :
    KeptOut s (execOvervoltageCleared t) := by
  unfold execOvervoltageCleared
  repeat' first
    | (with_reducible first | exact h | assumption) | (fail_if_no_progress with_reducible apply Kept.upd)
    | (with_reducible first | apply KeptOut.next | apply KeptOut.ite)
theorem execCurrentLimit_kept {s t : State} (h : Kept s t)  :
    KeptOut s (execCurrentLimit t) := by
  unfold execCurrentLimit
  repeat' first
    | (with_reducible first | exact h | assumption | apply State.raise_kept | apply Kept.ite)
    | (fail_if_no_progress with_reducible apply Kept.upd) | split
    | (with_reducible first | apply KeptOut.next | apply KeptOut.ite)
theorem execCurrentLimitReleased_kept {s t : State} (h : Kept s t)  :
    KeptOut s (execCurrentLimitReleased t) := by
  unfold execCurrentLimitReleased
  repeat' first
    | (with_reducible first | exact h | assumption) | (fail_if_no_progress with_reducible apply Kept.upd)
    | (with_reducible first | apply KeptOut.next | apply KeptOut.ite)
theorem execBudgetVin_kept {s t : State} (h : Kept s t) (mv : BitVec 16) :
    KeptOut s (execBudgetVin mv t) := by
  unfold execBudgetVin
  repeat' first
    | (with_reducible first | exact h | assumption | apply State.raise_kept | apply Kept.ite)
    | (fail_if_no_progress with_reducible apply Kept.upd) | split
    | (with_reducible first | apply KeptOut.next | apply KeptOut.ite)
theorem execBudgetVinRecovered_kept {s t : State} (h : Kept s t)  :
    KeptOut s (execBudgetVinRecovered t) := by
  unfold execBudgetVinRecovered
  repeat' first
    | (with_reducible first | exact h | assumption) | (fail_if_no_progress with_reducible apply Kept.upd)
    | (with_reducible first | apply KeptOut.next | apply KeptOut.ite)
theorem execTempWarning_kept {s t : State} (h : Kept s t) (i : Fin 24) (temp : BitVec 16) :
    KeptOut s (execTempWarning i temp t) := by
  unfold execTempWarning
  repeat' first
    | (with_reducible first | exact h | assumption | apply State.raise_kept | apply State.raiseDie_kept | apply Kept.ite)
    | (fail_if_no_progress with_reducible apply Kept.upd) | intro _ | extract_lets | split
    | (with_reducible first | apply KeptOut.next | apply KeptOut.ite)
theorem execTempWarningCleared_kept {s t : State} (h : Kept s t) (i : Fin 24) (temp : BitVec 16) :
    KeptOut s (execTempWarningCleared i temp t) := by
  unfold execTempWarningCleared
  repeat' first
    | (with_reducible first | exact h | assumption | apply Kept.ite) | (fail_if_no_progress with_reducible apply Kept.upd)
    | intro _ | extract_lets | split | (with_reducible first | apply KeptOut.next | apply KeptOut.ite)
theorem execStackHot_kept {s t : State} (h : Kept s t) (n : Fin 4) (temp : Byte) :
    KeptOut s (execStackHot n temp t) := by
  unfold execStackHot
  repeat' first
    | (with_reducible first | exact h | assumption | apply State.modStack_kept | apply State.raise_kept | apply Kept.ite)
    | (fail_if_no_progress with_reducible apply Kept.upd) | intro _ | extract_lets | split
    | (with_reducible first | apply KeptOut.next | apply KeptOut.ite)
theorem State.cutOff_kept {s t : State} (h : Kept s t) (n : Fin 64) (ma : Word) (mv : BitVec 16) :
    Kept s (State.cutOff t n ma mv) := by
  unfold State.cutOff
  repeat' first
    | (with_reducible first
        | exact h | assumption | apply State.faultDomain_kept | apply State.settlePower_kept | apply Kept.ite)
    | extract_lets | split
theorem execTelemetrySample_kept {s t : State} (h : Kept s t) (x : Sample) :
    KeptOut s (execTelemetrySample x t) := by
  unfold execTelemetrySample
  repeat' first
    | (with_reducible first | exact h | assumption | apply State.vinLow_kept | apply Kept.ite)
    | (fail_if_no_progress with_reducible apply Kept.upd) | extract_lets | split
    | (with_reducible first | apply KeptOut.next | apply KeptOut.ite)

/-! Machine/BootEvents.lean. -/

theorem State.tornWrite_kept {s t : State} (h : Kept s t)  :
    Kept s (State.tornWrite t) := by
  unfold State.tornWrite
  repeat' first
    | (with_reducible first | exact h | assumption | apply State.setNvBlock_kept)
    | (fail_if_no_progress with_reducible apply Kept.upd) | intro _ | split
theorem State.powerLost_kept {s t : State} (h : Kept s t) (sup : Supply) (cause : BitVec 8) (det : BitVec 128)
    (sensor : BitVec 8) :
    Kept s (State.powerLost t sup cause det sensor) :=
  ⟨(State.tornWrite_kept h).pending, fun _ => rfl, fun _ => Hif.reset_legal, fun _ => reset_timeLegal⟩
theorem State.softStart_kept {s t : State} (h : Kept s t)  :
    Kept s (State.softStart t) := by
  unfold State.softStart
  repeat' first
    | (with_reducible first | exact h | assumption | apply State.bootStep_kept)
    | (fail_if_no_progress with_reducible apply Kept.upd)
theorem execPowerOn_kept {s t : State} (h : Kept s t) (mv : BitVec 16) (low : BitVec 16) :
    KeptOut s (execPowerOn mv low t) := by
  unfold execPowerOn
  repeat' first
    | (with_reducible first | exact h | assumption | apply State.seeVin_kept | apply State.softStart_kept | apply Kept.ite)
    | (fail_if_no_progress with_reducible apply Kept.upd) | extract_lets | split
    | (with_reducible first | apply KeptOut.next | apply KeptOut.ite)
theorem State.lockPll_kept {s t : State} (h : Kept s t)  :
    Kept s (State.lockPll t) := by
  unfold State.lockPll
  repeat' first
    | (with_reducible first | exact h | assumption | apply State.bootStep_kept | apply Kept.ite)
    | (fail_if_no_progress with_reducible apply Kept.upd) | split
theorem State.holdPcie_kept {s t : State} (h : Kept s t)  :
    Kept s (State.holdPcie t) := by
  unfold State.holdPcie
  repeat' first
    | (with_reducible first | exact h | assumption) | (fail_if_no_progress with_reducible apply Kept.upd)
    | ((fail_if_success with_reducible refine Kept.upd ?_); with_reducible apply Kept.updHif)
    | exact fun l => ⟨l.sub, l.rep, l.evt⟩
theorem State.bootClock_kept {s t : State} (h : Kept s t) (bootsel : BitVec 2) :
    Kept s (State.bootClock t bootsel) := by
  unfold State.bootClock
  repeat' first
    | (with_reducible first
        | exact h | assumption | apply State.bootDomains_kept | apply State.bootStep_kept | apply State.holdPcie_kept
        | apply State.lockPll_kept | apply Kept.ite)
    | (fail_if_no_progress with_reducible apply Kept.upd) | extract_lets | split
theorem State.restartEvent_kept {s t : State} (h : Kept s t)  :
    Kept s (State.restartEvent t) := by
  unfold State.restartEvent
  repeat' first
    | (with_reducible first | exact h | assumption | apply State.raise_kept)
    | (fail_if_no_progress with_reducible apply Kept.upd) | split
theorem execSoftStartEnd_kept {s t : State} (h : Kept s t) (mv : BitVec 16) (bootsel : BitVec 2) (i2cAddr : BitVec 3) :
    KeptOut s (execSoftStartEnd mv bootsel i2cAddr t) := by
  unfold execSoftStartEnd
  repeat' first
    | (with_reducible first
        | exact h | assumption | apply State.bootClock_kept | apply State.bootDomain_kept | apply State.bootStep_kept
        | apply State.restartEvent_kept | apply Kept.ite)
    | (fail_if_no_progress with_reducible apply Kept.upd) | extract_lets | split
    | (with_reducible first | apply KeptOut.next | apply KeptOut.ite)
theorem execPllLock_kept {s t : State} (h : Kept s t)  :
    KeptOut s (execPllLock t) := by
  unfold execPllLock
  repeat' first
    | (with_reducible first | exact h | assumption | apply State.bootStep_kept | apply State.pllLocks_kept | apply Kept.ite)
    | (fail_if_no_progress with_reducible apply Kept.upd) | extract_lets | split
    | (with_reducible first | apply KeptOut.next | apply KeptOut.ite)
theorem execPllLockTimeout_kept {s t : State} (h : Kept s t)  :
    KeptOut s (execPllLockTimeout t) := by
  unfold execPllLockTimeout
  repeat' first
    | (with_reducible first | exact h | assumption | apply State.bootStep_kept | apply State.pcieDown_kept | apply Kept.ite)
    | (fail_if_no_progress with_reducible apply Kept.upd) | split
    | (with_reducible first | apply KeptOut.next | apply KeptOut.ite)
theorem State.lostBlocks_kept {s t : State} (h : Kept s t) (fw : FwImage) : Kept s (State.lostBlocks t fw) := by
  unfold State.lostBlocks
  exact Kept.foldl _ _ h fun _ _ h => State.nvLost_kept h _
theorem execFirmwareVerified_kept {s t : State} (h : Kept s t) (fw : FwImage) :
    KeptOut s (execFirmwareVerified fw t) := by
  unfold execFirmwareVerified
  repeat' first
    | (with_reducible first
        | exact h | assumption | apply State.bootSafe_kept | apply State.bootStacks_kept | apply State.bootStep_kept
        | apply State.firmwareUp_kept | apply State.lostBlocks_kept | apply Kept.ite)
    | (fail_if_no_progress with_reducible apply Kept.upd) | extract_lets | split
    | (with_reducible first | apply KeptOut.next | apply KeptOut.ite)
theorem execCrsTimeout_kept {s t : State} (h : Kept s t)  :
    KeptOut s (execCrsTimeout t) := by
  unfold execCrsTimeout
  repeat' first
    | (with_reducible first | exact h | assumption) | (fail_if_no_progress with_reducible apply Kept.upd)
    | ((fail_if_success with_reducible refine Kept.upd ?_); with_reducible apply Kept.updHif)
    | exact fun l => ⟨l.sub, l.rep, l.evt⟩ | (with_reducible first | apply KeptOut.next | apply KeptOut.ite)
theorem execVinBelowReset_kept {s t : State} (h : Kept s t)  :
    KeptOut s (execVinBelowReset t) := by
  unfold execVinBelowReset
  repeat' first
    | (with_reducible first | exact h | assumption | apply State.powerLost_kept)
    | (fail_if_no_progress with_reducible apply Kept.upd) | split
    | (with_reducible first | apply KeptOut.next | apply KeptOut.ite)
theorem State.losePower_kept {s t : State} (h : Kept s t) (x : PowerLoss) :
    Kept s (State.losePower t x) := by
  unfold State.losePower
  repeat' first
    | (with_reducible first | exact h | assumption | apply State.powerLost_kept | apply Kept.ite)
    | (fail_if_no_progress with_reducible apply Kept.upd) | intro _ | extract_lets | split
theorem execOvervoltageShutdown_kept {s t : State} (h : Kept s t) (mv : BitVec 16) :
    KeptOut s (execOvervoltageShutdown mv t) := by
  unfold execOvervoltageShutdown
  repeat' first
    | (with_reducible first
        | exact h | assumption | apply State.losePower_kept | apply State.seeVin_kept | apply State.powerLost_kept
        | apply Kept.ite) | split
    | (with_reducible first | apply KeptOut.next | apply KeptOut.ite)
theorem execOvervoltageRestart_kept {s t : State} (h : Kept s t) (mv : BitVec 16) :
    KeptOut s (execOvervoltageRestart mv t) := by
  unfold execOvervoltageRestart
  repeat' first
    | (with_reducible first
        | exact h | assumption | apply State.seeVin_kept | apply State.softStart_kept | apply Kept.ite) | split
    | (with_reducible first | apply KeptOut.next | apply KeptOut.ite)
theorem execReverseVin_kept {s t : State} (h : Kept s t)  :
    KeptOut s (execReverseVin t) := by
  unfold execReverseVin
  repeat' with_reducible first | exact h | assumption | apply KeptOut.next | apply KeptOut.ite
theorem execBusCollapse_kept {s t : State} (h : Kept s t)  :
    KeptOut s (execBusCollapse t) := by
  unfold execBusCollapse
  repeat' first
    | (with_reducible first
        | exact h | assumption | apply State.losePower_kept | apply State.powerLost_kept | apply Kept.ite) | split
    | (with_reducible first | apply KeptOut.next | apply KeptOut.ite)
theorem execThermalTrip_kept {s t : State} (h : Kept s t) (i : Fin 24) (temp : BitVec 16) :
    KeptOut s (execThermalTrip i temp t) := by
  unfold execThermalTrip
  repeat' first
    | (with_reducible first
        | exact h | assumption | apply State.losePower_kept | apply State.powerLost_kept | apply Kept.ite) | split
    | (with_reducible first | apply KeptOut.next | apply KeptOut.ite)
theorem execDomainCutOff_kept {s t : State} (h : Kept s t) (n : Fin 64) (ma : Word) (mv : BitVec 16) :
    KeptOut s (execDomainCutOff n ma mv t) := by
  unfold execDomainCutOff
  repeat' first
    | (with_reducible first
        | exact h | assumption | apply State.losePower_kept | apply State.cutOff_kept | apply State.powerLost_kept
        | apply Kept.ite)
    | split | (with_reducible first | apply KeptOut.next | apply KeptOut.ite)
theorem State.raiseDevice_kept {s t : State} (h : Kept s t) (bootsel : BitVec 2) :
    Kept s (State.raiseDevice t bootsel) := by
  unfold State.raiseDevice
  repeat' first
    | (with_reducible first
        | exact h | assumption | apply State.bootClock_kept | apply State.deviceReset_kept | apply Kept.ite)
    | (fail_if_no_progress with_reducible apply Kept.upd) | split
theorem State.raiseQueen_kept {s t : State} (h : Kept s t)  :
    Kept s (State.raiseQueen t) := by
  unfold State.raiseQueen
  repeat' first
    | (with_reducible first | exact h | assumption | apply State.queenReset_kept | apply Kept.ite)
    | (fail_if_no_progress with_reducible apply Kept.upd) | extract_lets | split
theorem execResetBegin_kept {s t : State} (h : Kept s t) (bootsel : BitVec 2) :
    KeptOut s (execResetBegin bootsel t) := by
  unfold execResetBegin
  repeat' first
    | (with_reducible first | exact h | assumption | apply State.raiseDevice_kept | apply State.raiseQueen_kept)
    | (fail_if_no_progress with_reducible apply Kept.upd) | split
    | (with_reducible first | apply KeptOut.next | apply KeptOut.ite)
theorem execDeviceReset_kept {s t : State} (h : Kept s t)  :
    KeptOut s (execDeviceReset t) := by
  unfold execDeviceReset
  repeat' first
    | (with_reducible first | exact h | assumption | apply State.raiseDevice_kept)
    | (fail_if_no_progress with_reducible apply Kept.upd) | (with_reducible first | apply KeptOut.next | apply KeptOut.ite)
theorem execResetNRelease_kept {s t : State} (h : Kept s t) (bootsel : BitVec 2) :
    KeptOut s (execResetNRelease bootsel t) := by
  unfold execResetNRelease
  repeat' first
    | (with_reducible first
        | exact h | assumption | apply State.bootClock_kept | apply State.bootStep_kept | apply Kept.ite)
    | (fail_if_no_progress with_reducible apply Kept.upd) | extract_lets | split
    | (with_reducible first | apply KeptOut.next | apply KeptOut.ite)
theorem execDeferredReset_kept {s t : State} (h : Kept s t) (bootsel : BitVec 2) :
    KeptOut s (execDeferredReset bootsel t) := by
  unfold execDeferredReset
  repeat' first
    | (with_reducible first | exact h | assumption | apply State.losePower_kept | apply State.raiseDevice_kept | apply Kept.ite)
    | (fail_if_no_progress with_reducible apply Kept.upd) | split
    | (with_reducible first | apply KeptOut.next | apply KeptOut.ite)
theorem execPcieReset_kept {s t : State} (h : Kept s t)  :
    KeptOut s (execPcieReset t) := by
  unfold execPcieReset
  repeat' first
    | (with_reducible first | exact h | assumption | apply State.pcieReset_kept | apply State.resetPcie_kept | apply Kept.ite)
    | (fail_if_no_progress with_reducible apply Kept.upd) | split
    | (with_reducible first | apply KeptOut.next | apply KeptOut.ite)
theorem execPcieLinkUp_kept {s t : State} (h : Kept s t) (ptm : Bool) :
    KeptOut s (execPcieLinkUp ptm t) := by
  unfold execPcieLinkUp
  repeat' first
    | (with_reducible first | exact h | assumption | apply State.raise_kept | apply Kept.ite)
    | (fail_if_no_progress with_reducible apply Kept.upd)
    | ((fail_if_success with_reducible refine Kept.upd ?_); with_reducible apply Kept.updHif)
    | exact fun l => ⟨l.sub, l.rep, l.evt⟩ | split | (with_reducible first | apply KeptOut.next | apply KeptOut.ite)
theorem execQueenWatchdog_kept {s t : State} (h : Kept s t) (pc : Word) :
    KeptOut s (execQueenWatchdog pc t) := by
  unfold execQueenWatchdog
  repeat' first
    | (with_reducible first | exact h | assumption | apply State.raise_kept | apply Kept.ite)
    | (fail_if_no_progress with_reducible apply Kept.upd) | split
    | (with_reducible first | apply KeptOut.next | apply KeptOut.ite)

/-! Machine/ClkCmds.lean. -/

theorem cmdClkStatus_good : cmdClkStatus.Good := by
  refine ⟨fun j s t h => ?_, fun j v s t h => ?_⟩ <;> dsimp only [cmdClkStatus, CmdDef.plain]
  all_goals repeat' first
    | (with_reducible first | exact h | assumption) | intro _
    | (with_reducible first | apply Act.Keeps.done | apply Act.Keeps.close | apply Act.Keeps.stay | apply Act.keeps_ite)
theorem execClkStatus_kept {s t : State} (h : Kept s t) (p : Pkt) :
    KeptOut s (execClkStatus p t) := by
  unfold execClkStatus
  repeat' first
    | (with_reducible first | exact h | assumption | apply CmdDef.fetch_kept | apply KeptOut.next | apply KeptOut.ite)
    | exact cmdClkStatus_good
theorem State.loseLock_kept {s t : State} (h : Kept s t) (d : Fin 4) (lane : BitVec 16) :
    Kept s (State.loseLock t d lane) := by
  unfold State.loseLock
  repeat' first
    | (with_reducible first | exact h | assumption | apply State.modDie_kept | apply State.raise_kept | apply Kept.ite)
    | (fail_if_no_progress with_reducible apply Kept.upd) | intro _ | split
theorem State.switchMuxes_kept {s t : State} (h : Kept s t) (m : Nat) (divider : Bool) :
    Kept s (State.switchMuxes t m divider) := by
  unfold State.switchMuxes
  repeat' first
    | (with_reducible first
        | exact h | assumption | apply State.drawFree_kept | apply State.loseLock_kept
        | refine Kept.forAll _ _ ?_ (fun _ _ _ => ?_) | apply Kept.ite)
    | (fail_if_no_progress with_reducible apply Kept.upd) | intro _ | extract_lets | split
    | exact Kept.prod2 (State.drawFree_kept (by first | assumption | exact Kept.refl _)) (by assumption) | dsimp only
theorem clkSelectAct_kept {s t : State} (h : Kept s t) (j : Job) :
    (clkSelectAct j t).Keeps s := by
  unfold clkSelectAct
  repeat' first
    | (with_reducible first
        | exact h | assumption | apply State.commitDone_kept | apply State.switchMuxes_kept | apply Kept.ite)
    | (fail_if_no_progress with_reducible apply Kept.upd) | extract_lets | split
    | (with_reducible first | apply Act.Keeps.done | apply Act.Keeps.close | apply Act.Keeps.stay | apply Act.keeps_ite)
theorem cmdClkSelect_good : cmdClkSelect.Good := by
  refine ⟨fun j s t h => ?_, fun j v s t h => ?_⟩ <;> dsimp only [cmdClkSelect, CmdDef.plain]
  all_goals repeat' first
    | (with_reducible first | exact h | assumption | apply clkSelectAct_kept | apply Kept.ite)
    | (fail_if_no_progress with_reducible apply Kept.upd) | intro _ | split
    | (with_reducible first | apply Act.Keeps.done | apply Act.Keeps.close | apply Act.Keeps.stay | apply Act.keeps_ite)
theorem execClkSelect_kept {s t : State} (h : Kept s t) (p : Pkt) :
    KeptOut s (execClkSelect p t) := by
  unfold execClkSelect
  repeat' first
    | (with_reducible first | exact h | assumption | apply CmdDef.fetch_kept | apply KeptOut.next | apply KeptOut.ite)
    | exact cmdClkSelect_good
theorem cmdClkOutSet_good : cmdClkOutSet.Good := by
  refine ⟨fun j s t h => ?_, fun j v s t h => ?_⟩ <;> dsimp only [cmdClkOutSet, CmdDef.plain]
  all_goals repeat' first
    | (with_reducible first | exact h | assumption | apply CmdDef.run_kept | apply Kept.ite)
    | (fail_if_no_progress with_reducible apply Kept.upd) | intro _ | extract_lets | split
    | (with_reducible first | apply Act.Keeps.done | apply Act.Keeps.close | apply Act.Keeps.stay | apply Act.keeps_ite)
theorem execClkOutSet_kept {s t : State} (h : Kept s t) (p : Pkt) :
    KeptOut s (execClkOutSet p t) := by
  unfold execClkOutSet
  repeat' first
    | (with_reducible first | exact h | assumption | apply CmdDef.fetch_kept | apply KeptOut.next | apply KeptOut.ite)
    | exact cmdClkOutSet_good
theorem State.modOut_kept {s t : State} (h : Kept s t) (n : Fin 4) (f : ClkOut → ClkOut) :
    Kept s (State.modOut t n f) := by
  unfold State.modOut
  repeat' first | (with_reducible first | exact h | assumption) | (fail_if_no_progress with_reducible apply Kept.upd)
theorem State.clkEdges_kept {s t : State} (h : Kept s t) (n : Fin 4) (k : Nat) : Kept s (State.clkEdges t n k) := by
  induction k generalizing t with
  | zero => exact h
  | succ k ih =>
    unfold State.clkEdges
    split
    · exact h
    · exact .ite h (.ite (State.modOut_kept h _ _) (ih (State.emit_kept (State.modOut_kept h _ _) _)))
theorem State.clkOutCycle_kept {s t : State} (h : Kept s t) (n : Fin 4) :
    Kept s (State.clkOutCycle t n) := by
  unfold State.clkOutCycle
  repeat' first
    | (with_reducible first
        | exact h | assumption | apply CmdDef.begin_kept | apply CmdDef.run_kept | apply State.clkEdges_kept
        | apply State.modOut_kept | apply Kept.ite)
    | (fail_if_no_progress with_reducible apply Kept.upd) | intro _ | extract_lets | split
theorem cmdClkMeasure_good : cmdClkMeasure.Good := by
  refine ⟨fun j s t h => ?_, fun j v s t h => ?_⟩ <;> dsimp only [cmdClkMeasure, CmdDef.plain]
  all_goals repeat' first
    | (with_reducible first | exact h | assumption | apply Kept.ite) | (fail_if_no_progress with_reducible apply Kept.upd)
    | intro _ | extract_lets | split
    | (with_reducible first | apply Act.Keeps.done | apply Act.Keeps.close | apply Act.Keeps.stay | apply Act.keeps_ite)
theorem execClkMeasure_kept {s t : State} (h : Kept s t) (p : Pkt) :
    KeptOut s (execClkMeasure p t) := by
  unfold execClkMeasure
  repeat' first
    | (with_reducible first | exact h | assumption | apply CmdDef.fetch_kept | apply KeptOut.next | apply KeptOut.ite)
    | exact cmdClkMeasure_good
theorem execGateClose_kept {s t : State} (h : Kept s t) (edges : List (BitVec 48)) :
    KeptOut s (execGateClose edges t) := by
  unfold execGateClose
  repeat' first
    | (with_reducible first | exact h | assumption | apply State.commitDone_kept)
    | (fail_if_no_progress with_reducible apply Kept.upd) | extract_lets | split
    | (with_reducible first | apply KeptOut.next | apply KeptOut.ite)
theorem State.bypassLost_kept {s t : State} (h : Kept s t)  :
    Kept s (State.bypassLost t) := by
  unfold State.bypassLost
  repeat' first
    | (with_reducible first | exact h | assumption | apply State.modDie_kept | refine Kept.forAll _ _ ?_ (fun _ _ _ => ?_))
    | (fail_if_no_progress with_reducible apply Kept.upd) | intro _
theorem State.coastLinks_kept {s t : State} (h : Kept s t)  :
    Kept s (State.coastLinks t) := by
  unfold State.coastLinks
  repeat' first
    | (with_reducible first
        | exact h | assumption | apply State.drawFree_kept | apply State.linkDrop_kept | apply State.loseLock_kept
        | apply State.modPort_kept | apply State.servoHold_kept | apply State.setLink_kept
        | refine Kept.forAll _ _ ?_ (fun _ _ _ => ?_) | apply Kept.ite)
    | (fail_if_no_progress with_reducible apply Kept.upd) | intro _ | extract_lets | split
    | exact Kept.prod2 (State.drawFree_kept (by first | assumption | exact Kept.refl _)) (by assumption) | dsimp only
theorem State.coast_kept {s t : State} (h : Kept s t) (cause : Nat) :
    Kept s (State.coast t cause) := by
  unfold State.coast
  repeat' first
    | (with_reducible first
        | exact h | assumption | apply State.coastLinks_kept | apply State.commitClose_kept | apply State.raise_kept)
    | (fail_if_no_progress with_reducible apply Kept.upd)
    | ((fail_if_success with_reducible refine Kept.upd ?_); with_reducible apply Kept.updMem) | exact Mem.wf_congr rfl rfl
    | intro _ | extract_lets | split
theorem execReferenceLost_kept {s t : State} (h : Kept s t) (cause : Fin 3) :
    KeptOut s (execReferenceLost cause t) := by
  unfold execReferenceLost
  repeat' first
    | (with_reducible first
        | exact h | assumption | apply State.bypassLost_kept | apply State.coast_kept | apply State.pcieDown_kept
        | apply Kept.ite)
    | (fail_if_no_progress with_reducible apply Kept.upd) | extract_lets | split
    | (with_reducible first | apply KeptOut.next | apply KeptOut.ite)
theorem execReferenceRestored_kept {s t : State} (h : Kept s t)  :
    KeptOut s (execReferenceRestored t) := by
  unfold execReferenceRestored
  repeat' first
    | (with_reducible first | exact h | assumption | apply State.raise_kept | apply Kept.ite)
    | (fail_if_no_progress with_reducible apply Kept.upd) | split
    | (with_reducible first | apply KeptOut.next | apply KeptOut.ite)
theorem execRelockEnd_kept {s t : State} (h : Kept s t)  :
    KeptOut s (execRelockEnd t) := by
  unfold execRelockEnd
  repeat' first
    | (with_reducible first
        | exact h | assumption | apply State.bootStep_kept | apply State.commitDone_kept | apply State.pllLocks_kept
        | apply Kept.ite)
    | (fail_if_no_progress with_reducible apply Kept.upd)
    | ((fail_if_success with_reducible refine Kept.upd ?_); with_reducible apply Kept.updMem) | exact Mem.wf_congr rfl rfl
    | intro _ | extract_lets | split | (with_reducible first | apply KeptOut.next | apply KeptOut.ite)

/-! Machine/SysCmds.lean. -/

theorem cmdSysNop_good : cmdSysNop.Good := by
  refine ⟨fun j s t h => ?_, fun j v s t h => ?_⟩ <;> dsimp only [cmdSysNop, CmdDef.plain]
  all_goals repeat' first
    | (with_reducible first | exact h | assumption) | intro _
    | (with_reducible first | apply Act.Keeps.done | apply Act.Keeps.close | apply Act.Keeps.stay | apply Act.keeps_ite)
theorem execSysNop_kept {s t : State} (h : Kept s t) (p : Pkt) :
    KeptOut s (execSysNop p t) := by
  unfold execSysNop
  repeat' first
    | (with_reducible first | exact h | assumption | apply CmdDef.fetch_kept | apply KeptOut.next | apply KeptOut.ite)
    | exact cmdSysNop_good
theorem cmdSysIdentify_good : cmdSysIdentify.Good := by
  refine ⟨fun j s t h => ?_, fun j v s t h => ?_⟩ <;> dsimp only [cmdSysIdentify, CmdDef.plain]
  all_goals repeat' first
    | (with_reducible first | exact h | assumption) | intro _
    | (with_reducible first | apply Act.Keeps.done | apply Act.Keeps.close | apply Act.Keeps.stay | apply Act.keeps_ite)
theorem execSysIdentify_kept {s t : State} (h : Kept s t) (p : Pkt) :
    KeptOut s (execSysIdentify p t) := by
  unfold execSysIdentify
  repeat' first
    | (with_reducible first | exact h | assumption | apply CmdDef.fetch_kept | apply KeptOut.next | apply KeptOut.ite)
    | exact cmdSysIdentify_good
theorem cmdSysInventory_good : cmdSysInventory.Good := by
  refine ⟨fun j s t h => ?_, fun j v s t h => ?_⟩ <;> dsimp only [cmdSysInventory, CmdDef.plain]
  all_goals repeat' first
    | (with_reducible first | exact h | assumption) | intro _
    | (with_reducible first | apply Act.Keeps.done | apply Act.Keeps.close | apply Act.Keeps.stay | apply Act.keeps_ite)
theorem execSysInventory_kept {s t : State} (h : Kept s t) (p : Pkt) :
    KeptOut s (execSysInventory p t) := by
  unfold execSysInventory
  repeat' first
    | (with_reducible first | exact h | assumption | apply CmdDef.fetch_kept | apply KeptOut.next | apply KeptOut.ite)
    | exact cmdSysInventory_good
theorem cmdSysStatus_good : cmdSysStatus.Good := by
  refine ⟨fun j s t h => ?_, fun j v s t h => ?_⟩ <;> dsimp only [cmdSysStatus, CmdDef.plain]
  all_goals repeat' first
    | (with_reducible first | exact h | assumption) | intro _
    | (with_reducible first | apply Act.Keeps.done | apply Act.Keeps.close | apply Act.Keeps.stay | apply Act.keeps_ite)
theorem execSysStatus_kept {s t : State} (h : Kept s t) (p : Pkt) :
    KeptOut s (execSysStatus p t) := by
  unfold execSysStatus
  repeat' first
    | (with_reducible first | exact h | assumption | apply CmdDef.fetch_kept | apply KeptOut.next | apply KeptOut.ite)
    | exact cmdSysStatus_good

/-! Machine/ConfigOps.lean. -/

theorem State.slotWrite_kept {s t : State} (h : Kept s t) (n : Fin 4) (bs : Bytes) :
    Kept s (State.slotWrite t n bs).1 := by
  unfold State.slotWrite
  repeat' first
    | (with_reducible first | exact h | assumption | apply State.areaWrite_kept)
    | (fail_if_no_progress with_reducible apply Kept.upd) | extract_lets | split | dsimp only
theorem State.sealPlain_kept {s t : State} (h : Kept s t) (n : Fin 4) (plain : Bytes) (encrypted : Bool) :
    Kept s (State.sealPlain t n plain encrypted).1 := by
  unfold State.sealPlain
  repeat' first
    | (with_reducible first
        | exact h | assumption | apply State.modSlot_kept | apply State.raise_kept | apply State.releaseSlot_kept)
    | (fail_if_no_progress with_reducible apply Kept.upd) | intro _ | extract_lets | split | dsimp only
theorem State.sealSlot_kept {s t : State} (h : Kept s t) (n : Fin 4) (src : Option Bytes) : Kept s
    (State.sealSlot t n src).1 := by
  unfold State.sealSlot
  extract_lets x unread
  have hr : ∀ u, Kept s u → Kept s (unread u).1 := fun _ hu => State.releaseSlot_kept hu _
  clear_value unread
  split
  · exact hr _ h
  extract_lets bs
  split <;> rename_i e <;> have h1 := Kept.prod1 (State.slotWrite_kept h n bs) e
  · exact hr _ h1
  split
  · exact State.releaseSlot_kept h1 _
  split
  · exact State.sealPlain_kept h1 _ _ _
  split
  · exact State.raise_kept (State.releaseSlot_kept h1 _) _ _ _ _
  · split <;> rename_i e2 <;> have h2 := Kept.prod1 (State.slotWrite_kept (State.modSlot_kept h1 _ _) n _) e2
    · exact hr _ h2
    · exact State.sealPlain_kept h2 _ _ _
theorem State.flashAccess_kept {s t : State} (h : Kept s t) (sfdp : List ReadMode) :
    Kept s (State.flashAccess t sfdp) := by
  unfold State.flashAccess
  repeat' first | (with_reducible first | exact h | assumption) | (fail_if_no_progress with_reducible apply Kept.upd) | split

/-! Machine/ConfigCmds.lean. -/

theorem stageAct_kept {s t : State} (h : Kept s t) (j : Job) :
    (stageAct j t).Keeps s := by
  unfold stageAct
  repeat' first
    | (with_reducible first
        | exact h | assumption | apply State.modSlot_kept | apply State.releaseSlot_kept | apply Kept.ite)
    | (fail_if_no_progress with_reducible apply Kept.upd) | intro _ | extract_lets | split
    | (with_reducible first | apply Act.Keeps.done | apply Act.Keeps.close | apply Act.Keeps.stay | apply Act.keeps_ite)
theorem cmdCfgStage_good : cmdCfgStage.Good := by
  refine ⟨fun j s t h => ?_, fun j v s t h => ?_⟩ <;> dsimp only [cmdCfgStage, CmdDef.plain]
  all_goals repeat' first
    | (with_reducible first
        | exact h | assumption | apply State.noteRefusal_kept | apply State.releaseSlot_kept | apply stageAct_kept
        | apply Kept.ite)
    | (fail_if_no_progress with_reducible apply Kept.upd) | intro _ | extract_lets | split
    | (with_reducible first | apply Act.Keeps.done | apply Act.Keeps.close | apply Act.Keeps.stay | apply Act.keeps_ite)
theorem execCfgStage_kept {s t : State} (h : Kept s t) (p : Pkt) :
    KeptOut s (execCfgStage p t) := by
  unfold execCfgStage
  repeat' first
    | (with_reducible first | exact h | assumption | apply CmdDef.fetch_kept | apply KeptOut.next | apply KeptOut.ite)
    | exact cmdCfgStage_good
theorem State.stageSource_kept {s t : State} (h : Kept s t) (j : Job) (src : Option Bytes) : Kept s
    (State.stageSource t j src).1 := by
  unfold State.stageSource
  extract_lets b len
  split
  · exact h
  split
  · exact h
  next x _ =>
  have hr : Kept s (t.readFor j.p .queen x (fld b 40 0 64) len).1.st := State.readFor_kept h _ _ _ _ _
  generalize t.readFor j.p .queen x (fld b 40 0 64) len = q at hr ⊢
  dsimp only
  split <;> exact hr
theorem loadRefused_kept {s t : State} (h : Kept s t) (j : Job) (v : Verdict) :
    Kept s (loadRefused j v t) := by
  unfold loadRefused
  repeat' first
    | (with_reducible first | exact h | assumption | apply State.noteRefusal_kept | apply State.raise_kept | apply Kept.ite)
    | (fail_if_no_progress with_reducible apply Kept.upd) | extract_lets | split
theorem State.loadBegin_kept {s t : State} (h : Kept s t) (f : StreamFacts) :
    Kept s (State.loadBegin t f) := by
  unfold State.loadBegin
  repeat' first
    | (with_reducible first
        | exact h | assumption | apply State.modFab_kept | apply State.refreshDie_kept
        | refine Kept.forAll _ _ ?_ (fun _ _ _ => ?_) | refine Kept.foldl _ _ ?_ (fun _ _ _ => ?_) | apply Kept.ite)
    | (fail_if_no_progress with_reducible apply Kept.upd) | intro _ | extract_lets | split
theorem loadAct_kept {s t : State} (h : Kept s t) (j : Job) :
    (loadAct j t).Keeps s := by
  unfold loadAct
  repeat' first
    | (with_reducible first | exact h | assumption | apply State.loadBegin_kept)
    | (fail_if_no_progress with_reducible apply Kept.upd) | extract_lets | split
    | (with_reducible first | apply Act.Keeps.done | apply Act.Keeps.close | apply Act.Keeps.stay | apply Act.keeps_ite)
theorem cmdCfgLoad_good : cmdCfgLoad.Good := by
  refine ⟨fun j s t h => ?_, fun j v s t h => ?_⟩ <;> dsimp only [cmdCfgLoad, CmdDef.plain]
  all_goals repeat' first
    | (with_reducible first | exact h | assumption | apply loadAct_kept | apply loadRefused_kept)
    | (fail_if_no_progress with_reducible apply Kept.upd) | intro _
    | (with_reducible first | apply Act.Keeps.done | apply Act.Keeps.close | apply Act.Keeps.stay | apply Act.keeps_ite)
theorem execCfgLoad_kept {s t : State} (h : Kept s t) (p : Pkt) :
    KeptOut s (execCfgLoad p t) := by
  unfold execCfgLoad
  repeat' first
    | (with_reducible first | exact h | assumption | apply CmdDef.fetch_kept | apply KeptOut.next | apply KeptOut.ite)
    | exact cmdCfgLoad_good
theorem cmdCfgRegionLoad_good : cmdCfgRegionLoad.Good := by
  refine ⟨fun j s t h => ?_, fun j v s t h => ?_⟩ <;> dsimp only [cmdCfgRegionLoad, CmdDef.plain]
  all_goals repeat' first
    | (with_reducible first | exact h | assumption | apply loadAct_kept | apply loadRefused_kept)
    | (fail_if_no_progress with_reducible apply Kept.upd) | intro _
    | (with_reducible first | apply Act.Keeps.done | apply Act.Keeps.close | apply Act.Keeps.stay | apply Act.keeps_ite)
theorem execCfgRegionLoad_kept {s t : State} (h : Kept s t) (p : Pkt) :
    KeptOut s (execCfgRegionLoad p t) := by
  unfold execCfgRegionLoad
  repeat' first
    | (with_reducible first | exact h | assumption | apply CmdDef.fetch_kept | apply KeptOut.next | apply KeptOut.ite)
    | exact cmdCfgRegionLoad_good
theorem State.bootSealed_kept {s t : State} (h : Kept s t) (n : Fin 4) (src : Option Bytes) : Kept s
    (State.bootSealed t n src) := by
  unfold State.bootSealed
  split <;> rename_i e <;> have h2 := Kept.prod1 (State.sealSlot_kept h n src) e
  · exact State.bootSafe_kept (State.noteRefusal_kept h2 _ _ _) _ _
  · split
    · exact State.bootSafe_kept (State.releaseSlot_kept (State.noteRefusal_kept h2 _ _ _) _) _ _
    · exact (State.loadBegin_kept h2 _).upd
theorem State.stageSealed_kept {s t : State} (h : Kept s t) (n : Fin 4) (j : Job) (src : Option Bytes) :
    Kept s (State.stageSealed t n j src) := by
  unfold State.stageSealed
  split
  next e =>
  have h1 := Kept.prod1 (State.stageSource_kept h _ _) e
  split <;> rename_i e2 <;> have h2 := Kept.prod1 (State.sealSlot_kept h1 _ _) e2
  · exact State.commitDone_kept h2 _ _
  · extract_lets s3
    have h3 : Kept s s3 := State.noteRefusal_kept h2 _ _ _
    exact .ite (State.commitClose_kept h3 _ _ _ _) (State.refuse_kept h3 _ _)
theorem State.stageAborted_kept {s t : State} (h : Kept s t) (n : Fin 4) (j : Job) (src : Option Bytes) :
    Kept s (State.stageAborted t n j src) := by
  unfold State.stageAborted
  split
  next e =>
  have h1 := Kept.prod1 (State.stageSource_kept h _ _) e
  extract_lets bs bs2
  split <;> rename_i e2
  have h2 := Kept.prod1 (p := if bs2.isEmpty then (_, true) else _) (by split; exacts [h1, State.slotWrite_kept h1 _ _]) e2
  exact State.commitClose_kept (State.releaseSlot_kept h2 _) _ _ _ _
theorem State.tellPoison_kept {s t : State} (h : Kept s t) (x : Slot) : Kept s (State.tellPoison t x) := by
  unfold State.tellPoison
  split
  · exact State.unverifiable_kept h _ _ _ _
  · exact h
theorem execSlotSealed_kept {s t : State} (h : Kept s t) (n : Fin 4) (src : Option Bytes) (sfdp : List ReadMode) :
    KeptOut s (execSlotSealed n src sfdp t) := by
  unfold execSlotSealed
  refine .next ?_
  extract_lets x flash s1 bs
  refine .ite h ?_
  have h1 : Kept s s1 := .ite (State.flashAccess_kept h _) h
  clear_value s1
  split
  · exact State.bootSealed_kept h1 _ _
  · split
    · exact State.releaseSlot_kept h1 _
    · exact .ite (State.stageAborted_kept h1 _ _ _) (State.stageSealed_kept h1 _ _ _)
theorem State.writeFrame_kept {s t : State} (h : Kept s t) (f : Frame) :
    Kept s (State.writeFrame t f) := by
  unfold State.writeFrame
  repeat' first
    | (with_reducible first
        | exact h | assumption | apply State.modFab_kept | apply State.modMem_kept
        | refine Kept.foldl _ _ ?_ (fun _ _ _ => ?_) | apply Kept.ite)
    | (fail_if_no_progress with_reducible apply Kept.upd) | exact Mem.wf_congr rfl rfl
    | (with_reducible first | refine Mem.fold_wf _ _ _ ?_ (fun _ _ _ => ?_) | apply Mem.putWord_wf) | intro _ | extract_lets
    | split
theorem State.loseBlocks_kept {s t : State} (h : Kept s t) (x : Scan) :
    Kept s (State.loseBlocks t x) := by
  unfold State.loseBlocks
  repeat' first
    | (with_reducible first | exact h | assumption | apply State.undefine_kept | refine Kept.foldl _ _ ?_ (fun _ _ _ => ?_))
    | intro _
theorem State.loadFinish_kept {s t : State} (h : Kept s t) (f : StreamFacts) (x : Scan) (release : Bool) :
    Kept s (State.loadFinish t f x release) := by
  unfold State.loadFinish
  repeat' first
    | (with_reducible first
        | exact h | assumption | apply State.modDie_kept | apply State.modFab_kept | apply State.refreshDie_kept
        | apply State.startRegions_kept | apply State.stopRegions_kept | apply State.writeFrame_kept
        | refine Kept.forAll _ _ ?_ (fun _ _ _ => ?_) | refine Kept.foldl _ _ ?_ (fun _ _ _ => ?_) | apply Kept.ite)
    | (fail_if_no_progress with_reducible apply Kept.upd) | intro _ | extract_lets | split
theorem State.loadEvents_kept {s t : State} (h : Kept s t) (f : StreamFacts) (outcome : Nat) :
    Kept s (State.loadEvents t f outcome) := by
  unfold State.loadEvents
  repeat' first
    | (with_reducible first
        | exact h | assumption | apply CmdDef.take_kept | apply State.raiseDie_kept
        | refine Kept.forAll _ _ ?_ (fun _ _ _ => ?_) | apply Kept.ite)
    | intro _ | extract_lets | split
theorem State.failPartial_kept {s t : State} (h : Kept s t) (f : StreamFacts) :
    Kept s (State.failPartial t f) := by
  unfold State.failPartial
  repeat' first
    | (with_reducible first | exact h | assumption | apply State.modFab_kept | refine Kept.foldl _ _ ?_ (fun _ _ _ => ?_))
    | (fail_if_no_progress with_reducible apply Kept.upd) | intro _ | extract_lets | split
theorem State.failFull_kept {s t : State} (h : Kept s t) (f : StreamFacts) (cause : BitVec 16) :
    Kept s (State.failFull t f cause) := by
  unfold State.failFull
  repeat' first
    | (with_reducible first
        | exact h | assumption | apply State.enterSafe_kept | apply State.unconfigure_kept
        | refine Kept.forAll _ _ ?_ (fun _ _ _ => ?_))
    | (fail_if_no_progress with_reducible apply Kept.upd) | intro _ | extract_lets | split
theorem State.golden_kept {s t : State} (h : Kept s t) (n : Fin 4) (r : BootRec) (src : Option Bytes) (old : StreamFacts) :
    Kept s (State.golden t n r src old).1 := by
  unfold State.golden
  extract_lets base c s1
  have h1 : Kept s s1 := State.modSlot_kept (State.releaseSlot_kept h _) _ _
  clear_value s1
  split <;> rename_i e <;> have h2 := Kept.prod1 (State.sealSlot_kept h1 n src) e
  · exact h2
  · extract_lets x s2 s3
    have h3 : Kept s s2 := Kept.forAll _ _ h2 fun _ _ hu => State.unconfigure_kept hu _
    split
    · exact h3
    · exact (State.loadFinish_kept (State.loadBegin_kept h3 _) _ _ _).upd
theorem State.loadCommit_kept {s t : State} (h : Kept s t) (key : Option JobKey) (f : StreamFacts) (outcome : Nat)
    (frames : Nat) :
    Kept s (State.loadCommit t key f outcome frames) := by
  unfold State.loadCommit
  repeat' first
    | (with_reducible first
        | exact h | assumption | apply State.commitClose_kept | apply State.commitDone_kept | apply Kept.ite)
    | (fail_if_no_progress with_reducible apply Kept.upd) | split
theorem execLoadEnd_kept {s t : State} (h : Kept s t) (r : LoadResult) (golden : Option Bytes) (sfdp : List ReadMode) :
    KeptOut s (execLoadEnd r golden sfdp t) := by
  unfold execLoadEnd
  refine .next ?_
  split
  · exact h
  extract_lets c slot f n failure mode c1 s0 s1 stop s2 c2 s3 s4 s5
  refine .ite h ?_
  have h0 : Kept s s0 := h.upd
  have h1 : Kept s s1 := .ite (State.tellPoison_kept h0 _) h0
  clear_value failure s1
  split
  · have h2 : Kept s s2 := State.loadEvents_kept (State.loadFinish_kept h1 _ _ _) _ _
    have h3 : Kept s s3 := h2.upd
    have h4 : Kept s s4 := .ite h2 (.ite (State.bootReady_kept h3) h3)
    exact State.loadCommit_kept h4 _ _ _ _
  · have h2 : Kept s s5 := State.loseBlocks_kept h1 _
    clear_value s5
    have he : ∀ i, Kept s (s5.loadEvents f i) := fun i => State.loadEvents_kept h2 _ _
    have hf : ∀ k, Kept s ((s5.loadEvents f 2).failFull f k) := fun k => State.failFull_kept (he 2) _ _
    refine .ite (State.loadCommit_kept (State.failPartial_kept (he 2) _) _ _ _ _) (.ite
      (State.failFull_kept (State.releaseSlot_kept (he 2) _) _ _) (.ite (State.loadCommit_kept (hf _) _ _ _ _) ?_))
    split
    · exact State.loadCommit_kept (hf _) _ _ _ _
    · refine .ite (State.loadCommit_kept (hf _) _ _ _ _) (.ite (State.loadCommit_kept (hf _) _ _ _ _) ?_)
      extract_lets s3 s4
      have h3 : Kept s s4 := State.flashAccess_kept (State.raise_kept h2 _ _ _ _) _
      clear_value s4
      split <;> rename_i e <;> have h4 := Kept.prod1 (State.golden_kept h3 _ _ _ _) e
      · exact State.loadCommit_kept (State.loadEvents_kept h4 _ _) _ _ _ _
      · exact State.loadCommit_kept (State.failFull_kept (State.loadEvents_kept h4 _ _) _ _) _ _ _ _
theorem regionStartAct_kept {s t : State} (h : Kept s t) (j : Job) :
    (regionStartAct j t).Keeps s := by
  unfold regionStartAct
  repeat' first
    | (with_reducible first | exact h | assumption | apply State.startRegions_kept) | intro _ | extract_lets | split
    | (with_reducible first | apply Act.Keeps.done | apply Act.Keeps.close | apply Act.Keeps.stay | apply Act.keeps_ite)
theorem cmdCfgRegionStart_good : cmdCfgRegionStart.Good := by
  refine ⟨fun j s t h => ?_, fun j v s t h => ?_⟩ <;> dsimp only [cmdCfgRegionStart, CmdDef.plain]
  all_goals repeat' first
    | (with_reducible first | exact h | assumption | apply regionStartAct_kept)
    | (fail_if_no_progress with_reducible apply Kept.upd) | intro _ | extract_lets | split
    | (with_reducible first | apply Act.Keeps.done | apply Act.Keeps.close | apply Act.Keeps.stay | apply Act.keeps_ite)
theorem execCfgRegionStart_kept {s t : State} (h : Kept s t) (p : Pkt) :
    KeptOut s (execCfgRegionStart p t) := by
  unfold execCfgRegionStart
  repeat' first
    | (with_reducible first | exact h | assumption | apply CmdDef.fetch_kept | apply KeptOut.next | apply KeptOut.ite)
    | exact cmdCfgRegionStart_good
theorem cmdCfgRegionStop_good : cmdCfgRegionStop.Good := by
  refine ⟨fun j s t h => ?_, fun j v s t h => ?_⟩ <;> dsimp only [cmdCfgRegionStop, CmdDef.plain]
  all_goals repeat' first
    | (with_reducible first | exact h | assumption | apply State.stopRegions_kept)
    | (fail_if_no_progress with_reducible apply Kept.upd) | intro _ | extract_lets | split
    | (with_reducible first | apply Act.Keeps.done | apply Act.Keeps.close | apply Act.Keeps.stay | apply Act.keeps_ite)
theorem execCfgRegionStop_kept {s t : State} (h : Kept s t) (p : Pkt) :
    KeptOut s (execCfgRegionStop p t) := by
  unfold execCfgRegionStop
  repeat' first
    | (with_reducible first | exact h | assumption | apply CmdDef.fetch_kept | apply KeptOut.next | apply KeptOut.ite)
    | exact cmdCfgRegionStop_good
theorem readbackAct_kept {s t : State} (h : Kept s t) (j : Job) :
    (readbackAct j t).Keeps s := by
  unfold readbackAct
  repeat' first
    | (with_reducible first | exact h | assumption | apply Kept.ite) | (fail_if_no_progress with_reducible apply Kept.upd)
    | extract_lets | split
    | (with_reducible first | apply Act.Keeps.done | apply Act.Keeps.close | apply Act.Keeps.stay | apply Act.keeps_ite)
theorem State.dropReadback_kept {s t : State} (h : Kept s t) (k : JobKey) :
    Kept s (State.dropReadback t k) := by
  unfold State.dropReadback
  repeat' first
    | (with_reducible first | exact h | assumption) | (fail_if_no_progress with_reducible apply Kept.upd) | intro _
theorem Readback.copy_kept {s t : State} (h : Kept s t) (x : Readback) (j : Job) :
    Kept s (Readback.copy x t j) := by
  unfold Readback.copy
  repeat' first
    | (with_reducible first
        | exact h | assumption | apply CmdDef.take_kept | apply State.commitDone_kept | apply State.dropReadback_kept
        | apply State.writeFor_kept | apply Kept.ite)
    | (fail_if_no_progress with_reducible apply Kept.upd) | intro _ | extract_lets | split | dsimp only
theorem State.readbackStep_kept {s t : State} (h : Kept s t)  :
    Kept s (State.readbackStep t) := by
  unfold State.readbackStep
  repeat' first
    | (with_reducible first
        | exact h | assumption | apply State.commitDone_kept | apply Readback.copy_kept | apply State.commitClose_kept
        | apply State.dropReadback_kept
        | apply Kept.ite)
    | (fail_if_no_progress with_reducible apply Kept.upd) | extract_lets | split
theorem cmdCfgReadback_good : cmdCfgReadback.Good := by
  refine ⟨fun j s t h => ?_, fun j v s t h => ?_⟩ <;> dsimp only [cmdCfgReadback, CmdDef.plain]
  all_goals repeat' first
    | (with_reducible first
        | exact h | assumption | apply readbackAct_kept | refine Kept.foldl _ _ ?_ (fun _ _ _ => ?_) | apply Kept.ite)
    | (fail_if_no_progress with_reducible apply Kept.upd) | intro _ | extract_lets | split
    | (with_reducible first | apply Act.Keeps.done | apply Act.Keeps.close | apply Act.Keeps.stay | apply Act.keeps_ite)
theorem execCfgReadback_kept {s t : State} (h : Kept s t) (p : Pkt) :
    KeptOut s (execCfgReadback p t) := by
  unfold execCfgReadback
  repeat' first
    | (with_reducible first | exact h | assumption | apply CmdDef.fetch_kept | apply KeptOut.next | apply KeptOut.ite)
    | exact cmdCfgReadback_good
theorem bootRecordAct_kept {s t : State} (h : Kept s t) (j : Job) :
    (bootRecordAct j t).Keeps s := by
  unfold bootRecordAct
  repeat' first
    | (with_reducible first | exact h | assumption | apply State.nvCommand_kept | apply Kept.ite)
    | (fail_if_no_progress with_reducible apply Kept.upd) | extract_lets | split | dsimp only
    | (with_reducible first | apply Act.Keeps.done | apply Act.Keeps.close | apply Act.Keeps.stay | apply Act.keeps_ite)
theorem cmdCfgBootRecordSet_good : cmdCfgBootRecordSet.Good := by
  refine ⟨fun j s t h => ?_, fun j v s t h => ?_⟩ <;> dsimp only [cmdCfgBootRecordSet, CmdDef.plain]
  all_goals repeat' first
    | (with_reducible first | exact h | assumption | apply bootRecordAct_kept)
    | (fail_if_no_progress with_reducible apply Kept.upd) | intro _
    | (with_reducible first | apply Act.Keeps.done | apply Act.Keeps.close | apply Act.Keeps.stay | apply Act.keeps_ite)
theorem execCfgBootRecordSet_kept {s t : State} (h : Kept s t) (p : Pkt) :
    KeptOut s (execCfgBootRecordSet p t) := by
  unfold execCfgBootRecordSet
  repeat' first
    | (with_reducible first | exact h | assumption | apply CmdDef.fetch_kept | apply KeptOut.next | apply KeptOut.ite)
    | exact cmdCfgBootRecordSet_good

/-! Machine/PlayEvents.lean. -/

theorem State.strobeGroups_kept {s t : State} (h : Kept s t) (x : Start) (q_ : Nat) :
    Kept s (State.strobeGroups t x q_) := by
  unfold State.strobeGroups
  repeat' first
    | (with_reducible first
        | exact h | assumption | apply CmdDef.run_kept | apply State.modGroup_kept
        | refine Kept.foldl _ _ ?_ (fun _ _ _ => ?_) | apply Kept.ite)
    | (fail_if_no_progress with_reducible apply Kept.upd) | intro _ | split
theorem State.startTicks_kept {s t : State} (h : Kept s t) (v0 : Nat) (t0 : Nat) :
    Kept s (State.startTicks t v0 t0) := by
  unfold State.startTicks
  repeat' first
    | (with_reducible first
        | exact h | assumption | apply State.strobeGroups_kept | refine Kept.foldl _ _ ?_ (fun _ _ _ => ?_) | apply Kept.ite)
    | (fail_if_no_progress with_reducible apply Kept.upd) | intro _ | extract_lets | split
theorem execStartStrobe_kept {s t : State} (h : Kept s t) (k : JobKey) :
    KeptOut s (execStartStrobe k t) := by
  unfold execStartStrobe
  repeat' first
    | (with_reducible first | exact h | assumption | apply State.strobeGroups_kept | apply Kept.ite)
    | (fail_if_no_progress with_reducible apply Kept.upd) | intro _ | extract_lets | split
    | (with_reducible first | apply KeptOut.next | apply KeptOut.ite)
theorem State.startGroup_kept {s t : State} (h : Kept s t) (g : Fin 16) (t0 : Int) :
    Kept s (State.startGroup t g t0) := by
  unfold State.startGroup
  repeat' first
    | (with_reducible first
        | exact h | assumption | apply CmdDef.run_kept | apply State.beginPlay_kept | apply State.beginUnderrun_kept
        | apply State.modGroup_kept | apply State.modWorker_kept | apply Kept.ite)
    | (fail_if_no_progress with_reducible apply Kept.upd) | intro _ | extract_lets | split
theorem execGroupStart_kept {s t : State} (h : Kept s t) (g : Fin 16) :
    KeptOut s (execGroupStart g t) := by
  unfold execGroupStart
  repeat' first
    | (with_reducible first
        | exact h | assumption | apply CmdDef.run_kept | apply State.modGroup_kept | apply State.startGroup_kept
        | apply Kept.ite)
    | (fail_if_no_progress with_reducible apply Kept.upd) | intro _ | extract_lets | split
    | (with_reducible first | apply KeptOut.next | apply KeptOut.ite)
theorem execPlay_kept {s t : State} (h : Kept s t) (g : Fin 16) :
    KeptOut s (execPlay g t) := by
  unfold execPlay
  repeat' first
    | (with_reducible first | exact h | assumption | apply CmdDef.run_kept | apply State.beginPlay_kept | apply Kept.ite)
    | (fail_if_no_progress with_reducible apply Kept.upd) | extract_lets | split
    | (with_reducible first | apply KeptOut.next | apply KeptOut.ite)
theorem execUnderrun_kept {s t : State} (h : Kept s t) (g : Fin 16) :
    KeptOut s (execUnderrun g t) := by
  unfold execUnderrun
  repeat' first
    | (with_reducible first
        | exact h | assumption | apply CmdDef.run_kept | apply State.beginUnderrun_kept | apply State.modGroup_kept
        | apply Kept.ite)
    | intro _ | extract_lets | split | (with_reducible first | apply KeptOut.next | apply KeptOut.ite)
theorem execTransition_kept {s t : State} (h : Kept s t) (g : Fin 16) (p : Fin 8) (txe : Bool) :
    KeptOut s (execTransition g p txe t) := by
  unfold execTransition
  repeat' first
    | (with_reducible first
        | exact h | assumption | apply State.driveOut_kept | apply CmdDef.run_kept | apply State.drive_kept
        | apply State.modGroup_kept | apply Kept.ite)
    | (fail_if_no_progress with_reducible apply Kept.upd) | intro _ | extract_lets | split
    | (with_reducible first | apply KeptOut.next | apply KeptOut.ite)
theorem execTapNext_kept {s t : State} (h : Kept s t) (g : Fin 16) :
    KeptOut s (execTapNext g t) := by
  unfold execTapNext
  repeat' first
    | (with_reducible first
        | exact h | assumption | apply CmdDef.run_kept | apply State.modGroup_kept | apply State.setEdge_kept
        | refine Kept.foldl _ _ ?_ (fun _ _ _ => ?_) | apply Kept.ite)
    | (fail_if_no_progress with_reducible apply Kept.upd) | intro _ | extract_lets | split | dsimp only
    | (with_reducible first | apply KeptOut.next | apply KeptOut.ite)
theorem execTapSample_kept {s t : State} (h : Kept s t) (g : Fin 16) :
    KeptOut s (execTapSample g t) := by
  unfold execTapSample
  repeat' first
    | (with_reducible first | exact h | assumption | apply CmdDef.run_kept | apply State.modGroup_kept | apply Kept.ite)
    | (fail_if_no_progress with_reducible apply Kept.upd) | intro _ | extract_lets | split | dsimp only
    | (with_reducible first | apply KeptOut.next | apply KeptOut.ite)
theorem execStrobe_kept {s t : State} (h : Kept s t) (g : Fin 16) (p : Fin 8) (rx : Bool) (rxl : Bool) :
    KeptOut s (execStrobe g p rx rxl t) := by
  unfold execStrobe
  extract_lets x n
  refine .next ?_
  split
  · exact h
  refine .ite h ?_
  extract_lets
  split
  next f s' e =>
  have h' : Kept s s' := Kept.prod2 (State.drawFree_kept h) e
  split
  next e2 =>
  refine State.modGroup_kept ?_ _ _
  split at e2 <;> cases e2
  · exact h
  · exact h'
theorem execFailBit_kept {s t : State} (h : Kept s t) (g : Fin 16) (p : Fin 8) :
    KeptOut s (execFailBit g p t) := by
  unfold execFailBit
  repeat' first
    | (with_reducible first
        | exact h | assumption | apply CmdDef.run_kept | apply State.closeCycles_kept | apply State.modGroup_kept
        | apply Kept.ite)
    | (fail_if_no_progress with_reducible apply Kept.upd) | intro _ | extract_lets | split
    | (with_reducible first | apply KeptOut.next | apply KeptOut.ite)
theorem execMatchDecision_kept {s t : State} (h : Kept s t) (g : Fin 16) :
    KeptOut s (execMatchDecision g t) := by
  unfold execMatchDecision
  repeat' first
    | (with_reducible first | exact h | assumption | apply CmdDef.run_kept | apply State.modGroup_kept | apply Kept.ite)
    | (fail_if_no_progress with_reducible apply Kept.upd) | intro _ | extract_lets | split
    | (with_reducible first | apply KeptOut.next | apply KeptOut.ite)
theorem execMatchResolved_kept {s t : State} (h : Kept s t) (g : Fin 16) :
    KeptOut s (execMatchResolved g t) := by
  unfold execMatchResolved
  repeat' first
    | (with_reducible first
        | exact h | assumption | apply CmdDef.run_kept | apply State.modGroup_kept | apply State.modWorker_kept
        | apply State.pendLine_kept | apply State.raiseDie_kept | apply Kept.ite)
    | (fail_if_no_progress with_reducible apply Kept.upd) | intro _ | extract_lets | split
    | (with_reducible first | apply KeptOut.next | apply KeptOut.ite)
theorem execMarkerRecord_kept {s t : State} (h : Kept s t) (g : Fin 16) :
    KeptOut s (execMarkerRecord g t) := by
  unfold execMarkerRecord
  repeat' first
    | (with_reducible first
        | exact h | assumption | apply CmdDef.run_kept | apply State.modGroup_kept | apply State.pendLine_kept
        | apply Kept.ite)
    | (fail_if_no_progress with_reducible apply Kept.upd) | intro _ | split
    | (with_reducible first | apply KeptOut.next | apply KeptOut.ite)
theorem State.finishRun_kept {s t : State} (h : Kept s t) (g : Fin 16) :
    Kept s (State.finishRun t g) := by
  unfold State.finishRun
  repeat' first
    | (with_reducible first
        | exact h | assumption | apply CmdDef.run_kept | apply State.endWorker_kept | apply State.modGroup_kept
        | apply State.modWorker_kept | apply Kept.ite)
    | (fail_if_no_progress with_reducible apply Kept.upd) | intro _ | extract_lets | split
theorem execRunDone_kept {s t : State} (h : Kept s t) (g : Fin 16) :
    KeptOut s (execRunDone g t) := by
  unfold execRunDone
  repeat' first
    | (with_reducible first
        | exact h | assumption | apply CmdDef.run_kept | apply State.finishRun_kept | apply State.modGroup_kept
        | apply State.stopSettled_kept | apply Kept.ite)
    | (fail_if_no_progress with_reducible apply Kept.upd) | intro _ | extract_lets | split
    | (with_reducible first | apply KeptOut.next | apply KeptOut.ite)

/-! Machine/DbgCmds.lean. -/

theorem challengeAct_kept {s t : State} (h : Kept s t) (scope : Nat) : (challengeAct scope t).Keeps s :=
  .done h.upd _
theorem verifyAct_kept {s t : State} (h : Kept s t) (scope : Nat) (data : Bytes) :
    (verifyAct scope data t).Keeps s := by
  unfold verifyAct
  repeat' first
    | (with_reducible first | exact h | assumption | apply State.alarm_kept | apply Kept.ite)
    | (fail_if_no_progress with_reducible apply Kept.upd) | intro _ | extract_lets | split
    | (with_reducible first | apply Act.Keeps.done | apply Act.Keeps.close | apply Act.Keeps.stay | apply Act.keeps_ite)
theorem lockAct_kept {s t : State} (h : Kept s t) (scope : Nat) :
    (lockAct scope t).Keeps s := by
  unfold lockAct
  repeat' first
    | (with_reducible first | exact h | assumption) | (fail_if_no_progress with_reducible apply Kept.upd)
    | (with_reducible first | apply Act.Keeps.done | apply Act.Keeps.close | apply Act.Keeps.stay | apply Act.keeps_ite)
theorem cmdDbgUnlock_good : cmdDbgUnlock.Good := by
  refine ⟨fun j s t h => ?_, fun j v s t h => ?_⟩ <;> dsimp only [cmdDbgUnlock, CmdDef.plain]
  all_goals repeat' first
    | (with_reducible first
        | exact h | assumption | apply CmdDef.take_kept | apply challengeAct_kept | apply lockAct_kept | apply verifyAct_kept)
    | (fail_if_no_progress with_reducible apply Kept.upd) | intro _ | extract_lets | split
    | (with_reducible first | apply Act.Keeps.done | apply Act.Keeps.close | apply Act.Keeps.stay | apply Act.keeps_ite)
theorem execDbgUnlock_kept {s t : State} (h : Kept s t) (p : Pkt) :
    KeptOut s (execDbgUnlock p t) := by
  unfold execDbgUnlock
  repeat' first
    | (with_reducible first | exact h | assumption | apply CmdDef.fetch_kept | apply KeptOut.next | apply KeptOut.ite)
    | exact cmdDbgUnlock_good
theorem dbgHaltAct_kept {s t : State} (h : Kept s t) (j : Job) :
    (dbgHaltAct j t).Keeps s := by
  unfold dbgHaltAct
  repeat' first
    | (with_reducible first
        | exact h | assumption | apply State.fireGroups_kept | apply State.raise_kept | apply State.requestHalt_kept
        | refine Kept.forAll _ _ ?_ (fun _ _ _ => ?_) | apply Kept.ite)
    | (fail_if_no_progress with_reducible apply Kept.upd) | intro _ | extract_lets | split
    | (with_reducible first | apply Act.Keeps.done | apply Act.Keeps.close | apply Act.Keeps.stay | apply Act.keeps_ite)
theorem cmdDbgHalt_good : cmdDbgHalt.Good := by
  refine ⟨fun j s t h => ?_, fun j v s t h => ?_⟩ <;> dsimp only [cmdDbgHalt, CmdDef.plain]
  all_goals repeat' first
    | (with_reducible first | exact h | assumption | apply dbgHaltAct_kept | apply Kept.ite)
    | (fail_if_no_progress with_reducible apply Kept.upd) | intro _ | extract_lets | split
    | (with_reducible first | apply Act.Keeps.done | apply Act.Keeps.close | apply Act.Keeps.stay | apply Act.keeps_ite)
theorem execDbgHalt_kept {s t : State} (h : Kept s t) (p : Pkt) :
    KeptOut s (execDbgHalt p t) := by
  unfold execDbgHalt
  repeat' first
    | (with_reducible first | exact h | assumption | apply CmdDef.fetch_kept | apply KeptOut.next | apply KeptOut.ite)
    | exact cmdDbgHalt_good
theorem State.resumeWorker_kept {s t : State} (h : Kept s t) (w : Fin 32) :
    Kept s (State.resumeWorker t w) := by
  unfold State.resumeWorker
  repeat' first
    | (with_reducible first
        | exact h | assumption | apply CmdDef.run_kept | apply State.modGroup_kept | apply State.modWorker_kept
        | apply State.startGroup_kept | apply Kept.ite)
    | (fail_if_no_progress with_reducible apply Kept.upd) | intro _ | extract_lets | split
theorem cmdDbgResume_good : cmdDbgResume.Good := by
  refine ⟨fun j s t h => ?_, fun j v s t h => ?_⟩ <;> dsimp only [cmdDbgResume, CmdDef.plain]
  all_goals repeat' first
    | (with_reducible first
        | exact h | assumption | apply State.resumeWorker_kept | refine Kept.forAll _ _ ?_ (fun _ _ _ => ?_))
    | (fail_if_no_progress with_reducible apply Kept.upd) | intro _ | extract_lets | split
    | (with_reducible first | apply Act.Keeps.done | apply Act.Keeps.close | apply Act.Keeps.stay | apply Act.keeps_ite)
theorem execDbgResume_kept {s t : State} (h : Kept s t) (p : Pkt) :
    KeptOut s (execDbgResume p t) := by
  unfold execDbgResume
  repeat' first
    | (with_reducible first | exact h | assumption | apply CmdDef.fetch_kept | apply KeptOut.next | apply KeptOut.ite)
    | exact cmdDbgResume_good
theorem dbgStepAct_kept {s t : State} (h : Kept s t) (j : Job) :
    (dbgStepAct j t).Keeps s := by
  unfold dbgStepAct
  repeat' first
    | (with_reducible first | exact h | assumption | apply State.modWorker_kept | apply State.resumeWorker_kept)
    | (fail_if_no_progress with_reducible apply Kept.upd) | intro _ | extract_lets | split
    | (with_reducible first | apply Act.Keeps.done | apply Act.Keeps.close | apply Act.Keeps.stay | apply Act.keeps_ite)
theorem cmdDbgStep_good : cmdDbgStep.Good := by
  refine ⟨fun j s t h => ?_, fun j v s t h => ?_⟩ <;> dsimp only [cmdDbgStep, CmdDef.plain]
  all_goals repeat' first
    | (with_reducible first | exact h | assumption | apply dbgStepAct_kept)
    | (fail_if_no_progress with_reducible apply Kept.upd) | intro _ | extract_lets | split
    | (with_reducible first | apply Act.Keeps.done | apply Act.Keeps.close | apply Act.Keeps.stay | apply Act.keeps_ite)
theorem execDbgStep_kept {s t : State} (h : Kept s t) (p : Pkt) :
    KeptOut s (execDbgStep p t) := by
  unfold execDbgStep
  repeat' first
    | (with_reducible first | exact h | assumption | apply CmdDef.fetch_kept | apply KeptOut.next | apply KeptOut.ite)
    | exact cmdDbgStep_good
theorem State.dbgReg_kept {s t : State} (h : Kept s t) (w : Fin 32) (n : Nat) (consume : Bool) :
    Kept s (State.dbgReg t w n consume).2 := by
  unfold State.dbgReg
  repeat' first
    | (with_reducible first | exact h | assumption | apply State.consume_kept | apply State.modWorker_kept | apply Kept.ite)
    | (fail_if_no_progress with_reducible apply Kept.upd) | intro _ | extract_lets | split | dsimp only
theorem State.dbgRegs_kept {s t : State} (h : Kept s t) (w : Fin 32) (consume : Bool) (n k : Nat) :
    Kept s (State.dbgRegs t w consume n k).2 := by
  induction k generalizing t n with
  | zero => exact h
  | succ k ih => exact ih (State.dbgReg_kept h _ _ _) _
theorem State.listedWords_kept {s t : State} (h : Kept s t) (l : List (Nat × Word)) (step a k : Nat) :
    Kept s (State.listedWords t l step a k).2 := by
  induction k generalizing t a with
  | zero => exact h
  | succ k ih =>
    refine ih ?_ _
    split
    · exact h
    · exact State.drawFree_kept h
theorem Served.debugWords_kept {s : State} {r : Served} (h : Kept s r.st) (a len : Nat) : Kept s
    (Served.debugWords r a len).2 := by
  unfold Served.debugWords
  split
  · exact h
  · exact State.drawFree_kept h
theorem State.dbgArea_kept {s t : State} (h : Kept s t) (p : Pkt) (x : Area) (a : Nat) (len : Nat) :
    Kept s (State.dbgArea t p x a len).1.st := by
  unfold State.dbgArea
  repeat' first
    | (with_reducible first | exact h | assumption | apply State.readFor_kept | apply Kept.ite) | split | dsimp only
theorem State.dbgDevice_kept {s t : State} (h : Kept s t) (p : Pkt) (a : Nat) (len : Nat) : Kept s
    (State.dbgDevice t p a len).2 := by
  unfold State.dbgDevice
  split
  · exact State.listedWords_kept h _ _ _ _
  · split
    · exact h
    · exact Served.debugWords_kept (State.dbgArea_kept h _ _ _ _) _ _
theorem cmdDbgRead_good : cmdDbgRead.Good := by
  refine ⟨fun j s t h => .done ?_ _, fun _ _ _ _ h => h⟩
  split
  · exact State.dbgDevice_kept h _ _ _
  · exact State.dbgRegs_kept h _ _ _ _
  · exact State.listedWords_kept h _ _ _ _
theorem execDbgRead_kept {s t : State} (h : Kept s t) (p : Pkt) :
    KeptOut s (execDbgRead p t) := by
  unfold execDbgRead
  repeat' first
    | (with_reducible first
        | exact h | assumption | apply CmdDef.fetch_kept | apply cmdDbgRead_kept | apply KeptOut.next | apply KeptOut.ite)
    | exact cmdDbgRead_good
theorem State.dbgPut_kept {s t : State} (h : Kept s t) (p : Pkt) (a : Nat) (ws : Words) : Kept s
    (State.dbgPut t p a ws).2 := by
  unfold State.dbgPut
  split
  · exact h.upd
  split
  · exact h
  refine Served.debugWords_kept ?_ _ _
  split
  · exact h
  · exact State.writeFor_kept h _ _ _ _ _
theorem cmdDbgWrite_good : cmdDbgWrite.Good := by
  refine ⟨fun j s t h => .done ?_ _, fun _ _ _ _ h => h⟩
  split
  · exact State.dbgPut_kept h _ _ _
  · exact State.modWorker_kept h _ _
  · exact h.upd
theorem execDbgWrite_kept {s t : State} (h : Kept s t) (p : Pkt) :
    KeptOut s (execDbgWrite p t) := by
  unfold execDbgWrite
  repeat' first
    | (with_reducible first
        | exact h | assumption | apply CmdDef.fetch_kept | apply cmdDbgWrite_kept | apply KeptOut.next | apply KeptOut.ite)
    | exact cmdDbgWrite_good
theorem cmdDbgBreakSet_good : cmdDbgBreakSet.Good := by
  refine ⟨fun j s t h => ?_, fun j v s t h => ?_⟩ <;> dsimp only [cmdDbgBreakSet, CmdDef.plain]
  all_goals repeat' first
    | (with_reducible first | exact h | assumption | apply State.modWorker_kept)
    | (fail_if_no_progress with_reducible apply Kept.upd) | intro _ | extract_lets | split
    | (with_reducible first | apply Act.Keeps.done | apply Act.Keeps.close | apply Act.Keeps.stay | apply Act.keeps_ite)
theorem execDbgBreakSet_kept {s t : State} (h : Kept s t) (p : Pkt) :
    KeptOut s (execDbgBreakSet p t) := by
  unfold execDbgBreakSet
  repeat' first
    | (with_reducible first | exact h | assumption | apply CmdDef.fetch_kept | apply KeptOut.next | apply KeptOut.ite)
    | exact cmdDbgBreakSet_good
theorem cmdDbgXtrigSet_good : cmdDbgXtrigSet.Good := by
  refine ⟨fun j s t h => ?_, fun j v s t h => ?_⟩ <;> dsimp only [cmdDbgXtrigSet, CmdDef.plain]
  all_goals repeat' first
    | (with_reducible first | exact h | assumption) | (fail_if_no_progress with_reducible apply Kept.upd) | intro _
    | extract_lets | split
    | (with_reducible first | apply Act.Keeps.done | apply Act.Keeps.close | apply Act.Keeps.stay | apply Act.keeps_ite)
theorem execDbgXtrigSet_kept {s t : State} (h : Kept s t) (p : Pkt) :
    KeptOut s (execDbgXtrigSet p t) := by
  unfold execDbgXtrigSet
  repeat' first
    | (with_reducible first | exact h | assumption | apply CmdDef.fetch_kept | apply KeptOut.next | apply KeptOut.ite)
    | exact cmdDbgXtrigSet_good

/-! Machine/EvtCmds.lean. -/

theorem State.setMasks_kept {s t : State} (h : Kept s t) (m : Nat) :
    Kept s (State.setMasks t m) := by
  unfold State.setMasks
  repeat' first
    | (with_reducible first | exact h | assumption) | (fail_if_no_progress with_reducible apply Kept.upd) | intro _
theorem cmdEvtMaskSet_good : cmdEvtMaskSet.Good := by
  refine ⟨fun j s t h => ?_, fun j v s t h => ?_⟩ <;> dsimp only [cmdEvtMaskSet, CmdDef.plain]
  all_goals repeat' first
    | (with_reducible first | exact h | assumption | apply State.setMasks_kept) | intro _
    | (with_reducible first | apply Act.Keeps.done | apply Act.Keeps.close | apply Act.Keeps.stay | apply Act.keeps_ite)
theorem execEvtMaskSet_kept {s t : State} (h : Kept s t) (p : Pkt) :
    KeptOut s (execEvtMaskSet p t) := by
  unfold execEvtMaskSet
  repeat' first
    | (with_reducible first | exact h | assumption | apply CmdDef.fetch_kept | apply KeptOut.next | apply KeptOut.ite)
    | exact cmdEvtMaskSet_good
theorem State.setRoutes_kept {s t : State} (h : Kept s t) (first : Nat) (n : Nat) (route : Nat → Nat) :
    Kept s (State.setRoutes t first n route) := by
  unfold State.setRoutes
  repeat' first
    | (with_reducible first | exact h | assumption | apply Kept.ite) | (fail_if_no_progress with_reducible apply Kept.upd)
    | intro _ | split
theorem cmdEvtRouteSet_good : cmdEvtRouteSet.Good := by
  refine ⟨fun j s t h => ?_, fun j v s t h => ?_⟩ <;> dsimp only [cmdEvtRouteSet, CmdDef.plain]
  all_goals repeat' first
    | (with_reducible first | exact h | assumption | apply State.setRoutes_kept)
    | (fail_if_no_progress with_reducible apply Kept.upd) | intro _
    | (with_reducible first | apply Act.Keeps.done | apply Act.Keeps.close | apply Act.Keeps.stay | apply Act.keeps_ite)
theorem execEvtRouteSet_kept {s t : State} (h : Kept s t) (p : Pkt) :
    KeptOut s (execEvtRouteSet p t) := by
  unfold execEvtRouteSet
  repeat' first
    | (with_reducible first | exact h | assumption | apply CmdDef.fetch_kept | apply KeptOut.next | apply KeptOut.ite)
    | exact cmdEvtRouteSet_good
theorem cmdEvtStatus_good : cmdEvtStatus.Good := by
  refine ⟨fun j s t h => ?_, fun j v s t h => ?_⟩ <;> dsimp only [cmdEvtStatus, CmdDef.plain]
  all_goals repeat' first
    | (with_reducible first | exact h | assumption | apply Kept.ite) | (fail_if_no_progress with_reducible apply Kept.upd)
    | intro _ | split
    | (with_reducible first | apply Act.Keeps.done | apply Act.Keeps.close | apply Act.Keeps.stay | apply Act.keeps_ite)
theorem execEvtStatus_kept {s t : State} (h : Kept s t) (p : Pkt) :
    KeptOut s (execEvtStatus p t) := by
  unfold execEvtStatus
  repeat' first
    | (with_reducible first | exact h | assumption | apply CmdDef.fetch_kept | apply KeptOut.next | apply KeptOut.ite)
    | exact cmdEvtStatus_good
theorem State.ackEvents_kept {s t : State} (h : Kept s t) (m : Nat) :
    Kept s (State.ackEvents t m) := by
  unfold State.ackEvents
  repeat' first
    | (with_reducible first | exact h | assumption | apply Kept.ite) | (fail_if_no_progress with_reducible apply Kept.upd)
    | intro _ | split
theorem cmdEvtAck_good : cmdEvtAck.Good := by
  refine ⟨fun j s t h => ?_, fun j v s t h => ?_⟩ <;> dsimp only [cmdEvtAck, CmdDef.plain]
  all_goals repeat' first
    | (with_reducible first | exact h | assumption | apply State.ackEvents_kept) | intro _
    | (with_reducible first | apply Act.Keeps.done | apply Act.Keeps.close | apply Act.Keeps.stay | apply Act.keeps_ite)
theorem execEvtAck_kept {s t : State} (h : Kept s t) (p : Pkt) :
    KeptOut s (execEvtAck p t) := by
  unfold execEvtAck
  repeat' first
    | (with_reducible first | exact h | assumption | apply CmdDef.fetch_kept | apply KeptOut.next | apply KeptOut.ite)
    | exact cmdEvtAck_good
theorem execEventWrite_kept {s t : State} (h : Kept s t) : KeptOut s (execEventWrite t) := by
  unfold execEventWrite
  split
  · exact .next h
  refine .ite' (fun _ => .next h) fun c => ?_
  extract_lets tail c1 c2 s1 s2 x
  have hr : 0 < t.hif.evtFree := by
    have := c; simp at this; omega
  have h1 : Kept s s1 := Kept.updHif (hif := { t.hif with evtTail := tail + 1 }) h fun l => ⟨l.sub, l.rep, l.evt.room (by
    have hu := (t.hif.evtTail - t.hif.evtBell).isLt
    unfold Hif.evtFree at hr
    show (t.hif.evtTail + 1 - t.hif.evtBell).toNat ≤ _
    rw [show t.hif.evtTail + 1 - t.hif.evtBell = (t.hif.evtTail - t.hif.evtBell) + 1 by bv_omega, BitVec.toNat_add]
    exact Nat.le_trans (Nat.mod_le _ _) (by rw [show (1 : BitVec 32).toNat = 1 from rfl]; omega))⟩
  have h2 : Kept s s2 := State.emit_kept h1 _
  exact .next (.ite (State.signal_kept h2 _) h2)
theorem execIrqHoldoffExpiry_kept {s t : State} (h : Kept s t) (v : Fin 64) :
    KeptOut s (execIrqHoldoffExpiry v t) := by
  unfold execIrqHoldoffExpiry
  repeat' first
    | (with_reducible first | exact h | assumption | apply State.signal_kept | apply Kept.ite)
    | (fail_if_no_progress with_reducible apply Kept.upd)
    | ((fail_if_success with_reducible refine Kept.upd ?_); with_reducible apply Kept.updHif)
    | exact fun l => ⟨l.sub, l.rep, l.evt⟩ | extract_lets | split
    | (with_reducible first | apply KeptOut.next | apply KeptOut.ite)

/-! Machine/Hif.lean. -/

theorem State.hifErrSet_kept {s t : State} (h : Kept s t) (i : Nat) :
    Kept s (State.hifErrSet t i) := by
  unfold State.hifErrSet
  repeat' first
    | (with_reducible first | exact h | assumption) | (fail_if_no_progress with_reducible apply Kept.upd)
    | ((fail_if_success with_reducible refine Kept.upd ?_); with_reducible apply Kept.updHif)
    | exact fun l => ⟨l.sub, l.rep, l.evt⟩
theorem execSubResync_kept {s t : State} (h : Kept s t) (p : Pkt) :
    KeptOut s (execSubResync p t) := by
  unfold execSubResync
  repeat' first
    | (with_reducible first | exact h | assumption | apply State.resync_kept | apply Kept.ite) | split
    | (with_reducible first | apply KeptOut.next | apply KeptOut.ite)
theorem execHifDoorbellSub_kept {s t : State} (h : Kept s t) (v : Word) : KeptOut s (execHifDoorbellSub v t) := by
  unfold execHifDoorbellSub
  extract_lets c1 s1
  have h1 : Kept s s1 := Kept.updHif (hif := { t.hif with subResync := false }) h fun l => ⟨l.sub, l.rep, l.evt⟩
  refine .next (State.overPcie_kept h (.ite' (fun _ => State.hifErrSet_kept h1 _) fun c => ?_))
  exact Kept.updHif (hif := { s1.hif with subBell := v }) h1 fun l => ⟨l.sub.room (Nat.le_of_not_lt c), l.rep, l.evt⟩
theorem execHifDoorbellRep_kept {s t : State} (h : Kept s t) (v : Word) : KeptOut s (execHifDoorbellRep v t) := by
  refine .next (State.overPcie_kept h (.ite' (fun _ => State.hifErrSet_kept h _) fun c => ?_))
  exact Kept.updHif (hif := { t.hif with repBell := v }) h fun l => ⟨l.sub, l.rep.room (Nat.le_of_not_lt c), l.evt⟩
theorem execHifDoorbellEvt_kept {s t : State} (h : Kept s t) (v : Word) : KeptOut s (execHifDoorbellEvt v t) := by
  refine .next (State.overPcie_kept h (.ite' (fun _ => State.hifErrSet_kept h _) fun c => ?_))
  exact Kept.updHif (hif := { t.hif with evtBell := v }) h fun l => ⟨l.sub, l.rep, l.evt.room (Nat.le_of_not_lt c)⟩
theorem execSubEn_kept {s t : State} (h : Kept s t) (on : Bool) : KeptOut s (execSubEn on t) :=
  .next (State.overPcie_kept h (.ite (Kept.updHif (hif := { t.hif with subEn := false }) h fun l => ⟨l.sub.off, l.rep, l.evt⟩)
    (.ite h (.ite h (Kept.updHif (hif := { t.hif with subEn := true, subHold := false, subHead := 0, subBell := 0 }) h
      fun l => ⟨l.sub.empty, l.rep, l.evt⟩)))))
theorem execRepEn_kept {s t : State} (h : Kept s t) (on : Bool) : KeptOut s (execRepEn on t) :=
  .next (State.overPcie_kept h (.ite (Kept.updHif (hif := { t.hif with repEn := false }) h fun l => ⟨l.sub, l.rep.off, l.evt⟩) (.ite h
    (Kept.updHif (hif := { t.hif with repEn := true, repTail := 0, repBell := 0 }) h fun l => ⟨l.sub, l.rep.empty, l.evt⟩))))
theorem execEvtEn_kept {s t : State} (h : Kept s t) (on : Bool) : KeptOut s (execEvtEn on t) :=
  .next (State.overPcie_kept h (.ite (Kept.updHif (hif := { t.hif with evtEn := false }) h fun l => ⟨l.sub, l.rep, l.evt.off⟩) (.ite h
    (Kept.updHif (hif := { t.hif with evtEn := true, evtTail := 0, evtBell := 0 }) h fun l => ⟨l.sub, l.rep, l.evt.empty⟩))))
theorem execHifErr_kept {s t : State} (h : Kept s t) (v : Word) : KeptOut s (execHifErr v t) :=
  .next (State.overPcie_kept h (Kept.updHif (hif := { t.hif with err := t.hif.err &&& ~~~v }) h fun l => ⟨l.sub, l.rep, l.evt⟩))
theorem State.ringWrite_kept {s t : State} (h : Kept s t) (enabled : Bool) (f : Hif → Hif)
    (hf : enabled = false → t.hif.Legal → (f t.hif).Legal) : Kept s (State.ringWrite t enabled f) := by
  unfold State.ringWrite
  split
  · exact State.hifErrSet_kept h _
  · exact h.updHif (hf (by simp_all))
theorem State.barWrite_kept {s t : State} (h : Kept s t) (off : Nat) (v : Word) : Kept s (State.barWrite t off v) := by
  have hb : ∀ b hi en used, RingLegal b hi en used → en = false → ∀ v' hh, RingLegal b (baseWord hi hh v') en used := fun _ _ _ _ l e _ _ =>
    ⟨l.inSize, baseWord_onPage _ _ _ l.onPage, fun c => nomatch e.symm.trans c⟩
  have hs : ∀ b hi en used, RingLegal b hi en used → en = false → ∀ v', RingLegal (sizeApplied v') hi en used := fun _ _ _ _ l e _ =>
    ⟨sizeApplied_inSize _, l.onPage, fun c => nomatch e.symm.trans c⟩
  unfold State.barWrite
  exact .ite (State.ringWrite_kept h _ _ fun e l => ⟨hb _ _ _ _ l.sub e v false, l.rep, l.evt⟩)
    (.ite (State.ringWrite_kept h _ _ fun e l => ⟨hb _ _ _ _ l.sub e v true, l.rep, l.evt⟩)
    (.ite (State.ringWrite_kept h _ _ fun e l => ⟨hs _ _ _ _ l.sub e v, l.rep, l.evt⟩)
    (.ite (State.ringWrite_kept h _ _ fun e l => ⟨l.sub, hb _ _ _ _ l.rep e v false, l.evt⟩)
    (.ite (State.ringWrite_kept h _ _ fun e l => ⟨l.sub, hb _ _ _ _ l.rep e v true, l.evt⟩)
    (.ite (State.ringWrite_kept h _ _ fun e l => ⟨l.sub, hs _ _ _ _ l.rep e v, l.evt⟩)
    (.ite (State.ringWrite_kept h _ _ fun e l => ⟨l.sub, l.rep, hb _ _ _ _ l.evt e v false⟩)
    (.ite (State.ringWrite_kept h _ _ fun e l => ⟨l.sub, l.rep, hb _ _ _ _ l.evt e v true⟩)
    (.ite (State.ringWrite_kept h _ _ fun e l => ⟨l.sub, l.rep, hs _ _ _ _ l.evt e v⟩)
    (.ite (Kept.updHif (hif := { t.hif with irqHoldoff := v.setWidth 16 }) h fun l => ⟨l.sub, l.rep, l.evt⟩)
    (.ite (Kept.updHif (hif := { t.hif with msixTable := upd t.hif.msixTable (Fin.ofNat 256 ((off - 0x1000) / 4)) fun _ => v }) h
      fun l => ⟨l.sub, l.rep, l.evt⟩) h))))))))))
theorem State.clearStatus_kept {s t : State} (h : Kept s t) (r : StatusReg) (v : Word) :
    Kept s (State.clearStatus t r v) := by
  unfold State.clearStatus
  repeat' first
    | (with_reducible first
        | exact h | assumption | apply State.modGroup_kept | apply State.modPort_kept | apply State.modTb_kept)
    | (fail_if_no_progress with_reducible apply Kept.upd) | intro _ | extract_lets | split

/-! Machine/Jtag.lean. -/

theorem State.loadIr_kept {s t : State} (h : Kept s t) (code : BitVec 8) :
    Kept s (State.loadIr t code) := by
  unfold State.loadIr
  repeat' first
    | (with_reducible first | exact h | assumption | apply State.emit_kept | apply Kept.ite)
    | (fail_if_no_progress with_reducible apply Kept.upd) | extract_lets | split
theorem execIdcode_kept {s t : State} (h : Kept s t)  :
    KeptOut s (execIdcode t) := by
  unfold execIdcode
  repeat' first
    | (with_reducible first | exact h | assumption | apply State.emit_kept | apply State.loadIr_kept | apply Kept.ite) | split
    | (with_reducible first | apply KeptOut.next | apply KeptOut.ite)
theorem execSamplePreload_kept {s t : State} (h : Kept s t) (sampled : List Bool) (preload : List Bool) :
    KeptOut s (execSamplePreload sampled preload t) := by
  unfold execSamplePreload
  repeat' first
    | (with_reducible first | exact h | assumption | apply State.emit_kept | apply State.loadIr_kept | apply Kept.ite)
    | (fail_if_no_progress with_reducible apply Kept.upd) | extract_lets | split
    | (with_reducible first | apply KeptOut.next | apply KeptOut.ite)
theorem State.extestOf_kept {s t : State} (h : Kept s t) (code : BitVec 8) (captured : List Bool) (cells : List Bool) :
    Kept s (State.extestOf t code captured cells) := by
  unfold State.extestOf
  repeat' first
    | (with_reducible first | exact h | assumption | apply State.emit_kept | apply State.loadIr_kept | apply Kept.ite)
    | (fail_if_no_progress with_reducible apply Kept.upd) | extract_lets | split
theorem execExtest_kept {s t : State} (h : Kept s t) (captured : List Bool) (cells : List Bool) :
    KeptOut s (execExtest captured cells t) := by
  unfold execExtest
  repeat' with_reducible first | exact h | assumption | apply State.extestOf_kept | apply KeptOut.next | apply KeptOut.ite
theorem execExtestPulse_kept {s t : State} (h : Kept s t) (captured : List Bool) (cells : List Bool) :
    KeptOut s (execExtestPulse captured cells t) := by
  unfold execExtestPulse
  repeat' with_reducible first | exact h | assumption | apply State.extestOf_kept | apply KeptOut.next | apply KeptOut.ite
theorem execExtestTrain_kept {s t : State} (h : Kept s t) (captured : List Bool) (cells : List Bool) :
    KeptOut s (execExtestTrain captured cells t) := by
  unfold execExtestTrain
  repeat' with_reducible first | exact h | assumption | apply State.extestOf_kept | apply KeptOut.next | apply KeptOut.ite
theorem State.holdPins_kept {s t : State} (h : Kept s t) (code : BitVec 8) (cells : List Bool) :
    Kept s (State.holdPins t code cells) := by
  unfold State.holdPins
  repeat' first
    | (with_reducible first | exact h | assumption | apply State.emit_kept | apply State.loadIr_kept | apply Kept.ite)
    | extract_lets | split
theorem execClamp_kept {s t : State} (h : Kept s t)  :
    KeptOut s (execClamp t) := by
  unfold execClamp
  repeat' with_reducible first | exact h | assumption | apply State.holdPins_kept | apply KeptOut.next | apply KeptOut.ite
theorem execHighz_kept {s t : State} (h : Kept s t)  :
    KeptOut s (execHighz t) := by
  unfold execHighz
  repeat' with_reducible first | exact h | assumption | apply State.holdPins_kept | apply KeptOut.next | apply KeptOut.ite
theorem execBypass_kept {s t : State} (h : Kept s t) (bit : Bool) :
    KeptOut s (execBypass bit t) := by
  unfold execBypass
  repeat' first
    | (with_reducible first | exact h | assumption | apply State.emit_kept | apply State.loadIr_kept | apply Kept.ite) | split
    | (with_reducible first | apply KeptOut.next | apply KeptOut.ite)
theorem execDieSel_kept {s t : State} (h : Kept s t) (v : Byte) :
    KeptOut s (execDieSel v t) := by
  unfold execDieSel
  repeat' first
    | (with_reducible first | exact h | assumption | apply State.emit_kept | apply State.loadIr_kept | apply Kept.ite)
    | (fail_if_no_progress with_reducible apply Kept.upd) | extract_lets | split
    | (with_reducible first | apply KeptOut.next | apply KeptOut.ite)
theorem State.drawBits_kept {s t : State} (h : Kept s t) (n : Nat) : Kept s (State.drawBits t n).2 := by
  induction n generalizing t with
  | zero => exact h
  | succ n ih => exact ih (State.drawFree_kept h)
theorem execDieScan_kept {s t : State} (h : Kept s t) (bits : List Bool) : KeptOut s (execDieScan bits t) := by
  unfold execDieScan
  refine .next (.ite h ?_)
  extract_lets s1
  have h1 : Kept s s1 := State.loadIr_kept h _
  clear_value s1
  exact .ite (State.emit_kept h1 _) (.ite (State.emit_kept h1 _) (State.emit_kept (State.drawBits_kept h1 _) _))
theorem dbgCmds_good : ∀ d ∈ dbgCmds, CmdDef.Good d := by
  simp only [dbgCmds, List.forall_mem_cons]
  exact ⟨cmdDbgUnlock_good, cmdDbgHalt_good, cmdDbgResume_good, cmdDbgRead_good, cmdDbgWrite_good, cmdDbgBreakSet_good,
    cmdDbgXtrigSet_good, cmdDbgStep_good, fun _ h => nomatch h⟩
theorem State.mailPacket_kept {s t : State} (h : Kept s t) (p : Pkt) : Kept s (State.mailPacket t p) := by
  unfold State.mailPacket
  extract_lets c s1
  have h1 : Kept s s1 := h.upd
  split
  · next d e => exact CmdDef.take_kept h1 (dbgCmds_good d (List.mem_of_find?_eq_some e)) _ _
  · exact State.pushReply_kept h1 _ _ _ _
theorem State.mailRead_kept {s t : State} (h : Kept s t)  :
    Kept s (State.mailRead t) := by
  unfold State.mailRead
  repeat' first
    | (with_reducible first | exact h | assumption | apply State.emit_kept | apply Kept.ite)
    | (fail_if_no_progress with_reducible apply Kept.upd) | intro _ | extract_lets | split
theorem State.mailWords_kept {s t : State} (h : Kept s t) (words : Words) (host : Option Bytes) :
    Kept s (State.mailWords t words host) := by
  unfold State.mailWords
  repeat' first
    | (with_reducible first
        | exact h | assumption | apply CmdDef.take_kept | apply State.mailPacket_kept | apply State.pushReply_kept
        | apply Kept.ite)
    | (fail_if_no_progress with_reducible apply Kept.upd) | extract_lets | split
theorem execDbgpkt_kept {s t : State} (h : Kept s t) (words : Words) (host : Option Bytes) :
    KeptOut s (execDbgpkt words host t) := by
  unfold execDbgpkt
  repeat' first
    | (with_reducible first
        | exact h | assumption | apply State.loadIr_kept | apply State.mailRead_kept | apply State.mailWords_kept
        | apply Kept.ite)
    | extract_lets | split | (with_reducible first | apply KeptOut.next | apply KeptOut.ite)
theorem execTapReset_kept {s t : State} (h : Kept s t)  :
    KeptOut s (execTapReset t) := by
  unfold execTapReset
  repeat' first
    | (with_reducible first | exact h | assumption | apply State.loadIr_kept | apply Kept.ite)
    | (fail_if_no_progress with_reducible apply Kept.upd) | extract_lets | split
    | (with_reducible first | apply KeptOut.next | apply KeptOut.ite)

/-! Machine/MemCmds.lean. -/

theorem cmdMemStatus_good : cmdMemStatus.Good := by
  refine ⟨fun j s t h => ?_, fun j v s t h => ?_⟩ <;> dsimp only [cmdMemStatus, CmdDef.plain]
  all_goals repeat' first
    | (with_reducible first | exact h | assumption | apply State.modMem_kept | apply Kept.ite)
    | (fail_if_no_progress with_reducible apply Kept.upd) | exact Mem.wf_congr rfl rfl | intro _ | extract_lets | split
    | (with_reducible first | apply Act.Keeps.done | apply Act.Keeps.close | apply Act.Keeps.stay | apply Act.keeps_ite)
theorem execMemStatus_kept {s t : State} (h : Kept s t) (p : Pkt) :
    KeptOut s (execMemStatus p t) := by
  unfold execMemStatus
  repeat' first
    | (with_reducible first | exact h | assumption | apply CmdDef.fetch_kept | apply KeptOut.next | apply KeptOut.ite)
    | exact cmdMemStatus_good
theorem cmdMemTrain_good : cmdMemTrain.Good := by
  refine ⟨fun j s t h => ?_, fun j v s t h => ?_⟩ <;> dsimp only [cmdMemTrain, CmdDef.plain]
  all_goals repeat' first
    | (with_reducible first
        | exact h | assumption | apply State.modMem_kept | apply State.modStack_kept
        | refine Kept.forAll _ _ ?_ (fun _ _ _ => ?_))
    | (fail_if_no_progress with_reducible apply Kept.upd) | exact Mem.wf_congr rfl rfl | intro _ | extract_lets | split
    | (with_reducible first | apply Act.Keeps.done | apply Act.Keeps.close | apply Act.Keeps.stay | apply Act.keeps_ite)
theorem execMemTrain_kept {s t : State} (h : Kept s t) (p : Pkt) :
    KeptOut s (execMemTrain p t) := by
  unfold execMemTrain
  repeat' first
    | (with_reducible first | exact h | assumption | apply CmdDef.fetch_kept | apply KeptOut.next | apply KeptOut.ite)
    | exact cmdMemTrain_good
theorem State.trainCommit_kept {s t : State} (h : Kept s t) (x : TrainJob) :
    Kept s (State.trainCommit t x) := by
  unfold State.trainCommit
  repeat' first
    | (with_reducible first
        | exact h | assumption | apply State.commitDone_kept | apply State.nvCommand_kept | apply finish_kept | apply Kept.ite)
    | (fail_if_no_progress with_reducible apply Kept.upd) | intro _ | extract_lets | split
theorem execTrainingEnd_kept {s t : State} (h : Kept s t) (n : Fin 4) (r : TrainResult) :
    KeptOut s (execTrainingEnd n r t) := by
  unfold execTrainingEnd
  repeat' first
    | (with_reducible first
        | exact h | assumption | apply State.bootLinks_kept | apply State.bootStep_kept | apply State.modMem_kept
        | apply State.stackTrained_kept | apply State.trainCommit_kept | apply Kept.ite)
    | (fail_if_no_progress with_reducible apply Kept.upd) | exact Mem.wf_congr rfl rfl | intro _ | extract_lets | split
    | (with_reducible first | apply KeptOut.next | apply KeptOut.ite)
theorem State.thaw_kept {s t : State} (h : Kept s t) (n : Fin 4) : Kept s (State.thaw t n) :=
  State.modStack_kept (State.modMem_kept h (fun m => m.writeBackStack n) (Mem.writeBackStack_wf _ n)) _ _
theorem cmdMemThaw_good : cmdMemThaw.Good := by
  refine ⟨fun j s t h => ?_, fun j v s t h => ?_⟩ <;> dsimp only [cmdMemThaw, CmdDef.plain]
  all_goals repeat' first
    | (with_reducible first
        | exact h | assumption | apply State.thaw_kept | refine Kept.forAll _ _ ?_ (fun _ _ _ => ?_) | apply Kept.ite)
    | (fail_if_no_progress with_reducible apply Kept.upd) | intro _ | split
    | (with_reducible first | apply Act.Keeps.done | apply Act.Keeps.close | apply Act.Keeps.stay | apply Act.keeps_ite)
theorem execMemThaw_kept {s t : State} (h : Kept s t) (p : Pkt) :
    KeptOut s (execMemThaw p t) := by
  unfold execMemThaw
  repeat' first
    | (with_reducible first | exact h | assumption | apply CmdDef.fetch_kept | apply KeptOut.next | apply KeptOut.ite)
    | exact cmdMemThaw_good
theorem cmdMemRekey_good : cmdMemRekey.Good := by
  refine ⟨fun j s t h => ?_, fun j v s t h => ?_⟩ <;> dsimp only [cmdMemRekey, CmdDef.plain]
  all_goals repeat' first
    | (with_reducible first | exact h | assumption | apply State.modMem_kept)
    | (fail_if_no_progress with_reducible apply Kept.upd) | exact Mem.wf_congr rfl rfl | intro _
    | (with_reducible first | apply Act.Keeps.done | apply Act.Keeps.close | apply Act.Keeps.stay | apply Act.keeps_ite)
theorem execMemRekey_kept {s t : State} (h : Kept s t) (p : Pkt) :
    KeptOut s (execMemRekey p t) := by
  unfold execMemRekey
  repeat' first
    | (with_reducible first | exact h | assumption | apply CmdDef.fetch_kept | apply KeptOut.next | apply KeptOut.ite)
    | exact cmdMemRekey_good
theorem State.answerFailed_kept {s t : State} (h : Kept s t) (q : Requester) (write : Bool) (r : Served) :
    Kept s (State.answerFailed t q write r) := by
  unfold State.answerFailed
  repeat' first
    | (with_reducible first | exact h | assumption | apply State.answerBus_kept | apply State.answerFrozen_kept)
    | (fail_if_no_progress with_reducible apply Kept.upd) | split
theorem State.bar2Read_kept {s t : State} (h : Kept s t) (a : Nat) (len : Nat) (e : MemErr) :
    Kept s (State.bar2Read t a len e) := by
  unfold State.bar2Read
  repeat' first
    | (with_reducible first | exact h | assumption | apply State.emit_kept | apply State.hbmOpen_kept | apply Kept.ite)
    | (fail_if_no_progress with_reducible apply Kept.upd) | intro _ | extract_lets | split
theorem State.bar2Write_kept {s t : State} (h : Kept s t) (a : Nat) (data : Bytes) (e : MemErr) :
    Kept s (State.bar2Write t a data e) := by
  unfold State.bar2Write
  repeat' first
    | (with_reducible first | exact h | assumption | apply State.barDrop_kept | apply State.hbmWrite_kept | apply Kept.ite)
    | (fail_if_no_progress with_reducible apply Kept.upd) | intro _ | extract_lets | split
theorem State.serveRequest_kept {s t : State} (h : Kept s t) (r : MemReq) :
    Kept s (State.serveRequest t r) := by
  unfold State.serveRequest
  repeat' first
    | (with_reducible first
        | exact h | assumption | apply State.logNow_kept | apply State.answerFailed_kept | apply State.bar2Read_kept
        | apply State.bar2Write_kept
        | apply State.barWrite_kept | apply State.hbmOpen_kept | apply State.hbmWrite_kept)
    | (fail_if_no_progress with_reducible apply Kept.upd) | extract_lets | split
theorem State.request_kept {s t : State} (h : Kept s t) (r : MemReq) :
    Kept s (State.request t r) := by
  unfold State.request
  repeat' first
    | (with_reducible first
        | exact h | assumption | apply State.serveRequest_kept | apply State.waitRekey_kept | apply Kept.ite)
    | split
theorem State.serveWaiting_kept {s t : State} (h : Kept s t)  :
    Kept s (State.serveWaiting t) := by
  unfold State.serveWaiting
  repeat' first
    | (with_reducible first
        | exact h | assumption | apply State.modMem_kept | apply State.serveRequest_kept
        | refine Kept.foldl _ _ ?_ (fun _ _ _ => ?_))
    | (fail_if_no_progress with_reducible apply Kept.upd) | exact Mem.wf_congr rfl rfl
    | (with_reducible first | refine Mem.fold_wf _ _ _ ?_ (fun _ _ _ => ?_)) | intro _
theorem execMemoryRead_kept {s t : State} (h : Kept s t) (q : Requester) (a : Nat) (len : Nat) (e : MemErr) :
    KeptOut s (execMemoryRead q a len e t) := by
  unfold execMemoryRead
  repeat' first
    | (with_reducible first | exact h | assumption | apply State.request_kept | apply Kept.ite) | split
    | (with_reducible first | apply KeptOut.next | apply KeptOut.ite)
theorem execMemoryWrite_kept {s t : State} (h : Kept s t) (q : Requester) (a : Nat) (data : Bytes) (e : MemErr) :
    KeptOut s (execMemoryWrite q a data e t) := by
  unfold execMemoryWrite
  repeat' first
    | (with_reducible first | exact h | assumption | apply State.request_kept | apply Kept.ite) | split
    | (with_reducible first | apply KeptOut.next | apply KeptOut.ite)
theorem execRekeyEnd_kept {s t : State} (h : Kept s t)  :
    KeptOut s (execRekeyEnd t) := by
  unfold execRekeyEnd
  repeat' first
    | (with_reducible first
        | exact h | assumption | apply State.commitDone_kept | apply State.modMem_kept | apply State.newKeys_kept
        | apply State.releaseIn_kept | apply State.serveWaiting_kept)
    | (fail_if_no_progress with_reducible apply Kept.upd) | exact Mem.wf_congr rfl rfl | intro _ | extract_lets | split
    | (with_reducible first | apply KeptOut.next | apply KeptOut.ite)
theorem cmdMemCopy_good : cmdMemCopy.Good := by
  refine ⟨fun j s t h => ?_, fun j v s t h => ?_⟩ <;> dsimp only [cmdMemCopy, CmdDef.plain]
  all_goals repeat' first
    | (with_reducible first | exact h | assumption | apply State.modMem_kept | apply Kept.ite)
    | (fail_if_no_progress with_reducible apply Kept.upd) | exact Mem.wf_congr rfl rfl | intro _ | extract_lets | split
    | (with_reducible first | apply Act.Keeps.done | apply Act.Keeps.close | apply Act.Keeps.stay | apply Act.keeps_ite)
theorem execMemCopy_kept {s t : State} (h : Kept s t) (p : Pkt) :
    KeptOut s (execMemCopy p t) := by
  unfold execMemCopy
  repeat' first
    | (with_reducible first | exact h | assumption | apply CmdDef.fetch_kept | apply KeptOut.next | apply KeptOut.ite)
    | exact cmdMemCopy_good
theorem cmdMemFill_good : cmdMemFill.Good := by
  refine ⟨fun j s t h => ?_, fun j v s t h => ?_⟩ <;> dsimp only [cmdMemFill, CmdDef.plain]
  all_goals repeat' first
    | (with_reducible first | exact h | assumption | apply State.modMem_kept | apply Kept.ite)
    | (fail_if_no_progress with_reducible apply Kept.upd) | exact Mem.wf_congr rfl rfl | intro _ | split
    | (with_reducible first | apply Act.Keeps.done | apply Act.Keeps.close | apply Act.Keeps.stay | apply Act.keeps_ite)
theorem execMemFill_kept {s t : State} (h : Kept s t) (p : Pkt) :
    KeptOut s (execMemFill p t) := by
  unfold execMemFill
  repeat' first
    | (with_reducible first | exact h | assumption | apply CmdDef.fetch_kept | apply KeptOut.next | apply KeptOut.ite)
    | exact cmdMemFill_good
theorem State.moveFail_kept {s t : State} (h : Kept s t) (done : Nat) (f : MemFail) (a : Nat) :
    Kept s (State.moveFail t done f a).st := by
  unfold State.moveFail
  repeat' first
    | (with_reducible first | exact h | assumption | apply State.drawFree_kept) | extract_lets | split
    | exact Kept.prod2 (State.drawFree_kept (by first | assumption | exact Kept.refl _)) (by assumption) | dsimp only
theorem Source.bytes_kept {s t : State} (x : Source) (h : Kept s t) (off n : Nat) (e : MemErr) (errAt : Nat) :
    Kept s (Source.bytes x t off n e errAt).1 := by
  unfold Source.bytes
  split
  · split
    · exact h
    · next k _ =>
      have hr : ∀ a b, Kept s (t.areaRead .dma k a n e b).1.st := fun _ _ => State.areaRead_kept h _ _ _ _ _ _
      dsimp only
      split <;> exact hr _ _
  · split <;> exact h
  · exact h
theorem Moved.request_kept {s : State} {m : Moved} (h : Kept s m.st) (src : Source) (dst : Nat) (dstHost : Bool)
    (dstFails : Option Nat) (off n : Nat) (e : MemErr) (errAt : Nat) (atDst : Bool) :
    Kept s (Moved.request m src dst dstHost dstFails off n e errAt atDst).st := by
  unfold Moved.request
  split
  · exact h
  split
  next e1 =>
  have h1 := Kept.prod1 (Source.bytes_kept src h off n _ _) e1
  split
  · exact State.moveFail_kept h1 _ _ _
  · exact h1
  split
  · split
    · exact h1
    · exact State.emit_kept h1 _
  split
  · exact State.moveFail_kept h1 _ _ _
  extract_lets r
  have h2 : Kept s r.st := State.areaWrite_kept h1 _ _ _ _ _
  clear_value r
  split
  · exact State.moveFail_kept h2 _ _ _
  · exact h2
theorem State.transfer_kept {s t : State} (h : Kept s t) (src : Source) (base dst : Nat) (dstHost : Bool)
    (dstFails : Option Nat)
    (len : Nat) (e : MemErr) (errAt : Nat) (atDst : Bool) :
    Kept s (State.transfer t src base dst dstHost dstFails len e errAt atDst).st :=
  Kept.foldlOf Moved.st _ _ h fun _ _ hm => Moved.request_kept hm _ _ _ _ _ _ _ _ _
theorem State.moveOf_kept {s t : State} (h : Kept s t) (j : Job) (len : Nat) (host : Option Bytes) (e : MemErr) (at_ : Nat)
    (atDst : Bool) : Kept s (State.moveOf t j len host e at_ atDst).st := by
  unfold State.moveOf
  dsimp only
  split <;> exact State.transfer_kept h _ _ _ _ _ _ _ _ _
theorem execCopyEnd_kept {s t : State} (h : Kept s t) (k : JobKey) (host : Option Bytes) (e : MemErr) (at_ : Nat)
    (atDst : Bool) :
    KeptOut s (execCopyEnd k host e at_ atDst t) := by
  unfold execCopyEnd
  repeat' first
    | (with_reducible first
        | exact h | assumption | apply State.commitClose_kept | apply State.commitDone_kept | apply State.modMem_kept
        | apply State.moveOf_kept | apply Kept.ite)
    | (fail_if_no_progress with_reducible apply Kept.upd) | exact Mem.wf_congr rfl rfl | intro _ | extract_lets | split
    | (with_reducible first | apply KeptOut.next | apply KeptOut.ite)
theorem execRefresh_kept {s t : State} (h : Kept s t)  :
    KeptOut s (execRefresh t) := by
  unfold execRefresh
  repeat' first
    | (with_reducible first | exact h | assumption | apply State.modMem_kept | apply Kept.ite)
    | (fail_if_no_progress with_reducible apply Kept.upd) | exact Mem.wf_congr rfl rfl | intro _ | split
    | (with_reducible first | apply KeptOut.next | apply KeptOut.ite)
theorem execErrorWindowEnd_kept {s t : State} (h : Kept s t)  :
    KeptOut s (execErrorWindowEnd t) := by
  unfold execErrorWindowEnd
  repeat' first
    | (with_reducible first | exact h | assumption) | (fail_if_no_progress with_reducible apply Kept.upd)
    | ((fail_if_success with_reducible refine Kept.upd ?_); with_reducible apply Kept.updMem) | exact Mem.wf_congr rfl rfl
    | intro _ | extract_lets | split | (with_reducible first | apply KeptOut.next | apply KeptOut.ite)
theorem execBar2Read_kept {s t : State} (h : Kept s t) (a len : Nat) (e : MemErr) : KeptOut s (execBar2Read a len e t) :=
  .next (State.overPcie_kept h (.ite (State.emit_kept h _) (State.request_kept h _)))
theorem execBar2Write_kept {s t : State} (h : Kept s t) (a : Nat) (data : Bytes) (e : MemErr) : KeptOut s
    (execBar2Write a data e t) :=
  .next (State.overPcie_kept h (.ite (State.emit_kept h _) (State.request_kept h _)))
theorem State.barBusy_kept {s t : State} (h : Kept s t)  :
    Kept s (State.barBusy t) := by
  unfold State.barBusy
  repeat' first
    | (with_reducible first | exact h | assumption) | (fail_if_no_progress with_reducible apply Kept.upd)
    | ((fail_if_success with_reducible refine Kept.upd ?_); with_reducible apply Kept.updHif)
    | exact fun l => ⟨l.sub, l.rep, l.evt⟩
theorem execBar4Read_kept {s t : State} (h : Kept s t) (off len : Nat) (e : MemErr) : KeptOut s
    (execBar4Read off len e t) := by
  refine .next (State.overPcie_kept h ?_)
  split
  · exact State.emit_kept h _
  · exact State.emit_kept (State.barBusy_kept h) _
  · exact State.emit_kept (State.fence_kept h _ _) _
  · exact State.emit_kept h _
  · next x a _ =>
    have hr : Kept s (t.areaRead .host x a len e).1.st := State.areaRead_kept h _ _ _ _ _ _
    generalize t.areaRead .host x a len e = q at hr ⊢
    dsimp only
    split <;> exact State.emit_kept hr _
theorem execBar4Write_kept {s t : State} (h : Kept s t) (off : Nat) (data : Bytes) : KeptOut s
    (execBar4Write off data t) := by
  refine .next (State.overPcie_kept h ?_)
  split
  · exact State.emit_kept h _
  · exact State.emit_kept (State.barBusy_kept h) _
  · exact State.emit_kept (State.fence_kept h _ _) _
  · exact State.emit_kept h _
  · exact State.areaWrite_kept (.ite (State.barDrop_kept h) h) _ _ _ _ _

/-! Machine/TimeCmds.lean. -/

theorem cmdTimeGet_good : cmdTimeGet.Good := by
  refine ⟨fun j s t h => ?_, fun j v s t h => ?_⟩ <;> dsimp only [cmdTimeGet, CmdDef.plain]
  all_goals repeat' first
    | (with_reducible first | exact h | assumption) | intro _
    | (with_reducible first | apply Act.Keeps.done | apply Act.Keeps.close | apply Act.Keeps.stay | apply Act.keeps_ite)
theorem execTimeGet_kept {s t : State} (h : Kept s t) (p : Pkt) :
    KeptOut s (execTimeGet p t) := by
  unfold execTimeGet
  repeat' first
    | (with_reducible first | exact h | assumption | apply CmdDef.fetch_kept | apply KeptOut.next | apply KeptOut.ite)
    | exact cmdTimeGet_good
theorem State.setTb_kept {s t : State} (h : Kept s t) (b : Fin 8) (v : Nat) : Kept s (State.setTb t b v) := by
  have h1 : Kept s (t.modTb b fun t => { t.withValue v with set := true }) :=
    State.modTb_kept h _ _ fun x _ => TimeBase.withValue_ns x v
  exact .ite h1.upd h1
theorem State.jumpRefused_kept {s t : State} (h : Kept s t) (b : Fin 8) (step : Int) :
    Kept s (State.jumpRefused t b step) := by
  unfold State.jumpRefused
  repeat' with_reducible first | exact h | assumption | apply State.raise_kept
theorem timeSetAct_kept {s t : State} (h : Kept s t) (j : Job) :
    (timeSetAct j t).Keeps s := by
  unfold timeSetAct
  repeat' first
    | (with_reducible first
        | exact h | assumption | apply State.jumpRefused_kept | apply State.modTb_kept | apply State.setTb_kept
        | apply Kept.ite)
    | (fail_if_no_progress with_reducible apply Kept.upd) | intro _ | extract_lets | split
    | (with_reducible first | apply Act.Keeps.done | apply Act.Keeps.close | apply Act.Keeps.stay | apply Act.keeps_ite)
theorem cmdTimeSet_good : cmdTimeSet.Good := by
  refine ⟨fun j s t h => ?_, fun j v s t h => ?_⟩ <;> dsimp only [cmdTimeSet, CmdDef.plain]
  all_goals repeat' first
    | (with_reducible first | exact h | assumption | apply timeSetAct_kept | apply Kept.ite)
    | (fail_if_no_progress with_reducible apply Kept.upd) | intro _ | split
    | (with_reducible first | apply Act.Keeps.done | apply Act.Keeps.close | apply Act.Keeps.stay | apply Act.keeps_ite)
theorem execTimeSet_kept {s t : State} (h : Kept s t) (p : Pkt) :
    KeptOut s (execTimeSet p t) := by
  unfold execTimeSet
  repeat' first
    | (with_reducible first | exact h | assumption | apply CmdDef.fetch_kept | apply KeptOut.next | apply KeptOut.ite)
    | exact cmdTimeSet_good
theorem timeAdjustAct_kept {s t : State} (h : Kept s t) (j : Job) : (timeAdjustAct j t).Keeps s := by
  unfold timeAdjustAct
  extract_lets b x amount
  exact Act.keeps_ite (Act.keeps_ite (.close (State.jumpRefused_kept h _ _) _ _ _)
    (.done (State.modTb_kept h b (fun t => t.startSlew amount (fld j.args 44 0 10)) fun _ hx => hx) _))
    (.done (State.modTb_kept h b (fun t => { t with trim := signedOf 32 (fld j.args 48 0 32) }) fun _ hx => hx) _)
theorem cmdTimeAdjust_good : cmdTimeAdjust.Good := by
  refine ⟨fun j s t h => ?_, fun j v s t h => ?_⟩ <;> dsimp only [cmdTimeAdjust, CmdDef.plain]
  all_goals repeat' first
    | (with_reducible first | exact h | assumption | apply timeAdjustAct_kept)
    | (fail_if_no_progress with_reducible apply Kept.upd) | intro _
    | (with_reducible first | apply Act.Keeps.done | apply Act.Keeps.close | apply Act.Keeps.stay | apply Act.keeps_ite)
theorem execTimeAdjust_kept {s t : State} (h : Kept s t) (p : Pkt) :
    KeptOut s (execTimeAdjust p t) := by
  unfold execTimeAdjust
  repeat' first
    | (with_reducible first | exact h | assumption | apply CmdDef.fetch_kept | apply KeptOut.next | apply KeptOut.ite)
    | exact cmdTimeAdjust_good
theorem timeSyncSetAct_kept {s t : State} (h : Kept s t) (j : Job) :
    (timeSyncSetAct j t).Keeps s := by
  unfold timeSyncSetAct
  repeat' first
    | (with_reducible first | exact h | assumption | apply Kept.ite) | (fail_if_no_progress with_reducible apply Kept.upd)
    | extract_lets | split
    | (with_reducible first | apply Act.Keeps.done | apply Act.Keeps.close | apply Act.Keeps.stay | apply Act.keeps_ite)
theorem cmdTimeSyncSet_good : cmdTimeSyncSet.Good := by
  refine ⟨fun j s t h => ?_, fun j v s t h => ?_⟩ <;> dsimp only [cmdTimeSyncSet, CmdDef.plain]
  all_goals repeat' first
    | (with_reducible first | exact h | assumption | apply timeSyncSetAct_kept | apply Kept.ite)
    | (fail_if_no_progress with_reducible apply Kept.upd) | intro _ | split
    | (with_reducible first | apply Act.Keeps.done | apply Act.Keeps.close | apply Act.Keeps.stay | apply Act.keeps_ite)
theorem execTimeSyncSet_kept {s t : State} (h : Kept s t) (p : Pkt) :
    KeptOut s (execTimeSyncSet p t) := by
  unfold execTimeSyncSet
  repeat' first
    | (with_reducible first | exact h | assumption | apply CmdDef.fetch_kept | apply KeptOut.next | apply KeptOut.ite)
    | exact cmdTimeSyncSet_good
theorem cmdTimeJumpLimit_good : cmdTimeJumpLimit.Good := by
  refine ⟨fun j s t h => ?_, fun j v s t h => ?_⟩ <;> dsimp only [cmdTimeJumpLimit, CmdDef.plain]
  all_goals repeat' first
    | (with_reducible first | exact h | assumption | apply State.modTb_kept)
    | (fail_if_no_progress with_reducible apply Kept.upd) | intro _
    | (with_reducible first | apply Act.Keeps.done | apply Act.Keeps.close | apply Act.Keeps.stay | apply Act.keeps_ite)
theorem execTimeJumpLimit_kept {s t : State} (h : Kept s t) (p : Pkt) :
    KeptOut s (execTimeJumpLimit p t) := by
  unfold execTimeJumpLimit
  repeat' first
    | (with_reducible first | exact h | assumption | apply CmdDef.fetch_kept | apply KeptOut.next | apply KeptOut.ite)
    | exact cmdTimeJumpLimit_good
theorem execSlewAbsorbed_kept {s t : State} (h : Kept s t) (b : Fin 8) :
    KeptOut s (execSlewAbsorbed b t) := by
  unfold execSlewAbsorbed
  repeat' first
    | (with_reducible first | exact h | assumption | apply State.modTb_kept | apply Kept.ite)
    | (fail_if_no_progress with_reducible apply Kept.upd) | intro _ | split
    | (with_reducible first | apply KeptOut.next | apply KeptOut.ite)
theorem State.servoError_kept {s t : State} (h : Kept s t) (tr : Int) (e : Int) : Kept s (State.servoError t tr e) := by
  unfold State.servoError
  extract_lets t0 c1 c2 n s1 c3 s2 trim good s3 c4
  have h1 : Kept s s1 := h.upd
  have h2 : Kept s s2 := .ite h1 (State.jumpRefused_kept h1.upd _ _)
  have h3 : Kept s s3 := State.modTb_kept h _ _ fun _ hx => hx
  exact .ite h (.ite (State.setTb_kept h _ _).upd (.ite (.ite (State.servoHold_kept h2 _) h2) h3.upd))
theorem execPtmDialogue_kept {s t : State} (h : Kept s t) (master : Int) (now_ : Int) :
    KeptOut s (execPtmDialogue master now_ t) := by
  unfold execPtmDialogue
  repeat' first
    | (with_reducible first | exact h | assumption | apply State.servoError_kept | apply Kept.ite) | split
    | (with_reducible first | apply KeptOut.next | apply KeptOut.ite)
theorem execServoHold_kept {s t : State} (h : Kept s t)  :
    KeptOut s (execServoHold t) := by
  unfold execServoHold
  repeat' first
    | (with_reducible first | exact h | assumption | apply State.servoHold_kept | apply Kept.ite) | split
    | (with_reducible first | apply KeptOut.next | apply KeptOut.ite)
theorem State.discardTime_kept {s t : State} (h : Kept s t) (l : Fin 16) :
    Kept s (State.discardTime t l) := by
  unfold State.discardTime
  repeat' first
    | (with_reducible first | exact h | assumption | apply State.modLink_kept)
    | (fail_if_no_progress with_reducible apply Kept.upd) | intro _
theorem State.onTime_kept {s t : State} (h : Kept s t) (l : Fin 16) (x : TimePkt) (act : State → State)
    (ha : ∀ u, Kept s u → Kept s (act u)) : Kept s (State.onTime t l x act) :=
  .ite (State.discardTime_kept h _) (.ite h (ha _ (State.takeAck_kept h _ _ _ _)))
theorem execSync_kept {s t : State} (h : Kept s t) (l : Fin 16) (x : TimePkt) :
    KeptOut s (execSync l x t) := by
  unfold execSync
  repeat' first
    | (with_reducible first
        | exact h | assumption | apply CmdDef.take_kept | apply Source.bytes_kept | apply State.onTime_kept
        | apply State.servoError_kept | apply Kept.ite)
    | (fail_if_no_progress with_reducible apply Kept.upd) | intro _ | extract_lets | split
    | (with_reducible first | apply KeptOut.next | apply KeptOut.ite)
theorem execSyncSend_kept {s t : State} (h : Kept s t) (l : Fin 16) (phase : Fin 16) :
    KeptOut s (execSyncSend l phase t) := by
  unfold execSyncSend
  repeat' first
    | (with_reducible first | exact h | assumption | apply State.sendTime_kept | apply Kept.ite) | split
    | (with_reducible first | apply KeptOut.next | apply KeptOut.ite)
theorem execPdelayReqSend_kept {s t : State} (h : Kept s t) (l : Fin 16) (phase : Fin 16) :
    KeptOut s (execPdelayReqSend l phase t) := by
  unfold execPdelayReqSend
  repeat' first
    | (with_reducible first | exact h | assumption | apply State.modLink_kept | apply State.sendTime_kept | apply Kept.ite)
    | (fail_if_no_progress with_reducible apply Kept.upd) | intro _ | split
    | (with_reducible first | apply KeptOut.next | apply KeptOut.ite)
theorem execPdelayReq_kept {s t : State} (h : Kept s t) (l : Fin 16) (x : TimePkt) (phase : Fin 16) :
    KeptOut s (execPdelayReq l x phase t) :=
  .next (State.onTime_kept h _ _ _ fun _ hu => .ite (State.sendTime_kept hu _ _ _) hu)
theorem execPdelayResp_kept {s t : State} (h : Kept s t) (l : Fin 16) (x : TimePkt) :
    KeptOut s (execPdelayResp l x t) := by
  unfold execPdelayResp
  repeat' first
    | (with_reducible first
        | exact h | assumption | apply CmdDef.take_kept | apply Source.bytes_kept | apply State.modLink_kept
        | apply State.onTime_kept | apply Kept.ite)
    | (fail_if_no_progress with_reducible apply Kept.upd) | intro _ | extract_lets | split
    | (with_reducible first | apply KeptOut.next | apply KeptOut.ite)
theorem execHelloSend_kept {s t : State} (h : Kept s t) (l : Fin 16) :
    KeptOut s (execHelloSend l t) := by
  unfold execHelloSend
  repeat' first
    | (with_reducible first | exact h | assumption | apply State.sendHello_kept | apply Kept.ite) | split
    | (with_reducible first | apply KeptOut.next | apply KeptOut.ite)
theorem execHello_kept {s t : State} (h : Kept s t) (l : Fin 16) (x : TimePkt) :
    KeptOut s (execHello l x t) := by
  unfold execHello
  repeat' first
    | (with_reducible first
        | exact h | assumption | apply CmdDef.take_kept | apply Source.bytes_kept | apply State.linkState_kept
        | apply State.modLink_kept | apply State.onTime_kept | apply State.raise_kept | apply Kept.ite)
    | (fail_if_no_progress with_reducible apply Kept.upd) | intro _ | extract_lets | split
    | (with_reducible first | apply KeptOut.next | apply KeptOut.ite)

/-! Machine/SwarmCmds.lean. -/

theorem cmdSwarmNeighbours_good : cmdSwarmNeighbours.Good := by
  refine ⟨fun j s t h => ?_, fun j v s t h => ?_⟩ <;> dsimp only [cmdSwarmNeighbours, CmdDef.plain]
  all_goals repeat' first
    | (with_reducible first
        | exact h | assumption | apply State.modLink_kept | refine Kept.forAll _ _ ?_ (fun _ _ _ => ?_) | apply Kept.ite)
    | (fail_if_no_progress with_reducible apply Kept.upd) | intro _ | extract_lets | split
    | (with_reducible first | apply Act.Keeps.done | apply Act.Keeps.close | apply Act.Keeps.stay | apply Act.keeps_ite)
theorem execSwarmNeighbours_kept {s t : State} (h : Kept s t) (p : Pkt) :
    KeptOut s (execSwarmNeighbours p t) := by
  unfold execSwarmNeighbours
  repeat' first
    | (with_reducible first | exact h | assumption | apply CmdDef.fetch_kept | apply KeptOut.next | apply KeptOut.ite)
    | exact cmdSwarmNeighbours_good
theorem cmdSwarmIdSet_good : cmdSwarmIdSet.Good := by
  refine ⟨fun j s t h => ?_, fun j v s t h => ?_⟩ <;> dsimp only [cmdSwarmIdSet, CmdDef.plain]
  all_goals repeat' first
    | (with_reducible first
        | exact h | assumption | apply State.sendHello_kept | refine Kept.forAll _ _ ?_ (fun _ _ _ => ?_))
    | (fail_if_no_progress with_reducible apply Kept.upd) | intro _ | extract_lets | split
    | (with_reducible first | apply Act.Keeps.done | apply Act.Keeps.close | apply Act.Keeps.stay | apply Act.keeps_ite)
theorem execSwarmIdSet_kept {s t : State} (h : Kept s t) (p : Pkt) :
    KeptOut s (execSwarmIdSet p t) := by
  unfold execSwarmIdSet
  repeat' first
    | (with_reducible first | exact h | assumption | apply CmdDef.fetch_kept | apply KeptOut.next | apply KeptOut.ite)
    | exact cmdSwarmIdSet_good
theorem State.setRoutesTable_kept {s t : State} (h : Kept s t) (args : Words) :
    Kept s (State.setRoutesTable t args) := by
  unfold State.setRoutesTable
  repeat' first
    | (with_reducible first | exact h | assumption | apply Kept.ite) | (fail_if_no_progress with_reducible apply Kept.upd)
    | intro _ | extract_lets | split
theorem cmdSwarmRouteSet_good : cmdSwarmRouteSet.Good := by
  refine ⟨fun j s t h => ?_, fun j v s t h => ?_⟩ <;> dsimp only [cmdSwarmRouteSet, CmdDef.plain]
  all_goals repeat' first
    | (with_reducible first | exact h | assumption | apply State.setRoutesTable_kept)
    | (fail_if_no_progress with_reducible apply Kept.upd) | intro _
    | (with_reducible first | apply Act.Keeps.done | apply Act.Keeps.close | apply Act.Keeps.stay | apply Act.keeps_ite)
theorem execSwarmRouteSet_kept {s t : State} (h : Kept s t) (p : Pkt) :
    KeptOut s (execSwarmRouteSet p t) := by
  unfold execSwarmRouteSet
  repeat' first
    | (with_reducible first | exact h | assumption | apply CmdDef.fetch_kept | apply KeptOut.next | apply KeptOut.ite)
    | exact cmdSwarmRouteSet_good
theorem swarmLinkSetAct_kept {s t : State} (h : Kept s t) (j : Job) :
    (swarmLinkSetAct j t).Keeps s := by
  unfold swarmLinkSetAct
  repeat' first
    | (with_reducible first | exact h | assumption | apply State.linkDrop_kept | apply State.modLink_kept)
    | (fail_if_no_progress with_reducible apply Kept.upd) | intro _ | extract_lets | split
    | (with_reducible first | apply Act.Keeps.done | apply Act.Keeps.close | apply Act.Keeps.stay | apply Act.keeps_ite)
theorem cmdSwarmLinkSet_good : cmdSwarmLinkSet.Good := by
  refine ⟨fun j s t h => ?_, fun j v s t h => ?_⟩ <;> dsimp only [cmdSwarmLinkSet, CmdDef.plain]
  all_goals repeat' first
    | (with_reducible first | exact h | assumption | apply swarmLinkSetAct_kept)
    | (fail_if_no_progress with_reducible apply Kept.upd) | intro _ | extract_lets | split
    | (with_reducible first | apply Act.Keeps.done | apply Act.Keeps.close | apply Act.Keeps.stay | apply Act.keeps_ite)
theorem execSwarmLinkSet_kept {s t : State} (h : Kept s t) (p : Pkt) :
    KeptOut s (execSwarmLinkSet p t) := by
  unfold execSwarmLinkSet
  repeat' first
    | (with_reducible first | exact h | assumption | apply CmdDef.fetch_kept | apply KeptOut.next | apply KeptOut.ite)
    | exact cmdSwarmLinkSet_good
theorem State.sendForward_kept {s t : State} (h : Kept s t) (mode : Nat) (dest : Byte) (way : BitVec 64) (data : Bytes) :
    Kept s (State.sendForward t mode dest way data) := by
  unfold State.sendForward
  repeat' first
    | (with_reducible first
        | exact h | assumption | apply State.sendBroadcast_kept | apply State.sendPath_kept | apply State.sendRouted_kept
        | apply Kept.ite)
    | (fail_if_no_progress with_reducible apply Kept.upd) | extract_lets | split
theorem swarmForwardAct_kept {s t : State} (h : Kept s t) (j : Job) :
    (swarmForwardAct j t).Keeps s := by
  unfold swarmForwardAct
  repeat' first
    | (with_reducible first | exact h | assumption | apply State.sendForward_kept | apply Kept.ite)
    | (fail_if_no_progress with_reducible apply Kept.upd) | extract_lets | split
    | (with_reducible first | apply Act.Keeps.done | apply Act.Keeps.close | apply Act.Keeps.stay | apply Act.keeps_ite)
theorem cmdSwarmForward_good : cmdSwarmForward.Good := by
  refine ⟨fun j s t h => ?_, fun j v s t h => ?_⟩ <;> dsimp only [cmdSwarmForward, CmdDef.plain]
  all_goals repeat' first
    | (with_reducible first | exact h | assumption | apply swarmForwardAct_kept)
    | (fail_if_no_progress with_reducible apply Kept.upd) | intro _ | extract_lets | split
    | (with_reducible first | apply Act.Keeps.done | apply Act.Keeps.close | apply Act.Keeps.stay | apply Act.keeps_ite)
theorem execSwarmForward_kept {s t : State} (h : Kept s t) (p : Pkt) :
    KeptOut s (execSwarmForward p t) := by
  unfold execSwarmForward
  repeat' first
    | (with_reducible first | exact h | assumption | apply CmdDef.fetch_kept | apply KeptOut.next | apply KeptOut.ite)
    | exact cmdSwarmForward_good
theorem State.dropForward_kept {s t : State} (h : Kept s t) (k : JobKey) :
    Kept s (State.dropForward t k) := by
  unfold State.dropForward
  repeat' first
    | (with_reducible first | exact h | assumption) | (fail_if_no_progress with_reducible apply Kept.upd) | intro _
theorem State.innerReply_kept {s t : State} (h : Kept s t) (l : Fin 16) (m : Message) :
    Kept s (State.innerReply t l m) := by
  unfold State.innerReply
  repeat' first
    | (with_reducible first
        | exact h | assumption | apply State.commitClose_kept | apply State.commitDone_kept | apply State.dropForward_kept
        | apply Kept.ite)
    | (fail_if_no_progress with_reducible apply Kept.upd) | intro _ | extract_lets | split
theorem execForwardReply_kept {s t : State} (h : Kept s t) (l : Fin 16) :
    KeptOut s (execForwardReply l t) := by
  unfold execForwardReply
  repeat' first
    | (with_reducible first | exact h | assumption | apply State.innerReply_kept | apply State.modLink_kept)
    | (fail_if_no_progress with_reducible apply Kept.upd) | intro _ | split
    | (with_reducible first | apply KeptOut.next | apply KeptOut.ite)
theorem execForwardTimeout_kept {s t : State} (h : Kept s t) (k : JobKey) :
    KeptOut s (execForwardTimeout k t) := by
  unfold execForwardTimeout
  repeat' first
    | (with_reducible first | exact h | assumption | apply State.commitClose_kept | apply State.dropForward_kept)
    | (fail_if_no_progress with_reducible apply Kept.upd) | intro _ | split
    | (with_reducible first | apply KeptOut.next | apply KeptOut.ite)
theorem State.dropPacket_kept {s t : State} (h : Kept s t) (l : Fin 16) :
    Kept s (State.dropPacket t l) := by
  unfold State.dropPacket
  repeat' first
    | (with_reducible first | exact h | assumption | apply State.modLink_kept)
    | (fail_if_no_progress with_reducible apply Kept.upd) | intro _
theorem State.gather_kept {s t : State} (h : Kept s t) (l : Fin 16) (m : Message) (first : Bool) (last : Bool) :
    Kept s (State.gather t l m first last) := by
  unfold State.gather
  extract_lets k old rest
  clear_value old
  split
  · exact State.dropPacket_kept h _
  · exact .ite (State.dropPacket_kept (State.modLink_kept h _ _) _) (.ite (State.modLink_kept h _ _) (State.modLink_kept h _ _))
theorem State.routePacket_kept {s t : State} (h : Kept s t) (l : Fin 16) (h : Bytes) (payload : Bytes) :
    Kept s (State.routePacket t l h payload) := by
  unfold State.routePacket
  repeat' first
    | (with_reducible first
        | exact h | assumption | apply CmdDef.take_kept | apply State.dropPacket_kept | apply State.gather_kept
        | apply State.modLink_kept | apply State.queuePacket_kept | apply State.sendBroadcast_kept | apply Kept.ite)
    | (fail_if_no_progress with_reducible apply Kept.upd) | intro _ | extract_lets | split
theorem State.badPacket_kept {s t : State} (h : Kept s t) (l : Fin 16) (named : BitVec 12) :
    Kept s (State.badPacket t l named) := by
  unfold State.badPacket
  repeat' first
    | (with_reducible first
        | exact h | assumption | apply State.emit_kept | apply State.linkDrop_kept | apply State.modLink_kept | apply Kept.ite)
    | (fail_if_no_progress with_reducible apply Kept.upd) | intro _ | extract_lets | split
theorem State.replayLink_kept {s t : State} (h : Kept s t) (l : Fin 16) (seq : BitVec 12) :
    Kept s (State.replayLink t l seq) := by
  unfold State.replayLink
  repeat' first
    | (with_reducible first
        | exact h | assumption | apply State.emitLink_kept | apply State.emit_kept | apply State.linkDrop_kept
        | apply State.modLink_kept
        | refine Kept.foldl _ _ ?_ (fun _ _ _ => ?_) | apply Kept.ite)
    | (fail_if_no_progress with_reducible apply Kept.upd) | intro _ | extract_lets | split
theorem State.laravoArrived_kept {s t : State} (h : Kept s t) (l : Fin 16) (bytes : Bytes) (clean : Bool) :
    Kept s (State.laravoArrived t l bytes clean) := by
  unfold State.laravoArrived
  repeat' first
    | (with_reducible first
        | exact h | assumption | apply CmdDef.take_kept | apply Source.bytes_kept | apply State.badPacket_kept
        | apply State.modLink_kept | apply State.routePacket_kept | apply State.takeAck_kept | apply Kept.ite)
    | (fail_if_no_progress with_reducible apply Kept.upd) | intro _ | extract_lets | split
theorem execLaravoPacket_kept {s t : State} (h : Kept s t) (l : Fin 16) (cols : List (List (BitVec 10))) :
    KeptOut s (execLaravoPacket l cols t) := by
  unfold execLaravoPacket
  repeat' first
    | (with_reducible first | exact h | assumption | apply State.laravoArrived_kept | apply Kept.ite) | extract_lets | split
    | (with_reducible first | apply KeptOut.next | apply KeptOut.ite)
theorem execSkipColumn_kept {s t : State} (h : Kept s t) (l : Fin 16) :
    KeptOut s (execSkipColumn l t) := by
  unfold execSkipColumn
  repeat' first
    | (with_reducible first | exact h | assumption | apply State.modLink_kept | apply State.emit_kept | apply Kept.ite) | split
    | (with_reducible first | apply KeptOut.next | apply KeptOut.ite)
theorem execLinkTrainingStart_kept {s t : State} (h : Kept s t) (l : Fin 16) :
    KeptOut s (execLinkTrainingStart l t) := by
  unfold execLinkTrainingStart
  repeat' first
    | (with_reducible first
        | exact h | assumption | apply State.coast_kept | apply State.linkDrop_kept | apply State.modLink_kept
        | apply Kept.ite)
    | (fail_if_no_progress with_reducible apply Kept.upd) | intro _ | extract_lets | split
    | (with_reducible first | apply KeptOut.next | apply KeptOut.ite)
theorem execLinkTrained_kept {s t : State} (h : Kept s t) (l : Fin 16) (wiring : Wiring) :
    KeptOut s (execLinkTrained l wiring t) := by
  unfold execLinkTrained
  repeat' first
    | (with_reducible first
        | exact h | assumption | apply State.linkDrop_kept | apply State.linkState_kept | apply State.modLink_kept
        | apply State.sendHello_kept | apply Kept.ite)
    | (fail_if_no_progress with_reducible apply Kept.upd) | intro _ | extract_lets | split
    | (with_reducible first | apply KeptOut.next | apply KeptOut.ite)
theorem execLaravoSilent_kept {s t : State} (h : Kept s t) (l : Fin 16) :
    KeptOut s (execLaravoSilent l t) := by
  unfold execLaravoSilent
  repeat' first
    | (with_reducible first | exact h | assumption | apply State.linkDrop_kept | apply Kept.ite) | extract_lets | split
    | (with_reducible first | apply KeptOut.next | apply KeptOut.ite)

/-! Machine/NetFlits.lean. -/

theorem State.mapBooks_kept {s t : State} (h : Kept s t) (f : BitVec 16 → Book → Book) :
    Kept s (State.mapBooks t f) := by
  unfold State.mapBooks
  repeat' first
    | (with_reducible first | exact h | assumption) | (fail_if_no_progress with_reducible apply Kept.upd) | intro _
theorem State.notReached_kept {s t : State} (h : Kept s t) (f : MeshFlit) :
    Kept s (State.notReached t f) := by
  unfold State.notReached
  repeat' with_reducible first | exact h | assumption | apply State.emit_kept | apply State.leaveInput_kept
theorem State.enterMesh_kept {s t : State} (h : Kept s t) (f : MeshFlit) :
    Kept s (State.enterMesh t f) := by
  unfold State.enterMesh
  repeat' first
    | (with_reducible first
        | exact h | assumption | apply State.leaveInput_kept | apply State.notReached_kept | apply State.setMesh_kept
        | apply Kept.ite)
    | (fail_if_no_progress with_reducible apply Kept.upd) | extract_lets | split
theorem State.meshArrive_kept {s t : State} (h : Kept s t)  :
    Kept s (State.meshArrive t) := by
  unfold State.meshArrive
  repeat' first
    | (with_reducible first
        | exact h | assumption | apply State.enterMesh_kept | apply State.mapBooks_kept | apply State.setMesh_kept
        | refine Kept.foldl _ _ ?_ (fun _ _ _ => ?_) | apply Kept.ite)
    | (fail_if_no_progress with_reducible apply Kept.upd) | intro _ | extract_lets | split
theorem State.meshAnswer_kept {s t : State} (h : Kept s t)  :
    Kept s (State.meshAnswer t) := by
  unfold State.meshAnswer
  repeat' first
    | (with_reducible first
        | exact h | assumption | apply State.discardFlits_kept | apply State.notReached_kept | apply State.setMesh_kept
        | refine Kept.foldl _ _ ?_ (fun _ _ _ => ?_))
    | (fail_if_no_progress with_reducible apply Kept.upd) | intro _ | extract_lets | split
theorem State.reachUnit_kept {s t : State} (h : Kept s t) (f : MeshFlit) :
    Kept s (State.reachUnit t f) := by
  unfold State.reachUnit
  repeat' first
    | (with_reducible first | exact h | assumption | apply State.emit_kept | apply Kept.ite)
    | (fail_if_no_progress with_reducible apply Kept.upd) | intro _ | extract_lets | split
theorem State.deliverFlit_kept {s t : State} (h : Kept s t) (f : MeshFlit) :
    Kept s (State.deliverFlit t f).1 := by
  unfold State.deliverFlit
  repeat' first
    | (with_reducible first | exact h | assumption | apply State.reachUnit_kept | apply State.emit_kept | apply Kept.ite)
    | (fail_if_no_progress with_reducible apply Kept.upd) | split | dsimp only
theorem State.serveOutput_kept {s t : State} (h : Kept s t) (o : Fin 32 × Fin 5) :
    Kept s (State.serveOutput t o) := by
  unfold State.serveOutput
  repeat' first
    | (with_reducible first
        | exact h | assumption | apply State.deliverFlit_kept | apply State.leaveInput_kept | apply State.modBook_kept
        | apply Kept.ite)
    | (fail_if_no_progress with_reducible apply Kept.upd) | intro _ | extract_lets | split
    | exact Kept.prod1 (State.deliverFlit_kept (by first | assumption | exact Kept.refl _)) (by assumption) | dsimp only
theorem State.serveOutputs_kept {s t : State} (h : Kept s t)  :
    Kept s (State.serveOutputs t) := by
  unfold State.serveOutputs
  repeat' with_reducible first
    | exact h | assumption | apply State.serveOutput_kept | refine Kept.foldl _ _ ?_ (fun _ _ _ => ?_)
theorem State.meshTick_kept {s t : State} (h : Kept s t)  :
    Kept s (State.meshTick t) := by
  unfold State.meshTick
  repeat' first
    | (with_reducible first
        | exact h | assumption | apply State.meshAnswer_kept | apply State.meshArrive_kept | apply State.serveOutputs_kept
        | apply Kept.ite)
    | split
theorem State.sendFlit_kept {s t : State} (h : Kept s t) (d : Fin 4) (inbound : Bool) (src : NetUnit) (dst : NetUnit)
    (vc : Fin 4) (payload : Bytes) :
    Kept s (State.sendFlit t d inbound src dst vc payload) := by
  unfold State.sendFlit
  repeat' first
    | (with_reducible first | exact h | assumption | apply State.modBook_kept | apply State.modDie_kept | apply Kept.ite)
    | (fail_if_no_progress with_reducible apply Kept.upd) | intro _ | extract_lets | split | dsimp only
theorem State.linkFails_kept {s t : State} (h : Kept s t) (d : Fin 4) (inbound : Bool) :
    Kept s (State.linkFails t d inbound) := by
  unfold State.linkFails
  repeat' first
    | (with_reducible first
        | exact h | assumption | apply State.fence_kept | apply State.modDie_kept | apply State.netCount_kept | apply Kept.ite)
    | (fail_if_no_progress with_reducible apply Kept.upd) | intro _ | split
theorem State.badFlit_kept {s t : State} (h : Kept s t) (d : Fin 4) (inbound : Bool) (seq : BitVec 12) :
    Kept s (State.badFlit t d inbound seq) := by
  unfold State.badFlit
  repeat' first
    | (with_reducible first
        | exact h | assumption | apply State.emit_kept | apply State.linkFails_kept | apply State.modDie_kept
        | apply State.netCount_kept | apply Kept.ite)
    | (fail_if_no_progress with_reducible apply Kept.upd) | intro _ | extract_lets | split
theorem State.takeHeader_kept {s t : State} (h : Kept s t) (d : Fin 4) (inbound : Bool) (bs : Bytes) :
    Kept s (State.takeHeader t d inbound bs) := by
  unfold State.takeHeader
  repeat' first
    | (with_reducible first | exact h | assumption | apply State.modBook_kept | apply State.modDie_kept | apply Kept.ite)
    | (fail_if_no_progress with_reducible apply Kept.upd) | intro _ | extract_lets | split
theorem State.takeFlit_kept {s t : State} (h : Kept s t) (d : Fin 4) (inbound : Bool) (f : LinkFlit) (bs : Bytes) :
    Kept s (State.takeFlit t d inbound f bs) := by
  unfold State.takeFlit
  repeat' first
    | (with_reducible first
        | exact h | assumption | apply CmdDef.take_kept | apply State.modBook_kept | apply State.modDie_kept
        | apply State.sampleFlit_kept | apply State.setMesh_kept | apply State.takeHeader_kept | apply Kept.ite)
    | (fail_if_no_progress with_reducible apply Kept.upd) | intro _ | extract_lets | split
theorem State.arriveFlit_kept {s t : State} (h : Kept s t) (d : Fin 4) (inbound : Bool) (f : LinkFlit) (noise : List
    (Fin 576)) :
    Kept s (State.arriveFlit t d inbound f noise) := by
  unfold State.arriveFlit
  repeat' first
    | (with_reducible first
        | exact h | assumption | apply Source.bytes_kept | apply State.badFlit_kept | apply State.takeFlit_kept
        | apply Kept.ite)
    | extract_lets | split
theorem State.passFlit_kept {s t : State} (h : Kept s t) (d : Fin 4) (inbound : Bool) (src : NetUnit) (dst : NetUnit)
    (vc : Fin 4) (payload : Bytes) (noise : List (Fin 576)) :
    Kept s (State.passFlit t d inbound src dst vc payload noise) := by
  unfold State.passFlit
  repeat' first
    | (with_reducible first | exact h | assumption | apply State.arriveFlit_kept | apply State.sendFlit_kept)
    | (fail_if_no_progress with_reducible apply Kept.upd) | extract_lets | split
theorem State.leaveEndpoint_kept {s t : State} (h : Kept s t) (d : Fin 4) (f : MeshFlit) :
    Kept s (State.leaveEndpoint t d f) := by
  unfold State.leaveEndpoint
  repeat' first
    | (with_reducible first | exact h | assumption | apply State.modBook_kept | apply Kept.ite)
    | (fail_if_no_progress with_reducible apply Kept.upd) | intro _ | extract_lets | split
theorem State.sendFromDie_kept {s t : State} (h : Kept s t) (d : Fin 4) (u : Fin 32) (dst : NetUnit) (vc : Fin 4) (payload : Bytes)
    (noise : List (Fin 576)) :
    Kept s (State.sendFromDie t d u dst vc payload noise) := by
  unfold State.sendFromDie
  repeat' first
    | (with_reducible first | exact h | assumption | apply State.passFlit_kept | apply State.modGroup_kept | apply Kept.ite)
    | (fail_if_no_progress with_reducible apply Kept.upd) | intro _ | extract_lets | split
theorem execFlit_kept {s t : State} (h : Kept s t) (f : Flit) :
    KeptOut s (execFlit f t) := by
  unfold execFlit
  repeat' first
    | (with_reducible first
        | exact h | assumption | apply State.sendFromDie_kept | apply State.arriveFlit_kept | apply State.enterMesh_kept
        | apply State.leaveEndpoint_kept
        | apply State.passFlit_kept | apply Kept.ite)
    | (fail_if_no_progress with_reducible apply Kept.upd) | extract_lets | split
    | (with_reducible first | apply KeptOut.next | apply KeptOut.ite)
theorem State.countReplay_kept {s t : State} (h : Kept s t) (d : Fin 4) (inbound : Bool) :
    Kept s (State.countReplay t d inbound) := by
  unfold State.countReplay
  repeat' first
    | (with_reducible first
        | exact h | assumption | apply State.degrade_kept | apply State.modDie_kept | apply State.netCount_kept
        | apply Kept.ite)
    | (fail_if_no_progress with_reducible apply Kept.upd) | intro _ | extract_lets | split
theorem execReplay_kept {s t : State} (h : Kept s t) (link : ReplayLink) (seq : BitVec 12) :
    KeptOut s (execReplay link seq t) := by
  unfold execReplay
  repeat' first
    | (with_reducible first
        | exact h | assumption | apply Source.bytes_kept | apply State.countReplay_kept | apply State.emit_kept
        | apply State.replayLink_kept | refine Kept.foldl _ _ ?_ (fun _ _ _ => ?_) | apply Kept.ite)
    | (fail_if_no_progress with_reducible apply Kept.upd) | intro _ | extract_lets | split
    | (with_reducible first | apply KeptOut.next | apply KeptOut.ite)
theorem execLinkSilent_kept {s t : State} (h : Kept s t) (d : Fin 4) :
    KeptOut s (execLinkSilent d t) := by
  unfold execLinkSilent
  repeat' first
    | (with_reducible first | exact h | assumption | apply State.linkFails_kept | apply Kept.ite) | split
    | (with_reducible first | apply KeptOut.next | apply KeptOut.ite)

/-! Machine/NetCmds.lean. -/

theorem cmdNetStatus_good : cmdNetStatus.Good := by
  refine ⟨fun j s t h => ?_, fun j v s t h => ?_⟩ <;> dsimp only [cmdNetStatus, CmdDef.plain]
  all_goals repeat' first
    | (with_reducible first
        | exact h | assumption | apply State.modDie_kept | refine Kept.forAll _ _ ?_ (fun _ _ _ => ?_) | apply Kept.ite)
    | (fail_if_no_progress with_reducible apply Kept.upd) | intro _ | extract_lets | split
    | (with_reducible first | apply Act.Keeps.done | apply Act.Keeps.close | apply Act.Keeps.stay | apply Act.keeps_ite)
theorem execNetStatus_kept {s t : State} (h : Kept s t) (p : Pkt) :
    KeptOut s (execNetStatus p t) := by
  unfold execNetStatus
  repeat' first
    | (with_reducible first | exact h | assumption | apply CmdDef.fetch_kept | apply KeptOut.next | apply KeptOut.ite)
    | exact cmdNetStatus_good
theorem cmdNetDieFence_good : cmdNetDieFence.Good := by
  refine ⟨fun j s t h => ?_, fun j v s t h => ?_⟩ <;> dsimp only [cmdNetDieFence, CmdDef.plain]
  all_goals repeat' first
    | (with_reducible first | exact h | assumption | apply State.fence_kept)
    | (fail_if_no_progress with_reducible apply Kept.upd) | intro _
    | (with_reducible first | apply Act.Keeps.done | apply Act.Keeps.close | apply Act.Keeps.stay | apply Act.keeps_ite)
theorem execNetDieFence_kept {s t : State} (h : Kept s t) (p : Pkt) :
    KeptOut s (execNetDieFence p t) := by
  unfold execNetDieFence
  repeat' first
    | (with_reducible first | exact h | assumption | apply CmdDef.fetch_kept | apply KeptOut.next | apply KeptOut.ite)
    | exact cmdNetDieFence_good
theorem cmdNetDieReset_good : cmdNetDieReset.Good := by
  refine ⟨fun j s t h => ?_, fun j v s t h => ?_⟩ <;> dsimp only [cmdNetDieReset, CmdDef.plain]
  all_goals repeat' first
    | (with_reducible first | exact h | assumption | apply State.dieReset_kept | apply State.fence_kept)
    | (fail_if_no_progress with_reducible apply Kept.upd) | intro _
    | (with_reducible first | apply Act.Keeps.done | apply Act.Keeps.close | apply Act.Keeps.stay | apply Act.keeps_ite)
theorem execNetDieReset_kept {s t : State} (h : Kept s t) (p : Pkt) :
    KeptOut s (execNetDieReset p t) := by
  unfold execNetDieReset
  repeat' first
    | (with_reducible first | exact h | assumption | apply CmdDef.fetch_kept | apply KeptOut.next | apply KeptOut.ite)
    | exact cmdNetDieReset_good
theorem State.answerTimeout_kept {s t : State} (h : Kept s t) (i : Island) (by_ : Waiter) :
    Kept s (State.answerTimeout t i by_) := by
  unfold State.answerTimeout
  repeat' first
    | (with_reducible first | exact h | assumption | apply State.commitClose_kept | apply State.emit_kept | apply Kept.ite)
    | (fail_if_no_progress with_reducible apply Kept.upd) | extract_lets | split
theorem execHandshakeTimeout_kept {s t : State} (h : Kept s t) (i : Island) (by_ : Waiter) :
    KeptOut s (execHandshakeTimeout i by_ t) := by
  unfold execHandshakeTimeout
  refine .next (State.answerTimeout_kept ?_ _ _)
  dsimp only
  split
  · exact State.fence_kept h _ _
  · exact h.upd
theorem execFenceOrder_kept {s t : State} (h : Kept s t) (d : Fin 4) :
    KeptOut s (execFenceOrder d t) := by
  unfold execFenceOrder
  repeat' first
    | (with_reducible first | exact h | assumption | apply State.cutDie_kept | apply Kept.ite) | split
    | (with_reducible first | apply KeptOut.next | apply KeptOut.ite)
theorem execLaneTrainingLost_kept {s t : State} (h : Kept s t) (d : Fin 4) :
    KeptOut s (execLaneTrainingLost d t) := by
  unfold execLaneTrainingLost
  repeat' first
    | (with_reducible first | exact h | assumption | apply State.cutDie_kept | apply Kept.ite) | split
    | (with_reducible first | apply KeptOut.next | apply KeptOut.ite)
theorem execDieClockLost_kept {s t : State} (h : Kept s t) (d : Fin 4) :
    KeptOut s (execDieClockLost d t) := by
  unfold execDieClockLost
  repeat' first
    | (with_reducible first | exact h | assumption | apply State.fence_kept | apply State.modDie_kept | apply Kept.ite)
    | (fail_if_no_progress with_reducible apply Kept.upd) | intro _ | split
    | (with_reducible first | apply KeptOut.next | apply KeptOut.ite)
theorem execLockMargin_kept {s t : State} (h : Kept s t) (d : Fin 4) (lane : BitVec 16) :
    KeptOut s (execLockMargin d lane t) := by
  unfold execLockMargin
  repeat' first
    | (with_reducible first
        | exact h | assumption | apply State.degradedEvent_kept | apply State.netCount_kept | apply Kept.ite)
    | extract_lets | split | (with_reducible first | apply KeptOut.next | apply KeptOut.ite)
theorem execLockLost_kept {s t : State} (h : Kept s t) (d : Fin 4) (lane : BitVec 16) :
    KeptOut s (execLockLost d lane t) := by
  unfold execLockLost
  repeat' first
    | (with_reducible first | exact h | assumption | apply State.loseLock_kept | apply Kept.ite) | split
    | (with_reducible first | apply KeptOut.next | apply KeptOut.ite)
theorem State.lockBegin_kept {s t : State} (h : Kept s t) (d : Fin 4) (x : LockJob) :
    Kept s (State.lockBegin t d x) := by
  unfold State.lockBegin
  repeat' first
    | (with_reducible first | exact h | assumption | apply State.dieReset_kept | apply State.modDie_kept | apply Kept.ite)
    | (fail_if_no_progress with_reducible apply Kept.upd) | intro _ | extract_lets | split
theorem cmdNetLaneRemap_good : cmdNetLaneRemap.Good := by
  refine ⟨fun j s t h => ?_, fun j v s t h => ?_⟩ <;> dsimp only [cmdNetLaneRemap, CmdDef.plain]
  all_goals repeat' first
    | (with_reducible first | exact h | assumption | apply State.lockBegin_kept)
    | (fail_if_no_progress with_reducible apply Kept.upd) | intro _ | extract_lets | split
    | (with_reducible first | apply Act.Keeps.done | apply Act.Keeps.close | apply Act.Keeps.stay | apply Act.keeps_ite)
theorem execNetLaneRemap_kept {s t : State} (h : Kept s t) (p : Pkt) :
    KeptOut s (execNetLaneRemap p t) := by
  unfold execNetLaneRemap
  repeat' first
    | (with_reducible first | exact h | assumption | apply CmdDef.fetch_kept | apply KeptOut.next | apply KeptOut.ite)
    | exact cmdNetLaneRemap_good
theorem cmdNetLatencyLock_good : cmdNetLatencyLock.Good := by
  refine ⟨fun j s t h => ?_, fun j v s t h => ?_⟩ <;> dsimp only [cmdNetLatencyLock, CmdDef.plain]
  all_goals repeat' first
    | (with_reducible first | exact h | assumption | apply State.lockBegin_kept)
    | (fail_if_no_progress with_reducible apply Kept.upd) | intro _ | extract_lets | split
    | (with_reducible first | apply Act.Keeps.done | apply Act.Keeps.close | apply Act.Keeps.stay | apply Act.keeps_ite)
theorem execNetLatencyLock_kept {s t : State} (h : Kept s t) (p : Pkt) :
    KeptOut s (execNetLatencyLock p t) := by
  unfold execNetLatencyLock
  repeat' first
    | (with_reducible first | exact h | assumption | apply CmdDef.fetch_kept | apply KeptOut.next | apply KeptOut.ite)
    | exact cmdNetLatencyLock_good
theorem State.trainFails_kept {s t : State} (h : Kept s t) (d : Fin 4) :
    Kept s (State.trainFails t d) := by
  unfold State.trainFails
  repeat' first
    | (with_reducible first
        | exact h | assumption | apply State.fence_kept | apply State.modDie_kept | apply State.raise_kept | apply Kept.ite)
    | (fail_if_no_progress with_reducible apply Kept.upd) | intro _ | extract_lets | split
theorem State.freshBooks_kept {s t : State} (h : Kept s t) (d : Fin 4) :
    Kept s (State.freshBooks t d) := by
  unfold State.freshBooks
  repeat' first
    | (with_reducible first
        | exact h | assumption | apply State.modBook_kept | apply Kept.ite | refine Kept.forAll _ _ ?_ (fun _ _ _ => ?_)
        | refine Kept.foldl _ _ ?_ (fun _ _ _ => ?_))
    | (fail_if_no_progress with_reducible apply Kept.upd) | intro _ | extract_lets | split
theorem State.trainHolds_kept {s t : State} (h : Kept s t) (d : Fin 4) (bad : List (Nat × Bool)) (half : Bool) :
    Kept s (State.trainHolds t d bad half) := by
  unfold State.trainHolds
  repeat' first
    | (with_reducible first | exact h | assumption | apply State.freshBooks_kept | apply State.modDie_kept)
    | (fail_if_no_progress with_reducible apply Kept.upd) | intro _ | extract_lets | split
theorem State.lockHolds_kept {s t : State} (h : Kept s t) (d : Fin 4) (rejoin : Bool) :
    Kept s (State.lockHolds t d rejoin) := by
  unfold State.lockHolds
  repeat' first
    | (with_reducible first
        | exact h | assumption | apply State.cutOff_kept | apply State.modDie_kept | apply State.modFab_kept
        | apply State.refreshDie_kept | apply Kept.ite)
    | (fail_if_no_progress with_reducible apply Kept.upd) | intro _ | extract_lets | split
theorem State.lockReply_kept {s t : State} (h : Kept s t) (d : Fin 4) (x : LockJob) (bad : List (Nat × Bool)) (failing : List
    (Nat × Bool)) :
    Kept s (State.lockReply t d x bad failing) := by
  unfold State.lockReply
  repeat' first
    | (with_reducible first
        | exact h | assumption | apply State.commitDone_kept | apply State.nvCommand_kept | apply finish_kept | apply Kept.ite)
    | (fail_if_no_progress with_reducible apply Kept.upd) | extract_lets | split
theorem State.lockEnd_kept {s t : State} (h : Kept s t) (d : Fin 4) (x : LockJob) (r : LockResult) :
    Kept s (State.lockEnd t d x r) := by
  unfold State.lockEnd
  repeat' first
    | (with_reducible first
        | exact h | assumption | apply State.lockHolds_kept | apply State.lockReply_kept | apply State.modDie_kept
        | apply State.trainFails_kept | apply State.trainHolds_kept | apply Kept.ite)
    | (fail_if_no_progress with_reducible apply Kept.upd) | intro _ | extract_lets | split
theorem execLatencyLockEnd_kept {s t : State} (h : Kept s t) (d : Fin 4) (r : LockResult) :
    KeptOut s (execLatencyLockEnd d r t) := by
  unfold execLatencyLockEnd
  repeat' first
    | (with_reducible first
        | exact h | assumption | apply State.bootImage_kept | apply State.bootStep_kept | apply State.lockEnd_kept
        | apply Kept.ite)
    | (fail_if_no_progress with_reducible apply Kept.upd) | extract_lets | split
    | (with_reducible first | apply KeptOut.next | apply KeptOut.ite)
theorem State.auditEvent_kept {s t : State} (h : Kept s t)  :
    Kept s (State.auditEvent t) := by
  unfold State.auditEvent
  repeat' first
    | (with_reducible first | exact h | assumption | apply State.raise_kept)
    | (fail_if_no_progress with_reducible apply Kept.upd) | split
theorem cmdNetCreditAudit_good : cmdNetCreditAudit.Good := by
  refine ⟨fun j s t h => ?_, fun j v s t h => ?_⟩ <;> dsimp only [cmdNetCreditAudit, CmdDef.plain]
  all_goals repeat' first
    | (with_reducible first | exact h | assumption) | (fail_if_no_progress with_reducible apply Kept.upd) | intro _
    | (with_reducible first | apply Act.Keeps.done | apply Act.Keeps.close | apply Act.Keeps.stay | apply Act.keeps_ite)
theorem execNetCreditAudit_kept {s t : State} (h : Kept s t) (p : Pkt) :
    KeptOut s (execNetCreditAudit p t) := by
  unfold execNetCreditAudit
  repeat' first
    | (with_reducible first | exact h | assumption | apply CmdDef.fetch_kept | apply KeptOut.next | apply KeptOut.ite)
    | exact cmdNetCreditAudit_good
theorem execAuditDrained_kept {s t : State} (h : Kept s t) (drained : Bool) : KeptOut s (execAuditDrained drained t) := by
  unfold execAuditDrained
  refine .next ?_
  split
  · exact h
  extract_lets c s1 u
  refine .ite h ?_
  have h1 : Kept s s1 := h.upd
  have hu : Kept s u := by
    show Kept s (match s1.job? _ with
      | none => s1
      | some j => _)
    split
    · exact h1
    · exact .ite (State.commitDone_kept (State.auditEvent_kept h1) _ _) (State.commitClose_kept h1 _ _ _ _)
  clear_value u
  exact .ite (Kept.forAll _ _ hu fun _ _ hv => State.flushLink_kept hv _) hu

/-! Machine/SecCmds.lean. -/

theorem cmdSecAttest_good : cmdSecAttest.Good := by
  refine ⟨fun j s t h => ?_, fun j v s t h => ?_⟩ <;> dsimp only [cmdSecAttest, CmdDef.plain]
  all_goals repeat' first
    | (with_reducible first | exact h | assumption | apply CmdDef.take_kept) | intro _ | extract_lets | split
    | (with_reducible first | apply Act.Keeps.done | apply Act.Keeps.close | apply Act.Keeps.stay | apply Act.keeps_ite)
theorem execSecAttest_kept {s t : State} (h : Kept s t) (p : Pkt) :
    KeptOut s (execSecAttest p t) := by
  unfold execSecAttest
  repeat' first
    | (with_reducible first | exact h | assumption | apply CmdDef.fetch_kept | apply KeptOut.next | apply KeptOut.ite)
    | exact cmdSecAttest_good
theorem State.bundleOf_kept {s t : State} (h : Kept s t) (j : Job) : Kept s (State.bundleOf t j).1 := by
  unfold State.bundleOf
  extract_lets a len
  split
  · exact h
  split
  · exact h
  · exact State.readFor_kept h _ _ _ _ _
theorem enrolAct_kept {s t : State} (h : Kept s t) (j : Job) : (enrolAct j t).Keeps s := by
  unfold enrolAct
  split
  next e =>
  have h1 := Kept.prod1 (State.bundleOf_kept h j) e
  split
  · exact .close h1 _ _ _
  · exact State.nvCommand_kept h1 _ _ _ _
theorem cmdSecOwnerEnrol_good : cmdSecOwnerEnrol.Good := by
  refine ⟨fun j s t h => ?_, fun j v s t h => ?_⟩ <;> dsimp only [cmdSecOwnerEnrol, CmdDef.plain]
  all_goals repeat' first
    | (with_reducible first | exact h | assumption | apply enrolAct_kept | apply Kept.ite)
    | (fail_if_no_progress with_reducible apply Kept.upd) | intro _ | split
    | (with_reducible first | apply Act.Keeps.done | apply Act.Keeps.close | apply Act.Keeps.stay | apply Act.keeps_ite)
theorem execSecOwnerEnrol_kept {s t : State} (h : Kept s t) (p : Pkt) :
    KeptOut s (execSecOwnerEnrol p t) := by
  unfold execSecOwnerEnrol
  repeat' first
    | (with_reducible first | exact h | assumption | apply CmdDef.fetch_kept | apply KeptOut.next | apply KeptOut.ite)
    | exact cmdSecOwnerEnrol_good
theorem cmdSecCounterAdvance_good : cmdSecCounterAdvance.Good := by
  refine ⟨fun j s t h => ?_, fun j v s t h => ?_⟩ <;> dsimp only [cmdSecCounterAdvance, CmdDef.plain]
  all_goals repeat' first
    | (with_reducible first | exact h | assumption | apply State.nvCommand_kept | apply Kept.ite)
    | (fail_if_no_progress with_reducible apply Kept.upd) | intro _ | extract_lets | split
    | (with_reducible first | apply Act.Keeps.done | apply Act.Keeps.close | apply Act.Keeps.stay | apply Act.keeps_ite)
theorem execSecCounterAdvance_kept {s t : State} (h : Kept s t) (p : Pkt) :
    KeptOut s (execSecCounterAdvance p t) := by
  unfold execSecCounterAdvance
  repeat' first
    | (with_reducible first | exact h | assumption | apply CmdDef.fetch_kept | apply KeptOut.next | apply KeptOut.ite)
    | exact cmdSecCounterAdvance_good
theorem cmdSecNvStatus_good : cmdSecNvStatus.Good := by
  refine ⟨fun j s t h => ?_, fun j v s t h => ?_⟩ <;> dsimp only [cmdSecNvStatus, CmdDef.plain]
  all_goals repeat' first
    | (with_reducible first | exact h | assumption | refine Kept.foldl _ _ ?_ (fun _ _ _ => ?_)) | intro _
    | (with_reducible first | apply Act.Keeps.done | apply Act.Keeps.close | apply Act.Keeps.stay | apply Act.keeps_ite)
theorem execSecNvStatus_kept {s t : State} (h : Kept s t) (p : Pkt) :
    KeptOut s (execSecNvStatus p t) := by
  unfold execSecNvStatus
  repeat' first
    | (with_reducible first | exact h | assumption | apply CmdDef.fetch_kept | apply KeptOut.next | apply KeptOut.ite)
    | exact cmdSecNvStatus_good
theorem refreshAct_kept {s t : State} (h : Kept s t) (j : Job) :
    (refreshAct j t).Keeps s := by
  unfold refreshAct
  repeat' first
    | (with_reducible first | exact h | assumption) | (fail_if_no_progress with_reducible apply Kept.upd) | intro _
    | extract_lets | split
    | (with_reducible first | apply Act.Keeps.done | apply Act.Keeps.close | apply Act.Keeps.stay | apply Act.keeps_ite)
theorem cmdSecNvRefresh_good : cmdSecNvRefresh.Good := by
  refine ⟨fun j s t h => ?_, fun j v s t h => ?_⟩ <;> dsimp only [cmdSecNvRefresh, CmdDef.plain]
  all_goals repeat' with_reducible first | exact h | assumption | apply refreshAct_kept | apply Act.Keeps.done | apply Act.Keeps.close | apply Act.Keeps.stay | apply Act.keeps_ite
theorem execSecNvRefresh_kept {s t : State} (h : Kept s t) (p : Pkt) :
    KeptOut s (execSecNvRefresh p t) := by
  unfold execSecNvRefresh
  repeat' first
    | (with_reducible first | exact h | assumption | apply CmdDef.fetch_kept | apply KeptOut.next | apply KeptOut.ite)
    | exact cmdSecNvRefresh_good
theorem State.nvHead_kept {s t : State} (h : Kept s t) (x : Option NvJob) :
    Kept s (State.nvHead t x) := by
  unfold State.nvHead
  repeat' first | (with_reducible first | exact h | assumption) | (fail_if_no_progress with_reducible apply Kept.upd)
theorem State.nvCommit_kept {s t : State} (h : Kept s t) (x : NvJob) (v : Option Verdict) :
    Kept s (State.nvCommit t x v) := by
  unfold State.nvCommit
  repeat' first
    | (with_reducible first | exact h | assumption | apply State.commitClose_kept | apply State.commitDone_kept)
    | (fail_if_no_progress with_reducible apply Kept.upd) | split
theorem State.nvWritten_kept {s t : State} (h : Kept s t)  :
    Kept s (State.nvWritten t) := by
  unfold State.nvWritten
  repeat' first
    | (with_reducible first
        | exact h | assumption | apply State.nvApply_kept | apply State.nvCommit_kept | apply State.nvHead_kept
        | apply State.setNvBlock_kept | apply State.wornEvent_kept | apply Kept.ite)
    | (fail_if_no_progress with_reducible apply Kept.upd) | extract_lets | split
theorem execNvWriteEnd_kept {s t : State} (h : Kept s t)  :
    KeptOut s (execNvWriteEnd t) := by
  unfold execNvWriteEnd
  repeat' first
    | (with_reducible first | exact h | assumption | apply State.nvWritten_kept | apply Kept.ite)
    | (fail_if_no_progress with_reducible apply Kept.upd) | extract_lets | split
    | (with_reducible first | apply KeptOut.next | apply KeptOut.ite)
theorem cmdSecCertGet_good : cmdSecCertGet.Good := by
  refine ⟨fun j s t h => ?_, fun j v s t h => ?_⟩ <;> dsimp only [cmdSecCertGet, CmdDef.plain]
  all_goals repeat' first
    | (with_reducible first | exact h | assumption) | (fail_if_no_progress with_reducible apply Kept.upd) | intro _
    | extract_lets | split
    | (with_reducible first | apply Act.Keeps.done | apply Act.Keeps.close | apply Act.Keeps.stay | apply Act.keeps_ite)
theorem execSecCertGet_kept {s t : State} (h : Kept s t) (p : Pkt) :
    KeptOut s (execSecCertGet p t) := by
  unfold execSecCertGet
  repeat' first
    | (with_reducible first | exact h | assumption | apply CmdDef.fetch_kept | apply KeptOut.next | apply KeptOut.ite)
    | exact cmdSecCertGet_good
theorem execHealthTestFailure_kept {s t : State} (h : Kept s t)  :
    KeptOut s (execHealthTestFailure t) := by
  unfold execHealthTestFailure
  repeat' first
    | (with_reducible first | exact h | assumption | apply State.alarm_kept | apply Kept.ite)
    | (fail_if_no_progress with_reducible apply Kept.upd) | split
    | (with_reducible first | apply KeptOut.next | apply KeptOut.ite)
theorem execChallengeExpiry_kept {s t : State} (h : Kept s t)  :
    KeptOut s (execChallengeExpiry t) := by
  unfold execChallengeExpiry
  repeat' first
    | (with_reducible first | exact h | assumption) | (fail_if_no_progress with_reducible apply Kept.upd)
    | (with_reducible first | apply KeptOut.next | apply KeptOut.ite)

/-! Machine/Queen.lean. -/

theorem State.abortStart_kept {s t u : State} (h : Kept s t) (j : Job) (e : State.abortStart t j = some u) : Kept s u := by
  unfold State.abortStart at e
  obtain ⟨x, -, rfl⟩ := Option.map_eq_some_iff.1 e
  exact State.commitClose_kept (State.dropStart_kept h _) _ _ _ _
theorem State.abortStep_kept {s t : State} (h : Kept s t) (q_ : Job) :
    Kept s (State.abortStep t q_) := by
  unfold State.abortStep
  repeat' first
    | (with_reducible first
        | exact h | assumption | apply State.commitClose_kept | apply State.haltWorker_kept | apply State.modWorker_kept
        | apply Kept.ite)
    | (fail_if_no_progress with_reducible apply Kept.upd) | intro _ | extract_lets | split
theorem State.abortRunning_kept {s t u : State} (h : Kept s t) (j : Job)
    (e : State.abortRunning t j = some u) : Kept s u := by
  unfold State.abortRunning at e
  split at e
  · cases e; exact State.commitClose_kept h.upd _ _ _ _
  · obtain ⟨x, -, rfl⟩ := Option.map_eq_some_iff.1 e
    exact State.commitClose_kept (State.dropReadback_kept h _) _ _ _ _
  · exact State.abortStart_kept h j e
  · cases e; exact State.commitClose_kept (State.putSolve_kept h _ _) _ _ _ _
  · unfold State.abortRekey at e
    split at e
    · split at e
      · cases e
      · cases e
        exact State.commitClose_kept (State.serveWaiting_kept (State.modMem_kept h _ fun w => w)) _ _ _ _
    · cases e
  · cases e; exact State.abortStep_kept h _
  · cases e
theorem State.abortLater_kept {s t : State} (h : Kept s t) (q_ : Job) :
    Kept s (State.abortLater t q_) := by
  unfold State.abortLater
  repeat' first
    | (with_reducible first
        | exact h | assumption | apply CmdDef.run_kept | apply State.bistSettle_kept | apply State.bistSkip_kept
        | apply State.drawFree_kept | apply State.sendForward_kept | apply Kept.ite)
    | (fail_if_no_progress with_reducible apply Kept.upd) | intro _ | extract_lets | split
    | exact Kept.prod2 (State.drawFree_kept (by first | assumption | exact Kept.refl _)) (by assumption) | dsimp only
theorem sysAbortAct_kept {s t : State} (h : Kept s t) (j : Job) : (sysAbortAct j t).Keeps s := by
  unfold sysAbortAct
  extract_lets tag await
  split
  · exact .close h _ _ _
  next x _ =>
  split
  · exact .done (State.abortJob_kept h _) _
  · exact .done (State.abortJob_kept h _) _
  · refine .done ?_ _
    cases e : t.abortStart x with
    | none => exact State.abortJob_kept h _
    | some u => exact State.abortStart_kept h _ e
  · split
    · next e => exact .done (State.abortRunning_kept h _ e) _
    · exact .stay (State.abortLater_kept (State.setJob_kept h _) _)
theorem cmdSysAbort_good : cmdSysAbort.Good := by
  refine ⟨fun j s t h => ?_, fun j v s t h => ?_⟩ <;> dsimp only [cmdSysAbort, CmdDef.plain]
  all_goals repeat' first
    | (with_reducible first | exact h | assumption | apply sysAbortAct_kept | apply Kept.ite)
    | (fail_if_no_progress with_reducible apply Kept.upd) | intro _ | split
    | (with_reducible first | apply Act.Keeps.done | apply Act.Keeps.close | apply Act.Keeps.stay | apply Act.keeps_ite)
theorem execSysAbort_kept {s t : State} (h : Kept s t) (p : Pkt) :
    KeptOut s (execSysAbort p t) := by
  unfold execSysAbort
  repeat' first
    | (with_reducible first | exact h | assumption | apply CmdDef.fetch_kept | apply KeptOut.next | apply KeptOut.ite)
    | exact cmdSysAbort_good
theorem cmdsA_good : ∀ d ∈ cmdsA, CmdDef.Good d := by
  simp only [cmdsA, List.forall_mem_cons]
  exact ⟨cmdSysNop_good, cmdSysIdentify_good, cmdSysInventory_good, cmdSysAbort_good, cmdSysReset_good, cmdSysStatus_good,
    cmdModeGet_good, cmdModeSet_good, cmdPwrDomainSet_good, cmdPwrDomainGet_good, cmdPwrBudgetSet_good, cmdPwrLimitsSet_good,
    cmdPwrTelemetry_good, cmdClkStatus_good, cmdClkSelect_good, cmdClkOutSet_good, cmdClkMeasure_good, cmdCfgStage_good,
    cmdCfgLoad_good, cmdCfgRegionLoad_good, cmdCfgRegionStart_good, cmdCfgRegionStop_good, cmdCfgReadback_good,
    cmdCfgBootRecordSet_good, cmdCfgProbeSet_good, cmdPortSet_good, cmdPortGet_good, cmdPortStart_good, cmdPortStop_good,
    cmdPortLinkStatus_good, cmdPortDetect_good, cmdPortPrbs_good, fun _ h => nomatch h⟩
theorem cmdsB_good : ∀ d ∈ cmdsB, CmdDef.Good d := by
  simp only [cmdsB, List.forall_mem_cons]
  exact ⟨cmdTimTimingSet_good, cmdTimDeskew_good, cmdTimSiteMap_good, cmdWorkLoad_good, cmdWorkStart_good, cmdWorkStop_good,
    cmdWorkStatus_good, cmdWorkStreamSet_good, cmdWorkSignal_good, cmdFailSet_good, cmdFailCounts_good, cmdFailClear_good,
    cmdBroodGeometry_good, cmdBroodPartition_good, cmdBroodSolve_good, cmdBroodResult_good, cmdBroodClear_good,
    cmdMemStatus_good, cmdMemTrain_good, cmdMemThaw_good, cmdMemRekey_good, cmdMemCopy_good, cmdMemFill_good,
    cmdNetStatus_good, cmdNetLaneRemap_good, cmdNetCreditAudit_good, cmdNetDieReset_good, cmdNetDieFence_good,
    cmdNetLatencyLock_good, fun _ h => nomatch h⟩
theorem cmdsC_good : ∀ d ∈ cmdsC, CmdDef.Good d := by
  simp only [cmdsC, List.mem_append, or_imp, forall_and, List.forall_mem_cons]
  exact ⟨⟨⟨cmdSwarmNeighbours_good, cmdSwarmIdSet_good, cmdSwarmRouteSet_good, cmdSwarmLinkSet_good, cmdSwarmForward_good,
    cmdTimeGet_good, cmdTimeSet_good, cmdTimeAdjust_good, cmdTimeSyncSet_good, cmdTimeJumpLimit_good, cmdSecAttest_good,
    cmdSecOwnerEnrol_good, cmdSecCounterAdvance_good, cmdSecNvStatus_good, cmdSecNvRefresh_good, cmdSecCertGet_good,
    cmdBistRun_good, cmdBistResult_good, cmdBistCommit_good, cmdBistExpectSet_good, fun _ h => nomatch h⟩, dbgCmds_good⟩,
    cmdEvtMaskSet_good, cmdEvtRouteSet_good, cmdEvtStatus_good, cmdEvtAck_good, fun _ h => nomatch h⟩
theorem cmdOf_good (op : BitVec 16) : (cmdOf op).Good := by
  unfold cmdOf
  cases e : allCmds.find? fun d => d.code = op with
  | none => exact cmdSysNop_good
  | some d =>
    have hd := List.mem_of_find?_eq_some e
    unfold allCmds at hd
    rcases List.mem_append.1 hd with hd | hd
    · rcases List.mem_append.1 hd with hd | hd
      · exact cmdsA_good d hd
      · exact cmdsB_good d hd
    · exact cmdsC_good d hd
theorem State.deliver_kept {s t : State} (h : Kept s t) (path : Path) (p : Pkt) : Kept s (State.deliver t path p) :=
  CmdDef.take_kept h (cmdOf_good _) _ _
theorem State.instant_kept {s t : State} (h : Kept s t) (k : JobKey) : Kept s (State.instant t k) := by
  unfold State.instant
  split
  · exact h
  extract_lets d able
  have hd : d.Good := cmdOf_good _
  split
  · refine .ite h ?_
    split
    · exact State.refuse_kept (hd.refused _ _ _ _ h) _ _
    · exact CmdDef.run_kept h hd _
  · exact h
theorem execScheduledInstant_kept {s t : State} (h : Kept s t) (k : JobKey) : KeptOut s (execScheduledInstant k t) :=
  .next (State.instant_kept h k)
theorem State.instants_kept {s t : State} (h : Kept s t)  :
    Kept s (State.instants t) := by
  unfold State.instants
  repeat' first
    | (with_reducible first | exact h | assumption | apply State.instant_kept | refine Kept.foldl _ _ ?_ (fun _ _ _ => ?_))
    | intro _
theorem State.runAfter_kept {s t : State} (h : Kept s t) (a : After) :
    Kept s (State.runAfter t a) := by
  unfold State.runAfter
  repeat' first
    | (with_reducible first | exact h | assumption | apply State.hibernateBegin_kept | apply Kept.ite)
    | (fail_if_no_progress with_reducible apply Kept.upd) | split
theorem execReplyWrite_kept {s t : State} (h : Kept s t) : KeptOut s (execReplyWrite t) := by
  unfold execReplyWrite
  refine .next ?_
  split
  · exact h
  next r l _ =>
  refine .ite' (fun _ => h) fun c => ?_
  extract_lets tail ws c1 c2 s1 s2
  have hr : r.slots ≤ t.hif.repFree := by
    simp only [Bool.not_eq_true', Bool.not_eq_false, Bool.and_eq_true, decide_eq_true_eq] at c
    exact c.2
  have h1 : Kept s s1 := Kept.updHif (hif := { t.hif with repTail := tail + BitVec.ofNat 32 r.slots }) h fun q => by
    refine ⟨q.sub, ⟨q.rep.inSize, q.rep.onPage, fun en => ?_⟩, q.evt⟩
    have hu := q.rep.inRoom en
    unfold Hif.repFree at hr
    show (t.hif.repTail + BitVec.ofNat 32 r.slots - t.hif.repBell).toNat ≤ 2 ^ t.hif.repSize.toNat
    rw [show t.hif.repTail + BitVec.ofNat 32 r.slots - t.hif.repBell = (t.hif.repTail - t.hif.repBell) + BitVec.ofNat 32 r.slots by
      bv_omega, BitVec.toNat_add]
    have := Nat.mod_le r.slots (2 ^ 32)
    exact Nat.le_trans (Nat.mod_le _ _) (by rw [BitVec.toNat_ofNat]; omega)
  exact State.runAfter_kept (State.signal_kept (State.emit_kept h1 _) _) _
theorem State.i2cTouch_kept {s t : State} (h : Kept s t)  :
    Kept s (State.i2cTouch t) := by
  unfold State.i2cTouch
  repeat' with_reducible first | exact h | assumption | apply State.wakeMatch_kept
theorem State.pecError_kept {s t : State} (h : Kept s t)  :
    Kept s (State.pecError t) := by
  unfold State.pecError
  repeat' first | (with_reducible first | exact h | assumption) | (fail_if_no_progress with_reducible apply Kept.upd)
theorem State.i2cRead_kept {s t : State} (h : Kept s t) (ptr : Byte) (data : Bytes) :
    Kept s (State.i2cRead t ptr data) := by
  unfold State.i2cRead
  repeat' with_reducible first | exact h | assumption | apply State.emit_kept
theorem State.badLength_kept {s t : State} (h : Kept s t) (path : Path) (p : Pkt) :
    Kept s (State.badLength t path p) := by
  unfold State.badLength
  repeat' first
    | (with_reducible first | exact h | assumption | apply State.pushReply_kept | apply Kept.ite) | extract_lets | split
theorem State.i2cPacket_kept {s t : State} (h : Kept s t) (data : Bytes) (pec : Byte) (host : Option Bytes) :
    Kept s (State.i2cPacket t data pec host) := by
  unfold State.i2cPacket
  repeat' first
    | (with_reducible first
        | exact h | assumption | apply State.badLength_kept | apply State.deliver_kept | apply State.emit_kept
        | apply State.i2cTouch_kept | apply State.pecError_kept | apply Kept.ite)
    | extract_lets | split
theorem State.i2cReply_kept {s t : State} (h : Kept s t) (n : Nat) : Kept s (State.i2cReply t n) := by
  unfold State.i2cReply
  repeat' first
    | (with_reducible first | exact h | assumption | apply State.i2cRead_kept | apply State.i2cTouch_kept | apply Kept.ite)
    | (fail_if_no_progress with_reducible apply Kept.upd) | extract_lets | split
theorem State.i2cUnstated_kept {s t : State} (h : Kept s t) (n : Nat) : Kept s (State.i2cUnstated t n) :=
  State.i2cRead_kept h.upd _ _
theorem execI2cPacketWrite_kept {s t : State} (h : Kept s t) (data : Bytes) (pec : Byte) (host : Option Bytes) :
    KeptOut s (execI2cPacketWrite data pec host t) :=
  .next (State.i2cPacket_kept h _ _ _)
theorem execI2cReplyRead_kept {s t : State} (h : Kept s t) (n : Nat) : KeptOut s (execI2cReplyRead n t) :=
  .next (State.i2cReply_kept h _)
theorem execRscStatusRead_kept {s t : State} (h : Kept s t) (ptr : Byte) (n : Nat) :
    KeptOut s (execRscStatusRead ptr n t) := by
  unfold execRscStatusRead
  repeat' first
    | (with_reducible first
        | exact h | assumption | apply State.i2cReply_kept | apply State.i2cUnstated_kept | apply CmdDef.take_kept
        | apply State.emit_kept | apply State.i2cRead_kept
        | apply State.i2cTouch_kept | apply Kept.ite)
    | (fail_if_no_progress with_reducible apply Kept.upd) | extract_lets | split
    | (with_reducible first | apply KeptOut.next | apply KeptOut.ite)
theorem State.rscWrite_kept {s t : State} (h : Kept s t) (ptr : Byte) (data : Bytes) (pec : Byte) :
    Kept s (State.rscWrite t ptr data pec) := by
  unfold State.rscWrite
  repeat' first
    | (with_reducible first
        | exact h | assumption | apply State.i2cPacket_kept | apply CmdDef.take_kept | apply State.ackEvents_kept
        | apply State.emit_kept
        | apply State.i2cTouch_kept | apply State.pecError_kept | apply Kept.ite)
    | split
theorem execRegisterWrite_kept {s t : State} (h : Kept s t) (a : RegAccess) : KeptOut s (execRegisterWrite a t) := by
  refine .next ?_
  split
  · exact State.overPcie_kept h (State.barWrite_kept h _ _)
  · exact State.overPcie_kept h (State.emit_kept h _)
  · exact State.rscWrite_kept h _ _ _
  · exact State.clearStatus_kept h _ _
theorem execRscEvtAck_kept {s t : State} (h : Kept s t) (hi : Bool) (v : Word) (pec : Byte) :
    KeptOut s (execRscEvtAck hi v pec t) := by
  unfold execRscEvtAck
  repeat' first
    | (with_reducible first
        | exact h | assumption | apply State.ackEvents_kept | apply State.i2cTouch_kept | apply State.pecError_kept
        | apply Kept.ite)
    | split | (with_reducible first | apply KeptOut.next | apply KeptOut.ite)
theorem State.rscReset_kept {s t : State} (h : Kept s t) (v : Word) (pec : Byte) (scope : Nat) (reset : State → State)
    (hr : ∀ u, Kept s u → Kept s (reset u)) : Kept s (State.rscReset t v pec scope reset) :=
  .ite h (.ite (State.i2cTouch_kept (State.pecError_kept h)) (.ite (State.i2cTouch_kept h) (hr _ (State.i2cTouch_kept h))))
theorem execRscResetQueen_kept {s t : State} (h : Kept s t) (v : Word) (pec : Byte) :
    KeptOut s (execRscResetQueen v pec t) := by
  unfold execRscResetQueen
  repeat' with_reducible first
    | exact h | assumption | apply State.raiseQueen_kept | apply State.rscReset_kept | apply KeptOut.next | apply KeptOut.ite
theorem execRscResetDevice_kept {s t : State} (h : Kept s t) (v : Word) (pec : Byte) (bootsel : BitVec 2) :
    KeptOut s (execRscResetDevice v pec bootsel t) := by
  unfold execRscResetDevice
  repeat' first
    | (with_reducible first | exact h | assumption | apply State.raiseDevice_kept | apply State.rscReset_kept) | intro _
    | (with_reducible first | apply KeptOut.next | apply KeptOut.ite)
theorem execBuzz_kept {s t : State} (h : Kept s t) (l : Fin 16) (mask : Byte) (origin : Byte) (seq : Byte) :
    KeptOut s (execBuzz l mask origin seq t) := by
  unfold execBuzz
  repeat' first
    | (with_reducible first
        | exact h | assumption | apply State.emitLink_kept | apply State.emit_kept | apply State.fireMembers_kept
        | refine Kept.forAll _ _ ?_ (fun _ _ _ => ?_) | refine Kept.foldl _ _ ?_ (fun _ _ _ => ?_) | apply Kept.ite)
    | (fail_if_no_progress with_reducible apply Kept.upd) | intro _ | extract_lets | split
    | (with_reducible first | apply KeptOut.next | apply KeptOut.ite)
theorem State.takeForwarded_kept {s t : State} (h : Kept s t) (path : Path) (p : Pkt) (size : Nat) :
    Kept s (State.takeForwarded t path p size) := by
  unfold State.takeForwarded
  repeat' first
    | (with_reducible first
        | exact h | assumption | apply State.badLength_kept | apply State.deliver_kept | apply State.pushReply_kept
        | apply Kept.ite)
    | extract_lets | split
theorem execForwardedCommand_kept {s t : State} (h : Kept s t) (l : Fin 16) (host : Option Bytes) :
    KeptOut s (execForwardedCommand l host t) := by
  unfold execForwardedCommand
  repeat' first
    | (with_reducible first
        | exact h | assumption | apply State.modLink_kept | apply State.takeForwarded_kept | apply Kept.ite)
    | (fail_if_no_progress with_reducible apply Kept.upd) | intro _ | extract_lets | split
    | (with_reducible first | apply KeptOut.next | apply KeptOut.ite)
theorem State.beginWaiting_kept {s t : State} (h : Kept s t) : Kept s (State.beginWaiting t) := by
  unfold State.beginWaiting
  split
  · exact h
  split
  · exact h
  · exact CmdDef.begin_kept h (cmdOf_good _) _
theorem State.resumeMemory_kept {s t : State} (h : Kept s t) : Kept s (State.resumeMemory t) := by
  unfold State.resumeMemory
  split
  · exact h
  split
  · exact h
  · exact CmdDef.run_kept h (cmdOf_good _) _
theorem State.rekeyStep_kept {s t : State} (h : Kept s t)  :
    Kept s (State.rekeyStep t) := by
  unfold State.rekeyStep
  repeat' first
    | (with_reducible first | exact h | assumption | apply State.modMem_kept)
    | (fail_if_no_progress with_reducible apply Kept.upd) | exact Mem.wf_congr rfl rfl | intro _ | split
theorem State.runDue_kept {s t : State} (h : Kept s t)  :
    Kept s (State.runDue t) := by
  unfold State.runDue
  repeat' first
    | (with_reducible first | exact h | assumption | apply State.runAfter_kept)
    | (fail_if_no_progress with_reducible apply Kept.upd) | split
theorem State.tick_kept {s t : State} (h : Kept s t) : Kept s (State.tick t) := by
  unfold State.tick
  refine .ite h ?_
  extract_lets coast runs v0 t0 counts owns c s1 s2 s3 s4 s5
  have h1 : Kept s s1 := ⟨h.pending, h.memory, h.rings, fun l => by
    show ∀ b : Fin 8, (if runs then t.tb.map (TimeBase.tick coast) else t.tb)[b.val].ns.toNat < 1000000000
    split
    · exact State.timeLegal_map (s := t) (f := TimeBase.tick coast) (fun x _ => TimeBase.withValue_ns x _) (h.time l)
    · exact h.time l⟩
  have h2 : Kept s s2 := .ite (Kept.forAll _ _ h1 fun _ _ hu => State.clkOutCycle_kept hu _) h1
  have h3 : Kept s s3 := .ite (State.startTicks_kept h2 _ _) h2
  have h4 : Kept s s4 := .ite (State.solveStep_kept h3) h3
  have h5 : Kept s s5 := State.readbackStep_kept (State.rekeyStep_kept (State.meshTick_kept (State.nextCycle_kept h4)))
  exact State.beginWaiting_kept (State.instants_kept (State.runDue_kept (State.resumeMemory_kept h5)))

/-! Machine/WorkerAlu.lean. -/

theorem opNop_good : OpMeaning.Good opNop := by
  intro c s t h
  unfold opNop
  repeat' first
    | exact h | (with_reducible first | assumption | apply Kept.ite) | (fail_if_no_progress with_reducible apply Kept.upd)
    | split | dsimp only
theorem opAdd_good : OpMeaning.Good opAdd := by
  intro c s t h
  unfold opAdd
  repeat' first
    | exact h | (with_reducible first | assumption | apply Kept.ite) | (fail_if_no_progress with_reducible apply Kept.upd)
    | split | dsimp only
theorem opSub_good : OpMeaning.Good opSub := by
  intro c s t h
  unfold opSub
  repeat' first
    | exact h | (with_reducible first | assumption | apply Kept.ite) | (fail_if_no_progress with_reducible apply Kept.upd)
    | split | dsimp only
theorem opAdc_good : OpMeaning.Good opAdc := by
  intro c s t h
  unfold opAdc
  repeat' first
    | exact h | (with_reducible first | assumption | apply Kept.ite) | (fail_if_no_progress with_reducible apply Kept.upd)
    | split | dsimp only
theorem opSbc_good : OpMeaning.Good opSbc := by
  intro c s t h
  unfold opSbc
  repeat' first
    | exact h | (with_reducible first | assumption | apply Kept.ite) | (fail_if_no_progress with_reducible apply Kept.upd)
    | split | dsimp only
theorem opAnd_good : OpMeaning.Good opAnd := by
  intro c s t h
  unfold opAnd
  repeat' first
    | exact h | (with_reducible first | assumption | apply Kept.ite) | (fail_if_no_progress with_reducible apply Kept.upd)
    | split | dsimp only
theorem opOr_good : OpMeaning.Good opOr := by
  intro c s t h
  unfold opOr
  repeat' first
    | exact h | (with_reducible first | assumption | apply Kept.ite) | (fail_if_no_progress with_reducible apply Kept.upd)
    | split | dsimp only
theorem opXor_good : OpMeaning.Good opXor := by
  intro c s t h
  unfold opXor
  repeat' first
    | exact h | (with_reducible first | assumption | apply Kept.ite) | (fail_if_no_progress with_reducible apply Kept.upd)
    | split | dsimp only
theorem opAndn_good : OpMeaning.Good opAndn := by
  intro c s t h
  unfold opAndn
  repeat' first
    | exact h | (with_reducible first | assumption | apply Kept.ite) | (fail_if_no_progress with_reducible apply Kept.upd)
    | split | dsimp only
theorem opCmp_good : OpMeaning.Good opCmp := by
  intro c s t h
  unfold opCmp
  repeat' first
    | exact h | (with_reducible first | assumption | apply Kept.ite) | (fail_if_no_progress with_reducible apply Kept.upd)
    | split | dsimp only
theorem opLsl_good : OpMeaning.Good opLsl := by
  intro c s t h
  unfold opLsl
  repeat' first
    | exact h | (with_reducible first | assumption | apply Kept.ite) | (fail_if_no_progress with_reducible apply Kept.upd)
    | split | dsimp only
theorem opLsr_good : OpMeaning.Good opLsr := by
  intro c s t h
  unfold opLsr
  repeat' first
    | exact h | (with_reducible first | assumption | apply Kept.ite) | (fail_if_no_progress with_reducible apply Kept.upd)
    | split | dsimp only
theorem opAsr_good : OpMeaning.Good opAsr := by
  intro c s t h
  unfold opAsr
  repeat' first
    | exact h | (with_reducible first | assumption | apply Kept.ite) | (fail_if_no_progress with_reducible apply Kept.upd)
    | split | dsimp only
theorem opRor_good : OpMeaning.Good opRor := by
  intro c s t h
  unfold opRor
  repeat' first
    | exact h | (with_reducible first | assumption | apply Kept.ite) | (fail_if_no_progress with_reducible apply Kept.upd)
    | split | dsimp only
theorem opShi_good : OpMeaning.Good opShi := by
  intro c s t h
  unfold opShi
  repeat' first
    | exact h | (with_reducible first | assumption | apply Kept.ite) | (fail_if_no_progress with_reducible apply Kept.upd)
    | split | dsimp only
theorem opAddi_good : OpMeaning.Good opAddi := by
  intro c s t h
  unfold opAddi
  repeat' first
    | exact h | (with_reducible first | assumption | apply Kept.ite) | (fail_if_no_progress with_reducible apply Kept.upd)
    | split | dsimp only
theorem opCmpi_good : OpMeaning.Good opCmpi := by
  intro c s t h
  unfold opCmpi
  repeat' first
    | exact h | (with_reducible first | assumption | apply Kept.ite) | (fail_if_no_progress with_reducible apply Kept.upd)
    | split | dsimp only
theorem opLdi_good : OpMeaning.Good opLdi := by
  intro c s t h
  unfold opLdi
  repeat' first
    | exact h | (with_reducible first | assumption | apply Kept.ite) | (fail_if_no_progress with_reducible apply Kept.upd)
    | split | dsimp only
theorem opMac_good : OpMeaning.Good opMac := by
  intro c s t h
  unfold opMac
  repeat' first
    | exact h | (with_reducible first | assumption | apply Kept.ite) | (fail_if_no_progress with_reducible apply Kept.upd)
    | split | dsimp only
theorem opMac2_good : OpMeaning.Good opMac2 := by
  intro c s t h
  unfold opMac2
  repeat' first
    | exact h | (with_reducible first | assumption | apply Kept.ite) | (fail_if_no_progress with_reducible apply Kept.upd)
    | split | dsimp only
theorem opAop_good : OpMeaning.Good opAop := by
  intro c s t h
  unfold opAop
  repeat' first
    | exact h | (with_reducible first | assumption | apply Kept.ite) | (fail_if_no_progress with_reducible apply Kept.upd)
    | split | dsimp only
theorem execNop_kept {s t : State} (h : Kept s t) (w : Fin 32) (e : WEcc) :
    KeptOut s (execNop w e t) := by
  unfold execNop
  repeat' first
    | (with_reducible first | exact h | assumption | apply State.issue_kept | apply Kept.ite) | extract_lets | split
    | (with_reducible first | apply KeptOut.next | apply KeptOut.ite) | exact opNop_good
theorem execAdd_kept {s t : State} (h : Kept s t) (w : Fin 32) (e : WEcc) :
    KeptOut s (execAdd w e t) := by
  unfold execAdd
  repeat' first
    | (with_reducible first | exact h | assumption | apply State.runOp_kept | apply KeptOut.next | apply KeptOut.ite)
    | exact opAdd_good
theorem execSub_kept {s t : State} (h : Kept s t) (w : Fin 32) (e : WEcc) :
    KeptOut s (execSub w e t) := by
  unfold execSub
  repeat' first
    | (with_reducible first | exact h | assumption | apply State.runOp_kept | apply KeptOut.next | apply KeptOut.ite)
    | exact opSub_good
theorem execAdc_kept {s t : State} (h : Kept s t) (w : Fin 32) (e : WEcc) :
    KeptOut s (execAdc w e t) := by
  unfold execAdc
  repeat' first
    | (with_reducible first | exact h | assumption | apply State.runOp_kept | apply KeptOut.next | apply KeptOut.ite)
    | exact opAdc_good
theorem execSbc_kept {s t : State} (h : Kept s t) (w : Fin 32) (e : WEcc) :
    KeptOut s (execSbc w e t) := by
  unfold execSbc
  repeat' first
    | (with_reducible first | exact h | assumption | apply State.runOp_kept | apply KeptOut.next | apply KeptOut.ite)
    | exact opSbc_good
theorem execAnd_kept {s t : State} (h : Kept s t) (w : Fin 32) (e : WEcc) :
    KeptOut s (execAnd w e t) := by
  unfold execAnd
  repeat' first
    | (with_reducible first | exact h | assumption | apply State.runOp_kept | apply KeptOut.next | apply KeptOut.ite)
    | exact opAnd_good
theorem execOr_kept {s t : State} (h : Kept s t) (w : Fin 32) (e : WEcc) :
    KeptOut s (execOr w e t) := by
  unfold execOr
  repeat' first
    | (with_reducible first | exact h | assumption | apply State.runOp_kept | apply KeptOut.next | apply KeptOut.ite)
    | exact opOr_good
theorem execXor_kept {s t : State} (h : Kept s t) (w : Fin 32) (e : WEcc) :
    KeptOut s (execXor w e t) := by
  unfold execXor
  repeat' first
    | (with_reducible first | exact h | assumption | apply State.runOp_kept | apply KeptOut.next | apply KeptOut.ite)
    | exact opXor_good
theorem execAndn_kept {s t : State} (h : Kept s t) (w : Fin 32) (e : WEcc) :
    KeptOut s (execAndn w e t) := by
  unfold execAndn
  repeat' first
    | (with_reducible first | exact h | assumption | apply State.runOp_kept | apply KeptOut.next | apply KeptOut.ite)
    | exact opAndn_good
theorem execCmp_kept {s t : State} (h : Kept s t) (w : Fin 32) (e : WEcc) :
    KeptOut s (execCmp w e t) := by
  unfold execCmp
  repeat' first
    | (with_reducible first | exact h | assumption | apply State.runOp_kept | apply KeptOut.next | apply KeptOut.ite)
    | exact opCmp_good
theorem execLsl_kept {s t : State} (h : Kept s t) (w : Fin 32) (e : WEcc) :
    KeptOut s (execLsl w e t) := by
  unfold execLsl
  repeat' first
    | (with_reducible first | exact h | assumption | apply State.runOp_kept | apply KeptOut.next | apply KeptOut.ite)
    | exact opLsl_good
theorem execLsr_kept {s t : State} (h : Kept s t) (w : Fin 32) (e : WEcc) :
    KeptOut s (execLsr w e t) := by
  unfold execLsr
  repeat' first
    | (with_reducible first | exact h | assumption | apply State.runOp_kept | apply KeptOut.next | apply KeptOut.ite)
    | exact opLsr_good
theorem execAsr_kept {s t : State} (h : Kept s t) (w : Fin 32) (e : WEcc) :
    KeptOut s (execAsr w e t) := by
  unfold execAsr
  repeat' first
    | (with_reducible first | exact h | assumption | apply State.runOp_kept | apply KeptOut.next | apply KeptOut.ite)
    | exact opAsr_good
theorem execRor_kept {s t : State} (h : Kept s t) (w : Fin 32) (e : WEcc) :
    KeptOut s (execRor w e t) := by
  unfold execRor
  repeat' first
    | (with_reducible first | exact h | assumption | apply State.runOp_kept | apply KeptOut.next | apply KeptOut.ite)
    | exact opRor_good
theorem execShi_kept {s t : State} (h : Kept s t) (w : Fin 32) (e : WEcc) :
    KeptOut s (execShi w e t) := by
  unfold execShi
  repeat' first
    | (with_reducible first | exact h | assumption | apply State.runOp_kept | apply KeptOut.next | apply KeptOut.ite)
    | exact opShi_good
theorem execAddi_kept {s t : State} (h : Kept s t) (w : Fin 32) (e : WEcc) :
    KeptOut s (execAddi w e t) := by
  unfold execAddi
  repeat' first
    | (with_reducible first | exact h | assumption | apply State.runOp_kept | apply KeptOut.next | apply KeptOut.ite)
    | exact opAddi_good
theorem execCmpi_kept {s t : State} (h : Kept s t) (w : Fin 32) (e : WEcc) :
    KeptOut s (execCmpi w e t) := by
  unfold execCmpi
  repeat' first
    | (with_reducible first | exact h | assumption | apply State.runOp_kept | apply KeptOut.next | apply KeptOut.ite)
    | exact opCmpi_good
theorem execLdi_kept {s t : State} (h : Kept s t) (w : Fin 32) (e : WEcc) :
    KeptOut s (execLdi w e t) := by
  unfold execLdi
  repeat' first
    | (with_reducible first | exact h | assumption | apply State.runOp_kept | apply KeptOut.next | apply KeptOut.ite)
    | exact opLdi_good
theorem execMac_kept {s t : State} (h : Kept s t) (w : Fin 32) (e : WEcc) :
    KeptOut s (execMac w e t) := by
  unfold execMac
  repeat' first
    | (with_reducible first | exact h | assumption | apply State.runOp_kept | apply KeptOut.next | apply KeptOut.ite)
    | exact opMac_good
theorem execMac2_kept {s t : State} (h : Kept s t) (w : Fin 32) (e : WEcc) :
    KeptOut s (execMac2 w e t) := by
  unfold execMac2
  repeat' first
    | (with_reducible first | exact h | assumption | apply State.runOp_kept | apply KeptOut.next | apply KeptOut.ite)
    | exact opMac2_good
theorem execAop_kept {s t : State} (h : Kept s t) (w : Fin 32) (e : WEcc) :
    KeptOut s (execAop w e t) := by
  unfold execAop
  repeat' first
    | (with_reducible first | exact h | assumption | apply State.runOp_kept | apply KeptOut.next | apply KeptOut.ite)
    | exact opAop_good

end Sys2Proof.Machine
end

