-- ==== Sys2Proof/Laws/Workers.lean ====
section
/-! SUPPORT. What one bundle of a Worker does (spec/03_worker_cores.md): the writes on their way in program order, what
landing keeps, and a bundle that neither faults nor stalls. -/

namespace Sys2Proof.Machine

/-- Writes applied in order. -/
def applyAll (r : Regs) (l : List PendWrite) : Regs := l.foldl (fun r p => r.apply p.reg p.val) r

@[simp] theorem applyAll_nil (r : Regs) : applyAll r [] = r := rfl
@[simp] theorem applyAll_cons (r : Regs) (p : PendWrite) (l : List PendWrite) :
    applyAll r (p :: l) = applyAll (r.apply p.reg p.val) l := rfl
theorem applyAll_append (r : Regs) (l m : List PendWrite) : applyAll r (l ++ m) = applyAll (applyAll r l) m := by
  simp [applyAll]

/-- The control registers of `q` in place of those of `r`. -/
def Regs.withCtl (r q : Regs) : Regs :=
  { r with
    shift := q.shift, lowat := q.lowat, ipc := q.ipc, ist := q.ist, wtimer := q.wtimer, wtimerRld := q.wtimerRld
    wtimerCtrl := q.wtimerCtrl, wdog := q.wdog, wdogRld := q.wdogRld, wdogCtrl := q.wdogCtrl, wien := q.wien
    wipend := q.wipend, wfout := q.wfout }

theorem withCtl_self (r : Regs) : r.withCtl r = r := rfl

/-- A write of a control register changes control registers, from control registers. -/
theorem applyCtl_withCtl (y r : Regs) (c n : Nat) : (y.withCtl r).applyCtl c n = y.withCtl (r.applyCtl c n) := rfl

/-- A write of another register leaves control registers alone and does not depend on them. -/
theorem applyData_withCtl (r q : Regs) (c : Nat) (v : BitVec 72) :
    (r.withCtl q).applyData c v = (r.applyData c v).withCtl q := rfl

/-- A write of a register that does not land early and one of a register that does meet in no field. -/
theorem apply_comm (r : Regs) (a b : Nat) (u v : BitVec 72) (ha : landsEarly a = false) (hb : landsEarly b = true) :
    (r.apply a u).apply b v = (r.apply b v).apply a u := by
  have h1 := applyData_withCtl r r a u
  rw [withCtl_self] at h1
  have h2 := applyData_withCtl r (r.applyCtl b v.toNat) a u
  have h3 := applyCtl_withCtl r r b v.toNat
  rw [withCtl_self] at h3
  simp only [Regs.apply, ha, hb, if_true, Bool.false_eq_true, if_false]
  rw [h1, applyCtl_withCtl, ← h2, ← h3]

/-- The same for several writes of registers that do not land early. -/
theorem applyAll_comm (l : List PendWrite) (b : Nat) (v : BitVec 72) (hb : landsEarly b = true) :
    ∀ r : Regs, (∀ p ∈ l, landsEarly p.reg = false) → (applyAll r l).apply b v = applyAll (r.apply b v) l := by
  induction l with
  | nil => intro r _; rfl
  | cons p l ih =>
    intro r h
    rw [applyAll_cons, ih _ fun q hq => h q (List.mem_cons_of_mem _ hq), apply_comm _ _ _ _ _ (h p List.mem_cons_self) hb]
    rfl

/-- Behind writes kept, landing keeps what all the writes together make of the registers. -/
theorem landing_behind (l : List PendWrite) : ∀ (r : Regs) (kept : List PendWrite), (∀ p ∈ kept, landsEarly p.reg = false) →
    applyAll (applyAll (landing r true l).1 kept) (landing r true l).2 = applyAll (applyAll r kept) l := by
  induction l with
  | nil => intro r kept _; rfl
  | cons q l ih =>
    intro r kept hk
    by_cases hq : q.late = 0
    · by_cases he : landsEarly q.reg
      · simp only [landing, hq, he, bne_self_eq_false, Bool.false_eq_true, if_false, Bool.true_or, if_true, applyAll_cons]
        rw [ih _ _ hk, applyAll_comm _ _ _ he _ hk]
      · have h := ih r (kept ++ [q]) (by
          intro p hp
          rcases List.mem_append.mp hp with h | h
          · exact hk p h
          · simpa [List.mem_singleton.mp h] using he)
        simpa [landing, hq, he, applyAll_append] using h
    · simp [landing, hq]

/-- Landing keeps what all the writes together make of the registers. -/
theorem landing_settled (l : List PendWrite) : ∀ r : Regs,
    applyAll (landing r false l).1 (landing r false l).2 = applyAll r l := by
  induction l with
  | nil => intro r; rfl
  | cons q l ih =>
    intro r
    by_cases hq : q.late = 0
    · by_cases he : landsEarly q.reg = true ∨ q.addr = 0
      · have : (landsEarly q.reg || (decide (q.addr = 0) && !false)) = true := by simpa using he
        simp only [landing, hq, bne_self_eq_false, Bool.false_eq_true, if_false, this, if_true, applyAll_cons]
        exact ih _
      · have h1 : landsEarly q.reg = false := by simpa using fun h => he (.inl h)
        have h2 : (landsEarly q.reg || (decide (q.addr = 0) && !false)) = false := by
          simpa [h1] using fun h => he (.inr h)
        have h := landing_behind l r [q] (by simp [h1])
        simpa [landing, hq, he] using h
    · simp [landing, hq]

/-- A Worker whose writes have landed as far as they can settles to the same registers. -/
theorem land_settled (k : Worker) : k.land.settled = k.settled := landing_settled k.pend k.regs

@[simp] theorem agePend_settled (k : Worker) (r : Regs) : applyAll r k.agePend = applyAll r k.pend := by
  simp [applyAll, Worker.agePend, List.foldl_map]

/-! One bundle. -/

@[simp] theorem upd_get {α : Type} {n : Nat} (v : Vector α n) (i : Fin n) (f : α → α) : (upd v i f)[i.val] = f v[i.val] := by
  simp [upd]

theorem upd_get_ne {α : Type} {n : Nat} (v : Vector α n) (i j : Fin n) (f : α → α) (h : i ≠ j) :
    (upd v i f)[j.val] = v[j.val] := by
  have : i.val ≠ j.val := fun e => h (Fin.ext e)
  simp [upd, this]

@[simp] theorem modWorker_get (s : State) (w : Fin 32) (f : Worker → Worker) :
    (s.modWorker w f).workers[w.val] = f s.workers[w.val] := upd_get _ _ _

theorem modWorker_get_ne (s : State) (w v : Fin 32) (f : Worker → Worker) (h : w ≠ v) :
    (s.modWorker w f).workers[v.val] = s.workers[v.val] := upd_get_ne _ _ _ _ h

@[simp] theorem modWorker_mem (s : State) (w : Fin 32) (f : Worker → Worker) : (s.modWorker w f).mem = s.mem := rfl

theorem matching_quiet {k : Worker} (h : ∀ c : Fin 8, k.dbg.comps[c.val].en = false) (space addr access : Nat) :
    k.matching space addr access = [] := by
  simp [Worker.matching, h]

/-- A bundle that issues and whose operation neither faults nor stalls is finished. -/
theorem runOp_issues {s : State} {w : Fin 32} {opc : Nat} {m : OpMeaning} (h : Issues s w opc)
    (hf : (m (s.ctx w)).fault = none) (hs : (m (s.ctx w)).stall = none) :
    s.runOp w .ok opc m = s.finishBundle (s.ctx w) (m (s.ctx w)) := by
  have hm : (s.mayIssue w && decide (bitsOf (s.bundle w) 58 6 = opc)) = true := by
    rw [h.may, h.opcode]; simp
  rw [State.runOp, if_pos hm]
  simp only [State.issue, matching_quiet h.quiet, ite_self, List.isEmpty_nil, if_true, State.performEcc]
  rw [State.perform, h.legal]
  simp only [hf, hs]

theorem applyAll_cych (l : List PendWrite) : ∀ (r : Regs) (v : Word),
    applyAll { r with cych := v } l = { applyAll r l with cych := v } := by
  induction l with
  | nil => intro r v; rfl
  | cons p l ih =>
    intro r v
    rw [applyAll_cons, applyAll_cons, ← ih]
    congr 1
    unfold Regs.apply
    split <;> rfl

theorem ofFn_get {α : Type} (v : Vector α 4) : (Vector.ofFn fun i : Fin 4 => v[i.val]) = v := by
  ext i hi
  simp

/-- A write that sets `OVS`. -/
theorem apply_ovs (r : Regs) : r.apply 71 0 = { r with ovs := true } := by
  have h : ∀ i : Fin 4, accWritten i.val r.acc[i.val] 71 0 = r.acc[i.val] := by
    intro i
    unfold accWritten
    have := i.isLt
    simp only [show ¬ 71 = 16 + i.val by omega, show ¬ 71 = 20 + i.val by omega, show ¬ 71 = 24 + i.val by omega,
      show ¬ 71 = 64 + i.val by omega, if_false]
  simp only [Regs.apply, landsEarly, Regs.applyData, h, ofFn_get]
  simp

/-- The registers to which a Worker settles after a bundle's reads. -/
theorem readEffects_settled (s : State) (w : Fin 32) :
    ((s.readEffects w s.workers[w.val].opView (slotsOf (s.bundle w)).1 (slotsOf (s.bundle w)).2).workers[w.val]).settled =
      s.afterReads w s.workers[w.val].settled := by
  have h2 : ∀ k : Worker, ({ k with pend := k.pend ++ [⟨71, 0, 0, 2⟩] } : Worker).settled = { k.settled with ovs := true } := by
    intro k
    have : applyAll k.regs (k.pend ++ [⟨71, 0, 0, 2⟩]) = { applyAll k.regs k.pend with ovs := true } := by
      rw [applyAll_append, applyAll_cons, apply_ovs, applyAll_nil]
    exact this
  have h3 : ∀ (k : Worker) (v : Word), ({ k with regs := { k.regs with cych := v } } : Worker).settled = { k.settled with cych := v } :=
    fun k v => applyAll_cych k.pend k.regs v
  unfold State.readEffects State.afterReads
  dsimp only
  generalize ([(slotsOf (s.bundle w)).1.source, (slotsOf (s.bundle w)).2.source].filterMap id).contains 49 = c1
  generalize ([(slotsOf (s.bundle w)).1.source, (slotsOf (s.bundle w)).2.source].filterMap id).any
    (readOvs s.workers[w.val].opView) = c2
  cases c1 <;> cases c2
  · rw [if_neg Bool.false_ne_true, if_neg Bool.false_ne_true, if_neg Bool.false_ne_true, Bool.or_false]
  · rw [if_neg Bool.false_ne_true, if_neg Bool.false_ne_true, if_pos rfl, modWorker_get, h2, Bool.or_true]
  · rw [if_pos rfl, if_pos rfl, if_neg Bool.false_ne_true, modWorker_get, h3, Bool.or_false]
  · rw [if_pos rfl, if_pos rfl, if_pos rfl, modWorker_get, h2, modWorker_get, h3, Bool.or_true]

/-- Sequencing touches no register. -/
theorem advance_settled (k : Worker) (inh control : Bool) (jump next : Option (BitVec 15)) (turn : StackTurn) :
    (k.advance inh control jump next turn).settled = k.settled := by
  unfold Worker.advance
  dsimp only
  split
  · split <;> rfl
  · split <;> rfl

/-- A Worker one bundle further settles to its registers with the bundle's writes. -/
theorem passed_settled (k : Worker) (c : Ctx) (o : OpOut) (writes : List PendWrite) (stores : List PendStore) :
    (k.passed c o writes stores).settled = applyAll k.settled writes := by
  have h : (k.passed c o writes stores).settled =
      (({ k with pend := k.agePend ++ writes, stores := stores } : Worker).land.advance c.op.inh
        (hasSlots (bitsOf c.b 58 6)) o.jump o.next o.turn).settled := rfl
  rw [h, advance_settled, land_settled]
  have : applyAll k.regs (k.agePend ++ writes) = applyAll (applyAll k.regs k.pend) writes := by
    rw [applyAll_append, agePend_settled]
  exact this

/-- The Worker after its bundle has retired. -/
theorem retire_worker (s : State) (c : Ctx) (o : OpOut) :
    ∃ stores, (s.retire c o).workers[c.w.val] =
      ((s.readEffects c.w c.op (slotsOf c.b).1 (slotsOf c.b).2).workers[c.w.val]).passed c o (s.bundleWrites c o) stores :=
  ⟨_, modWorker_get _ _ _⟩

/-- The registers to which a Worker settles after its bundle. -/
theorem retire_settled (s : State) (w : Fin 32) (o : OpOut) :
    ((s.retire (s.ctx w) o).workers[w.val]).settled =
      applyAll (s.afterReads w s.workers[w.val].settled) (s.bundleWrites (s.ctx w) o) := by
  obtain ⟨l, h⟩ := retire_worker s (s.ctx w) o
  have h' : (s.retire (s.ctx w) o).workers[w.val] = _ := h
  rw [h', passed_settled]
  congr 1
  exact readEffects_settled s w

/-! The frame of a bundle. -/

/-- What neither a bundle's reads nor its writes on their way change of a Worker. -/
def Worker.steady (k : Worker) : WSt × BitVec 15 × Option Delay × List RepLevel × WDebug × List (BitVec 15) × List PendStore :=
  (k.st, k.pc, k.delay, k.reps, k.dbg, k.stack, k.stores)

theorem readEffects_rest (s : State) (w : Fin 32) (r : Regs) (x y : Slot20) :
    ∃ f : Worker → Worker, s.readEffects w r x y = s.modWorker w f ∧ ∀ k, (f k).steady = k.steady := by
  unfold State.readEffects
  dsimp only
  split <;> split
  · exact ⟨fun k => { k with
      regs := { k.regs with cych := BitVec.ofNat 32 (k.cycl.toNat / 2 ^ 32) }, pend := k.pend ++ [⟨71, 0, 0, 2⟩] }, by
      simp [State.modWorker, upd], fun k => rfl⟩
  · exact ⟨_, rfl, fun k => rfl⟩
  · exact ⟨_, rfl, fun k => rfl⟩
  · exact ⟨id, by simp [State.modWorker, upd], fun k => rfl⟩

/-- Words stored one after the other leave every byte outside them as it was, and keep the canonical form. -/
theorem putWords_outside (l : List PendStore) : ∀ (m : Mem), m.wf = true →
    ((l.foldl (fun m p => m.putWord p.addr p.val) m).wf = true ∧
      ∀ a, (∀ p ∈ l, ¬ (p.addr ≤ a ∧ a < p.addr + 4)) → (l.foldl (fun m p => m.putWord p.addr p.val) m).byte a = m.byte a) := by
  induction l with
  | nil => intro m h; exact ⟨h, fun a _ => rfl⟩
  | cons p l ih =>
    intro m h
    obtain ⟨h1, h2⟩ := ih (m.putWord p.addr p.val) (m.putWord_wf _ _ h)
    refine ⟨h1, fun a ha => ?_⟩
    rw [List.foldl_cons, h2 a fun q hq => ha q (List.mem_cons_of_mem _ hq),
      m.byte_putWord_outside _ _ _ h (ha p List.mem_cons_self)]

/-- A bundle that retires changes its Worker and the bytes of stores whose distance is spent. -/
theorem retire_frame {s : State} {w : Fin 32} (o : OpOut) (hm : s.mem.wf = true) :
    OnlyWorker s (s.retire (s.ctx w) o) w ∧
      ∀ a, (∀ p ∈ s.workers[w.val].stores, p.left ≤ 1 → ¬ (p.addr ≤ a ∧ a < p.addr + 4)) →
        (s.retire (s.ctx w) o).mem.byte a = s.mem.byte a := by
  obtain ⟨f, hf, hst⟩ := readEffects_rest s w s.workers[w.val].opView (slotsOf (s.bundle w)).1 (slotsOf (s.bundle w)).2
  have hst := hst s.workers[w.val]
  simp only [Worker.steady, Prod.mk.injEq] at hst
  have hr : s.readEffects (s.ctx w).w (s.ctx w).op (slotsOf (s.ctx w).b).1 (slotsOf (s.ctx w).b).2 = s.modWorker w f := hf
  unfold State.retire
  dsimp only
  rw [hr]
  refine ⟨⟨rfl, fun v hv => ?_⟩, fun a ha => ?_⟩
  · show ((s.modWorker w f).modWorker w _).workers[v.val] = s.workers[v.val]
    rw [modWorker_get_ne _ _ _ _ (Ne.symm hv), modWorker_get_ne _ _ _ _ (Ne.symm hv)]
  · refine (putWords_outside _ s.mem hm).2 a fun p hp => ?_
    obtain ⟨hp1, hp2⟩ := List.mem_filter.mp hp
    obtain ⟨q, hq, rfl⟩ := List.mem_map.mp hp1
    have hl : q.left - 1 = 0 := by simpa using hp2
    rcases List.mem_append.mp hq with h | h
    · have h' : q ∈ (f s.workers[w.val]).stores := by
        have e : (s.modWorker w f).workers[(s.ctx w).w.val] = f s.workers[w.val] := modWorker_get _ _ _
        rwa [e] at h
      exact ha q (hst.2.2.2.2.2.2 ▸ h') (by omega)
    · unfold moveStores at h
      obtain ⟨m, -, rfl⟩ := List.mem_map.mp h
      simp at hl

/-- A bundle without delay slots of its own, outside delay slots and repeats, moves on to the bundle behind it. -/
theorem advance_next (k : Worker) (inh : Bool) (turn : StackTurn) (hd : k.delay = none) (hr : k.reps = []) :
    (k.advance inh false none none turn).pc = k.pc + 1 := by
  simp [Worker.advance, hd, hr, repNext]

theorem land_same (k : Worker) : k.land.pc = k.pc ∧ k.land.delay = k.delay ∧ k.land.reps = k.reps ∧ k.land.st = k.st :=
  ⟨rfl, rfl, rfl, rfl⟩

theorem advance_st (k : Worker) (inh control : Bool) (jump next : Option (BitVec 15)) (turn : StackTurn) :
    (k.advance inh control jump next turn).st = k.st := by
  unfold Worker.advance
  dsimp only
  split
  · split <;> rfl
  · split <;> rfl

/-- An operation that only writes registers: its bundle retires with its writes, less what the moves discard. -/
theorem writes_retired {s : State} {w : Fin 32} {opc : Nat} {m : OpMeaning} (h : Issues s w opc) (hm : s.mem.wf = true)
    (hf : (m (s.ctx w)).fault = none) (hs : (m (s.ctx w)).stall = none) (hp : (m (s.ctx w)).post = id)
    (hj : (m (s.ctx w)).jump = none) (hn : (m (s.ctx w)).next = none) (hc : hasSlots opc = false) :
    Retired s (s.runOp w .ok opc m) w fun r =>
      applyAll r (((m (s.ctx w)).writes.filter fun p => !overlaps p.reg (moveDests (s.bundle w))).map fun p =>
        keepParts s.workers[w.val].opView p (moveDests (s.bundle w))) := by
  have hq : ∀ sp a ac, s.workers[w.val].matching sp a ac = [] := matching_quiet h.quiet
  have hhits : s.accessHits (s.ctx w) = [] := by
    have : ∀ sp a ac, s.workers[(s.ctx w).w.val].matching sp a ac = [] := hq
    simp [State.accessHits, this]
  obtain ⟨l, hk⟩ := retire_worker s (s.ctx w) (m (s.ctx w))
  have hk' : (s.retire (s.ctx w) (m (s.ctx w))).workers[w.val] = _ := hk
  obtain ⟨f, hfx, hst⟩ := readEffects_rest s w s.workers[w.val].opView (slotsOf (s.bundle w)).1 (slotsOf (s.bundle w)).2
  have hr : (s.readEffects (s.ctx w).w (s.ctx w).op (slotsOf (s.ctx w).b).1 (slotsOf (s.ctx w).b).2).workers[w.val] =
      f s.workers[w.val] := by
    have : s.readEffects (s.ctx w).w (s.ctx w).op (slotsOf (s.ctx w).b).1 (slotsOf (s.ctx w).b).2 = s.modWorker w f := hfx
    rw [this, modWorker_get]
  have hst := hst s.workers[w.val]
  simp only [Worker.steady, Prod.mk.injEq] at hst
  obtain ⟨e1, e2, e3, e4, e5, -⟩ := hst
  rw [show (s.readEffects (s.ctx w).w (s.ctx w).op (slotsOf (s.ctx w).b).1 (slotsOf (s.ctx w).b).2).workers[(s.ctx w).w.val] = _
    from hr] at hk'
  have hstep : (s.retire (s.ctx w) (m (s.ctx w))).workers[w.val].dbg.stepLeft = none := by
    rw [hk']
    have : ((f s.workers[w.val]).passed (s.ctx w) (m (s.ctx w)) (s.bundleWrites (s.ctx w) (m (s.ctx w))) l).dbg =
        (f s.workers[w.val]).dbg := by
      unfold Worker.passed Worker.advance
      dsimp only
      split
      · split <;> rfl
      · split <;> rfl
    rw [this, e5]
    exact h.noStep
  have hfin : s.finishBundle (s.ctx w) (m (s.ctx w)) = s.retire (s.ctx w) (m (s.ctx w)) := by
    have hc' : ∀ t : State, t.compHit w [] = t := fun _ => rfl
    have hl : s.workers[(s.ctx w).w.val].dying = none := h.lives
    simp only [State.finishBundle, hl, Option.isSome_none, Bool.false_eq_true, if_false]
    rw [hhits, hp, id_eq, show (s.ctx w).w = w from rfl, hc', State.countStep, hstep]
  have hslot : hasSlots (bitsOf (s.ctx w).b 58 6) = false := by
    rw [show bitsOf (s.ctx w).b 58 6 = opc from h.opcode, hc]
  rw [runOp_issues h hf hs, hfin]
  have hfr := retire_frame (s := s) (w := w) (m (s.ctx w)) hm
  refine ⟨⟨?_, ?_, hfr.2⟩, hfr.1, ?_⟩
  · rw [retire_settled, State.bundleWrites]
    exact applyAll_append _ _ _
  · rw [hk']
    have : ((f s.workers[w.val]).passed (s.ctx w) (m (s.ctx w)) (s.bundleWrites (s.ctx w) (m (s.ctx w))) l).st =
        (f s.workers[w.val]).st := advance_st _ _ _ _ _ _
    rw [this, e1]
    have := h.may
    simp only [State.mayIssue, Bool.and_eq_true, decide_eq_true_eq] at this
    exact this.1.1.1.1.1.1.1
  · intro hd hrep
    rw [hk']
    have : ((f s.workers[w.val]).passed (s.ctx w) (m (s.ctx w)) (s.bundleWrites (s.ctx w) (m (s.ctx w))) l).pc =
        (({ f s.workers[w.val] with
            pend := (f s.workers[w.val]).agePend ++ s.bundleWrites (s.ctx w) (m (s.ctx w)), stores := l } : Worker).land.advance
          (s.ctx w).op.inh false none none (m (s.ctx w)).turn).pc := by
      unfold Worker.passed
      rw [hslot, hj, hn]
    exact (this.trans (advance_next _ _ _ (e3.trans hd) (e4.trans hrep))).trans (congrArg (· + 1) e2)

/-! Operands and results of the data operations. -/

theorem bitsOf_lt (n lo w : Nat) : bitsOf n lo w < 2 ^ w := Nat.mod_lt _ (by positivity)

theorem at?_lt {α : Type} {n : Nat} (v : Vector α n) {i : Nat} (h : i < n) : at? v i = some v[i] := by
  simp [at?, h]

/-- A data register that a field names. -/
theorem ctx_d (s : State) (w : Fin 32) (lo : Nat) : (s.ctx w).d lo = s.operand w lo := by
  have h : bitsOf (s.bundle w) lo 4 < 16 := bitsOf_lt _ _ 4
  have h2 : bitsOf (s.bundle w) lo 4 % 16 = bitsOf (s.bundle w) lo 4 := Nat.mod_eq_of_lt h
  show (at? s.workers[w.val].opView.d (bitsOf (s.bundle w) lo 4)).getD 0 = _
  rw [at?_lt _ h]
  simp only [State.operand, Regs.data, h2]
  rfl

theorem ofFn_acc (r : Regs) (c : Nat) (v : BitVec 72) (h : c < 16 ∨ 67 < c) :
    (Vector.ofFn fun i : Fin 4 => accWritten i.val r.acc[i.val] c v) = r.acc := by
  have : ∀ i : Fin 4, accWritten i.val r.acc[i.val] c v = r.acc[i.val] := by
    intro i
    have := i.isLt
    unfold accWritten
    simp only [show ¬ c = 16 + i.val by omega, show ¬ c = 20 + i.val by omega, show ¬ c = 24 + i.val by omega,
      show ¬ c = 64 + i.val by omega, if_false]
  simp only [this, ofFn_get]

/-- A write of a data register. -/
theorem apply_data (r : Regs) (n : Nat) (h : n < 16) (v : Word) :
    r.apply n (v.setWidth 72) = { r with d := r.d.set n v h } := by
  have he : landsEarly n = false := by simp [landsEarly]; omega
  simp only [Regs.apply, he, Bool.false_eq_true, if_false, Regs.applyData, ofFn_acc r n _ (.inl h), dif_pos h, upd]
  have hv : BitVec.ofNat 32 (v.setWidth 72).toNat = v := by
    apply BitVec.eq_of_toNat_eq
    have := v.isLt
    simp only [BitVec.toNat_ofNat, BitVec.toNat_setWidth]
    omega
  have e : ∀ k, n ≠ k ∨ n = k := fun k => (ne_or_eq n k)
  simp only [hv, show ¬ (28 ≤ n ∧ n < 32) by omega, show ¬ (32 ≤ n ∧ n < 36) by omega, show ¬ (36 ≤ n ∧ n < 44) by omega,
    show ¬ n = 44 by omega, show ¬ n = 72 by omega, show ¬ n = 68 by omega, show ¬ n = 69 by omega, show ¬ n = 71 by omega,
    dif_neg, decide_false, Bool.or_false, if_false, Bool.false_eq_true, not_false_eq_true]
  simp [show n ≠ 72 by omega]

/-- A write of flags under a mask. -/
theorem apply_flags (r : Regs) (mask : Nat) (hm : mask < 16) (f : BitVec 4) :
    r.apply 68 (BitVec.ofNat 72 (mask * 16 + (f.toNat &&& mask))) =
      { r with flags := (r.flags &&& ~~~(BitVec.ofNat 4 mask)) ||| (BitVec.ofNat 4 mask &&& f) } := by
  have hf : f.toNat &&& mask < 16 := Nat.lt_of_le_of_lt Nat.and_le_right hm
  have h1 : (BitVec.ofNat 72 (mask * 16 + (f.toNat &&& mask))).toNat = mask * 16 + (f.toNat &&& mask) := by
    rw [BitVec.toNat_ofNat, Nat.mod_eq_of_lt (by omega)]
  have h2 : (mask * 16 + (f.toNat &&& mask)) / 16 = mask := by omega
  have h3 : (mask * 16 + (f.toNat &&& mask)) % 16 = f.toNat &&& mask := by omega
  have h4 : BitVec.ofNat 4 (f.toNat &&& mask) = BitVec.ofNat 4 mask &&& f := by
    apply BitVec.eq_of_toNat_eq
    rw [BitVec.toNat_ofNat, Nat.mod_eq_of_lt hf, BitVec.toNat_and, BitVec.toNat_ofNat, Nat.mod_eq_of_lt hm, Nat.and_comm]
  have he : landsEarly 68 = false := rfl
  simp only [Regs.apply, he, Bool.false_eq_true, if_false, Regs.applyData, ofFn_acc r 68 _ (.inr (by omega)), h1, h2, h3, h4]
  simp

/-- What a bundle makes of the registers with a result and flags, its moves' registers left out (R70). -/
theorem own_result (s : State) (w : Fin 32) (v : Word) (mask : Nat) (f : BitVec 4) (r : Regs) (hm : mask < 16) :
    applyAll r (([resultIn ((s.ctx w).f 54 4) v, flagsIn mask f].filter fun p =>
        !overlaps p.reg (moveDests (s.bundle w))).map fun p => keepParts s.workers[w.val].opView p (moveDests (s.bundle w))) =
      if 44 ∈ moveDests (s.bundle w) then withResult (s.bundle w) v r
      else { withResult (s.bundle w) v r with
        flags := (r.flags &&& ~~~(BitVec.ofNat 4 mask)) ||| (BitVec.ofNat 4 mask &&& f) } := by
  have hn : bitsOf (s.bundle w) 54 4 < 16 := bitsOf_lt _ _ 4
  have hmod : bitsOf (s.bundle w) 54 4 % 16 = bitsOf (s.bundle w) 54 4 := Nat.mod_eq_of_lt hn
  have k1 : ∀ l, keepParts s.workers[w.val].opView (resultIn ((s.ctx w).f 54 4) v) l = resultIn ((s.ctx w).f 54 4) v := by
    intro l
    unfold keepParts
    rw [if_neg]
    show ¬ (64 ≤ bitsOf (s.bundle w) 54 4 ∧ _)
    omega
  have k2 : ∀ l, keepParts s.workers[w.val].opView (flagsIn mask f) l = flagsIn mask f := by
    intro l
    unfold keepParts
    rw [if_neg]
    show ¬ (64 ≤ 68 ∧ 68 < 68)
    omega
  have o1 : overlaps (resultIn ((s.ctx w).f 54 4) v).reg (moveDests (s.bundle w)) =
      decide (bitsOf (s.bundle w) 54 4 ∈ moveDests (s.bundle w)) := by
    show overlaps (bitsOf (s.bundle w) 54 4) _ = _
    rw [overlaps, if_pos (by omega)]
    simp
  have o2 : overlaps (flagsIn mask f).reg (moveDests (s.bundle w)) = decide (44 ∈ moveDests (s.bundle w)) := by
    show overlaps 68 _ = _
    simp [overlaps]
  have a1 : ∀ r : Regs, r.apply (resultIn ((s.ctx w).f 54 4) v).reg (resultIn ((s.ctx w).f 54 4) v).val =
      { r with d := r.d.set (bitsOf (s.bundle w) 54 4) v hn } := fun r => apply_data r _ hn v
  have a2 : ∀ r : Regs, r.apply (flagsIn mask f).reg (flagsIn mask f).val =
      { r with flags := (r.flags &&& ~~~(BitVec.ofNat 4 mask)) ||| (BitVec.ofNat 4 mask &&& f) } := fun r => apply_flags r mask hm f
  by_cases c1 : bitsOf (s.bundle w) 54 4 ∈ moveDests (s.bundle w) <;> by_cases c2 : 44 ∈ moveDests (s.bundle w) <;>
    simp [withResult, o1, o2, c1, c2, k1, k2, a1, a2, hmod]

end Sys2Proof.Machine
end

