-- ==== Sys2Proof/WellFormed.lean ====
section
/-! DEFINITION. Which terms of Instr name something that can happen: operand lists of the length that their row carries
(spec/02_command_interface.md, spec/04 to spec/17). A term that is not well formed still has a meaning: the operations pad
or cut such a list, or leave the state as it is. -/

namespace Sys2Proof

/-- A packet whose words are as many as its length field says, where that field is usable (R36). -/
def Pkt.wf (p : Pkt) : Bool := p.length.toNat < 32 || p.length.toNat % 4 != 0 || p.params.length * 4 + 32 == p.length.toNat

/-- A telemetry sample with its 24 sensors and 64 rails and currents (14, R404). -/
def Sample.wf (x : Sample) : Bool := x.temps.length == 24 && x.rails.length == 64 && x.amps.length == 64

/-- A time packet's payload is 36 bytes (11, R337). -/
def TimePkt.wf (x : TimePkt) : Bool := x.bytes.length == 36

/-- A calibration result has four corrections of each of eight pins (19, R488). -/
def CalResult.wf (x : CalResult) : Bool := x.corr.length == 32

/-- A flit has a payload of 64 bytes (10, R291). -/
def Flit.wf : Flit → Bool
  | .enter _ _ _ b | .fromDie _ _ _ _ b _ => b.length == 64
  | .toDie _ _ | .again _ _ _ _ => true

/-- The well-formed terms. -/
def Instr.wf : Instr → Bool
  | .sysNop p | .sysIdentify p | .sysInventory p | .sysAbort p | .sysReset p | .sysStatus p | .modeGet p | .modeSet p
  | .pwrDomainSet p | .pwrDomainGet p | .pwrBudgetSet p | .pwrLimitsSet p | .pwrTelemetry p | .clkStatus p
  | .clkSelect p | .clkOutSet p | .clkMeasure p | .cfgStage p | .cfgLoad p | .cfgRegionLoad p | .cfgRegionStart p
  | .cfgRegionStop p | .cfgReadback p | .cfgBootRecordSet p | .cfgProbeSet p | .portSet p | .portGet p | .portStart p
  | .portStop p | .portLinkStatus p | .portDetect p | .portPrbs p | .timTimingSet p | .timDeskew p | .timSiteMap p
  | .workLoad p | .workStart p | .workStop p | .workStatus p | .workStreamSet p | .workSignal p | .failSet p
  | .failCounts p | .failClear p | .broodGeometry p | .broodPartition p | .broodSolve p | .broodResult p
  | .broodClear p | .memStatus p | .memTrain p | .memThaw p | .memRekey p | .memCopy p | .memFill p | .netStatus p
  | .netLaneRemap p | .netCreditAudit p | .netDieReset p | .netDieFence p | .netLatencyLock p | .swarmNeighbours p
  | .swarmIdSet p | .swarmRouteSet p | .swarmLinkSet p | .swarmForward p | .timeGet p | .timeSet p | .timeAdjust p
  | .timeSyncSet p | .timeJumpLimit p | .secAttest p | .secOwnerEnrol p | .secCounterAdvance p | .secNvStatus p
  | .secNvRefresh p | .secCertGet p | .bistRun p | .bistResult p | .bistCommit p | .bistExpectSet p | .dbgUnlock p
  | .dbgHalt p | .dbgResume p | .dbgStep p | .dbgRead p | .dbgWrite p | .dbgBreakSet p | .dbgXtrigSet p
  | .evtMaskSet p | .evtRouteSet p | .evtStatus p | .evtAck p | .subResync p => p.wf
  | .telemetrySample x => x.wf
  | .hello _ x | .pdelayReq _ x _ | .pdelayResp _ x | .sync _ x => x.wf
  | .calibrationEnd r => r.all CalResult.wf
  | .flit f => f.wf
  | .detectEnd _ r => r.length == 8
  | .gateClose e => e.length == 8
  | _ => true

end Sys2Proof
end

