-- ==== Sys2Proof/Tests/Slice0.lean ====
section
/-! SUPPORT. Small tests: what `WellFormed` refuses, worked examples of the spec, and for the statements' hypotheses states and
operands that meet them. -/

namespace Sys2Proof.Tests

set_option Elab.async false

open Sys2Proof.Machine

/-- Eighteen slots wait in the submission ring of a device at work: every domain is on, every die is locked and configured with its
static area and region 0 HELD, Laravo link 0 is ACTIVE, every stack serves and every Worker is IDLE; group 1 is in coded mode, site 0 has its geometry, time base 1 is
SET and both debug scopes are open. -/
def ready : State := { State.reset with
  rsc := { State.reset.rsc with mode := .ready, startupDone := true, bootStep := 7 }
  queen := { State.reset.queen with up := true }
  hif := { State.reset.hif with subEn := true, repEn := true, evtEn := true, subBell := 18, pcieUp := true, ptmOn := true }
  pwr := { State.reset.pwr with
    supply := .on, domains := Vector.replicate 64 { State.reset.pwr.domains[0] with st := .on }, vb := 12000, vin := 12000 }
  clk := { State.reset.clk with pll := .locked, refOk := true, coast := false, mux := 0b111111 }
  mem := { State.reset.mem with
    keysOk := true, gridOn := true, hbm := Vector.replicate 4 { State.reset.mem.hbm[0] with st := .ready } }
  net := { State.reset.net with
    dies := Vector.replicate 4 { State.reset.net.dies[0] with st := .locked, fenced := false, clockOn := true } }
  fab := Vector.replicate 4 { State.reset.fab[0] with
    cfgSt := .configured
    static_ := .held
    regions := State.reset.fab[0].regions.set 0
      ({ State.reset.fab[0].regions[0] with valid := true, width := 1, st := .held } : Region) }
  workers := Vector.replicate 32 { State.reset.workers[0] with st := .idle }
  groups := State.reset.groups.set 1 ({ State.reset.groups[1] with mode := .coded } : Group)
  ports := Vector.replicate 128 { State.reset.ports[0] with link := .waveform }
  brood := { State.reset.brood with
    sites := State.reset.brood.sites.set 0 ({ State.reset.brood.sites[0] with geom := some (geomOf (List.replicate 7 0)) } : Site) }
  tb := State.reset.tb.set 1 ({ State.reset.tb[1] with set := true } : TimeBase)
  swarm := { State.reset.swarm with
    id := 3
    links := State.reset.swarm.links.set 0
      ({ State.reset.swarm.links[0] with st := .active, enabled := true, mayTrain := true } : Laravo) }
  sec := { State.reset.sec with drbgOk := true, scope1 := true, scope2 := true } }

/-- The same device in another mode. -/
def readyIn (m : Mode) : State := { ready with rsc := { ready.rsc with mode := m } }

/-- The same device with Worker 1 HALTED, Worker 2 running and region 0 of every die running. -/
def atWork : State := { ready with
  workers := (ready.workers.set 1 ({ ready.workers[1] with st := .halted } : Worker)).set 2
    ({ ready.workers[2] with st := .running } : Worker)
  fab := Vector.replicate 4 { ready.fab[0] with
    regions := ready.fab[0].regions.set 0 ({ ready.fab[0].regions[0] with st := .running } : Region) } }

/-- The same device with slot 0 sealed, its stream partial or full. -/
def withSlot (partial_ : Bool) : State := { ready with cfg := { ready.cfg with
  slots := ready.cfg.slots.set 0 ({ ready.cfg.slots[0] with
    st := .sealed_, len := 160, facts := { ready.cfg.slots[0].facts with partial_ := partial_ } } : Slot) } }

/-- The same device with its stacks FROZEN. -/
def frozen : State := { ready with mem := { ready.mem with hbm := Vector.replicate 4 { ready.mem.hbm[0] with st := .frozen } } }

/-- A packet for this device: opcode, parameter words from offset 32, unit, host data. -/
def pk (op : BitVec 16) (params : Words) (unit : BitVec 16 := 0) (host : Option Bytes := none) : Pkt :=
  { opcode := op, flags := 0, version := 1, tag := 5, length := BitVec.ofNat 16 (32 + 4 * params.length), target := 0xFF
    unit := unit, rsv2 := 0, w3 := 0, w4 := 0, w5 := 0, w6 := 0, w7 := 0, params := params, host := host }

/-- `Accepted` as a Bool. -/
def meets (d : CmdDef) (p : Pkt) (s : State) : Bool :=
  s.canFetch && !s.unusable p && p.opcode = d.code && !s.tagUsed ⟨.pcie, p.tag⟩ && !s.abortAsked ⟨.pcie, p.tag⟩ &&
    (!s.mustWait .pcie p || d.code = 0x0003) && (acceptCheck d (taken p s) (Job.fresh .pcie p)).isNone && p.execAt = 0 &&
    (s.stuckAt p).isNone && !s.waitsMemory p

theorem accepted {d : CmdDef} {p : Pkt} {s : State} (h : meets d p s = true) : Accepted d p s := by
  simp only [meets, Bool.and_eq_true, Bool.or_eq_true, Bool.not_eq_true', decide_eq_true_eq, Option.isNone_iff_eq_none] at h
  obtain ⟨⟨⟨⟨⟨⟨⟨⟨⟨h1, h2⟩, h3⟩, h4⟩, h5⟩, h6⟩, h7⟩, h8⟩, h9⟩, h10⟩ := h
  exact ⟨⟨h1, h2, h3, h4, h5, h6, h7⟩, h8, h9, h10⟩

/-- The same device with one Worker running, its next bundle `b` at its first place, changed as said. -/
def runs (w : Fin 32) (b : Nat) (f : Worker → Worker := id) : State := { ready with
  workers := ready.workers.set w.val (f { ready.workers[0] with st := .running })
  mem := ready.mem.write (progBase w) (numBytes 8 b) }

/-- `Issues` as a Bool. -/
def issues (s : State) (w : Fin 32) (opc : Nat) : Bool :=
  s.mayIssue w && bitsOf (s.bundle w) 58 6 = opc && (s.bundleFault w).isNone &&
    (allFin 8).all (fun c => !s.workers[w.val].dbg.comps[c.val].en) && s.workers[w.val].dbg.stepLeft.isNone &&
    s.workers[w.val].dying.isNone

theorem issued {s : State} {w : Fin 32} {opc : Nat} (h : issues s w opc = true) : Issues s w opc := by
  simp only [issues, Bool.and_eq_true, Bool.not_eq_true', decide_eq_true_eq, Option.isNone_iff_eq_none, List.all_eq_true] at h
  obtain ⟨⟨⟨⟨⟨h1, h2⟩, h3⟩, h4⟩, h5⟩, h6⟩ := h
  exact ⟨h1, h2, h3, fun c => h4 c (by simp [allFin, List.mem_finRange]), h5, h6⟩

/-- The same device with the command `p` running. -/
def holding (d : CmdDef) (p : Pkt) (s : State := ready) : State :=
  { s with queen := { s.queen with jobs := [begunJob d p] } }

theorem endable (d : CmdDef) (p : Pkt) (s : State) : Endable (holding d p s) (begunJob d p) where
  held := by simp [State.job?, holding, sameKey_self]
  path := rfl
  kept := rfl
  calm := by simp [State.abortAsked, holding, Job.awaits, begunJob]

/-! What `WellFormed` refuses. -/

theorem wf_packet : (Instr.sysNop (pk 0 [])).wf = true ∧ (Instr.sysNop { pk 0 [7] with length := 32 }).wf = false := by decide
theorem wf_sample : (Instr.telemetrySample ⟨12000, 0, 12000, [], List.replicate 64 0, List.replicate 64 0⟩).wf = false := by decide
theorem wf_time_packet : (Instr.sync 0 ⟨[], 0, true, 0, 0, 0⟩).wf = false := by decide
theorem wf_calibration : (Instr.calibrationEnd [⟨0, 0, []⟩]).wf = false := by decide
theorem wf_detect : (Instr.detectEnd 0 []).wf = false := by decide
theorem wf_gates : (Instr.gateClose []).wf = false := by decide

/-! Worked examples of the spec. -/

/-- 03, after R79: `acc1` 0x00_0000_0003_8000_0000 read by `acc1.l` with shifts of −4 and +4. -/
theorem test_acc_read_down : accRead 0x00000000038000_0000 (-4) false = (0x38000000, false) := by decide
theorem test_acc_read_up : accRead 0x00000000038000_0000 4 false = (0, true) := by decide

/-! Workers (03). The statements' premise on memory holds in every state of `runs`. -/

theorem runs_wf (w : Fin 32) (b : Nat) (f : Worker → Worker) : (runs w b f).mem.wf = true := Mem.write_wf _ _ _ (by decide)

/-- Every route of the device is on, and every stack answers. -/
theorem ready_routes : ∀ a b : Fin 32, ready.routeOn 11 a b = true := by decide +kernel
theorem ready_opens (q : Requester) : ready.opens q := by
  refine ⟨fun n => ?_, by decide, by decide⟩
  have h : ready.stackGate n = none := by revert n; decide
  simp [State.stackServes, State.reaches, ready_routes, h]

theorem issues_nop : Issues (runs 2 (0x00 * 2 ^ 58)) 2 0x00 := issued (by decide)
theorem issues_add : Issues (runs 2 (0x02 * 2 ^ 58)) 2 0x02 := issued (by decide)
theorem issues_sub : Issues (runs 2 (0x03 * 2 ^ 58)) 2 0x03 := issued (by decide)
theorem issues_adc : Issues (runs 2 (0x04 * 2 ^ 58)) 2 0x04 := issued (by decide)
theorem issues_sbc : Issues (runs 2 (0x05 * 2 ^ 58)) 2 0x05 := issued (by decide)
theorem issues_and : Issues (runs 2 (0x06 * 2 ^ 58)) 2 0x06 := issued (by decide)
theorem issues_or : Issues (runs 2 (0x07 * 2 ^ 58)) 2 0x07 := issued (by decide)
theorem issues_xor : Issues (runs 2 (0x08 * 2 ^ 58)) 2 0x08 := issued (by decide)
theorem issues_andn : Issues (runs 2 (0x09 * 2 ^ 58)) 2 0x09 := issued (by decide)
theorem issues_cmp : Issues (runs 2 (0x0A * 2 ^ 58)) 2 0x0A := issued (by decide)
theorem issues_lsl : Issues (runs 2 (0x0B * 2 ^ 58)) 2 0x0B := issued (by decide)
theorem issues_lsr : Issues (runs 2 (0x0C * 2 ^ 58)) 2 0x0C := issued (by decide)
theorem issues_asr : Issues (runs 2 (0x0D * 2 ^ 58)) 2 0x0D := issued (by decide)
theorem issues_ror : Issues (runs 2 (0x0E * 2 ^ 58)) 2 0x0E := issued (by decide)
theorem issues_shi : Issues (runs 2 (0x0F * 2 ^ 58)) 2 0x0F := issued (by decide)
theorem issues_addi : Issues (runs 2 (0x10 * 2 ^ 58)) 2 0x10 := issued (by decide)
theorem issues_cmpi : Issues (runs 2 (0x11 * 2 ^ 58)) 2 0x11 := issued (by decide)
theorem issues_ldi : Issues (runs 2 (0x12 * 2 ^ 58)) 2 0x12 := issued (by decide)
theorem issues_mac : Issues (runs 2 (0x18 * 2 ^ 58)) 2 0x18 := issued (by decide)
theorem issues_mac2 : Issues (runs 2 (0x19 * 2 ^ 58)) 2 0x19 := issued (by decide)
theorem issues_aop : Issues (runs 2 (0x1A * 2 ^ 58)) 2 0x1A := issued (by decide)
theorem issues_vecr : Issues (runs 2 (0x29 * 2 ^ 58)) 2 0x29 := issued (by decide)
theorem issues_vmark : Issues (runs 2 (0x2B * 2 ^ 58)) 2 0x2B := issued (by decide)
theorem issues_wdr : Issues (runs 2 (0x33 * 2 ^ 58)) 2 0x33 := issued (by decide)
theorem issues_sig : Issues (runs 2 (0x32 * 2 ^ 58)) 2 0x32 := issued (by decide)

/-- A condition that holds (0, always) and one that does not (1, Z) with the taken bit of each branch. -/
theorem issues_bra : Issues (runs 2 (0x20 * 2 ^ 58)) 2 0x20 ∧ leavesBody (runs 2 (0x20 * 2 ^ 58)).workers[2] false 0 = false ∧
    condMet (bitsOf (runs 2 (0x20 * 2 ^ 58 + 2 ^ 55)).workers[2].pc.toNat 55 3) 0 false false = true := ⟨issued (by decide), by decide, by decide⟩
theorem issues_bra_not : let s := runs 2 (0x20 * 2 ^ 58 + 2 ^ 55)
    Issues s 2 0x20 ∧ condMet (bitsOf (s.bundle 2) 55 3) s.workers[2].addrView.flags false false = false := ⟨issued (by decide), by decide⟩
theorem issues_call : let s := runs 2 (0x21 * 2 ^ 58)
    Issues s 2 0x21 ∧ condMet (bitsOf (s.bundle 2) 55 3) 0 false false = true ∧ s.workers[2].stack.length < 16 :=
  ⟨issued (by decide), by decide, by decide⟩
theorem issues_call_not : let s := runs 2 (0x21 * 2 ^ 58 + 2 ^ 55)
    Issues s 2 0x21 ∧ condMet (bitsOf (s.bundle 2) 55 3) 0 false false = false := ⟨issued (by decide), by decide⟩
theorem issues_ret : let s := runs 2 (0x22 * 2 ^ 58) fun k => { k with stack := [0x7FFF] }
    Issues s 2 0x22 ∧ s.workers[2].stack = [0x7FFF] ∧ leavesBody s.workers[2] false 0x7FFF = false :=
  ⟨issued (by decide), by decide, by decide⟩
theorem issues_ret_not : let s := runs 2 (0x22 * 2 ^ 58 + 2 ^ 55)
    Issues s 2 0x22 ∧ condMet (bitsOf (s.bundle 2) 55 3) 0 false false = false := ⟨issued (by decide), by decide⟩
theorem issues_jmpr : let s := runs 2 (0x24 * 2 ^ 58)
    Issues s 2 0x24 ∧ leavesBody s.workers[2] false 0 = false := ⟨issued (by decide), by decide⟩
theorem issues_jmpr_not : let s := runs 2 (0x24 * 2 ^ 58 + 2 ^ 55)
    Issues s 2 0x24 ∧ condMet (bitsOf (s.bundle 2) 55 3) 0 false false = false := ⟨issued (by decide), by decide⟩
theorem issues_rti : let s := runs 2 (0x23 * 2 ^ 58)
    Issues s 2 0x23 ∧ leavesBody s.workers[2] false 0 = false := ⟨issued (by decide), by decide⟩

/-- A repeat with a count and one without, the last bundle of a level, and delay slots. -/
def counting (k : Worker) : Worker := { k with regs := { k.regs with d := k.regs.d.set 0 5 } }
def level (n : Nat) : RepLevel := { first := 0, last := 0, count := n, ib := false, depth := 0, inh := false }
theorem issues_rep : let s := runs 2 (0x25 * 2 ^ 58) counting
    Issues s 2 0x25 ∧ (s.workers[2].addrView.data (bitsOf (s.bundle 2) 54 4)).toNat = 5 ∧ s.workers[2].reps = [] :=
  ⟨issued (by decide), by decide, by decide⟩
theorem issues_rep_last : let s := runs 2 (0x25 * 2 ^ 58) fun k => { counting k with reps := [level 2] }
    Issues s 2 0x25 ∧ s.workers[2].reps = [level 2] ∧ (level 2).last = s.workers[2].pc ∧
      (level 2).depth = s.workers[2].stack.length ∧ (level 2).inh = s.workers[2].opView.inh ∧
      (level 2).first ≠ s.workers[2].pc + 1 := ⟨issued (by decide), by decide, by decide, by decide, by decide, by decide⟩
theorem issues_rep_zero : let s := runs 2 (0x25 * 2 ^ 58)
    Issues s 2 0x25 ∧ (s.workers[2].addrView.data (bitsOf (s.bundle 2) 54 4)).toNat = 0 := ⟨issued (by decide), by decide⟩
theorem issues_last (n : Nat) (h : n = 1 ∨ n = 2) : let s := runs 2 0 fun k => { k with reps := [level n] }
    Issues s 2 0 ∧ s.workers[2].delay = none ∧ s.workers[2].reps = [level n] ∧ s.workers[2].opView.inh = (level n).inh := by
  rcases h with rfl | rfl <;> exact ⟨issued (by decide), by decide, by decide, by decide⟩
theorem issues_outer : let m : RepLevel := { level 1 with last := 5 }
    let s := runs 2 0 fun k => { k with reps := [m, level 2] }
    Issues s 2 0 ∧ s.workers[2].delay = none ∧ s.workers[2].reps = [m, level 2] ∧ m.last ≠ s.workers[2].pc ∧
      (level 2).last = s.workers[2].pc ∧ (level 2).depth = s.workers[2].stack.length ∧ (level 2).inh = s.workers[2].opView.inh :=
  ⟨issued (by decide), by decide, by decide, by decide, by decide, by decide, by decide⟩
theorem issues_slot (n : Nat) (h : n = 1 ∨ n = 2) : let s := runs 2 0 fun k => { k with delay := some ⟨n, some 9, .push⟩ }
    Issues s 2 0 ∧ s.workers[2].delay = some ⟨n, some 9, .push⟩ ∧ s.workers[2].reps = [] := by
  rcases h with rfl | rfl <;> exact ⟨issued (by decide), by decide, by decide⟩

/-- Vector words: both quads, a window word, and a FIFO that is full. -/
def streaming (k : Worker) : Worker := { k with window := { k.window with
  en := true, len := 128, returned := [0], setEn := true, setLen := 128 } }
def full (s : State) : State := { s with groups := s.groups.set 2 { s.groups[2] with
  run := { s.groups[2].run with fifo := List.replicate 64 ⟨0, 0, 1, none, none, 0⟩ } } }
theorem issues_vec : Issues (runs 2 (0x28 * 2 ^ 58 + 3 * 2 ^ 37 + 3 * 2 ^ 17)) 2 0x28 ∧
    (runs 2 (0x28 * 2 ^ 58 + 3 * 2 ^ 37 + 3 * 2 ^ 17)).groups[2].run.fifo = [] ∧ workerGroup 2 = some 2 :=
  ⟨issued (by decide), by decide, by decide⟩
theorem issues_vec_window : let s := runs 2 (0x28 * 2 ^ 58 + 2 ^ 41) streaming
    Issues s 2 0x28 ∧ bitsOf (s.bundle 2) 41 2 = 1 ∧ s.workers[2].window.fault = none ∧ s.workers[2].window.waits = false :=
  ⟨issued (by decide), by decide, by decide, by decide⟩
theorem issues_vmatch : Issues (runs 2 (0x2A * 2 ^ 58 + 3 * 2 ^ 37 + 3 * 2 ^ 17)) 2 0x2A := issued (by decide)
theorem issues_vmatch_window : let s := runs 2 (0x2A * 2 ^ 58 + 2 ^ 41) streaming
    Issues s 2 0x2A ∧ s.workers[2].window.fault = none ∧ s.workers[2].window.waits = false := ⟨issued (by decide), by decide, by decide⟩
theorem issues_vec_full (b : Nat) (h : b = 3 * 2 ^ 37 + 3 * 2 ^ 17 ∨ b = 2 ^ 41) : let s (opc : Nat) := full (runs 2 (opc * 2 ^ 58 + b) streaming)
    Issues (s 0x28) 2 0x28 ∧ Issues (s 0x2A) 2 0x2A ∧ ¬ (s 0x28).groups[2].run.fifo.length < 64 ∧
      (s 0x28).workers[2].window.fault = none ∧ (s 0x28).workers[2].window.waits = false := by
  rcases h with rfl | rfl <;> exact ⟨issued (by decide), issued (by decide), by decide, by decide, by decide⟩
theorem issues_vec_waits : let s (opc : Nat) := runs 2 (opc * 2 ^ 58 + 2 ^ 41) fun k => { streaming k with
      window := { (streaming k).window with returned := [], len := 1024 } }
    Issues (s 0x28) 2 0x28 ∧ Issues (s 0x2A) 2 0x2A ∧ (s 0x28).workers[2].window.fault = none ∧
      (s 0x28).workers[2].window.half 0 ≠ .full ∧ (s 0x28).workers[2].window.half 0 ≠ .draining :=
  ⟨issued (by decide), issued (by decide), by decide, by decide, by decide⟩
theorem issues_vecr_full : let s := full (runs 2 (0x29 * 2 ^ 58))
    Issues s 2 0x29 ∧ ¬ s.groups[2].run.fifo.length < 64 := ⟨issued (by decide), by decide⟩

/-- Waits, ends, and bundles that issue again. -/
def reissues (s : State) (w : Fin 32) (opc : Nat) : Bool :=
  s.workers[w.val].st = .running && s.workerAlive w && !s.stallYields w && bitsOf (s.bundle w) 58 6 = opc &&
    (s.bundleFault w).isNone && (allFin 8).all (fun c => !s.workers[w.val].dbg.comps[c.val].en) &&
    s.workers[w.val].dbg.stepLeft.isNone && s.workers[w.val].dying.isNone
theorem reissued {s : State} {w : Fin 32} {opc : Nat} (h : reissues s w opc = true) : Reissues s w opc := by
  simp only [reissues, Bool.and_eq_true, Bool.not_eq_true', decide_eq_true_eq, Option.isNone_iff_eq_none, List.all_eq_true] at h
  obtain ⟨⟨⟨⟨⟨⟨⟨h1, h2⟩, h3⟩, h4⟩, h5⟩, h6⟩, h7⟩, h8⟩ := h
  exact ⟨h1, h2, h3, h4, h5, fun c => h6 c (by simp [allFin, List.mem_finRange]), h7, h8⟩
def stalled (x : Stall) (k : Worker) : Worker := { k with stall := some x }
theorem issues_vwait : let s := runs 2 (0x2C * 2 ^ 58) fun k => { k with started := true }
    Issues s 2 0x2C ∧ s.vwaitMet 2 (bitsOf (s.bundle 2) 54 4) (bitsOf (s.bundle 2) 40 14) = true := ⟨issued (by decide), by decide⟩
theorem issues_vwait_not : let s := runs 2 (0x2C * 2 ^ 58)
    Issues s 2 0x2C ∧ s.vwaitMet 2 (bitsOf (s.bundle 2) 54 4) (bitsOf (s.bundle 2) 40 14) = false := ⟨issued (by decide), by decide⟩
theorem issues_end : Issues (runs 4 (0x01 * 2 ^ 58)) 4 0x01 ∧ workerGroup 4 = none := ⟨issued (by decide), by decide⟩
def playing (s : State) : State := { s with groups := s.groups.set 2 { s.groups[2] with st := .playing } }
theorem issues_end_later : Issues (playing (runs 2 (0x01 * 2 ^ 58))) 2 0x01 ∧ (playing (runs 2 (0x01 * 2 ^ 58))).groups[2].st = .playing :=
  ⟨issued (by decide), by decide⟩
theorem reissues_vecr : Reissues (runs 2 (0x29 * 2 ^ 58) (stalled .fifo)) 2 0x29 := reissued (by decide)
theorem reissues_lck : Reissues (runs 2 (0x30 * 2 ^ 58) (stalled (.lock 0))) 2 0x30 ∧ ready.queen.sems[0] = none :=
  ⟨reissued (by decide), by decide⟩
theorem reissues_vwait : let s := runs 2 (0x2C * 2 ^ 58) fun k => { stalled (.vwait 0 0) k with started := true }
    Reissues s 2 0x2C ∧ s.vwaitMet 2 0 0 = true := ⟨reissued (by decide), by decide⟩
theorem reissues_vwait_not : let s := runs 2 (0x2C * 2 ^ 58) (stalled (.vwait 0 0))
    Reissues s 2 0x2C ∧ s.vwaitMet 2 0 0 = false := ⟨reissued (by decide), by decide⟩

/-- Semaphore 255 free, this Worker's, and the Queen core's. -/
def sem (o : Option (Fin 33)) (s : State) : State := { s with queen := { s.queen with sems := s.queen.sems.set 255 o } }
theorem issues_lck (o : Option (Fin 33)) (h : o = none ∨ o = some 2 ∨ o = some 32) :
    let s := sem o (runs 2 (0x30 * 2 ^ 58 + 255 * 2 ^ 50))
    Issues s 2 0x30 ∧ s.queen.sems[(Fin.ofNat 256 (bitsOf (s.bundle 2) 50 8)).val] = o := by
  rcases h with rfl | rfl | rfl <;> exact ⟨issued (by decide), by decide⟩
theorem issues_ulk (o : Option (Fin 33)) (h : o = none ∨ o = some 2) :
    let s := sem o (runs 2 (0x31 * 2 ^ 58 + 255 * 2 ^ 50))
    Issues s 2 0x31 ∧ s.queen.sems[(Fin.ofNat 256 (bitsOf (s.bundle 2) 50 8)).val] = o := by
  rcases h with rfl | rfl <;> exact ⟨issued (by decide), by decide⟩
def asked (k : Worker) : Worker := { k with dbg := { k.dbg with haltReq := true } }
theorem lock_breaks (n : Nat) (h : n = 255 ∨ n = 256) : let s := sem (some 2) (runs 2 0 fun k => { k with
      dbg := { k.dbg with haltReq := true, lockWait := n } })
    s.workers[2].st = .running ∧ s.workers[2].dbg.haltReq = true ∧ s.semsOf 2 ≠ [] ∧ s.workers[2].dbg.lockWait = n := by
  rcases h with rfl | rfl <;> decide +kernel

/-- A bundle that faults, a stop and a halt that are due. -/
theorem faults : let s := runs 2 (0x02 * 2 ^ 58 + 2 ^ 40)
    (Instr.add, 0x02) ∈ workerRows ∧ s.mayIssue 2 = true ∧ bitsOf (s.bundle 2) 58 6 = 0x02 ∧ s.bundleFault 2 = some 1 ∧
      s.workers[2].dying = none :=
  ⟨by simp [workerRows], by decide, by decide, by decide, by decide⟩
theorem nop_unlisted : let s := runs 2 (0x3F * 2 ^ 58)
    s.mayIssue 2 = true ∧ s.workers[2].dying = none ∧ bitsOf (s.bundle 2) 58 6 ≠ 0 ∧
      ∀ row ∈ workerRows.map (·.2), bitsOf (s.bundle 2) 58 6 ≠ row := by decide
theorem nop_reserved : let s := runs 2 (2 ^ 40)
    s.mayIssue 2 = true ∧ s.workers[2].dying = none ∧ bitsOf (s.bundle 2) 58 6 = 0 ∧ bitsOf (s.bundle 2) 40 18 ≠ 0 := by decide
theorem error_behind : let s := runs 2 0 fun k => { k with dying := some (9, 4) }
    s.mayIssue 2 = true ∧ bitsOf (s.bundle 2) 58 6 = 0 ∧ s.bundleFault 2 = none ∧ s.workers[2].dying = some (9, 4) := by decide
theorem stops : let s := playing (runs 2 0 fun k => { k with stopJob := true })
    s.workerAlive 2 = true ∧ s.workers[2].stopDue = true := by decide
theorem halts : (playing (runs 2 0 asked)).haltDue 2 = true ∧ (playing (runs 2 0 asked)).workerAlive 2 = true := by
  decide +kernel

/-- Timers at 1, a signal on its way, and two lines pending and enabled. -/
def ending (act : BitVec 2) (k : Worker) : Worker := { k with
  sigIn := 1, regs := { k.regs with wtimer := 1, wtimerCtrl := 1, wdog := 1, wdogCtrl := act } }
theorem timers_end : let k := (runs 2 0 (ending 1)).workers[2]
    k.regs.wtimerCtrl.getLsbD 0 = true ∧ k.regs.wtimer = 1 ∧ 0 < k.sigIn ∧ k.regs.wdogCtrl.getLsbD 0 = true ∧ k.regs.wdog = 1 ∧
      k.regs.wdogCtrl.getLsbD 1 = false := by decide
theorem watchdog_halts : (runs 2 0 (ending 3)).workers[2].regs.wdogCtrl.getLsbD 1 = true := by decide
def interrupted (k : Worker) : Worker := { k with regs := { k.regs with ie := true, wien := 0x8002, wipend := 0x8002 } }
theorem interrupt_due : let s := runs 2 0 interrupted
    s.workerAlive 2 = true ∧ s.haltDue 2 = false ∧ s.workers[2].ended = false ∧ s.workers[2].stall = none ∧
      s.workers[2].stopDue = false ∧ s.intDue 2 = true ∧ s.workers[2].opView.wipend.getLsbD 1 = true ∧
      s.workers[2].opView.wien.getLsbD 0 = false := by decide

/-! Port groups at play, fails and repair (04, 06). -/

/-- Group 2 changed. -/
def grp (f : Group → Group) (s : State := ready) : State := { s with groups := s.groups.set 2 (f s.groups[2]) }
/-- Its run changed. -/
def running (st : GSt) (f : Run → Run) (s : State := ready) : State := grp (fun x => { x with st := st, run := f x.run }) s
/-- Its pin 7 changed. -/
def pinned (f : PinFmt → PinFmt) (s : State := ready) : State :=
  grp (fun x => { x with pins := x.pins.set 7 { x.pins[7] with fmt := f x.pins[7].fmt } }) s
def entry (n : Nat) : Entry := ⟨0, 0, n, none, none, 0⟩
def start : Start := ⟨⟨.pcie, 9⟩, 4, [2, 0], none, some 100, 3, false, none⟩

theorem strobe_waits : let s := running .armed id { ready with starts := [start] }
    s.starts.find? (fun y => sameKey y.key ⟨.pcie, 9⟩ && !y.strobed) = some start ∧ start.groups.Nodup ∧ s.groups[2].st = .armed ∧ ({ start with tick := none } : Start).tick = none := by
  decide
theorem start_held : let s := running .armed (fun r => { r with strobed := true }) atWork
    s.groupAlive 2 = true ∧ s.groups[2].st = .armed ∧ s.groups[2].run.strobed = true ∧ s.workers[(groupWorker 2).val].st ≠ .halted := by decide
theorem start_halted : let s := running .armed (fun r => { r with strobed := true }) (runs 2 0 fun k => { k with st := .halted })
    s.groups[2].run.strobed = true ∧ s.workers[(groupWorker 2).val].st = .halted := by decide
theorem start_plays : let s := running .armed (fun r => { r with strobed := true, fifo := [entry 1] })
    s.groups[2].run.fifo = [entry 1] ∧ s.groups[2].run.cur = none ∧ (entry 1).ready ≤ s.groups[2].run.t0 ∧
      s.groups[2].tapReady = true := by decide
theorem start_underruns : let s := running .armed fun r => { r with strobed := true }
    s.groups[2].run.fifo = [] ∧ s.groups[2].underrunStop = false := by decide
theorem plays_again : let s := running .playing fun r => { r with cur := some (entry 2), plays := 1 }
    s.groupAlive 2 = true ∧ s.groups[2].run.stopping = false ∧ s.groups[2].run.ending = false ∧ s.groups[2].tapReady = true ∧
      s.groups[2].run.plays < (entry 2).plays ∧ (entry 2).match_ = none := by decide
theorem plays_next : let s := running .underrun fun r => { r with cur := some (entry 2), plays := 2, fifo := [entry 1] }
    s.groups[2].st = .underrun ∧ s.groups[2].run.fifo = [entry 1] ∧ (entry 2).plays ≤ s.groups[2].run.plays ∧
      (entry 1).ready ≤ s.groups[2].run.nextAt := by decide
theorem underruns (st : GSt) (h : st = .playing ∨ st = .underrun) : let s := running st id atWork
    s.groups[2].run.stopping = false ∧ s.runMayEnd 2 = false ∧ s.groups[2].run.next = .none_ ∧ s.groups[2].st = st ∧
      s.workers[(groupWorker 2).val].st = .running := by rcases h with rfl | rfl <;> decide
theorem underrun_stops : let s := grp (fun x => { x with underrunStop := true }) (running .playing id atWork)
    s.groups[2].st = .playing ∧ s.groups[2].underrunStop = true ∧ s.groups[2].run.next = .none_ := by decide
theorem pin_moves : let s := pinned (fun f => { f with txq := [⟨300, true, 0, false⟩, ⟨556, false, 0, true⟩], lastTx := some 44 })
    let f := s.groups[2].pins[7].fmt
    s.groups[2].settledAt 7 false 300 = true ∧ firstTrans f.txq = some ⟨300, true, 0, false⟩ ∧ s.groups[2].run.haltAt = none ∧ (∀ l ∈ f.lastTx, l + 256 ≤ 300) ∧
      (∀ b ∈ f.txq.erase ⟨300, true, 0, false⟩, (300 : Int) + 256 ≤ b.time) ∧ s.ports[(groupPort 2 7).val].link = .waveform := by decide
theorem pin_tested : let s := pinned (fun f => { f with txq := [⟨300, true, 0, false⟩] }) { ready with
      ports := ready.ports.set 23 { ready.ports[23] with test := some ⟨.low, .low, none⟩ } }
    s.groups[2].settledAt 7 false 300 = true ∧ firstTrans s.groups[2].pins[7].fmt.txq = some ⟨300, true, 0, false⟩ ∧
      groupPort 2 7 = 23 ∧ s.ports[23].link = .waveform ∧ s.ports[23].test.isSome = true := by decide
theorem pin_clashes : let s := pinned (fun f => { f with txeq := [⟨300, true, 0, false⟩, ⟨555, false, 0, true⟩] })
    let f := s.groups[2].pins[7].fmt
    s.groups[2].settledAt 7 true 300 = true ∧ firstTrans f.txeq = some ⟨300, true, 0, false⟩ ∧ f.lastTxe = none ∧ ∃ b ∈ f.txeq.erase ⟨300, true, 0, false⟩, b.time < 300 + 256 := by
  decide
theorem pin_waits : let s := running .playing id (pinned fun f => { f with txq := [⟨300, true, 0, false⟩] })
    firstTrans s.groups[2].pins[7].fmt.txq = some ⟨300, true, 0, false⟩ ∧ s.groups[2].settledAt 7 false 300 = false := by decide
theorem tap_announces : let s := grp (fun x => { x with tapEn := true }) (running .playing fun r => { r with fifo := [entry 1] })
    s.groups[2].tapEn = true ∧ s.fab[0].edgeIn = [] ∧ s.groups[2].run.ending = false ∧ s.groups[2].run.upcoming s.groups[2].run.tapAhead = some (entry 1, true) := by
  decide
theorem tap_samples : let s := grp (fun x => { x with tapEn := true }) (running .playing fun r => { r with tapAhead := 1 })
    s.groups[2].run.tapGot.length < s.groups[2].run.tapAhead ∧ s.edgeOut 0 0 0 = 0 := by decide

/-- Compares and fail bits. -/
def cmp (word : Option (Nat × Nat)) (fail : Option Bool) : Compare := ⟨9, some 300, none, 300, false, 6, word, fail⟩
def opened (left : Nat) : OpenCycle := ⟨6, left, 0, 0, 0, 0, false⟩
/-- The low comparator alone, the high one alone, a window's inner and last samples, and both comparators in each order. -/
theorem strobe_due (a : Compare) (h : a = cmp none none ∨ a = ⟨8, none, some 300, 300, false, 6, none, none⟩ ∨
    a = ⟨12, none, some 300, 428, false, 6, none, none⟩ ∨ a = ⟨13, some 301, none, 428, true, 6, none, none⟩ ∨
    a = ⟨10, some 300, some 301, 301, false, 6, none, none⟩ ∨ a = ⟨10, some 301, some 300, 301, false, 6, none, none⟩ ∨
    a = ⟨10, some 300, some 300, 300, false, 6, none, none⟩ ∨ a = ⟨10, none, some 300, 300, true, 6, none, none⟩) :
    let s := pinned (fun f => { f with strobes := [a] })
    firstStrobe s.groups[2].pins[7].fmt.strobes = some a ∧ s.groups[2].run.haltAt = none ∧ s.groupAlive 2 = true ∧
      s.portLive (groupPort 2 7) = true := by
  rcases h with rfl | rfl | rfl | rfl | rfl | rfl | rfl | rfl <;> decide
theorem fail_of_match : let s := pinned (fun f => { f with strobes := [cmp (some (0, 6)) (some true)] })
    s.groups[2].pins[7].fmt.strobes.find? (·.fail.isSome) = some (cmp (some (0, 6)) (some true)) := by decide
theorem fail_of_cycle (left : Nat) (h : left = 1 ∨ left = 2) :
    let s := grp (fun x => { x with fail := { x.fail with open_ := [opened left] } })
      (pinned (fun f => { f with strobes := [cmp none (some true)] }))
    s.groups[2].pins[7].fmt.strobes.find? (·.fail.isSome) = some (cmp none (some true)) ∧
      s.groups[2].fail.open_ = [opened left] ∧ (opened left).cycle = (cmp none (some true)).cycle ∧
      s.groups[2].fail.suppress = false ∧ s.groups[2].fail.fifo = [] ∧ s.groups[2].fail.threshold = 0 := by
  rcases h with rfl | rfl <;> decide
def match_ (ended passed : Bool) : MatchSt := ⟨0, 1, 1, ended, passed, false, [⟨6, 0, false, 0⟩]⟩
theorem match_decides : let s := running .playing fun r => { r with matches_ := [match_ false false] }
    s.groups[2].run.matches_ = [] ++ match_ false false :: [] ∧ (match_ false false).timeout ≤ (match_ false false).decided := by decide
theorem match_fails : let s := running .playing fun r => { r with matches_ := [match_ true false] }
    s.groups[2].run.matches_.find? (fun y => !y.resolved) = some (match_ true false) ∧
      (match_ true false).plays.length = (match_ true false).decided ∧ ∀ q ∈ (match_ true false).plays, q.left = 0 := by decide
theorem match_passes : let s := running .playing fun r => { r with matches_ := [match_ true true] }
    s.groups[2].run.matches_.find? (fun y => !y.resolved) = some (match_ true true) := by decide
theorem chunk_returns : let s := runs 2 0 fun k => { k with window := { k.window with en := true, len := 128 } }
    s.workers[2].active = true ∧ s.workerAlive 2 = true ∧ s.mem.rekey = none ∧ s.workers[2].window.outstanding = some 0 ∧
      s.net.mesh = [] ∧ (s.hbmOpen (.worker 2) (s.workers[2].window.base.toNat + 4096 * 0) 4096 .ok).fail = none := by
  intro s
  have o : s.opens (.worker 2) := opens_of (s := ready) (ready_opens _) rfl rfl rfl (fun _ => rfl) (fun _ => rfl)
  exact ⟨by decide, by decide, by decide, by decide, by decide, hbmOpen_ok o _ _ (by decide)⟩
/-- Fail logic of group 2 with its last bit of a failing cycle, and a record that has come over the network. -/
def failing (f : GFail → GFail) : State := grp (fun x => { x with
    pins := x.pins.set 7 { x.pins[7] with en := true }, fail := f { x.fail with open_ := [opened 1] } })
  (pinned (fun f => { f with strobes := [cmp none (some true)] }))
def failKey : FailKey := ⟨128, 0, 0⟩
theorem record_formed (f : GFail → GFail) (h : f = id ∨ f = (fun x => { x with suppress := true, lastRec := x.lastRec.set 0 (some failKey) }) ∨
    f = (fun x => { x with fifo := List.replicate 1024 0 }) ∨ f = (fun x => { x with threshold := 1 })) :
    let s := failing f
    s.groupAlive 2 = true ∧ s.groups[2].pins[7].fmt.strobes.find? (·.fail.isSome) = some (cmp none (some true)) ∧
      s.groups[2].fail.open_ = [opened 1] ∧ ((allFin 32).filter fun i => s.groups[2].sitePins 128 i != 0) = [0] ∧
      (opened 1).pins ||| BitVec.ofNat 8 (2 ^ 7) = 128 ∧ s.groups[2].fail.fired = false ∧
      ({ pins := s.groups[2].sitePins 128 0, addr := (opened 1).addr, data := (opened 1).data } : FailKey) = failKey := by
  rcases h with rfl | rfl | rfl | rfl <;> decide +kernel
theorem record_fields (f : GFail → GFail) (n : Nat) (h : f = (fun x => { x with fifo := List.replicate 1024 0 }) ∧ n = 1024 ∨ f = id ∧ n = 0) :
    (failing f).groups[2].fail.fifo.length = n := by
  rcases h with ⟨rfl, rfl⟩ | ⟨rfl, rfl⟩ <;> decide +kernel
def arrived (f : Brood → Brood) : State := { ready with brood := f { ready.brood with inbox := [(2, 0)] } }
theorem record_waits : let s := arrived id
    s.pdOn 14 = true ∧ s.hiveClocked = true ∧ s.brood.inbox.find? (·.1 = 2) = some (2, 0) ∧ s.brood.sites[(recSite 0).val].size = 0 ∧
      s.brood.logMode = 0 := by decide
theorem record_lost : let s := arrived fun b => { b with logMode := 2, logSize := 8, logHead := 256 }
    s.brood.logMode = 2 ∧ 2 ^ s.brood.logSize.toNat ≤ s.brood.logHead.toNat := by decide
theorem record_logged : let s := arrived fun b => { b with logMode := 1, logSize := 8, logBase := 512 }
    let slot := s.brood.logBase.toNat + 16 * (s.brood.logHead.toNat % 2 ^ s.brood.logSize.toNat)
    s.brood.logMode ≠ 0 ∧ s.brood.logMode ≠ 2 ∧ slot / 512 = (slot + 15) / 512 ∧ slot + 16 ≤ hbmBytes := by decide
theorem marker_shows : (running .playing fun r => { r with marks := [(255, 6)] }).groups[2].run.marks = (255, 6) :: [] := by decide
theorem run_stops : let s := running .playing fun r => { r with stopping := true }
    s.groups[2].drained = true ∧ s.groups[2].run.stopping = true := by decide
theorem run_ends : let s := running .playing id (runs 2 0 fun k => { k with ended := true })
    s.groups[2].drained = true ∧ s.groups[2].run.next = .none_ ∧ s.workers[(groupWorker 2).val].ended = true := by decide
theorem run_ending : (pinned fun f => { f with strobes := [cmp none none] }).groups[2].drained = false := by decide
def block : Block := ⟨0, [], [], [], [], false, 0, false, false, []⟩
def sited (f : Site → Site) : State := { ready with brood := { ready.brood with sites := ready.brood.sites.set 0 (f ready.brood.sites[0]) } }
theorem block_swept : let s := sited fun x => { x with blocks := [block] }
    s.pdOn 14 = true ∧ s.hiveClocked = true ∧ s.brood.sites[0].blocks.find? (fun b => b.num = 0) = some block ∧
      ∀ g ∈ s.brood.sites[0].geom, g.sRows ≤ 15 ∧ g.sCols ≤ 15 := by decide
def solving (mask : BitVec 32) (started : Bool) (s : State) : State :=
  { s with brood := { s.brood with solves := [⟨⟨.pcie, 9⟩, mask, started, 0⟩] } }
theorem solve_begins : let s := solving 1 false ready
    s.brood.solves.find? (fun y => !y.started) = some ⟨⟨.pcie, 9⟩, 1, false, 0⟩ ∧ s.broodRuns = true ∧ ∀ i ∈ sitesOf 1, s.inFlight i = 0 := by decide +kernel
theorem solve_waits : let s := solving 1 false (arrived id)
    ∃ i ∈ sitesOf 1, s.siteFenced i = false ∧ s.inFlight i ≠ 0 := by decide +kernel
theorem solve_completes : let s := solving 1 true (sited fun x => { x with blocks := [block] })
    s.brood.solves.find? (fun y => y.started) = some ⟨⟨.pcie, 9⟩, 1, true, 0⟩ ∧ s.broodRuns = true ∧ 0 ∈ sitesOf 1 ∧ s.brood.sites[0].geom.isSome = true ∧
      ∀ b ∈ s.brood.sites[0].blocks, b.rows = [] ∧ b.cols = [] := by decide +kernel

/-! Test ports (05). -/

/-- Port 8 changed, its group in a mode. -/
def lane (m : GMode) (f : PortSt → PortSt) (s : State := ready) : State := { s with
  groups := s.groups.set 1 { s.groups[1] with mode := m }
  ports := s.ports.set 8 (f s.ports[8]) }
def fed : State := { ready with fab := ready.fab.set 0 { ready.fab[0] with
  static_ := .running, regs := [(regKey (tileX 16) 0 392, 1)] } }
def prbs (gen chk locked : Bool) (p : PortSt) : PortSt :=
  { p with link := .cdrLock, prbs := { p.prbs with on := true, gen := gen, chk := chk, locked := locked } }

theorem code_reads : ∀ c ∈ [(true, 0xBC), (false, 255)], c.2 < 256 ∧ (c.1 = true → isKChar c.2 = true) := by decide
/-- A code group that is no character, and K28.5 at the other disparity. -/
theorem groups_wrong : decodeGroup (revBits 10 (0 : BitVec 10).toNat) false = .codeErr ∧ decodeGroup (revBits 10 (0x17C : BitVec 10).toNat) true = .dispErr ∧
    ready.ports[8].rxChars.length < 3 := by decide +kernel
theorem sends_inverted : let s := lane .raw (fun p => { p with started := true, inv := 1 }) fed
    s.laneOn 8 = true ∧ s.portSafe 8 = false ∧ s.ports[8].inv.getLsbD 0 = true := by decide +kernel
theorem sends_raw : let s := lane .raw (fun p => { p with started := true }) fed
    s.laneOn 8 = true ∧ s.portSafe 8 = false ∧ s.ports[8].started = true ∧ (s.offered 8).1 = true ∧
      s.ports[8].inv.getLsbD 0 = false ∧ s.groups[(portGroup 8).val].mode = .raw := by decide +kernel
theorem sends_fill (m : GMode) (h : m = .raw ∨ m = .coded) : let s := lane m fun p => { p with started := true }
    s.laneOn 8 = true ∧ s.ports[8].started = true ∧ (s.offered 8).1 = false ∧ s.groups[(portGroup 8).val].mode = m := by
  rcases h with rfl | rfl <;> decide +kernel
theorem sends_looped : let s := { lane .raw (fun p => { p with started := true }) with
      groups := ready.groups.set 1 { ready.groups[1] with mode := .raw, loopback := true } }
    s.laneOn 8 = true ∧ s.looped 8 = true ∧ s.ports[8].started = true := by decide +kernel
theorem sends_prbs : let s := lane .raw (prbs true false false)
    s.laneOn 8 = true ∧ s.ports[8].started = false ∧ s.ports[8].prbs.gen = true ∧ s.ports[8].prbs.insert_ = false := by decide +kernel
theorem receives_coded : let s := lane .coded fun p => { p with started := true, link := .aligned }
    s.receives 8 = true ∧ s.ports[8].prbs.on = false ∧ s.fab[0].edgeIn = [] ∧ s.ports[8].test = none ∧ s.looped 8 = false ∧
      s.ports[8].inv.getLsbD 2 = false := by decide +kernel
theorem receives_raw : let s := lane .raw fun p => { p with started := true, link := .cdrLock }
    s.receives 8 = true ∧ s.ports[8].slips = 0 ∧ s.ports[8].rxHave = 0 ∧ s.ports[8].rxBits = 0 := by decide +kernel
theorem receives_looped : let s := { lane .raw (fun p => { p with started := true, loop := List.replicate 32 true }) with
      groups := ready.groups.set 1 { ready.groups[1] with mode := .raw, loopback := true } }
    s.receives 8 = true ∧ s.looped 8 = true ∧ s.ports[8].loop = (List.range 32).map (0xFFFFFFFF : Word).getLsbD := by decide +kernel
theorem slips_asked (n : Nat) (h : n = 0 ∨ n = 1) : let s := lane .raw fun p => { p with started := true, slipAsk := n }
    s.laneOn 8 = true ∧ s.ports[8].slipAsk = n := by rcases h with rfl | rfl <;> decide +kernel
theorem receives_prbs : let s := lane .raw (prbs false true false)
    s.receives 8 = true ∧ s.ports[8].prbs.chk = true ∧ s.ports[8].prbs.locked = false := by decide +kernel
theorem checker_locked : (lane .raw (prbs false true true)).ports[8].prbs.locked = true := by decide
theorem word_starts : let p := { ready.ports[8] with sync := .synced 0 0 false }
    p.sync = .synced 0 0 false ∧ p.rxLine = [] ∧ p.rxChars = [] := by decide
theorem alignment_due : (lane .coded fun p => { p with sync := .synced 1 2 true }).ports[8].sync.aligned = true ∧
    ready.ports[8].sync.aligned = false := by decide
theorem checker_due : let x := (lane .raw fun p => { p with prbs := { p.prbs with on := true, chk := true, same := 64 } }).ports[8].prbs
    x.on = true ∧ x.chk = true ∧ x.locked = false ∧ x.same = 64 ∧ x.todo = [] ∧ x.swapSeen = false := by decide
theorem swap_due (a : Bool) : let p := (lane .raw fun p =>
      { p with link := .cdrLock, auto_ := a, prbs := { p.prbs with on := true, chk := true, opp := 64 } }).ports[8]
    p.prbs.locked = false ∧ p.prbs.opp = 64 ∧ p.prbs.swapSeen = false ∧ p.auto_ = a ∧ p.link = .cdrLock := by cases a <;> decide
theorem loss_due : let x := (prbs false true true { ready.ports[8] with prbs := { ready.ports[8].prbs with recent := 0xFFFF } }).prbs
    x.on = true ∧ x.locked = true ∧ 16 ≤ onesCount 64 x.recent.toNat := by decide
theorem lane_states (l : Link) (h : l = .noSignal ∨ l = .cdrLock ∨ l = .aligned) :
    let s := lane .coded fun p => { p with started := true, link := l }
    s.groups[(portGroup 8).val].mode = .coded ∧ s.ports[8].link = l ∧ s.ports[8].started = true ∧ s.portOn 8 = true ∧ s.ports[8].stale = false := by
  rcases h with rfl | rfl | rfl <;> decide

/-! Every command meets its checks somewhere (02, R35; 19, R473). -/

theorem sysNop_accepted : Accepted cmdSysNop (pk 0x0 []) ready := accepted (by decide +kernel)
theorem sysIdentify_accepted : Accepted cmdSysIdentify (pk 0x1 []) ready := accepted (by decide +kernel)
theorem sysInventory_accepted : Accepted cmdSysInventory (pk 0x2 []) ready := accepted (by decide +kernel)
theorem sysAbort_accepted : Accepted cmdSysAbort (pk 0x3 [9]) ready := accepted (by decide +kernel)
theorem sysReset_accepted : Accepted cmdSysReset (pk 0x4 [1, 0x5155]) ready := accepted (by decide +kernel)
theorem sysStatus_accepted : Accepted cmdSysStatus (pk 0x5 []) ready := accepted (by decide +kernel)
theorem modeGet_accepted : Accepted cmdModeGet (pk 0x100 []) ready := accepted (by decide +kernel)
theorem modeSet_accepted : Accepted cmdModeSet (pk 0x101 [4]) ready := accepted (by decide +kernel)
theorem pwrDomainSet_accepted : Accepted cmdPwrDomainSet (pk 0x200 [0x80, 0, 1]) ready := accepted (by decide +kernel)
theorem pwrDomainGet_accepted : Accepted cmdPwrDomainGet (pk 0x201 [7, 0]) ready := accepted (by decide +kernel)
theorem pwrBudgetSet_accepted : Accepted cmdPwrBudgetSet (pk 0x202 [0x1194, 0x9c40]) ready := accepted (by decide +kernel)
theorem pwrLimitsSet_accepted : Accepted cmdPwrLimitsSet (pk 0x203 [0x15e0, 0x50, 0]) ready := accepted (by decide +kernel)
theorem pwrTelemetry_accepted : Accepted cmdPwrTelemetry (pk 0x204 [1, 0, 0]) ready := accepted (by decide +kernel)
theorem clkStatus_accepted : Accepted cmdClkStatus (pk 0x300 []) ready := accepted (by decide +kernel)
theorem clkSelect_accepted : Accepted cmdClkSelect (pk 0x301 [1]) ready := accepted (by decide +kernel)
theorem clkOutSet_accepted : Accepted cmdClkOutSet (pk 0x302 [0x400000, 0x1400] 3) ready := accepted (by decide +kernel)
theorem clkMeasure_accepted : Accepted cmdClkMeasure (pk 0x303 [0xa, 0, 0, 0, 0, 0, 0, 0, 0, 0]) ready := accepted (by decide +kernel)
theorem cfgStage_accepted : Accepted cmdCfgStage (pk 0x400 [0, 0, 0, 0, 0, 0, 0, 0]) ready := accepted (by decide +kernel)
theorem cfgLoad_accepted : Accepted cmdCfgLoad (pk 0x401 [0]) (withSlot false) := accepted (by decide +kernel)
theorem cfgRegionLoad_accepted : Accepted cmdCfgRegionLoad (pk 0x402 [0]) (withSlot true) := accepted (by decide +kernel)
theorem cfgRegionStart_accepted : Accepted cmdCfgRegionStart (pk 0x403 [0x10]) ready := accepted (by decide +kernel)
theorem cfgRegionStop_accepted : Accepted cmdCfgRegionStop (pk 0x404 [0x10]) ready := accepted (by decide +kernel)
theorem cfgReadback_accepted : Accepted cmdCfgReadback (pk 0x405 [1, 0, 0, 0, 0, 0]) ready := accepted (by decide +kernel)
theorem cfgBootRecordSet_accepted : Accepted cmdCfgBootRecordSet (pk 0x406 [0, 0x400, 0xa0, 0x800, 0xa0]) ready := accepted (by decide +kernel)
theorem cfgProbeSet_accepted : Accepted cmdCfgProbeSet (pk 0x407 [0, 0, 0, 0, 0, 0, 0, 0, 0, 0, 0, 0, 0, 0, 0, 0, 0, 0, 0x1000, 0x1000, 0, 0]) ready := accepted (by decide +kernel)
theorem portSet_accepted : Accepted cmdPortSet (pk 0x500 [0, 0, 0, 0, 0, 0, 0, 0, 0, 0, 0, 0, 0, 0, 0, 0, 0, 0, 0, 0, 0, 0, 0, 0, 0, 0, 0, 0, 0, 0, 0, 0, 0, 0, 0, 0, 0, 0, 0, 0]) ready := accepted (by decide +kernel)
theorem portGet_accepted : Accepted cmdPortGet (pk 0x501 [] 15) ready := accepted (by decide +kernel)
theorem portStart_accepted : Accepted cmdPortStart (pk 0x502 [1] 1) ready := accepted (by decide +kernel)
theorem portStop_accepted : Accepted cmdPortStop (pk 0x503 [1] 1) ready := accepted (by decide +kernel)
theorem portLinkStatus_accepted : Accepted cmdPortLinkStatus (pk 0x504 [0x1ff]) ready := accepted (by decide +kernel)
theorem portDetect_accepted : Accepted cmdPortDetect (pk 0x505 [1]) ready := accepted (by decide +kernel)
theorem portPrbs_accepted : Accepted cmdPortPrbs (pk 0x506 [0x8101] 1) ready := accepted (by decide +kernel)
theorem timTimingSet_accepted : Accepted cmdTimTimingSet (pk 0x600 [0x10000, 0]) ready := accepted (by decide +kernel)
theorem timDeskew_accepted : Accepted cmdTimDeskew (pk 0x601 [0, 1]) (readyIn .maintain) := accepted (by decide +kernel)
theorem timSiteMap_accepted : Accepted cmdTimSiteMap (pk 0x602 [0, 0, 0, 0, 0, 0, 0, 0]) ready := accepted (by decide +kernel)
theorem workLoad_accepted : Accepted cmdWorkLoad (pk 0x700 [1, 0, 0, 0, 8, 0, 0] 0 (some (List.replicate 64 0))) ready := accepted (by decide +kernel)
theorem workStart_accepted : Accepted cmdWorkStart (pk 0x701 [1, 0, 0, 0, 0, 0, 0, 0, 0, 0, 0, 0, 0, 0, 0, 0, 0, 0]) ready := accepted (by decide +kernel)
theorem workStop_accepted : Accepted cmdWorkStop (pk 0x702 [1]) ready := accepted (by decide +kernel)
theorem workStatus_accepted : Accepted cmdWorkStatus (pk 0x703 [1]) ready := accepted (by decide +kernel)
theorem workStreamSet_accepted : Accepted cmdWorkStreamSet (pk 0x704 [0, 0, 0, 0, 0]) ready := accepted (by decide +kernel)
theorem workSignal_accepted : Accepted cmdWorkSignal (pk 0x705 [1]) ready := accepted (by decide +kernel)
theorem failSet_accepted : Accepted cmdFailSet (pk 0x800 [1, 0, 0, 0, 0, 0, 0]) ready := accepted (by decide +kernel)
theorem failCounts_accepted : Accepted cmdFailCounts (pk 0x801 [1]) ready := accepted (by decide +kernel)
theorem failClear_accepted : Accepted cmdFailClear (pk 0x802 [1]) ready := accepted (by decide +kernel)
theorem broodGeometry_accepted : Accepted cmdBroodGeometry (pk 0x900 [0, 0, 0, 0, 0, 0, 0]) ready := accepted (by decide +kernel)
theorem broodPartition_accepted : Accepted cmdBroodPartition (pk 0x901 [0, 0, 0, 0, 0, 0, 0, 0, 0, 0, 0, 0, 0, 0, 0, 0, 0, 0, 0, 0, 0, 0, 0, 0, 0, 0, 0, 0, 0, 0, 0, 0]) ready := accepted (by decide +kernel)
theorem broodSolve_accepted : Accepted cmdBroodSolve (pk 0x902 [1]) ready := accepted (by decide +kernel)
theorem broodResult_accepted : Accepted cmdBroodResult (pk 0x903 [0, 1]) ready := accepted (by decide +kernel)
theorem broodClear_accepted : Accepted cmdBroodClear (pk 0x904 [1]) ready := accepted (by decide +kernel)
theorem memStatus_accepted : Accepted cmdMemStatus (pk 0xA00 [1]) ready := accepted (by decide +kernel)
theorem memTrain_accepted : Accepted cmdMemTrain (pk 0xA01 [1]) (readyIn .maintain) := accepted (by decide +kernel)
theorem memThaw_accepted : Accepted cmdMemThaw (pk 0xA02 [1]) frozen := accepted (by decide +kernel)
theorem memRekey_accepted : Accepted cmdMemRekey (pk 0xA03 [1]) (readyIn .maintain) := accepted (by decide +kernel)
theorem memCopy_accepted : Accepted cmdMemCopy (pk 0xA04 [0, 0, 0, 0, 0x1000, 0, 0x40, 0]) ready := accepted (by decide +kernel)
theorem memFill_accepted : Accepted cmdMemFill (pk 0xA05 [0, 0, 8, 0, 0, 0]) ready := accepted (by decide +kernel)
theorem netStatus_accepted : Accepted cmdNetStatus (pk 0xB00 [1]) ready := accepted (by decide +kernel)
theorem netLaneRemap_accepted : Accepted cmdNetLaneRemap (pk 0xB01 [0, 0]) (readyIn .maintain) := accepted (by decide +kernel)
theorem netCreditAudit_accepted : Accepted cmdNetCreditAudit (pk 0xB02 []) ready := accepted (by decide +kernel)
theorem netDieReset_accepted : Accepted cmdNetDieReset (pk 0xB03 []) ready := accepted (by decide +kernel)
theorem netDieFence_accepted : Accepted cmdNetDieFence (pk 0xB04 []) ready := accepted (by decide +kernel)
theorem netLatencyLock_accepted : Accepted cmdNetLatencyLock (pk 0xB05 [1]) ready := accepted (by decide +kernel)
theorem swarmNeighbours_accepted : Accepted cmdSwarmNeighbours (pk 0xC00 [1]) ready := accepted (by decide +kernel)
theorem swarmIdSet_accepted : Accepted cmdSwarmIdSet (pk 0xC01 [3]) ready := accepted (by decide +kernel)
theorem swarmRouteSet_accepted : Accepted cmdSwarmRouteSet (pk 0xC02 [0x100, 0, 0]) ready := accepted (by decide +kernel)
theorem swarmLinkSet_accepted : Accepted cmdSwarmLinkSet (pk 0xC03 [2, 0]) ready := accepted (by decide +kernel)
theorem swarmForward_accepted : Accepted cmdSwarmForward (pk 0xC04 [0x10001, 0xa, 0, 1, 0x1000000, 0x200007, 0, 0, 0, 0, 0, 0]) ready := accepted (by decide +kernel)
theorem timeGet_accepted : Accepted cmdTimeGet (pk 0xD00 [1]) ready := accepted (by decide +kernel)
theorem timeSet_accepted : Accepted cmdTimeSet (pk 0xD01 [0, 5, 6, 0, 0]) ready := accepted (by decide +kernel)
theorem timeAdjust_accepted : Accepted cmdTimeAdjust (pk 0xD02 [1, 9, 0, 1, 0]) ready := accepted (by decide +kernel)
theorem timeSyncSet_accepted : Accepted cmdTimeSyncSet (pk 0xD03 [2, 0, 0, 0, 0]) ready := accepted (by decide +kernel)
theorem timeJumpLimit_accepted : Accepted cmdTimeJumpLimit (pk 0xD04 [0, 1]) ready := accepted (by decide +kernel)
theorem secAttest_accepted : Accepted cmdSecAttest (pk 0xE00 [0, 0, 0, 0, 0, 0, 0, 0, 0, 0, 0, 0, 0, 0, 0, 0]) ready := accepted (by decide +kernel)
theorem secOwnerEnrol_accepted : Accepted cmdSecOwnerEnrol (pk 0xE01 [0x100, 0, 0, 0, 0xe5]) (readyIn .maintain) := accepted (by decide +kernel)
theorem secCounterAdvance_accepted : Accepted cmdSecCounterAdvance (pk 0xE02 [1, 1]) ready := accepted (by decide +kernel)
theorem secNvStatus_accepted : Accepted cmdSecNvStatus (pk 0xE03 []) ready := accepted (by decide +kernel)
theorem secNvRefresh_accepted : Accepted cmdSecNvRefresh (pk 0xE04 []) (readyIn .maintain) := accepted (by decide +kernel)
theorem secCertGet_accepted : Accepted cmdSecCertGet (pk 0xE05 [0]) ready := accepted (by decide +kernel)
theorem bistRun_accepted : Accepted cmdBistRun (pk 0xF00 [2, 0, 0, 0]) (readyIn .maintain) := accepted (by decide +kernel)
theorem bistResult_accepted : Accepted cmdBistResult (pk 0xF01 [1]) ready := accepted (by decide +kernel)
theorem bistCommit_accepted : Accepted cmdBistCommit (pk 0xF02 [1]) (readyIn .maintain) := accepted (by decide +kernel)
theorem bistExpectSet_accepted : Accepted cmdBistExpectSet (pk 0xF03 [1, 0, 0, 0]) ready := accepted (by decide +kernel)
theorem dbgUnlock_accepted : Accepted cmdDbgUnlock (pk 0x1000 [0x100]) ready := accepted (by decide +kernel)
theorem dbgHalt_accepted : Accepted cmdDbgHalt (pk 0x1001 [4, 0]) atWork := accepted (by decide +kernel)
theorem dbgResume_accepted : Accepted cmdDbgResume (pk 0x1002 [2, 0]) atWork := accepted (by decide +kernel)
theorem dbgRead_accepted : Accepted cmdDbgRead (pk 0x1003 [0x10001, 0, 0x31, 0, 4, 0]) atWork := accepted (by decide +kernel)
theorem dbgWrite_accepted : Accepted cmdDbgWrite (pk 0x1004 [0x10001, 0, 0, 0, 4, 0, 7]) atWork := accepted (by decide +kernel)
theorem dbgBreakSet_accepted : Accepted cmdDbgBreakSet (pk 0x1005 [0, 0, 0, 0, 0, 0, 0, 0, 0, 0, 0, 0, 0, 0, 0, 0]) ready := accepted (by decide +kernel)
theorem dbgXtrigSet_accepted : Accepted cmdDbgXtrigSet (pk 0x1006 [0, 0, 0, 0, 0, 0, 0, 0, 0, 0, 0, 0, 0, 0, 0, 0]) ready := accepted (by decide +kernel)
theorem dbgStep_accepted : Accepted cmdDbgStep (pk 0x1007 [1] 1) atWork := accepted (by decide +kernel)
theorem evtMaskSet_accepted : Accepted cmdEvtMaskSet (pk 0x1100 [0, 0, 0, 0, 0, 0, 0, 0]) ready := accepted (by decide +kernel)
theorem evtRouteSet_accepted : Accepted cmdEvtRouteSet (pk 0x1101 [0x100, 0]) ready := accepted (by decide +kernel)
theorem evtStatus_accepted : Accepted cmdEvtStatus (pk 0x1102 [1]) ready := accepted (by decide +kernel)
theorem evtAck_accepted : Accepted cmdEvtAck (pk 0x1103 [0, 0, 0, 0, 0, 0, 0, 0]) ready := accepted (by decide +kernel)

/-! The host interface and the commands at large (02). -/

theorem doorbell_taken : let h := ready.hif
    (128 - h.subHead).toNat ≤ 2 ^ h.subSize.toNat ∧ 2 ^ h.subSize.toNat < (129 - h.subHead : BitVec 32).toNat := by decide
theorem ring_enables : let s := { ready with hif := { ready.hif with subEn := false, repEn := false, evtEn := false } }
    s.hif.subEn = false ∧ s.hif.subHold = false ∧ s.hif.repEn = false ∧ s.hif.evtEn = false := by decide
theorem ring_held : let s := holding cmdSysNop (pk 0 []) { ready with hif := { ready.hif with subEn := false, subHold := true } }
    s.hif.subEn = false ∧ s.hif.subHold = true ∧ 0 < s.tagsOn Path.isPcie := by decide
theorem unusable (n : BitVec 16) (h : n = 28 ∨ n = 34 ∨ n = 580) : let p := { pk 0 [] with length := n }
    ready.canFetch = true ∧ ready.tagUsed ⟨.pcie, p.tag⟩ = false ∧
      (p.length.toNat < 32 ∨ p.length.toNat % 4 ≠ 0 ∨ (ready.hif.subBell - ready.hif.subHead).toNat < (p.length.toNat + 31) / 32) := by
  rcases h with rfl | rfl | rfl <;> decide
theorem first_rows : (Instr.sysNop, cmdSysNop) ∈ commandRows ∧ (pk 0 []).opcode = cmdSysNop.code := ⟨by simp [commandRows], by decide⟩
theorem registers_written : let s := { ready with hif := { ready.hif with subEn := false } }
    ready.hif.pcieUp = true ∧ s.hif.pcieUp = true ∧ s.hif.subEn = false ∧ ready.hif.subEn = true ∧ State.reset.hif.pcieUp = false := by decide
theorem fetch_waits : { ready with queen := { ready.queen with halted := true } }.canFetch = false := by decide
theorem tag_in_use : let s := holding cmdSysNop (pk 0 [])
    s.canFetch = true ∧ s.unusable (pk 0 []) = false ∧ s.tagUsed ⟨.pcie, 5⟩ = true := by decide
theorem fence_waits : let s := holding cmdSysNop { pk 0 [] with tag := 9 }
    s.tagUsed ⟨.pcie, 5⟩ = false ∧ s.mustWait .pcie { pk 0 [] with flags := 2 } = true := by decide
/-- `Fetched` as a Bool. -/
def fetches (d : CmdDef) (p : Pkt) (s : State) : Bool :=
  s.canFetch && !s.unusable p && p.opcode = d.code && !s.tagUsed ⟨.pcie, p.tag⟩ && !s.abortAsked ⟨.pcie, p.tag⟩ && (!s.mustWait .pcie p || d.code = 0x0003)
theorem fetched {d : CmdDef} {p : Pkt} {s : State} (h : fetches d p s = true) : Fetched d p s := by
  simp only [fetches, Bool.and_eq_true, Bool.or_eq_true, Bool.not_eq_true', decide_eq_true_eq] at h
  obtain ⟨⟨⟨⟨⟨h1, h2⟩, h3⟩, h4⟩, h5⟩, h6⟩ := h
  exact ⟨h1, h2, h3, h4, h5, h6⟩
theorem bad_version : Fetched cmdSysNop { pk 0 [] with version := 2 } ready := fetched (by decide)
theorem bad_length : Fetched cmdSysNop (pk 0 [0]) ready ∧ (pk 0 [0]).lengthUsable = true ∧ (pk 0 [0]).length.toNat ≠ cmdSysNop.length (pk 0 [0]) :=
  ⟨fetched (by decide), by decide, by decide⟩
theorem bad_unit : Fetched cmdSysNop (pk 0 [] 1) ready ∧ cmdSysNop.unitMax < (pk 0 [] 1).unit.toNat := ⟨fetched (by decide), by decide⟩
theorem bad_header : Fetched cmdSysNop { pk 0 [] with w6 := 1 } ready ∧ { pk 0 [] with w6 := 1 }.headerBad = true :=
  ⟨fetched (by decide), by decide⟩
theorem bad_param : let p := pk 0xC01 [0x100]
    Fetched cmdSwarmIdSet p ready ∧ reservedFails (cmdSwarmIdSet.fields p) p.block ≠ [] := ⟨fetched (by decide), by decide⟩
theorem bad_mode : Fetched cmdMemTrain (pk 0xA01 [1]) ready ∧ cmdMemTrain.modes (taken (pk 0xA01 [1]) ready) (pk 0xA01 [1]) = false :=
  ⟨fetched (by decide), by decide⟩
theorem bad_unit_state : let p := pk 0xD02 [0, 9, 0, 1, 0]
    Fetched cmdTimeAdjust p ready ∧ cmdTimeAdjust.checks (taken p ready) (applyJob cmdTimeAdjust (Job.fresh .pcie p)) =
      some ⟨stNotReady, 0xFF⟩ := ⟨fetched (by decide), by decide⟩

/-- A packet with an instant at nanosecond `ns`, and the device with `TB0` SET at zero. -/
def timed (ns : Word) (p : Pkt) : Pkt := { p with w5 := ns }
def clocked : State := { ready with tb := ready.tb.set 0 { ready.tb[0] with set := true } }
theorem times : (timed 5000 (pk 0 [])).execAt = leadUnits ∧ (timed 4999 (pk 0 [])).execAt ≠ 0 ∧ (timed 4999 (pk 0 [])).lateOk = false := by
  decide
theorem time_unset : (acceptCheck cmdSysNop (taken (timed 5000 (pk 0 [])) ready) (Job.fresh .pcie (timed 5000 (pk 0 [])))) = none ∧
    ready.tb0.set = false ∧ cmdSysNop.early = false := by decide
theorem time_soon : clocked.tb0.set = true ∧ (timed 4999 (pk 0 [])).execAt < clocked.tb0.value + leadUnits ∧
    ¬ (timed 5000 (pk 0 [])).execAt < clocked.tb0.value + leadUnits ∧ clocked.scheduledCount < 64 := by decide
def scheduled (at_ : Nat) : Job := { begunJob cmdSysNop { pk 0 [] with tag := 9 } with phase := .scheduled at_ }
theorem time_late_ok : let p := { timed 4999 (pk 0 []) with flags := 1 }
    p.lateOk = true ∧ p.execAt ≠ 0 ∧ clocked.stuckAt p = none ∧ clocked.waitsMemory p = false ∧
      acceptCheck cmdSysNop (taken p clocked) (Job.fresh .pcie p) = none := by decide
theorem times_full : 64 ≤ { clocked with queen := { clocked.queen with jobs := List.replicate 64 (scheduled 7) } }.scheduledCount := by decide +kernel
theorem instant_comes : let s := { clocked with queen := { clocked.queen with jobs := [scheduled 7] } }
    s.job? ⟨.pcie, 9⟩ = some (scheduled 7) ∧ s.queen.serves = true ∧ s.queenClocked = true ∧ (cmdOf 0).early = false ∧
      (cmdOf 0).checks s (scheduled 7) = none ∧ s.tb0.value < 7 ∧ (scheduled 0).phase = .scheduled 0 ∧
      engineCheck s (scheduled 7).p = none ∧ s.stuckAt (scheduled 7).p = none ∧ s.waitsMemory (scheduled 7).p = false := by decide
theorem instant_refused : let j : Job := { begunJob cmdTimeAdjust (pk 0xD02 [0, 9, 0, 1, 0]) with phase := .scheduled 7 }
    (cmdOf 0xD02).checks ready j = some ⟨stNotReady, 0xFF⟩ ∧ (cmdOf 0xD02).refused j ⟨stNotReady, 0xFF⟩ ready = ready := by
  exact ⟨by decide, rfl⟩
def reply (k : JobKey) : Reply := ⟨k, List.replicate 8 1, true, .nothing⟩
theorem reply_fits : let s := { ready with queen := { ready.queen with replies := [reply ⟨.pcie, 9⟩] } }
    s.queen.serves = true ∧ s.queenClocked = true ∧ s.hif.pcieUp = true ∧ s.rsc.hib = .awake ∧ s.hif.repEn = true ∧ (reply ⟨.pcie, 9⟩).slots ≤ s.hif.repFree ∧
      s.hif.msixGap.getLsbD 0 = false := by decide
theorem reply_waits : { ready.hif with repTail := 128 }.repFree < (reply ⟨.pcie, 9⟩).slots := by decide
theorem event_fits : 0 < ready.hif.evtFree ∧ ready.ev.src[47].msi = true := by decide +kernel
theorem holdoff_ends : { ready.hif with msixGap := 0x8000000000000001 }.msixGap.getLsbD 63 = true := by decide
theorem abort_named : let s := holding cmdSysNop { pk 0 [] with tag := 9 }
    Accepted cmdSysAbort (pk 3 [9]) s ∧ Accepted cmdSysAbort (pk 3 [8]) s ∧ s.job? ⟨.pcie, 8⟩ = none :=
  ⟨accepted (by decide), accepted (by decide), by decide⟩
theorem abort_waiting : let j := Job.fresh .pcie { pk 0 [] with tag := 9 }
    let s := { ready with queen := { ready.queen with jobs := [j] } }
    Accepted cmdSysAbort (pk 3 [9]) s ∧ s.job? ⟨.pcie, 9⟩ = some j ∧ j.discard = false ∧ s.abortAsked ⟨.pcie, 9⟩ = false :=
  ⟨accepted (by decide), by decide, by decide, by decide⟩
theorem abort_scheduled : let s := { clocked with queen := { clocked.queen with jobs := [scheduled 7] } }
    Accepted cmdSysAbort (pk 3 [9]) s ∧ s.starts = [] := ⟨accepted (by decide), by decide⟩
theorem abort_running : let s := holding cmdMemCopy { pk 0xA04 [] with tag := 9 }
    Accepted cmdSysAbort (pk 3 [9]) s ∧ s.swarm.forwards = [] ∧ s.bist.run = none := ⟨accepted (by decide), by decide, by decide⟩
def aborting (d : CmdDef) (op : BitVec 16) (params : Words) (s : State) (unit : BitVec 16 := 0) : State :=
  holding d { pk op params unit with tag := 9 } s
theorem abort_reply : let r : Reply := ⟨⟨.pcie, 9⟩, List.replicate 8 3, true, .nothing⟩
    let s := { ready with queen := { ready.queen with replies := [r] } }
    Fetched cmdSysAbort (pk 3 [9]) s ∧ r.holds = true ∧ (r.words.getD 0 0).extractLsb' 0 16 = (3 : BitVec 16) ∧
      reservedFails (cmdSysAbort.fields (pk 3 [9])) (pk 3 [9]).block = [] := ⟨fetched (by decide), rfl, by decide, by decide⟩
theorem abort_measure : let s := aborting cmdClkMeasure 0x303 (10 :: List.replicate 9 0) ready
    Accepted cmdSysAbort (pk 3 [9]) s ∧ (s.job? ⟨.pcie, 9⟩).map (fun j => (j.p.opcode, j.phase, j.discard)) = some (0x0303, .running, false) :=
  ⟨accepted (by decide +kernel), by decide +kernel⟩
def reading : State := { ready with cfg := { ready.cfg with readbacks := [⟨⟨.pcie, 9⟩, 0, []⟩] } }
theorem abort_readback : let s := aborting cmdCfgReadback 0x405 [0, 0, 1, 0, 0, 0x1000] reading
    Accepted cmdSysAbort (pk 3 [9]) s ∧ s.cfg.readbacks.find? (fun x => sameKey x.key ⟨.pcie, 9⟩) = some ⟨⟨.pcie, 9⟩, 0, []⟩ :=
  ⟨accepted (by decide +kernel), by decide +kernel⟩
theorem abort_start : let x : Start := ⟨⟨.pcie, 9⟩, 4, [2], none, some 100, 3, false, none⟩
    let s := aborting cmdWorkStart 0x701 (4 :: List.replicate 17 0) { atWork with starts := [x] }
    Accepted cmdSysAbort (pk 3 [9]) s ∧ s.starts.find? (fun x => sameKey x.key ⟨.pcie, 9⟩) = some x ∧ s.workers[2].active = true ∧
      s.queen.stopJobs = [] ∧ s.dbg.haltJobs = [] ∧ ∀ w : Fin 32, s.workers[w.val].dbg.stepJob = none :=
  ⟨accepted (by decide +kernel), by decide +kernel, by decide +kernel, by decide, by decide, by decide⟩
theorem abort_solve : Accepted cmdSysAbort (pk 3 [9]) (aborting cmdBroodSolve 0x902 [1] (solving 1 false ready)) := accepted (by decide +kernel)
theorem abort_rekey : let s := aborting cmdMemRekey 0xA03 [1] { ready with mem := { ready.mem with rekey := some ⟨some ⟨.pcie, 9⟩, true, false⟩ } }
    Accepted cmdSysAbort (pk 3 [9]) s ∧ s.mem.rekey = some ⟨some ⟨.pcie, 9⟩, true, false⟩ ∧ s.mem.waiting = [] :=
  ⟨accepted (by decide +kernel), by decide, by decide⟩
theorem abort_step : let s := aborting cmdDbgStep 0x1007 [1] atWork 2
    Accepted cmdSysAbort (pk 3 [9]) s ∧ s.queen.stopJobs = [] ∧ s.dbg.haltJobs = [] ∧ s.workers[2].st = .running :=
  ⟨accepted (by decide +kernel), by decide, by decide, by decide⟩
theorem abort_memory : let j : Job := { begunJob cmdMemFill { pk 0xA05 [0, 0, 8, 0, 0, 0] with tag := 9 } with phase := .memory }
    let s := { ready with queen := { ready.queen with jobs := [j] } }
    Accepted cmdSysAbort (pk 3 [9]) s ∧ s.job? ⟨.pcie, 9⟩ = some j := ⟨accepted (by decide +kernel), by decide +kernel⟩
theorem abort_timed : Fetched cmdSysAbort (timed 1 (pk 3 [9])) ready ∧ (timed 1 (pk 3 [9])).headerBad = false ∧
    (timed 1 (pk 3 [9])).execAt ≠ 0 := ⟨fetched (by decide), by decide, by decide⟩
theorem abort_of_abort : let j : Job := { begunJob cmdSysAbort { pk 3 [8] with tag := 9 } with phase := .awaiting 8 }
    let s := { ready with queen := { ready.queen with jobs := [j] } }
    Fetched cmdSysAbort (pk 3 [9]) s ∧ (taken (pk 3 [9]) s).job? ⟨.pcie, 9⟩ = some j ∧ j.p.opcode = 3 :=
  ⟨fetched (by decide), by decide, by decide⟩

/-- I²C (02, R53 to R56). The packet is a `SYS_NOP`. -/
def nopBytes : Bytes := bytesOfWords [0x01000000, 0x00200005, 0xFF, 0, 0, 0, 0, 0]
theorem i2c_able : ready.pdOn 0 = true ∧ ready.queen.serves = true ∧ ready.queenClocked = true ∧ ready.tagsOn Path.isI2c < 4 := by decide
theorem i2c_whole : let p := Pkt.ofWords (wordsOfBytes nopBytes) none
    p.length.toNat = nopBytes.length ∧ p.opcode = 0 ∧ p.execAt = 0 ∧
      acceptCheck cmdSysNop (ready.addJob (Job.fresh .i2c p)) (Job.fresh .i2c p) = none := by decide +kernel
theorem i2c_code : ∃ pec, ready.pecOk 0x80 nopBytes pec = true ∧ ready.pecOk 0x80 nopBytes (pec + 1) = false := by
  refine ⟨crc8 (ready.i2cWrite :: 0x80 :: nopBytes), ?_, ?_⟩ <;> simp [State.pecOk]
theorem rescue_code (ptr : Byte) (v : Word) : ∃ pec, ready.pecOk ptr (numBytes 4 v.toNat) pec = true :=
  ⟨crc8 (ready.i2cWrite :: ptr :: numBytes 4 v.toNat), by simp [State.pecOk]⟩
theorem rescue_reads : (5 : Byte).toNat < 0x24 ∧ 0x24 ≤ (0x24 : Byte).toNat ∧ (0x24 : Byte) ≠ 0x80 ∧
    ready.pecOk 8 [] (crc8 [ready.i2cWrite, 8]) = true ∧ ready.pecOk 8 [] (crc8 [ready.i2cWrite, 8] + 1) = false := by decide
theorem rescue_keys : bitsOf 0x00015155 0 16 = 0x5155 ∧ bitsOf 0x00015155 16 2 = 1 ∧ bitsOf 0x00025155 16 2 = 2 ∧
    ready.rsc.startupDone = true ∧ ready.rsc.deferred = none ∧ ready.nvBusy = false ∧ ready.powerOnRuns = false := by decide

/-! Modes, resets and start-up (12). -/

theorem reset_now : ready.nvBusy = false ∧ ready.pdOn 0 = true := by decide
theorem reset_later : { ready with sec := { ready.sec with nvJobs := [⟨none, .refresh, [4], 0, [], []⟩] } }.nvBusy = true := by decide
theorem reset_of_power : let s (busy : Bool) := { ready with
      rsc := { ready.rsc with deferred := some .powerOn }, pwr := { ready.pwr with loss := some ⟨.off, 4, 0, 0⟩ }
      sec := { ready.sec with nvJobs := if busy then [⟨none, .refresh, [4], 0, [], []⟩] else [] } }
    (s false).rsc.deferred = some .powerOn ∧ (s false).pwr.loss = some ⟨.off, 4, 0, 0⟩ ∧ (s false).nvBusy = false ∧ (s true).nvBusy = true ∧
      ready.pwr.loss = none ∧ ready.rsc.deferred ≠ some .powerOn := by decide
theorem reset_held : let r := { ready.rsc with resetLow := true, bootStep := 3, startupDone := false }
    r.resetLow = true ∧ r.deferred = none ∧ r.bootStep = 3 ∧ r.startupDone = false := by decide
theorem reset_absorbed : ({ ready with rsc := { ready.rsc with startupDone := false, lastReset := 0 } }).powerOnRuns = true := by decide
theorem reset_armed (x : ResetKind) : ({ ready with rsc := { ready.rsc with armedReset := some x } }).rsc.armedReset = some x ∧
    ({ ready with rsc := { ready.rsc with deferred := some .device } }).rsc.deferred = some .device := ⟨rfl, rfl⟩
theorem link_comes_up : let s := { ready with hif := { ready.hif with pcieUp := false } }
    s.pdOn 3 = true ∧ s.clk.runs = true ∧ s.clk.refOk = true ∧ s.hif.pcieUp = false ∧ s.rsc.hib = .awake := by decide
theorem starts_up : State.reset.pwr.supply = .off ∧ 5800 < (5801 : BitVec 16).toNat := by decide
theorem soft_start (low : Bool) : let s := { ready with pwr := { ready.pwr with supply := .soft }, rsc := { ready.rsc with resetLow := low } }
    s.pwr.supply = .soft ∧ s.rsc.resetLow = low := by cases low <;> decide
theorem locks (n : BitVec 8) (h : n = 4) : let s := { ready with
      clk := { ready.clk with pll := .locking }, rsc := { ready.rsc with bootStep := n } }
    s.clk.pll = .locking ∧ s.rsc.bootStep = 4 ∧
      { s.rsc with startupDone := false }.startupDone = false := by subst h; decide
theorem firmware_comes (done : Bool) : let s := { ready with
      queen := State.reset.queen, rsc := { ready.rsc with bootStep := 5, startupDone := done } }
    s.pdOn 0 = true ∧ s.pdOn 1 = true ∧ s.queen.up = false ∧ s.queen.refused = false ∧ s.clk.pll = .locked ∧ s.queen.jobs = [] := by
  cases done <;> decide
/-- Firmware of another format. What its certificate and signature verify as is free, so firmware that is accepted has no witness here. -/
theorem firmware_refused : (ready.lostBlocks ⟨[], [], [], [4, 2]⟩).fwAccepted ⟨[], [], [], [4, 2]⟩ = false ∧
    BitVec.ofNat 11 (4 + (0 : Fin 64).val) ∈ ([4, 2] : List (BitVec 11)) := by decide +kernel
theorem mode_named (m : Nat) (h : m = 1 ∨ m = 2 ∨ m = 4 ∨ m = 5) : ∃ x, Accepted cmdModeSet (pk 0x101 [BitVec.ofNat 32 m]) (readyIn x) := by
  rcases h with rfl | rfl | rfl | rfl
  · exact ⟨.ready, accepted (by decide +kernel)⟩
  · exact ⟨.ready, accepted (by decide +kernel)⟩
  · exact ⟨.ready, accepted (by decide +kernel)⟩
  · exact ⟨.ready, accepted (by decide +kernel)⟩
theorem none_waits : NoneWaits ready := ⟨rfl, rfl, by decide, rfl, by decide⟩
theorem hibernates (h : HibPhase) : { ready.rsc with hib := h }.hibMatch = false := by cases h <;> decide
theorem wakes : let s := { readyIn .hibernate with rsc := { (readyIn .hibernate).rsc with hib := .waking } }
    s.rsc.hib = .waking ∧ ready.rsc.hibMatch = false ∧ s.mem.training = none ∧ (∀ d : Fin 4, s.net.locking[d.val] = none) ∧ s.rsc.mode = .hibernate := by decide

/-! Power and clocks (13, 14). -/

theorem supply_waits : let s := { ready with sec := { ready.sec with nvJobs := [⟨none, .refresh, [4], 0, [], []⟩] } }
    s.pwr.supply = .on ∧ s.nvBusy = true ∧ ready.nvBusy = false := by decide
theorem supply_low : ready.pwr.supply = .on ∧ (5700 : BitVec 16) < 5800 ∧ ready.pwr.flagVin = false ∧ ready.pwr.flagOv = false ∧
    ready.pwr.flagIlim = false ∧ ready.pwr.flagBudget = false ∧ (11999 : BitVec 16).toNat < ready.pwr.vb := by decide
theorem sensor_levels : ready.pwr.sensorArmed[23] = true ∧ (2 * (ready.pwr.tempWarn.toNat : Int)) ≤ (230 : BitVec 16).toInt := by decide
theorem stack_levels : (85 : Int) < (86 : Byte).toInt ∧ (0x80 : Byte).toInt ≤ 85 := by decide
theorem restart_in_range : ({ ready with pwr := { ready.pwr with supply := .ovStop } }).pwr.supply = .ovStop ∧
    5800 ≤ (5800 : BitVec 16).toNat ∧ (5800 : BitVec 16).toNat ≤ 42000 := by decide
theorem stack_cool : ready.pdOn 9 = true ∧ ready.mem.hbm[3].hot = false := by decide
/-- Domains 6 and 7 off (HBM stacks), and an off, a ramping and an on domain. -/
def dom (n : Fin 64) (st : DomSt) : State := { ready with pwr := { ready.pwr with
  domains := ready.pwr.domains.set n.val { ready.pwr.domains[0] with st := st } } }
theorem domain_off : Accepted cmdPwrDomainSet (pk 0x200 [0x80, 0, 0]) ready ∧ NoneWaits ready ∧ ready.brood.solves = [] :=
  ⟨accepted (by decide +kernel), none_waits, rfl⟩
theorem domain_on : Accepted cmdPwrDomainSet (pk 0x200 [0x80, 0, 1]) (dom 7 .off) ∧ (dom 7 .off).toTurnOn 0x80 ≠ [] ∧
    ready.toTurnOn 0x80 = [] := ⟨accepted (by decide +kernel), by decide +kernel, by decide +kernel⟩
theorem limits_below : (BitVec.ofNat 16 (fld (applied cmdPwrLimitsSet (pk 0x203 [5600, 80, 0])) 32 0 16) : BitVec 16) ≤ ({ ready with pwr := { ready.pwr with vinNow := 12000 } } : State).pwr.vinNow := by
  decide
theorem domain_ramping (lost : Bool) : let s := { ready with pwr := { ready.pwr with
      domains := ready.pwr.domains.set 7 { ready.pwr.domains[7] with st := .ramping, lost := lost } } }
    Accepted cmdPwrDomainSet (pk 0x200 [0x80, 0, 1]) s ∧ s.toTurnOn 0x80 = [] ∧ s.pwr.domains[7].st = .ramping ∧ s.pwr.domains[7].lost = lost := by
  cases lost <;> exact ⟨accepted (by decide +kernel), by decide +kernel, by decide, by decide⟩
theorem limits_above : let s := { ready with pwr := { ready.pwr with vinNow := 5599 } }
    Accepted cmdPwrLimitsSet (pk 0x203 [5600, 80, 0]) s ∧ s.pwr.flagVin = false ∧
      s.pwr.vinNow < (BitVec.ofNat 16 (fld (applied cmdPwrLimitsSet (pk 0x203 [5600, 80, 0])) 32 0 16) : BitVec 16) :=
  ⟨accepted (by decide +kernel), by decide, by decide⟩
theorem domain_ramps : let s := dom 4 .ramping
    s.pwr.domains[4].st = .ramping ∧ s.pwr.domains[4].lost = false ∧ (∀ q, domainParent 4 = some q → s.pdOn q = true) ∧ s.pwr.jobs = [] := by
  decide +kernel
theorem domain_cut : ready.pwr.domains[63].st = .on ∧ ready.pwr.domains[63].lost = false ∧ ready.pwr.jobs = [] := by decide
theorem sample_averaged : let s := { ready with pwr := { ready.pwr with avgLog := 1 } }
    s.pwr.supply = .on ∧ s.pwr.sumN + 1 < 2 ^ s.pwr.avgLog.toNat := by decide
theorem relocks : let s := { readyIn .maintain with clk := { ready.clk with mux := 0, pll := .coasting, coast := true } }
    Accepted cmdClkSelect (pk 0x301 [0x10000]) s ∧ param (pk 0x301 [0x10000]) 32 16 1 = 1 := ⟨accepted (by decide +kernel), by decide⟩
theorem selects (v : Word) (h : v = 0x101 ∨ v = 1 ∨ v = 0x120 ∨ v = 0x20) : Accepted cmdClkSelect (pk 0x301 [v]) ready := by
  rcases h with rfl | rfl | rfl | rfl <;> exact accepted (by decide +kernel)
theorem reference_restored : let s := { ready with clk := { ready.clk with pll := .coasting, refOk := false } }
    s.clk.pll = .coasting ∧ s.clk.refOk = false ∧ ready.clk.pll = .locked ∧ ready.clk.relock = none := by decide
theorem relock_ends : let p := pk 0x301 [0x10000]
    let s := holding cmdClkSelect p { ready with clk := { ready.clk with pll := .ramping, relock := some ⟨.pcie, 5⟩ } }
    s.clk.pll = .ramping ∧ s.rsc.startupDone = true ∧ s.clk.relock = some ⟨.pcie, 5⟩ ∧ s.job? ⟨.pcie, 5⟩ = some (begunJob cmdClkSelect p) := by decide +kernel
theorem gates_close : let p := pk 0x303 (10 :: List.replicate 9 0)
    let s := holding cmdClkMeasure p { ready with clk := { ready.clk with measures := [⟨some ⟨.pcie, 5⟩, 0, false, []⟩, ⟨none, 9, false, []⟩] } }
    let x : Measure := ⟨some ⟨.pcie, 5⟩, 0, false, []⟩
    x ∈ s.clk.measures ∧ (∀ y ∈ s.clk.measures, y ≠ x → x.closes < y.closes) ∧ x.closes ≤ s.clk.ticks ∧
      s.job? ⟨.pcie, 5⟩ = some (begunJob cmdClkMeasure p) ∧ Endable s (begunJob cmdClkMeasure p) :=
  ⟨by decide +kernel, by decide +kernel, by decide +kernel, by decide +kernel, endable _ _ _⟩

/-! Memory (02, 09), security and self-test (15, 17). -/

theorem hbm_serves : HbmServes ready where
  gate := by decide
  routes := fun q n => by simp [State.reaches, ready_routes]
  clean := by decide
  low := by constructor <;> intro b <;> simp [ready, State.reset, Mem.reset, countGet]
  free := by decide
  open_ := by
    show ∀ n : Fin 4, ready.cfg.slots[n.val].st ≠ .sealed_
    decide
theorem sector_edge : 0 < (List.replicate 4 (0 : Byte)).length ∧ (508 : Nat) / 512 = (508 + 4 - 1) / 512 ∧ 508 + 4 ≤ hbmBytes := by decide
theorem sram_up : ∀ q : Fin 3, ready.pdOn ⟨10 + q.val, by omega⟩ = true ∧ ready.underTest ⟨q.val, by omega⟩ = false := by decide
theorem sram_reached (q : NetUnit) : ready.sramReached q := fun r _ => by simp [State.reaches, ready_routes]
theorem bar4_stopped (cut : Bool) : let s := { ready with net := { ready.net with
      dies := ready.net.dies.set 0 { ready.net.dies[0] with clockOn := cut, cutOff := cut } } }
    s.net.dies[0].fenced = false ∧ s.dieOn 0 0 = true ∧ (s.net.dies[0].clockOn = false ∨ s.net.dies[0].cutOff = true) := by
  cases cut <;> decide
theorem bar4_gap : bar4Addr 0x6000000 = none := by decide
theorem bar4_die : bar4Addr 0x40000000 = some 0x200000000000 ∧ (areaFor 0x200000000000 4).bind (·.die) = some 0 := by decide +kernel
theorem training_ends : let x : TrainJob := ⟨none, [1], false, false, []⟩
    let s := { ready with mem := { ready.mem with
      training := some x, hbm := ready.mem.hbm.set 1 { ready.mem.hbm[1] with st := .training } } }
    s.mem.training = some x ∧ 1 ∈ x.left ∧ s.mem.hbm[1].st = .training := by decide
theorem rekey_ends : let p := pk 0xA03 [1]
    let s := holding cmdMemRekey p { ready with mem := { ready.mem with rekey := some ⟨some ⟨.pcie, 5⟩, true, true⟩ } }
    s.mem.rekey = some ⟨some (begunJob cmdMemRekey p).key, true, true⟩ ∧ s.mem.waiting = [] ∧
      (∀ n : Fin 4, s.cfg.slots[n.val].st ≠ .staging) ∧ ∀ u ∈ s.mem.undef, hbmBytes ≤ u.base := by decide
theorem fill_ends : let p := pk 0xA05 [0, 0x1000, 8, 0, 7, 0]
    let s := holding cmdMemFill p { ready with mem := { ready.mem with copies := [⟨.pcie, 5⟩] } }
    s.mem.copies.any (sameKey · (begunJob cmdMemFill p).key) = true ∧ s.mem.rekey = none ∧ s.moveStuck (begunJob cmdMemFill p) = false ∧
      fld (begunJob cmdMemFill p).args 32 0 48 = sramBase 0 ∧ (areaFor (sramBase 0) 8).map (·.kind) = some .sram := by decide +kernel
theorem counter_advances : let p := pk 0xE02 [1, 1]
    ready.counterNow (counterIdx p.block) < param p 36 0 32 ∧ ready.nvWorn (4 + (counterIdx p.block).val) = false := by decide +kernel
theorem counter_stays : let p := pk 0xE02 [1, 0]
    Accepted cmdSecCounterAdvance p ready ∧ param p 36 0 32 = ready.counterNow (counterIdx p.block) :=
  ⟨accepted (by decide +kernel), by decide +kernel⟩
theorem enrols : let p := pk 0xE01 [0x100, 0, 0, 0, 229] 0 (some (List.replicate 229 0))
    Accepted cmdSecOwnerEnrol p (readyIn .maintain) ∧ param p 32 0 1 = 0 ∧ param p 32 8 1 = 1 ∧ (readyIn .maintain).nvWorn 2 = false :=
  ⟨accepted (by decide +kernel), by decide, by decide, by decide +kernel⟩
theorem nv_ends (n : Nat) (h : n = 0 ∨ n = 100000) : let p := pk 0xE02 [1, 1]
    let x : NvJob := ⟨some ⟨.pcie, 5⟩, .counter 1 1, [5], 0, [], []⟩
    let s := holding cmdSecCounterAdvance p { ready with sec := { ready.sec with nvJobs := [x], nv := [(5, ⟨n, true, true, true, false, 0, 0⟩)] } }
    s.sec.nvJobs = [x] ∧ x.key = some (begunJob cmdSecCounterAdvance p).key ∧ s.nvWorn 5 = decide (n = 100000) := by
  rcases h with rfl | rfl <;> decide +kernel
theorem nv_skips : let s := { ready with sec := { ready.sec with
      nvJobs := [⟨none, .refresh, [5, 6], 0, [], []⟩], nv := [(5, ⟨100000, true, true, true, false, 0, 0⟩)] } }
    s.nvWorn 5 = true ∧ s.rsc.deferred = none := by decide +kernel
theorem nv_deferred : ({ ready with rsc := { ready.rsc with deferred := some .device } }).rsc.deferred.isSome = true := by decide
theorem bist_commits (op : Word) (h : op = 1 ∨ op = 0x101) : Accepted cmdBistCommit (pk 0xF02 [op]) (readyIn .maintain) ∧
    ready.nvWorn 68 = false := by rcases h with rfl | rfl <;> exact ⟨accepted (by decide +kernel), by decide +kernel⟩

/-! Configuration (07, 08). What authentication answers is free, so a stream that verifies has no witness here. -/

theorem stages : Accepted cmdCfgStage (pk 0x400 [0, 0, 0, 0, 160, 0, 0, 0]) ready ∧
    param (pk 0x400 [0, 0, 0, 0, 160, 0, 0, 0]) 48 0 32 ≠ 0 := ⟨accepted (by decide +kernel), by decide⟩
theorem boot_record_set : ∀ i : Fin 2, ready.nvWorn i.val = false := by decide +kernel
theorem staging_ends : let p := pk 0x400 [0, 0, 0, 0, 160, 0, 0, 0]
    let s := holding cmdCfgStage { p with params := [0x100, 0, 0, 0, 160, 0, 0, 0] } { ready with cfg := { ready.cfg with
      slots := ready.cfg.slots.set 1 ({ ready.cfg.slots[1] with
        st := .staging, base := BitVec.ofNat 48 (sramBase 0), len := 160, owner := some ⟨.pcie, 5⟩ } : Slot) } }
    let j := begunJob cmdCfgStage { p with params := [0x100, 0, 0, 0, 160, 0, 0, 0] }
    s.cfg.slots[1].st = .staging ∧ s.cfg.slots[1].owner = some j.key ∧ fld j.args 32 8 2 = 1 ∧
      s.cfg.slots[1].len ≤ (List.replicate 160 (0 : Byte)).length ∧ s.sec.owner = none ∧ s.slotLoading 1 = false ∧ s.pdOn 2 = true ∧
      (areaFor s.cfg.slots[1].base.toNat s.cfg.slots[1].len).map (·.kind) = some .sram := by decide +kernel
def loading (s : State) : State :=
  holding cmdCfgLoad (pk 0x401 [0]) { s with cfg := { s.cfg with loads := [⟨some ⟨.pcie, 5⟩, 0, false, false, false⟩] } }
theorem load_fails : let s := loading (readyIn .maintain)
    (∃ x l, s.cfg.loads = x :: l ∧ x.key = some (begunJob cmdCfgLoad (pk 0x401 [0])).key ∧ x.boot = false ∧
      s.loadFailure x (s.slotScan 0) (.readFail 0) ≠ none) ∧ s.cfg.slots[0].facts.partial_ = false ∧ s.rsc.mode = .maintain ∧ NoneWaits s :=
  ⟨⟨_, _, rfl, by decide, rfl, by decide +kernel⟩, by decide +kernel, by decide, rfl, rfl, by decide +kernel, rfl, by decide +kernel⟩
/-- A stream of no frames: a header that names die 0, its end. -/
def emptyStream : Bytes := bytesOfWords [0xE2E70C0D]
theorem load_succeeds (m : Mode) (h : m = .boot ∨ m = .ready) :
    let s := { loading (readyIn m) with
      cfg := { (loading (readyIn m)).cfg with slots := ready.cfg.slots.set 0 ({ ready.cfg.slots[0] with
        st := .sealed_, len := 140, facts := { ready.cfg.slots[0].facts with dataLen := 140 } } : Slot) }
      mem := ready.mem.write 0 emptyStream }
    s.loadFailure ⟨some ⟨.pcie, 5⟩, 0, false, false, false⟩ (s.slotScan 0) .ok = none ∧ s.cfg.slots[0].facts.partial_ = false ∧
      s.rsc.mode = m := by rcases h with rfl | rfl <;> decide +kernel
theorem region_stops : let p := pk 0x404 [0]
    Accepted cmdCfgRegionStop p atWork ∧ atWork.fab[(dieUnitOf p).val].stateAt (param p 32 0 5) = .running :=
  ⟨accepted (by decide +kernel), by decide +kernel⟩
theorem region_stopped : let p := pk 0x404 [0]
    Accepted cmdCfgRegionStop p ready ∧ ready.fab[(dieUnitOf p).val].stateAt (param p 32 0 5) ≠ .running :=
  ⟨accepted (by decide +kernel), by decide +kernel⟩
theorem none_sealed : NoneSealed ready ∧ ready.mem.wf = true := ⟨by show ∀ n : Fin 4, ready.cfg.slots[n.val].st ≠ .sealed_; decide, by decide⟩
theorem reads_frames : let p := pk 0x405 [0, 0, 1, 0, 0, 0x1000]
    Accepted cmdCfgReadback p ready ∧ (areaFor (fld (applied cmdCfgReadback p) 48 0 48) 4).map (·.kind) = some .sram :=
  ⟨accepted (by decide +kernel), by decide +kernel⟩
theorem readback_goes (n : Nat) (h : n = 1 ∨ n = 255) : let p := pk 0x405 [0, 0, BitVec.ofNat 32 n, 0, 0, 0x1000]
    let s := holding cmdCfgReadback p { ready with cfg := { ready.cfg with readbacks := [⟨⟨.pcie, 5⟩, 0, []⟩] } }
    let j := begunJob cmdCfgReadback p
    s.cfg.readbacks = [⟨j.key, 0, []⟩] ∧ s.queen.serves = true ∧ s.queenClocked = true ∧ s.pdOn 2 = true ∧
      hbmBytes ≤ fld j.args 48 0 48 ∧ ((readFrames j.args).length ≤ 64 ↔ n = 1) ∧
      (areaFor (fld j.args 48 0 48) (512 * n)).map (·.kind) = some .sram := by rcases h with rfl | rfl <;> decide +kernel
theorem probes (v : Word) (h : v = 1 ∨ v = 2) : ∃ p, Accepted cmdCfgProbeSet p ready ∧ fld (applied cmdCfgProbeSet p) 96 0 2 = v.toNat := by
  rcases h with rfl | rfl
  · exact ⟨pk 0x407 (List.replicate 16 0 ++ [1, 0, 0x1000, 0x1000, 0, 0]), accepted (by decide +kernel), by decide +kernel⟩
  · exact ⟨pk 0x407 (List.replicate 16 0 ++ [2, 0, 0x1000, 0x1000, 0, 0]), accepted (by decide +kernel), by decide +kernel⟩
theorem cell_inputs : let i : CellIn := ⟨7, 65535, 0, fun _ => 0, none, false, true⟩
    i.a = (7 : BitVec 16).toNat ∧ i.b = (65535 : BitVec 16).toNat ∧ i.mult = true := by decide
theorem cell_ops : ∀ op ∈ [0, 1, 2, 3, 4, 5, 6, 9, 10, 11, 12, 16, 17, 18, 19, 20, 21, 24, 25, 26],
    bitsOf (op * 2 ^ 26) 24 2 = 0 ∧ bitsOf (op * 2 ^ 26) 17 2 = 0 ∧ bitsOf (op * 2 ^ 26) 26 6 = op := by decide
theorem fabric_clocked : ready.fabricRuns 0 = true ∧ State.reset.fabricRuns 0 = false ∧ ready.fab[0].cfgSt = .configured := by decide
/-- A port of the cell RAM that its neighbour enables, and a crossing group at work. -/
def ramFed : State := { fed with fab := fed.fab.set 0 { fed.fab[0] with regs := [(regKey 3 1 392, 1)] } }
theorem ram_errors (w : Option Word) : (ramFed.eccTarget 0 ⟨0, 0, 0, 0, false, w⟩).isSome = true := by
  show (ramFed.eccTarget 0 ⟨0, 0, 0, 0, false, none⟩).isSome = true
  decide +kernel
theorem group_carried : ready.carriesGroup 0 31 = true ∧ State.reset.carriesGroup 0 31 = false := by decide
/-- What code a group carries is free: one of the two codes fails. -/
theorem group_fails (g : Fin 32) (w : BitVec 64) : ∃ c, crossFails ⟨0, false, g, w, c⟩ = true ∧ crossFails ⟨0, false, g, w, c + 1⟩ = false := by
  have h : ∀ x : Byte, x ≠ x - 1 ∧ x - 1 + 1 = x := by decide
  exact ⟨(groupFrame (crossWords ⟨0, false, g, w, 0⟩)).2 - 1, bne_iff_ne.mpr (h _).1, bne_eq_false_iff_eq.mpr (h _).2.symm⟩
theorem capture_full : let c := { ready.fab[0].capture with st := .triggered, left := 0 }
    let s := { ready with fab := ready.fab.set 0 { ready.fab[0] with capture := c } }
    s.fab[0].capture.st = .triggered ∧ s.fab[0].capture.left = 0 ∧ s.fab[0].capture.fifo = [] := by decide

/-! The network (10). -/

def atDie (f : DieLink → DieLink) (s : State := ready) : State := { s with net := { s.net with dies := s.net.dies.set 0 (f s.net.dies[0]) } }
theorem fences : Accepted cmdNetDieFence (pk 0xB04 []) ready ∧ ready.net.dies[0].fenced = false ∧ NoneWaits ready ∧ ready.queen.cal = [] ∧ ready.queen.jobs = [] :=
  ⟨accepted (by decide +kernel), by decide, none_waits, rfl, rfl⟩
theorem fenced_again : let s := atDie fun x => { x with fenced := true }
    Accepted cmdNetDieFence (pk 0xB04 []) s ∧ s.net.dies[0].fenced = true := ⟨accepted (by decide +kernel), by decide⟩
def locking (train : Bool) : State := holding cmdNetLatencyLock (pk 0xB05 [1]) { ready with net := { ready.net with
  locking := ready.net.locking.set 0 (some ⟨some ⟨.pcie, 5⟩, [], false, false, false, false, train, true⟩) } }
theorem lock_bypassed : let s := { locking false with clk := { ready.clk with mux := 0 }, net := { (locking false).net with
      dies := ready.net.dies.set 0 { ready.net.dies[0] with st := .up } } }
    s.net.locking[0].isSome = true ∧ s.clk.mux.getLsbD 0 = false ∧ s.net.dies[0].st ≠ .locked ∧ ready.clk.mux.getLsbD 0 = true := by
  decide +kernel
theorem lock_holds : (∃ x, (locking true).net.locking[0] = some x ∧ x.key = some (begunJob cmdNetLatencyLock (pk 0xB05 [1])).key ∧
    x.live = true ∧ x.remap = false ∧ mapHolds x.bad x.half [] = true) ∧ mapHolds [] false [(0, false), (1, false)] = false :=
  ⟨⟨_, rfl, by decide, rfl, rfl, by decide +kernel⟩, by decide +kernel⟩
theorem audit_ends : let s := holding cmdNetCreditAudit (pk 0xB02 []) { ready with net := { ready.net with audit := [⟨.pcie, 5⟩] } }
    s.net.audit = [⟨.pcie, 5⟩] ∧ (begunJob cmdNetCreditAudit (pk 0xB02 [])).key = ⟨.pcie, 5⟩ ∧
      Endable s (begunJob cmdNetCreditAudit (pk 0xB02 [])) := ⟨by decide, by decide, endable _ _ _⟩
theorem audit_drains (n : Nat) (h : n = 0 ∨ n = 1) : (ready.setBook 0 0 ⟨63, 0, n, 0⟩).drained = decide (n = 0) := by
  rcases h with rfl | rfl <;> decide
/-- The mesh, and a link: a flit that enters, one from the die in and out of order, damaged, sent again, and one that goes to it. -/
def payload : Bytes := List.replicate 64 7
theorem flit_enters : netDie .queen = none ∧ ready.net.audit = [] ∧ ready.attachRoom (netRouter .queen) 3 = true ∧
    ready.pdOn (routerDomain (netRouter .queen)) = true ∧ (dom 1 .off).pdOn (routerDomain (netRouter .queen)) = false := by decide
theorem flit_sent (n : BitVec 12) (h : n = 0 ∨ n = 1) : let s := atDie fun x => { x with dieTx := n }
    s.maySend 0 true 3 = true ∧ payload.length = 64 ∧ (s.net.dies[0].dieTx = s.net.dies[0].rxSeq ↔ n = 0) ∧ s.net.dies[0].failsIn < 15 := by
  rcases h with rfl | rfl <;> decide
theorem flit_fails : let s := grp (fun x => { x with fail := { x.fail with fifo := [0] } })
    failGroup (.die 0 10) = some 2 ∧ s.groups[2].fail.fifo = [0] ∧ s.maySend 0 true 2 = true ∧
      s.net.dies[0].dieTx = s.net.dies[0].rxSeq ∧ ready.groups[2].fail.fifo = [] ∧ failGroup (.die 0 12) = none ∧ failGroup (.die 0 7) = none := by
  decide
theorem flit_damaged : flitOk (addNoise (flitBytes payload 3 0 (0 - 1) (ready.creditsDue 0 true).1 (ready.creditsDue 0 true).2) [575]) = false := by
  decide +kernel
theorem flit_again : let g : LinkFlit := ⟨0, .die 0 0, .queen, flitBytes payload 3 0 0 0 0⟩
    let s := atDie fun x => { x with dieBuf := [g] }
    s.flitsRun 0 = true ∧ s.net.dies[0].dieBuf.find? (·.seq = s.net.dies[0].rxSeq) = some g ∧ flitOk g.bytes = true := by decide +kernel
theorem flit_goes : let m : MeshFlit := ⟨.queen, .die 0 0, 3, payload, .toDie 0⟩
    let s := ({ ready with net := { ready.net with mesh := [m] } }).setBook (meshBook (netRouter m.dst) attachPort) 3 ⟨63, 1, 0, 0⟩
    s.nextToDie 0 = some m ∧ s.net.dies[0].txSeq = s.net.dies[0].dieRx ∧
      0 < (s.book (meshBook (netRouter m.dst) attachPort) 3).filled := by
  have h : ∀ r : Fin 32, let m : MeshFlit := ⟨.queen, .die 0 0, 3, payload, .toDie 0⟩
      let s := ({ ready with net := { ready.net with mesh := [m] } }).setBook (meshBook r attachPort) 3 ⟨63, 1, 0, 0⟩
      s.nextToDie 0 = some m ∧ s.net.dies[0].txSeq = s.net.dies[0].dieRx ∧ 0 < (s.book (meshBook r attachPort) 3).filled := by
    decide +kernel
  exact h _
theorem link_replays : let g : LinkFlit := ⟨0, .die 0 0, .queen, payload⟩
    let s := atDie fun x => { x with rejecting := true, dieRejecting := true, replayBuf := [g], dieBuf := [g] }
    s.flitsRun 0 = true ∧ s.net.dies[0].dieBuf.any (·.seq = s.net.dies[0].rxSeq) = true ∧
      s.net.dies[0].replayBuf.any (·.seq = s.net.dies[0].dieRx) = true ∧ s.net.dies[0].winReplays < 1023 := by decide
theorem lane_fixed : ready.fixedLane 0 0 = true := by decide
theorem handshake_waits : let p := pk 0xA05 [0, 0x1000, 8, 0, 7, 0]
    Endable (holding cmdMemFill p) (begunJob cmdMemFill p) ∧ (begunJob cmdMemFill p).phase = .running := ⟨endable _ _ _, rfl⟩
theorem die_clocked : ready.dieOn 0 0 = true ∧ ready.net.dies[0].fenced = false := by decide

/-! The swarm (11). -/

def linked (f : Laravo → Laravo) (s : State := ready) : State := { s with swarm := { s.swarm with
  links := s.swarm.links.set 0 (f s.swarm.links[0]) } }
theorem link_actions (v : Word) (h : v = 1 ∨ v = 2) : Accepted cmdSwarmLinkSet (pk 0xC03 [v, 0]) ready ∧
    ready.swarm.links[0].st ≠ .off ∧ ready.swarm.links[0].st ≠ .down := by
  rcases h with rfl | rfl <;> exact ⟨accepted (by decide +kernel), by decide⟩
theorem link_settings : Accepted cmdSwarmLinkSet (pk 0xC03 [0, 0]) (linked fun k => { k with st := .down }) := accepted (by decide +kernel)
def mail (vc : Nat) : Message := ⟨vc, 9, none, none, nopBytes⟩
theorem command_arrives : let s := linked fun k => { k with whole := [mail 0] }
    s.queen.serves = true ∧ s.queenClocked = true ∧ s.rsc.hib = .awake ∧ takeMessage 0 s.swarm.links[0].whole = some (mail 0, []) ∧
      s.tagUsed ⟨.fwd 9 0 none, 5⟩ = false ∧ s.tagsOn Path.isFwd < 64 ∧
      (Pkt.ofWords (wordsOfBytes (mail 0).data) none).length.toNat = (mail 0).data.length := by decide +kernel
def fwdPkt : Pkt := pk 0xC04 [0x10001, 0xa, 0, 1, 0x1000000, 0x200007, 0, 0, 0, 0, 0, 0]
def forwarding (n : Nat) : State := holding cmdSwarmForward fwdPkt (linked (fun k => { k with whole := [mail 1] })
  { ready with swarm := { ready.swarm with forwards := List.replicate n ⟨⟨.pcie, 5⟩, 0, 9, 0, 5, 0xFF, 1, [], false⟩ } })
theorem reply_matches : takeMessage 1 (forwarding 1).swarm.links[0].whole = some (mail 1, []) ∧
    (∃ f, (forwarding 1).swarm.forwards = [f] ∧ f.tag = ((wordsOfBytes (mail 1).data).getD 1 0).setWidth 16 ∧ f.got = [] ∧
      f.expected = 1 ∧ f.mode = 0 ∧ f.dest = (mail 1).src ∧ (mail 1).way = none ∧ f.aborting = false ∧ f.key = (begunJob cmdSwarmForward fwdPkt).key) ∧
    Endable (forwarding 1) (begunJob cmdSwarmForward fwdPkt) :=
  ⟨by decide +kernel, ⟨_, rfl, by decide +kernel, rfl, rfl, rfl, by decide, rfl, rfl, by decide⟩, endable _ _ _⟩
theorem reply_late : takeMessage 1 (forwarding 0).swarm.links[0].whole = some (mail 1, []) ∧ (forwarding 0).swarm.forwards = [] :=
  ⟨by decide +kernel, rfl⟩
/-- A packet of a whole message for the device with its checksum. -/
def packet : Bytes := let b : Bytes := [3, 9, 0x18, 0] ++ List.replicate 8 0 ++ [1, 2, 3, 4]
  b ++ numBytes 4 (crc32 b).toNat
/-- The packet in its columns of code groups, as the receiver reads them. -/
theorem packet_arrives : let cols := (codeColumns (linkColumns (.laravo 0 0 packet)) (List.replicate 4 false)).1
    unframe (elastic (cols.map (·.map rxSym))) = some (packet, true) ∧
      unframe (elastic (([] : List (List (BitVec 10))).map (·.map rxSym))) = none := by decide +kernel
theorem packet_good : let n := packet.length - 4
    crc32 (packet.take n) = BitVec.ofNat 32 (bytesNum (packet.drop n)) ∧ 16 ≤ packet.length ∧ ready.linkActive 0 = true ∧
      (packet.getD 2 0).toNat % 8 < 4 ∧ BitVec.ofNat 12 (bytesNum ((packet.drop 4).take 2)) = ready.swarm.links[0].rxSeq ∧
      (packet.getD 2 0).toNat.testBit 3 = true ∧ (packet.getD 2 0).toNat.testBit 4 = true ∧
      (packet.getD 2 0).toNat.testBit 5 = false ∧ packet.getD 0 0 = ready.swarm.id ∧ packet.getD 0 0 ≠ 0xFF := by decide +kernel
theorem packet_fails (n : Nat) (h : n = 14 ∨ n = 15) : let k := (linked fun k => { k with failsIn := n }).swarm.links[0]
    k.failsIn = n ∧ k.rejecting = false := by rcases h with rfl | rfl <;> decide
theorem packet_again : let s := linked fun k => { k with replayBuf := [(4, [1])] }
    s.linkActive 0 = true ∧ s.swarm.links[0].replayBuf.any (·.1 = 4) = true ∧ s.swarm.links[0].failsAt ≠ 4 := by decide
theorem none_in_transit : (∀ q ∈ ready.swarm.links[0].txq, q.from_ = none) ∧
    ∀ i : Fin 16, i ≠ 0 → ∀ q ∈ ready.swarm.links[i.val].txq, q.from_ ≠ some 0 := by decide
theorem packet_bad : crc32 (List.replicate 12 0) ≠ BitVec.ofNat 32 (bytesNum (List.replicate 4 (0 : Byte))) ∧
    ready.swarm.links[0].rejecting = false ∧ (linked fun k => { k with rxSeq := 1 }).swarm.links[0].rxSeq ≠ 0 := by decide +kernel
theorem buzzes : let s := { linked (fun k => { k with buzzRx := true }) (runs 2 0) with dbg := { ready.dbg with
      members := ready.dbg.members.set 0 0x4 } }
    s.linkActive 0 = true ∧ s.swarm.links[0].buzzRx = true ∧ s.swarm.buzzSeen.contains (1, 1) = false ∧ 2 ∈ s.buzzMembers 0 ∧
      s.workers[2].st = .running := by decide +kernel
theorem trains : let s := linked fun k => { k with st := .down }
    s.swarm.links[0].enabled = true ∧ s.laravoMode = true ∧ s.linkPowered 0 = true ∧ s.linkMarked 0 = false ∧
      s.clk.runs = true ∧ s.clk.coast = false ∧ s.swarm.links[0].st = .down ∧ s.swarm.links[0].mayTrain = true := by decide +kernel
theorem training (st : LlSt) (h : st = .training ∨ st = .up) : (linked fun k => { k with st := st }).swarm.links[0].st = st := by
  rcases h with rfl | rfl <;> decide

/-! Time (11). -/

theorem base_unset : Accepted cmdTimeSet (pk 0xD01 [0x101, 0, 0, 0, 0]) ready ∧ param (pk 0xD01 [0x101, 0, 0, 0, 0]) 32 8 1 = 1 :=
  ⟨accepted (by decide +kernel), by decide⟩
theorem base_set : let p := pk 0xD01 [1, 900, 0, 0, 0]
    Accepted cmdTimeSet p ready ∧ param p 32 8 1 = 0 ∧ tbOf (param p 32 0 8) = 1 ∧
      (setInstant (applied cmdTimeSet p) - ready.tb[1].value : Int).natAbs ≤ ready.tb[1].jump.toNat * 4294967296 ∧ ready.queen.jobs = [] :=
  ⟨accepted (by decide +kernel), by decide, by decide, by decide +kernel, rfl⟩
theorem base_jumps : let p := pk 0xD01 [1, 0, 5, 0, 0]
    Accepted cmdTimeSet p ready ∧ param p 32 8 1 = 0 ∧ ready.tb[1].set = true ∧
      ready.tb[1].jump.toNat * 4294967296 < (setInstant (applied cmdTimeSet p) - ready.tb[1].value : Int).natAbs :=
  ⟨accepted (by decide +kernel), by decide, by decide, by decide +kernel⟩
theorem slews_within : let p := pk 0xD02 [1, 9, 0, 1, 0]
    param p 32 8 2 = 0 ∧ (signedOf 64 (param p 36 0 64)).natAbs ≤ ready.tb[1].jump.toNat * 4294967296 := by decide
theorem slew_jumps : let p := pk 0xD02 [1, 0, 5000, 1, 0]
    Accepted cmdTimeAdjust p ready ∧ ready.tb[1].jump.toNat * 4294967296 < (signedOf 64 (param p 36 0 64)).natAbs :=
  ⟨accepted (by decide +kernel), by decide +kernel⟩
theorem trims : Accepted cmdTimeAdjust (pk 0xD02 [0x101, 0, 0, 0, 7]) ready ∧ param (pk 0xD02 [0x101, 0, 0, 0, 7]) 32 8 2 = 1 :=
  ⟨accepted (by decide +kernel), by decide⟩
/-- The servo follows link 0 or PTM; `TB0` is SET or not. -/
def steered (src : BitVec 2) (set : Bool) : State := { ready with
  servo := { ready.servo with source := src, link := 0, st := .acquiring, txMask := 1 }
  tb := ready.tb.set 0 ({ ready.tb[0] with set := set } : TimeBase) }
def syncPkt (n : Nat) : TimePkt := ⟨List.replicate 4 0 ++ numBytes 6 n ++ List.replicate 30 0, 0, true, 0, 0, 0⟩
theorem servo_follows (set : Bool) : let s := steered 2 set
    s.servo.source = 2 ∧ s.servo.link = 0 ∧ s.linkActive 0 = true ∧ s.servo.runs = true ∧ (syncPkt 0).crcOk = true ∧ s.tb0.set = set := by
  cases set <;> decide
theorem servo_errors : let e n := stampValue (((syncPkt n).bytes.drop 4).take 14) + medianOf ready.swarm.links[0].delays - (syncPkt n).rxTime
    let jump := (steered 2 true).tb0.jump.toNat * 4294967296
    (e 0).natAbs ≤ jump ∧ jump < (e 0xFFFFFFFFFFFF).natAbs ∧ (steered 2 true).servo.refused < 3 ∧
      (steered 2 true).servo.jumpSec ≠ some (steered 2 true).tb0.sec := by decide +kernel
theorem servo_ptm : let s := steered 1 true
    s.servo.source = 1 ∧ s.hif.ptmOn = true ∧ s.hif.pcieUp = true ∧ s.servo.runs = true ∧ s.tb0.set = true ∧
      ((4294967296 : Int) + s.servo.ptmOffset * 4294967296 - 0).natAbs ≤ s.tb0.jump.toNat * 4294967296 := by decide
theorem sync_goes : let s := { steered 0 true with servo := { (steered 0 true).servo with st := .locked } }
    s.servo.txMask.getLsbD 0 = true ∧ s.linkActive 0 = true ∧ s.tb0.set = true ∧ s.servo.st = .locked := by decide
theorem sync_held : { ready.servo with st := .hold }.st = .hold ∧ ready.swarm.links[0].txq = [] := by decide
theorem delay_answers : (linked fun k => { k with reqT1 := some 7 }).swarm.links[0].reqT1 = some 7 ∧
    (linked fun k => { k with reqT1 := some 7 }).linkActive 0 = true := by decide
theorem slew_ends : let s := { ready with tb := ready.tb.set 1 ({ ready.tb[1] with slewing := true } : TimeBase) }
    s.tb[1].slewing = true ∧ s.tb[1].slew = 0 := by decide
theorem idles : ready.pending = [] ∧ ready.pdOn 0 = true ∧ ready.clk.runs = true ∧ ready.clk.coast = false ∧ ready.queen.due = [] ∧ ready.queen.jobs = [] ∧
    ready.tb[1].slew = 0 ∧ ready.tb[1].ns.toNat < 1000000000 ∧ ready.tb[1].trim.natAbs ≤ 4194304 ∧
    ready.tb[1].sec.toNat + 1 < 2 ^ 48 := by decide

/-! Debug (16). -/

theorem proves (v : Word) (h : v = 0x101 ∨ v = 0x102 ∨ v = 0x202) :
    Accepted cmdDbgUnlock (pk 0x1000 [v]) ready ∧ ready.sec.challenge = none := by
  rcases h with rfl | rfl | rfl <;> exact ⟨accepted (by decide +kernel), rfl⟩
theorem reads_consuming : let p := pk 0x1003 [0x10101, 0, 0x31, 0, 8, 0]
    Accepted cmdDbgRead p atWork ∧ param p 32 8 1 = 1 ∧ param p 40 0 64 ≤ 49 ∧ 49 < param p 40 0 64 + param p 48 0 16 / 4 :=
  ⟨accepted (by decide +kernel), by decide, by decide, by decide⟩
theorem writes_internal : let p := pk 0x1004 [0, 0, 0, 0x3000, 4, 0, 7]
    Accepted cmdDbgWrite p ready ∧ param p 32 0 2 = 0 ∧ inInternal (param p 40 0 64) 4 = true :=
  ⟨accepted (by decide +kernel), by decide, by decide⟩
theorem halts_running : Accepted cmdDbgHalt (pk 0x1001 [4, 0]) atWork ∧ atWork.workers[2].st = .running ∧
    atWork.net.dies[(workerDie 2).val].fenced = false := ⟨accepted (by decide +kernel), by decide, by decide⟩
theorem halts_none : Accepted cmdDbgHalt (pk 0x1001 [8, 0]) atWork ∧ atWork.workers[3].st ≠ .running :=
  ⟨accepted (by decide +kernel), by decide⟩
theorem resumes : (∀ g : Fin 16, atWork.groups[g.val].st ≠ .halted ∧ atWork.groups[g.val].st ≠ .armed) ∧ atWork.mayResume 1 = true := by
  decide
theorem queen_runs : ready.queen.up = true ∧ ready.queen.halted = false ∧ ready.queen.dbgHalt = false := by decide
theorem scans (m : Mode) (h : m = .boot ∨ m = .ready ∨ m = .maintain) : (readyIn m).pdOn 0 = true ∧ (readyIn m).rsc.mode = m ∧
    scansPins (readyIn m).dbg.ir = false := by rcases h with rfl | rfl | rfl <;> decide
theorem chains : let s (v : Byte) := { readyIn .maintain with dbg := { ready.dbg with dieSel := v } }
    (s 1).chain.all (s 1).wrapperBypassed = false ∧ (s 0).chain.all (s 0).wrapperBypassed = true := by decide +kernel
theorem mails : ready.dbg.mailBusy = false ∧ ready.pdOn 2 = true ∧ ready.rsc.hib = .awake ∧
    (let l := ready.dbg.mailIn ++ wordsOfBytes nopBytes
     let p := Pkt.ofWords l none
     2 ≤ l.length ∧ p.lengthUsable = true ∧ p.length.toNat / 4 = l.length ∧ ∀ d ∈ dbgCmds, p.opcode ≠ d.code) := by decide +kernel
theorem mails_debug : let l := wordsOfBytes nopBytes |>.set 0 0x01001002
    (Pkt.ofWords l none).opcode = cmdDbgResume.code ∧ cmdDbgResume ∈ dbgCmds := ⟨by decide +kernel, by simp [dbgCmds]⟩

/-! Worker, timing, port and self-test commands with more to ask (04, 05, 17, 19). -/

theorem image_loads : let p := pk 0x700 [1, 0, 0, 0, 8, 16, 0] 0 (some (List.replicate 24 7))
    Accepted cmdWorkLoad p ready ∧ param p 32 0 1 = 1 ∧ param p 48 0 19 + param p 52 0 17 + param p 56 0 17 = 24 :=
  ⟨accepted (by decide +kernel), by decide, by decide⟩
theorem image_unread : Accepted cmdWorkLoad (pk 0x700 [1, 0, 0, 0, 8, 0, 0]) ready := accepted (by decide +kernel)
theorem start_coded : Accepted cmdWorkStart (pk 0x701 (2 :: List.replicate 17 0)) ready ∧ ready.groupsToArm (workersOf 2) = [] ∧
    (workersOf 2).filterMap workerGroup = [1] := ⟨accepted (by decide +kernel), by decide +kernel, by decide +kernel⟩
def startPkt : Pkt := pk 0x701 (4 :: List.replicate 17 0)
def beginning (fenced : Bool) : State := holding cmdWorkStart startPkt { ready with
  net := { ready.net with dies := ready.net.dies.set 0 ({ ready.net.dies[0] with fenced := fenced } : DieLink) }
  workers := ready.workers.set 2 ({ ready.workers[2] with st := .running } : Worker)
  starts := [⟨⟨.pcie, 5⟩, 4, [2], none, some 0, 3, true, none⟩] }
theorem start_begins (fenced : Bool) : let s := beginning fenced
    s.starts.find? (fun y => sameKey y.key ⟨.pcie, 5⟩ && y.strobed && y.tick.isSome) =
      some ⟨⟨.pcie, 5⟩, 4, [2], none, some 0, 3, true, none⟩ ∧
      s.job? ⟨.pcie, 5⟩ = some (begunJob cmdWorkStart startPkt) ∧ (workStartCheck s 4 false).isNone = !fenced ∧
      s.queen.stopJobs = [] ∧ s.dbg.haltJobs = [] ∧ (∀ w : Fin 32, s.workers[w.val].dbg.stepJob = none) ∧
      s.workers[2].active = true := by
  cases fenced <;> decide +kernel
theorem stop_named : Accepted cmdWorkStop (pk 0x702 [4]) atWork ∧ atWork.activeOf 4 = [2] ∧ atWork.workers[2].st = .running ∧
    Accepted cmdWorkStop (pk 0x702 [1]) atWork ∧ atWork.activeOf 1 = [] :=
  ⟨accepted (by decide +kernel), by decide, by decide, accepted (by decide +kernel), by decide⟩
theorem deskew_sets : let p := pk 0x601 (1 :: 1 :: List.replicate 16 0)
    Accepted cmdTimDeskew p ready ∧ param p 32 0 1 = 1 ∧ groupsOf (fld (applied cmdTimDeskew p) 36 0 16) = [0] ∧
      fld (applied cmdTimDeskew p) 32 0 1 = 1 := ⟨accepted (by decide +kernel), by decide, by decide +kernel, by decide +kernel⟩
def calibrating (fenced : Bool) : State := holding cmdTimDeskew (pk 0x601 [0, 1]) { ready with
  net := { ready.net with dies := ready.net.dies.set 0 ({ ready.net.dies[0] with fenced := fenced } : DieLink) }
  queen := { ready.queen with cal := [(⟨.pcie, 5⟩, 0)] } }
theorem calibration_ends (fenced : Bool) : let s := calibrating fenced
    let j := begunJob cmdTimDeskew (pk 0x601 [0, 1])
    s.job? ⟨.pcie, 5⟩ = some j ∧ groupsOf (fld j.args 36 0 16) = [0] ∧ s.net.dies[(groupDie 0).val].fenced = fenced ∧
      ([⟨0, 250, List.replicate 32 1⟩] : List CalResult).find? (fun x => x.group = 0) = some ⟨0, 250, List.replicate 32 1⟩ := by
  cases fenced <;> decide +kernel
theorem detection_safe : let s := lane .waveform id { ready with groups := ready.groups.set 1 { ready.groups[1] with loopback := true } }
    let t := { s with groups := s.groups.set 1 { s.groups[1] with loopback := true } }
    Accepted cmdPortDetect (pk 0x505 [1] 1) t ∧ t.portOn 8 = true ∧ t.portSafe 8 = true ∧ ready.portSafe 0 = false :=
  ⟨accepted (by decide +kernel), by decide +kernel, by decide +kernel, by decide +kernel⟩
theorem detection_ends : (holding cmdPortDetect (pk 0x505 [1])).queen.jobs.find?
    (fun j => j.p.opcode = 0x0505 && j.phase = .running && Pkt.group j.p = 0) = some (begunJob cmdPortDetect (pk 0x505 [1])) := by
  decide +kernel
theorem prbs_acts (v : Word) (h : v = 1 ∨ v = 0x8101 ∨ v = 0x201 ∨ v = 0x301 ∨ v = 0x401) :
    Accepted cmdPortPrbs (pk 0x506 [v] 1) ready := by rcases h with rfl | rfl | rfl | rfl | rfl <;> exact accepted (by decide +kernel)
theorem log_kept : Accepted cmdFailSet (pk 0x800 [1, 0, 0, 0, 0, 0, 2]) ready := accepted (by decide +kernel)
/-- A run of unit 0 that waits or runs; unit 1 marked. -/
def tested (waiting running : List (Fin 64)) : State := { ready with bist := { ready.bist with
  run := some ⟨some ⟨.pcie, 5⟩, 3, false, 800, [], waiting, running⟩
  units := ready.bist.units.set 1 ({ ready.bist.units[1] with marked := true } : BistUnit) } }
theorem unit_starts : (tested [0] []).abortAsked ⟨.pcie, 5⟩ = false ∧ (tested [0] []).unitSkipped 0 = false ∧
    (tested [1] []).unitSkipped 1 = true ∧ unitPower 0 ≤ 800 ∧ unitDigital 0 = true ∧ unitAnalog 0 = false := by decide +kernel

end Sys2Proof.Tests
end

section
/-! SUPPORT. What leaves the hive network and the die links alone: ports, Laravo links, replies, tests, and what of Workers is settled. -/

namespace Sys2Proof.Machine

/-! Folds that keep what a function of the state reads. -/

theorem foldl_keeps {ι α : Type} (g : State → α) {f : State → ι → State} (hf : ∀ s i, g (f s i) = g s) (l : List ι) (s : State) :
    g (l.foldl f s) = g s := by
  induction l generalizing s with
  | nil => rfl
  | cons i l ih => exact (ih _).trans (hf s i)

theorem forAll_keeps {ι α : Type} (g : State → α) {f : ι → State → State} (hf : ∀ i s, g (f i s) = g s) (l : List ι) (s : State) :
    g (forAll l f s) = g s := foldl_keeps g (fun s i => hf i s) l s

theorem iter_keeps {α : Type} (g : State → α) {f : State → State} (hf : ∀ s, g (f s) = g s) (n : Nat) (s : State) :
    g (iter f n s) = g s := by
  induction n generalizing s with
  | zero => rfl
  | succ n ih => exact (ih _).trans (hf s)

/-! What leaves the hive network and the die links alone: ports, Laravo links, replies, and what of Workers and tests is settled. -/

@[simp] theorem State.drive_net (s : State) (n : Fin 128) (txe : Bool) (l : Level) : (s.drive n txe l).net = s.net := by
  simp only [State.drive, apply_ite State.net, State.emit_net, State.modPort_net, ite_self]

@[simp] theorem State.setLink_net (s : State) (n : Fin 128) (l : Link) : (s.setLink n l).net = s.net := by
  unfold State.setLink; dsimp only; split
  · rfl
  · split
    · rfl
    · simp [State.raiseDie]

@[simp] theorem State.refreshPort_net (s : State) (n : Fin 128) : (s.refreshPort n).net = s.net := by
  unfold State.refreshPort
  simp only [State.setLink_net, apply_ite State.net, State.drive_net, State.modPort_net, ite_self]

@[simp] theorem State.refreshDie_net (s : State) (d : Fin 4) : (s.refreshDie d).net = s.net :=
  forAll_keeps State.net (fun n s => s.refreshPort_net n) _ _

@[simp] theorem State.endTest_net (s : State) (n : Fin 128) : (s.endTest n).net = s.net := by
  unfold State.endTest; split
  · rfl
  · simp only [State.refreshPort_net, apply_ite State.net, State.drive_net, State.modPort_net, ite_self]

@[simp] theorem State.endTests_net (s : State) (g : Fin 16) : (s.endTests g).net = s.net :=
  forAll_keeps State.net (fun n s => s.endTest_net n) _ _

@[simp] theorem State.freeBuffer_net (s : State) (p : TxPacket) : (s.freeBuffer p).net = s.net := by
  unfold State.freeBuffer; split <;> rfl

@[simp] theorem State.emitLink_net (s : State) (l : Fin 16) (o : Output) : (s.emitLink l o).net = s.net := rfl

@[simp] theorem State.sendOne_net (s : State) (l : Fin 16) : (s.sendOne l).net = s.net := by
  unfold State.sendOne; dsimp only; split
  · rfl
  · split
    · rfl
    · split
      · rfl
      · simp

@[simp] theorem State.flushLink_net (s : State) (l : Fin 16) : (s.flushLink l).net = s.net :=
  iter_keeps State.net (fun s => s.sendOne_net l) _ _

@[simp] theorem State.queuePacket_net (s : State) (l : Fin 16) (p : TxPacket) : (s.queuePacket l p).net = s.net := by
  simp [State.queuePacket]

@[simp] theorem State.sendRouted_net (s : State) (vc : Nat) (dest : Byte) (data : Bytes) : (s.sendRouted vc dest data).net = s.net := by
  unfold State.sendRouted; split
  · rfl
  · split
    · rfl
    · refine foldl_keeps State.net (fun s f => ?_) _ _
      split <;> simp

@[simp] theorem State.sendPath_net (s : State) (vc : Nat) (dest : Byte) (way : BitVec 64) (data : Bytes) :
    (s.sendPath vc dest way data).net = s.net :=
  foldl_keeps State.net (fun s _ => s.queuePacket_net _ _) _ _

@[simp] theorem State.sendInnerReply_net (s : State) (o : Byte) (l : Fin 16) (way : Option (BitVec 64)) (ws : Words) :
    (s.sendInnerReply o l way ws).net = s.net := by
  unfold State.sendInnerReply; split <;> simp

@[simp] theorem State.pushReply_net (s : State) (k : JobKey) (holds : Bool) (ws : Words) (after : After) :
    (s.pushReply k holds ws after).net = s.net := by
  unfold State.pushReply; dsimp only; split <;> simp

@[simp] theorem State.commitRaw_net (s : State) (j : Job) (st : Status) (idx : Nat) (mask : BitVec 64) (body : Words) :
    (s.commitRaw j st idx mask body).net = s.net := by
  unfold State.commitRaw; dsimp only
  refine (foldl_keeps State.net (fun s a => ?_) _ _).trans ?_
  · split
    · rfl
    · simp
  · split
    · rfl
    · simp

@[simp] theorem State.commitDone_net (s : State) (j : Job) (r : Words) : (s.commitDone j r).net = s.net := s.commitRaw_net _ _ _ _ _

@[simp] theorem State.commitClose_net (s : State) (j : Job) (v : Verdict) (echo : Bool) (r : Words) :
    (s.commitClose j v echo r).net = s.net := by
  unfold State.commitClose; split <;> exact s.commitRaw_net _ _ _ _ _

@[simp] theorem State.refuse_net (s : State) (j : Job) (v : Verdict) : (s.refuse j v).net = s.net := s.commitRaw_net _ _ _ _ _

@[simp] theorem State.endStep_net (s : State) (w : Fin 32) : (s.endStep w).net = s.net := by
  unfold State.endStep; dsimp only; split <;> simp

@[simp] theorem State.haltSettled_net (s : State) (w : Fin 32) (halted : Bool) : (s.haltSettled w halted).net = s.net := by
  unfold State.haltSettled
  refine (foldl_keeps State.net (fun s h => ?_) _ _).trans rfl
  split <;> simp

@[simp] theorem State.stopSettled_net (s : State) (w : Fin 32) : (s.stopSettled w).net = s.net := by
  unfold State.stopSettled
  refine (foldl_keeps State.net (fun s h => ?_) _ _).trans rfl
  split <;> simp

@[simp] theorem State.settled_net (s : State) (w : Fin 32) : (s.settled w).net = s.net := by simp [State.settled]

@[simp] theorem State.unbalance_net (s : State) (d : Fin 4) : (s.unbalance d).net = s.net :=
  forAll_keeps State.net (fun i s => s.modSite_net i _) _ _

@[simp] theorem State.nextCycle_net (s : State) : s.nextCycle.net = s.net := rfl

@[simp] theorem State.bistSettle_net (s : State) : s.bistSettle.net = s.net := by
  unfold State.bistSettle
  split
  · rfl
  · split
    · rfl
    · dsimp only
      split
      · simp only [State.raise_net, State.nextCycle_net]
        exact foldl_keeps State.net (fun s u => by simp) _ _
      · simp only [apply_ite State.net, State.commitClose_net, State.commitDone_net, State.raise_net, State.nextCycle_net, ite_self]
        exact foldl_keeps State.net (fun s u => by simp) _ _

@[simp] theorem State.dieLeaves_net (s : State) (d : Fin 4) : (s.dieLeaves d).net = s.net := by
  have ended : ∀ (l : List (Fin 64 × Bool)) (t : State),
      (forAll l (fun u s => s.modBist u.1 fun x => x.ended 4 0 u.2) t).net = t.net :=
    forAll_keeps State.net fun u s => s.modBist_net _ _
  simp only [State.dieLeaves, apply_ite State.net, State.bistSettle_net, ended, ite_self]

@[simp] theorem State.fenceTests_net (s : State) (d : Fin 4) : (s.fenceTests d).net = s.net :=
  (foldl_keeps State.net (fun s j => s.refuse_net j _) _ _).trans (forAll_keeps State.net (fun g s => s.endTests_net g) _ _)

end Sys2Proof.Machine
end

section
/-! SUPPORT. Events raised, and the die links behind a fence (spec/10_hive_network_and_ndenu.md, R302 to R304; spec/18_events.md). -/

namespace Sys2Proof.Machine

/-! An event raised (18, R459, R460). -/

theorem mem_latchNew (l : List EvRec) (r : EvRec) : r ∈ latchNew l r := by
  induction l with
  | nil => simp [latchNew]
  | cons q l ih =>
    unfold latchNew
    split
    · simp
    · exact List.mem_cons_of_mem _ ih

/-- A record counted into the latch leaves one of its event there. -/
theorem latchRec_has_event (l : List EvRec) (r : EvRec) : ∃ q ∈ latchRec l r, q.event = r.event := by
  unfold latchRec
  split
  case isTrue h =>
    obtain ⟨q, hq, he⟩ := List.any_eq_true.mp h
    have he : q.event = r.event := by simpa using he
    exact ⟨{ q with count := satAdd q.count 1 }, List.mem_map.mpr ⟨q, hq, by simp [he]⟩, he⟩
  case isFalse => exact ⟨r, mem_latchNew l r, rfl⟩

theorem State.raise_latch {s : State} {e : Fin 256} (h : s.ev.src[e.val].mask = false) (sev unit det : Nat) :
    ∃ r ∈ (s.raise e sev unit det).ev.latch, r.event = e := by
  simpa [State.raise, h] using latchRec_has_event s.ev.latch
    ⟨e, BitVec.ofNat 3 sev, BitVec.ofNat 12 unit, s.tb0.set,
      (stampNsOf (s.occurred e.val s.ev.src[e.val].count.toNat)).setWidth 30,
      stampSOf (s.occurred e.val s.ev.src[e.val].count.toNat), BitVec.ofNat 128 det, 1, s.ev.cycle⟩

theorem State.raise_active (s : State) (e : Fin 256) (sev unit det : Nat) : (s.raise e sev unit det).ev.src[e.val].active = true := by
  simp [State.raise_src]

/-- An event is raised in a state whose events are those of an earlier one. -/
theorem State.raise_raised {s t : State} (h : t.ev = s.ev) (e : Fin 256) (sev unit det : Nat) :
    Raised s (t.raise e sev unit det) e where
  active := t.raise_active e sev unit det
  count := by simp [State.raise_src, h]
  latch hm := State.raise_latch (by rw [h]; exact hm) sev unit det

/-! The die links as the fence of a die leaves them (10, R302 to R304). -/

theorem upd_upd {α : Type} {n : Nat} (v : Vector α n) (i : Fin n) (f g : α → α) : upd (upd v i f) i g = upd v i (g ∘ f) := by
  simp [upd]

theorem State.cutDie_dies (s : State) (d : Fin 4) :
    (s.cutDie d).net.dies = upd s.net.dies d fun x => { x with clockOn := false, cutOff := true } := by
  simp [State.cutDie]

theorem State.dropLock_dies (s : State) (d : Fin 4) : (s.dropLock d).net.dies = s.net.dies := rfl

@[simp] theorem State.setMesh_dies (s : State) (l : List MeshFlit) : (s.setMesh l).net.dies = s.net.dies := rfl

@[simp] theorem State.modBook_dies (s : State) (c : BitVec 16) (v : Fin 4) (f : Book → Book) :
    (s.modBook c v f).net.dies = s.net.dies := rfl

@[simp] theorem State.leaveInput_dies (s : State) (f : MeshFlit) : (s.leaveInput f).net.dies = s.net.dies := by
  unfold State.leaveInput
  split
  · split <;> rfl
  · rfl
  · rfl

@[simp] theorem State.discardFlits_dies (s : State) (gone : MeshFlit → Bool) : (s.discardFlits gone).net.dies = s.net.dies := by
  refine (foldl_keeps (fun s => s.net.dies) (fun s f => ?_) _ _).trans (s.setMesh_dies _)
  split <;> simp

@[simp] theorem State.dropFlits_dies (s : State) (d : Fin 4) : (s.dropFlits d).net.dies = s.net.dies :=
  (State.discardFlits_dies _ _).trans (foldl_keeps (fun s => s.net.dies) (fun s f => by simp) _ _)

/-- A die's link as a fence with a cause, at a time, with these sums of its books leaves it (10, R302 to R304). -/
def DieLink.fencedWith (x : DieLink) (cause : Nat) (time : BitVec 32) (sums : Vector (BitVec 32) 8) : DieLink :=
  { x with
    fenced := true, fenceCause := BitVec.ofNat 4 cause, fenceS := time, setAside := sums, st := .down
    replayBuf := [], rejecting := false, failsOut := 0, failsIn := 0, dieBuf := [], dieRejecting := false
    clockOn := false, cutOff := true }

/-- What a fence makes of the die links: that of its die alone changes. -/
theorem State.fence_dies {s : State} {d : Fin 4} (h : s.net.dies[d.val].fenced = false) (cause : Nat) :
    ∃ time sums, (s.fence d cause).net.dies = upd s.net.dies d fun x => x.fencedWith cause time sums := by
  refine ⟨((s.unbalance d).dieLeaves d).stampS,
    Vector.ofFn fun i => BitVec.ofNat 32 (s.book (ndenuBook d (4 ≤ i.val)) (Fin.ofNat 4 i.val)).sum, ?_⟩
  have settles : ∀ (l : List (Fin 32)) (t : State), (forAll l (fun w s => s.settled w) t).net = t.net :=
    forAll_keeps State.net fun w s => s.settled_net w
  simp only [State.fence, h, Bool.false_eq_true, if_false, State.raiseDie, apply_ite State.net, State.raise_net,
    State.fenceTests_net, settles, ite_self, State.cutDie_dies, State.dropFlits_dies, State.dropLock_dies, State.modDie_net_dies,
    State.dieLeaves_net, State.unbalance_net, upd_upd]
  rfl

theorem State.fence_die {s : State} {d : Fin 4} (h : s.net.dies[d.val].fenced = false) (cause : Nat) :
    ∃ time sums, (s.fence d cause).net.dies[d.val] = s.net.dies[d.val].fencedWith cause time sums := by
  obtain ⟨time, sums, hd⟩ := State.fence_dies h cause
  exact ⟨time, sums, by rw [hd, upd_get_same]⟩

/-- The event that tells of a fence is active: die event +33 for a lost clock, else `E026` + d. -/
theorem State.fence_event {s : State} {d : Fin 4} (h : s.net.dies[d.val].fenced = false) (cause : Nat) :
    (s.fence d cause).ev.src[(if cause = 2 then dieEvent d 33 else ⟨26 + d.val, by omega⟩ : Fin 256).val].active = true := by
  simp only [State.fence, h, Bool.false_eq_true, if_false]
  split <;> exact State.raise_active _ _ _ _ _

end Sys2Proof.Machine
end

section
/-! SUPPORT. Credit books and the hops of the mesh (spec/10_hive_network_and_ndenu.md, R283, R284, R288, R307). -/

namespace Sys2Proof.Machine

/-! Credit books (10, R288, R307). -/

theorem State.book_congr {s t : State} (h : t.net.books = s.net.books) (c : BitVec 16) (v : Fin 4) : t.book c v = s.book c v := by
  simp only [State.book, h]

/-- With the entries of a book taken out, no entry of it is found. -/
theorem find_book_removed (l : List (BitVec 16 × Fin 4 × Book)) (c : BitVec 16) (v : Fin 4) :
    (l.filter fun e => !(e.1 = c && e.2.1 = v)).find? (fun e => e.1 = c && e.2.1 = v) = none := by
  refine List.find?_eq_none.mpr fun e he => ?_
  simpa [imp_iff_not_or] using (List.mem_filter.mp he).2

/-- With the entries of a book taken out, the entry of another one is found as before. -/
theorem find_book_kept (l : List (BitVec 16 × Fin 4 × Book)) {c c' : BitVec 16} {v v' : Fin 4} (h : ¬(c = c' ∧ v = v')) :
    (l.filter fun e => !(e.1 = c && e.2.1 = v)).find? (fun e => e.1 = c' && e.2.1 = v') =
      l.find? fun e => e.1 = c' && e.2.1 = v' := by
  rw [List.find?_filter]
  congr 1
  funext e
  by_cases he : e.1 = c' ∧ e.2.1 = v'
  · have hne : ¬(c' = c ∧ v' = v) := fun ⟨a, b⟩ => h ⟨a.symm, b.symm⟩
    simpa [he, ← not_and_or] using hne
  · have hf : (decide (e.1 = c') && decide (e.2.1 = v')) = false := by simpa using he
    rw [hf]
    simp

@[simp] theorem State.book_modBook_same (s : State) (c : BitVec 16) (v : Fin 4) (f : Book → Book) :
    (s.modBook c v f).book c v = f (s.book c v) := by
  simp only [State.modBook, State.setBook]
  generalize f (s.book c v) = b
  by_cases hb : b = bookStart c
  · simp only [State.book, hb, if_true, find_book_removed]
  · simp [State.book, hb]

theorem State.book_modBook_other {s : State} {c c' : BitVec 16} {v v' : Fin 4} (h : ¬(c = c' ∧ v = v')) (f : Book → Book) :
    (s.modBook c v f).book c' v' = s.book c' v' := by
  simp only [State.modBook, State.setBook]
  generalize f (s.book c v) = b
  have hn : (decide (c = c') && decide (v = v')) = false := by simpa using h
  by_cases hb : b = bookStart c
  · simp only [State.book, hb, if_true, find_book_kept _ h]
  · simp only [State.book, hb, if_false, List.find?_cons, hn, find_book_kept _ h]

/-- The sum of every credit book is what it was (10, R307). -/
def SumsKept (s t : State) : Prop := ∀ c v, (t.book c v).sum = (s.book c v).sum

theorem SumsKept.trans {s t u : State} (h : SumsKept s t) (k : SumsKept t u) : SumsKept s u := fun c v => (k c v).trans (h c v)

theorem SumsKept.of_books {s t : State} (h : t.net.books = s.net.books) : SumsKept s t := fun c v => by rw [State.book_congr h]

/-- A book changed without a change of its sum. -/
theorem State.modBook_sums {s : State} {c : BitVec 16} {v : Fin 4} {f : Book → Book} (h : (f (s.book c v)).sum = (s.book c v).sum) :
    SumsKept s (s.modBook c v f) := fun c' v' => by
  by_cases he : c = c' ∧ v = v'
  · obtain ⟨rfl, rfl⟩ := he
    rw [State.book_modBook_same, h]
  · rw [State.book_modBook_other he]

theorem Book.spend_sum {b : Book} (h : 0 < b.free) : b.spend.sum = b.sum := by simp only [Book.spend, Book.sum]; omega
theorem Book.land_sum {b : Book} (h : 0 < b.flight) : b.land.sum = b.sum := by simp only [Book.land, Book.sum]; omega
theorem Book.leave_sum {b : Book} (h : 0 < b.filled) : b.leave.sum = b.sum := by simp only [Book.leave, Book.sum]; omega
theorem Book.home_sum (b : Book) (n : Nat) : (b.home n).sum = b.sum := by simp only [Book.home, Book.sum]; omega

theorem ndenuBook_toNat (d : Fin 4) (i : Bool) : (ndenuBook d i).toNat = (if i then 2 else 1) * 4096 + d.val := by
  rw [ndenuBook, BitVec.toNat_ofNat]
  split <;> omega

theorem ndenuBook_ne_other (d : Fin 4) (i : Bool) : ndenuBook d i ≠ ndenuBook d (!i) := fun h => by
  have := congrArg BitVec.toNat h
  cases i <;> simp [ndenuBook_toNat] at this

theorem meshBook_ne_ndenuBook (r : Fin 32) (p : Fin 5) (d : Fin 4) (i : Bool) : meshBook r p ≠ ndenuBook d i := fun h => by
  have := congrArg BitVec.toNat h
  rw [meshBook, BitVec.toNat_ofNat, ndenuBook_toNat] at this
  split at this <;> omega

/-! The mesh (10, R283, R284). -/

theorem meshNext_north (r : Fin 32) : (meshNext r 0).val = (r.val + 8) % 32 := Fin.val_add r 8
theorem meshNext_east (r : Fin 32) : (meshNext r 1).val = (r.val + 1) % 32 := Fin.val_add r 1
theorem meshNext_south (r : Fin 32) : (meshNext r 2).val = (32 - 8 + r.val) % 32 := congrArg Fin.val (Fin.sub_def r 8)
theorem meshNext_west (r : Fin 32) : (meshNext r 3).val = (32 - 1 + r.val) % 32 := congrArg Fin.val (Fin.sub_def r 1)

/-- The steps between two numbers. -/
def apart (x y : Nat) : Nat := (x - y) + (y - x)

/-- A hop to another column goes along x, one column nearer. -/
theorem hop_along_x {r dst : Fin 32} (h : r.val % 8 ≠ dst.val % 8) :
    (meshNext r (meshPort r dst)).val / 8 = r.val / 8 ∧
      apart ((meshNext r (meshPort r dst)).val % 8) (dst.val % 8) + 1 = apart (r.val % 8) (dst.val % 8) := by
  unfold apart
  rcases Nat.lt_or_gt_of_ne h with he | hw
  · have hp : meshPort r dst = 1 := by simp [meshPort, he]
    rw [hp, meshNext_east]
    omega
  · have hp : meshPort r dst = 3 := by simp [meshPort, hw, Nat.lt_asymm hw]
    rw [hp, meshNext_west]
    omega

/-- In the right column a hop goes along y, one row nearer. -/
theorem hop_along_y {r dst : Fin 32} (hx : r.val % 8 = dst.val % 8) (h : r ≠ dst) :
    (meshNext r (meshPort r dst)).val % 8 = r.val % 8 ∧
      apart ((meshNext r (meshPort r dst)).val / 8) (dst.val / 8) + 1 = apart (r.val / 8) (dst.val / 8) := by
  unfold apart
  have hv : r.val ≠ dst.val := fun e => h (Fin.ext e)
  have hy : r.val / 8 ≠ dst.val / 8 := by omega
  rcases Nat.lt_or_gt_of_ne hy with hn | hs
  · have hp : meshPort r dst = 0 := by simp [meshPort, hx, hn]
    rw [hp, meshNext_north]
    omega
  · have hp : meshPort r dst = 2 := by simp [meshPort, hx, hs, Nat.lt_asymm hs]
    rw [hp, meshNext_south]
    omega

/-- A flit that stands at its source's router fills no slot that has a book. -/
@[simp] theorem State.leaveInput_attached (s : State) (src dst : NetUnit) (vc : Fin 4) (b : Bytes) (r : Fin 32) :
    s.leaveInput ⟨src, dst, vc, b, .router r attachPort⟩ = s := by
  simp [State.leaveInput]

end Sys2Proof.Machine
end

section
/-! SUPPORT. The flits of a die's link: their bytes, and how one is sent, discarded and taken (spec/10_hive_network_and_ndenu.md, R291,
R292, R299). -/

namespace Sys2Proof.Machine

/-! The bytes of a flit (10, R291). -/

theorem bytesNum_numBytes (k n : Nat) : bytesNum (numBytes k n) = n % 256 ^ k := by
  induction k generalizing n with
  | zero => simp [numBytes, bytesNum, Nat.mod_one]
  | succ k ih =>
    have hm : n % 256 ^ (k + 1) = n % 256 + 256 * (n / 256 % 256 ^ k) := by rw [Nat.pow_succ', Nat.mod_mul]
    rw [numBytes, bytesNum, ih, BitVec.toNat_ofNat, hm]

/-- The header of a flit as a number (10, R291). -/
def flitHeader (vc : Nat) (seq ack : BitVec 12) (crN crVc : Nat) : Nat :=
  vc + 4 * seq.toNat + 2 ^ 14 * ack.toNat + 2 ^ 26 * crN + 2 ^ 30 * crVc

section
variable {b : Bytes} (hb : b.length = 64) (vc : Nat) (seq ack : BitVec 12) (n v : Nat)
include hb

theorem flitBytes_take_payload : (flitBytes b vc seq ack n v).take 64 = b := by
  simp [flitBytes, hb]

theorem flitBytes_header : ((flitBytes b vc seq ack n v).drop 64).take 4 = numBytes 4 (flitHeader vc seq ack n v) := by
  simp [flitBytes, hb, flitHeader]

/-- The CRC of a flit as it was sent holds. -/
theorem flitOk_flitBytes : flitOk (flitBytes b vc seq ack n v) = true := by
  have hl : (b ++ numBytes 4 (flitHeader vc seq ack n v)).length = 68 := by simp [hb]
  have hd : (flitBytes b vc seq ack n v).drop 68 = numBytes 4 (crc32 (b ++ numBytes 4 (flitHeader vc seq ack n v))).toNat :=
    List.drop_left' hl
  have ht : (flitBytes b vc seq ack n v).take 68 = b ++ numBytes 4 (flitHeader vc seq ack n v) := List.take_left' hl
  have hc := (crc32 (b ++ numBytes 4 (flitHeader vc seq ack n v))).isLt
  rw [flitOk, hd, ht, bytesNum_numBytes, decide_eq_true_eq]
  exact Nat.mod_eq_of_lt hc

theorem flitField_flitBytes (lo w : Nat) :
    flitField (flitBytes b vc seq ack n v) lo w = bitsOf (flitHeader vc seq ack n v % 2 ^ 32) lo w := by
  rw [flitField, flitBytes_header hb, bytesNum_numBytes]
  rfl

theorem flitField_vc (h : vc < 4) : flitField (flitBytes b vc seq ack n v) 0 2 = vc := by
  rw [flitField_flitBytes hb, bitsOf, flitHeader, Nat.shiftRight_eq_div_pow]
  omega

theorem flitField_ack (h : vc < 4) : flitField (flitBytes b vc seq ack n v) 14 12 = ack.toNat := by
  have hs := seq.isLt
  have ha := ack.isLt
  rw [flitField_flitBytes hb, bitsOf, flitHeader, Nat.shiftRight_eq_div_pow]
  omega

end

@[simp] theorem addNoise_nil (bs : Bytes) : addNoise bs [] = bs := rfl

@[simp] theorem recBytes_length (r : BitVec 128) : (recBytes r).length = 64 := numBytes_length _ _

/-! A new flit on a die's link (10, R291, R292). -/

/-- The flit that a sender puts on its link next. -/
def State.newFlit (s : State) (d : Fin 4) (inbound : Bool) (src dst : NetUnit) (vc : Fin 4) (payload : Bytes) : LinkFlit :=
  let x := s.net.dies[d.val]
  let seq := if inbound then x.dieTx else x.txSeq
  ⟨seq, src, dst, flitBytes payload vc.val seq (if inbound then x.dieRx - 1 else x.rxSeq - 1)
    (s.creditsDue d inbound).1 (s.creditsDue d inbound).2⟩

/-- The side of a link that sends has taken a sequence number and keeps its flit. -/
def DieLink.sent (x : DieLink) (inbound : Bool) (f : LinkFlit) : DieLink :=
  if inbound then { x with dieTx := x.dieTx + 1, dieBuf := x.dieBuf ++ [f] }
  else { x with txSeq := x.txSeq + 1, replayBuf := x.replayBuf ++ [f] }

theorem State.sendFlit_eq (s : State) (d : Fin 4) (i : Bool) (src dst : NetUnit) (vc : Fin 4) (b : Bytes) :
    s.sendFlit d i src dst vc b =
      (s.modBook (ndenuBook d i) vc Book.spend).modDie d fun x => x.sent i (s.newFlit d i src dst vc b) := rfl

section
variable (s : State) (d : Fin 4) (i : Bool) (src dst : NetUnit) (vc : Fin 4) (b : Bytes)

@[simp] theorem State.sendFlit_die :
    (s.sendFlit d i src dst vc b).net.dies[d.val] = s.net.dies[d.val].sent i (s.newFlit d i src dst vc b) := by
  simp only [State.sendFlit_eq, State.modDie_net_dies, State.modBook_dies, upd_get_same]

@[simp] theorem State.sendFlit_out : (s.sendFlit d i src dst vc b).out = s.out := rfl

theorem State.sendFlit_book (c : BitVec 16) (v : Fin 4) :
    (s.sendFlit d i src dst vc b).book c v = (s.modBook (ndenuBook d i) vc Book.spend).book c v := rfl

/-- A sender that holds a credit spends it: no book's sum changes. -/
theorem State.sendFlit_sums (h : 0 < (s.book (ndenuBook d i) vc).free) : SumsKept s (s.sendFlit d i src dst vc b) :=
  State.modBook_sums (Book.spend_sum h)

/-- A flit that has been sent is on the wire. -/
theorem State.sendFlit_flight : 0 < ((s.sendFlit d i src dst vc b).book (ndenuBook d i) vc).flight := by
  rw [State.sendFlit_book, State.book_modBook_same]
  exact Nat.succ_pos _

/-- A new flit goes on its link and arrives. -/
theorem State.passFlit_eq (noise : List (Fin 576)) : s.passFlit d i src dst vc b noise =
    (s.sendFlit d i src dst vc b).arriveFlit d i (s.newFlit d i src dst vc b) noise := by
  have hl : (s.sendFlit d i src dst vc b).lastFlit d i = some (s.newFlit d i src dst vc b) := by
    rw [State.lastFlit, State.sendFlit_die, DieLink.sent]
    cases i <;> simp
  simp only [State.passFlit, hl]

end

/-! A flit that arrives (10, R291, R292). -/

section
variable {s : State} {d : Fin 4} {i : Bool} {f : LinkFlit} {noise : List (Fin 576)}

theorem State.arriveFlit_damaged (h : flitOk (addNoise f.bytes noise) = false) : s.arriveFlit d i f noise = s.badFlit d i f.seq := by
  simp [State.arriveFlit, h]

theorem State.arriveFlit_outOfOrder (h : flitOk (addNoise f.bytes noise) = true)
    (hs : f.seq ≠ if i then s.net.dies[d.val].rxSeq else s.net.dies[d.val].dieRx) : s.arriveFlit d i f noise = s := by
  simp [State.arriveFlit, h, hs]

theorem State.arriveFlit_inOrder (h : flitOk (addNoise f.bytes noise) = true)
    (hs : f.seq = if i then s.net.dies[d.val].rxSeq else s.net.dies[d.val].dieRx) :
    s.arriveFlit d i f noise = s.takeFlit d i f (addNoise f.bytes noise) := by
  simp [State.arriveFlit, h, hs]

end

/-! A flit damaged (10, R292, R299). -/

/-- One damaged that is expected, before the sixteenth failure: counted, discarded, and asked for. -/
theorem State.badFlit_expected {s : State} {d : Fin 4} {seq : BitVec 12} (hs : seq = s.net.dies[d.val].rxSeq)
    (hf : s.net.dies[d.val].failsIn < 15) : s.badFlit d true seq =
      ((s.netCount d 4).modDie d fun x => { x with rejecting := true, failsIn := s.net.dies[d.val].failsIn + 1 }).emit
        (.flitReplayAsk d s.net.dies[d.val].rxSeq) := by
  have hlim : ¬ failLimit ≤ s.net.dies[d.val].failsIn + 1 := by simp only [failLimit]; omega
  simp [State.badFlit, State.netCount, hs, b2n, hlim]

/-! A flit taken (10, R288, R291, R292). -/

/-- The side of a link that receives has taken a flit, and what its acknowledgement names has left the buffer of the other
direction. -/
def DieLink.took (x : DieLink) (inbound : Bool) (bs : Bytes) : DieLink :=
  let ack := BitVec.ofNat 12 (flitField bs 14 12)
  if inbound then { x with rxSeq := x.rxSeq + 1, rejecting := false, failsIn := 0, replayBuf := ackFlits x.replayBuf ack }
  else { x with dieRx := x.dieRx + 1, dieRejecting := false, failsOut := 0, dieBuf := ackFlits x.dieBuf ack }

@[simp] theorem State.sampleFlit_net (s : State) (d : Fin 4) (n : Nat) : (s.sampleFlit d n).net = s.net := by
  simp only [State.sampleFlit, State.modFab_net]
  exact foldl_keeps State.net (fun _ _ => by rfl) _ _

@[simp] theorem State.sampleFlit_groups (s : State) (d : Fin 4) (n : Nat) : (s.sampleFlit d n).groups = s.groups := by
  simp only [State.sampleFlit, State.modFab_groups]
  exact foldl_keeps State.groups (fun _ _ => by rfl) _ _

section
variable (s : State) (d : Fin 4) (i : Bool) (f : LinkFlit) (bs : Bytes)

@[simp] theorem State.takeFlit_die : (s.takeFlit d i f bs).net.dies[d.val] = s.net.dies[d.val].took i bs := by
  cases i
  · simp [State.takeFlit, State.takeHeader, DieLink.took]
  · simp [State.takeFlit, State.takeHeader, DieLink.took, apply_ite State.net, upd_upd]

theorem State.takeFlit_mesh_inbound : (s.takeFlit d true f bs).net.mesh =
    s.net.mesh ++ [⟨f.src, f.dst, Fin.ofNat 4 (flitField bs 0 2), bs.take 64, .endpoint d⟩] := by
  simp only [State.takeFlit, Bool.not_true, Bool.false_eq_true, if_false, apply_ite State.net, State.sampleFlit_net, ite_self]
  rfl

theorem State.takeFlit_mesh_outbound : (s.takeFlit d false f bs).net.mesh = s.net.mesh := rfl

@[simp] theorem State.takeFlit_groups : (s.takeFlit d i f bs).groups = s.groups := by
  cases i
  · rfl
  · simp only [State.takeFlit, Bool.not_true, Bool.false_eq_true, if_false, apply_ite State.groups, State.sampleFlit_groups, ite_self]
    rfl

end

/-- A flit taken off the wire fills a slot and brings credits home: no book's sum changes. -/
theorem State.takeFlit_sums {s : State} {d : Fin 4} {i : Bool} {bs : Bytes}
    (h : 0 < (s.book (ndenuBook d i) (Fin.ofNat 4 (flitField bs 0 2))).flight) (f : LinkFlit) : SumsKept s (s.takeFlit d i f bs) := by
  have home : SumsKept s (s.takeHeader d i bs) := State.modBook_sums (Book.home_sum _ _)
  have flies : (s.takeHeader d i bs).book (ndenuBook d i) (Fin.ofNat 4 (flitField bs 0 2)) =
      s.book (ndenuBook d i) (Fin.ofNat 4 (flitField bs 0 2)) :=
    State.book_modBook_other (fun e => ndenuBook_ne_other d i e.1.symm) _
  have land : SumsKept s ((s.takeHeader d i bs).modBook (ndenuBook d i) (Fin.ofNat 4 (flitField bs 0 2)) Book.land) :=
    home.trans (State.modBook_sums (Book.land_sum (by rw [flies]; exact h)))
  refine land.trans (.of_books ?_)
  cases i
  · rfl
  · simp only [State.takeFlit, Bool.not_true, Bool.false_eq_true, if_false, apply_ite State.net, State.sampleFlit_net, ite_self]
    rfl

end Sys2Proof.Machine
end

section
/-! SUPPORT. A flit that is sent and taken in order, and the flit that a link sends next (spec/10_hive_network_and_ndenu.md, R287 to R292). -/

namespace Sys2Proof.Machine

/-! A new flit that is taken where it arrives (10, R288, R291, R292). -/

section
variable (s : State) (d : Fin 4) (i : Bool) (src dst : NetUnit) (vc : Fin 4) {b : Bytes} (hb : b.length = 64)
include hb

theorem State.newFlit_ok : flitOk (s.newFlit d i src dst vc b).bytes = true := flitOk_flitBytes hb _ _ _ _ _

theorem State.newFlit_payload : (s.newFlit d i src dst vc b).bytes.take 64 = b := flitBytes_take_payload hb _ _ _ _ _

theorem State.newFlit_vc : Fin.ofNat 4 (flitField (s.newFlit d i src dst vc b).bytes 0 2) = vc := by
  have hv : flitField (s.newFlit d i src dst vc b).bytes 0 2 = vc.val := flitField_vc hb _ _ _ _ _ vc.isLt
  rw [hv, Fin.ofNat_val_eq_self]

/-- A flit from a die acknowledges the last one that the die has taken. -/
theorem State.newFlit_ack : BitVec.ofNat 12 (flitField (s.newFlit d true src dst vc b).bytes 14 12) = s.net.dies[d.val].dieRx - 1 := by
  have ha : flitField (s.newFlit d true src dst vc b).bytes 14 12 = (s.net.dies[d.val].dieRx - 1).toNat :=
    flitField_ack hb _ _ _ _ _ vc.isLt
  rw [ha, BitVec.ofNat_toNat, BitVec.setWidth_eq]

/-- A whole flit that is expected is sent and taken. -/
theorem State.passFlit_inOrder (hs : (s.newFlit d i src dst vc b).seq = if i then s.net.dies[d.val].rxSeq else s.net.dies[d.val].dieRx) :
    s.passFlit d i src dst vc b [] =
      (s.sendFlit d i src dst vc b).takeFlit d i (s.newFlit d i src dst vc b) (s.newFlit d i src dst vc b).bytes := by
  rw [State.passFlit_eq]
  refine State.arriveFlit_inOrder (noise := []) (State.newFlit_ok s d i src dst vc hb) ?_
  rw [hs, State.sendFlit_die, DieLink.sent]
  cases i <;> rfl

theorem State.passFlit_inOrder_sums (hs : (s.newFlit d i src dst vc b).seq = if i then s.net.dies[d.val].rxSeq else s.net.dies[d.val].dieRx)
    (hf : 0 < (s.book (ndenuBook d i) vc).free) : SumsKept s (s.passFlit d i src dst vc b []) := by
  rw [State.passFlit_inOrder s d i src dst vc hb hs]
  refine (State.sendFlit_sums s d i src dst vc b hf).trans (State.takeFlit_sums ?_ _)
  rw [State.newFlit_vc s d i src dst vc hb]
  exact State.sendFlit_flight s d i src dst vc b

/-- What a whole flit from a die that the hive expects makes of the die's link. -/
theorem State.passFlit_inOrder_inbound (hs : s.net.dies[d.val].dieTx = s.net.dies[d.val].rxSeq) :
    (s.passFlit d true src dst vc b []).net.mesh = s.net.mesh ++ [⟨src, dst, vc, b, .endpoint d⟩] ∧
    (s.passFlit d true src dst vc b []).groups = s.groups ∧
    (s.passFlit d true src dst vc b []).net.dies[d.val].rxSeq = s.net.dies[d.val].rxSeq + 1 ∧
    (s.passFlit d true src dst vc b []).net.dies[d.val].rejecting = false ∧
    (s.passFlit d true src dst vc b []).net.dies[d.val].failsIn = 0 ∧
    (s.passFlit d true src dst vc b []).net.dies[d.val].replayBuf =
      ackFlits s.net.dies[d.val].replayBuf (s.net.dies[d.val].dieRx - 1) := by
  rw [State.passFlit_inOrder s d true src dst vc hb hs, State.takeFlit_die, State.takeFlit_mesh_inbound, State.takeFlit_groups,
    State.newFlit_vc s d true src dst vc hb, State.newFlit_payload s d true src dst vc hb, DieLink.took,
    State.newFlit_ack s d src dst vc hb, State.sendFlit_die]
  exact ⟨rfl, rfl, rfl, rfl, rfl, rfl⟩

/-- What a whole flit to a die that the die expects makes of the die's link. -/
theorem State.passFlit_inOrder_outbound (hs : s.net.dies[d.val].txSeq = s.net.dies[d.val].dieRx) :
    (s.passFlit d false src dst vc b []).net.mesh = s.net.mesh ∧
    (s.passFlit d false src dst vc b []).net.dies[d.val].replayBuf =
      s.net.dies[d.val].replayBuf ++ [s.newFlit d false src dst vc b] ∧
    (s.passFlit d false src dst vc b []).net.dies[d.val].txSeq = s.net.dies[d.val].txSeq + 1 ∧
    (s.passFlit d false src dst vc b []).net.dies[d.val].dieRx = s.net.dies[d.val].dieRx + 1 := by
  rw [State.passFlit_inOrder s d false src dst vc hb hs, State.takeFlit_die, State.takeFlit_mesh_outbound, State.sendFlit_die]
  exact ⟨rfl, rfl, rfl, rfl⟩

end

/-! The flit that a link sends next (10, R287, R288). -/

/-- A sender may send: it holds a credit. -/
theorem State.maySend_free {s : State} {d : Fin 4} {i : Bool} {vc : Fin 4} (h : s.maySend d i vc = true) :
    0 < (s.book (ndenuBook d i) vc).free := by
  simp only [State.maySend, Bool.and_eq_true, decide_eq_true_eq] at h
  exact h.1.2

/-- A channel that is served is one that is ready. -/
theorem mem_of_pickVc {ready : List Nat} {waits : Nat → Nat} {v : Nat} (h : pickVc ready waits = some v) : v ∈ ready := by
  have later : ∀ (l : List Nat) (a : Nat), l.foldl (fun b c => if waits b < waits c then c else b) a ∈ a :: l := by
    intro l
    induction l with
    | nil => simp
    | cons c l ih =>
      intro a
      rw [List.foldl_cons]
      split
      · exact List.mem_cons_of_mem _ (ih c)
      · rcases List.mem_cons.mp (ih a) with e | e
        · simp [e]
        · exact List.mem_cons_of_mem _ (List.mem_cons_of_mem _ e)
  unfold pickVc at h
  split at h
  · exact List.mem_of_head? h
  case h_2 w l hw =>
    have hm := later l w
    rw [Option.some.inj h, ← hw] at hm
    exact (List.mem_filter.mp hm).1

/-- The flit that a channel sends waits for it. -/
theorem waits_of_nextFlit {l : List MeshFlit} {wait : MeshFlit → Bool} {f : MeshFlit} (h : nextFlit l wait = some f) : wait f = true := by
  unfold nextFlit at h
  cases hr : l.find? fun f => wait f && f.refill with
  | none => rw [hr] at h; exact List.find?_some h
  | some g =>
    rw [hr] at h
    have hg := List.find?_some hr
    rw [← Option.some.inj h]
    exact (Bool.and_eq_true_iff.mp hg).1

/-- The flit that a die's link sends next meets what its sender needs. -/
theorem State.nextToDie_maySend {s : State} {d : Fin 4} {m : MeshFlit} (h : s.nextToDie d = some m) : s.maySend d false m.vc = true := by
  unfold State.nextToDie at h
  dsimp only at h
  split at h
  · exact nomatch h
  case h_2 v hv =>
    have hm := List.mem_filter.mp (mem_of_pickVc hv)
    have hw := waits_of_nextFlit h
    obtain ⟨-, hv⟩ : m.at_ = .toDie d ∧ m.vc.val = v := by simpa using hw
    have hs := (Bool.and_eq_true_iff.mp hm.2).2
    rwa [← hv, Fin.ofNat_val_eq_self] at hs

theorem State.leaveEndpoint_book (s : State) (d : Fin 4) (f : MeshFlit) (c : BitVec 16) (v : Fin 4) :
    (s.leaveEndpoint d f).book c v = (s.modBook (meshBook (netRouter f.dst) attachPort) f.vc Book.leave).book c v := rfl

/-- A flit that leaves for its die touches no book of the die's link. -/
theorem State.leaveEndpoint_ndenuBook (s : State) (d : Fin 4) (f : MeshFlit) (i : Bool) (v : Fin 4) :
    (s.leaveEndpoint d f).book (ndenuBook d i) v = s.book (ndenuBook d i) v := by
  rw [State.leaveEndpoint_book]
  exact State.book_modBook_other (fun e => meshBook_ne_ndenuBook _ _ _ _ e.1) _

theorem State.leaveEndpoint_sums {s : State} {f : MeshFlit} (h : 0 < (s.book (meshBook (netRouter f.dst) attachPort) f.vc).filled)
    (d : Fin 4) : SumsKept s (s.leaveEndpoint d f) :=
  (State.modBook_sums (Book.leave_sum h) : SumsKept s (s.modBook (meshBook (netRouter f.dst) attachPort) f.vc Book.leave))

end Sys2Proof.Machine
end

section
/-! SUPPORT. Flits, and what happens to links and dies (spec/10_hive_network_and_ndenu.md, R283 to R304; spec/01_architecture.md, R11). -/

namespace Sys2Proof.Machine

/-! Flits of the Ndenu links, row by row (10, R286, R288, R291, R292, R299). -/

section
variable {s : State} {d : Fin 4} {u : Fin 32} {dst : NetUnit} {vc : Fin 4} {b : Bytes} {noise : List (Fin 576)}

theorem exec_fromDie (hg : failGroup (.die d u) = none) (hm : s.maySend d true vc = true) :
    exec (.flit (.fromDie d u dst vc b noise)) s = .next (s.passFlit d true (.die d u) dst vc b noise) := by
  simp only [exec, execFlit, State.sendFromDie, hg, hm, if_true]

/-- A flit of a die that the hive expects, whole (R288, R291, R292). -/
theorem exec_fromDie_inOrder (hg : failGroup (.die d u) = none) (hm : s.maySend d true vc = true) (hb : b.length = 64)
    (hs : s.net.dies[d.val].dieTx = s.net.dies[d.val].rxSeq) : ∃ t, exec (.flit (.fromDie d u dst vc b [])) s = .next t ∧
      SumsKept s t ∧ t.net.mesh = s.net.mesh ++ [⟨.die d u, dst, vc, b, .endpoint d⟩] ∧
      t.net.dies[d.val].rxSeq = s.net.dies[d.val].rxSeq + 1 ∧ t.net.dies[d.val].rejecting = false ∧
      t.net.dies[d.val].failsIn = 0 ∧
      t.net.dies[d.val].replayBuf = ackFlits s.net.dies[d.val].replayBuf (s.net.dies[d.val].dieRx - 1) := by
  obtain ⟨hmesh, -, hrx, hrej, hfails, hbuf⟩ := State.passFlit_inOrder_inbound s d (.die d u) dst vc hb hs
  exact ⟨_, exec_fromDie hg hm, State.passFlit_inOrder_sums s d true (.die d u) dst vc hb hs (State.maySend_free hm),
    hmesh, hrx, hrej, hfails, hbuf⟩

/-- A whole flit of a die out of order is not taken (R292). -/
theorem exec_fromDie_outOfOrder (hg : failGroup (.die d u) = none) (hm : s.maySend d true vc = true) (hb : b.length = 64)
    (hs : s.net.dies[d.val].dieTx ≠ s.net.dies[d.val].rxSeq) : ∃ t, exec (.flit (.fromDie d u dst vc b [])) s = .next t ∧
      SumsKept s t ∧ t.net.mesh = s.net.mesh ∧ t.net.dies[d.val].rxSeq = s.net.dies[d.val].rxSeq ∧
      t.net.dies[d.val].dieTx = s.net.dies[d.val].dieTx + 1 := by
  have hp : s.passFlit d true (.die d u) dst vc b [] = s.sendFlit d true (.die d u) dst vc b := by
    rw [State.passFlit_eq]
    refine State.arriveFlit_outOfOrder (noise := []) (State.newFlit_ok s d true _ dst vc hb) ?_
    rw [State.sendFlit_die]
    exact hs
  refine ⟨_, exec_fromDie hg hm, ?_⟩
  rw [hp, State.sendFlit_die]
  exact ⟨State.sendFlit_sums s d true _ dst vc b (State.maySend_free hm), rfl, rfl, rfl⟩

/-- A flit of a die that the hive expects arrives damaged, before the sixteenth failure in a row (R292, R299). -/
theorem exec_fromDie_damaged (hg : failGroup (.die d u) = none) (hm : s.maySend d true vc = true)
    (hs : s.net.dies[d.val].dieTx = s.net.dies[d.val].rxSeq) (hf : s.net.dies[d.val].failsIn < 15)
    (hbad : flitOk (addNoise (s.newFlit d true (.die d u) dst vc b).bytes noise) = false) :
    ∃ t, exec (.flit (.fromDie d u dst vc b noise)) s = .next t ∧ SumsKept s t ∧ t.net.mesh = s.net.mesh ∧
      t.net.dies[d.val].rxSeq = s.net.dies[d.val].rxSeq ∧ t.net.dies[d.val].rejecting = true ∧
      t.net.dies[d.val].failsIn = s.net.dies[d.val].failsIn + 1 ∧
      t.net.dies[d.val].counters[4] = satAdd s.net.dies[d.val].counters[4] 1 ∧
      t.out = .flitReplayAsk d s.net.dies[d.val].rxSeq :: s.out := by
  have hd : (s.sendFlit d true (.die d u) dst vc b).net.dies[d.val] =
    s.net.dies[d.val].sent true (s.newFlit d true (.die d u) dst vc b) := State.sendFlit_die ..
  have hsums := State.sendFlit_sums s d true (.die d u) dst vc b (State.maySend_free hm)
  have hp : s.passFlit d true (.die d u) dst vc b noise = _ := (State.passFlit_eq ..).trans <|
    (State.arriveFlit_damaged hbad).trans (State.badFlit_expected (by rw [hd]; exact hs) (by rw [hd]; exact hf))
  refine ⟨_, exec_fromDie hg hm, ?_⟩
  rw [hp]
  refine ⟨hsums.trans (.of_books rfl), rfl, ?_⟩
  simp [State.netCount, hd, DieLink.sent, upd]

/-- A group's fail compression sends its oldest record to the fail pipeline (R286). -/
theorem exec_fromDie_record {g : Fin 16} {r : BitVec 128} {l : List (BitVec 128)} (hg : failGroup (.die d u) = some g)
    (hf : s.groups[g.val].fail.fifo = r :: l) (hm : s.maySend d true 2 = true)
    (hs : s.net.dies[d.val].dieTx = s.net.dies[d.val].rxSeq) : ∃ t, exec (.flit (.fromDie d u dst vc b [])) s = .next t ∧
      t.groups[g.val].fail.fifo = l ∧ t.net.mesh = s.net.mesh ++ [⟨.die d u, .brood, 2, recBytes r, .endpoint d⟩] := by
  have hx : exec (.flit (.fromDie d u dst vc b [])) s =
      .next ((s.modGroup g fun x => { x with fail := { x.fail with fifo := l } }).passFlit d true (.die d u) .brood 2 (recBytes r) []) := by
    simp only [exec, execFlit, State.sendFromDie, hg, hf, hm, if_true]
  obtain ⟨hmesh, hgroups, -⟩ := State.passFlit_inOrder_inbound
    (s.modGroup g fun x => { x with fail := { x.fail with fifo := l } }) d (.die d u) .brood 2 (recBytes_length r) hs
  refine ⟨_, hx, ?_, hmesh⟩
  rw [hgroups]
  simp

/-- A fail compression without a record sends nothing. -/
theorem exec_fromDie_noRecord {g : Fin 16} (hg : failGroup (.die d u) = some g) (hf : s.groups[g.val].fail.fifo = []) :
    exec (.flit (.fromDie d u dst vc b noise)) s = .next s := by
  simp only [exec, execFlit, State.sendFromDie, hg, hf]

/-- The flit that the hive expects, sent again and whole, ends the rejection (R292). -/
theorem exec_again_expected {g : LinkFlit} (hr : s.flitsRun d = true)
    (hg : s.net.dies[d.val].dieBuf.find? (·.seq = s.net.dies[d.val].rxSeq) = some g) (hok : flitOk g.bytes = true) :
    ∃ t, exec (.flit (.again d true s.net.dies[d.val].rxSeq [])) s = .next t ∧
      t.net.dies[d.val].rxSeq = s.net.dies[d.val].rxSeq + 1 ∧ t.net.dies[d.val].rejecting = false := by
  have hseq : g.seq = s.net.dies[d.val].rxSeq := by simpa using List.find?_some hg
  have hx : exec (.flit (.again d true s.net.dies[d.val].rxSeq [])) s = .next (s.takeFlit d true g g.bytes) := by
    simp only [exec, execFlit, if_true, hg, hr, State.arriveFlit_inOrder (i := true) (noise := []) hok hseq, addNoise_nil]
  refine ⟨_, hx, ?_⟩
  rw [State.takeFlit_die]
  exact ⟨rfl, rfl⟩

/-- The flit that waits for its die goes on its link, kept until it is acknowledged (R288, R291, R292). -/
theorem exec_toDie {m : MeshFlit} (hn : s.nextToDie d = some m) (hb : m.payload.length = 64)
    (hs : s.net.dies[d.val].txSeq = s.net.dies[d.val].dieRx) : ∃ t f, exec (.flit (.toDie d [])) s = .next t ∧
      t.net.mesh = s.net.mesh.erase m ∧ f.seq = s.net.dies[d.val].txSeq ∧ f.bytes.take 64 = m.payload ∧
      t.net.dies[d.val].replayBuf = s.net.dies[d.val].replayBuf ++ [f] ∧
      t.net.dies[d.val].txSeq = s.net.dies[d.val].txSeq + 1 ∧ t.net.dies[d.val].dieRx = s.net.dies[d.val].dieRx + 1 ∧
      (0 < (s.book (meshBook (netRouter m.dst) attachPort) m.vc).filled → SumsKept s t) := by
  have hx : exec (.flit (.toDie d [])) s = .next ((s.leaveEndpoint d m).passFlit d false m.src m.dst m.vc m.payload []) := by
    simp only [exec, execFlit, hn]
  have hfree : 0 < ((s.leaveEndpoint d m).book (ndenuBook d false) m.vc).free := by
    rw [State.leaveEndpoint_ndenuBook]
    exact State.maySend_free (State.nextToDie_maySend hn)
  obtain ⟨hmesh, hbuf, htx, hrx⟩ := State.passFlit_inOrder_outbound (s.leaveEndpoint d m) d m.src m.dst m.vc hb hs
  exact ⟨_, (s.leaveEndpoint d m).newFlit d false m.src m.dst m.vc m.payload, hx, hmesh, rfl,
    State.newFlit_payload _ d false m.src m.dst m.vc hb, hbuf, htx, hrx, fun hfill =>
      (State.leaveEndpoint_sums hfill d).trans (State.passFlit_inOrder_sums _ d false m.src m.dst m.vc hb hs hfree)⟩

end

/-! What happens to links and dies (10, R289, R292, R295, R298, R299, R302 to R304; 01, R11). -/

section
variable {s : State} {d : Fin 4} {lane : BitVec 16}

/-- Below the threshold of the window a replay is counted and nothing else (R298). -/
theorem State.countReplay_below (h : s.net.dies[d.val].winReplays < 1023) (i : Bool) : s.countReplay d i =
    (s.netCount d (if i then 5 else 1)).modDie d fun x => { x with winReplays := x.winReplays + 1 } := by
  have hn : ¬ 1024 ≤ s.net.dies[d.val].winReplays + 1 := by omega
  simp [State.countReplay, State.netCount, hn]

theorem exec_replay_inbound (hr : s.flitsRun d = true) (hj : s.net.dies[d.val].rejecting = true)
    (hk : s.net.dies[d.val].dieBuf.any (·.seq = s.net.dies[d.val].rxSeq) = true) (hw : s.net.dies[d.val].winReplays < 1023) :
    ∃ t, exec (.replay (.die d true) s.net.dies[d.val].rxSeq) s = .next t ∧
      t.net.dies[d.val] = { s.net.dies[d.val] with
        counters := t.net.dies[d.val].counters, winReplays := s.net.dies[d.val].winReplays + 1 } ∧
      t.net.dies[d.val].counters[5] = satAdd s.net.dies[d.val].counters[5] 1 := by
  have hx : exec (.replay (.die d true) s.net.dies[d.val].rxSeq) s = .next (s.countReplay d true) := by
    simp [exec, execReplay, hr, hj, hk]
  refine ⟨_, hx, ?_⟩
  rw [State.countReplay_below hw]
  simp [State.netCount, upd]

/-- Flits put out one after the other stand in the output, the last first. -/
theorem emitAll_out (l : List LinkFlit) (g : LinkFlit → Output) (s : State) :
    (l.foldl (fun s f => s.emit (g f)) s).out = (l.map g).reverse ++ s.out := by
  induction l generalizing s with
  | nil => rfl
  | cons f l ih =>
    rw [List.foldl_cons, ih]
    simp [State.emit]

theorem emitAll_net (l : List LinkFlit) (g : LinkFlit → Output) (s : State) : (l.foldl (fun s f => s.emit (g f)) s).net = s.net :=
  foldl_keeps State.net (fun s f => s.emit_net (g f)) l s

theorem exec_replay_outbound (hr : s.flitsRun d = true) (hj : s.net.dies[d.val].dieRejecting = true)
    (hk : s.net.dies[d.val].replayBuf.any (·.seq = s.net.dies[d.val].dieRx) = true) (hw : s.net.dies[d.val].winReplays < 1023) :
    ∃ t, exec (.replay (.die d false) s.net.dies[d.val].dieRx) s = .next t ∧
      t.out = ((untaken s.net.dies[d.val].replayBuf s.net.dies[d.val].dieRx).map fun f => Output.flit d f.bytes).reverse ++ s.out ∧
      t.net.dies[d.val].counters[1] = satAdd s.net.dies[d.val].counters[1] 1 := by
  have hx : exec (.replay (.die d false) s.net.dies[d.val].dieRx) s =
      .next ((untaken s.net.dies[d.val].replayBuf s.net.dies[d.val].dieRx).foldl (fun s f => s.emit (.flit d f.bytes))
        (s.countReplay d false)) := by
    simp [exec, execReplay, hr, hj, hk]
  refine ⟨_, hx, ?_⟩
  rw [emitAll_out _ fun f => .flit d f.bytes, emitAll_net _ fun f => .flit d f.bytes, State.countReplay_below hw]
  simp [State.netCount, upd]

theorem exec_linkSilent (hr : s.flitsRun d = true) : ∃ t, exec (.linkSilent d) s = .next t ∧
    t.net.dies[d.val].fenced = true ∧ t.net.dies[d.val].fenceCause = 3 ∧ t.net.dies[d.val].st = .down ∧
    t.net.dies[d.val].counters[6] = satAdd s.net.dies[d.val].counters[6] 1 := by
  have hx : exec (.linkSilent d) s = .next (s.linkFails d true) := by simp only [exec, execLinkSilent, hr, if_true]
  have hopen : s.net.dies[d.val].fenced = false := by
    simp only [State.flitsRun, Bool.and_eq_true, Bool.not_eq_true'] at hr
    exact hr.1.1
  obtain ⟨time, sums, hd⟩ := State.fence_die (s := (s.netCount d 6).modDie d fun x => { x with st := .down }) (d := d)
    (by simpa [State.netCount] using hopen) 3
  refine ⟨_, hx, ?_⟩
  simp only [State.linkFails, if_true, hd]
  simp [DieLink.fencedWith, State.netCount, upd]

theorem exec_lockMargin (hf : s.net.dies[d.val].fenced = false) (hl : s.net.dies[d.val].st = .locked)
    (hx : s.fixedLane d lane = true) : ∃ t, exec (.lockMargin d lane) s = .next t ∧ Raised s t ⟨22 + d.val, by omega⟩ ∧
      t.net.dies[d.val].counters[7] = satAdd s.net.dies[d.val].counters[7] 1 ∧ t.net.dies[d.val].st = .locked := by
  have hrow : exec (.lockMargin d lane) s = .next ((s.netCount d 7).degradedEvent d 2
      (s.netCount d 7).net.dies[d.val].counters[7].toNat lane) := by
    simp [exec, execLockMargin, hf, hl, hx]
  refine ⟨_, hrow, State.raise_raised (by rfl) _ _ _ _, ?_⟩
  simp [State.degradedEvent, State.netCount, upd, hl]

theorem exec_lockLost (hf : s.net.dies[d.val].fenced = false) (hl : s.net.dies[d.val].st = .locked)
    (hx : s.fixedLane d lane = true) : ∃ t, exec (.lockLost d lane) s = .next t ∧ Raised s t 45 ∧
      t.net.dies[d.val] = { s.net.dies[d.val] with st := .up } := by
  have hrow : exec (.lockLost d lane) s = .next ((s.modDie d fun x => { x with st := .up }).raise 45 3 d.val
      (detail [(0, 2, lane.toNat)])) := by
    simp [exec, execLockLost, State.loseLock, hf, hl, hx]
  exact ⟨_, hrow, State.raise_raised (by rfl) _ _ _ _, by simp⟩

/-- Answering who waited for a handshake leaves the network alone. -/
@[simp] theorem State.answerTimeout_net (s : State) (i : Island) (w : Waiter) : (s.answerTimeout i w).net = s.net := by
  unfold State.answerTimeout
  split
  · split
    · rfl
    · dsimp only
      split <;> simp
  · rfl
  · rfl

theorem exec_handshakeTimeout_die (hf : s.net.dies[d.val].fenced = false) (w : Waiter) :
    ∃ t, exec (.handshakeTimeout (.die d) w) s = .next t ∧ t.net.dies[d.val].fenced = true ∧ t.net.dies[d.val].fenceCause = 1 := by
  have hx : exec (.handshakeTimeout (.die d) w) s = .next ((s.fence d 1).answerTimeout (.die d) w) := rfl
  obtain ⟨time, sums, hd⟩ := State.fence_die hf 1
  refine ⟨_, hx, ?_⟩
  rw [State.answerTimeout_net, hd]
  exact ⟨rfl, rfl⟩

/-- A die that is cut off: its clock has stopped, and no other die's link has changed (R304). -/
theorem State.cutDie_links (s : State) (d : Fin 4) :
    (s.cutDie d).net.dies[d.val] = { s.net.dies[d.val] with clockOn := false, cutOff := true } ∧
      ∀ e : Fin 4, e ≠ d → (s.cutDie d).net.dies[e.val] = s.net.dies[e.val] := by
  rw [State.cutDie_dies]
  exact ⟨upd_get_same _ _ _, fun e he => upd_get_other _ _ _ _ he.symm⟩

theorem exec_fenceOrder (hf : s.net.dies[d.val].fenced = true) : ∃ t, exec (.fenceOrder d) s = .next t ∧
    t.net.dies[d.val] = { s.net.dies[d.val] with clockOn := false, cutOff := true } ∧
      ∀ e : Fin 4, e ≠ d → t.net.dies[e.val] = s.net.dies[e.val] :=
  ⟨s.cutDie d, by simp [exec, execFenceOrder, hf], s.cutDie_links d⟩

theorem exec_laneTrainingLost (hon : s.dieOn d 0 = true) : ∃ t, exec (.laneTrainingLost d) s = .next t ∧
    t.net.dies[d.val] = { s.net.dies[d.val] with clockOn := false, cutOff := true } ∧
      ∀ e : Fin 4, e ≠ d → t.net.dies[e.val] = s.net.dies[e.val] :=
  ⟨s.cutDie d, by simp [exec, execLaneTrainingLost, hon], s.cutDie_links d⟩

theorem exec_dieClockLost (hon : s.dieOn d 0 = true) (hf : s.net.dies[d.val].fenced = false) :
    ∃ t, exec (.dieClockLost d) s = .next t ∧ t.net.dies[d.val].fenced = true ∧ t.net.dies[d.val].fenceCause = 2 ∧
      t.net.dies[d.val].clockOn = false ∧ t.ev.src[(dieEvent d 33).val].active = true := by
  have hx : exec (.dieClockLost d) s = .next ((s.modDie d fun x => { x with clockOn := false }).fence d 2) := by
    simp [exec, execDieClockLost, hon, hf]
  have hopen : (s.modDie d fun x => { x with clockOn := false }).net.dies[d.val].fenced = false := by simpa using hf
  obtain ⟨time, sums, hd⟩ := State.fence_die hopen 2
  refine ⟨_, hx, ?_, ?_, ?_, State.fence_event hopen 2⟩ <;> rw [hd] <;> rfl

/-- A timeout of a handshake into another island than a comb die is counted (R289). -/
def State.countTimeout (s : State) : State := { s with net := { s.net with timeouts := satAdd s.net.timeouts 1 } }

theorem exec_handshakeTimeout_other (s : State) (w : Waiter) :
    exec (.handshakeTimeout .other w) s = .next (s.countTimeout.answerTimeout .other w) := rfl

/-- A command whose handshake into another island timed out ends `TIMEOUT` (01, R11; R289). -/
theorem exec_handshakeTimeout_command {j : Job} (hj : Endable s j) (hp : j.phase = .running) (hq : s.queen.up = true) :
    ∃ t, exec (.handshakeTimeout .other (.command j.key)) s = .next t ∧
      Ended j s t stTimeout j.mask (echoOf (echoEndOf j.p.opcode) j.args) ∧
      t.net = { s.net with timeouts := satAdd s.net.timeouts 1 } := by
  have hheld : s.countTimeout.job? j.key = some j := hj.held
  have hup : s.countTimeout.queen.up = true := hq
  have hcalm : s.countTimeout.abortAsked j.key = false := hj.calm
  have hx : exec (.handshakeTimeout .other (.command j.key)) s =
      .next (s.countTimeout.commitRaw j stTimeout 0xFF j.mask (echoOf (echoEndOf j.p.opcode) j.args)) := by
    rw [exec_handshakeTimeout_other]
    simp [State.answerTimeout, hheld, State.timeoutStatus, Job.waitsFor, hp, hup, State.commitClose]
  refine ⟨_, hx, ?_, State.commitRaw_net _ _ _ _ _ _⟩
  rw [commitRaw_pcie _ _ _ _ hj.path hj.kept hcalm]
  exact ⟨⟨_, rfl, rfl, rfl, rfl⟩, rfl⟩

end

/-- Settles O49: each clause by the lemma of its row; what is said of the credit books rests on the lemmas of their operations. -/
theorem flitsAndLinks : Obligations.FlitsAndLinks := by
  unfold Obligations.FlitsAndLinks
  refine ⟨fun r dst h => ?mesh, fun s src dst vc b hsrc ha hh hroom => ⟨fun hon => ?enters, fun hoff => ?answered⟩,
    fun s d u dst vc b noise => ?flits, fun s d lane => ?links, fun s => ?handshakes⟩
  case mesh =>
    dsimp only
    split
    case isTrue hx => exact hop_along_y hx h
    case isFalse hx => exact hop_along_x hx
  case enters => simp [exec, execFlit, State.enterMesh, State.setMesh, hsrc, ha, hh, hroom, hon]
  case answered => simp [exec, execFlit, State.enterMesh, State.notReached, State.emit, hsrc, ha, hh, hroom, hoff]
  case flits =>
    exact ⟨exec_fromDie_inOrder, exec_fromDie_outOfOrder, exec_fromDie_damaged, fun _ _ _ => exec_fromDie_record,
      fun _ => exec_fromDie_noRecord, fun _ => exec_again_expected, fun _ => exec_toDie⟩
  case links =>
    exact ⟨exec_replay_inbound, exec_replay_outbound, exec_linkSilent, exec_lockMargin, exec_lockLost, exec_handshakeTimeout_die,
      exec_fenceOrder, exec_laneTrainingLost, exec_dieClockLost⟩
  case handshakes => exact ⟨fun _ => rfl, rfl, fun _ => exec_handshakeTimeout_command⟩

end Sys2Proof.Machine
end

section
/-! SUPPORT. Every row, and so every step, keeps what every operation keeps: the row queue, canonical memory, legal rings and
legal time bases (spec/02_command_interface.md, R25, R27, R28; spec/11_swarm_and_time.md, R330). -/

namespace Sys2Proof.Machine

/-- Each row of the dispatch answers a next state that keeps what every operation keeps. -/
theorem exec_kept {s t : State} (h : Kept s t) : ∀ i : Instr, KeptOut s (exec i t)
  | .sysNop p => execSysNop_kept h p
  | .sysIdentify p => execSysIdentify_kept h p
  | .sysInventory p => execSysInventory_kept h p
  | .sysAbort p => execSysAbort_kept h p
  | .sysReset p => execSysReset_kept h p
  | .sysStatus p => execSysStatus_kept h p
  | .modeGet p => execModeGet_kept h p
  | .modeSet p => execModeSet_kept h p
  | .pwrDomainSet p => execPwrDomainSet_kept h p
  | .pwrDomainGet p => execPwrDomainGet_kept h p
  | .pwrBudgetSet p => execPwrBudgetSet_kept h p
  | .pwrLimitsSet p => execPwrLimitsSet_kept h p
  | .pwrTelemetry p => execPwrTelemetry_kept h p
  | .clkStatus p => execClkStatus_kept h p
  | .clkSelect p => execClkSelect_kept h p
  | .clkOutSet p => execClkOutSet_kept h p
  | .clkMeasure p => execClkMeasure_kept h p
  | .cfgStage p => execCfgStage_kept h p
  | .cfgLoad p => execCfgLoad_kept h p
  | .cfgRegionLoad p => execCfgRegionLoad_kept h p
  | .cfgRegionStart p => execCfgRegionStart_kept h p
  | .cfgRegionStop p => execCfgRegionStop_kept h p
  | .cfgReadback p => execCfgReadback_kept h p
  | .cfgBootRecordSet p => execCfgBootRecordSet_kept h p
  | .cfgProbeSet p => execCfgProbeSet_kept h p
  | .portSet p => execPortSet_kept h p
  | .portGet p => execPortGet_kept h p
  | .portStart p => execPortStart_kept h p
  | .portStop p => execPortStop_kept h p
  | .portLinkStatus p => execPortLinkStatus_kept h p
  | .portDetect p => execPortDetect_kept h p
  | .portPrbs p => execPortPrbs_kept h p
  | .timTimingSet p => execTimTimingSet_kept h p
  | .timDeskew p => execTimDeskew_kept h p
  | .timSiteMap p => execTimSiteMap_kept h p
  | .workLoad p => execWorkLoad_kept h p
  | .workStart p => execWorkStart_kept h p
  | .workStop p => execWorkStop_kept h p
  | .workStatus p => execWorkStatus_kept h p
  | .workStreamSet p => execWorkStreamSet_kept h p
  | .workSignal p => execWorkSignal_kept h p
  | .failSet p => execFailSet_kept h p
  | .failCounts p => execFailCounts_kept h p
  | .failClear p => execFailClear_kept h p
  | .broodGeometry p => execBroodGeometry_kept h p
  | .broodPartition p => execBroodPartition_kept h p
  | .broodSolve p => execBroodSolve_kept h p
  | .broodResult p => execBroodResult_kept h p
  | .broodClear p => execBroodClear_kept h p
  | .memStatus p => execMemStatus_kept h p
  | .memTrain p => execMemTrain_kept h p
  | .memThaw p => execMemThaw_kept h p
  | .memRekey p => execMemRekey_kept h p
  | .memCopy p => execMemCopy_kept h p
  | .memFill p => execMemFill_kept h p
  | .netStatus p => execNetStatus_kept h p
  | .netLaneRemap p => execNetLaneRemap_kept h p
  | .netCreditAudit p => execNetCreditAudit_kept h p
  | .netDieReset p => execNetDieReset_kept h p
  | .netDieFence p => execNetDieFence_kept h p
  | .netLatencyLock p => execNetLatencyLock_kept h p
  | .swarmNeighbours p => execSwarmNeighbours_kept h p
  | .swarmIdSet p => execSwarmIdSet_kept h p
  | .swarmRouteSet p => execSwarmRouteSet_kept h p
  | .swarmLinkSet p => execSwarmLinkSet_kept h p
  | .swarmForward p => execSwarmForward_kept h p
  | .timeGet p => execTimeGet_kept h p
  | .timeSet p => execTimeSet_kept h p
  | .timeAdjust p => execTimeAdjust_kept h p
  | .timeSyncSet p => execTimeSyncSet_kept h p
  | .timeJumpLimit p => execTimeJumpLimit_kept h p
  | .secAttest p => execSecAttest_kept h p
  | .secOwnerEnrol p => execSecOwnerEnrol_kept h p
  | .secCounterAdvance p => execSecCounterAdvance_kept h p
  | .secNvStatus p => execSecNvStatus_kept h p
  | .secNvRefresh p => execSecNvRefresh_kept h p
  | .secCertGet p => execSecCertGet_kept h p
  | .bistRun p => execBistRun_kept h p
  | .bistResult p => execBistResult_kept h p
  | .bistCommit p => execBistCommit_kept h p
  | .bistExpectSet p => execBistExpectSet_kept h p
  | .dbgUnlock p => execDbgUnlock_kept h p
  | .dbgHalt p => execDbgHalt_kept h p
  | .dbgResume p => execDbgResume_kept h p
  | .dbgStep p => execDbgStep_kept h p
  | .dbgRead p => execDbgRead_kept h p
  | .dbgWrite p => execDbgWrite_kept h p
  | .dbgBreakSet p => execDbgBreakSet_kept h p
  | .dbgXtrigSet p => execDbgXtrigSet_kept h p
  | .evtMaskSet p => execEvtMaskSet_kept h p
  | .evtRouteSet p => execEvtRouteSet_kept h p
  | .evtStatus p => execEvtStatus_kept h p
  | .evtAck p => execEvtAck_kept h p
  | .subResync p => execSubResync_kept h p
  | .scheduledInstant k => execScheduledInstant_kept h k
  | .replyWrite => execReplyWrite_kept h
  | .eventWrite => execEventWrite_kept h
  | .irqHoldoffExpiry v => execIrqHoldoffExpiry_kept h v
  | .hifDoorbellSub v => execHifDoorbellSub_kept h v
  | .hifDoorbellRep v => execHifDoorbellRep_kept h v
  | .hifDoorbellEvt v => execHifDoorbellEvt_kept h v
  | .subEn on => execSubEn_kept h on
  | .repEn on => execRepEn_kept h on
  | .evtEn on => execEvtEn_kept h on
  | .hifErr v => execHifErr_kept h v
  | .registerWrite a => execRegisterWrite_kept h a
  | .bar2Read a len e => execBar2Read_kept h a len e
  | .bar2Write a data e => execBar2Write_kept h a data e
  | .bar4Read off len e => execBar4Read_kept h off len e
  | .bar4Write off data => execBar4Write_kept h off data
  | .i2cPacketWrite data pec host => execI2cPacketWrite_kept h data pec host
  | .i2cReplyRead n => execI2cReplyRead_kept h n
  | .rscStatusRead ptr n => execRscStatusRead_kept h ptr n
  | .rscEvtAck hi v pec => execRscEvtAck_kept h hi v pec
  | .rscResetQueen v pec => execRscResetQueen_kept h v pec
  | .rscResetDevice v pec bootsel => execRscResetDevice_kept h v pec bootsel
  | .resetBegin bootsel => execResetBegin_kept h bootsel
  | .deviceReset => execDeviceReset_kept h
  | .deferredReset bootsel => execDeferredReset_kept h bootsel
  | .pcieReset => execPcieReset_kept h
  | .powerOn mv low => execPowerOn_kept h mv low
  | .softStartEnd mv bootsel i2cAddr => execSoftStartEnd_kept h mv bootsel i2cAddr
  | .pllLock => execPllLock_kept h
  | .pllLockTimeout => execPllLockTimeout_kept h
  | .firmwareVerified fw => execFirmwareVerified_kept h fw
  | .crsTimeout => execCrsTimeout_kept h
  | .vinWarning mv => execVinWarning_kept h mv
  | .vinRecovered mv => execVinRecovered_kept h mv
  | .vinBelowReset => execVinBelowReset_kept h
  | .overvoltageWarning mv => execOvervoltageWarning_kept h mv
  | .overvoltageShutdown mv => execOvervoltageShutdown_kept h mv
  | .reverseVin => execReverseVin_kept h
  | .currentLimit => execCurrentLimit_kept h
  | .busCollapse => execBusCollapse_kept h
  | .budgetVin mv => execBudgetVin_kept h mv
  | .tempWarning sensor temp => execTempWarning_kept h sensor temp
  | .thermalTrip sensor temp => execThermalTrip_kept h sensor temp
  | .stackHot n temp => execStackHot_kept h n temp
  | .domainCutOff d ma mv => execDomainCutOff_kept h d ma mv
  | .telemetrySample x => execTelemetrySample_kept h x
  | .domainRamped d => execDomainRamped_kept h d
  | .referenceLost cause => execReferenceLost_kept h cause
  | .referenceRestored => execReferenceRestored_kept h
  | .relockEnd => execRelockEnd_kept h
  | .gateClose edges => execGateClose_kept h edges
  | .queenWatchdog pc => execQueenWatchdog_kept h pc
  | .handshakeTimeout unit by_ => execHandshakeTimeout_kept h unit by_
  | .fenceOrder d => execFenceOrder_kept h d
  | .laneTrainingLost d => execLaneTrainingLost_kept h d
  | .dieClockLost d => execDieClockLost_kept h d
  | .flit f => execFlit_kept h f
  | .replay link seq => execReplay_kept h link seq
  | .linkSilent d => execLinkSilent_kept h d
  | .lockMargin d lane => execLockMargin_kept h d lane
  | .lockLost d lane => execLockLost_kept h d lane
  | .latencyLockEnd d r => execLatencyLockEnd_kept h d r
  | .auditDrained drained => execAuditDrained_kept h drained
  | .refresh => execRefresh_kept h
  | .memoryRead q a len e => execMemoryRead_kept h q a len e
  | .memoryWrite q a data e => execMemoryWrite_kept h q a data e
  | .trainingEnd n r => execTrainingEnd_kept h n r
  | .rekeyEnd => execRekeyEnd_kept h
  | .copyEnd k host e at_ atDst => execCopyEnd_kept h k host e at_ atDst
  | .slotSealed slot src sfdp => execSlotSealed_kept h slot src sfdp
  | .loadEnd r golden sfdp => execLoadEnd_kept h r golden sfdp
  | .calibrationEnd r => execCalibrationEnd_kept h r
  | .detectEnd g r => execDetectEnd_kept h g r
  | .solveStart => execSolveStart_kept h
  | .solveComplete => execSolveComplete_kept h
  | .backgroundSweep site block => execBackgroundSweep_kept h site block
  | .bistUnitStart => execBistUnitStart_kept h
  | .bistUnitEnd u r => execBistUnitEnd_kept h u r
  | .healthTestFailure => execHealthTestFailure_kept h
  | .challengeExpiry => execChallengeExpiry_kept h
  | .hibernateEntryEnd => execHibernateEntryEnd_kept h
  | .wakeMatch => execWakeMatch_kept h
  | .wakeEnd => execWakeEnd_kept h
  | .idcode => execIdcode_kept h
  | .samplePreload sampled preload => execSamplePreload_kept h sampled preload
  | .extest captured cells => execExtest_kept h captured cells
  | .extestPulse captured cells => execExtestPulse_kept h captured cells
  | .extestTrain captured cells => execExtestTrain_kept h captured cells
  | .clamp => execClamp_kept h
  | .highz => execHighz_kept h
  | .dbgpkt words host => execDbgpkt_kept h words host
  | .dieSel v => execDieSel_kept h v
  | .dieScan bits => execDieScan_kept h bits
  | .bypass bit => execBypass_kept h bit
  | .tapReset => execTapReset_kept h
  | .nop w e => execNop_kept h w e
  | .end_ w e => execEnd_kept h w e
  | .add w e => execAdd_kept h w e
  | .sub w e => execSub_kept h w e
  | .adc w e => execAdc_kept h w e
  | .sbc w e => execSbc_kept h w e
  | .and_ w e => execAnd_kept h w e
  | .or_ w e => execOr_kept h w e
  | .xor_ w e => execXor_kept h w e
  | .andn w e => execAndn_kept h w e
  | .cmp w e => execCmp_kept h w e
  | .lsl w e => execLsl_kept h w e
  | .lsr w e => execLsr_kept h w e
  | .asr w e => execAsr_kept h w e
  | .ror w e => execRor_kept h w e
  | .shi w e => execShi_kept h w e
  | .addi w e => execAddi_kept h w e
  | .cmpi w e => execCmpi_kept h w e
  | .ldi w e => execLdi_kept h w e
  | .mac w e => execMac_kept h w e
  | .mac2 w e => execMac2_kept h w e
  | .aop w e => execAop_kept h w e
  | .bra w e => execBra_kept h w e
  | .call w e => execCall_kept h w e
  | .ret w e => execRet_kept h w e
  | .rti w e => execRti_kept h w e
  | .jmpr w e => execJmpr_kept h w e
  | .rep w e => execRep_kept h w e
  | .vec w e => execVec_kept h w e
  | .vecr w e => execVecr_kept h w e
  | .vmatch w e => execVmatch_kept h w e
  | .vmark w e => execVmark_kept h w e
  | .vwait w e => execVwait_kept h w e
  | .lck w e => execLck_kept h w e
  | .ulk w e => execUlk_kept h w e
  | .sig w e => execSig_kept h w e
  | .wdr w e => execWdr_kept h w e
  | .stallRelease w => execStallRelease_kept h w
  | .interruptEntry w => execInterruptEntry_kept h w
  | .timerReachedZero w => execTimerReachedZero_kept h w
  | .watchdogExpiry w => execWatchdogExpiry_kept h w
  | .sigArrival w => execSigArrival_kept h w
  | .chunkReturn w r => execChunkReturn_kept h w r
  | .stopBoundary w => execStopBoundary_kept h w
  | .haltPoint w => execHaltPoint_kept h w
  | .lockBroken w => execLockBroken_kept h w
  | .startStrobe k => execStartStrobe_kept h k
  | .groupStart g => execGroupStart_kept h g
  | .play g => execPlay_kept h g
  | .underrun g => execUnderrun_kept h g
  | .transition g p txe => execTransition_kept h g p txe
  | .tapNext g => execTapNext_kept h g
  | .tapSample g => execTapSample_kept h g
  | .strobe g p rx rxl => execStrobe_kept h g p rx rxl
  | .failBit g p => execFailBit_kept h g p
  | .matchDecision g => execMatchDecision_kept h g
  | .matchResolved g => execMatchResolved_kept h g
  | .markerRecord g => execMarkerRecord_kept h g
  | .runDone g => execRunDone_kept h g
  | .failRecord g => execFailRecord_kept h g
  | .txwTake n => execTxwTake_kept h n
  | .rxwValid n x => execRxwValid_kept h n x
  | .rxSlip n => execRxSlip_kept h n
  | .cdrLock n => execCdrLock_kept h n
  | .cdrLost n => execCdrLost_kept h n
  | .alignmentAcquired n => execAlignmentAcquired_kept h n
  | .alignmentLost n => execAlignmentLost_kept h n
  | .prbsLock n swapped => execPrbsLock_kept h n swapped
  | .prbsLoss n => execPrbsLoss_kept h n
  | .short n leg => execShort_kept h n leg
  | .fabricCycle sbIn ecc cross => execFabricCycle_kept h sbIn ecc cross
  | .captureComplete d => execCaptureComplete_kept h d
  | .laravoPacket l cols => execLaravoPacket_kept h l cols
  | .skipColumn l => execSkipColumn_kept h l
  | .linkTrainingStart l => execLinkTrainingStart_kept h l
  | .linkTrained l wiring => execLinkTrained_kept h l wiring
  | .laravoSilent l => execLaravoSilent_kept h l
  | .hello l x => execHello_kept h l x
  | .helloSend l => execHelloSend_kept h l
  | .pdelayReq l x phase => execPdelayReq_kept h l x phase
  | .pdelayReqSend l phase => execPdelayReqSend_kept h l phase
  | .pdelayResp l x => execPdelayResp_kept h l x
  | .sync l x => execSync_kept h l x
  | .syncSend l phase => execSyncSend_kept h l phase
  | .servoHold => execServoHold_kept h
  | .buzz l mask origin seq => execBuzz_kept h l mask origin seq
  | .forwardedCommand l host => execForwardedCommand_kept h l host
  | .forwardReply l => execForwardReply_kept h l
  | .forwardTimeout k => execForwardTimeout_kept h k
  | .resetNRelease bootsel => execResetNRelease_kept h bootsel
  | .overvoltageCleared => execOvervoltageCleared_kept h
  | .overvoltageRestart mv => execOvervoltageRestart_kept h mv
  | .currentLimitReleased => execCurrentLimitReleased_kept h
  | .budgetVinRecovered => execBudgetVinRecovered_kept h
  | .tempWarningCleared sensor temp => execTempWarningCleared_kept h sensor temp
  | .ptmDialogue master now_ => execPtmDialogue_kept h master now_
  | .slewAbsorbed b => execSlewAbsorbed_kept h b
  | .nvWriteEnd => execNvWriteEnd_kept h
  | .errorWindowEnd => execErrorWindowEnd_kept h
  | .pcieLinkUp ptm => execPcieLinkUp_kept h ptm
  | .startInstant k => execStartInstant_kept h k

theorem KeptOut.answers {s : State} {o : Host.Outcome State Fault Refusal} : KeptOut s o → ∃ t, o = .next t ∧ Kept s t
  | .next h => ⟨_, rfl, h⟩

/-- No row stops the block, and what it answers is kept (log entry 1). -/
theorem exec_next (i : Instr) (s : State) : ∃ t, exec i s = .next t ∧ Kept s t := (exec_kept (.refl s) i).answers

/-- A step takes the row at the front of the queue, if there is one, and keeps what every operation keeps. -/
theorem Steps.kept {s t : State} (h : Steps s t) : Kept { s with pending := s.pending.tail } t := by
  unfold Steps step at h
  split at h
  case h_1 hp =>
    obtain rfl : s.tick = t := Host.Outcome.next.inj h
    have hs : ({ s with pending := s.pending.tail } : State) = s := by rw [hp]; rw [List.tail_nil, ← hp]
    rw [hs]
    exact State.tick_kept (.refl s)
  case h_2 i rest hp =>
    obtain ⟨u, hu, hk⟩ := exec_next i { s with pending := rest }
    obtain rfl : u = t := Host.Outcome.next.inj (hu.symm.trans h)
    simpa only [hp, List.tail_cons] using hk

/-- Settles O59: every row and the cycle of an empty queue keep the rings and the time bases legal, which no queue bears on. -/
theorem ringsAndTimeStayLegal : Obligations.RingsAndTimeStayLegal :=
  ⟨fun _ _ hl h => h.kept.rings hl, fun _ _ hl h => h.kept.time hl⟩

end Sys2Proof.Machine
end

section
/-! SUPPORT. Device memory reads back what was written (spec/02_command_interface.md, R23), and the state after power-on. -/

namespace Sys2Proof.Machine

/-- Bytes written are read back from their places. -/
theorem Mem.byte_write_inside (bs : Bytes) : ∀ (m : Mem) (a i : Nat), m.wf = true → i < bs.length →
    (m.write a bs).byte (a + i) = bs.getD i 0 := by
  induction bs with
  | nil => intro m a i _ hi; exact absurd hi (Nat.not_lt_zero i)
  | cons b bs ih =>
    intro m a i h hi
    show ((m.put a b).write (a + 1) bs).byte (a + i) = _
    cases i with
    | zero =>
      rw [Mem.byte_write_outside bs _ _ _ (m.put_wf a b h) (by omega), Nat.add_zero, m.byte_put_same a b h]
      rfl
    | succ i =>
      rw [show a + (i + 1) = a + 1 + i by omega, ih _ _ _ (m.put_wf a b h) (by simpa using hi)]
      rfl

/-- A range just written reads as the bytes written. -/
theorem Mem.read_write (bs : Bytes) : ∀ (m : Mem) (a : Nat), m.wf = true → (m.write a bs).read a bs.length = bs := by
  induction bs with
  | nil => exact fun _ _ _ => rfl
  | cons b bs ih =>
    intro m a h
    have hb : ((m.put a b).write (a + 1) bs).byte a = b := by
      rw [Mem.byte_write_outside bs _ _ _ (m.put_wf a b h) (by omega), m.byte_put_same a b h]
    exact congrArg₂ List.cons hb (ih (m.put a b) (a + 1) (m.put_wf a b h))

/-- Settles O57: the four facts about a write, each by induction on the bytes. -/
theorem memoryReadsBack : Obligations.MemoryReadsBack := fun m a bs h =>
  ⟨Mem.write_wf bs m a h, fun i => Mem.byte_write_inside bs m a i h, fun b => Mem.byte_write_outside bs m a b h,
    Mem.read_write bs m a h⟩

/-- Settles O56: the state after power-on is a closed term, and the laws say that it is legal. -/
theorem powerOnState : Obligations.PowerOnState := by
  refine ⟨?_, rfl, Hif.reset_legal, reset_timeLegal⟩
  refine ⟨rfl, rfl, rfl, rfl, rfl, rfl, rfl, rfl, rfl, rfl, rfl, rfl, fun w => ?workers, fun g => ?groups, fun b => ?time,
    fun i => ?semaphores, fun d => ?dies, fun n => ?hbm, rfl, rfl⟩
  case workers => simp [State.reset, Worker.reset]
  case groups => simp [State.reset, Group.reset]
  case time => simp [State.reset, TimeBase.reset]
  case semaphores => simp [State.reset, Queen.reset]
  case dies => simp [State.reset, DieFab.reset]
  case hbm => simp [State.reset, Mem.reset, Stack.reset]

end Sys2Proof.Machine
end


section
/-! SUPPORT. Host accesses to the registers of BAR0 and to the sticky bits of status registers
(spec/02_command_interface.md, R25 to R27; spec/00_scope.md, R6). -/

namespace Sys2Proof.Machine

/-! An access over PCIe reaches the device while the link is up. -/

theorem State.overPcie_up {s : State} (h : s.hif.pcieUp = true) (t : State) : s.overPcie t = t := if_pos h

theorem State.overPcie_down {s : State} (h : s.hif.pcieUp = false) (t : State) : s.overPcie t = s := by simp [State.overPcie, h]

theorem exec_bar0 {s : State} (h : s.hif.pcieUp = true) (off : BitVec 16) (v : Word) :
    exec (.registerWrite (.bar0 off v)) s = .next (s.barWrite off.toNat v) := congrArg _ (State.overPcie_up h _)

/-! A ring's settings (R25). -/

/-- The low word of a base keeps its low 12 bits zero. -/
theorem baseWord_low (b : BitVec 64) (v : Word) : baseWord b false v = b.extractLsb' 32 32 ++ (v &&& 0xFFFFF000) := by
  have hv : (v &&& (0xFFFFF000 : Word)).toNat = v.toNat / 2 ^ 12 * 2 ^ 12 := by
    have := v.isLt
    rw [show v &&& (0xFFFFF000 : Word) = v &&& BitVec.allOnes 32 <<< 12 from rfl, ← BitVec.shiftLeft_ushiftRight]
    simp only [BitVec.toNat_shiftLeft, BitVec.toNat_ushiftRight, Nat.shiftRight_eq_div_pow, Nat.shiftLeft_eq]
    omega
  have := b.isLt
  have := v.isLt
  refine BitVec.eq_of_toNat_eq ?_
  rw [BitVec.toNat_append, hv, ← Nat.shiftLeft_add_eq_or_of_lt (by omega), Nat.shiftLeft_eq]
  simp only [baseWord, Bool.false_eq_true, if_false, BitVec.toNat_ofNat, BitVec.extractLsb'_toNat, Nat.shiftRight_eq_div_pow]
  omega

theorem baseWord_high (b : BitVec 64) (v : Word) : baseWord b true v = v ++ b.extractLsb' 0 32 := by
  have := b.isLt
  have := v.isLt
  refine BitVec.eq_of_toNat_eq ?_
  simp only [baseWord, if_true, BitVec.toNat_ofNat, BitVec.toNat_append, BitVec.extractLsb'_toNat, Nat.shiftRight_zero]
  rw [← Nat.shiftLeft_add_eq_or_of_lt (by omega), Nat.shiftLeft_eq]
  omega

theorem clampNat_eq (lo hi v : Nat) (h : lo ≤ hi) : clampNat lo hi v = max lo (min hi v) := by
  unfold clampNat
  split
  · omega
  · split <;> omega

theorem sizeApplied_eq (v : Word) : sizeApplied v = BitVec.ofNat 5 (max 7 (min 19 (v.toNat % 32))) := by
  rw [sizeApplied, clampNat_eq 7 19 _ (by omega)]

theorem State.ringWrite_off (s : State) (f : Hif → Hif) : s.ringWrite false f = { s with hif := f s.hif } := rfl

theorem State.ringWrite_on (s : State) (f : Hif → Hif) :
    s.ringWrite true f = { s with hif := { s.hif with err := s.hif.err ||| 2 } } := rfl

/-- The doorbells are WO: they read zero. -/
theorem exec_doorbell_reads_zero {s : State} (h : s.hif.pcieUp = true) {off : BitVec 16} (ho : off = 0x20 ∨ off = 0x40 ∨ off = 0x60) :
    exec (.registerWrite (.bar0Read off)) s = .next (s.emit (.barData [0, 0, 0, 0])) := by
  refine congrArg _ ((State.overPcie_up h _).trans ?_)
  rcases ho with rfl | rfl | rfl <;> simp [State.barRead, numBytes]

/-! The enable bits (R25, R26). -/

theorem exec_subEn_on {s : State} (h : s.hif.pcieUp = true) (he : s.hif.subEn = false)
    (ht : s.hif.subHold = false ∨ s.tagsOn Path.isPcie = 0) : exec (.subEn true) s =
      .next { s with hif := { s.hif with subEn := true, subHold := false, subHead := 0, subBell := 0 } } := by
  have hfree : (s.hif.subHold && decide (0 < s.tagsOn Path.isPcie)) = false := by
    rcases ht with ht | ht <;> simp [ht]
  simp [exec, execSubEn, State.overPcie_up h, he, hfree]

theorem exec_subEn_held {s : State} (he : s.hif.subEn = false) (hh : s.hif.subHold = true) (ht : 0 < s.tagsOn Path.isPcie) :
    exec (.subEn true) s = .next s := by
  simp [exec, execSubEn, State.overPcie, he, hh, ht]

/-! Sticky bits of status registers (00, R6). -/

theorem extract_four (v : Word) (lo : Nat) : BitVec.ofNat 4 (bitsOf v.toNat lo 4) = v.extractLsb' lo 4 := by
  refine BitVec.eq_of_toNat_eq ?_
  simp [bitsOf]

theorem State.modGroup_only (s : State) (g : Fin 16) (f : Group → Group) : OnlyGroup s (s.modGroup g f) g :=
  ⟨rfl, fun _ hh => upd_get_other _ _ _ _ (Ne.symm hh)⟩

/-- Settles O28: each access by its case, the link being up or down. -/
theorem hostRegisters : Obligations.HostRegisters := by
  refine ⟨fun s v hup => ?doorbells, fun s v hup => ?enables, fun s v hup => ?settings, fun s off v hdown => ?down,
    fun s v g n b => ?sticky⟩
  case doorbells =>
    refine ⟨?_, ?_, ?_⟩ <;> refine congrArg _ ((State.overPcie_up hup _).trans ?_) <;> dsimp only <;> split <;> rfl
  case enables =>
    refine ⟨exec_subEn_on hup, exec_subEn_held, ?_, fun he => ?_, ?_, fun he => ?_, ?_, ?_⟩ <;>
      simp [exec, execSubEn, execRepEn, execEvtEn, execHifErr, State.overPcie_up hup, *]
  case settings =>
    simp only [exec_bar0 hup]
    refine ⟨fun he => ?sub, fun he => ?rep, fun he => ?evt, fun he off ho => ?subBusy, fun he off ho => ?repBusy,
      fun he off ho => ?evtBusy, rfl, fun off => exec_doorbell_reads_zero hup⟩
    case sub | rep | evt =>
      simp [State.barWrite, he, State.ringWrite_off, baseWord_low, baseWord_high, sizeApplied_eq]
    case subBusy | repBusy | evtBusy =>
      rcases ho with rfl | rfl | rfl <;> simp [State.barWrite, he, State.ringWrite_on]
  case down =>
    intro i hi
    fin_cases hi <;> exact congrArg _ (State.overPcie_down hdown _)
  case sticky =>
    refine ⟨_, _, _, _, rfl, s.modGroup_only g _, ?_, ?_, ?_, ?_, rfl, rfl, ?_, ?_, ?_, ?_, rfl, rfl, rfl, rfl, rfl⟩ <;>
      simp [State.clearStatus, extract_four, BitVec.getLsbD]

end Sys2Proof.Machine
end


section
/-! SUPPORT. The engine of the commands (spec/02_command_interface.md, R35 to R41): the rows of the commands, and what a packet that
is refused, completes or runs on leaves. -/

namespace Sys2Proof.Machine

/-! The rows of the commands (19, R473). -/

/-- The row of a command hands its packet to the command's definition. -/
theorem commandRows_exec : ∀ row ∈ commandRows, ∀ p s, exec (row.1 p) s = .next (row.2.fetch p s) := by
  simp only [commandRows, List.forall_mem_cons, List.not_mem_nil, false_implies, implies_true, and_true]
  repeat' apply And.intro
  all_goals exact fun _ _ => rfl

theorem commandRows_defs : commandRows.map Prod.snd = allCmds := rfl

theorem mem_allCmds {row : (Pkt → Instr) × CmdDef} (h : row ∈ commandRows) : row.2 ∈ allCmds :=
  commandRows_defs ▸ List.mem_map_of_mem h

theorem allCmds_codes_nodup : (allCmds.map CmdDef.code).Nodup := by decide

/-- A command is found by its code. -/
theorem cmdOf_code {d : CmdDef} (h : d ∈ allCmds) : cmdOf d.code = d := by
  unfold cmdOf
  cases hf : allCmds.find? fun e => e.code = d.code with
  | none => simpa using List.find?_eq_none.mp hf d h
  | some e =>
    have he : e.code = d.code := by simpa using List.find?_some hf
    exact List.inj_on_of_nodup_map allCmds_codes_nodup (List.mem_of_find?_eq_some hf) h he

/-! What a reply is made of, and what a refusal by a command's checks leaves. -/

/-- What a reply and the rings rest on is the same: the Queen core's lists, the host interface, `TB0` and the device's ID. -/
structure SameDesk (s t : State) : Prop where
  queen : t.queen = s.queen
  hif   : t.hif = s.hif
  tb    : t.tb = s.tb
  swarm : t.swarm = s.swarm

theorem SameDesk.refl (s : State) : SameDesk s s := ⟨rfl, rfl, rfl, rfl⟩

theorem State.raise_desk (s : State) (e : Fin 256) (sev unit det : Nat) : SameDesk s (s.raise e sev unit det) := by
  unfold State.raise
  dsimp only
  split <;> exact ⟨rfl, rfl, rfl, rfl⟩

theorem SameDesk.trans {s t u : State} (h : SameDesk s t) (k : SameDesk t u) : SameDesk s u :=
  ⟨k.queen.trans h.queen, k.hif.trans h.hif, k.tb.trans h.tb, k.swarm.trans h.swarm⟩

theorem SameDesk.foldl {ι : Type} {f : State → ι → State} (hf : ∀ s i, SameDesk s (f s i)) (l : List ι) (s : State) :
    SameDesk s (l.foldl f s) := by
  induction l generalizing s with
  | nil => exact .refl s
  | cons i l ih => exact (hf s i).trans (ih (f s i))

theorem SameDesk.withMem {s t : State} (h : SameDesk s t) (m : Mem) : SameDesk s { t with mem := m } :=
  ⟨h.queen, h.hif, h.tb, h.swarm⟩

theorem State.walkNodes_desk (s : State) (n : Fin 4) (i : Nat) : SameDesk s (s.walkNodes n i) := by
  unfold State.walkNodes
  exact (SameDesk.refl s).withMem _

theorem State.zeroRange_desk (s : State) (a len : Nat) : SameDesk s (s.zeroRange a len) := by
  refine SameDesk.trans ?_ (SameDesk.foldl (fun u p => ?_) _ { s with mem := s.mem.lose a len none })
  · exact (SameDesk.refl s).withMem _
  · generalize u.mem.locate (512 * p.1) = at_
    obtain ⟨n, loc⟩ := at_
    dsimp only
    split
    · exact (u.walkNodes_desk n (loc / 512)).withMem _
    · exact .refl u

theorem State.releaseSlot_desk (s : State) (n : Fin 4) : SameDesk s (s.releaseSlot n) := by
  unfold State.releaseSlot
  dsimp only
  split
  · obtain ⟨hq, hh, ht, hs⟩ := s.zeroRange_desk s.cfg.slots[n.val].base.toNat s.cfg.slots[n.val].len
    exact ⟨hq, hh, ht, hs⟩
  · exact ⟨rfl, rfl, rfl, rfl⟩

theorem loadRefused_desk (j : Job) (v : Verdict) (s : State) : SameDesk s (loadRefused j v s) := by
  unfold loadRefused
  dsimp only
  split
  · exact ⟨rfl, rfl, rfl, rfl⟩
  · obtain ⟨hq, hh, ht, hs⟩ := State.raise_desk (s.noteRefusal v.status (slotOf j.p.block).val _) 10 3 _ _
    exact ⟨hq, hh, ht, hs⟩

theorem domainSetRefused_desk (j : Job) (v : Verdict) (s : State) : SameDesk s (cmdPwrDomainSet.refused j v s) := by
  show SameDesk s (if v.status = stNoBudget then _ else s)
  split
  · exact s.raise_desk _ _ _ _
  · exact .refl s

theorem stageRefused_desk (j : Job) (v : Verdict) (s : State) : SameDesk s (cmdCfgStage.refused j v s) := by
  show SameDesk s (if _ then (s.noteRefusal _ _ _).releaseSlot _ else _)
  split
  · obtain ⟨hq, hh, ht, hs⟩ := State.releaseSlot_desk (s.noteRefusal v.status (slotOf j.p.block).val noOffset) (slotOf j.p.block)
    exact ⟨hq, hh, ht, hs⟩
  · exact ⟨rfl, rfl, rfl, rfl⟩

/-- What a command does besides when its checks refuse it: an event, a status kept, a slot released. -/
theorem refused_desk : ∀ d ∈ allCmds, ∀ j v s, SameDesk s (d.refused j v s) := by
  simp only [allCmds, cmdsA, cmdsB, cmdsC, dbgCmds, List.forall_mem_append, List.forall_mem_cons, List.not_mem_nil, false_implies,
    implies_true, and_true]
  repeat' apply And.intro
  all_goals try exact fun _ _ s => .refl s
  · exact domainSetRefused_desk
  · exact stageRefused_desk
  · exact loadRefused_desk
  · exact loadRefused_desk

theorem replyWords_congr {s t : State} (ht : t.tb = s.tb) (hs : t.swarm.id = s.swarm.id) (op tag : BitVec 16) (st : Status) (idx : Nat)
    (late : Bool) (mask : BitVec 64) (body : Words) :
    replyWords t op tag st idx late mask body = replyWords s op tag st idx late mask body := by
  simp only [replyWords, State.tb0, ht, hs]

/-! Keys that nothing holds. -/

theorem jobs_free {s : State} {k : JobKey} (h : s.tagUsed k = false) : ∀ j ∈ s.queen.jobs, sameKey j.key k = false := by
  simp only [State.tagUsed, Bool.or_eq_false_iff, List.any_eq_false] at h
  exact fun j hj => by simpa using h.1 j hj

/-- With a tag free, the jobs of other tags are all the jobs. -/
theorem filter_free {s : State} {k : JobKey} (h : s.tagUsed k = false) :
    (s.queen.jobs.filter fun j => !sameKey j.key k) = s.queen.jobs :=
  List.filter_eq_self.mpr fun j hj => by simp [jobs_free h j hj]

theorem taken_jobs (p : Pkt) (s : State) : (taken p s).queen.jobs = s.queen.jobs ++ [Job.fresh .pcie p] := rfl

/-- With its tag free, dropping a packet's job leaves the jobs that were there before it was taken. -/
theorem taken_dropped {p : Pkt} {s : State} (h : s.tagUsed ⟨.pcie, p.tag⟩ = false) :
    ((taken p s).queen.jobs.filter fun j => !sameKey j.key ⟨.pcie, p.tag⟩) = s.queen.jobs := by
  rw [taken_jobs, List.filter_append, filter_free h]
  simp [Job.fresh, sameKey_self]

/-- With its tag free, replacing a packet's job replaces the one that was taken. -/
theorem taken_replaced {p : Pkt} {s : State} (h : s.tagUsed ⟨.pcie, p.tag⟩ = false) {j : Job} (hj : j.key = ⟨.pcie, p.tag⟩) :
    (taken p s).setJob j = { s with hif := (s.consume p).hif, queen := { s.queen with jobs := s.queen.jobs ++ [j] } } := by
  have hold : (s.queen.jobs.map fun i => if sameKey i.key j.key then j else i) = s.queen.jobs := by
    conv_rhs => rw [← List.map_id s.queen.jobs]
    exact List.map_congr_left fun i hi => by simp [hj, jobs_free h i hi]
  have hnew : sameKey (Job.fresh .pcie p).key j.key = true := by rw [hj]; exact sameKey_self _
  simp only [State.setJob, taken_jobs, List.map_append, hold, List.map_cons, List.map_nil, hnew, if_true]
  rfl

theorem taken_calm {p : Pkt} {s : State} (h : s.abortAsked ⟨.pcie, p.tag⟩ = false) :
    (taken p s).abortAsked ⟨.pcie, p.tag⟩ = false := by
  simp only [State.abortAsked, taken_jobs, List.any_append, Bool.or_eq_false_iff] at h ⊢
  exact ⟨h, by simp [Job.fresh, Job.awaits]⟩

/-! A packet that reaches the checks of its command, and one that they refuse. -/

theorem fetch_fetched {d : CmdDef} {p : Pkt} {s : State} (h : Fetched d p s) :
    d.fetch p s = d.begin (Job.fresh .pcie p) (taken p s) := by
  have hfree : (s.consume p).tagUsed (Job.fresh .pcie p).key = false := h.free
  have hturn : ((s.consume p).mustWait .pcie p && d.code != 0x0003) = false := by
    rcases h.turn with ht | ht
    · rw [show (s.consume p).mustWait .pcie p = false from ht, Bool.false_and]
    · simp [ht]
  simp only [CmdDef.fetch, h.fetches, h.usable, h.code, CmdDef.take, hfree, hturn, bne_self_eq_false, Bool.not_true, Bool.false_and,
    Bool.false_eq_true, if_false, taken]

/-- The job of a packet on the ring, not begun: its reply is wanted, and not marked late. -/
structure Job.Raw (p : Pkt) (j : Job) : Prop where
  key  : j.key = ⟨.pcie, p.tag⟩
  pkt  : j.p.opcode = p.opcode
  kept : j.discard = false
  late : j.late = false

theorem refuse_refused {d : CmdDef} {p : Pkt} {s : State} (hd : d ∈ allCmds) (hfree : s.tagUsed ⟨.pcie, p.tag⟩ = false)
    (hcalm : s.abortAsked ⟨.pcie, p.tag⟩ = false) {j : Job} (hj : j.Raw p) (v : Verdict) :
    RefusedWith p s ((d.refused j v (taken p s)).refuse j v) v := by
  obtain ⟨hk, hp, hkept, hlate⟩ := hj
  have desk := refused_desk d hd j v (taken p s)
  generalize d.refused j v (taken p s) = u at desk ⊢
  obtain ⟨hq, hh, ht, hs⟩ := desk
  have ha : u.abortAsked j.key = false := by
    rw [hk, ← taken_calm hcalm, State.abortAsked, hq]
    rfl
  have hx : u.refuse j v = _ := commitRaw_pcie v.status v.idx 0 [] (by rw [hk]) hkept ha
  rw [hx]
  refine ⟨⟨_, by rw [hq]; rfl, hk, rfl, ?_⟩, ?_, hh⟩
  · rw [hp, hk, hlate]
    rfl
  · dsimp only
    rw [hq, hk]
    exact taken_dropped hfree

/-- A packet that its command's checks refuse. -/
theorem fetch_refused {d : CmdDef} {p : Pkt} {s : State} {v : Verdict} (hd : d ∈ allCmds) (h : Fetched d p s)
    (hv : acceptCheck d (taken p s) (Job.fresh .pcie p) = some v) : RefusedWith p s (d.fetch p s) v := by
  rw [fetch_fetched h, CmdDef.begin, hv]
  exact refuse_refused hd h.free h.calm ⟨rfl, rfl, rfl, rfl⟩ v

/-! The state in which an effect begins: the Queen core's jobs and the ring's head have changed. -/

@[simp] theorem begun_rsc (d : CmdDef) (p : Pkt) (s : State) : (begun d p s).rsc = s.rsc := rfl
@[simp] theorem begun_ev (d : CmdDef) (p : Pkt) (s : State) : (begun d p s).ev = s.ev := rfl
@[simp] theorem begun_pwr (d : CmdDef) (p : Pkt) (s : State) : (begun d p s).pwr = s.pwr := rfl
@[simp] theorem begun_clk (d : CmdDef) (p : Pkt) (s : State) : (begun d p s).clk = s.clk := rfl
@[simp] theorem begun_tb (d : CmdDef) (p : Pkt) (s : State) : (begun d p s).tb = s.tb := rfl
@[simp] theorem begun_servo (d : CmdDef) (p : Pkt) (s : State) : (begun d p s).servo = s.servo := rfl
@[simp] theorem begun_mem (d : CmdDef) (p : Pkt) (s : State) : (begun d p s).mem = s.mem := rfl
@[simp] theorem begun_net (d : CmdDef) (p : Pkt) (s : State) : (begun d p s).net = s.net := rfl
@[simp] theorem begun_swarm (d : CmdDef) (p : Pkt) (s : State) : (begun d p s).swarm = s.swarm := rfl
@[simp] theorem begun_cfg (d : CmdDef) (p : Pkt) (s : State) : (begun d p s).cfg = s.cfg := rfl
@[simp] theorem begun_fab (d : CmdDef) (p : Pkt) (s : State) : (begun d p s).fab = s.fab := rfl
@[simp] theorem begun_workers (d : CmdDef) (p : Pkt) (s : State) : (begun d p s).workers = s.workers := rfl
@[simp] theorem begun_groups (d : CmdDef) (p : Pkt) (s : State) : (begun d p s).groups = s.groups := rfl
@[simp] theorem begun_ports (d : CmdDef) (p : Pkt) (s : State) : (begun d p s).ports = s.ports := rfl
@[simp] theorem begun_brood (d : CmdDef) (p : Pkt) (s : State) : (begun d p s).brood = s.brood := rfl
@[simp] theorem begun_sec (d : CmdDef) (p : Pkt) (s : State) : (begun d p s).sec = s.sec := rfl
@[simp] theorem begun_bist (d : CmdDef) (p : Pkt) (s : State) : (begun d p s).bist = s.bist := rfl
@[simp] theorem begun_dbg (d : CmdDef) (p : Pkt) (s : State) : (begun d p s).dbg = s.dbg := rfl
@[simp] theorem begun_starts (d : CmdDef) (p : Pkt) (s : State) : (begun d p s).starts = s.starts := rfl
@[simp] theorem begun_out (d : CmdDef) (p : Pkt) (s : State) : (begun d p s).out = s.out := rfl
@[simp] theorem begun_free (d : CmdDef) (p : Pkt) (s : State) : (begun d p s).free = s.free := rfl
@[simp] theorem begun_pending (d : CmdDef) (p : Pkt) (s : State) : (begun d p s).pending = s.pending := rfl
@[simp] theorem begun_hif (d : CmdDef) (p : Pkt) (s : State) : (begun d p s).hif = (s.consume p).hif := rfl

/-! A command that completes, and one that runs on. -/

/-- The reply of a command that has ended its processing, with its results, in the state that its effect has made. -/
def doneReply (d : CmdDef) (p : Pkt) (u : State) (result : Words) : Reply :=
  ⟨⟨.pcie, p.tag⟩, replyWords u p.opcode p.tag (if clamped d p = 0 then stDone else stClamped) 0xFF false (clamped d p)
    (echoOf (echoEndOf p.opcode) (applied d p) ++ result), true, .nothing⟩

/-- A command whose effect ends its processing: what the effect made, its tag gone from the jobs, its reply queued. -/
theorem fetch_done {d : CmdDef} {p : Pkt} {s u : State} {result : Words} (h : Accepted d p s)
    (ha : d.act (begunJob d p) (begun d p s) = .done u result) (hq : u.queen = (begun d p s).queen) :
    d.fetch p s = { u with queen := { s.queen with replies := s.queen.replies ++ [doneReply d p u result] } } := by
  rw [fetch_accepted h, ha, finish, commitDone_begun u result (by rw [hq]) h.toPasses, hq, begun_eq h.toPasses]
  rfl

theorem fetch_completed {d : CmdDef} {p : Pkt} {s u : State} {result : Words} (h : Accepted d p s)
    (ha : d.act (begunJob d p) (begun d p s) = .done u result) (hq : u.queen = (begun d p s).queen)
    (hh : u.hif = (s.consume p).hif) : Completed d p s (d.fetch p s) result := by
  rw [fetch_done h ha hq]
  exact ⟨⟨_, rfl, rfl, rfl, rfl⟩, rfl, hh⟩

/-- What a command leaves whose effect ends its processing: what the effect made, but for the Queen core's lists. -/
theorem fetch_ends {d : CmdDef} {p : Pkt} {s u : State} {result : Words} (h : Accepted d p s)
    (ha : d.act (begunJob d p) (begun d p s) = .done u result) (hq : u.queen = (begun d p s).queen)
    (hh : u.hif = (s.consume p).hif) :
    ∃ q, d.fetch p s = { u with queen := q } ∧ Completed d p s { u with queen := q } result :=
  ⟨_, fetch_done h ha hq, fetch_done h ha hq ▸ fetch_completed h ha hq hh⟩

/-- A command whose effect leaves it running: what the effect made. -/
theorem fetch_stay {d : CmdDef} {p : Pkt} {s u : State} (h : Accepted d p s)
    (ha : d.act (begunJob d p) (begun d p s) = .stay u) : d.fetch p s = u := by
  rw [fetch_accepted h, ha, finish]

theorem stillRuns_of {d : CmdDef} {p : Pkt} {s u : State} (h : Accepted d p s) (hq : u.queen = (begun d p s).queen)
    (hh : u.hif = (s.consume p).hif) : StillRuns s u p := by
  refine ⟨⟨begunJob d p, ?_, rfl, rfl⟩, ?_, hh⟩
  · rw [hq, begun_jobs h.toPasses]
    simp
  · rw [hq, begun_eq h.toPasses]

/-! Blocks without a clamped field (R38). -/

/-- No field of the command is ever clamped. -/
def CmdDef.Unclamped (d : CmdDef) (p : Pkt) : Prop := ∀ f ∈ d.fields p, ∀ v, f.applied v = v

theorem applied_unclamped {d : CmdDef} {p : Pkt} (h : d.Unclamped p) : applied d p = p.block := by
  unfold applied appliedBlock
  unfold CmdDef.Unclamped at h
  generalize p.block = ws
  revert h
  generalize d.fields p = fs
  intro h
  induction fs with
  | nil => rfl
  | cons f fs ih =>
    rw [List.foldl_cons, if_pos (h f List.mem_cons_self _)]
    exact ih fun g hg => h g (List.mem_cons_of_mem _ hg)

theorem clamped_unclamped {d : CmdDef} {p : Pkt} (h : d.Unclamped p) : clamped d p = 0 := by
  unfold clamped clampMask
  unfold CmdDef.Unclamped at h
  generalize (0 : BitVec 64) = m
  revert h
  generalize d.fields p = fs
  intro h
  induction fs with
  | nil => rfl
  | cons f fs ih =>
    rw [List.foldl_cons, if_pos (h f List.mem_cons_self _)]
    exact ih fun g hg => h g (List.mem_cons_of_mem _ hg)

theorem begunJob_args {d : CmdDef} {p : Pkt} (h : d.Unclamped p) : (begunJob d p).args = p.block := applied_unclamped h

end Sys2Proof.Machine
end


section
/-! SUPPORT. The checks of a packet, in their order (spec/02_command_interface.md, R34 to R41). -/

namespace Sys2Proof.Machine

/-! Unusable lengths (R36). -/

theorem unusable_iff (s : State) (p : Pkt) : s.unusable p = true ↔
    (p.length.toNat < 32 ∨ p.length.toNat % 4 ≠ 0 ∨ (s.hif.subBell - s.hif.subHead).toNat < (p.length.toNat + 31) / 32) := by
  show (!(decide (32 ≤ p.length.toNat) && decide (p.length.toNat % 4 = 0)) ||
    decide ((s.hif.subBell - s.hif.subHead).toNat < (p.length.toNat + 31) / 32)) = true ↔ _
  simp [or_assoc]

theorem lengthStatus_eq (p : Pkt) :
    lengthStatus p = if p.version = 1 ∧ knownOpcode p.opcode = true then stBadLength else stBadOpcode := by
  unfold lengthStatus
  by_cases hv : p.version = 1 <;> cases hk : knownOpcode p.opcode <;> simp [hv]

/-- Framing lost: the ring is empty up to the doorbell, and the packet's tag is answered. -/
theorem resync_free {s : State} {p : Pkt} (h : s.tagUsed ⟨.pcie, p.tag⟩ = false) :
    s.resync p = { s with
      hif := { s.hif with subHead := s.hif.subBell, subResync := true }
      queen := { s.queen with replies := s.queen.replies ++ [⟨⟨.pcie, p.tag⟩,
        replyWords s p.opcode p.tag (lengthStatus p) 0xFE false 0 [], true, .nothing⟩] } } := by
  have hfree : ({ s with hif := { s.hif with subHead := s.hif.subBell, subResync := true } } : State).tagUsed ⟨.pcie, p.tag⟩ = false := h
  simp only [State.resync, hfree, Bool.false_eq_true, if_false]
  rfl

theorem fetch_resyncs {d : CmdDef} {p : Pkt} {s : State} (hf : s.canFetch = true) (hu : s.unusable p = true) :
    d.fetch p s = s.resync p := by
  simp [CmdDef.fetch, hf, hu]

theorem exec_subResync_resyncs {p : Pkt} {s : State} (hf : s.canFetch = true) (hu : s.unusable p = true) :
    exec (.subResync p) s = .next (s.resync p) := by
  simp [exec, execSubResync, hf, hu]

/-! A packet that is not checked yet (R27, R34, R37, R41). -/

section
variable {d : CmdDef} {p : Pkt} {s : State}

theorem fetch_unfetched (h : s.canFetch = false) : d.fetch p s = s := by simp [CmdDef.fetch, h]

theorem fetch_takes (hf : s.canFetch = true) (hu : s.unusable p = false) (hc : p.opcode = d.code) :
    d.fetch p s = d.take .pcie p (s.consume p) := by
  simp [CmdDef.fetch, hf, hu, hc]

theorem take_tagInUse (h : s.tagUsed ⟨.pcie, p.tag⟩ = true) : d.take .pcie p (s.consume p) = { s with
    hif := (s.consume p).hif
    queen := { s.queen with replies := s.queen.replies ++
      [⟨⟨.pcie, p.tag⟩, replyWords s p.opcode p.tag stTagInUse 0xFF false 0 [], false, .nothing⟩] } } := by
  have hused : (s.consume p).tagUsed (Job.fresh .pcie p).key = true := h
  simp only [CmdDef.take, hused, if_true]
  rfl

theorem take_waits (h : s.tagUsed ⟨.pcie, p.tag⟩ = false) (hw : s.mustWait .pcie p = true) (hc : d.code ≠ 0x0003) :
    d.take .pcie p (s.consume p) = taken p s := by
  have hfree : (s.consume p).tagUsed (Job.fresh .pcie p).key = false := h
  have hwait : (s.consume p).mustWait .pcie p = true := hw
  have hother : (d.code != 0x0003) = true := bne_iff_ne.mpr hc
  simp only [CmdDef.take, hfree, hwait, hother, Bool.and_self, Bool.false_eq_true, if_false, if_true, taken]

/-! The checks, each the first that fails (R35). -/

theorem leastOf_least {l : List Nat} {i : Nat} (hi : i ∈ l) (hl : ∀ k ∈ l, i ≤ k) : leastOf l = some i := by
  induction l generalizing i with
  | nil => exact absurd hi (List.not_mem_nil)
  | cons a l ih =>
    unfold leastOf
    cases l with
    | nil => simpa [leastOf, eq_comm] using hi
    | cons b l =>
      obtain ⟨m, hm, hmin⟩ : ∃ m ∈ b :: l, ∀ k ∈ b :: l, m ≤ k :=
        ⟨_, List.min_mem (List.cons_ne_nil b l), fun _ => List.min_le_of_mem⟩
      have ha : i ≤ a := hl a List.mem_cons_self
      have him : i ≤ m := hl m (List.mem_cons_of_mem _ hm)
      rw [ih hm hmin]
      rcases List.mem_cons.mp hi with rfl | hi
      · exact congrArg some (Nat.min_eq_left him)
      · obtain rfl : m = i := Nat.le_antisymm (hmin i hi) him
        exact congrArg some (Nat.min_eq_right ha)

theorem acceptCheck_eq (d : CmdDef) (s : State) (j : Job) : acceptCheck d s j = firstOf
    [refuseIf (j.p.version != 1 || j.p.opcode != d.code) stBadOpcode 0xFE,
     refuseIf (!j.p.lengthUsable || j.p.length.toNat != d.length j.p) stBadLength 0xFE,
     refuseIf (!targetOk s j.key.path j.p || decide (d.unitMax < j.p.unit.toNat)) stBadTarget 0xFE,
     paramFails d s j.key.path j.p, refuseIf (!d.modes s j.p) stWrongMode, engineCheck s j.p, d.checks s (applyJob d j)] := by
  rw [acceptCheck, packetCheck]
  generalize refuseIf _ stBadOpcode 0xFE = a
  generalize refuseIf _ stBadLength 0xFE = b
  generalize refuseIf _ stBadTarget 0xFE = c
  generalize paramFails d s j.key.path j.p = e
  generalize refuseIf _ stWrongMode = f
  cases a <;> cases b <;> cases c <;> cases e <;> cases f <;> rfl

theorem acceptCheck_fresh (d : CmdDef) (s : State) (p : Pkt) : acceptCheck d s (Job.fresh .pcie p) = firstOf
    [refuseIf (p.version != 1 || p.opcode != d.code) stBadOpcode 0xFE,
     refuseIf (!p.lengthUsable || p.length.toNat != d.length p) stBadLength 0xFE,
     refuseIf (!targetOk s .pcie p || decide (d.unitMax < p.unit.toNat)) stBadTarget 0xFE,
     paramFails d s .pcie p, refuseIf (!d.modes s p) stWrongMode, engineCheck s p,
     d.checks s (applyJob d (Job.fresh .pcie p))] := acceptCheck_eq d s _

theorem refuseIf_none {b : Bool} (h : b = false) (st : Status) (i : Nat) : refuseIf b st i = none := by rw [h]; rfl
theorem refuseIf_some {b : Bool} (h : b = true) (st : Status) (i : Nat) : refuseIf b st i = some ⟨st, i⟩ := by rw [h]; rfl

theorem firstOf_some (v : Verdict) (l : List (Option Verdict)) : firstOf (some v :: l) = some v := rfl
theorem firstOf_none (l : List (Option Verdict)) : firstOf (none :: l) = firstOf l := rfl

/-- The target names this device, and the unit is one that the command knows (R33). -/
theorem target_wrong (at_ : State) (p : Pkt) (d : CmdDef) :
    (!targetOk at_ .pcie p || decide (d.unitMax < p.unit.toNat)) = false ↔
      (p.target = at_.swarm.id ∨ p.target = 0xFF) ∧ p.unit.toNat ≤ d.unitMax := by
  simp [targetOk, Path.isFwd, imp_iff_not_or]

theorem paramFails_header {path : Path} (h : ¬ (p.headerBad = false ∧ d.header p = false)) :
    paramFails d s path p = some ⟨stBadParam, 0xFE⟩ := by
  have hbad : (p.headerBad || d.header p) = true := by
    cases hb : p.headerBad <;> simp_all
  simp [paramFails, hbad]

theorem paramFails_fields {path : Path} (h : p.headerBad = false ∧ d.header p = false) : paramFails d s path p =
    (leastOf (namingFails (d.fields p) p.block ++ reservedFails (d.fields p) p.block ++ d.naming s path p)).map
      fun i => ⟨stBadParam, fieldIdx i⟩ := by
  simp [paramFails, h.1, h.2]

end

/-- Settles O29: what is not checked yet by the lemmas of fetching, what is checked by the first of the checks that fails. -/
theorem packetsAreChecked : Obligations.PacketsAreChecked := by
  refine ⟨fun s p row hrow hf hlen hfree => ?unusable, fun s p row hrow hc => ⟨fun hn => ?_, fun hf hu ht => ?_, fun hf hu ht hw hn => ?_⟩,
    fun s p row hrow h => ?checked⟩
  case unusable =>
    have hu : s.unusable p = true := (unusable_iff s p).mpr hlen
    have hx : exec (row.1 p) s = .next (s.resync p) := by
      rcases hrow with hrow | hrow
      · rw [commandRows_exec row hrow, fetch_resyncs hf hu]
      · rw [hrow, exec_subResync_resyncs hf hu]
    rw [hx, resync_free hfree, lengthStatus_eq]
    exact ⟨_, _, rfl, rfl, rfl, rfl, rfl, rfl, rfl⟩
  · rw [commandRows_exec row hrow, fetch_unfetched hn]
  · rw [commandRows_exec row hrow, fetch_takes hf hu hc, take_tagInUse ht]
    exact ⟨_, _, rfl, rfl, rfl, rfl⟩
  · rw [commandRows_exec row hrow, fetch_takes hf hu hc, take_waits ht hw (hc ▸ hn)]
    rfl
  case checked =>
    intro d at_ version length target header bad refused
    have refuses {v : Verdict} (hv : acceptCheck d at_ (Job.fresh .pcie p) = some v) : refused v :=
      ⟨_, commandRows_exec row hrow p s, fetch_refused (mem_allCmds hrow) h hv⟩
    have c1 (hv : version) : refuseIf (p.version != 1 || p.opcode != d.code) stBadOpcode 0xFE = none :=
      refuseIf_none (by simp [show p.version = 1 from hv, show p.opcode = d.code from h.code]) _ _
    have c2 (hl : length) : refuseIf (!p.lengthUsable || p.length.toNat != d.length p) stBadLength 0xFE = none :=
      refuseIf_none (by simp [hl.1, hl.2]) _ _
    have c3 (ht : target) : refuseIf (!targetOk at_ .pcie p || decide (d.unitMax < p.unit.toNat)) stBadTarget 0xFE = none :=
      refuseIf_none ((target_wrong at_ p d).mpr ht) _ _
    have c4 (hh : header) (hb : bad = []) : paramFails d at_ .pcie p = none := by
      rw [paramFails_fields hh, show _ ++ _ = [] from hb]
      rfl
    have c5 (hm : d.modes at_ p = true) : refuseIf (!d.modes at_ p) stWrongMode = none := refuseIf_none (by simp [hm]) _ _
    refine ⟨fun hv => refuses ?_, fun hv hl => refuses ?_, fun hv hl ht => refuses ?_, fun hv hl ht hh => refuses ?_,
      fun hv hl ht hh i hi hmin => refuses ?_, fun hv hl ht hh hb hm => refuses ?_,
      fun hv hl ht hh hb hm => ⟨fun v he => refuses ?_, fun v he hc => refuses ?_⟩⟩
    all_goals rw [acceptCheck_fresh]
    · rw [refuseIf_some (by rw [bne_iff_ne.mpr hv, Bool.true_or]), firstOf_some]
    · rw [c1 hv, firstOf_none, refuseIf_some (by_contra fun hn => hl (by simpa using hn)), firstOf_some]
    · rw [c1 hv, c2 hl, firstOf_none, firstOf_none,
        refuseIf_some (by_contra fun hn => ht ((target_wrong at_ p d).mp (Bool.not_eq_true _ ▸ hn))), firstOf_some]
    · rw [c1 hv, c2 hl, c3 ht, paramFails_header hh]
      rfl
    · rw [c1 hv, c2 hl, c3 ht, paramFails_fields hh, leastOf_least hi hmin]
      rfl
    · rw [c1 hv, c2 hl, c3 ht, c4 hh hb, refuseIf_some (by simp [hm])]
      rfl
    · rw [c1 hv, c2 hl, c3 ht, c4 hh hb, c5 hm, he]
      rfl
    · rw [c1 hv, c2 hl, c3 ht, c4 hh hb, c5 hm, he]
      exact congrArg (fun c => firstOf [c]) hc

end Sys2Proof.Machine
end


section
/-! SUPPORT. Timed commands (spec/02_command_interface.md, R43 to R45; spec/11_swarm_and_time.md, R334). -/

namespace Sys2Proof.Machine

/-- A packet just taken is not scheduled. -/
theorem taken_scheduledCount (p : Pkt) (s : State) : (taken p s).scheduledCount = s.scheduledCount := by
  simp [State.scheduledCount, taken_jobs, Job.fresh]

section
variable {d : CmdDef} {p : Pkt} {s : State}

/-- A packet that passes and carries an instant: what its command's schedule makes of it. -/
theorem fetch_timed (h : Passes d p s) (ht : p.execAt ≠ 0) (he : d.early = false) : d.fetch p s =
    (let j := applyJob d (Job.fresh .pcie p)
     let no (v : Verdict) : State := (d.refused j v (taken p s)).refuse j v
     if s.tb0.set = false then no ⟨stNotReady, 0xFF⟩
     else if p.execAt < s.tb0.value + leadUnits then
       if p.lateOk then d.run { j with late := true } (taken p s) else no ⟨stTimeout, 0xFF⟩
     else if 64 ≤ s.scheduledCount then no ⟨stNotReady, 0xFF⟩
     else (taken p s).setJob { j with phase := .scheduled p.execAt }) := by
  have hp : (applyJob d (Job.fresh .pcie p)).p = p := rfl
  have hb : (taken p s).tb0 = s.tb0 := rfl
  rw [fetch_passes h, CmdDef.begin, h.checks]
  simp only [hp, ht, if_false, hb, he, taken_scheduledCount, Bool.not_eq_true', Bool.false_eq_true]

theorem applied_raw (d : CmdDef) (p : Pkt) : (applyJob d (Job.fresh .pcie p)).Raw p := ⟨rfl, rfl, rfl, rfl⟩

/-- A command that meets neither a stopped die nor a rekey runs its effect. -/
theorem run_clear {j : Job} (hc : s.stuckAt j.p = none) (hm : s.waitsMemory j.p = false) :
    d.run j s = finish { j with phase := .running } (d.act { j with phase := .running } (s.setJob { j with phase := .running })) := by
  simp only [CmdDef.run, hc, hm, Bool.false_eq_true, if_false]

end

/-! A scheduled instant (R43, R45). -/

section
variable {s : State} {j : Job} {at_ : Nat}

/-- The executing engine of a scheduled command is there. -/
def State.mayAct (s : State) (j : Job) : Prop := timedStart j.p.opcode = true ∨ (s.queen.serves = true ∧ s.queenClocked = true)

section
variable (hj : s.job? j.key = some j) (hp : j.phase = .scheduled at_) (hm : s.mayAct j) (he : (cmdOf j.p.opcode).early = false)
include hj hp

theorem instant_early (hlt : s.tb0.value < at_) : s.instant j.key = s := by
  simp [State.instant, hj, hp, hlt]

include hm he

omit hj hp he in
theorem instant_able : (timedStart j.p.opcode || decide (j.key.path = .mailbox) || (s.queen.serves && s.queenClocked)) = true := by
  rcases hm with hm | ⟨hm, hc⟩ <;> simp [*]

theorem instant_refused (hle : at_ ≤ s.tb0.value) {v : Verdict}
    (hv : firstOf [engineCheck s j.p, (cmdOf j.p.opcode).checks s j] = some v) :
    s.instant j.key = ((cmdOf j.p.opcode).refused j v s).refuse j v := by
  simp [State.instant, hj, hp, he, instant_able hm, Nat.not_lt.mpr hle, hv]

theorem instant_runs (hle : at_ ≤ s.tb0.value) (hv : firstOf [engineCheck s j.p, (cmdOf j.p.opcode).checks s j] = none) :
    s.instant j.key = (cmdOf j.p.opcode).run j s := by
  simp [State.instant, hj, hp, he, instant_able hm, Nat.not_lt.mpr hle, hv]

end

end

/-- Settles O30: a packet by its schedule, an instant by the comparison with `TB0` and the checks that run again. -/
theorem scheduledCommands : Obligations.ScheduledCommands := by
  refine ⟨fun s p row hrow h ht he => ?timed, fun s k j at_ hj hk hp hm => ?instant⟩
  case timed =>
    have hd := mem_allCmds hrow
    have hx := commandRows_exec row hrow p s
    rw [fetch_timed h ht he] at hx
    have refuses (v : Verdict) := refuse_refused hd h.free h.calm (applied_raw row.2 p) v
    refine ⟨fun hb => ⟨_, ?_, refuses _⟩, fun hb hs hl => ⟨_, ?_, refuses _⟩, fun hb hs hl hc hw => ?_,
      fun hb hs hn => ⟨_, ?_, refuses _⟩, fun hb hs hn => ?_⟩
    all_goals rw [hx]
    · simp [hb]
    · simp [hb, hs, hl]
    · simp only [hb, hs, hl, if_true, Bool.true_eq_false, if_false]
      exact congrArg _ (run_clear (s := taken p s) hc hw)
    · simp [hb, hs, hn]
    · have hn : ¬ 64 ≤ s.scheduledCount := Nat.not_le.mpr hn
      simp only [hb, hs, hn, if_false, Bool.true_eq_false]
      exact congrArg _ (taken_replaced h.free rfl)
  case instant =>
    subst hk
    intro d he
    refine ⟨fun hlt => ?_, fun hle hg hc hs hw => ?_, fun v hle hv hend hr => ?_⟩
    · exact congrArg _ (instant_early hj hp hlt)
    · exact congrArg _ ((instant_runs hj hp hm he hle (by rw [hg, hc]; rfl)).trans (run_clear hs hw))
    · have hx : s.instant j.key = s.refuse j v := by rw [instant_refused hj hp hm he hle hv, hr]
      have hq := commitRaw_pcie v.status v.idx 0 [] hend.path hend.kept hend.calm
      exact ⟨_, congrArg Host.Outcome.next (hx.trans hq), _, rfl, rfl, rfl, rfl⟩

end Sys2Proof.Machine
end


section
/-! SUPPORT. The reply ring, the event ring and their vectors (spec/02_command_interface.md, R29 to R32; spec/18_events.md, R458 to
R461), and the EVT commands (18, R465). -/

namespace Sys2Proof.Machine

/-! A vector signalled (R32). -/

theorem State.signal_open {s : State} {v : BitVec 6} (h : s.hif.msixGap.getLsbD v.toNat = false) : s.signal v = { s with
    hif := { s.hif with msixGap := if s.hif.irqHoldoff = 0 then s.hif.msixGap else s.hif.msixGap ||| (1#64 <<< v.toNat) }
    out := .msix ⟨v.toNat, v.isLt⟩ :: s.out } := by
  simp only [State.signal, h, Bool.false_eq_true, if_false]
  rfl

theorem State.signal_gap {s : State} {v : BitVec 6} (h : s.hif.msixGap.getLsbD v.toNat = true) : s.signal v =
    { s with hif := { s.hif with msixPba := s.hif.msixPba ||| (1#64 <<< v.toNat) } } := by
  simp only [State.signal, h, if_true]

theorem getLsbD_or_bit (x : BitVec 64) (n : Fin 64) : (x ||| (1#64 <<< n.val)).getLsbD n.val = true := by simp

theorem getLsbD_without_bit (x : BitVec 64) (n : Fin 64) : (x &&& ~~~(1#64 <<< n.val)).getLsbD n.val = false := by simp

/-- A gap begins where a holdoff is set. -/
theorem gap_begun (x : BitVec 64) (hold : BitVec 16) (n : Fin 64) (h : x.getLsbD n.val = false) :
    (if hold = 0 then x else x ||| (1#64 <<< n.val)).getLsbD n.val = decide (hold ≠ 0) := by
  split
  · next h0 => rw [h, decide_eq_false (not_not.mpr h0)]
  · next h0 => rw [getLsbD_or_bit, decide_eq_true h0]

/-- A signal changes what is put out and the vectors' bits, and leaves the rings alone. -/
theorem State.signal_rest (s : State) (v : BitVec 6) :
    s.signal v = { s with hif := (s.signal v).hif, out := (s.signal v).out } ∧
      (s.signal v).queen = s.queen ∧ (s.signal v).hif.repTail = s.hif.repTail ∧ (s.signal v).hif.evtTail = s.hif.evtTail := by
  cases h : s.hif.msixGap.getLsbD v.toNat
  · rw [State.signal_open h]; exact ⟨rfl, rfl, rfl, rfl⟩
  · rw [State.signal_gap h]; exact ⟨rfl, rfl, rfl, rfl⟩

/-! Replies (R29, R31). -/

theorem phased_length (h : Hif) (ws : Words) : (phased h ws).length = ws.length := by simp [phased]

theorem phased_other (h : Hif) (ws : Words) {i : Nat} (hi : i ≠ 2) : (phased h ws).getD i 0 = ws.getD i 0 := by
  simp [phased, List.getD_eq_getElem?_getD, Ne.symm hi]

/-- The phase bit alternates from pass to pass through the ring, 1 on the first. -/
theorem phased_word (h : Hif) {ws : Words} (hl : 2 < ws.length) : (phased h ws).getD 2 0 = ws.getD 2 0 |||
    (if h.repTail.toNat / 2 ^ h.repSize.toNat % 2 = 0 then 0x80000000 else 0) := by
  have hodd : (h.repTail.toNat / 2 ^ h.repSize.toNat % 2 = 1) ↔ ¬ (h.repTail.toNat / 2 ^ h.repSize.toNat % 2 = 0) := by omega
  simp only [phased, hodd, ite_not]
  simp [List.getD_eq_getElem?_getD, hl]

/-- The oldest reply written into its slots, before its vector is signalled. -/
def State.replyPut (s : State) (r : Reply) (l : List Reply) : State := { s with
  queen := { s.queen with replies := l }
  hif := { s.hif with repTail := s.hif.repTail + BitVec.ofNat 32 r.slots }
  out := .replyRing (BitVec.ofNat 32 (s.hif.repTail.toNat % 2 ^ s.hif.repSize.toNat)) (phased s.hif r.words) :: s.out }

section
variable {s : State} {r : Reply} {l : List Reply}

theorem exec_replyWrite_writes (hr : s.queen.replies = r :: l) (hserves : s.queen.serves = true) (hc : s.queenClocked = true)
    (hup : s.hif.pcieUp = true) (hen : s.hif.repEn = true) (haw : s.rsc.hib = .awake) (hroom : r.slots ≤ s.hif.repFree)
    (ha : r.after = .nothing) : exec .replyWrite s = .next ((s.replyPut r l).signal 0) := by
  simp [exec, execReplyWrite, hr, hserves, hc, hup, hen, haw, hroom, ha, State.runAfter, State.replyPut, State.emit]

theorem exec_replyWrite_waits (hr : s.queen.replies = r :: l) (hroom : s.hif.repFree < r.slots) : exec .replyWrite s = .next s := by
  simp [exec, execReplyWrite, hr, Nat.not_le.mpr hroom]

end

/-! Event records (R32; 18, R458, R461). -/

/-- The oldest record written into its slot, before its vector is signalled. -/
def State.eventPut (s : State) (r : EvRec) (l : List EvRec) : State := { s with
  ev := { s.ev with latch := l }
  hif := { s.hif with evtTail := s.hif.evtTail + 1 }
  out := .eventRing (BitVec.ofNat 32 (s.hif.evtTail.toNat % 2 ^ s.hif.evtSize.toNat)) (r.words s.hif.evtTail) :: s.out }

theorem exec_eventWrite_writes {s : State} {r : EvRec} {l : List EvRec} (hr : s.ev.latch = r :: l) (hup : s.hif.pcieUp = true)
    (hen : s.hif.evtEn = true) (hroom : 0 < s.hif.evtFree) (haw : s.rsc.hib = .awake) : exec .eventWrite s =
      .next (if s.ev.src[r.event.val].msi then (s.eventPut r l).signal s.ev.src[r.event.val].vector else s.eventPut r l) := by
  simp [exec, execEventWrite, hr, hup, hen, hroom, haw, State.eventPut, State.emit]

/-- The state in which a vector's gap has ended. -/
def State.gapEnded (s : State) (v : Fin 64) : State := { s with hif := { s.hif with
  msixGap := s.hif.msixGap &&& ~~~(1#64 <<< v.val), msixPba := s.hif.msixPba &&& ~~~(1#64 <<< v.val) } }

theorem exec_irqHoldoffExpiry_gap {s : State} {v : Fin 64} (h : s.hif.msixGap.getLsbD v.val = true) :
    exec (.irqHoldoffExpiry v) s =
      .next (if s.hif.msixPba.getLsbD v.val then (s.gapEnded v).signal (BitVec.ofNat 6 v.val) else s.gapEnded v) := by
  simp [exec, execIrqHoldoffExpiry, h, State.gapEnded]

/-! The EVT commands (18, R465). -/

section
variable {s : State} {p : Pkt}

theorem evtMaskSet_ends (h : Accepted cmdEvtMaskSet p s) : ∃ q,
    exec (.evtMaskSet p) s = .next { (begun cmdEvtMaskSet p s).setMasks (param p 32 0 256) with queen := q } ∧
      Completed cmdEvtMaskSet p s { (begun cmdEvtMaskSet p s).setMasks (param p 32 0 256) with queen := q } [] := by
  have hargs : (begunJob cmdEvtMaskSet p).args = p.block :=
    begunJob_args (by simp [CmdDef.Unclamped, cmdEvtMaskSet, CmdDef.plain, Field.applied])
  obtain ⟨q, hx, hc⟩ := fetch_ends (u := (begun cmdEvtMaskSet p s).setMasks (param p 32 0 256)) h (by rw [param, ← hargs]; rfl) rfl rfl
  exact ⟨q, congrArg _ hx, hc⟩

/-- The low six bits of a route are its vector. -/
theorem route_vector (p : Pkt) (i : Nat) :
    BitVec.ofNat 6 (param p (36 + 4 * i) 0 9) = BitVec.ofNat 6 (param p (36 + 4 * i) 0 6) := by
  have hpos : ((36 + 4 * i - 32) * 8 + 0) % 32 = 0 := by omega
  have hmod (n : Nat) : n % 2 ^ 9 % 2 ^ 6 = n % 2 ^ 6 % 2 ^ 6 := by omega
  refine BitVec.eq_of_toNat_eq ?_
  simp only [param, fld, hpos, bitsOf, BitVec.toNat_ofNat]
  exact hmod _

/-- The routes that `EVT_ROUTE_SET` writes. -/
def routesSet (p : Pkt) (s : State) : State :=
  s.setRoutes (param p 32 0 8) (param p 32 8 9) fun i => param p (36 + 4 * i) 0 9

theorem evtRouteSet_ends (h : Accepted cmdEvtRouteSet p s) : ∃ q,
    exec (.evtRouteSet p) s = .next { routesSet p (begun cmdEvtRouteSet p s) with queen := q } ∧
      Completed cmdEvtRouteSet p s { routesSet p (begun cmdEvtRouteSet p s) with queen := q } [] := by
  have hun : cmdEvtRouteSet.Unclamped p := by
    intro f hf v
    rcases List.mem_append.mp hf with hf | hf
    · fin_cases hf <;> rfl
    · obtain ⟨i, -, rfl⟩ := List.mem_map.mp hf
      rfl
  have ha : cmdEvtRouteSet.act (begunJob cmdEvtRouteSet p) (begun cmdEvtRouteSet p s) =
      .done (routesSet p (begun cmdEvtRouteSet p s)) [] := by
    simp only [routesSet, param, ← begunJob_args hun]
    rfl
  obtain ⟨q, hx, hc⟩ := fetch_ends h ha rfl rfl
  exact ⟨q, congrArg _ hx, hc⟩

/-- The counts of all events cleared where a bit is set. -/
def State.countsCleared (s : State) (clear : Bool) : State :=
  if clear then { s with ev := { s.ev with src := s.ev.src.map fun x => { x with count := 0 } } } else s

theorem State.countsCleared_rest (s : State) (b : Bool) : s.countsCleared b = { s with ev := (s.countsCleared b).ev } := by
  cases b <;> rfl

theorem State.countsCleared_latch (s : State) (b : Bool) : (s.countsCleared b).ev.latch = s.ev.latch := by cases b <;> rfl

theorem State.countsCleared_src (s : State) (b : Bool) (e : Fin 256) : (s.countsCleared b).ev.src[e.val] =
    if b then { s.ev.src[e.val] with count := 0 } else s.ev.src[e.val] := by
  cases b <;> simp [State.countsCleared]

theorem evtStatus_ends (h : Accepted cmdEvtStatus p s) : ∃ q,
    exec (.evtStatus p) s = .next { (begun cmdEvtStatus p s).countsCleared (param p 32 0 1 = 1) with queen := q } ∧
      Completed cmdEvtStatus p s { (begun cmdEvtStatus p s).countsCleared (param p 32 0 1 = 1) with queen := q }
        s.evtStatusBody := by
  have hargs : (begunJob cmdEvtStatus p).args = p.block :=
    begunJob_args (by simp [CmdDef.Unclamped, cmdEvtStatus, CmdDef.plain, Field.applied])
  have ha : cmdEvtStatus.act (begunJob cmdEvtStatus p) (begun cmdEvtStatus p s) =
      .done ((begun cmdEvtStatus p s).countsCleared (param p 32 0 1 = 1)) s.evtStatusBody := by
    simp only [State.countsCleared, param, ← hargs, decide_eq_true_eq]
    rfl
  have hrest := (begun cmdEvtStatus p s).countsCleared_rest (param p 32 0 1 = 1)
  obtain ⟨q, hx, hc⟩ := fetch_ends h ha (by rw [hrest]) (by rw [hrest]; rfl)
  exact ⟨q, congrArg _ hx, hc⟩

theorem evtAck_ends (h : Accepted cmdEvtAck p s) : ∃ q,
    exec (.evtAck p) s = .next { (begun cmdEvtAck p s).ackEvents (param p 32 0 256) with queen := q } ∧
      Completed cmdEvtAck p s { (begun cmdEvtAck p s).ackEvents (param p 32 0 256) with queen := q } [] := by
  have hargs : (begunJob cmdEvtAck p).args = p.block :=
    begunJob_args (by simp [CmdDef.Unclamped, cmdEvtAck, CmdDef.plain, Field.applied])
  obtain ⟨q, hx, hc⟩ := fetch_ends (u := (begun cmdEvtAck p s).ackEvents (param p 32 0 256)) h (by rw [param, ← hargs]; rfl) rfl rfl
  exact ⟨q, congrArg _ hx, hc⟩

end

/-- Settles O31: the rings by what their rows put there and signal, the EVT commands by what their effects make. -/
theorem eventsAndRings : Obligations.EventsAndRings := by
  refine ⟨fun s => ⟨fun r l hr h1 h2 h3 h4 h5 h6 h7 => ?reply, fun r l => exec_replyWrite_waits, fun r l hr h1 h2 h3 h4 => ?event,
    fun v hv => ?gap⟩, fun s p => ⟨fun h => ?masks, fun h => ?routes, fun h => ?status, fun h => ?ack⟩⟩
  case reply =>
    obtain ⟨-, hq, htail, -⟩ := (s.replyPut r l).signal_rest 0
    refine ⟨_, phased s.hif r.words, exec_replyWrite_writes hr h1 h2 h3 h4 h5 h6 h7, hq, htail, fun hg => ?_, fun hg => ?_,
      phased_length _ _, fun i => phased_other _ _, phased_word _⟩
    · rw [State.signal_open hg]
      rfl
    · rw [State.signal_gap hg]
      exact getLsbD_or_bit _ 0
  case event =>
    obtain ⟨hput, -, -, htail⟩ := (s.eventPut r l).signal_rest s.ev.src[r.event.val].vector
    refine ⟨_, exec_eventWrite_writes hr h1 h2 h3 h4, ?_, ?_, fun hm => ?_, fun hm hg => ?_, fun hm hg => ?_⟩
    · split
      · exact hput
      · rfl
    · split
      · exact htail
      · rfl
    · rw [if_neg (by simp [hm])]
      exact ⟨rfl, rfl⟩
    · rw [if_pos hm, State.signal_open (s := s.eventPut r l) (v := s.ev.src[r.event.val].vector) hg]
      exact ⟨rfl, gap_begun _ _ ⟨_, s.ev.src[r.event.val].vector.isLt⟩ hg⟩
    · rw [if_pos hm, State.signal_gap (s := s.eventPut r l) (v := s.ev.src[r.event.val].vector) hg]
      exact ⟨rfl, getLsbD_or_bit _ ⟨_, s.ev.src[r.event.val].vector.isLt⟩⟩
  case gap =>
    have hvec : (BitVec.ofNat 6 v.val).toNat = v.val := by simp
    have hopen : (s.gapEnded v).hif.msixGap.getLsbD (BitVec.ofNat 6 v.val).toNat = false := by
      rw [hvec]
      exact getLsbD_without_bit _ v
    refine ⟨_, exec_irqHoldoffExpiry_gap hv, ?_⟩
    cases hw : s.hif.msixPba.getLsbD v.val
    · exact ⟨getLsbD_without_bit _ v, getLsbD_without_bit _ v, rfl⟩
    · rw [if_pos rfl, State.signal_open hopen]
      refine ⟨getLsbD_without_bit _ v, ?_, ?_⟩
      · rw [Bool.true_and, ← gap_begun (s.gapEnded v).hif.msixGap s.hif.irqHoldoff v (getLsbD_without_bit _ v)]
        simp only [hvec]
        rfl
      · simp only [hvec]
        rfl
  case masks =>
    obtain ⟨q, hx, hc⟩ := evtMaskSet_ends h
    exact ⟨_, hx, hc, rfl, fun e => by simp [State.setMasks], rfl⟩
  case routes =>
    obtain ⟨q, hx, hc⟩ := evtRouteSet_ends h
    exact ⟨_, hx, hc, rfl, by simp only [routesSet, State.setRoutes, begun_ev], fun e => by
      simp [routesSet, State.setRoutes, EvState.withRoute, route_vector]⟩
  case status =>
    obtain ⟨q, hx, hc⟩ := evtStatus_ends h
    have hrest := (begun cmdEvtStatus p s).countsCleared_rest (param p 32 0 1 = 1)
    refine ⟨_, hx, hc, ?_, State.countsCleared_latch _ _, fun e => ?_⟩
    · rw [hrest]
      rfl
    · dsimp only
      rw [State.countsCleared_src]
      simp only [decide_eq_true_eq, begun_ev]
  case ack =>
    obtain ⟨q, hx, hc⟩ := evtAck_ends h
    exact ⟨_, hx, hc, rfl, by simp only [State.ackEvents, begun_ev], fun e => by simp [State.ackEvents]⟩

end Sys2Proof.Machine
end


section
/-! SUPPORT. Workers that stop while no command waits on one (spec/03_worker_cores.md, R91; spec/19_command_reference.md, R484, R485). -/

namespace Sys2Proof.Machine

theorem forAll_holds {ι : Type} {P : State → Prop} {f : ι → State → State} (hf : ∀ i s, P s → P (f i s)) (l : List ι) {s : State}
    (h : P s) : P (forAll l f s) :=
  List.foldlRecOn l (fun s i => f i s) h fun s hs i _ => hf i s hs

/-- No command waits for a stop or a halt, no `DBG_STEP` waits on these Workers, what commands and replies rest on is
as it was (the lists of jobs and replies, the host interface, `TB0`, the device's ID and the starts that wait), and the Workers are
in these states. -/
structure Calm (free : Fin 32 → Prop) (s : State) (f : Fin 32 → WSt) (t : State) : Prop where
  jobs    : t.queen.jobs = s.queen.jobs
  replies : t.queen.replies = s.queen.replies
  hif     : t.hif = s.hif
  tb      : t.tb = s.tb
  swarm   : t.swarm = s.swarm
  starts  : t.starts = s.starts
  stops   : t.queen.stopJobs = []
  halts   : t.dbg.haltJobs = []
  workers : ∀ w : Fin 32, (free w → t.workers[w.val].dbg.stepJob = none) ∧ t.workers[w.val].st = f w

/-- The states of the Workers. -/
def State.wsts (s : State) (w : Fin 32) : WSt := s.workers[w.val].st

theorem Calm.refl {free : Fin 32 → Prop} {s : State} (hs : s.queen.stopJobs = []) (hh : s.dbg.haltJobs = [])
    (hw : ∀ w : Fin 32, free w → s.workers[w.val].dbg.stepJob = none) : Calm free s s.wsts s :=
  ⟨rfl, rfl, rfl, rfl, rfl, rfl, hs, hh, fun w => ⟨hw w, rfl⟩⟩

section
variable {free : Fin 32 → Prop} {s t : State} {f : Fin 32 → WSt} (h : Calm free s f t)
include h

/-- A Worker that comes to another state. -/
theorem Calm.enters (w : Fin 32) {g : Worker → Worker} {st : WSt} (hg : ∀ k, (g k).dbg.stepJob = k.dbg.stepJob ∧ (g k).st = st) :
    Calm free s (Function.update f w st) (t.modWorker w g) where
  jobs := h.jobs
  replies := h.replies
  hif := h.hif
  tb := h.tb
  swarm := h.swarm
  starts := h.starts
  stops := h.stops
  halts := h.halts
  workers v := by
    by_cases hv : v = w
    · subst v
      simpa [hg] using (h.workers w).1
    · simpa [upd_get_other _ _ _ _ (Ne.symm hv), hv] using h.workers v

theorem Calm.modWorker (w : Fin 32) {g : Worker → Worker} (hg : ∀ k, (g k).st = k.st ∧ (k.dbg.stepJob = none → (g k).dbg.stepJob = none)) :
    Calm free s f (t.modWorker w g) where
  jobs := h.jobs
  replies := h.replies
  hif := h.hif
  tb := h.tb
  swarm := h.swarm
  starts := h.starts
  stops := h.stops
  halts := h.halts
  workers v := by
    by_cases hv : v = w
    · subst v
      simpa [hg, (h.workers w).2] using fun hw => (hg _).2 ((h.workers w).1 hw)
    · simpa [upd_get_other _ _ _ _ (Ne.symm hv)] using h.workers v

theorem Calm.modGroup (g : Fin 16) (x : Group → Group) : Calm free s f (t.modGroup g x) :=
  ⟨h.jobs, h.replies, h.hif, h.tb, h.swarm, h.starts, h.stops, h.halts, h.workers⟩

theorem Calm.withMem (m : Mem) : Calm free s f { t with mem := m } :=
  ⟨h.jobs, h.replies, h.hif, h.tb, h.swarm, h.starts, h.stops, h.halts, h.workers⟩

theorem Calm.withSems (x : Vector (Option (Fin 33)) 256) : Calm free s f { t with queen := { t.queen with sems := x } } :=
  ⟨h.jobs, h.replies, h.hif, h.tb, h.swarm, h.starts, h.stops, h.halts, h.workers⟩

theorem Calm.raise (e : Fin 256) (sev unit det : Nat) : Calm free s f (t.raise e sev unit det) := by
  unfold State.raise
  dsimp only
  split <;> exact ⟨h.jobs, h.replies, h.hif, h.tb, h.swarm, h.starts, h.stops, h.halts, h.workers⟩

theorem Calm.drain (w : Fin 32) : Calm free s f (t.drain w) := by
  unfold State.drain
  exact (List.foldlRecOn _ _ h fun u hu p _ => hu.withMem _).modWorker w fun k => ⟨rfl, id⟩

theorem Calm.releaseSems (w : Fin 32) : Calm free s f (t.releaseSems w) :=
  forAll_holds (fun _ _ hu => (hu.withSems _).raise _ _ _ _) _ h

theorem Calm.endStep {w : Fin 32} (hw : free w) : Calm free s f (t.endStep w) := by
  unfold State.endStep
  rw [(h.workers w).1 hw]
  exact h.modWorker w fun k => ⟨rfl, fun _ => rfl⟩

theorem Calm.haltSettled (w : Fin 32) (halted : Bool) : Calm free s f (t.haltSettled w halted) := by
  unfold State.haltSettled
  rw [h.halts]
  exact ⟨h.jobs, h.replies, h.hif, h.tb, h.swarm, h.starts, h.stops, rfl, h.workers⟩

theorem Calm.stopSettled (w : Fin 32) : Calm free s f (t.stopSettled w) := by
  unfold State.stopSettled
  rw [h.stops]
  exact ⟨h.jobs, h.replies, h.hif, h.tb, h.swarm, h.starts, rfl, h.halts, h.workers⟩

/-- A Worker stops: it is STOPPED, and no command hears of it. -/
theorem Calm.stopWorker {w : Fin 32} (hw : free w) (reason : Nat) : Calm free s (Function.update f w .stopped) (t.stopWorker w reason) := by
  have hl := ((((h.drain w).enters w (st := .stopped) (g := fun k => { k.leave .stopped reason t.workers[w.val].pc with reps := [] })
    fun k => ⟨rfl, rfl⟩).releaseSems w).endStep hw).haltSettled w false
  unfold State.stopWorker
  dsimp only
  split
  · exact hl.stopSettled w
  · split
    · exact hl.modGroup _ _
    · exact (hl.modGroup _ _).stopSettled w

/-- A Worker halts: it is HALTED, and no command hears of it. -/
theorem Calm.haltWorker {w : Fin 32} (hw : free w) : Calm free s (Function.update f w .halted) (t.haltWorker w) := by
  unfold State.haltWorker State.workerEvent State.raiseDie
  refine Calm.haltSettled (Calm.endStep (Calm.raise ?_ _ _ _ _) hw) _ _
  have hl := (h.drain w).enters w (st := .halted) (g := fun k => { k with
    st := .halted, stall := none, wasHalted := true
    dbg := { k.dbg with haltReq := false, pending := false, lockWait := 0, hpc := t.workers[w.val].pc } }) fun k => ⟨rfl, rfl⟩
  split
  · exact hl
  · exact hl.modGroup _ _

omit h in
theorem endStep_stepLeft {w : Fin 32} (hw : t.workers[w.val].dbg.stepJob = none) : (t.endStep w).workers[w.val].dbg.stepLeft = none := by
  unfold State.endStep
  rw [hw]
  exact congrArg (fun k : Worker => k.dbg.stepLeft) (upd_get_same _ _ _)

theorem Calm.haltSettled_workers (w : Fin 32) (halted : Bool) : (t.haltSettled w halted).workers = t.workers := by
  unfold State.haltSettled
  rw [h.halts]
  rfl

/-- A Worker that halts is in no `DBG_STEP`. -/
theorem Calm.haltWorker_stepLeft {w : Fin 32} (hw : free w) : (t.haltWorker w).workers[w.val].dbg.stepLeft = none := by
  unfold State.haltWorker State.workerEvent State.raiseDie
  have hl := (h.drain w).enters w (st := .halted) (g := fun k => { k with
    st := .halted, stall := none, wasHalted := true
    dbg := { k.dbg with haltReq := false, pending := false, lockWait := 0, hpc := t.workers[w.val].pc } }) fun k => ⟨rfl, rfl⟩
  have settles {f' : Fin 32 → WSt} {u : State} (hu : Calm free s f' u) :
      ((u.endStep w).haltSettled w true).workers[w.val].dbg.stepLeft = none := by
    rw [(hu.endStep hw).haltSettled_workers]
    exact endStep_stepLeft ((hu.workers w).1 hw)
  refine settles (Calm.raise (f := Function.update f w .halted) ?_ _ _ _ _)
  split
  · exact hl
  · exact hl.modGroup _ _

end

/-- Workers that stop one after the other. -/
theorem Calm.stopAll {s t : State} {f : Fin 32 → WSt} (h : Calm (fun _ => True) s f t) (l : List (Fin 32)) (reason : Nat) :
    Calm (fun _ => True) s (fun v => if v ∈ l then .stopped else f v) (forAll l (fun w s => s.stopWorker w reason) t) := by
  induction l generalizing t f with
  | nil => exact h
  | cons w l ih =>
    have hx : (fun v => if v ∈ w :: l then WSt.stopped else f v) =
        fun v => if v ∈ l then .stopped else Function.update f w .stopped v := by
      funext v
      by_cases hv : v = w <;> by_cases hl : v ∈ l <;> simp [hv, hl]
    rw [hx]
    exact ih (h.stopWorker trivial reason)

/-- What a start that is dropped leaves: it no longer waits, and its Workers that still run are STOPPED. -/
theorem dropStart_calm {s : State} (hs : s.queen.stopJobs = []) (hh : s.dbg.haltJobs = [])
    (hw : ∀ w : Fin 32, s.workers[w.val].dbg.stepJob = none) (x : Start) :
    Calm (fun _ => True) { s with starts := s.starts.filter fun y => !sameKey y.key x.key }
      (fun v => if v ∈ (workersOf x.workers.toNat).filter fun w => s.workers[w.val].active then .stopped else s.wsts v)
      (s.dropStart x) :=
  have hc : Calm (fun _ => True) { s with starts := s.starts.filter fun y => !sameKey y.key x.key } s.wsts
    { s with starts := s.starts.filter fun y => !sameKey y.key x.key } := .refl hs hh fun w _ => hw w
  forAll_holds (fun g _ hu => hu.modGroup g _) _ (hc.stopAll _ 3)

theorem mem_workersOf {m : Nat} {w : Fin 32} : w ∈ workersOf m ↔ m.testBit w.val = true := by
  simp [workersOf]

end Sys2Proof.Machine
end


section
/-! SUPPORT. Pins that follow their circumstances (spec/05_test_ports.md, R131 to R134), and the mode that follows (spec/12, R350). -/

namespace Sys2Proof.Machine

/-- Nothing has changed but the ports, the events and what is put out. -/
def PinsOnly (s t : State) : Prop := t = { s with ev := t.ev, ports := t.ports, out := t.out }

theorem PinsOnly.refl (s : State) : PinsOnly s s := rfl

theorem PinsOnly.trans {s t u : State} (h : PinsOnly s t) (k : PinsOnly t u) : PinsOnly s u :=
  Eq.trans k (by rw [show t = _ from h])

theorem PinsOnly.foldl {ι : Type} {f : State → ι → State} (hf : ∀ s i, PinsOnly s (f s i)) (l : List ι) (s : State) :
    PinsOnly s (l.foldl f s) := by
  induction l generalizing s with
  | nil => exact .refl s
  | cons i l ih => exact (hf s i).trans (ih (f s i))

theorem PinsOnly.ite {s t u : State} {c : Prop} [Decidable c] (h : PinsOnly s t) (k : PinsOnly s u) : PinsOnly s (if c then t else u) := by
  split
  · exact h
  · exact k

theorem State.modPort_pins (s : State) (n : Fin 128) (f : PortSt → PortSt) : PinsOnly s (s.modPort n f) := rfl

theorem State.raise_pins (s : State) (e : Fin 256) (sev unit det : Nat) : PinsOnly s (s.raise e sev unit det) := by
  unfold State.raise
  dsimp only
  exact .ite rfl rfl

theorem State.drive_pins (s : State) (n : Fin 128) (txe : Bool) (l : Level) : PinsOnly s (s.drive n txe l) := by
  unfold State.drive
  exact .ite rfl rfl

theorem State.setLink_pins (s : State) (n : Fin 128) (l : Link) : PinsOnly s (s.setLink n l) := by
  unfold State.setLink State.raiseDie
  exact .ite rfl (.ite rfl ((s.modPort_pins n _).trans (State.raise_pins _ _ _ _ _)))

theorem State.drives_pins (s : State) (n : Fin 128) (a b : Level) : PinsOnly s ((s.drive n false a).drive n true b) :=
  (s.drive_pins n false a).trans (State.drive_pins _ n true b)

theorem State.refreshPort_pins (s : State) (n : Fin 128) : PinsOnly s (s.refreshPort n) := by
  unfold State.refreshPort
  refine PinsOnly.trans (t := if s.portOn n && s.portSafe n then s.modPort n fun p => { p with test := none } else s)
    (.ite rfl rfl) ?_
  generalize (if s.portOn n && s.portSafe n then s.modPort n fun p => { p with test := none } else s) = u
  refine PinsOnly.trans ?_ (State.setLink_pins _ _ _)
  exact .ite (u.drives_pins _ _ _) (.ite (u.drives_pins _ _ _) (.ite (.ite (u.drives_pins _ _ _) (u.drives_pins _ _ _))
    (.ite (u.drives_pins _ _ _) (.ite rfl (.ite (u.drives_pins _ _ _) (u.drive_pins _ _ _))))))

theorem State.refreshPorts_pins (s : State) : PinsOnly s s.refreshPorts := .foldl (fun s n => s.refreshPort_pins n) _ s

theorem State.endScan_pins (s : State) (old m : Mode) : PinsOnly s (s.endScan old m) := .ite rfl rfl

/-- The device in another mode, its ports still as they were. -/
def State.inMode (s : State) (m : Mode) (err : Bool) : State :=
  { s with rsc := { s.rsc with
      mode := m, enteredNs := s.stampNs, enteredS := s.stampS
      errorN := if m = Mode.safe then err else false } }

/-- The entry to a mode: its ports follow. -/
theorem State.enterMode_pins {s : State} {m : Mode} (h : s.rsc.mode ≠ m) (err : Bool) :
    PinsOnly (s.inMode m err) (s.enterMode m err) := by
  unfold State.enterMode
  rw [if_neg h]
  exact ((State.raise_pins _ _ _ _ _).trans (State.refreshPorts_pins _)).trans (State.endScan_pins _ _ _)

/-- What the start of a test function leaves but for the pins: READY has become RUN. -/
theorem State.startedFunction_pins (s : State) : ∃ r : Rescue, PinsOnly { s with rsc := r } s.startedFunction ∧
    r.mode = if s.rsc.mode = .ready then .run else s.rsc.mode := by
  unfold State.startedFunction
  split
  case isTrue h => exact ⟨_, State.enterMode_pins (by rw [h]; decide) false, rfl⟩
  case isFalse => exact ⟨_, PinsOnly.refl s, rfl⟩

end Sys2Proof.Machine
end


section
/-! SUPPORT. The start instant and the WORK commands (spec/02_command_interface.md, R45; spec/19_command_reference.md, R481 to R486). -/

namespace Sys2Proof.Machine

/-- Entries of a vector changed, each once. -/
def changeAll {α : Type} {n : Nat} (l : List (Fin n)) (f : α → α) (v : Vector α n) : Vector α n := l.foldl (fun v i => upd v i f) v

theorem forAll_modWorker (l : List (Fin 32)) (f : Worker → Worker) (s : State) :
    forAll l (fun w s => s.modWorker w f) s = { s with workers := changeAll l f s.workers } := by
  induction l generalizing s with
  | nil => rfl
  | cons w l ih => exact ih _

theorem changeAll_get {α : Type} {n : Nat} {l : List (Fin n)} (hl : l.Nodup) (f : α → α) (v : Vector α n) (j : Fin n) :
    (changeAll l f v)[j.val] = if j ∈ l then f v[j.val] else v[j.val] := by
  induction l generalizing v with
  | nil => simp [changeAll]
  | cons i l ih =>
    obtain ⟨hi, hl⟩ := List.nodup_cons.mp hl
    refine (ih hl (upd v i f)).trans ?_
    by_cases hj : j = i
    · subst j
      simp [hi]
    · simp [hj, upd_get_other v i j f (Ne.symm hj)]

theorem workersOf_nodup (m : Nat) : (workersOf m).Nodup := (List.nodup_finRange 32).filter _

theorem activeOf_nodup (s : State) (m : Nat) : (s.activeOf m).Nodup := (workersOf_nodup m).filter _

/-! The start instant (R45, R483, R484). -/

/-- A Worker whose start instant has come (R483; 11, R331): its stamps, and `vwait` START where no group of it is armed. -/
def Worker.startsAt (k : Worker) (ns sec : BitVec 32) : Worker :=
  { k with startNs := ns, startS := sec, started := k.started || !k.armed }

/-- The Workers of a start have started, and it waits no longer. -/
def State.startsNow (s : State) (x : Start) : State :=
  { s with
    workers := changeAll (workersOf x.workers.toNat)
      (fun k => k.startsAt (stampNsOf (s.startStamp x)) (stampSOf (s.startStamp x))) s.workers
    starts := s.starts.filter fun y => !sameKey y.key x.key }

section
variable {s : State} {k : JobKey} {x : Start} {j : Job}
  (hx : s.starts.find? (fun y => sameKey y.key k && y.strobed && y.tick.isSome) = some x) (hj : s.job? k = some j)
include hx hj

/-- A start whose checks pass at its instant: its Workers start, and its command commits. -/
theorem exec_startInstant_starts (hc : workStartCheck s x.workers.toNat false = none) : exec (.startInstant k) s =
    .next ((s.startsNow x).commitDone j (s.startResult x x.workers.toNat)).startedFunction := by
  show execStartInstant k s = _
  simp only [execStartInstant, hx, hj, hc, forAll_modWorker]
  rfl

/-- A start whose checks fail at its instant is dropped and refused. -/
theorem exec_startInstant_fails {v : Verdict} (hc : workStartCheck s x.workers.toNat false = some v) :
    exec (.startInstant k) s = .next ((s.dropStart x).refuse j v) := by
  show execStartInstant k s = _
  simp only [execStartInstant, hx, hj, hc]

end

theorem startResult_whole (s : State) (x : Start) : s.startResult x x.workers.toNat =
    [x.workers, BitVec.ofNat 32 (packBools ((allFin 16).map fun g => x.groups.contains g) + x.ramp * 2 ^ 16),
      stampNsOf (s.startStamp x), stampSOf (s.startStamp x)] := by
  rw [State.startResult, BitVec.ofNat_toNat, BitVec.setWidth_eq]

/-- A job that ends with its results on the PCIe path, as `Ended` says it. -/
theorem commitDone_ended {s t : State} {j : Job} (hk : j.key.path = .pcie) (hd : j.discard = false) (ha : t.abortAsked j.key = false)
    (hjobs : t.queen.jobs = s.queen.jobs) (hreplies : t.queen.replies = s.queen.replies) (result : Words) :
    EndedDone j s (t.commitDone j result) result := by
  rw [State.commitDone, commitRaw_pcie _ _ _ _ hk hd ha]
  exact ⟨⟨_, by rw [hreplies], rfl, rfl, rfl⟩, by rw [← hjobs]⟩

theorem Ended.pins {j : Job} {s t u : State} {st : Status} {mask : BitVec 64} {body : Words} (h : Ended j s t st mask body) {r : Rescue}
    (hp : PinsOnly { t with rsc := r } u) : Ended j s u st mask body := by
  obtain ⟨⟨q, hq, hk, hh, hw⟩, hjobs⟩ := h
  rw [show u = _ from hp]
  exact ⟨⟨q, hq, hk, hh, hw⟩, hjobs⟩

/-! The other WORK commands (R481, R485, R486). -/

/-- A Worker whose window setting a packet gives (R481). -/
def Worker.withWindow (p : Pkt) (k : Worker) : Worker :=
  { k with window := { k.window with
    setEn := param p 32 0 1 = 1, setBase := BitVec.ofNat 48 (param p 40 0 48), setLen := BitVec.ofNat 32 (param p 48 0 32) } }

/-- A Worker with line 0 pending (R485). -/
def Worker.signalled (k : Worker) : Worker := { k with regs := { k.regs with wipend := k.regs.wipend ||| 1 } }

/-- A Worker that is to stop at its next boundary (R485). -/
def Worker.toStop (k : Worker) : Worker := { k with stopJob := true }

section
variable {s : State} {p : Pkt}

theorem workStreamSet_ends (h : Accepted cmdWorkStreamSet p s) : ∃ q, exec (.workStreamSet p) s = .next
      { (begun cmdWorkStreamSet p s).modWorker (Fin.ofNat 32 p.unit.toNat) (Worker.withWindow p) with queen := q } ∧
    Completed cmdWorkStreamSet p s
      { (begun cmdWorkStreamSet p s).modWorker (Fin.ofNat 32 p.unit.toNat) (Worker.withWindow p) with queen := q } [] := by
  have hargs : (begunJob cmdWorkStreamSet p).args = p.block :=
    begunJob_args (by simp [CmdDef.Unclamped, cmdWorkStreamSet, CmdDef.plain, Field.applied])
  have hw : Worker.withWindow p = fun k => { k with window := { k.window with
      setEn := fld (begunJob cmdWorkStreamSet p).args 32 0 1 = 1
      setBase := BitVec.ofNat 48 (fld (begunJob cmdWorkStreamSet p).args 40 0 48)
      setLen := BitVec.ofNat 32 (fld (begunJob cmdWorkStreamSet p).args 48 0 32) } } := by
    rw [hargs]
    rfl
  obtain ⟨q, hx, hc⟩ := fetch_ends
    (u := (begun cmdWorkStreamSet p s).modWorker (Fin.ofNat 32 p.unit.toNat) (Worker.withWindow p)) h (by rw [hw]; rfl) rfl rfl
  exact ⟨q, congrArg Host.Outcome.next hx, hc⟩

theorem workStop_args (p : Pkt) : (begunJob cmdWorkStop p).args = p.block :=
  begunJob_args (by simp [CmdDef.Unclamped, cmdWorkStop, CmdDef.plain, Field.applied])

theorem workStop_named (p : Pkt) (s : State) :
    (begun cmdWorkStop p s).activeOf (fld (begunJob cmdWorkStop p).args 32 0 32) = s.activeOf (param p 32 0 32) := by
  rw [workStop_args]
  rfl

theorem workStop_none (h : Accepted cmdWorkStop p s) (hn : s.activeOf (param p 32 0 32) = []) : ∃ q,
    exec (.workStop p) s = .next { begun cmdWorkStop p s with queen := q } ∧
      Completed cmdWorkStop p s { begun cmdWorkStop p s with queen := q } [0] := by
  have ha : cmdWorkStop.act (begunJob cmdWorkStop p) (begun cmdWorkStop p s) = .done (begun cmdWorkStop p s) [0] := by
    show workStopAct _ _ = _
    simp only [workStopAct, workStop_named, hn, List.isEmpty_nil, if_true]
  obtain ⟨q, hx, hc⟩ := fetch_ends h ha rfl rfl
  exact ⟨q, congrArg Host.Outcome.next hx, hc⟩

/-- Of Workers that run none stops at once. -/
theorem stop_running (l : List (Fin 32)) {s : State} (hr : ∀ v ∈ l, s.workers[v.val].st = .running) :
    forAll l (fun w s => if s.workers[w.val].st = .halted then s.stopWorker w 3
      else s.modWorker w fun k => { k with stopJob := true }) s = { s with workers := changeAll l Worker.toStop s.workers } := by
  induction l generalizing s with
  | nil => rfl
  | cons w l ih =>
    have hw : ¬ s.workers[w.val].st = .halted := by
      rw [hr w List.mem_cons_self]
      decide
    have hr' : ∀ v ∈ l, (s.modWorker w Worker.toStop).workers[v.val].st = .running := fun v hv => by
      by_cases h : v = w
      · subst v
        exact (congrArg Worker.st (upd_get_same _ _ _)).trans (hr w List.mem_cons_self)
      · exact (congrArg Worker.st (upd_get_other _ _ _ _ (Ne.symm h))).trans (hr v (List.mem_cons_of_mem _ hv))
    refine Eq.trans (congrArg (List.foldl _ · l) (if_neg hw)) ?_
    exact ih hr'

/-- A `WORK_STOP` waits for the stop of Workers (R485). -/
def State.awaitStop (s : State) (h : JobKey × BitVec 32 × BitVec 32) : State :=
  { s with queen := { s.queen with stopJobs := s.queen.stopJobs ++ [h] } }

/-- A stop of Workers that all run: each stops at its next boundary, and the command waits for them. -/
theorem workStop_waits (h : Accepted cmdWorkStop p s) (hn : s.activeOf (param p 32 0 32) ≠ [])
    (hr : ∀ v ∈ s.activeOf (param p 32 0 32), s.workers[v.val].st = .running) : ∃ e,
    exec (.workStop p) s = .next { (begun cmdWorkStop p s).awaitStop e with
      workers := changeAll (s.activeOf (param p 32 0 32)) Worker.toStop s.workers } := by
  have hl := workStop_named p s
  have hne : (s.activeOf (param p 32 0 32)).isEmpty = false := by simpa using hn
  have hstop e := stop_running (s := (begun cmdWorkStop p s).awaitStop e) _ hr
  have ha : ∃ e, cmdWorkStop.act (begunJob cmdWorkStop p) (begun cmdWorkStop p s) = .stay { (begun cmdWorkStop p s).awaitStop e with
      workers := changeAll (s.activeOf (param p 32 0 32)) Worker.toStop s.workers } := by
    show ∃ e, workStopAct _ _ = _
    simp only [workStopAct, hl, hne, Bool.false_eq_true, if_false]
    exact ⟨_, congrArg Act.stay (hstop _)⟩
  obtain ⟨e, ha⟩ := ha
  exact ⟨e, congrArg Host.Outcome.next (fetch_stay h ha)⟩

theorem workSignal_ends (h : Accepted cmdWorkSignal p s) : ∃ q,
    exec (.workSignal p) s = .next { begun cmdWorkSignal p s with
      queen := q, workers := changeAll (s.activeOf (param p 32 0 32)) Worker.signalled s.workers } ∧
    Completed cmdWorkSignal p s { begun cmdWorkSignal p s with
      queen := q, workers := changeAll (s.activeOf (param p 32 0 32)) Worker.signalled s.workers }
      [BitVec.ofNat 32 (maskOf (s.activeOf (param p 32 0 32)))] := by
  have hargs : (begunJob cmdWorkSignal p).args = p.block :=
    begunJob_args (by simp [CmdDef.Unclamped, cmdWorkSignal, CmdDef.plain, Field.applied])
  have hl : (begun cmdWorkSignal p s).activeOf (fld (begunJob cmdWorkSignal p).args 32 0 32) = s.activeOf (param p 32 0 32) := by
    rw [hargs]
    rfl
  have ha : cmdWorkSignal.act (begunJob cmdWorkSignal p) (begun cmdWorkSignal p s) =
      .done { begun cmdWorkSignal p s with
        workers := changeAll (s.activeOf (param p 32 0 32)) Worker.signalled s.workers }
        [BitVec.ofNat 32 (maskOf (s.activeOf (param p 32 0 32)))] := by
    rw [← hl]
    exact congrArg (fun u => Act.done u _) (forAll_modWorker _ _ _)
  obtain ⟨q, hx, hc⟩ := fetch_ends h ha rfl rfl
  exact ⟨q, congrArg Host.Outcome.next hx, hc⟩

theorem workStatus_ends (h : Accepted cmdWorkStatus p s) : ∃ q,
    exec (.workStatus p) s = .next { begun cmdWorkStatus p s with queen := q } ∧
      Completed cmdWorkStatus p s { begun cmdWorkStatus p s with queen := q }
        ((workersOf (param p 32 0 32)).flatMap s.workRecord) := by
  have hargs : (begunJob cmdWorkStatus p).args = p.block :=
    begunJob_args (by simp [CmdDef.Unclamped, cmdWorkStatus, CmdDef.plain, Field.applied])
  obtain ⟨q, hx, hc⟩ := fetch_ends (u := begun cmdWorkStatus p s) (result := (workersOf (param p 32 0 32)).flatMap s.workRecord) h
    (by rw [param, ← hargs]; rfl) rfl rfl
  exact ⟨q, congrArg Host.Outcome.next hx, hc⟩

end

/-- Settles O27: the start instant by its checks, a start that fails by what stops its Workers, the other commands by their effects. -/
theorem startsAndWorkCommands : Obligations.StartsAndWorkCommands := by
  refine ⟨fun s k x j hx hj hk he => ?instant, fun s p => ?commands⟩
  case instant =>
    intro stamp
    refine ⟨fun hc => ⟨_, exec_startInstant_starts hx hj hc, ?_⟩, fun v hc hs hh hw => ?_⟩
    · obtain ⟨r, hp, hm⟩ := ((s.startsNow x).commitDone j (s.startResult x x.workers.toNat)).startedFunction_pins
      have hraw : (s.startsNow x).commitDone j (s.startResult x x.workers.toNat) = _ :=
        commitRaw_pcie _ _ _ _ he.path he.kept he.calm
      have ht : State.startedFunction _ = _ := hp
      refine ⟨?_, ?_, ?_, fun w => ?_⟩
      · have hend := Ended.pins (commitDone_ended (s := s) (t := s.startsNow x) he.path he.kept he.calm rfl rfl _) hp
        rw [startResult_whole] at hend
        rw [startResult_whole]
        exact hend
      · rw [ht]
        rw [hraw] at hm
        exact hm
      · rw [ht, hraw]
        rfl
      · rw [ht, hraw]
        refine (changeAll_get (workersOf_nodup _) _ s.workers w).trans ?_
        simp only [mem_workersOf]
        rfl
    · have hc' := dropStart_calm hs hh hw x
      have ha : (s.dropStart x).abortAsked j.key = false := by
        rw [State.abortAsked, hc'.jobs]
        exact he.calm
      have hraw : (s.dropStart x).refuse j v = _ := commitRaw_pcie v.status v.idx 0 [] he.path he.kept ha
      refine ⟨_, ⟨j.key, replyWords (s.dropStart x) j.p.opcode j.key.tag v.status v.idx j.late 0 [], true, j.after⟩,
        exec_startInstant_fails hx hj hc, ?_, hk, ?_, fun w hw hact => ?_⟩
      · rw [hraw, hc'.replies]
      · rw [hraw, ← hk]
        rfl
      · rw [hraw]
        exact (hc'.workers w).2.trans (if_pos (List.mem_filter.mpr ⟨mem_workersOf.mpr hw, hact⟩))
  case commands =>
    intro w named
    have changed (f : Worker → Worker) := changeAll_get (activeOf_nodup s (param p 32 0 32)) f s.workers
    refine ⟨fun h => ?stream, fun h hn => ?none_, fun h hn hr => ?stop, fun h => ?signal, fun h => ?status⟩
    case stream =>
      obtain ⟨q, hx, hc⟩ := workStreamSet_ends h
      exact ⟨_, hx, hc, rfl, upd_get_same _ _ _, fun v hv => upd_get_other _ _ _ _ hv.symm⟩
    case none_ =>
      obtain ⟨q, hx, hc⟩ := workStop_none h hn
      exact ⟨_, hx, hc, rfl⟩
    case stop =>
      obtain ⟨l, hx⟩ := workStop_waits h hn hr
      obtain ⟨hjob, hreplies, hring⟩ := stillRuns_of h (u := begun cmdWorkStop p s) rfl rfl
      exact ⟨_, hx, ⟨hjob, hreplies, hring⟩, rfl, changed _⟩
    case signal =>
      obtain ⟨q, hx, hc⟩ := workSignal_ends h
      exact ⟨_, hx, hc, rfl, changed _⟩
    case status =>
      obtain ⟨q, hx, hc⟩ := workStatus_ends h
      exact ⟨_, hx, hc, rfl⟩

end Sys2Proof.Machine
end


section
/-! SUPPORT. The SYS commands that read, and `SYS_ABORT` (spec/02_command_interface.md, R48 to R51; spec/19_command_reference.md,
R474 to R478). -/

namespace Sys2Proof.Machine

/-! The commands that read (R474, R476 to R478). -/

/-- A command that only reads replies its body and changes nothing else. -/
theorem fetch_reads {d : CmdDef} {p : Pkt} {s : State} {body : Words} (h : Accepted d p s)
    (ha : d.act (begunJob d p) (begun d p s) = .done (begun d p s) body) :
    Completed d p s (d.fetch p s) body ∧
      d.fetch p s = { s with queen := (d.fetch p s).queen, hif := (d.fetch p s).hif } := by
  obtain ⟨q, hx, hc⟩ := fetch_ends h ha rfl rfl
  rw [hx]
  exact ⟨hc, rfl⟩

/-- The tags of another path are those before a packet of the ring was taken. -/
theorem begun_tagsOn {d : CmdDef} {p : Pkt} {s : State} (h : Passes d p s) {on : Path → Bool} (hon : on .pcie = false) :
    (begun d p s).tagsOn on = s.tagsOn on := by
  rw [begun_eq h]
  simp [State.tagsOn, List.filter_append, begunJob, applyJob, Job.fresh, hon]

/-- A packet that runs is not scheduled. -/
theorem begun_scheduledCount {d : CmdDef} {p : Pkt} {s : State} (h : Passes d p s) :
    (begun d p s).scheduledCount = s.scheduledCount := by
  rw [begun_eq h]
  simp [State.scheduledCount, List.filter_append, begunJob]

theorem identifyBody_first (s : State) : s.identifyBody.getD 0 0 = 0x41280101 := by
  simp [State.identifyBody, hifId]

section
variable {s : State} {p : Pkt}

theorem begun_inventoryBody (d : CmdDef) (p : Pkt) (s : State) : (begun d p s).inventoryBody = s.inventoryBody := rfl

theorem sysStatus_body (h : Accepted cmdSysStatus p s) : (begun cmdSysStatus p s).statusBody =
    [(begun cmdSysStatus p s).hifStatus, (begun cmdSysStatus p s).rscStatus, s.rscCause, s.rscBoot, (begun cmdSysStatus p s).hifTags,
      BitVec.ofNat 32 (s.scheduledCount % 256 + s.tagsOn Path.isFwd % 256 * 2 ^ 8 + s.ev.latch.length * 2 ^ 16),
      s.stampNs, s.tb0.sec.setWidth 32, s.tbState 0, s.rscVin, s.pwrFlags,
      BitVec.ofNat 32 (packBools ((allFin 32).map fun w =>
        s.workers[w.val].active && !s.net.dies[(workerDie w).val].fenced))] := by
  rw [State.statusBody, begun_scheduledCount h.toPasses, State.forwardedCount, begun_tagsOn h.toPasses rfl]
  rfl

end

/-! What `SYS_ABORT` refuses (R51). -/

theorem sysAbort_row : ((.sysAbort, cmdSysAbort) : (Pkt → Instr) × CmdDef) ∈ commandRows := by
  simp [commandRows]

section
variable {s : State} {p : Pkt} (h : Fetched cmdSysAbort p s) (hv : p.version = 1) (hl : p.length = 36)
  (ht : p.target = s.swarm.id ∨ p.target = 0xFF) (hu : p.unit = 0) (hb : p.headerBad = false)
include h hv hl ht hu

/-- A `SYS_ABORT` with an instant is refused. -/
theorem sysAbort_timed (he : p.execAt ≠ 0) : RefusedWith p s (cmdSysAbort.fetch p s) ⟨stBadParam, 0xFE⟩ := by
  obtain ⟨-, -, -, hheader, -⟩ := packetsAreChecked.2.2 s p _ sysAbort_row h
  obtain ⟨t, hx, hr⟩ := hheader hv ⟨by simp [Pkt.lengthUsable, hl], by rw [hl]; rfl⟩ ⟨ht, by rw [hu]; exact Nat.zero_le _⟩
    (by simp [cmdSysAbort, he])
  obtain rfl : cmdSysAbort.fetch p s = t := Host.Outcome.next.inj hx
  exact hr

include hb in
/-- A `SYS_ABORT` that names the tag of another is refused. -/
theorem sysAbort_named (he : p.execAt = 0) (hf : reservedFails (cmdSysAbort.fields p) p.block = [])
    (hn : (taken p s).namesAbort ⟨.pcie, BitVec.ofNat 16 (fld p.block 32 0 16)⟩ = true) :
    RefusedWith p s (cmdSysAbort.fetch p s) ⟨stBadParam, 0⟩ := by
  obtain ⟨-, -, -, -, hparams, -⟩ := packetsAreChecked.2.2 s p _ sysAbort_row h
  have hnaming : cmdSysAbort.naming (taken p s) .pcie p = [0] := if_pos hn
  have hbad : namingFails (cmdSysAbort.fields p) p.block ++ reservedFails (cmdSysAbort.fields p) p.block ++
      cmdSysAbort.naming (taken p s) .pcie p = [0] := by
    rw [hf, hnaming]
    rfl
  dsimp only at hparams
  rw [hbad] at hparams
  obtain ⟨t, hx, hr⟩ := hparams hv ⟨by simp [Pkt.lengthUsable, hl], by rw [hl]; rfl⟩ ⟨ht, by rw [hu]; exact Nat.zero_le _⟩
    ⟨hb, by simp [cmdSysAbort, he]⟩ 0 (by simp) (by simp)
  obtain rfl : cmdSysAbort.fetch p s = t := Host.Outcome.next.inj hx
  exact hr

end

/-! The command that `SYS_ABORT` names (R48, R49, R475). -/

theorem sameKey_pcie (a b : BitVec 16) : sameKey ⟨.pcie, a⟩ ⟨.pcie, b⟩ = decide (a = b) := by
  simp [sameKey]

/-- What a `SYS_ABORT` names is held as before it was taken. -/
theorem begun_job? {d : CmdDef} {p : Pkt} {s : State} (h : Passes d p s) {tag : BitVec 16} (hk : tag ≠ p.tag) :
    (begun d p s).job? ⟨.pcie, tag⟩ = s.job? ⟨.pcie, tag⟩ := by
  have hown : sameKey (begunJob d p).key ⟨.pcie, tag⟩ = false := (sameKey_pcie _ _).trans (decide_eq_false hk.symm)
  rw [begun_eq h]
  simp [State.job?, List.find?_append, hown]

theorem sysAbort_args (p : Pkt) : (begunJob cmdSysAbort p).args = p.block :=
  begunJob_args (by simp [CmdDef.Unclamped, cmdSysAbort, CmdDef.plain, Field.applied])

/-- The key that a `SYS_ABORT` of the ring names. -/
def abortKey (p : Pkt) : JobKey := ⟨.pcie, BitVec.ofNat 16 (param p 32 0 16)⟩

/-- A job has stopped `ABORTED` with this clamp mask and body, and the `SYS_ABORT` that named it is done: both have replied, in this
order, and hold no tag but by their replies. -/
def AbortedBy (p : Pkt) (s t : State) (j : Job) (mask : BitVec 64) (body : Words) : Prop :=
  ∃ r q, t.queen.replies = s.queen.replies ++ [r, q] ∧ r.key = abortKey p ∧
    r.words = replyWords t j.p.opcode (abortKey p).tag stAborted 0xFF j.late mask body ∧
    q.key = ⟨.pcie, p.tag⟩ ∧ q.words = replyWords t p.opcode p.tag stDone 0xFF false 0 p.block ∧
    t.queen.jobs = s.queen.jobs.filter fun i => !sameKey i.key (abortKey p)

/-- The jobs, the replies and what replies are made of are the same. -/
structure AtDesk (s t : State) : Prop where
  jobs    : t.queen.jobs = s.queen.jobs
  replies : t.queen.replies = s.queen.replies
  tb      : t.tb = s.tb
  swarm   : t.swarm = s.swarm

theorem AtDesk.refl (s : State) : AtDesk s s := ⟨rfl, rfl, rfl, rfl⟩

theorem Calm.desk {free : Fin 32 → Prop} {s t : State} {f : Fin 32 → WSt} (h : Calm free s f t) : AtDesk s t := ⟨h.jobs, h.replies, h.tb, h.swarm⟩

section
variable {s : State} {p : Pkt} (h : Accepted cmdSysAbort p s) (hk : abortKey p ≠ ⟨.pcie, p.tag⟩)
include h

omit h in
theorem sysAbort_mask (p : Pkt) : (begunJob cmdSysAbort p).mask = 0 :=
  clamped_unclamped (by simp [CmdDef.Unclamped, cmdSysAbort, CmdDef.plain, Field.applied])

/-- The `SYS_ABORT` commits, with the other jobs that there then are. -/
theorem sysAbort_commits {l : List Job} {v : State} (hv : v.queen.jobs = l ++ [begunJob cmdSysAbort p])
    (hl : ∀ i ∈ l, i ∈ s.queen.jobs) (st : Status) : v.commitClose (begunJob cmdSysAbort p) ⟨st, 0xFF⟩ true [] =
      { v with queen := { v.queen with
          jobs := l
          replies := v.queen.replies ++
            [⟨⟨.pcie, p.tag⟩, replyWords v p.opcode p.tag st 0xFF false 0 p.block, true, .nothing⟩] } } := by
  have hend : echoEndOf (begunJob cmdSysAbort p).p.opcode = none := by
    rw [show (begunJob cmdSysAbort p).p.opcode = 0x0003 from h.code]
    rfl
  have hn : v.abortAsked (begunJob cmdSysAbort p).key = false := by
    have hc := h.calm
    simp only [State.abortAsked, List.any_eq_false] at hc
    simp only [State.abortAsked, hv, List.any_append, Bool.or_eq_false_iff, List.any_eq_false]
    exact ⟨fun a ha => hc a (hl a ha), by simp [begunJob, Job.awaits]⟩
  have hown : sameKey (begunJob cmdSysAbort p).key (begunJob cmdSysAbort p).key = true := sameKey_self _
  have hf : (v.queen.jobs.filter fun i => !sameKey i.key (begunJob cmdSysAbort p).key) = l := by
    rw [hv, List.filter_append, List.filter_eq_self.mpr fun i hi => by
      rw [show sameKey i.key (begunJob cmdSysAbort p).key = false from jobs_free h.free i (hl i hi)]
      rfl]
    simp [hown]
  rw [State.commitClose, if_pos rfl, commitRaw_pcie _ _ _ _ rfl rfl hn, hf, sysAbort_mask, hend, sysAbort_args]
  simp only [echoOf, List.append_nil]
  rfl

omit h in
theorem sysAbort_done (v : State) :
    v.commitDone (begunJob cmdSysAbort p) [] = v.commitClose (begunJob cmdSysAbort p) ⟨stDone, 0xFF⟩ true [] := by
  rw [State.commitDone, State.commitClose, sysAbort_mask, if_pos rfl, if_pos rfl]

include hk

/-- A job that a `SYS_ABORT` ends leaves the other jobs and that of the `SYS_ABORT`. -/
theorem sysAbort_ends {u : State} (hu : AtDesk (begun cmdSysAbort p s) u) {j : Job} (hj : j.key = abortKey p)
    (hd : j.discard = false) (hc : s.abortAsked (abortKey p) = false) (mask : BitVec 64) (body : Words) :
    u.commitRaw j stAborted 0xFF mask body = { u with queen := { u.queen with
      jobs := (s.queen.jobs.filter fun i => !sameKey i.key (abortKey p)) ++ [begunJob cmdSysAbort p]
      replies := u.queen.replies ++
        [⟨abortKey p, replyWords u j.p.opcode (abortKey p).tag stAborted 0xFF j.late mask body, true, j.after⟩] } } := by
  have hjobs : u.queen.jobs = s.queen.jobs ++ [begunJob cmdSysAbort p] := hu.jobs.trans (begun_jobs h.toPasses)
  have hown : sameKey (begunJob cmdSysAbort p).key (abortKey p) = false :=
    (sameKey_pcie _ _).trans (decide_eq_false fun he => hk (by rw [abortKey, ← he]))
  have ha : u.abortAsked j.key = false := by
    rw [hj, State.abortAsked, hjobs, List.any_append, Bool.or_eq_false_iff]
    exact ⟨hc, by simp [begunJob, Job.awaits]⟩
  rw [commitRaw_pcie _ _ _ _ (congrArg JobKey.path hj :) hd ha, hj, hjobs, List.filter_append]
  simp [hown]

/-- A job that a `SYS_ABORT` stops, whatever then follows that leaves jobs and replies. -/
theorem sysAbort_stops {u v : State} (hu : AtDesk (begun cmdSysAbort p s) u) {j : Job} (hj : j.key = abortKey p)
    (hd : j.discard = false) (hc : s.abortAsked (abortKey p) = false) {mask : BitVec 64} {body : Words}
    (hv : AtDesk (u.commitRaw j stAborted 0xFF mask body) v)
    (ha : cmdSysAbort.act (begunJob cmdSysAbort p) (begun cmdSysAbort p s) = .done v []) :
    ∃ q, exec (.sysAbort p) s = .next { v with queen := q } ∧ AbortedBy p s { v with queen := q } j mask body := by
  rw [sysAbort_ends h hk hu hj hd hc] at hv
  obtain ⟨hjobs, hreplies, htb, hswarm⟩ := hv
  have hfetch : cmdSysAbort.fetch p s = v.commitDone (begunJob cmdSysAbort p) [] := by
    rw [fetch_accepted h, ha]
    rfl
  rw [sysAbort_done, sysAbort_commits h hjobs fun i hi => (List.mem_filter.mp hi).1] at hfetch
  have hbegun : (begun cmdSysAbort p s).queen.replies = s.queen.replies := by rw [begun_eq h.toPasses]
  refine ⟨_, congrArg Host.Outcome.next hfetch,
    ⟨abortKey p, replyWords u j.p.opcode (abortKey p).tag stAborted 0xFF j.late mask body, true, j.after⟩,
    ⟨⟨.pcie, p.tag⟩, replyWords v p.opcode p.tag stDone 0xFF false 0 p.block, true, .nothing⟩, ?_, rfl, ?_, rfl, rfl, rfl⟩
  · dsimp only
    rw [hreplies, hu.replies, hbegun, List.append_assoc]
    rfl
  · exact (replyWords_congr (s := u) htb (congrArg Swarm.id hswarm) _ _ _ _ _ _ _).symm

/-! What the named command comes to, by its phase. -/

variable {j : Job} (hj : s.job? (abortKey p) = some j)

omit h hk in
theorem abortKey_eq (p : Pkt) :
    (⟨(begunJob cmdSysAbort p).key.path, BitVec.ofNat 16 (fld (begunJob cmdSysAbort p).args 32 0 16)⟩ : JobKey) = abortKey p := by
  rw [sysAbort_args]
  rfl

theorem sysAbort_finds : (begun cmdSysAbort p s).job?
    ⟨(begunJob cmdSysAbort p).key.path, BitVec.ofNat 16 (fld (begunJob cmdSysAbort p).args 32 0 16)⟩ = s.job? (abortKey p) := by
  rw [abortKey_eq]
  exact begun_job? h.toPasses fun he => hk (congrArg (JobKey.mk .pcie) he)

theorem sysAbort_none (hn : s.job? (abortKey p) = none) : cmdSysAbort.act (begunJob cmdSysAbort p) (begun cmdSysAbort p s) =
    .close (begun cmdSysAbort p s) ⟨stAlready, 0xFF⟩ true [] := by
  show sysAbortAct _ _ = _
  simp only [sysAbortAct, sysAbort_finds h hk, hn]

include hj

theorem sysAbort_notBegun (hp : j.phase = .waiting ∨ j.phase = .memory ∨ ((∃ a, j.phase = .scheduled a) ∧ s.starts = [])) :
    cmdSysAbort.act (begunJob cmdSysAbort p) (begun cmdSysAbort p s) = .done ((begun cmdSysAbort p s).abortJob j) [] := by
  show sysAbortAct _ _ = _
  rcases hp with hp | hp | ⟨⟨a, hp⟩, hs⟩
  · simp only [sysAbortAct, sysAbort_finds h hk, hj, hp]
  · simp only [sysAbortAct, sysAbort_finds h hk, hj, hp]
  · simp only [sysAbortAct, sysAbort_finds h hk, hj, hp, State.abortStart, begun_starts, hs, List.find?_nil, Option.map_none,
      Option.getD_none]

theorem sysAbort_stopping (hp : j.phase = .running) {u : State} (hr : (begun cmdSysAbort p s).abortRunning j = some u) :
    cmdSysAbort.act (begunJob cmdSysAbort p) (begun cmdSysAbort p s) = .done u [] := by
  show sysAbortAct _ _ = _
  simp only [sysAbortAct, sysAbort_finds h hk, hj, hp, hr]

theorem sysAbort_starting (hp : ∃ a, j.phase = .scheduled a) {u : State} (hr : (begun cmdSysAbort p s).abortStart j = some u) :
    cmdSysAbort.act (begunJob cmdSysAbort p) (begun cmdSysAbort p s) = .done u [] := by
  obtain ⟨a, hp⟩ := hp
  show sysAbortAct _ _ = _
  simp only [sysAbortAct, sysAbort_finds h hk, hj, hp, hr, Option.getD_some]

/-- A command that runs and has no safe point here is waited for. -/
theorem sysAbort_waits (hp : j.phase = .running) (hr : (begun cmdSysAbort p s).abortRunning j = none)
    (hf : s.swarm.forwards = []) (hb : s.bist.run = none) : cmdSysAbort.act (begunJob cmdSysAbort p) (begun cmdSysAbort p s) =
    .stay ((begun cmdSysAbort p s).setJob { begunJob cmdSysAbort p with phase := .awaiting (abortKey p).tag }) := by
  show sysAbortAct _ _ = _
  have htag : BitVec.ofNat 16 (fld (begunJob cmdSysAbort p).args 32 0 16) = (abortKey p).tag := by
    rw [sysAbort_args]
    rfl
  simp only [sysAbortAct, sysAbort_finds h hk, hj, hp, hr]
  rw [htag]
  simp only [State.abortLater, State.setJob, begun_swarm, begun_bist, hf, hb, List.find?_nil, Option.any_none, Bool.false_eq_true,
    if_false]

end

theorem abortRunning_none (s : State) {j : Job}
    (hn : j.p.opcode ∉ ([0x0303, 0x0405, 0x0701, 0x0902, 0x0A03, 0x1007] : List (BitVec 16))) : s.abortRunning j = none := by
  have hne (n : Nat) (hn' : BitVec.ofNat 16 n ∈ ([0x0303, 0x0405, 0x0701, 0x0902, 0x0A03, 0x1007] : List (BitVec 16))) :
      j.p.opcode.toNat ≠ n := fun he => hn (by rwa [← he, BitVec.ofNat_toNat, BitVec.setWidth_eq] at hn')
  unfold State.abortRunning
  split
  · exact absurd ‹_› (hne _ (by decide))
  · exact absurd ‹_› (hne _ (by decide))
  · exact absurd ‹_› (hne _ (by decide))
  · exact absurd ‹_› (hne _ (by decide))
  · exact absurd ‹_› (hne _ (by decide))
  · exact absurd ‹_› (hne _ (by decide))
  · rfl

/-! A command that stops at once, by its opcode (R475, R484; 16, R437). -/

section
variable {s : State} {j : Job}

/-- The clock measurements without those of a command. -/
def State.dropMeasures (s : State) (k : JobKey) : State :=
  { s with clk := { s.clk with measures := s.clk.measures.filter fun m => !m.key.any (sameKey · k) } }

theorem abortRunning_measure (ho : j.p.opcode = 0x0303) : s.abortRunning j =
    some ((s.dropMeasures j.key).commitClose j ⟨stAborted, 0xFF⟩ true []) := by
  rw [State.abortRunning, ho]
  rfl

theorem abortRunning_readback (ho : j.p.opcode = 0x0405) {x : Readback}
    (hx : s.cfg.readbacks.find? (fun x => sameKey x.key j.key) = some x) :
    s.abortRunning j = some ((s.dropReadback x.key).commitClose j ⟨stAborted, 0xFF⟩ true x.words) := by
  rw [State.abortRunning, ho]
  exact congrArg (Option.map _) hx

theorem abortRunning_start (ho : j.p.opcode = 0x0701) : s.abortRunning j = s.abortStart j := by
  rw [State.abortRunning, ho]
  rfl

theorem abortStart_some {x : Start} (hx : s.starts.find? (fun x => sameKey x.key j.key) = some x) : s.abortStart j =
    some ((s.dropStart x).commitClose j ⟨stAborted, 0xFF⟩ true (s.startResult x (s.begun x))) := by
  rw [State.abortStart, hx]
  rfl

theorem abortRunning_solve (ho : j.p.opcode = 0x0902) : s.abortRunning j = some
    ((s.putSolve j.key fun _ => none).commitClose j ⟨stAborted, 0xFF⟩ true (s.solveWords (fld j.args 32 0 32))) := by
  rw [State.abortRunning, ho]
  rfl

theorem serveWaiting_none (hw : s.mem.waiting = []) : s.serveWaiting = s := by
  rw [State.serveWaiting, hw]
  show { s with mem := { s.mem with waiting := [] } } = s
  rw [← hw]

theorem abortRunning_rekey (ho : j.p.opcode = 0x0A03) {x : RekeyJob} (hx : s.mem.rekey = some x) (hb : x.begun = false)
    (hw : s.mem.waiting = []) : s.abortRunning j = some
    ((s.modMem fun m => { m with rekey := none }).commitClose j ⟨stAborted, 0xFF⟩ true []) := by
  rw [State.abortRunning, ho]
  show s.abortRekey j = _
  rw [State.abortRekey, hx]
  simp only [hb, Bool.false_eq_true, if_false]
  rw [serveWaiting_none (s := s.modMem fun m => { m with rekey := none }) hw]

theorem abortRunning_step (ho : j.p.opcode = 0x1007) : s.abortRunning j = some (s.abortStep j) := by
  rw [State.abortRunning, ho]
  rfl

end

/-- A start that is dropped, as commands see it that do not wait on a Worker. -/
theorem dropStart_desk {s : State} (hs : s.queen.stopJobs = []) (hh : s.dbg.haltJobs = [])
    (hw : ∀ w : Fin 32, s.workers[w.val].dbg.stepJob = none) (x : Start) : AtDesk s (s.dropStart x) :=
  have hc := dropStart_calm hs hh hw x
  ⟨hc.jobs, hc.replies, hc.tb, hc.swarm⟩

section
variable {s : State} {p : Pkt} (h : Accepted cmdSysAbort p s) (hk : abortKey p ≠ ⟨.pcie, p.tag⟩) {j : Job}
  (hj : s.job? (abortKey p) = some j) (hkey : j.key = abortKey p) (hd : j.discard = false) (hc : s.abortAsked (abortKey p) = false)
include h hk hj hkey hd hc

/-- An abort that stops a job at once, from the state `u` in which it commits. -/
theorem sysAbort_closes {u : State} (hu : AtDesk (begun cmdSysAbort p s) u) (hp : j.phase = .running) {body : Words}
    (hr : (begun cmdSysAbort p s).abortRunning j = some (u.commitClose j ⟨stAborted, 0xFF⟩ true body)) :
    ∃ q, exec (.sysAbort p) s = .next { u with queen := q } ∧
      AbortedBy p s { u with queen := q } j j.mask (echoOf (echoEndOf j.p.opcode) j.args ++ body) := by
  obtain ⟨q, hx, ha⟩ := sysAbort_stops h hk hu hkey hd hc (.refl _) (sysAbort_stopping h hk hj hp hr)
  rw [sysAbort_ends h hk hu hkey hd hc] at hx ha
  exact ⟨q, hx, ha⟩

end

end Sys2Proof.Machine
end


section
/-! SUPPORT. What `SYS_ABORT` makes of each command that it stops (spec/19_command_reference.md, R475). -/

namespace Sys2Proof.Machine

/-- A Worker whose `DBG_STEP` is aborted (16, R437). -/
def Worker.stepDropped (k : Worker) : Worker :=
  { k with dbg := { k.dbg with stepJob := none, stepLeft := none, causes := k.dbg.causes ||| 0b10000 } }


section
variable {s : State} {p : Pkt} (h : Accepted cmdSysAbort p s) (hk : abortKey p ≠ ⟨.pcie, p.tag⟩) {j : Job}
  (hj : s.job? (abortKey p) = some j) (hkey : j.key = abortKey p) (hd : j.discard = false) (hc : s.abortAsked (abortKey p) = false)
include h hk hj hkey hd hc

theorem sysAbort_measure (hp : j.phase = .running) (ho : j.p.opcode = 0x0303) : ∃ t, exec (.sysAbort p) s = .next t ∧
    AbortedBy p s t j j.mask (echoOf (echoEndOf j.p.opcode) j.args ++ []) ∧
    t.clk = { s.clk with measures := s.clk.measures.filter fun m => !m.key.any (sameKey · (abortKey p)) } := by
  obtain ⟨q, hx, ha⟩ := sysAbort_closes (u := (begun cmdSysAbort p s).dropMeasures j.key) h hk hj hkey hd hc ⟨rfl, rfl, rfl, rfl⟩ hp
    (abortRunning_measure ho)
  exact ⟨_, hx, ha, by rw [← hkey]; rfl⟩

theorem sysAbort_readback (hp : j.phase = .running) (ho : j.p.opcode = 0x0405) {x : Readback}
    (hf : s.cfg.readbacks.find? (fun x => sameKey x.key (abortKey p)) = some x) : ∃ t, exec (.sysAbort p) s = .next t ∧
    AbortedBy p s t j j.mask (echoOf (echoEndOf j.p.opcode) j.args ++ x.words) ∧
    ∀ y ∈ t.cfg.readbacks, sameKey y.key x.key = false := by
  rw [← hkey] at hf
  obtain ⟨q, hx, ha⟩ := sysAbort_closes (u := (begun cmdSysAbort p s).dropReadback x.key) h hk hj hkey hd hc ⟨rfl, rfl, rfl, rfl⟩ hp
    (abortRunning_readback (s := begun cmdSysAbort p s) ho hf)
  refine ⟨_, hx, ha, fun y hy => ?_⟩
  simpa using (List.mem_filter.mp hy).2

theorem sysAbort_solve (hp : j.phase = .running) (ho : j.p.opcode = 0x0902) : ∃ t, exec (.sysAbort p) s = .next t ∧
    AbortedBy p s t j j.mask (echoOf (echoEndOf j.p.opcode) j.args ++ (sitesOf (fld j.args 32 0 32)).flatMap s.siteSummary) ∧
    ∀ y ∈ t.brood.solves, sameKey y.key (abortKey p) = false := by
  obtain ⟨q, hx, ha⟩ := sysAbort_closes (u := (begun cmdSysAbort p s).putSolve j.key fun _ => none) h hk hj hkey hd hc
    ⟨rfl, rfl, rfl, rfl⟩ hp (abortRunning_solve (s := begun cmdSysAbort p s) ho)
  refine ⟨_, hx, ha, fun y hy => ?_⟩
  obtain ⟨z, hz, hy⟩ := List.mem_filterMap.mp hy
  rw [← hkey]
  split at hy
  · exact absurd hy (by simp)
  · obtain rfl := Option.some.inj hy
    exact Bool.eq_false_iff.mpr ‹_›

theorem sysAbort_rekey (hp : j.phase = .running) (ho : j.p.opcode = 0x0A03) {x : RekeyJob} (hx : s.mem.rekey = some x)
    (hb : x.begun = false) (hw : s.mem.waiting = []) : ∃ t, exec (.sysAbort p) s = .next t ∧
    AbortedBy p s t j j.mask (echoOf (echoEndOf j.p.opcode) j.args ++ []) ∧ t.mem = { s.mem with rekey := none } := by
  obtain ⟨q, hx, ha⟩ := sysAbort_closes (u := (begun cmdSysAbort p s).modMem fun m => { m with rekey := none }) h hk hj hkey hd hc
    ⟨rfl, rfl, rfl, rfl⟩ hp (abortRunning_rekey (s := begun cmdSysAbort p s) ho hx hb hw)
  exact ⟨_, hx, ha, rfl⟩

/-- A `DBG_STEP` stops: its Worker halts at once where it runs. -/
theorem sysAbort_step (hp : j.phase = .running) (ho : j.p.opcode = 0x1007) (hs : s.queen.stopJobs = []) (hh : s.dbg.haltJobs = [])
    {w : Fin 32} (hw : Fin.ofNat 32 j.p.unit.toNat = w) : ∃ t, exec (.sysAbort p) s = .next t ∧
      AbortedBy p s t j j.mask (echoOf (echoEndOf j.p.opcode) j.args ++ [BitVec.ofNat 32 s.workers[w.val].dbg.stepDone]) ∧
      t.workers[w.val].dbg.stepLeft = none ∧ (s.workers[w.val].st = .running → t.workers[w.val].st = .halted) := by
  let u := (begun cmdSysAbort p s).modWorker w Worker.stepDropped
  let v := u.commitClose j ⟨stAborted, 0xFF⟩ true [BitVec.ofNat 32 s.workers[w.val].dbg.stepDone]
  have hdesk : AtDesk (begun cmdSysAbort p s) u := ⟨rfl, rfl, rfl, rfl⟩
  have hv : v = _ := sysAbort_ends h hk hdesk hkey hd hc _ _
  have hworkers : v.workers = upd s.workers w Worker.stepDropped := by rw [hv]; rfl
  have hst : v.workers[w.val].st = s.workers[w.val].st := by rw [hworkers, upd_get_same]; rfl
  have hleft : v.workers[w.val].dbg.stepLeft = none := by rw [hworkers, upd_get_same]; rfl
  have hcalm : Calm (· = w) v v.wsts v := .refl (by rw [hv]; exact hs) (by rw [hv]; exact hh) fun x hx => by
    rw [hworkers, hx, upd_get_same]
    rfl
  have hr : (begun cmdSysAbort p s).abortRunning j = some (if v.workers[w.val].st = .running then v.haltWorker w else v) := by
    subst hw
    rw [abortRunning_step ho]
    rfl
  have hstop := sysAbort_stopping h hk hj hp hr
  by_cases hrun : s.workers[w.val].st = .running
  · rw [if_pos (hst.trans hrun)] at hstop
    obtain ⟨q, hx, ha⟩ := sysAbort_stops h hk hdesk hkey hd hc (hcalm.haltWorker rfl).desk hstop
    refine ⟨_, hx, ha, hcalm.haltWorker_stepLeft rfl, fun _ => ?_⟩
    exact ((hcalm.haltWorker rfl).workers w).2.trans (Function.update_self ..)
  · rw [if_neg (by rw [hst]; exact hrun)] at hstop
    obtain ⟨q, hx, ha⟩ := sysAbort_stops h hk hdesk hkey hd hc (.refl _) hstop
    exact ⟨_, hx, ha, hleft, fun hn => absurd hn hrun⟩

/-- A `WORK_START` stops before its instant: its Workers stop. -/
theorem sysAbort_start {x : Start} (hp : (j.phase = .running ∧ j.p.opcode = 0x0701) ∨ (∃ a, j.phase = .scheduled a))
    (hf : s.starts.find? (fun x => sameKey x.key (abortKey p)) = some x) (hs : s.queen.stopJobs = []) (hh : s.dbg.haltJobs = [])
    (hw : ∀ w : Fin 32, s.workers[w.val].dbg.stepJob = none) : ∃ t, exec (.sysAbort p) s = .next t ∧
      (∀ y ∈ t.starts, sameKey y.key x.key = false) ∧
      AbortedBy p s t j j.mask (echoOf (echoEndOf j.p.opcode) j.args ++ s.startResult x (s.begun x)) ∧
      ∀ w : Fin 32, x.workers.getLsbD w.val = true → s.workers[w.val].active = true → t.workers[w.val].st = .stopped := by
  rw [← hkey] at hf
  have hr := abortStart_some (s := begun cmdSysAbort p s) hf
  have hact : cmdSysAbort.act (begunJob cmdSysAbort p) (begun cmdSysAbort p s) =
      .done (((begun cmdSysAbort p s).dropStart x).commitClose j ⟨stAborted, 0xFF⟩ true (s.startResult x (s.begun x))) [] := by
    rcases hp with ⟨hp, ho⟩ | hp
    · exact sysAbort_stopping h hk hj hp ((abortRunning_start ho).trans hr)
    · exact sysAbort_starting h hk hj hp hr
  have hcalm := dropStart_calm (s := begun cmdSysAbort p s) hs hh hw x
  have hdesk : AtDesk (begun cmdSysAbort p s) ((begun cmdSysAbort p s).dropStart x) :=
    dropStart_desk (s := begun cmdSysAbort p s) hs hh hw x
  obtain ⟨q, hx, ha⟩ := sysAbort_stops h hk hdesk hkey hd hc (.refl _) hact
  rw [sysAbort_ends h hk hdesk hkey hd hc] at hx ha
  refine ⟨_, hx, fun y hy => ?_, ha, fun w hw hact => ?_⟩
  · have hy : y ∈ ((begun cmdSysAbort p s).dropStart x).starts := hy
    rw [hcalm.starts] at hy
    simpa using (List.mem_filter.mp hy).2
  · exact (hcalm.workers w).2.trans (if_pos (List.mem_filter.mpr ⟨mem_workersOf.mpr hw, hact⟩))

end

/-- A `SYS_ABORT` that finds nothing under its tag. -/
theorem sysAbort_alreadyDone {s : State} {p : Pkt} (h : Accepted cmdSysAbort p s) (hk : abortKey p ≠ ⟨.pcie, p.tag⟩)
    (hn : s.job? (abortKey p) = none) : ∃ t r, exec (.sysAbort p) s = .next t ∧ t = { s with queen := t.queen, hif := t.hif } ∧
      t.queen.replies = s.queen.replies ++ [r] ∧ r.key = ⟨.pcie, p.tag⟩ ∧ t.queen.jobs = s.queen.jobs ∧
      r.words = replyWords t p.opcode p.tag stAlready 0xFF false 0 p.block := by
  have hx : cmdSysAbort.fetch p s = (begun cmdSysAbort p s).commitClose (begunJob cmdSysAbort p) ⟨stAlready, 0xFF⟩ true [] := by
    rw [fetch_accepted h, sysAbort_none h hk hn]
    rfl
  rw [sysAbort_commits h (begun_jobs h.toPasses) (fun i hi => hi)] at hx
  refine ⟨_, ⟨⟨.pcie, p.tag⟩, replyWords (begun cmdSysAbort p s) p.opcode p.tag stAlready 0xFF false 0 p.block, true, .nothing⟩,
    congrArg Host.Outcome.next hx, rfl, ?_, rfl, rfl, rfl⟩
  rw [begun_eq h.toPasses]

/-- Settles O32: the reads by their bodies, the refusals by the order of the checks, an abort by what its tag names. -/
theorem sysCommands : Obligations.SysCommands := by
  refine ⟨fun s p => ?reads, fun s p h hv hl ht hu hb => ?refused, fun s p h => ?aborts⟩
  case reads =>
    intro same
    refine ⟨fun h => ?_, fun h => ?_, fun h => ?_, fun h => ?_, fun h => ?_⟩
    · obtain ⟨hc, hs⟩ := fetch_reads h rfl
      exact ⟨_, rfl, hc, hs⟩
    · obtain ⟨hc, hs⟩ := fetch_reads h rfl
      exact ⟨_, rfl, hc, hs, identifyBody_first s⟩
    · obtain ⟨hc, hs⟩ := fetch_reads h (congrArg (Act.done _) (begun_inventoryBody cmdSysInventory p s))
      exact ⟨_, rfl, hc, hs⟩
    · obtain ⟨hc, hs⟩ := fetch_reads h (congrArg (Act.done _) (sysStatus_body h))
      exact ⟨_, rfl, hs, hc⟩
    · obtain ⟨hc, hs⟩ := fetch_reads h rfl
      exact ⟨_, rfl, hs, hc⟩
  case refused =>
    refine ⟨fun he => ⟨_, rfl, sysAbort_timed h hv hl ht hu he⟩, fun j he hf hj ho => ⟨_, rfl, sysAbort_named h hv hl ht hu hb he hf ?_⟩,
      fun r hr he hf hh hk ho => ⟨_, rfl, sysAbort_named h hv hl ht hu hb he hf ?_⟩⟩
    · simp [State.namesAbort, hj, ho]
    · have hmem : r ∈ (taken p s).queen.replies ++ (taken p s).queen.i2cReplies := List.mem_append_left _ hr
      rw [State.namesAbort, Bool.or_eq_true, List.any_eq_true]
      exact .inr ⟨r, hmem, by rw [hh, hk, sameKey_self, ho]; rfl⟩
  case aborts =>
    intro k hk
    refine ⟨sysAbort_alreadyDone h hk, fun j hj hkey hp hd hc => ?_, fun j hj hkey hd hc => ?_, fun j hj hp ho hf hb => ?_⟩
    · have hact := sysAbort_notBegun h hk hj hp
      obtain ⟨q, hx, ha⟩ := sysAbort_stops h hk (.refl _) hkey hd hc (.refl _) hact
      have hraw : (begun cmdSysAbort p s).abortJob j = _ := sysAbort_ends h hk (.refl _) hkey hd hc 0 []
      rw [show State.commitRaw _ _ _ _ _ _ = _ from hraw] at hx ha
      obtain ⟨r, a, hreplies, hr, hw, ha, haw, hjobs⟩ := ha
      exact ⟨_, r, a, hx, rfl, hreplies, hr, hw, ha, haw, hjobs⟩
    · intro stopped calm
      refine ⟨sysAbort_measure h hk hj hkey hd hc, fun x hp ho hf => sysAbort_readback h hk hj hkey hd hc hp ho hf, fun x hp hx hcalm => ?_,
        sysAbort_solve h hk hj hkey hd hc, fun x hp ho hx hb hw =>
        sysAbort_rekey h hk hj hkey hd hc hp ho hx hb hw, fun hp ho hs hh =>
        sysAbort_step h hk hj hkey hd hc hp ho hs hh rfl⟩
      obtain ⟨hs, hh, hw⟩ := hcalm
      exact sysAbort_start h hk hj hkey hd hc hp hx hs hh hw
    · have hact := sysAbort_waits h hk hj hp (abortRunning_none _ ho) hf hb
      refine ⟨_, congrArg Host.Outcome.next (fetch_stay h hact), ?_, ?_⟩
      · rw [begun_eq h.toPasses]
        rfl
      · exact ⟨_, List.mem_map.mpr ⟨begunJob cmdSysAbort p, by rw [begun_jobs h.toPasses]; simp, if_pos (sameKey_self _)⟩, rfl, rfl⟩

end Sys2Proof.Machine
end


section
/-! SUPPORT. What a commit leaves alone (spec/02_command_interface.md, R40, R41, R48; spec/11_swarm_and_time.md, R326). -/

namespace Sys2Proof.Machine

/-- A relation that every step of a fold keeps. -/
theorem foldl_rel {ι : Type} {R : State → State → Prop} (refl : ∀ s, R s s) (trans : ∀ {s t u}, R s t → R t u → R s u)
    {f : State → ι → State} (hf : ∀ s i, R s (f s i)) (l : List ι) (s : State) : R s (l.foldl f s) :=
  List.foldlRecOn (motive := R s) l f (refl s) fun t ht i _ => trans ht (hf t i)

/-- Nothing has changed but what answers take: the Queen core's lists, the debug engine's mailbox and requests, the Laravo links and
what is put out. -/
def Answers (s t : State) : Prop := t = { s with queen := t.queen, dbg := t.dbg, swarm := t.swarm, out := t.out }

theorem Answers.refl (s : State) : Answers s s := rfl

theorem Answers.trans {s t u : State} (h : Answers s t) (k : Answers t u) : Answers s u :=
  Eq.trans k (by rw [show t = _ from h])

theorem Answers.foldl {ι : Type} {f : State → ι → State} (hf : ∀ s i, Answers s (f s i)) (l : List ι) (s : State) :
    Answers s (l.foldl f s) := foldl_rel .refl .trans hf l s

theorem Answers.iter {f : State → State} (hf : ∀ s, Answers s (f s)) (n : Nat) (s : State) : Answers s (iter f n s) := by
  induction n generalizing s with
  | zero => exact .refl s
  | succ n ih => exact (hf s).trans (ih _)

theorem State.modLink_answers (s : State) (l : Fin 16) (f : Laravo → Laravo) : Answers s (s.modLink l f) := rfl

theorem State.freeBuffer_answers (s : State) (p : TxPacket) : Answers s (s.freeBuffer p) := by
  unfold State.freeBuffer
  split <;> rfl

theorem State.sendOne_answers (s : State) (l : Fin 16) : Answers s (s.sendOne l) := by
  unfold State.sendOne
  dsimp only
  split
  · exact .refl s
  · split
    · exact .refl s
    · split
      · exact .refl s
      · refine Answers.trans ?_ (State.freeBuffer_answers _ _)
        rfl

theorem State.flushLink_answers (s : State) (l : Fin 16) : Answers s (s.flushLink l) := .iter (fun s => s.sendOne_answers l) _ s

theorem State.queuePacket_answers (s : State) (l : Fin 16) (p : TxPacket) : Answers s (s.queuePacket l p) :=
  (s.modLink_answers l _).trans (State.flushLink_answers _ l)

theorem State.sendRouted_answers (s : State) (vc : Nat) (dest : Byte) (data : Bytes) : Answers s (s.sendRouted vc dest data) := by
  unfold State.sendRouted
  split
  · exact .refl s
  · split
    · exact s.modLink_answers 0 _
    · refine .foldl (fun s f => ?_) _ s
      split
      · exact .refl s
      · exact s.queuePacket_answers _ _

theorem State.sendPath_answers (s : State) (vc : Nat) (dest : Byte) (way : BitVec 64) (data : Bytes) :
    Answers s (s.sendPath vc dest way data) := .foldl (fun s _ => s.queuePacket_answers _ _) _ s

theorem State.sendInnerReply_answers (s : State) (o : Byte) (l : Fin 16) (way : Option (BitVec 64)) (ws : Words) :
    Answers s (s.sendInnerReply o l way ws) := by
  unfold State.sendInnerReply
  split
  · exact s.sendPath_answers _ _ _ _
  · exact s.sendRouted_answers _ _ _

theorem State.pushReply_answers (s : State) (k : JobKey) (holds : Bool) (ws : Words) (after : After) :
    Answers s (s.pushReply k holds ws after) := by
  unfold State.pushReply
  dsimp only
  split
  · rfl
  · rfl
  · rfl
  · refine Answers.trans ?_ (State.sendInnerReply_answers _ _ _ _ _)
    rfl

theorem State.commitRaw_answers (s : State) (j : Job) (st : Status) (idx : Nat) (mask : BitVec 64) (body : Words) :
    Answers s (s.commitRaw j st idx mask body) := by
  unfold State.commitRaw
  refine Answers.trans (t := if j.discard then (s.dropJob j.key).mailDone j.key
    else (s.dropJob j.key).pushReply j.key true (replyWords s j.p.opcode j.key.tag st idx j.late mask body) j.after) ?_
    (.foldl (fun s a => ?_) _ _)
  · split
    · rfl
    · exact Answers.trans (t := s.dropJob j.key) rfl (State.pushReply_answers _ _ _ _ _)
  · dsimp only
    split
    · rfl
    · exact Answers.trans (t := s.dropJob a.key) rfl (State.pushReply_answers _ _ _ _ _)

theorem State.commitDone_answers (s : State) (j : Job) (r : Words) : Answers s (s.commitDone j r) := s.commitRaw_answers _ _ _ _ _

theorem State.commitClose_answers (s : State) (j : Job) (v : Verdict) (echo : Bool) (r : Words) :
    Answers s (s.commitClose j v echo r) := by
  unfold State.commitClose
  split <;> exact s.commitRaw_answers _ _ _ _ _

theorem State.haltSettled_answers (s : State) (w : Fin 32) (halted : Bool) : Answers s (s.haltSettled w halted) := by
  unfold State.haltSettled
  refine Answers.trans ?_ (.foldl (fun s h => ?_) _ _)
  · rfl
  · split
    · exact s.commitDone_answers _ _
    · rfl

theorem State.stopSettled_answers (s : State) (w : Fin 32) : Answers s (s.stopSettled w) := by
  unfold State.stopSettled
  refine Answers.trans ?_ (.foldl (fun s h => ?_) _ _)
  · rfl
  · split
    · exact s.commitDone_answers _ _
    · rfl

end Sys2Proof.Machine
end


section
/-! SUPPORT. What stops and resets of Workers leave alone (spec/12_modes_startup_reset.md, R356; spec/02_command_interface.md, R57). -/

namespace Sys2Proof.Machine

theorem Answers.workers {s t : State} (h : Answers s t) : t.workers = s.workers := by rw [show t = _ from h]

/-- What the stop of a function never touches: the mode and the resets, the time bases, the servo and the security store. -/
def State.stands (s : State) : Rescue × Vector TimeBase 8 × Servo × Security := (s.rsc, s.tb, s.servo, s.sec)

theorem Answers.stands {s t : State} (h : Answers s t) : t.stands = s.stands := by
  rw [show t = _ from h]
  rfl

theorem PinsOnly.stands {s t : State} (h : PinsOnly s t) : t.stands = s.stands := by
  rw [show t = _ from h]
  rfl

theorem PinsOnly.workers {s t : State} (h : PinsOnly s t) : t.workers = s.workers := by rw [show t = _ from h]

@[simp] theorem State.modWorker_stands (s : State) (w : Fin 32) (f : Worker → Worker) : (s.modWorker w f).stands = s.stands := rfl

@[simp] theorem State.modGroup_stands (s : State) (g : Fin 16) (f : Group → Group) : (s.modGroup g f).stands = s.stands := rfl

@[simp] theorem State.raise_stands (s : State) (e : Fin 256) (sev unit det : Nat) : (s.raise e sev unit det).stands = s.stands :=
  (s.raise_pins e sev unit det).stands

@[simp] theorem State.drain_stands (s : State) (w : Fin 32) : (s.drain w).stands = s.stands := by
  unfold State.drain
  refine (State.modWorker_stands _ w _).trans ?_
  refine foldl_keeps State.stands (fun s p => ?_) _ s
  rfl

@[simp] theorem State.releaseSems_stands (s : State) (w : Fin 32) : (s.releaseSems w).stands = s.stands := by
  unfold State.releaseSems
  refine forAll_keeps State.stands (fun i s => ?_) _ s
  exact State.raise_stands _ _ _ _ _

@[simp] theorem State.endStep_stands (s : State) (w : Fin 32) : (s.endStep w).stands = s.stands := by
  unfold State.endStep
  dsimp only
  split
  · rfl
  · exact (State.commitDone_answers _ _ _).stands

@[simp] theorem State.haltSettled_stands (s : State) (w : Fin 32) (halted : Bool) : (s.haltSettled w halted).stands = s.stands :=
  (s.haltSettled_answers w halted).stands

@[simp] theorem State.stopSettled_stands (s : State) (w : Fin 32) : (s.stopSettled w).stands = s.stands :=
  (s.stopSettled_answers w).stands

@[simp] theorem State.settled_stands (s : State) (w : Fin 32) : (s.settled w).stands = s.stands := by simp [State.settled]

@[simp] theorem State.stopWorker_stands (s : State) (w : Fin 32) (reason : Nat) : (s.stopWorker w reason).stands = s.stands := by
  unfold State.stopWorker
  dsimp only
  split
  · simp
  · split <;> simp

@[simp] theorem State.dropStart_stands (s : State) (x : Start) : (s.dropStart x).stands = s.stands := by
  unfold State.dropStart
  refine (forAll_keeps State.stands (fun g s => State.modGroup_stands s g _) _ _).trans ?_
  refine (forAll_keeps State.stands (fun w s => s.stopWorker_stands w 3) _ _).trans ?_
  rfl

@[simp] theorem State.resetWorkers_stands (s : State) (l : List (Fin 32)) : (s.resetWorkers l).stands = s.stands :=
  forAll_keeps State.stands (fun w s => by simp) l s

theorem State.withMem_stands (s : State) (m : Mem) : State.stands { s with mem := m } = s.stands := rfl

@[simp] theorem State.zeroRange_stands (s : State) (a len : Nat) : (s.zeroRange a len).stands = s.stands := by
  unfold State.zeroRange
  refine (foldl_keeps State.stands (fun u p => ?_) _ _).trans ?_
  · generalize u.mem.locate (512 * p.1) = at_
    obtain ⟨n, loc⟩ := at_
    dsimp only
    split
    · exact (State.withMem_stands _ _).trans (u.withMem_stands _)
    · rfl
  · rfl

@[simp] theorem State.releaseSlot_stands (s : State) (n : Fin 4) : (s.releaseSlot n).stands = s.stands := by
  unfold State.releaseSlot
  dsimp only
  split
  · exact s.zeroRange_stands _ _
  · rfl

@[simp] theorem State.modBist_stands (s : State) (u : Fin 64) (f : BistUnit → BistUnit) : (s.modBist u f).stands = s.stands := rfl

@[simp] theorem State.bistSettle_stands (s : State) : s.bistSettle.stands = s.stands := by
  unfold State.bistSettle
  have raised (l : List (Fin 64)) (det : State → Fin 64 → Nat) (t : State) :
      (l.foldl (fun s u => s.raise 38 3 0 (det s u)) t).stands = t.stands :=
    foldl_keeps State.stands (fun s u => s.raise_stands _ _ _ _) l t
  split
  · rfl
  · split
    · rfl
    · dsimp only
      split
      · exact (State.raise_stands _ 37 0 0 _).trans (raised _ (fun s u => detail [(0, 1, u.val), (1, 1, s.bist.units[u.val].cause.toNat)]) s)
      · have closed (t : State) (j : Job) (b : Bool) (ws : Words) :
            (if b then t.commitClose j ⟨stAborted, 0xFF⟩ true ws else t.commitDone j ws).stands = t.stands := by
          split
          · exact (t.commitClose_answers _ _ _ _).stands
          · exact (t.commitDone_answers _ _).stands
        refine (closed _ _ _ _).trans ?_
        exact (State.raise_stands _ 37 0 0 _).trans (raised _ (fun s u => detail [(0, 1, u.val), (1, 1, s.bist.units[u.val].cause.toNat)]) s)

@[simp] theorem State.stopBist_stands (s : State) : s.stopBist.stands = s.stands := by
  unfold State.stopBist
  split
  · rfl
  · refine (State.bistSettle_stands _).trans ?_
    exact forAll_keeps State.stands (fun u s => s.modBist_stands u _) _ _

@[simp] theorem State.flushLink_stands (s : State) (l : Fin 16) : (s.flushLink l).stands = s.stands := (s.flushLink_answers l).stands

end Sys2Proof.Machine
end


section
/-! SUPPORT. What units lose with their supply or in a reset, as the Queen core, the Workers and the stores see it (spec/14_power.md,
R392; spec/12_modes_startup_reset.md, R356). -/

namespace Sys2Proof.Machine

/-- The host interface, the rescue block, the Queen core, the clocks, the time bases, the servo, the Workers, the groups, the security
store and the starts that wait are as they were. -/
def Aside (s t : State) : Prop :=
  t = { s with
    ev := t.ev, pwr := t.pwr, mem := t.mem, net := t.net, swarm := t.swarm, cfg := t.cfg, fab := t.fab, ports := t.ports
    brood := t.brood, bist := t.bist, dbg := t.dbg, out := t.out, free := t.free }

theorem Aside.refl (s : State) : Aside s s := rfl

theorem Aside.trans {s t u : State} (h : Aside s t) (k : Aside t u) : Aside s u := Eq.trans k (by rw [show t = _ from h])

theorem Aside.foldl {ι : Type} {f : State → ι → State} (hf : ∀ s i, Aside s (f s i)) (l : List ι) (s : State) : Aside s (l.foldl f s) :=
  foldl_rel .refl .trans hf l s

theorem Aside.forAll {ι : Type} {f : ι → State → State} (hf : ∀ i s, Aside s (f i s)) (l : List ι) (s : State) :
    Aside s (forAll l f s) := .foldl (fun s i => hf i s) l s

theorem Aside.ite {s t u : State} {c : Prop} [Decidable c] (h : Aside s t) (k : Aside s u) : Aside s (if c then t else u) := by
  split
  · exact h
  · exact k

theorem PinsOnly.aside {s t : State} (h : PinsOnly s t) : Aside s t := by
  rw [show t = _ from h]
  rfl

theorem State.raise_aside (s : State) (e : Fin 256) (sev unit det : Nat) : Aside s (s.raise e sev unit det) :=
  (s.raise_pins e sev unit det).aside

theorem State.refreshDie_aside (s : State) (d : Fin 4) : Aside s (s.refreshDie d) := .forAll (fun n s => (s.refreshPort_pins n).aside) _ s

theorem State.refreshPorts_aside (s : State) : Aside s s.refreshPorts := s.refreshPorts_pins.aside

theorem State.resetPort_aside (s : State) (n : Fin 128) : Aside s (s.resetPort n) := by
  unfold State.resetPort State.showPolarity
  dsimp only
  split <;> split <;> rfl

theorem State.withMem_aside (s : State) (m : Mem) : Aside s { s with mem := m } := rfl

theorem State.zeroRange_aside (s : State) (a len : Nat) : Aside s (s.zeroRange a len) := by
  unfold State.zeroRange
  refine Aside.trans (s.withMem_aside _) (.foldl (fun u p => ?_) _ _)
  generalize u.mem.locate (512 * p.1) = at_
  obtain ⟨n, loc⟩ := at_
  dsimp only
  split
  · exact (u.withMem_aside _).trans (State.withMem_aside _ _)
  · exact .refl u

theorem State.modSlot_aside (s : State) (n : Fin 4) (f : Slot → Slot) : Aside s (s.modSlot n f) := rfl

theorem State.releaseSlot_aside (s : State) (n : Fin 4) : Aside s (s.releaseSlot n) := by
  unfold State.releaseSlot
  dsimp only
  refine Aside.trans ?_ (State.modSlot_aside _ _ _)
  split
  · exact s.zeroRange_aside _ _
  · exact .refl s

theorem State.undefine_aside (s : State) (base size : Nat) : Aside s (s.undefine base size) := rfl

theorem State.modSite_aside (s : State) (i : Fin 32) (f : Site → Site) : Aside s (s.modSite i f) := rfl

theorem State.emit_aside (s : State) (o : Output) : Aside s (s.emit o) := rfl

theorem State.unbalance_aside (s : State) (d : Fin 4) : Aside s (s.unbalance d) := .forAll (fun i s => s.modSite_aside i _) _ s

theorem State.dropDieBooks_aside (s : State) (d : Fin 4) : Aside s (s.dropDieBooks d) :=
  (s.unbalance_aside d).trans (.forAll (fun i s => s.modSite_aside i _) _ _)

theorem State.dropLock_aside (s : State) (d : Fin 4) : Aside s (s.dropLock d) := rfl

theorem State.modBook_aside (s : State) (c : BitVec 16) (v : Fin 4) (f : Book → Book) : Aside s (s.modBook c v f) := rfl

theorem State.leaveInput_aside (s : State) (f : MeshFlit) : Aside s (s.leaveInput f) := by
  unfold State.leaveInput
  split
  · split
    · exact .refl s
    · exact s.modBook_aside _ _ _
  · exact s.modBook_aside _ _ _
  · exact .refl s

theorem State.discardFlits_aside (s : State) (gone : MeshFlit → Bool) : Aside s (s.discardFlits gone) := by
  unfold State.discardFlits
  refine Aside.trans ?_ (.foldl (fun s f => ?_) _ _)
  · rfl
  · split
    · exact s.modBook_aside _ _ _
    · exact s.modBook_aside _ _ _
    · exact s.leaveInput_aside f

theorem State.dropFlits_aside (s : State) (d : Fin 4) : Aside s (s.dropFlits d) :=
  Aside.trans (.foldl (fun s _ => s.emit_aside _) _ s) (State.discardFlits_aside _ _)

theorem State.freeBuffer_aside (s : State) (p : TxPacket) : Aside s (s.freeBuffer p) := by
  unfold State.freeBuffer
  split <;> rfl

theorem State.linkState_aside (s : State) (l : Fin 16) (st : LlSt) (cause : Nat) : Aside s (s.linkState l st cause) := by
  unfold State.linkState
  dsimp only
  split
  · exact .refl s
  · refine Aside.trans ?_ (State.raise_aside _ _ _ _ _)
    rfl

theorem State.modLink_aside (s : State) (l : Fin 16) (f : Laravo → Laravo) : Aside s (s.modLink l f) := rfl

theorem State.withSwarm_aside (s : State) (x : Swarm) : Aside s { s with swarm := x } := rfl

theorem State.linkDrop_aside (s : State) (l : Fin 16) (st : LlSt) (cause : Nat) : Aside s (s.linkDrop l st cause) := by
  unfold State.linkDrop
  exact (((Aside.foldl (fun s p => s.freeBuffer_aside p) _ s).trans (State.withSwarm_aside _ _)).trans
    (State.linkState_aside _ _ _ _)).trans (State.modLink_aside _ _ _)

theorem State.loseLinks_aside (s : State) (l : List (Fin 16)) : Aside s (s.loseLinks l) :=
  .forAll (fun i s => (s.linkDrop_aside i .off 0).trans (State.modLink_aside _ _ _)) l s

theorem State.loseStack_aside (s : State) (n : Fin 4) : Aside s (s.loseStack n) := rfl

theorem State.loseColumns_aside (s : State) (d : Fin 4) (cols : List Nat) : Aside s (s.loseColumns d cols) := rfl

theorem State.modDomain_aside (s : State) (n : Fin 64) (f : Domain → Domain) : Aside s (s.modDomain n f) := rfl

theorem State.dropRamp_aside (s : State) (n : Fin 64) : Aside s (s.dropRamp n) := rfl

theorem State.domainUp_aside (s : State) (n : Fin 64) : Aside s (s.domainUp n) := by
  have links (l : List (Fin 16)) (t : State) :
      Aside t (forAll l (fun l s => (s.linkState l .down 0).modLink l fun k => { k with enabled := true, mayTrain := true }) t) :=
    .forAll (fun l s => (s.linkState_aside l .down 0).trans (State.modLink_aside _ _ _)) l t
  unfold State.domainUp
  refine Aside.trans (s.modDomain_aside n fun d => { d with st := .on }) ?_
  dsimp only
  split
  · exact links _ _
  · split
    · exact links _ _
    · split
      · rfl
      · split
        · exact State.refreshDie_aside _ _
        · exact .refl _

theorem State.nextCycle_aside (s : State) : Aside s s.nextCycle := rfl

theorem State.withBist_aside (s : State) (x : Bist) : Aside s { s with bist := x } := rfl

theorem State.modBist_aside (s : State) (u : Fin 64) (f : BistUnit → BistUnit) : Aside s (s.modBist u f) := rfl

theorem State.modDie_aside (s : State) (d : Fin 4) (f : DieLink → DieLink) : Aside s (s.modDie d f) := rfl

theorem State.bootDomain_aside (s : State) (n : Fin 64) : Aside s (s.bootDomain n) := by
  unfold State.bootDomain
  exact .ite (.refl s) (.ite (s.raise_aside _ _ _ _) ((s.modDomain_aside n _).trans (State.domainUp_aside _ n)))

theorem State.bootDomains_aside (s : State) (l : List (Fin 64)) : Aside s (s.bootDomains l) := .forAll (fun n s => s.bootDomain_aside n) l s

/-! What a device reset leaves stays while units lose their supply. -/

theorem upd_all {α : Type} {n : Nat} {P : α → Prop} {v : Vector α n} (h : ∀ i : Fin n, P v[i.val]) (i : Fin n) {f : α → α}
    (hf : P v[i.val] → P (f v[i.val])) (j : Fin n) : P (upd v i f)[j.val] := by
  by_cases hj : i = j
  · subst hj
    rw [upd_get_same]
    exact hf (h i)
  · rw [upd_get_other v i j f hj]
    exact h j

/-- What a device reset leaves of the Queen core's lists, the Workers, the groups and the stores, with this rescue block. -/
structure AfterReset (s : State) (r : Rescue) (t : State) : Prop where
  rsc     : t.rsc = r
  workers : ∀ w : Fin 32, t.workers[w.val].st = .empty
  groups  : ∀ g : Fin 16, t.groups[g.val].st = .idle
  jobs    : t.queen.jobs = [] ∧ t.queen.replies = [] ∧ t.queen.up = false ∧ t.starts = []
  time    : t.tb = s.tb ∧ t.servo = s.servo
  stored  : t.sec.owner = s.sec.owner ∧ t.sec.counters = s.sec.counters ∧ t.sec.nv = s.sec.nv ∧ t.sec.bootRecs = s.sec.bootRecs
  rings   : t.hif.subEn = false ∧ t.hif.repEn = false ∧ t.hif.evtEn = false

theorem AfterReset.job? {s t : State} {r : Rescue} (h : AfterReset s r t) (k : JobKey) : t.job? k = none := by
  rw [State.job?, h.jobs.1]
  rfl

theorem AfterReset.ite {s t u : State} {r : Rescue} {c : Prop} [Decidable c] (h : AfterReset s r t) (k : AfterReset s r u) :
    AfterReset s r (if c then t else u) := by
  split
  · exact h
  · exact k

section
variable {s t : State} {r : Rescue} (h : AfterReset s r t)
include h

theorem AfterReset.aside {u : State} (k : Aside t u) : AfterReset s r u := by
  rw [show u = _ from k]
  exact ⟨h.rsc, h.workers, h.groups, h.jobs, h.time, h.stored, h.rings⟩

theorem AfterReset.modWorker (w : Fin 32) {f : Worker → Worker} (hf : ∀ k, k.st = .empty → (f k).st = .empty) :
    AfterReset s r (t.modWorker w f) :=
  ⟨h.rsc, upd_all (P := fun k : Worker => k.st = .empty) h.workers w (hf _), h.groups, h.jobs, h.time, h.stored, h.rings⟩

theorem AfterReset.modGroup (g : Fin 16) {f : Group → Group} (hf : ∀ x, x.st = .idle → (f x).st = .idle) :
    AfterReset s r (t.modGroup g f) :=
  ⟨h.rsc, h.workers, upd_all (P := fun x : Group => x.st = .idle) h.groups g (hf _), h.jobs, h.time, h.stored, h.rings⟩

theorem AfterReset.all {ι : Type} {f : ι → State → State} (hf : ∀ i {u}, AfterReset s r u → AfterReset s r (f i u))
    (l : List ι) : AfterReset s r (forAll l f t) := forAll_holds (fun i _ hu => hf i hu) l h

/-- What follows a job that is held nowhere does not happen. -/
theorem AfterReset.bind_job? (o : Option JobKey) : o.bind t.job? = none := by
  cases o with
  | none => rfl
  | some k => exact h.job? k

theorem AfterReset.withQueen {q : Queen} (hj : q.jobs = t.queen.jobs) (hr : q.replies = t.queen.replies) (hu : q.up = false) :
    AfterReset s r { t with queen := q } := by
  obtain ⟨jobs, replies, up, starts⟩ := h.jobs
  exact ⟨h.rsc, h.workers, h.groups, ⟨hj.trans jobs, hr.trans replies, hu, starts⟩, h.time, h.stored, h.rings⟩

theorem AfterReset.withClk (c : Clock) : AfterReset s r { t with clk := c } :=
  ⟨h.rsc, h.workers, h.groups, h.jobs, h.time, h.stored, h.rings⟩

theorem AfterReset.raise (e : Fin 256) (sev unit det : Nat) : AfterReset s r (t.raise e sev unit det) :=
  h.aside (t.raise_aside e sev unit det)

theorem AfterReset.refreshDie (d : Fin 4) : AfterReset s r (t.refreshDie d) := h.aside (t.refreshDie_aside d)

theorem AfterReset.modFab (d : Fin 4) (f : DieFab → DieFab) : AfterReset s r (t.modFab d f) := h.aside (u := t.modFab d f) rfl

theorem AfterReset.endStep (w : Fin 32) : AfterReset s r (t.endStep w) := by
  have hw := h.modWorker w (f := fun x => { x with dbg := { x.dbg with stepJob := none, stepLeft := none } }) fun _ hk => hk
  unfold State.endStep
  dsimp only
  rw [hw.bind_job?]
  exact hw

theorem AfterReset.haltSettled (w : Fin 32) (halted : Bool) : AfterReset s r (t.haltSettled w halted) := by
  unfold State.haltSettled
  dsimp only
  refine List.foldlRecOn _ _ ?_ fun u hu x _ => ?_
  · exact ⟨h.rsc, h.workers, h.groups, h.jobs, h.time, h.stored, h.rings⟩
  · rw [hu.job?]
    exact hu

theorem AfterReset.stopSettled (w : Fin 32) : AfterReset s r (t.stopSettled w) := by
  unfold State.stopSettled
  dsimp only
  refine List.foldlRecOn _ _ ?_ fun u hu x _ => ?_
  · exact h.withQueen rfl rfl h.jobs.2.2.1
  · rw [hu.job?]
    exact hu

theorem AfterReset.releaseSems (w : Fin 32) : AfterReset s r (t.releaseSems w) :=
  forAll_holds (fun i u hu => by
    refine AfterReset.raise ?_ _ _ _ _
    exact hu.withQueen rfl rfl hu.jobs.2.2.1) _ h

theorem AfterReset.resetWorkers (l : List (Fin 32)) : AfterReset s r (t.resetWorkers l) :=
  h.all (fun w _ hu => ((((hu.endStep w).haltSettled w false).stopSettled w).releaseSems w).modWorker w fun _ _ => rfl) l

theorem AfterReset.resetGroups (l : List (Fin 16)) (keep : Bool) : AfterReset s r (t.resetGroups l keep) :=
  (h.all (fun g _ hu => hu.modGroup g fun _ _ => rfl) l).all (fun n _ hu => hu.aside (State.resetPort_aside _ n)) _

theorem AfterReset.releaseIn (base size : Nat) : AfterReset s r (t.releaseIn base size) := by
  refine h.all (fun n u hu => ?_) _
  dsimp only
  rw [hu.bind_job?]
  exact hu.aside (u.releaseSlot_aside n)

theorem AfterReset.bistSettle : AfterReset s r t.bistSettle := by
  unfold State.bistSettle
  split
  · exact h
  · split
    · exact h
    · dsimp only
      have closed (l : List (Fin 64)) (n : Nat) (x : Bist) : AfterReset s r
          { (l.foldl (fun s u => s.raise 38 3 0 (detail [(0, 1, u.val), (1, 1, s.bist.units[u.val].cause.toNat)])) t).nextCycle.raise
              37 0 0 n with bist := x } := by
        refine AfterReset.aside (AfterReset.raise (AfterReset.aside ?_ (State.nextCycle_aside _)) 37 0 0 n) (State.withBist_aside _ x)
        exact List.foldlRecOn l _ h fun u hu i _ => hu.raise _ _ _ _
      split
      · exact closed _ _ _
      · rename_i hj
        exact absurd hj (by rw [(closed _ _ _).bind_job?]; exact nofun)

theorem AfterReset.dieLeaves (d : Fin 4) : AfterReset s r (t.dieLeaves d) := by
  unfold State.dieLeaves
  dsimp only
  have left (q : Queen) (c : Clock) (x : Config_) (b : Bist) (hj : q.jobs = t.queen.jobs) (hr : q.replies = t.queen.replies)
      (hu : q.up = t.queen.up) : AfterReset s r { t with cfg := x, queen := q, clk := c, bist := b } :=
    ((h.withQueen hj hr (hu.trans h.jobs.2.2.1)).withClk c).aside (u := { t with cfg := x, queen := q, clk := c, bist := b }) rfl
  have ended (l : List (Fin 64 × Bool)) {u : State} (hu : AfterReset s r u) :
      AfterReset s r (forAll l (fun u s => s.modBist u.1 fun x => x.ended 4 0 u.2) u) :=
    hu.all (fun e _ hv => hv.aside (State.modBist_aside _ e.1 _)) l
  refine .ite ?_ (AfterReset.bistSettle ?_) <;> exact ended _ (left _ _ _ _ rfl rfl rfl)

theorem AfterReset.unconfigure (d : Fin 4) : AfterReset s r (t.unconfigure d) := by
  unfold State.unconfigure
  refine AfterReset.refreshDie (AfterReset.all (h.modFab d _) (fun w u hu => ?_) _) d
  exact hu.modWorker w fun _ hk => hk

theorem AfterReset.withDbg (x : Debug) : AfterReset s r { t with dbg := x } :=
  ⟨h.rsc, h.workers, h.groups, h.jobs, h.time, h.stored, h.rings⟩

theorem AfterReset.dieReset (d : Fin 4) : AfterReset s r (t.dieReset d) := by
  have h1 := ((((h.dieLeaves d).aside (State.dropLock_aside _ d)).aside (State.dropDieBooks_aside _ d)).resetWorkers (dieWorkers d)).resetGroups
    (dieGroups d) true
  have h2 := ((h1.unconfigure d).modFab d fun f =>
    { f with probes := Vector.replicate 8 Probe.reset, capture := Capture.reset, edgeIn := [] }).withDbg
  unfold State.dieReset
  exact ((((h2 _).aside (State.modDie_aside _ d _)).aside (State.dropFlits_aside _ d)).aside (State.discardFlits_aside _ _)).refreshDie d

theorem AfterReset.undefine (base size : Nat) : AfterReset s r (t.undefine base size) := h.aside (t.undefine_aside base size)

theorem AfterReset.loseWorker (w : Fin 32) : AfterReset s r (t.loseWorker w) := (h.resetWorkers [w]).undefine _ _

theorem AfterReset.loseDie (d : Fin 4) : AfterReset s r (t.loseDie d) := by
  unfold State.loseDie
  exact (((h.dieReset d).aside (State.modDie_aside _ d _)).all (fun w _ hu => hu.undefine _ _) _).undefine _ _

theorem AfterReset.withBrood (x : Brood) : AfterReset s r { t with brood := x } :=
  ⟨h.rsc, h.workers, h.groups, h.jobs, h.time, h.stored, h.rings⟩

theorem AfterReset.loseBrood : AfterReset s r t.loseBrood := by
  unfold State.loseBrood
  refine AfterReset.all ?_ (fun i _ hu => hu.aside (State.modSite_aside _ i _)) _
  refine AfterReset.withBrood ?_ _
  refine List.foldlRecOn _ _ (h.withBrood _) fun u hu k _ => ?_
  rw [hu.job?]
  exact hu

theorem AfterReset.loseSecurity : AfterReset s r t.loseSecurity :=
  ⟨h.rsc, h.workers, h.groups, h.jobs, h.time, h.stored, h.rings⟩

theorem AfterReset.loseQueen : AfterReset s r t.loseQueen := h.withQueen rfl rfl rfl

theorem AfterReset.losePcie (up : Bool) : AfterReset s r { t.resetPcie with hif := { t.resetPcie.hif with pcieUp := up } } := by
  obtain ⟨jobs, replies, serves, starts⟩ := h.jobs
  refine ⟨h.rsc, h.workers, h.groups, ⟨?_, rfl, serves, starts⟩, h.time, h.stored, ⟨rfl, rfl, rfl⟩⟩
  exact (congrArg (List.map _) jobs).trans rfl

/-- The units of a domain lose their supply. -/
theorem AfterReset.domainLoss (n : Fin 64) : AfterReset s r (t.domainLoss n) := by
  unfold State.domainLoss
  split
  · split
    · exact h.loseQueen
    · exact h.loseSecurity
    · exact .ite ((h.losePcie false).raise _ _ _ _) (h.losePcie false)
    · exact h.aside (t.loseLinks_aside _)
    · exact h.aside (t.loseLinks_aside _)
    · exact h.aside (t.loseStack_aside 0)
    · exact h.aside (t.loseStack_aside 1)
    · exact h.aside (t.loseStack_aside 2)
    · exact h.aside (t.loseStack_aside 3)
    · exact (h.releaseIn _ _).undefine _ _
    · exact (h.releaseIn _ _).undefine _ _
    · exact (h.releaseIn _ _).undefine _ _
    · exact h.aside (t.withMem_aside _)
    · exact h.loseBrood
    · exact h.withClk _
    · exact h
  · dsimp only
    refine .ite (h.loseDie _) (.ite (h.aside (t.modDie_aside _ _)) (.ite ?columns (.ite (h.all (fun w _ hu => hu.loseWorker w) _)
      (.ite ?logs ?ports))))
    case columns => exact (h.aside (t.loseColumns_aside _ _)).all (fun r _ hu => hu.undefine _ _) _
    case logs =>
      exact AfterReset.refreshDie ((h.aside (t.dropDieBooks_aside _)).all (fun g _ hu => hu.modGroup g fun _ _ => rfl) _) _
    case ports =>
      refine AfterReset.refreshDie (AfterReset.all (h.all (fun g u hu => ?_) _)
        (fun n _ hu => hu.aside (State.resetPort_aside _ n)) _) _
      exact hu.modGroup g fun _ hx => hx

/-- A domain is turned off. -/
theorem AfterReset.domainOff (n : Fin 64) : AfterReset s r (t.domainOff n) := by
  have hl := ((h.domainLoss n).aside (State.modDomain_aside _ n fun _ => Domain.reset)).aside (State.dropRamp_aside _ n)
  unfold State.domainOff
  exact .ite h (.ite (hl.refreshDie _) hl)

end

end Sys2Proof.Machine
end


section
/-! SUPPORT. Device, Queen and PCIe resets (spec/12_modes_startup_reset.md, R356 to R360; spec/02_command_interface.md, R26, R57). -/

namespace Sys2Proof.Machine

/-! The Workers that a reset empties. -/

theorem State.settled_wsts (s : State) (w : Fin 32) : (s.settled w).wsts = s.wsts := by
  have hstep : (s.endStep w).wsts = s.wsts := by
    have hw : (s.modWorker w fun x => { x with dbg := { x.dbg with stepJob := none, stepLeft := none } }).wsts = s.wsts := by
      funext v
      by_cases h : v = w
      · subst v; simp [State.wsts]
      · simp [State.wsts, upd_get_other _ _ _ _ (Ne.symm h)]
    unfold State.endStep
    dsimp only
    split
    · exact hw
    · exact Eq.trans (by funext v; rw [State.wsts, (State.commitDone_answers _ _ _).workers]; rfl) hw
  funext v
  rw [State.settled, State.wsts, (State.stopSettled_answers _ w).workers, (State.haltSettled_answers _ w false).workers]
  exact congrFun hstep v

theorem State.releaseSems_wsts (s : State) (w : Fin 32) : (s.releaseSems w).wsts = s.wsts := by
  unfold State.releaseSems
  refine forAll_keeps State.wsts (fun i s => ?_) _ s
  funext v
  rw [State.wsts, (State.raise_pins _ _ _ _ _).workers]
  rfl

/-- A Worker that is reset, or that was EMPTY, is EMPTY. -/
theorem State.resetWorkers_empty (s : State) (l : List (Fin 32)) {v : Fin 32} (h : v ∈ l ∨ s.wsts v = .empty) :
    (s.resetWorkers l).wsts v = .empty := by
  induction l generalizing s with
  | nil => exact h.resolve_left (List.not_mem_nil)
  | cons w l ih =>
    refine ih _ ?_
    by_cases hv : v = w
    · subst v
      exact .inr (congrArg Worker.st (upd_get_same _ _ _))
    · refine (h.imp_left fun hm => (List.mem_cons.mp hm).resolve_left hv).imp_right fun hs => ?_
      refine (congrArg Worker.st (upd_get_other _ _ _ _ (Ne.symm hv))).trans ?_
      exact ((congrFun (State.releaseSems_wsts _ w) v).trans (congrFun (s.settled_wsts w) v)).trans hs

/-! A device reset (R356, R357, R359). -/

theorem forAll_modGroup (l : List (Fin 16)) (f : Group → Group) (s : State) :
    forAll l (fun g s => s.modGroup g f) s = { s with groups := changeAll l f s.groups } := by
  induction l generalizing s with
  | nil => rfl
  | cons g l ih => exact ih _

/-- The groups are all reset in a state that is otherwise as after a device reset. -/
theorem AfterReset.resetAllGroups {s t : State} {r : Rescue} (keep : Bool)
    (h : ∀ gs : Vector Group 16, (∀ g : Fin 16, gs[g.val].st = .idle) → AfterReset s r { t with groups := gs }) :
    AfterReset s r (t.resetGroups (allFin 16) keep) := by
  unfold State.resetGroups
  rw [forAll_modGroup]
  refine AfterReset.all (h _ fun g => ?_) (fun n _ hu => hu.aside (State.resetPort_aside _ n)) _
  rw [changeAll_get (List.nodup_finRange 16), if_pos (List.mem_finRange g)]
  rfl

/-- The rescue block as a device reset leaves it. -/
def State.rescueReset (s : State) : Rescue :=
  { s.rsc with
    mode := .boot, lastReset := 1, errorN := false, bootRecord := false, golden := false, bootStep := 3
    startupDone := false, deferred := none, armedReset := none, hib := .awake, hibMatch := false, pcieHeld := false
    enteredNs := if s.rsc.mode = .boot then s.rsc.enteredNs else s.stampNs
    enteredS := if s.rsc.mode = .boot then s.rsc.enteredS else s.stampS }

theorem rescueReset_congr {s u : State} (hr : u.rsc = s.rsc) (ht : u.tb = s.tb) : u.rescueReset = s.rescueReset := by
  simp only [State.rescueReset, State.stampNs, State.stampS, State.tb0, hr, ht]
  rfl

theorem State.deviceReset_after (s : State) : AfterReset s s.rescueReset s.deviceReset := by
  have hst : (forAll (allFin 4) (fun n s => s.releaseSlot n) (s.resetWorkers (allFin 32))).stands = s.stands :=
    (forAll_keeps State.stands (fun n s => s.releaseSlot_stands n) _ _).trans (s.resetWorkers_stands _)
  have hw (v : Fin 32) : (forAll (allFin 4) (fun n s => s.releaseSlot n) (s.resetWorkers (allFin 32))).workers[v.val].st = .empty := by
    have hk : (forAll (allFin 4) (fun n s => s.releaseSlot n) (s.resetWorkers (allFin 32))).workers = (s.resetWorkers (allFin 32)).workers :=
      forAll_keeps State.workers (fun n s => by rw [show s.releaseSlot n = _ from s.releaseSlot_aside n]) _ _
    rw [hk]
    exact s.resetWorkers_empty _ (.inl (List.mem_finRange v))
  unfold State.deviceReset
  dsimp only
  revert hst hw
  generalize forAll (allFin 4) (fun n s => s.releaseSlot n) (s.resetWorkers (allFin 32)) = u
  intro hst hw
  obtain ⟨hrsc, htb, hservo, hsec⟩ : u.rsc = s.rsc ∧ u.tb = s.tb ∧ u.servo = s.servo ∧ u.sec = s.sec := by
    simpa [State.stands] using hst
  have hstored : u.sec.owner = s.sec.owner ∧ u.sec.counters = s.sec.counters ∧ u.sec.nv = s.sec.nv ∧
      u.sec.bootRecs = s.sec.bootRecs := by simp [hsec]
  have hr : u.rescueReset = s.rescueReset := rescueReset_congr hrsc htb
  have links (l : List (Fin 16)) {t : State} (ht : AfterReset s s.rescueReset t) :
      AfterReset s s.rescueReset (forAll l (fun l s => s.linkState l .down 11) t) :=
    ht.all (fun l _ hv => hv.aside (State.linkState_aside _ l .down 11)) l
  refine AfterReset.all (AfterReset.ite ?kept (AfterReset.raise ?kept _ _ _ _)) (fun n _ hv => hv.domainOff n) _
  all_goals
    refine links _ (AfterReset.aside (AfterReset.resetAllGroups false fun gs hg => ?_) (State.refreshPorts_aside _))
    constructor
    · exact hr
    · exact hw
    · exact hg
    · exact ⟨rfl, rfl, rfl, rfl⟩
    · exact ⟨htb, hservo⟩
    · exact hstored
    · exact ⟨rfl, rfl, rfl⟩

end Sys2Proof.Machine
end


section
/-! SUPPORT. Start-up after a reset, and the rows of the resets (spec/12_modes_startup_reset.md, R351 to R360). -/

namespace Sys2Proof.Machine

/-! Steps 3 and 4 of start-up (R351, R354, R357). -/

/-- A start-up in step 4, its `BOOTSEL` sampled, the endpoint on retry status. -/
def State.inStep4 (s : State) (bs : BitVec 2) : State :=
  { s with rsc := { s.rsc with bootStep := 4, bootsel := bs }, hif := { s.hif with crs := true } }

theorem State.bootClock_waits {s : State} (h : s.rsc.resetLow = true) (bs : BitVec 2) : s.bootClock bs = s.bootStep 3 := by
  unfold State.bootClock
  exact if_pos h

theorem State.bootClock_goes {s : State} (h : s.rsc.resetLow = false) (bs : BitVec 2) :
    ∃ x, s.bootClock bs = x.lockPll ∧ Aside (s.inStep4 bs) x := by
  have h3 : ¬ (s.bootStep 3).rsc.resetLow = true := by simp [State.bootStep, h]
  unfold State.bootClock
  rw [if_neg h3]
  refine ⟨_, rfl, Aside.trans ?_ (State.bootDomains_aside _ _)⟩
  have hd := State.bootDomains_aside { s.bootStep 3 with rsc := { (s.bootStep 3).rsc with bootsel := bs } } [1, 2]
  generalize State.bootDomains _ [1, 2] = y at hd ⊢
  rw [show y = _ from hd]
  rfl

theorem State.lockPll_locked {s : State} (h : s.clk.pll = .locked) :
    s.lockPll = ({ s with clk := { s.clk with mux := 0b111111 } }).bootStep 5 := by
  unfold State.lockPll
  rw [h]

theorem State.lockPll_starts {s : State} (h : s.clk.pll ≠ .locked) : ∃ c : Clock, s.lockPll = { s with clk := c } ∧
    c.pll = if (s.clk.pll = .coasting ∨ s.clk.pll = .ramping) ∧ s.clk.refOk = true then .ramping else .locking := by
  unfold State.lockPll
  split
  · exact absurd ‹_› h
  · exact ⟨_, rfl, by simp [*]⟩
  · exact ⟨_, rfl, by simp [*]⟩
  · exact ⟨_, rfl, (if_neg fun hc => hc.1.elim ‹s.clk.pll = .coasting → False› ‹s.clk.pll = .ramping → False›).symm⟩

section
variable {s t : State} {r : Rescue} (h : AfterReset s r t)
include h

theorem AfterReset.withRsc (r' : Rescue) : AfterReset s r' { t with rsc := r' } :=
  ⟨rfl, h.workers, h.groups, h.jobs, h.time, h.stored, h.rings⟩

theorem AfterReset.lockPll : ∃ n, AfterReset s { r with bootStep := n } t.lockPll := by
  by_cases hl : t.clk.pll = .locked
  · rw [State.lockPll_locked hl, ← h.rsc]
    exact ⟨5, (h.withClk _).withRsc _⟩
  · obtain ⟨c, hx, -⟩ := State.lockPll_starts hl
    rw [hx, ← h.rsc]
    exact ⟨t.rsc.bootStep, h.rsc ▸ h.withClk c⟩

/-- What a device reset leaves stays as start-up begins. -/
theorem AfterReset.bootClock (bs : BitVec 2) : ∃ n b, AfterReset s { r with bootStep := n, bootsel := b } (t.bootClock bs) := by
  cases hlow : t.rsc.resetLow
  · obtain ⟨x, hx, ha⟩ := State.bootClock_goes hlow bs
    have h4 : AfterReset s { r with bootStep := 4, bootsel := bs } (t.inStep4 bs) := by
      rw [← h.rsc]
      exact ⟨rfl, h.workers, h.groups, h.jobs, h.time, h.stored, h.rings⟩
    obtain ⟨n, hn⟩ := (h4.aside ha).lockPll
    exact ⟨n, bs, hx ▸ hn⟩
  · rw [State.bootClock_waits hlow, ← h.rsc]
    exact ⟨3, t.rsc.bootsel, h.withRsc _⟩

end

/-- A device reset, with the start-up that follows. -/
theorem State.deviceReset_resets (s : State) (bs : BitVec 2) : DeviceWasReset s (s.deviceReset.bootClock bs) := by
  obtain ⟨n, b, ha⟩ := s.deviceReset_after.bootClock bs
  exact ⟨by rw [ha.rsc]; rfl, by rw [ha.rsc]; rfl, ha.workers, ha.groups, ha.jobs, ha.time, ha.stored, ha.rings,
    by rw [ha.rsc]; exact ⟨rfl, rfl⟩⟩

theorem State.raiseDevice_resets {s : State} (hp : s.pdOn 0 = true) (hr : s.powerOnRuns = false) (hd : s.rsc.deferred ≠ some .powerOn)
    (hn : s.nvBusy = false) (bs : BitVec 2) : s.raiseDevice bs = s.deviceReset.bootClock bs := by
  simp [State.raiseDevice, hp, hr, hd, hn]

/-! A Queen reset (R356; 02, R57). -/

/-- What a Queen reset leaves: the core has stopped, its lists of calibrations and forwards are empty, and the mode, the time bases and
the owner stand. -/
structure QueenWasReset (s t : State) : Prop where
  up       : t.queen.up = false
  cal      : t.queen.cal = []
  forwards : t.swarm.forwards = []
  rsc      : t.rsc = { s.rsc with lastReset := 2, armedReset := none }
  tb       : t.tb = s.tb
  owner    : t.sec.owner = s.sec.owner

theorem State.queenReset_resets (s : State) : QueenWasReset s s.queenReset := by
  have hstands : (forAll ((allFin 4).filter fun n => (s.starts.foldl (fun s x => s.dropStart x) s).cfg.slots[n.val].st = .staging)
      (fun n s => s.releaseSlot n) (s.starts.foldl (fun s x => s.dropStart x) s)).stopBist.stands = s.stands :=
    (State.stopBist_stands _).trans ((forAll_keeps State.stands (fun n s => s.releaseSlot_stands n) _ _).trans
      (foldl_keeps State.stands (fun s x => s.dropStart_stands x) _ _))
  unfold State.queenReset
  dsimp only
  revert hstands
  generalize State.stopBist _ = u
  intro hstands
  have hlinks : (forAll (allFin 16) (fun l s => s.flushLink l) u.forgetJobs).stands = u.forgetJobs.stands :=
    forAll_keeps State.stands (fun l s => s.flushLink_stands l) _ _
  generalize forAll (allFin 16) (fun l s => s.flushLink l) u.forgetJobs = v at hlinks ⊢
  obtain ⟨hrsc, htb, -, hsec⟩ : u.rsc = s.rsc ∧ u.tb = s.tb ∧ u.servo = s.servo ∧ u.sec = s.sec := by
    simpa [State.stands] using hstands
  obtain ⟨vrsc, vtb, -, vsec⟩ : v.rsc = u.rsc ∧ v.tb = u.tb ∧ v.servo = u.servo ∧ v.sec = u.forgetJobs.sec := by
    simpa [State.stands, State.forgetJobs] using hlinks
  have howner : v.sec.owner = s.sec.owner := by rw [vsec, ← hsec]; rfl
  exact ⟨rfl, rfl, rfl, by rw [← hrsc, ← vrsc], vtb.trans htb, howner⟩

theorem QueenWasReset.restarts {s t : State} (h : QueenWasReset s t) (b : Bool) :
    QueenWasReset s { t with queen := { t.queen with refused := b } } := ⟨h.up, h.cal, h.forwards, h.rsc, h.tb, h.owner⟩

theorem State.raiseQueen_resets {s : State} (hp : s.pdOn 0 = true) (hs : s.rsc.startupDone = true) (hd : s.rsc.deferred = none) :
    QueenWasReset s s.raiseQueen := by
  have hgo : ¬ (!s.pdOn 0 || !s.rsc.startupDone || s.rsc.deferred.isSome) = true := by simp [hp, hs, hd]
  rw [State.raiseQueen, if_neg hgo]
  exact s.queenReset_resets.restarts false

/-! Loss of power (R356, R358; 14, R387). -/

theorem State.tornWrite_sec (s : State) : s.tornWrite.sec.owner = s.sec.owner ∧ s.tornWrite.sec.counters = s.sec.counters := by
  unfold State.tornWrite
  split
  · exact ⟨rfl, rfl⟩
  · split <;> exact ⟨rfl, rfl⟩

theorem State.tornWrite_none {s : State} (h : s.sec.nvJobs = []) : s.tornWrite = s := by
  rw [State.tornWrite, h]

theorem State.powerLost_loses (s : State) (sup : Supply) (cause : BitVec 8) (det : BitVec 128) (sensor : BitVec 8) :
    PowerWasLost s (s.powerLost sup cause det sensor) sup cause :=
  ⟨rfl, rfl, rfl, rfl, rfl, rfl, rfl, rfl, s.tornWrite_sec.1, s.tornWrite_sec.2, fun h => by
    rw [State.powerLost, s.tornWrite_none h]
    exact ⟨rfl, rfl⟩⟩

/-! A PCIe reset (02, R26, R57). -/

theorem State.pcieDown_up {s : State} (h : s.hif.pcieUp = true) (cause : Nat) : s.pcieDown cause =
    ({ s with hif := { s.hif with pcieUp := false } }).raise 46 1 0 (detail [(0, 1, 0), (1, 1, cause)]) := if_pos h

theorem State.pcieDown_down {s : State} (h : s.hif.pcieUp = false) (cause : Nat) : s.pcieDown cause = s :=
  if_neg (by simp [h])

/-- What an event raised leaves but for the events. -/
theorem State.raise_rest (s : State) (e : Fin 256) (sev unit det : Nat) :
    s.raise e sev unit det = { s with ev := (s.raise e sev unit det).ev } := by
  unfold State.raise
  dsimp only
  split <;> rfl

theorem State.resetPcie_discards (s : State) : ∀ j ∈ s.resetPcie.queen.jobs, j.key.path.isPcie = true → j.discard = true := by
  intro j hj hk
  obtain ⟨i, hi, rfl⟩ := List.mem_map.mp hj
  by_cases hp : i.key.path.isPcie = true
  · rw [if_pos hp]
  · rw [if_neg hp] at hk ⊢
    exact absurd hk hp

/-! `SYS_RESET` (R360). -/

section
variable {d : CmdDef} {p : Pkt} {s : State} (h : Passes d p s)
include h

theorem begun_calm : (begun d p s).abortAsked ⟨.pcie, p.tag⟩ = false := by
  rw [State.abortAsked, begun_jobs h, List.any_append, Bool.or_eq_false_iff]
  exact ⟨h.calm, by simp [begunJob, Job.awaits]⟩

/-- With its job taken out, the jobs are those that were there before. -/
theorem begun_dropped : ((begun d p s).queen.jobs.filter fun i => !sameKey i.key ⟨.pcie, p.tag⟩) = s.queen.jobs := by
  rw [begun_jobs h, List.filter_append, filter_free h.free]
  simp [begunJob, applyJob, Job.fresh, sameKey_self]

end

/-- The scope that a `SYS_RESET` names. -/
def resetScope (p : Pkt) : After := .reset (if param p 32 0 2 = 1 then .device else .queen)

theorem sysReset_ends {s : State} {p : Pkt} (h : Accepted cmdSysReset p s) : exec (.sysReset p) s = .next { s with
    hif := (s.consume p).hif
    queen := { s.queen with replies := s.queen.replies ++ [⟨⟨.pcie, p.tag⟩, replyWords s p.opcode p.tag
      (if clamped cmdSysReset p = 0 then stDone else stClamped) 0xFF false (clamped cmdSysReset p)
      (echoOf (echoEndOf p.opcode) (applied cmdSysReset p) ++ []), true, resetScope p⟩] } } := by
  have hargs : (begunJob cmdSysReset p).args = p.block :=
    begunJob_args (by simp [CmdDef.Unclamped, cmdSysReset, CmdDef.plain, Field.applied])
  have ha : cmdSysReset.act (begunJob cmdSysReset p) (begun cmdSysReset p s) =
      .stay ((begun cmdSysReset p s).commitDone { begunJob cmdSysReset p with after := resetScope p } []) := by
    rw [resetScope, param, ← hargs]
    rfl
  refine congrArg Host.Outcome.next ((fetch_stay h ha).trans ?_)
  rw [State.commitDone, commitRaw_pcie _ _ _ _ rfl rfl (begun_calm h.toPasses)]
  have hd : ((begun cmdSysReset p s).queen.jobs.filter fun i => !sameKey i.key (begunJob cmdSysReset p).key) = s.queen.jobs :=
    begun_dropped h.toPasses
  dsimp only
  rw [hd, begun_eq h.toPasses]
  rfl

theorem DeviceWasReset.withRsc {s t : State} {r : Rescue} (h : DeviceWasReset { s with rsc := r } t) : DeviceWasReset s t :=
  ⟨h.mode, h.last, h.workers, h.groups, h.jobs, h.time, h.stored, h.rings, h.none_⟩

/-- How start-up goes on from step 3 (R351): with the PLL locked to step 5, else to step 4, where the PLL locks or ramps. -/
def GoesOn (s t : State) : Prop :=
  if s.clk.pll = .locked then t.rsc.bootStep = 5 ∧ t.clk.mux = 0b111111
  else t.rsc.bootStep = 4 ∧
    t.clk.pll = if (s.clk.pll = .coasting ∨ s.clk.pll = .ramping) ∧ s.clk.refOk = true then .ramping else .locking

theorem exec_resetNRelease_goes {s : State} (hp : s.pdOn 0 = true) (hl : s.rsc.resetLow = true) (hd : s.rsc.deferred = none)
    (hb : s.rsc.bootStep = 3) (hs : s.rsc.startupDone = false) (bs : BitVec 2) :
    ∃ t, exec (.resetNRelease bs) s = .next t ∧ t.rsc.resetLow = false ∧ t.rsc.bootsel = bs ∧ GoesOn s t := by
  let u : State := { s with rsc := { s.rsc with resetLow := false } }
  have hx : exec (.resetNRelease bs) s = .next (u.bootClock bs) := by
    have hgo : (u.rsc.deferred.isNone && u.pdOn 0 && decide (u.rsc.bootStep = 3) && !u.rsc.startupDone) = true := by
      rw [show u.rsc.deferred = none from hd, show u.pdOn 0 = true from hp, decide_eq_true (show u.rsc.bootStep = 3 from hb),
        show u.rsc.startupDone = false from hs]
      rfl
    exact congrArg Host.Outcome.next ((if_neg (by simp [hl])).trans (if_pos hgo))
  obtain ⟨x, hgo, ha⟩ := State.bootClock_goes (s := u) rfl bs
  have hrsc : x.rsc = (u.inStep4 bs).rsc := by rw [show x = _ from ha]
  have hclk : x.clk = s.clk := by rw [show x = _ from ha]; rfl
  rw [hgo] at hx
  by_cases hlock : s.clk.pll = .locked
  · rw [State.lockPll_locked (hclk ▸ hlock)] at hx
    refine ⟨_, hx, ?_, ?_, ?_⟩
    · exact congrArg Rescue.resetLow hrsc
    · exact congrArg Rescue.bootsel hrsc
    · exact (if_pos hlock).mpr ⟨rfl, rfl⟩
  · obtain ⟨c, hc, hpll⟩ := State.lockPll_starts (s := x) (hclk ▸ hlock)
    rw [hc] at hx
    refine ⟨_, hx, ?_, ?_, ?_⟩
    · exact congrArg Rescue.resetLow hrsc
    · exact congrArg Rescue.bootsel hrsc
    · refine (if_neg hlock).mpr ⟨congrArg Rescue.bootStep hrsc, ?_⟩
      rw [← hclk]
      exact hpll

theorem exec_pcieReset_resets {s : State} (hs : s.rsc.startupDone = true) (hh : s.rsc.hib = .awake) :
    ∃ t, exec .pcieReset s = .next t ∧ t.queen.replies = [] ∧
      t = { s with hif := t.hif, queen := t.queen, ev := t.ev } ∧ (s.hif.pcieUp = true → Raised s t 46) ∧
      (s.hif.pcieUp = false → t.ev = s.ev) ∧
      t.hif = { State.reset.hif with crs := s.hif.crs, ptmOn := s.hif.ptmOn, subHold := decide (0 < s.tagsOn Path.isPcie) } ∧
      ∀ j ∈ t.queen.jobs, j.key.path.isPcie = true → j.discard = true := by
  have hx : exec .pcieReset s = .next s.pcieReset := by
    show execPcieReset s = _
    simp [execPcieReset, hs, hh]
  have hdisc := s.resetPcie_discards
  cases hu : s.hif.pcieUp
  · have hd : s.pcieReset = s.resetPcie := State.pcieDown_down (s := s.resetPcie) hu 0
    rw [hd] at hx
    exact ⟨_, hx, rfl, rfl, nofun, fun _ => rfl, by simp only [State.resetPcie, hu]; rfl, hdisc⟩
  · have hd : s.pcieReset = _ := State.pcieDown_up (s := s.resetPcie) hu 0
    rw [hd] at hx
    refine ⟨_, hx, ?_, ?_, fun _ => ?_, nofun, ?_, ?_⟩
    · rw [State.raise_rest]
      rfl
    · rw [State.raise_rest]
      rfl
    · exact State.raise_raised (by rfl) _ _ _ _
    · rw [State.raise_rest]
      rfl
    · rw [State.raise_rest]
      exact hdisc

theorem exec_pcieLinkUp_raises {s : State} (ptm : Bool) (hp : s.pdOn 3 = true) (hc : s.clk.runs = true) (hr : s.clk.refOk = true)
    (hu : s.hif.pcieUp = false) (hh : s.rsc.hib = .awake) : ∃ t, exec (.pcieLinkUp ptm) s = .next t ∧
      t.hif = { s.hif with pcieUp := true, ptmOn := ptm } ∧ Raised s t 46 := by
  have hx : exec (.pcieLinkUp ptm) s = .next (State.raise { s with hif := { s.hif with pcieUp := true, ptmOn := ptm } } 46 1 0
      (detail [(0, 1, 1)])) := by
    show execPcieLinkUp ptm s = _
    simp [execPcieLinkUp, hp, hc, hr, hu, hh]
  refine ⟨_, hx, ?_, ?_⟩
  · rw [State.raise_rest]
  · exact State.raise_raised (by rfl) _ _ _ _

/-- Settles O34: each reset by what it leaves, from the lemmas of its steps. -/
theorem resets : Obligations.Resets := by
  refine ⟨fun s hp hr => ?absorbed, fun s bs hp hr => ?device, fun s p h => ?command, fun s => ?pcie⟩
  case absorbed =>
    have hr' : State.powerOnRuns { s with rsc := { s.rsc with resetLow := true } } = true := hr
    exact congrArg Host.Outcome.next (if_pos (by rw [hr']; simp))
  case device =>
    intro going
    have resets {u : State} (hu : u.pdOn 0 = true) (hr : u.powerOnRuns = false) (hd : u.rsc.deferred ≠ some .powerOn)
        (hn : u.nvBusy = false) : DeviceWasReset u (u.raiseDevice bs) := by
      rw [State.raiseDevice_resets hu hr hd hn]
      exact u.deviceReset_resets bs
    refine ⟨fun hn hd => ?reset, fun hn hd => ?waits, fun hl hd hb hs => ?release, fun hd hl hn => ?deferred, fun x hd hl hn => ?power,
      fun ha hn hd => ?armed, fun ha hs hd => ?queen⟩
    case reset =>
      let u : State := { s with rsc := { s.rsc with resetLow := true } }
      have hlow : u.deviceReset.rsc.resetLow = true := by rw [u.deviceReset_after.rsc]; rfl
      have hx : u.raiseDevice 0 = u.deviceReset.bootStep 3 :=
        (State.raiseDevice_resets (s := u) hp hr hd hn 0).trans (State.bootClock_waits hlow 0)
      have hw := u.deviceReset_resets 0
      rw [State.bootClock_waits hlow] at hw
      refine ⟨_, congrArg Host.Outcome.next hx, hw.withRsc, ?_, ?_⟩ <;> generalize u.deviceReset = v at hlow ⊢
      · rfl
      · exact hlow
    case waits =>
      let u : State := { s with rsc := { s.rsc with resetLow := true } }
      have hgo : ¬ (!u.pdOn 0 || u.powerOnRuns || decide (u.rsc.deferred = some .powerOn)) = true := by
        rw [show u.pdOn 0 = true from hp, show u.powerOnRuns = false from hr, decide_eq_false hd]
        decide
      exact congrArg Host.Outcome.next ((if_neg hgo).trans (if_pos hn))
    case release =>
      exact exec_resetNRelease_goes hp hl hd hb hs bs
    case deferred =>
      have hx : exec (.deferredReset bs) s = .next (State.raiseDevice { s with rsc := { s.rsc with deferred := none } } bs) := by
        show execDeferredReset bs s = _
        simp [execDeferredReset, hd, hl, hn]
      exact ⟨_, hx, (resets (u := { s with rsc := { s.rsc with deferred := none } }) hp hr nofun hn).withRsc⟩
    case power =>
      have hx : exec (.deferredReset bs) s = .next (s.powerLost x.supply x.cause x.detail x.sensor) := by
        show execDeferredReset bs s = _
        simp [execDeferredReset, State.losePower, hd, hl, hn]
      exact ⟨_, hx, s.powerLost_loses _ _ _ _⟩
    case armed =>
      have hx : exec (.resetBegin bs) s = .next (State.raiseDevice { s with rsc := { s.rsc with armedReset := none } } bs) := by
        show execResetBegin bs s = _
        rw [execResetBegin, ha]
      exact ⟨_, hx, (resets (u := { s with rsc := { s.rsc with armedReset := none } }) hp hr hd hn).withRsc⟩
    case queen =>
      have hx : exec (.resetBegin bs) s = .next (State.raiseQueen { s with rsc := { s.rsc with armedReset := none } }) := by
        show execResetBegin bs s = _
        rw [execResetBegin, ha]
      obtain ⟨up, cal, forwards, rsc, tb, owner⟩ :=
        State.raiseQueen_resets (s := { s with rsc := { s.rsc with armedReset := none } }) hp hs hd
      exact ⟨_, hx, up, by rw [rsc], by rw [rsc], by rw [rsc], tb, owner, cal, forwards⟩
  case command =>
    exact ⟨_, _, sysReset_ends h, ⟨⟨_, rfl, rfl, rfl, rfl⟩, rfl, rfl⟩, rfl, List.getLast?_concat .., rfl⟩
  case pcie =>
    refine ⟨fun hs => ?_, exec_pcieReset_resets, exec_pcieLinkUp_raises, rfl⟩
    show execPcieReset s = _
    simp [execPcieReset, hs]

end Sys2Proof.Machine
end


section
/-! SUPPORT. The I2C path and the rescue registers (spec/02_command_interface.md, R53 to R56). -/

namespace Sys2Proof.Machine

/-! Bytes. -/

/-- The first `n` bytes, zeros where there are fewer. -/
theorem padded_take (bs : Bytes) (n : Nat) :
    (bs ++ List.replicate (n - bs.length) 0).take n = (bs ++ List.replicate n 0).take n := by
  simp only [List.take_append, List.take_replicate]
  congr 2
  omega

theorem padded_length (bs : Bytes) (n : Nat) : ((bs ++ List.replicate (n - bs.length) 0).take n).length = n := by
  simp only [List.length_take, List.length_append, List.length_replicate]
  omega

theorem bytesOfWords_nil (ws : Words) : bytesOfWords ws = [] ↔ ws = [] := by
  cases ws with
  | nil => simp [bytesOfWords]
  | cons w ws => simp [bytesOfWords, numBytes]

/-- The bits of a word that stands in the lower or in the upper half of a number. -/
theorem wordBits (hi : Bool) (v : Word) (e : Nat) : (if hi then v.toNat * 2 ^ 32 else v.toNat).testBit e = true ↔
    (if hi then 32 else 0) ≤ e ∧ e < (if hi then 32 else 0) + 32 ∧ v.getLsbD (e - if hi then 32 else 0) = true := by
  have inside {i : Nat} (h : v.getLsbD i = true) : i < 32 := BitVec.lt_of_getLsbD h
  cases hi with
  | false =>
    simp only [Bool.false_eq_true, if_false, BitVec.testBit_toNat, Nat.zero_le, true_and, Nat.sub_zero, Nat.zero_add]
    exact ⟨fun h => ⟨inside h, h⟩, And.right⟩
  | true =>
    simp only [if_true, Nat.testBit_mul_two_pow, BitVec.testBit_toNat, Bool.and_eq_true, decide_eq_true_eq]
    exact ⟨fun ⟨hle, h⟩ => ⟨hle, by have := inside h; omega, h⟩, fun ⟨hle, _, h⟩ => ⟨hle, h⟩⟩

/-! The rescue range (R53). -/

theorem rscBytes_length (s : State) : s.rscBytes.length = 0x24 := by
  simp [State.rscBytes, bytesOfWords]

theorem rscBytes_status (s : State) : (s.rscBytes.drop 4).take 4 = numBytes 4 s.rscStatus.toNat := by
  simp [State.rscBytes, bytesOfWords, numBytes]

theorem rscBytes_unread (s : State) : (s.rscBytes.drop 0x18).take 8 = List.replicate 8 0 := by
  simp [State.rscBytes, bytesOfWords, numBytes, List.replicate]

/-! Transactions outside HIBERNATE. -/

section
variable {s : State}

theorem i2cTouch_awake (h : s.rsc.hib = .awake) : s.i2cTouch = s := by
  simp only [State.i2cTouch, State.wakeMatch, h]

theorem ackEvents_rest (s : State) (m : Nat) : s.ackEvents m = { s with ev := (s.ackEvents m).ev } := by
  simp only [State.ackEvents]

theorem ackEvents_touch (h : s.rsc.hib = .awake) (m : Nat) : (s.ackEvents m).i2cTouch = s.ackEvents m :=
  i2cTouch_awake (by rw [ackEvents_rest]; exact h)

section
variable (hp : s.pdOn 0 = true) (ha : s.rsc.hib = .awake)
include hp ha

theorem i2cPacket_refused (data : Bytes) (pec : Byte) (host : Option Bytes)
    (hn : ¬ (s.queen.serves = true ∧ s.queenClocked = true ∧ s.tagsOn Path.isI2c < 4)) : s.i2cPacket data pec host = s.emit .i2cNack := by
  have hbusy : (!s.queen.serves || !s.queenClocked || s.rsc.hib != .awake || decide (4 ≤ s.tagsOn Path.isI2c)) = true := by
    by_contra hc
    simp only [ha, bne_self_eq_false, Bool.or_false, Bool.not_eq_true, Bool.or_eq_false_iff, Bool.not_eq_false', decide_eq_false_iff_not,
      not_le] at hc
    exact hn ⟨hc.1.1, hc.1.2, hc.2⟩
  rw [State.i2cPacket, hp, if_neg (by decide), if_pos hbusy]
  exact i2cTouch_awake (s := s.emit .i2cNack) ha

/-- What a packet on the I2C path comes to that the Queen core can take. -/
theorem i2cPacket_taken (data : Bytes) (pec : Byte) (host : Option Bytes)
    (h : s.queen.serves = true ∧ s.queenClocked = true ∧ s.tagsOn Path.isI2c < 4) : s.i2cPacket data pec host =
    if !s.pecOk 0x80 data pec then s.pecError
    else if 1024 < data.length || (Pkt.ofWords (wordsOfBytes data) host).length.toNat != data.length then
      s.badLength .i2c (Pkt.ofWords (wordsOfBytes data) host)
    else s.deliver .i2c (Pkt.ofWords (wordsOfBytes data) host) := by
  have hfree : ¬ (!s.queen.serves || !s.queenClocked || s.rsc.hib != .awake || decide (4 ≤ s.tagsOn Path.isI2c)) = true := by
    simp [h.1, h.2.1, ha, Nat.not_le.mpr h.2.2]
  rw [State.i2cPacket, hp, if_neg (by decide), if_neg hfree]

theorem i2cPacket_delivers {data : Bytes} {pec : Byte} (host : Option Bytes)
    (h : s.queen.serves = true ∧ s.queenClocked = true ∧ s.tagsOn Path.isI2c < 4) (hk : s.pecOk 0x80 data pec = true)
    (hl : data.length ≤ 1024) (hp' : (Pkt.ofWords (wordsOfBytes data) host).length.toNat = data.length) :
    s.i2cPacket data pec host = s.deliver .i2c (Pkt.ofWords (wordsOfBytes data) host) := by
  rw [i2cPacket_taken hp ha data pec host h, hk, if_neg nofun, if_neg]
  simp only [Bool.or_eq_true, decide_eq_true_eq, bne_iff_ne, not_or, not_not]
  exact ⟨Nat.not_lt.mpr hl, hp'⟩

/-- A read of the oldest reply: the last byte read consumes it. -/
theorem i2cReply_some {r : Reply} {l : List Reply} (hr : s.queen.i2cReplies = r :: l) (hw : r.words ≠ []) (n : Nat) : s.i2cReply n =
    { s.i2cRead 0x81 ((bytesOfWords r.words ++ List.replicate (n - (bytesOfWords r.words).length) 0).take n) with
      queen := { s.queen with i2cReplies := if (bytesOfWords r.words).length ≤ n then l else r :: l } } := by
  have hne : (bytesOfWords r.words).isEmpty = false := by
    rw [List.isEmpty_eq_false_iff]
    exact fun h => hw ((bytesOfWords_nil _).mp h)
  rw [State.i2cReply, hp, if_neg (by decide)]
  simp only [hr, hne, Bool.false_or, decide_eq_true_eq]
  rw [i2cTouch_awake (s := s.i2cRead 0x81 _) ha]
  by_cases hn : n < (bytesOfWords r.words).length
  · rw [if_pos hn, if_neg (Nat.not_le.mpr hn), ← hr]
    rfl
  · rw [if_neg hn, if_pos (Nat.not_lt.mp hn)]
    exact congrArg (fun x => { s.i2cRead 0x81 _ with queen := { s.queen with i2cReplies := x } }) (congrArg (List.drop 1) hr)

theorem i2cReply_none (hr : s.queen.i2cReplies = []) (n : Nat) : s.i2cReply n = s.i2cRead 0x81 (List.replicate n 0) := by
  rw [State.i2cReply, hp, if_neg (by decide)]
  simp only [hr]
  rw [i2cTouch_awake (s := s.i2cRead 0x81 _) ha]
  simp

theorem rscStatusRead_range {ptr : Byte} (hptr : ptr.toNat < 0x24) (n : Nat) : exec (.rscStatusRead ptr n) s = .next
    { s.i2cRead ptr ((s.rscBytes.drop ptr.toNat ++ List.replicate (n - (s.rscBytes.drop ptr.toNat).length) 0).take n) with
      rsc := { s.rsc with pecErr := s.rsc.pecErr && !(decide (ptr.toNat ≤ 5 ∧ 5 < ptr.toNat + n)) } } := by
  have hlisted : listedPtr ptr = true := by simp [listedPtr, hptr]
  have h80 : ptr ≠ 0x80 := fun h => by rw [h] at hptr; exact absurd hptr (by decide)
  have h81 : ptr ≠ 0x81 := fun h => by rw [h] at hptr; exact absurd hptr (by decide)
  show execRscStatusRead ptr n s = _
  rw [execRscStatusRead, hp, hlisted, if_neg (by decide), if_neg (by decide), if_neg h81, if_neg h80, Bool.decide_and]
  exact congrArg Host.Outcome.next (i2cTouch_awake ha)

theorem rsc_unlisted {ptr : Byte} (hptr : 0x24 ≤ ptr.toNat) (h80 : ptr ≠ 0x80) (h81 : ptr ≠ 0x81) (n : Nat) (data : Bytes) (pec : Byte) :
    exec (.rscStatusRead ptr n) s = .next (s.emit .i2cNack) ∧
      exec (.registerWrite (.rescue ptr data pec)) s = .next (s.emit .i2cNack) := by
  have hlisted : listedPtr ptr = false := by
    rw [listedPtr, decide_eq_false (Nat.not_lt.mpr hptr), decide_eq_false h80, decide_eq_false h81]
    rfl
  have hx : (s.emit .i2cNack).i2cTouch = s.emit .i2cNack := i2cTouch_awake ha
  refine ⟨?_, ?_⟩
  · show execRscStatusRead ptr n s = _
    rw [execRscStatusRead, hp, hlisted, if_neg (by decide), if_pos (by decide), hx]
  · show Host.Outcome.next (s.rscWrite ptr data pec) = _
    rw [State.rscWrite, hp, hlisted, if_neg (by decide), if_pos (by decide), hx]

/-- What a write comes to at a pointer that is listed and takes no packet. -/
theorem rscWrite_listed {ptr : Byte} (hptr : ptr.toNat < 0x24 ∨ ptr = 0x81) (data : Bytes) (pec : Byte) : s.rscWrite ptr data pec =
    if !s.pecOk ptr data pec then s.pecError
    else if ptr = 0x0C then s.ackEvents (bytesNum (data.take 4))
    else if ptr = 0x10 then s.ackEvents (bytesNum (data.take 4) * 2 ^ 32)
    else s := by
  have hlisted : listedPtr ptr = true := by
    rcases hptr with hptr | hptr
    · simp [listedPtr, hptr]
    · rw [hptr]; decide
  have h80 : ptr ≠ 0x80 := fun h => by rw [h] at hptr; exact absurd hptr (by decide)
  rw [State.rscWrite, hp, hlisted, if_neg (by decide), if_neg (by decide), if_neg h80, i2cTouch_awake (s := s.pecError) ha,
    ackEvents_touch ha, ackEvents_touch ha, i2cTouch_awake ha]

theorem rscEvtAck_acks (hi : Bool) (v : Word) {pec : Byte} (hpec : s.pecOk (if hi then 0x10 else 0x0C) (numBytes 4 v.toNat) pec = true) :
    exec (.rscEvtAck hi v pec) s = .next (s.ackEvents (if hi then v.toNat * 2 ^ 32 else v.toNat)) := by
  show execRscEvtAck hi v pec s = _
  rw [execRscEvtAck, hp, hpec, if_neg (by decide), if_neg (by decide), ackEvents_touch ha]

theorem rscReset_ignored {v : Word} {pec : Byte} (hpec : s.pecOk 0x18 (numBytes 4 v.toNat) pec = true) (hk : bitsOf v.toNat 0 16 ≠ 0x5155)
    (scope : Nat) (reset : State → State) : s.rscReset v pec scope reset = s := by
  have hno : (bitsOf v.toNat 0 16 != 0x5155 || bitsOf v.toNat 16 2 != scope) = true := by simp [hk]
  rw [State.rscReset, hp, hpec, if_neg (by decide), if_neg (by decide), if_pos hno, i2cTouch_awake ha]

theorem rscReset_acts {v : Word} {pec : Byte} (hpec : s.pecOk 0x18 (numBytes 4 v.toNat) pec = true) (hk : bitsOf v.toNat 0 16 = 0x5155)
    {scope : Nat} (hs : bitsOf v.toNat 16 2 = scope) (reset : State → State) : s.rscReset v pec scope reset = reset s := by
  have hyes : ¬ (bitsOf v.toNat 0 16 != 0x5155 || bitsOf v.toNat 16 2 != scope) = true := by simp [hk, hs]
  rw [State.rscReset, hp, hpec, if_neg (by decide), if_neg (by decide), if_neg hyes, i2cTouch_awake ha]

end

end

/-! What the checks of an accepted packet have found. -/

theorem firstOf_eq_none {l : List (Option Verdict)} (h : firstOf l = none) : ∀ v ∈ l, v = none := by
  induction l with
  | nil => exact fun v hv => absurd hv List.not_mem_nil
  | cons v l ih =>
    cases v with
    | some v => exact absurd h nofun
    | none => exact fun v hv => (List.mem_cons.mp hv).elim id (ih h v)

theorem refuseIf_eq_none {b : Bool} {st : Status} {i : Nat} (h : refuseIf b st i = none) : b = false := by
  cases b
  · rfl
  · exact absurd h nofun

section
variable {d : CmdDef} {s : State} {j : Job}

theorem acceptCheck_length (h : acceptCheck d s j = none) : j.p.length.toNat = d.length j.p := by
  have hl := refuseIf_eq_none (firstOf_eq_none (acceptCheck_eq d s j ▸ h) _ (.tail _ (.head _)))
  simpa using (Bool.or_eq_false_iff.mp hl).2

theorem acceptCheck_units (h : acceptCheck d s j = none) : d.checks s (applyJob d j) = none :=
  firstOf_eq_none (acceptCheck_eq d s j ▸ h) _ (by simp)

end

theorem block_length {p : Pkt} {n : Nat} (h : p.length.toNat = 32 + 4 * n) : p.block.length = n := by
  have hn : p.blockLen = n := by rw [Pkt.blockLen, h]; omega
  simp only [Pkt.block, hn, List.length_take, List.length_append, List.length_replicate]
  omega

/-! `SYS_NOP` on the I2C path. -/

theorem run_ofNop {p : Pkt} (ho : p.opcode = 0) (s : State) : s.stuckAt p = none ∧ s.waitsMemory p = false := by
  simp [State.stuckAt, State.waitsMemory, pktDies, pktAddress, ho]

/-- The commit of a job of the I2C path that has just come. -/
theorem commitRaw_i2c {s : State} {j i : Job} (hk : j.key.path = .i2c) (hd : j.discard = false) (ha : j.after = .nothing) (hi : i.key = j.key)
    (hcalm : s.abortAsked j.key = false) (hfree : s.tagUsed j.key = false)
    (st : Status) (idx : Nat) (mask : BitVec 64) (body : Words) : (s.addJob i).commitRaw j st idx mask body =
    { s with queen := { s.queen with i2cReplies := s.queen.i2cReplies ++
      [⟨j.key, replyWords s j.p.opcode j.key.tag st idx j.late mask body, true, .nothing⟩] } } := by
  have hdrop : (s.addJob i).dropJob j.key = s := by
    have hjobs : ((s.queen.jobs ++ [i]).filter fun a => !sameKey a.key j.key) = s.queen.jobs := by
      rw [List.filter_append, filter_free hfree, List.filter_cons_of_neg (by rw [hi, sameKey_self]; decide)]
      exact List.append_nil _
    simp only [State.dropJob, State.addJob, hjobs]
  have hnone : (s.queen.jobs.filter fun a => a.awaits j.key) = [] := by
    rw [List.filter_eq_nil_iff]
    simpa only [State.abortAsked, List.any_eq_false] using hcalm
  simp only [State.commitRaw, hdrop, hd, State.pushReply, hk, ha, Bool.false_eq_true, if_false, if_true, hnone]
  rfl

theorem sysNop_i2c {s : State} {p : Pkt} (ho : p.opcode = 0) (hfree : s.tagUsed ⟨.i2c, p.tag⟩ = false)
    (hcalm : s.abortAsked ⟨.i2c, p.tag⟩ = false) (hw : s.mustWait .i2c p = false) (he : p.execAt = 0)
    (hc : acceptCheck cmdSysNop (s.addJob (Job.fresh .i2c p)) (Job.fresh .i2c p) = none) :
    cmdSysNop.take .i2c p s = { s with queen := { s.queen with i2cReplies := s.queen.i2cReplies ++
      [⟨⟨.i2c, p.tag⟩, replyWords s 0 p.tag stDone 0xFF false 0 [], true, .nothing⟩] } } := by
  let i : Job := { Job.fresh .i2c p with phase := .running, args := p.block }
  have htake : cmdSysNop.take .i2c p s = cmdSysNop.run (applyJob cmdSysNop (Job.fresh .i2c p)) (s.addJob (Job.fresh .i2c p)) := by
    have hfree' : s.tagUsed (Job.fresh .i2c p).key = false := hfree
    have he' : (applyJob cmdSysNop (Job.fresh .i2c p)).p.execAt = 0 := he
    rw [CmdDef.take, hfree', hw, Bool.false_and, if_neg nofun, if_neg nofun, CmdDef.begin, hc]
    simp only [he', if_true]
  have hset : (s.addJob (Job.fresh .i2c p)).setJob i = s.addJob i := by
    have hold : (s.queen.jobs.map fun a => if sameKey a.key i.key then i else a) = s.queen.jobs := by
      conv_rhs => rw [← List.map_id s.queen.jobs]
      exact List.map_congr_left fun a ha => if_neg (by rw [show sameKey a.key i.key = false from jobs_free hfree a ha]; decide)
    have hnew : sameKey (Job.fresh .i2c p).key i.key = true := sameKey_self _
    simp only [State.setJob, State.addJob, List.map_append, hold, List.map_cons, List.map_nil, hnew, if_true]
  obtain ⟨hstuck, hmem⟩ := run_ofNop ho (s.addJob (Job.fresh .i2c p))
  have hrun : cmdSysNop.take .i2c p s = (s.addJob i).commitDone i [] := by
    rw [htake, run_clear hstuck hmem, ← hset]
    rfl
  have hblock : i.args = [] := List.length_eq_zero_iff.mp (block_length (n := 0) (acceptCheck_length hc))
  have hbody : echoOf (echoEndOf i.p.opcode) i.args ++ [] = [] := by
    rw [hblock, List.append_nil, show i.p.opcode = 0 from ho]
    rfl
  rw [hrun, State.commitDone, hbody, commitRaw_i2c (i := i) rfl rfl rfl rfl hcalm hfree]
  rw [show i.p.opcode = 0 from ho]
  rfl

/-- Settles O33: the packets and replies of the path, the rescue range by its bytes and its writes, the resets by what they leave. -/
theorem rescuePath : Obligations.RescuePath := by
  refine ⟨fun s data pec host hp ha => ?path, fun s ptr n data pec hp ha => ?range, fun s v pec hi bs hp ha => ?resets⟩
  case path =>
    intro p able
    have mid {t : State} (h : s.i2cPacket data pec host = t) : exec (.i2cPacketWrite data pec host) s = .next t := congrArg Host.Outcome.next h
    refine ⟨fun h => mid (i2cPacket_refused hp ha data pec host h), fun h hk => mid ?_, fun row hrow h hk hl hlen ho => mid ?_,
      fun h hk hl hlen ho hfree hcalm hw he hc => ?_, fun r l n hr hw => ?_, fun n hr => ?_⟩
    · rw [i2cPacket_taken hp ha data pec host h, hk]
      rfl
    · rw [i2cPacket_delivers hp ha host h hk hl hlen, State.deliver, ho, cmdOf_code (mem_allCmds hrow)]
    · have hx : s.i2cPacket data pec host = cmdSysNop.take .i2c p s := by
        rw [i2cPacket_delivers hp ha host h hk hl hlen, State.deliver, ho]
        rfl
      exact ⟨_, _, mid (hx.trans (sysNop_i2c ho hfree hcalm hw he hc)), rfl, rfl, rfl, rfl⟩
    · refine ⟨_, _, congrArg Host.Outcome.next (i2cReply_some hp ha hr hw n), rfl, ?_, rfl⟩
      rw [List.take_append_of_le_length (padded_length _ _).ge, List.take_of_length_le (padded_length _ _).le, padded_take]
    · refine ⟨_, _, congrArg Host.Outcome.next (i2cReply_none hp ha hr n), rfl, ?_, hr⟩
      rw [List.take_append_of_le_length (by simp), List.take_of_length_le (by simp)]
  case range =>
    refine ⟨fun hptr => ?_, ⟨rscBytes_status s, rscBytes_unread s, rscBytes_length s⟩,
      fun hptr h80 h81 => rsc_unlisted hp ha hptr h80 h81 n data pec,
      fun hptr hk => ?_, fun hptr hk h0c h10 _ => ?_⟩
    · refine ⟨_, _, rscStatusRead_range hp ha hptr n, rfl, ?_, ?_, rfl, rfl⟩
      · rw [List.take_append_of_le_length (padded_length _ _).ge, List.take_of_length_le (padded_length _ _).le, padded_take]
      · rw [List.length_append, padded_length]
        rfl
    · refine congrArg Host.Outcome.next ((rscWrite_listed hp ha hptr data pec).trans ?_)
      rw [hk]
      rfl
    · refine congrArg Host.Outcome.next ((rscWrite_listed hp ha hptr data pec).trans ?_)
      rw [hk, if_neg (by decide), if_neg h0c, if_neg h10]
  case resets =>
    intro lo key scope
    refine ⟨fun hk => ⟨_, rscEvtAck_acks hp ha hi v hk, ackEvents_rest _ _, by simp only [State.ackEvents], fun e => ?_⟩,
      fun hk hn => ?_, fun hk hkey hs hd hf => ?_,
      fun hk hkey hs hn hr hf => ?_⟩
    · simp only [State.ackEvents, Vector.getElem_ofFn]
      exact if_congr (wordBits hi v e.val) rfl rfl
    · exact ⟨congrArg Host.Outcome.next (rscReset_ignored hp ha hk hn 1 _), congrArg Host.Outcome.next (rscReset_ignored hp ha hk hn 2 _)⟩
    · obtain ⟨up, -, -, rsc, tb, owner⟩ := State.raiseQueen_resets hp hd hf
      exact ⟨_, congrArg Host.Outcome.next (rscReset_acts hp ha hk hkey hs _), up, by rw [rsc], by rw [rsc], tb, owner⟩
    · refine ⟨_, congrArg Host.Outcome.next (rscReset_acts hp ha hk hkey hs _), ?_⟩
      rw [State.raiseDevice_resets hp hr (by rw [hf]; exact nofun) hn]
      exact s.deviceReset_resets bs

end Sys2Proof.Machine
end


section
/-! SUPPORT. Requests for device memory (spec/02_command_interface.md, R22 to R24; spec/09_memory_and_encryption.md, R265 to R269). -/

namespace Sys2Proof.Machine

/-! Sparse numbers. -/

theorem countGet_countSet (l : List (Nat × Nat)) (k j : Nat) {v : Nat} (hv : v ≠ 0) :
    countGet (countSet l k v) j = if j = k then v else countGet l j := by
  induction l with
  | nil =>
    simp only [countSet, hv, if_false, countGet, eq_comm (a := k)]
    split <;> simp
  | cons c l ih =>
    obtain ⟨i, x⟩ := c
    simp only [countSet, hv, if_false]
    rcases Nat.lt_trichotomy k i with h | rfl | h
    · simp only [h, if_true, countGet]
      grind
    · simp only [lt_irrefl, if_false, if_true, countGet]
      grind
    · have h' : ¬ k < i := by omega
      have h'' : k ≠ i := by omega
      simp only [h', h'', if_false, countGet, ih]
      grind

theorem countGet_countSet_same (l : List (Nat × Nat)) (k : Nat) {v : Nat} (hv : v ≠ 0) : countGet (countSet l k v) k = v := by
  rw [countGet_countSet l k k hv, if_pos rfl]

/-! The nodes of a sector enter the cache (R272). -/

/-- Nothing has changed but the cache of nodes and what it wrote back, no counter of a node by more than `k`. -/
structure Walked (k : Nat) (m m' : Mem) : Prop where
  rest : m' = { m with nodeCtr := m'.nodeCtr, nodeTags := m'.nodeTags, cache := m'.cache }
  low  : ∀ c, countGet m'.nodeCtr c ≤ countGet m.nodeCtr c + k

theorem Walked.refl (m : Mem) : Walked 0 m m := ⟨rfl, fun _ => Nat.le_refl _⟩

theorem Walked.trans {j k : Nat} {m n o : Mem} (h : Walked j m n) (h' : Walked k n o) : Walked (k + j) m o :=
  ⟨h'.rest.trans (by rw [h.rest]), fun c => by have := h.low c; have := h'.low c; omega⟩

theorem Walked.weaken {j k : Nat} {m n : Mem} (h : Walked j m n) (hjk : j ≤ k) : Walked k m n :=
  ⟨h.rest, fun c => by have := h.low c; omega⟩

theorem Mem.writeBack_walked (m : Mem) (c : Nat) : Walked 1 m (m.writeBack c) := by
  refine ⟨rfl, fun d => ?_⟩
  show countGet (countSet m.nodeCtr c (countGet m.nodeCtr c + 1)) d ≤ _
  rw [countGet_countSet _ _ _ (Nat.succ_ne_zero _)]
  split
  · next h => rw [h]
  · omega

theorem Mem.evict_walked (m : Mem) (hold : Nat → Bool) : Walked 1 m (m.evict hold) := by
  have keep (m : Mem) (l : List (Nat × Bool)) : Walked 0 m { m with cache := l } := ⟨rfl, fun _ => Nat.le_refl _⟩
  unfold Mem.evict
  split
  · exact (Walked.refl m).weaken (by decide)
  · split
    · exact (Walked.refl m).weaken (by decide)
    · dsimp only
      split
      · exact (m.writeBack_walked _).trans (keep _ _)
      · exact (keep m _).weaken (by decide)

theorem Mem.walk_walked (hold : Nat → Bool) (n : Fin 4) (i : Nat) (m : Mem) : Walked 9 m (m.walk hold n i) := by
  have along (l : List Nat) : ∀ m : Mem, Walked l.length m
      (l.foldl (fun m c => if m.cached c then m else ({ m with cache := (c, false) :: m.cache }).evict hold) m) := by
    induction l with
    | nil => exact Walked.refl
    | cons c l ih =>
      intro m
      refine Walked.trans (n := if m.cached c then m else ({ m with cache := (c, false) :: m.cache }).evict hold) ?_ (ih _)
      split
      · exact (Walked.refl m).weaken (by decide)
      · have enter : Walked 0 m { m with cache := (c, false) :: m.cache } := ⟨rfl, fun _ => Nat.le_refl _⟩
        exact enter.trans (Mem.evict_walked _ hold)
  have h := along (pathOf n i).reverse m
  rwa [List.length_reverse, pathOf, List.length_map, List.length_range] at h

/-! A sector that opens (R266, R272). -/

/-- The state with a sector open: its nodes in the cache, the hit or miss counted. -/
def State.opened (s : State) (b : Nat) : State :=
  let l := s.mem.locate (512 * b)
  (s.memCount l.1 (if s.mem.cached (nodeCode l.1 1 (l.2 / 512 / 8)) then 4 else 5)).walkNodes l.1 (l.2 / 512)

section
variable {s : State} {q : Requester}

theorem openSector_opened (h : s.opens q) (a b : Nat) (reads : Bool) : s.openSector q a b reads .ok = ⟨s.opened b, none, .ok⟩ := by
  have hp (n : Fin 4) (i : Nat) : s.mem.poisoned n i = none := by simp [Mem.poisoned, h.2.1, h.2.2 n]
  have hr (u : State) (n : Fin 4) (i : Nat) : u.readSector q n i a .ok = ⟨u, none, .ok⟩ := rfl
  unfold State.openSector State.opened
  simp only [h.1, hp, State.fetchedNode, Option.isSome_none, Bool.false_eq_true, if_false, hr, ite_self]

theorem walkNodes_mem (s : State) (n : Fin 4) (i : Nat) : (s.walkNodes n i).mem = s.mem.walk s.windowHolds n i := by
  rw [State.walkNodes]

theorem opened_walks (s : State) (b : Nat) : ∃ n c i, s.opened b = (s.memCount n c).walkNodes n i := ⟨_, _, _, by unfold State.opened; rfl⟩

theorem opened_opens (h : s.opens q) (b : Nat) : (s.opened b).opens q := by
  obtain ⟨n, c, i, hb⟩ := opened_walks s b
  rw [hb]
  exact walkNodes_opens (memCount_opens h _ _) _ _

theorem opened_mem (s : State) (b : Nat) : ∃ l, Walked 9 { s.mem with hbm := l } (s.opened b).mem := by
  obtain ⟨n, c, i, hb⟩ := opened_walks s b
  refine ⟨(s.memCount n c).mem.hbm, ?_⟩
  have hm : { s.mem with hbm := (s.memCount n c).mem.hbm } = (s.memCount n c).mem := rfl
  rw [hb, hm, walkNodes_mem]
  exact Mem.walk_walked _ n i _

theorem opened_rest (s : State) (b : Nat) : s.opened b = { s with mem := (s.opened b).mem } := by
  obtain ⟨n, c, i, hb⟩ := opened_walks s b
  rw [hb, State.walkNodes]
  generalize (s.memCount n c).mem.walk _ n i = m
  rfl

/-! Bytes of device memory. -/

/-- Nothing has changed but memory, and in it neither what its bytes read as nor the versions of the sectors. -/
structure Looked (s t : State) : Prop where
  rest  : t = { s with mem := t.mem }
  cells : t.mem.cells = s.mem.cells
  undef : t.mem.undef = s.mem.undef
  secs  : t.mem.secCtr = s.mem.secCtr

theorem Looked.refl (s : State) : Looked s s := ⟨rfl, rfl, rfl, rfl⟩

theorem Looked.trans {s t u : State} (h : Looked s t) (k : Looked t u) : Looked s u :=
  ⟨k.rest.trans (by rw [h.rest]), k.cells.trans h.cells, k.undef.trans h.undef, k.secs.trans h.secs⟩

theorem opened_looked (s : State) (b : Nat) : Looked s (s.opened b) := by
  obtain ⟨l, hw⟩ := opened_mem s b
  refine ⟨opened_rest s b, ?_, ?_, ?_⟩ <;> rw [hw.rest]

theorem byte_congr {m n : Mem} (hc : n.cells = m.cells) (hu : n.undef = m.undef) (a : Nat) : n.byte a = m.byte a := by
  rw [Mem.byte, Mem.byte, hc, hu]

theorem Looked.keeps {t : State} (h : Looked s t) : KeepsBytes s t := byte_congr h.cells h.undef

/-- A read that meets nothing but sectors that open. -/
theorem hbmOpen_looks (h : s.opens q) (a len : Nat) (hs : s.sealedRange a len true = false) :
    ∃ t, s.hbmOpen q a len .ok = ⟨t, none, .ok⟩ ∧ Looked s t := by
  have along (l : List (Nat × Nat × Nat)) : ∀ u : State, u.opens q → ∃ t, Looked u t ∧
      l.foldl (fun (r : Served) p => match r.fail with
        | some _ => r
        | none => r.st.openSector q (512 * p.1 + p.2.1) p.1 true r.err) ⟨u, none, .ok⟩ = ⟨t, none, .ok⟩ := by
    induction l with
    | nil => exact fun u _ => ⟨u, .refl u, rfl⟩
    | cons p l ih =>
      intro u hu
      obtain ⟨t, ht, hx⟩ := ih (u.opened p.1) (opened_opens hu _)
      refine ⟨t, (opened_looked u p.1).trans ht, ?_⟩
      rw [List.foldl_cons]
      dsimp only
      rw [openSector_opened hu]
      exact hx
  obtain ⟨t, ht, hx⟩ := along (sectorParts a len) s h
  exact ⟨t, by rw [State.hbmOpen, hs, if_neg nofun]; exact hx, ht⟩

/-! Writes (R265, R267, R269). -/

theorem sealedAt_open (h : NoneSealed s) (a : Nat) : s.sealedAt a = false := by
  rw [State.sealedAt, List.any_eq_false]
  intro x hx
  obtain ⟨n, hn, rfl⟩ := List.getElem_of_mem hx
  have := h ⟨n, by simpa using hn⟩
  simp_all

theorem sealedRange_open (h : NoneSealed s) (a len : Nat) (decrypted : Bool) : s.sealedRange a len decrypted = false := by
  rw [State.sealedRange, List.any_eq_false]
  intro x hx
  obtain ⟨n, hn, rfl⟩ := List.getElem_of_mem hx
  have := h ⟨n, by simpa using hn⟩
  simp_all

theorem writeOpen_open (h : NoneSealed s) (a : Nat) (bs : Bytes) : s.writeOpen a bs = s.mem.write a bs := by
  have along (bs : Bytes) : ∀ (m : Mem) (k : Nat), (bs.zipIdx k).foldl (fun m e => m.put (a + e.2) e.1) m = m.write (a + k) bs := by
    induction bs with
    | nil => intro m k; rfl
    | cons b bs ih =>
      intro m k
      rw [List.zipIdx_cons, List.foldl_cons, ih, Mem.write, Nat.add_assoc]
  simp only [State.writeOpen, sealedAt_open h, Bool.false_eq_true, if_false]
  exact along bs s.mem 0

theorem Mem.write_rest (bs : Bytes) : ∀ (m : Mem) (a : Nat), m.write a bs = { m with cells := (m.write a bs).cells } := by
  induction bs with
  | nil => exact fun _ _ => rfl
  | cons b bs ih => exact fun m a => ih (m.put a b) (a + 1)

theorem Mem.sealBlock_secCtr (m : Mem) (b : Nat) : countGet (m.sealBlock b).secCtr b = countGet m.secCtr b + 1 :=
  countGet_countSet_same _ _ (Nat.succ_ne_zero _)

/-- What a write of one sector stores. -/
def State.sectorWritten (s : State) (b off : Nat) (bs : Bytes) : State :=
  { s.opened b with mem := ((s.opened b).mem.write (512 * b + off) bs).sealBlock b }

theorem writeSector_stores (h : s.opens q) (hn : NoneSealed s) (hsec : ∀ b, countGet s.mem.secCtr b < 2 ^ 63)
    (hnode : ∀ c, countGet s.mem.nodeCtr c < 2 ^ 63) (b off : Nat) (bs : Bytes) :
    s.writeSector q b off bs .ok = ⟨s.sectorWritten b off bs, none, .ok⟩ := by
  have hopen : (s.opened b).writeOpen (512 * b + off) bs = (s.opened b).mem.write (512 * b + off) bs := by
    have hcfg : (s.opened b).cfg = s.cfg := by rw [opened_rest]
    exact writeOpen_open (fun n => by rw [hcfg]; exact hn n) _ _
  have hsec' : countGet (s.opened b).mem.secCtr b ≠ 2 ^ 64 - 1 := by
    rw [(opened_looked s b).secs]
    exact Nat.ne_of_lt (lt_trans (hsec b) (by decide))
  obtain ⟨l, hw⟩ := opened_mem s b
  have hnode' (c : Nat) : countGet (s.opened b).mem.nodeCtr c ≠ 2 ^ 64 - 1 := by
    have hl := hw.low c
    have hb : countGet s.mem.nodeCtr c < 2 ^ 63 := hnode c
    dsimp only at hl
    omega
  unfold State.writeSector State.sectorWritten
  dsimp only
  rw [openSector_opened h]
  generalize s.opened b = u at hopen hsec' hnode' ⊢
  have hany (l : List Nat) : (l.any fun c => decide (countGet u.mem.nodeCtr c = 2 ^ 64 - 1)) = false :=
    List.any_eq_false.mpr fun c _ => by rw [decide_eq_false (hnode' c)]; decide
  simp only [hsec', hany, hopen, decide_false, Bool.or_self, Bool.false_eq_true, if_false]

theorem sectorWritten_rest (s : State) (b off : Nat) (bs : Bytes) :
    s.sectorWritten b off bs = { s with mem := (s.sectorWritten b off bs).mem } := by
  have hrest := opened_rest s b
  unfold State.sectorWritten
  generalize ((s.opened b).mem.write (512 * b + off) bs).sealBlock b = m
  rw [hrest]

theorem sectorWritten_stores (hwf : s.mem.wf = true) (b off : Nat) (bs : Bytes) : Wrote s (s.sectorWritten b off bs) (512 * b + off) bs ∧
    countGet (s.sectorWritten b off bs).mem.secCtr b = countGet s.mem.secCtr b + 1 := by
  have hl := opened_looked s b
  have hwf' : (s.opened b).mem.wf = true := Mem.wf_congr hl.cells hl.undef hwf
  have hbyte (k : Nat) : (s.sectorWritten b off bs).mem.byte k = ((s.opened b).mem.write (512 * b + off) bs).byte k := rfl
  refine ⟨⟨fun i hi => ?_, fun k hk => ?_⟩, ?_⟩
  · rw [hbyte, Mem.byte_write_inside bs _ _ _ hwf' hi]
  · rw [hbyte, Mem.byte_write_outside bs _ _ _ hwf' hk]
    exact hl.keeps k
  · refine (Mem.sealBlock_secCtr _ b).trans ?_
    rw [Mem.write_rest, hl.secs]

theorem sectorParts_within {a len : Nat} (hl : 0 < len) (hw : a / 512 = (a + len - 1) / 512) :
    sectorParts a len = [(a / 512, a - 512 * (a / 512), len)] := by
  have hlo : max a (512 * (a / 512)) = a := by omega
  have hhi : min (a + len) (512 * (a / 512 + 1)) - a = len := by omega
  rw [sectorParts, if_neg (by omega), ← hw, Nat.sub_self]
  simp [hlo, hhi]

theorem hbmWrite_stores (h : s.opens q) (hn : NoneSealed s) (hsec : ∀ b, countGet s.mem.secCtr b < 2 ^ 63)
    (hnode : ∀ c, countGet s.mem.nodeCtr c < 2 ^ 63) {a : Nat} {data : Bytes} (hl : 0 < data.length)
    (hw : a / 512 = (a + data.length - 1) / 512) :
    s.hbmWrite q a data .ok = ⟨s.sectorWritten (a / 512) (a - 512 * (a / 512)) data, none, .ok⟩ := by
  have hoff : 512 * (a / 512) + (a - 512 * (a / 512)) = a := by omega
  rw [State.hbmWrite, sectorParts_within hl hw]
  simp only [List.foldl_cons, List.foldl_nil, hoff, Nat.sub_self, List.drop_zero, List.take_length]
  exact writeSector_stores h hn hsec hnode _ _ _

theorem HbmServes.opens (h : HbmServes s) (q : Requester) : s.opens q :=
  ⟨fun n => by rw [State.stackServes, h.routes q n, if_pos rfl, h.gate n], h.clean.1, h.clean.2⟩

end

end Sys2Proof.Machine
end


section
/-! SUPPORT. What a read of device memory leaves alone whatever it meets, and the accesses of BAR2 and BAR4
(spec/02_command_interface.md, R22 to R24; spec/09_memory_and_encryption.md, R260 to R268). -/

namespace Sys2Proof.Machine

/-! A read (R266, R268, R275). -/

/-- Nothing has changed but what a read may change, and in memory not what its bytes read as. -/
def ReadOnly (s t : State) : Prop :=
  t = { s with mem := { t.mem with cells := s.mem.cells, undef := s.mem.undef }, ev := t.ev, sec := t.sec, hif := t.hif, out := t.out }

theorem ReadOnly.refl (s : State) : ReadOnly s s := rfl

theorem ReadOnly.trans {s t u : State} (h : ReadOnly s t) (k : ReadOnly t u) : ReadOnly s u := Eq.trans k (by rw [show t = _ from h])

theorem ReadOnly.ite {s t u : State} {c : Prop} [Decidable c] (h : ReadOnly s t) (k : ReadOnly s u) : ReadOnly s (if c then t else u) := by
  split <;> assumption

theorem ReadOnly.bytes {s t : State} (h : ReadOnly s t) : KeepsBytes s t :=
  byte_congr (by rw [show t = _ from h]) (by rw [show t = _ from h])

theorem ReadOnly.rest {s t : State} (h : ReadOnly s t) : t = { s with mem := t.mem, ev := t.ev, sec := t.sec, hif := t.hif, out := t.out } := by
  rw [show t = _ from h]

theorem State.raise_reads (s : State) (e : Fin 256) (sev unit det : Nat) : ReadOnly s (s.raise e sev unit det) := by
  rw [State.raise_rest]
  rfl

theorem State.modStack_reads (s : State) (n : Fin 4) (f : Stack → Stack) : ReadOnly s (s.modStack n f) := rfl

theorem State.memCount_reads (s : State) (n : Fin 4) (c : Fin 6) : ReadOnly s (s.memCount n c) := s.modStack_reads n _

theorem State.alarm_reads (s : State) (cause n : Nat) : ReadOnly s (s.alarm cause n) := by
  refine ReadOnly.trans ?_ (State.raise_reads _ 42 4 0 _)
  rfl

theorem State.correctable_reads (s : State) (n : Fin 4) : ReadOnly s (s.correctable n) := by
  unfold State.correctable
  have h := (s.memCount_reads n 0).trans (State.modStack_reads _ n fun x => { x with ceWin := x.ceWin + 1 })
  exact .ite ((h.trans (State.modStack_reads _ n _)).trans (State.raise_reads _ _ _ _ _)) h

theorem State.answerBus_reads (s : State) (q : Requester) (write : Bool) (cause : BusCause) : ReadOnly s (s.answerBus q write cause) := by
  unfold State.answerBus
  split <;> rfl

theorem State.freeze_reads (s : State) (q : Requester) (n : Fin 4) (cause a : Nat) (held onWire : List HeldReq) :
    ReadOnly s (s.freeze q n cause a held onWire) := by
  unfold State.freeze
  refine ReadOnly.trans ?_ (foldl_rel .refl .trans (fun s h => s.answerBus_reads h.q h.write .frozen) held _)
  exact (s.modStack_reads n _).trans (State.raise_reads _ _ _ _ _)

theorem State.unverifiable_reads (s : State) (q : Requester) (n : Fin 4) (a c : Nat) : ReadOnly s (s.unverifiable q n a c) :=
  (s.memCount_reads n 3).trans (State.raise_reads _ 21 4 _ _)

theorem State.poison_reads (s : State) (q : Requester) (n : Fin 4) (a c : Nat) : ReadOnly s (s.poison q n a c) := by
  have poisons (t : State) : ReadOnly t { t with mem := { t.mem with poison := c :: t.mem.poison } } := rfl
  exact (s.memCount_reads n 1).trans (.ite ((State.modStack_reads _ n _).trans (State.unverifiable_reads _ q n a _))
    ((poisons _).trans (State.unverifiable_reads _ q n a c)))

theorem State.tagMismatch_reads (s : State) (q : Requester) (n : Fin 4) (a : Nat) : ReadOnly s (s.tagMismatch q n a) := by
  have flags (t : State) : ReadOnly t { t with sec := { t.sec with flags := t.sec.flags ||| (1#8 <<< 4) } } := rfl
  exact (((s.memCount_reads n 2).trans (State.raise_reads _ 20 4 0 _)).trans (flags _)).trans (State.alarm_reads _ 4 a)

theorem State.walkNodes_reads (s : State) (n : Fin 4) (i : Nat) : ReadOnly s (s.walkNodes n i) := by
  have hw := (Mem.walk_walked s.windowHolds n i s.mem).rest
  unfold State.walkNodes
  generalize s.mem.walk s.windowHolds n i = m at hw ⊢
  rw [hw]
  rfl

theorem State.readSector_reads (s : State) (q : Requester) (n : Fin 4) (i a : Nat) (e : MemErr) : ReadOnly s (s.readSector q n i a e).st := by
  unfold State.readSector
  split
  · exact s.freeze_reads q n 2 a _ _
  · exact s.correctable_reads n
  · exact (s.memCount_reads n 1).trans (State.freeze_reads _ q n 1 a _ [])
  · exact s.poison_reads q n a _
  · exact s.tagMismatch_reads q n a
  · exact .refl s

theorem State.openSector_reads (s : State) (q : Requester) (a b : Nat) (reads : Bool) (e : MemErr) :
    ReadOnly s (s.openSector q a b reads e).st := by
  unfold State.openSector
  obtain ⟨n, loc⟩ := s.mem.locate (512 * b)
  dsimp only
  split
  · exact .refl s
  split
  · exact s.unverifiable_reads q n a _
  have hcount := s.memCount_reads n (if s.mem.cached (nodeCode n 1 (loc / 512 / 8)) then 4 else 5)
  split
  · exact hcount.trans (State.poison_reads _ q n a _)
  · exact hcount.trans (State.tagMismatch_reads _ q n a)
  · have hwalk (t : State) (c : Bool) : ReadOnly t ((if c then t.correctable n else t).walkNodes n (loc / 512)) :=
      ReadOnly.trans (.ite (t.correctable_reads n) (.refl t)) (State.walkNodes_reads _ n _)
    have hread (t : State) (c : Bool) (e : MemErr) : ReadOnly t (if c then ⟨t, none, e⟩ else t.readSector q n (loc / 512) a e : Served).st := by
      split
      · exact .refl t
      · exact t.readSector_reads q n _ a e
    exact (hcount.trans (hwalk _ _)).trans (hread _ _ _)

theorem State.hbmOpen_reads (s : State) (q : Requester) (a len : Nat) (e : MemErr) : ReadOnly s (s.hbmOpen q a len e).st := by
  unfold State.hbmOpen
  split
  · exact .refl s
  · refine List.foldlRecOn (motive := fun r : Served => ReadOnly s r.st) _ _ (.refl s) fun r hr p _ => ?_
    split
    · exact hr
    · exact hr.trans (State.openSector_reads _ q _ _ true _)

theorem State.answerFailed_reads (s : State) (q : Requester) (write : Bool) (r : Served) : ReadOnly s (s.answerFailed q write r) := by
  unfold State.answerFailed
  split
  · exact .refl s
  · exact s.answerBus_reads q write _

theorem exec_memoryRead_reads (s : State) (q : Requester) (a len : Nat) (e : MemErr) :
    ∃ t, exec (.memoryRead q a len e) s = .next t ∧ ReadOnly s t := by
  refine ⟨_, rfl, ?_⟩
  unfold State.request
  refine .ite (.refl s) (.ite ?_ ((s.hbmOpen_reads q a len e).trans (State.answerFailed_reads _ q false _)))
  rfl

/-! Hive SRAM through BAR4 (R23, R24; 10, R283). -/

/-- Hive SRAM as an area. -/
def sramArea : Area := ⟨.sram, sramBase 0, 0x6000000⟩

theorem bar4Addr_sram {off : Nat} (h : off < 0x6000000) : bar4Addr off = some (sramBase 0 + off) := by
  have ha : areaOf (sramBase 0 + off) = some sramArea := by
    rw [areaOf, if_neg (by simp only [sramBase, hbmBytes]; omega), if_pos (by simp only [sramBase]; omega)]
    rfl
  simp only [bar4Addr, h, if_true, decide_true, Bool.true_or, ha, Option.map_some]

theorem areaFor_sram {off len : Nat} (hl : 0 < len) (h : off + len ≤ 0x6000000) : areaFor (sramBase 0 + off) len = some sramArea := by
  have ha : areaOf (sramBase 0 + off) = some sramArea := by
    rw [areaOf, if_neg (by simp only [sramBase, hbmBytes]; omega), if_pos (by simp only [sramBase]; omega)]
    rfl
  simp only [areaFor, ha]
  rw [if_pos (by simp only [sramArea]; omega)]

section
variable {s : State}

theorem bar4Gate_sram (hp : ∀ q : Fin 3, s.pdOn ⟨10 + q.val, by omega⟩ = true ∧ s.underTest ⟨q.val, by omega⟩ = false) {off len : Nat}
    (hl : 0 < len) (h : off + len ≤ 0x6000000) : s.bar4Gate off len = .open_ sramArea (sramBase 0 + off) := by
  have hfence : s.areaFenced sramArea = false := rfl
  have hdown : s.areaDown sramArea (sramBase 0 + off) len = false := by
    simp only [State.areaDown, sramArea, Area.die, Option.any_none, Bool.false_or, decide_true, Bool.true_and, List.any_eq_false]
    exact fun q _ => by rw [(hp q).1]; simp
  have hbusy : s.areaBusy sramArea (sramBase 0 + off) len = false := by
    simp only [State.areaBusy, sramArea, List.any_eq_false]
    exact fun q _ => by rw [(hp q).2]; simp
  simp only [State.bar4Gate, bar4Addr_sram (show off < 0x6000000 by omega), areaFor_sram hl h, hfence, hdown, hbusy]
  rfl

theorem areaReached_sram (h : s.sramReached .pcie) (a len : Nat) : s.areaReached .host sramArea a len = true := by
  rw [State.areaReached, List.all_eq_true]
  intro u hu
  obtain ⟨i, hi, rfl⟩ := List.mem_map.mp hu
  have hi := List.mem_range.mp (List.mem_filter.mp hi).1
  refine h _ ?_
  simp only [Fin.val_ofNat]
  omega

theorem areaRead_sram (h : s.sramReached .pcie) (hn : NoneSealed s) (a len : Nat) (e : MemErr) :
    s.areaRead .host sramArea a len e = (⟨s, none, e⟩, s.mem.read a len) := by
  rw [State.areaRead, show s.areaFenced sramArea = false from rfl, areaReached_sram h, if_neg nofun, if_neg nofun]
  dsimp only [sramArea]
  rw [sealedRange_open hn, if_neg nofun]

theorem areaWrite_sram (h : s.sramReached .pcie) (hn : NoneSealed s) (a : Nat) (bs : Bytes) (e : MemErr) :
    s.areaWrite .host sramArea a bs e = ⟨{ s with mem := s.mem.write a bs }, none, e⟩ := by
  rw [State.areaWrite, show s.areaFenced sramArea = false from rfl, areaReached_sram h, if_neg nofun, if_neg nofun, if_neg nofun,
    writeOpen_open hn]
  rfl

/-- What stands on a die answers a BAR4 access as that die does. -/
theorem bar4Gate_die {off a len : Nat} {x : Area} {d : Fin 4} (ha : bar4Addr off = some a) (hx : areaFor a len = some x)
    (hd : x.die = some d) : s.bar4Gate off len =
    if s.net.dies[d.val].fenced then .busy
    else if !s.dieOn d 0 then .abort
    else if !s.net.dies[d.val].clockOn || s.net.dies[d.val].cutOff then .stopped d
    else if s.areaBusy x a len then .busy
    else .open_ x a := by
  simp only [State.bar4Gate, ha, hx, State.areaFenced, hd, Option.any_some]

end

/-! Requests. -/

theorem request_served {s : State} (h : s.mem.rekey = none) (r : MemReq) : s.request r = s.serveRequest r := by
  rw [State.request, h]
  rfl

theorem stacksFree {s : State} (h : ∀ n : Fin 4, s.underTest ⟨7 + n.val, by omega⟩ = false) (l : List (Fin 4)) :
    (l.any fun n => s.underTest ⟨7 + n.val, by omega⟩) = false := List.any_eq_false.mpr fun n _ => by rw [h n]; decide

/-- Settles O41: HBM by its sectors, one that opens and one that is written; BAR4 by what its gate meets. -/
theorem memoryAccess : Obligations.MemoryAccess := by
  refine ⟨fun s q a len data e hwf => ?hbm, fun s off len data e hwf hup => ?bar4⟩
  case hbm =>
    intro within stored
    have writes (q : Requester) (h : HbmServes s) (hw : within) : ∃ t, s.hbmWrite q a data .ok = ⟨t, none, .ok⟩ ∧ stored t := by
      obtain ⟨hl, hone, hin⟩ := hw
      refine ⟨_, hbmWrite_stores (h.opens q) h.open_ h.low.1 h.low.2 hl hone, ?_⟩
      obtain ⟨hwrote, hcount⟩ := sectorWritten_stores hwf (a / 512) (a - 512 * (a / 512)) data
      have hoff : 512 * (a / 512) + (a - 512 * (a / 512)) = a := by omega
      rw [hoff] at hwrote
      exact ⟨hwrote, sectorWritten_rest s _ _ _, hcount⟩
    refine ⟨fun h hw => ?_, fun h hp hw => ?_, ?_, fun h hp hin => ?_, fun hp hout => ?_, fun hp hout => ?_⟩
    · obtain ⟨t, hx, ht⟩ := writes q h hw
      refine ⟨t, ?_, ht⟩
      show execMemoryWrite q a data .ok s = _
      rw [execMemoryWrite, if_neg (Nat.not_lt.mpr hw.2.2), request_served h.free.1, State.serveRequest, hx]
      rfl
    · obtain ⟨t, hx, ht⟩ := writes .host h hw
      refine ⟨t, ?_, ht⟩
      show execBar2Write a data .ok s = _
      rw [execBar2Write, State.overPcie_up hp, if_neg (Nat.not_lt.mpr hw.2.2), request_served h.free.1, State.serveRequest,
        State.bar2Write, stacksFree h.free.2, sealedRange_open h.open_, if_neg nofun, if_neg nofun]
      dsimp only
      rw [hx]
    · obtain ⟨t, hx, ht⟩ := exec_memoryRead_reads s q a len e
      exact ⟨t, hx, ht.bytes, ht.rest⟩
    · obtain ⟨t, hx, ht⟩ := hbmOpen_looks (h.opens .host) a len (sealedRange_open h.open_ a len true)
      refine ⟨t.emit (.barData (s.mem.read a len)), ?_, ht.keeps, ?_, ?_⟩
      · show execBar2Read a len .ok s = _
        rw [execBar2Read, State.overPcie_up hp, if_neg (Nat.not_lt.mpr hin), request_served h.free.1, State.serveRequest,
          State.bar2Read, stacksFree h.free.2, sealedRange_open h.open_, if_neg nofun]
        dsimp only
        rw [hx]
      · rw [ht.rest]
        rfl
      · rw [State.emit, ht.rest]
    · show execBar2Read a len e s = _
      rw [execBar2Read, State.overPcie_up hp, if_pos hout]
    · show execBar2Write a data e s = _
      rw [execBar2Write, State.overPcie_up hp, if_pos hout]
  case bar4 =>
    intro up
    refine ⟨fun h hl hin => ?_, fun h hl hin => ?_, fun hnone => ?_, fun a x d ha hx hd => ⟨fun hf => ?_, fun hf hon hcut => ?_⟩⟩
    · obtain ⟨hopen, hreach, hp⟩ := h
      show execBar4Read off len e s = _
      rw [execBar4Read, State.overPcie_up hup, bar4Gate_sram hp hl hin]
      dsimp only
      rw [areaRead_sram hreach hopen]
    · obtain ⟨hopen, hreach, hp⟩ := h
      refine ⟨{ s with mem := s.mem.write (sramBase 0 + off) data }, ?_, rfl, ?_, ?_⟩
      · show execBar4Write off data s = _
        rw [execBar4Write, State.overPcie_up hup, bar4Gate_sram hp hl hin]
        dsimp only
        rw [sealedRange_open hopen, if_neg nofun, areaWrite_sram hreach hopen]
      · exact fun i hi => Mem.byte_write_inside data _ _ _ hwf hi
      · exact fun b hb => Mem.byte_write_outside data _ _ _ hwf hb
    · have hgate (n : Nat) : s.bar4Gate off n = .unsupported := by simp only [State.bar4Gate, hnone]
      refine ⟨?_, ?_⟩
      · show execBar4Read off len e s = _
        rw [execBar4Read, State.overPcie_up hup, hgate]
      · show execBar4Write off data s = _
        rw [execBar4Write, State.overPcie_up hup, hgate]
    · show execBar4Read off len e s = _
      rw [execBar4Read, State.overPcie_up hup, bar4Gate_die ha hx hd, hf]
      rfl
    · obtain ⟨time, sums, hdie⟩ := State.fence_die hf 1
      refine ⟨(s.fence d 1).emit .barAbort, ?_, ?_, rfl⟩
      · show execBar4Read off len e s = _
        have hgate : (!s.net.dies[d.val].clockOn || s.net.dies[d.val].cutOff) = true := by
          rcases hcut with h | h <;> rw [h] <;> simp
        rw [execBar4Read, State.overPcie_up hup, bar4Gate_die ha hx hd, hf, hon, hgate]
        rfl
      · show (s.fence d 1).net.dies[d.val].fenced = true
        rw [hdie]
        rfl

end Sys2Proof.Machine
end


section
/-! SUPPORT. Security (spec/15_security.md, R411 to R423): the SEC commands, the NV store and the entropy source. -/

namespace Sys2Proof.Machine

/-! Words. -/

@[simp] theorem numWords_length (k n : Nat) : (numWords k n).length = k := by
  induction k generalizing n with
  | zero => rfl
  | succ k ih => simp [numWords, ih]

@[simp] theorem word2_length (n : Nat) : (word2 n).length = 2 := numWords_length 2 n

@[simp] theorem measWords_length (m : Option Bytes) : (measWords m).length = 16 := by cases m <;> simp [measWords]

theorem ownerHash_length (s : State) : s.ownerHash.length = 16 := by
  unfold State.ownerHash
  split <;> simp

theorem flatMap_meas_length {ι : Type} (l : List ι) (f : ι → Option Bytes) : (l.flatMap fun i => measWords (f i)).length = 16 * l.length := by
  induction l with
  | nil => rfl
  | cons i l ih => rw [List.flatMap_cons, List.length_append, ih, measWords_length, List.length_cons]; omega

theorem report_length (s : State) {nonce : Words} (h : nonce.length = 16) : (s.report nonce).length = 1728 := by
  simp only [State.report, List.length_append, List.length_cons, List.length_nil, word2_length, measWords_length, ownerHash_length, h,
    flatMap_meas_length, List.length_finRange, List.length_range, Vector.length_toList]

/-! Reports, certificates and the state of the NV store (R413, R414, R420). -/

/-- The certificate that a `SEC_CERT_GET` asks for. -/
def State.certAsked (s : State) (p : Pkt) : Bytes :=
  match param p 32 0 2, s.sec.owner with
  | 0, _ => if s.nvRecordLost 0 then [] else Config.certDevice
  | 1, _ => if s.nvRecordLost 1 then [] else Config.certInter
  | _, some o => o.cert
  | _, none => []

/-- What `SEC_NV_STATUS` replies. -/
def State.nvStatus (s : State) : Words :=
  [BitVec.ofNat 32 (nvBlocks.filter s.nvWorn).length, BitVec.ofNat 32 (nvBlocks.foldl (fun m b => max m (s.nvBlock b).count) 0)] ++
    word2 s.sec.refreshS.toNat ++ nvBlocks.map s.nvWord

theorem nvStatus_length (s : State) : s.nvStatus.length = 2052 := by
  simp [State.nvStatus, nvBlocks]

theorem nvStatus_block (s : State) {b : Nat} (h : b < 2048) : s.nvStatus.getD (4 + b) 0 = s.nvWord b := by
  have hhead : ([BitVec.ofNat 32 (nvBlocks.filter s.nvWorn).length, BitVec.ofNat 32 (nvBlocks.foldl (fun m b => max m (s.nvBlock b).count) 0)] ++
    word2 s.sec.refreshS.toNat).length = 4 := by simp
  rw [State.nvStatus, List.getD_append_right _ _ _ _ (by rw [hhead]; omega), hhead, Nat.add_sub_cancel_left]
  simp [nvBlocks, List.getD_eq_getElem?_getD, h]

section
variable {s : State} {p : Pkt}

theorem secAttest_reads (h : Accepted cmdSecAttest p s) :
    let r := s.report (p.block.take 16)
    Completed cmdSecAttest p s (cmdSecAttest.fetch p s) (r ++ wordsOfBytes (idSignature (bytesOfWords r))) ∧
      cmdSecAttest.fetch p s = { s with queen := (cmdSecAttest.fetch p s).queen, hif := (cmdSecAttest.fetch p s).hif } := by
  have hargs : (begunJob cmdSecAttest p).args = p.block :=
    begunJob_args (by simp [CmdDef.Unclamped, cmdSecAttest, CmdDef.plain, Field.applied])
  have hr (nonce : Words) : (begun cmdSecAttest p s).report nonce = s.report nonce := rfl
  refine fetch_reads h ?_
  rw [← hargs, ← hr]
  rfl

theorem secCertGet_reads (h : Accepted cmdSecCertGet p s) :
    Completed cmdSecCertGet p s (cmdSecCertGet.fetch p s) (wordsOfBytes (s.certAsked p)) ∧
      cmdSecCertGet.fetch p s = { s with queen := (cmdSecCertGet.fetch p s).queen, hif := (cmdSecCertGet.fetch p s).hif } := by
  have hargs : (begunJob cmdSecCertGet p).args = p.block :=
    begunJob_args (by simp [CmdDef.Unclamped, cmdSecCertGet, CmdDef.plain, Field.applied])
  refine fetch_reads h ?_
  rw [State.certAsked, param, ← hargs]
  rfl

theorem secNvStatus_reads (h : Accepted cmdSecNvStatus p s) : Completed cmdSecNvStatus p s (cmdSecNvStatus.fetch p s) s.nvStatus ∧
    cmdSecNvStatus.fetch p s = { s with queen := (cmdSecNvStatus.fetch p s).queen, hif := (cmdSecNvStatus.fetch p s).hif } :=
  fetch_reads h rfl

theorem certAsked_device (h : param p 32 0 2 = 0) : s.certAsked p = if s.nvRecordLost 0 then [] else Config.certDevice := by
  rw [State.certAsked, h]
  cases s.sec.owner <;> rfl

theorem certAsked_inter (h : param p 32 0 2 = 1) : s.certAsked p = if s.nvRecordLost 1 then [] else Config.certInter := by
  rw [State.certAsked, h]
  cases s.sec.owner <;> rfl

theorem certAsked_owner (ha : Accepted cmdSecCertGet p s) (h : param p 32 0 2 = 2) : s.sec.owner.map (·.cert) = some (s.certAsked p) := by
  have hargs : (begunJob cmdSecCertGet p).args = p.block :=
    begunJob_args (by simp [CmdDef.Unclamped, cmdSecCertGet, CmdDef.plain, Field.applied])
  have hchecks : refuseIf (fld (begunJob cmdSecCertGet p).args 32 0 2 = 2 && s.sec.owner.isNone) stNotReady = none :=
    acceptCheck_units ha.checks
  have hnone := refuseIf_eq_none hchecks
  have h' : fld p.block 32 0 2 = 2 := h
  rw [hargs, h'] at hnone
  rw [State.certAsked, h]
  cases ho : s.sec.owner with
  | none => rw [ho] at hnone; exact absurd hnone (by decide)
  | some o => rfl

/-! What begins an NV write (R411, R412, R417, R421). -/

/-- An NV write joins those in progress. -/
def State.nvJoin (s : State) (x : NvJob) : State := { s with sec := { s.sec with nvJobs := s.sec.nvJobs ++ [x] } }

theorem fetch_writes {d : CmdDef} (h : Accepted d p s) {x : NvJob} (hk : x.key = some ⟨.pcie, p.tag⟩) (hd : x.done = 0)
    (ha : d.act (begunJob d p) (begun d p s) = .stay ((begun d p s).nvJoin x)) : ∃ t, d.fetch p s = t ∧
      (StillRuns s t p ∧ t = { s with queen := t.queen, hif := t.hif, sec := t.sec } ∧
        t.sec = { s.sec with nvJobs := s.sec.nvJobs ++ [x] } ∧ x.key = some ⟨.pcie, p.tag⟩ ∧ x.done = 0) :=
  ⟨_, fetch_stay h ha, stillRuns_of h rfl rfl, rfl, rfl, hk, hd⟩

/-- The write that `SEC_NV_REFRESH` begins. -/
def State.refreshJob (s : State) (k : JobKey) : NvJob :=
  let l := nvBlocks.filter fun b => b != 3 && (s.nvBlock b).written
  { key := some k, what := .refresh, blocks := (l ++ [3]).filter fun b => !s.nvWorn b, done := 0, skip := (l ++ [3]).filter s.nvWorn,
    result := [] }

theorem refreshJob_blocks (s : State) (k : JobKey) (b : Nat) :
    b ∈ (s.refreshJob k).blocks ↔ s.nvWorn b = false ∧ (b = 3 ∨ (b < 2048 ∧ (s.nvBlock b).written = true)) := by
  simp only [State.refreshJob, nvBlocks, List.mem_filter, List.mem_append, List.mem_singleton, List.mem_range, Bool.and_eq_true, bne_iff_ne,
    Bool.not_eq_true']
  constructor
  · rintro ⟨⟨hb, -, hw⟩ | rfl, hn⟩
    · exact ⟨hn, .inr ⟨hb, hw⟩⟩
    · exact ⟨hn, .inl rfl⟩
  · rintro ⟨hn, rfl | ⟨hb, hw⟩⟩
    · exact ⟨.inr rfl, hn⟩
    · by_cases h3 : b = 3
      · exact ⟨.inr h3, hn⟩
      · exact ⟨.inl ⟨hb, h3, hw⟩, hn⟩

/-- The write that a command of one block begins. -/
def nvJobOf (k : JobKey) (what : NvWrite) (b : Nat) : NvJob :=
  { key := some k, what := what, blocks := [b], done := 0, skip := [], result := [] }

theorem nvCommand_joins {s : State} {b : Nat} (h : s.nvWorn b = false) (j : Job) (what : NvWrite) :
    s.nvCommand j what b [] = .stay (s.nvJoin (nvJobOf j.key what b)) := by
  rw [State.nvCommand, h, if_neg nofun]
  rfl

theorem counterAdvance_args (p : Pkt) : (begunJob cmdSecCounterAdvance p).args = p.block :=
  begunJob_args (by simp [CmdDef.Unclamped, cmdSecCounterAdvance, CmdDef.plain, Field.applied])

theorem counterAdvance_rises (h : Accepted cmdSecCounterAdvance p s) : s.counterNow (counterIdx p.block) ≤ param p 36 0 32 := by
  have hchecks : refuseIf (decide (fld (begunJob cmdSecCounterAdvance p).args 36 0 32 <
      s.counterNow (counterIdx (begunJob cmdSecCounterAdvance p).args))) stRollback = none := acceptCheck_units h.checks
  have := refuseIf_eq_none hchecks
  rw [counterAdvance_args, decide_eq_false_iff_not] at this
  exact Nat.not_lt.mp this

theorem counterAdvance_act (p : Pkt) (s : State) : cmdSecCounterAdvance.act (begunJob cmdSecCounterAdvance p) s =
    if param p 36 0 32 = s.counterNow (counterIdx p.block) then .done s []
    else s.nvCommand (begunJob cmdSecCounterAdvance p) (.counter (counterIdx p.block) (BitVec.ofNat 32 (param p 36 0 32)))
      (4 + (counterIdx p.block).val) [] := by
  rw [param, ← counterAdvance_args]
  rfl

theorem enrol_args (p : Pkt) : (begunJob cmdSecOwnerEnrol p).args = p.block :=
  begunJob_args (by simp [CmdDef.Unclamped, cmdSecOwnerEnrol, CmdDef.plain, Field.applied])

/-- An enrolment with its bundle from the host. -/
theorem enrol_act {bundle : Bytes} (h0 : param p 32 0 1 = 0) (h1 : param p 32 8 1 = 1) (hh : p.host = some bundle) (u : State) :
    cmdSecOwnerEnrol.act (begunJob cmdSecOwnerEnrol p) u = match u.enrolled (bundle.take (param p 48 0 16)) with
      | none => .close u ⟨stAuth, 0xFF⟩ false []
      | some o => u.nvCommand (begunJob cmdSecOwnerEnrol p) (.owner o) 2 [] := by
  show enrolAct (begunJob cmdSecOwnerEnrol p) u = _
  have h0' : fld p.block 32 0 1 = 0 := h0
  have h1' : fld p.block 32 8 1 = 1 := h1
  have hhost : (begunJob cmdSecOwnerEnrol p).p.host = some bundle := hh
  rw [enrolAct, State.bundleOf, enrol_args, h1', if_pos rfl, hhost, h0']
  rfl

end

end Sys2Proof.Machine
end


section
/-! SUPPORT. The writes of the NV store (spec/15_security.md, R417 to R421), and what settles the SEC commands. -/

namespace Sys2Proof.Machine

/-- What an NV write puts in place, it puts beside the blocks and the writes in progress. -/
theorem State.nvApply_rest (s : State) (x : NvWrite) : s.nvApply x =
    { s with sec := { (s.nvApply x).sec with nv := s.sec.nv, nvJobs := s.sec.nvJobs }, bist := (s.nvApply x).bist } := by
  cases x with
  | repairs l =>
    refine List.foldlRecOn (motive := fun t : State =>
      t = { s with sec := { t.sec with nv := s.sec.nv, nvJobs := s.sec.nvJobs }, bist := t.bist }) l _ rfl fun t ht e _ => ?_
    rw [ht]
  | marks u erase => rfl
  | soft u => rfl
  | counter i v => rfl
  | owner o => rfl
  | bootRec i r => rfl
  | lanes d m => rfl
  | refresh => rfl

section
variable {s : State} {x : NvJob} {l : List NvJob} {b : Nat}

theorem nvHead_sec (hx : s.sec.nvJobs = x :: l) (y : Option NvJob) : (s.nvHead y).sec = { s.sec with nvJobs := y.toList ++ l } := by
  rw [State.nvHead, hx]
  rfl

theorem setNvBlock_same (s : State) (b : Nat) (y : NvBlock) : (s.setNvBlock b y).nvBlock b = y := by
  simp [State.nvBlock, State.setNvBlock]

theorem NvBlock.wrote_count (y : NvBlock) (fresh : Bool) : (y.wrote fresh).count = y.count + 1 := by
  unfold NvBlock.wrote
  dsimp only
  split <;> rfl

theorem NvBlock.wrote_written (y : NvBlock) (fresh : Bool) : (y.wrote fresh).written = true := by
  unfold NvBlock.wrote
  dsimp only
  split <;> rfl

/-- The last block of the first write in progress is in place, and its record too. -/
def State.nvPut (s : State) (x : NvJob) (b : Nat) : State :=
  ((s.setNvBlock b ((s.nvBlock b).wrote (x.what != .refresh || b = 3))).nvHead none).nvApply x.what

theorem nvPut_rest (s : State) (x : NvJob) (b : Nat) : s.nvPut x b =
    { s with sec := (s.nvPut x b).sec, bist := (s.nvPut x b).bist } := by
  have h : s.nvPut x b = _ := State.nvApply_rest _ _
  generalize s.nvPut x b = t at h ⊢
  rw [h]
  rfl

theorem nvPut_jobs (hx : s.sec.nvJobs = x :: l) : (s.nvPut x b).sec.nvJobs = l := by
  rw [State.nvPut, State.nvApply_rest]
  show s.sec.nvJobs.drop 1 = l
  rw [hx]
  rfl

theorem nvPut_block (s : State) (x : NvJob) (b : Nat) :
    (s.nvPut x b).nvBlock b = (s.nvBlock b).wrote (x.what != .refresh || b = 3) := by
  have hnv : (s.nvPut x b).sec.nv = (s.setNvBlock b ((s.nvBlock b).wrote (x.what != .refresh || b = 3))).sec.nv := by
    rw [State.nvPut, State.nvApply_rest]
    rfl
  rw [State.nvBlock, hnv]
  exact setNvBlock_same s b _

theorem nvPut_counter {i : Fin 64} {v : BitVec 32} (h : x.what = .counter i v) : (s.nvPut x b).sec.counters[i.val] = v := by
  rw [State.nvPut, h]
  exact upd_get_same _ _ _

theorem nvPut_owner {o : Owner} (h : x.what = .owner o) : (s.nvPut x b).sec.owner = some o := by
  rw [State.nvPut, h]
  rfl

theorem nvPut_bootRec {i : Fin 2} {r : BootRec} (h : x.what = .bootRec i r) : (s.nvPut x b).sec.bootRecs[i.val] = some r := by
  rw [State.nvPut, h]
  exact upd_get_same _ _ _

/-- A command's write of its one block. -/
theorem nvWritten_last (hx : s.sec.nvJobs = x :: l) (hb : x.blocks = [b]) (hr : x.what ≠ .refresh) (hw : s.nvWorn b = false) :
    s.nvWritten = (s.nvPut x b).nvCommit { x with blocks := [], done := x.done + 1 } none := by
  simp only [State.nvWritten, hx, hb, hw, hr, Bool.false_and, Bool.false_eq_true, if_false, decide_false, List.isEmpty_nil, if_true]
  rfl

theorem nvWritten_worn (hx : s.sec.nvJobs = x :: l) (hb : x.blocks = [b]) (hr : x.what ≠ .refresh) (hw : s.nvWorn b = true) :
    s.nvWritten = ((s.nvHead none).wornEvent b).nvCommit x (some ⟨stWorn, 0xFF⟩) := by
  simp only [State.nvWritten, hx, hb, hw, hr, decide_false, Bool.and_false, Bool.false_eq_true, if_false, if_true]

/-- A refresh skips a worn block (R421). -/
theorem nvWritten_skips {c : Nat} {m : List Nat} (hx : s.sec.nvJobs = x :: l) (hr : x.what = .refresh) (hb : x.blocks = b :: c :: m)
    (hw : s.nvWorn b = true) : s.nvWritten = s.nvHead (some { x with blocks := c :: m, skip := x.skip ++ [b] }) := by
  simp only [State.nvWritten, hx, hb, hw, hr, decide_true, Bool.and_true, if_true, List.isEmpty_cons, Bool.false_eq_true, if_false]

theorem exec_nvWriteEnd (h : s.nvWritten.rsc.deferred = none) : exec .nvWriteEnd s = .next s.nvWritten := by
  show execNvWriteEnd s = _
  rw [execNvWriteEnd]
  dsimp only
  rw [h, if_neg nofun]

/-! What the end of a write leaves of the resets that wait. -/

theorem State.nvCommit_stands (s : State) (x : NvJob) (v : Option Verdict) : (s.nvCommit x v).stands = s.stands := by
  unfold State.nvCommit
  split
  · rfl
  · split
    · exact (State.commitDone_answers _ _ _).stands
    · exact (State.commitClose_answers _ _ _ _ _).stands

theorem State.nvWritten_rsc (s : State) : s.nvWritten.rsc = s.rsc := by
  have commits (t : State) (x : NvJob) (v : Option Verdict) : (t.nvCommit x v).rsc = t.rsc := congrArg Prod.fst (t.nvCommit_stands x v)
  have heads (t : State) (x : Option NvJob) : (t.nvHead x).rsc = t.rsc := rfl
  have sets (t : State) (b : Nat) (y : NvBlock) : (t.setNvBlock b y).rsc = t.rsc := rfl
  have applies (t : State) (x : NvWrite) : (t.nvApply x).rsc = t.rsc := by rw [State.nvApply_rest]
  have wears (t : State) (b : Nat) : (t.wornEvent b).rsc = t.rsc := congrArg Prod.fst (State.raise_stands t 8 3 0 _)
  unfold State.nvWritten
  split
  · rfl
  · split
    · simp only [commits, heads]
    · dsimp only
      split
      · split <;> simp only [commits, heads]
      · split
        · simp only [commits, heads, wears]
        · split
          · rw [commits]
            split <;> simp only [applies, heads, sets]
          · split <;> simp only [commits, heads, sets]

end

/-- A job of the PCIe path that ends with another status, its block as applied echoed. -/
theorem commitClose_ended {s t : State} {j : Job} (hk : j.key.path = .pcie) (hd : j.discard = false) (ha : t.abortAsked j.key = false)
    (hjobs : t.queen.jobs = s.queen.jobs) (hreplies : t.queen.replies = s.queen.replies) (st : Status) (result : Words) :
    Ended j s (t.commitClose j ⟨st, 0xFF⟩ true result) st j.mask (echoOf (echoEndOf j.p.opcode) j.args ++ result) := by
  rw [State.commitClose, if_pos rfl, commitRaw_pcie _ _ _ _ hk hd ha]
  exact ⟨⟨_, by rw [hreplies], rfl, rfl, rfl⟩, by rw [← hjobs]⟩

/-! The end of a command's one block, its job to be ended. -/

section
variable {s : State} {x : NvJob} {l : List NvJob} {b : Nat} {j : Job}
variable (hx : s.sec.nvJobs = x :: l) (hb : x.blocks = [b]) (hr : x.what ≠ .refresh) (hk : x.key = some j.key) (he : Endable s j)
include hx hb hr hk he

theorem nvWritten_commits (hw : s.nvWorn b = false) : EndedDone j s s.nvWritten x.result ∧ s.nvWritten.sec = (s.nvPut x b).sec := by
  have hrest := nvPut_rest s x b
  have hq : (s.nvPut x b).queen = s.queen := by rw [hrest]
  have hjob : (s.nvPut x b).job? j.key = some j := by rw [State.job?, hq]; exact he.held
  have hcalm : (s.nvPut x b).abortAsked j.key = false := by rw [State.abortAsked, hq]; exact he.calm
  have hend : s.nvWritten = (s.nvPut x b).commitDone j x.result := by
    rw [nvWritten_last hx hb hr hw, State.nvCommit]
    simp only [hk, Option.bind_some, hjob, NvJob.words, hr, if_false]
  rw [hend]
  exact ⟨commitDone_ended he.path he.kept hcalm (by rw [hq]) (by rw [hq]) _,
    by rw [State.commitDone, commitRaw_pcie _ _ _ _ he.path he.kept hcalm]⟩

theorem nvWritten_reports (hw : s.nvWorn b = true) :
    Ended j s s.nvWritten stWorn j.mask (echoOf (echoEndOf j.p.opcode) j.args ++ x.result) ∧ Raised s s.nvWritten 8 ∧
      s.nvWritten.sec = { s.sec with nvJobs := l } := by
  have hrest : (s.nvHead none).wornEvent b = { s.nvHead none with ev := ((s.nvHead none).wornEvent b).ev } := State.raise_rest _ _ _ _ _
  have hq : ((s.nvHead none).wornEvent b).queen = s.queen := by rw [hrest]; rfl
  have hjob : ((s.nvHead none).wornEvent b).job? j.key = some j := by rw [State.job?, hq]; exact he.held
  have hcalm : ((s.nvHead none).wornEvent b).abortAsked j.key = false := by rw [State.abortAsked, hq]; exact he.calm
  have hraised : Raised s ((s.nvHead none).wornEvent b) 8 := State.raise_raised (by rfl) _ _ _ _
  have hend : s.nvWritten = ((s.nvHead none).wornEvent b).commitClose j ⟨stWorn, 0xFF⟩ true x.result := by
    rw [nvWritten_worn hx hb hr hw, State.nvCommit]
    simp only [hk, Option.bind_some, hjob, NvJob.words, hr, if_false]
  have hended := commitClose_ended (s := s) he.path he.kept hcalm (by rw [hq]) (by rw [hq]) stWorn x.result
  rw [hend]
  refine ⟨hended, ?_⟩
  rw [State.commitClose, if_pos rfl, commitRaw_pcie _ _ _ _ he.path he.kept hcalm]
  refine ⟨⟨hraised.active, hraised.count, hraised.latch⟩, ?_⟩
  rw [hrest]
  exact nvHead_sec hx none

end

/-- A packet whose effect closes it without a body. -/
theorem fetch_closes {d : CmdDef} {p : Pkt} {s : State} {v : Verdict} (h : Accepted d p s)
    (ha : d.act (begunJob d p) (begun d p s) = .close (begun d p s) v false []) :
    RefusedWith p s (d.fetch p s) v ∧ d.fetch p s = { s with queen := (d.fetch p s).queen, hif := (d.fetch p s).hif } := by
  have hd : ((begun d p s).queen.jobs.filter fun i => !sameKey i.key (begunJob d p).key) = s.queen.jobs := begun_dropped h.toPasses
  have hx : d.fetch p s = { s with
      hif := (s.consume p).hif
      queen := { s.queen with replies := s.queen.replies ++
        [⟨⟨.pcie, p.tag⟩, replyWords s p.opcode p.tag v.status v.idx false 0 [], true, .nothing⟩] } } := by
    rw [fetch_accepted h, ha, finish, State.commitClose, if_neg nofun, commitRaw_pcie _ _ _ _ rfl rfl (begun_calm h.toPasses)]
    dsimp only
    rw [hd, begun_eq h.toPasses]
    rfl
  rw [hx]
  exact ⟨⟨⟨_, rfl, rfl, rfl, rfl⟩, rfl, rfl⟩, rfl⟩

/-- Settles O43: the reports by what they read, the writes by the job that they begin, and the NV store by what a block's end makes of it. -/
theorem security : Obligations.Security := by
  refine ⟨fun s p => ?commands, fun s => ⟨fun x l b j hx hb hr hk he hd => ?block, fun x l b c m hx hr hb hw hd => ?skip, fun hd => ?reset,
    fun hd => ?health, rfl⟩⟩
  case commands =>
    intro same writes
    refine ⟨fun h => ?attest, fun h => ?cert, fun h => ?status, fun h => ?refresh, fun h => ?counter, fun bundle h h0 h1 hh => ?enrol⟩
    case attest =>
      obtain ⟨hc, hs⟩ := secAttest_reads h
      have hblock : p.block.length = 16 := block_length (n := 16) (acceptCheck_length h.checks)
      exact ⟨_, rfl, hs, report_length s (by simp [hblock]), hc⟩
    case cert =>
      obtain ⟨hc, hs⟩ := secCertGet_reads h
      exact ⟨_, _, rfl, hs, hc, certAsked_device, certAsked_inter, certAsked_owner h⟩
    case status =>
      obtain ⟨hc, hs⟩ := secNvStatus_reads h
      exact ⟨_, _, rfl, hs, hc, nvStatus_length s, fun b => nvStatus_block s⟩
    case refresh =>
      obtain ⟨t, hx, ht⟩ := fetch_writes h (x := s.refreshJob ⟨.pcie, p.tag⟩) rfl rfl rfl
      exact ⟨t, _, congrArg _ hx, ht, rfl, refreshJob_blocks s _⟩
    case counter =>
      intro i v
      have hact := counterAdvance_act p (begun cmdSecCounterAdvance p s)
      refine ⟨counterAdvance_rises h, fun hv => ?_, fun hv hw => ?_⟩
      · obtain ⟨hc, hs⟩ := fetch_reads h (hact.trans (if_pos hv))
        exact ⟨_, rfl, hc, hs⟩
      · have hw' : (begun cmdSecCounterAdvance p s).nvWorn (4 + i.val) = false := hw
        obtain ⟨t, hx, ht⟩ := fetch_writes h (x := nvJobOf ⟨.pcie, p.tag⟩ (.counter i (BitVec.ofNat 32 v)) (4 + i.val)) rfl rfl
          ((hact.trans (if_neg (Nat.ne_of_gt hv))).trans (nvCommand_joins hw' _ _))
        exact ⟨t, _, congrArg _ hx, ht, rfl, rfl⟩
    case enrol =>
      have hact := enrol_act h0 h1 hh (begun cmdSecOwnerEnrol p s)
      have hnow : (begun cmdSecOwnerEnrol p s).enrolled (bundle.take (param p 48 0 16)) = s.enrolled (bundle.take (param p 48 0 16)) := rfl
      refine ⟨fun o ho hw => ?_, fun hn => ?_⟩
      · have hw' : (begun cmdSecOwnerEnrol p s).nvWorn 2 = false := hw
        rw [hnow, ho] at hact
        obtain ⟨t, hx, ht⟩ := fetch_writes h (x := nvJobOf ⟨.pcie, p.tag⟩ (.owner o) 2) rfl rfl (hact.trans (nvCommand_joins hw' _ _))
        exact ⟨t, _, congrArg _ hx, ht, rfl, rfl⟩
      · rw [hnow, hn] at hact
        obtain ⟨hc, hs⟩ := fetch_closes h hact
        exact ⟨_, rfl, hc, hs⟩
  case block =>
    have hd' : s.nvWritten.rsc.deferred = none := by rw [s.nvWritten_rsc]; exact hd
    refine ⟨fun hw => ?_, fun hw => ⟨_, exec_nvWriteEnd hd', nvWritten_reports hx hb hr hk he hw⟩⟩
    obtain ⟨hend, hsec⟩ := nvWritten_commits hx hb hr hk he hw
    have hblock : s.nvWritten.nvBlock b = (s.nvPut x b).nvBlock b := by rw [State.nvBlock, State.nvBlock, hsec]
    refine ⟨_, exec_nvWriteEnd hd', hend, ?_⟩
    rw [hblock, hsec, nvPut_block, NvBlock.wrote_count, NvBlock.wrote_written]
    exact ⟨nvPut_jobs hx, rfl, rfl, fun i v => nvPut_counter, fun o => nvPut_owner, fun i r => nvPut_bootRec⟩
  case skip =>
    have hd' : s.nvWritten.rsc.deferred = none := by rw [s.nvWritten_rsc]; exact hd
    refine ⟨_, exec_nvWriteEnd hd', ?_⟩
    rw [nvWritten_skips hx hr hb hw]
    exact ⟨nvHead_sec hx _, rfl⟩
  case reset =>
    refine ⟨_, congrArg Host.Outcome.next (if_pos (by rw [s.nvWritten_rsc]; exact hd)), rfl⟩
  case health =>
    have hx : exec .healthTestFailure s = .next (({ s with sec := { s.sec with drbgOk := false } }).alarm 2 0) :=
      congrArg Host.Outcome.next (if_pos hd)
    have hrest : State.alarm { s with sec := { s.sec with drbgOk := false } } 2 0 = _ := State.raise_rest _ _ _ _ _
    refine ⟨_, hx, ?_, State.raise_raised (by rfl) _ _ _ _, ?_⟩ <;> rw [hrest]

end Sys2Proof.Machine
end


section
/-! SUPPORT. The cycles of the fabric (spec/07_fabric.md, R193). -/

namespace Sys2Proof.Machine

/-- The cycles that the fabric of each die has counted. -/
def State.cycles (s : State) (d : Fin 4) : BitVec 64 := s.fab[d.val].fabCycle

theorem cycles_congr {s t : State} (h : t.fab = s.fab) : t.cycles = s.cycles := by
  funext d
  rw [State.cycles, State.cycles, h]

theorem modFab_cycles_kept {s : State} (d : Fin 4) {f : DieFab → DieFab} (hf : ∀ x, (f x).fabCycle = x.fabCycle) :
    (s.modFab d f).cycles = s.cycles := by
  funext e
  rw [State.cycles, State.modFab_fab]
  by_cases h : d = e
  · subst h
    rw [upd_get_same, hf]
    rfl
  · rw [upd_get_other _ _ _ _ h]
    rfl

/-- The cycles of one die counted one further. -/
def countedAt (d : Fin 4) (c : Fin 4 → BitVec 64) : Fin 4 → BitVec 64 := Function.update c d (c d + 1)

theorem modFab_cycles_counted {s : State} (d : Fin 4) {f : DieFab → DieFab} (hf : ∀ x, (f x).fabCycle = x.fabCycle + 1) :
    (s.modFab d f).cycles = countedAt d s.cycles := by
  funext e
  rw [State.cycles, State.modFab_fab, countedAt]
  by_cases h : d = e
  · subst h
    rw [upd_get_same, hf, Function.update_self]
    rfl
  · rw [upd_get_other _ _ _ _ h, Function.update_of_ne (Ne.symm h)]
    rfl

/-! What a cycle does beside its count. -/

theorem ite_fab {c : Prop} [Decidable c] {s t u : State} (h : t.fab = s.fab) (k : u.fab = s.fab) : (if c then t else u).fab = s.fab := by
  split <;> assumption

theorem State.takeWfin_fab (s : State) (d : Fin 4) : (s.takeWfin d).fab = s.fab := by
  refine forAll_keeps State.fab (fun k s => ?_) _ s
  rfl

theorem State.requestHalt_fab (s : State) (w : Fin 32) (cause : Fin 5) : (s.requestHalt w cause).fab = s.fab := ite_fab rfl rfl

theorem State.fireMembers_fab (s : State) (g : Fin 8) (origin : Byte) : (s.fireMembers g origin).fab = s.fab :=
  (State.raise_fab _ _ _ _ _).trans (forAll_keeps State.fab (fun w s => s.requestHalt_fab w 2) _ s)

theorem State.fireGroups_fab (s : State) (mask : Byte) : (s.fireGroups mask).fab = s.fab := by
  unfold State.fireGroups
  refine ite_fab rfl ?_
  dsimp only
  refine (foldl_keeps State.fab (fun s l => ?_) _ _).trans (forAll_keeps State.fab (fun g s => s.fireMembers_fab g _) _ s)
  rfl

theorem State.fabricEvents_fab (s : State) (d : Fin 4) (l : List (Fin 8 × Nat)) : (s.fabricEvents d l).fab = s.fab := by
  refine foldl_keeps State.fab (fun s e => ?_) l s
  exact ite_fab (State.raise_fab _ _ _ _ _) ((State.fireGroups_fab _ _).trans (State.raise_fab _ _ _ _ _))

theorem State.fabricLines_cycles (s : State) (d : Fin 4) (seen : BitVec 64) : (s.fabricLines d seen).cycles = s.cycles := by
  unfold State.fabricLines
  dsimp only
  refine (foldl_keeps State.cycles (fun s k => cycles_congr ?_) _ _).trans (modFab_cycles_kept d fun _ => ?_) <;> rfl

theorem PinsOnly.fab {s t : State} (h : PinsOnly s t) : t.fab = s.fab := by rw [show t = _ from h]

theorem State.sideBand_fab (s : State) (d : Fin 4) : (s.sideBand d).fab = s.fab :=
  forAll_keeps State.fab (fun _ _ => ite_fab (State.drive_pins _ _ _ _).fab rfl) _ s

theorem State.slipPulses_fab (s : State) (d : Fin 4) : (s.slipPulses d).fab = s.fab := by
  unfold State.slipPulses
  refine forAll_keeps State.fab (fun n s => ?_) _ s
  dsimp only
  exact ite_fab rfl rfl

theorem State.probeFrames_fab (s : State) (d : Fin 4) : (s.probeFrames d).fab = s.fab := by
  unfold State.probeFrames
  refine forAll_keeps State.fab (fun c s => ?_) _ s
  dsimp only
  exact ite_fab rfl rfl

theorem State.capture_cycles (s : State) (d : Fin 4) (trigger : Bool) : (s.capture d trigger).cycles = s.cycles := by
  unfold State.capture
  dsimp only
  split
  · rfl
  · exact modFab_cycles_kept d fun _ => rfl

theorem State.clearPulses_cycles (s : State) (d : Fin 4) : (s.clearPulses d).cycles = s.cycles := modFab_cycles_kept d fun _ => rfl

theorem State.crossGoOn_cycles (s : State) (d : Fin 4) : (s.crossGoOn d).cycles = s.cycles := by
  unfold State.crossGoOn
  split
  · exact modFab_cycles_kept d fun _ => rfl
  · rfl

theorem State.crossDone_cycles (s : State) : s.crossDone.cycles = s.cycles := by
  unfold State.crossDone
  refine forAll_keeps State.cycles (fun d s => modFab_cycles_kept d fun x => ?_) _ s
  rfl

/-! The count. -/

/-- What follows on a die's count leaves it. -/
theorem cycleTail_cycles (s : State) (d : Fin 4) (trigger : Bool) :
    (((s.capture d trigger).probeFrames d).clearPulses d).cycles = s.cycles :=
  (State.clearPulses_cycles _ d).trans ((cycles_congr (State.probeFrames_fab _ d)).trans (s.capture_cycles d trigger))

theorem State.fabricIdle_cycles (s : State) (d : Fin 4) : (s.fabricIdle d).cycles = countedAt d s.cycles := by
  unfold State.fabricIdle
  refine (cycleTail_cycles _ d _).trans ((State.fabricLines_cycles _ d 0).trans ((cycles_congr (State.takeWfin_fab _ d)).trans ?_))
  exact modFab_cycles_counted d fun _ => rfl

theorem State.fabricDie_cycles (s : State) (d : Fin 4) (regs : List (Nat × BitVec 32)) (writes : List (Nat × Nat))
    (hoop : List (Nat × BitVec 16)) : (s.fabricDie d regs writes hoop).cycles = countedAt d s.cycles := by
  unfold State.fabricDie
  refine (cycleTail_cycles _ d _).trans ((cycles_congr (State.slipPulses_fab _ d)).trans ((cycles_congr (State.sideBand_fab _ d)).trans
    ((cycles_congr (State.fabricEvents_fab _ d _)).trans ((State.fabricLines_cycles _ d _).trans
      ((cycles_congr (State.takeWfin_fab _ d)).trans ((modFab_cycles_kept d fun _ => ?_).trans ?_))))))
  · rfl
  · exact modFab_cycles_counted d fun _ => rfl

/-- Dies that each count once, or stand. -/
theorem foldl_counts {runs : Fin 4 → Bool} {f : State → Fin 4 → State}
    (hf : ∀ t e, (f t e).cycles = if runs e then countedAt e t.cycles else t.cycles) (d : Fin 4) (hd : runs d = true) :
    ∀ (l : List (Fin 4)) (t : State), l.Nodup → (l.foldl f t).cycles d = if d ∈ l then t.cycles d + 1 else t.cycles d := by
  intro l
  induction l with
  | nil => exact fun t _ => (if_neg List.not_mem_nil).symm
  | cons e l ih =>
    intro t hl
    obtain ⟨he, hl⟩ := List.nodup_cons.mp hl
    rw [List.foldl_cons, ih _ hl, hf]
    by_cases h : d = e
    · subst h
      rw [if_neg he, if_pos hd, if_pos List.mem_cons_self, countedAt, Function.update_self]
    · have hstay : (if runs e then countedAt e t.cycles else t.cycles) d = t.cycles d := by
        split
        · exact Function.update_of_ne h _ _
        · rfl
      rw [hstay]
      simp only [List.mem_cons, h, false_or]

/-- A fabric cycle counts on every die whose clock runs (R193). -/
theorem exec_fabricCycle_counts {s : State} {d : Fin 4} (h : s.fabricRuns d = true) (sb : BitVec 128) :
    ∃ t, exec (.fabricCycle sb [] []) s = .next t ∧ t.fab[d.val].fabCycle = s.fab[d.val].fabCycle + 1 := by
  refine ⟨_, rfl, ?_⟩
  show State.cycles _ d = s.cycles d + 1
  dsimp only [List.filterMap_nil, List.foldl_nil]
  rw [State.crossDone_cycles, foldl_counts (runs := s.fabricRuns) ?_ d h _ _ (List.nodup_finRange 4), if_pos (List.mem_finRange d)]
  intro t e
  cases he : s.fabricRuns e with
  | false => exact t.crossGoOn_cycles e
  | true =>
    rw [if_neg nofun, if_pos rfl]
    split
    · exact t.fabricIdle_cycles e
    · exact t.fabricDie_cycles e _ _ _

theorem exec_captureComplete_done {s : State} {d : Fin 4} (hs : s.fab[d.val].capture.st = .triggered) (hl : s.fab[d.val].capture.left = 0)
    (hq : s.fab[d.val].capture.fifo = []) : ∃ t, exec (.captureComplete d) s = .next t ∧ t.fab[d.val].capture.st = .done := by
  refine ⟨_, congrArg Host.Outcome.next (if_pos (by simp [hs, hl, hq])), ?_⟩
  rw [State.raiseDie, State.raise_fab, State.modFab_fab, upd_get_same]

end Sys2Proof.Machine
end


section
/-! SUPPORT. The TAP's instructions (spec/16_debug.md, R426 to R429), the CFG commands that reply at once (spec/08_configuration.md,
R230, R246), and what settles that every row answers. -/

namespace Sys2Proof.Machine

/-! The TAP. -/

section
variable {s : State}

theorem loadIr_dbg (s : State) (code : BitVec 8) : (s.loadIr code).dbg = { s.dbg with ir := code } := by
  unfold State.loadIr
  dsimp only
  split <;> rfl

theorem loadIr_ir (s : State) (code : BitVec 8) : (s.loadIr code).dbg.ir = code := by rw [loadIr_dbg]

/-- An instruction that holds pins, or one loaded behind one that does not, releases none. -/
theorem loadIr_quiet {code : BitVec 8} (h : scansPins s.dbg.ir = false ∨ scansPins code = true) :
    s.loadIr code = { s with dbg := { s.dbg with ir := code } } := by
  unfold State.loadIr
  dsimp only
  rw [if_neg]
  rcases h with h | h <;> simp [h]

theorem exec_extest {code : BitVec 8} (hp : s.pdOn 0 = true) (hm : s.rsc.mode = .maintain) (hc : scansPins code = true) (a b : List Bool) :
    s.extestOf code a b = { s with dbg := { s.dbg with ir := code, bsr := b }, out := .scanDrive code b :: .tdo a :: s.out } := by
  have hopen : State.pinScanOpen { s with dbg := { s.dbg with ir := code } } = true := by simp [State.pinScanOpen, Mode.scansPins, hm]
  rw [State.extestOf, State.tapAlive, hp, if_neg nofun]
  dsimp only
  rw [loadIr_quiet (.inr hc), hopen, if_pos rfl]
  rfl

theorem holdPins_holds {code : BitVec 8} (hp : s.pdOn 0 = true) (hm : s.rsc.mode = .maintain) (hc : scansPins code = true) (b : List Bool) :
    s.holdPins code b = { s with dbg := { s.dbg with ir := code }, out := .scanDrive code b :: s.out } := by
  have hopen : State.pinScanOpen { s with dbg := { s.dbg with ir := code } } = true := by simp [State.pinScanOpen, Mode.scansPins, hm]
  rw [State.holdPins, State.tapAlive, hp, if_neg nofun]
  dsimp only
  rw [loadIr_quiet (.inr hc), hopen, if_pos rfl]
  rfl

theorem drawBits_length (n : Nat) : ∀ s : State, (s.drawBits n).1.length = n ∧ (s.drawBits n).2.out = s.out := by
  induction n with
  | zero => exact fun s => ⟨rfl, rfl⟩
  | succ n ih =>
    intro s
    obtain ⟨hl, ho⟩ := ih s.drawFree.2
    exact ⟨congrArg Nat.succ hl, ho⟩

/-- A scan of the wrappers puts out as many bits as it takes (R428). -/
theorem exec_dieScan_length (hp : s.pdOn 0 = true) (hm : s.rsc.mode = .maintain) (hq : scansPins s.dbg.ir = false) (a : List Bool) :
    ∃ t o, exec (.dieScan a) s = .next t ∧ t.out = .tdo o :: s.out ∧ o.length = a.length := by
  show ∃ t o, execDieScan a s = .next t ∧ _
  rw [execDieScan, State.tapAlive, hp, if_neg nofun]
  dsimp only
  rw [loadIr_quiet (.inl hq), if_neg (by simp [hm])]
  split
  · exact ⟨_, _, rfl, rfl, by simp⟩
  · obtain ⟨hl, ho⟩ := drawBits_length a.length { s with dbg := { s.dbg with ir := 0x12 } }
    exact ⟨_, _, rfl, congrArg (List.cons _) ho, hl⟩

theorem exec_dbgpkt_reads (hp : s.pdOn 0 = true) (hq : scansPins s.dbg.ir = false) :
    ∃ t, exec (.dbgpkt [] none) s = .next t ∧ t.dbg.ir = 0x10 ∧ t.dbg.mailbox = [] := by
  show ∃ t, execDbgpkt [] none s = .next t ∧ _
  rw [execDbgpkt, State.tapAlive, hp, if_neg nofun]
  dsimp only
  rw [loadIr_quiet (.inl hq), List.isEmpty_nil, if_pos rfl]
  exact ⟨_, rfl, rfl, rfl⟩

theorem exec_tapReset_empties (hp : s.pdOn 0 = true) :
    ∃ t, exec .tapReset s = .next t ∧ t.dbg = { s.dbg with ir := 0x01, mailbox := [], mailIn := [] } := by
  show ∃ t, execTapReset s = .next t ∧ _
  rw [execTapReset, State.tapAlive, hp, if_neg nofun]
  dsimp only
  rw [loadIr_dbg]
  exact ⟨_, rfl, rfl⟩

end

/-! CFG commands that reply at once. -/

section
variable {s : State} {p : Pkt}

theorem cfgRegionStart_completes (h : Accepted cmdCfgRegionStart p s) :
    ∃ t ws, exec (.cfgRegionStart p) s = .next t ∧ Completed cmdCfgRegionStart p s t ws :=
  ⟨_, _, rfl, fetch_completed h rfl rfl rfl⟩

theorem cfgRegionStop_completes (h : Accepted cmdCfgRegionStop p s) :
    ∃ t ws, exec (.cfgRegionStop p) s = .next t ∧ Completed cmdCfgRegionStop p s t ws :=
  ⟨_, _, rfl, fetch_completed h rfl rfl rfl⟩

theorem cfgReadback_completes (h : Accepted cmdCfgReadback p s) (hs : param p 32 0 1 = 1) :
    ∃ t, exec (.cfgReadback p) s = .next t ∧ Completed cmdCfgReadback p s t s.cfgStatus := by
  have hs : fld p.block 32 0 1 = 1 := hs
  have hargs : (begunJob cmdCfgReadback p).args = p.block := begunJob_args (by simp [CmdDef.Unclamped, cmdCfgReadback, Field.applied, hs])
  refine ⟨_, rfl, (fetch_reads h ?_).1⟩
  show readbackAct _ _ = _
  rw [readbackAct, hargs, hs]
  rfl

theorem cfgProbeSet_completes (h : Accepted cmdCfgProbeSet p s) :
    ∃ t ws, exec (.cfgProbeSet p) s = .next t ∧ Completed cmdCfgProbeSet p s t ws := by
  have pins (u : State) (l : List (Fin 128)) : PinsOnly u (forAll l (fun n s => s.refreshPort n) u) := .foldl (fun s n => s.refreshPort_pins n) l u
  refine ⟨_, _, rfl, fetch_completed h rfl ?_ ?_⟩ <;> rw [show forAll _ _ _ = _ from pins _ _] <;> rfl

end

/-! A read of a reply. -/

theorem i2cReply_reads {s : State} (hp : s.pdOn 0 = true) (ha : s.rsc.hib = .awake) (n : Nat) : ∃ t bytes, exec (.i2cReplyRead n) s = .next t ∧
    t.out = .i2c bytes :: s.out ∧ bytes.length = n + 1 ∧ t = { s with out := t.out, queen := t.queen } := by
  have hlen (bs : Bytes) (c : Byte) : ((bs ++ List.replicate (n - bs.length) 0).take n ++ [c]).length = n + 1 := by
    rw [List.length_append, padded_length]
    rfl
  show ∃ t bytes, Host.Outcome.next (s.i2cReply n) = .next t ∧ _
  cases hr : s.queen.i2cReplies with
  | nil =>
    rw [i2cReply_none hp ha hr]
    exact ⟨_, _, rfl, rfl, by simp, rfl⟩
  | cons r l =>
    rw [State.i2cReply, hp, if_neg nofun]
    simp only [hr]
    rw [i2cTouch_awake (s := s.i2cRead 0x81 _) ha]
    split <;> exact ⟨_, _, rfl, rfl, hlen _ _, rfl⟩

/-- Settles O2: that every row answers from what every step keeps, and each row's completion from the lemma of its command, of its
instruction or of its register. -/
theorem everyRowAnswers : Obligations.EveryRowAnswers := by
  refine ⟨fun c s => ?answers, fun s p => ?commands, fun s r l x k v hup haw => ?rings, fun s a b bit v hp hm => ?tap, fun s d sb => ?fabric,
    fun s data pec host ptr n hi v bs hp ha => ?rescue⟩
  case answers =>
    obtain ⟨t, ht, -⟩ := exec_next c s
    exact ⟨t, ht⟩
  case commands =>
    refine ⟨cfgRegionStart_completes, cfgRegionStop_completes, cfgReadback_completes, cfgProbeSet_completes, fun h => ?_, fun h => ?_,
      fun h => ?_, fun h => ?_, fun hf hu hfree => ?_⟩
    · obtain ⟨q, hx, hc⟩ := evtMaskSet_ends h
      exact ⟨_, hx, hc⟩
    · obtain ⟨q, hx, hc⟩ := evtRouteSet_ends h
      exact ⟨_, hx, hc⟩
    · obtain ⟨q, hx, hc⟩ := evtStatus_ends h
      exact ⟨_, hx, hc⟩
    · obtain ⟨q, hx, hc⟩ := evtAck_ends h
      exact ⟨_, hx, hc⟩
    · rw [exec_subResync_resyncs hf hu, resync_free hfree, lengthStatus_eq]
      exact ⟨_, _, rfl, rfl, rfl, rfl, rfl, rfl⟩
  case rings =>
    obtain ⟨writes, -, events, gaps⟩ := eventsAndRings.1 s
    refine ⟨fun hr hs hc hen hroom hafter => ?_, fun hr hen hroom => ?_, fun hg => ?_⟩
    · obtain ⟨t, ws, hx, hq, htail, -⟩ := writes r l hr hs hc hup hen haw hroom hafter
      exact ⟨t, hx, hq, htail⟩
    · obtain ⟨t, hx, ht, htail, -⟩ := events x k hr hup hen hroom haw
      exact ⟨t, hx, by rw [ht], htail⟩
    · obtain ⟨t, hx, hpba, -⟩ := gaps v hg
      exact ⟨t, hx, hpba⟩
  case tap =>
    have halive : s.tapAlive = true := hp
    refine ⟨⟨_, congrArg Host.Outcome.next (if_pos halive), loadIr_ir s _⟩,
      ⟨_, congrArg Host.Outcome.next (if_pos halive), loadIr_ir s _, rfl⟩,
      ⟨_, congrArg Host.Outcome.next (exec_extest hp hm (by decide) a b), rfl, rfl, rfl⟩,
      ⟨_, congrArg Host.Outcome.next (exec_extest hp hm (by decide) a b), rfl, rfl, rfl⟩,
      ⟨_, congrArg Host.Outcome.next (exec_extest hp hm (by decide) a b), rfl, rfl, rfl⟩,
      ⟨_, congrArg Host.Outcome.next (holdPins_holds hp hm (by decide) _), rfl, rfl⟩,
      ⟨_, congrArg Host.Outcome.next (holdPins_holds hp hm (by decide) _), rfl, rfl⟩,
      ⟨_, congrArg Host.Outcome.next (if_pos halive), loadIr_ir s _⟩,
      ⟨_, congrArg Host.Outcome.next (if_pos halive), loadIr_ir s _, rfl⟩,
      fun hq => ⟨exec_dieScan_length hp hm hq a, exec_dbgpkt_reads hp hq, exec_tapReset_empties hp⟩⟩
  case fabric => exact ⟨fun h => exec_fabricCycle_counts h _, exec_captureComplete_done⟩
  case rescue =>
    intro p keyed
    obtain ⟨-, hrange, hresets⟩ := rescuePath
    obtain ⟨hack, -, hqueen, hdevice⟩ := hresets s v pec hi bs hp ha
    refine ⟨fun h1 h2 h3 hk hl hlen => congrArg Host.Outcome.next (i2cPacket_delivers hp ha host ⟨h1, h2, h3⟩ hk hl hlen),
      i2cReply_reads hp ha n, fun hptr => ?_, fun hk => ?_, fun hk hd hf => ?_, fun hk hn hr hf => ?_⟩
    · obtain ⟨t, bytes, hx, ho, -, hl, ht, -⟩ := (hrange s ptr n data pec hp ha).1 hptr
      exact ⟨t, bytes, hx, ho, hl, ht⟩
    · obtain ⟨t, hx, ht, -, hsrc⟩ := hack hk
      refine ⟨t, hx, ht, fun i hv => ?_⟩
      have hlo : (if hi then 32 else 0) ≤ 32 := by split <;> decide
      rw [hsrc ⟨i.val + (if hi then 32 else 0), by omega⟩, if_pos ⟨by simp, by simp; omega, by simpa using hv⟩]
    · obtain ⟨t, hx, hup, hlast, -⟩ := hqueen hk.1 hk.2.1 hk.2.2 hd hf
      exact ⟨t, hx, hup, hlast⟩
    · exact hdevice hk.1 hk.2.1 hk.2.2 hn hr hf

end Sys2Proof.Machine
end

section
/-! SUPPORT. A bundle that retires (spec/03_worker_cores.md, R68 to R74): what it makes of its Worker field by field, and the operations
that neither fault nor stall. -/

namespace Sys2Proof.Machine

/-! The Worker behind a retired bundle. -/

/-- What an operation's writes make of the registers, less what the moves of its bundle discard (R70). -/
def State.owned (s : State) (w : Fin 32) (l : List PendWrite) (r : Regs) : Regs :=
  applyAll r ((l.filter fun p => !overlaps p.reg (moveDests (s.bundle w))).map fun p =>
    keepParts s.workers[w.val].opView p (moveDests (s.bundle w)))

theorem State.owned_nil (s : State) (w : Fin 32) : s.owned w [] = id := rfl

theorem State.owned_append (s : State) (w : Fin 32) (l m : List PendWrite) (r : Regs) :
    s.owned w (l ++ m) r = s.owned w m (s.owned w l r) := by
  simp only [State.owned, List.filter_append, List.map_append, applyAll_append]

/-- The reads of a bundle touch registers and writes on their way alone. -/
theorem readEffects_registers (s : State) (w : Fin 32) (r : Regs) (x y : Slot20) :
    ∃ f : Worker → Worker, s.readEffects w r x y = s.modWorker w f ∧ ∀ k, f k = { k with regs := (f k).regs, pend := (f k).pend } := by
  have twice (f g : Worker → Worker) : (s.modWorker w f).modWorker w g = s.modWorker w (g ∘ f) := by simp [State.modWorker, upd_upd]
  unfold State.readEffects
  dsimp only
  split <;> split
  · exact ⟨_, twice _ _, fun k => rfl⟩
  · exact ⟨_, rfl, fun k => rfl⟩
  · exact ⟨_, rfl, fun k => rfl⟩
  · exact ⟨id, by simp [State.modWorker, upd], fun k => rfl⟩

/-- Sequencing neither reads nor changes registers, writes and stores on their way. -/
theorem advance_with (k : Worker) (r : Regs) (p : List PendWrite) (l : List PendStore) (inh control : Bool)
    (jump next : Option (BitVec 15)) (turn : StackTurn) :
    ({ k with regs := r, pend := p, stores := l } : Worker).advance inh control jump next turn =
      { k.advance inh control jump next turn with regs := r, pend := p, stores := l } := by
  unfold Worker.advance
  dsimp only
  split <;> split <;> rfl

/-- A Worker one bundle further is sequenced, its stall over, with other registers, writes and stores on their way. -/
theorem passed_sequenced (k : Worker) (c : Ctx) (o : OpOut) (writes : List PendWrite) (stores : List PendStore) : ∃ r p,
    k.passed c o writes stores =
      { k.advance c.op.inh (hasSlots (bitsOf c.b 58 6)) o.jump o.next o.turn with regs := r, pend := p, stores := stores, stall := none } :=
  ⟨({ k with pend := k.agePend ++ writes, stores := stores } : Worker).land.regs,
    ({ k with pend := k.agePend ++ writes, stores := stores } : Worker).land.pend,
    congrArg (fun k : Worker => { k with stall := none }) (advance_with k _ _ _ _ _ _ _ _)⟩

/-- A Worker as the sequencing of its bundle leaves it. -/
def State.sequenced (s : State) (w : Fin 32) (o : OpOut) : Worker :=
  s.workers[w.val].advance s.workers[w.val].opView.inh (hasSlots (bitsOf (s.bundle w) 58 6)) o.jump o.next o.turn

/-- The Worker of a retired bundle: sequenced, its stall over, with other registers, writes and stores on their way. -/
theorem retired_worker (s : State) (w : Fin 32) (o : OpOut) : ∃ r p l, (s.retire (s.ctx w) o).workers[w.val] =
    { s.sequenced w o with regs := r, pend := p, stores := l, stall := none } := by
  obtain ⟨l, hk⟩ := retire_worker s (s.ctx w) o
  obtain ⟨f, hf, hr⟩ := readEffects_registers s w s.workers[w.val].opView (slotsOf (s.bundle w)).1 (slotsOf (s.bundle w)).2
  have hk : (s.retire (s.ctx w) o).workers[w.val] =
      ((s.readEffects w s.workers[w.val].opView (slotsOf (s.bundle w)).1 (slotsOf (s.bundle w)).2).workers[w.val]).passed
        (s.ctx w) o (s.bundleWrites (s.ctx w) o) l := hk
  obtain ⟨r, p, hp⟩ := passed_sequenced (f s.workers[w.val]) (s.ctx w) o (s.bundleWrites (s.ctx w) o) l
  refine ⟨r, p, l, ?_⟩
  rw [hk, hf, modWorker_get, hp, hr, advance_with]
  rfl

/-- A bundle that retires has executed, with its operation's writes. -/
theorem retire_executed {s : State} {w : Fin 32} (hm : s.mem.wf = true) (hr : s.workers[w.val].st = .running) (o : OpOut) :
    Executed s (s.retire (s.ctx w) o) w (s.owned w o.writes) where
  regs := by
    rw [retire_settled, State.bundleWrites]
    exact applyAll_append _ _ _
  runs := by
    obtain ⟨r, p, l, hk⟩ := retired_worker s w o
    rw [hk]
    exact (advance_st _ _ _ _ _ _).trans hr
  memory := (retire_frame o hm).2

theorem retire_only {s : State} (hm : s.mem.wf = true) (w : Fin 32) (o : OpOut) : OnlyWorker s (s.retire (s.ctx w) o) w :=
  (retire_frame o hm).1

/-- Sequencing leaves the debug state, the window, the mark and the signals of a Worker. -/
theorem sequenced_rest (s : State) (w : Fin 32) (o : OpOut) : s.sequenced w o = { s.workers[w.val] with
    pc := (s.sequenced w o).pc, stack := (s.sequenced w o).stack, delay := (s.sequenced w o).delay, reps := (s.sequenced w o).reps
    slotPrev := (s.sequenced w o).slotPrev, iterEnd := (s.sequenced w o).iterEnd } := by
  unfold State.sequenced Worker.advance
  dsimp only
  split <;> split <;> rfl

/-- A Worker behind its bundle: what sequencing and landing may have changed, and all else as it was. -/
theorem retired_rest (s : State) (w : Fin 32) (o : OpOut) : ∃ r p l b e, (s.retire (s.ctx w) o).workers[w.val] =
    { s.workers[w.val] with
      pc := (s.sequenced w o).pc, stack := (s.sequenced w o).stack, delay := (s.sequenced w o).delay, reps := (s.sequenced w o).reps
      slotPrev := b, iterEnd := e, regs := r, pend := p, stores := l, stall := none } := by
  obtain ⟨r, p, l, hk⟩ := retired_worker s w o
  exact ⟨r, p, l, _, _, by rw [hk, sequenced_rest]⟩

theorem repNext_nil (pc : BitVec 15) (depth : Nat) (inh ended inner : Bool) : repNext pc depth inh ended inner [] = (pc + 1, [], ended) := rfl

/-- An operation that names no successor is followed by the bundle behind it, outside delay slots and repeats. -/
theorem sequenced_next {s : State} {w : Fin 32} {o : OpOut} (ho : o.next = none)
    (hd : s.workers[w.val].delay = none) (hr : s.workers[w.val].reps = []) : (s.sequenced w o).pc = s.workers[w.val].pc + 1 := by
  unfold State.sequenced Worker.advance
  rw [hd, hr, repNext_nil, ho]
  dsimp only
  split <;> simp

theorem retire_sequential (s : State) (w : Fin 32) {o : OpOut} (ho : o.next = none) : Sequential s (s.retire (s.ctx w) o) w := by
  intro hd hr
  obtain ⟨r, p, l, hk⟩ := retired_worker s w o
  rw [hk]
  exact sequenced_next ho hd hr

/-! Bundles that issue, for the first time or again. -/

/-- A Worker's next bundle meets nothing before its operation: the Worker runs, the bundle is legal, no comparator is enabled, no step
counts it, and no fault came before it. -/
structure Clear (s : State) (w : Fin 32) : Prop where
  runs   : s.workers[w.val].st = .running
  legal  : s.bundleFault w = none
  quiet  : ∀ c : Fin 8, s.workers[w.val].dbg.comps[c.val].en = false
  noStep : s.workers[w.val].dbg.stepLeft = none
  lives  : s.workers[w.val].dying = none

theorem mayIssue_runs {s : State} {w : Fin 32} (h : s.mayIssue w = true) : s.workers[w.val].st = .running := by
  simp only [State.mayIssue, Bool.and_eq_true, decide_eq_true_eq] at h
  exact h.1.1.1.1.1.1.1

theorem Issues.clear {s : State} {w : Fin 32} {opc : Nat} (h : Issues s w opc) : Clear s w :=
  ⟨mayIssue_runs h.may, h.legal, h.quiet, h.noStep, h.lives⟩

theorem Reissues.clear {s : State} {w : Fin 32} {opc : Nat} (h : Reissues s w opc) : Clear s w :=
  ⟨h.runs, h.legal, h.quiet, h.noStep, h.lives⟩

/-- Without an enabled comparator a bundle is performed at once. -/
theorem issue_quiet {s : State} {w : Fin 32} (h : ∀ c : Fin 8, s.workers[w.val].dbg.comps[c.val].en = false) (e : WEcc) (m : OpMeaning) :
    s.issue w e m = s.performEcc w e m := by
  simp [State.issue, matching_quiet h]

theorem runOp_may {s : State} {w : Fin 32} {opc : Nat} (hm : s.mayIssue w = true) (ho : bitsOf (s.bundle w) 58 6 = opc) (e : WEcc)
    (m : OpMeaning) : s.runOp w e opc m = s.issue w e m := by
  simp [State.runOp, hm, ho]

/-- A bundle finished with no comparator, no step and no earlier fault: retired, then its operation's own effect. -/
theorem finishBundle_clear {s : State} {w : Fin 32} (h : Clear s w) {o : OpOut}
    (hp : (o.post (s.retire (s.ctx w) o)).workers[w.val].dbg.stepLeft = none) :
    s.finishBundle (s.ctx w) o = o.post (s.retire (s.ctx w) o) := by
  have hhits : s.accessHits (s.ctx w) = [] := by
    have hq : ∀ sp a ac, s.workers[(s.ctx w).w.val].matching sp a ac = [] := matching_quiet h.quiet
    simp [State.accessHits, hq]
  have hd : s.workers[(s.ctx w).w.val].dying = none := h.lives
  have hstep : (o.post (s.retire (s.ctx w) o)).workers[(s.ctx w).w.val].dbg.stepLeft = none := hp
  simp only [State.finishBundle, hhits, State.compHit, State.countStep, hstep, hd, Option.isSome_none, Bool.false_eq_true, if_false]

/-- The bundle of an operation that neither faults nor stalls. -/
theorem issue_clear {s : State} {w : Fin 32} (h : Clear s w) {m : OpMeaning} (hf : (m (s.ctx w)).fault = none)
    (hs : (m (s.ctx w)).stall = none)
    (hp : ((m (s.ctx w)).post (s.retire (s.ctx w) (m (s.ctx w)))).workers[w.val].dbg.stepLeft = none) :
    s.issue w .ok m = (m (s.ctx w)).post (s.retire (s.ctx w) (m (s.ctx w))) := by
  rw [issue_quiet h.quiet, State.performEcc, State.perform, h.legal]
  simp only [hf, hs]
  exact finishBundle_clear h hp

/-- The bundle of an operation that stalls. -/
theorem issue_stalls {s : State} {w : Fin 32} (h : Clear s w) {m : OpMeaning} {x : Stall} (hf : (m (s.ctx w)).fault = none)
    (hs : (m (s.ctx w)).stall = some x) : s.issue w .ok m = s.modWorker w fun k => k.stalledOn x := by
  rw [issue_quiet h.quiet, State.performEcc, State.perform, h.legal]
  simp only [hf, hs]

/-- A Worker is not between steps behind a bundle that it was not before. -/
theorem retire_noStep {s : State} {w : Fin 32} (h : Clear s w) (o : OpOut) : (s.retire (s.ctx w) o).workers[w.val].dbg.stepLeft = none := by
  obtain ⟨r, p, l, b, e, hk⟩ := retired_rest s w o
  rw [hk]
  exact h.noStep

/-- The bundle of an operation whose effect is its writes and its sequencing alone. -/
theorem issue_plain {s : State} {w : Fin 32} (h : Clear s w) {m : OpMeaning} (hf : (m (s.ctx w)).fault = none)
    (hs : (m (s.ctx w)).stall = none) (hp : (m (s.ctx w)).post = id) : s.issue w .ok m = s.retire (s.ctx w) (m (s.ctx w)) := by
  rw [issue_clear h hf hs (by rw [hp]; exact retire_noStep h _), hp]
  rfl

/-- An operation whose effect is its writes alone, with the bundle behind it next. -/
theorem issue_retired {s : State} {w : Fin 32} (h : Clear s w) (hm : s.mem.wf = true) {m : OpMeaning} (hf : (m (s.ctx w)).fault = none)
    (hs : (m (s.ctx w)).stall = none) (hp : (m (s.ctx w)).post = id) (hn : (m (s.ctx w)).next = none) :
    Retired s (s.issue w .ok m) w (s.owned w (m (s.ctx w)).writes) := by
  rw [issue_plain h hf hs hp]
  exact ⟨retire_executed hm h.runs _, retire_only hm w _, retire_sequential s w hn⟩

/-- The same, with what its writes make of the registers. -/
theorem runOp_retired {s : State} {w : Fin 32} {opc : Nat} (h : Issues s w opc) (hm : s.mem.wf = true) {m : OpMeaning}
    (hf : (m (s.ctx w)).fault = none) (hs : (m (s.ctx w)).stall = none) (hp : (m (s.ctx w)).post = id) (hn : (m (s.ctx w)).next = none)
    {own : Regs → Regs} (ho : ∀ r, s.owned w (m (s.ctx w)).writes r = own r) : Retired s (s.runOp w .ok opc m) w own := by
  rw [runOp_may h.may h.opcode, ← funext ho]
  exact issue_retired h.clear hm hf hs hp hn

/-! What an operation's own effect leaves of an executed bundle. -/

section
variable {s t u : State} {w : Fin 32} {own : Regs → Regs}

/-- A later change that leaves the Worker's registers and state and the memory. -/
theorem Executed.then_ (h : Executed s t w own) (hk : u.workers[w.val].settled = t.workers[w.val].settled ∧
    u.workers[w.val].st = t.workers[w.val].st) (hm : u.mem.byte = t.mem.byte) : Executed s u w own :=
  ⟨hk.1.trans h.regs, hk.2.trans h.runs, fun a ha => (congrFun hm a).trans (h.memory a ha)⟩

/-- A later change of the Worker itself that leaves its registers and its state. -/
theorem Executed.modWorker (h : Executed s t w own) {f : Worker → Worker}
    (hf : ∀ k, (f k).settled = k.settled ∧ (f k).st = k.st) : Executed s (t.modWorker w f) w own :=
  h.then_ (by rw [modWorker_get]; exact hf _) rfl

theorem OnlyWorker.modWorker (h : OnlyWorker s t w) (f : Worker → Worker) : OnlyWorker s (t.modWorker w f) w where
  rest := by
    rw [h.rest]
    rfl
  others v hv := (modWorker_get_ne _ _ _ _ (Ne.symm hv)).trans (h.others v hv)

theorem Sequential.then_ (h : Sequential s t w) (hp : u.workers[w.val].pc = t.workers[w.val].pc) : Sequential s u w :=
  fun hd hr => hp.trans (h hd hr)

end

/-! `LKF` and `OVS` as operations set them. -/

theorem apply_lkf (r : Regs) : r.apply 69 0 = { r with lkf := true } := by
  have he : landsEarly 69 = false := rfl
  simp only [Regs.apply, he, Bool.false_eq_true, if_false, Regs.applyData, ofFn_acc r 69 _ (.inr (by omega))]
  simp

/-- A write of a register that is no accumulator is kept whole. -/
theorem keepParts_other {r : Regs} {p : PendWrite} (h : ¬(64 ≤ p.reg ∧ p.reg < 68)) (l : List Nat) : keepParts r p l = p := if_neg h

/-- A write to a part of `WSTAT` by an operation: discarded where a move writes `WSTAT` (R70). -/
theorem owned_status (s : State) (w : Fin 32) {n : Nat} (hn : 68 ≤ n) (v : BitVec 72) (late addr : Nat) (r : Regs) :
    s.owned w [⟨n, v, late, addr⟩] r = if 44 ∈ moveDests (s.bundle w) then r else r.apply n v := by
  have ho : overlaps n (moveDests (s.bundle w)) = decide (44 ∈ moveDests (s.bundle w)) := by
    simp [overlaps, show ¬ n < 64 by omega, show ¬ n < 68 by omega]
  have hk (l : List Nat) : keepParts s.workers[w.val].opView ⟨n, v, late, addr⟩ l = ⟨n, v, late, addr⟩ :=
    keepParts_other (show ¬(64 ≤ n ∧ n < 68) by omega) l
  by_cases h : 44 ∈ moveDests (s.bundle w) <;> simp [State.owned, ho, h, hk]

end Sys2Proof.Machine
end

section
/-! SUPPORT. Accumulator results (spec/03_worker_cores.md, R70, R78). -/

namespace Sys2Proof.Machine

/-! A whole accumulator written. -/

theorem accWritten_whole {i n : Nat} (hi : i < 4) (hn : n < 4) (a v : BitVec 72) : accWritten i a (64 + n) v = if i = n then v else a := by
  unfold accWritten
  simp only [show ¬ 64 + n = 16 + i by omega, show ¬ 64 + n = 20 + i by omega, show ¬ 64 + n = 24 + i by omega, if_false,
    Nat.add_left_cancel_iff, eq_comm]

theorem apply_acc (r : Regs) {n : Nat} (hn : n < 4) (v : BitVec 72) : r.apply (64 + n) v = { r with acc := r.acc.set n v hn } := by
  have he : landsEarly (64 + n) = false := by simp [landsEarly]
  have ha : (Vector.ofFn fun i : Fin 4 => accWritten i.val r.acc[i.val] (64 + n) v) = r.acc.set n v hn := by
    ext i hi
    simp [accWritten_whole hi hn, Vector.getElem_set, eq_comm (a := n)]
  simp only [Regs.apply, he, Bool.false_eq_true, if_false, Regs.applyData, ha]
  simp [show ¬ 64 + n < 16 by omega, show ¬ 64 + n < 32 by omega, show ¬ 64 + n < 36 by omega, show ¬ 64 + n < 44 by omega,
    show ¬ 64 + n = 44 by omega, show ¬ 64 + n = 72 by omega, show ¬ 64 + n = 68 by omega, show ¬ 64 + n = 69 by omega,
    show ¬ 64 + n = 71 by omega]

/-- An accumulator's value from its parts. -/
theorem acc_parts (g : BitVec 8) (m l : BitVec 32) (v : Nat) (h : v = g.toNat * 2 ^ 64 + m.toNat * 2 ^ 32 + l.toNat) :
    BitVec.ofNat 72 v = g ++ m ++ l := by
  apply BitVec.eq_of_toNat_eq
  have hg := g.isLt
  have hm := m.isLt
  have hl := l.isLt
  rw [BitVec.toNat_append, BitVec.toNat_append, ← Nat.shiftLeft_add_eq_or_of_lt hl, ← Nat.shiftLeft_add_eq_or_of_lt hm,
    Nat.shiftLeft_eq, Nat.shiftLeft_eq, BitVec.toNat_ofNat]
  omega

/-- The low, middle and guard parts of an accumulator as numbers. -/
theorem acc_low (a : BitVec 72) : (a.extractLsb' 0 32).toNat = a.toNat % 2 ^ 32 := by simp
theorem acc_middle (a : BitVec 72) : (a.extractLsb' 32 32).toNat = a.toNat / 2 ^ 32 % 2 ^ 32 := by simp [Nat.shiftRight_eq_div_pow]
theorem acc_guard (a : BitVec 72) : (a.extractLsb' 64 8).toNat = a.toNat / 2 ^ 64 := by
  have := a.isLt
  simp only [BitVec.extractLsb'_toNat, Nat.shiftRight_eq_div_pow]
  omega

/-- An accumulator write keeps the parts that the bundle's moves write (R70). -/
theorem keepParts_acc (r : Regs) {n : Nat} (hn : n < 4) (v : BitVec 72) (l : List Nat) : keepParts r ⟨64 + n, v, 0, 2⟩ l =
    ⟨64 + n, (if 24 + n ∈ l then r.acc[n].extractLsb' 64 8 else v.extractLsb' 64 8) ++ v.extractLsb' 32 32 ++
      (if 20 + n ∈ l then r.acc[n].extractLsb' 0 32 else v.extractLsb' 0 32), 0, 2⟩ := by
  have hr : 64 ≤ 64 + n ∧ 64 + n < 68 := by omega
  have hv := v.isLt
  have ho := r.acc[n].isLt
  unfold keepParts
  rw [if_pos hr]
  simp only [Nat.add_sub_cancel_left, at?_lt r.acc hn, Option.getD_some, List.contains_eq_mem, decide_eq_true_eq]
  congr 1
  apply acc_parts
  by_cases h20 : 20 + n ∈ l <;> by_cases h24 : 24 + n ∈ l <;>
    simp only [h20, h24, if_true, if_false, acc_low, acc_middle, acc_guard] <;> omega

theorem owned_acc (s : State) (w : Fin 32) {n : Nat} (hn : n < 4) (v : BitVec 72) (r : Regs) :
    s.owned w [⟨64 + n, v, 0, 2⟩] r = withAcc (s.bundle w) n v s.workers[w.val].opView r := by
  have ho : overlaps (64 + n) (moveDests (s.bundle w)) = decide (16 + n ∈ moveDests (s.bundle w)) := by
    simp [overlaps, show ¬ 64 + n < 64 by omega, show 64 + n < 68 by omega, show 64 + n - 48 = 16 + n by omega]
  unfold withAcc
  simp only [Nat.mod_eq_of_lt hn]
  by_cases h : 16 + n ∈ moveDests (s.bundle w)
  · simp [State.owned, ho, h]
  · simp [State.owned, ho, h, keepParts_acc _ hn, apply_acc _ hn]

/-- An exact result written into an accumulator, with `OVS` (R78). -/
theorem owned_accIn (s : State) (w : Fin 32) {n : Nat} (hn : n < 4) (i : Int) (r : Regs) :
    s.owned w (accIn n (wrap72 i)) r = accumulated (s.bundle w) n i s.workers[w.val].opView r := by
  have hw : accIn n (wrap72 i) = [⟨64 + n, BitVec.ofInt 72 i, 0, 2⟩] ++
      if decide ¬(-(2 ^ 71) ≤ i ∧ i < 2 ^ 71) then [⟨71, 0, 0, 2⟩] else [] := rfl
  rw [hw, State.owned_append, owned_acc s w hn, accumulated, withOvs]
  by_cases h : -(2 ^ 71) ≤ i ∧ i < 2 ^ 71
  · rw [if_neg (by rw [decide_eq_true_eq]; exact not_not_intro h), if_pos (.inr h), State.owned_nil, id]
  · rw [if_pos (decide_eq_true h), owned_status s w (show 68 ≤ 71 by omega), apply_ovs]
    simp only [h, or_false]

/-! Operands. -/

theorem ctx_acc (s : State) (w : Fin 32) {n : Nat} (hn : n < 4) : ((s.ctx w).acc n).toInt = s.accOf w n := by
  have h : (s.ctx w).acc n = s.workers[w.val].opView.acc[n] := congrArg (Option.getD · 0) (at?_lt _ hn)
  simp only [h, State.accOf, Nat.mod_eq_of_lt hn]

theorem factor_signed {n : Nat} (x : BitVec n) (signed : Bool) : factor n x.toNat signed = if signed then x.toInt else x.toNat := by
  have hs : signedOf n x.toNat = x.toInt := by
    rw [signedOf, BitVec.toInt]
    cases n with
    | zero => simp [Subsingleton.elim x 0#0]
    | succ n => simp only [Nat.add_sub_cancel, Nat.pow_succ]; push_cast; split <;> split <;> omega
  rw [factor, hs]

theorem product_signed {n : Nat} (x y : BitVec n) (sign : Nat) : product n x.toNat y.toNat sign = signedProduct x y sign := by
  simp only [product, signedProduct, factor_signed]
  by_cases h1 : sign = 1 <;> by_cases h0 : sign = 0 <;> simp [h0, h1]

theorem word_low (x : Word) : x.toNat % 65536 = (x.extractLsb' 0 16).toNat := by simp
theorem word_high (x : Word) : x.toNat / 65536 = (x.extractLsb' 16 16).toNat := by
  have := x.isLt
  simp only [BitVec.extractLsb'_toNat, Nat.shiftRight_eq_div_pow]
  omega

/-- What an accumulating operation adds up: the accumulator, unless it is cleared, and the product with its sign. -/
def State.accInto (s : State) (w : Fin 32) (n : Nat) (p : Int) : Int :=
  (if bitsOf (s.bundle w) 44 1 = 1 then 0 else s.accOf w n) + if bitsOf (s.bundle w) 45 1 = 1 then -p else p

theorem ctx_accumulate (s : State) (w : Fin 32) {n : Nat} (hn : n < 4) (p : Int) :
    accumulate ((s.ctx w).acc n) p ((s.ctx w).f 45 1 = 1) ((s.ctx w).f 44 1 = 1) = wrap72 (s.accInto w n p) := by
  have hf (lo n : Nat) : (s.ctx w).f lo n = bitsOf (s.bundle w) lo n := rfl
  simp only [accumulate, ctx_acc s w hn, hf, decide_eq_true_eq, State.accInto]

theorem opMac_writes (s : State) (w : Fin 32) : (opMac (s.ctx w)).writes = accIn (bitsOf (s.bundle w) 56 2)
    (wrap72 (s.accInto w (bitsOf (s.bundle w) 56 2)
      (signedProduct (s.operand w 52) (s.operand w 48) (bitsOf (s.bundle w) 46 2)))) := by
  rw [← ctx_accumulate s w (bitsOf_lt _ _ 2), ← product_signed, ← ctx_d, ← ctx_d]
  rfl

theorem opMac2_writes (s : State) (w : Fin 32) :
    let m := 2 * bitsOf (s.bundle w) 57 1
    let sign := bitsOf (s.bundle w) 46 2
    (opMac2 (s.ctx w)).writes =
      accIn m (wrap72 (s.accInto w m
        (signedProduct ((s.operand w 52).extractLsb' 0 16) ((s.operand w 48).extractLsb' 0 16) sign))) ++
      accIn (m + 1) (wrap72 (s.accInto w (m + 1)
        (signedProduct ((s.operand w 52).extractLsb' 16 16) ((s.operand w 48).extractLsb' 16 16) sign))) := by
  have hb : bitsOf (s.bundle w) 57 1 < 2 := bitsOf_lt _ _ 1
  intro m sign
  rw [← ctx_accumulate s w (show m < 4 by omega), ← ctx_accumulate s w (show m + 1 < 4 by omega), ← product_signed, ← product_signed,
    ← word_low, ← word_low, ← word_high, ← word_high, ← ctx_d, ← ctx_d]
  rfl

/-- The exact result of `aop`: clear, add, subtract or negate (R78). -/
def State.aopExact (s : State) (w : Fin 32) : Int :=
  match bitsOf (s.bundle w) 52 2 with
  | 0 => 0
  | 1 => s.accOf w (bitsOf (s.bundle w) 56 2) + s.accOf w (bitsOf (s.bundle w) 54 2)
  | 2 => s.accOf w (bitsOf (s.bundle w) 56 2) - s.accOf w (bitsOf (s.bundle w) 54 2)
  | _ => -s.accOf w (bitsOf (s.bundle w) 54 2)

theorem opAop_writes (s : State) (w : Fin 32) :
    (opAop (s.ctx w)).writes = accIn (bitsOf (s.bundle w) 56 2) (wrap72 (s.aopExact w)) := by
  have hf (lo n : Nat) : (s.ctx w).f lo n = bitsOf (s.bundle w) lo n := rfl
  have h0 : wrap72 0 = (0, false) := rfl
  simp only [opAop, hf, ctx_acc s w (bitsOf_lt _ _ 2), State.aopExact]
  split <;> simp only [*]

/-- Settles O5: each operation's writes are accumulator results, and a result that is written is `accumulated`. -/
theorem accumulatorResults : Obligations.AccumulatorResults := by
  intro s w hm b old x y sign into n m src
  have hb : bitsOf b 57 1 < 2 := bitsOf_lt _ _ 1
  refine ⟨fun h => ⟨_, rfl, runOp_retired h hm rfl rfl rfl rfl fun r => ?_⟩,
    fun h => ⟨_, rfl, runOp_retired h hm rfl rfl rfl rfl fun r => ?_⟩,
    fun h => ⟨_, rfl, runOp_retired h hm rfl rfl rfl rfl fun r => ?_⟩⟩
  · rw [opMac_writes, owned_accIn s w (bitsOf_lt _ _ 2)]
    rfl
  · rw [opMac2_writes, State.owned_append, owned_accIn s w (show m < 4 by omega), owned_accIn s w (show m + 1 < 4 by omega)]
    rfl
  · rw [opAop_writes, owned_accIn s w (bitsOf_lt _ _ 2)]
    rfl

end Sys2Proof.Machine
end

section
/-! SUPPORT. Branches, calls, returns and `rti` (spec/03_worker_cores.md, R73, R77). -/

namespace Sys2Proof.Machine

/-- A control instruction, `rep` or `end` is legal outside delay slots alone (R73). -/
theorem legal_noDelay {s : State} {w : Fin 32} (h : s.bundleFault w = none) (hc : isControl (bitsOf (s.bundle w) 58 6) = true) :
    s.workers[w.val].delay = none := by
  by_contra hd
  have hd : s.workers[w.val].delay.isSome = true := Option.isSome_iff_ne_none.mpr hd
  have hf : decodeFault (s.vecLegal w) s.workers[w.val].delay.isSome (s.bundle w) ≠ none := by
    simp only [decodeFault, hd, hc, Bool.and_true, if_true]
    split <;> exact Option.some_ne_none _
  obtain ⟨f, hf⟩ := Option.ne_none_iff_exists'.mp hf
  simp [State.bundleFault, hf] at h

theorem hasSlots_control {opc : Nat} (h : hasSlots opc = true) : isControl opc = true := by
  simp only [hasSlots, isControl, Bool.and_eq_true, Bool.or_eq_true, decide_eq_true_eq] at h ⊢
  omega

section
variable {s : State} {w : Fin 32} {opc : Nat}

/-- A control instruction opens two delay slots: behind them its target and the turn of the return stack, which stands meanwhile. -/
theorem sequenced_slots (h : Issues s w opc) (hc : hasSlots opc = true) {o : OpOut} :
    (s.sequenced w o).delay = some ⟨2, o.jump, o.turn⟩ ∧ (s.sequenced w o).stack = s.workers[w.val].stack ∧
      (s.workers[w.val].reps = [] → (s.sequenced w o).pc = s.workers[w.val].pc + 1) := by
  have hslots : hasSlots (bitsOf (s.bundle w) 58 6) = true := by rw [h.opcode, hc]
  have hd := legal_noDelay h.legal (hasSlots_control hslots)
  unfold State.sequenced Worker.advance
  rw [hd, hslots]
  exact ⟨rfl, rfl, fun hr => by rw [hr]; rfl⟩

/-- The bundle of a control instruction. -/
theorem runOp_slots (h : Issues s w opc) (hm : s.mem.wf = true) (hc : hasSlots opc = true) {m : OpMeaning} {l : List PendWrite}
    {a : Option (BitVec 15)} {turn : StackTurn} (ho : m (s.ctx w) = { writes := l, jump := a, turn := turn }) :
    Executed s (s.runOp w .ok opc m) w (s.owned w l) ∧ OnlyWorker s (s.runOp w .ok opc m) w ∧
      (s.runOp w .ok opc m).workers[w.val].delay = some ⟨2, a, turn⟩ ∧
      (s.runOp w .ok opc m).workers[w.val].stack = s.workers[w.val].stack ∧
      (s.workers[w.val].reps = [] → (s.runOp w .ok opc m).workers[w.val].pc = s.workers[w.val].pc + 1) := by
  have hr : s.runOp w .ok opc m = s.retire (s.ctx w) { writes := l, jump := a, turn := turn } := by
    rw [runOp_may h.may h.opcode, issue_plain h.clear (by rw [ho]) (by rw [ho]) (by rw [ho]), ho]
  obtain ⟨r, p, q, hk⟩ := retired_worker s w { writes := l, jump := a, turn := turn }
  rw [hr]
  refine ⟨retire_executed hm h.clear.runs _, retire_only hm w _, ?_⟩
  rw [hk]
  exact sequenced_slots h hc

/-! What the operations make of their conditions and targets. -/

theorem branchTo_stays (h : leavesBody s.workers[w.val] s.workers[w.val].opView.inh a = false) :
    branchTo (s.ctx w) a = { jump := some a } :=
  if_neg (by rw [show (s.ctx w).worker = s.workers[w.val] from rfl]; exact Bool.not_eq_true _ ▸ h)

/-- The condition of a branch, as the address stage sees it. -/
def State.taken (s : State) (w : Fin 32) : Bool :=
  condMet (bitsOf (s.bundle w) 55 3) s.workers[w.val].addrView.flags s.workers[w.val].addrView.mf s.workers[w.val].addrView.lkf

theorem ctx_taken (s : State) (w : Fin 32) : (s.ctx w).taken = s.taken w := rfl

/-- A data register that a field names, as the address stage sees it. -/
theorem ctx_da (s : State) (w : Fin 32) (lo : Nat) : (s.ctx w).da lo = s.workers[w.val].addrView.data (bitsOf (s.bundle w) lo 4) := by
  have h : bitsOf (s.bundle w) lo 4 < 16 := bitsOf_lt _ _ 4
  show (at? s.workers[w.val].addrView.d (bitsOf (s.bundle w) lo 4)).getD 0 = _
  rw [at?_lt _ h]
  simp only [Regs.data, Nat.mod_eq_of_lt h]
  rfl

theorem opBra_untaken (h : s.taken w = false) : opBra (s.ctx w) = {} := by simp [opBra, ctx_taken, h]
theorem opCall_untaken (h : s.taken w = false) : opCall (s.ctx w) = {} := by simp [opCall, ctx_taken, h]
theorem opJmpr_untaken (h : s.taken w = false) : opJmpr (s.ctx w) = {} := by simp [opJmpr, ctx_taken, h]
theorem opRet_untaken (h : s.taken w = false) : opRet (s.ctx w) = {} := by
  unfold opRet
  split <;> simp [ctx_taken, h]

theorem opBra_taken (h : s.taken w = true)
    (hl : leavesBody s.workers[w.val] s.workers[w.val].opView.inh (BitVec.ofNat 15 (bitsOf (s.bundle w) 40 15)) = false) :
    opBra (s.ctx w) = { jump := some (BitVec.ofNat 15 (bitsOf (s.bundle w) 40 15)) } := by
  rw [opBra, ctx_taken, if_pos h]
  exact branchTo_stays hl

theorem opCall_taken (h : s.taken w = true) (hs : s.workers[w.val].stack.length < 16) :
    opCall (s.ctx w) = { jump := some (BitVec.ofNat 15 (bitsOf (s.bundle w) 40 15)), turn := .push } := by
  have hd : ¬ 16 ≤ (s.ctx w).worker.stack.length := Nat.not_le.mpr hs
  simp only [opCall, ctx_taken, h, hd, Bool.not_true, Bool.false_eq_true, if_false]
  rfl

theorem opRet_taken (h : s.taken w = true) {a : BitVec 15} {rest : List (BitVec 15)} (hs : s.workers[w.val].stack = a :: rest)
    (hl : leavesBody s.workers[w.val] s.workers[w.val].opView.inh a = false) :
    opRet (s.ctx w) = { jump := some a, turn := .pop } := by
  have hs : (s.ctx w).worker.stack = a :: rest := hs
  simp only [opRet, hs, ctx_taken, h, Bool.not_true, Bool.false_eq_true, if_false, branchTo_stays hl]

theorem opJmpr_taken (h : s.taken w = true)
    (hl : leavesBody s.workers[w.val] s.workers[w.val].opView.inh
      ((s.workers[w.val].addrView.data (bitsOf (s.bundle w) 51 4)).setWidth 15) = false) :
    opJmpr (s.ctx w) = { jump := some ((s.workers[w.val].addrView.data (bitsOf (s.bundle w) 51 4)).setWidth 15) } := by
  rw [opJmpr, ctx_taken, if_pos h, ctx_da, BitVec.ofNat_toNat]
  exact branchTo_stays hl

/-- What `rti` writes. -/
def State.rtiWrites (s : State) (w : Fin 32) : List PendWrite := [⟨72, BitVec.ofNat 72 (s.workers[w.val].opView.ist.toNat % 256), 0, 2⟩]

theorem opRti_eq (hl : leavesBody s.workers[w.val] s.workers[w.val].opView.inh (s.workers[w.val].addrView.ipc.setWidth 15) = false) :
    opRti (s.ctx w) = { writes := s.rtiWrites w, jump := some (s.workers[w.val].addrView.ipc.setWidth 15) } := by
  rw [opRti, show (s.ctx w).addr.ipc = s.workers[w.val].addrView.ipc from rfl, BitVec.ofNat_toNat, branchTo_stays hl]
  rfl

/-- `rti` takes the flags and `IE` from `IST` and clears `INH`. -/
theorem apply_rti (r : Regs) (ist : Word) : r.apply 72 (BitVec.ofNat 72 (ist.toNat % 256)) =
    { r with flags := ist.setWidth 4, ie := ist.getLsbD 7, inh := false } := by
  have he : landsEarly 72 = false := rfl
  have hn : (BitVec.ofNat 72 (ist.toNat % 256)).toNat = ist.toNat % 256 := by rw [BitVec.toNat_ofNat]; omega
  have hf : BitVec.ofNat 4 (ist.toNat % 256) = ist.setWidth 4 := by
    apply BitVec.eq_of_toNat_eq
    simp only [BitVec.toNat_ofNat, BitVec.toNat_setWidth]
    omega
  have hi : (ist.toNat % 256).testBit 7 = ist.getLsbD 7 := by
    rw [show 256 = 2 ^ 8 from rfl, Nat.testBit_mod_two_pow]
    rfl
  simp only [Regs.apply, he, Bool.false_eq_true, if_false, Regs.applyData, ofFn_acc r 72 _ (.inr (by omega)), hn, hf, hi]
  simp

theorem owned_rti (s : State) (w : Fin 32) (r : Regs) : s.owned w (s.rtiWrites w) r = if 44 ∈ moveDests (s.bundle w) then r else
    { r with flags := s.workers[w.val].opView.ist.setWidth 4, ie := s.workers[w.val].opView.ist.getLsbD 7, inh := false } := by
  rw [State.rtiWrites, owned_status s w (by omega), apply_rti]

end

/-- Settles O6: what each operation makes of its condition, and the two delay slots that every control instruction opens. -/
theorem branchesAndReturns : Obligations.BranchesAndReturns := by
  intro s w hm b k taken stays goes target reg ipc
  have opens {opc : Nat} (h : Issues s w opc) (hc : hasSlots opc = true) {m : OpMeaning} {a : Option (BitVec 15)} {turn : StackTurn}
      (ho : m (s.ctx w) = { jump := a, turn := turn }) : goes a turn id (s.runOp w .ok opc m) := runOp_slots h hm hc ho
  refine ⟨fun h ht hl => ⟨_, rfl, opens h rfl (opBra_taken ht hl)⟩, fun h ht => ⟨_, rfl, opens h rfl (opBra_untaken ht)⟩,
    fun h ht hs => ⟨_, rfl, opens h rfl (opCall_taken ht hs)⟩, fun h ht => ⟨_, rfl, opens h rfl (opCall_untaken ht)⟩,
    fun h ht a rest hs hl => ⟨_, rfl, opens h rfl (opRet_taken ht hs hl)⟩, fun h ht => ⟨_, rfl, opens h rfl (opRet_untaken ht)⟩,
    fun h ht hl => ⟨_, rfl, opens h rfl (opJmpr_taken ht hl)⟩, fun h ht => ⟨_, rfl, opens h rfl (opJmpr_untaken ht)⟩,
    fun h hl => ⟨_, rfl, ?_⟩⟩
  have hr := runOp_slots h hm rfl (opRti_eq hl)
  rw [funext (owned_rti s w)] at hr
  exact hr

end Sys2Proof.Machine
end

section
/-! SUPPORT. Block repeats and delay slots (spec/03_worker_cores.md, R73, R74). -/

namespace Sys2Proof.Machine

/-! What follows a bundle in the levels of block repeat (R74). -/

/-- The bundle at an address is the last of a level's body, as code at a depth and `INH`. -/
def RepLevel.endsAt (l : RepLevel) (pc : BitVec 15) (depth : Nat) (inh : Bool) : Prop := l.last = pc ∧ l.depth = depth ∧ l.inh = inh

section
variable {pc : BitVec 15} {depth : Nat} {inh ended inner : Bool} {l : RepLevel} {rest : List RepLevel}

theorem endsAt_own : (decide (l.last = pc) && l.own depth inh) = true ↔ l.endsAt pc depth inh := by
  simp [RepLevel.own, RepLevel.endsAt]

/-- A level whose last bundle this is, with iterations left, loops back. -/
theorem repNext_loops (h : l.endsAt pc depth inh) (hc : 1 < l.count) : ∃ e, repNext pc depth inh ended inner (l :: rest) =
    (l.first, { l with count := l.count - 1 } :: rest, e) := by
  rw [repNext, if_pos (endsAt_own.mpr h)]
  dsimp only
  rw [if_pos hc]
  exact ⟨_, rfl⟩

/-- In its final iteration it ends. -/
theorem repNext_ends (h : l.endsAt pc depth inh) (hc : l.count = 1) : ∃ e, repNext pc depth inh ended inner (l :: rest) =
    repNext pc depth inh e inner rest := by
  rw [repNext, if_pos (endsAt_own.mpr h)]
  dsimp only
  rw [if_neg (by omega)]
  exact ⟨_, rfl⟩

/-- A level whose last bundle this is not stays. -/
theorem repNext_stays (h : ¬ l.endsAt pc depth inh) : repNext pc depth inh ended inner (l :: rest) =
    ((repNext pc depth inh ended false rest).1, l :: (repNext pc depth inh ended false rest).2.1,
      (repNext pc depth inh ended false rest).2.2) := by
  rw [repNext, if_neg (mt endsAt_own.mp h)]

/-- The last bundle of no level is followed by the one behind it. -/
theorem repNext_passes {reps : List RepLevel} (h : ∀ l ∈ reps, ¬ l.endsAt pc depth inh) :
    ∃ e, repNext pc depth inh ended inner reps = (pc + 1, reps, e) := by
  induction reps generalizing inner with
  | nil => exact ⟨_, rfl⟩
  | cons l rest ih =>
    obtain ⟨e, he⟩ := ih (inner := false) fun m hm => h m (List.mem_cons_of_mem _ hm)
    exact ⟨e, by rw [repNext_stays (h l List.mem_cons_self), he]⟩

end

/-! The sequencing of a bundle that opens no delay slots. -/

/-- The levels of a Worker behind its next bundle, with the bundle that they make follow. -/
def Worker.looped (k : Worker) : BitVec 15 × List RepLevel × Bool := repNext k.pc k.stack.length k.opView.inh false true k.reps

section
variable {s : State} {w : Fin 32} {opc : Nat} {o : OpOut}

/-- Outside delay slots the repeats decide, and where they name the bundle behind it, the operation. -/
theorem sequenced_outside (hs : hasSlots (bitsOf (s.bundle w) 58 6) = false) (hd : s.workers[w.val].delay = none) :
    (s.sequenced w o).pc = (if s.workers[w.val].looped.1 = s.workers[w.val].pc + 1
      then o.next.getD s.workers[w.val].looped.1 else s.workers[w.val].looped.1) ∧
    (s.sequenced w o).reps = s.workers[w.val].looped.2.1 := by
  unfold State.sequenced Worker.advance
  rw [hd, hs]
  exact ⟨rfl, rfl⟩

/-- In the second delay slot the target follows, and the return stack turns. -/
theorem sequenced_lastSlot {a : Option (BitVec 15)} {turn : StackTurn} (hd : s.workers[w.val].delay = some ⟨1, a, turn⟩) :
    (s.sequenced w o).pc = a.getD s.workers[w.val].looped.1 ∧ (s.sequenced w o).delay = none ∧
      (s.sequenced w o).stack = turn.apply s.workers[w.val].looped.1 s.workers[w.val].stack := by
  unfold State.sequenced Worker.advance
  rw [hd]
  exact ⟨rfl, rfl, rfl⟩

/-- In the first delay slot the second follows. -/
theorem sequenced_firstSlot {a : Option (BitVec 15)} {turn : StackTurn} (hd : s.workers[w.val].delay = some ⟨2, a, turn⟩) :
    (s.sequenced w o).pc = s.workers[w.val].looped.1 ∧ (s.sequenced w o).delay = some ⟨1, a, turn⟩ ∧
      (s.sequenced w o).stack = s.workers[w.val].stack := by
  unfold State.sequenced Worker.advance
  rw [hd]
  exact ⟨rfl, rfl, rfl⟩

theorem looped_nil {k : Worker} (h : k.reps = []) : k.looped.1 = k.pc + 1 := by
  rw [Worker.looped, h, repNext_nil]

/-! `nop`. -/

theorem exec_nop (h : Issues s w 0x00) : exec (.nop w .ok) s = .next (s.retire (s.ctx w) {}) := by
  have hi : s.issue w .ok opNop = s.retire (s.ctx w) {} := issue_plain h.clear rfl rfl rfl
  show execNop w .ok s = _
  simp only [execNop, h.may, h.opcode, decide_true, Bool.true_or, Bool.and_true, if_true, hi]

/-- A `nop` is sequenced and nothing else. -/
theorem nop_sequenced (h : Issues s w 0x00) : ∃ t, exec (.nop w .ok) s = .next t ∧
    t.workers[w.val].pc = (s.sequenced w {}).pc ∧ t.workers[w.val].reps = (s.sequenced w {}).reps ∧
    t.workers[w.val].delay = (s.sequenced w {}).delay ∧ t.workers[w.val].stack = (s.sequenced w {}).stack := by
  obtain ⟨r, p, l, hk⟩ := retired_worker s w {}
  exact ⟨_, exec_nop h, by rw [hk]; exact ⟨rfl, rfl, rfl, rfl⟩⟩

/-- A `nop` outside delay slots is followed by the bundle that the repeats name. -/
theorem nop_loops (h : Issues s w 0x00) (hd : s.workers[w.val].delay = none) {a : BitVec 15} {reps : List RepLevel} {e : Bool}
    (hl : s.workers[w.val].looped = (a, reps, e)) : ∃ t, exec (.nop w .ok) s = .next t ∧
      t.workers[w.val].pc = a ∧ t.workers[w.val].reps = reps := by
  obtain ⟨t, hx, hp, hr, -⟩ := nop_sequenced h
  obtain ⟨hp', hr'⟩ := sequenced_outside (o := {}) (by rw [h.opcode]; rfl) hd
  refine ⟨t, hx, ?_, ?_⟩
  · rw [hp, hp', hl, Option.getD_none, ite_self]
  · rw [hr, hr', hl]

/-! `rep`. -/

/-- The last bundle of the body that `rep` opens. -/
def State.repLast (s : State) (w : Fin 32) : Nat := s.workers[w.val].pc.toNat + bitsOf (s.bundle w) 40 13 + 1

/-- The iterations that `rep` asks for. -/
def State.repCount (s : State) (w : Fin 32) : Nat := (s.workers[w.val].addrView.data (bitsOf (s.bundle w) 54 4)).toNat

/-- The level that `rep` opens. -/
def State.repLevel (s : State) (w : Fin 32) : RepLevel :=
  { first := s.workers[w.val].pc + 1, last := BitVec.ofNat 15 (s.repLast w), count := s.repCount w, ib := bitsOf (s.bundle w) 53 1 = 1
    depth := s.workers[w.val].stack.length, inh := s.workers[w.val].opView.inh }

/-- What `rep` does: with a count it opens its level, without one it skips the body. -/
theorem opRep_opens (hl : s.workers[w.val].reps.length < 4) (hb : s.repLast w ≤ 0x7FFF) : opRep (s.ctx w) =
    if s.repCount w = 0 then { next := some (BitVec.ofNat 15 (s.repLast w + 1)) }
    else { next := some (s.workers[w.val].pc + 1), post := fun t => t.modWorker w fun k => { k with reps := s.repLevel w :: k.reps } } := by
  have h4 : ¬ 4 ≤ (s.ctx w).worker.reps.length := Nat.not_le.mpr hl
  have h7 : ¬ 0x7FFF < (s.ctx w).worker.pc.toNat + (s.ctx w).f 40 13 + 1 := Nat.not_lt.mpr hb
  simp only [opRep, h4, h7, if_false, ctx_da]
  rfl

variable (h : Issues s w 0x25) (hm : s.mem.wf = true) (hl : s.workers[w.val].reps.length < 4) (hb : s.repLast w ≤ 0x7FFF)
include h hm hl hb

/-- A `rep`, by what the levels around it make of the bundle that holds it. -/
theorem rep_sequenced {a : BitVec 15} {reps : List RepLevel} {e : Bool} (hk : s.workers[w.val].looped = (a, reps, e)) :
    ∃ t, exec (.rep w .ok) s = .next t ∧ Executed s t w id ∧ OnlyWorker s t w ∧
      t.workers[w.val].pc = (if a = s.workers[w.val].pc + 1 then
        (if s.repCount w = 0 then BitVec.ofNat 15 (s.repLast w + 1) else s.workers[w.val].pc + 1) else a) ∧
      t.workers[w.val].reps = if s.repCount w = 0 then reps else s.repLevel w :: reps := by
  have ho := opRep_opens hl hb
  have hs : hasSlots (bitsOf (s.bundle w) 58 6) = false := by rw [h.opcode]; rfl
  have hd := legal_noDelay h.legal (by rw [h.opcode]; rfl)
  have he (o : OpOut) := retire_executed hm h.clear.runs o
  have hr (o : OpOut) := retired_worker s w o
  have hq (o : OpOut) := sequenced_outside (o := o) hs hd
  simp only [hk] at hq
  refine ⟨s.issue w .ok opRep, congrArg Host.Outcome.next (runOp_may h.may h.opcode _ _), ?_⟩
  by_cases hn : s.repCount w = 0
  · rw [if_pos hn] at ho
    rw [issue_plain h.clear (by rw [ho]) (by rw [ho]) (by rw [ho]), ho]
    obtain ⟨r, p, l, hw⟩ := hr { next := some (BitVec.ofNat 15 (s.repLast w + 1)) }
    refine ⟨he _, retire_only hm w _, ?_⟩
    simp only [hw, hq, hn, if_true, Option.getD_some, and_self]
  · rw [if_neg hn] at ho
    rw [issue_clear h.clear (by rw [ho]) (by rw [ho]) (by rw [ho]; simpa using retire_noStep h.clear _), ho]
    obtain ⟨r, p, l, hw⟩ := hr { next := some (s.workers[w.val].pc + 1), post := fun t => t.modWorker w fun k =>
      { k with reps := s.repLevel w :: k.reps } }
    refine ⟨(he _).modWorker fun k => ⟨rfl, rfl⟩, (retire_only hm w _).modWorker _, ?_⟩
    simp only [modWorker_get, hw, hq, hn, if_false, Option.getD_some, and_self]

end

/-- Settles O7: what the levels of block repeat make of a bundle, with `rep` or `nop` in it, and what the delay slots do. -/
theorem repeatsAndDelaySlots : Obligations.RepeatsAndDelaySlots := by
  intro s w hm b k n last ends level
  have passes (h : ∀ l ∈ k.reps, ¬ ends l) : ∃ e, k.looped = (k.pc + 1, k.reps, e) := repNext_passes h
  have loops {l rest} (hk : k.reps = l :: rest) (h : ends l) (hc : 1 < l.count) :
      ∃ e, k.looped = (l.first, { l with count := l.count - 1 } :: rest, e) := by
    rw [Worker.looped, hk]
    exact repNext_loops h hc
  refine ⟨fun h hl hb hn hr => ?_, fun h hl hb hn hr => ?_, fun h hl hb l rest hk he hc hf => ?_,
    fun h hd l rest hk hp hs hi hc => ?_, fun h hd m l rest hk hm he hc => ?_, fun h hd l hk hp hs hi hc => ?_,
    fun h a turn hd => ?_, fun h a turn hd hr => ?_⟩
  · obtain ⟨e, hk⟩ := passes hr
    obtain ⟨t, hx, he, ho, hp, hr⟩ := rep_sequenced h hm hl hb hk
    have hn : ¬ s.repCount w = 0 := hn
    exact ⟨t, hx, he, ho, by rw [hp, if_pos rfl, if_neg hn], by rw [hr, if_neg hn]; rfl⟩
  · obtain ⟨e, hk⟩ := passes hr
    obtain ⟨t, hx, he, ho, hp, hr⟩ := rep_sequenced h hm hl hb hk
    have hn : s.repCount w = 0 := hn
    exact ⟨t, hx, he, ho, by rw [hp, if_pos rfl, if_pos hn]; rfl, by rw [hr, if_pos hn]⟩
  · obtain ⟨e, hk⟩ := loops hk he hc
    obtain ⟨t, hx, he, -, hp, hr⟩ := rep_sequenced h hm hl hb hk
    exact ⟨t, hx, he, by rw [hp, if_neg hf], hr⟩
  · obtain ⟨e, hk⟩ := loops hk ⟨hp, hs, hi⟩ hc
    exact nop_loops h hd hk
  · obtain ⟨e, he⟩ := repNext_loops (ended := false) (inner := false) (rest := rest) he hc
    refine nop_loops h hd (e := e) ?_
    rw [Worker.looped, hk, repNext_stays hm, he]
  · obtain ⟨e, he⟩ := repNext_ends (ended := false) (inner := true) (rest := []) (l := l) ⟨hp, hs, hi⟩ hc
    refine nop_loops h hd (e := e) ?_
    rw [Worker.looped, hk, he, repNext_nil]
  · obtain ⟨t, hx, hp, -, hdl, hs⟩ := nop_sequenced h
    obtain ⟨hp', hd', hs'⟩ := sequenced_lastSlot (o := {}) hd
    exact ⟨t, hx, by rw [hp, hp', Option.getD_some], by rw [hdl, hd'], fun hr => by rw [hs, hs', looped_nil hr]⟩
  · obtain ⟨t, hx, hp, -, hdl, hs⟩ := nop_sequenced h
    obtain ⟨hp', hd', hs'⟩ := sequenced_firstSlot (o := {}) hd
    exact ⟨t, hx, by rw [hp, hp', looped_nil hr], by rw [hdl, hd'], by rw [hs, hs']⟩

end Sys2Proof.Machine
end

section
/-! SUPPORT. Vector words pushed (spec/03_worker_cores.md, R64 to R66, R72, R80 to R83). -/

namespace Sys2Proof.Machine

/-! A push (R80 to R83). -/

/-- The entry that a push of a Worker makes. -/
def State.pushedEntry (s : State) (w : Fin 32) (g : Fin 16) (word : BitVec 256) (ts : Fin 32) (plays : Nat) (isMatch : Bool) : Entry :=
  { word := word, set := ts, plays := plays, match_ := if isMatch then some s.groups[g.val].run.matchNo else none
    mark := s.workers[w.val].mark, ready := s.readyAt }

/-- A bundle has executed and pushed an entry: it stands last in the FIFO with the mark used up, a match word has its number, the window
is this one, and nothing else has changed. -/
def PushedTo (s : State) (w : Fin 32) (g : Fin 16) (e : Entry) (x : Window) (t : State) : Prop :=
  Executed s t w id ∧ Sequential s t w ∧ t.groups[g.val].run.fifo = s.groups[g.val].run.fifo ++ [e] ∧
    t.groups[g.val].run.matchNo = (if e.match_.isSome then s.groups[g.val].run.matchNo + 1 else s.groups[g.val].run.matchNo) ∧
    (∀ h : Fin 16, h ≠ g → t.groups[h.val] = s.groups[h.val]) ∧ t.workers[w.val].mark = none ∧
    t.workers[w.val].window = x ∧ (∀ v : Fin 32, v ≠ w → t.workers[v.val] = s.workers[v.val]) ∧
    t = { s with workers := t.workers, mem := t.mem, groups := t.groups }

section
variable {s u : State} {w : Fin 32} {g : Fin 16} (word : BitVec 256) (ts : Fin 32) (plays : Nat) (isMatch : Bool)

/-- The push behind a bundle that has executed. -/
theorem pushEntry_pushes (he : Executed s u w id) (hs : Sequential s u w) (ho : OnlyWorker s u w)
    (hk : u.workers[w.val].mark = s.workers[w.val].mark) :
    PushedTo s w g (s.pushedEntry w g word ts plays isMatch) u.workers[w.val].window (u.pushEntry w g word ts plays isMatch) := by
  have hg : u.groups = s.groups := by rw [ho.rest]
  have hr : u.readyAt = s.readyAt := by rw [ho.rest]; rfl
  refine ⟨?_, hs.then_ ?_, ?_, ?_, fun h hh => ?_, ?_, ?_, fun v hv => ?_, ?_⟩
  · exact (he.modWorker (f := fun k => { k with mark := none }) fun k => ⟨rfl, rfl⟩).then_ ⟨rfl, rfl⟩ rfl
  · simp [State.pushEntry]
  · simp [State.pushEntry, State.pushedEntry, hg, hr, hk]
  · cases isMatch <;> simp [State.pushEntry, State.pushedEntry, hg]
  · simp [State.pushEntry, hg, upd_get_other _ _ _ _ (Ne.symm hh)]
  · simp [State.pushEntry]
  · simp [State.pushEntry]
  · simpa [State.pushEntry, upd_get_other _ _ _ _ (Ne.symm hv)] using ho.others v hv
  · rw [ho.rest]
    rfl

/-- The nodes that enter the cache change no byte. -/
theorem State.walkNodes_memory (s : State) (n : Fin 4) (i : Nat) : ∃ m, s.walkNodes n i = { s with mem := m } ∧ m.byte = s.mem.byte := by
  have hb := (s.walkNodes_reads n i).bytes
  unfold State.walkNodes at hb ⊢
  generalize s.mem.walk s.windowHolds n i = m at hb ⊢
  exact ⟨m, rfl, funext hb⟩

theorem prefetch_memory (s : State) (a : Nat) : ∃ m, s.prefetch a = { s with mem := m } ∧ m.byte = s.mem.byte := by
  unfold State.prefetch
  generalize s.mem.locate a = at_
  obtain ⟨n, loc⟩ := at_
  dsimp only
  split
  · exact s.walkNodes_memory n _
  · exact ⟨s.mem, rfl, rfl⟩

/-- The reader takes a word: the window moves on, and no byte of memory changes. -/
theorem takeWindowWord_memory (s : State) (w : Fin 32) : ∃ m, s.takeWindowWord w =
    { s.modWorker w fun k => { k with window := k.window.take } with mem := m } ∧ m.byte = s.mem.byte := by
  unfold State.takeWindowWord
  dsimp only
  split
  · exact prefetch_memory _ _
  · exact ⟨s.mem, rfl, rfl⟩

/-- A push of the next window word. -/
theorem takeWindowWord_pushes (he : Executed s u w id) (hs : Sequential s u w) (ho : OnlyWorker s u w)
    (hk : u.workers[w.val].mark = s.workers[w.val].mark) :
    PushedTo s w g (s.pushedEntry w g word ts plays isMatch) u.workers[w.val].window.take
      ((u.takeWindowWord w).pushEntry w g word ts plays isMatch) := by
  obtain ⟨m, hu, hm⟩ := takeWindowWord_memory u w
  have hf (k : Worker) : ({ k with window := k.window.take } : Worker).settled = k.settled ∧
      ({ k with window := k.window.take } : Worker).st = k.st :=
    ⟨rfl, rfl⟩
  have hone := ho.modWorker fun k => { k with window := k.window.take }
  have hwin : (u.takeWindowWord w).workers[w.val] = { u.workers[w.val] with window := u.workers[w.val].window.take } := by
    rw [hu]
    exact modWorker_get _ _ _
  have hp := pushEntry_pushes (s := s) (u := u.takeWindowWord w) (g := g) word ts plays isMatch
    (by rw [hu]; exact (he.modWorker hf).then_ ⟨rfl, rfl⟩ hm) (hs.then_ (by rw [hwin]))
    (by rw [hu]; exact ⟨by rw [hone.rest], hone.others⟩) (by rw [hwin, hk])
  rwa [hwin] at hp

end

/-! Bundles that push, and bundles that stall (R66, R72). -/

section
variable {s : State} {w : Fin 32} {g : Fin 16} {m : OpMeaning} {word : BitVec 256} {ts : Fin 32} {plays : Nat} {isMatch : Bool}

theorem retire_window (s : State) (w : Fin 32) (o : OpOut) : (s.retire (s.ctx w) o).workers[w.val].window = s.workers[w.val].window ∧
    (s.retire (s.ctx w) o).workers[w.val].mark = s.workers[w.val].mark := by
  obtain ⟨r, p, l, b, e, hk⟩ := retired_rest s w o
  rw [hk]
  exact ⟨rfl, rfl⟩

theorem pushEntry_noStep {u : State} (h : u.workers[w.val].dbg.stepLeft = none) :
    (u.pushEntry w g word ts plays isMatch).workers[w.val].dbg.stepLeft = none := by
  simpa [State.pushEntry] using h

theorem issue_pushes (h : Clear s w) (hm : s.mem.wf = true)
    (ho : m (s.ctx w) = { post := fun t => t.pushEntry w g word ts plays isMatch }) :
    PushedTo s w g (s.pushedEntry w g word ts plays isMatch) s.workers[w.val].window (s.issue w .ok m) := by
  rw [issue_clear h (by rw [ho]) (by rw [ho]) (by rw [ho]; exact pushEntry_noStep (retire_noStep h _)), ho]
  obtain ⟨hw, hk⟩ := retire_window s w { post := fun t => t.pushEntry w g word ts plays isMatch }
  rw [← hw]
  exact pushEntry_pushes _ _ _ _ (retire_executed hm h.runs _) (retire_sequential s w rfl) (retire_only hm w _) hk

/-- A push that stalled no longer does. -/
theorem issue_pushes_stall (h : Clear s w) (ho : m (s.ctx w) = { post := fun t => t.pushEntry w g word ts plays isMatch }) :
    (s.issue w .ok m).workers[w.val].stall = none := by
  rw [issue_clear h (by rw [ho]) (by rw [ho]) (by rw [ho]; exact pushEntry_noStep (retire_noStep h _)), ho]
  obtain ⟨r, p, l, b, e, hk⟩ := retired_rest s w { post := fun t => t.pushEntry w g word ts plays isMatch }
  have hs : (s.retire (s.ctx w) { post := fun t => t.pushEntry w g word ts plays isMatch }).workers[w.val].stall = none := by rw [hk]
  simpa [State.pushEntry] using hs

theorem issue_takes (h : Clear s w) (hm : s.mem.wf = true)
    (ho : m (s.ctx w) = { post := fun t => (t.takeWindowWord w).pushEntry w g word ts plays isMatch }) :
    PushedTo s w g (s.pushedEntry w g word ts plays isMatch) s.workers[w.val].window.take (s.issue w .ok m) := by
  have hstep (u : State) (hu : u.workers[w.val].dbg.stepLeft = none) : (u.takeWindowWord w).workers[w.val].dbg.stepLeft = none := by
    obtain ⟨m, he, -⟩ := takeWindowWord_memory u w
    rw [he]
    simpa using hu
  rw [issue_clear h (by rw [ho]) (by rw [ho]) (by rw [ho]; exact pushEntry_noStep (hstep _ (retire_noStep h _))), ho]
  obtain ⟨hw, hk⟩ := retire_window s w { post := fun t => (t.takeWindowWord w).pushEntry w g word ts plays isMatch }
  rw [← hw]
  exact takeWindowWord_pushes _ _ _ _ (retire_executed hm h.runs _) (retire_sequential s w rfl) (retire_only hm w _) hk

/-- The timing set that a vector instruction names. -/
def State.vecSet (s : State) (w : Fin 32) : Fin 32 := Fin.ofNat 32 (bitsOf (s.bundle w) 53 5)

/-- The word that a source other than the window gives: the quads, or d0 to d7. -/
def State.sourceWord (s : State) (w : Fin 32) (source : Nat) : BitVec 256 :=
  if source = 0 then (s.ctx w).quads else BitVec.ofNat 256 (wordsNum ((List.range 8).map s.workers[w.val].opView.data))

theorem registers_word (r : Regs) : ((List.range 8).map fun i => (at? r.d i).getD 0) = (List.range 8).map r.data := by
  refine List.map_congr_left fun i hi => ?_
  have hi : i < 16 := Nat.lt_trans (List.mem_range.mp hi) (by decide)
  rw [at?_lt _ hi]
  simp only [Regs.data, Nat.mod_eq_of_lt hi]
  rfl

section
variable (hg : workerGroup w = some g) {source : Nat}
include hg

theorem pushOut_word (hs : source ≠ 1) (hroom : s.groups[g.val].run.fifo.length < 64) : pushOut (s.ctx w) source plays isMatch =
    { post := fun t => t.pushEntry w g (s.sourceWord w source) (s.vecSet w) plays isMatch } := by
  have hg : workerGroup (s.ctx w).w = some g := hg
  have hf : ¬ 64 ≤ (s.ctx w).s.groups[g.val].run.fifo.length := Nat.not_le.mpr hroom
  simp only [pushOut, hg, hs, hf, if_false, decide_false, Bool.false_eq_true, registers_word]
  rfl

theorem pushOut_window (hf : s.workers[w.val].window.fault = none) (hw : s.workers[w.val].window.waits = false)
    (hroom : s.groups[g.val].run.fifo.length < 64) : pushOut (s.ctx w) 1 plays isMatch =
      { post := fun t => (t.takeWindowWord w).pushEntry w g (s.windowWord w) (s.vecSet w) plays isMatch } := by
  have hg : workerGroup (s.ctx w).w = some g := hg
  have hf : (s.ctx w).worker.window.fault = none := hf
  have hw : (s.ctx w).worker.window.waits = false := hw
  have hr : ¬ 64 ≤ (s.ctx w).s.groups[g.val].run.fifo.length := Nat.not_le.mpr hroom
  simp only [pushOut, hg, hf, hw, hr, if_true, if_false, decide_false, Bool.false_eq_true]
  rfl

/-- A push whose word is at hand stalls on a full FIFO. -/
theorem pushOut_full (hs : source ≠ 1 ∨ s.workers[w.val].window.fault = none ∧ s.workers[w.val].window.waits = false)
    (hroom : ¬ s.groups[g.val].run.fifo.length < 64) : pushOut (s.ctx w) source plays isMatch = { stall := some .fifo } := by
  have hg : workerGroup (s.ctx w).w = some g := hg
  have hr : 64 ≤ (s.ctx w).s.groups[g.val].run.fifo.length := Nat.not_lt.mp hroom
  by_cases h1 : source = 1
  · obtain ⟨hf, hw⟩ := hs.resolve_left (not_not_intro h1)
    have hf : (s.ctx w).worker.window.fault = none := hf
    have hw : (s.ctx w).worker.window.waits = false := hw
    simp only [pushOut, hg, h1, hf, hw, hr, if_true, decide_true, Bool.false_eq_true, if_false]
  · simp only [pushOut, hg, h1, hr, if_false, decide_true, if_true]

/-- A push of a window word that is not there yet stalls on the window. -/
theorem pushOut_waits (hf : s.workers[w.val].window.fault = none) (hw : s.workers[w.val].window.waits = true) :
    pushOut (s.ctx w) 1 plays isMatch = { stall := some .window } := by
  have hg : workerGroup (s.ctx w).w = some g := hg
  have hf : (s.ctx w).worker.window.fault = none := hf
  have hw : (s.ctx w).worker.window.waits = true := hw
  simp only [pushOut, hg, hf, hw, if_true]

end

theorem opVec_eq (s : State) (w : Fin 32) :
    opVec (s.ctx w) = pushOut (s.ctx w) (bitsOf (s.bundle w) 41 2) (1 + bitsOf (s.bundle w) 43 10) false := rfl

theorem opVecr_eq (s : State) (w : Fin 32) : opVecr (s.ctx w) = pushOut (s.ctx w) 2 (1 + bitsOf (s.bundle w) 43 10) false := rfl

theorem opVmatch_eq (s : State) (w : Fin 32) :
    opVmatch (s.ctx w) = pushOut (s.ctx w) (bitsOf (s.bundle w) 41 2) (max 1 (s.operand w 49).toNat) true := by
  rw [← ctx_d]
  rfl

end

/-- The mark that `vmark` leaves (R83). -/
def State.marked (s : State) (w : Fin 32) (k : Worker) : Worker := { k with mark := some (BitVec.ofNat 8 (bitsOf (s.bundle w) 50 8)) }

/-- An operation whose effect is a change of its own Worker (`vmark`, `wdr`). -/
theorem issue_changes {s : State} {w : Fin 32} (h : Clear s w) (hm : s.mem.wf = true) {m : OpMeaning} {f : Worker → Worker}
    (ho : m (s.ctx w) = { post := fun t => t.modWorker w f }) (hf : ∀ k, (f k).pc = k.pc ∧ (f k).dbg = k.dbg) :
    ∃ t, s.issue w .ok m = t.modWorker w f ∧ Executed s t w id ∧ Sequential s (t.modWorker w f) w ∧ OnlyWorker s (t.modWorker w f) w := by
  have hstep := retire_noStep h (m (s.ctx w))
  rw [ho] at hstep
  refine ⟨s.retire (s.ctx w) { post := fun t => t.modWorker w f }, ?_, retire_executed hm h.runs _, ?_, (retire_only hm w _).modWorker _⟩
  · rw [issue_clear h (by rw [ho]) (by rw [ho]) (by rw [ho, modWorker_get, (hf _).2]; exact hstep), ho]
  · exact Sequential.then_ (retire_sequential s w rfl) (by rw [modWorker_get, (hf _).1])

theorem vmark_issues {s : State} {w : Fin 32} (h : Clear s w) (hm : s.mem.wf = true) :
    Executed s (s.issue w .ok opVmark) w id ∧ Sequential s (s.issue w .ok opVmark) w ∧ OnlyWorker s (s.issue w .ok opVmark) w ∧
      (s.issue w .ok opVmark).workers[w.val].mark = some (BitVec.ofNat 8 (bitsOf (s.bundle w) 50 8)) := by
  have ho : opVmark (s.ctx w) = { post := fun t => t.modWorker w (s.marked w) } := rfl
  obtain ⟨t, ht, he, hs, hw⟩ := issue_changes h hm ho fun k => ⟨rfl, rfl⟩
  rw [ht]
  exact ⟨he.modWorker fun k => ⟨rfl, rfl⟩, hs, hw, by rw [modWorker_get]; rfl⟩

/-- Settles O8: a push by its source, its room and its window; and what a push leaves behind its bundle. -/
theorem vectorPushes : Obligations.VectorPushes := by
  intro s w g hm hg b k r room ts plain timed regs ready pushed
  have runs {opc : Nat} (h : Issues s w opc) (m : OpMeaning) : s.runOp w .ok opc m = s.issue w .ok m := runOp_may h.may h.opcode _ _
  have stalls {opc : Nat} {m : OpMeaning} {x : Stall} (h : Issues s w opc) (ho : m (s.ctx w) = { stall := some x }) :
      s.runOp w .ok opc m = s.modWorker w fun k => k.stalledOn x := by
    rw [runs h]
    exact issue_stalls h.clear (by rw [ho]) (by rw [ho])
  have quads {plays : Nat} {isMatch : Bool} {opc : Nat} {m : OpMeaning} (h : Issues s w opc) (hroom : room) (hb : bitsOf b 41 2 = 0)
      (ho : m (s.ctx w) = pushOut (s.ctx w) (bitsOf b 41 2) plays isMatch) :
      PushedTo s w g (s.pushedEntry w g (s.ctx w).quads ts plays isMatch) k.window (s.runOp w .ok opc m) := by
    rw [runs h]
    rw [hb, pushOut_word hg (by decide) hroom] at ho
    exact issue_pushes h.clear hm ho
  have window {plays : Nat} {isMatch : Bool} {opc : Nat} {m : OpMeaning} (h : Issues s w opc) (hroom : room) (hb : bitsOf b 41 2 = 1)
      (hr : ready) (ho : m (s.ctx w) = pushOut (s.ctx w) (bitsOf b 41 2) plays isMatch) :
      PushedTo s w g (s.pushedEntry w g (s.windowWord w) ts plays isMatch) k.window.take (s.runOp w .ok opc m) := by
    rw [runs h]
    rw [hb, pushOut_window hg hr.1 hr.2 hroom] at ho
    exact issue_takes h.clear hm ho
  have full {opc : Nat} {m : OpMeaning} {source plays : Nat} {isMatch : Bool} (h : Issues s w opc) (hf : ¬ room)
      (hs : source ≠ 1 ∨ ready) (ho : m (s.ctx w) = pushOut (s.ctx w) source plays isMatch) :
      s.runOp w .ok opc m = s.modWorker w fun k => { k with stall := some .fifo } := by
    rw [pushOut_full hg hs hf] at ho
    exact stalls h ho
  have atHand (h : bitsOf b 41 2 = 0 ∨ ready) : bitsOf b 41 2 ≠ 1 ∨ ready := h.imp_left fun h => by omega
  refine ⟨fun h hroom hb => ⟨_, rfl, quads h hroom hb (opVec_eq s w)⟩, fun h hroom hb hr => ⟨_, rfl, window h hroom hb hr (opVec_eq s w)⟩,
    fun h hroom => ⟨_, rfl, ?_⟩, fun h hroom hb => ⟨_, rfl, quads h hroom hb (opVmatch_eq s w)⟩,
    fun h hroom hb hr => ⟨_, rfl, window h hroom hb hr (opVmatch_eq s w)⟩, fun h => ⟨_, rfl, ?_⟩,
    fun hf => ⟨fun h => congrArg _ (full h hf (.inl (by decide)) (opVecr_eq s w)), fun h hs => congrArg _ (full h hf (atHand hs) (opVec_eq s w)),
      fun h hs => congrArg _ (full h hf (atHand hs) (opVmatch_eq s w))⟩, fun hb hf hfull hdrain => ?_⟩
  · rw [runs h]
    exact issue_pushes h.clear hm ((opVecr_eq s w).trans (pushOut_word hg (by decide) hroom))
  · rw [runs h]
    exact vmark_issues h.clear hm
  · intro held
    have hw : k.window.waits = true := by simp [Window.waits, hfull, hdrain]
    have hold {opc : Nat} {m : OpMeaning} {plays : Nat} {isMatch : Bool} (h : Issues s w opc)
        (ho : m (s.ctx w) = pushOut (s.ctx w) (bitsOf b 41 2) plays isMatch) : s.runOp w .ok opc m = held := by
      rw [hb, pushOut_waits hg hf hw] at ho
      exact stalls h ho
    exact ⟨fun h => congrArg _ (hold h (opVec_eq s w)), fun h => congrArg _ (hold h (opVmatch_eq s w))⟩

end Sys2Proof.Machine
end

section
/-! SUPPORT. Workers that leave the running states (spec/03_worker_cores.md, R86, R89 to R91; spec/16_debug.md, R431 to R437): their
writes done, their semaphores released, their event raised, and the commands that waited for them answered. -/

namespace Sys2Proof.Machine

/-! Answers leave the semaphores (R86). -/

@[simp] theorem State.freeBuffer_queen (s : State) (p : TxPacket) : (s.freeBuffer p).queen = s.queen := by
  unfold State.freeBuffer
  split <;> rfl

@[simp] theorem State.emitLink_queen (s : State) (l : Fin 16) (o : Output) : (s.emitLink l o).queen = s.queen := rfl

@[simp] theorem State.sendOne_queen (s : State) (l : Fin 16) : (s.sendOne l).queen = s.queen := by
  unfold State.sendOne
  dsimp only
  split
  · rfl
  · split
    · rfl
    · split
      · rfl
      · simp

@[simp] theorem State.queuePacket_queen (s : State) (l : Fin 16) (p : TxPacket) : (s.queuePacket l p).queen = s.queen :=
  iter_keeps State.queen (fun s => s.sendOne_queen l) _ _

@[simp] theorem State.sendInnerReply_queen (s : State) (o : Byte) (l : Fin 16) (way : Option (BitVec 64)) (ws : Words) :
    (s.sendInnerReply o l way ws).queen = s.queen := by
  unfold State.sendInnerReply
  split
  · exact foldl_keeps State.queen (fun s _ => s.queuePacket_queen _ _) _ _
  · unfold State.sendRouted
    split
    · rfl
    · split
      · rfl
      · refine foldl_keeps State.queen (fun s f => ?_) _ _
        split <;> simp

/-- The owners of the semaphores. -/
def State.sems (s : State) : Vector (Option (Fin 33)) 256 := s.queen.sems

theorem State.pushReply_sems (s : State) (k : JobKey) (holds : Bool) (ws : Words) (after : After) :
    (s.pushReply k holds ws after).sems = s.sems := by
  unfold State.pushReply
  dsimp only
  split <;> simp [State.sems]

theorem State.commitRaw_sems (s : State) (j : Job) (st : Status) (idx : Nat) (mask : BitVec 64) (body : Words) :
    (s.commitRaw j st idx mask body).sems = s.sems := by
  unfold State.commitRaw
  dsimp only
  refine (foldl_keeps State.sems (fun s a => ?_) _ _).trans ?_ <;> split
  · rfl
  · exact State.pushReply_sems _ _ _ _ _
  · rfl
  · exact State.pushReply_sems _ _ _ _ _

theorem State.commitDone_sems (s : State) (j : Job) (r : Words) : (s.commitDone j r).sems = s.sems := s.commitRaw_sems _ _ _ _ _

theorem State.haltSettled_sems (s : State) (w : Fin 32) (halted : Bool) : (s.haltSettled w halted).sems = s.sems := by
  unfold State.haltSettled
  refine (foldl_keeps State.sems (fun s h => ?_) _ _).trans rfl
  split
  · exact s.commitDone_sems _ _
  · rfl

theorem State.stopSettled_sems (s : State) (w : Fin 32) : (s.stopSettled w).sems = s.sems := by
  unfold State.stopSettled
  refine (foldl_keeps State.sems (fun s h => ?_) _ _).trans rfl
  split
  · exact s.commitDone_sems _ _
  · rfl

/-! Requests settled (16, R434, R437). -/

/-- A Worker whose step is over. -/
def Worker.unstepped (k : Worker) : Worker := { k with dbg := { k.dbg with stepJob := none, stepLeft := none } }

/-- Answers went out, and the semaphores are as they were. -/
def Settles (s t : State) : Prop := Answers s t ∧ t.sems = s.sems

theorem Settles.trans {s t u : State} (h : Settles s t) (k : Settles t u) : Settles s u := ⟨h.1.trans k.1, k.2.trans h.2⟩

theorem State.haltSettled_settles (s : State) (w : Fin 32) (halted : Bool) : Settles s (s.haltSettled w halted) :=
  ⟨s.haltSettled_answers w halted, s.haltSettled_sems w halted⟩

theorem State.stopSettled_settles (s : State) (w : Fin 32) : Settles s (s.stopSettled w) := ⟨s.stopSettled_answers w, s.stopSettled_sems w⟩

theorem State.endStep_settles (s : State) (w : Fin 32) : Settles (s.modWorker w Worker.unstepped) (s.endStep w) := by
  unfold State.endStep
  dsimp only
  split
  · exact ⟨.refl _, rfl⟩
  · exact ⟨State.commitDone_answers _ _ _, State.commitDone_sems _ _ _⟩

theorem State.settled_settles (s : State) (w : Fin 32) : Settles (s.modWorker w Worker.unstepped) (s.settled w) :=
  ((s.endStep_settles w).trans (State.haltSettled_settles _ w false)).trans (State.stopSettled_settles _ w)

section
variable {s t : State} (h : Settles s t)
include h

theorem Settles.workers : t.workers = s.workers := h.1.workers

theorem Settles.groups : t.groups = s.groups := by rw [show t = _ from h.1]

theorem Settles.ev : t.ev = s.ev := by rw [show t = _ from h.1]

end

/-! Writes done (R89, R91). -/

/-- A Worker whose writes and stores are done. -/
def Worker.drained (k : Worker) : Worker := { k with stores := [], pend := [], regs := k.settled }

theorem State.drain_eq (s : State) (w : Fin 32) : ∃ m, s.drain w = { s with mem := m }.modWorker w Worker.drained := by
  have stores (l : List PendStore) : ∀ s : State, ∃ m,
      l.foldl (fun s p => { s with mem := s.mem.putWord p.addr p.val }) s = { s with mem := m } := by
    induction l with
    | nil => exact fun s => ⟨s.mem, rfl⟩
    | cons p l ih => exact fun s => ih { s with mem := s.mem.putWord p.addr p.val }
  obtain ⟨m, hm⟩ := stores s.workers[w.val].stores s
  exact ⟨m, by unfold State.drain; dsimp only; rw [hm]; rfl⟩

/-! Semaphores released (R86). -/

/-- One semaphore freed, with its event. -/
def State.freeSem (w : Fin 32) (i : Fin 256) (s : State) : State :=
  ({ s with queen := { s.queen with sems := upd s.queen.sems i fun _ => none } }).raise 41 2 w.val (detail [(1, 1, i.val)])

theorem State.releaseSems_eq (s : State) (w : Fin 32) : s.releaseSems w = forAll (s.semsOf w) (State.freeSem w) s := rfl

theorem releases_rest (w : Fin 32) (l : List (Fin 256)) (s : State) : ∃ q e, forAll l (State.freeSem w) s = { s with queen := q, ev := e } := by
  induction l generalizing s with
  | nil => exact ⟨s.queen, s.ev, rfl⟩
  | cons i l ih =>
    obtain ⟨q, e, h⟩ := ih (State.freeSem w i s)
    exact ⟨q, e, h.trans (by rw [State.freeSem, State.raise_rest])⟩

theorem State.releaseSems_rest (s : State) (w : Fin 32) : ∃ q e, s.releaseSems w = { s with queen := q, ev := e } := releases_rest w _ s

theorem releases_sems (w : Fin 32) (l : List (Fin 256)) (s : State) (i : Fin 256) :
    (forAll l (State.freeSem w) s).sems[i.val] = if i ∈ l then none else s.sems[i.val] := by
  induction l generalizing s with
  | nil => rfl
  | cons j l ih =>
    refine (ih _).trans ?_
    simp only [State.sems, State.freeSem, State.raise_queen, List.mem_cons]
    by_cases hj : i = j
    · subst hj; simp
    · simp [hj, upd_get_other _ _ _ _ (Ne.symm hj)]

theorem State.mem_semsOf (s : State) (w : Fin 32) (i : Fin 256) : i ∈ s.semsOf w ↔ s.queen.sems[i.val] = some (semOwner w) := by
  simp [State.semsOf, allFin, semOwner]

/-- What a Worker owned is free, and the semaphores of others stay. -/
theorem State.releaseSems_sems (s : State) (w : Fin 32) (i : Fin 256) :
    (s.releaseSems w).queen.sems[i.val] = if s.queen.sems[i.val] = some (semOwner w) then none else s.queen.sems[i.val] := by
  refine (releases_sems w (s.semsOf w) s i).trans ?_
  simp only [s.mem_semsOf w i]
  rfl

theorem State.releaseSems_free (s : State) (w : Fin 32) (i : Fin 256) : (s.releaseSems w).queen.sems[i.val] ≠ some (semOwner w) := by
  rw [s.releaseSems_sems w i]
  split
  · exact nofun
  · assumption

/-! Events that stay active (18, R459). -/

/-- An event of the table is active. -/
def State.activeEv (s : State) (e : Fin 256) : Prop := s.ev.src[e.val].active = true

theorem State.raise_stays {s : State} {f : Fin 256} (h : s.activeEv f) (e : Fin 256) (sev unit det : Nat) : (s.raise e sev unit det).activeEv f := by
  unfold State.activeEv
  rw [State.raise_src]
  by_cases he : e = f
  · subst he; simp
  · rw [upd_get_other _ _ _ _ he]
    exact h

theorem State.freeSem_stays {s : State} {f : Fin 256} (h : s.activeEv f) (w : Fin 32) (i : Fin 256) : (State.freeSem w i s).activeEv f := by
  refine State.raise_stays ?_ _ _ _ _
  exact h

theorem State.releaseSems_stays {s : State} {f : Fin 256} (h : s.activeEv f) (w : Fin 32) : (s.releaseSems w).activeEv f := by
  rw [State.releaseSems_eq]
  exact forAll_holds (P := (State.activeEv · f)) (fun i _ hs => State.freeSem_stays hs w i) _ h

/-- A Worker that owned a semaphore raises `E041` for it. -/
theorem State.releaseSems_raises {s : State} {w : Fin 32} (h : s.semsOf w ≠ []) : (s.releaseSems w).activeEv 41 := by
  obtain ⟨i, l, hl⟩ := List.exists_cons_of_ne_nil h
  rw [State.releaseSems_eq, hl]
  exact forAll_holds (P := (State.activeEv · 41)) (fun i _ hs => State.freeSem_stays hs w i) l (State.raise_active _ 41 2 w.val _)

/-! A Worker that leaves RUNNING and HALTED (R89, R90). -/

/-- The event of a Worker (18, R464). -/
def workerEv (w : Fin 32) : Fin 256 := dieEvent (workerDie w) ⟨w.val % 8, by omega⟩

/-- What follows when a Worker has left: semaphores, event, waiting entries, requests. -/
def State.departs (s : State) (w : Fin 32) (sev reason code : Nat) (pc : BitVec 15) : State :=
  (((s.releaseSems w).workerEvent w sev reason code pc).dropWaiting w).settled w

section
variable (s : State) (w : Fin 32)

theorem State.dropWaiting_rest : ∃ g, s.dropWaiting w = { s with groups := g } := by
  unfold State.dropWaiting
  split
  · exact ⟨s.groups, rfl⟩
  · exact ⟨_, rfl⟩

variable (sev reason code : Nat) (pc : BitVec 15)

theorem State.departs_workers : (s.departs w sev reason code pc).workers = upd s.workers w Worker.unstepped := by
  obtain ⟨g, hg⟩ := ((s.releaseSems w).workerEvent w sev reason code pc).dropWaiting_rest w
  obtain ⟨q, e, hs⟩ := s.releaseSems_rest w
  unfold State.departs
  rw [(State.settled_settles _ w).workers, hg, State.workerEvent, State.raiseDie, hs]
  simp [State.modWorker]

theorem State.departs_sems (i : Fin 256) : (s.departs w sev reason code pc).queen.sems[i.val] ≠ some (semOwner w) := by
  obtain ⟨g, hg⟩ := ((s.releaseSems w).workerEvent w sev reason code pc).dropWaiting_rest w
  have hq : (s.departs w sev reason code pc).sems = (s.releaseSems w).sems := by
    unfold State.departs
    rw [(State.settled_settles _ w).2, hg, State.workerEvent, State.raiseDie]
    simp [State.sems]
  exact fun h => s.releaseSems_free w i ((congrArg (·[i.val]) hq).symm.trans h)

theorem State.departs_ev : (s.departs w sev reason code pc).ev = ((s.releaseSems w).workerEvent w sev reason code pc).ev := by
  obtain ⟨g, hg⟩ := ((s.releaseSems w).workerEvent w sev reason code pc).dropWaiting_rest w
  unfold State.departs
  rw [(State.settled_settles _ w).ev, hg]
  rfl

theorem State.departs_event : (s.departs w sev reason code pc).activeEv (workerEv w) := by
  unfold State.activeEv
  rw [s.departs_ev w sev reason code pc]
  exact State.raise_active _ _ _ _ _

theorem State.departs_stays {s : State} {f : Fin 256} (h : s.activeEv f) : (s.departs w sev reason code pc).activeEv f := by
  unfold State.activeEv
  rw [s.departs_ev w sev reason code pc]
  exact State.raise_stays (State.releaseSems_stays h w) _ _ _ _

end

end Sys2Proof.Machine
end

section
/-! SUPPORT. Waits, ends and stalled bundles (spec/03_worker_cores.md, R72, R84, R88, R90). -/

namespace Sys2Proof.Machine

section
variable {s : State} {w : Fin 32}

theorem retire_stall (s : State) (w : Fin 32) (o : OpOut) : (s.retire (s.ctx w) o).workers[w.val].stall = none := by
  obtain ⟨r, p, l, b, e, hk⟩ := retired_rest s w o
  rw [hk]

theorem OnlyWorker.ofMod (s : State) (w : Fin 32) (f : Worker → Worker) : OnlyWorker s (s.modWorker w f) w :=
  ⟨rfl, fun _ hv => modWorker_get_ne _ _ _ _ (Ne.symm hv)⟩

/-! `vwait` (R84). -/

theorem opVwait_met (h : s.vwaitMet w (bitsOf (s.bundle w) 54 4) (bitsOf (s.bundle w) 40 14) = true) : opVwait (s.ctx w) = {} := if_pos h

theorem opVwait_unmet (h : s.vwaitMet w (bitsOf (s.bundle w) 54 4) (bitsOf (s.bundle w) 40 14) = false) : opVwait (s.ctx w) =
    { stall := some (.vwait (BitVec.ofNat 4 (bitsOf (s.bundle w) 54 4)) (BitVec.ofNat 14 (bitsOf (s.bundle w) 40 14))) } :=
  if_neg (Bool.eq_false_iff.mp h)

/-- An operation without an effect of its own: its bundle retires. -/
theorem issue_idle (h : Clear s w) (hm : s.mem.wf = true) {m : OpMeaning} (ho : m (s.ctx w) = {}) :
    Retired s (s.issue w .ok m) w id ∧ (s.issue w .ok m).workers[w.val].stall = none := by
  have hr := issue_retired h hm (m := m) (by rw [ho]) (by rw [ho]) (by rw [ho]) (by rw [ho])
  rw [ho] at hr
  refine ⟨hr, ?_⟩
  rw [issue_plain h (by rw [ho]) (by rw [ho]) (by rw [ho])]
  exact retire_stall s w _

theorem issue_holds (h : Clear s w) {m : OpMeaning} {x : Stall} (ho : m (s.ctx w) = { stall := some x }) :
    s.issue w .ok m = s.modWorker w fun k => k.stalledOn x := issue_stalls h (by rw [ho]) (by rw [ho])

/-! `end` (R90). -/

/-- A Worker behind its `end`. -/
def State.ending (s : State) (w : Fin 32) (k : Worker) : Worker :=
  { k with ended := true, endPc := s.workers[w.val].pc, pc := s.workers[w.val].pc }

theorem opEnd_alone (hl : s.workers[w.val].dying = none) (hg : workerGroup w = none) : opEnd (s.ctx w) =
    { post := fun t => (t.modWorker w (s.ending w)).endWorker w } := by
  have hl : (s.ctx w).worker.dying = none := hl
  have hg : workerGroup (s.ctx w).w = none := hg
  simp only [opEnd, hl, hg, Option.isSome_none, Bool.false_eq_true, if_false]
  rfl

/-- What is left to do where a group runs at the `end`. -/
theorem opEnd_grouped {g : Fin 16} (hl : s.workers[w.val].dying = none) (hg : workerGroup w = some g) : opEnd (s.ctx w) =
    { post := fun t => if t.groups[g.val].st = .armed || t.groups[g.val].st = .playing || t.groups[g.val].st = .underrun ||
        t.groups[g.val].st = .halted then t.modWorker w (s.ending w) else (t.modWorker w (s.ending w)).endWorker w } := by
  have hl : (s.ctx w).worker.dying = none := hl
  have hg : workerGroup (s.ctx w).w = some g := hg
  simp only [opEnd, hl, hg, Option.isSome_none, Bool.false_eq_true, if_false]
  rfl

theorem endWorker_eq (s : State) (w : Fin 32) : s.endWorker w =
    ((s.drain w).modWorker w fun k => k.leave .ended 1 s.workers[w.val].endPc).departs w 0 0 0 s.workers[w.val].endPc := rfl

/-- The Worker that has ended, and the others. -/
theorem endWorker_workers (s : State) (w : Fin 32) : (s.endWorker w).workers =
    upd s.workers w fun k => (k.drained.leave .ended 1 s.workers[w.val].endPc).unstepped := by
  obtain ⟨m, hm⟩ := s.drain_eq w
  rw [endWorker_eq, State.departs_workers, hm]
  simp only [State.modWorker, upd_upd]
  rfl

theorem endWorker_event (s : State) (w : Fin 32) : (s.endWorker w).activeEv (workerEv w) := State.departs_event _ _ _ _ _ _

/-- `end` of a Worker without a port group. -/
theorem end_alone (h : Clear s w) (hm : s.mem.wf = true) (hg : workerGroup w = none) :
    (s.issue w .ok opEnd).workers[w.val].st = .ended ∧ (s.issue w .ok opEnd).workers[w.val].endPc = s.workers[w.val].pc ∧
      (s.issue w .ok opEnd).activeEv (workerEv w) ∧
      ∀ v : Fin 32, v ≠ w → (s.issue w .ok opEnd).workers[v.val] = s.workers[v.val] := by
  have ho := opEnd_alone h.lives hg
  have hw (t : State) : ((t.modWorker w (s.ending w)).endWorker w).workers = _ := endWorker_workers _ w
  rw [issue_clear h (by rw [ho]) (by rw [ho]) (by rw [ho, hw, upd_get_same]; rfl), ho]
  dsimp only
  refine ⟨by rw [hw, upd_get_same]; rfl, ?_, endWorker_event _ w, fun v hv => ?_⟩
  · rw [hw, upd_get_same, modWorker_get]
    rfl
  · rw [hw, upd_get_other _ _ _ _ (Ne.symm hv), modWorker_get_ne _ _ _ _ (Ne.symm hv)]
    exact (retire_only hm w _).others v hv

/-- `end` of a Worker whose group plays on. -/
theorem end_grouped {g : Fin 16} (h : Clear s w) (hm : s.mem.wf = true) (hg : workerGroup w = some g) (hp : s.groups[g.val].st = .playing) :
    ∃ t, s.issue w .ok opEnd = t.modWorker w (s.ending w) ∧ Executed s t w id ∧ OnlyWorker s t w := by
  have ho := opEnd_grouped h.lives hg
  have hr (o : OpOut) : (s.retire (s.ctx w) o).groups[g.val].st = .playing := by rw [(retire_only hm w o).rest]; exact hp
  have hstep := retire_noStep h (opEnd (s.ctx w))
  refine ⟨s.retire (s.ctx w) (opEnd (s.ctx w)), ?_, ?_, retire_only hm w _⟩
  · have hpost : (opEnd (s.ctx w)).post (s.retire (s.ctx w) (opEnd (s.ctx w))) =
        (s.retire (s.ctx w) (opEnd (s.ctx w))).modWorker w (s.ending w) := by
      rw [congrArg OpOut.post ho]
      simp [hr]
    rw [issue_clear h (by rw [ho]) (by rw [ho]) (by rw [hpost, modWorker_get]; exact hstep), hpost]
  · rw [ho]
    exact retire_executed hm h.runs _

/-! Stalled bundles (R72). -/

theorem stallRelease_issues {opc : Nat} {x : Stall} (h : Reissues s w opc) (hk : s.workers[w.val].stall = some x) (hx : x ≠ .drained) :
    exec (.stallRelease w) s = .next (s.issue w .ok (stalledMeaning opc)) := by
  have hb : bitsOf (s.bundleAt w s.workers[w.val].pc) 58 6 = opc := h.opcode
  have he : exec (.stallRelease w) s = execStallRelease w s := rfl
  rw [he]
  simp only [execStallRelease, h.runs, h.alive, h.first, hk, hb, bne_self_eq_false, Bool.not_true, Bool.or_self, Bool.false_eq_true, if_false]

/-! Semaphores taken and freed (R86). -/

/-- A semaphore with its owner. -/
def State.ownSem (i : Fin 256) (o : Option (Fin 33)) (t : State) : State :=
  { t with queen := { t.queen with sems := upd t.queen.sems i fun _ => o } }

theorem issue_owns (h : Clear s w) (hm : s.mem.wf = true) {m : OpMeaning} {i : Fin 256} {o : Option (Fin 33)}
    (ho : m (s.ctx w) = { post := State.ownSem i o }) : Executed s (s.issue w .ok m) w id ∧ Sequential s (s.issue w .ok m) w ∧
      (s.issue w .ok m).workers[w.val].stall = none ∧ (s.issue w .ok m).queen.sems = upd s.queen.sems i fun _ => o := by
  rw [issue_clear h (by rw [ho]) (by rw [ho]) (by rw [ho]; exact retire_noStep h _), ho]
  refine ⟨Executed.then_ (retire_executed hm h.runs { post := State.ownSem i o }) ⟨rfl, rfl⟩ rfl,
    Sequential.then_ (retire_sequential s w rfl) rfl, retire_stall s w _, ?_⟩
  dsimp only [State.ownSem]
  rw [(retire_only hm w _).rest]

theorem opLck_free (h : s.queen.sems[(Fin.ofNat 256 (bitsOf (s.bundle w) 50 8)).val] = none) : opLck (s.ctx w) =
    { post := State.ownSem (Fin.ofNat 256 (bitsOf (s.bundle w) 50 8)) (some (semOwner w)) } := by
  have h : (s.ctx w).s.queen.sems[(s.ctx w).sem.val] = none := h
  simp only [opLck, h]
  rfl

end

/-- Settles O9: what `vwait`, `wdr` and `end` do, and stalled bundles that issue again. -/
theorem waitsEndsAndStalls : Obligations.WaitsEndsAndStalls := by
  refine ⟨?_, ?_⟩
  · intro s w hm b k met
    have runs {opc : Nat} (h : Issues s w opc) (m : OpMeaning) : s.runOp w .ok opc m = s.issue w .ok m := runOp_may h.may h.opcode _ _
    refine ⟨fun h hc => ⟨_, rfl, ?_⟩, fun h hc => ?_, fun h => ⟨_, rfl, ?_⟩, fun h hg => ⟨_, rfl, ?_⟩,
      fun h g hg hp => ⟨_, rfl, ?_⟩⟩
    · rw [runs h]
      exact (issue_idle h.clear hm (opVwait_met hc)).1
    · exact congrArg Host.Outcome.next ((runs h opVwait).trans (issue_holds h.clear (opVwait_unmet hc)))
    · have ho : opWdr (s.ctx w) = { post := fun t => t.modWorker w fun k =>
          { k with regs := { k.regs with wdog := s.workers[w.val].opView.wdogRld } } } := rfl
      obtain ⟨t, ht, -, hs, hw⟩ := issue_changes h.clear hm ho fun k => ⟨rfl, rfl⟩
      rw [runs h, ht]
      exact ⟨hw, hs, by rw [modWorker_get]⟩
    · rw [runs h]
      exact end_alone h.clear hm hg
    · obtain ⟨t, ht, he, hw⟩ := end_grouped h.clear hm hg hp
      rw [runs h, ht]
      exact ⟨hw.modWorker _, by rw [modWorker_get]; exact he.runs, by rw [modWorker_get]; rfl, by rw [modWorker_get]; rfl⟩
  · intro s w hm k b i met
    refine ⟨fun g hg h hk hroom => ?_, fun h j hk hfree => ?_, fun h c a hk hc => ?_, fun h c a hk hc => ?_⟩ <;>
      rw [stallRelease_issues h hk nofun]
    · have ho := (opVecr_eq s w).trans (pushOut_word hg (by decide) hroom)
      obtain ⟨he, -, hf, -⟩ := issue_pushes h.clear hm (m := opVecr) ho
      exact ⟨_, _, rfl, he, issue_pushes_stall h.clear ho, hf, rfl, rfl, rfl⟩
    · obtain ⟨he, -, hk, hq⟩ := issue_owns h.clear hm (m := opLck) (opLck_free hfree)
      exact ⟨_, rfl, he, hk, (congrArg (·[i.val]) hq).trans (upd_get_same _ _ _)⟩
    · obtain ⟨hr, hk⟩ := issue_idle h.clear hm (m := opVwait) (opVwait_met hc)
      exact ⟨_, rfl, hr, hk⟩
    · rw [issue_holds (m := stalledMeaning 0x2C) h.clear (opVwait_unmet hc)]
      exact ⟨_, rfl, by rw [modWorker_get]; rfl, by rw [modWorker_get]; rfl, .ofMod s w _⟩

end Sys2Proof.Machine
end

section
/-! SUPPORT. Semaphores, signals, and locks that a halt breaks (spec/03_worker_cores.md, R86, R87; spec/16_debug.md, R433). -/

namespace Sys2Proof.Machine

section
variable {s : State} {w : Fin 32}

/-- The semaphore that a bundle names. -/
def State.semAt (s : State) (w : Fin 32) : Fin 256 := Fin.ofNat 256 (bitsOf (s.bundle w) 50 8)

theorem opLck_own (h : s.queen.sems[(s.semAt w).val] = some (semOwner w)) : opLck (s.ctx w) = { writes := [⟨69, 0, 0, 2⟩] } := by
  have h : (s.ctx w).s.queen.sems[(s.ctx w).sem.val] = some (semOwner (s.ctx w).w) := h
  simp only [opLck, h, if_true]

theorem opLck_other {o : Fin 33} (h : s.queen.sems[(s.semAt w).val] = some o) (ho : o ≠ semOwner w) :
    opLck (s.ctx w) = { stall := some (.lock (s.semAt w)) } := by
  have h : (s.ctx w).s.queen.sems[(s.ctx w).sem.val] = some o := h
  have ho : o ≠ semOwner (s.ctx w).w := ho
  simp only [opLck, h, ho, if_false]
  rfl

theorem opUlk_own (h : s.queen.sems[(s.semAt w).val] = some (semOwner w)) : opUlk (s.ctx w) = { post := State.ownSem (s.semAt w) none } :=
  if_pos h

theorem opUlk_other (h : s.queen.sems[(s.semAt w).val] ≠ some (semOwner w)) : opUlk (s.ctx w) = { writes := [⟨69, 0, 0, 2⟩] } := if_neg h

/-- A `lck` or `ulk` that cannot sets `LKF`, unless a move of its bundle writes `WSTAT`. -/
theorem issue_fails {opc : Nat} (h : Issues s w opc) (hm : s.mem.wf = true) {m : OpMeaning}
    (ho : m (s.ctx w) = { writes := [⟨69, 0, 0, 2⟩] }) :
    Retired s (s.runOp w .ok opc m) w fun r => if 44 ∈ moveDests (s.bundle w) then r else { r with lkf := true } :=
  runOp_retired h hm (by rw [ho]) (by rw [ho]) (by rw [ho]) (by rw [ho]) fun r => by
    rw [ho, owned_status s w (by decide), apply_lkf]

/-! Signals (R87). -/

/-- A Worker to which one more signal is on its way. -/
def Worker.sigSent (k : Worker) : Worker := { k with sigIn := k.sigIn + 1 }

/-- A signal sent to a Worker: one of a fenced die never sees it. -/
def State.sendSignal (u : Fin 32) (t : State) : State := if t.net.dies[(workerDie u).val].fenced then t else t.modWorker u Worker.sigSent

theorem sendSignal_worker (t : State) (u w : Fin 32) : (t.sendSignal u).workers[w.val] =
    if u = w ∧ t.net.dies[(workerDie u).val].fenced = false then t.workers[w.val].sigSent else t.workers[w.val] := by
  unfold State.sendSignal
  by_cases hf : t.net.dies[(workerDie u).val].fenced = true
  · simp [hf]
  · by_cases hu : u = w
    · subst hu; simp [hf]
    · simp [hf, hu, upd_get_other _ _ _ _ hu]

theorem sendSignal_mem (t : State) (u : Fin 32) : (t.sendSignal u).mem = t.mem := by
  unfold State.sendSignal
  split <;> rfl

theorem opSig_eq (s : State) (w : Fin 32) : opSig (s.ctx w) = { post := State.sendSignal (Fin.ofNat 32 (bitsOf (s.bundle w) 53 5)) } := rfl

/-- A signal changes nothing that a bundle of its target sees at once. -/
theorem sendSignal_keeps (t : State) (u w : Fin 32) :
    (t.sendSignal u).workers[w.val] = { t.workers[w.val] with sigIn := (t.sendSignal u).workers[w.val].sigIn } := by
  rw [sendSignal_worker]
  split <;> rfl

theorem issue_signals (h : Clear s w) (hm : s.mem.wf = true) {m : OpMeaning} {u : Fin 32} (ho : m (s.ctx w) = { post := State.sendSignal u }) :
    Executed s (s.issue w .ok m) w id ∧ Sequential s (s.issue w .ok m) w ∧ (s.issue w .ok m).workers[u.val].sigIn =
      if s.net.dies[(workerDie u).val].fenced then s.workers[u.val].sigIn else s.workers[u.val].sigIn + 1 := by
  have hone := retire_only hm w { post := State.sendSignal u }
  have hstep : ((s.retire (s.ctx w) { post := State.sendSignal u }).sendSignal u).workers[w.val].dbg.stepLeft = none := by
    rw [sendSignal_keeps]
    exact retire_noStep h _
  rw [issue_clear h (by rw [ho]) (by rw [ho]) (by rw [ho]; exact hstep), ho]
  refine ⟨Executed.then_ (retire_executed hm h.runs { post := State.sendSignal u }) ?_ ?_,
    Sequential.then_ (retire_sequential s w (o := { post := State.sendSignal u }) rfl) ?_, ?_⟩
  · rw [sendSignal_keeps]
    exact ⟨rfl, rfl⟩
  · rw [sendSignal_mem]
  · rw [sendSignal_keeps]
  · have hsig : (s.retire (s.ctx w) { post := State.sendSignal u }).workers[u.val].sigIn = s.workers[u.val].sigIn := by
      by_cases hu : u = w
      · subst hu
        obtain ⟨r, p, l, b, e, hk⟩ := retired_rest s u { post := State.sendSignal u }
        rw [hk]
      · rw [hone.others u hu]
    have hnet : (s.retire (s.ctx w) { post := State.sendSignal u }).net = s.net := by rw [hone.rest]
    rw [sendSignal_worker, hnet]
    by_cases hf : s.net.dies[(workerDie u).val].fenced = true <;> simp [hf, hsig, Worker.sigSent]

/-! The lock that a halt breaks (16, R433). -/

theorem lockDue_iff (s : State) (w : Fin 32) : s.lockDue w = true ↔ s.workers[w.val].st = .running ∧ s.workers[w.val].dbg.haltReq = true ∧
    256 ≤ s.workers[w.val].dbg.lockWait ∧ s.semsOf w ≠ [] := by
  simp [State.lockDue, and_assoc]

theorem exec_lockBroken (s : State) (w : Fin 32) : exec (.lockBroken w) s = .next (if s.lockDue w then
    { s.releaseSems w with dbg := { (s.releaseSems w).dbg with lockBroken := true, lbWorker := BitVec.ofNat 5 w.val } } else s) := rfl

end

/-- Settles O10: `lck`, `ulk` and `sig` by the semaphore's owner and the target's die, and the lock broken at the 256th cycle. -/
theorem semaphoresSignalsAndLocks : Obligations.SemaphoresSignalsAndLocks := by
  refine ⟨?_, fun s w h => ?_, fun s w hr hh ho hl => ?_⟩
  · intro s w hm b i me u fails owned
    have runs {opc : Nat} (h : Issues s w opc) (m : OpMeaning) : s.runOp w .ok opc m = s.issue w .ok m := runOp_may h.may h.opcode _ _
    have owns {opc : Nat} {m : OpMeaning} {o : Option (Fin 33)} (h : Issues s w opc) (ho : m (s.ctx w) = { post := State.ownSem i o }) :
        owned o (s.runOp w .ok opc m) := by
      rw [runs h]
      obtain ⟨he, hs, -, hq⟩ := issue_owns h.clear hm ho
      refine ⟨he, hs, (congrArg (·[i.val]) hq).trans (upd_get_same _ _ _), fun j hj => ?_⟩
      exact (congrArg (·[j.val]) hq).trans (upd_get_other _ _ _ _ (Ne.symm hj))
    refine ⟨fun h hi => ⟨_, rfl, owns h (opLck_free hi)⟩, fun h hi => ⟨_, rfl, issue_fails h hm (opLck_own hi)⟩,
      fun h o hi hne => congrArg Host.Outcome.next ((runs h opLck).trans (issue_holds h.clear (opLck_other hi hne))),
      fun h hi => ⟨_, rfl, owns h (opUlk_own hi)⟩, fun h hi => ⟨_, rfl, issue_fails h hm (opUlk_other hi)⟩, fun h => ⟨_, rfl, ?_⟩⟩
    rw [runs h]
    exact issue_signals h.clear hm (opSig_eq s w)
  · rw [exec_lockBroken, if_neg fun hd => by have := ((lockDue_iff s w).mp hd).2.2.1; omega]
  · rw [exec_lockBroken, if_pos ((lockDue_iff s w).mpr ⟨hr, hh, hl, ho⟩)]
    obtain ⟨q, e, he⟩ := s.releaseSems_rest w
    exact ⟨_, rfl, rfl, rfl, State.releaseSems_raises ho, by rw [he], s.releaseSems_sems w⟩

end Sys2Proof.Machine
end

section
/-! SUPPORT. Workers that fault, stop and halt (spec/03_worker_cores.md, R63, R68, R73, R89, R91; spec/04_timing_and_vectors.md, R122;
spec/16_debug.md, R431, R435). -/

namespace Sys2Proof.Machine

/-! Every row of an operation is its bundle issued with a meaning. -/

theorem row_meaning : ∀ row ∈ workerRows, ∃ m : OpMeaning, ∀ w e s, exec (row.1 w e) s = .next (s.runOp w e row.2 m) := by
  unfold workerRows
  repeat refine List.forall_mem_cons.mpr ⟨⟨_, fun _ _ _ => rfl⟩, ?_⟩
  exact nofun

section
variable {s : State} {w : Fin 32}

theorem runOp_quiet {opc : Nat} (hm : s.mayIssue w = true) (ho : bitsOf (s.bundle w) 58 6 = opc)
    (hq : ∀ c : Fin 8, s.workers[w.val].dbg.comps[c.val].en = false) (e : WEcc) (m : OpMeaning) : s.runOp w e opc m = s.performEcc w e m := by
  rw [runOp_may hm ho, issue_quiet hq]

/-! Faults (R89). -/

/-- The fault of a bundle before its operation is met before the read stage. -/
theorem bundleFault_early {f : Nat} (h : s.bundleFault w = some f) : readFault f = false := by
  have hdec {f : Nat} (h : decodeFault (s.vecLegal w) s.workers[w.val].delay.isSome (s.bundle w) = some f) : f = 1 ∨ f = 2 := by
    unfold decodeFault at h
    dsimp only at h
    split at h
    · exact .inl (Option.some.inj h).symm
    · split at h
      · exact .inr (Option.some.inj h).symm
      · exact nomatch h
  have hslot {m : Slot20} {r : Regs} {b : Bool} {f : Nat} (h : m.fault r b = some f) : f = 6 ∨ f = 8 := by
    unfold Slot20.fault at h
    split at h
    · exact nomatch h
    · split at h
      · exact .inr (Option.some.inj h).symm
      · split at h
        · exact .inl (Option.some.inj h).symm
        · exact nomatch h
  have hf : f = 1 ∨ f = 2 ∨ f = 6 ∨ f = 8 := by
    simp only [State.bundleFault, Option.orElse_eq_orElse, Option.orElse_eq_or, Option.or_eq_some_iff] at h
    rcases h with h | ⟨-, h | ⟨-, h⟩⟩
    · exact (hdec h).imp_right .inl
    · exact .inr (.inr (hslot h))
    · exact .inr (.inr (hslot h))
  rcases hf with rfl | rfl | rfl | rfl <;> rfl

/-- A Worker that faults with a code at a bundle. -/
def Worker.faulted (k : Worker) (code : Nat) (pc : BitVec 15) : Worker :=
  { k.leave .faulted 2 pc with regs := { k.regs with wfault := BitVec.ofNat 8 code } }

theorem workerFault_eq (s : State) (w : Fin 32) (found : Nat) {code : Nat} {pc : BitVec 15}
    (h : s.workers[w.val].dying.getD (found, s.workers[w.val].pc) = (code, pc)) :
    s.workerFault w found = ((s.drain w).modWorker w fun k => k.faulted code pc).departs w 3 1 code pc := by
  unfold State.workerFault
  rw [h]
  rfl

theorem workerFault_worker (s : State) (w : Fin 32) (found : Nat) {code : Nat} {pc : BitVec 15}
    (h : s.workers[w.val].dying.getD (found, s.workers[w.val].pc) = (code, pc)) :
    (s.workerFault w found).workers[w.val] = (s.workers[w.val].drained.faulted code pc).unstepped := by
  obtain ⟨m, hm⟩ := s.drain_eq w
  rw [workerFault_eq s w found h, State.departs_workers, upd_get_same, modWorker_get, hm, modWorker_get]

/-- A Worker that met no fault yet faults with the code found, at its bundle. -/
theorem workerFault_faulted (h : s.workers[w.val].dying = none) (f : Nat) : FaultedWith s (s.workerFault w f) w f := by
  have hd : s.workers[w.val].dying.getD (f, s.workers[w.val].pc) = (f, s.workers[w.val].pc) := by rw [h]; rfl
  have hk := workerFault_worker s w f hd
  rw [workerFault_eq s w f hd] at hk ⊢
  exact ⟨by rw [hk]; rfl, by rw [hk]; rfl, by rw [hk]; rfl, State.departs_sems _ w _ _ _ _, State.departs_event _ _ _ _ _ _⟩

theorem workerFault_stays (h : s.workers[w.val].dying = none) {e : Fin 256} (he : s.activeEv e) (f : Nat) : (s.workerFault w f).activeEv e := by
  rw [workerFault_eq s w f (code := f) (pc := s.workers[w.val].pc) (by rw [h]; rfl)]
  obtain ⟨m, hm⟩ := s.drain_eq w
  refine State.departs_stays _ _ _ _ _ ?_
  rw [hm]
  exact he

/-- A fault in the state that an event has been raised in. -/
theorem FaultedWith.ofRaise {t : State} {e : Fin 256} {sev unit det f : Nat} (h : FaultedWith (s.raise e sev unit det) t w f) :
    FaultedWith s t w f :=
  ⟨h.state, h.code, by rw [h.pc, State.raise_workers], h.sems, h.event⟩

theorem perform_faulted {f : Nat} (hf : s.bundleFault w = some f) (m : OpMeaning) : s.perform w m = s.workerFault w f := by
  rw [State.perform, hf]

theorem pass_worker (s : State) (w : Fin 32) (o : OpOut) (writes : List PendWrite) (stores : List PendStore) :
    (s.pass (s.ctx w) o writes stores).ev = s.ev ∧ (s.pass (s.ctx w) o writes stores).workers[w.val].st = s.workers[w.val].st := by
  refine ⟨rfl, ?_⟩
  unfold State.pass
  dsimp only
  refine (congrArg Worker.st (modWorker_get _ _ _)).trans ?_
  exact advance_st _ _ _ _ _ _

/-- A fault met in the read stage: the Worker runs on for one bundle. -/
theorem readFaulted_dies (h : s.workers[w.val].dying = none) (o : OpOut) (f : Nat) : (s.readFaulted (s.ctx w) o f).ev = s.ev ∧
    (s.readFaulted (s.ctx w) o f).workers[w.val].dying = some (f, s.workers[w.val].pc) ∧
    (s.readFaulted (s.ctx w) o f).workers[w.val].st = s.workers[w.val].st := by
  have hw : (s.ctx w).w = w := rfl
  unfold State.readFaulted
  simp only [hw, h, Option.isSome_none, Bool.false_eq_true, if_false, modWorker_get]
  exact ⟨rfl, trivial, (pass_worker s w o _ _).2⟩

end

end Sys2Proof.Machine
end

section
/-! SUPPORT. Memory errors, opcodes that the table does not list, stops and halts of Workers (spec/03_worker_cores.md, R63, R68, R89,
R91; spec/04_timing_and_vectors.md, R121, R122; spec/16_debug.md, R431, R435). -/

namespace Sys2Proof.Machine

section
variable {s : State} {w : Fin 32}

/-! Memory errors (R63). -/

/-- The event of an uncorrectable error in a memory of a Worker (18, R464). -/
def State.memError (s : State) (w : Fin 32) (mem : Fin 3) (a : BitVec 16) : State :=
  s.raiseDie (workerDie w) 37 3 w.val (detail [(0, 1, mem.val), (2, 2, a.toNat)])

theorem memError_event (s : State) (w : Fin 32) (mem : Fin 3) (a : BitVec 16) : (s.memError w mem a).activeEv (dieEvent (workerDie w) 37) :=
  State.raise_active _ _ _ _ _

theorem memError_workers (s : State) (w : Fin 32) (mem : Fin 3) (a : BitVec 16) : (s.memError w mem a).workers = s.workers :=
  State.raise_workers _ _ _ _ _

/-- An error of program memory. -/
theorem programError_faults (hd : s.workers[w.val].dying = none) (a : BitVec 16) (m : OpMeaning) :
    FaultedWith s (s.performEcc w (.ue 0 a) m) w 0x09 ∧ (s.performEcc w (.ue 0 a) m).activeEv (dieEvent (workerDie w) 37) := by
  have he : s.performEcc w (.ue 0 a) m = (s.memError w 0 a).workerFault w 0x09 := rfl
  have hd : (s.memError w 0 a).workers[w.val].dying = none := by rw [memError_workers]; exact hd
  rw [he]
  exact ⟨(workerFault_faulted hd 0x09).ofRaise, workerFault_stays hd (memError_event s w 0 a) 0x09⟩

/-- An error of X or Y: met in the read stage, unless an earlier stage faults the bundle. -/
theorem dataError_faults (hd : s.workers[w.val].dying = none) (hr : s.workers[w.val].st = .running) {mem : Fin 3} (hm : mem ≠ 0)
    (a : BitVec 16) (m : OpMeaning) : (s.performEcc w (.ue mem a) m).activeEv (dieEvent (workerDie w) 37) ∧
      (((s.performEcc w (.ue mem a) m).workers[w.val].dying = some (0x09, s.workers[w.val].pc) ∧
        (s.performEcc w (.ue mem a) m).workers[w.val].st = .running) ∨
        ∃ f, readFault f = false ∧ FaultedWith s (s.performEcc w (.ue mem a) m) w f) := by
  have he : s.performEcc w (.ue mem a) m = (s.memError w mem a).performBad w m := if_neg hm
  have hw := memError_workers s w mem a
  have hd : (s.memError w mem a).workers[w.val].dying = none := by rw [hw]; exact hd
  have hev := memError_event s w mem a
  rw [he, State.performBad]
  split
  case h_1 f hf =>
    refine ⟨workerFault_stays hd hev f, .inr ⟨f, ?_, (workerFault_faulted hd f).ofRaise⟩⟩
    simp only [Option.orElse_eq_orElse, Option.orElse_eq_or, Option.or_eq_some_iff, Option.filter_eq_some_iff] at hf
    rcases hf with hf | ⟨-, -, hf⟩
    · exact bundleFault_early hf
    · simpa using hf
  case h_2 =>
    obtain ⟨hev', hdy, hst⟩ := readFaulted_dies hd (m ((s.memError w mem a).ctx w)) 0x09
    refine ⟨?_, .inl ⟨?_, ?_⟩⟩
    · rw [State.activeEv, hev']
      exact hev
    · rw [hdy, hw]
    · rw [hst, hw, hr]

/-- A correctable error is counted. -/
def Worker.memCounted (k : Worker) : Worker := { k with memCe := satAdd k.memCe 1 }

/-- The count of correctable errors takes no part in what a Worker issues. -/
theorem memCounted_issues (s : State) (w : Fin 32) : (s.modWorker w Worker.memCounted).mayIssue w = s.mayIssue w ∧
    (s.modWorker w Worker.memCounted).bundle w = s.bundle w := by
  have hk : (s.modWorker w Worker.memCounted).workers[w.val] = s.workers[w.val].memCounted := modWorker_get _ _ _
  refine ⟨?_, ?_⟩
  · simp only [State.mayIssue, State.haltDue, State.intDue, State.lockDue, hk]
    rfl
  · simp only [State.bundle, hk]
    rfl

theorem correctable_counts {opc : Nat} (hm : s.mayIssue w = true) (ho : bitsOf (s.bundle w) 58 6 = opc)
    (hq : ∀ c : Fin 8, s.workers[w.val].dbg.comps[c.val].en = false) (m : OpMeaning) :
    s.runOp w .ce opc m = (s.modWorker w Worker.memCounted).runOp w .ok opc m := by
  obtain ⟨hi, hb⟩ := memCounted_issues s w
  have hk : (s.modWorker w Worker.memCounted).workers[w.val] = s.workers[w.val].memCounted := modWorker_get _ _ _
  rw [runOp_quiet hm ho hq, runOp_quiet (hi.trans hm) ((congrArg (bitsOf · 58 6) hb).trans ho) fun c => by rw [hk]; exact hq c]
  rfl

/-! Opcodes that the table does not list, and reserved bits (R68). -/

/-- The opcodes that the table lists are `nop` and those of the rows. -/
theorem listed_rows : ∀ n < 64, listedOpc n = true → n = 0 ∨ ∃ row ∈ workerRows, n = row.2 := by
  have hrows (n : Nat) : (∃ row ∈ workerRows, n = row.2) ↔ n ∈ workerRows.map (·.2) := by simp [eq_comm]
  simp only [hrows]
  have hl : workerRows.map (·.2) = [0x01, 0x02, 0x03, 0x04, 0x05, 0x06, 0x07, 0x08, 0x09, 0x0A, 0x0B, 0x0C, 0x0D, 0x0E, 0x0F, 0x10,
    0x11, 0x12, 0x18, 0x19, 0x1A, 0x20, 0x21, 0x22, 0x23, 0x24, 0x25, 0x28, 0x29, 0x2A, 0x2B, 0x2C, 0x30, 0x31, 0x32, 0x33] := rfl
  rw [hl]
  decide

/-- A legal operation has a listed opcode. -/
theorem opLegal_listed {vec : Bool} {b : Nat} (h : opLegal vec b = true) : listedOpc (bitsOf b 58 6) = true := by
  by_contra hl
  have hne (k : Nat) (hk : listedOpc k = true) : bitsOf b 58 6 ≠ k := fun he => hl (he ▸ hk)
  have halu : ¬ (0x02 ≤ bitsOf b 58 6 ∧ bitsOf b 58 6 ≤ 0x0E) := fun hr => hl (by simp [listedOpc, show bitsOf b 58 6 ≤ 0x12 by omega])
  simp only [opLegal, halu, hne 0x00 rfl, hne 0x01 rfl, hne 0x0F rfl, hne 0x10 rfl, hne 0x11 rfl, hne 0x12 rfl, hne 0x18 rfl,
    hne 0x19 rfl, hne 0x1A rfl, hne 0x20 rfl, hne 0x21 rfl, hne 0x22 rfl, hne 0x23 rfl, hne 0x24 rfl, hne 0x25 rfl, hne 0x28 rfl,
    hne 0x29 rfl, hne 0x2A rfl, hne 0x2B rfl, hne 0x2C rfl, hne 0x30 rfl, hne 0x31 rfl, hne 0x32 rfl, hne 0x33 rfl, decide_false,
    Bool.or_self, Bool.false_eq_true, if_false] at h

/-- `nop` carries no set bit. -/
theorem opLegal_nop {vec : Bool} {b : Nat} (h : opLegal vec b = true) (ho : bitsOf b 58 6 = 0) : bitsOf b 40 18 = 0 := by
  simpa [opLegal, ho] using h

theorem illegal_faults (h : opLegal (s.vecLegal w) (s.bundle w) = false) : s.bundleFault w = some 0x01 := by
  have hd : decodeFault (s.vecLegal w) s.workers[w.val].delay.isSome (s.bundle w) = some 0x01 := by simp [decodeFault, h]
  simp only [State.bundleFault, hd]
  rfl

theorem exec_nop_issues (hm : s.mayIssue w = true) (ho : bitsOf (s.bundle w) 58 6 = 0 ∨ listedOpc (bitsOf (s.bundle w) 58 6) = false) :
    exec (.nop w .ok) s = .next (s.issue w .ok opNop) := by
  show execNop w .ok s = _
  rcases ho with ho | ho <;> simp [execNop, hm, ho]

/-- The bundle behind a fault met in the read stage is the Worker's last. -/
theorem dying_ends {f : Nat} {a : BitVec 15} (hb : s.bundleFault w = none) (hq : ∀ c : Fin 8, s.workers[w.val].dbg.comps[c.val].en = false)
    (hs : s.workers[w.val].dbg.stepLeft = none) (hd : s.workers[w.val].dying = some (f, a)) :
    s.issue w .ok opNop = (s.retire (s.ctx w) {}).workerFault w 0 ∧ (s.retire (s.ctx w) {}).workers[w.val].dying = some (f, a) := by
  obtain ⟨r, p, l, b, e, hk⟩ := retired_rest s w {}
  refine ⟨?_, by rw [hk]; exact hd⟩
  have hstep : (s.retire (s.ctx w) {}).workers[(s.ctx w).w.val].dbg.stepLeft = none := (congrArg (·.dbg.stepLeft) hk).trans hs
  have hd : s.workers[(s.ctx w).w.val].dying = some (f, a) := hd
  have hhits : s.accessHits (s.ctx w) = [] := by
    have hm : ∀ sp a ac, s.workers[(s.ctx w).w.val].matching sp a ac = [] := matching_quiet hq
    simp [State.accessHits, hm]
  rw [issue_quiet hq, State.performEcc, State.perform, hb]
  simp only [opNop, State.finishBundle, hhits, State.compHit, State.countStep, id, hstep, hd, Option.isSome_some, if_true]
  rfl

end

end Sys2Proof.Machine
end

section
/-! SUPPORT. Stops and halts of Workers (spec/03_worker_cores.md, R91; spec/04_timing_and_vectors.md, R121, R122; spec/16_debug.md, R431,
R435). -/

namespace Sys2Proof.Machine

/-! The group of a Worker that stops or halts. -/

/-- The group of a Worker changed, where it drives one. -/
def State.modOwnGroup (s : State) (w : Fin 32) (f : Group → Group) : State :=
  match workerGroup w with
  | none => s
  | some g => s.modGroup g f

theorem modOwnGroup_groups (s : State) (w : Fin 32) (f : Group → Group) {g : Fin 16} (h : workerGroup w = some g) :
    (s.modOwnGroup w f).groups[g.val] = f s.groups[g.val] := by
  simp [State.modOwnGroup, h]

theorem modOwnGroup_rest (s : State) (w : Fin 32) (f : Group → Group) : ∃ g, s.modOwnGroup w f = { s with groups := g } := by
  unfold State.modOwnGroup
  split
  · exact ⟨s.groups, rfl⟩
  · exact ⟨_, rfl⟩

theorem Settles.modGroup {s t : State} (h : Settles s t) (g : Fin 16) (f : Group → Group) : Settles (s.modGroup g f) (t.modGroup g f) := by
  refine ⟨?_, h.2⟩
  rw [show t = _ from h.1]
  rfl

/-- A stop at play discards what waits and completes the test cycle (R122). -/
theorem stop_playing {x : Group} (h : x.st = .playing) (now : Int) :
    (x.stop now).run.stopping = true ∧ (x.stop now).run.fifo = [] ∧ (x.stop now).run.cur = none := by
  have hu : (x.unhalt now).st = .playing ∨ (x.unhalt now).st = .underrun := by
    unfold Group.unhalt
    split
    · exact .inl h
    · dsimp only
      split
      · exact .inr rfl
      · exact .inl rfl
  unfold Group.stop
  rcases hu with hu | hu <;> simp only [hu] <;> exact ⟨trivial, trivial, trivial⟩

theorem stop_armed {x : Group} (h : x.st = .armed) (hh : x.run.haltAt = none) (now : Int) : (x.stop now).st = .done := by
  have hu : x.unhalt now = x := by
    unfold Group.unhalt
    rw [hh]
  unfold Group.stop
  rw [hu]
  simp only [h]

theorem halt_playing {x : Group} (h : x.st = .playing) (now : Int) : (x.halt now).st = .halted ∧ (x.halt now).run.haltAt = some now := by
  simp [Group.halt, h]

/-! Stops (R91). -/

section
variable (s : State) (w : Fin 32)

/-- A Worker that stops with a reason at a bundle. -/
def Worker.stopped (k : Worker) (reason : Nat) (pc : BitVec 15) : Worker := { k.leave .stopped reason pc with reps := [] }

/-- A stop, but for the answers: the Worker's writes are done, its semaphores released, and its group stops. -/
def State.stopBase (reason : Nat) (now : Int) : State :=
  ((((s.drain w).modWorker w fun k => k.stopped reason s.workers[w.val].pc).releaseSems w).modWorker w Worker.unstepped).modOwnGroup w
    fun x => x.stop now

/-- The end of a stop: the group stops, and unless its test cycle still completes, the stop is answered. -/
def State.stopRest (u : State) : State :=
  match workerGroup w with
  | none => u.stopSettled w
  | some g =>
    let now := u.nowTu
    let t := u.modGroup g fun x => x.stop now
    if t.groups[g.val].completing then t else t.stopSettled w

variable {w} in
theorem stopRest_settles {b u : State} (h : Settles b u) : ∃ now, Settles (b.modOwnGroup w fun x => x.stop now) (State.stopRest w u) := by
  unfold State.stopRest State.modOwnGroup
  cases workerGroup w with
  | none => exact ⟨0, h.trans (u.stopSettled_settles w)⟩
  | some g =>
    refine ⟨u.nowTu, ?_⟩
    have hg := h.modGroup g fun x => x.stop u.nowTu
    dsimp only
    split
    · exact hg
    · exact hg.trans (State.stopSettled_settles _ w)

theorem stopWorker_settles (reason : Nat) : ∃ now, Settles (s.stopBase w reason now) (s.stopWorker w reason) :=
  stopRest_settles ((State.endStep_settles _ w).trans (State.haltSettled_settles _ w false))

theorem stopBase_workers (reason : Nat) (now : Int) : (s.stopBase w reason now).workers =
    upd s.workers w fun k => (k.drained.stopped reason s.workers[w.val].pc).unstepped := by
  unfold State.stopBase
  obtain ⟨m, hm⟩ := s.drain_eq w
  rw [hm]
  obtain ⟨q, e, hr⟩ := ((({ s with mem := m } : State).modWorker w Worker.drained).modWorker w fun k =>
    k.stopped reason s.workers[w.val].pc).releaseSems_rest w
  rw [hr]
  obtain ⟨g, hg⟩ := modOwnGroup_rest (({ (({ s with mem := m } : State).modWorker w Worker.drained).modWorker w fun k =>
    k.stopped reason s.workers[w.val].pc with queen := q, ev := e } : State).modWorker w Worker.unstepped) w fun x => x.stop now
  rw [hg]
  simp only [State.modWorker, upd_upd]
  rfl

theorem stopBase_sems (reason : Nat) (now : Int) (i : Fin 256) : (s.stopBase w reason now).queen.sems[i.val] ≠ some (semOwner w) := by
  unfold State.stopBase
  obtain ⟨g, hg⟩ := modOwnGroup_rest (((((s.drain w).modWorker w fun k => k.stopped reason s.workers[w.val].pc).releaseSems w)).modWorker w
    Worker.unstepped) w fun x => x.stop now
  rw [hg]
  exact State.releaseSems_free _ w i

theorem stopBase_group (reason : Nat) (now : Int) {g : Fin 16} (h : workerGroup w = some g) :
    (s.stopBase w reason now).groups[g.val] = s.groups[g.val].stop now := by
  unfold State.stopBase
  rw [modOwnGroup_groups _ w _ h]
  obtain ⟨q, e, hr⟩ := ((s.drain w).modWorker w fun k => k.stopped reason s.workers[w.val].pc).releaseSems_rest w
  obtain ⟨m, hm⟩ := s.drain_eq w
  rw [hr, hm]
  rfl

/-- A Worker that stops has left with its writes done. -/
theorem stopWorker_leaves (reason : Nat) : LeftWith s (s.stopWorker w reason) w .stopped ∧
    (s.stopWorker w reason).workers[w.val].stop = BitVec.ofNat 4 reason ∧ (s.stopWorker w reason).workers[w.val].reps = [] := by
  obtain ⟨now, hs⟩ := stopWorker_settles s w reason
  have hw : (s.stopWorker w reason).workers = _ := hs.workers.trans (stopBase_workers s w reason now)
  have hk : (s.stopWorker w reason).workers[w.val] = (s.workers[w.val].drained.stopped reason s.workers[w.val].pc).unstepped := by
    rw [hw, upd_get_same]
  refine ⟨⟨by rw [hk]; rfl, by rw [hk]; rfl, ⟨by rw [hk]; rfl, by rw [hk]; rfl, by rw [hk]; rfl⟩, fun i h => ?_, fun v hv => ?_⟩,
    by rw [hk]; rfl, by rw [hk]; rfl⟩
  · exact stopBase_sems s w reason now i ((congrArg (·[i.val]) hs.2).symm.trans h)
  · rw [hw, upd_get_other _ _ _ _ (Ne.symm hv)]

theorem stopWorker_group (reason : Nat) : ∃ now, ∀ g, workerGroup w = some g →
    (s.stopWorker w reason).groups[g.val] = s.groups[g.val].stop now := by
  obtain ⟨now, hs⟩ := stopWorker_settles s w reason
  exact ⟨now, fun g hg => (congrArg (·[g.val]) hs.groups).trans (stopBase_group s w reason now hg)⟩

/-! Halts (16, R431, R435). -/

/-- A Worker that halts at a bundle. -/
def Worker.halted (pc : BitVec 15) (k : Worker) : Worker :=
  { k with st := .halted, stall := none, wasHalted := true
           dbg := { k.dbg with haltReq := false, pending := false, lockWait := 0, hpc := pc } }

/-- A Worker halted with its group, before its event and the answers. -/
def State.haltBase : State := ((s.drain w).modWorker w (Worker.halted s.workers[w.val].pc)).modOwnGroup w fun x => x.halt s.nowTu

/-- A halt: the Worker halts with its group, its event is raised, and what waited for the halt is answered. -/
theorem haltWorker_settles : ∃ det, Settles (((s.haltBase w).raise (workerEv w) 1 w.val det).modWorker w Worker.unstepped) (s.haltWorker w) := by
  have hn : ((s.drain w).modWorker w (Worker.halted s.workers[w.val].pc)).nowTu = s.nowTu := by
    obtain ⟨m, hm⟩ := s.drain_eq w
    rw [hm]
    rfl
  unfold State.haltBase
  rw [← hn]
  exact ⟨_, (State.endStep_settles _ w).trans (State.haltSettled_settles _ w true)⟩

theorem haltBase_rest : ∃ m g, s.haltBase w =
    { (s.modWorker w fun k => Worker.halted s.workers[w.val].pc k.drained) with mem := m, groups := g } := by
  unfold State.haltBase
  obtain ⟨m, hm⟩ := s.drain_eq w
  obtain ⟨g, hg⟩ := modOwnGroup_rest ((s.drain w).modWorker w (Worker.halted s.workers[w.val].pc)) w fun x => x.halt s.nowTu
  rw [hg, hm]
  refine ⟨m, g, ?_⟩
  simp only [State.modWorker, upd_upd]
  rfl

theorem haltWorker_workers : (s.haltWorker w).workers = upd s.workers w fun k => (Worker.halted s.workers[w.val].pc k.drained).unstepped := by
  obtain ⟨det, hs⟩ := haltWorker_settles s w
  obtain ⟨m, g, hb⟩ := haltBase_rest s w
  rw [hs.workers, hb]
  simp only [State.modWorker, State.raise_workers, upd_upd]
  rfl

theorem haltWorker_raised : Raised s (s.haltWorker w) (workerEv w) := by
  obtain ⟨det, hs⟩ := haltWorker_settles s w
  obtain ⟨m, g, hb⟩ := haltBase_rest s w
  have hr : Raised s ((s.haltBase w).raise (workerEv w) 1 w.val det) (workerEv w) := State.raise_raised (by rw [hb]; rfl) _ _ _ _
  have he : (s.haltWorker w).ev = ((s.haltBase w).raise (workerEv w) 1 w.val det).ev := hs.ev
  exact ⟨by rw [he]; exact hr.active, by rw [he]; exact hr.count, by rw [he]; exact hr.latch⟩

theorem haltWorker_group {g : Fin 16} (h : workerGroup w = some g) : (s.haltWorker w).groups[g.val] = s.groups[g.val].halt s.nowTu := by
  obtain ⟨det, hs⟩ := haltWorker_settles s w
  obtain ⟨m, hm⟩ := s.drain_eq w
  refine (congrArg (·[g.val]) hs.groups).trans ?_
  simp only [State.modWorker, State.raise_groups]
  unfold State.haltBase
  rw [modOwnGroup_groups _ w _ h, hm]
  rfl

end

/-- Settles O11: faults by their stage, whichever row, and Workers that stop and halt at a bundle's boundary. -/
theorem workersLeave : Obligations.WorkersLeave := by
  refine ⟨fun s w row hrow hm ho hq hd => ?_, fun s w hm hq hd => ?_, fun s w f a hm ho hb hq hs hd => ?_, fun s w ha hr hd => ?_,
    fun s w ha hd => ?_⟩
  · obtain ⟨m, hx⟩ := row_meaning row hrow
    have issues (e : WEcc) : exec (row.1 w e) s = .next (s.performEcc w e m) := (hx w e s).trans (congrArg _ (runOp_quiet hm ho hq e m))
    refine ⟨fun f hf => ⟨_, issues .ok, ?_⟩, fun a => ⟨_, issues (.ue 0 a), programError_faults hd a m⟩,
      fun x a hne => ⟨_, issues (.ue x a), dataError_faults hd (mayIssue_runs hm) hne a m⟩, ?_⟩
    · rw [State.performEcc, perform_faulted hf m]
      exact workerFault_faulted hd f
    · rw [hx, hx, correctable_counts hm ho hq m]
      rfl
  · intro opc h
    have hlist : opc ≠ 0 → (∀ row ∈ workerRows, opc ≠ row.2) → listedOpc opc = false := fun h0 hrows => by
      by_contra hl
      rcases listed_rows opc (bitsOf_lt _ _ 6) (by simpa using hl) with h | ⟨row, hrow, h⟩
      · exact h0 h
      · exact hrows row hrow h
    have hbad : opLegal (s.vecLegal w) (s.bundle w) = false := by
      by_contra hl
      have hl : opLegal (s.vecLegal w) (s.bundle w) = true := by simpa using hl
      rcases h with ⟨h0, hrows⟩ | ⟨h0, hz⟩
      · exact absurd (opLegal_listed hl) (by rw [hlist h0 hrows]; decide)
      · exact hz (opLegal_nop hl h0)
    refine ⟨_, exec_nop_issues hm (h.elim (fun h => .inr (hlist h.1 h.2)) fun h => .inl h.1), ?_⟩
    rw [issue_quiet hq, State.performEcc, perform_faulted (illegal_faults hbad)]
    exact workerFault_faulted hd 0x01
  · obtain ⟨he, hdy⟩ := dying_ends hb hq hs hd
    have hk := workerFault_worker (s.retire (s.ctx w) {}) w 0 (code := f) (pc := a) (by rw [hdy]; rfl)
    refine ⟨_, exec_nop_issues hm (.inl ho), ?_⟩
    rw [he, hk]
    exact ⟨rfl, rfl, rfl⟩
  · have hx : exec (.stopBoundary w) s = .next (s.stopWorker w 3) := by
      show execStopBoundary w s = _
      simp [execStopBoundary, ha, hr, hd]
    obtain ⟨hl, hstop, hreps⟩ := stopWorker_leaves s w 3
    obtain ⟨now, hg⟩ := stopWorker_group s w 3
    refine ⟨_, hx, hl, hstop, hreps, fun g hw hp => ?_, fun g hw hp hh => ?_⟩
    · rw [hg g hw]
      exact stop_playing hp now
    · rw [hg g hw]
      exact stop_armed hp hh now
  · have hx : exec (.haltPoint w) s = .next (s.haltWorker w) := by
      show execHaltPoint w s = _
      simp [execHaltPoint, ha, hd]
    have hw := haltWorker_workers s w
    have hk : (s.haltWorker w).workers[w.val] = (Worker.halted s.workers[w.val].pc s.workers[w.val].drained).unstepped := by
      rw [hw, upd_get_same]
    refine ⟨_, hx, by rw [hk]; rfl, by rw [hk]; rfl, by rw [hk]; rfl, by rw [hk]; rfl, by rw [hk]; rfl, by rw [hk]; rfl, by rw [hk]; rfl,
      haltWorker_raised s w, fun v hv => ?_, fun g hg hp => ?_⟩
    · rw [hw, upd_get_other _ _ _ _ (Ne.symm hv)]
    · rw [haltWorker_group s w hg]
      exact halt_playing hp s.nowTu

end Sys2Proof.Machine
end

section
/-! SUPPORT. Timer, watchdog, signals and the entry of interrupts (spec/03_worker_cores.md, R75 to R77, R87, R88). -/

namespace Sys2Proof.Machine

/-! The status that `IST` takes (R77). -/

/-- The fields of the registers that `WSTAT` shows. -/
structure StatusFields where
  flags : BitVec 4
  ovs : Bool
  lkf : Bool
  mf : Bool
  ie : Bool
  inh : Bool
  grace : Bool
  winWaited : Bool

def Regs.status (r : Regs) : StatusFields := ⟨r.flags, r.ovs, r.lkf, r.mf, r.ie, r.inh, r.grace, r.winWaited⟩

theorem wstat_status {r q : Regs} (h : r.status = q.status) (k : Worker) : k.wstat r = k.wstat q := by
  simp only [Regs.status, StatusFields.mk.injEq] at h
  obtain ⟨hf, ho, hl, hm, hi, hn, hg, hw⟩ := h
  simp only [Worker.wstat, hf, ho, hl, hm, hi, hn, hg, hw]

/-- What a write makes of the status depends on the status alone. -/
theorem apply_status {r q : Regs} (h : r.status = q.status) (code : Nat) (v : BitVec 72) : (r.apply code v).status = (q.apply code v).status := by
  unfold Regs.apply
  split
  · exact h
  · simp only [Regs.status, StatusFields.mk.injEq] at h
    obtain ⟨hf, ho, hl, hm, hi, hn, hg, hw⟩ := h
    simp only [Regs.applyData, Regs.status, hf, ho, hl, hm, hi, hn, hg, hw]

/-- A write of another register leaves the status. -/
theorem apply_keeps_status {p : PendWrite} (h : writesStatus p = false) (r : Regs) : (r.apply p.reg p.val).status = r.status := by
  simp only [writesStatus, List.contains_cons, List.contains_nil, Bool.or_false, Bool.or_eq_false_iff, beq_eq_false_iff_ne] at h
  obtain ⟨h44, -, -, h68, h69, h71, h72⟩ := h
  unfold Regs.apply
  split
  · rfl
  · simp [Regs.applyData, Regs.status, h44, h68, h69, h71, h72]

/-- The writes of the status among those on their way. -/
def statusWrites (l : List PendWrite) : List PendWrite := l.filter writesStatus

/-- All writes on their way make of the status what those of the status make of it. -/
theorem status_writes (l : List PendWrite) : ∀ r q : Regs, r.status = q.status →
    (applyAll r (statusWrites l)).status = (applyAll q l).status := by
  induction l with
  | nil => exact fun _ _ h => h
  | cons p l ih =>
    intro r q h
    by_cases hp : writesStatus p = true
    · rw [statusWrites, List.filter_cons_of_pos hp]
      exact ih _ _ (apply_status h _ _)
    · rw [statusWrites, List.filter_cons_of_neg hp]
      exact ih _ _ (h.trans (apply_keeps_status (by simpa using hp) q).symm)

/-- A write of the status leaves the pending lines. -/
theorem statusWrites_wipend (l : List PendWrite) (r : Regs) : (applyAll r (statusWrites l)).wipend = r.wipend := by
  refine List.foldlRecOn (motive := fun q : Regs => q.wipend = r.wipend) _ _ rfl fun q hq p hp => ?_
  have hs : writesStatus p = true := (List.mem_filter.mp hp).2
  have h59 : p.reg ≠ 59 := fun h => by simp [writesStatus, h] at hs
  unfold Regs.apply
  split
  · simpa [Regs.applyCtl, h59] using hq
  · exact hq

/-! The line that is served (R75, R77). -/

theorem mem_onesOf {n : Nat} (v : BitVec n) (i : Nat) : i ∈ onesOf n v.toNat ↔ i < n ∧ v.getLsbD i = true := by
  simp [onesOf, BitVec.testBit_toNat]

/-- The lowest line that is pending and enabled. -/
theorem lowest_line {v : BitVec 16} {line : Fin 16} (h : v.getLsbD line.val = true) (hl : ∀ i : Fin 16, i < line → v.getLsbD i.val = false) :
    leastOf (onesOf 16 v.toNat) = some line.val := by
  refine leastOf_least ((mem_onesOf v _).mpr ⟨line.isLt, h⟩) fun i hi => ?_
  obtain ⟨hi, hv⟩ := (mem_onesOf v i).mp hi
  by_contra hlt
  rw [hl ⟨i, hi⟩ (Nat.lt_of_not_le hlt)] at hv
  exact nomatch hv

theorem lineCleared (v : BitVec 16) (line i : Fin 16) :
    (v &&& ~~~(BitVec.ofNat 16 (2 ^ line.val))).getLsbD i.val = (v.getLsbD i.val && i ≠ line) := by
  simp only [BitVec.getLsbD_and, BitVec.getLsbD_not, BitVec.getLsbD_ofNat, Nat.testBit_two_pow, i.isLt, decide_true, Bool.true_and]
  simp [Fin.ext_iff, eq_comm]

theorem enterHandler_regs (k : Worker) (line : Nat) : ∃ r : Regs, r.status = k.settled.status ∧ r.wipend = k.regs.wipend ∧
    (k.enterHandler line).regs = { r with ipc := k.pc.setWidth 32, ist := k.wstat r, ie := false, inh := true
                                          wipend := r.wipend &&& ~~~(BitVec.ofNat 16 (2 ^ line)) } :=
  ⟨applyAll k.regs (statusWrites k.pend), status_writes k.pend _ _ rfl, statusWrites_wipend _ _, rfl⟩

/-! The rows. -/

theorem alive_notFenced {s : State} {w : Fin 32} (h : s.workerAlive w = true) : s.net.dies[(workerDie w).val].fenced = false := by
  simp only [State.workerAlive, Bool.and_eq_true, Bool.not_eq_true'] at h
  exact h.1.1.2

theorem modWorker_twice (s : State) (w : Fin 32) (f g : Worker → Worker) : (s.modWorker w f).modWorker w g = s.modWorker w (g ∘ f) := by
  simp only [State.modWorker, upd_upd]

theorem modWorker_const (s : State) (w : Fin 32) (f : Worker → Worker) : s.modWorker w f = s.modWorker w fun _ => f s.workers[w.val] := by
  simp [State.modWorker, upd]

/-- The watchdog's event. -/
def watchdogEv (w : Fin 32) : Fin 256 := dieEvent (workerDie w) ⟨8 + w.val % 8, by omega⟩

theorem watchdog_watched {s : State} {w : Fin 32} (sev unit det : Nat) (f : Worker → Worker) :
    let t := (s.raise (watchdogEv w) sev unit det).modWorker w f
    (Raised s t (watchdogEv w) ∧ t = { s with workers := t.workers, ev := t.ev } ∧
      ∀ v : Fin 32, v ≠ w → t.workers[v.val] = s.workers[v.val]) ∧ t.workers[w.val] = f s.workers[w.val] := by
  have hr : Raised s (s.raise (watchdogEv w) sev unit det) (watchdogEv w) := State.raise_raised rfl _ _ _ _
  refine ⟨⟨⟨hr.active, hr.count, hr.latch⟩, ?_, fun v hv => ?_⟩, ?_⟩
  · rw [State.raise_rest]
    rfl
  · rw [modWorker_get_ne _ _ _ _ (Ne.symm hv), State.raise_workers]
  · rw [modWorker_get, State.raise_workers]

/-- A Worker whose watchdog has run out: it reloads, or stays at zero where it halts its Worker. -/
def Worker.barked (act : Bool) (k : Worker) : Worker := { k with regs := { k.regs with wdog := if act then 0 else k.regs.wdogRld } }

/-- The watchdog runs out: its event, and what its mode asks for. -/
theorem exec_watchdogExpiry {s : State} {w : Fin 32} (ha : s.workerAlive w = true) (hr : s.workers[w.val].st = .running)
    (hc : s.workers[w.val].regs.wdogCtrl.getLsbD 0 = true) (hd : s.workers[w.val].regs.wdog = 1) {act : Bool}
    (hact : s.workers[w.val].regs.wdogCtrl.getLsbD 1 = act) : ∃ det, exec (.watchdogExpiry w) s = .next
      (if act then ((s.raise (watchdogEv w) 2 w.val det).modWorker w (Worker.barked act)).requestHalt w 3
        else (s.raise (watchdogEv w) 2 w.val det).modWorker w (Worker.barked act)) := by
  subst hact
  refine ⟨_, congrArg Host.Outcome.next (if_pos ?_)⟩
  simp [hr, ha, hc, hd]

/-- A Worker that its watchdog halts. -/
def Worker.watchHalted (k : Worker) : Worker := { k with dbg := { k.dbg with haltReq := true, causes := k.dbg.causes ||| 8 } }

theorem requestHalt_watchdog {s : State} {w : Fin 32} (h : s.workers[w.val].st = .running) : s.requestHalt w 3 = s.modWorker w Worker.watchHalted :=
  if_pos h

/-- Settles O12: the timer, the signal and the watchdog at their instants, and the entry of the lowest line that is due. -/
theorem timersAndInterrupts : Obligations.TimersAndInterrupts := by
  refine ⟨?_, ?_⟩
  · intro s w ha hr k r act watched
    refine ⟨fun hc ht => ?_, fun hs => ?_, fun hc hd hact => ?_, fun hc hd hact => ?_⟩
    · have hx : exec (.timerReachedZero w) s = .next ((s.modWorker w fun k => { k with regs := { k.regs with
          wtimer := if k.regs.wtimerCtrl.getLsbD 1 then k.regs.wtimerRld else 0 } }).pendLine w 1) := by
        show execTimerReachedZero w s = _
        have hc : s.workers[w.val].regs.wtimerCtrl.getLsbD 0 = true := hc
        have ht : s.workers[w.val].regs.wtimer = 1 := ht
        simp only [execTimerReachedZero, hr, ha, hc, ht, decide_true, Bool.and_self, if_true]
      rw [hx, State.pendLine, modWorker_twice, modWorker_const]
      rfl
    · have hx : exec (.sigArrival w) s = .next ((s.modWorker w fun k => { k with sigIn := k.sigIn - 1 }).pendLine w 7) := by
        show execSigArrival w s = _
        have hf : (s.modWorker w fun k => { k with sigIn := k.sigIn - 1 }).net.dies[(workerDie w).val].fenced = false := alive_notFenced ha
        have hs : ¬ s.workers[w.val].sigIn = 0 := Nat.pos_iff_ne_zero.mp hs
        simp only [execSigArrival, hs, hf, if_false, Bool.false_eq_true]
      rw [hx, State.pendLine, modWorker_twice, modWorker_const]
      rfl
    · obtain ⟨det, hx⟩ := exec_watchdogExpiry ha hr hc hd hact
      obtain ⟨hw, hk⟩ := watchdog_watched (s := s) (w := w) 2 w.val det (Worker.barked false)
      exact ⟨_, hx, hw, hk⟩
    · obtain ⟨det, hx⟩ := exec_watchdogExpiry ha hr hc hd hact
      obtain ⟨hw, hk⟩ := watchdog_watched (s := s) (w := w) 2 w.val det (Worker.watchHalted ∘ Worker.barked true)
      rw [if_pos rfl, requestHalt_watchdog (by rw [modWorker_get, State.raise_workers]; exact hr), modWorker_twice] at hx
      exact ⟨_, hx, hw, hk⟩
  · intro s w line k on ha hr he hs hh hstop hi hon hlow
    have hx : exec (.interruptEntry w) s = .next (s.modWorker w fun k => k.enterHandler line.val) := by
      show execInterruptEntry w s = _
      have hr : s.workers[w.val].st = .running := hr
      have he : s.workers[w.val].ended = false := he
      have hstop : s.workers[w.val].stopDue = false := hstop
      have hline : leastOf (onesOf 16 (s.workers[w.val].opView.wipend &&& s.workers[w.val].opView.wien).toNat) = some line.val :=
        lowest_line (by rw [BitVec.getLsbD_and]; exact hon) fun i hi => by rw [BitVec.getLsbD_and]; exact hlow i hi
      simp only [execInterruptEntry, hr, he, ha, hh, hstop, hi, hline, bne_self_eq_false, Bool.not_true, Bool.or_self, Bool.false_eq_true,
        if_false]
    obtain ⟨r, hst, hwi, hregs⟩ := enterHandler_regs k line.val
    refine ⟨_, hx, .ofMod s w _, ?_⟩
    rw [modWorker_get]
    refine ⟨rfl, by rw [hregs], ?_, by rw [hregs], by rw [hregs], rfl, fun i => ?_⟩
    · rw [hregs]
      exact wstat_status hst k
    · rw [hregs]
      exact (lineCleared _ line i).trans (by rw [hwi])

end Sys2Proof.Machine
end

section
/-! SUPPORT. Compares and fail bits of a port group (spec/04_timing_and_vectors.md, R101, R105, R113; spec/06_fail_capture_and_repair.md,
R164, R174). -/

namespace Sys2Proof.Machine

/-! Changes of one group. -/

theorem OnlyGroup.ofMod (s : State) (g : Fin 16) (f : Group → Group) : OnlyGroup s (s.modGroup g f) g :=
  ⟨rfl, fun _ hh => upd_get_other _ _ _ _ (Ne.symm hh)⟩

theorem modGroup_get (s : State) (g : Fin 16) (f : Group → Group) : (s.modGroup g f).groups[g.val] = f s.groups[g.val] := upd_get_same _ _ _

theorem modGroup_twice (s : State) (g : Fin 16) (f h : Group → Group) : (s.modGroup g f).modGroup g h = s.modGroup g (h ∘ f) := by
  simp only [State.modGroup, upd_upd]

/-! Samples (R101, R105). -/

theorem firstStrobe_unsampled {l : List Compare} {a : Compare} (h : firstStrobe l = some a) : a.fail = none := by
  induction l with
  | nil => exact nomatch h
  | cons b l ih =>
    unfold firstStrobe at h
    split at h
    · split at h
      case isTrue hb =>
        obtain rfl := Option.some.inj h
        exact Option.isNone_iff_eq_none.mp hb
      case isFalse => exact nomatch h
    next c hc =>
      split at h
      case isTrue hb =>
        obtain rfl := Option.some.inj h
        exact Option.isNone_iff_eq_none.mp (Bool.and_eq_true_iff.mp hb).1
      case isFalse => exact ih (hc.trans h)

/-- A compare that has taken its last sample. -/
def Compare.sampled (a : Compare) (f : Bool) : Compare := { a with rxAt := none, rxlAt := none, failed := f, fail := some f }

section
variable {a : Compare} {rx rxl : Bool}

theorem isWindow_notCz (h : isWindow a.code.toNat = true) : a.code ≠ 10#4 := fun hc => by
  rw [hc] at h
  exact absurd h (by decide)

/-- The last sample of the low comparator alone. -/
theorem sample_low_last {u : Int} (hx : a.rxAt = none) (hl : a.rxlAt = some u) (hw : isWindow a.code.toNat = false ∨ a.last < u + 128) :
    a.sample rx rxl = a.sampled (a.failed || (rxl == decide (a.code = 10))) := by
  have hn : (isWindow a.code.toNat && decide (u + 128 ≤ a.last)) = false := by
    rcases hw with hw | hw
    · simp [hw]
    · simp [show ¬ u + 128 ≤ a.last by omega]
  simp [Compare.sample, Compare.time, hx, hl, hn, Compare.sampled]

/-- The last sample of the high comparator alone. -/
theorem sample_high_last {u : Int} (hx : a.rxAt = some u) (hl : a.rxlAt = none) (hw : isWindow a.code.toNat = false ∨ a.last < u + 128) :
    a.sample rx rxl = a.sampled (a.failed || (rx == decide (a.code = 10))) := by
  have hn : (isWindow a.code.toNat && decide (u + 128 ≤ a.last)) = false := by
    rcases hw with hw | hw
    · simp [hw]
    · simp [show ¬ u + 128 ≤ a.last by omega]
  simp [Compare.sample, Compare.time, hx, hl, hn, Compare.sampled]

/-- A window on the low comparator goes on to its next grid point. -/
theorem sample_low_next {u : Int} (hf : a.fail = none) (hw : isWindow a.code.toNat = true) (hx : a.rxAt = none) (hl : a.rxlAt = some u)
    (hu : u + 128 ≤ a.last) : a.sample rx rxl = { a with rxlAt := some (u + 128), failed := a.failed || !rxl } := by
  have hc := isWindow_notCz hw
  simp [Compare.sample, Compare.time, hx, hl, hw, hu, hc, hf]

/-- A window on the high comparator goes on to its next grid point. -/
theorem sample_high_next {u : Int} (hf : a.fail = none) (hw : isWindow a.code.toNat = true) (hx : a.rxAt = some u) (hl : a.rxlAt = none)
    (hu : u + 128 ≤ a.last) : a.sample rx rxl = { a with rxAt := some (u + 128), failed := a.failed || !rx } := by
  have hc := isWindow_notCz hw
  simp [Compare.sample, Compare.time, hx, hl, hw, hu, hc, hf]

/-- `CZ` takes the sample of the comparator whose time comes first, and both where they coincide. -/
theorem sample_cz_high {u v : Int} (hf : a.fail = none) (hc : a.code = 10) (hx : a.rxAt = some u) (hl : a.rxlAt = some v) (h : u < v) :
    a.sample rx rxl = { a with rxAt := none, failed := a.failed || rx } := by
  have hw : isWindow 10 = false := rfl
  simp [Compare.sample, Compare.time, hx, hl, hw, hc, hf, Int.min_eq_left (Int.le_of_lt h), Int.ne_of_gt h]

theorem sample_cz_low {u v : Int} (hf : a.fail = none) (hc : a.code = 10) (hx : a.rxAt = some u) (hl : a.rxlAt = some v) (h : v < u) :
    a.sample rx rxl = { a with rxlAt := none, failed := a.failed || rxl } := by
  have hw : isWindow 10 = false := rfl
  simp [Compare.sample, Compare.time, hx, hl, hw, hc, hf, Int.min_eq_right (Int.le_of_lt h), Int.ne_of_gt h]

theorem sample_cz_both {u : Int} (hc : a.code = 10) (hx : a.rxAt = some u) (hl : a.rxlAt = some u) :
    a.sample rx rxl = a.sampled (a.failed || rx || rxl) := by
  have hw : isWindow 10 = false := rfl
  simp [Compare.sample, Compare.time, hx, hl, hw, hc, Compare.sampled]

end

/-- The strobe of a live pin whose group is not halted before its time. -/
theorem exec_strobe {s : State} {g : Fin 16} {p : Fin 8} {a : Compare} (rx rxl : Bool)
    (h : firstStrobe s.groups[g.val].pins[p.val].fmt.strobes = some a)
    (hh : ∀ h, s.groups[g.val].run.haltAt = some h → a.time < h) (hg : s.groupAlive g = true) (hl : s.portLive (groupPort g p) = true) :
    ∃ t, exec (.strobe g p rx rxl) s = .next t ∧ OnlyGroup s t g ∧ t.groups[g.val].pins[p.val].fmt.strobes =
      s.groups[g.val].pins[p.val].fmt.strobes.map fun (c : Compare) => if c = a then
        a.sample (rx != s.ports[(groupPort g p).val].inv.getLsbD 2) (rxl != s.ports[(groupPort g p).val].inv.getLsbD 3) else c := by
  have hheld : s.groups[g.val].run.held a.time = false := by
    unfold Run.held
    split
    · rfl
    next t ht =>
      have := hh t ht
      exact decide_eq_false (by omega)
  have hx : exec (.strobe g p rx rxl) s = execStrobe g p rx rxl s := rfl
  rw [hx]
  simp only [execStrobe, h, hg, hl, hheld, Bool.not_true, Bool.or_self, Bool.true_or, Bool.false_eq_true, if_false, if_true]
  exact ⟨_, rfl, .ofMod s g _, by rw [modGroup_get]; simp⟩

end Sys2Proof.Machine
end

section
/-! SUPPORT. Fail bits, match words and chunks of the stream window (spec/04_timing_and_vectors.md, R110, R111, R113;
spec/06_fail_capture_and_repair.md, R164, R174; spec/03_worker_cores.md, R65 to R67). -/

namespace Sys2Proof.Machine

/-! Fail bits (R113, R164, R174). -/

/-- A fail bit that leaves its pin's queue, and that its pin may count. -/
def Group.bitTaken (p : Fin 8) (a : Compare) (counts : Bool) (x : Group) : Group :=
  { x with pins := upd x.pins p fun y => { y with
      fmt := { y.fmt with strobes := y.fmt.strobes.erase a }
      fails := if decide (a.fail = some true) && counts then satAdd y.fails 1 else y.fails } }

/-- A fail bit of a match word. -/
def Group.bitMatched (p : Fin 8) (a : Compare) (i first : Nat) (x : Group) : Group :=
  { x with run := { x.run with matches_ := x.run.matches_.map fun m =>
      if m.id = i then m.result a.cycle first p.val (decide (a.fail = some true)) else m } }

/-- The bit that a compare adds to its test cycle. -/
def failMask (p : Fin 8) (a : Compare) : BitVec 8 := if a.fail = some true then BitVec.ofNat 8 (2 ^ p.val) else 0

/-- A test cycle that takes a fail bit in. -/
def OpenCycle.takes (p : Fin 8) (a : Compare) (o : OpenCycle) : OpenCycle :=
  { o with left := o.left - 1, pins := o.pins ||| failMask p a
           window := if isWindow a.code.toNat then o.window ||| failMask p a else o.window }

/-- A fail bit that fail compression takes into its open test cycle. -/
def Group.bitCompressed (p : Fin 8) (a : Compare) (x : Group) : Group :=
  { x with fail := { x.fail with open_ := x.fail.open_.map fun o => if o.cycle = a.cycle then o.takes p a else o } }

section
variable {s : State} {g : Fin 16} {p : Fin 8} {a : Compare}

theorem exec_failBit_word {i first : Nat} (h : s.groups[g.val].pins[p.val].fmt.strobes.find? (·.fail.isSome) = some a)
    (hg : s.groupAlive g = true) (hw : a.word = some (i, first)) :
    exec (.failBit g p) s = .next (s.modGroup g (Group.bitMatched p a i first ∘ Group.bitTaken p a false)) := by
  have hx : exec (.failBit g p) s = execFailBit g p s := rfl
  rw [hx, ← modGroup_twice]
  simp only [execFailBit, h, hg, hw, Bool.not_true, Bool.false_eq_true, if_false]
  rfl

theorem exec_failBit_plain (h : s.groups[g.val].pins[p.val].fmt.strobes.find? (·.fail.isSome) = some a)
    (hg : s.groupAlive g = true) (hw : a.word = none) :
    exec (.failBit g p) s = .next ((s.modGroup g (Group.bitCompressed p a ∘ Group.bitTaken p a true)).closeCycles g) := by
  have hx : exec (.failBit g p) s = execFailBit g p s := rfl
  rw [hx, ← modGroup_twice]
  simp only [execFailBit, h, hg, hw, Bool.not_true, Bool.false_eq_true, if_false]
  rfl

/-- A test cycle whose fail bits are still to come holds back all that are behind it. -/
theorem closeCycles_waits {o : OpenCycle} {l : List OpenCycle} (h : s.groups[g.val].fail.open_ = o :: l) (hl : o.left ≠ 0) :
    s.closeCycles g = s.modGroup g fun x => { x with fail := { x.fail with open_ := o :: l } } := by
  simp only [State.closeCycles, h, closeReady, hl, if_false, List.foldl_nil]

/-- Test cycles of another number take nothing in. -/
theorem takes_others {l : List OpenCycle} (h : ∀ q ∈ l, q.cycle ≠ a.cycle) :
    (l.map fun o => if o.cycle = a.cycle then o.takes p a else o) = l :=
  (List.map_congr_left fun q hq => if_neg (h q hq)).trans (List.map_id l)

end

/-! Match words (R110, R111). -/

theorem decideFirst_first {l : List MatchSt} {m : MatchSt} (b : List MatchSt) (hl : ∀ y ∈ l, y.ended = true) (hm : m.ended = false) :
    decideFirst (l ++ m :: b) = l ++ m.decide_ :: b := by
  induction l with
  | nil => simp [decideFirst, hm]
  | cons y l ih =>
    have hy : y.ended = true := hl y List.mem_cons_self
    simp only [List.cons_append, decideFirst, hy, if_true, ih fun z hz => hl z (List.mem_cons_of_mem _ hz)]

theorem decision_eq (m : MatchSt) : m.decide_ =
    if m.passed = true ∨ m.timeout ≤ m.decided then { m with ended := true } else { m with decided := m.decided + 1 } := by
  simp [MatchSt.decide_]

/-- A match word marked as resolved. -/
def Group.matchDone (m : MatchSt) (x : Group) : Group :=
  { x with run := { x.run with matches_ := x.run.matches_.map fun y => if y.id = m.id then { y with resolved := true } else y } }

/-- A Worker that learns of a match. -/
def Worker.matchKnown (passed : Bool) (k : Worker) : Worker :=
  { k with regs := { k.regs with mf := !passed, wipend := k.regs.wipend ||| 16 } }

/-- The event of a match word that has failed, with its last play. -/
def State.matchFailed (s : State) (g : Fin 16) (m : MatchSt) : State :=
  match m.plays.getLast? with
  | none => s
  | some q => s.raiseDie (groupDie g) ⟨24 + g.val % 4, by omega⟩ 2 g.val (detail [(0, 6, q.cycle), (8, 8, q.masks.toNat)])

/-- The state in which a match word is resolved, before its event. -/
def State.matchKnown (s : State) (g : Fin 16) (m : MatchSt) : State :=
  (s.modGroup g (Group.matchDone m)).modWorker (groupWorker g) (Worker.matchKnown m.passed)

section
variable {s : State} {g : Fin 16} {m : MatchSt}

theorem exec_matchResolved (h : s.groups[g.val].run.matches_.find? (fun y => !y.resolved) = some m) (hg : s.groupAlive g = true)
    (hr : m.passed = true ∨ (m.ended = true ∧ m.plays.length = m.decided ∧ ∀ q ∈ m.plays, q.left = 0)) :
    exec (.matchResolved g) s = .next (if m.passed then s.matchKnown g m else (s.matchKnown g m).matchFailed g m) := by
  have hm : m.resolved = false := by simpa using List.find?_some h
  have hres : m.resolvable = true := by
    unfold MatchSt.resolvable
    rcases hr with hr | ⟨he, hn, hl⟩
    · simp [hm, hr]
    · have hall : (m.plays.all (·.left = 0)) = true := by simpa using hl
      simp [hm, he, hn, hall]
  have hknown : (((s.modGroup g (Group.matchDone m)).modWorker (groupWorker g) fun k => { k with regs := { k.regs with mf := !m.passed } }).pendLine
      (groupWorker g) 4) = s.matchKnown g m := by
    rw [State.pendLine, modWorker_twice]
    rfl
  have hx : exec (.matchResolved g) s = execMatchResolved g s := rfl
  rw [hx, ← hknown]
  simp only [execMatchResolved, h, hg, hres, Bool.not_true, Bool.or_self, Bool.false_eq_true, if_false]
  rfl

theorem matchKnown_resolved (s : State) (g : Fin 16) (m : MatchSt) :
    ∀ y ∈ (s.matchKnown g m).groups[g.val].run.matches_, y.id = m.id → y.resolved = true := by
  have hg : (s.matchKnown g m).groups[g.val] = s.groups[g.val].matchDone m := modGroup_get s g _
  rw [hg]
  intro y hy hid
  obtain ⟨z, -, rfl⟩ := List.mem_map.mp hy
  by_cases hz : z.id = m.id
  · rw [if_pos hz]
  · rw [if_neg hz] at hid
    exact absurd hid hz

theorem matchFailed_rest (s : State) (g : Fin 16) (m : MatchSt) :
    (s.matchFailed g m).groups = s.groups ∧ (s.matchFailed g m).workers = s.workers := by
  unfold State.matchFailed
  split
  · exact ⟨rfl, rfl⟩
  · exact ⟨State.raise_groups _ _ _ _ _, State.raise_workers _ _ _ _ _⟩

theorem matchFailed_raised {q : MPlay} {t : State} (ht : t.ev = s.ev) (h : m.plays.getLast? = some q) :
    Raised s (t.matchFailed g m) (dieEvent (groupDie g) ⟨24 + g.val % 4, by omega⟩) := by
  unfold State.matchFailed
  rw [h]
  exact State.raise_raised ht _ _ _ _

theorem matchKnown_worker (s : State) (g : Fin 16) (m : MatchSt) :
    (s.matchKnown g m).workers[(groupWorker g).val] = s.workers[(groupWorker g).val].matchKnown m.passed := modWorker_get _ _ _

end

end Sys2Proof.Machine
end

section
/-! SUPPORT. Chunks of the stream window (spec/03_worker_cores.md, R65 to R67). -/

namespace Sys2Proof.Machine

/-! Ranges of memory. -/

theorem Mem.read_length (m : Mem) (n : Nat) : ∀ a, (m.read a n).length = n := by
  induction n with
  | zero => exact fun _ => rfl
  | succ n ih => exact fun a => congrArg (· + 1) (ih (a + 1))

theorem Mem.read_getD (m : Mem) {n i : Nat} (h : i < n) : ∀ a, (m.read a n).getD i 0 = m.byte (a + i) := by
  induction n generalizing i with
  | zero => exact absurd h (Nat.not_lt_zero i)
  | succ n ih =>
    intro a
    cases i with
    | zero => rfl
    | succ i =>
      rw [show a + (i + 1) = a + 1 + i by omega, ← ih (Nat.lt_of_succ_lt_succ h) (a + 1)]
      rfl

/-- A range copied: it reads as its source did, and every other byte is as it was. -/
theorem Mem.write_read {m : Mem} (h : m.wf = true) (src dst n : Nat) :
    (∀ i, i < n → (m.write dst (m.read src n)).byte (dst + i) = m.byte (src + i)) ∧
      ∀ a, a < dst ∨ dst + n ≤ a → (m.write dst (m.read src n)).byte a = m.byte a := by
  have hl := m.read_length n src
  refine ⟨fun i hi => ?_, fun a ha => ?_⟩
  · rw [Mem.byte_write_inside _ m dst i h (by rw [hl]; exact hi), m.read_getD hi]
  · exact Mem.byte_write_outside _ m dst a h (by rw [hl]; omega)

theorem ReadOnly.wf {s t : State} (h : ReadOnly s t) (hm : s.mem.wf = true) : t.mem.wf = true := by
  rw [show t = _ from h]
  exact hm

/-! The return of a chunk. -/


/-- A chunk that has arrived in a Worker's window, with line 5 where its half becomes FULL. -/
def State.chunkDone (s : State) (w : Fin 32) (x : Window) (c : Nat) (ok : Bool) : State :=
  if x.half (c / 4 % 2) != .full && (s.modWorker w fun k => { k with window := k.window.arrived c ok }).workers[w.val].window.half (c / 4 % 2) = .full
  then (s.modWorker w fun k => { k with window := k.window.arrived c ok }).pendLine w 5
  else s.modWorker w fun k => { k with window := k.window.arrived c ok }

section
variable {s : State} {w : Fin 32} {c : Nat}

theorem chunkDone_mem (s : State) (w : Fin 32) (x : Window) (c : Nat) (ok : Bool) : (s.chunkDone w x c ok).mem = s.mem := by
  unfold State.chunkDone
  split <;> rfl

theorem chunkDone_worker (s : State) (w : Fin 32) (x : Window) (c : Nat) (ok : Bool) : (s.chunkDone w x c ok).workers[w.val] =
    { s.workers[w.val] with
      window := s.workers[w.val].window.arrived c ok
      regs := if x.half (c / 4 % 2) ≠ .full ∧ (s.workers[w.val].window.arrived c ok).half (c / 4 % 2) = .full then
          { s.workers[w.val].regs with wipend := s.workers[w.val].regs.wipend ||| 32 } else s.workers[w.val].regs } := by
  unfold State.chunkDone
  rw [modWorker_get]
  by_cases h : x.half (c / 4 % 2) ≠ .full ∧ (s.workers[w.val].window.arrived c ok).half (c / 4 % 2) = .full
  · rw [if_pos (by simpa using h), if_pos h, State.pendLine, modWorker_get, modWorker_get]
    rfl
  · rw [if_neg (by simpa using h), if_neg h, modWorker_get]

variable (ha : s.workers[w.val].active = true) (hl : s.workerAlive w = true) (he : s.workers[w.val].window.en = true)
  (hk : s.mem.rekey = none) (ho : s.workers[w.val].window.outstanding = some c)
  (hf : ∀ f ∈ s.net.mesh, f.refill = true → f.dst ≠ requesterUnit (.worker w))
include ha hl he hk ho hf

omit ho in
theorem refill_landed :
    (!s.workers[w.val].active || !s.workerAlive w || !s.workers[w.val].window.en || s.mem.rekey.isSome || s.refillFlies w) = false := by
  have hr : s.refillFlies w = false := by
    refine List.any_eq_false.mpr fun f hm h => ?_
    simp only [Bool.and_eq_true, decide_eq_true_eq] at h
    exact hf f hm h.1 h.2
  simp only [ha, hl, he, hk, hr, Bool.not_true, Option.isSome_none, Bool.or_self]

/-- The copy of a chunk into its place in X memory. -/
theorem chunk_returns (hq : (s.hbmOpen (.worker w) (s.workers[w.val].window.base.toNat + 4096 * c) 4096 .ok).fail = none) :
    exec (.chunkReturn w .ok) s = .next (((s.hbmOpen (.worker w) (s.workers[w.val].window.base.toNat + 4096 * c) 4096 .ok).st.modMem fun m =>
      m.write (xBase w + 0x8000 + c % 8 * 4096) (m.read (s.workers[w.val].window.base.toNat + 4096 * c) 4096)).chunkDone w
        s.workers[w.val].window c true) := by
  have hx : exec (.chunkReturn w .ok) s = execChunkReturn w .ok s := rfl
  rw [hx]
  unfold execChunkReturn
  have hok : (ChunkEnd.ok != .busError && (s.hbmOpen (.worker w) (s.workers[w.val].window.base.toNat + 4096 * c) 4096 .ok).fail.isNone) = true := by
    rw [hq]
    rfl
  simp only [refill_landed ha hl he hk hf, ho, hok, Bool.false_eq_true, if_false, if_true, reduceCtorEq]
  rfl

/-- A bus error fails the half. -/
theorem chunk_fails : exec (.chunkReturn w .busError) s = .next (s.chunkDone w s.workers[w.val].window c false) := by
  have hx : exec (.chunkReturn w .busError) s = execChunkReturn w .busError s := rfl
  rw [hx]
  unfold execChunkReturn
  simp only [refill_landed ha hl he hk hf, ho, Bool.false_eq_true, if_false, if_true, bne_self_eq_false, Bool.false_and]
  rfl

end

/-- Settles O16: samples by the compare's code and times, fail bits by their word, match words by their plays, chunks by their end. -/
theorem comparesAndChunks : Obligations.ComparesAndChunks := by
  refine ⟨?_, ?_, ?_, ?_⟩
  · intro s g p rx rxl a x n l high low window after done hfirst hheld hg hlive
    have hfail := firstStrobe_unsampled hfirst
    have becomes {b : Compare} (h : a.sample high low = b) : after b := by
      obtain ⟨t, hx, hone, hs⟩ := exec_strobe rx rxl hfirst hheld hg hlive
      refine ⟨t, hx, hone, ?_⟩
      rw [hs, ← h]
    refine ⟨fun u hc hx hl hw => becomes ?_, fun u hc hx hl hw => becomes ?_, fun u hw hx hl hu => becomes (sample_low_next hfail hw hx hl hu),
      fun u hw hx hl hu => becomes (sample_high_next hfail hw hx hl hu), fun u v hc hx hl => ⟨fun h => becomes (sample_cz_high hfail hc hx hl h),
        fun h => becomes (sample_cz_low hfail hc hx hl h), fun h => becomes (sample_cz_both hc hx (by rw [hl, h]))⟩,
      fun u hc hx hl => becomes ?_, fun u hc hx hl => becomes ?_⟩
    · rw [sample_low_last hx hl hw, decide_eq_false hc, beq_false]
      rfl
    · rw [sample_high_last hx hl hw, decide_eq_false hc, beq_false]
      rfl
    · rw [sample_low_last hx hl (.inl (by rw [hc]; rfl)), decide_eq_true hc, beq_true]
      rfl
    · rw [sample_high_last hx hl (.inl (by rw [hc]; rfl)), decide_eq_true hc, beq_true]
      rfl
  · intro s g p a f x l hfind haf hg
    have hbool : decide (a.fail = some true) = f := by rw [haf]; cases f <;> rfl
    refine ⟨fun i first hw => ⟨_, exec_failBit_word hfind hg hw, .ofMod s g _, ?_⟩, fun o rest hw hopen hc hleft hrest => ?_⟩
    · rw [modGroup_get]
      refine ⟨?_, ?_, rfl, ?_⟩
      · simp [Group.bitMatched, Group.bitTaken, l, x]
      · simp [Group.bitMatched, Group.bitTaken, x]
      · rw [← hbool]
        rfl
    · have ho : (s.modGroup g (Group.bitCompressed p a ∘ Group.bitTaken p a true)).groups[g.val].fail.open_ = o.takes p a :: rest := by
        have hopen : s.groups[g.val].fail.open_ = o :: rest := hopen
        rw [modGroup_get]
        simp only [Function.comp, Group.bitCompressed, Group.bitTaken, hopen, List.map_cons, if_pos hc, takes_others hrest]
      have hx := exec_failBit_plain hfind hg hw
      rw [closeCycles_waits ho (show o.left - 1 ≠ 0 by omega), modGroup_twice] at hx
      refine ⟨_, hx, .ofMod s g _, ?_⟩
      rw [modGroup_get]
      refine ⟨?_, ?_, rfl, o.takes p a, rfl, rfl, rfl, ?_⟩
      · simp [Group.bitCompressed, Group.bitTaken, l, x]
      · simp [Group.bitCompressed, Group.bitTaken, x, hbool]
      · simp only [OpenCycle.takes, failMask, haf]
        cases f <;> simp
  · intro s g hg x w k
    refine ⟨fun a m b hst hstop hms ha hm => ⟨s.modGroup g fun x => { x with run := { x.run with matches_ := decideFirst x.run.matches_ } }, ?_,
      .ofMod s g _, ?_⟩, fun m hfind hres => ⟨_, exec_matchResolved hfind hg hres, ?_⟩⟩
    · have hst : s.groups[g.val].st = .playing ∨ s.groups[g.val].st = .underrun := hst
      have hstop : s.groups[g.val].run.stopping = false := hstop
      show execMatchDecision g s = _
      rcases hst with hst | hst <;> simp [execMatchDecision, hg, hst, hstop]
    · rw [modGroup_get, ← decision_eq, ← decideFirst_first b ha hm, ← hms]
    · have hk := matchKnown_worker s g m
      cases hp : m.passed with
      | true =>
        rw [if_pos rfl]
        refine ⟨matchKnown_resolved s g m, ?_, nofun, fun _ => rfl⟩
        rw [hk, hp]
        rfl
      | false =>
        obtain ⟨hgr, hwk⟩ := matchFailed_rest (s.matchKnown g m) g m
        rw [if_neg nofun, hgr, hwk]
        refine ⟨matchKnown_resolved s g m, ?_, fun q _ hq => matchFailed_raised rfl hq, nofun⟩
        rw [hk, hp]
        rfl
  · intro s w c hm k x from_ dest h ha hl he hk ho hf
    have hread := s.hbmOpen_reads (.worker w) from_ 4096 .ok
    have hbytes : (s.hbmOpen (.worker w) from_ 4096 .ok).st.mem.byte = s.mem.byte := funext hread.bytes
    have hworkers : (s.hbmOpen (.worker w) from_ 4096 .ok).st.workers = s.workers := by rw [hread.rest]
    refine ⟨fun hq => ?_, ⟨_, chunk_fails ha hl he hk ho hf, ?_⟩⟩
    · obtain ⟨hin, hout⟩ := Mem.write_read (hread.wf hm) from_ dest 4096
      rw [hbytes] at hin hout
      obtain ⟨u, hx, hmem, hwk⟩ : ∃ u : State, exec (.chunkReturn w .ok) s = .next (u.chunkDone w x c true) ∧
          u.mem = (s.hbmOpen (.worker w) from_ 4096 .ok).st.mem.write dest ((s.hbmOpen (.worker w) from_ 4096 .ok).st.mem.read from_ 4096) ∧
          u.workers = s.workers := ⟨_, chunk_returns ha hl he hk ho hf hq, State.modMem_mem _ _,
            (State.modMem_workers _ _).trans hworkers⟩
      refine ⟨_, hx, ?_⟩
      rw [chunkDone_worker, chunkDone_mem, hmem, hwk]
      exact ⟨rfl, hin, hout, apply_ite Regs.wipend _ _ _⟩
    · rw [chunkDone_worker, chunkDone_mem]
      exact ⟨rfl, fun _ => rfl⟩

end Sys2Proof.Machine
end

section
/-! SUPPORT. `WORK_LOAD` (spec/19_command_reference.md, R479, R480). -/

namespace Sys2Proof.Machine

/-! The checks of naming fields (spec/02_command_interface.md, R35, R39). -/

theorem leastOf_eq_none {l : List Nat} (h : leastOf l = none) : l = [] := by
  cases l with
  | nil => rfl
  | cons a l =>
    unfold leastOf at h
    split at h <;> exact nomatch h

/-- The naming fields of a packet that passes are in range. -/
theorem acceptCheck_names {d : CmdDef} {s : State} {j : Job} (h : acceptCheck d s j = none) {f : Field} (hf : f ∈ d.fields j.p)
    {ok : Nat → Bool} (hr : f.range = .names ok) : ok (fld j.p.block f.off f.lo f.width) = true := by
  have hp : paramFails d s j.key.path j.p = none := firstOf_eq_none (acceptCheck_eq d s j ▸ h) _ (by simp)
  have hn : namingFails (d.fields j.p) j.p.block = [] := by
    unfold paramFails at hp
    split at hp
    · exact nomatch hp
    · have := leastOf_eq_none (Option.map_eq_none_iff.mp hp)
      exact (List.append_eq_nil_iff.mp (List.append_eq_nil_iff.mp this).1).1
  by_contra hok
  have hm := List.filterMap_eq_nil_iff.mp hn f hf
  rw [hr] at hm
  simp [hok] at hm

/-! Ranges written over ranges lost (R479). -/

/-- A byte after a range has been written. -/
theorem Mem.byte_write {m : Mem} (h : m.wf = true) (a k : Nat) (bs : Bytes) :
    (m.write a bs).byte k = if a ≤ k ∧ k < a + bs.length then bs.getD (k - a) 0 else m.byte k := by
  split
  next hk =>
    have hw := Mem.byte_write_inside bs m a (k - a) h (by omega)
    rwa [show a + (k - a) = k by omega] at hw
  next hk => exact Mem.byte_write_outside bs m a k h hk

theorem cellGet_absent {l : List Host.Cell} {k : Nat} (h : ∀ c ∈ l, c.1 ≠ k) : cellGet l k = none := by
  induction l with
  | nil => rfl
  | cons c l ih =>
    obtain ⟨a, b⟩ := c
    have ha : a ≠ k := h _ List.mem_cons_self
    rw [cellGet, if_neg ha, ih fun c hc => h c (List.mem_cons_of_mem _ hc), ite_self]

theorem cellGet_filter {u : List Undef} {l : List Host.Cell} (hw : cellsWf u l = true) {keep : Host.Cell → Bool} {k : Nat}
    (h : ∀ b, keep (k, b) = true) : cellGet (l.filter keep) k = cellGet l k := by
  induction l with
  | nil => rfl
  | cons c l ih =>
    obtain ⟨a, b⟩ := c
    obtain ⟨-, hlt, hl⟩ := (cellsWf_cons u a b l).mp hw
    by_cases ha : a = k
    · subst ha
      rw [List.filter_cons_of_pos (h b)]
      simp [cellGet]
    · have habove (hk : k < a) : cellGet (l.filter keep) k = none :=
        cellGet_none_of_above _ _ fun c hc => Nat.lt_trans hk (hlt c (List.mem_filter.mp hc).1)
      by_cases hkeep : keep (a, b) = true
      · rw [List.filter_cons_of_pos hkeep, cellGet, cellGet, if_neg ha, if_neg ha, ih hl]
      · rw [List.filter_cons_of_neg hkeep, cellGet, if_neg ha]
        by_cases hk : k < a
        · rw [if_pos hk, habove hk]
        · rw [if_neg hk, ih hl]

/-- A range lost with no free value reads zero, and the rest reads as it did. -/
theorem Mem.byte_lose_zero {m : Mem} (h : m.wf = true) (base size k : Nat) :
    (m.lose base size none).byte k = if base ≤ k ∧ k < base + size then 0 else m.byte k := by
  unfold Mem.lose Mem.byte
  dsimp only
  by_cases hk : base ≤ k ∧ k < base + size
  · have hc : cellGet (m.cells.filter fun c => ! decide (base ≤ c.1 ∧ c.1 < base + size)) k = none := cellGet_absent fun c hc hck => by
      have := (List.mem_filter.mp hc).2
      rw [hck] at this
      simp [hk] at this
    have hu (l : List Undef) : undefTag ({ base := base, size := size, tag := none } :: l) k = none := by
      rw [undefTag.eq_def]
      exact if_pos hk
    rw [hc, hu, if_pos hk]
  · have hc : cellGet (m.cells.filter fun c => ! decide (base ≤ c.1 ∧ c.1 < base + size)) k = cellGet m.cells k :=
      cellGet_filter h fun b => by rw [decide_eq_false hk]; rfl
    rw [hc, undefTag_lose _ _ _ _ _ hk, if_neg hk]

/-! An image in a Worker's memories. -/

section
variable {m : Mem} (hm : m.wf = true) (w : Fin 32) {prog x y : Nat} (image : Bytes) (hl : image.length = prog + x + y)
  (hp : prog ≤ 0x40000) (hx : x ≤ 0x10000) (hy : y ≤ 0x10000)
include hm hl hp hx hy

omit hp in
theorem Mem.putImage_byte (k : Nat) : (m.putImage w prog x image).byte k =
    if yBase w ≤ k ∧ k < yBase w + y then image.getD (prog + x + (k - yBase w)) 0
    else if xBase w ≤ k ∧ k < xBase w + x then image.getD (prog + (k - xBase w)) 0
    else if progBase w ≤ k ∧ k < progBase w + prog then image.getD (k - progBase w) 0
    else if progBase w ≤ k ∧ k < progBase w + 0x60000 then 0 else m.byte k := by
  have h1 := m.lose_wf (progBase w) 0x60000 none hm
  have h2 := Mem.write_wf (image.take prog) _ (progBase w) h1
  have h3 := Mem.write_wf ((image.drop prog).take x) _ (xBase w) h2
  have l1 : (image.take prog).length = prog := by rw [List.length_take]; omega
  have l2 : ((image.drop prog).take x).length = x := by rw [List.length_take, List.length_drop]; omega
  have l3 : (image.drop (prog + x)).length = y := by rw [List.length_drop]; omega
  unfold Mem.putImage
  dsimp only
  rw [Mem.byte_write h3, Mem.byte_write h2, Mem.byte_write h1, Mem.byte_lose_zero hm, l1, l2, l3]
  have drops (n i : Nat) : (image.drop n).getD i 0 = image.getD (n + i) 0 := by simp [List.getD]
  have takes {l : Bytes} {n i : Nat} (hi : i < n) : (l.take n).getD i 0 = l.getD i 0 := by simp [List.getD, hi]
  split_ifs with hky hkx hkp
  · exact drops _ _
  · rw [takes (by omega), drops]
  · rw [takes (by omega)]
  · rfl
  · rfl

theorem Mem.putImage_inside {i : Nat} (hi : i < 0x60000) : (m.putImage w prog x image).byte (progBase w + i) =
    if i < prog then image.getD i 0
    else if 0x40000 ≤ i ∧ i < 0x40000 + x then image.getD (prog + (i - 0x40000)) 0
    else if 0x50000 ≤ i ∧ i < 0x50000 + y then image.getD (prog + x + (i - 0x50000)) 0 else 0 := by
  have hxb : xBase w = progBase w + 0x40000 := rfl
  have hyb : yBase w = progBase w + 0x50000 := rfl
  rw [Mem.putImage_byte hm w image hl hx hy, hxb, hyb]
  by_cases hip : i < prog
  · rw [if_neg (by omega), if_neg (by omega), if_pos (by omega), if_pos hip, Nat.add_sub_cancel_left]
  by_cases hix : 0x40000 ≤ i ∧ i < 0x40000 + x
  · rw [if_neg (by omega), if_pos (by omega), if_neg hip, if_pos hix, Nat.add_sub_add_left]
  by_cases hiy : 0x50000 ≤ i ∧ i < 0x50000 + y
  · rw [if_pos (by omega), if_neg hip, if_neg hix, if_pos hiy, Nat.add_sub_add_left]
  · rw [if_neg (by omega), if_neg (by omega), if_neg (by omega), if_pos (by omega), if_neg hip, if_neg hix, if_neg hiy]

theorem Mem.putImage_outside {a : Nat} (ha : a < progBase w ∨ progBase w + 0x60000 ≤ a) : (m.putImage w prog x image).byte a = m.byte a := by
  have hxb : xBase w = progBase w + 0x40000 := rfl
  have hyb : yBase w = progBase w + 0x50000 := rfl
  rw [Mem.putImage_byte hm w image hl hx hy, hxb, hyb, if_neg (by omega), if_neg (by omega), if_neg (by omega), if_neg (by omega)]

end

/-! The command. -/

section
variable {s : State} {p : Pkt}

theorem workLoad_args (p : Pkt) : (begunJob cmdWorkLoad p).args = p.block :=
  begunJob_args (by simp [CmdDef.Unclamped, cmdWorkLoad, CmdDef.plain, Field.applied])

theorem workLoad_act : cmdWorkLoad.act = workLoadAct := rfl

/-- The lengths that an accepted load gives fit the memories. -/
theorem workLoad_lengths (h : Accepted cmdWorkLoad p s) :
    param p 48 0 19 ≤ 0x40000 ∧ param p 52 0 17 ≤ 0x10000 ∧ param p 56 0 17 ≤ 0x10000 := by
  have names {f : Field} (hf : f ∈ cmdWorkLoad.fields p) {ok : Nat → Bool} (hr : f.range = .names ok) :
      ok (param p f.off f.lo f.width) = true := acceptCheck_names (j := Job.fresh .pcie p) h.checks hf hr
  have h2 := names (.tail _ (.tail _ (.head _))) rfl
  have h3 := names (.tail _ (.tail _ (.tail _ (.head _)))) rfl
  have h4 := names (.tail _ (.tail _ (.tail _ (.tail _ (.head _))))) rfl
  simp only [Bool.and_eq_true, decide_eq_true_eq] at h2 h3 h4
  exact ⟨h2.1.2, h3.1, h4.1⟩

/-- The measurement of an image (R479). -/
def loadMeasure (p : Pkt) (image : Bytes) : Bytes := digestBytes (Config.sha512 (bytesOfWords ((p.block.drop 4).take 3) ++ image))

/-- A Worker loaded. -/
def Worker.loaded (meas : Bytes) (k : Worker) : Worker := { k.unitReset .idle with meas := some meas }

/-- The state with a Worker's memories loaded, and the Worker IDLE. -/
def State.loaded (s : State) (p : Pkt) (w : Fin 32) (image : Bytes) : State :=
  (s.modMem fun m => m.putImage w (param p 48 0 19) (param p 52 0 17) image).modWorker w (Worker.loaded (loadMeasure p image))

/-- A load of an image that the packet brings whole. -/
theorem workLoad_whole (h : Accepted cmdWorkLoad p s) (hh : param p 32 0 1 = 1) {image : Bytes} (hi : p.host = some image)
    (hl : image.length = param p 48 0 19 + param p 52 0 17 + param p 56 0 17) : ∃ q, exec (.workLoad p) s = .next
      { (begun cmdWorkLoad p s).loaded p (Fin.ofNat 32 p.unit.toNat) image with queen := q } ∧
    Completed cmdWorkLoad p s { (begun cmdWorkLoad p s).loaded p (Fin.ofNat 32 p.unit.toNat) image with queen := q }
      ([0, BitVec.ofNat 32 image.length] ++ measWords (some (loadMeasure p image))) := by
  have hread : (begun cmdWorkLoad p s).readImage p p.block = (image, 0, begun cmdWorkLoad p s) := by
    have hn : imageLen p.block = image.length := hl.symm
    have hh : fld p.block 32 0 1 = 1 := hh
    simp [State.readImage, hh, hi, hn]
  have ha : cmdWorkLoad.act (begunJob cmdWorkLoad p) (begun cmdWorkLoad p s) =
      .done ((begun cmdWorkLoad p s).loaded p (Fin.ofNat 32 p.unit.toNat) image)
        ([0, BitVec.ofNat 32 image.length] ++ measWords (some (loadMeasure p image))) := by
    have hb : (begunJob cmdWorkLoad p).p = p := rfl
    rw [workLoad_act]
    simp only [workLoadAct, workLoad_args, hb, hread, if_true]
    rfl
  obtain ⟨q, hx, hc⟩ := fetch_ends h ha rfl rfl
  exact ⟨q, congrArg Host.Outcome.next hx, hc⟩

/-- A load whose packet brings no image. -/
theorem workLoad_nothing (h : Accepted cmdWorkLoad p s) (hh : param p 32 0 1 = 1) (hi : p.host = none) : ∃ q,
    exec (.workLoad p) s = .next { begun cmdWorkLoad p s with queen := q } ∧
      Completed cmdWorkLoad p s { begun cmdWorkLoad p s with queen := q } [5, 0] := by
  have hp : 0 < param p 48 0 19 := by
    have := acceptCheck_names (j := Job.fresh .pcie p) h.checks (f := ⟨2, 48, 0, 19, .names fun v => 8 ≤ v && v ≤ 262144 && v % 8 = 0⟩)
      (.tail _ (.tail _ (.head _))) rfl
    simp only [Bool.and_eq_true, decide_eq_true_eq] at this
    have h8 : 8 ≤ param p 48 0 19 := this.1.1
    omega
  have hread : (begun cmdWorkLoad p s).readImage p p.block = ([], 5, begun cmdWorkLoad p s) := by
    have hn : 0 < imageLen p.block := Nat.lt_of_lt_of_le hp (by unfold imageLen param; omega)
    have hh : fld p.block 32 0 1 = 1 := hh
    simp [State.readImage, hh, hi, hn]
  have ha : cmdWorkLoad.act (begunJob cmdWorkLoad p) (begun cmdWorkLoad p s) = .done (begun cmdWorkLoad p s) [5, 0] := by
    have hb : (begunJob cmdWorkLoad p).p = p := rfl
    have h5 : ¬ (5 : Word) = 0 := by decide
    rw [workLoad_act]
    simp only [workLoadAct, workLoad_args, hb, hread, h5, if_false, List.isEmpty_nil, if_true]
  obtain ⟨q, hx, hc⟩ := fetch_ends h ha rfl rfl
  exact ⟨q, congrArg Host.Outcome.next hx, hc⟩

end

end Sys2Proof.Machine
end

section
/-! SUPPORT. `WORK_START` (spec/03_worker_cores.md, R61; spec/04_timing_and_vectors.md, R115, R127; spec/19_command_reference.md, R482,
R483, R486). -/

namespace Sys2Proof.Machine

/-! Workers and groups changed one after the other. -/

/-- Entries of a vector changed, each in its own way. -/
def changeEach {α : Type} {n : Nat} (l : List (Fin n)) (f : Fin n → α → α) (v : Vector α n) : Vector α n :=
  l.foldl (fun v i => upd v i (f i)) v

theorem changeEach_get {α : Type} {n : Nat} {l : List (Fin n)} (hl : l.Nodup) (f : Fin n → α → α) (v : Vector α n) (j : Fin n) :
    (changeEach l f v)[j.val] = if j ∈ l then f j v[j.val] else v[j.val] := by
  induction l generalizing v with
  | nil => simp [changeEach]
  | cons i l ih =>
    obtain ⟨hi, hl⟩ := List.nodup_cons.mp hl
    refine (ih hl (upd v i (f i))).trans ?_
    by_cases hj : j = i
    · subst j
      simp [hi]
    · simp [hj, upd_get_other v i j (f i) (Ne.symm hj)]

theorem forAll_modWorkerEach (l : List (Fin 32)) (f : Fin 32 → Worker → Worker) (s : State) :
    forAll l (fun w s => s.modWorker w (f w)) s = { s with workers := changeEach l f s.workers } := by
  induction l generalizing s with
  | nil => rfl
  | cons w l ih => exact ih _

/-- Different Workers drive different groups. -/
theorem workerGroup_injective {v w : Fin 32} {g : Fin 16} (hv : workerGroup v = some g) (hw : workerGroup w = some g) : v = w := by
  unfold workerGroup at hv hw
  split at hv
  · split at hw
    · have hv := congrArg Fin.val (Option.some.inj hv)
      have hw := congrArg Fin.val (Option.some.inj hw)
      dsimp only at hv hw
      exact Fin.ext (by omega)
    · exact nomatch hw
  · exact nomatch hv

theorem ownGroups_nodup {l : List (Fin 32)} (h : l.Nodup) : (l.filterMap workerGroup).Nodup :=
  h.filterMap fun _ _ _ hv hw => workerGroup_injective hv hw

/-! A group armed (R483; 04, R127; 05, R134; 06, R174). -/

/-- A group that a start arms. -/
def Group.armed (x : Group) : Group :=
  { x.clearRun with
    st := .armed
    pins := x.pins.map fun q => { q with fails := 0, fmt := PinFmt.reset }
    fail := { x.fail with fired := false, produced := 0, first := none, last := none, lastRec := Vector.replicate 32 none, open_ := [] } }

theorem State.driveOut_pins (s : State) (n : Fin 128) (txe : Bool) (l : Level) : PinsOnly s (s.driveOut n txe l) := by
  unfold State.driveOut
  split
  · exact s.drive_pins n txe l
  · exact s.modPort_pins n _

theorem State.armGroup_pins (s : State) (g : Fin 16) : PinsOnly (s.modGroup g Group.armed) (s.armGroup g) := by
  unfold State.armGroup
  refine .foldl (fun s n => ?_) _ _
  exact .ite ((s.driveOut_pins n false _).trans (State.driveOut_pins _ n true _)) (.refl s)

theorem PinsOnly.modGroup {s t : State} (h : PinsOnly s t) (g : Fin 16) (f : Group → Group) : PinsOnly (s.modGroup g f) (t.modGroup g f) := by
  rw [show t = _ from h]
  rfl

theorem forAll_cons {ι : Type} (i : ι) (l : List ι) (f : ι → State → State) (s : State) : forAll (i :: l) f s = forAll l f (f i s) := rfl

/-- A state with other groups. -/
def State.withGroups (s : State) (v : Vector Group 16) : State := { s with groups := v }

theorem armGroups_pins (l : List (Fin 16)) : ∀ {s t : State}, PinsOnly s t →
    PinsOnly (s.withGroups (changeAll l Group.armed s.groups)) (forAll l (fun g s => s.armGroup g) t) := by
  induction l with
  | nil => exact fun h => h
  | cons g l ih =>
    intro s t h
    have hs : s.withGroups (changeAll (g :: l) Group.armed s.groups) =
        (s.modGroup g Group.armed).withGroups (changeAll l Group.armed (s.modGroup g Group.armed).groups) := rfl
    rw [hs, forAll_cons]
    exact ih ((h.modGroup g Group.armed).trans (t.armGroup_pins g))

/-! Windows that request their first chunks (09, R273). -/

theorem prefetches_memory {ι : Type} (a : ι → Nat) (l : List ι) : ∀ s : State, ∃ m,
    l.foldl (fun s c => s.prefetch (a c)) s = { s with mem := m } := by
  induction l with
  | nil => exact fun s => ⟨s.mem, rfl⟩
  | cons c l ih =>
    intro s
    obtain ⟨m, hm, -⟩ := prefetch_memory s (a c)
    obtain ⟨n, hn⟩ := ih (s.prefetch (a c))
    exact ⟨n, hn.trans (by rw [hm])⟩

theorem prefetchWindow_memory (s : State) (w : Fin 32) : ∃ m, s.prefetchWindow w = { s with mem := m } := by
  unfold State.prefetchWindow
  dsimp only
  split
  · exact ⟨s.mem, rfl⟩
  · exact prefetches_memory _ _ s

theorem prefetchWindows_memory (l : List (Fin 32)) : ∀ s : State, ∃ m, forAll l (fun w s => s.prefetchWindow w) s = { s with mem := m } := by
  induction l with
  | nil => exact fun s => ⟨s.mem, rfl⟩
  | cons w l ih =>
    intro s
    obtain ⟨m, hm⟩ := prefetchWindow_memory s w
    obtain ⟨n, hn⟩ := ih (s.prefetchWindow w)
    exact ⟨n, hn.trans (by rw [hm])⟩

/-! The start (R483). -/

/-- Workers begin, their groups are cleared, those to arm are armed, and the windows request their first chunks. -/
def State.setOff (s : State) (l : List (Fin 32)) (gs : List (Fin 16)) (begins : Fin 32 → Worker → Worker) : State :=
  forAll l (fun w s => s.prefetchWindow w) (forAll gs (fun g s => s.armGroup g)
    (forAll (l.filterMap workerGroup) (fun g s => s.modGroup g Group.clearRun) (forAll l (fun w s => s.modWorker w (begins w)) s)))

theorem setOff_eq (s : State) (l : List (Fin 32)) (gs : List (Fin 16)) (begins : Fin 32 → Worker → Worker) : ∃ m e ps o,
    s.setOff l gs begins = { s with
      workers := changeEach l begins s.workers
      groups := changeAll gs Group.armed (changeAll (l.filterMap workerGroup) Group.clearRun s.groups)
      mem := m, ev := e, ports := ps, out := o } := by
  unfold State.setOff
  rw [forAll_modWorkerEach, forAll_modGroup]
  have hp := armGroups_pins gs (.refl { s with
    workers := changeEach l begins s.workers, groups := changeAll (l.filterMap workerGroup) Group.clearRun s.groups })
  generalize forAll gs (fun g s => s.armGroup g) _ = u at hp ⊢
  obtain ⟨m, hm⟩ := prefetchWindows_memory l u
  refine ⟨m, u.ev, u.ports, u.out, ?_⟩
  rw [hm, show u = _ from hp]
  rfl

section
variable {s : State} {p : Pkt}

theorem workStart_args (p : Pkt) : (begunJob cmdWorkStart p).args = p.block :=
  begunJob_args (by
    intro f hf v
    rcases List.mem_cons.mp hf with rfl | hf
    · rfl
    · obtain ⟨w, -, rfl⟩ := List.mem_map.mp hf
      rfl)

theorem workStart_act : cmdWorkStart.act = workStartAct := rfl

/-- The Workers that a start names, each as it begins at its entry bundle. -/
def startsFrom (p : Pkt) (gs : List (Fin 16)) (w : Fin 32) (k : Worker) : Worker :=
  k.begin (BitVec.ofNat 15 (param p (40 + 2 * w.val) 0 15)) ((workerGroup w).any gs.contains)

/-- The start that waits for its instant (R45, R483). -/
def State.startOf (s : State) (p : Pkt) : Start :=
  { key := ⟨.pcie, p.tag⟩, workers := BitVec.ofNat 32 (param p 32 0 32), groups := s.groupsToArm (workersOf (param p 32 0 32))
    at_ := none, tick := some (s.clk.ticks + 1536), ramp := s.pwr.rampStep.toNat, strobed := false, stamp := none }

/-- A state with one more start that waits. -/
def State.addStart (s : State) (x : Start) : State := { s with starts := s.starts ++ [x] }

theorem workStart_stays (h : Accepted cmdWorkStart p s) :
    let l := workersOf (param p 32 0 32)
    let gs := s.groupsToArm l
    exec (.workStart p) s = .next (((begun cmdWorkStart p s).setOff l gs (startsFrom p gs)).addStart (s.startOf p)) := by
  intro l gs
  have hact : cmdWorkStart.act (begunJob cmdWorkStart p) (begun cmdWorkStart p s) =
      .stay (((begun cmdWorkStart p s).setOff l gs (startsFrom p gs)).addStart (s.startOf p)) := by
    obtain ⟨m, e, ps, o, hu⟩ := setOff_eq (begun cmdWorkStart p s) l gs (startsFrom p gs)
    have hclk : ((begun cmdWorkStart p s).setOff l gs (startsFrom p gs)).clk = s.clk := by rw [hu]; rfl
    have hpwr : ((begun cmdWorkStart p s).setOff l gs (startsFrom p gs)).pwr = s.pwr := by rw [hu]; rfl
    have hx : s.startOf p = { key := ⟨.pcie, p.tag⟩, workers := BitVec.ofNat 32 (param p 32 0 32), groups := gs, at_ := none
                              tick := some (((begun cmdWorkStart p s).setOff l gs (startsFrom p gs)).clk.ticks + 1536)
                              ramp := ((begun cmdWorkStart p s).setOff l gs (startsFrom p gs)).pwr.rampStep.toNat
                              strobed := false, stamp := none } := by
      rw [hclk, hpwr]
      rfl
    rw [workStart_act, hx]
    simp only [workStartAct, workStart_args]
    rfl
  exact congrArg Host.Outcome.next (fetch_stay h hact)

end

end Sys2Proof.Machine
end

section
/-! SUPPORT. What a load and a start of Workers leave (spec/03_worker_cores.md, R61; spec/19_command_reference.md, R479, R483, R486). -/

namespace Sys2Proof.Machine

theorem begun_rest {d : CmdDef} {p : Pkt} {s : State} (h : Passes d p s) : ∃ q x, begun d p s = { s with hif := x, queen := q } :=
  ⟨_, _, begun_eq h⟩

section
variable {s : State} (p : Pkt) (w : Fin 32) (image : Bytes)

theorem loaded_mem (s : State) : (s.loaded p w image).mem = s.mem.putImage w (param p 48 0 19) (param p 52 0 17) image := by
  unfold State.loaded
  rw [State.modWorker_mem, State.modMem_mem]

theorem loaded_workers (s : State) : (s.loaded p w image).workers = upd s.workers w (Worker.loaded (loadMeasure p image)) := rfl

theorem loaded_rest (s : State) : s.loaded p w image = { s with workers := (s.loaded p w image).workers, mem := (s.loaded p w image).mem } := rfl

end

/-- A group in the two lists of a start. -/
theorem startGroups_get {l : List (Fin 32)} (hl : l.Nodup) (s : State) (g : Fin 16) :
    (changeAll (s.groupsToArm l) Group.armed (changeAll (l.filterMap workerGroup) Group.clearRun s.groups))[g.val] =
      if g ∈ s.groupsToArm l then s.groups[g.val].clearRun.armed
      else if g ∈ l.filterMap workerGroup then s.groups[g.val].clearRun else s.groups[g.val] := by
  have ho := ownGroups_nodup hl
  have ha : (s.groupsToArm l).Nodup := ho.filter _
  rw [changeAll_get ha, changeAll_get ho]
  by_cases hg : g ∈ s.groupsToArm l
  · have hm : g ∈ l.filterMap workerGroup := (List.mem_filter.mp hg).1
    rw [if_pos hg, if_pos hg, if_pos hm]
  · rw [if_neg hg, if_neg hg]

/-- Settles O26: a load by the image it puts into the memories, a start by the Workers that begin and the groups armed. -/
theorem workersLoadAndStart : Obligations.WorkersLoadAndStart := by
  refine ⟨?_, ?_⟩
  · intro s p image hm h hh w prog x y
    obtain ⟨q₀, hif₀, hb⟩ := begun_rest h.toPasses
    refine ⟨fun hi hl => ?_, fun hi => ?_⟩
    · obtain ⟨q, hx, hc⟩ := workLoad_whole h hh hi hl
      obtain ⟨hp, hxl, hyl⟩ := workLoad_lengths h
      rw [hl] at hc
      have hmem : ({ (begun cmdWorkLoad p s).loaded p w image with queen := q } : State).mem = s.mem.putImage w prog x image := by
        rw [hb]
        exact loaded_mem p w image _
      have hwk : ({ (begun cmdWorkLoad p s).loaded p w image with queen := q } : State).workers =
          upd s.workers w (Worker.loaded (loadMeasure p image)) := by
        rw [hb]
        exact loaded_workers p w image _
      refine ⟨_, _, hx, hc, ?_, ?_⟩
      · rw [hb, loaded_rest]
      · rw [hmem, hwk]
        refine ⟨by rw [upd_get_same]; rfl, by rw [upd_get_same]; rfl, by rw [upd_get_same]; rfl,
          fun v hv => upd_get_other _ _ _ _ (Ne.symm hv), fun i hi => ?_, fun a ha => ?_⟩
        · exact Mem.putImage_inside hm w image hl hp hxl hyl hi
        · exact Mem.putImage_outside hm w image hl hp hxl hyl ha
    · obtain ⟨q, hx, hc⟩ := workLoad_nothing h hh hi
      exact ⟨_, hx, hc, by rw [hb]⟩
  · intro s p h gs
    obtain ⟨q₀, hif₀, hb⟩ := begun_rest h.toPasses
    obtain ⟨m, e, ps, o, hu⟩ := setOff_eq (begun cmdWorkStart p s) (workersOf (param p 32 0 32)) gs (startsFrom p gs)
    refine ⟨_, workStart_stays h, stillRuns_of h (by rw [hu]; rfl) (by rw [hu]; rfl), fun w => ?_, fun g => ?_, ?_⟩
    · have hw : (((begun cmdWorkStart p s).setOff (workersOf (param p 32 0 32)) gs (startsFrom p gs)).addStart (s.startOf p)).workers[w.val] =
          if w ∈ workersOf (param p 32 0 32) then startsFrom p gs w s.workers[w.val] else s.workers[w.val] := by
        rw [hu, hb]
        exact changeEach_get (workersOf_nodup _) _ s.workers w
      rw [hw]
      by_cases hn : (param p 32 0 32).testBit w.val = true
      · rw [if_pos hn, if_pos (mem_workersOf.mpr hn)]
        exact ⟨rfl, rfl, rfl, rfl, rfl, rfl, rfl, rfl, rfl⟩
      · rw [if_neg hn, if_neg fun hm => hn (mem_workersOf.mp hm)]
    · have hg : (((begun cmdWorkStart p s).setOff (workersOf (param p 32 0 32)) gs (startsFrom p gs)).addStart (s.startOf p)).groups[g.val] =
          if g ∈ gs then s.groups[g.val].clearRun.armed
          else if g ∈ (workersOf (param p 32 0 32)).filterMap workerGroup then s.groups[g.val].clearRun else s.groups[g.val] := by
        rw [hu, hb]
        exact startGroups_get (workersOf_nodup _) s g
      rw [hg]
      by_cases hgs : g ∈ gs
      · rw [if_pos hgs, if_pos hgs]
        exact ⟨rfl, rfl, rfl, rfl, rfl, rfl, rfl⟩
      · rw [if_neg hgs, if_neg hgs]
        split <;> rfl
    · rw [hu, hb]
      rfl

end Sys2Proof.Machine
end

section
/-! SUPPORT. The TIM commands (spec/19_command_reference.md, R487, R488; spec/04_timing_and_vectors.md, R97, R98, R118, R124;
spec/06_fail_capture_and_repair.md, R161). -/

namespace Sys2Proof.Machine

theorem modGroup_get_ne (s : State) {g h : Fin 16} (hh : h ≠ g) (f : Group → Group) : (s.modGroup g f).groups[h.val] = s.groups[h.val] :=
  upd_get_other _ _ _ _ (Ne.symm hh)

/-! Timing sets (R97, R487). -/

/-- A group whose timing sets and control a block gives (R97, R487). -/
def Group.withTiming (b : Words) (x : Group) : Group :=
  let first := fld b 32 0 5
  let n := fld b 32 8 6
  let y := { x with sets := Vector.ofFn fun i : Fin 32 =>
    if first ≤ i.val ∧ i.val < first + n then timingOf b (i.val - first) else x.sets[i.val] }
  if fld b 32 16 1 = 1 then
    { y with tapEn := fld b 36 0 1 = 1, underrunStop := fld b 36 4 2 = 1, tapMask := BitVec.ofNat 8 (fld b 36 8 8) }
  else y

theorem withTiming_sets (b : Words) (x : Group) (i : Fin 32) : (x.withTiming b).sets[i.val] =
    if fld b 32 0 5 ≤ i.val ∧ i.val < fld b 32 0 5 + fld b 32 8 6 then timingOf b (i.val - fld b 32 0 5) else x.sets[i.val] := by
  unfold Group.withTiming
  split <;> simp

theorem withTiming_control {b : Words} (h : fld b 32 16 1 = 1) (x : Group) : (x.withTiming b).tapEn = decide (fld b 36 0 1 = 1) ∧
    (x.withTiming b).underrunStop = decide (fld b 36 4 2 = 1) ∧ (x.withTiming b).tapMask = BitVec.ofNat 8 (fld b 36 8 8) := by
  unfold Group.withTiming
  rw [if_pos h]
  exact ⟨rfl, rfl, rfl⟩

theorem withTiming_noControl {b : Words} (h : fld b 32 16 1 = 0) (x : Group) : (x.withTiming b).tapEn = x.tapEn ∧
    (x.withTiming b).underrunStop = x.underrunStop ∧ (x.withTiming b).tapMask = x.tapMask := by
  unfold Group.withTiming
  rw [if_neg (by rw [h]; decide)]
  exact ⟨rfl, rfl, rfl⟩

/-- A pin with the site, the input and the enable that a block gives it (R161). -/
def Pin.mapped (b : Words) (q : Fin 8) (x : Pin) : Pin :=
  { x with site := Fin.ofNat 32 (fld b (32 + 4 * q.val) 0 5), io := BitVec.ofNat 5 (fld b (32 + 4 * q.val) 8 5)
           en := fld b (32 + 4 * q.val) 16 1 = 1 }

/-- A group whose pins get the offsets of a block (R125, R488). -/
def Group.skewed (b : Words) (x : Group) : Group :=
  let offset (q : Fin 8) (i : Fin 4) : Int := signedOf 16 (fld b (40 + 8 * q.val + 2 * i.val) 0 16)
  { x with pins := Vector.ofFn fun q : Fin 8 => { x.pins[q.val] with offsets := Vector.ofFn (offset q) } }

section
variable {s : State} {p : Pkt}

/-- A command whose effect is a change of one group. -/
theorem fetch_setsGroup {d : CmdDef} (h : Accepted d p s) {g : Fin 16} {f : Group → Group}
    (ha : d.act (begunJob d p) (begun d p s) = .done ((begun d p s).modGroup g f) []) :
    ∃ t, d.fetch p s = t ∧ Completed d p s t [] ∧ OneGroup s t g ∧
      t = { s with queen := t.queen, hif := t.hif, groups := t.groups } ∧ t.groups[g.val] = f s.groups[g.val] := by
  obtain ⟨q, hx, hc⟩ := fetch_ends h ha rfl rfl
  exact ⟨_, hx, hc, fun i hi => modGroup_get_ne s hi f, rfl, modGroup_get s g f⟩

theorem timTimingSet_act : cmdTimTimingSet.act (begunJob cmdTimTimingSet p) (begun cmdTimTimingSet p s) =
    .done ((begun cmdTimTimingSet p s).modGroup (Pkt.group p) (Group.withTiming (applied cmdTimTimingSet p))) [] := rfl

/-! Site maps (R161). -/

theorem siteMap_args (p : Pkt) : (begunJob cmdTimSiteMap p).args = p.block :=
  begunJob_args (by
    intro f hf v
    obtain ⟨q, -, hq⟩ := List.mem_flatMap.mp hf
    fin_cases hq <;> rfl)

theorem timSiteMap_act : cmdTimSiteMap.act (begunJob cmdTimSiteMap p) (begun cmdTimSiteMap p s) =
    .done ((begun cmdTimSiteMap p s).modGroup (Pkt.group p) fun x =>
      { x with pins := Vector.ofFn fun q : Fin 8 => x.pins[q.val].mapped p.block q }) [] := by
  rw [← siteMap_args]
  rfl

/-! Skew and calibration (R124, R125, R488). -/

/-- Set mode: the named group's pins get their offsets. -/
theorem timDeskew_sets {h : Fin 16} (hset : fld (applied cmdTimDeskew p) 32 0 1 = 1)
    (hg : groupsOf (fld (applied cmdTimDeskew p) 36 0 16) = [h]) :
    cmdTimDeskew.act (begunJob cmdTimDeskew p) (begun cmdTimDeskew p s) =
      .done ((begun cmdTimDeskew p s).modGroup h (Group.skewed (applied cmdTimDeskew p))) [] := by
  show deskewAct _ _ = _
  have hargs : (begunJob cmdTimDeskew p).args = applied cmdTimDeskew p := rfl
  simp only [deskewAct, hargs, hset, hg, if_true]
  rfl

/-- In calibrate mode no field is ever clamped. -/
theorem deskew_args (h : param p 32 0 1 = 0) : (begunJob cmdTimDeskew p).args = p.block :=
  begunJob_args (by
    intro f hf v
    have hl : cmdTimDeskew.fields p = [⟨0, 32, 0, 1, .any⟩, ⟨1, 36, 0, 16, .names (· != 0)⟩] := by
      show deskewFields p = _
      have h : ¬ fld p.block 32 0 1 = 1 := by
        rw [show fld p.block 32 0 1 = 0 from h]
        decide
      rw [deskewFields, if_neg h, List.append_nil]
    rw [hl] at hf
    fin_cases hf <;> rfl)

/-- Calibrate mode: the command joins those that wait for a measurement. -/
theorem timDeskew_calibrates (h : param p 32 0 1 = 0) : cmdTimDeskew.act (begunJob cmdTimDeskew p) (begun cmdTimDeskew p s) =
    .stay { begun cmdTimDeskew p s with queen :=
      { (begun cmdTimDeskew p s).queen with cal := (begun cmdTimDeskew p s).queen.cal ++ [(⟨.pcie, p.tag⟩, 0)] } } := by
  have hn : ¬ fld (begunJob cmdTimDeskew p).args 32 0 1 = 1 := by
    rw [deskew_args h, show fld p.block 32 0 1 = 0 from h]
    decide
  show deskewAct _ _ = _
  rw [deskewAct, if_neg hn]
  rfl

end

/-- A group with the measured corrections and their temperature (R124, R488). -/
def Group.calibrated (x : CalResult) (y : Group) : Group :=
  { y with
    calValid := true, calTemp := x.temp
    pins := Vector.ofFn fun p : Fin 8 => { y.pins[p.val] with corr := Vector.ofFn fun i : Fin 4 => x.corr.getD (4 * p.val + i.val) 0 } }

section
variable {s : State} {r : List CalResult} {x : CalResult} {disturbed : BitVec 4} {g : Fin 16} (hr : r.find? (fun x => x.group = g) = some x)
include hr

theorem storeCal_stores (hd : disturbed.getLsbD (groupDie g).val = false) (hf : s.net.dies[(groupDie g).val].fenced = false) :
    s.storeCal disturbed r g = (s.modGroup g (Group.calibrated x), calWords x.temp true x.corr) := by
  simp only [State.storeCal, hr, hd, hf, Bool.or_self, Bool.false_eq_true, if_false]
  rfl

theorem storeCal_fenced (hf : s.net.dies[(groupDie g).val].fenced = true) :
    s.storeCal disturbed r g = (s, calWords x.temp false []) := by
  simp only [State.storeCal, hr, hf, Bool.or_true, if_true]

end

/-- The end of a calibration of one group: what its measurement stored, and the reply. -/
theorem exec_calibrationEnd {s u : State} {r : List CalResult} {k : JobKey} {disturbed : BitVec 4} {rest : List (JobKey × BitVec 4)}
    {j : Job} {g : Fin 16} {ws : Words} (hq : s.queen.cal = (k, disturbed) :: rest) (hj : s.job? k = some j)
    (hg : groupsOf (fld j.args 36 0 16) = [g])
    (hs : ({ s with queen := { s.queen with cal := rest } } : State).storeCal disturbed r g = (u, ws)) :
    exec (.calibrationEnd r) s = .next (u.commitDone j ws) := by
  have hj : ({ s with queen := { s.queen with cal := rest } } : State).job? k = some j := hj
  show execCalibrationEnd r s = _
  simp only [execCalibrationEnd, hq, hj, hg, List.foldl_cons, List.foldl_nil, hs, List.nil_append]

/-- Settles O25: each command by its effect, the end of a calibration by what became of the group's measurement. -/
theorem timingCommands : Obligations.TimingCommands := by
  refine ⟨fun s p => ⟨fun h => ?timing, fun h => ?sites, fun h _ g hg hset => ?offsets, fun h hc => ?calibrate⟩,
    fun s r k disturbed rest j g hq hj he hk hg => ?ends⟩
  case timing =>
    obtain ⟨t, hx, hc, hone, hrest, ht⟩ := fetch_setsGroup h timTimingSet_act
    refine ⟨t, congrArg Host.Outcome.next hx, hc, hone, hrest, fun i => ?_, fun hw => ?_, fun hw => ?_⟩ <;> rw [ht]
    · exact withTiming_sets _ _ i
    · exact withTiming_control hw _
    · exact withTiming_noControl hw _
  case sites =>
    obtain ⟨t, hx, hc, hone, hrest, ht⟩ := fetch_setsGroup h timSiteMap_act
    refine ⟨t, congrArg Host.Outcome.next hx, hc, hrest, hone, fun q => ?_⟩
    rw [ht]
    exact Vector.getElem_ofFn q.isLt
  case offsets =>
    obtain ⟨t, hx, hc, hone, hrest, ht⟩ := fetch_setsGroup h (timDeskew_sets hset hg)
    refine ⟨t, congrArg Host.Outcome.next hx, hc, hone, hrest, fun q i => ?_⟩
    rw [ht]
    simp [Group.skewed]
  case calibrate =>
    have hx := fetch_stay h (timDeskew_calibrates hc)
    obtain ⟨hjob, hreplies, hring⟩ := stillRuns_of h (u := begun cmdTimDeskew p s) rfl rfl
    exact ⟨_, congrArg Host.Outcome.next hx, ⟨hjob, hreplies, hring⟩, rfl, rfl⟩
  case ends =>
    have ended (u : State) (ws : Words) (hu : u.queen = { s.queen with cal := rest }) : EndedDone j s (u.commitDone j ws) ws ∧
        u.commitDone j ws = { u with queen := { s.queen with cal := rest, jobs := (u.commitDone j ws).queen.jobs
                                                             replies := (u.commitDone j ws).queen.replies } } := by
      have ha : u.abortAsked j.key = false := by
        rw [State.abortAsked, hu]
        exact he.calm
      refine ⟨commitDone_ended he.path he.kept ha (by rw [hu]) (by rw [hu]) ws, ?_⟩
      rw [State.commitDone, commitRaw_pcie _ _ _ _ he.path he.kept ha, hu]
    refine ⟨fun x hr hd hf => ?_, fun x hr hf => ?_⟩
    · have hx := exec_calibrationEnd hq hj hg (storeCal_stores hr hd hf)
      obtain ⟨hend, hraw⟩ := ended (({ s with queen := { s.queen with cal := rest } } : State).modGroup g (Group.calibrated x))
        (calWords x.temp true x.corr) rfl
      have ht := modGroup_get ({ s with queen := { s.queen with cal := rest } } : State) g (Group.calibrated x)
      refine ⟨_, hx, hend, by rw [hraw], fun i hi => ?_, ?_, ?_, fun q i => ?_⟩ <;> rw [hraw]
      · exact modGroup_get_ne _ hi _
      · exact congrArg Group.calValid ht
      · exact congrArg Group.calTemp ht
      · dsimp only
        rw [ht]
        simp [Group.calibrated]
    · have hx := exec_calibrationEnd hq hj hg (storeCal_fenced hr hf)
      obtain ⟨hend, hraw⟩ := ended { s with queen := { s.queen with cal := rest } } (calWords x.temp false []) rfl
      exact ⟨_, hx, hend, by rw [hraw]⟩

end Sys2Proof.Machine
end

section
/-! SUPPORT. A play of an entry (spec/04_timing_and_vectors.md, R93 to R105, R114): what the pins' queues gain, and what becomes of the
group. -/

namespace Sys2Proof.Machine

/-! What a pin's queues gain from one cycle (R101, R102, R105). -/

/-- A pin whose queues may have gained at their ends, its skew as it was. -/
structure Pin.Grows (q r : Pin) : Prop where
  txq     : q.fmt.txq <+: r.fmt.txq
  txeq    : q.fmt.txeq <+: r.fmt.txeq
  strobes : q.fmt.strobes <+: r.fmt.strobes
  offsets : r.offsets = q.offsets

theorem Pin.Grows.refl (q : Pin) : q.Grows q := ⟨List.prefix_rfl, List.prefix_rfl, List.prefix_rfl, rfl⟩

theorem Pin.Grows.trans {q r u : Pin} (h : q.Grows r) (k : r.Grows u) : q.Grows u :=
  ⟨h.txq.trans k.txq, h.txeq.trans k.txeq, h.strobes.trans k.strobes, k.offsets.trans h.offsets⟩

section
variable (q : Pin) (t : TimingSet) (p : Nat) {code : Nat} (start : Int) (cycle : Nat) (word : Option (Nat × Nat))

theorem addCycle_grows (code : Nat) : q.Grows (q.addCycle t p code start cycle word) where
  txq := by
    simp only [Pin.addCycle, List.append_assoc]
    exact List.prefix_append _ _
  txeq := List.prefix_append _ _
  strobes := by
    simp only [Pin.addCycle]
    split
    · exact List.prefix_append _ _
    · exact List.prefix_rfl
  offsets := rfl

theorem addCycle_drives {v : Bool} (h : (codeActs code).2.1 = some v) :
    (⟨start + t.edge p 0 + q.offsets[0], v, cycle, false⟩ : Trans) ∈ (q.addCycle t p code start cycle word).fmt.txq := by
  simp [Pin.addCycle, h, at?_lt]

theorem addCycle_returns {v : Bool} (h : (codeActs code).2.2.1 = some v) :
    (⟨start + t.edge p 2 + q.offsets[0], v, cycle, true⟩ : Trans) ∈ (q.addCycle t p code start cycle word).fmt.txq := by
  simp [Pin.addCycle, h, at?_lt]

theorem addCycle_enables {v : Bool} (h : (codeActs code).1 = some v) :
    (⟨start + t.edge p 1 + q.offsets[1], v, cycle, false⟩ : Trans) ∈ (q.addCycle t p code start cycle word).fmt.txeq := by
  simp [Pin.addCycle, h, at?_lt]

/-- An edge compare: each comparator at its own time. -/
theorem addCycle_compares (h : (codeActs code).2.2.2 = true) (hw : isWindow code = false) :
    (⟨BitVec.ofNat 4 code, if usesRxl code then none else some (start + t.edge p 3 + q.offsets[2]),
      if usesRxl code || code = 10 then some (start + t.edge p 3 + q.offsets[3]) else none,
      start + t.edge p 3 + (if usesRxl code then q.offsets[3] else q.offsets[2]), false, cycle, word, none⟩ : Compare) ∈
      (q.addCycle t p code start cycle word).fmt.strobes := by
  simp [Pin.addCycle, h, at?_lt, compareOf, lastSample, hw]

end

/-! What they gain from the cycles of a play. -/

section
variable (x : Group) (t : TimingSet) (codes : Nat → List (Nat × Bool)) (b : Int) (first : Nat) (word : Option (Nat × Nat)) (p : Fin 8)

/-- The pins behind a cycle of the play. -/
def layCycle (c : Nat) (pins : Vector Pin 8) : Vector Pin 8 := Vector.ofFn fun p : Fin 8 =>
  (pins[p.val]).addCycle t p.val ((codes c).getD p.val (3, false)).1 (b + c * t.periodTu) (first + c) word

theorem addCycles_succ (k c : Nat) (pins : Vector Pin 8) : x.addCycles t codes b first word (k + 1) c pins =
    x.addCycles t codes b first word k (c + 1) (layCycle t codes b first word c pins) := rfl

theorem layCycle_get (c : Nat) (pins : Vector Pin 8) : (layCycle t codes b first word c pins)[p.val] =
    (pins[p.val]).addCycle t p.val ((codes c).getD p.val (3, false)).1 (b + c * t.periodTu) (first + c) word := Vector.getElem_ofFn p.isLt

theorem addCycles_grows (k c : Nat) (pins : Vector Pin 8) : pins[p.val].Grows (x.addCycles t codes b first word k c pins)[p.val] := by
  induction k generalizing c pins with
  | zero => exact .refl _
  | succ k ih =>
    refine .trans ?_ (ih (c + 1) (layCycle t codes b first word c pins))
    rw [layCycle_get]
    exact addCycle_grows _ _ _ _ _ _ _

/-- A cycle of the play is laid down on what those before it have left, and those behind it leave it standing. -/
theorem addCycles_cycle {i : Nat} (k c : Nat) (pins : Vector Pin 8) (hc : c ≤ i) (hi : i < c + k) : ∃ q : Pin, q.offsets = pins[p.val].offsets ∧
    (q.addCycle t p.val ((codes i).getD p.val (3, false)).1 (b + i * t.periodTu) (first + i) word).Grows
      (x.addCycles t codes b first word k c pins)[p.val] := by
  induction k generalizing c pins with
  | zero => omega
  | succ k ih =>
    rw [addCycles_succ]
    by_cases h : i = c
    · subst h
      exact ⟨pins[p.val], rfl, layCycle_get t codes b first word p i pins ▸ addCycles_grows x t codes b first word p k (i + 1) _⟩
    · obtain ⟨q, hq, hg⟩ := ih (c + 1) (layCycle t codes b first word c pins) (by omega) (by omega)
      rw [layCycle_get] at hq
      exact ⟨q, hq, hg⟩

end

/-! A play begins (R114). -/

/-- The codes of the eight pins in a cycle of the play that starts at the group's next boundary. -/
def Group.playCodes (x : Group) (e : Entry) (c : Nat) : List (Nat × Bool) :=
  x.codes (x.sets[e.set.val]).fast e.word (if x.tapEn then x.run.tapGot.head? else none) c

theorem playCodes_pin (x : Group) (e : Entry) (c : Nat) (p : Fin 8) : ((x.playCodes e c).getD p.val (3, false)).1 = playedCode x e c p := by
  simp [Group.playCodes, Group.codes, playedCode, List.getD]

/-- What a play makes of its group, an entry's first or another. -/
structure PlayBegun (x y : Group) (e : Entry) (fresh : Bool) : Prop where
  st        : y.st = .playing
  cur       : y.run.cur = some e
  plays     : y.run.plays = if fresh then 1 else x.run.plays + 1
  fifo      : y.run.fifo = if fresh then x.run.fifo.drop 1 else x.run.fifo
  nextAt    : y.run.nextAt = x.run.nextAt + (x.sets[e.set.val]).cycles * (x.sets[e.set.val]).periodTu
  nextCycle : y.run.nextCycle = x.run.nextCycle + (x.sets[e.set.val]).cycles
  cycle     : y.cycle = BitVec.ofNat 48 x.run.nextCycle + BitVec.ofNat 48 ((x.sets[e.set.val]).cycles - 1)
  pins      : ∃ z : Group, y.pins = z.addCycles x.sets[e.set.val] (x.playCodes e) x.run.nextAt x.run.nextCycle
    (e.match_.map fun i => (i, x.run.nextCycle)) (x.sets[e.set.val]).cycles 0 x.pins

/-- The state behind a play begun, with line 2 where an entry has left the FIFO at the low-water mark. -/
def State.withPlay (s : State) (g : Fin 16) (y : Group) (fresh : Bool) : State :=
  if fresh && decide (y.run.fifo.length ≤ s.workers[(groupWorker g).val].opView.lowat.toNat) then
    (s.modGroup g fun _ => y).pendLine (groupWorker g) 2
  else s.modGroup g fun _ => y

theorem withPlay_group (s : State) (g : Fin 16) (y : Group) (fresh : Bool) : (s.withPlay g y fresh).groups[g.val] = y := by
  unfold State.withPlay
  split <;> exact modGroup_get s g _

theorem beginPlay_begins (s : State) (g : Fin 16) (e : Entry) (fresh : Bool) :
    ∃ y, s.beginPlay g e fresh = s.withPlay g y fresh ∧ PlayBegun s.groups[g.val] (s.withPlay g y fresh).groups[g.val] e fresh := by
  refine ⟨_, rfl, ?_⟩
  rw [withPlay_group]
  exact ⟨rfl, rfl, rfl, rfl, rfl, rfl, rfl, s.groups[g.val].settleBad s.nowTu, rfl⟩

theorem withPlay_others (s : State) (g : Fin 16) (y : Group) (fresh : Bool) : OneGroup s (s.withPlay g y fresh) g := by
  intro h hh
  unfold State.withPlay
  split <;> exact modGroup_get_ne s hh _

theorem withPlay_rest (s : State) (g : Fin 16) (y : Group) (fresh : Bool) :
    s.withPlay g y fresh = { s with groups := (s.withPlay g y fresh).groups, workers := (s.withPlay g y fresh).workers } := by
  unfold State.withPlay
  split <;> rfl

theorem withPlay_again (s : State) (g : Fin 16) (y : Group) : (s.withPlay g y false).workers = s.workers := rfl

/-- An entry that leaves the FIFO sets line 2 pending at the low-water mark, and nothing else of its Worker changes. -/
theorem withPlay_worker (s : State) (g : Fin 16) (y : Group) : (s.withPlay g y true).workers[(groupWorker g).val] =
    { s.workers[(groupWorker g).val] with regs := { s.workers[(groupWorker g).val].regs with
      wipend := if y.run.fifo.length ≤ s.workers[(groupWorker g).val].opView.lowat.toNat
        then s.workers[(groupWorker g).val].regs.wipend ||| 4 else s.workers[(groupWorker g).val].regs.wipend } } := by
  unfold State.withPlay
  by_cases h : y.run.fifo.length ≤ s.workers[(groupWorker g).val].opView.lowat.toNat
  · rw [if_pos (by simpa using h), if_pos h, State.pendLine, modWorker_get]
    rfl
  · rw [if_neg (by simpa using h), if_neg h]
    rfl

section
variable {x y : Group} {e : Entry} {fresh : Bool} (h : PlayBegun x y e fresh)
include h

/-- What stands in a pin's queues behind a play, cycle by cycle, and the times at which it falls. -/
theorem PlayBegun.laid (p : Fin 8) {c : Nat} (hc : c < (x.sets[e.set.val]).cycles) : ∃ q : Pin,
    (∀ edge o : Fin 4, x.run.nextAt + c * (x.sets[e.set.val]).periodTu + (x.sets[e.set.val]).edge p.val edge.val + q.offsets[o.val] =
      edgeTime x e c p edge o) ∧
    (q.addCycle x.sets[e.set.val] p.val (playedCode x e c p) (x.run.nextAt + c * (x.sets[e.set.val]).periodTu) (x.run.nextCycle + c)
      (e.match_.map fun i => (i, x.run.nextCycle))).Grows y.pins[p.val] := by
  obtain ⟨z, hz⟩ := h.pins
  obtain ⟨q, hq, hg⟩ := addCycles_cycle z x.sets[e.set.val] (x.playCodes e) x.run.nextAt x.run.nextCycle
    (e.match_.map fun i => (i, x.run.nextCycle)) p (x.sets[e.set.val]).cycles 0 x.pins (Nat.zero_le c) (by omega)
  rw [← hz, playCodes_pin] at hg
  exact ⟨q, fun edge o => by rw [hq, edgeTime], hg⟩

theorem PlayBegun.grows (p : Fin 8) : x.pins[p.val].Grows y.pins[p.val] := by
  obtain ⟨z, hz⟩ := h.pins
  rw [hz]
  exact addCycles_grows _ _ _ _ _ _ p _ _ _

/-- The number of the last cycle. -/
theorem PlayBegun.lastCycle : y.cycle = BitVec.ofNat 48 (x.run.nextCycle + (x.sets[e.set.val]).cycles - 1) := by
  have hn : 1 ≤ (x.sets[e.set.val]).cycles := by
    unfold TimingSet.cycles
    split <;> decide
  rw [h.cycle, ← BitVec.ofNat_add, Nat.add_sub_assoc hn]

theorem PlayBegun.compares {p : Fin 8} {c : Nat} (hc : c < (x.sets[e.set.val]).cycles) (hv : (codeActs (playedCode x e c p)).2.2.2 = true)
    (hw : isWindow (playedCode x e c p) = false) :
    (⟨BitVec.ofNat 4 (playedCode x e c p), if usesRxl (playedCode x e c p) then none else some (edgeTime x e c p 3 2),
      if usesRxl (playedCode x e c p) || playedCode x e c p = 10 then some (edgeTime x e c p 3 3) else none,
      edgeTime x e c p 3 (if usesRxl (playedCode x e c p) then 3 else 2), false, x.run.nextCycle + c,
      e.match_.map (fun i => (i, x.run.nextCycle)), none⟩ : Compare) ∈ y.pins[p.val].fmt.strobes := by
  obtain ⟨q, ht, hg⟩ := h.laid p hc
  rw [← ht, ← ht, ← ht]
  refine hg.strobes.subset ?_
  have hm := addCycle_compares q x.sets[e.set.val] p.val (x.run.nextAt + c * (x.sets[e.set.val]).periodTu) (x.run.nextCycle + c)
    (e.match_.map fun i => (i, x.run.nextCycle)) hv hw
  cases hu : usesRxl (playedCode x e c p) <;> rw [hu] at hm <;> exact hm

end

/-- A play begun is what `Played` says. -/
theorem PlayBegun.played {s t : State} {g : Fin 16} {e : Entry} {fresh : Bool} (h : PlayBegun s.groups[g.val] t.groups[g.val] e fresh)
    (ho : OneGroup s t g) (hr : t = { s with groups := t.groups, workers := t.workers }) : Played s t g e := by
  refine ⟨h.st, h.cur, h.nextAt, h.nextCycle, h.lastCycle, fun p c v hc hv => ?drives, fun p c v hc hv => ?returns,
    fun p c v hc hv => ?enables, fun p c hc hv hw => h.compares hc hv hw,
    fun p => ⟨(h.grows p).txq, (h.grows p).txeq, (h.grows p).strobes⟩, ho, hr⟩ <;> obtain ⟨q, ht, hg⟩ := h.laid p hc <;> rw [← ht]
  case drives => exact hg.txq.subset (addCycle_drives q _ _ _ _ _ hv)
  case returns => exact hg.txq.subset (addCycle_returns q _ _ _ _ _ hv)
  case enables => exact hg.txeq.subset (addCycle_enables q _ _ _ _ _ hv)

end Sys2Proof.Machine
end

section
/-! SUPPORT. The start of a group, plays without a gap, and underruns (spec/04_timing_and_vectors.md, R114 to R116, R119, R120). -/

namespace Sys2Proof.Machine

/-! The start strobe (R115). -/

/-- An armed group that learns its t0; another group stays as it was. -/
def Group.learns (t0 : Nat) (x : Group) : Group :=
  if x.st != .armed then x else { x with run := { x.run with strobed := true, t0 := (t0 : Nat), nextAt := (t0 : Nat) } }

/-- The groups of a start learn their t0, the first of them that of rank `k`. -/
def State.teach (t ramp : Nat) (l : List (Fin 16 × Nat)) (s : State) : State :=
  l.foldl (fun s e => s.modGroup e.1 (Group.learns ((t + e.2 * ramp) * 256))) s

theorem teach_rest (t ramp : Nat) (l : List (Fin 16 × Nat)) (s : State) : s.teach t ramp l = { s with groups := (s.teach t ramp l).groups } := by
  induction l generalizing s with
  | nil => rfl
  | cons e l ih => exact ih _

theorem teach_others {t ramp : Nat} {g : Fin 16} (l : List (Fin 16)) (k : Nat) (s : State) (hg : g ∉ l) :
    (s.teach t ramp (l.zipIdx k)).groups[g.val] = s.groups[g.val] := by
  induction l generalizing s k with
  | nil => rfl
  | cons h l ih =>
    obtain ⟨hh, hl⟩ := not_or.mp (List.mem_cons.not.mp hg)
    exact (ih (k + 1) _ hl).trans (modGroup_get_ne s hh _)

/-- Each group of the list learns its t0 by its rank. -/
theorem teach_ranked {t ramp : Nat} (l : List (Fin 16)) (k : Nat) (s : State) (hl : l.Nodup) (i : Nat) (hi : i < l.length) :
    (s.teach t ramp (l.zipIdx k)).groups[(l[i]).val] = s.groups[(l[i]).val].learns ((t + (k + i) * ramp) * 256) := by
  induction l generalizing s k i with
  | nil => exact absurd hi (Nat.not_lt_zero i)
  | cons h l ih =>
    obtain ⟨hh, hl⟩ := List.nodup_cons.mp hl
    cases i with
    | zero => exact (teach_others l (k + 1) _ hh).trans (modGroup_get s h _)
    | succ i =>
      have hi : i < l.length := Nat.lt_of_succ_lt_succ hi
      have hne : l[i] ≠ h := fun he => hh (he ▸ List.getElem_mem hi)
      refine (ih (k + 1) _ hl i hi).trans ?_
      rw [modGroup_get_ne s hne, Nat.add_assoc, Nat.add_comm 1 i]
      rfl

/-- The strobe of a start is launched. -/
def State.launched (s : State) (k : JobKey) : State :=
  { s with starts := s.starts.map fun (y : Start) => if sameKey y.key k then { y with strobed := true } else y }

section
variable {s : State} {k : JobKey} {x : Start} (hx : s.starts.find? (fun y => sameKey y.key k && !y.strobed) = some x)
include hx

theorem exec_startStrobe_waits (ht : x.tick = none) : exec (.startStrobe k) s = .next (s.launched k) := by
  show execStartStrobe k s = _
  simp only [execStartStrobe, hx, ht]
  rfl

theorem exec_startStrobe_teaches {t : Nat} (ht : x.tick = some t) :
    exec (.startStrobe k) s = .next ((s.launched k).teach t x.ramp x.groups.zipIdx) := by
  show execStartStrobe k s = _
  simp only [execStartStrobe, hx, ht]
  rfl

end

/-! Underruns (R119, R120). -/

/-- The event of a group that underruns. -/
def underrunEv (g : Fin 16) : Fin 256 := dieEvent (groupDie g) ⟨20 + g.val % 4, by omega⟩

/-- A group that has begun to underrun. -/
def Group.underruns (x : Group) : Group :=
  { x with st := .underrun, underrunSeen := true, run := { x.run with underAt := x.run.underAt <|> some x.run.nextCycle } }

/-- A group whose next cycle is an idle one of its last timing set. -/
def Group.Idled (x y : Group) : Prop := y.st = .underrun ∧ y.idle = x.idle + 1 ∧ y.cycle = BitVec.ofNat 48 x.run.nextCycle ∧
  y.run.nextCycle = x.run.nextCycle + 1 ∧ y.run.nextAt = x.run.nextAt + (x.sets[x.run.lastSet.val]).periodTu

theorem idleCycle_idles {x : Group} (h : x.st = .underrun) : x.Idled x.idleCycle := ⟨h, rfl, rfl, rfl, rfl⟩

theorem underruns_idles (x : Group) : x.Idled x.underruns.idleCycle := ⟨rfl, rfl, rfl, rfl, rfl⟩

section
variable {s : State} {g : Fin 16}

/-- Idle cycles follow the event of an underrun. -/
theorem beginUnderrun_idles (h : s.groups[g.val].underrunStop = false) : ∃ e,
    s.beginUnderrun g = { s.modGroup g (Group.idleCycle ∘ Group.underruns) with ev := e } ∧ Raised s (s.beginUnderrun g) (underrunEv g) := by
  obtain ⟨det, hx⟩ : ∃ det, s.beginUnderrun g = ((s.modGroup g Group.underruns).raise (underrunEv g) 3 g.val det).modGroup g Group.idleCycle := by
    simp only [State.beginUnderrun, h, Bool.false_eq_true, if_false]
    exact ⟨_, rfl⟩
  refine ⟨((s.modGroup g Group.underruns).raise (underrunEv g) 3 g.val det).ev, ?_, ?_⟩
  · rw [hx, ← modGroup_twice, State.raise_rest]
    rfl
  · obtain ⟨ha, hc, hl⟩ := State.raise_raised (s := s) (t := s.modGroup g Group.underruns) rfl (underrunEv g) 3 g.val det
    rw [hx]
    exact ⟨ha, hc, hl⟩

/-- The Worker of the group stops where its control asks for that. -/
theorem beginUnderrun_stops (h : s.groups[g.val].underrunStop = true) (hw : s.workers[(groupWorker g).val].active = true) : ∃ det,
    s.beginUnderrun g = ((s.modGroup g Group.underruns).raise (underrunEv g) 3 g.val det).stopWorker (groupWorker g) 4 := by
  simp only [State.beginUnderrun, h, if_true, State.raiseDie, State.raise_workers, State.modGroup_workers, hw]
  exact ⟨_, rfl⟩

end

theorem workerGroup_groupWorker (g : Fin 16) : workerGroup (groupWorker g) = some g := by
  revert g
  decide

/-- A stop in an underrun completes the test cycle (R122). -/
theorem stop_underrun {x : Group} (h : x.st = .underrun) (now : Int) : (x.stop now).run.stopping = true := by
  have hu : (x.unhalt now).st = .playing ∨ (x.unhalt now).st = .underrun := by
    unfold Group.unhalt
    split
    · exact .inr h
    · dsimp only
      split
      · exact .inr rfl
      · exact .inl rfl
  unfold Group.stop
  rcases hu with hu | hu <;> simp only [hu]

/-! The start of a group (R115, R116). -/

/-- A group at its t0. -/
def Group.atT0 (x : Group) : Group := { x with run := { x.run with t0 := x.run.t0, nextAt := x.run.t0, heldStrobe := false } }

/-- A Worker whose group has started. -/
def Worker.groupStarted (k : Worker) : Worker := { k with started := true }

/-- The state in which a group plays its first entry, or underruns. -/
def State.atT0 (s : State) (g : Fin 16) : State := (s.modGroup g Group.atT0).modWorker (groupWorker g) Worker.groupStarted

section
variable {s : State} {g : Fin 16}

theorem atT0_group (s : State) (g : Fin 16) : (s.atT0 g).groups[g.val] = s.groups[g.val].atT0 := modGroup_get s g _

section
variable (ha : s.groupAlive g = true) (hst : s.groups[g.val].st = .armed) (hs : s.groups[g.val].run.strobed = true)
include ha hst hs

theorem exec_groupStart_holds (hw : s.workers[(groupWorker g).val].st = .halted) :
    exec (.groupStart g) s = .next (s.modGroup g fun x => { x with run := { x.run with heldStrobe := true } }) := by
  show execGroupStart g s = _
  simp [execGroupStart, ha, hst, hs, hw]

theorem exec_groupStart_starts (hw : s.workers[(groupWorker g).val].st ≠ .halted) :
    exec (.groupStart g) s = .next (s.startGroup g s.groups[g.val].run.t0) := by
  show execGroupStart g s = _
  simp [execGroupStart, ha, hst, hs, hw]

end

theorem startGroup_eq (s : State) (g : Fin 16) : s.startGroup g s.groups[g.val].run.t0 =
    match s.groups[g.val].atT0.run.head with
    | .fresh e => if s.groups[g.val].atT0.tapReady then (s.atT0 g).beginPlay g e true else s.modGroup g Group.atT0
    | _ => (s.atT0 g).beginUnderrun g := by
  simp only [State.startGroup, modGroup_get]
  rfl

theorem startGroup_plays {e : Entry} {rest : List Entry} (hf : s.groups[g.val].run.fifo = e :: rest) (he : e.ready ≤ s.groups[g.val].run.t0)
    (ht : s.groups[g.val].tapReady = true) : s.startGroup g s.groups[g.val].run.t0 = (s.atT0 g).beginPlay g e true := by
  have hh : s.groups[g.val].atT0.run.head = .fresh e := by simp [Group.atT0, Run.head, hf, he]
  have ht : s.groups[g.val].atT0.tapReady = true := ht
  rw [startGroup_eq, hh]
  exact if_pos ht

theorem startGroup_underruns (hf : s.groups[g.val].run.fifo = []) :
    s.startGroup g s.groups[g.val].run.t0 = (s.atT0 g).beginUnderrun g := by
  have hh : s.groups[g.val].atT0.run.head = .none_ := by simp [Group.atT0, Run.head, hf]
  rw [startGroup_eq, hh]

end

/-- Settles O13: the strobe by the ranks of its groups, the start of a group by its Worker and its first entry. -/
theorem groupsStart : Obligations.GroupsStart := by
  refine ⟨?strobe, ?start⟩
  case strobe =>
    intro s k x hx launched
    refine ⟨exec_startStrobe_waits hx, fun n hn hl => ⟨_, exec_startStrobe_teaches hx hn, teach_rest _ _ _ _, fun i h hst => ?_, fun g hg => ?_⟩⟩
    · refine (teach_ranked x.groups 0 _ hl i h).trans ?_
      have hst : ((s.launched k).groups[(x.groups[i]).val].st != .armed) = false := by simp [State.launched, hst]
      rw [Group.learns, if_neg (Bool.eq_false_iff.mp hst), Nat.zero_add]
      rfl
    · exact teach_others x.groups 0 _ hg
  case start =>
    intro s g ha hst hs x w at_
    refine ⟨exec_groupStart_holds ha hst hs, fun e rest hw _ hf he ht => ?plays, fun hw hf hu => ?underruns⟩
    case plays =>
      obtain ⟨y, hx, hy⟩ := beginPlay_begins (s.atT0 g) g e true
      have hwk := withPlay_worker (s.atT0 g) g y
      refine ⟨(s.atT0 g).withPlay g y true, ?_, PlayBegun.played (fresh := true) ?_ (fun i hi => ?_) ?_, ?_, hy.plays, ?_⟩
      · rw [exec_groupStart_starts ha hst hs hw, startGroup_plays hf he ht, hx]
      · have hat : at_.groups[g.val] = { s.groups[g.val] with run := { s.groups[g.val].run with nextAt := s.groups[g.val].run.t0 } } :=
          modGroup_get s g _
        rw [atT0_group] at hy
        rw [hat]
        exact ⟨hy.st, hy.cur, hy.plays, hy.fifo, hy.nextAt, hy.nextCycle, hy.cycle, hy.pins⟩
      · rw [withPlay_others _ g y true i hi]
        exact (modGroup_get_ne s hi _).trans (modGroup_get_ne s hi _).symm
      · rw [withPlay_rest]
        rfl
      · rw [hy.fifo, atT0_group]
        exact congrArg (List.drop 1) hf
      · rw [hwk]
        exact congrArg Worker.started (modWorker_get _ _ _)
    case underruns =>
      have hu : (s.atT0 g).groups[g.val].underrunStop = false := by
        rw [atT0_group]
        exact hu
      obtain ⟨ev, hx, hr⟩ := beginUnderrun_idles hu
      have hg := modGroup_get (s.atT0 g) g (Group.idleCycle ∘ Group.underruns)
      rw [atT0_group] at hg
      refine ⟨(s.atT0 g).beginUnderrun g, ?_, ?_, ?_, ?_, hr.active, hr.count, hr.latch⟩
      · rw [exec_groupStart_starts ha hst hs hw, startGroup_underruns hf]
      · rw [hx]
        exact congrArg Group.st hg
      · rw [hx]
        exact congrArg Group.idle hg
      · rw [hx]
        exact congrArg Worker.started (modWorker_get _ _ _)

/-! The next play (R114). -/

section
variable {s : State} {g : Fin 16} {e : Entry}

theorem next_again {r : Run} (hc : r.cur = some e) (hm : e.match_ = none) (hp : r.plays < e.plays) : r.next = .again e := by
  simp [Run.next, hc, Run.decided, hm, hp]

theorem next_fresh {r : Run} {d : Entry} {rest : List Entry} (hf : r.fifo = e :: rest) (hc : r.cur = some d) (hm : d.match_ = none)
    (hp : d.plays ≤ r.plays) (he : e.ready ≤ r.nextAt) : r.next = .fresh e := by
  simp [Run.next, hc, Run.decided, hm, Nat.not_lt.mpr hp, Run.head, hf, he]

section
variable (hst : s.groups[g.val].st = .playing ∨ s.groups[g.val].st = .underrun) (ha : s.groupAlive g = true)
  (hs : s.groups[g.val].run.stopping = false) (he : s.groups[g.val].run.ending = false) (ht : s.groups[g.val].tapReady = true)
include hst ha hs he ht

theorem exec_play_again (hn : s.groups[g.val].run.next = .again e) : exec (.play g) s = .next (s.beginPlay g e false) := by
  show execPlay g s = _
  rcases hst with hst | hst <;> simp [execPlay, ha, hst, hs, he, ht, hn]

theorem exec_play_fresh (hn : s.groups[g.val].run.next = .fresh e) : exec (.play g) s = .next (s.beginPlay g e true) := by
  show execPlay g s = _
  rcases hst with hst | hst <;> simp [execPlay, ha, hst, hs, he, ht, hn]

end

section
variable (ha : s.groupAlive g = true) (hs : s.groups[g.val].run.stopping = false) (he : s.groups[g.val].run.ending = false)
  (hm : s.runMayEnd g = false) (hn : s.groups[g.val].run.next = .none_)
include ha hs he hm hn

theorem exec_underrun_goesOn (hst : s.groups[g.val].st = .underrun) : exec (.underrun g) s = .next (s.modGroup g Group.idleCycle) := by
  show execUnderrun g s = _
  simp [execUnderrun, ha, hs, he, hm, hn, hst]

theorem exec_underrun_begins (hst : s.groups[g.val].st = .playing) : exec (.underrun g) s = .next (s.beginUnderrun g) := by
  show execUnderrun g s = _
  simp [execUnderrun, ha, hs, he, hm, hn, hst]

end

end

/-- Settles O14: a play by what `next` finds at the boundary, an underrun by the group's state and control. -/
theorem groupsPlay : Obligations.GroupsPlay := by
  refine ⟨?play, ?underrun⟩
  case play =>
    intro s g e hst ha hs he ht r w
    refine ⟨fun hc hm hp => ?again, fun rest d hf hc hm hp hr => ?fresh⟩
    case again =>
      obtain ⟨y, hx, hy⟩ := beginPlay_begins s g e false
      refine ⟨_, ?_, hy.played (withPlay_others s g y false) (withPlay_rest s g y false), hy.plays, hy.fifo, withPlay_again s g y⟩
      rw [exec_play_again hst ha hs he ht (next_again hc hm hp), hx]
    case fresh =>
      obtain ⟨y, hx, hy⟩ := beginPlay_begins s g e true
      have hfifo : (s.withPlay g y true).groups[g.val].run.fifo = rest := hy.fifo.trans (congrArg (List.drop 1) hf)
      refine ⟨_, ?_, hy.played (withPlay_others s g y true) (withPlay_rest s g y true), hy.plays, hfifo, ?_⟩
      · rw [exec_play_fresh hst ha hs he ht (next_fresh hf hc hm hp hr), hx]
      · rw [withPlay_group] at hfifo
        rw [withPlay_worker, hfifo]
  case underrun =>
    intro s g ha hs he hm hn x w idled
    have idles {t : State} (ht : x.Idled t.groups[g.val]) (ho : OneGroup s t g) : idled t := by
      obtain ⟨hst, hidle, hcycle, hnext, hat⟩ := ht
      exact ⟨hst, hidle, hcycle, hnext, hat, ho⟩
    refine ⟨fun hst => ⟨_, exec_underrun_goesOn ha hs he hm hn hst, idles ?_ (OnlyGroup.ofMod s g _).2, .ofMod s g _⟩,
      fun hst hu => ⟨_, exec_underrun_begins ha hs he hm hn hst, ?idle⟩,
      fun hst hu hw => ⟨_, exec_underrun_begins ha hs he hm hn hst, ?stop⟩⟩
    · rw [modGroup_get]
      exact idleCycle_idles hst
    case idle =>
      obtain ⟨ev, hx, hr⟩ := beginUnderrun_idles hu
      refine ⟨?_, by rw [hx]; rfl, hr⟩
      rw [hx]
      refine idles ?_ fun i hi => modGroup_get_ne s hi _
      rw [show ({ s.modGroup g (Group.idleCycle ∘ Group.underruns) with ev := ev } : State).groups[g.val] = _ from modGroup_get s g _]
      exact underruns_idles _
    case stop =>
      obtain ⟨det, hx⟩ := beginUnderrun_stops hu (by simp [Worker.active, w, hw])
      rw [hx]
      obtain ⟨hl, hstop, -⟩ := stopWorker_leaves ((s.modGroup g Group.underruns).raise (underrunEv g) 3 g.val det) (groupWorker g) 4
      obtain ⟨now, hg⟩ := stopWorker_group ((s.modGroup g Group.underruns).raise (underrunEv g) 3 g.val det) (groupWorker g) 4
      refine ⟨hl.state, hstop, ?_⟩
      rw [hg g (workerGroup_groupWorker g)]
      refine stop_underrun ?_ now
      rw [State.raise_rest]
      exact congrArg Group.st (modGroup_get s g _)

end Sys2Proof.Machine
end

section
/-! SUPPORT. Transitions at the pins (spec/04_timing_and_vectors.md, R102, R103, R121; spec/05_test_ports.md, R156). -/

namespace Sys2Proof.Machine

/-! A level given to an output pair (05, R134, R156). -/

section
variable (s : State) (n : Fin 128) (txe : Bool) (l : Level)

theorem driveOut_pins : PinsOnly s (s.driveOut n txe l) := by
  unfold State.driveOut
  split
  · exact s.drive_pins n txe l
  · exact s.modPort_pins n _

theorem drive_others {m : Fin 128} (hm : m ≠ n) : (s.drive n txe l).ports[m.val] = s.ports[m.val] := by
  unfold State.drive
  by_cases hl : (if txe then s.ports[n.val].txe else s.ports[n.val].tx) = l
  · rw [if_pos hl]
  · rw [if_neg hl]
    exact upd_get_other _ _ _ _ hm.symm

theorem driveOut_others {m : Fin 128} (hm : m ≠ n) : (s.driveOut n txe l).ports[m.val] = s.ports[m.val] := by
  unfold State.driveOut
  split
  · exact drive_others s n txe l hm
  · exact upd_get_other _ _ _ _ hm.symm

theorem drive_level : (if txe then (s.drive n txe l).ports[n.val].txe else (s.drive n txe l).ports[n.val].tx) = l := by
  by_cases hl : (if txe then s.ports[n.val].txe else s.ports[n.val].tx) = l
  · have hd : s.drive n txe l = s := if_pos hl
    rw [hd]
    exact hl
  · have hp : (s.drive n txe l).ports[n.val] = if txe then { s.ports[n.val] with txe := l } else { s.ports[n.val] with tx := l } := by
      unfold State.drive
      rw [if_neg hl]
      exact upd_get_same _ _ _
    rw [hp]
    cases txe <;> rfl

variable {s n}

theorem driveOut_free (h : s.ports[n.val].test = none) :
    (if txe then (s.driveOut n txe l).ports[n.val].txe else (s.driveOut n txe l).ports[n.val].tx) = l := by
  have hd : s.driveOut n txe l = s.drive n txe l := by simp only [State.driveOut, h]
  rw [hd]
  exact drive_level s n txe l

theorem driveOut_tested {y : PortTest} (h : s.ports[n.val].test = some y) : (s.driveOut n txe l).ports[n.val] =
    { s.ports[n.val] with test := some (if txe then { y with txe := l } else { y with tx := l }) } := by
  simp only [State.driveOut, h]
  exact upd_get_same _ _ _

end

/-! A transition (R102, R103, R121). -/

/-- The transitions of a signal that are still to come. -/
def PinFmt.queue (f : PinFmt) (txe : Bool) : List Trans := if txe then f.txeq else f.txq

/-- The time of the last transition of a signal. -/
def PinFmt.last (f : PinFmt) (txe : Bool) : Option Int := if txe then f.lastTxe else f.lastTx

/-- A pin's queue and last time of a signal put in place. -/
def Group.queued (p : Fin 8) (txe : Bool) (l : List Trans) (m : Option Int) (x : Group) : Group :=
  { x with pins := upd x.pins p fun y =>
      { y with fmt := if txe then { y.fmt with txeq := l, lastTxe := m } else { y.fmt with txq := l, lastTx := m } } }

theorem queued_queue (p : Fin 8) (txe : Bool) (l : List Trans) (m : Option Int) (x : Group) :
    (x.queued p txe l m).pins[p.val].fmt.queue txe = l := by
  cases txe <;> simp [Group.queued, PinFmt.queue]

theorem held_iff (r : Run) (u : Int) : r.held u = true ↔ ∃ h, r.haltAt = some h ∧ h ≤ u := by
  unfold Run.held
  split
  next h => simp [h]
  next h => simp [h]

theorem notHeld_iff (r : Run) (u : Int) : r.held u = false ↔ ¬ ∃ h, r.haltAt = some h ∧ h ≤ u := by
  rw [← held_iff, Bool.not_eq_true]

section
variable {s : State} {g : Fin 16} {p : Fin 8} {txe : Bool} {a : Trans} (hq : firstTrans (s.groups[g.val].pins[p.val].fmt.queue txe) = some a)
include hq

theorem exec_transition_waits (h : s.groups[g.val].run.held a.time = true ∨ s.groups[g.val].settledAt p txe a.time = false) :
    exec (.transition g p txe) s = .next s := by
  have hq : firstTrans (if txe then s.groups[g.val].pins[p.val].fmt.txeq else s.groups[g.val].pins[p.val].fmt.txq) = some a := hq
  show execTransition g p txe s = _
  simp only [execTransition, hq]
  rw [if_pos (by rcases h with h | h <;> simp [h])]

section
variable (hg : s.groupAlive g = true) (hl : ∀ l, s.groups[g.val].pins[p.val].fmt.last txe = some l → l + 256 ≤ a.time)
  (hh : s.groups[g.val].run.held a.time = false) (hs : s.groups[g.val].settledAt p txe a.time = true)

/-- A transition that no halt has put off lies less than 62.5 ps after another. -/
def Run.near (r : Run) (a : Trans) (l : List Trans) : Bool := l.any fun b => decide (b.time < a.time + 256) && !r.held b.time

omit hq in
include hl in
/-- The last transition lies far enough before. -/
theorem last_clear : ((s.groups[g.val].pins[p.val].fmt.last txe).any fun t => decide (a.time < t)) = false ∧
    ((s.groups[g.val].pins[p.val].fmt.last txe).any fun t => decide (a.time < t + 256) && decide (t < a.time + 256)) = false := by
  cases h : s.groups[g.val].pins[p.val].fmt.last txe with
  | none => exact ⟨rfl, rfl⟩
  | some l =>
    have := hl l h
    simp
    omega

include hg hl hh hs

theorem exec_transition_applies
    (hn : s.groups[g.val].run.near a ((s.groups[g.val].pins[p.val].fmt.queue txe).erase a) = false)
    (hw : s.ports[(groupPort g p).val].link = .waveform) : exec (.transition g p txe) s = .next
      ((s.modGroup g (Group.queued p txe ((s.groups[g.val].pins[p.val].fmt.queue txe).erase a) (some a.time))).driveOut
        (groupPort g p) txe (levelOf a.value)) := by
  obtain ⟨hlate, hback⟩ := last_clear hl
  simp only [Run.near, PinFmt.queue] at hq hn
  simp only [PinFmt.last] at hlate hback
  show execTransition g p txe s = _
  simp only [execTransition, hq, hg, hh, hs, hn, hlate, hback, Bool.not_true, Bool.not_false, Bool.or_self, Bool.and_self, Bool.false_eq_true,
    if_false, if_true, State.modGroup_ports, hw, decide_true]
  rfl

theorem exec_transition_drops
    (hn : s.groups[g.val].run.near a ((s.groups[g.val].pins[p.val].fmt.queue txe).erase a) = true) : exec (.transition g p txe) s = .next
      (s.modGroup g (Group.queued p txe ((s.groups[g.val].pins[p.val].fmt.queue txe).erase a) (s.groups[g.val].pins[p.val].fmt.last txe) ∘
        fun x => x.countClash a.cycle)) := by
  obtain ⟨hlate, hback⟩ := last_clear hl
  simp only [Run.near, PinFmt.queue] at hq hn
  simp only [PinFmt.last] at hlate hback
  show execTransition g p txe s = _
  simp only [execTransition, hq, hg, hh, hs, hn, hlate, hback, Bool.not_true, Bool.or_self, Bool.or_false, Bool.false_and, Bool.false_eq_true,
    if_false, if_true]
  rfl

end

end

end Sys2Proof.Machine
end

section
/-! SUPPORT. The edge words that a group drives and samples (spec/04_timing_and_vectors.md, R106; spec/07_fabric.md, R207). -/

namespace Sys2Proof.Machine

/-! Sparse words in canonical form. -/

section
variable {w : Nat}

/-- The positions of sparse words rise. -/
def Rises (l : List (Nat × BitVec w)) : Prop := (l.map (·.1)).Pairwise (· < ·)

theorem rises_cons (a : Nat × BitVec w) (l : List (Nat × BitVec w)) : Rises (a :: l) ↔ (∀ b ∈ l, a.1 < b.1) ∧ Rises l := by
  simp [Rises]

/-- A position before all others holds 0. -/
theorem sparseGet_before {l : List (Nat × BitVec w)} {k : Nat} (h : ∀ b ∈ l, k < b.1) : sparseGet l k = 0 := by
  cases l with
  | nil => rfl
  | cons b l =>
    have hb := h b (by simp)
    simp only [sparseGet]
    rw [if_neg (by omega), if_pos hb]

theorem sparseSet_positions (l : List (Nat × BitVec w)) (k : Nat) (v : BitVec w) :
    ∀ b ∈ sparseSet l k v, b.1 = k ∨ ∃ c ∈ l, c.1 = b.1 := by
  induction l with
  | nil => by_cases hv : v = 0 <;> simp [sparseSet, hv]
  | cons a l ih =>
    intro b hb
    simp only [sparseSet] at hb
    split_ifs at hb <;> grind

theorem sparseSet_rises {l : List (Nat × BitVec w)} (h : Rises l) (k : Nat) (v : BitVec w) : Rises (sparseSet l k v) := by
  induction l with
  | nil =>
    rw [sparseSet]
    split <;> simp [Rises]
  | cons a l ih =>
    obtain ⟨ha, hl⟩ := (rises_cons a l).mp h
    have hp := sparseSet_positions l k v
    simp only [sparseSet]
    split_ifs
    · exact h
    · exact (rises_cons _ _).mpr ⟨by grind, h⟩
    · exact hl
    · exact (rises_cons _ _).mpr ⟨by grind, hl⟩
    · exact (rises_cons _ _).mpr ⟨by grind, ih hl⟩

theorem sparseGet_sparseSet {l : List (Nat × BitVec w)} (h : Rises l) (k j : Nat) (v : BitVec w) :
    sparseGet (sparseSet l k v) j = if j = k then v else sparseGet l j := by
  induction l with
  | nil => by_cases hv : v = 0 <;> grind [sparseSet, sparseGet]
  | cons a l ih =>
    obtain ⟨ha, hl⟩ := (rises_cons a l).mp h
    have hk (hj : j ≤ a.1) : sparseGet l j = 0 := sparseGet_before fun b hb => Nat.lt_of_le_of_lt hj (ha b hb)
    have ih := ih hl
    simp only [sparseSet, sparseGet]
    split_ifs <;> grind [sparseGet]

end

/-! Edge words. -/

section
variable (s : State) (d : Fin 4) (t w v : Nat)

theorem setEdge_groups : (s.setEdge d t w v).groups = s.groups := rfl

theorem setEdge_get : (s.setEdge d t w v).fab[d.val].edgeIn = sparseSet s.fab[d.val].edgeIn (4 * t + w) (BitVec.ofNat 16 v) :=
  congrArg DieFab.edgeIn (upd_get_same _ _ _)

variable {s d}

theorem setEdge_rises (h : s.edgesRise d) : (s.setEdge d t w v).edgesRise d := by
  unfold State.edgesRise
  rw [setEdge_get]
  exact sparseSet_rises h _ _

theorem setEdge_word (h : s.edgesRise d) (hv : v < 65536) (c k : Nat) :
    (s.setEdge d t w v).edgeWord d c k = if 4 * c + k = 4 * t + w then v else s.edgeWord d c k := by
  unfold State.edgeWord
  rw [setEdge_get, sparseGet_sparseSet h]
  split
  · rw [BitVec.toNat_ofNat, Nat.mod_eq_of_lt hv]
  · rfl

/-- One value on word 0 of some of the columns from `t` on. -/
theorem setEdges_word (l : List Nat) (h : s.edgesRise d) (hv : v < 65536) :
    (l.foldl (fun s i => s.setEdge d (t + i) 0 v) s).edgesRise d ∧
    ∀ i ∈ l, (l.foldl (fun s i => s.setEdge d (t + i) 0 v) s).edgeWord d (t + i) 0 = v := by
  have kept (l : List Nat) (i : Nat) (s : State) (h : s.edgesRise d) (hi : s.edgeWord d (t + i) 0 = v) :
      (l.foldl (fun s i => s.setEdge d (t + i) 0 v) s).edgeWord d (t + i) 0 = v := by
    induction l generalizing s with
    | nil => exact hi
    | cons j l ih =>
      refine ih _ (setEdge_rises _ _ _ h) ?_
      rw [setEdge_word _ _ _ h hv, hi, ite_self]
  induction l generalizing s with
  | nil => exact ⟨h, by simp⟩
  | cons j l ih =>
    have hj := setEdge_rises (t + j) 0 v h
    refine ⟨(ih hj).1, fun i hi => ?_⟩
    rcases List.mem_cons.mp hi with rfl | hi
    · refine kept l i _ hj ?_
      rw [setEdge_word _ _ _ h hv, if_pos rfl]
    · exact (ih hj).2 i hi

end

theorem packBools_lt (l : List Bool) : packBools l < 2 ^ l.length := by
  induction l with
  | nil => simp [packBools]
  | cons b l ih => cases b <;> simp [packBools, b2n, Nat.pow_succ] <;> omega

theorem tapMkc_lt (t : TimingSet) (word : BitVec 256) : tapMkc t word < 65536 := by
  unfold tapMkc
  split
  · decide
  · refine Nat.lt_trans (packBools_lt _) ?_
    simp

/-! The tap (R106). -/

/-- What a group announces of a play on word 0. -/
def tapControl (e : Entry) (first : Bool) : Nat := 1 + bitAt first 1 + bitAt e.match_.isSome 2 + bitAt e.mark.isSome 3 + e.set.val * 2 ^ 4

theorem tapControl_eq (e : Entry) (first : Bool) : tapControl e first =
    1 + (if first then 2 else 0) + (if e.match_.isSome then 4 else 0) + (if e.mark.isSome then 8 else 0) + 16 * e.set.val := by
  unfold tapControl bitAt
  rw [Nat.mul_comm e.set.val]
  cases first <;> cases e.match_ <;> cases e.mark <;> rfl

theorem tapControl_lt (e : Entry) (first : Bool) : tapControl e first < 65536 := by
  rw [tapControl_eq]
  split_ifs <;> omega

/-- A group's next play announced. -/
def State.announce (s : State) (g : Fin 16) (e : Entry) (first : Bool) : State :=
  let s' := s.modGroup g fun x => { x with run := { x.run with tapAhead := x.run.tapAhead + 1 } }
  let s' := (List.range 12).foldl (fun s i => s.setEdge (groupEdge g).1 ((groupEdge g).2 + i) 0 (tapControl e first)) s'
  (s'.setEdge (groupEdge g).1 (groupEdge g).2 1 ((e.mark.map (·.toNat)).getD 0)).setEdge (groupEdge g).1 (groupEdge g).2 2
    (tapMkc s.groups[g.val].sets[e.set.val] e.word)

theorem announce_groups (s : State) (g : Fin 16) (e : Entry) (first : Bool) : (s.announce g e first).groups =
    (s.modGroup g fun x => { x with run := { x.run with tapAhead := x.run.tapAhead + 1 } }).groups := by
  rw [State.announce, setEdge_groups, setEdge_groups]
  exact foldl_keeps State.groups (fun s i => setEdge_groups s _ _ _ _) _ _

theorem announce_words {s : State} (g : Fin 16) (e : Entry) (first : Bool) (h : s.edgesRise (groupEdge g).1) :
    (∀ i < 12, (s.announce g e first).edgeWord (groupEdge g).1 ((groupEdge g).2 + i) 0 = tapControl e first) ∧
    (s.announce g e first).edgeWord (groupEdge g).1 (groupEdge g).2 1 = (e.mark.map (·.toNat)).getD 0 ∧
    (s.announce g e first).edgeWord (groupEdge g).1 (groupEdge g).2 2 = tapMkc s.groups[g.val].sets[e.set.val] e.word := by
  have hm : (e.mark.map (·.toNat)).getD 0 < 65536 := by
    cases e.mark with
    | none => decide
    | some m => exact Nat.lt_trans m.isLt (by decide)
  obtain ⟨hrise, hword⟩ := setEdges_word (s := s.modGroup g fun x => { x with run := { x.run with tapAhead := x.run.tapAhead + 1 } })
    (groupEdge g).2 (tapControl e first) (List.range 12) h (tapControl_lt e first)
  have hmark := setEdge_rises (groupEdge g).2 1 ((e.mark.map (·.toNat)).getD 0) hrise
  refine ⟨fun i hi => ?_, ?_, ?_⟩
  · rw [State.announce, setEdge_word _ _ _ hmark (tapMkc_lt _ _), if_neg (by omega), setEdge_word _ _ _ hrise hm, if_neg (by omega)]
    exact hword i (List.mem_range.mpr hi)
  · rw [State.announce, setEdge_word _ _ _ hmark (tapMkc_lt _ _), if_neg (by omega), setEdge_word _ _ _ hrise hm, if_pos rfl]
  · rw [State.announce, setEdge_word _ _ _ hmark (tapMkc_lt _ _), if_pos rfl]

/-- The words of a sample as one number. -/
def words16 (l : List Nat) : Nat := l.foldr (fun v a => v + 65536 * a) 0

theorem words16_bits {l : List Nat} (h : ∀ v ∈ l, v < 65536) {i : Nat} (hi : i < l.length) :
    bitsOf (words16 l) (16 * i) 16 = l[i] := by
  induction l generalizing i with
  | nil => simp at hi
  | cons v l ih =>
    have hv := h v (by simp)
    have hw : words16 (v :: l) = v + 65536 * words16 l := rfl
    cases i with
    | zero =>
      simp only [bitsOf, hw, List.getElem_cons_zero, Nat.mul_zero, Nat.shiftRight_zero]
      omega
    | succ i =>
      have := ih (fun v hv => h v (by simp [hv])) (i := i) (by simpa using hi)
      rw [List.getElem_cons_succ, ← this, hw]
      unfold bitsOf
      rw [show 16 * (i + 1) = 16 + 16 * i by omega, Nat.shiftRight_add]
      congr 2
      rw [Nat.shiftRight_eq_div_pow]
      omega

theorem words16_lt {l : List Nat} (h : ∀ v ∈ l, v < 65536) : words16 l < 65536 ^ l.length := by
  induction l with
  | nil => simp [words16]
  | cons v l ih =>
    have hv := h v (by simp)
    have := ih fun v hv => h v (by simp [hv])
    have hw : words16 (v :: l) = v + 65536 * words16 l := rfl
    rw [hw, List.length_cons, Nat.pow_succ]
    omega

/-- The fabric's answer on the edge words of a group. -/
def State.tapWords (s : State) (g : Fin 16) : List Nat :=
  (List.range 16).map fun i => s.edgeOut (groupEdge g).1 ((groupEdge g).2 + i / 4) (i % 4)

/-- The fabric's answer as the group takes it. -/
def State.tapAnswer (s : State) (g : Fin 16) : TapSample :=
  let o (w : Nat) : Nat := s.edgeOut (groupEdge g).1 ((groupEdge g).2 + 4) w
  { ev := BitVec.ofNat 256 (words16 (s.tapWords g)), addr := BitVec.ofNat 32 (o 0 + 65536 * o 1), data := BitVec.ofNat 16 (o 2) }

theorem tapAnswer_ev {s : State} (g : Fin 16) (h : ∀ column word, s.edgeOut (groupEdge g).1 column word < 65536) {i : Nat} (hi : i < 16) :
    bitsOf (s.tapAnswer g).ev.toNat (16 * i) 16 = s.edgeOut (groupEdge g).1 ((groupEdge g).2 + i / 4) (i % 4) := by
  have hl : ∀ v ∈ s.tapWords g, v < 65536 := by
    intro v hv
    obtain ⟨j, -, rfl⟩ := List.mem_map.mp hv
    exact h _ _
  have hlen : (s.tapWords g).length = 16 := by simp [State.tapWords]
  have hlt : words16 (s.tapWords g) < 2 ^ 256 := by
    have := words16_lt hl
    rwa [hlen] at this
  have hev : (s.tapAnswer g).ev.toNat = words16 (s.tapWords g) := by
    simp only [State.tapAnswer, BitVec.toNat_ofNat]
    exact Nat.mod_eq_of_lt hlt
  rw [hev, words16_bits hl (by omega)]
  simp [State.tapWords]

section
variable {s : State} {g : Fin 16} (ha : s.groupAlive g = true) (hp : s.groups[g.val].tapEn = true)
  (hst : s.groups[g.val].st = .playing ∨ s.groups[g.val].st = .underrun)
include ha hp hst

theorem exec_tapNext_announces {e : Entry} {first : Bool} (hs : s.groups[g.val].run.stopping = false) (he : s.groups[g.val].run.ending = false)
    (hu : s.groups[g.val].run.upcoming s.groups[g.val].run.tapAhead = some (e, first)) :
    exec (.tapNext g) s = .next (s.announce g e first) := by
  have hst : (s.groups[g.val].st = .armed || s.groups[g.val].st = .playing || s.groups[g.val].st = .underrun) = true := by
    rcases hst with h | h <;> simp [h]
  show execTapNext g s = _
  simp only [execTapNext, ha, hp, hs, he, hst, hu, Bool.not_true, Bool.or_self, Bool.false_eq_true, if_false]
  rfl

theorem exec_tapSample_takes (hn : s.groups[g.val].run.tapGot.length < s.groups[g.val].run.tapAhead) : exec (.tapSample g) s = .next
    (s.modGroup g fun x => { x with run := { x.run with tapGot := x.run.tapGot ++ [s.tapAnswer g] } }) := by
  have hst : ¬ s.groups[g.val].st = .halted := by
    rcases hst with h | h <;> simp [h]
  show execTapSample g s = _
  simp only [execTapSample, ha, hp, hst, decide_eq_false (Nat.not_le.mpr hn), decide_false, Bool.not_true, Bool.or_self, Bool.false_eq_true, if_false]
  rfl

end

/-- Settles O15: a transition by the queue it leaves, the tap by the edge words it writes and reads. -/
theorem pinsMove : Obligations.PinsMove := by
  refine ⟨?transition, ?tap⟩
  case transition =>
    intro s g p txe a x f q last port queue held alone hq hg hl
    refine ⟨fun h => exec_transition_waits hq (h.imp_left (held_iff x.run _).mpr), fun hh hs hn hw => ?applies, fun hh hs hn => ?drops⟩
    case applies =>
      have hh := (notHeld_iff x.run _).mpr hh
      have hnear : x.run.near a (q.erase a) = false := by
        simp only [Run.near, List.any_eq_false, Bool.and_eq_true, decide_eq_true_eq, not_and, Bool.not_eq_true', Bool.not_eq_false]
        exact fun b hb hlt => (hn b hb).elim (fun h => absurd h (by omega)) (held_iff x.run _).mpr
      have hgroups (u : State) : (u.driveOut port txe (levelOf a.value)).groups = u.groups := by
        rw [show u.driveOut port txe (levelOf a.value) = _ from driveOut_pins u port txe _]
      refine ⟨_, exec_transition_applies hq hg hl hh hs hnear hw, ?_, fun ht => driveOut_free _ _ ht, fun y hy => driveOut_tested _ _ hy,
        ?_, fun i hi => ?_, fun n hn => driveOut_others _ _ _ _ hn⟩
      · show PinFmt.queue (State.groups _)[g.val].pins[p.val].fmt txe = _
        rw [hgroups, modGroup_get]
        exact queued_queue _ _ _ _ _
      · rw [hgroups, modGroup_get]
        rfl
      · rw [hgroups]
        exact modGroup_get_ne s hi _
    case drops =>
      have hh := (notHeld_iff x.run _).mpr hh
      have hnear : x.run.near a (q.erase a) = true := by
        obtain ⟨b, hb, hlt, hf⟩ := hn
        exact List.any_eq_true.mpr ⟨b, hb, by simp [hlt, (notHeld_iff x.run _).mpr hf]⟩
      refine ⟨_, exec_transition_drops hq hg hl hh hs hnear, ?_, rfl, ?_, ?_, (OnlyGroup.ofMod s g _).2⟩
      · show PinFmt.queue (State.groups _)[g.val].pins[p.val].fmt txe = _
        rw [modGroup_get]
        exact queued_queue _ _ _ _ (x.countClash a.cycle)
      · rw [modGroup_get]
        rfl
      · rw [modGroup_get]
        rfl
  case tap =>
    intro s g ha hp hs he hst x d t0 edge
    refine ⟨fun e first hrise hu => ?next, fun hn ho => ?sample⟩
    case next =>
      obtain ⟨hcontrol, hmark, hmkc⟩ := announce_words g e first hrise
      refine ⟨_, exec_tapNext_announces ha hp hst hs he hu, ?_, fun i hi => ?_, fun i hi => ?_, hmark, hmkc⟩
      · rw [announce_groups, modGroup_get]
      · rw [announce_groups]
        exact modGroup_get_ne s hi _
      · exact (hcontrol i hi).trans (tapControl_eq e first)
    case sample =>
      have h0 := ho (t0 + 4) 0
      have h1 := ho (t0 + 4) 1
      refine ⟨_, s.tapAnswer g, exec_tapSample_takes ha hp hst hn, .ofMod s g _, ?_, fun i hi => tapAnswer_ev g ho hi, ?_, ?_⟩
      · rw [modGroup_get]
      · exact Nat.mod_eq_of_lt (show s.edgeOut d (t0 + 4) 0 + 65536 * s.edgeOut d (t0 + 4) 1 < 2 ^ 32 by omega)
      · exact Nat.mod_eq_of_lt (ho (t0 + 4) 2)

end Sys2Proof.Machine
end

section
/-! SUPPORT. The records of a failing test cycle (spec/06_fail_capture_and_repair.md, R164 to R167, R174, R175). -/

namespace Sys2Proof.Machine

/-! The die-side books of the sites. -/

/-- An entry of a site's book on a die. -/
def State.dieCount (s : State) (site : Fin 32) (d i : Fin 4) : Nat := s.brood.sites[site.val].dieBook[d.val][i.val]

theorem countDie_same (s : State) (site : Fin 32) (d i : Fin 4) : (s.countDie site d i).dieCount site d i = s.dieCount site d i + 1 := by
  simp [State.countDie, State.dieCount]

theorem countDie_entry (s : State) (site : Fin 32) (d : Fin 4) {i j : Fin 4} (h : i ≠ j) :
    (s.countDie site d i).dieCount site d j = s.dieCount site d j := by
  simp [State.countDie, State.dieCount, upd_get_other _ _ _ _ h]

theorem countDie_site (s : State) {i j : Fin 32} (h : i ≠ j) (d k l : Fin 4) :
    (s.countDie i d k).dieCount j d l = s.dieCount j d l := by
  simp [State.countDie, State.dieCount, upd_get_other _ _ _ _ h]

/-! The record of one site (R165 to R167, R175). -/

/-- A group whose fail compression has produced a record for a site, and put it into its FIFO where that has room. -/
def Group.recorded (g : Fin 16) (o : OpenCycle) (site : Fin 32) (pins : BitVec 8) (full : Bool) (x : Group) : Group :=
  { x with fail := { x.fail with
      lastRec := upd x.fail.lastRec site fun _ => some { pins := pins, addr := o.addr, data := o.data }
      produced := x.fail.produced + 1
      gap := full
      fifo := if full then x.fail.fifo else x.fail.fifo ++ [failRecord g x site o pins x.fail.gap] } }

/-- A record produced for a site, before the threshold of the group is looked at. -/
def State.produceRecord (s : State) (g : Fin 16) (o : OpenCycle) (site : Fin 32) (pins : BitVec 8) : State :=
  let full := decide (1024 ≤ s.groups[g.val].fail.fifo.length)
  let t := ((s.countDie site (groupDie g) 0).countDie site (groupDie g) 2).modGroup g (Group.recorded g o site pins full)
  if full then (t.countDie site (groupDie g) 3).raise 36 2 site.val 0 else t

/-- The produced records have reached a threshold not yet reported. -/
def GFail.meets (f : GFail) : Bool := f.threshold != 0 && !f.fired && decide (f.threshold.toNat ≤ f.produced)

/-- The event of a group's threshold. -/
def thresholdEv (g : Fin 16) : Fin 256 := dieEvent (groupDie g) ⟨16 + g.val % 4, by omega⟩

/-- A group's threshold is reported (R175). -/
def State.reportThreshold (s : State) (g : Fin 16) (o : OpenCycle) : State :=
  ((s.modGroup g fun x => { x with fail := { x.fail with fired := true } }).raise (thresholdEv g) 1 g.val
    (detail [(0, 4, s.groups[g.val].fail.threshold.toNat), (8, 6, o.cycle)])).pendLine (groupWorker g) 6

section
variable {s : State} {g : Fin 16} {o : OpenCycle} {site : Fin 32} {pins : BitVec 8}

theorem siteRecord_suppressed (hs : s.groups[g.val].fail.suppress = true)
    (hk : s.groups[g.val].fail.lastRec[site.val] = some { pins := pins, addr := o.addr, data := o.data }) :
    s.siteRecord g o site pins = (s.countDie site (groupDie g) 0).countDie site (groupDie g) 1 :=
  if_pos (Bool.and_eq_true_iff.mpr ⟨hs, decide_eq_true hk⟩)

theorem siteRecord_fresh (h : s.groups[g.val].fail.suppress = false ∨
      s.groups[g.val].fail.lastRec[site.val] ≠ some { pins := pins, addr := o.addr, data := o.data }) :
    s.siteRecord g o site pins = if (s.produceRecord g o site pins).groups[g.val].fail.meets
      then (s.produceRecord g o site pins).reportThreshold g o else s.produceRecord g o site pins := by
  refine if_neg fun hk => ?_
  obtain ⟨hs, hk⟩ := Bool.and_eq_true_iff.mp hk
  exact h.elim (fun h => Bool.false_ne_true (h.symm.trans hs)) (· (of_decide_eq_true hk))

theorem produceRecord_groups : (s.produceRecord g o site pins).groups =
    (s.modGroup g (Group.recorded g o site pins (decide (1024 ≤ s.groups[g.val].fail.fifo.length)))).groups := by
  unfold State.produceRecord
  dsimp only
  split
  · exact State.raise_groups _ _ _ _ _
  · rfl

theorem produceRecord_group : (s.produceRecord g o site pins).groups[g.val] =
    s.groups[g.val].recorded g o site pins (decide (1024 ≤ s.groups[g.val].fail.fifo.length)) := by
  rw [produceRecord_groups, modGroup_get]

theorem produceRecord_full (h : 1024 ≤ s.groups[g.val].fail.fifo.length) : s.produceRecord g o site pins =
    ((((s.countDie site (groupDie g) 0).countDie site (groupDie g) 2).modGroup g (Group.recorded g o site pins true)).countDie
      site (groupDie g) 3).raise 36 2 site.val 0 := by
  simp only [State.produceRecord, decide_eq_true h, if_true]

theorem produceRecord_room (h : s.groups[g.val].fail.fifo.length < 1024) : s.produceRecord g o site pins =
    ((s.countDie site (groupDie g) 0).countDie site (groupDie g) 2).modGroup g (Group.recorded g o site pins false) := by
  simp only [State.produceRecord, decide_eq_false (Nat.not_le.mpr h), Bool.false_eq_true, if_false]

/-- The threshold's event is none of the hive die's. -/
theorem thresholdEv_ne (g : Fin 16) : (36 : Fin 256) ≠ thresholdEv g := by
  intro h
  have := congrArg Fin.val h
  simp only [thresholdEv, dieEvent] at this
  change 36 = _ at this
  omega

theorem produceRecord_threshold : (s.produceRecord g o site pins).ev.src[(thresholdEv g).val] = s.ev.src[(thresholdEv g).val] := by
  rcases Nat.lt_or_ge s.groups[g.val].fail.fifo.length 1024 with h | h
  · rw [produceRecord_room h]
    rfl
  · rw [produceRecord_full h, State.raise_src, upd_get_other _ _ _ _ (thresholdEv_ne g)]
    rfl

theorem reportThreshold_group : (s.reportThreshold g o).groups[g.val] =
    { s.groups[g.val] with fail := { s.groups[g.val].fail with fired := true } } := by
  show (State.raise _ _ _ _ _).groups[g.val] = _
  rw [State.raise_groups, modGroup_get]

theorem reportThreshold_others : OneGroup s (s.reportThreshold g o) g := by
  intro i hi
  show (State.raise _ _ _ _ _).groups[i.val] = _
  rw [State.raise_groups]
  exact modGroup_get_ne s hi _

theorem reportThreshold_brood : (s.reportThreshold g o).brood = s.brood := State.raise_brood _ _ _ _ _

theorem reportThreshold_stays {e : Fin 256} (h : s.activeEv e) : (s.reportThreshold g o).activeEv e :=
  State.raise_stays (s := s.modGroup g _) h _ _ _ _

/-- An event is raised in a state that has left its source as it was. -/
theorem raise_raised_of_src {s t : State} {e : Fin 256} (h : t.ev.src[e.val] = s.ev.src[e.val]) (sev unit det : Nat) :
    Raised s (t.raise e sev unit det) e where
  active := t.raise_active e sev unit det
  count := by rw [State.raise_src, upd_get_same, h]
  latch hm := State.raise_latch (by rw [h]; exact hm) sev unit det

theorem reportThreshold_raises {r : State} (h : s.ev.src[(thresholdEv g).val] = r.ev.src[(thresholdEv g).val]) :
    Raised r (s.reportThreshold g o) (thresholdEv g) := by
  obtain ⟨ha, hc, hl⟩ := raise_raised_of_src (s := r) (t := s.modGroup g fun x => { x with fail := { x.fail with fired := true } }) h 1 g.val
    (detail [(0, 4, s.groups[g.val].fail.threshold.toNat), (8, 6, o.cycle)])
  exact ⟨ha, hc, hl⟩

theorem reportThreshold_pends : (s.reportThreshold g o).workers[(groupWorker g).val].regs.wipend.getLsbD 6 = true := by
  rw [State.reportThreshold, State.pendLine, modWorker_get]
  simp

/-- Only the pins' own settings decide which of them a site has. -/
theorem sitePins_congr {x y : Group} (h : ∀ p : Fin 8, y.pins[p.val].en = x.pins[p.val].en ∧ y.pins[p.val].site = x.pins[p.val].site) (b : BitVec 8)
    (i : Fin 32) : y.sitePins b i = x.sitePins b i := by
  simp only [Group.sitePins, h]

theorem siteRecord_pins : (s.siteRecord g o site pins).groups[g.val].pins = s.groups[g.val].pins := by
  by_cases h : s.groups[g.val].fail.suppress = true ∧
      s.groups[g.val].fail.lastRec[site.val] = some { pins := pins, addr := o.addr, data := o.data }
  · rw [siteRecord_suppressed h.1 h.2]
    rfl
  · rw [siteRecord_fresh (by rw [← Bool.not_eq_true]; tauto)]
    split
    · rw [reportThreshold_group, produceRecord_group]
      rfl
    · rw [produceRecord_group]
      rfl

end

/-! The records of a test cycle (R164). -/

/-- The sites that the failing pins of a test cycle reach, in ascending order. -/
def Group.failing (x : Group) (pins : BitVec 8) : List (Fin 32) := (allFin 32).filter fun site => x.sitePins pins site != 0

/-- Records formed for some sites, one after another. -/
def State.formRecords (s : State) (g : Fin 16) (o : OpenCycle) (pins : Fin 32 → BitVec 8) (l : List (Fin 32)) : State :=
  l.foldl (fun s site => s.siteRecord g o site (pins site)) s

/-- One site's part in a failing test cycle. -/
def State.formSite (g : Fin 16) (o : OpenCycle) (site : Fin 32) (s : State) : State :=
  if s.groups[g.val].sitePins o.pins site = 0 then s else s.siteRecord g o site (s.groups[g.val].sitePins o.pins site)

theorem formSites_eq (g : Fin 16) (o : OpenCycle) (x : Group) (l : List (Fin 32)) {s : State} (h : s.groups[g.val].pins = x.pins) :
    forAll l (State.formSite g o) s =
    s.formRecords g o (x.sitePins o.pins) (l.filter fun site => x.sitePins o.pins site != 0) := by
  induction l generalizing s with
  | nil => rw [forAll, State.formRecords, List.filter_nil, List.foldl_nil, List.foldl_nil]
  | cons i l ih =>
    have hp : s.groups[g.val].sitePins o.pins i = x.sitePins o.pins i := sitePins_congr (by simp [h]) _ _
    rw [forAll_cons]
    by_cases hi : x.sitePins o.pins i = 0
    · have hs : State.formSite g o i s = s := if_pos (hp.trans hi)
      rw [hs, List.filter_cons_of_neg (by simp [hi])]
      exact ih h
    · have hs : State.formSite g o i s = s.siteRecord g o i (x.sitePins o.pins i) := by
        rw [State.formSite, hp, if_neg hi]
      rw [hs, List.filter_cons_of_pos (by simpa using hi)]
      exact ih (siteRecord_pins.trans h)

/-- A group's first and last failing test cycles (R174). -/
def Group.failedIn (c : Nat) (x : Group) : Group :=
  { x with fail := { x.fail with first := x.fail.first <|> some (BitVec.ofNat 48 c), last := some (BitVec.ofNat 48 c) } }

theorem closeCycle_forms {s : State} {g : Fin 16} {o : OpenCycle} (h : o.pins ≠ 0) : s.closeCycle g o =
    (s.modGroup g (Group.failedIn o.cycle)).formRecords g o (s.groups[g.val].sitePins o.pins) (s.groups[g.val].failing o.pins) := by
  unfold State.closeCycle
  rw [if_neg h]
  refine formSites_eq g o s.groups[g.val] (allFin 32) ?_
  rw [modGroup_get]

/-- A group whose oldest open test cycle has taken its last fail bit and leaves. -/
def Group.cycleEnds (p : Fin 8) (a : Compare) (rest : List OpenCycle) (x : Group) : Group :=
  { x.bitTaken p a true with fail := { x.fail with open_ := rest } }

/-- The oldest open test cycle of a group leaves as a failing one, its records still to be formed. -/
def State.endsCycle (s : State) (g : Fin 16) (p : Fin 8) (a : Compare) (o : OpenCycle) (rest : List OpenCycle) : State :=
  s.modGroup g (Group.failedIn o.cycle ∘ Group.cycleEnds p a rest)

theorem cycleEnds_sitePins (p : Fin 8) (a : Compare) (rest : List OpenCycle) (x : Group) (b : BitVec 8) :
    (x.cycleEnds p a rest).sitePins b = x.sitePins b := by
  funext i
  refine sitePins_congr (fun q => ?_) b i
  by_cases h : p = q
  · subst h
    simp [Group.cycleEnds, Group.bitTaken]
  · simp [Group.cycleEnds, Group.bitTaken, upd_get_other _ _ _ _ h]

theorem takes_pins (p : Fin 8) (a : Compare) (o : OpenCycle) :
    (o.takes p a).pins = if a.fail = some true then o.pins ||| BitVec.ofNat 8 (2 ^ p.val) else o.pins := by
  unfold OpenCycle.takes failMask
  split <;> simp

/-- Open test cycles still waiting for fail bits stay. -/
theorem closeReady_waits {l : List OpenCycle} (h : ∀ q ∈ l, q.left ≠ 0) : closeReady l = ([], l) := by
  cases l with
  | nil => rfl
  | cons o l => exact if_neg (h o (by simp))

section
variable {s : State} {g : Fin 16} {p : Fin 8} {a : Compare} {o : OpenCycle} {rest : List OpenCycle}
  (hg : s.groupAlive g = true) (ha : s.groups[g.val].pins[p.val].fmt.strobes.find? (·.fail.isSome) = some a) (hw : a.word = none)
  (ho : s.groups[g.val].fail.open_ = o :: rest) (hc : o.cycle = a.cycle) (hl : o.left = 1) (hr : ∀ q ∈ rest, q.cycle ≠ a.cycle)
  (hq : ∀ q ∈ rest, q.left ≠ 0) (hp : (o.takes p a).pins ≠ 0)
include hg ha hw ho hc hl hr hq hp

/-- The last fail bit of a failing test cycle forms its records. -/
theorem exec_failBit_forms : exec (.failBit g p) s = .next
    ((s.endsCycle g p a o rest).formRecords g (o.takes p a)
      (s.groups[g.val].sitePins (o.takes p a).pins) (s.groups[g.val].failing (o.takes p a).pins)) := by
  have hopen : (s.modGroup g (Group.bitCompressed p a ∘ Group.bitTaken p a true)).groups[g.val].fail.open_ = o.takes p a :: rest := by
    rw [modGroup_get]
    show (s.groups[g.val].fail.open_.map fun o => if o.cycle = a.cycle then o.takes p a else o) = _
    rw [ho, List.map_cons, if_pos hc, takes_others hr]
  have hleft : (o.takes p a).left = 0 := by simp [OpenCycle.takes, hl]
  have hready : closeReady (o.takes p a :: rest) = ([o.takes p a], rest) := by
    rw [closeReady, if_pos hleft, closeReady_waits hq]
  have hclose : (s.modGroup g (Group.bitCompressed p a ∘ Group.bitTaken p a true)).closeCycles g =
      (s.modGroup g (Group.cycleEnds p a rest)).closeCycle g (o.takes p a) := by
    simp only [State.closeCycles, hopen, hready, modGroup_twice, List.foldl_cons, List.foldl_nil]
    rfl
  rw [exec_failBit_plain ha hg hw, hclose, closeCycle_forms hp, modGroup_twice, modGroup_get]
  unfold Group.failing
  rw [cycleEnds_sitePins]
  rfl

end

end Sys2Proof.Machine
end

section
/-! SUPPORT. What the records of a test cycle hold and where they are counted (spec/06_fail_capture_and_repair.md, R164 to R167). -/

namespace Sys2Proof.Machine

/-! The fields of a fail record (R166). -/

/-- A fail record's fields from the flags down. -/
def recordNum (c g site addr data pins flags : Nat) : Nat :=
  c + g * 2 ^ 48 + site * 2 ^ 52 + addr * 2 ^ 64 + data * 2 ^ 96 + pins * 2 ^ 112 + flags * 2 ^ 120

theorem bitAt_le (b : Bool) (i : Nat) : bitAt b i ≤ 2 ^ i := by
  cases b <;> simp [bitAt, b2n, Nat.shiftLeft_eq]

/-- A fail record is its fields side by side. -/
theorem failRecord_toNat (g : Fin 16) (x : Group) (site : Fin 32) (o : OpenCycle) (pins : BitVec 8) (gap : Bool) : ∃ flags,
    (failRecord g x site o pins gap).toNat = recordNum (o.cycle % 2 ^ 48) g.val site.val o.addr.toNat o.data.toNat pins.toNat flags := by
  have h0 := bitAt_le (o.window &&& pins != 0) 0
  have h1 := bitAt_le (sinceCycle x.run.underAt o.cycle) 1
  have h2 := bitAt_le (sinceCycle x.run.haltCycle o.cycle) 2
  have h3 := bitAt_le (sinceCycle x.run.supplyAt o.cycle) 3
  have h4 := bitAt_le gap 4
  have h5 := bitAt_le o.tap 5
  have h6 := bitAt_le (sinceCycle x.run.clashAt o.cycle) 6
  have hc : o.cycle % 2 ^ 48 < 2 ^ 48 := Nat.mod_lt _ (by decide)
  have ha := o.addr.isLt
  have hd := o.data.isLt
  have hp := pins.isLt
  refine ⟨_, (BitVec.toNat_ofNat _ _).trans (Nat.mod_eq_of_lt ?_)⟩
  generalize bitAt (o.window &&& pins != 0) 0 = f0 at *
  generalize bitAt (sinceCycle x.run.underAt o.cycle) 1 = f1 at *
  generalize bitAt (sinceCycle x.run.haltCycle o.cycle) 2 = f2 at *
  generalize bitAt (sinceCycle x.run.supplyAt o.cycle) 3 = f3 at *
  generalize bitAt gap 4 = f4 at *
  generalize bitAt o.tap 5 = f5 at *
  generalize bitAt (sinceCycle x.run.clashAt o.cycle) 6 = f6 at *
  omega

section
variable {c g site addr data pins flags : Nat} (hc : c < 2 ^ 48) (hg : g < 16) (hs : site < 32) (ha : addr < 2 ^ 32) (hd : data < 2 ^ 16)
  (hp : pins < 2 ^ 8)
include hc

theorem recordNum_cycle : bitsOf (recordNum c g site addr data pins flags) 0 48 = c := by
  simp only [bitsOf, recordNum, Nat.shiftRight_zero]
  omega

include hg

theorem recordNum_group : bitsOf (recordNum c g site addr data pins flags) 48 4 = g := by
  simp only [bitsOf, recordNum, Nat.shiftRight_eq_div_pow]
  omega

include hs

theorem recordNum_site : bitsOf (recordNum c g site addr data pins flags) 52 5 = site := by
  simp only [bitsOf, recordNum, Nat.shiftRight_eq_div_pow]
  omega

include ha hd hp

theorem recordNum_pins : bitsOf (recordNum c g site addr data pins flags) 112 8 = pins := by
  simp only [bitsOf, recordNum, Nat.shiftRight_eq_div_pow]
  omega

end

/-- A record of a test cycle for a site, with or without `GAP`. -/
def IsRecord (g : Fin 16) (x : Group) (o : OpenCycle) (pins : Fin 32 → BitVec 8) (site : Fin 32) (r : FailRec) : Prop :=
  ∃ gap, r = failRecord g x site o (pins site) gap

theorem IsRecord.fields {g : Fin 16} {x : Group} {o : OpenCycle} {pins : Fin 32 → BitVec 8} {site : Fin 32} {r : FailRec}
    (h : IsRecord g x o pins site r) : bitsOf r.toNat 0 48 = o.cycle % 2 ^ 48 ∧ bitsOf r.toNat 48 4 = g.val ∧
      bitsOf r.toNat 52 5 = site.val ∧ bitsOf r.toNat 112 8 = (pins site).toNat := by
  obtain ⟨gap, rfl⟩ := h
  obtain ⟨flags, hr⟩ := failRecord_toNat g x site o (pins site) gap
  have hc : o.cycle % 2 ^ 48 < 2 ^ 48 := Nat.mod_lt _ (by decide)
  rw [hr]
  exact ⟨recordNum_cycle hc, recordNum_group hc g.isLt, recordNum_site hc g.isLt site.isLt,
    recordNum_pins hc g.isLt site.isLt o.addr.isLt o.data.isLt (pins site).isLt⟩

/-! Records of several sites, none suppressed, dropped or reported. -/

/-- A group with records added to its FIFO. -/
def Group.withRecords (lastRec : Vector (Option FailKey) 32) (n : Nat) (gap : Bool) (recs : List FailRec) (x : Group) : Group :=
  { x with fail := { x.fail with lastRec := lastRec, produced := n, gap := gap, fifo := x.fail.fifo ++ recs } }

theorem withRecords_none (x : Group) : x.withRecords x.fail.lastRec x.fail.produced x.fail.gap [] = x := by
  simp [Group.withRecords]

/-- The records of some sites have been formed, produced and counted. -/
structure RecordsFormed (g : Fin 16) (o : OpenCycle) (pins : Fin 32 → BitVec 8) (l : List (Fin 32)) (s t : State) : Prop where
  group : ∃ lastRec n gap recs, t.groups[g.val] = s.groups[g.val].withRecords lastRec n gap recs ∧
    List.Forall₂ (IsRecord g s.groups[g.val] o pins) l recs
  others : OneGroup s t g
  book : ∀ site, t.dieCount site (groupDie g) 2 = s.dieCount site (groupDie g) 2 + l.count site

section
variable {g : Fin 16} {o : OpenCycle} {pins : Fin 32 → BitVec 8} {s : State}

theorem siteRecord_forms {site : Fin 32} (hs : s.groups[g.val].fail.suppress = false) (hf : s.groups[g.val].fail.fifo.length < 1024)
    (ht : s.groups[g.val].fail.threshold = 0) : RecordsFormed g o pins [site] s (s.siteRecord g o site (pins site)) := by
  have hgroup : (s.produceRecord g o site (pins site)).groups[g.val] = s.groups[g.val].recorded g o site (pins site) false := by
    rw [produceRecord_group, decide_eq_false (Nat.not_le.mpr hf)]
  have hmeets : (s.produceRecord g o site (pins site)).groups[g.val].fail.meets = false := by
    rw [hgroup]
    simp [GFail.meets, Group.recorded, ht]
  rw [siteRecord_fresh (.inl hs), hmeets, if_neg Bool.false_ne_true]
  refine ⟨⟨_, _, _, _, hgroup, .cons ⟨_, rfl⟩ .nil⟩, fun i hi => ?_, fun i => ?_⟩
  · rw [produceRecord_groups]
    exact modGroup_get_ne _ hi _
  · rw [produceRecord_room hf]
    show State.dieCount (State.countDie _ _ _ _) _ _ _ = _
    by_cases hi : site = i
    · subst hi
      rw [countDie_same, countDie_entry _ _ _ (by decide)]
      simp
    · rw [countDie_site _ hi, countDie_site _ hi]
      simp [hi]

theorem RecordsFormed.cons {site : Fin 32} {l : List (Fin 32)} {t u : State} (h : RecordsFormed g o pins [site] s t)
    (k : RecordsFormed g o pins l t u) : RecordsFormed g o pins (site :: l) s u := by
  obtain ⟨⟨_, _, _, recs, hgroup, hrecs⟩, hothers, hbook⟩ := h
  obtain ⟨⟨lastRec, n, gap, more, kgroup, kmore⟩, kothers, kbook⟩ := k
  refine ⟨⟨lastRec, n, gap, recs ++ more, ?_, ?_⟩, fun i hi => (kothers i hi).trans (hothers i hi), fun i => ?_⟩
  · rw [kgroup, hgroup]
    simp [Group.withRecords]
  · rw [hgroup] at kmore
    exact List.rel_append hrecs kmore
  · rw [kbook, hbook, Nat.add_assoc, ← List.count_append, List.singleton_append]

theorem formRecords_forms (l : List (Fin 32)) (hs : s.groups[g.val].fail.suppress = false)
    (hf : s.groups[g.val].fail.fifo.length + l.length ≤ 1024) (ht : s.groups[g.val].fail.threshold = 0) :
    RecordsFormed g o pins l s (s.formRecords g o pins l) := by
  induction l generalizing s with
  | nil => exact ⟨⟨_, _, _, [], (withRecords_none _).symm, .nil⟩, fun _ _ => rfl, fun _ => rfl⟩
  | cons i l ih =>
    rw [List.length_cons] at hf
    have hi : RecordsFormed g o pins [i] s (s.siteRecord g o i (pins i)) := siteRecord_forms hs (by omega) ht
    obtain ⟨_, _, _, recs, hgroup, hrecs⟩ := hi.group
    have hlen : recs.length = 1 := hrecs.length_eq.symm
    refine hi.cons (ih ?_ ?_ ?_)
    · rw [hgroup]
      exact hs
    · rw [hgroup]
      simp only [Group.withRecords, List.length_append, hlen]
      omega
    · rw [hgroup]
      exact ht

end

/-- A site is counted once where the failing pins reach it. -/
theorem count_failing (x : Group) (pins : BitVec 8) (i : Fin 32) :
    (x.failing pins).count i = if x.sitePins pins i = 0 then 0 else 1 := by
  unfold Group.failing
  have hall : (allFin 32).count i = 1 := by
    revert i
    decide
  by_cases h : x.sitePins pins i = 0
  · rw [if_pos h, List.count_eq_zero]
    intro hi
    exact absurd h (by simpa using (List.mem_filter.mp hi).2)
  · rw [if_neg h, List.count_filter (by simpa using h), hall]

/-! One failing site (R165, R167, R175). -/

section
variable {g : Fin 16} {o : OpenCycle} {site : Fin 32} {pins : BitVec 8} {s : State}

theorem siteRecord_suppressed_counts (hs : s.groups[g.val].fail.suppress = true)
    (hk : s.groups[g.val].fail.lastRec[site.val] = some { pins := pins, addr := o.addr, data := o.data }) :
    (s.siteRecord g o site pins).groups = s.groups ∧
    (s.siteRecord g o site pins).dieCount site (groupDie g) 1 = s.dieCount site (groupDie g) 1 + 1 ∧
    (s.siteRecord g o site pins).dieCount site (groupDie g) 2 = s.dieCount site (groupDie g) 2 := by
  rw [siteRecord_suppressed hs hk]
  refine ⟨rfl, ?_, ?_⟩
  · rw [countDie_same, countDie_entry _ _ _ (by decide)]
  · rw [countDie_entry _ _ _ (by decide), countDie_entry _ _ _ (by decide)]

theorem produceRecord_drops (hf : 1024 ≤ s.groups[g.val].fail.fifo.length) :
    (s.produceRecord g o site pins).dieCount site (groupDie g) 2 = s.dieCount site (groupDie g) 2 + 1 ∧
    (s.produceRecord g o site pins).dieCount site (groupDie g) 3 = s.dieCount site (groupDie g) 3 + 1 ∧
    (s.produceRecord g o site pins).activeEv 36 := by
  rw [produceRecord_full hf]
  refine ⟨?_, ?_, State.raise_active _ _ _ _ _⟩
  · simp only [State.dieCount, State.raise_brood]
    show State.dieCount (State.countDie (((s.countDie site (groupDie g) 0).countDie site (groupDie g) 2)) site (groupDie g) 3) _ _ _ = _
    rw [countDie_entry _ _ _ (by decide), countDie_same, countDie_entry _ _ _ (by decide)]
    rfl
  · simp only [State.dieCount, State.raise_brood]
    show State.dieCount (State.countDie (((s.countDie site (groupDie g) 0).countDie site (groupDie g) 2)) site (groupDie g) 3) _ _ _ = _
    rw [countDie_same, countDie_entry _ _ _ (by decide), countDie_entry _ _ _ (by decide)]
    rfl

variable (hk : s.groups[g.val].fail.suppress = false ∨
  s.groups[g.val].fail.lastRec[site.val] ≠ some { pins := pins, addr := o.addr, data := o.data })
include hk

/-- A full FIFO drops the record, counts it and keeps the gap in mind (R167). -/
theorem siteRecord_full (hf : 1024 ≤ s.groups[g.val].fail.fifo.length) :
    (s.siteRecord g o site pins).groups[g.val].fail.fifo = s.groups[g.val].fail.fifo ∧
    (s.siteRecord g o site pins).groups[g.val].fail.gap = true ∧
    (s.siteRecord g o site pins).dieCount site (groupDie g) 2 = s.dieCount site (groupDie g) 2 + 1 ∧
    (s.siteRecord g o site pins).dieCount site (groupDie g) 3 = s.dieCount site (groupDie g) 3 + 1 ∧
    (s.siteRecord g o site pins).activeEv 36 := by
  obtain ⟨hproduced, hdropped, hev⟩ := produceRecord_drops (g := g) (o := o) (site := site) (pins := pins) hf
  have hgroup : (s.produceRecord g o site pins).groups[g.val] = s.groups[g.val].recorded g o site pins true := by
    rw [produceRecord_group, decide_eq_true hf]
  rw [siteRecord_fresh hk]
  split
  · rw [reportThreshold_group, hgroup]
    refine ⟨rfl, rfl, ?_, ?_, reportThreshold_stays hev⟩
    · rw [State.dieCount, reportThreshold_brood]
      exact hproduced
    · rw [State.dieCount, reportThreshold_brood]
      exact hdropped
  · rw [hgroup]
    exact ⟨rfl, rfl, hproduced, hdropped, hev⟩

/-- The count that reaches the threshold is reported once (R175). -/
theorem siteRecord_threshold (ht : s.groups[g.val].fail.threshold ≠ 0) (hd : s.groups[g.val].fail.fired = false)
    (hn : s.groups[g.val].fail.threshold.toNat ≤ s.groups[g.val].fail.produced + 1) :
    (s.siteRecord g o site pins).groups[g.val].fail.fired = true ∧ Raised s (s.siteRecord g o site pins) (thresholdEv g) ∧
    (s.siteRecord g o site pins).workers[(groupWorker g).val].regs.wipend.getLsbD 6 = true := by
  have hmeets : (s.produceRecord g o site pins).groups[g.val].fail.meets = true := by
    rw [produceRecord_group]
    have ht : s.groups[g.val].fail.threshold ≠ 0#32 := ht
    simp [GFail.meets, Group.recorded, ht, hd, hn]
  rw [siteRecord_fresh hk, if_pos hmeets]
  refine ⟨?_, reportThreshold_raises produceRecord_threshold, reportThreshold_pends⟩
  rw [reportThreshold_group]

end

end Sys2Proof.Machine
end

section
/-! SUPPORT. The last fail bit of a failing test cycle (spec/06_fail_capture_and_repair.md, R164 to R167, R175). -/

namespace Sys2Proof.Machine

theorem failing_length (x : Group) (pins : BitVec 8) : (x.failing pins).length ≤ 32 := by
  unfold Group.failing
  exact (List.length_filter_le _ _).trans_eq List.length_finRange

section
variable {s : State} {g : Fin 16} {p : Fin 8} {a : Compare} {o : OpenCycle} {rest : List OpenCycle}
  (hg : s.groupAlive g = true) (ha : s.groups[g.val].pins[p.val].fmt.strobes.find? (·.fail.isSome) = some a) (hw : a.word = none)
  (ho : s.groups[g.val].fail.open_ = o :: rest) (hc : o.cycle = a.cycle) (hl : o.left = 1) (hr : ∀ q ∈ rest, q.cycle ≠ a.cycle)
  (hq : ∀ q ∈ rest, q.left ≠ 0) (hp : (o.takes p a).pins ≠ 0)
include hg ha hw ho hc hl hr hq hp

/-- With neither `SUPPRESS` nor a threshold, and room in the FIFO, each failing site has its record there (R164, R166). -/
theorem exec_failBit_records (hs : s.groups[g.val].fail.suppress = false) (hf : s.groups[g.val].fail.fifo.length + 32 ≤ 1024)
    (ht : s.groups[g.val].fail.threshold = 0) : ∃ t recs, exec (.failBit g p) s = .next t ∧ OneGroup s t g ∧
      t.groups[g.val].fail.open_ = rest ∧ t.groups[g.val].fail.fifo = s.groups[g.val].fail.fifo ++ recs ∧
      List.Forall₂ (IsRecord g ((s.groups[g.val].cycleEnds p a rest).failedIn o.cycle) (o.takes p a)
        (s.groups[g.val].sitePins (o.takes p a).pins)) (s.groups[g.val].failing (o.takes p a).pins) recs ∧
      t.groups[g.val].fail.last = some (BitVec.ofNat 48 o.cycle) ∧
      ∀ site, t.dieCount site (groupDie g) 2 =
        s.dieCount site (groupDie g) 2 + if s.groups[g.val].sitePins (o.takes p a).pins site = 0 then 0 else 1 := by
  have hx : (s.endsCycle g p a o rest).groups[g.val] =
      (s.groups[g.val].cycleEnds p a rest).failedIn o.cycle := modGroup_get s g _
  have hfifo : ((s.groups[g.val].cycleEnds p a rest).failedIn o.cycle).fail.fifo = s.groups[g.val].fail.fifo := rfl
  have hforms : RecordsFormed g (o.takes p a) (s.groups[g.val].sitePins (o.takes p a).pins) (s.groups[g.val].failing (o.takes p a).pins)
      (s.endsCycle g p a o rest) _ :=
    formRecords_forms _ (by rw [hx]; exact hs) (by rw [hx, hfifo]; exact (Nat.add_le_add_left (failing_length _ _) _).trans hf) (by rw [hx]; exact ht)
  obtain ⟨⟨_, _, _, recs, hgroup, hrecs⟩, hothers, hbook⟩ := hforms
  rw [hx] at hgroup hrecs
  refine ⟨_, recs, exec_failBit_forms hg ha hw ho hc hl hr hq hp, fun i hi => (hothers i hi).trans (modGroup_get_ne s hi _), ?_, ?_, hrecs, ?_,
    fun site => ?_⟩
  · rw [hgroup]
    rfl
  · rw [hgroup]
    rfl
  · rw [hgroup]
    rfl
  · rw [hbook, count_failing]
    rfl

/-- The one site that a test cycle fails for has its record. -/
theorem exec_failBit_site {site : Fin 32} (h : s.groups[g.val].failing (o.takes p a).pins = [site]) : exec (.failBit g p) s = .next
    ((s.endsCycle g p a o rest).siteRecord g (o.takes p a) site
      (s.groups[g.val].sitePins (o.takes p a).pins site)) := by
  rw [exec_failBit_forms hg ha hw ho hc hl hr hq hp, h]
  rfl

end

end Sys2Proof.Machine
end

section
/-! SUPPORT. A fail record at the pipeline (spec/06_fail_capture_and_repair.md, R168 to R171, R178, R179). -/

namespace Sys2Proof.Machine

/-! What a write of HBM leaves alone whatever it meets. -/

theorem ReadOnly.brood {s t : State} (h : ReadOnly s t) : t.brood = s.brood := by
  rw [show t = _ from h]

theorem writeSector_brood (s : State) (q : Requester) (b off : Nat) (bs : Bytes) (e : MemErr) :
    (s.writeSector q b off bs e).st.brood = s.brood := by
  unfold State.writeSector
  extract_lets a r u top v
  have hr : r.st.brood = s.brood := (State.openSector_reads s q a b _ e).brood
  have hv : v.brood = s.brood := hr
  clear_value v
  split
  · exact hr
  split
  extract_lets i
  split
  · exact (State.alarm_reads u 1 a).brood.trans hr
  · split
    · exact (State.freeze_reads v _ _ _ _ _ _).brood.trans hv
    · exact hv

theorem hbmWrite_brood (s : State) (q : Requester) (a : Nat) (bs : Bytes) (e : MemErr) : (s.hbmWrite q a bs e).st.brood = s.brood := by
  unfold State.hbmWrite
  refine List.foldlRecOn (motive := fun r : Served => r.st.brood = s.brood) _ _ rfl fun r hr p _ => ?_
  split
  · exact hr
  · exact (writeSector_brood _ _ _ _ _ _).trans hr

/-! The log ring (R169, R170). -/

theorem logNow_table (s : State) (r : FailRec) (e : MemErr) :
    (s.logNow r e).brood.sites = s.brood.sites ∧ (s.logNow r e).brood.inbox = s.brood.inbox := by
  have hw (a : Nat) (bs : Bytes) := hbmWrite_brood s .failLog a bs e
  unfold State.logNow
  dsimp only
  split
  · exact ⟨rfl, rfl⟩
  split
  · exact ⟨rfl, rfl⟩
  split
  · dsimp only
    rw [hw]
    exact ⟨rfl, rfl⟩
  · dsimp only
    rw [hw]
    exact ⟨rfl, rfl⟩

/-- The log touches neither the table nor what is still on its way. -/
theorem logRecord_table (s : State) (r : FailRec) (e : MemErr) :
    (s.logRecord r e).brood.sites = s.brood.sites ∧ (s.logRecord r e).brood.inbox = s.brood.inbox := by
  unfold State.logRecord
  split
  · exact ⟨rfl, rfl⟩
  · exact logNow_table s r e

section
variable {s : State} (r : FailRec)

theorem logRecord_none (h : s.brood.logMode = 0) (e : MemErr) : s.logRecord r e = s := by
  have hm : (s.brood.logMode != 0) = false := by simp [h]
  rw [State.logRecord, hm, Bool.false_and, if_neg Bool.false_ne_true]
  exact if_pos h

theorem logRecord_unqueued (h : s.mem.rekey = none) (e : MemErr) : s.logRecord r e = s.logNow r e := by
  rw [State.logRecord, h, Option.isSome_none, Bool.and_false, if_neg Bool.false_ne_true]

theorem logRecord_lost (h : s.brood.logMode = 2) (hf : 2 ^ s.brood.logSize.toNat ≤ s.brood.logHead.toNat) (hk : s.mem.rekey = none) (e : MemErr) :
    s.logRecord r e = { s with brood := { s.brood with logLost := s.brood.logLost + 1 } } := by
  rw [logRecord_unqueued r hk, State.logNow]
  dsimp only
  rw [if_neg (by rw [h]; decide), decide_eq_true h, decide_eq_true hf, Bool.and_self, if_pos rfl]

/-- The address of the ring's next slot. -/
def State.logSlot (s : State) : Nat := s.brood.logBase.toNat + 16 * (s.brood.logHead.toNat % 2 ^ s.brood.logSize.toNat)

theorem logRecord_stores (hm : s.brood.logMode ≠ 0) (hf : s.brood.logMode = 2 → s.brood.logHead.toNat < 2 ^ s.brood.logSize.toNat)
    (h : HbmServes s) (hwf : s.mem.wf = true) (hone : s.logSlot / 512 = (s.logSlot + 15) / 512) :
    ∃ u, s.logRecord r .ok = { u with brood := { s.brood with logHead := s.brood.logHead + 1 } } ∧ Wrote s u s.logSlot (numBytes 16 r.toNat) := by
  have hlen : (numBytes 16 r.toNat).length = 16 := numBytes_length 16 _
  have hstore := hbmWrite_stores (h.opens .failLog) h.open_ h.low.1 h.low.2 (a := s.logSlot) (data := numBytes 16 r.toNat) (by omega)
    (by rw [hlen]; exact hone)
  have hroom : (decide (s.brood.logMode = 2) && decide (2 ^ s.brood.logSize.toNat ≤ s.brood.logHead.toNat)) = false := by
    rw [Bool.and_eq_false_imp]
    exact fun h2 => decide_eq_false (Nat.not_le.mpr (hf (of_decide_eq_true h2)))
  have hwrote := (sectorWritten_stores hwf (s.logSlot / 512) (s.logSlot - 512 * (s.logSlot / 512)) (numBytes 16 r.toNat)).1
  rw [show 512 * (s.logSlot / 512) + (s.logSlot - 512 * (s.logSlot / 512)) = s.logSlot by omega] at hwrote
  refine ⟨_, ?_, hwrote⟩
  have hbrood := congrArg State.brood (sectorWritten_rest s (s.logSlot / 512) (s.logSlot - 512 * (s.logSlot / 512)) (numBytes 16 r.toNat))
  dsimp only at hbrood
  unfold State.logSlot at hstore hbrood ⊢
  rw [logRecord_unqueued r h.free.1, State.logNow]
  dsimp only
  rw [if_neg hm, hroom, if_neg Bool.false_ne_true, hstore]
  dsimp only
  rw [hbrood]

end

/-! The table (R178, R179). -/

/-- Nothing has changed but events and one site's part of the table, and in that not its books on the dies. -/
structure TableOnly (i : Fin 32) (s t : State) : Prop where
  rest : t = { s with ev := t.ev, brood := { s.brood with sites := t.brood.sites } }
  others : ∀ j : Fin 32, j ≠ i → t.brood.sites[j.val] = s.brood.sites[j.val]
  dieBook : t.brood.sites[i.val].dieBook = s.brood.sites[i.val].dieBook

/-- The records that a site's book has accounted for: stored, merged or dropped. -/
def State.accounted (s : State) (i : Fin 32) : Nat := ((s.brood.sites[i.val].book.toList).take 5).sum

section
variable {i : Fin 32}

theorem TableOnly.refl (s : State) : TableOnly i s s := ⟨rfl, fun _ _ => rfl, rfl⟩

theorem TableOnly.trans {s t u : State} (h : TableOnly i s t) (k : TableOnly i t u) : TableOnly i s u :=
  ⟨k.rest.trans (by rw [h.rest]), fun j hj => (k.others j hj).trans (h.others j hj), k.dieBook.trans h.dieBook⟩

theorem modSite_table (s : State) {f : Site → Site} (hf : (f s.brood.sites[i.val]).dieBook = s.brood.sites[i.val].dieBook) :
    TableOnly i s (s.modSite i f) where
  rest := rfl
  others j hj := upd_get_other _ _ _ _ hj.symm
  dieBook := by rw [State.modSite_brood_sites, upd_get_same, hf]

theorem raise_table (s : State) (e : Fin 256) (sev unit det : Nat) : TableOnly i s (s.raise e sev unit det) where
  rest := by rw [State.raise_rest]
  others j _ := by rw [State.raise_brood]
  dieBook := by rw [State.raise_brood]

theorem raise_accounted (s : State) (e : Fin 256) (sev unit det : Nat) : (s.raise e sev unit det).accounted i = s.accounted i := by
  rw [State.accounted, State.raise_brood]
  rfl

theorem modSite_accounted (s : State) (f : Site → Site) : (s.modSite i f).accounted i = (((f s.brood.sites[i.val]).book.toList).take 5).sum := by
  rw [State.accounted, State.modSite_brood_sites, upd_get_same]

/-- Entries 0 to 4 of a book count the records that are accounted for. -/
theorem count_accounts (b : Vector Nat 9) (k : Fin 9) :
    ((upd b k (· + 1)).toList.take 5).sum = (b.toList.take 5).sum + if k.val < 5 then 1 else 0 := by
  have five (v : Vector Nat 9) : (v.toList.take 5).sum = v[0] + v[1] + v[2] + v[3] + v[4] := by
    obtain ⟨⟨l⟩, hl⟩ := v
    match l, hl with
    | [a, b, c, d, e, _, _, _, _], _ => simp [Nat.add_assoc]
  rw [five, five]
  fin_cases k <;> simp [upd] <;> omega

end

/-- What has become of a cell leaves the records accounted for as they were. -/
theorem applyCell_table (s : State) (i : Fin 32) (g : Geom) (c : Cell3) :
    TableOnly i s (s.applyCell i g c).1 ∧ (s.applyCell i g c).1.accounted i = s.accounted i := by
  have site {f : Site → Site} (hd : (f s.brood.sites[i.val]).dieBook = s.brood.sites[i.val].dieBook) (k : Fin 9) (hk : ¬ k.val < 5)
      (hb : (f s.brood.sites[i.val]).book = upd s.brood.sites[i.val].book k (· + 1)) :
      TableOnly i s (s.modSite i f) ∧ (s.modSite i f).accounted i = s.accounted i := by
    refine ⟨modSite_table s hd, ?_⟩
    rw [modSite_accounted, hb, count_accounts, if_neg hk]
    rfl
  unfold State.applyCell
  extract_lets x b? b b' cells own b'' t
  split
  · exact site rfl 7 (by decide) rfl
  split
  · exact site rfl 7 (by decide) rfl
  split
  · exact site rfl 6 (by decide) rfl
  split
  · exact site rfl 5 (by decide) rfl
  · have ht : TableOnly i s t ∧ t.accounted i = s.accounted i := by
      clear_value b?
      refine site ?_ 8 (by decide) ?_ <;> cases b? <;> rfl
    clear_value t
    dsimp only
    split
    · exact ht
    · exact ⟨ht.1.trans (raise_table _ _ _ _ _), (raise_accounted _ _ _ _ _).trans ht.2⟩

section
variable (s : State) (group : Fin 16) (r : FailRec)

/-- A record that finds no partition or geometry (R178). -/
theorem applyRecord_noPart {s : State} (h : s.brood.sites[(recSite r).val].geom = none ∨ s.brood.sites[(recSite r).val].size = 0) :
    s.applyRecord group r = (s.modSite (recSite r) (Site.count · 2)).raise 36 2 (recSite r).val (detail [(0, 1, 2)]) := by
  unfold State.applyRecord
  dsimp only
  split
  · rfl
  next hg =>
    rw [if_pos (h.resolve_left (by rw [hg]; nofun))]

/-- A site's book takes a record in. -/
theorem count_table (i : Fin 32) (k : Fin 9) (hk : k.val < 5) : TableOnly i s (s.modSite i (Site.count · k)) ∧
    (s.modSite i (Site.count · k)).accounted i = s.accounted i + 1 := by
  refine ⟨modSite_table s rfl, ?_⟩
  rw [modSite_accounted]
  exact (count_accounts _ k).trans (by rw [if_pos hk]; rfl)

/-- A record is accounted for once, in the book of its site (R171). -/
theorem applyRecord_accounts : TableOnly (recSite r) s (s.applyRecord group r) ∧
    (s.applyRecord group r).accounted (recSite r) = s.accounted (recSite r) + 1 := by
  have drops (k : Fin 9) (hk : k.val < 5) (kind : Nat) :
      TableOnly (recSite r) s ((s.modSite (recSite r) (Site.count · k)).raise 36 2 (recSite r).val (detail [(0, 1, kind)])) ∧
      ((s.modSite (recSite r) (Site.count · k)).raise 36 2 (recSite r).val (detail [(0, 1, kind)])).accounted (recSite r) =
        s.accounted (recSite r) + 1 := by
    obtain ⟨ht, ha⟩ := count_table s (recSite r) k hk
    exact ⟨ht.trans (raise_table _ _ _ _ _), (raise_accounted _ _ _ _ _).trans ha⟩
  unfold State.applyRecord
  dsimp only
  split
  · exact drops 2 (by decide) 2
  next g hg =>
    split
    · exact drops 2 (by decide) 2
    split
    · exact drops 3 (by decide) 1
    · have hcells := List.foldlRecOn (motive := fun a : State × List CellFate => TableOnly (recSite r) s a.1 ∧
          a.1.accounted (recSite r) = s.accounted (recSite r)) (cellsOfRec s.groups[group.val] g r)
        (fun a c => ((a.1.applyCell (recSite r) g c).1, (a.1.applyCell (recSite r) g c).2 :: a.2)) (b := (s, [])) ⟨.refl s, rfl⟩
        fun a ha c _ => by
          obtain ⟨ht, he⟩ := applyCell_table a.1 (recSite r) g c
          exact ⟨ha.1.trans ht, he.trans ha.2⟩
      generalize List.foldl _ _ _ = a at hcells ⊢
      obtain ⟨ht, he⟩ := count_table a.1 (recSite r) (if a.2.contains .lost then 4 else if a.2.contains .fresh then 0 else 1)
        (by split_ifs <;> decide)
      exact ⟨hcells.1.trans ht, he.trans (congrArg (· + 1) hcells.2)⟩

end

/-- A record leaves the queue of what has come over the network. -/
def State.entered (s : State) (e : Fin 16 × FailRec) : State := { s with brood := { s.brood with inbox := s.brood.inbox.erase e } }

/-- A fail record that waits at a running pipeline. -/
theorem exec_failRecord {s : State} {x : FailArrival} {e : Fin 16 × FailRec} (h : s.broodRuns = true)
    (hf : s.brood.inbox.find? (·.1 = x.g) = some e) : exec (.failRecord x) s = .next
      (((s.entered e).logRecord e.2 x.err).applyRecord x.g e.2) := by
  show execFailRecord x s = _
  simp only [execFailRecord, h, hf, Bool.not_true, Bool.false_eq_true, if_false]
  rfl

end Sys2Proof.Machine
end

section
/-! SUPPORT. Markers and the end of a run (spec/04_timing_and_vectors.md, R112, R122, R123). -/

namespace Sys2Proof.Machine

/-! A Worker that ends leaves the state of every group as it is. -/

theorem dropWaiting_st (s : State) (w : Fin 32) (i : Fin 16) : (s.dropWaiting w).groups[i.val].st = s.groups[i.val].st := by
  unfold State.dropWaiting
  split
  · rfl
  next g _ =>
    by_cases h : i = g
    · subst h
      rw [modGroup_get]
      split <;> rfl
    · rw [modGroup_get_ne s h]

theorem endWorker_st (s : State) (w : Fin 32) (i : Fin 16) : (s.endWorker w).groups[i.val].st = s.groups[i.val].st := by
  obtain ⟨m, hm⟩ := s.drain_eq w
  rw [endWorker_eq, hm]
  generalize hu : (({ s with mem := m } : State).modWorker w Worker.drained).modWorker w _ = u
  have hgroups : u.groups = s.groups := by
    rw [← hu]
    rfl
  obtain ⟨q, e, hs⟩ := u.releaseSems_rest w
  unfold State.departs
  rw [(State.settled_settles _ w).groups]
  refine (dropWaiting_st _ w i).trans ?_
  rw [State.workerEvent, State.raiseDie, State.raise_groups, hs]
  exact congrArg (fun v : Vector Group 16 => v[i.val].st) hgroups

/-! Markers (R112). -/

/-- A marker as a group shows it. -/
def Group.showsMark (v : BitVec 8) (c : BitVec 48) (l : List (BitVec 8 × BitVec 48)) (x : Group) : Group :=
  { x with markValue := v, markCount := x.markCount + 1, markCycle := c, run := { x.run with marks := l } }

section
variable {s : State} {g : Fin 16} (ha : s.groupAlive g = true)
include ha

theorem exec_markerRecord_shows {v : BitVec 8} {c : BitVec 48} {l : List (BitVec 8 × BitVec 48)} (h : s.groups[g.val].run.marks = (v, c) :: l) :
    exec (.markerRecord g) s = .next ((s.modGroup g (Group.showsMark v c l)).pendLine (groupWorker g) 3) := by
  show execMarkerRecord g s = _
  simp only [execMarkerRecord, h, ha, Bool.not_true, Bool.false_eq_true, if_false]
  rfl

/-! The end of a run (R122, R123). -/

/-- A group whose stop is complete. -/
def Group.stopped (x : Group) : Group := { x with st := .done, run := { x.run with stopping := false } }

theorem exec_runDone_stops (h : s.groups[g.val].run.stopping = true) :
    exec (.runDone g) s = .next ((s.modGroup g Group.stopped).stopSettled (groupWorker g)) := by
  show execRunDone g s = _
  simp only [execRunDone, h, ha, Bool.not_true, Bool.false_eq_true, if_false, if_true]
  rfl

section
variable (hs : s.groups[g.val].run.stopping = false) (hp : s.groups[g.val].st = .playing) (hk : s.workers[(groupWorker g).val].ended = true)
include hs hp hk

theorem exec_runDone_ends (hn : s.groups[g.val].run.next = .none_) (hd : s.groups[g.val].drained = false) :
    exec (.runDone g) s = .next (s.modGroup g fun x => { x with run := { x.run with ending := true } }) := by
  show execRunDone g s = _
  simp [execRunDone, State.runMayEnd, ha, hs, hp, hk, hn, hd]

theorem exec_runDone_finishes (hn : s.groups[g.val].run.next = .none_ ∨ s.groups[g.val].run.ending = true)
    (hd : s.groups[g.val].drained = true) : exec (.runDone g) s = .next
      ((s.modGroup g fun x => { x with st := .done, run := { x.run with ending := false } }).endWorker (groupWorker g)) := by
  have hfinish : s.finishRun g = (s.modGroup g fun x => { x with st := .done, run := { x.run with ending := false } }).endWorker
      (groupWorker g) := by
    unfold State.finishRun
    exact if_pos hk
  rw [← hfinish]
  show execRunDone g s = _
  rcases hn with hn | hn <;> simp [execRunDone, State.runMayEnd, ha, hs, hp, hk, hn, hd]

end

end

end Sys2Proof.Machine
end

section
/-! SUPPORT. Fail records and the end of a run (spec/04_timing_and_vectors.md, R112, R122, R123; spec/06_fail_capture_and_repair.md,
R164 to R178). -/

namespace Sys2Proof.Machine

/-- Settles O17: a test cycle by its failing sites, a record by the log and the table it goes to, a run by what ends it. -/
theorem failRecords : Obligations.FailRecords := by
  refine ⟨?records, ?site, ?arrival, ?ends⟩
  case records =>
    intro s g p a o rest x d pins failing onCycle hg ha hsome hw ho hc hl hr hq hp hs hf ht
    have hpins : (o.takes p a).pins = pins := takes_pins p a o
    obtain ⟨t, recs, ht, hothers, hopen, hfifo, hrecs, hlast, hbook⟩ :=
      exec_failBit_records hg ha hw ho hc hl hr hq (by rw [hpins]; exact hp) hs hf ht
    rw [hpins] at hrecs hbook
    refine ⟨t, recs, ht, hothers, hopen, hfifo, hrecs.length_eq.symm, fun i hi => ?_, hlast, hbook⟩
    have hif : i < failing.length := Nat.lt_of_lt_of_eq hi hrecs.length_eq.symm
    have hfields := (hrecs.get hif hi).fields
    simp only [List.get_eq_getElem] at hfields
    obtain ⟨hcycle, hgroup, hsite, hrec⟩ := hfields
    refine ⟨⟨hcycle, hgroup⟩, ?_, ?_⟩
    · rw [List.getElem?_eq_getElem hif]
      exact congrArg some hsite.symm
    · rw [hsite, Fin.ofNat_val_eq_self]
      exact hrec
  case site =>
    intro s g p a o rest site x d pins key book fresh hg ha hsome hw ho hc hl hr hq hp hone
    have hpins : (o.takes p a).pins = pins := takes_pins p a o
    have hexec := exec_failBit_site hg ha hw ho hc hl hr hq (by rw [hpins]; exact hp) (site := site) (by rw [hpins]; exact hone)
    rw [hpins] at hexec
    have hx : (s.endsCycle g p a o rest).groups[g.val].fail =
        ((x.cycleEnds p a rest).failedIn o.cycle).fail := congrArg Group.fail (modGroup_get s g _)
    have hfresh (h : fresh) : (s.endsCycle g p a o rest).groups[g.val].fail.suppress = false ∨
        (s.endsCycle g p a o rest).groups[g.val].fail.lastRec[site.val] ≠ some key := by
      rw [hx]
      exact h
    refine ⟨fun h => ⟨_, hexec, ?suppressed⟩, fun h hf => ⟨_, hexec, ?full⟩, fun h ht hd hn => ⟨_, hexec, ?threshold⟩⟩
    case suppressed =>
      obtain ⟨hs, hk⟩ := not_or.mp h
      obtain ⟨hgroups, hone, htwo⟩ := siteRecord_suppressed_counts (g := g) (o := o.takes p a) (site := site) (pins := x.sitePins pins site)
        (s := s.endsCycle g p a o rest) (by rw [hx]; exact eq_true_of_ne_false hs)
        (by rw [hx]; exact not_not.mp hk)
      refine ⟨?_, hone, htwo, ?_⟩
      · rw [hgroups, hx]
        rfl
      · rw [hgroups, hx]
        rfl
    case full =>
      obtain ⟨hfifo, hgap, htwo, hthree, hev⟩ := siteRecord_full (o := o.takes p a) (hfresh h) (by rw [hx]; exact hf)
      refine ⟨hfifo.trans ?_, hgap, htwo, hthree, hev⟩
      rw [hx]
      rfl
    case threshold =>
      obtain ⟨hfired, hraised, hline⟩ := siteRecord_threshold (o := o.takes p a) (hfresh h) (by rw [hx]; exact ht) (by rw [hx]; exact hd)
        (by rw [hx]; exact hn)
      exact ⟨hfired, ⟨hraised.active, hraised.count, hraised.latch⟩, hline⟩
  case arrival =>
    intro s x e hwf hpd hclk hfind i ended slots slot
    have hruns : s.broodRuns = true := by simp [State.broodRuns, hpd, hclk]
    obtain ⟨hlogged, hinbox⟩ := logRecord_table (s.entered e) e.2 x.err
    have hsites : ((s.entered e).logRecord e.2 x.err).brood.sites = s.brood.sites := hlogged
    obtain ⟨htable, hacc⟩ := applyRecord_accounts ((s.entered e).logRecord e.2 x.err) x.g e.2
    refine ⟨_, exec_failRecord hruns hfind, ?inbox, ?accounted, fun j hj => ?others, ?dieBook, fun h => ?noPart, fun h => ?unlogged,
      fun h2 hfull hrekey => ?lost, fun hmode hroom herr hserves hone _ => ?stored⟩
    case inbox =>
      rw [htable.rest]
      exact hinbox
    case accounted =>
      refine hacc.trans (congrArg (· + 1) ?_)
      rw [State.accounted, hsites]
    case others =>
      rw [htable.others j hj, hsites]
    case dieBook =>
      rw [htable.dieBook, hsites]
    case noPart =>
      have h : ((s.entered e).logRecord e.2 x.err).brood.sites[i.val].geom = none ∨
          ((s.entered e).logRecord e.2 x.err).brood.sites[i.val].size = 0 := by
        rw [hsites]
        exact h
      have hsite : (((s.entered e).logRecord e.2 x.err).applyRecord x.g e.2).brood.sites[i.val] = s.brood.sites[i.val].count 2 := by
        rw [applyRecord_noPart x.g e.2 h, State.raise_brood, State.modSite_brood_sites, upd_get_same, hsites]
      refine ⟨?_, ?_, ?_⟩
      · rw [hsite]
        exact upd_get_same _ 2 _
      · rw [hsite]
        rfl
      · rw [applyRecord_noPart x.g e.2 h]
        exact State.raise_active _ _ _ _ _
    case unlogged =>
      rw [htable.rest, logRecord_none e.2 (s := s.entered e) h]
      exact ⟨rfl, rfl⟩
    case lost =>
      rw [htable.rest, logRecord_lost e.2 (s := s.entered e) h2 hfull hrekey]
      exact ⟨rfl, rfl, rfl⟩
    case stored =>
      obtain ⟨hgate, hroutes, hclean, hlow, hfree, hopen⟩ := hserves
      obtain ⟨u, hlog, hwrote⟩ := logRecord_stores e.2 (s := s.entered e) hmode hroom ⟨hgate, hroutes, hclean, hlow, hfree, hopen⟩ hwf hone
      rw [← herr] at hlog
      rw [htable.rest, hlog]
      exact ⟨hwrote, rfl, rfl⟩
  case ends =>
    intro s g ha x w k
    refine ⟨fun v c l hm => ⟨_, exec_markerRecord_shows ha hm, ?_, (OnlyGroup.ofMod s g _).2, ?_⟩,
      fun hs => ⟨_, exec_runDone_stops ha hs, ?_⟩,
      fun hs hp hn hk hd => ⟨_, exec_runDone_ends ha hs hp hk hn hd, .ofMod s g _, modGroup_get s g _⟩,
      fun hd hs hp hn hk => ⟨_, exec_runDone_finishes ha hs hp hk hn hd, ?_, ?_, endWorker_event _ w, State.departs_sems _ w _ _ _ _⟩⟩
    · exact modGroup_get s g _
    · exact modWorker_get _ _ _
    · have hsettles := State.stopSettled_settles (s.modGroup g Group.stopped) (groupWorker g)
      have hgroup : ((s.modGroup g Group.stopped).stopSettled (groupWorker g)).groups[g.val] = x.stopped := by
        rw [hsettles.groups, modGroup_get]
      refine ⟨by rw [hgroup]; rfl, by rw [hgroup]; rfl, fun i hi => ?_, hsettles.workers⟩
      rw [hsettles.groups]
      exact modGroup_get_ne s hi _
    · rw [endWorker_st, modGroup_get]
    · rw [endWorker_workers, upd_get_same]
      rfl

end Sys2Proof.Machine
end

section
/-! SUPPORT. A receiver that holds more bytes than a word has (spec/05_test_ports.md, R141, R145, R146). -/

namespace Sys2Proof.Machine

/-- An aligned lane of port 0, in coded mode on a powered die in service, whose receiver holds five bytes of a word. -/
def crowdedLane : State := { State.reset with
  pwr := { State.reset.pwr with domains := Vector.replicate 64 { State.reset.pwr.domains[0] with st := .on } }
  net := { State.reset.net with dies := Vector.replicate 4 { State.reset.net.dies[0] with fenced := false, clockOn := true } }
  fab := Vector.replicate 4 { State.reset.fab[0] with cfgSt := .configured }
  groups := State.reset.groups.set 0 { State.reset.groups[0] with mode := .coded }
  ports := State.reset.ports.set 0
    { State.reset.ports[0] with started := true, link := .aligned, rxChars := List.replicate 5 (1, false, false) } }

theorem crowdedLane_receives : crowdedLane.receives 0 = true ∧ crowdedLane.looped 0 = false ∧ crowdedLane.edgesRise (portDie 0) :=
  ⟨by decide +kernel, by decide +kernel, .nil⟩

/-- Forty bits 0 hold no K28.5: they complete the word that five bytes stood in, and no other. -/
theorem crowdedLane_word : (crowdedLane.ports[0].codedBits (lineBitsOf (crowdedLane.ports[0].seen (.groups 0 0 0 0)))).2 =
    [List.replicate 5 (1, false, false)] := by decide +kernel

theorem edgeWord_lt (s : State) (d : Fin 4) (column word : Nat) : s.edgeWord d column word < 65536 := BitVec.isLt _

/-- Refutes O21: nothing bounds the bytes that a lane's receiver holds, and a word of five bytes, the last of them not 0, does not
fit the two edge words of 16 bits that are to show it. -/
theorem not_lanesCarryWords : ¬ Obligations.LanesCarryWords := by
  unfold Obligations.LanesCarryWords
  rintro ⟨-, -, -, -, receives⟩
  obtain ⟨hr, hl, he⟩ := crowdedLane_receives
  obtain ⟨coded, -⟩ := receives crowdedLane 0 0 0 0 0 0 hr rfl he
  obtain ⟨t, -, -, -, -, shown⟩ := coded rfl rfl hl
  obtain ⟨-, high, -⟩ := shown _ crowdedLane_word
  have five : bytesNum ((List.replicate 5 ((1 : Nat), false, false)).map fun x => BitVec.ofNat 8 x.1) / 65536 = 65536 + 257 := by decide
  have fits := edgeWord_lt t (portDie 0) ((groupEdge (portGroup 0)).2 + 1 + (portPin 0).val) 2
  rw [high, five] at fits
  exact absurd fits (by decide)

end Sys2Proof.Machine
end

section
/-! SUPPORT. What an operation on one test port changes (spec/05_test_ports.md, R131 to R134, R148): that port, and of the rest events,
what is put out, and the free values drawn. -/

namespace Sys2Proof.Machine

/-- Nothing has changed but the ports, the events, what is put out, and the free values drawn. -/
def PortsOnly (s t : State) : Prop := t = { s with ev := t.ev, ports := t.ports, out := t.out, free := t.free }

theorem PortsOnly.refl (s : State) : PortsOnly s s := rfl

theorem PortsOnly.trans {s t u : State} (h : PortsOnly s t) (k : PortsOnly t u) : PortsOnly s u :=
  Eq.trans k (by rw [show t = _ from h])

theorem PinsOnly.portsOnly {s t : State} (h : PinsOnly s t) : PortsOnly s t := Eq.trans h (by rw [show t = _ from h])

theorem PortsOnly.queen {s t : State} (h : PortsOnly s t) : t.queen = s.queen := by rw [show t = _ from h]

theorem PortsOnly.hif {s t : State} (h : PortsOnly s t) : t.hif = s.hif := by rw [show t = _ from h]

theorem PortsOnly.rsc {s t : State} (h : PortsOnly s t) : t.rsc = s.rsc := by rw [show t = _ from h]

theorem PortsOnly.groups {s t : State} (h : PortsOnly s t) : t.groups = s.groups := by rw [show t = _ from h]

/-- Whether a port is powered, and in its safe state, rests on nothing that the ports hold. -/
theorem PortsOnly.circumstances {s t : State} (h : PortsOnly s t) (n : Fin 128) :
    t.portOn n = s.portOn n ∧ t.portSafe n = s.portSafe n := by
  rw [show t = _ from h]
  exact ⟨rfl, rfl⟩

/-- Of the ports one alone has changed. -/
structure OnlyPort (s t : State) (n : Fin 128) : Prop where
  rest   : PortsOnly s t
  others : ∀ m : Fin 128, m ≠ n → t.ports[m.val] = s.ports[m.val]

theorem OnlyPort.refl (s : State) (n : Fin 128) : OnlyPort s s n := ⟨.refl s, fun _ _ => rfl⟩

theorem OnlyPort.trans {s t u : State} {n : Fin 128} (h : OnlyPort s t n) (k : OnlyPort t u n) : OnlyPort s u n :=
  ⟨h.rest.trans k.rest, fun m hm => (k.others m hm).trans (h.others m hm)⟩

/-- A port whose levels, lane state and test may have changed, and nothing else of it. -/
def PortSt.Follows (p q : PortSt) : Prop := q = { p with tx := q.tx, txe := q.txe, link := q.link, test := q.test }

theorem PortSt.Follows.refl (p : PortSt) : p.Follows p := rfl

theorem PortSt.Follows.started {p q : PortSt} (h : p.Follows q) : q.started = p.started := by rw [show q = _ from h]

theorem PortSt.Follows.txDisp {p q : PortSt} (h : p.Follows q) : q.txDisp = p.txDisp := by rw [show q = _ from h]

theorem PortSt.Follows.slips {p q : PortSt} (h : p.Follows q) : q.slips = p.slips := by rw [show q = _ from h]

theorem PortSt.Follows.prbs {p q : PortSt} (h : p.Follows q) : q.prbs = p.prbs := by rw [show q = _ from h]

theorem PortSt.Follows.trans {p q r : PortSt} (h : p.Follows q) (k : q.Follows r) : p.Follows r :=
  Eq.trans k (by rw [show q = _ from h])

section
variable (s : State) (n : Fin 128)

theorem modPort_get (f : PortSt → PortSt) : (s.modPort n f).ports[n.val] = f s.ports[n.val] := upd_get_same _ _ _

theorem modPort_only (f : PortSt → PortSt) : OnlyPort s (s.modPort n f) n := ⟨rfl, fun _ hm => upd_get_other _ _ _ _ hm.symm⟩

theorem emit_only (o : Output) : OnlyPort s (s.emit o) n := ⟨rfl, fun _ _ => rfl⟩

theorem drawFree_only : OnlyPort s s.drawFree.2 n := ⟨rfl, fun _ _ => rfl⟩

theorem raise_only (e : Fin 256) (sev unit det : Nat) : OnlyPort s (s.raise e sev unit det) n :=
  ⟨(s.raise_pins e sev unit det).portsOnly, fun _ _ => by rw [State.raise_ports]⟩

/-- Polarity shows at the balls alone. -/
theorem showPolarity_rest (old : BitVec 4) : s.showPolarity n old = { s with out := (s.showPolarity n old).out } := by
  unfold State.showPolarity
  dsimp only
  split <;> split <;> rfl

theorem showPolarity_ports (old : BitVec 4) : (s.showPolarity n old).ports = s.ports := by rw [showPolarity_rest]

theorem showPolarity_pins (old : BitVec 4) : PinsOnly s (s.showPolarity n old) := by
  rw [showPolarity_rest]
  rfl

theorem showPolarity_only (old : BitVec 4) : OnlyPort s (s.showPolarity n old) n :=
  ⟨(showPolarity_pins s n old).portsOnly, fun _ _ => by simp only [showPolarity_ports]⟩

/-! Levels (R134). -/

theorem drive_only (txe : Bool) (l : Level) : OnlyPort s (s.drive n txe l) n :=
  ⟨(s.drive_pins n txe l).portsOnly, fun _ hm => drive_others s n txe l hm⟩

theorem drive_port (txe : Bool) (l : Level) : (s.drive n txe l).ports[n.val] =
    if txe then { s.ports[n.val] with txe := l } else { s.ports[n.val] with tx := l } := by
  unfold State.drive
  by_cases h : (if txe then s.ports[n.val].txe else s.ports[n.val].tx) = l
  · rw [if_pos h]
    subst h
    cases txe <;> rfl
  · rw [if_neg h]
    exact modPort_get s n _

/-- Both output pairs take a level. -/
theorem drives_port (a b : Level) : ((s.drive n false a).drive n true b).ports[n.val] = { s.ports[n.val] with tx := a, txe := b } := by
  simp only [drive_port, if_true, Bool.false_eq_true, if_false]

theorem drives_only (a b : Level) : OnlyPort s ((s.drive n false a).drive n true b) n := (drive_only s n _ _).trans (drive_only _ n _ _)

/-! The lane state (R148). -/

theorem setLink_only (l : Link) : OnlyPort s (s.setLink n l) n := by
  unfold State.setLink
  dsimp only
  split
  · exact .refl s n
  · split
    · exact modPort_only s n _
    · exact (modPort_only s n _).trans (raise_only _ n _ _ _ _)

theorem setLink_port (l : Link) : (s.setLink n l).ports[n.val] = { s.ports[n.val] with link := l } := by
  unfold State.setLink
  dsimp only
  split
  next h =>
    subst h
    rfl
  · split
    · exact modPort_get s n _
    · simp only [State.raiseDie, State.raise_ports]
      exact modPort_get s n _

end

/-! A port that follows its circumstances (R131 to R134, R156). -/

/-- Of one port alone the levels, the lane state and the test may have changed, and no test has begun. -/
structure Refreshes (n : Fin 128) (s t : State) : Prop extends OnlyPort s t n where
  port     : s.ports[n.val].Follows t.ports[n.val]
  untested : s.ports[n.val].test = none → t.ports[n.val].test = none

theorem Refreshes.refl (n : Fin 128) (s : State) : Refreshes n s s := ⟨.refl s n, .refl _, id⟩

theorem Refreshes.trans {n : Fin 128} {s t u : State} (h : Refreshes n s t) (k : Refreshes n t u) : Refreshes n s u :=
  ⟨h.toOnlyPort.trans k.toOnlyPort, h.port.trans k.port, k.untested ∘ h.untested⟩

theorem Refreshes.ite {n : Fin 128} {s t u : State} {c : Prop} [Decidable c] (h : Refreshes n s t) (k : Refreshes n s u) :
    Refreshes n s (if c then t else u) := by
  split
  · exact h
  · exact k

section
variable (s : State) (n : Fin 128)

theorem drive_refreshes (txe : Bool) (l : Level) : Refreshes n s (s.drive n txe l) := by
  refine ⟨drive_only s n txe l, ?_, fun h => ?_⟩ <;> rw [drive_port]
  · cases txe <;> rfl
  · cases txe <;> exact h

theorem drives_refreshes (a b : Level) : Refreshes n s ((s.drive n false a).drive n true b) :=
  (drive_refreshes s n false a).trans (drive_refreshes _ n true b)

theorem setLink_refreshes (l : Link) : Refreshes n s (s.setLink n l) := by
  refine ⟨setLink_only s n l, ?_, fun h => ?_⟩ <;> rw [setLink_port]
  · rfl
  · exact h

theorem untest_refreshes : Refreshes n s (s.modPort n fun p => { p with test := none }) := by
  refine ⟨modPort_only s n _, ?_, fun _ => ?_⟩ <;> rw [modPort_get]
  rfl

theorem refreshPort_refreshes : Refreshes n s (s.refreshPort n) := by
  unfold State.refreshPort
  refine Refreshes.trans (t := if s.portOn n && s.portSafe n then s.modPort n fun p => { p with test := none } else s)
    (.ite (untest_refreshes s n) (.refl n s)) ?_
  generalize (if s.portOn n && s.portSafe n then s.modPort n fun p => { p with test := none } else s) = u
  refine Refreshes.trans ?_ (setLink_refreshes _ n _)
  have both (a b : Level) := drives_refreshes u n a b
  exact .ite (both _ _) (.ite (both _ _) (.ite (.ite (both _ _) (both _ _))
    (.ite (both _ _) (.ite (.refl n u) (.ite (both _ _) (drive_refreshes u n _ _))))))

theorem refreshPort_only : OnlyPort s (s.refreshPort n) n := (refreshPort_refreshes s n).toOnlyPort

/-- A port changed, which then follows its circumstances. -/
theorem changed_only (f : PortSt → PortSt) : OnlyPort s ((s.modPort n f).refreshPort n) n :=
  (modPort_only s n f).trans (refreshPort_only _ n)

theorem changed_follows (f : PortSt → PortSt) : (f s.ports[n.val]).Follows ((s.modPort n f).refreshPort n).ports[n.val] := by
  rw [← modPort_get s n f]
  exact (refreshPort_refreshes _ n).port

variable {s n}

/-- A port that is tested or without power is high-impedance. -/
theorem refreshPort_held (ht : s.ports[n.val].test.isSome = true) (h : s.portOn n = false ∨ s.portSafe n = false) :
    (s.refreshPort n).ports[n.val].test = s.ports[n.val].test ∧ (s.refreshPort n).ports[n.val].tx = .hiz ∧
      (s.refreshPort n).ports[n.val].txe = .hiz := by
  have hsafe : (s.portOn n && s.portSafe n) = false := by
    rcases h with h | h <;> simp [h]
  simp only [State.refreshPort, hsafe, Bool.false_eq_true, if_false, ht, Bool.or_true, if_true, setLink_port, drives_port, and_self]

/-- The safe state ends a test and holds the safe levels. -/
theorem refreshPort_safe (ho : s.portOn n = true) (hs : s.portSafe n = true) :
    (s.refreshPort n).ports[n.val].test = none ∧ (s.refreshPort n).ports[n.val].txe = .low ∧
      (s.refreshPort n).ports[n.val].tx = if s.groups[(portGroup n).val].mode = .waveform then .low else .idle := by
  have ends := untest_refreshes s n
  have hu : (s.modPort n fun p => { p with test := none }).ports[n.val].test = none := by rw [modPort_get]
  unfold State.refreshPort
  simp only [ho, hs, Bool.and_self, if_true]
  generalize (s.modPort n fun p => { p with test := none }) = u at ends hu ⊢
  obtain ⟨hon, hsafe⟩ := ends.rest.circumstances n
  simp only [hon, ho, hsafe, hs, hu, Option.isSome_none, Bool.not_true, Bool.or_self, Bool.false_eq_true, if_false, if_true, setLink_port,
    drives_port, ends.rest.groups, and_self]

end

/-! One operation on each of several ports. -/

section
variable {ι : Type} {f : ι → State → State} {k : ι → Fin 128} (hf : ∀ s i, OnlyPort s (f i s) (k i))
include hf

theorem forAll_portsOnly (l : List ι) (s : State) : PortsOnly s (forAll l f s) := by
  induction l generalizing s with
  | nil => exact .refl s
  | cons i l ih => exact (hf s i).rest.trans (ih (f i s))

/-- A port that none of the operations is on stays as it was. -/
theorem forAll_others (l : List ι) {m : Fin 128} (hm : ∀ i ∈ l, k i ≠ m) (s : State) : (forAll l f s).ports[m.val] = s.ports[m.val] := by
  induction l generalizing s with
  | nil => rfl
  | cons i l ih =>
    exact (ih (fun j hj => hm j (List.mem_cons_of_mem i hj)) (f i s)).trans
      ((hf s i).others m (Ne.symm (hm i List.mem_cons_self)))

/-- A port that one of the operations is on is as that operation leaves it, begun on the port as it was. -/
theorem forAll_port {l : List ι} (hl : (l.map k).Nodup) {i : ι} (hi : i ∈ l) (s : State) :
    ∃ u, PortsOnly s u ∧ u.ports[(k i).val] = s.ports[(k i).val] ∧ (forAll l f s).ports[(k i).val] = (f i u).ports[(k i).val] := by
  induction l generalizing s with
  | nil => exact absurd hi List.not_mem_nil
  | cons j l ih =>
    obtain ⟨hj, hl⟩ := List.nodup_cons.mp hl
    rcases List.mem_cons.mp hi with rfl | hi
    · exact ⟨s, .refl s, rfl, forAll_others hf l (fun j hl he => hj (List.mem_map.mpr ⟨j, hl, he⟩)) (f i s)⟩
    · obtain ⟨u, hu, hs, hx⟩ := ih hl hi (f j s)
      have hne : k i ≠ k j := fun he => hj (List.mem_map.mpr ⟨i, hi, he⟩)
      exact ⟨u, (hf s j).rest.trans hu, hs.trans ((hf s j).others _ hne), hx⟩

end

/-- Each of some ports has been through an operation, begun on the port as it was, and no other port has changed. -/
structure EachPort (f : Fin 128 → State → State) (l : List (Fin 128)) (s t : State) : Prop where
  rest   : PortsOnly s t
  others : ∀ {n : Fin 128}, n ∉ l → t.ports[n.val] = s.ports[n.val]
  named  : ∀ {n : Fin 128}, n ∈ l → ∃ u, PortsOnly s u ∧ u.ports[n.val] = s.ports[n.val] ∧ t.ports[n.val] = (f n u).ports[n.val]

theorem forAll_each {f : Fin 128 → State → State} (hf : ∀ s n, OnlyPort s (f n s) n) {l : List (Fin 128)} (hl : l.Nodup) (s : State) :
    EachPort f l s (forAll l f s) where
  rest := forAll_portsOnly (k := id) hf l s
  others {n} hn := forAll_others (k := id) hf l (fun i hi (he : i = n) => hn (he ▸ hi)) s
  named hn := forAll_port (k := id) hf ((List.map_id l).symm ▸ hl) hn s

theorem groupPort_injective (g : Fin 16) : Function.Injective (groupPort g) := fun p q h => by
  have h : g.val * 8 + p.val = g.val * 8 + q.val := congrArg Fin.val h
  exact Fin.ext (by omega)

theorem portGroup_groupPort (g : Fin 16) (p : Fin 8) : portGroup (groupPort g p) = g := by
  apply Fin.ext
  show (g.val * 8 + p.val) / 8 = g.val
  omega

theorem mem_groupPorts {g : Fin 16} {n : Fin 128} : n ∈ groupPorts g ↔ portGroup n = g := by
  unfold groupPorts
  rw [List.mem_map]
  constructor
  · rintro ⟨q, -, rfl⟩
    exact portGroup_groupPort g q
  · rintro rfl
    refine ⟨portPin n, List.mem_finRange _, Fin.ext ?_⟩
    show n.val / 8 * 8 + n.val % 8 = n.val
    omega

theorem groupPorts_nodup (g : Fin 16) : (groupPorts g).Nodup := (List.nodup_finRange 8).map (groupPort_injective g)

theorem maskPorts_nodup (g : Fin 16) (m : Nat) : (maskPorts g m).Nodup := ((List.nodup_finRange 8).filter _).map (groupPort_injective g)

end Sys2Proof.Machine
end

section
/-! SUPPORT. PRBS checkers (spec/05_test_ports.md, R151 to R153, R157) and the synchronisation of receivers (R145). -/

namespace Sys2Proof.Machine

/-! Counts, and the ones of a number. -/

/-- A saturating count raised by one and then by `k` is raised by `k + 1`. -/
theorem min_raised (n k m : Nat) : min (min (n + 1) m + k) m = min (n + (k + 1)) m := by omega

theorem satAdd_toNat {w : Nat} (n : BitVec w) (k : Nat) : (satAdd n k).toNat = min (n.toNat + k) (2 ^ w - 1) := by
  have hpos : 0 < 2 ^ w := Nat.two_pow_pos w
  unfold satAdd
  split
  next h => rw [BitVec.toNat_ofNat, Nat.mod_eq_of_lt h, Nat.min_eq_left (by omega)]
  next h => rw [BitVec.toNat_ofNat, Nat.mod_eq_of_lt (by omega), Nat.min_eq_right (by omega)]

theorem testBit_pushed (r : Nat) (b : Bool) (i : Nat) : (r * 2 + b2n b).testBit i = if i = 0 then b else r.testBit (i - 1) := by
  cases i with
  | zero => cases b <;> simp [b2n, Nat.testBit_zero]
  | succ i =>
    rw [Nat.testBit_succ, if_neg (Nat.succ_ne_zero i), Nat.add_sub_cancel]
    congr 1
    cases b
    · rw [b2n, if_neg Bool.false_ne_true, Nat.add_zero, Nat.mul_div_cancel r (by decide)]
    · simp only [b2n, if_true]
      omega

/-- A bit pushed into a register of `w` bits adds at most itself to its ones. -/
theorem onesCount_pushed (w r : Nat) (b : Bool) : onesCount w ((r * 2 + b2n b) % 2 ^ w) ≤ onesCount w r + b2n b := by
  cases w with
  | zero => simp [onesCount]
  | succ w =>
    have hbits : (List.range (w + 1)).filter (((r * 2 + b2n b) % 2 ^ (w + 1)).testBit) =
        (List.range (w + 1)).filter fun i => if i = 0 then b else r.testBit (i - 1) :=
      List.filter_congr fun i hi => by
        rw [Nat.testBit_mod_two_pow, testBit_pushed, decide_eq_true (List.mem_range.mp hi), Bool.true_and]
    have hlow : onesCount w r ≤ onesCount (w + 1) r := by
      unfold onesCount
      rw [List.range_succ, List.filter_append, List.length_append]
      exact Nat.le_add_right _ _
    have htail : ((List.range w).map Nat.succ).filter (fun i => if i = 0 then b else r.testBit (i - 1)) =
        ((List.range w).filter r.testBit).map Nat.succ := by
      rw [List.filter_map]
      rfl
    refine Nat.le_trans ?_ (Nat.add_le_add_right hlow _)
    unfold onesCount
    rw [hbits, List.range_succ_eq_map, List.filter_cons, htail]
    cases b <;> simp [b2n]

/-! The checker. -/

namespace Prbs

/-- The checker with the next bit of its own pattern taken, which was in error or not. -/
def counted (x : Prbs) (e : Bool) : Prbs :=
  { x with
    chkReg := prbsShift x.chkReg (prbsNext x.poly x.chkReg), bits := satAdd x.bits 1, errs := if e then satAdd x.errs 1 else x.errs
    recent := BitVec.ofNat 64 (x.recent.toNat * 2 + b2n e) }

variable {x : Prbs}

theorem due_locked (h : x.locked = true) : x.due = decide (16 ≤ onesCount 64 x.recent.toNat) := by
  rw [due, if_pos h]

/-- A bit behind a decision that is due waits. -/
theorem check_due (h : x.due = true) (b : Bool) (l : List Bool) : x.check (b :: l) = { x with todo := b :: l } := by
  rw [check, if_pos h]

/-- A locked checker takes a bit of its pattern, in error or not. -/
theorem check_locked (hl : x.locked = true) (hd : x.due = false) (e : Bool) (l : List Bool) :
    x.check (((prbsNext x.poly x.chkReg != e) != x.invert) :: l) = (x.counted e).check l := by
  have hbit : (((prbsNext x.poly x.chkReg != e) != x.invert) != x.invert) = (prbsNext x.poly x.chkReg != e) := by
    cases x.invert <;> simp
  rw [check, if_neg (by rw [hd]; exact Bool.false_ne_true)]
  simp only [hbit, hl, if_true, counted]
  generalize prbsNext x.poly x.chkReg = v
  cases v <;> cases e <;> rfl

/-- Whether the checker is locked, no received bit changes. -/
theorem check_keeps_locked (l : List Bool) : ∀ x : Prbs, (x.check l).locked = x.locked := by
  induction l with
  | nil => exact fun x => rfl
  | cons b l ih =>
    intro x
    rw [check]
    split
    · rfl
    · dsimp only
      split <;> rw [ih]

theorem seed_unlocked (x : Prbs) (flip : Bool) : (x.seed flip).locked = false := check_keeps_locked _ _

theorem lock_locked (x : Prbs) : x.lock.locked = true := check_keeps_locked _ _

theorem lock_none (h : x.todo = []) : x.lock = { x with locked := true, same := 0, opp := 0, recent := 0 } := by
  rw [lock, h, check]

/-- What a locked checker makes of bits of its pattern, few of them in error. -/
structure Tracked (x y : Prbs) (l : List Bool) : Prop where
  bits   : y.bits.toNat = min (x.bits.toNat + l.length) (2 ^ 48 - 1)
  errs   : y.errs.toNat = min (x.errs.toNat + (l.filter id).length) (2 ^ 48 - 1)
  reg    : y.chkReg = (prbsBits x.poly l.length x.chkReg).2
  losses : y.losses = x.losses
  locked : y.locked = true
  todo   : y.todo = []

/-- A locked checker counts its pattern's bits and those in error, as long as no loss is due. -/
theorem tracked (errs : List Bool) : ∀ x : Prbs, x.locked = true →
    onesCount 64 x.recent.toNat + (errs.filter id).length < 16 →
    Tracked x (x.check ((((prbsBits x.poly errs.length x.chkReg).1).zip errs).map fun b => (b.1 != b.2) != x.invert)) errs := by
  induction errs with
  | nil =>
    intro x hl _
    refine ⟨(Nat.min_eq_left ?_).symm, (Nat.min_eq_left ?_).symm, rfl, rfl, hl, rfl⟩
    · exact Nat.le_sub_one_of_lt x.bits.isLt
    · exact Nat.le_sub_one_of_lt x.errs.isLt
  | cons e errs ih =>
    intro x hl hn
    have hlen : ((e :: errs).filter id).length = b2n e + (errs.filter id).length := by
      cases e <;> simp [b2n, Nat.add_comm]
    rw [hlen] at hn
    have hd : x.due = false := by
      rw [due_locked hl]
      exact decide_eq_false (by omega)
    have hr : onesCount 64 (x.counted e).recent.toNat ≤ onesCount 64 x.recent.toNat + b2n e := by
      show onesCount 64 (BitVec.ofNat 64 _).toNat ≤ _
      rw [BitVec.toNat_ofNat]
      exact onesCount_pushed 64 _ e
    obtain ⟨hb, he, hreg, hloss, hlock, htodo⟩ := ih (x.counted e) hl (by omega)
    rw [List.length_cons, prbsBits, List.zip_cons_cons, List.map_cons, check_locked hl hd]
    refine ⟨hb.trans ?_, he.trans ?_, hreg, hloss, hlock, htodo⟩
    · rw [show (x.counted e).bits = satAdd x.bits 1 from rfl, satAdd_toNat]
      exact min_raised _ _ _
    · rw [hlen]
      cases e
      · rw [b2n, if_neg Bool.false_ne_true, Nat.zero_add]
        rfl
      · rw [show (x.counted true).errs = satAdd x.errs 1 from rfl, satAdd_toNat, min_raised, b2n, if_pos rfl, Nat.add_comm 1]

end Prbs

/-! Synchronisation (R145). -/

theorem sync_step_data {x : Sync} (h : x.aligned = true) : (x.step .data).aligned = true := by
  cases x with
  | synced b g even =>
    simp only [Sync.step, reduceCtorEq, decide_false, Bool.false_and, Bool.or_self, Bool.false_eq_true, if_false]
    split_ifs <;> rfl
  | _ => exact absurd h Bool.false_ne_true

end Sys2Proof.Machine
end

section
/-! SUPPORT. Lane states, swapped pairs and shorts (spec/05_test_ports.md, R145, R148, R153, R155, R157). -/

namespace Sys2Proof.Machine

/-- Nothing has changed but the ports, the events and the free values drawn: nothing is put out. -/
def Unseen (s t : State) : Prop := t = { s with ports := t.ports, ev := t.ev, free := t.free }

theorem Unseen.trans {s t u : State} (h : Unseen s t) (k : Unseen t u) : Unseen s u := Eq.trans k (by rw [show t = _ from h])

theorem dieEvent_ne (d : Fin 4) {o p : Fin 48} (h : o ≠ p) : dieEvent d o ≠ dieEvent d p := by
  intro he
  have he : 64 + 48 * d.val + o.val = 64 + 48 * d.val + p.val := congrArg Fin.val he
  exact h (Fin.ext (by omega))

/-- The event that tells of a group's lane states (R148). -/
def linkEvent (n : Fin 128) : Fin 256 := dieEvent (portDie n) ⟨28 + (portGroup n).val % 4, by omega⟩

/-- The event that tells of opens, shorts and swapped pairs (R155, R157). -/
def faultEvent (n : Fin 128) : Fin 256 := dieEvent (portDie n) 35

theorem linkEvent_ne (n : Fin 128) : linkEvent n ≠ faultEvent n := dieEvent_ne _ fun h => by
  have h : 28 + (portGroup n).val % 4 = 35 := congrArg Fin.val h
  omega

section
variable (s : State) (n : Fin 128)

/-! A lane state that changes (R148). -/

theorem setLink_unseen (l : Link) : Unseen s (s.setLink n l) := by
  unfold State.setLink
  dsimp only
  split
  · rfl
  · split
    · rfl
    · exact Unseen.trans (t := s.modPort n fun p => { p with link := l }) rfl
        ((State.raise_rest _ _ _ _ _).trans (by simp only [State.raiseDie, State.raise_ports, State.raise_free]))

theorem setLink_faultSource (l : Link) : (s.setLink n l).ev.src[(faultEvent n).val] = s.ev.src[(faultEvent n).val] := by
  unfold State.setLink
  dsimp only
  split
  · rfl
  · split
    · rfl
    · simp only [State.raiseDie, State.raise_src]
      exact upd_get_other _ _ _ _ (linkEvent_ne n)

variable {s n}

/-- A lane of a group in protocol mode tells of its new state. -/
theorem setLink_tells {u : State} {l : Link} (he : u.ev = s.ev) (hm : u.groups[(portGroup n).val].mode = .coded)
    (hl : u.ports[n.val].link ≠ l) : Raised s (u.setLink n l) (linkEvent n) := by
  have hm : ¬ u.groups[(portGroup n).val].mode = .waveform := by
    rw [hm]
    decide
  unfold State.setLink
  simp only [hl, hm, if_false]
  exact State.raise_raised (t := u.modPort n fun p => { p with link := l }) he _ _ _ _

/-! A lane that searches its clock and its alignment again (R148, R157). -/

/-- A receiver that has lost its alignment and whose checker seeds again. -/
def PortSt.searching (p : PortSt) : PortSt := { p with sync := .loss, rxLine := [], rxChars := [], prbs := p.prbs.seed false }

variable (s n)

theorem reacquire_eq : ∃ l, (l = .noSignal ∨ l = .cdrLock) ∧
    s.reacquire n = (s.drawFree.2.modPort n PortSt.searching).setLink n l :=
  ⟨if s.drawFree.1.getLsbD 0 then .noSignal else .cdrLock, by split <;> simp, rfl⟩

theorem reacquire_only : OnlyPort s (s.reacquire n) n := by
  obtain ⟨l, -, he⟩ := reacquire_eq s n
  rw [he]
  exact ((drawFree_only s n).trans (modPort_only _ n _)).trans (setLink_only _ n l)

theorem reacquire_unseen : Unseen s (s.reacquire n) := by
  obtain ⟨l, -, he⟩ := reacquire_eq s n
  rw [he]
  exact Unseen.trans (t := s.drawFree.2.modPort n PortSt.searching) rfl (setLink_unseen _ n l)

theorem reacquire_port : ∃ l, (l = .noSignal ∨ l = .cdrLock) ∧
    (s.reacquire n).ports[n.val] = { s.ports[n.val].searching with link := l } := by
  obtain ⟨l, hl, he⟩ := reacquire_eq s n
  refine ⟨l, hl, ?_⟩
  rw [he, setLink_port, modPort_get]
  rfl

theorem reacquire_faultSource : (s.reacquire n).ev.src[(faultEvent n).val] = s.ev.src[(faultEvent n).val] := by
  obtain ⟨l, -, he⟩ := reacquire_eq s n
  rw [he, setLink_faultSource]
  rfl

/-! Faults of a pair (R155, R157). -/

variable {s n}

theorem portFault_raised {u : State} (h : u.ev.src[(faultEvent n).val] = s.ev.src[(faultEvent n).val]) (signal kind : Nat) :
    Raised s (u.portFault n signal kind) (faultEvent n) := raise_raised_of_src h _ _ _

variable (s n)

theorem portFault_ports (signal kind : Nat) : (s.portFault n signal kind).ports = s.ports := State.raise_ports _ _ _ _ _

theorem portFault_only (signal kind : Nat) : OnlyPort s (s.portFault n signal kind) n := raise_only _ _ _ _ _ _

theorem portFault_rest (signal kind : Nat) : s.portFault n signal kind = { s with ev := (s.portFault n signal kind).ev } :=
  State.raise_rest _ _ _ _ _

/-- A port changed, with the event of a fault: what `told` of the statement says, and the port. -/
theorem faulted_told (f : PortSt → PortSt) (signal kind : Nat) :
    (Raised s ((s.modPort n f).portFault n signal kind) (faultEvent n) ∧
      (s.modPort n f).portFault n signal kind = { s with
        ports := ((s.modPort n f).portFault n signal kind).ports, ev := ((s.modPort n f).portFault n signal kind).ev } ∧
      ∀ m : Fin 128, m ≠ n → ((s.modPort n f).portFault n signal kind).ports[m.val] = s.ports[m.val]) ∧
    ((s.modPort n f).portFault n signal kind).ports[n.val] = f s.ports[n.val] := by
  refine ⟨⟨portFault_raised (s := s) (u := s.modPort n f) rfl _ _, (portFault_rest _ n _ _).trans (by rw [portFault_ports]; rfl),
    ((modPort_only s n f).trans (portFault_only _ n _ _)).others⟩, ?_⟩
  simp only [portFault_ports]
  exact modPort_get s n f

/-! Swapped pairs (R157). -/

/-- A port whose swapped pair is reported once. -/
def PortSt.swapReported (p : PortSt) : PortSt := { p with polSwap := true, prbs := ({ p.prbs with swapSeen := true }).seed false }

/-- A port that has inverted its receiver's polarity. -/
def PortSt.swapInverted (p : PortSt) : PortSt :=
  { p with polSwap := true, inv := p.inv ^^^ 4, polApplied := true, prbs := p.prbs.seed true }

variable {s n}

theorem swapped_reported (h : s.ports[n.val].auto_ = false) : s.swapped n = (s.modPort n PortSt.swapReported).portFault n 2 4 := by
  have hf : s.modPort n (fun p =>
      if p.auto_ then { p with polSwap := true, inv := p.inv ^^^ 4, polApplied := true, prbs := p.prbs.seed true }
      else { p with polSwap := true, prbs := ({ p.prbs with swapSeen := true }).seed false }) = s.modPort n PortSt.swapReported := by
    simp only [State.modPort, upd, h, Bool.false_eq_true, if_false, PortSt.swapReported]
  simp only [State.swapped, hf, h, Bool.false_and, Bool.false_eq_true, if_false]

theorem swapped_inverted (h : s.ports[n.val].auto_ = true) : s.swapped n =
    (if s.ports[n.val].runs && (s.ports[n.val].link = .cdrLock || s.ports[n.val].link = .aligned)
      then (s.modPort n PortSt.swapInverted).reacquire n else s.modPort n PortSt.swapInverted).portFault n 2 4 := by
  have hf : s.modPort n (fun p =>
      if p.auto_ then { p with polSwap := true, inv := p.inv ^^^ 4, polApplied := true, prbs := p.prbs.seed true }
      else { p with polSwap := true, prbs := ({ p.prbs with swapSeen := true }).seed false }) = s.modPort n PortSt.swapInverted := by
    simp only [State.modPort, upd, h, if_true, PortSt.swapInverted]
  simp only [State.swapped, hf, h, Bool.true_and]

end

/-! The rows. -/

section
variable {s : State} {n : Fin 128}

theorem exec_cdrLock (h : s.ports[n.val].link = .noSignal) (hs : s.ports[n.val].stale = false) :
    exec (.cdrLock n) s = .next (s.setLink n .cdrLock) := by
  show execCdrLock n s = _
  simp [execCdrLock, h, hs]

theorem exec_cdrLost (h : s.ports[n.val].link = .aligned) : exec (.cdrLost n) s =
    .next ((s.modPort n fun q => { q.count 4 with cdrLost := true }).reacquire n) := by
  show execCdrLost n s = _
  simp [execCdrLost, h]

theorem exec_alignmentAcquired (h : s.ports[n.val].link = .cdrLock) (hs : s.ports[n.val].started = true)
    (hm : s.groups[(portGroup n).val].mode = .coded) (ha : s.ports[n.val].sync.aligned = true) :
    exec (.alignmentAcquired n) s = .next (s.setLink n .aligned) := by
  show execAlignmentAcquired n s = _
  simp [execAlignmentAcquired, h, hs, hm, ha]

theorem exec_alignmentLost (h : s.ports[n.val].link = .aligned) (ha : s.ports[n.val].sync.aligned = false) :
    exec (.alignmentLost n) s = .next ((s.modPort n fun p => p.count 5).setLink n .cdrLock) := by
  show execAlignmentLost n s = _
  simp [execAlignmentLost, h, ha]

theorem exec_prbsLock_locks (ho : s.ports[n.val].prbs.on = true) (hc : s.ports[n.val].prbs.chk = true)
    (hl : s.ports[n.val].prbs.locked = false) (hs : s.ports[n.val].prbs.same = 64) :
    exec (.prbsLock n false) s = .next (s.modPort n fun q => { q with prbs := q.prbs.lock }) := by
  show execPrbsLock n false s = _
  simp [execPrbsLock, Prbs.due, ho, hc, hl, hs]

theorem exec_prbsLock_waits (hs : s.ports[n.val].prbs.same ≠ 64) : exec (.prbsLock n false) s = .next s := by
  show execPrbsLock n false s = _
  simp [execPrbsLock, hs]

theorem exec_prbsLock_swapped (ho : s.ports[n.val].prbs.on = true) (hc : s.ports[n.val].prbs.chk = true)
    (hl : s.ports[n.val].prbs.locked = false) (hp : s.ports[n.val].prbs.opp = 64) (hs : s.ports[n.val].prbs.swapSeen = false) :
    exec (.prbsLock n true) s = .next (s.swapped n) := by
  show execPrbsLock n true s = _
  simp [execPrbsLock, Prbs.due, ho, hc, hl, hp, hs]

theorem exec_prbsLoss (ho : s.ports[n.val].prbs.on = true) (hl : s.ports[n.val].prbs.locked = true) : exec (.prbsLoss n) s =
    .next (if 16 ≤ onesCount 64 s.ports[n.val].prbs.recent.toNat then s.modPort n fun q =>
      { q with prbs := ({ q.prbs with losses := satAdd q.prbs.losses 1 }).seed false } else s) := by
  show execPrbsLoss n s = _
  simp [execPrbsLoss, ho, hl, Prbs.due_locked hl]

theorem exec_short (h : s.portOn n = true) (leg : Fin 4) : exec (.short n leg) s =
    .next ((s.modPort n fun p => { p with short := p.short ||| (1#4 <<< leg.val) }).portFault n leg.val 0) := by
  show execShort n leg s = _
  simp [execShort, h]

/-- A lane state that changes in a state whose events are still those of an earlier one: what `told` of the statement says. -/
theorem setLink_told {u : State} {l : Link} (hu : OnlyPort s u n) (he : u.ev = s.ev)
    (hm : s.groups[(portGroup n).val].mode = .coded) (hl : u.ports[n.val].link ≠ l) :
    (u.setLink n l).ports[n.val].link = l ∧ Raised s (u.setLink n l) (linkEvent n) ∧
      ∀ m : Fin 128, m ≠ n → (u.setLink n l).ports[m.val] = s.ports[m.val] := by
  refine ⟨by rw [setLink_port], setLink_tells he ?_ hl, (hu.trans (setLink_only u n l)).others⟩
  rw [hu.rest.groups]
  exact hm

/-- A swapped pair that a port with `POLARITY_AUTO` inverts (R157): a running lane reacquires. -/
theorem swapped_auto (ha : s.ports[n.val].auto_ = true) (ho : s.ports[n.val].prbs.on = true) :
    Raised s (s.swapped n) (faultEvent n) ∧ Unseen s (s.swapped n) ∧
      (s.swapped n).ports[n.val].inv = s.ports[n.val].inv ^^^ 4 ∧ (s.swapped n).ports[n.val].polSwap = true ∧
      (s.swapped n).ports[n.val].polApplied = true ∧ (s.swapped n).ports[n.val].prbs.locked = false ∧
      (s.ports[n.val].link = .cdrLock ∨ s.ports[n.val].link = .aligned → (s.swapped n).ports[n.val].sync = .loss ∧
        ((s.swapped n).ports[n.val].link = .noSignal ∨ (s.swapped n).ports[n.val].link = .cdrLock)) ∧
      ∀ m : Fin 128, m ≠ n → (s.swapped n).ports[m.val] = s.ports[m.val] := by
  have hport := modPort_get s n PortSt.swapInverted
  have faulted (u : State) (hu : Unseen (s.modPort n PortSt.swapInverted) u) : Unseen s (u.portFault n 2 4) :=
    Unseen.trans (t := u) (Unseen.trans (t := s.modPort n PortSt.swapInverted) rfl hu)
      ((portFault_rest u n 2 4).trans (by rw [portFault_ports, portFault_rest]))
  have others (u : State) (hu : OnlyPort (s.modPort n PortSt.swapInverted) u n) (m : Fin 128) (hm : m ≠ n) :
      (u.portFault n 2 4).ports[m.val] = s.ports[m.val] :=
    (((modPort_only s n _).trans hu).trans (portFault_only u n 2 4)).others m hm
  have hruns : s.ports[n.val].runs = true := by rw [PortSt.runs, ho, Bool.or_true]
  rw [swapped_inverted ha, hruns, Bool.true_and]
  split
  case isTrue h =>
    obtain ⟨l, hl, hr⟩ := reacquire_port (s.modPort n PortSt.swapInverted) n
    refine ⟨portFault_raised (s := s) (reacquire_faultSource (s.modPort n PortSt.swapInverted) n) _ _, faulted _ (reacquire_unseen _ n), ?_⟩
    simp only [portFault_ports, hr, hport]
    refine ⟨rfl, rfl, rfl, Prbs.seed_unlocked _ _, fun _ => ⟨rfl, hl⟩, fun m hm => ?_⟩
    exact (congrArg (·[m.val]) (portFault_ports _ n 2 4)).symm.trans (others _ (reacquire_only _ n) m hm)
  case isFalse h =>
    refine ⟨portFault_raised (s := s) (u := s.modPort n PortSt.swapInverted) rfl _ _, faulted _ rfl, ?_⟩
    simp only [portFault_ports, hport]
    refine ⟨rfl, rfl, rfl, Prbs.seed_unlocked _ _, fun hl => absurd ?_ h, fun m hm => (modPort_only s n _).others m hm⟩
    simpa using hl

end

/-- Settles O22: the checker by induction on its bits, the synchronisation by its table, each row by what it makes of its port. -/
theorem laneHealth : Obligations.LaneHealth := by
  refine ⟨fun x k errs hl hk hn => ?counts, fun x b l hl hd => ?waits, fun g e x => ⟨rfl, rfl, sync_step_data⟩,
    fun s n hm => ?states, fun s n => ?checkers⟩
  case counts =>
    subst hk
    obtain ⟨hbits, herrs, hreg, hlosses, hlocked, htodo⟩ := Prbs.tracked errs x hl hn
    exact ⟨hbits, herrs, hreg, hlosses, hlocked, htodo⟩
  case waits =>
    refine Prbs.check_due ?_ b l
    rw [Prbs.due_locked hl]
    exact decide_eq_true hd
  case states =>
    have changes {l m : Link} (h : s.ports[n.val].link = l) (hne : l ≠ m) : s.ports[n.val].link ≠ m := h ▸ hne
    refine ⟨fun h hs => ⟨_, exec_cdrLock h hs, setLink_told (.refl s n) rfl hm (changes h (by decide)), by rw [setLink_port]⟩,
      fun h hs ha => ⟨_, exec_alignmentAcquired h hs hm ha, setLink_told (.refl s n) rfl hm (changes h (by decide)), by rw [setLink_port]⟩,
      fun h ha => ⟨_, exec_alignmentLost h ha, setLink_told (modPort_only s n _) rfl hm ?_, ?_⟩, fun h => ⟨_, exec_cdrLost h, ?_⟩⟩
    · rw [modPort_get]
      exact changes h (by decide)
    · rw [setLink_port, modPort_get]
      rfl
    · obtain ⟨l, hl, hr⟩ := reacquire_eq (s.modPort n fun q => { q.count 4 with cdrLost := true }) n
      have hport := (modPort_get (s.modPort n fun q => { q.count 4 with cdrLost := true }).drawFree.2 n PortSt.searching).trans
        (congrArg PortSt.searching (modPort_get s n _))
      have only := ((modPort_only s n fun q => { q.count 4 with cdrLost := true }).trans (drawFree_only _ n)).trans
        (modPort_only _ n PortSt.searching)
      have told := setLink_told only rfl hm (l := l) (by
        rw [hport]
        rcases hl with rfl | rfl
        · exact changes h (by decide)
        · exact changes h (by decide))
      rw [hr]
      refine ⟨?_, ?_⟩
      · rcases hl with rfl | rfl
        · exact .inl told
        · exact .inr told
      · rw [setLink_port, hport]
        exact ⟨rfl, rfl, Prbs.seed_unlocked _ _, rfl⟩
  case checkers =>
    refine ⟨fun ho hc hl hs => ⟨exec_prbsLock_locks ho hc hl hs, Prbs.lock_locked _, Prbs.lock_none⟩, exec_prbsLock_waits,
      fun ho hc hl hp hs ha => ⟨_, exec_prbsLock_swapped ho hc hl hp hs, ?_⟩,
      fun ho hc hl hp hs ha => ⟨_, exec_prbsLock_swapped ho hc hl hp hs, swapped_auto ha ho⟩, exec_prbsLoss,
      fun leg h => ⟨_, exec_short h leg, faulted_told s n _ _ _⟩⟩
    rw [swapped_reported ha]
    exact faulted_told s n _ _ _

end Sys2Proof.Machine
end

section
/-! SUPPORT. The PORT commands that set and read (spec/05_test_ports.md, R130, R158, R159; spec/19_command_reference.md). -/

namespace Sys2Proof.Machine

/-! Settings (R130, R158). -/

/-- A group with the settings that a block gives it (R158). -/
def Group.withPortSettings (b : Words) (x : Group) : Group :=
  { x with
    mode := modeOf (fld b 32 0 2), rateN := BitVec.ofNat 6 (fld b 36 0 6), offset := signedOf 32 (fld b 40 0 32)
    sscDepth := BitVec.ofNat 8 (fld b 44 0 8), sscRate := BitVec.ofNat 8 (fld b 44 8 8), loopback := fld b 48 0 1 = 1 }

/-- A port with the settings that a block gives it (R158). -/
def PortSt.withSettings (b : Words) (q : Fin 8) (x : PortSt) : PortSt :=
  let o := 64 + 16 * q.val
  { x with
    inv := BitVec.ofNat 4 (fld b o 0 4), auto_ := fld b o 4 1 = 1, startTx := fld b o 5 1 = 1, startTxe := fld b o 6 1 = 1
    pre := BitVec.ofNat 4 (fld b (o + 4) 0 4), post := BitVec.ofNat 5 (fld b (o + 4) 8 5)
    swing := BitVec.ofNat 4 (fld b (o + 4) 16 4), ctle := BitVec.ofNat 4 (fld b (o + 8) 0 4), polApplied := false }

section
variable (s : State) (b : Words) (g : Fin 16) (q : Fin 8)

theorem setPort_eq : s.setPort b g q =
    (s.modPort (groupPort g q) (PortSt.withSettings b q)).showPolarity (groupPort g q) s.ports[(groupPort g q).val].inv := rfl

theorem setPort_only : OnlyPort s (s.setPort b g q) (groupPort g q) := by
  rw [setPort_eq]
  exact (modPort_only s _ _).trans (showPolarity_only _ _ _)

theorem setPort_port : (s.setPort b g q).ports[(groupPort g q).val] = s.ports[(groupPort g q).val].withSettings b q := by
  rw [setPort_eq]
  simp only [showPolarity_ports]
  exact modPort_get s _ _

theorem setPort_pins : PinsOnly s (s.setPort b g q) := (s.modPort_pins _ _).trans (showPolarity_pins _ _ _)

/-- The ports of a group with the settings of a block, each following its circumstances. -/
def State.setPorts : State := forAll (groupPorts g) (fun n s => s.refreshPort n) (forAll (allFin 8) (fun q s => s.setPort b g q) s)

theorem setPorts_pins : PinsOnly s (s.setPorts b g) :=
  (PinsOnly.foldl (fun s q => setPort_pins s b g q) _ s).trans (.foldl (fun s n => s.refreshPort_pins n) _ _)

theorem setPorts_port : (s.ports[(groupPort g q).val].withSettings b q).Follows (s.setPorts b g).ports[(groupPort g q).val] := by
  obtain ⟨u, -, hu, hset⟩ := forAll_port (fun s q => setPort_only s b g q) (groupPorts_nodup g) (List.mem_finRange q) s
  obtain ⟨v, -, hv, href⟩ := (forAll_each refreshPort_only (groupPorts_nodup g) (forAll (allFin 8) (fun q s => s.setPort b g q) s)).named
    (mem_groupPorts.mpr (portGroup_groupPort g q))
  have follows := (refreshPort_refreshes v (groupPort g q)).port
  rw [hv, hset, setPort_port, hu] at follows
  rw [State.setPorts, href]
  exact follows

/-- The ports of other groups stay as they were. -/
theorem setPorts_others {n : Fin 128} (hn : portGroup n ≠ g) : (s.setPorts b g).ports[n.val] = s.ports[n.val] := by
  rw [State.setPorts, (forAll_each refreshPort_only (groupPorts_nodup g) _).others (fun h => hn (mem_groupPorts.mp h)),
    forAll_others (fun s q => setPort_only s b g q)]
  exact fun p _ h => hn (h ▸ portGroup_groupPort g p)

end

section
variable {s : State} {p : Pkt}

theorem portSet_act : cmdPortSet.act (begunJob cmdPortSet p) (begun cmdPortSet p s) =
    .done (((begun cmdPortSet p s).modGroup (Pkt.group p) (Group.withPortSettings (applied cmdPortSet p))).setPorts
      (applied cmdPortSet p) (Pkt.group p)) [] := rfl

/-! States and counts (R159). -/

theorem portGet_act : cmdPortGet.act (begunJob cmdPortGet p) (begun cmdPortGet p s) = .done (begun cmdPortGet p s)
    (let g := Pkt.group p
     let x := s.groups[g.val]
     s.portBlock g ++ ((groupPorts g).map fun n => (s.ports[n.val]).status) ++
        [x.ctrl, x.status s.nowTu] ++ word2 (x.markCycle.toNat + x.markCount.toNat * 2 ^ 48 + x.markValue.toNat * 2 ^ 56) ++
        word2 (x.pgCycle s.nowTu).toNat ++ word2 x.idle.toNat ++ word2 x.clash.toNat ++
        [if x.calValid then x.calTemp.setWidth 32 else 0, 0]) := rfl

/-- A port whose counts are cleared. -/
def PortSt.uncounted (x : PortSt) : PortSt := { x with counts := Vector.replicate 6 0 }

theorem linkStatus_args (p : Pkt) : (begunJob cmdPortLinkStatus p).args = p.block :=
  begunJob_args (by simp [CmdDef.Unclamped, cmdPortLinkStatus, CmdDef.plain, Field.applied])

theorem linkStatus_act : cmdPortLinkStatus.act (begunJob cmdPortLinkStatus p) (begun cmdPortLinkStatus p s) =
    .done (if param p 32 8 1 = 1 then
        forAll (maskPorts (Pkt.group p) (param p 32 0 8)) (fun n s => s.modPort n PortSt.uncounted) (begun cmdPortLinkStatus p s)
      else begun cmdPortLinkStatus p s)
      ((maskPorts (Pkt.group p) (param p 32 0 8)).flatMap fun n => (s.ports[n.val]).status :: (s.ports[n.val]).counts.toList) := by
  unfold param
  rw [← linkStatus_args p]
  rfl

theorem forAll_modPort (l : List (Fin 128)) (f : PortSt → PortSt) (s : State) :
    forAll l (fun n s => s.modPort n f) s = { s with ports := changeAll l f s.ports } := by
  induction l generalizing s with
  | nil => rfl
  | cons n l ih => exact ih _

/-- What `PORT_SET` leaves: its group with the settings, and the ports of it, each following its circumstances. -/
theorem exec_portSet (h : Accepted cmdPortSet p s) : ∃ t, exec (.portSet p) s = .next t ∧ Completed cmdPortSet p s t [] ∧
    t = { s with queen := t.queen, hif := t.hif, groups := t.groups, ports := t.ports, ev := t.ev, out := t.out } ∧
    t.groups = upd s.groups (Pkt.group p) (Group.withPortSettings (applied cmdPortSet p)) ∧
    (∀ q, (s.ports[(groupPort (Pkt.group p) q).val].withSettings (applied cmdPortSet p) q).Follows
      t.ports[(groupPort (Pkt.group p) q).val]) ∧
    ∀ n : Fin 128, portGroup n ≠ Pkt.group p → t.ports[n.val] = s.ports[n.val] := by
  obtain ⟨q, x, hb⟩ := begun_rest h.toPasses
  have ends := fetch_ends h portSet_act
  generalize hv : (begun cmdPortSet p s).modGroup (Pkt.group p) (Group.withPortSettings (applied cmdPortSet p)) = v at ends
  have pins := setPorts_pins v (applied cmdPortSet p) (Pkt.group p)
  have ports := setPorts_port v (applied cmdPortSet p) (Pkt.group p)
  have others := fun n hn => setPorts_others v (applied cmdPortSet p) (Pkt.group p) (n := n) hn
  have hvp : v.ports = s.ports := by rw [← hv, State.modGroup_ports, begun_ports]
  have hvq : v.queen = (begun cmdPortSet p s).queen := by rw [← hv, State.modGroup_queen]
  have hvh : v.hif = (s.consume p).hif := by rw [← hv, State.modGroup_hif, begun_hif]
  obtain ⟨u, hx, hc⟩ := ends (pins.portsOnly.queen.trans hvq) (pins.portsOnly.hif.trans hvh)
  simp only [hvp] at ports others
  have hgroups := pins.portsOnly.groups
  generalize v.setPorts (applied cmdPortSet p) (Pkt.group p) = w at hx hc pins ports others hgroups
  refine ⟨_, congrArg Host.Outcome.next hx, hc, ?_, ?_, ports, others⟩
  · rw [show w = _ from pins, ← hv, hb]
    rfl
  · rw [← hv, State.modGroup_groups, begun_groups] at hgroups
    exact hgroups

/-- Settles O23: each setting by the port or the group that takes it, each reading by its body. -/
theorem portSettings : Obligations.PortSettings := by
  intro s p g x
  refine ⟨fun h => ?set, fun h => ?get, fun h => ?status⟩
  case set =>
    intro b
    obtain ⟨t, hx, hc, hrest, hgroups, hports, hothers⟩ := exec_portSet h
    refine ⟨t, hx, hc, hrest, ?_, fun i hi => ?_, fun r => ?_, hothers⟩
    · rw [hgroups, upd_get_same]
      rfl
    · rw [hgroups]
      exact upd_get_other _ _ _ _ hi.symm
    · rw [show t.ports[(groupPort g r).val] = _ from hports r]
      exact ⟨rfl, rfl, rfl, rfl, rfl, rfl, rfl, rfl⟩
  case get =>
    obtain ⟨hc, hrest⟩ := fetch_reads h portGet_act
    exact ⟨_, rfl, hrest, hc⟩
  case status =>
    intro l
    have act := linkStatus_act (p := p) (s := s)
    by_cases hp : param p 32 8 1 = 1
    · rw [if_pos hp, forAll_modPort] at act
      obtain ⟨q, hx, hc⟩ := fetch_ends h act rfl rfl
      refine ⟨_, congrArg Host.Outcome.next hx, hc, rfl, fun n => ?_⟩
      simp only [hp, and_true]
      exact changeAll_get (maskPorts_nodup _ _) PortSt.uncounted s.ports n
    · rw [if_neg hp] at act
      obtain ⟨q, hx, hc⟩ := fetch_ends h act rfl rfl
      refine ⟨_, congrArg Host.Outcome.next hx, hc, rfl, fun n => ?_⟩
      rw [if_neg fun hn => hp hn.2]
      rfl

end

end Sys2Proof.Machine
end

section
/-! SUPPORT. The PORT commands that start and stop functions, and the end of a detection (spec/05_test_ports.md, R131, R134, R143, R152 to
R156, R160; spec/12_modes_startup_reset.md, R347). -/

namespace Sys2Proof.Machine

/-! Lanes (R134, R143, R160). -/

section
variable (s : State) (n : Fin 128)

theorem startLane_only : OnlyPort s (s.startLane n) n := by
  unfold State.startLane
  split
  · exact .refl s n
  · exact changed_only s n _

/-- A lane that starts has negative running disparity and no slip to make; one that runs goes on. -/
theorem startLane_port : (s.startLane n).ports[n.val].started = true ∧ (s.ports[n.val].started = false →
    (s.startLane n).ports[n.val].txDisp = false ∧ (s.startLane n).ports[n.val].slips = 0) := by
  unfold State.startLane
  split
  next h => exact ⟨h, fun hn => absurd h (by rw [hn]; exact Bool.false_ne_true)⟩
  next => exact ⟨(changed_follows s n _).started, fun _ => ⟨(changed_follows s n _).txDisp, (changed_follows s n _).slips⟩⟩

theorem stopLane_only : OnlyPort s (s.stopLane n) n := by
  unfold State.stopLane
  split
  · exact changed_only s n _
  · exact .refl s n

theorem stopLane_pins : PinsOnly s (s.stopLane n) := .ite ((s.modPort_pins n _).trans (State.refreshPort_pins _ n)) (.refl s)

theorem stopLane_port : (s.stopLane n).ports[n.val].started = false := by
  unfold State.stopLane
  split
  next => exact (changed_follows s n _).started
  next h => simpa using h

end

/-! The first function (12, R347). -/

/-- Every port has kept all but its levels, its lane state and its test. -/
def PortsFollow (s t : State) : Prop := ∀ m : Fin 128, s.ports[m.val].Follows t.ports[m.val]

theorem Refreshes.follow {n : Fin 128} {s t : State} (h : Refreshes n s t) : PortsFollow s t := fun m => by
  by_cases hm : m = n
  · rw [hm]
    exact h.port
  · rw [h.others m hm]
    exact .refl _

theorem refreshPorts_follow (s : State) : PortsFollow s s.refreshPorts := by
  unfold State.refreshPorts forAll
  generalize allFin 128 = l
  induction l generalizing s with
  | nil => exact fun m => .refl _
  | cons n l ih => exact fun m => ((refreshPort_refreshes s n).follow m).trans (ih (s.refreshPort n) m)

theorem endScan_ports (s : State) (old m : Mode) : (s.endScan old m).ports = s.ports := by
  unfold State.endScan
  split <;> rfl

theorem enterMode_follow {s : State} {m : Mode} (h : s.rsc.mode ≠ m) (err : Bool) : PortsFollow s (s.enterMode m err) := by
  intro n
  unfold State.enterMode
  simp only [h, if_false, endScan_ports]
  have follows := refreshPorts_follow ((s.inMode m err).raise 44 (if err then 3 else 1) 0
    (detail [(0, 1, s.rsc.mode.code), (1, 1, m.code), (2, 2, s.rsc.cause.toNat)])) n
  simp only [State.raise_ports] at follows
  exact follows

theorem startedFunction_follow (s : State) : PortsFollow s s.startedFunction := by
  unfold State.startedFunction
  split
  next h => exact enterMode_follow (by rw [h]; decide) false
  next => exact fun m => .refl _

/-! `PORT_DETECT` (R131, R132, R156). -/

section
variable (s : State) (n : Fin 128) (chk : Option Prbs)

theorem beginTest_only : OnlyPort s (s.beginTest n chk) n := changed_only s n _

theorem beginTest_pins : PinsOnly s (s.beginTest n chk) := (s.modPort_pins n _).trans (State.refreshPort_pins _ n)

variable {s n}

/-- A port outside its safe state, or without power, is held high-impedance by its test. -/
theorem beginTest_holds (h : s.portOn n = false ∨ s.portSafe n = false) : (s.beginTest n chk).ports[n.val].test.isSome = true ∧
    (s.beginTest n chk).ports[n.val].tx = .hiz ∧ (s.beginTest n chk).ports[n.val].txe = .hiz := by
  obtain ⟨htest, htx, htxe⟩ := refreshPort_held (s := s.modPort n fun p =>
    { p with test := some { p.test.getD { tx := p.tx, txe := p.txe, chk := none } with chk := chk } })
    (by rw [modPort_get]; rfl) h
  refine ⟨?_, htx, htxe⟩
  rw [modPort_get] at htest
  exact congrArg Option.isSome htest

/-- A port in its safe state is not tested. -/
theorem beginTest_safe (ho : s.portOn n = true) (hs : s.portSafe n = true) : (s.beginTest n chk).ports[n.val].test = none ∧
    (s.beginTest n chk).ports[n.val].txe = .low ∧
    (s.beginTest n chk).ports[n.val].tx = if s.groups[(portGroup n).val].mode = .waveform then .low else .idle :=
  refreshPort_safe (s := s.modPort n _) ho hs

end

/-! PRBS functions (R152 to R154). -/

theorem prbsTaps_length (poly : BitVec 2) : 0 < (prbsTaps poly).1 ∧ (prbsTaps poly).1 ≤ 31 := by
  unfold prbsTaps
  split <;> decide

/-- No pattern begins with a register of zeros, at which it would stay. -/
theorem prbsSeed_ne (poly : BitVec 2) (v : Word) : prbsSeed poly v ≠ 0 := by
  obtain ⟨hpos, hlen⟩ := prbsTaps_length poly
  have hmax : 2 ^ (prbsTaps poly).1 ≤ 2 ^ 31 := Nat.pow_le_pow_right (by decide) hlen
  have hmin : 2 ^ 1 ≤ 2 ^ (prbsTaps poly).1 := Nat.pow_le_pow_right (by decide) hpos
  have hv : v.toNat % (2 ^ (prbsTaps poly).1 - 1) < 2 ^ (prbsTaps poly).1 - 1 := Nat.mod_lt _ (by omega)
  intro h
  have h := congrArg BitVec.toNat h
  rw [prbsSeed, BitVec.toNat_ofNat, Nat.mod_eq_of_lt (by omega)] at h
  have h : 1 + v.toNat % (2 ^ (prbsTaps poly).1 - 1) = 0 := h
  omega

section
variable (s : State) (b : Words) (n : Fin 128)

theorem startPrbs_only : OnlyPort s (s.startPrbs b n) n :=
  ((drawFree_only s n).trans (modPort_only _ n _)).trans (refreshPort_only _ n)

theorem prbsAction_only : OnlyPort s (s.prbsAction b n) n := by
  unfold State.prbsAction
  split
  · exact startPrbs_only s b n
  · split
    · exact changed_only s n _
    · exact .refl s n
  · exact modPort_only s n _
  · exact modPort_only s n _
  · exact .refl s n

/-- A PRBS function that has just started, as a block says. -/
def Prbs.started (b : Words) (seed : BitVec 31) : Prbs :=
  { Prbs.reset with
    on := true, gen := fld b 32 15 1 = 1, chk := fld b 32 16 1 = 1, poly := BitVec.ofNat 2 (fld b 32 12 2)
    invert := fld b 32 14 1 = 1, genReg := seed }

theorem startPrbs_prbs : (s.startPrbs b n).ports[n.val].prbs =
    Prbs.started b (prbsSeed (BitVec.ofNat 2 (fld b 32 12 2)) s.drawFree.1) :=
  (changed_follows s.drawFree.2 n fun p => { p with
    stale := false, prbs := Prbs.started b (prbsSeed (BitVec.ofNat 2 (fld b 32 12 2)) s.drawFree.1), loop := [] }).prbs

/-- What each action makes of a port's PRBS function, but for a start (R152 to R154). -/
theorem prbsAction_prbs :
    (fld b 32 8 4 = 0 → (s.prbsAction b n).ports[n.val].prbs = s.ports[n.val].prbs) ∧
    (fld b 32 8 4 = 2 → (s.prbsAction b n).ports[n.val].prbs.on = false) ∧
    (fld b 32 8 4 = 3 → (s.prbsAction b n).ports[n.val].prbs = { s.ports[n.val].prbs with bits := 0, errs := 0, losses := 0 }) ∧
    (fld b 32 8 4 = 4 → (s.prbsAction b n).ports[n.val].prbs =
      { s.ports[n.val].prbs with insert_ := s.ports[n.val].prbs.on && s.ports[n.val].prbs.gen }) := by
  refine ⟨fun h => ?_, fun h => ?_, fun h => ?_, fun h => ?_⟩ <;> simp only [State.prbsAction, h]
  · split
    next => rw [(changed_follows s n _).prbs]
    next ho => simpa using ho
  · rw [modPort_get]
  · rw [modPort_get]

/-- A start is that of the PRBS function. -/
theorem prbsAction_start (h : fld b 32 8 4 = 1) : s.prbsAction b n = s.startPrbs b n := by simp only [State.prbsAction, h]

end

/-! The commands (R160; 19). -/

theorem startedFunction_desk (s : State) : s.startedFunction.queen = s.queen ∧ s.startedFunction.hif = s.hif ∧
    s.startedFunction.rsc.mode = if s.rsc.mode = .ready then .run else s.rsc.mode := by
  obtain ⟨r, hp, hr⟩ := s.startedFunction_pins
  rw [show s.startedFunction = _ from hp]
  exact ⟨rfl, rfl, hr⟩

section
variable {s : State} {p : Pkt}

/-- The ports that a packet names. -/
def namedPorts (p : Pkt) : List (Fin 128) := maskPorts (Pkt.group p) (param p 32 0 8)

theorem namedPorts_nodup (p : Pkt) : (namedPorts p).Nodup := maskPorts_nodup _ _

theorem portStart_act : cmdPortStart.act (begunJob cmdPortStart p) (begun cmdPortStart p s) =
    .done (forAll (namedPorts p) (fun n s => s.startLane n) (begun cmdPortStart p s)).startedFunction [] := by
  have hargs : (begunJob cmdPortStart p).args = p.block :=
    begunJob_args (by simp [CmdDef.Unclamped, cmdPortStart, CmdDef.plain, Field.applied])
  unfold namedPorts param
  rw [← hargs]
  rfl

theorem portStop_act : cmdPortStop.act (begunJob cmdPortStop p) (begun cmdPortStop p s) =
    .done (forAll (namedPorts p) (fun n s => s.stopLane n) (begun cmdPortStop p s)) [] := by
  have hargs : (begunJob cmdPortStop p).args = p.block :=
    begunJob_args (by simp [CmdDef.Unclamped, cmdPortStop, CmdDef.plain, Field.applied])
  unfold namedPorts param
  rw [← hargs]
  rfl

/-- The checker that a detection seeds on each port, where it tests the polarity (R156). -/
def detectChecker (p : Pkt) (s : State) : Option Prbs :=
  if s.testsPolarity (begunJob cmdPortDetect p) then
    some { Prbs.reset with chk := true, poly := BitVec.ofNat 2 (fld (begunJob cmdPortDetect p).args 32 9 2) }
  else none

theorem portDetect_act : cmdPortDetect.act (begunJob cmdPortDetect p) (begun cmdPortDetect p s) =
    .stay (forAll (namedPorts p) (fun n t => t.beginTest n (detectChecker p (begun cmdPortDetect p s))) (begun cmdPortDetect p s)) := by
  have hargs : (begunJob cmdPortDetect p).args = p.block :=
    begunJob_args (by simp [CmdDef.Unclamped, cmdPortDetect, CmdDef.plain, Field.applied])
  unfold namedPorts param
  rw [← hargs]
  rfl

/-- What `PORT_PRBS` makes of its ports and of the mode. -/
def State.prbsActed (s : State) (p : Pkt) : State :=
  let t := forAll (namedPorts p) (fun n s => s.prbsAction p.block n) s
  if fld p.block 32 8 4 = 1 then t.startedFunction else t

/-- Each named port's PRBS function is as the action leaves it, whatever the ports' levels; a start may change the mode. -/
theorem prbsActed_each (s : State) (p : Pkt) : ∃ u, EachPort (fun n s => s.prbsAction p.block n) (namedPorts p) s u ∧
    PortsFollow u (s.prbsActed p) ∧ (s.prbsActed p).queen = s.queen ∧ (s.prbsActed p).hif = s.hif ∧ (s.prbsActed p).rsc.mode =
      if param p 32 8 4 = 1 then (if s.rsc.mode = .ready then .run else s.rsc.mode) else s.rsc.mode := by
  have each := forAll_each (fun s n => prbsAction_only s p.block n) (namedPorts_nodup p) s
  have acted : s.prbsActed p = if param p 32 8 4 = 1 then (forAll (namedPorts p) (fun n s => s.prbsAction p.block n) s).startedFunction
    else forAll (namedPorts p) (fun n s => s.prbsAction p.block n) s := rfl
  generalize forAll (namedPorts p) (fun n s => s.prbsAction p.block n) s = u at each acted
  refine ⟨u, each, ?_⟩
  rw [acted]
  split
  · obtain ⟨hq, hh, hm⟩ := startedFunction_desk u
    rw [each.rest.rsc] at hm
    exact ⟨startedFunction_follow u, hq.trans each.rest.queen, hh.trans each.rest.hif, hm⟩
  · exact ⟨fun m => .refl _, each.rest.queen, each.rest.hif, congrArg Rescue.mode each.rest.rsc⟩

theorem portPrbs_act : cmdPortPrbs.act (begunJob cmdPortPrbs p) (begun cmdPortPrbs p s) =
    .done ((begun cmdPortPrbs p s).prbsActed p) ((namedPorts p).flatMap fun n =>
      (if decide (param p 32 8 4 = 3) then (begun cmdPortPrbs p s).ports[n.val]
        else ((begun cmdPortPrbs p s).prbsActed p).ports[n.val]).prbsWords) := by
  have hargs : (begunJob cmdPortPrbs p).args = p.block :=
    begunJob_args (by simp [CmdDef.Unclamped, cmdPortPrbs, CmdDef.plain, Field.applied])
  unfold State.prbsActed namedPorts param
  rw [← hargs]
  rfl

/-- `PORT_START`: its lanes run, those that start afresh; a first function takes READY to RUN. -/
theorem exec_portStart (h : Accepted cmdPortStart p s) : ∃ t, exec (.portStart p) s = .next t ∧ Completed cmdPortStart p s t [] ∧
    t.rsc.mode = (if s.rsc.mode = .ready then .run else s.rsc.mode) ∧
    ∀ n : Fin 128, t.ports[n.val].started = (s.ports[n.val].started || decide (n ∈ namedPorts p)) ∧
      (n ∈ namedPorts p → s.ports[n.val].started = false → t.ports[n.val].txDisp = false ∧ t.ports[n.val].slips = 0) := by
  have ends := fetch_ends h portStart_act
  have each := forAll_each startLane_only (namedPorts_nodup p) (begun cmdPortStart p s)
  generalize forAll (namedPorts p) (fun n s => s.startLane n) (begun cmdPortStart p s) = u at ends each
  obtain ⟨hq, hh, hm⟩ := startedFunction_desk u
  have follow := startedFunction_follow u
  obtain ⟨q, hx, hc⟩ := ends (hq.trans each.rest.queen) (hh.trans each.rest.hif)
  rw [each.rest.rsc] at hm
  generalize u.startedFunction = v at hx hc hm follow
  refine ⟨_, congrArg Host.Outcome.next hx, hc, hm, fun n => ?_⟩
  by_cases hn : n ∈ namedPorts p
  · obtain ⟨w, -, hw, hu⟩ := each.named hn
    obtain ⟨hstarted, hfresh⟩ := startLane_port w n
    rw [← hu, hw, begun_ports] at hfresh
    refine ⟨?_, fun _ hs => ?_⟩
    · rw [(follow n).started, hu, hstarted, decide_eq_true hn, Bool.or_true]
    · rw [(follow n).txDisp, (follow n).slips]
      exact hfresh hs
  · refine ⟨?_, fun hc => absurd hc hn⟩
    rw [(follow n).started, each.others hn, begun_ports, decide_eq_false hn, Bool.or_false]

/-- `PORT_STOP`: its lanes run no more. -/
theorem exec_portStop (h : Accepted cmdPortStop p s) : ∃ t, exec (.portStop p) s = .next t ∧ Completed cmdPortStop p s t [] ∧
    t = { s with queen := t.queen, hif := t.hif, ports := t.ports, ev := t.ev, out := t.out } ∧
    ∀ n : Fin 128, t.ports[n.val].started = (s.ports[n.val].started && decide (n ∉ namedPorts p)) := by
  obtain ⟨q₀, x₀, hb⟩ := begun_rest h.toPasses
  have ends := fetch_ends h portStop_act
  have pins : PinsOnly (begun cmdPortStop p s) (forAll (namedPorts p) (fun n s => s.stopLane n) (begun cmdPortStop p s)) :=
    .foldl (fun s n => stopLane_pins s n) _ _
  have each := forAll_each stopLane_only (namedPorts_nodup p) (begun cmdPortStop p s)
  generalize forAll (namedPorts p) (fun n s => s.stopLane n) (begun cmdPortStop p s) = u at ends pins each
  obtain ⟨q, hx, hc⟩ := ends pins.portsOnly.queen pins.portsOnly.hif
  refine ⟨_, congrArg Host.Outcome.next hx, hc, ?_, fun n => ?_⟩
  · rw [show u = _ from pins, hb]
  · by_cases hn : n ∈ namedPorts p
    · obtain ⟨w, -, -, hu⟩ := each.named hn
      rw [hu, stopLane_port, decide_eq_false (not_not_intro hn), Bool.and_false]
    · rw [each.others hn, begun_ports, decide_eq_true hn, Bool.and_true]

/-- `PORT_DETECT`: it runs on, each of its ports held or, in its safe state, left at the safe levels. -/
theorem exec_portDetect (h : Accepted cmdPortDetect p s) : ∃ t, exec (.portDetect p) s = .next t ∧ StillRuns s t p ∧
    t = { s with queen := t.queen, hif := t.hif, ports := t.ports, ev := t.ev, out := t.out } ∧
    ∀ n : Fin 128, (n ∉ namedPorts p → t.ports[n.val] = s.ports[n.val]) ∧
      (n ∈ namedPorts p → s.portOn n = false ∨ s.portSafe n = false → t.ports[n.val].test.isSome = true ∧
        t.ports[n.val].tx = .hiz ∧ t.ports[n.val].txe = .hiz) ∧
      (n ∈ namedPorts p → s.portOn n = true → s.portSafe n = true → t.ports[n.val].test = none ∧ t.ports[n.val].txe = .low ∧
        t.ports[n.val].tx = (if s.groups[(portGroup n).val].mode = .waveform then .low else .idle)) := by
  obtain ⟨q₀, x₀, hb⟩ := begun_rest h.toPasses
  have stays := fetch_stay h portDetect_act
  generalize detectChecker p (begun cmdPortDetect p s) = chk at stays
  have pins : PinsOnly (begun cmdPortDetect p s) (forAll (namedPorts p) (fun n s => s.beginTest n chk) (begun cmdPortDetect p s)) :=
    .foldl (fun s n => beginTest_pins s n chk) _ _
  have each := forAll_each (fun s n => beginTest_only s n chk) (namedPorts_nodup p) (begun cmdPortDetect p s)
  generalize forAll (namedPorts p) (fun n s => s.beginTest n chk) (begun cmdPortDetect p s) = u at stays pins each
  refine ⟨_, congrArg Host.Outcome.next stays, stillRuns_of h pins.portsOnly.queen pins.portsOnly.hif, ?_, fun n =>
    ⟨fun hn => (each.others hn).trans rfl, fun hn hc => ?_, fun hn ho hs => ?_⟩⟩
  · rw [show u = _ from pins, hb]
  · obtain ⟨w, hw, -, hu⟩ := each.named hn
    obtain ⟨hon, hsafe⟩ := hw.circumstances n
    rw [hu]
    refine beginTest_holds chk ?_
    rw [hon, hsafe]
    exact hc
  · obtain ⟨w, hw, -, hu⟩ := each.named hn
    obtain ⟨hon, hsafe⟩ := hw.circumstances n
    have held := beginTest_safe chk (hon.trans ho) (hsafe.trans hs)
    rw [hw.groups] at held
    rw [hu]
    exact held

/-- `PORT_PRBS`: each named port's function is as the action leaves it. -/
theorem exec_portPrbs (h : Accepted cmdPortPrbs p s) : ∃ t, exec (.portPrbs p) s = .next t ∧
    Completed cmdPortPrbs p s t ((namedPorts p).flatMap fun n =>
      (if param p 32 8 4 = 3 then s.ports[n.val] else t.ports[n.val]).prbsWords) ∧
    t.rsc.mode = (if param p 32 8 4 = 1 then (if s.rsc.mode = .ready then .run else s.rsc.mode) else s.rsc.mode) ∧
    (∀ n : Fin 128, n ∉ namedPorts p → t.ports[n.val].prbs = s.ports[n.val].prbs) ∧
    ∀ n ∈ namedPorts p, ∃ u : State, u.ports[n.val] = s.ports[n.val] ∧
      t.ports[n.val].prbs = (u.prbsAction p.block n).ports[n.val].prbs := by
  have ends := fetch_ends h portPrbs_act
  obtain ⟨u, each, follow, hq, hh, hm⟩ := prbsActed_each (begun cmdPortPrbs p s) p
  generalize (begun cmdPortPrbs p s).prbsActed p = v at ends follow hq hh hm
  obtain ⟨q, hx, hc⟩ := ends hq hh
  simp only [decide_eq_true_eq] at hc
  refine ⟨_, congrArg Host.Outcome.next hx, hc, hm, fun n hn => ?_, fun n hn => ?_⟩
  · rw [(follow n).prbs, each.others hn, begun_ports]
  · obtain ⟨w, -, hw, hu⟩ := each.named hn
    exact ⟨w, hw, by rw [(follow n).prbs, hu]⟩

end

end Sys2Proof.Machine
end

section
/-! SUPPORT. The end of a detection (spec/05_test_ports.md, R131, R134, R156, R157). -/

namespace Sys2Proof.Machine

/-! Tests that end (R156). -/

/-- The test of a port is over, and its levels and lane state follow. -/
theorem endTest_ends (s : State) (n : Fin 128) : Refreshes n s (s.endTest n) ∧ (s.endTest n).ports[n.val].test = none := by
  unfold State.endTest
  split
  next h => exact ⟨.refl n s, h⟩
  next x h =>
    have ended := untest_refreshes s n
    have htest : (s.modPort n fun p => { p with test := none }).ports[n.val].test = none := by rw [modPort_get]
    dsimp only
    generalize (s.modPort n fun p => { p with test := none }) = u at ended htest ⊢
    have follows : Refreshes n u ((if u.portLive n then (u.drive n false x.tx).drive n true x.txe else u).refreshPort n) :=
      (Refreshes.ite (drives_refreshes u n _ _) (.refl n u)).trans (refreshPort_refreshes _ n)
    exact ⟨ended.trans follows, follows.untested htest⟩

theorem endTests_each (s : State) (g : Fin 16) : EachPort (fun n s => s.endTest n) (groupPorts g) s (s.endTests g) :=
  forAll_each (fun s n => (endTest_ends s n).1.toOnlyPort) (groupPorts_nodup g) s

/-! What is found (R155 to R157). -/

/-- Of the ports no test has begun or ended, and but for the ports, the events, what is put out and the free values drawn nothing has
changed. -/
structure TestsKept (s t : State) : Prop where
  rest  : PortsOnly s t
  tests : ∀ m : Fin 128, t.ports[m.val].test = s.ports[m.val].test

theorem TestsKept.refl (s : State) : TestsKept s s := ⟨.refl s, fun _ => rfl⟩

theorem TestsKept.trans {s t u : State} (h : TestsKept s t) (k : TestsKept t u) : TestsKept s u :=
  ⟨h.rest.trans k.rest, fun m => (k.tests m).trans (h.tests m)⟩

theorem TestsKept.foldl {ι : Type} {f : State → ι → State} (hf : ∀ s i, TestsKept s (f s i)) (l : List ι) (s : State) :
    TestsKept s (l.foldl f s) := by
  induction l generalizing s with
  | nil => exact .refl s
  | cons i l ih => exact (hf s i).trans (ih (f s i))

theorem OnlyPort.testsKept {s t : State} {n : Fin 128} (h : OnlyPort s t n) (ht : t.ports[n.val].test = s.ports[n.val].test) :
    TestsKept s t := by
  refine ⟨h.rest, fun m => ?_⟩
  by_cases hm : m = n
  · rw [hm, ht]
  · rw [h.others m hm]

section
variable (s : State) (n : Fin 128)

theorem modPort_testsKept {f : PortSt → PortSt} (hf : ∀ p, (f p).test = p.test) : TestsKept s (s.modPort n f) :=
  (modPort_only s n f).testsKept (by rw [modPort_get, hf])

theorem portFault_testsKept (signal kind : Nat) : TestsKept s (s.portFault n signal kind) :=
  (portFault_only s n signal kind).testsKept (by simp only [portFault_ports])

theorem reacquire_testsKept : TestsKept s (s.reacquire n) := by
  obtain ⟨l, -, hr⟩ := reacquire_port s n
  refine (reacquire_only s n).testsKept ?_
  rw [hr]
  rfl

theorem swapped_testsKept : TestsKept s (s.swapped n) := by
  cases ha : s.ports[n.val].auto_ with
  | false =>
    rw [swapped_reported ha]
    exact (modPort_testsKept s n (f := PortSt.swapReported) fun _ => rfl).trans (portFault_testsKept _ n 2 4)
  | true =>
    rw [swapped_inverted ha]
    have inverted := modPort_testsKept s n (f := PortSt.swapInverted) fun _ => rfl
    refine TestsKept.trans ?_ (portFault_testsKept _ n 2 4)
    split
    · exact inverted.trans (reacquire_testsKept _ n)
    · exact inverted

theorem detected_testsKept (r : BitVec 16) : TestsKept s (s.detected n r) := by
  refine TestsKept.foldl (fun s i => ?_) _ s
  split
  · exact portFault_testsKept s n _ _
  · exact portFault_testsKept s n _ _
  · exact portFault_testsKept s n _ _
  · split
    · exact swapped_testsKept s n
    · exact .refl s
  · exact .refl s

end

/-- What is found of each port that a job names. -/
def State.findings (s : State) (j : Job) (r : List (BitVec 16)) : List (Fin 128 × BitVec 16) :=
  (j.ports.zip (r ++ List.replicate 8 0)).map fun e => (e.1, detectWord (s.ports[e.1.val]).testSwapped e.2)

theorem findings_words (s : State) (j : Job) (r : List (BitVec 16)) :
    (s.findings j r).map (fun e => e.2.setWidth 32) = (List.range j.ports.length).map fun i =>
      (detectWord (s.ports[(j.ports.getD i 0).val]).testSwapped (r.getD i 0)).setWidth 32 := by
  have hlen : j.ports.length ≤ 8 := by
    show (((allFin 8).filter _).map _).length ≤ 8
    rw [List.length_map]
    exact (List.length_filter_le _ _).trans (by simp)
  refine List.ext_getElem (by simp [State.findings]; omega) fun i hi _ => ?_
  have hi : i < j.ports.length := by
    simp only [State.findings, List.length_map, List.length_zip] at hi
    omega
  have hword : (r ++ List.replicate 8 0)[i]'(by simp; omega) = r.getD i 0 := by
    rw [List.getElem_append]
    split
    next h => rw [List.getD_eq_getElem _ _ h]
    next h => rw [List.getElem_replicate, List.getD_eq_default _ _ (by omega)]
  simp only [State.findings, List.getElem_map, List.getElem_zip, List.getElem_range, hword, List.getD_eq_getElem _ _ hi]

section
variable {s : State} {g : Fin 16} {j : Job}

/-- What the end of a group's tests leaves before the command commits. -/
def State.detectEnded (s : State) (g : Fin 16) (l : List (Fin 128 × BitVec 16)) : State :=
  l.foldl (fun s e => s.detected e.1 e.2) (s.endTests g)

theorem detectEnded_kept (s : State) (g : Fin 16) (l : List (Fin 128 × BitVec 16)) : TestsKept (s.endTests g) (s.detectEnded g l) := by
  unfold State.detectEnded
  generalize s.endTests g = t
  have hf (s : State) (e : Fin 128 × BitVec 16) : TestsKept s (s.detected e.1 e.2) := detected_testsKept s e.1 e.2
  exact TestsKept.foldl hf l t

theorem detectEnded_rest (s : State) (g : Fin 16) (l : List (Fin 128 × BitVec 16)) : PortsOnly s (s.detectEnded g l) :=
  PortsOnly.trans (endTests_each s g).rest (detectEnded_kept s g l).rest

theorem detectEnded_untested (l : List (Fin 128 × BitVec 16)) : ∀ n ∈ groupPorts g, (s.detectEnded g l).ports[n.val].test = none := by
  intro n hn
  obtain ⟨u, -, -, hu⟩ := (endTests_each s g).named hn
  rw [(detectEnded_kept s g l).tests n, hu]
  exact (endTest_ends u n).2

theorem exec_detectEnd (r : List (BitVec 16))
    (hj : s.queen.jobs.find? (fun j => j.p.opcode = 0x0505 && j.phase = .running && Pkt.group j.p = g) = some j)
    (hup : s.queen.up = true) : exec (.detectEnd g r) s =
      .next ((s.detectEnded g (s.findings j r)).commitDone j ((s.findings j r).map fun e => e.2.setWidth 32)) := by
  have hup : (s.detectEnded g (s.findings j r)).queen.up = true := by rw [(detectEnded_rest s g _).queen, hup]
  show execDetectEnd g r s = _
  unfold execDetectEnd
  rw [hj]
  exact congrArg Host.Outcome.next (if_pos hup)

theorem commitDone_ports {t : State} (hk : Endable s j) (hq : t.queen = s.queen) (result : Words) :
    (t.commitDone j result).ports = t.ports := by
  rw [State.commitDone, commitRaw_pcie _ _ _ _ hk.path hk.kept (by rw [State.abortAsked, hq]; exact hk.calm)]

end

/-! The word of findings (R156). -/

/-- What one leg of a port can report: an open on `TX` and `TXE` only, and the swapped `RX` pair that the checker found. -/
def legResult (swapped : Bool) (i c : Nat) : Nat :=
  let c := if c = 2 && 2 ≤ i then 1 else if 5 ≤ c then 1 else c
  if i = 2 && swapped && c < 2 then 5 else c

theorem legResult_lt {c : Nat} (hc : c < 16) (swapped : Bool) (i : Nat) : legResult swapped i c < 16 := by
  unfold legResult
  dsimp only
  split_ifs <;> omega

theorem legResult_eq {c : Nat} (hc : c < 5) (swapped : Bool) (i : Nat) : legResult swapped i c =
    if i = 2 ∧ swapped = true ∧ c < 3 then 5 else if c = 2 ∧ 2 ≤ i then 1 else c := by
  unfold legResult
  dsimp only
  grind

/-- Each leg's result stands in its four bits. -/
theorem detectWord_leg (v : Bool) (r : BitVec 16) (i : Fin 4) :
    bitsOf (detectWord v r).toNat (4 * i.val) 4 = legResult v i.val (bitsOf r.toNat (4 * i.val) 4) := by
  have leg (k : Nat) := legResult_lt (bitsOf_lt r.toNat (4 * k) 4) v k
  have hword : detectWord v r = BitVec.ofNat 16 (legResult v 0 (bitsOf r.toNat (4 * 0) 4) + legResult v 1 (bitsOf r.toNat (4 * 1) 4) * 16 +
      legResult v 2 (bitsOf r.toNat (4 * 2) 4) * 256 + legResult v 3 (bitsOf r.toNat (4 * 3) 4) * 4096) := by
    simp only [detectWord, legResult, List.range, List.range.loop, List.foldl_cons, List.foldl_nil]
    congr 1
    omega
  have h0 := leg 0
  have h1 := leg 1
  have h2 := leg 2
  have h3 := leg 3
  rw [hword, BitVec.toNat_ofNat, bitsOf, Nat.shiftRight_eq_div_pow]
  fin_cases i <;> simp only at * <;> omega

/-- Settles O24: each command by what it makes of the ports that it names, a detection's end by its findings. -/
theorem portFunctions : Obligations.PortFunctions := by
  refine ⟨fun s p => ?commands, fun s g r j hj hk hup => ?ends, fun v r i hi => ?word⟩
  case commands =>
    intro l mode act
    refine ⟨exec_portStart, exec_portStop, exec_portDetect, fun h => ?_⟩
    obtain ⟨t, hx, hc, hm, hothers, hnamed⟩ := exec_portPrbs h
    refine ⟨t, hx, hc, hm, hothers, fun n hn => ?_⟩
    obtain ⟨u, hu, hprbs⟩ := hnamed n hn
    obtain ⟨keeps, stops, clears, inserts⟩ := prbsAction_prbs u p.block n
    rw [hu] at keeps clears inserts
    dsimp only
    rw [hprbs]
    refine ⟨keeps, fun ha => ?_, stops, clears, inserts⟩
    rw [prbsAction_start u p.block n ha, startPrbs_prbs]
    exact ⟨rfl, rfl, rfl, rfl, rfl, rfl, rfl, prbsSeed_ne _ _⟩
  case ends =>
    have rest := detectEnded_rest s g (s.findings j r)
    refine ⟨_, exec_detectEnd r hj hup, ?_, fun n hn => ?_⟩
    · rw [findings_words]
      exact commitDone_ended hk.path hk.kept (by rw [State.abortAsked, rest.queen]; exact hk.calm) (by rw [rest.queen])
        (by rw [rest.queen]) _
    · have ports := commitDone_ports hk rest.queen ((s.findings j r).map fun e => e.2.setWidth 32)
      simp only [ports]
      exact detectEnded_untested _ n hn
  case word =>
    rw [detectWord_leg, legResult_eq hi]
    refine if_congr ⟨?_, ?_⟩ rfl rfl
    · rintro ⟨hleg, hv, hr⟩
      obtain rfl : i = 2 := Fin.ext hleg
      exact ⟨rfl, hv, hr⟩
    · rintro ⟨rfl, hv, hr⟩
      exact ⟨rfl, hv, hr⟩

end Sys2Proof.Machine
end


section
/-! SUPPORT. The must-repair rule and the background sweep (spec/06_fail_capture_and_repair.md, R180, R183). -/

namespace Sys2Proof.Machine

/-! Rising lists. -/

theorem mem_insertInt (a x : Int) (l : List Int) : x ∈ insertInt a l ↔ x = a ∨ x ∈ l := by
  induction l with
  | nil => simp [insertInt]
  | cons b l ih =>
    unfold insertInt
    split
    · exact List.mem_cons
    · rw [List.mem_cons, ih, List.mem_cons]
      exact or_left_comm

theorem mem_sortInts (x : Int) (l : List Int) : x ∈ sortInts l ↔ x ∈ l := by
  induction l with
  | nil => rfl
  | cons a l ih => rw [sortInts, mem_insertInt, ih, List.mem_cons]

theorem mem_risingNats (n : Nat) (l : List Nat) : n ∈ risingNats l ↔ n ∈ l := by
  simp [risingNats, mem_sortInts]

theorem mem_putLine (n : Nat) (must : Bool) (e : Nat × Bool) (l : List (Nat × Bool)) :
    e ∈ putLine n must l ↔ e = (n, must) ∨ e ∈ l := by
  induction l with
  | nil => simp [putLine]
  | cons d l ih =>
    unfold putLine
    split
    · rw [List.mem_cons, ih, List.mem_cons]
      exact or_left_comm
    · exact List.mem_cons

theorem putLine_length (n : Nat) (must : Bool) (l : List (Nat × Bool)) : (putLine n must l).length = l.length + 1 := by
  induction l with
  | nil => rfl
  | cons d l ih =>
    unfold putLine
    split
    · simp [ih]
    · rfl

theorem sublist_putLine (n : Nat) (must : Bool) (l : List (Nat × Bool)) : l.Sublist (putLine n must l) := by
  induction l with
  | nil => exact List.nil_sublist _
  | cons d l ih =>
    unfold putLine
    split
    · exact ih.cons_cons d
    · exact List.sublist_cons_self _ _

/-! Lines allocated (R180). -/

theorem Block.hasRow_iff {b : Block} {r : Nat} : b.hasRow r = true ↔ ∃ m, (r, m) ∈ b.rows := by
  simp [Block.hasRow, List.any_eq_true]

theorem Block.hasCol_iff {b : Block} {c : Nat} : b.hasCol c = true ↔ ∃ m, (c, m) ∈ b.cols := by
  simp [Block.hasCol, List.any_eq_true]

/-- The free spares of both kinds. -/
def Block.free (b : Block) (g : Geom) : Nat := b.freeRows g + b.freeCols g

/-- Lines have been allocated to a block within the spares of a geometry, and none has been given back: either nothing has changed,
or the block is unrepairable, or fewer spares are free. -/
structure Block.Grows (g : Geom) (b b' : Block) : Prop where
  rest    : b' = { b with rows := b'.rows, cols := b'.cols, unrep := b'.unrep }
  rows    : b.rows.Sublist b'.rows
  cols    : b.cols.Sublist b'.cols
  rowsFit : b.rows.length ≤ g.sRows → b'.rows.length ≤ g.sRows
  colsFit : b.cols.length ≤ g.sCols → b'.cols.length ≤ g.sCols
  unrep   : b.unrep = true → b'.unrep = true
  spends  : b' = b ∨ b'.unrep = true ∨ b'.free g < b.free g

namespace Block.Grows
variable {g : Geom} {b b' b'' : Block}

theorem refl (b : Block) : Block.Grows g b b := ⟨rfl, .refl _, .refl _, id, id, id, .inl rfl⟩

theorem freeCols_le (h : Block.Grows g b b') : b'.freeCols g ≤ b.freeCols g := Nat.sub_le_sub_left h.cols.length_le _

theorem free_le (h : Block.Grows g b b') : b'.free g ≤ b.free g :=
  Nat.add_le_add (Nat.sub_le_sub_left h.rows.length_le _) h.freeCols_le

theorem trans (h : Block.Grows g b b') (k : Block.Grows g b' b'') : Block.Grows g b b'' where
  rest := k.rest.trans (by rw [h.rest])
  rows := h.rows.trans k.rows
  cols := h.cols.trans k.cols
  rowsFit := k.rowsFit ∘ h.rowsFit
  colsFit := k.colsFit ∘ h.colsFit
  unrep := k.unrep ∘ h.unrep
  spends := by
    rcases h.spends with rfl | hu | hf
    · exact k.spends
    · exact .inr (.inl (k.unrep hu))
    · exact .inr (.inr (Nat.lt_of_le_of_lt k.free_le hf))

theorem foldl {ι : Type} {f : Block → ι → Block} (hf : ∀ b i, Block.Grows g b (f b i)) (l : List ι) (b : Block) :
    Block.Grows g b (l.foldl f b) :=
  List.foldlRecOn (motive := Block.Grows g b) l f (refl b) fun _ h i _ => h.trans (hf _ i)

theorem iter {f : Block → Block} (hf : ∀ b, Block.Grows g b (f b)) (n : Nat) (b : Block) : Block.Grows g b (iter f n b) := by
  induction n generalizing b with
  | zero => exact refl b
  | succ n ih => exact (hf b).trans (ih _)

/-- What grows back into a repairable block has not changed. -/
theorem antisymm (h : Block.Grows g b b') (k : Block.Grows g b' b) (hu : b.unrep = false) : b' = b := by
  rcases h.spends with he | hu' | hf
  · exact he
  · exact absurd (k.unrep hu') (by simp [hu])
  · exact absurd k.free_le (Nat.not_le.mpr hf)

/-- Operations one after the other that leave a repairable block as it was have left it so one by one. -/
theorem foldl_fixes {ι : Type} {f : Block → ι → Block} (hf : ∀ b i, Block.Grows g b (f b i)) {l : List ι}
    (hu : b.unrep = false) (h : l.foldl f b = b) : ∀ i ∈ l, f b i = b := by
  induction l with
  | nil => exact nofun
  | cons i l ih =>
    have back : Block.Grows g (f b i) ((i :: l).foldl f b) := foldl hf l (f b i)
    rw [h] at back
    have hi : f b i = b := (hf b i).antisymm back hu
    rw [List.foldl_cons, hi] at h
    exact List.forall_mem_cons.mpr ⟨hi, ih h⟩

theorem hasRow (h : Block.Grows g b b') {r : Nat} (hr : b.hasRow r = true) : b'.hasRow r = true := by
  obtain ⟨m, hm⟩ := Block.hasRow_iff.mp hr
  exact Block.hasRow_iff.mpr ⟨m, h.rows.subset hm⟩

theorem hasCol (h : Block.Grows g b b') {c : Nat} (hc : b.hasCol c = true) : b'.hasCol c = true := by
  obtain ⟨m, hm⟩ := Block.hasCol_iff.mp hc
  exact Block.hasCol_iff.mpr ⟨m, h.cols.subset hm⟩

theorem covers (h : Block.Grows g b b') {c : Cell3} (hc : b.covers c = true) : b'.covers c = true :=
  Bool.or_eq_true_iff.mpr ((Bool.or_eq_true_iff.mp hc).imp h.hasRow h.hasCol)

end Block.Grows

/-- A pass of must_fixpoint, but of an unrepairable block (R183). -/
def Block.sweep (g : Geom) (cells : List Cell3) (b : Block) : Block := if b.unrep then b else b.mustPass g cells

section
variable (b : Block) (g : Geom) (n : Nat) (must : Bool) (cells : List Cell3)

theorem Block.takeRow_grows : Block.Grows g b (b.takeRow g n must) := by
  unfold Block.takeRow
  split
  · exact ⟨rfl, .refl _, .refl _, id, id, fun _ => rfl, .inr (.inl rfl)⟩
  next hfree =>
    have hlen := putLine_length n must b.rows
    unfold Block.freeRows at hfree
    refine ⟨rfl, sublist_putLine _ _ _, .refl _, fun _ => hlen.trans_le (by omega), id, id, .inr (.inr ?_)⟩
    simp only [Block.free, Block.freeRows, Block.freeCols]
    omega

theorem Block.takeCol_grows : Block.Grows g b (b.takeCol g n must) := by
  unfold Block.takeCol
  split
  · exact ⟨rfl, .refl _, .refl _, id, id, fun _ => rfl, .inr (.inl rfl)⟩
  next hfree =>
    have hlen := putLine_length n must b.cols
    unfold Block.freeCols at hfree
    refine ⟨rfl, .refl _, sublist_putLine _ _ _, id, fun _ => hlen.trans_le (by omega), id, .inr (.inr ?_)⟩
    simp only [Block.free, Block.freeRows, Block.freeCols]
    omega

theorem Block.mustRow_grows : Block.Grows g b (b.mustRow g cells n) := by
  unfold Block.mustRow
  split
  · exact b.takeRow_grows g n true
  · exact .refl b

theorem Block.mustCol_grows : Block.Grows g b (b.mustCol g cells n) := by
  unfold Block.mustCol
  split
  · exact b.takeCol_grows g n true
  · exact .refl b

theorem Block.mustPass_grows : Block.Grows g b (b.mustPass g cells) :=
  (Block.Grows.foldl (fun b r => b.mustRow_grows g r cells) _ b).trans (.foldl (fun b c => b.mustCol_grows g c cells) _ _)

theorem Block.sweep_grows : Block.Grows g b (b.sweep g cells) := by
  unfold Block.sweep
  split
  · exact .refl b
  · exact b.mustPass_grows g cells

theorem Block.mustFix_grows : Block.Grows g b (b.mustFix g cells) :=
  (b.mustPass_grows g cells).trans (.iter (fun b => b.sweep_grows g cells) 30 _)

end

/-! The fixpoint (R180). -/

/-- No line of a block is forced. -/
def Block.NoneForced (b : Block) (g : Geom) (cells : List Cell3) : Prop :=
  (∀ r, b.hasRow r = false → b.rowCount cells r ≤ b.freeCols g) ∧ ∀ c, b.hasCol c = false → b.colCount cells c ≤ b.freeRows g

section
variable {b : Block} {g : Geom} {n : Nat} {cells : List Cell3}

theorem Block.takeRow_ne {must : Bool} (hu : b.unrep = false) : b.takeRow g n must ≠ b := by
  unfold Block.takeRow
  split
  · exact fun h => by simpa [hu] using congrArg Block.unrep h
  · exact fun h => by simpa [putLine_length] using congrArg (List.length ∘ Block.rows) h

theorem Block.takeCol_ne {must : Bool} (hu : b.unrep = false) : b.takeCol g n must ≠ b := by
  unfold Block.takeCol
  split
  · exact fun h => by simpa [hu] using congrArg Block.unrep h
  · exact fun h => by simpa [putLine_length] using congrArg (List.length ∘ Block.cols) h

theorem Block.rowCount_of_mustRow (hu : b.unrep = false) (h : b.mustRow g cells n = b) (hr : b.hasRow n = false) :
    b.rowCount cells n ≤ b.freeCols g := by
  by_contra hlt
  refine b.takeRow_ne hu ((if_pos ?_).symm.trans h)
  simpa [hr] using hlt

theorem Block.colCount_of_mustCol (hu : b.unrep = false) (h : b.mustCol g cells n = b) (hc : b.hasCol n = false) :
    b.colCount cells n ≤ b.freeRows g := by
  by_contra hlt
  refine b.takeCol_ne hu ((if_pos ?_).symm.trans h)
  simpa [hc] using hlt

theorem Block.rowCount_eq_zero (h : n ∉ cells.map (·.row)) : b.rowCount cells n = 0 := by
  rw [Block.rowCount, List.length_eq_zero_iff, List.filter_eq_nil_iff]
  intro c hc hn
  have hrow : c.row = n ∧ b.covers c = false := by simpa using hn
  exact h (List.mem_map.mpr ⟨c, hc, hrow.1⟩)

theorem Block.colCount_eq_zero (h : n ∉ cells.map (·.col)) : b.colCount cells n = 0 := by
  rw [Block.colCount, List.length_eq_zero_iff, List.filter_eq_nil_iff]
  intro c hc hn
  have hcol : c.col = n ∧ b.covers c = false := by simpa using hn
  exact h (List.mem_map.mpr ⟨c, hc, hcol.1⟩)

/-- A pass that leaves a repairable block as it was has found no forced line. -/
theorem Block.noneForced_of_mustPass (hu : b.unrep = false) (h : b.mustPass g cells = b) : b.NoneForced g cells := by
  have rowStep (b : Block) (r : Nat) := b.mustRow_grows g r cells
  have colStep (b : Block) (c : Nat) := b.mustCol_grows g c cells
  have back : Block.Grows g ((risingNats (cells.map (·.row))).foldl (fun b r => b.mustRow g cells r) b) (b.mustPass g cells) :=
    .foldl colStep _ _
  rw [h] at back
  have hrows : (risingNats (cells.map (·.row))).foldl (fun b r => b.mustRow g cells r) b = b :=
    (Block.Grows.foldl rowStep _ b).antisymm back hu
  have hcols : (risingNats (cells.map (·.col))).foldl (fun b c => b.mustCol g cells c) b = b := by
    rw [Block.mustPass, hrows] at h
    exact h
  constructor
  · intro r hr
    by_cases hin : r ∈ cells.map (·.row)
    · exact Block.rowCount_of_mustRow hu (Block.Grows.foldl_fixes rowStep hu hrows r ((mem_risingNats _ _).mpr hin)) hr
    · exact (Block.rowCount_eq_zero hin).trans_le (Nat.zero_le _)
  · intro c hc
    by_cases hin : c ∈ cells.map (·.col)
    · exact Block.colCount_of_mustCol hu (Block.Grows.foldl_fixes colStep hu hcols c ((mem_risingNats _ _).mpr hin)) hc
    · exact (Block.colCount_eq_zero hin).trans_le (Nat.zero_le _)

theorem iter_fixed {α : Type} {f : α → α} {a : α} (h : f a = a) (n : Nat) : iter f n a = a := by
  induction n with
  | zero => rfl
  | succ n ih => rw [iter, h, ih]

/-- More passes than there are free spares end in an unrepairable block or at the fixpoint: each other pass spends a spare. -/
theorem Block.sweeps_settle (hn : b.free g < n) :
    (iter (Block.sweep g cells) n b).unrep = true ∨ (iter (Block.sweep g cells) n b).NoneForced g cells := by
  induction n generalizing b with
  | zero => exact absurd hn (Nat.not_lt_zero _)
  | succ n ih =>
    rw [iter]
    cases hu : b.unrep with
    | true => exact .inl ((Block.Grows.iter (fun b => b.sweep_grows g cells) n _).unrep ((b.sweep_grows g cells).unrep hu))
    | false =>
      rcases (b.sweep_grows g cells).spends with he | hu' | hf
      · rw [he, iter_fixed he]
        refine .inr (Block.noneForced_of_mustPass hu ?_)
        rwa [Block.sweep, if_neg (by simp [hu])] at he
      · exact .inl ((Block.Grows.iter (fun b => b.sweep_grows g cells) n _).unrep hu')
      · exact ih (by omega)

/-- must_fixpoint reaches its fixpoint, as a geometry has at most 15 spares of each kind (R176, R183). -/
theorem Block.mustFix_settles (hr : g.sRows ≤ 15) (hc : g.sCols ≤ 15) :
    (b.mustFix g cells).unrep = true ∨ (b.mustFix g cells).NoneForced g cells := by
  cases hu : b.unrep with
  | true => exact .inl ((b.mustFix_grows g cells).unrep hu)
  | false =>
    have hfix : b.mustFix g cells = iter (Block.sweep g cells) 31 b := by
      rw [iter, Block.sweep, if_neg (by simp [hu])]
      rfl
    rw [hfix]
    refine Block.sweeps_settle ?_
    unfold Block.free Block.freeRows Block.freeCols
    omega

end

theorem mem_putBlock (b : Block) (l : List Block) : b ∈ putBlock b l := by
  induction l with
  | nil => exact List.mem_cons_self
  | cons c l ih =>
    unfold putBlock
    split
    · exact List.mem_cons_self
    · split
      · exact List.mem_cons_self
      · exact List.mem_cons_of_mem _ ih

/-- A sweep puts the block with its forced lines in the place of the block (R180). -/
theorem exec_backgroundSweep {s : State} {i : Fin 32} {n : Nat} {g : Geom} {b : Block} (hrun : s.broodRuns = true)
    (hg : s.brood.sites[i.val].geom = some g) (hb : s.brood.sites[i.val].blocks.find? (fun b => b.num = n) = some b) :
    exec (.backgroundSweep i n) s = .next (s.modSite i fun x =>
      { x with blocks := putBlock (b.mustFix g (x.failing b)) x.blocks }) := by
  show execBackgroundSweep i n s = _
  simp only [execBackgroundSweep, hg, hb, hrun, if_true]

/-- Settles O18: a sweep allocates within the spares, and more passes than there are spares reach the fixpoint. -/
theorem sweepsReachFixpoint : Obligations.SweepsReachFixpoint := by
  intro s i n g b hpd hclk x hg hr hc hb
  have grows := b.mustFix_grows g (x.failing b)
  have site := upd_get_same s.brood.sites i fun x => { x with blocks := putBlock (b.mustFix g (x.failing b)) x.blocks }
  refine ⟨_, b.mustFix g (x.failing b), exec_backgroundSweep (by simp [State.broodRuns, hpd, hclk]) hg hb, ?_, ?_,
    Block.mustFix_settles hr hc, fun r => grows.hasRow, fun c => grows.hasCol, ?_, fun j hj => upd_get_other _ _ _ _ hj.symm⟩
  · rw [State.modSite_brood_sites, site]
    exact mem_putBlock _ _
  · rw [grows.rest]
    simpa using List.find?_some hb
  · rw [State.modSite_brood_sites, site]

end Sys2Proof.Machine
end


section
/-! SUPPORT. Solving of blocks, and what begins and completes a solve (spec/06_fail_capture_and_repair.md, R182, R183). -/

namespace Sys2Proof.Machine

/-! Lines taken one after the other. -/

section
variable {g : Geom} {b : Block} {n : Nat} {must : Bool}

theorem Block.takeRow_spends (h : b.freeRows g ≠ 0) :
    (b.takeRow g n must).hasRow n = true ∧ (b.takeRow g n must).freeRows g + 1 = b.freeRows g := by
  rw [Block.takeRow, if_neg h]
  refine ⟨Block.hasRow_iff.mpr ⟨must, (mem_putLine _ _ _ _).mpr (.inl rfl)⟩, ?_⟩
  simp only [Block.freeRows, putLine_length] at h ⊢
  omega

theorem Block.takeCol_spends (h : b.freeCols g ≠ 0) :
    (b.takeCol g n must).hasCol n = true ∧ (b.takeCol g n must).freeCols g + 1 = b.freeCols g := by
  rw [Block.takeCol, if_neg h]
  refine ⟨Block.hasCol_iff.mpr ⟨must, (mem_putLine _ _ _ _).mpr (.inl rfl)⟩, ?_⟩
  simp only [Block.freeCols, putLine_length] at h ⊢
  omega

theorem Block.takeRow_freeCols (b : Block) (n : Nat) : (b.takeRow g n must).freeCols g = b.freeCols g := by
  unfold Block.takeRow
  split <;> rfl

/-- Rows that free spares suffice for are all allocated. -/
theorem Block.takeRows_has {l : List Nat} (hl : l.length ≤ b.freeRows g) :
    ∀ r ∈ l, (l.foldl (fun b r => b.takeRow g r must) b).hasRow r = true := by
  induction l generalizing b with
  | nil => exact nofun
  | cons n l ih =>
    rw [List.length_cons] at hl
    obtain ⟨has, hfree⟩ := b.takeRow_spends (g := g) (n := n) (must := must) (by omega)
    have hrest : l.length ≤ (b.takeRow g n must).freeRows g := by omega
    exact List.forall_mem_cons.mpr ⟨(Block.Grows.foldl (fun b r => b.takeRow_grows g r must) l _).hasRow has, ih hrest⟩

theorem Block.takeCols_has {l : List Nat} (hl : l.length ≤ b.freeCols g) :
    ∀ c ∈ l, (l.foldl (fun b c => b.takeCol g c must) b).hasCol c = true := by
  induction l generalizing b with
  | nil => exact nofun
  | cons n l ih =>
    rw [List.length_cons] at hl
    obtain ⟨has, hfree⟩ := b.takeCol_spends (g := g) (n := n) (must := must) (by omega)
    have hrest : l.length ≤ (b.takeCol g n must).freeCols g := by omega
    exact List.forall_mem_cons.mpr ⟨(Block.Grows.foldl (fun b c => b.takeCol_grows g c must) l _).hasCol has, ih hrest⟩

theorem Block.takeRows_freeCols (l : List Nat) : (l.foldl (fun b r => b.takeRow g r must) b).freeCols g = b.freeCols g :=
  List.foldlRecOn (motive := fun u : Block => u.freeCols g = b.freeCols g) l _ rfl fun u hu n _ => (u.takeRow_freeCols n).trans hu

end

/-! The exhaustive search (R183). -/

/-- Rows and columns that, with those of a block, cover its cells, within a number of each. -/
structure Block.Covering (b : Block) (cells : List Cell3) (fr fc : Nat) (x : List Nat × List Nat) : Prop where
  covers  : ∀ c ∈ cells, b.covers c = true ∨ c.row ∈ x.1 ∨ c.col ∈ x.2
  rowsFit : x.1.length ≤ fr
  colsFit : x.2.length ≤ fc

/-- What the search answers covers every cell within the free spares. -/
theorem Block.search_covering (b : Block) (cells : List Cell3) (fr fc : Nat) : ∀ (fuel : Nat) (rows cols : List Nat) (r c : Nat)
    (best : Option (List Nat × List Nat)), rows.length + r ≤ fr → cols.length + c ≤ fc → (∀ x ∈ best, b.Covering cells fr fc x) →
      ∀ x ∈ b.search cells fuel rows cols r c best, b.Covering cells fr fc x := by
  intro fuel
  induction fuel with
  | zero => exact fun _ _ _ _ _ _ _ hbest => hbest
  | succ fuel ih =>
    intro rows cols r c best hr hc hbest
    unfold Block.search
    extract_lets size
    split
    next hnone =>
      have found : b.Covering cells fr fc (rows, cols) := by
        refine ⟨fun d hd => ?_, by dsimp only; omega, by dsimp only; omega⟩
        have uncovered := List.find?_eq_none.mp hnone d hd
        by_contra hno
        simp only [not_or, Bool.not_eq_true] at hno
        exact uncovered (by simp [hno])
      have some_found : ∀ x ∈ some (rows, cols), b.Covering cells fr fc x := fun x hx => Option.some.inj hx ▸ found
      split
      · exact some_found
      · split
        · exact some_found
        · exact hbest
    next d hsome =>
      split
      · exact hbest
      · extract_lets best'
        have hbest' : ∀ x ∈ best', b.Covering cells fr fc x := by
          unfold best'
          split
          · exact ih _ _ _ _ _ (by rw [List.length_cons]; omega) hc hbest
          · exact hbest
        split
        · exact ih _ _ _ _ _ hr (by rw [List.length_cons]; omega) hbest'
        · exact hbest'

/-- The lines of a covering, taken, cover every cell. -/
theorem Block.Covering.taken {b : Block} {g : Geom} {cells : List Cell3} {x : List Nat × List Nat}
    (h : b.Covering cells (b.freeRows g) (b.freeCols g) x) : ∀ c ∈ cells,
      (x.2.foldl (fun b c => b.takeCol g c false) (x.1.foldl (fun b r => b.takeRow g r false) b)).covers c = true := by
  intro c hc
  have growsRows := Block.Grows.foldl (fun b r => b.takeRow_grows g r false) x.1 b
  have growsCols := Block.Grows.foldl (fun b c => b.takeCol_grows g c false) x.2 (x.1.foldl (fun b r => b.takeRow g r false) b)
  rcases h.covers c hc with hb | hrow | hcol
  · exact growsCols.covers (growsRows.covers hb)
  · exact Bool.or_eq_true_iff.mpr (.inl (growsCols.hasRow (Block.takeRows_has h.rowsFit _ hrow)))
  · exact Bool.or_eq_true_iff.mpr (.inr (Block.takeCols_has (h.colsFit.trans_eq (Block.takeRows_freeCols x.1).symm) _ hcol))

/-! The greedy order (R183). -/

/-- The greedy order allocates lines, and where it ends well every cell is covered. -/
theorem Block.greedyLoop_grows (g : Geom) (cells : List Cell3) (fuel : Nat) (b : Block) :
    Block.Grows g b (Block.greedyLoop g cells fuel b).1 ∧
      ((Block.greedyLoop g cells fuel b).2 = true → ∀ c ∈ cells, (Block.greedyLoop g cells fuel b).1.covers c = true) := by
  induction fuel generalizing b with
  | zero => exact ⟨.refl b, nofun⟩
  | succ fuel ih =>
    unfold Block.greedyLoop
    split
    next hall => exact ⟨.refl b, fun _ => List.all_eq_true.mp hall⟩
    split
    · exact ⟨.refl b, nofun⟩
    next row n _ =>
      extract_lets b1 b2
      have grows1 : Block.Grows g b b1 := by
        unfold b1
        split
        · exact b.takeRow_grows g n false
        · exact b.takeCol_grows g n false
      have grows2 : Block.Grows g b b2 := grows1.trans (b1.mustFix_grows g cells)
      split
      · exact ⟨grows2, nofun⟩
      · exact ⟨grows2.trans (ih b2).1, (ih b2).2⟩

/-! A block solved (R183). -/

/-- A block is solved within the spares of a geometry, and REPAIRABLE only where its lines cover these cells. -/
structure Block.Sound (g : Geom) (cells : List Cell3) (b : Block) : Prop where
  rowsFit : b.rows.length + b.xRows.length ≤ g.sRows
  colsFit : b.cols.length + b.xCols.length ≤ g.sCols
  covered : b.verdict = 1 → ∀ c ∈ cells, b.covers c = true ∨ (∃ m, (c.row, m) ∈ b.xRows) ∨ ∃ m, (c.col, m) ∈ b.xCols

/-- Lines and those of a longer list that are not among them are no more than that list holds. -/
theorem newLines_length {l m : List (Nat × Bool)} (h : l.Sublist m) :
    l.length + (m.filter fun e => !l.any fun d => d.1 = e.1).length ≤ m.length := by
  have hl : l.filter (fun e => l.any fun d => d.1 = e.1) = l :=
    List.filter_eq_self.mpr fun e he => List.any_eq_true.mpr ⟨e, he, by simp⟩
  have hold := (h.filter fun e => l.any fun d => d.1 = e.1).length_le
  rw [hl] at hold
  have hsum := List.length_eq_length_filter_add (l := m) fun e => l.any fun d => d.1 = e.1
  omega

section
variable {g : Geom} {cells : List Cell3} {b r : Block} {v : BitVec 2} {greedy : Bool}

theorem Block.solved_sound (h : Block.Grows g b r) (hrows : b.rows.length ≤ g.sRows) (hcols : b.cols.length ≤ g.sCols)
    (hv : v = 1 → ∀ c ∈ cells, r.covers c = true) : (b.solved r v greedy).Sound g cells where
  rowsFit := (newLines_length h.rows).trans (h.rowsFit hrows)
  colsFit := (newLines_length h.cols).trans (h.colsFit hcols)
  covered hone c hc := by
    cases hb : b.covers c with
    | true => exact .inl hb
    | false =>
      obtain ⟨hrow, hcol⟩ := Bool.or_eq_false_iff.mp hb
      refine .inr ((Bool.or_eq_true_iff.mp (hv hone c hc)).imp (fun hr => ?_) fun hr => ?_)
      · obtain ⟨m, hm⟩ := Block.hasRow_iff.mp hr
        exact ⟨m, List.mem_filter.mpr ⟨hm, by simp [hrow]⟩⟩
      · obtain ⟨m, hm⟩ := Block.hasCol_iff.mp hr
        exact ⟨m, List.mem_filter.mpr ⟨hm, by simp [hcol]⟩⟩

/-- A solve gives the block with its forced lines the lines that the search or the greedy order has added; where it says REPAIRABLE
they cover every cell. -/
theorem Block.solve_eq (b : Block) (g : Geom) (cells : List Cell3) : ∃ r v greedy,
    Block.Grows g (b.unsolved.mustFix g cells) r ∧ (v = 1 → ∀ c ∈ cells, r.covers c = true) ∧
      b.solve g cells = (b.unsolved.mustFix g cells).solved r v greedy := by
  unfold Block.solve
  extract_lets f loop
  split
  · exact ⟨f, 2, false, .refl f, nofun, rfl⟩
  split
  · split
    · exact ⟨f, 2, false, .refl f, nofun, rfl⟩
    next rows cols hfound =>
      have covering := f.search_covering cells (f.freeRows g) (f.freeCols g) _ [] [] _ _ none (Nat.zero_add _).le
        (Nat.zero_add _).le nofun _ hfound
      exact ⟨_, 1, false, (Block.Grows.foldl (fun b r => b.takeRow_grows g r false) rows f).trans
        (.foldl (fun b c => b.takeCol_grows g c false) cols _), fun _ => covering.taken, rfl⟩
  · obtain ⟨grows, covers⟩ := Block.greedyLoop_grows g cells 32 f
    refine ⟨loop.1, _, true, grows, fun hone => covers ?_, rfl⟩
    by_contra hno
    rw [if_neg hno] at hone
    exact absurd hone (by decide)

theorem Block.solve_sound (hrows : b.rows.length ≤ g.sRows) (hcols : b.cols.length ≤ g.sCols) : (b.solve g cells).Sound g cells := by
  obtain ⟨r, v, greedy, grows, covers, he⟩ := b.solve_eq g cells
  have forced := b.unsolved.mustFix_grows g cells
  rw [he]
  exact Block.solved_sound grows (forced.rowsFit hrows) (forced.colsFit hcols) covers

/-- A solve leaves the block's number and the cells that earlier solves had covered. -/
theorem Block.solve_keeps (b : Block) (g : Geom) (cells : List Cell3) :
    (b.solve g cells).num = b.num ∧ (b.solve g cells).absorbed = b.absorbed := by
  obtain ⟨r, v, greedy, -, -, he⟩ := b.solve_eq g cells
  rw [he, (b.unsolved.mustFix_grows g cells).rest]
  exact ⟨rfl, rfl⟩

end

/-! Sites changed one after the other. -/

/-- A state with other sites. -/
def State.withSites (s : State) (v : Vector Site 32) : State := { s with brood := { s.brood with sites := v } }

theorem State.modSite_withSites (s : State) (v : Vector Site 32) (i : Fin 32) (f : Site → Site) :
    (s.withSites v).modSite i f = s.withSites (upd v i f) := rfl

theorem forAll_withSites {s : State} {step : Fin 32 → State → State} {f : Fin 32 → Site → Site}
    (h : ∀ i v, step i (s.withSites v) = s.withSites (upd v i (f i))) (l : List (Fin 32)) (v : Vector Site 32) :
    forAll l step (s.withSites v) = s.withSites (changeEach l f v) := by
  induction l generalizing v with
  | nil => rfl
  | cons i l ih =>
    rw [forAll_cons, h]
    exact ih _

theorem forAll_sites {s : State} {step : Fin 32 → State → State} {f : Fin 32 → Site → Site}
    (h : ∀ i v, step i (s.withSites v) = s.withSites (upd v i (f i))) (l : List (Fin 32)) :
    forAll l step s = s.withSites (changeEach l f s.brood.sites) := forAll_withSites h l s.brood.sites

theorem sitesOf_nodup (m : Nat) : (sitesOf m).Nodup := (List.nodup_finRange 32).filter _

/-! Solves (R182). -/

/-- A site whose blocks from a number on are solved. -/
def Site.solveFrom (i : Fin 32) (upTo : Nat) (x : Site) : Site :=
  { x with
    solved := true
    blocks := x.geom.elim x.blocks fun g =>
      x.blocks.map fun b => if solveKey i b.num < upTo then b else b.solve g (x.failing b) }

theorem State.solveSite_withSites (s : State) (upTo : Nat) (i : Fin 32) (v : Vector Site 32) :
    (s.withSites v).solveSite i upTo = s.withSites (upd v i (Site.solveFrom i upTo)) := by
  refine congrArg (fun f => s.withSites (upd v i f)) (funext fun x => ?_)
  cases hg : x.geom <;> simp [Site.solveFrom, hg]

theorem solveFrom_failing (i : Fin 32) (upTo : Nat) (x : Site) (b : Block) (g : Geom) (cells : List Cell3) :
    (x.solveFrom i upTo).failing (b.solve g cells) = x.failing b := by
  obtain ⟨hnum, habsorbed⟩ := b.solve_keeps g cells
  rw [Site.failing, hnum, habsorbed]
  rfl

/-- Within the spares before, a block is within them after; one that was still to do is solved soundly. -/
theorem solveFrom_sound {i : Fin 32} {upTo : Nat} {x : Site} {g : Geom} (hg : x.geom = some g)
    (hfit : ∀ b ∈ x.blocks, b.rows.length ≤ g.sRows ∧ b.cols.length ≤ g.sCols) : ∀ b ∈ (x.solveFrom i upTo).blocks,
      (b.rows.length ≤ g.sRows ∧ b.cols.length ≤ g.sCols) ∧
      (upTo ≤ solveKey i b.num → b.Sound g ((x.solveFrom i upTo).failing b)) := by
  have hblocks : (x.solveFrom i upTo).blocks =
      x.blocks.map fun b => if solveKey i b.num < upTo then b else b.solve g (x.failing b) := by
    simp only [Site.solveFrom, hg, Option.elim_some]
  rw [hblocks]
  refine List.forall_mem_map.mpr fun b hb => ?_
  obtain ⟨hrows, hcols⟩ := hfit b hb
  split
  next hdone => exact ⟨⟨hrows, hcols⟩, fun hdue => absurd hdone (Nat.not_lt.mpr hdue)⟩
  next =>
    have sound : (b.solve g (x.failing b)).Sound g (x.failing b) := Block.solve_sound hrows hcols
    rw [solveFrom_failing]
    exact ⟨⟨(Nat.le_add_right _ _).trans sound.rowsFit, (Nat.le_add_right _ _).trans sound.colsFit⟩, fun _ => sound⟩

/-- A solve of the list is gone, or is what it was changed to. -/
theorem mem_putSolve {s : State} {k : JobKey} {f : Solve → Option Solve} {y : Solve} (h : y ∈ (s.putSolve k f).brood.solves) :
    sameKey y.key k = false ∨ ∃ z, f z = some y := by
  obtain ⟨z, -, hz⟩ := List.mem_filterMap.mp h
  split at hz
  · exact .inr ⟨z, hz⟩
  next hk =>
    obtain rfl := Option.some.inj hz
    exact .inl (Bool.eq_false_iff.mpr hk)

section
variable {s : State} {x : Solve}

/-- May a solve begin: nothing of its sites is in flight, those with a fenced die apart? -/
def State.solveReady (s : State) (x : Solve) : Prop := ∀ i ∈ sitesOf x.mask.toNat, s.siteFenced i = true ∨ s.inFlight i = 0

theorem exec_solveStart (h : s.brood.solves.find? (fun y => !y.started) = some x) :
    (s.broodRuns = true → s.solveReady x → exec .solveStart s = .next (s.putSolve x.key fun y => some { y with started := true })) ∧
    (¬ s.solveReady x → exec .solveStart s = .next s) := by
  have hall : (sitesOf x.mask.toNat).all (fun i => s.siteFenced i || s.inFlight i = 0) = true ↔ s.solveReady x := by
    simp [State.solveReady, List.all_eq_true]
  have hexec : exec .solveStart s = .next (if s.broodRuns && (sitesOf x.mask.toNat).all fun i => s.siteFenced i || s.inFlight i = 0 then
      s.putSolve x.key fun y => some { y with started := true } else s) := by
    show execSolveStart s = _
    simp only [execSolveStart, h]
  refine ⟨fun hrun hready => ?_, fun hwait => ?_⟩
  · rw [hexec, hrun, hall.mpr hready]
    rfl
  · rw [hexec, Bool.eq_false_iff.mpr (mt hall.mp hwait), Bool.and_false]
    rfl

/-- The state in which the command of a solve commits: its last blocks solved, its event raised, the solve gone. -/
def State.solvesDone (s : State) (x : Solve) : State :=
  ((s.withSites (changeEach (sitesOf x.mask.toNat) (Site.solveFrom · x.upTo) s.brood.sites)).raise 35 0 0
    (detail [(0, 4, x.mask.toNat)])).putSolve x.key fun _ => none

theorem exec_solveComplete (h : s.brood.solves.find? (fun y => y.started) = some x) (hrun : s.broodRuns = true) :
    ∃ t, exec .solveComplete s = .next t ∧ Answers (s.solvesDone x) t := by
  have hsites := forAll_sites (step := fun i s => s.solveSite i x.upTo) (s.solveSite_withSites x.upTo) (sitesOf x.mask.toNat)
  have hexec : exec .solveComplete s = .next (((s.solvesDone x).job? x.key).elim (s.solvesDone x) fun j =>
      (s.solvesDone x).commitDone j ((sitesOf x.mask.toNat).flatMap (s.solvesDone x).siteSummary)) := by
    show execSolveComplete s = _
    simp only [execSolveComplete, h, hrun, hsites, Bool.not_true, Bool.false_eq_true, if_false, State.solvesDone]
    generalize State.job? _ x.key = o
    cases o <;> rfl
  refine ⟨_, hexec, ?_⟩
  cases (s.solvesDone x).job? x.key with
  | none => exact .refl _
  | some j => exact State.commitDone_answers _ _ _

end

/-- Settles O19: a solve begins by what is in flight; one that completes by its blocks, each solved by the search or the greedy order. -/
theorem solvesAreSound : Obligations.SolvesAreSound := by
  refine ⟨fun s x hx => ⟨fun hready hrun => ?begins, fun hwait => ?waits⟩, fun s x hx hrun => ?completes⟩
  case begins =>
    refine ⟨_, (exec_solveStart hx).1 hrun hready, fun y hy hk => ?_, rfl⟩
    rcases mem_putSolve hy with hno | ⟨z, hz⟩
    · exact absurd hk (by simp [hno])
    · obtain rfl := Option.some.inj hz
      rfl
  case waits =>
    obtain ⟨i, hi, hfenced, hfly⟩ := hwait
    refine (exec_solveStart hx).2 fun hready => ?_
    rcases hready i hi with hf | h0
    · exact absurd hf (by simp [hfenced])
    · exact hfly h0
  case completes =>
    obtain ⟨t, hexec, hanswers⟩ := exec_solveComplete hx hrun
    have hev : t.ev = (s.solvesDone x).ev := by rw [show t = _ from hanswers]
    have hbrood : t.brood = (s.solvesDone x).brood := by rw [show t = _ from hanswers]
    refine ⟨t, hexec, ?_, fun y hy => ?_, fun i g hi hg hfit => ?_⟩
    · rw [hev]
      exact State.raise_active _ 35 0 0 _
    · rw [hbrood] at hy
      exact (mem_putSolve hy).resolve_right nofun
    · have hsite : t.brood.sites[i.val] = s.brood.sites[i.val].solveFrom i x.upTo := by
        rw [hbrood]
        show ((State.raise _ 35 0 0 _).brood.sites)[i.val] = _
        rw [State.raise_brood]
        exact (changeEach_get (sitesOf_nodup _) _ _ i).trans (if_pos hi)
      rw [hsite]
      refine ⟨rfl, fun b hb => ?_⟩
      obtain ⟨⟨hrows, hcols⟩, sound⟩ := solveFrom_sound hg hfit b hb
      exact ⟨hrows, hcols, fun hdue => ⟨(sound hdue).rowsFit, (sound hdue).colsFit, (sound hdue).covered⟩⟩

end Sys2Proof.Machine
end


section
/-! SUPPORT. The FAIL and BROOD commands (spec/06_fail_capture_and_repair.md, R162 to R187; spec/19_command_reference.md). -/

namespace Sys2Proof.Machine

/-- The block of a command that has begun is its packet's as applied (R38). -/
theorem begunJob_applied (d : CmdDef) (p : Pkt) : (begunJob d p).args = applied d p := rfl

section
variable {s : State} {p : Pkt}

/-- A command whose effect is a change of sites. -/
theorem fetch_setsSites {d : CmdDef} {v : Vector Site 32} {body : Words} (h : Accepted d p s)
    (ha : d.act (begunJob d p) (begun d p s) = .done ((begun d p s).withSites v) body) :
    ∃ t, d.fetch p s = t ∧ Completed d p s t body ∧ t = { s with queen := t.queen, hif := t.hif, brood := t.brood } ∧
      t.brood = { s.brood with sites := v } := by
  obtain ⟨q, hx, hc⟩ := fetch_ends h ha rfl rfl
  exact ⟨_, hx, hc, rfl, rfl⟩

/-! `FAIL_SET` (R162, R169, R175). -/

/-- The log ring as a block sets it, or keeps it (R169; log entry 29). -/
def Brood.ringSet (b : Words) (x : Brood) : Brood :=
  if fld b 56 1 1 = 1 then x
  else { x with
    logMode := BitVec.ofNat 2 (fld b 32 0 2), logSize := BitVec.ofNat 5 (fld b 32 8 5)
    logBase := if fld b 32 0 2 = 0 then x.logBase else BitVec.ofNat 48 (fld b 40 0 48), logHead := 0, logLost := 0 }

/-- A group whose threshold and suppression a block gives (R165, R175). -/
def Group.failSet (b : Words) (x : Group) : Group :=
  { x with fail := { x.fail with threshold := BitVec.ofNat 32 (fld b 52 0 32), suppress := fld b 56 0 1 = 1 } }

theorem failSet_act : cmdFailSet.act (begunJob cmdFailSet p) (begun cmdFailSet p s) =
    .done { begun cmdFailSet p s with
      brood := s.brood.ringSet (applied cmdFailSet p)
      groups := changeAll (maskGroups (fld (applied cmdFailSet p) 48 0 16)) (Group.failSet (applied cmdFailSet p)) s.groups } [] := by
  rw [← begunJob_applied]
  show Act.done (forAll _ (fun g u => u.modGroup g (Group.failSet (begunJob cmdFailSet p).args)) _) [] = _
  rw [forAll_modGroup]
  unfold Brood.ringSet
  split <;> rfl

theorem mem_maskGroups {m : Nat} {g : Fin 16} : g ∈ maskGroups m ↔ m.testBit g.val = true := by
  simp [maskGroups]

theorem maskGroups_nodup (m : Nat) : (maskGroups m).Nodup := (List.nodup_finRange 16).filter _

/-! `FAIL_COUNTS` and `FAIL_CLEAR` (R171 to R174). -/

/-- A site with `UNBALANCED` set (R173). -/
def Site.unbalance (x : Site) : Site := { x with unbalanced := true }

theorem failCounts_args (p : Pkt) : (begunJob cmdFailCounts p).args = p.block :=
  begunJob_args (by simp [CmdDef.Unclamped, cmdFailCounts, CmdDef.plain, Field.applied])

/-- The sites as `FAIL_COUNTS` leaves them: those with a fenced die are unbalanced (R173). -/
def State.countedSites (s : State) (l : List (Fin 32)) : Vector Site 32 :=
  changeEach (l.filter fun i => s.siteFenced i) (fun _ => Site.unbalance) s.brood.sites

/-- What `FAIL_COUNTS` replies. -/
def State.countsBody (s : State) (l : List (Fin 32)) : Words :=
  word2 s.brood.logHead.toNat ++ word2 s.brood.logLost.toNat ++ l.flatMap s.siteBook ++ (allFin 16).flatMap s.groupCounters

theorem failCounts_act : cmdFailCounts.act (begunJob cmdFailCounts p) (begun cmdFailCounts p s) =
    .done ((begun cmdFailCounts p s).withSites (s.countedSites (sitesOf (param p 32 0 32))))
      ((s.withSites (s.countedSites (sitesOf (param p 32 0 32)))).countsBody (sitesOf (param p 32 0 32))) := by
  rw [param, ← failCounts_args]
  exact congrArg (fun u => Act.done u (State.countsBody u (sitesOf (fld (begunJob cmdFailCounts p).args 32 0 32))))
    (forAll_sites (s := begun cmdFailCounts p s) (step := fun i s => s.modSite i Site.unbalance) (fun _ _ => rfl) _)

theorem failClear_args (p : Pkt) : (begunJob cmdFailClear p).args = p.block :=
  begunJob_args (by simp [CmdDef.Unclamped, cmdFailClear, CmdDef.plain, Field.applied])

/-- A site whose books are cleared, but for the records on their way (R171, R174; log entry 29). -/
def Site.booksCleared (fly : Fin 4 → Nat) (x : Site) : Site :=
  { x with
    dieBook := Vector.ofFn fun d : Fin 4 => Vector.ofFn fun i : Fin 4 => if i.val % 2 = 0 then fly d else 0
    book := Vector.replicate 9 0, unbalanced := false, solved := false, lostNew := false, lostNoBlock := 0, overflow := false }

theorem State.clearBooks_withSites (s : State) (i : Fin 32) (v : Vector Site 32) :
    (s.withSites v).clearBooks i = s.withSites (upd v i (Site.booksCleared fun d => s.flying d i)) := rfl

theorem failClear_act : cmdFailClear.act (begunJob cmdFailClear p) (begun cmdFailClear p s) =
    .done ((begun cmdFailClear p s).withSites
      (changeEach (sitesOf (param p 32 0 32)) (fun i => Site.booksCleared fun d => s.flying d i) s.brood.sites)) [] := by
  rw [param, ← failClear_args]
  exact congrArg (Act.done · []) (forAll_sites (step := fun i s => s.clearBooks i) (begun cmdFailClear p s).clearBooks_withSites _)

/-! The BROOD commands (R176, R178, R182, R187). -/

theorem broodGeometry_act : cmdBroodGeometry.act (begunJob cmdBroodGeometry p) (begun cmdBroodGeometry p s) =
    .done ((begun cmdBroodGeometry p s).withSites (upd s.brood.sites (packetSite p) fun x =>
      { x with geom := some (geomOf (applied cmdBroodGeometry p)) })) [] := rfl

theorem broodPartition_args (p : Pkt) : (begunJob cmdBroodPartition p).args = p.block :=
  begunJob_args (by
    intro f hf v
    obtain ⟨i, -, hi⟩ := List.mem_flatMap.mp hf
    fin_cases hi <;> rfl)

/-- A site with the partition that a block gives it (R178). -/
def Site.parted (b : Words) (i : Fin 32) (x : Site) : Site :=
  { x with base := BitVec.ofNat 7 (partOf b i).1, size := BitVec.ofNat 8 (partOf b i).2 }

theorem broodPartition_act : cmdBroodPartition.act (begunJob cmdBroodPartition p) (begun cmdBroodPartition p s) =
    .done ((begun cmdBroodPartition p s).withSites (changeEach (allFin 32) (Site.parted p.block) s.brood.sites)) [] := by
  rw [← broodPartition_args]
  exact congrArg (Act.done · []) (forAll_sites (s := begun cmdBroodPartition p s)
    (step := fun i s => s.modSite i (Site.parted (begunJob cmdBroodPartition p).args i)) (fun _ _ => rfl) _)

/-- A solve that a `BROOD_SOLVE` adds to those that wait (R182). -/
def newSolve (p : Pkt) : Solve := { key := ⟨.pcie, p.tag⟩, mask := BitVec.ofNat 32 (param p 32 0 32), started := false, upTo := 0 }

theorem broodSolve_act : cmdBroodSolve.act (begunJob cmdBroodSolve p) (begun cmdBroodSolve p s) =
    .stay { begun cmdBroodSolve p s with brood := { s.brood with solves := s.brood.solves ++ [newSolve p] } } := by
  have hargs : (begunJob cmdBroodSolve p).args = p.block :=
    begunJob_args (by simp [CmdDef.Unclamped, cmdBroodSolve, CmdDef.plain, Field.applied])
  rw [newSolve, param, ← hargs]
  rfl

/-- What `BROOD_RESULT` replies: the summary of a site and the records of the blocks that a block of parameters names (R187). -/
def State.resultBody (s : State) (b : Words) : Words :=
  let x := s.brood.sites[fld b 32 0 5 % 32]
  s.siteSummary (Fin.ofNat 32 (fld b 32 0 5)) ++ ((x.blocks.drop (fld b 32 16 13)).take (fld b 36 0 9)).flatMap x.blockRecord

theorem begun_resultBody (d : CmdDef) (p : Pkt) (s : State) (b : Words) : (begun d p s).resultBody b = s.resultBody b := rfl

theorem broodResult_act : cmdBroodResult.act (begunJob cmdBroodResult p) (begun cmdBroodResult p s) =
    .done (begun cmdBroodResult p s) (s.resultBody (applied cmdBroodResult p)) := by
  rw [← begunJob_applied, ← begun_resultBody cmdBroodResult p]
  rfl

theorem broodClear_args (p : Pkt) : (begunJob cmdBroodClear p).args = p.block :=
  begunJob_args (by simp [CmdDef.Unclamped, cmdBroodClear, CmdDef.plain, Field.applied])

/-- A site without entries, blocks and geometry (R178). -/
def Site.emptied (x : Site) : Site := { x with cells := [], blocks := [], geom := none }

theorem broodClear_act : cmdBroodClear.act (begunJob cmdBroodClear p) (begun cmdBroodClear p s) =
    .done ((begun cmdBroodClear p s).withSites (changeEach (sitesOf (param p 32 0 32))
      (fun i => Site.booksCleared (fun d => s.flying d i) ∘ Site.emptied) s.brood.sites)) [] := by
  have step (i : Fin 32) (v : Vector Site 32) :
      (((begun cmdBroodClear p s).withSites v).modSite i Site.emptied).clearBooks i =
        (begun cmdBroodClear p s).withSites (upd v i (Site.booksCleared (fun d => s.flying d i) ∘ Site.emptied)) := by
    rw [State.modSite_withSites, State.clearBooks_withSites, upd_upd]
    rfl
  rw [param, ← broodClear_args]
  exact congrArg (Act.done · []) (forAll_sites (step := fun i s => (s.modSite i Site.emptied).clearBooks i) step _)

end

/-- Settles O20: each command by what its effect makes of the sites, the groups and the log ring. -/
theorem repairCommands : Obligations.RepairCommands := by
  refine ⟨fun s p => ⟨fun h => ?set, fun h => ?counts, fun h => ?clear⟩,
    fun s p => ⟨fun h => ?geometry, fun h => ?partition, fun h => ?solve, fun h => ?result, fun h => ?empty⟩⟩
  case set =>
    obtain ⟨q, hx, hc⟩ := fetch_ends h failSet_act rfl rfl
    refine ⟨_, congrArg Host.Outcome.next hx, hc, rfl, fun g => ?_, fun hkeep => if_pos hkeep, fun hset => ?_⟩
    · refine (changeAll_get (maskGroups_nodup _) _ s.groups g).trans ?_
      simp only [mem_maskGroups]
      rfl
    · have hring : s.brood.ringSet (applied cmdFailSet p) = _ := if_neg (by rw [hset]; decide)
      dsimp only
      rw [hring]
      exact ⟨rfl, rfl, rfl, rfl, rfl, fun hmode => if_neg hmode⟩
  case counts =>
    obtain ⟨q, hx, hc⟩ := fetch_ends h failCounts_act rfl rfl
    refine ⟨_, congrArg Host.Outcome.next hx, hc, rfl, fun i => ?_⟩
    refine (changeEach_get ((sitesOf_nodup _).filter _) _ s.brood.sites i).trans ?_
    simp only [List.mem_filter]
    rfl
  case clear =>
    obtain ⟨t, hx, hc, hrest, hsites⟩ := fetch_setsSites h failClear_act
    refine ⟨t, congrArg Host.Outcome.next hx, hc, hrest, fun i => ?_⟩
    have each := changeEach_get (sitesOf_nodup (param p 32 0 32)) (fun i => Site.booksCleared fun d => s.flying d i) s.brood.sites i
    rw [hsites]
    refine ⟨fun hi => each.trans (if_neg hi), fun hi => ?_⟩
    rw [if_pos hi] at each
    dsimp only
    rw [each]
    refine ⟨rfl, rfl, rfl, fun d => ?_⟩
    simp [Site.booksCleared]
  case geometry =>
    obtain ⟨t, hx, hc, hrest, hsites⟩ := fetch_setsSites h broodGeometry_act
    refine ⟨t, congrArg Host.Outcome.next hx, hc, hrest, ?_⟩
    rw [hsites]
    exact ⟨upd_get_same _ _ _, fun j hj => upd_get_other _ _ _ _ hj.symm⟩
  case partition =>
    obtain ⟨t, hx, hc, hrest, hsites⟩ := fetch_setsSites h broodPartition_act
    refine ⟨t, congrArg Host.Outcome.next hx, hc, hrest, fun j => ?_⟩
    have each := changeEach_get (List.nodup_finRange 32) (Site.parted p.block) s.brood.sites j
    rw [hsites]
    dsimp only
    rw [each, if_pos (List.mem_finRange j)]
    rfl
  case solve =>
    have hx := fetch_stay h broodSolve_act
    exact ⟨_, congrArg Host.Outcome.next hx, stillRuns_of h rfl rfl, rfl, rfl⟩
  case result =>
    obtain ⟨hc, hrest⟩ := fetch_reads h broodResult_act
    exact ⟨_, rfl, hc, hrest⟩
  case empty =>
    obtain ⟨t, hx, hc, hrest, hsites⟩ := fetch_setsSites h broodClear_act
    refine ⟨t, congrArg Host.Outcome.next hx, hc, hrest, fun j => ?_⟩
    have each := changeEach_get (sitesOf_nodup (param p 32 0 32))
      (fun i => Site.booksCleared (fun d => s.flying d i) ∘ Site.emptied) s.brood.sites j
    rw [hsites]
    dsimp only
    rw [each]
    split
    · exact ⟨rfl, rfl, rfl, rfl, rfl, rfl⟩
    · rfl

end Sys2Proof.Machine
end


section
/-! SUPPORT. Regions of a die that start and stop (spec/08_configuration.md, R230, R232). -/

namespace Sys2Proof.Machine

/-! States of regions. -/

/-- Regions of a die, or its static part, in a state. -/
def DieFab.setStates (f : DieFab) (l : List Nat) (st : RegSt) : DieFab := l.foldl (fun f i => f.setState i st) f

namespace DieFab

variable (f : DieFab) (st : RegSt)

theorem stateAt_setState {k i : Nat} (hk : k ≤ 16) (hi : i ≤ 16) : (f.setState k st).stateAt i = if i = k then st else f.stateAt i := by
  unfold setState stateAt
  by_cases hi16 : i < 16 <;> by_cases hk16 : k < 16
  · simp only [hi16, hk16, dif_pos]
    by_cases h : i = k
    · subst h
      rw [if_pos rfl]
      exact congrArg Region.st (upd_get_same f.regions ⟨i, hi16⟩ _)
    · rw [if_neg h]
      exact congrArg Region.st (upd_get_other f.regions ⟨k, hk16⟩ ⟨i, hi16⟩ _ fun e => h (Fin.mk.inj e).symm)
  · simp only [hi16, hk16, dif_pos, dif_neg, not_false_eq_true]
    rw [if_neg (by omega)]
  · simp only [hi16, hk16, dif_pos, dif_neg, not_false_eq_true]
    rw [if_neg (by omega)]
  · simp only [hi16, hk16, dif_neg, not_false_eq_true]
    rw [if_pos (by omega)]

theorem setState_regs (k : Nat) : (f.setState k st).regs = f.regs := by
  unfold setState
  split <;> rfl

theorem stateAt_setStates {l : List Nat} (hl : ∀ k ∈ l, k ≤ 16) {i : Nat} (hi : i ≤ 16) :
    (f.setStates l st).stateAt i = if i ∈ l then st else f.stateAt i := by
  induction l generalizing f with
  | nil => rfl
  | cons k l ih =>
    obtain ⟨hk, hl⟩ := List.forall_mem_cons.mp hl
    refine (ih (f.setState k st) hl).trans ?_
    rw [f.stateAt_setState st hk hi]
    by_cases hik : i = k
    · rw [if_pos hik, if_pos (List.mem_cons.mpr (.inl hik)), ite_self]
    · simp only [List.mem_cons, hik, false_or, if_false]

theorem setStates_regs (l : List Nat) : (f.setStates l st).regs = f.regs := by
  induction l generalizing f with
  | nil => rfl
  | cons k l ih => exact (ih _).trans (f.setState_regs st k)

theorem stateAt_setReset (own : Nat → Bool) (i : Nat) : (f.setReset own).stateAt i = f.stateAt i := rfl

/-! The regions that a command acts on (R230). -/

variable {f}

theorem inside_self (i : Nat) : f.inside i i = true := if_pos rfl

theorem mem_actsOn {i k : Nat} {on : RegSt → Bool} (hi : on (f.stateAt i) = true) :
    k ∈ f.actsOn i on ↔ k ≤ 16 ∧ on (f.stateAt k) = true ∧ f.inside k i = true := by
  unfold actsOn inState
  rw [if_pos hi, List.mem_filter, List.mem_filter, List.mem_range, Nat.lt_succ_iff, and_assoc]

theorem actsOn_none {i : Nat} {on : RegSt → Bool} (hi : on (f.stateAt i) = false) : f.actsOn i on = [] := by
  unfold actsOn
  rw [hi, if_neg nofun]

theorem actsOn_le {i : Nat} {on : RegSt → Bool} : ∀ k ∈ f.actsOn i on, k ≤ 16 := by
  intro k hk
  cases hi : on (f.stateAt i) with
  | true => exact ((mem_actsOn hi).mp hk).1
  | false => exact absurd hk (by simp [actsOn_none hi])

/-- The region named enters the state where it stands in one that the command acts on. -/
theorem stateAt_actsOn {i : Nat} {on : RegSt → Bool} (h16 : i ≤ 16) (hi : on (f.stateAt i) = true) :
    (f.setStates (f.actsOn i on) st).stateAt i = st := by
  rw [f.stateAt_setStates st actsOn_le h16, if_pos ((mem_actsOn hi).mpr ⟨h16, hi, inside_self i⟩)]

/-- A region that does not lie inside the one named keeps its state. -/
theorem stateAt_outside {i k : Nat} {on : RegSt → Bool} (hk : k ≤ 16) (hout : f.inside k i = false) :
    (f.setStates (f.actsOn i on) st).stateAt k = f.stateAt k := by
  rw [f.stateAt_setStates st actsOn_le hk]
  refine if_neg fun hm => ?_
  cases hi : on (f.stateAt i) with
  | true => exact absurd ((mem_actsOn hi).mp hm).2.2 (by simp [hout])
  | false => exact absurd hm (by simp [actsOn_none hi])

end DieFab

/-! `CFG_REGION_START` and `CFG_REGION_STOP`. -/

/-- Does `CFG_REGION_START` act on a region in a state? -/
def RegSt.stopped (st : RegSt) : Bool := st = .held || st = .frozen

/-- Does `CFG_REGION_STOP` act on a region in a state? -/
def RegSt.runs (st : RegSt) : Bool := st = .running

theorem RegSt.stopped_or_runs {st : RegSt} (h : (decide (st = .unconfigured) || decide (st = .loading)) = false) :
    st.stopped = true ∨ st = .running := by
  cases st with
  | unconfigured | loading => exact nomatch h
  | held | frozen => exact .inl rfl
  | running => exact .inr rfl

/-- A die of which regions stop: FROZEN, or HELD with their registers at their set-reset values (R232). -/
def DieFab.haltedAll (f : DieFab) (l : List Nat) (held : Bool) : DieFab :=
  let g := f.setStates l (if held then .held else .frozen)
  if held then g.setReset fun t => l.contains (f.owner t) else g

theorem DieFab.haltedAll_stateAt (f : DieFab) (l : List Nat) (held : Bool) (k : Nat) :
    (f.haltedAll l held).stateAt k = (f.setStates l (if held then .held else .frozen)).stateAt k := by
  unfold DieFab.haltedAll
  cases held with
  | true => exact DieFab.stateAt_setReset _ (fun t => l.contains (f.owner t)) k
  | false => rfl

theorem DieFab.haltedAll_frozen_regs (f : DieFab) (l : List Nat) : (f.haltedAll l false).regs = f.regs := f.setStates_regs _ _

section
variable {s : State} {p : Pkt}

/-- A command whose effect is a change of its die's fabric, and whose reply is the states that follow. -/
theorem fetch_setsFab {d : CmdDef} {e : Fin 4} {F : DieFab → DieFab} (h : Accepted d p s)
    (ha : d.act (begunJob d p) (begun d p s) = .done ((begun d p s).modFab e F) ((begun d p s).modFab e F).fab[e.val].states) :
    ∃ t, d.fetch p s = t ∧ Completed d p s t t.fab[e.val].states ∧ t.fab[e.val] = F s.fab[e.val] ∧
      t = { s with queen := t.queen, hif := t.hif, fab := t.fab } ∧ ∀ c : Fin 4, c ≠ e → t.fab[c.val] = s.fab[c.val] := by
  obtain ⟨q, hx, hc⟩ := fetch_ends h ha rfl rfl
  exact ⟨_, hx, hc, upd_get_same s.fab e F, rfl, fun c hc => upd_get_other s.fab e c F hc.symm⟩

theorem regionStart_args (p : Pkt) : (begunJob cmdCfgRegionStart p).args = p.block :=
  begunJob_args (by simp [CmdDef.Unclamped, cmdCfgRegionStart, CmdDef.plain, Field.applied])

theorem regionStop_args (p : Pkt) : (begunJob cmdCfgRegionStop p).args = p.block :=
  begunJob_args (by simp [CmdDef.Unclamped, cmdCfgRegionStop, CmdDef.plain, Field.applied])

theorem regionStart_act : cmdCfgRegionStart.act (begunJob cmdCfgRegionStart p) (begun cmdCfgRegionStart p s) =
    let u := (begun cmdCfgRegionStart p s).modFab (dieUnitOf p) fun f =>
      f.setStates (s.fab[(dieUnitOf p).val].actsOn (param p 32 0 5) RegSt.stopped) .running
    .done u u.fab[(dieUnitOf p).val].states := by
  rw [param, ← regionStart_args]
  rfl

theorem regionStop_act : cmdCfgRegionStop.act (begunJob cmdCfgRegionStop p) (begun cmdCfgRegionStop p s) =
    let l := s.fab[(dieUnitOf p).val].actsOn (param p 32 0 5) RegSt.runs
    let u := (begun cmdCfgRegionStop p s).modFab (dieUnitOf p) fun f => f.haltedAll l (param p 32 8 1 = 1)
    .done u u.fab[(dieUnitOf p).val].states := by
  rw [param, param, ← regionStop_args]
  rfl

theorem region_names {d : CmdDef} (h : Accepted d p s) (hf : ⟨0, 32, 0, 5, .names (· ≤ 16)⟩ ∈ d.fields p) : param p 32 0 5 ≤ 16 :=
  of_decide_eq_true (acceptCheck_names h.checks hf rfl)

/-- A region that may start is stopped, or runs (R230). -/
theorem regionStart_ready (h : Accepted cmdCfgRegionStart p s) :
    RegSt.stopped (s.fab[(dieUnitOf p).val].stateAt (param p 32 0 5)) = true ∨
      s.fab[(dieUnitOf p).val].stateAt (param p 32 0 5) = .running := by
  have hready := refuseIf_eq_none (firstOf_eq_none (acceptCheck_units h.checks) _ (.tail _ (.head _)))
  rw [show (applyJob cmdCfgRegionStart (Job.fresh .pcie p)).args = p.block from regionStart_args p] at hready
  exact RegSt.stopped_or_runs (Bool.or_eq_false_iff.mp hready).1

end

end Sys2Proof.Machine
end


section
/-! SUPPORT. Readback and probes (spec/07_fabric.md, R217 to R221; spec/08_configuration.md, R246; spec/19_command_reference.md, R489). -/

namespace Sys2Proof.Machine

/-! Writes of the Queen core to hive SRAM (10, R283). -/

theorem Mem.write_append (m : Mem) (a : Nat) (bs cs : Bytes) : m.write a (bs ++ cs) = (m.write a bs).write (a + bs.length) cs := by
  induction bs generalizing m a with
  | nil => rfl
  | cons b bs ih =>
    refine (ih (m.put a b) (a + 1)).trans ?_
    rw [List.length_cons, Nat.add_right_comm]
    rfl

section
variable {s : State} {x : Area}

theorem areaReached_queen (h : s.sramReached .queen) (hx : x.kind = .sram) (a len : Nat) : s.areaReached .queen x a len = true := by
  rw [State.areaReached, List.all_eq_true, areaUnits, hx]
  intro u hu
  obtain ⟨i, hi, rfl⟩ := List.mem_map.mp hu
  have hi := List.mem_range.mp (List.mem_filter.mp hi).1
  refine h _ ?_
  simp only [Fin.val_ofNat]
  omega

theorem areaWrite_queen (h : s.sramReached .queen) (hn : NoneSealed s) (hx : x.kind = .sram) (a : Nat) (bs : Bytes) (e : MemErr) :
    s.areaWrite .queen x a bs e = ⟨{ s with mem := s.mem.write a bs }, none, e⟩ := by
  have hfence : s.areaFenced x = false := by rw [State.areaFenced, Area.die, hx]; rfl
  rw [State.areaWrite, hfence, areaReached_queen h hx, hx, if_neg nofun, if_neg nofun, if_neg nofun, writeOpen_open hn,
    State.memoryChanged, hx]

/-- A write whose range holds the address of a physical error is cut there, and stores its bytes all the same. -/
theorem writeFor_queen (h : s.sramReached .queen) (hn : NoneSealed s) (hx : x.kind = .sram) (p : Pkt) (a : Nat) (bs : Bytes) :
    ∃ e, s.writeFor p .queen x a bs = ⟨{ s with mem := s.mem.write a bs }, none, e⟩ := by
  unfold State.writeFor
  split
  next => exact ⟨_, areaWrite_queen h hn hx a bs .ok⟩
  next n hcut =>
    have hle : n ≤ bs.length := by
      unfold errCut at hcut
      split at hcut
      next hin =>
        simp only [Bool.and_eq_true, decide_eq_true_eq] at hin
        have hn := Option.some.inj hcut
        omega
      next => exact nomatch hcut
    have hsplit : s.mem.write a bs = (s.mem.write a (bs.take n)).write (a + n) (bs.drop n) := by
      have happend := s.mem.write_append a (bs.take n) (bs.drop n)
      rwa [List.take_append_drop, List.length_take_of_le hle] at happend
    rw [areaWrite_queen h hn hx, hsplit]
    exact ⟨_, areaWrite_queen (s := { s with mem := s.mem.write a (bs.take n) }) h hn hx _ _ _⟩

end

/-! A readback goes on (R246, R489). -/

/-- The bytes of the frames that a readback copies next. -/
def Readback.next64 (x : Readback) (s : State) (b : Words) : Bytes :=
  bytesOfWords ((((readFrames b).drop x.frames).take 64).flatMap fun e => s.frameWords (Fin.ofNat 4 (fld b 36 30 2)) e.1 e.2)

/-- A readback that has copied 64 frames more. -/
def Readback.copied (x : Readback) (bs : Bytes) : Readback := { x with frames := x.frames + 64, bytes := x.bytes ++ bs }

section
variable {s : State} {x : Readback} {j : Job} {a : Area}

theorem copy_stores (h : s.sramReached .queen) (hn : NoneSealed s)
    (ha : areaFor (fld j.args 48 0 48 + x.bytes.length) (x.next64 s j.args).length = some a) (hk : a.kind = .sram) :
    let u := { s with mem := s.mem.write (fld j.args 48 0 48 + x.bytes.length) (x.next64 s j.args) }
    x.copy s j = if (readFrames j.args).length ≤ x.frames + 64 then
        (u.dropReadback x.key).commitDone j (x.copied (x.next64 s j.args)).words
      else { u with cfg := { u.cfg with readbacks := x.copied (x.next64 s j.args) :: u.cfg.readbacks.drop 1 } } := by
  obtain ⟨e, hw⟩ := writeFor_queen h hn hk j.p (fld j.args 48 0 48 + x.bytes.length) (x.next64 s j.args)
  unfold Readback.next64 at ha hw ⊢
  simp only [Readback.copy, ha, hw, lt_irrefl, decide_false, Bool.false_or, decide_eq_true_eq]
  rfl

theorem readbackStep_copies {l : List Readback} (hx : s.cfg.readbacks = x :: l) (hj : s.job? x.key = some j) (hs : s.queen.serves = true)
    (hc : s.queenClocked = true) (ha : s.rsc.hib = .awake) (hp : s.pdOn 2 = true)
    (hf : s.net.dies[(Fin.ofNat 4 (fld j.args 36 30 2) : Fin 4).val].fenced = false) (hb : hbmBytes ≤ fld j.args 48 0 48) :
    s.readbackStep = x.copy s j := by
  have hhbm : ¬ fld j.args 48 0 48 < hbmBytes := Nat.not_lt.mpr hb
  simp only [State.readbackStep, hx, hj, hs, hc, ha, hp, hf, hhbm, decide_true, decide_false, Bool.and_true, Bool.and_false, Bool.not_true,
    Bool.false_eq_true, if_false]

end

theorem Mem.write_wrote {s t : State} (hwf : s.mem.wf = true) {a : Nat} {bs : Bytes} (h : t.mem = s.mem.write a bs) : Wrote s t a bs := by
  rw [Wrote, h]
  exact ⟨fun i hi => Mem.byte_write_inside bs _ _ _ hwf hi, fun b hb => Mem.byte_write_outside bs _ _ _ hwf hb⟩

/-! `CFG_READBACK`. -/

section
variable {s : State} {p : Pkt}

/-- A field behind a block's first word is set without changing that word. -/
theorem setFld_first (ws : Words) {off lo : Nat} (h : 32 ≤ (off - 32) * 8 + lo) (width v : Nat) :
    (setFld ws off lo width v).take 1 = ws.take 1 := by
  obtain ⟨i, hi⟩ := Nat.exists_eq_succ_of_ne_zero (n := ((off - 32) * 8 + lo) / 32) (by omega)
  unfold setFld
  cases ws with
  | nil => simp [numWords]
  | cons w ws => simp [hi]

/-- A block's first word is applied as it stands where no field in it is clamped. -/
theorem appliedBlock_first {fs : List Field} (h : ∀ f ∈ fs, 32 ≤ f.pos ∨ ∀ v, f.applied v = v) (ws : Words) :
    (appliedBlock fs ws).take 1 = ws.take 1 := by
  induction fs generalizing ws with
  | nil => rfl
  | cons f fs ih =>
    obtain ⟨hf, hfs⟩ := List.forall_mem_cons.mp h
    refine (ih hfs _).trans ?_
    dsimp only
    rcases hf with hpos | hkeep
    · split
      · rfl
      · exact setFld_first ws hpos _ _
    · rw [if_pos (hkeep _)]

/-- What a readback copies is clamped, whether it reads the status block is not. -/
theorem readback_mode (p : Pkt) : fld (begunJob cmdCfgReadback p).args 32 0 1 = param p 32 0 1 := by
  have first (ws : Words) : fld ws 32 0 1 = bitsOf (wordsNum (ws.take 1)) 0 1 := rfl
  rw [param, first, first]
  refine congrArg (fun ws => bitsOf (wordsNum ws) 0 1) ?_
  refine appliedBlock_first (fun f hf => ?_) p.block
  simp only [cmdCfgReadback, List.mem_cons, List.not_mem_nil, or_false] at hf
  rcases hf with rfl | rfl | rfl | rfl
  · exact .inr fun _ => rfl
  · exact .inr fun _ => rfl
  · exact .inl (show 32 ≤ (40 - 32) * 8 + 0 by decide)
  · exact .inr fun _ => rfl

theorem readback_act (h : param p 32 0 1 = 0) : cmdCfgReadback.act (begunJob cmdCfgReadback p) (begun cmdCfgReadback p s) =
    .stay { begun cmdCfgReadback p s with cfg := { s.cfg with readbacks := s.cfg.readbacks ++ [⟨⟨.pcie, p.tag⟩, 0, []⟩] } } := by
  show readbackAct _ _ = _
  rw [readbackAct, readback_mode, h]
  rfl

theorem readback_status (h : param p 32 0 1 = 1) :
    cmdCfgReadback.act (begunJob cmdCfgReadback p) (begun cmdCfgReadback p s) = .done (begun cmdCfgReadback p s) s.cfgStatus := by
  show readbackAct _ _ = _
  rw [readbackAct, readback_mode, h]
  rfl

/-! `CFG_PROBE_SET` (R221). -/

/-- A capture that a block arms. -/
def Capture.armedBy (b : Words) : Capture :=
  { Capture.reset with
    st := .armed, trigger := fld b 96 8 1 = 1, trigEvent := BitVec.ofNat 3 (fld b 96 12 3)
    base := BitVec.ofNat 48 (fld b 104 0 48), logLen := BitVec.ofNat 5 (fld b 112 0 5)
    post := BitVec.ofNat 32 (fld b 116 0 32) }

/-- A capture that is given up, if it takes samples. -/
def Capture.givenUp (c : Capture) : Capture := if c.busy then { c with st := .idle, fifo := [] } else c

/-- A capture as a block arms it, gives it up or leaves it. -/
def Capture.set (b : Words) (c : Capture) : Capture :=
  match fld b 96 0 2 with
  | 1 => Capture.armedBy b
  | 2 => c.givenUp
  | _ => c

/-- What `CFG_PROBE_SET` replies: the state of the capture, and the ring slot that it takes next. -/
def Capture.words (c : Capture) : Words :=
  [BitVec.ofNat 32 c.st.code, if c.st = .armed then BitVec.ofNat 32 (c.index % 2 ^ c.logLen.toNat) else 0xFFFFFFFF]

namespace Capture

variable {b : Words} {c : Capture}

theorem set_kept (h : fld b 96 0 2 = 0) : c.set b = c := by
  rw [Capture.set, h]
  rfl

theorem set_armed (h : fld b 96 0 2 = 1) : c.set b = armedBy b := by
  rw [Capture.set, h]
  rfl

theorem set_givenUp (h : fld b 96 0 2 = 2) : c.set b = c.givenUp := by
  rw [Capture.set, h]
  rfl

/-- The first sample takes slot 0 of the ring. -/
theorem armedBy_words (b : Words) : (armedBy b).words = [1, 0] := by
  simp [words, armedBy, Capture.reset, CapSt.code]

theorem givenUp_idle (c : Capture) : c.givenUp.busy = false := by
  unfold givenUp
  split
  · rfl
  · exact Bool.eq_false_iff.mpr ‹_›

end Capture

/-- A die's fabric with its probe channels and its capture set. -/
def DieFab.probed (b : Words) (f : DieFab) : DieFab :=
  { f with probes := Vector.ofFn fun c : Fin 8 => probeOf b c.val, capture := f.capture.set b }

theorem probeSetAct_eq (j : Job) (s : State) : probeSetAct j s =
    let u := forAll (diePorts (packetDie j.p)) (fun n s => s.refreshPort n) (s.modFab (packetDie j.p) (DieFab.probed j.args))
    .done u u.fab[(packetDie j.p).val].capture.words := by
  unfold probeSetAct
  rfl

/-- The ports of the die follow, as a channel may have been directed to one or away from it. -/
theorem probeSetAct_pins {j : Job} {d : Fin 4} {b : Words} (hd : packetDie j.p = d) (hb : j.args = b) (s : State) : ∃ u,
    probeSetAct j s = .done u (s.fab[d.val].capture.set b).words ∧ PinsOnly (s.modFab d (DieFab.probed b)) u := by
  subst hd hb
  have hpins : PinsOnly _ (forAll (diePorts (packetDie j.p)) (fun n s => s.refreshPort n) (s.modFab (packetDie j.p) (DieFab.probed j.args))) :=
    .foldl (fun s n => s.refreshPort_pins n) _ _
  rw [probeSetAct_eq]
  generalize forAll _ _ _ = u at hpins
  refine ⟨u, ?_, hpins⟩
  dsimp only
  rw [hpins.fab, State.modFab_fab, upd_get_same]
  rfl

theorem fetch_probes (h : Accepted cmdCfgProbeSet p s) : ∃ t, cmdCfgProbeSet.fetch p s = t ∧
    Completed cmdCfgProbeSet p s t (s.fab[(packetDie p).val].capture.set (applied cmdCfgProbeSet p)).words ∧
    t.fab = upd s.fab (packetDie p) (DieFab.probed (applied cmdCfgProbeSet p)) := by
  obtain ⟨u, hact, hpins⟩ := probeSetAct_pins (j := begunJob cmdCfgProbeSet p) (d := packetDie p) rfl (begunJob_applied _ p)
    (begun cmdCfgProbeSet p s)
  have hqueen : u.queen = (begun cmdCfgProbeSet p s).queen := by rw [show u = _ from hpins]; rfl
  have hhif : u.hif = (s.consume p).hif := by rw [show u = _ from hpins]; rfl
  obtain ⟨q, hfetch, hc⟩ := fetch_ends h hact hqueen hhif
  exact ⟨_, hfetch, hc, hpins.fab⟩

end

/-- Settles O46: regions by those that a command acts on; a readback by the batch it copies; probes by what the command sets on its die. -/
theorem regionsAndReadback : Obligations.RegionsAndReadback := by
  refine ⟨fun s p => ⟨fun h => ?starts, fun h hrun => ?stops, fun h hrun => ?stands⟩,
    fun s p => ⟨fun h hst => ?status, fun h hst => ?begins, fun h => ?probes⟩,
    fun s x l j a hx he hk hs hc haw hp hf hn hwf hb ha har hre => ?batch⟩
  case starts =>
    obtain ⟨t, ht, hc, hfab, hrest⟩ := fetch_setsFab h regionStart_act
    refine ⟨t, congrArg Host.Outcome.next ht, hc, hrest, ?_, ?_, fun k hk hout => ?_⟩ <;> rw [hfab]
    · rcases regionStart_ready h with hst | hst
      · exact DieFab.stateAt_actsOn _ (region_names h (.head _)) hst
      · rw [DieFab.actsOn_none (by rw [hst]; rfl)]
        exact hst
    · exact DieFab.setStates_regs _ _ _
    · exact DieFab.stateAt_outside _ hk hout
  case stops =>
    obtain ⟨t, ht, hc, hfab, hrest⟩ := fetch_setsFab h regionStop_act
    refine ⟨t, congrArg Host.Outcome.next ht, hc, hrest, ?_, fun hfrozen => ?_, fun k hk hout => ?_⟩ <;> rw [hfab]
    · rw [DieFab.haltedAll_stateAt, DieFab.stateAt_actsOn _ (region_names h (.head _)) (by rw [hrun]; rfl)]
      simp only [decide_eq_true_eq]
    · rw [hfrozen]
      exact DieFab.haltedAll_frozen_regs _ _
    · rw [DieFab.haltedAll_stateAt]
      exact DieFab.stateAt_outside _ hk hout
  case stands =>
    obtain ⟨t, ht, hc, hfab, hrest⟩ := fetch_setsFab h regionStop_act
    have hnone : s.fab[(dieUnitOf p).val].actsOn (param p 32 0 5) RegSt.runs = [] :=
      DieFab.actsOn_none (decide_eq_false hrun)
    have hstates : t.fab[(dieUnitOf p).val].states = s.fab[(dieUnitOf p).val].states := by
      rw [hfab, hnone]
      unfold DieFab.haltedAll
      dsimp only
      split <;> rfl
    exact ⟨t, congrArg Host.Outcome.next ht, hstates ▸ hc, hrest⟩
  case status =>
    obtain ⟨hc, hrest⟩ := fetch_reads h (readback_status hst)
    exact ⟨_, rfl, hc, hrest⟩
  case begins =>
    exact ⟨_, congrArg Host.Outcome.next (fetch_stay h (readback_act hst)), stillRuns_of h rfl rfl, rfl, rfl⟩
  case probes =>
    obtain ⟨t, hfetch, hc, hfab⟩ := fetch_probes h
    generalize applied cmdCfgProbeSet p = b at hc hfab
    have hown : t.fab[(packetDie p).val] = s.fab[(packetDie p).val].probed b := by rw [hfab, upd_get_same]
    refine ⟨t, _, congrArg Host.Outcome.next hfetch, hc, fun c => ?_, fun h0 => ?_, fun h1 => ?_, fun h2 => ?_, fun e he => ?_⟩
    · rw [hown]
      exact Vector.getElem_ofFn _
    · rw [hown]
      exact Capture.set_kept h0
    · rw [hown, DieFab.probed, Capture.set_armed h1]
      exact ⟨rfl, rfl, rfl, Capture.armedBy_words b⟩
    · rw [hown, DieFab.probed, Capture.set_givenUp h2]
      exact Capture.givenUp_idle _
    · rw [hfab]
      exact upd_get_other _ _ _ _ he.symm
  case batch =>
    have hcopy := (readbackStep_copies hx (hk ▸ he.held) hs hc haw hp hf hb).trans (copy_stores hre hn ha har)
    refine ⟨?_, fun hmore => ?_, fun hlast => ?_⟩
    · refine Mem.write_wrote hwf ?_
      rw [hcopy]
      split
      · rw [show State.commitDone _ _ _ = _ from State.commitDone_answers _ _ _]
        rfl
      · rfl
    · rw [hcopy, if_neg (Nat.not_le.mpr hmore), hx]
      exact ⟨rfl, rfl⟩
    · rw [hcopy, if_pos hlast]
      generalize hu : State.dropReadback _ _ = u
      have hqueen : u.queen = s.queen := by rw [← hu]; rfl
      have hcfg : u.cfg = { s.cfg with readbacks := s.cfg.readbacks.filter fun y => !sameKey y.key x.key } := by rw [← hu]; rfl
      have hcalm : u.abortAsked j.key = false := by rw [State.abortAsked, hqueen]; exact he.calm
      refine ⟨commitDone_ended he.path he.kept hcalm (by rw [hqueen]) (by rw [hqueen]) _, ?_⟩
      rw [show State.commitDone _ _ _ = _ from State.commitDone_answers _ _ _, ← hk]
      exact hcfg

end Sys2Proof.Machine
end


section
/-! SUPPORT. Results of a word cell (spec/07_fabric.md, R195 to R198). -/

namespace Sys2Proof.Machine

/-! Words as numbers. -/

theorem s16_toNat (x : BitVec 16) : s16 x.toNat = x.toInt := by
  have hx := x.isLt
  rw [s16, signedOf, Nat.mod_eq_of_lt hx, BitVec.toInt_eq_toNat_cond]
  split <;> split <;> omega

theorem unsignedOf_ofInt (z : Int) : unsignedOf 16 z % 65536 = (BitVec.ofInt 16 z).toNat := by
  rw [unsignedOf, BitVec.toNat_ofInt]
  omega

/-- What a comparison gives. -/
abbrev allOnesIf (c : Prop) [Decidable c] : BitVec 16 := if c then 0xFFFF else 0

theorem mask_toNat {b : Bool} {c : Prop} [Decidable c] (h : b = true ↔ c) : (if b then 65535 else 0 : Nat) = (allOnesIf c).toNat := by
  simp only [allOnesIf, h]
  split <;> rfl

theorem cellResult_noMultiplier {e : Nat} {i : CellIn} (hlo : 0x18 ≤ bitsOf e 26 6) (hhi : bitsOf e 26 6 ≤ 0x1A) (hm : i.mult = false) :
    cellResult e i = ((0 : BitVec 16).toNat, false) := by
  obtain hop | hop | hop : bitsOf e 26 6 = 0x18 ∨ bitsOf e 26 6 = 0x19 ∨ bitsOf e 26 6 = 0x1A := by omega
  all_goals
    simp only [cellResult, hop, hm]
    rfl

/-- A cell whose entry takes the operand `Y` from input B and no carry, and its inputs A and `Y` as words. -/
structure PlainCell (e : Nat) (a y : BitVec 16) (i : CellIn) : Prop where
  inA     : i.a = a.toNat
  inB     : i.b = y.toNat
  operand : bitsOf e 24 2 = 0
  carry   : bitsOf e 17 2 = 0

namespace PlainCell

variable {e : Nat} {a y : BitVec 16} {i : CellIn} (h : PlainCell e a y i)
include h

theorem move (hop : bitsOf e 26 6 = 0x00) : cellResult e i = (y.toNat, false) := by
  have hy := y.isLt
  simp only [cellResult, hop, h.operand, h.inB, Nat.mod_eq_of_lt hy]

theorem add (hop : bitsOf e 26 6 = 0x01) : cellResult e i = ((a + y).toNat, decide (65536 ≤ a.toNat + y.toNat)) := by
  simp only [cellResult, hop, h.operand, h.carry, h.inA, h.inB, b2n, Bool.false_eq_true, if_false, Nat.add_zero, BitVec.toNat_add]

theorem sub (hop : bitsOf e 26 6 = 0x02) : cellResult e i = ((a - y).toNat, decide (y.toNat ≤ a.toNat)) := by
  have hy := y.isLt
  have ha := a.isLt
  simp only [cellResult, hop, h.operand, h.carry, h.inA, h.inB, b2n, if_true, BitVec.toNat_sub]
  refine Prod.ext ?_ (decide_eq_decide.mpr ?_) <;> omega

theorem and_ (hop : bitsOf e 26 6 = 0x03) : cellResult e i = ((a &&& y).toNat, false) := by
  simp only [cellResult, hop, h.operand, h.inA, h.inB, ← BitVec.toNat_and, Nat.mod_eq_of_lt (BitVec.isLt _)]

theorem or_ (hop : bitsOf e 26 6 = 0x04) : cellResult e i = ((a ||| y).toNat, false) := by
  simp only [cellResult, hop, h.operand, h.inA, h.inB, ← BitVec.toNat_or, Nat.mod_eq_of_lt (BitVec.isLt _)]

theorem xor_ (hop : bitsOf e 26 6 = 0x05) : cellResult e i = ((a ^^^ y).toNat, false) := by
  simp only [cellResult, hop, h.operand, h.inA, h.inB, ← BitVec.toNat_xor, Nat.mod_eq_of_lt (BitVec.isLt _)]

theorem andn (hop : bitsOf e 26 6 = 0x06) : cellResult e i = ((a &&& ~~~y).toNat, false) := by
  have hn : 65535 - y.toNat = (~~~y).toNat := by rw [BitVec.toNat_not]
  simp only [cellResult, hop, h.operand, h.inA, h.inB, hn, ← BitVec.toNat_and, Nat.mod_eq_of_lt (BitVec.isLt _)]

theorem shl (hop : bitsOf e 26 6 = 0x09) : cellResult e i = ((a <<< (y.toNat % 16)).toNat, false) := by
  simp only [cellResult, hop, h.operand, h.inA, h.inB, BitVec.toNat_shiftLeft]

theorem shr (hop : bitsOf e 26 6 = 0x0A) : cellResult e i = ((a >>> (y.toNat % 16)).toNat, false) := by
  simp only [cellResult, hop, h.operand, h.inA, h.inB, ← BitVec.toNat_ushiftRight, Nat.mod_eq_of_lt (BitVec.isLt _)]

theorem sar (hop : bitsOf e 26 6 = 0x0B) : cellResult e i = ((a.sshiftRight (y.toNat % 16)).toNat, false) := by
  simp only [cellResult, hop, h.operand, h.inA, h.inB, s16_toNat, unsignedOf_ofInt, BitVec.sshiftRight, Int.shiftRight_eq_div_pow,
    Nat.cast_pow, Nat.cast_ofNat]

theorem rol (hop : bitsOf e 26 6 = 0x0C) : cellResult e i = ((a.rotateLeft (y.toNat % 16)).toNat, false) := by
  have hright : a.toNat >>> (16 - y.toNat % 16) % 2 ^ 16 = a.toNat >>> (16 - y.toNat % 16) :=
    Nat.mod_eq_of_lt ((Nat.shiftRight_le _ _).trans_lt a.isLt)
  have hrot := Nat.or_mod_two_pow (a := a.toNat <<< (y.toNat % 16)) (b := a.toNat >>> (16 - y.toNat % 16)) (n := 16)
  rw [hright] at hrot
  simp only [cellResult, hop, h.operand, h.inA, h.inB, BitVec.toNat_rotateLeft, Nat.mod_mod]
  exact congrArg (Prod.mk · false) hrot

/-! Comparisons: all ones where they hold (R197). -/

theorem equal (hop : bitsOf e 26 6 = 0x10) : cellResult e i = ((allOnesIf (a = y)).toNat, false) := by
  simp only [cellResult, hop, h.operand, h.inA, h.inB]
  exact congrArg (Prod.mk · false) (mask_toNat (by simp [BitVec.toNat_inj]))

theorem unequal (hop : bitsOf e 26 6 = 0x11) : cellResult e i = ((allOnesIf (a ≠ y)).toNat, false) := by
  simp only [cellResult, hop, h.operand, h.inA, h.inB]
  exact congrArg (Prod.mk · false) (mask_toNat (by simp [BitVec.toNat_inj]))

theorem below (hop : bitsOf e 26 6 = 0x12) : cellResult e i = ((allOnesIf (a.toNat < y.toNat)).toNat, false) := by
  have hy := y.isLt
  simp only [cellResult, hop, h.operand, h.carry, h.inA, h.inB, b2n, if_true]
  exact congrArg (Prod.mk · false) (mask_toNat (by rw [decide_eq_true_eq]; omega))

theorem atLeast (hop : bitsOf e 26 6 = 0x13) : cellResult e i = ((allOnesIf (y.toNat ≤ a.toNat)).toNat, false) := by
  have hy := y.isLt
  simp only [cellResult, hop, h.operand, h.carry, h.inA, h.inB, b2n, if_true]
  exact congrArg (Prod.mk · false) (mask_toNat (by rw [decide_eq_true_eq]; omega))

theorem belowSigned (hop : bitsOf e 26 6 = 0x14) : cellResult e i = ((allOnesIf (a.toInt < y.toInt)).toNat, false) := by
  simp only [cellResult, hop, h.operand, h.carry, h.inA, h.inB, b2n, if_true, s16_toNat]
  exact congrArg (Prod.mk · false) (mask_toNat (by rw [decide_eq_true_eq]; omega))

theorem atLeastSigned (hop : bitsOf e 26 6 = 0x15) : cellResult e i = ((allOnesIf (y.toInt ≤ a.toInt)).toNat, false) := by
  simp only [cellResult, hop, h.operand, h.carry, h.inA, h.inB, b2n, if_true, s16_toNat]
  exact congrArg (Prod.mk · false) (mask_toNat (by rw [decide_eq_true_eq]; omega))

/-! Products, where the cell multiplies (R198). -/

theorem mulLow (hop : bitsOf e 26 6 = 0x18) (hm : i.mult = true) : cellResult e i = ((a * y).toNat, false) := by
  simp only [cellResult, hop, h.operand, h.inA, h.inB, hm, if_true, BitVec.toNat_mul]

theorem mulHigh (hop : bitsOf e 26 6 = 0x19) (hm : i.mult = true) :
    cellResult e i = ((BitVec.ofNat 16 (a.toNat * y.toNat / 65536)).toNat, false) := by
  simp only [cellResult, hop, h.operand, h.inA, h.inB, hm, if_true, BitVec.toNat_ofNat]

theorem mulSigned (hop : bitsOf e 26 6 = 0x1A) (hm : i.mult = true) :
    cellResult e i = ((BitVec.ofInt 16 (a.toInt * y.toInt / 65536)).toNat, false) := by
  simp only [cellResult, hop, h.operand, h.inA, h.inB, hm, if_true, s16_toNat, unsignedOf_ofInt]

end PlainCell

end Sys2Proof.Machine
end


section
/-! SUPPORT. What a fabric cycle changes (spec/07_fabric.md, R193, R201, R207 to R210, R216 to R220; spec/10_hive_network_and_ndenu.md, R293). -/

namespace Sys2Proof.Machine

/-! What a die's cycle reaches outside the fabric. -/

/-- Nothing has changed but events, Workers, ports, Laravo links and what is put out. -/
def Outside (s t : State) : Prop := t = { s with ev := t.ev, workers := t.workers, ports := t.ports, swarm := t.swarm, out := t.out }

theorem Outside.refl (s : State) : Outside s s := rfl

theorem Outside.trans {s t u : State} (h : Outside s t) (k : Outside t u) : Outside s u := Eq.trans k (by rw [show t = _ from h])

theorem Outside.ite {s t u : State} {c : Prop} [Decidable c] (h : Outside s t) (k : Outside s u) : Outside s (if c then t else u) := by
  split <;> assumption

theorem Outside.foldl {ι : Type} {f : State → ι → State} (hf : ∀ s i, Outside s (f s i)) (l : List ι) (s : State) :
    Outside s (l.foldl f s) := foldl_rel .refl .trans hf l s

theorem PinsOnly.outside {s t : State} (h : PinsOnly s t) : Outside s t := by
  rw [show t = _ from h]
  rfl

theorem State.raise_outside (s : State) (e : Fin 256) (sev unit det : Nat) : Outside s (s.raise e sev unit det) :=
  (s.raise_pins e sev unit det).outside

theorem State.modWorker_outside (s : State) (w : Fin 32) (f : Worker → Worker) : Outside s (s.modWorker w f) := rfl

theorem State.modPort_outside (s : State) (n : Fin 128) (f : PortSt → PortSt) : Outside s (s.modPort n f) := rfl

theorem State.emit_outside (s : State) (o : Output) : Outside s (s.emit o) := rfl

theorem State.emitLink_outside (s : State) (l : Fin 16) (o : Output) : Outside s (s.emitLink l o) := rfl

theorem State.takeWfin_outside (s : State) (d : Fin 4) : Outside s (s.takeWfin d) := .foldl (fun s _ => s.modWorker_outside _ _) _ s

theorem State.fireMembers_outside (s : State) (g : Fin 8) (origin : Byte) : Outside s (s.fireMembers g origin) :=
  (Outside.foldl (fun s w => .ite (s.modWorker_outside w _) (.refl s)) _ s).trans (State.raise_outside _ _ _ _ _)

theorem State.fireGroups_outside (s : State) (mask : Byte) : Outside s (s.fireGroups mask) := by
  unfold State.fireGroups
  refine .ite (.refl s) ?_
  have fired := Outside.foldl (fun s g => s.fireMembers_outside g s.swarm.id) ((allFin 8).filter fun g => mask.getLsbD g.val) s
  refine (fired.trans ?_).trans (.foldl (fun s l => s.emitLink_outside l _) _ _)
  rfl

theorem State.fabricEvents_outside (s : State) (d : Fin 4) (l : List (Fin 8 × Nat)) : Outside s (s.fabricEvents d l) :=
  .foldl (fun s _ => .ite (s.raise_outside _ _ _ _) ((s.raise_outside _ _ _ _).trans (State.fireGroups_outside _ _))) l s

theorem State.sideBand_outside (s : State) (d : Fin 4) : Outside s (s.sideBand d) :=
  .foldl (fun s n => .ite (s.drive_pins n _ _).outside (.refl s)) _ s

theorem State.slipPulses_outside (s : State) (d : Fin 4) : Outside s (s.slipPulses d) := by
  unfold State.slipPulses
  exact .foldl (fun s n => .ite (s.modPort_outside n _) (.refl s)) _ s

theorem State.probeFrames_outside (s : State) (d : Fin 4) : Outside s (s.probeFrames d) := by
  unfold State.probeFrames
  exact .foldl (fun s _ => .ite (s.emit_outside _) (.refl s)) _ s

/-! What a die's cycle changes. -/

/-- Nothing has changed but what a fabric cycle may change: the fabric, device memory, and what it reaches outside them. -/
def Within (s t : State) : Prop :=
  t = { s with mem := t.mem, fab := t.fab, ev := t.ev, workers := t.workers, ports := t.ports, swarm := t.swarm, out := t.out }

theorem Within.refl (s : State) : Within s s := rfl

theorem Within.trans {s t u : State} (h : Within s t) (k : Within t u) : Within s u := Eq.trans k (by rw [show t = _ from h])

theorem Within.net {s t : State} (h : Within s t) : t.net = s.net := by rw [show t = _ from h]

/-- A part of a cycle of die `d`, which leaves the fabric of the other dies. -/
structure OnDie (d : Fin 4) (s t : State) : Prop where
  rest   : Within s t
  others : ∀ e : Fin 4, e ≠ d → t.fab[e.val] = s.fab[e.val]

theorem OnDie.trans {d : Fin 4} {s t u : State} (h : OnDie d s t) (k : OnDie d t u) : OnDie d s u :=
  ⟨h.rest.trans k.rest, fun e he => (k.others e he).trans (h.others e he)⟩

theorem State.modFab_onDie (s : State) (d : Fin 4) (F : DieFab → DieFab) : OnDie d s (s.modFab d F) :=
  ⟨rfl, fun _ he => upd_get_other _ _ _ _ he.symm⟩

/-- A die's fabric has changed in its edge words and its capture alone. -/
def DieFab.Edges (f g : DieFab) : Prop :=
  g = { f with fabIrq := g.fabIrq, edgeSeen := g.edgeSeen, capture := g.capture, edgeIn := g.edgeIn }

/-- A part of a cycle of die `d` that computes no register: of the fabric it changes the edge words and the capture of that die. -/
structure AtEdge (d : Fin 4) (s t : State) : Prop extends OnDie d s t where
  own : (s.fab[d.val]).Edges t.fab[d.val]

theorem AtEdge.trans {d : Fin 4} {s t u : State} (h : AtEdge d s t) (k : AtEdge d t u) : AtEdge d s u :=
  ⟨h.toOnDie.trans k.toOnDie, Eq.trans k.own (by rw [show t.fab[d.val] = _ from h.own])⟩

theorem Outside.atEdge {d : Fin 4} {s t : State} (h : Outside s t) : AtEdge d s t := by
  have hfab : t.fab = s.fab := by rw [show t = _ from h]
  refine ⟨⟨?_, fun e _ => by rw [hfab]⟩, by rw [hfab]; rfl⟩
  rw [show t = _ from h]
  rfl

theorem State.modFab_atEdge (s : State) (d : Fin 4) {F : DieFab → DieFab} (hF : ∀ f, DieFab.Edges f (F f)) : AtEdge d s (s.modFab d F) := by
  refine ⟨s.modFab_onDie d F, ?_⟩
  rw [State.modFab_fab, upd_get_same]
  exact hF _

theorem State.fabricLines_atEdge (s : State) (d : Fin 4) (seen : BitVec 64) : AtEdge d s (s.fabricLines d seen) := by
  unfold State.fabricLines
  refine AtEdge.trans (s.modFab_atEdge d fun _ => ?_) (Outside.foldl (fun s _ => s.modWorker_outside _ _) _ _).atEdge
  rfl

theorem State.capture_atEdge (s : State) (d : Fin 4) (trigger : Bool) : AtEdge d s (s.capture d trigger) := by
  unfold State.capture
  dsimp only
  split
  · exact (Outside.refl s).atEdge
  · exact s.modFab_atEdge d fun _ => rfl

theorem State.clearPulses_atEdge (s : State) (d : Fin 4) : AtEdge d s (s.clearPulses d) := s.modFab_atEdge d fun _ => rfl

/-- What ends a die's cycle: a sample of its capture, the frames of its probes, and the pulses that are over. -/
theorem cycleTail_atEdge (s : State) (d : Fin 4) (trigger : Bool) : AtEdge d s (((s.capture d trigger).probeFrames d).clearPulses d) :=
  ((s.capture_atEdge d trigger).trans (State.probeFrames_outside _ d).atEdge).trans (State.clearPulses_atEdge _ d)

/-! A die's cycle (R193). -/

/-- A die's fabric has counted a cycle and holds these registers; its configuration and its count of RAM errors stand. -/
structure DieFab.Computed (regs : List (Nat × BitVec 32)) (f g : DieFab) : Prop where
  count : g.fabCycle = f.fabCycle + 1
  cfg   : g.cfg = f.cfg
  regs  : g.regs = regs
  ceRam : g.ceRam = f.ceRam

theorem DieFab.Computed.edges {regs : List (Nat × BitVec 32)} {f g h : DieFab} (k : g.Edges h) (c : f.Computed regs g) : f.Computed regs h := by
  rw [show h = _ from k]
  exact ⟨c.count, c.cfg, c.regs, c.ceRam⟩

theorem State.fabricIdle_counts (s : State) (d : Fin 4) :
    OnDie d s (s.fabricIdle d) ∧ (s.fab[d.val]).Computed (s.fab[d.val]).regs (s.fabricIdle d).fab[d.val] := by
  unfold State.fabricIdle
  dsimp only
  generalize hu : s.modFab d (fun f => { f with fabCycle := f.fabCycle + 1, edgeSeen := [] }) = u
  have hon : OnDie d s u := hu ▸ s.modFab_onDie d _
  have hown : (s.fab[d.val]).Computed (s.fab[d.val]).regs u.fab[d.val] := by
    rw [← hu, State.modFab_fab, upd_get_same]
    exact ⟨rfl, rfl, rfl, rfl⟩
  have edge (trigger : Bool) := ((u.takeWfin_outside d).atEdge (d := d)).trans
    ((State.fabricLines_atEdge _ d 0).trans (cycleTail_atEdge _ d trigger))
  exact ⟨hon.trans (edge _).toOnDie, hown.edges (edge _).own⟩

theorem State.fabricDie_computes (s : State) (d : Fin 4) (regs : List (Nat × BitVec 32)) (writes : List (Nat × Nat))
    (hoop : List (Nat × BitVec 16)) :
    OnDie d s (s.fabricDie d regs writes hoop) ∧ (s.fab[d.val]).Computed regs (s.fabricDie d regs writes hoop).fab[d.val] := by
  unfold State.fabricDie
  dsimp only
  generalize writes.foldl (fun (m : Mem) w => m.putWord w.1 (BitVec.ofNat 32 w.2)) s.mem = m
  generalize hu : State.modFab { s with mem := m } d _ = u
  have hon : OnDie d s u := hu ▸ ⟨rfl, (State.modFab_onDie { s with mem := m } d _).others⟩
  have hown : (s.fab[d.val]).Computed regs u.fab[d.val] := by
    rw [← hu, State.modFab_fab, upd_get_same]
    exact ⟨rfl, rfl, rfl, rfl⟩
  have edge (lines : BitVec 64) (seen : List (Nat × Nat × Nat)) (ev : List (Fin 8 × Nat)) (trigger : Bool) :=
    AtEdge.trans (u.modFab_atEdge d (F := fun f => { f with edgeSeen := seen }) fun _ => rfl)
      ((State.takeWfin_outside _ d).atEdge.trans ((State.fabricLines_atEdge _ d lines).trans
        (((State.fabricEvents_outside _ d ev).trans ((State.sideBand_outside _ d).trans (State.slipPulses_outside _ d))).atEdge.trans
          (cycleTail_atEdge _ d trigger))))
  exact ⟨hon.trans (edge _ _ _ _).toOnDie, hown.edges (edge _ _ _ _).own⟩

/-! A cycle of the four dies. -/

/-- What a fabric cycle that begins in a state does to die `d`. -/
def State.cycleDie (s : State) (sb : BitVec 128) (t : State) (d : Fin 4) : State :=
  if !s.fabricRuns d then t.crossGoOn d
  else if s.fab[d.val].cfgSt = .unconfigured then t.fabricIdle d
  else t.fabricDie d (s.dieStep d sb).1 (s.dieStep d sb).2 (s.hoopNow d)

/-- The state behind a fabric cycle, but for the errors that it counts. -/
def State.cycled (s : State) (sb : BitVec 128) : State := ((allFin 4).foldl (s.cycleDie sb) s).crossDone

theorem exec_fabricCycle (s : State) (sb : BitVec 128) (ecc : List RamErr) (cross : List CrossErr) : exec (.fabricCycle sb ecc cross) s =
    .next (cross.foldl State.countCross
      ((ecc.filterMap fun e => (s.eccTarget sb e).map fun a => (e, a)).foldl (fun t e => t.countEcc e.1 e.2)
        ((cross.foldl State.deliverCross (ecc.foldl (fun s e => s.storeEcc sb e) s)).cycled sb))) := rfl

/-- What a fabric cycle that begins in a state makes of a die's fabric. -/
def State.DieCycled (s : State) (sb : BitVec 128) (d : Fin 4) (f g : DieFab) : Prop :=
  if s.fabricRuns d then f.Computed (if s.fab[d.val].cfgSt = .unconfigured then f.regs else (s.dieStep d sb).1) g
  else g = { f with cross := if s.hiveClocked = true ∧ s.rsc.hib = .awake then crossSnapshot f :: f.cross.take 11 else f.cross }

theorem State.DieCycled.ceRam {s : State} {sb : BitVec 128} {d : Fin 4} {f g : DieFab} (h : s.DieCycled sb d f g) : g.ceRam = f.ceRam := by
  unfold State.DieCycled at h
  split at h
  · exact h.ceRam
  · rw [h]

theorem crossGoOn_goes {s t : State} (h : Within s t) (d : Fin 4) : OnDie d t (t.crossGoOn d) ∧
    (t.crossGoOn d).fab[d.val] = { t.fab[d.val] with
      cross := if s.hiveClocked = true ∧ s.rsc.hib = .awake then crossSnapshot t.fab[d.val] :: t.fab[d.val].cross.take 11
        else t.fab[d.val].cross } := by
  have hclock : t.hiveClocked = s.hiveClocked := by rw [show t = _ from h]; rfl
  have hhib : t.rsc.hib = s.rsc.hib := by rw [show t = _ from h]
  unfold State.crossGoOn
  rw [hclock, hhib]
  by_cases hc : s.hiveClocked = true ∧ s.rsc.hib = .awake
  · simp only [hc, and_self, if_true, decide_true, Bool.and_self]
    exact ⟨t.modFab_onDie d _, upd_get_same _ _ _⟩
  · rw [if_neg (by simpa using hc), if_neg hc]
    exact ⟨⟨.refl t, fun _ _ => rfl⟩, rfl⟩

theorem cycleDie_cycled {s t : State} (h : Within s t) (sb : BitVec 128) (d : Fin 4) :
    OnDie d t (s.cycleDie sb t d) ∧ s.DieCycled sb d t.fab[d.val] (s.cycleDie sb t d).fab[d.val] := by
  unfold State.cycleDie State.DieCycled
  cases s.fabricRuns d with
  | false => exact crossGoOn_goes h d
  | true =>
    simp only [Bool.not_true, Bool.false_eq_true, if_false, if_true]
    split
    · exact t.fabricIdle_counts d
    · exact t.fabricDie_computes d _ _ _

theorem foldl_dies {s : State} {f : State → Fin 4 → State} {R : Fin 4 → DieFab → DieFab → Prop}
    (hf : ∀ {t}, Within s t → ∀ d, OnDie d t (f t d) ∧ R d t.fab[d.val] (f t d).fab[d.val]) {l : List (Fin 4)} (hl : l.Nodup) :
    ∀ {t}, Within s t → Within s (l.foldl f t) ∧ ∀ d, (d ∈ l → R d t.fab[d.val] (l.foldl f t).fab[d.val]) ∧
      (d ∉ l → (l.foldl f t).fab[d.val] = t.fab[d.val]) := by
  induction l with
  | nil => exact fun h => ⟨h, fun d => ⟨fun hd => absurd hd List.not_mem_nil, fun _ => rfl⟩⟩
  | cons e l ih =>
    intro t h
    obtain ⟨he, hl⟩ := List.nodup_cons.mp hl
    obtain ⟨hon, hR⟩ := hf h e
    obtain ⟨hrest, hdies⟩ := ih hl (h.trans hon.rest)
    refine ⟨hrest, fun d => ⟨fun hd => ?_, fun hd => ?_⟩⟩
    · by_cases hde : d = e
      · subst hde
        rw [List.foldl_cons, (hdies d).2 he]
        exact hR
      · rw [← hon.others d hde]
        exact (hdies d).1 ((List.mem_cons.mp hd).resolve_left hde)
    · obtain ⟨hde, hd⟩ := not_or.mp (mt List.mem_cons.mpr hd)
      exact ((hdies d).2 hd).trans (hon.others d hde)

theorem crossDone_clears (s : State) : Within s s.crossDone ∧ ∀ d : Fin 4, s.crossDone.fab[d.val] = { s.fab[d.val] with crossBad := [] } := by
  obtain ⟨hrest, hdies⟩ := foldl_dies (R := fun _ f g => g = { f with crossBad := [] })
    (f := fun t d => t.modFab d fun f => { f with crossBad := [] }) (fun {t} _ d => ⟨t.modFab_onDie d _, upd_get_same _ _ _⟩)
    (List.nodup_finRange 4) (Within.refl s)
  exact ⟨hrest, fun d => (hdies d).1 (List.mem_finRange d)⟩

/-- A fabric cycle changes each die by itself, from the instant before it (R193). -/
theorem cycled_dies (s : State) (sb : BitVec 128) : Within s (s.cycled sb) ∧
    ∀ d : Fin 4, ∃ g, s.DieCycled sb d s.fab[d.val] g ∧ (s.cycled sb).fab[d.val] = { g with crossBad := [] } := by
  obtain ⟨hrest, hdies⟩ := foldl_dies (R := s.DieCycled sb) (fun h d => cycleDie_cycled h sb d) (List.nodup_finRange 4) (Within.refl s)
  obtain ⟨hdone, hclear⟩ := crossDone_clears ((allFin 4).foldl (s.cycleDie sb) s)
  exact ⟨hrest.trans hdone, fun d => ⟨_, (hdies d).1 (List.mem_finRange d), hclear d⟩⟩

end Sys2Proof.Machine
end


section
/-! SUPPORT. Errors that a fabric cycle meets, and captures that end (spec/07_fabric.md, R206, R218; spec/10_hive_network_and_ndenu.md, R292,
R297, R298). -/

namespace Sys2Proof.Machine

theorem exec_fabricCycle_clean (s : State) (sb : BitVec 128) : exec (.fabricCycle sb [] []) s = .next (s.cycled sb) := by
  simp only [exec_fabricCycle, List.filterMap_nil, List.foldl_nil]

/-! Errors of cell RAM (R206). -/

section
variable {s : State} {sb : BitVec 128} {e : RamErr} {a : Nat}

theorem cycled_ceRam (s : State) (sb : BitVec 128) (d : Fin 4) : (s.cycled sb).fab[d.val].ceRam = s.fab[d.val].ceRam := by
  obtain ⟨g, hg, hd⟩ := (cycled_dies s sb).2 d
  rw [hd]
  exact hg.ceRam

theorem storeEcc_fab (s : State) (sb : BitVec 128) (e : RamErr) : (s.storeEcc sb e).fab = s.fab := by
  unfold State.storeEcc
  split <;> rfl

theorem exec_fabricCycle_ecc (h : s.eccTarget sb e = some a) :
    exec (.fabricCycle sb [e] []) s = .next (((s.storeEcc sb e).cycled sb).countEcc e a) := by
  simp only [exec_fabricCycle, List.filterMap_cons, List.filterMap_nil, h, Option.map_some, List.foldl_cons, List.foldl_nil]

theorem countEcc_corrected (h : e.stored = none) (t : State) : (t.countEcc e a).fab[e.d.val].ceRam = satAdd t.fab[e.d.val].ceRam 1 := by
  rw [State.countEcc, h]
  exact congrArg DieFab.ceRam (upd_get_same t.fab e.d fun f => { f with ceRam := satAdd f.ceRam 1 })

theorem countEcc_uncorrectable {w : Word} (h : e.stored = some w) (t : State) :
    (t.countEcc e a).fab = t.fab ∧ (t.countEcc e a).ev.src[(dieEvent e.d 36).val].active = true := by
  rw [State.countEcc, h]
  exact ⟨State.raise_fab _ _ _ _ _, State.raise_active _ _ _ _ _⟩

end

/-! Crossing groups whose CRC-8 fails (10, R292, R297, R298). -/

section
variable {s : State} {sb : BitVec 128} {e : CrossErr}

theorem deliverCross_net (s : State) (e : CrossErr) : (s.deliverCross e).net = s.net := by
  unfold State.deliverCross
  dsimp only
  split <;> rfl

theorem cycled_net (s : State) (sb : BitVec 128) (e : CrossErr) : ((s.deliverCross e).cycled sb).net = s.net :=
  (cycled_dies _ sb).1.net.trans (deliverCross_net s e)

theorem exec_fabricCycle_cross (s : State) (sb : BitVec 128) (e : CrossErr) :
    exec (.fabricCycle sb [] [e]) s = .next (((s.deliverCross e).cycled sb).countCross e) := by
  simp only [exec_fabricCycle, List.filterMap_nil, List.foldl_cons, List.foldl_nil]

theorem countCross_holds (h : crossFails e = false) (t : State) : t.countCross e = t := by
  rw [State.countCross, h, Bool.not_false, Bool.or_true, if_pos rfl]

theorem DieLink.degraded_stands {x : DieLink} (h : x.degraded = true) : x = { x with degraded := true } := by
  rw [← h]

/-- A link that reaches a threshold is DEGRADED, whether it was before or not. -/
theorem degrade_die (s : State) (d : Fin 4) (cause count : Nat) :
    (s.degrade d cause count).net.dies[d.val] = { s.net.dies[d.val] with degraded := true } := by
  unfold State.degrade
  split
  next h => exact DieLink.degraded_stands h
  next =>
    dsimp only
    rw [State.degradedEvent, State.raise_net]
    exact upd_get_same s.net.dies d _

theorem countCross_fails (s : State) (hc : s.carriesGroup e.d e.group = true) (h : crossFails e = true) :
    (s.countCross e).net.dies[e.d.val] = { s.net.dies[e.d.val] with
      crossErr := upd s.net.dies[e.d.val].crossErr e.group fun c => satAdd c 1
      winCross := s.net.dies[e.d.val].winCross + 1, degraded := true } := by
  rw [State.countCross, hc, h]
  refine (degrade_die _ _ _ _).trans ?_
  have hdie := upd_get_same s.net.dies e.d fun x => { x with
    crossErr := upd x.crossErr e.group fun c => satAdd c 1, winCross := x.winCross + 1 }
  exact congrArg (fun x : DieLink => { x with degraded := true }) hdie

end

/-! A capture that ends (R218). -/

theorem exec_captureComplete {s : State} {d : Fin 4} (hst : s.fab[d.val].capture.st = .triggered) (hl : s.fab[d.val].capture.left = 0)
    (hq : s.fab[d.val].capture.fifo = []) : ∃ det, exec (.captureComplete d) s =
      .next ((s.modFab d fun f => { f with capture := { f.capture with st := .done } }).raiseDie d 39 0 d.val det) :=
  ⟨_, congrArg Host.Outcome.next (if_pos (by simp [hst, hl, hq]))⟩

/-- Settles O47: a cell by its operations, a cycle by what it makes of each die, an error by how it is counted. -/
theorem fabricResults : Obligations.FabricResults := by
  refine ⟨fun e a y i ha hb ho hc => ?cell, fun s => ⟨fun sb => ?cycle, fun sb e a he hw => ?corrected, fun sb e a w he hw => ?uncorrectable,
    fun sb e hc hf => ?holds, fun sb e hc hf => ?fails, fun d hst hl hq => ?capture⟩⟩
  case cell =>
    have h : PlainCell e a y i := ⟨ha, hb, ho, hc⟩
    exact ⟨h.move, h.add, h.sub, h.and_, h.or_, h.xor_, h.andn, h.shl, h.shr, h.sar, h.rol, h.equal, h.unequal, h.below, h.atLeast,
      h.belowSigned, h.atLeastSigned, h.mulLow, h.mulHigh, h.mulSigned, cellResult_noMultiplier⟩
  case cycle =>
    refine ⟨s.cycled sb, exec_fabricCycle_clean s sb, fun d => ?_⟩
    obtain ⟨g, hg, hd⟩ := (cycled_dies s sb).2 d
    rw [hd]
    unfold State.DieCycled at hg
    refine ⟨fun hstands => ?_, fun hruns => ?_⟩
    · rw [hstands, if_neg nofun] at hg
      rw [hg]
    · rw [hruns, if_pos rfl] at hg
      exact ⟨hg.count, hg.cfg, hg.regs⟩
  case corrected =>
    refine ⟨_, exec_fabricCycle_ecc he, ?_⟩
    rw [countEcc_corrected hw, cycled_ceRam, storeEcc_fab]
  case uncorrectable =>
    obtain ⟨hfab, hevent⟩ := countEcc_uncorrectable (a := a) hw ((s.storeEcc sb e).cycled sb)
    refine ⟨_, exec_fabricCycle_ecc he, ?_, hevent⟩
    rw [hfab, cycled_ceRam, storeEcc_fab]
  case holds =>
    refine ⟨_, exec_fabricCycle_cross s sb e, ?_⟩
    rw [countCross_holds hf, cycled_net]
  case fails =>
    have hnet := cycled_net s sb e
    have hcarries : ((s.deliverCross e).cycled sb).carriesGroup e.d e.group = true := by
      rw [State.carriesGroup, hnet]
      exact hc
    refine ⟨_, exec_fabricCycle_cross s sb e, ?_⟩
    rw [countCross_fails _ hcarries hf, hnet]
    exact ⟨rfl, rfl, upd_get_same _ _ _⟩
  case capture =>
    obtain ⟨det, hx⟩ := exec_captureComplete hst hl hq
    refine ⟨_, hx, ?_, State.raise_raised (by rfl) _ _ _ _, ?_⟩
    · rw [State.raiseDie, State.raise_fab, State.modFab_fab, upd_get_same]
    · rw [State.raiseDie, State.raise_rest]
      rfl

end Sys2Proof.Machine
end
